-- ==== Sys2Proof/Word.lean ====
section
/-! DEFINITION. The word types and the two plain containers every unit of the model is built from. -/

namespace Sys2Proof

/-- One byte of memory or of a message. -/
abbrev Byte := BitVec 8

/-- A byte string, in increasing address order. -/
abbrev Bytes := List Byte

/-- A register of 32 bits (R10). -/
abbrev W32 := BitVec 32

/-- A register of 64 bits (R10). -/
abbrev W64 := BitVec 64

/-- A numbered set of like things (registers with instances, queues, tables): the instances that differ
from the kind's default, sorted by number. -/
abbrev Tbl (α : Type) := List (Nat × α)

namespace Tbl

/-- The instance numbered `k`, or the default of its kind. -/
def get {α : Type} (t : Tbl α) (d : α) (k : Nat) : α :=
  match t with
  | [] => d
  | (j, v) :: r => if j = k then v else get r d k

/-- Replace instance `k`, keeping the numbers rising. -/
def set {α : Type} (t : Tbl α) (k : Nat) (v : α) : Tbl α :=
  match t with
  | [] => [(k, v)]
  | (j, u) :: r =>
    if j = k then (k, v) :: r
    else if k < j then (k, v) :: (j, u) :: r
    else (j, u) :: set r k v

end Tbl

end Sys2Proof
end

