-- ==== Sys2Proof/Machine/Types.lean ====
section
/-! DEFINITION. The names and operand shapes of the commands: who accesses, what a read brings back, the packets,
messages and settings that cross Fraiz's boundary (R12, R13, R20). -/

namespace Sys2Proof

/-- The two parts (R2). -/
inductive Part where
  | v3s | v3x
  deriving DecidableEq, Repr

/-- Who makes a register access: a host function, which is one partition (R350), or a tailor core (R490). -/
inductive Who where
  | fn (p : Fin 16)
  | core (k : Fin 8)
  deriving DecidableEq, Repr

/-- The causes a failing request reports (R202, field ECODE). -/
inductive ECode where
  | none | unassigned | grant | hostUr | hostCa | hostTimeout | poison | peer
  /-- A closed port (R449), for which R202 gives no code; `k` numbers the free value that stands for it. -/
  | port (k : Nat)
  deriving DecidableEq, Repr

/-- What a read brings back: bytes, or a bus error with its cause. A read of device memory that the model holds
takes its bytes from the model's memory, and the bytes given here are then not looked at. -/
inductive Reply where
  | data (b : Bytes)
  | error (e : ECode)
  deriving DecidableEq, Repr

/-- What a write brings back (R35). -/
inductive WReply where
  | done
  | error (e : ECode)
  deriving DecidableEq, Repr

/-- An exact value (R241): a NaN, an infinity, or `n / d x 2^e` with a sign; `n = 0` is a signed zero. -/
inductive Val where
  | nan
  | inf (neg : Bool)
  | fin (neg : Bool) (n d : Nat) (e : Int)
  deriving DecidableEq, Repr

/-- The kinds of access of R105 and of the fault record (R144). -/
inductive Acc where
  | read | write | atomic | rmw | ringRead
  deriving DecidableEq, Repr

/-- The atomic operations of R277 and R348. -/
inductive AtomOp where
  | add | swap | cas
  deriving DecidableEq, Repr

/-- A request presented for translation: a new one of a tile engine, or one that a unit of Fraiz already holds. -/
inductive XReq where
  /-- Engine `e` (0 matrix, 1 vector, 2 embedding, 3 trace port) of tile `t`. -/
  | tile (t : Fin 64) (e : Fin 4) (va : BitVec 57) (acc : Acc) (len : Nat) (data : Bytes) (op : AtomOp) (x y : W64)
  /-- The request numbered `id`. -/
  | held (id : Nat)
  deriving DecidableEq, Repr

/-- A memory request that arrives untranslated: of a tailor core, or one a unit holds in bound mode (R97). -/
inductive BReq where
  | core (k : Fin 8) (addr : BitVec 57) (acc : Acc) (len : Nat) (data : Bytes) (op : AtomOp) (x y : W64)
  | tile (t : Fin 64) (e : Fin 4) (addr : BitVec 57) (acc : Acc) (len : Nat) (data : Bytes) (op : AtomOp) (x y : W64)
  | held (id : Nat)
  deriving DecidableEq, Repr

/-- How a page-table entry comes back to a walker: from the home, or, in the coherent window, as the lining directory
has answered (R111); or with an error (R128). -/
inductive TblReply where
  | home
  | error (e : ECode)
  deriving DecidableEq, Repr

/-- A completion of an ATS Translation Request (R116). -/
inductive AtsCpl where
  /-- Translated address, log2 of the range's bytes, R, W and U bits. -/
  | ok (addr : BitVec 64) (size : Fin 58) (r w u : Bool)
  | failed
  deriving DecidableEq, Repr

/-- The codes of a PRG Response (R151). -/
inductive PrgCode where
  | success | invalid | failure
  deriving DecidableEq, Repr

/-- What a peer read or atomic asks: the requester's number of it, and its length (R277). -/
structure Ask where
  id  : Nat
  len : Nat
  deriving DecidableEq, Repr

/-- What a peer completion names: the device it is for, the request's number, and where its bytes lie in the request (R277, R284). -/
structure CplHead where
  dst : BitVec 10
  id  : Nat
  off : Nat
  deriving DecidableEq, Repr

/-- A writeback: the epoch its agent was in, and the line's data (R329, R336). -/
structure Writeback where
  epoch : Byte
  data  : Bytes
  deriving DecidableEq, Repr

/-- A completion of a host request: its bytes from `off` on, or an error (R364). -/
structure HostCpl where
  off   : Nat
  reply : Reply
  deriving DecidableEq, Repr

/-- A tile's power, as it goes or comes (R27). -/
structure TilePower where
  tile : Fin 64
  on   : Bool
  deriving DecidableEq, Repr

/-- A peer packet (R277), without its kind's own payload. -/
structure PktHead where
  dst      : BitVec 10
  src      : BitVec 10
  srcPart  : BitVec 4
  window   : BitVec 10
  offset   : BitVec 37
  stamp    : BitVec 48
  deriving DecidableEq, Repr

/-- Which half of a 64-bit register a read covers (R11). -/
inductive Half where
  | low | high | whole
  deriving DecidableEq, Repr

/-- What a BAR0 read falls on: a register that holds an RC field (R6, R8), or any other place. -/
inductive RcReg where
  | errCnt (j : Fin 16)
  | wstat (n : Fin 1024)
  | mlook (m : Fin 1024)
  | mfetch (m : Fin 1024)
  | lkaIssue | lkaUsed | lkaDisc | lkaWalks
  | linNbcast | linNrecall | linNcross
  | hostLate
  | trstat
  | recStat
  /-- Any other offset of the reader's BAR0 view, with the width of the access in bits (R10): a plain register, or none. -/
  | reg (off : BitVec 26) (width : Nat)
  deriving DecidableEq, Repr

/-- The uncached accesses that reach the lining directory (R315): line `line` of the request numbered `id`, or the proof
read `id` of compositor `n`'s lookahead. -/
inductive UReq where
  | held (id line : Nat)
  | proof (n : Fin 16) (id : Nat)
  deriving DecidableEq, Repr

/-- A response of an agent to a snoop (R321, R329, R333). -/
inductive SnpResp where
  /-- Data returned by a holder in M or O. -/
  | data (d : Bytes)
  /-- A holder in E or S that obeyed the snoop, without data. -/
  | clean
  | rspI
  | wbInFlight
  deriving DecidableEq, Repr

/-- A snoop response, with the epoch its agent was in (R321, R336). -/
structure SnpAns where
  epoch : Byte
  resp  : SnpResp
  deriving DecidableEq, Repr

/-- CXL.mem requests of a host agent (R333, R334). -/
inductive CxlOp where
  | memRdS | memRdA | memRdI | memRdData | memInvA | memInvI | memInvNT | memClnEvct | memSpecRd | memRdFwd | memWrFwd
  /-- MemWr or MemWrPtl; `fill`: the target of a write hint has a free fill buffer (R323). -/
  | memWr (d : Bytes) (en : List Bool) (fill : Bool)
  deriving DecidableEq, Repr

/-- The two banks of a tailor core, and the two of a host vector group (R380): bank 2 x target + class. -/
inductive BankId where
  | core (b : Fin 16)
  | host (p : Fin 16) (b : Fin 256)
  deriving DecidableEq, Repr

/-- The quota registers of a partition (R407 to R409). -/
inductive QuotaReg where
  | qa | qb | bw
  deriving DecidableEq, Repr

/-- Host configuration writes (R151, R351, R352, R354, R359, R362) and writes of the MSI-X table of BAR4. -/
inductive CfgWrite where
  | busMaster (on : Bool)
  | dstate (d3 : Bool)
  | cplTimeout (v : BitVec 4) (disable : Bool)
  | ats (on : Bool)
  | pri (on : Bool) (alloc : Nat)
  | pasid (on : Bool)
  /-- Device Control: Max Payload Size, Max Read Request Size, Relaxed Ordering, ID-Based Ordering of requests, and the
  10-bit and 14-bit Tag Requester enables (R348). -/
  | devControl (mps mrrs : BitVec 3) (ro ido tag10 tag14 : Bool)
  /-- Base address register `n` of the header, a 32-bit half of a 64-bit BAR (R355). -/
  | baseAddr (n : Fin 6) (v : W32)
  /-- VF base address register `n` of a physical function's SR-IOV capability. -/
  | vfBaseAddr (n : Fin 6) (v : W32)
  /-- AER: a 1 clears a bit of the Uncorrectable Error Status register. -/
  | aerClear (mask : W32)
  | atomicRequester (on : Bool)
  | tph (on : Bool) (vector : Bool)
  | msix (enable mask : Bool)
  | msixEntry (n : Fin 128) (mask : Bool) (addr : W64) (data : W32) (st : BitVec 16)
  | cxlHdmDb (on : Bool)
  /-- IDE stream `i` of the link: functions and BAR2 ranges it covers, and whether it is in its secure state. -/
  | ide (i : Fin 4) (rids : List (Fin 16)) (blocks : List (Nat × Nat)) (secure : Bool)
  deriving DecidableEq, Repr

/-- The link fields of FRZ_HOST_LSTAT that a link changes (R372). -/
structure LinkStat where
  up    : Bool
  l1    : Bool                         -- a low-power link state
  cxl   : Bool
  flit  : Bool
  bi    : Bool
  speed : BitVec 3
  width : BitVec 5
  deriving DecidableEq, Repr

/-- What a lookahead reads in proof (R259). -/
inductive ProofKind where
  | ring | record | stream | placement | row
  deriving DecidableEq, Repr

/-- A proof read a lookahead would make: what it reads, for which target (0 the running command), at which address,
and how many bytes of one granule. -/
structure ProofRead where
  kind   : ProofKind
  target : Fin 3
  addr   : BitVec 57
  len    : Nat
  deriving DecidableEq, Repr

/-- A read or write of FRZ_REC_DATA (R482). -/
inductive RecAccess where
  | read (h : Half)
  | write (v : W64)
  deriving DecidableEq, Repr

/-- Partition entries of an image's PARTS record (R398, R419). -/
structure PartCfg where
  pmode  : BitVec 2
  atsok  : Bool
  slots  : Nat
  pleat  : Nat
  cmp    : Nat
  walk   : Nat
  folio  : Nat
  tally  : Nat
  win    : Nat
  vec    : Nat
  trace  : Nat
  budget : Nat
  deriving DecidableEq, Repr

/-- The configuration header IDs and the Device Serial Number of an image's IDENT record (R353, R354, R419). -/
structure Ident where
  vendor    : BitVec 16 := 0
  device    : BitVec 16 := 0
  vfDevice  : BitVec 16 := 0
  ssVendor  : BitVec 16 := 0
  subsystem : BitVec 16 := 0
  rev       : Byte := 0
  serial    : W64 := 0
  deriving DecidableEq, Repr

/-- A configuration image as the flash holds it (R418, R419): its header, the kinds and lengths of its records, whether
its signature verifies under the key of the life-cycle state, and what its records set. -/
structure Image where
  answers   : Bool                     -- the flash answers
  magic     : W32
  format    : BitVec 16
  imgver    : BitVec 16
  len       : Nat
  recEnd    : Nat                      -- first byte after the END record
  sigOk     : Bool
  svn       : BitVec 16
  partByte  : Byte
  zeroOk    : Bool                     -- every field shown as 0 is 0
  /-- Type, payload length, and whether it lies within the first 64 KiB, in order. -/
  records   : List (Nat × Nat × Bool)
  ident     : Ident                    -- IDENT
  pll       : Bytes                    -- CLOCK: PLL loop settings and spread
  cal       : Bytes                    -- CAL: calibration blocks, handed to the PHYs
  portB     : Bool                     -- HOST
  bifA      : Bool
  bifB      : Bool
  cxlA      : Bool
  cxlB      : Bool
  pfBar     : Nat                      -- log2 of the PF BAR2 size
  vfBar     : Nat
  slpctl    : W32                      -- CLOCK
  deepok    : BitVec 26
  /-- PARTS: an entry for each partition, with every field present. -/
  parts     : List (Nat × PartCfg)
  partsFull : Bool
  /-- BOUND: range number, BBASE, BLIM. -/
  bound     : List (Nat × W64 × W64)
  peer      : BitVec 10                -- PEER
  routes    : List (Nat × BitVec 12)
  winBase   : Nat                      -- LINING: first address, in bytes
  winSize   : Nat                      -- GiB
  srcOwners : List (Nat × Nat)         -- OWNERS: source, partition
  talOwners : List (Nat × Nat)         -- OWNERS: tally, partition
  recMode   : Bool                     -- REC
  recSets   : List (Nat × Bytes)
  deriving DecidableEq, Repr

/-- The header of an amendment as Fraiz has copied it (R424). -/
structure Amendment where
  magic  : W32
  code   : Byte
  inst   : Byte
  drainT : BitVec 16
  seq    : W32
  len    : W32
  svn    : BitVec 16
  lcs    : Byte
  zeroOk : Bool
  hash   : Bytes                       -- the first 48 payload bytes: the owner key hash of a transition (R431)
  deriving DecidableEq, Repr

end Sys2Proof
end

