-- ==== Sys2Proof/Syntax.lean ====
section
/-! DEFINITION. The commands of the block: one constructor for each row of spec/opcode_table.json, with the row's
operands (who accesses, which queue, engine, window or line, and what comes from outside Fraiz). -/

namespace Sys2Proof

/-- One step of the block, as opcode_table.json lists them. Each constructor cites the rule of its row. -/
inductive Instr where
  /-- DOORBELL_WRITE (R60). An accepted write to a queue's doorbell proposes a new tail, and Galley updates TAIL, marks the queue READY or halts it according to the checks. -/
  | doorbellWrite (w : Who) (q : Fin 4096) (inc : Bool) (value : BitVec 16)
  /-- CHEAD_WRITE (R62). Software writes the completion head, freeing completion-ring positions and re-evaluating queues waiting for completion space. -/
  | cheadWrite (w : Who) (q : Fin 4096) (value : BitVec 16)
  /-- SLOT_GRANT (R76). Galley grants a free resident slot to the READY queue with the highest effective priority, restoring its state. -/
  | slotGrant
  /-- SLUG_FETCH (R71). A resident queue with HEAD different from TAIL issues one ring read of up to eight positions from HEAD. -/
  | slugFetch (q : Fin 4096)
  /-- RING_READ_RETURN (R71). Ring read data returns and the seals are checked, accepting the slug, scheduling a re-read, waiting for extensions or handling a fault or bus error. -/
  | ringReadReturn (q : Fin 4096) (r : Reply)
  /-- SEAL_REREAD (R66). The 64-cycle re-read timer expires and Galley issues the next re-read of the same ring positions. -/
  | sealReread (q : Fin 4096)
  /-- REREAD_RETURN (R66). A re-read returns; a full match accepts the slug, and the 64th mismatching re-read makes the queue torn. -/
  | rereadReturn (q : Fin 4096) (k : Fin 65) (r : Reply)
  /-- WAIT_CONDITION_CLEARED (R72). A WAITING queue is re-evaluated after a threshold event, a command end or a CHEAD write and becomes READY when its condition no longer holds. -/
  | waitConditionCleared (q : Fin 4096)
  /-- SLICE_END (R77). A slice expires and the resident queue leaves its slot when its partition has a READY queue, or when another partition below its slot quota has one. -/
  | sliceEnd (q : Fin 4096)
  /-- QCTL_ENABLE (R81). ENABLE moves a DISABLED queue to IDLE or READY, or sets ERR 0x09 when the configuration is invalid. -/
  | qctlEnable (w : Who)
  /-- QCTL_DISABLE (R81). DISABLE stops fetching and moves the queue to DRAINING. -/
  | qctlDisable (w : Who)
  /-- QCTL_RESUME (R81). RESUME takes a HALTED queue to READY or IDLE and clears ERR and REREADS. -/
  | qctlResume (w : Who)
  /-- QCTL_RESET (R81). RESET stops fetching and aborts every command of the queue that is in flight. -/
  | qctlReset (w : Who)
  /-- QUEUE_DRAINED (R81). A DRAINING queue with no command in flight becomes DISABLED, keeping its counters and phases. -/
  | queueDrained (q : Fin 4096)
  /-- QUEUE_RESET_DONE (R81). A RESETTING queue with no command in flight becomes DISABLED with its counters zeroed and its phases at 1. -/
  | queueResetDone (q : Fin 4096)
  /-- COMMAND_END (R85). When every write of a command has had its response, Galley sends the flushing read if one is needed, then writes the completion record. -/
  | commandEnd (q : Fin 4096) (pos : BitVec 16)
  /-- FLUSHING_READ_COMPLETE (R53). The flushing read completes, allowing the record to be written, or it fails and halts the queue with ERR 0x08. -/
  | flushingReadComplete (q : Fin 4096) (pos : BitVec 16) (ok : Bool)
  /-- RECORD_WRITE_RESPONSE (R85). The completion record's write response returns, after which CTINC is added to CTALLY and the ISRC line pulses. -/
  | recordWriteResponse (q : Fin 4096) (pos : BitVec 16) (r : WReply)
  /-- NOP (R65). Opcode 0x00 completes at commitment and does nothing. -/
  | nop (q : Fin 4096)
  /-- MARKER (R65). Opcode 0x01 completes once every earlier command of the queue has completed. -/
  | marker (q : Fin 4096)
  /-- INVALIDATE (R130). Opcode 0x50 issues one numbered invalidation from a queue and completes when that invalidation is complete. -/
  | invalidate (q : Fin 4096)
  /-- STAGE (R166). Opcode 0x30 stages an epoch record address into a table's idle slot. -/
  | stage (q : Fin 4096)
  /-- SWAP (R161). Opcode 0x31 commits the flips of up to 224 tables, which all take effect together. -/
  | swap (q : Fin 4096)
  /-- RETIRE (R166). Opcode 0x32 makes a table's current slot DRAINING and clears VALID. -/
  | retire (q : Fin 4096)
  /-- MOVE (R184). Opcode 0x10 is checked at commitment and then moves a four-dimensional source stream to a destination stream, with optional conversion. -/
  | move (q : Fin 4096)
  /-- PUT (R182). Opcode 0x11 writes the bytes carried in-line in its extensions to one destination line. -/
  | put (q : Fin 4096)
  /-- GATHER (R212). Opcode 0x20 pins a table and pools the rows that an index stream names into one result per bag. -/
  | gather (q : Fin 4096)
  /-- SCATTER (R217). Opcode 0x21 accumulates gradients per distinct row and applies an optimiser step to each row. -/
  | scatter (q : Fin 4096)
  /-- SWATCH (R223). Opcode 0x22 installs swatch entries for a STAGED slot, all of them or none. -/
  | swatch (q : Fin 4096)
  /-- TSET (R301). Opcode 0x40 writes a tally's COUNT and/or THRESH at commitment. -/
  | tset (q : Fin 4096)
  /-- TADD (R301). Opcode 0x41 sends a posted tally-add packet to the window that a peer-aperture address names. -/
  | tadd (q : Fin 4096)
  /-- WCOMMIT (R301). Opcode 0x42 commits a window's staging store from a queue, optionally waiting for DRAIN to reach 0. -/
  | wcommit (q : Fin 4096)
  /-- TRANSLATE (R110). A translated request probes its edge buffer and then the folio cache, and is issued on a hit or goes to a walker on a miss. -/
  | translate (x : XReq)
  /-- CONTEXT_SLOT_LOAD (R126). A request whose context is not resident obtains and loads a resident context slot once one qualifies. -/
  | contextSlotLoad (c : Fin 1024)
  /-- WALK_START (R113). A free walker is granted to a waiting miss within its partition's share, and the walk records the current invalidation number. -/
  | walkStart (w : Fin 48)
  /-- WALK_TABLE_READ_RETURN (R111). A page-table entry returns to a walker, which reads the next level, reaches a leaf, faults, or ends on a bus error. -/
  | walkTableReadReturn (w : Fin 48) (r : TblReply)
  /-- WALK_FILL (R121). A walk reaches its fill, which is kept or is discarded and restarted when a later invalidation has named the partition. -/
  | walkFill (w : Fin 48)
  /-- ATS_TRANSLATION_COMPLETION (R116). A completion of an ATS Translation Request is received and cached, or turned into a not-present or ATS-failure fault. -/
  | atsTranslationCompletion (w : Fin 48) (a : AtsCpl)
  /-- ATS_INVALIDATION_REQUEST (R119). An ATS Invalidation Request received on a host port is numbered and removes the matching leaves of the function's partition. -/
  | atsInvalidationRequest (p : Fin 16) (itag : Fin 32) (va : BitVec 57) (size : BitVec 6) (pasid : Option (BitVec 20)) (global : Bool)
  /-- INVCTL_PARTITION (R137). A write of FRZ_TRN_INVCTL with scope 0b00 issues a numbered invalidation of every context of a partition. -/
  | invctlPartition (w : Who) (part : BitVec 4)
  /-- INVCTL_CONTEXT (R137). A write of FRZ_TRN_INVCTL with scope 0b01 issues a numbered invalidation of one context. -/
  | invctlContext (w : Who) (part : BitVec 4) (ctx : BitVec 6)
  /-- INVCTL_RANGE (R137). A write of FRZ_TRN_INVCTL with scope 0b10 issues a numbered invalidation of a context range given by FRZ_TRN_INVADDR. -/
  | invctlRange (w : Who) (part : BitVec 4) (ctx : BitVec 6)
  /-- INVALIDATION_NUMBERING_RELEASE (R122). When the held fourth walk attempt fills or faults, invalidations that waited for a number are numbered. -/
  | invalidationNumberingRelease (p : Fin 16)
  /-- INVALIDATION_COMPLETE (R120). An invalidation whose entries are removed and whose users have finished becomes complete, INVDONE advances and any ATS Invalidation Completion is sent. -/
  | invalidationComplete
  /-- CTXCFG_WRITE (R135). A write of a context descriptor's configuration sets VALID, or clears it and thereby issues an invalidation of the context. -/
  | ctxcfgWrite (w : Who) (c : Fin 1024) (v : W64)
  /-- TBIND_WRITE (R99). A rewrite of a tile's binding empties the tile's edge buffer before the next request made under the new binding. -/
  | tbindWrite (w : Who) (t : Fin 64) (v : W32)
  /-- FAULT_ENTRY_ALLOCATE (R142). A fault waiting for a free entry takes the lowest free entry in raise order, and its deadline starts. -/
  | faultEntryAllocate (p : Fin 16)
  /-- FAULT_RECORD_ISSUE (R145). A RAISED entry finds a free fault-ring position and its 64-byte record write is issued. -/
  | faultRecordIssue (p : Fin 16)
  /-- FAULT_RECORD_DONE (R145). The fault record write succeeds and the entry becomes LOGGED, or fails and the entry ends unserviceable with RINGERR set. -/
  | faultRecordDone (p : Fin 16) (r : WReply)
  /-- FLT_RESP_RETRY (R148). A RETRY response naming a LOGGED entry makes it REPLAYING and starts the removal of the faulting page's leaves. -/
  | fltRespRetry (w : Who) (fid : BitVec 16)
  /-- FLT_RESP_ABORT (R148). An ABORT response naming a LOGGED entry ends it unserviceable with reason 1. -/
  | fltRespAbort (w : Who) (fid : BitVec 16)
  /-- REPLAY_REMOVAL_DONE (R149). The leaf removal for a REPLAYING entry completes and each joined requester retranslates its faulting request. -/
  | replayRemovalDone (p : Fin 16) (n : Fin 512)
  /-- FAULT_DEADLINE (R152). At a management-plane tick an entry that has existed for DEADLINE ticks ends unserviceable with reason 2. -/
  | faultDeadline (p : Fin 16)
  /-- PAGE_REQUEST_SEND (R151). A PRI-routed RAISED entry finds a free page-request allowance and a Page Request is sent, making the entry REQUESTED. -/
  | pageRequestSend (p : Fin 16)
  /-- PRG_RESPONSE (R151). A PRG Response received from the host replays the entry or ends it unserviceable, and a Response Failure sets PRIOFF. -/
  | prgResponse (p : Fin 16) (n : Fin 512) (c : PrgCode)
  /-- FLT_RCFG_WRITE (R169). A write of the fault-ring configuration sets DEADLINE, and setting EN resets TAIL, HEAD and the phase. -/
  | fltRcfgWrite (w : Who) (v : W32)
  /-- TREC_WRITE (R173). A write of a table's slot record register stages, replaces or unstages the idle slot's epoch record address. -/
  | trecWrite (w : Who) (t : Fin 512) (slotB : Bool) (v : W64)
  /-- EPOCH_FLIP (R161). 2 + ceil(N/32) cycles after a SWAP or RETIRE commits, its flips take effect together and held commitments of the tables proceed. -/
  | epochFlip (q : Fin 4096) (pos : BitVec 16)
  /-- SLOT_PURGING (R163). Two cycles after a DRAINING slot's pin count reaches 0, the slot enters PURGING. -/
  | slotPurging (p : Fin 16) (t : Fin 512) (slotB : Bool)
  /-- PURGE_SWEEP_START (R163). A purge sweep starts for every slot that is PURGING and not part of an earlier sweep, removing their row-cache entries. -/
  | purgeSweepStart
  /-- PURGE_SWEEP_END (R163). A sweep ends 1,536 cycles after it starts, its slots become FREE and the epoch-release source rises. -/
  | purgeSweepEnd
  /-- PLEAT_ASSIGN (R188). A committed MOVE or PUT takes an IDLE pleat engine within the partition's pleat share. -/
  | pleatAssign (q : Fin 4096) (pos : BitVec 16)
  /-- PLEAT_BURST_BEGIN (R189). An engine begins a burst of up to 16 destination granules, with at most 4 bursts begun and unwritten. -/
  | pleatBurstBegin (e : Fin 64)
  /-- PLEAT_READ_RETURN (R185). Source read data returns to the funnel, which writes destination granules, or a bus error halts the engine. -/
  | pleatReadReturn (e : Fin 64) (id : Nat) (r : Reply)
  /-- PLEAT_WRITE_RESPONSE (R190). A destination write response returns, and the last one returns the engine to IDLE and ends the command. -/
  | pleatWriteResponse (e : Fin 64) (id : Nat) (r : WReply)
  /-- PLT_CCTL_ABORT (R191). ABORT of a selected engine stops new bursts, or sets ABTPEND when the engine is stalled, or acts as RELEASE when it is halted. -/
  | pltCctlAbort (w : Who)
  /-- PLT_CCTL_RELEASE (R193). RELEASE ends a halted engine's command with status 0x05. -/
  | pltCctlRelease (w : Who)
  /-- PLT_CCTL_RETRY (R193). RETRY makes a halted engine re-enter RUNNING at the latched cursors. -/
  | pltCctlRetry (w : Who)
  /-- PLT_CCTL_DEFERRED (R193). A CCTL write that arrived while pre-halt requests were outstanding takes effect when they end. -/
  | pltCctlDeferred (e : Fin 64)
  /-- EPOCH_RECORD_READ (R208). A compositor's pinned epoch record returns and is checked for validity before any other read of the command. -/
  | epochRecordRead (n : Fin 16) (r : Reply)
  /-- STREAM_READ_RETURN (R214). Index, weight, offset, mask or gradient stream granules return to the coalescer, with offset entries checked as they arrive. -/
  | streamReadReturn (n : Fin 16) (id : Nat) (r : Reply)
  /-- PLACEMENT_READ_RETURN (R210). A placement entry returns and resolves the lookup to a segment slot or to masked. -/
  | placementReadReturn (n : Fin 16) (id : Nat) (r : Reply)
  /-- ROW_READ_RETURN (R221). Row data returns and each group's contribution is rounded to the grid and accumulated with its multiplicity. -/
  | rowReadReturn (n : Fin 16) (id : Nat) (r : Reply)
  /-- WINDOW_CLOSE (R218). A coalescer window closes and the frequency trackers and shard meters are updated with its distinct indices. -/
  | windowClose (n : Fin 16)
  /-- SCATTER_ROW_UPDATE (R227). After a window's gradients are accumulated, each distinct row is updated once by the optimiser step. -/
  | scatterRowUpdate (n : Fin 16)
  /-- RESULT_WRITE (R251). A finished bag's accumulators are rounded once to OFMT and the result is written in bag order. -/
  | resultWrite (n : Fin 16)
  /-- COMPOSITOR_WRITE_RESPONSE (R216). A result or row write response returns, and the last one ends the command. -/
  | compositorWriteResponse (n : Fin 16) (id : Nat) (r : WReply)
  /-- SKCFG_CLR (R239). A write of CLR to a frequency tracker sets every count and index to 0. -/
  | skcfgClr (w : Who) (k : Fin 16)
  /-- SKENT_READ (R239). A 64-bit read of a tracker entry returns it whole and advances ENTRY by 1. -/
  | skentRead (w : Who) (k : Fin 16)
  /-- READ_CLEAR_COUNTER_READ (R8). A read of an RC counter returns its value, clears it and latches the high half. -/
  | readClearCounterRead (w : Who) (r : RcReg) (h : Half)
  /-- PROOF_RING_READ_RETURN (R258). A lookahead's proof ring read returns, and a slug whose seal matches becomes a target. -/
  | proofRingReadReturn (n : Fin 16) (r : Reply)
  /-- PROOF_SEAL_RETRY (R258). 256 cycles after a proof seal mismatch, or at the next doorbell, the lookahead reads the position again. -/
  | proofSealRetry (n : Fin 16)
  /-- PROOF_READ_ISSUE (R260). A lookahead issues a proof read that passes the RD, SPEC and destination conditions, within the proof buffer's room. -/
  | proofReadIssue (n : Fin 16) (x : ProofRead)
  /-- PROOF_READ_RETURN (R262). Proof read data is placed in the proof buffer, or dropped when the result was discarded. -/
  | proofReadReturn (n : Fin 16) (id : Nat) (r : Reply)
  /-- PROOF_WALK_START (R261). A proof walk starts on a free walker when no committed miss waits and the walk limits allow it. -/
  | proofWalkStart (n : Fin 16) (w : Fin 48) (va : BitVec 57)
  /-- LKA_GCTL_WRITE (R271). A write of the device-wide lookahead control changes EN or PWMAX, discarding held results when lookahead is disabled. -/
  | lkaGctlWrite (w : Who) (v : W32)
  /-- LKA_CTL_WRITE (R272). A write of a partition's lookahead control changes its reach, discarding results beyond the new reach. -/
  | lkaCtlWrite (w : Who) (v : W32)
  /-- PEER_PACKET_SEND (R278). An outbound request is built into packets sent round-robin on the live route ports, or answered with a bus error when the peer is unreachable. -/
  | peerPacketSend (id : Nat)
  /-- INBOUND_WR (R287). An inbound peer write packet is decoded under the window's version, checked, and written at BASE plus offset. -/
  | inboundWr (port : Fin 12) (h : PktHead) (data : Bytes) (en : List Bool)
  /-- INBOUND_RD (R287). An inbound peer read request is checked and its bytes are returned in a CPL. -/
  | inboundRd (port : Fin 12) (h : PktHead) (q : Ask) (r : Reply)
  /-- INBOUND_ATM (R287). An inbound atomic is checked, performed indivisibly, and the old value is returned in a CPL. -/
  | inboundAtm (port : Fin 12) (h : PktHead) (q : Ask) (op : AtomOp) (x y : W64)
  /-- INBOUND_TADD (R287). An inbound tally-add packet is checked and its value is added to the window's tally. -/
  | inboundTadd (port : Fin 12) (h : PktHead) (v : BitVec 48)
  /-- INBOUND_CPL (R284). A peer completion returns data or an error to the outbound requester, or is dropped as late. -/
  | inboundCpl (port : Fin 12) (c : CplHead) (r : Reply)
  /-- INBOUND_WRITE_PERFORMED (R44). An inbound write's granules have been performed, so its tally addition is made and the window's DRAIN may fall. -/
  | inboundWritePerformed (id : Nat)
  /-- PEER_COMPLETION_TIMEOUT (R284). A non-posted peer request whose CPL has not returned within TMO microseconds ends with a bus error. -/
  | peerCompletionTimeout (id : Nat)
  /-- TAL_COUNT_WRITE (R294). A 64-bit write of a tally's COUNT replaces the count, clears SAT and evaluates REACHED. -/
  | talCountWrite (w : Who) (t : BitVec 16) (v : W64)
  /-- TAL_THR_WRITE (R294). A 64-bit write of a tally's threshold register evaluates REACHED and may send threshold events. -/
  | talThrWrite (w : Who) (t : BitVec 16) (v : W64)
  /-- TOWN_ASSIGN (R289). Partition 0 assigns a tally to a partition, zeroing it, or the action is refused. -/
  | townAssign (w : Who) (p : Fin 16) (t : BitVec 16)
  /-- TOWN_RELEASE (R289). Partition 0 releases an owned tally, zeroing it, or the action is refused. -/
  | townRelease (w : Who) (t : BitVec 16)
  /-- WINDOW_COMMIT (R298). A write of COMMIT checks the staged window values and refuses the commit or schedules it. -/
  | windowCommit (w : Who)
  /-- COMMIT_TAKES_EFFECT (R298). Four cycles after the commit is decoded, the staging store becomes live, VER rises and DRAIN takes the count of old-version packets. -/
  | commitTakesEffect (n : Fin 1024)
  /-- RDS (R331). An agent's request for a readable copy of a coherent-window line is served with S or E. -/
  | rds (a : Fin 74) (line : Nat)
  /-- RDX (R331). An agent's request for an owned copy of a line is served with E or M after snooping the other holders. -/
  | rdx (a : Fin 74) (line : Nat)
  /-- UPG (R330). An agent in S or O requests ownership without data, and the request is served as RDX when the agent's copy was invalidated. -/
  | upg (a : Fin 74) (line : Nat)
  /-- EVC (R331). An agent dropping S or E asks for its pointer to be removed. -/
  | evc (a : Fin 74) (line : Nat)
  /-- NAR (R322). An uncached non-allocating read returns the latest line, changing no state. -/
  | nar (u : UReq)
  /-- UWR (R320). An uncached write invalidates every copy, merges any owner data and performs the line at home, honouring any accepted write hint. -/
  | uwr (u : UReq) (fill : Bool)
  /-- ATM (R320). An uncached atomic on a window line invalidates the copies and is performed at home, returning the old value. -/
  | atm (u : UReq)
  /-- WBD (R329). A writeback from an agent leaving M or O is written home, or consumed by a crossing snoop, and WBACK is sent. -/
  | wbd (a : Fin 74) (line : Nat) (w : Writeback)
  /-- TRANSACTION_ADMIT (R326). A waiting directory transaction is admitted in arrival order once its line has no open transaction and its set has fewer than 15 pinned ways. -/
  | transactionAdmit (line : Nat)
  /-- SNOOP_RESPONSE (R321). An agent's response to SNPS, SNPI or SNPC arrives, with data, RSPI or RSPWBIF, and advances the open transaction. -/
  | snoopResponse (a : Fin 74) (line : Nat) (r : SnpAns)
  /-- HOME_WRITE_RESPONSE (R339). The home write of a directory transaction responds, and CMPW is sent and the pin released. -/
  | homeWriteResponse (line : Nat)
  /-- CXL_MEM_REQUEST (R333). A CXL.mem request from a host agent is served as the corresponding directory transaction, or is refused when it lies outside the window. -/
  | cxlMemRequest (b : Bool) (addr : BitVec 52) (op : CxlOp)
  /-- BICONFLICT (R333). A BIConflict from the host is answered with BIConflictAck after the completions for its earlier requests to the line. -/
  | biconflict (b : Bool) (line : Nat)
  /-- AGCTL_LEAVE (R336). LEAVE makes an agent inactive and starts a directory sweep that snoops its lines. -/
  | agctlLeave (w : Who) (a : BitVec 7)
  /-- AGCTL_JOIN (R344). JOIN makes an inactive agent active again. -/
  | agctlJoin (w : Who) (a : BitVec 7)
  /-- AGENT_SWEEP_END (R336). An agent sweep of all 131,072 sets ends and SYSEV.SWEEP is set. -/
  | agentSweepEnd
  /-- LIN_DISABLE (R338). Clearing FRZ_LIN_CTL.EN recalls every entry in one flushing sweep. -/
  | linDisable (w : Who)
  /-- FLUSH_SWEEP_END (R338). The disabling sweep ends, FLUSHING clears, and the window becomes ordinary tier 0. -/
  | flushSweepEnd
  /-- LIN_ENABLE (R338). Setting FRZ_LIN_CTL.EN removes every row-cache entry in the window's range and enables the window. -/
  | linEnable (w : Who)
  /-- LIN_PROBE (R345). A write of PRBA looks up a line and places a copy of its entry in PRBD within 16 cycles. -/
  | linProbe (w : Who) (addr : W64)
  /-- BAR2_WRITE (R357). A host posted write to BAR2 is checked and performed granule by granule. -/
  | bar2Write (p : Fin 16) (addr : BitVec 52) (data : Bytes) (en : List Bool)
  /-- BAR2_READ (R357). A host read of BAR2 is checked granule by granule and completed with data, Unsupported Request or Completer Abort. -/
  | bar2Read (p : Fin 16) (addr : BitVec 52) (len : Nat) (any : Bool)
  /-- BAR2_ATOMICOP (R357). A host AtomicOp to BAR2 is checked and performed under R34. -/
  | bar2Atomicop (p : Fin 16) (addr : BitVec 52) (op : AtomOp) (len : Nat) (x y : W64)
  /-- HOST_FENCE_READ (R51). A read of FRZ_HOST_FENCE completes only after every earlier posted write on the same link has finished. -/
  | hostFenceRead (w : Who)
  /-- HOST_COMPLETION (R364). A completion arriving on a host link is delivered, dropped as late for a quarantined tag, or reported as unexpected. -/
  | hostCompletion (link : Fin 4) (tag : Nat) (r : HostCpl)
  /-- COMPLETION_TIMEOUT (R363). A non-posted host request times out, ends according to its kind and has its tag quarantined. -/
  | completionTimeout (link : Fin 4) (tag : Nat)
  /-- TAG_QUARANTINE_END (R364). A quarantined tag's period ends and the tag may be reused. -/
  | tagQuarantineEnd (link : Fin 4) (tag : Nat)
  /-- VF_ENABLE (R351). Setting VF Enable presents VFs 1 to NumVFs, or is refused when NumVFs is above TotalVFs; clearing it resets every enabled VF. -/
  | vfEnable (link : Fin 4) (on : Bool) (num : Nat)
  /-- BAR_SIZE_WRITE (R356). A write of a new BAR2 size through Resizable BAR changes the BAR's coverage. -/
  | barSizeWrite (link : Fin 4) (vf : Bool) (size : Fin 64)
  /-- INITIATE_FLR (R368). Initiate FLR stops the function taking requests, aborts the partition's queues and commands, and disables its windows and tile bindings. -/
  | initiateFlr (p : Fin 16)
  /-- FLR_DRAIN_DONE (R368). When no request of the partition remains outstanding, the veil is raised and the partition's state is reset. -/
  | flrDrainDone (p : Fin 16)
  /-- FLR_DRAIN_TIMEOUT (R368). At 50 ms the partition's outstanding host requests are treated as timed out and its held tile-port requests are discarded. -/
  | flrDrainTimeout (p : Fin 16)
  /-- FLR_READY (R368). Step 5 of the function-level reset completes and the function becomes ready. -/
  | flrReady (p : Fin 16)
  /-- VEIL_REGION_WIPED (R369). The background wipe's last write response for a veiled 2 MiB region returns and the region leaves the veil. -/
  | veilRegionWiped (r : Nat)
  /-- FUNDAMENTAL_RESET (R367). PERST_A_N or PERST_B_N falls, resetting the port's layers and every function of the port. -/
  | fundamentalReset (b : Bool)
  /-- HOT_RESET (R367). An in-band hot reset or a link going down resets the functions of that link. -/
  | hotReset (link : Fin 4)
  /-- LINK_STATE_CHANGE (R377). A change of a link's status fields sets SYSEV.LINK and raises source 5. -/
  | linkStateChange (link : Fin 4) (st : LinkStat)
  /-- SOURCE_EDGE (R378). A rising edge on a source line sets its pending bit and is counted in its bank, which may then deliver. -/
  | sourceEdge (n : Fin 2048)
  /-- SOURCE_LINE_FALL (R378). A level source's line falls while MODE is 1, withdrawing it when it is pending and unclaimed. -/
  | sourceLineFall (n : Fin 2048)
  /-- COALESCE_TIME (R382). A normal bank's TIME expires after its first counted edge, and the bank delivers. -/
  | coalesceTime (b : BankId)
  /-- CLAIM (R384). A read of a bank's claim register returns its highest-priority eligible source and makes it active, or returns 0 and re-arms the bank. -/
  | claim (w : Who) (b : BankId)
  /-- SOURCE_COMPLETE (R384). A write of HDONE or TDONE naming an active source of the bank clears its active bit. -/
  | sourceComplete (w : Who) (b : BankId) (n : BitVec 11)
  /-- PEND_CLEAR (R378). Software clears a pending bit, withdrawing the source. -/
  | pendClear (w : Who) (k : Fin 64) (mask : W32)
  /-- TGT_WRITE (R380). A write of a source's target register changes EN or the static target, or assigns OWNER, with its checks. -/
  | tgtWrite (w : Who) (n : Fin 2048) (v : W32)
  /-- GCTL_WRITE (R382). A write of FRZ_IC_GCTL.DIS holds delivery, and clearing it makes every ready bank deliver, fast banks first. -/
  | gctlWrite (w : Who) (v : W32)
  /-- MSIX_HELD_SEND (R383). A held MSI-X message is sent once its mask or enable condition clears. -/
  | msixHeldSend (p : Fin 16) (e : Fin 128)
  /-- SYSEV_CLEAR (R377). Software writes 1 to FRZ_IC_SYSEV bits and the line of sources 2, 4 or 5 falls when none remain set. -/
  | sysevClear (w : Who) (mask : W32)
  /-- TCACT_WRITE (R397). A write of FRZ_PART_TCACT[k] sets the partition carried by tailor core k's later memory requests. -/
  | tcactWrite (w : Who) (k : Fin 8) (v : W32)
  /-- QUOTA_WRITE (R401). Partition 0 writes QA, QB or BW; nothing held is revoked, and a cut below use sets OVER and raises the over-quota source. -/
  | quotaWrite (w : Who) (p : Fin 16) (r : QuotaReg) (h : Half) (v : W64)
  /-- ACCOUNTING_PERIOD (R400). A 1 microsecond accounting period ends, carrying any excess charge and releasing held requests. -/
  | accountingPeriod
  /-- DOMAIN_ENTER_IDLE (R414). A domain that has been idle for IDLET × 64 cycles enters IDLE. -/
  | domainEnterIdle (d : Fin 26)
  /-- DOMAIN_ENTER_DEEP (R415). After DEEPT ticks in IDLE, a domain permitted to do so enters DEEP and empties its caches. -/
  | domainEnterDeep (d : Fin 26)
  /-- WAKE_REQUEST (R416). A wake request reaches AON for a sleeping domain and the wake sequence starts. -/
  | wakeRequest (d : Fin 26)
  /-- WAKE_COMPLETE (R416). The wake sequence ends with the retention check and the domain returns to RUN, releasing held work. -/
  | wakeComplete (d : Fin 26) (ok : Bool)
  /-- POWER_ON_RESET (R422). PORB_N rises, the power-cycle count rises and the flash read of the image is issued. -/
  | powerOnReset
  /-- IMAGE_HEADER_READ (R422). The first 64 KiB of the image have been read and the PLLs are started. -/
  | imageHeaderRead
  /-- PLL_LOCK (R422). The PLLs lock, the trace time base starts and the SRAM and scratchpad wipe begins. -/
  | pllLock
  /-- SRAM_WIPE_DONE (R422). The wipe of every Fraiz SRAM and tile scratchpad completes. -/
  | sramWipeDone
  /-- IMAGE_READ_DONE (R420). The last image byte is read, the signature is verified and the image is applied or found invalid. -/
  | imageReadDone (i : Image)
  /-- FUNCTIONS_READY (R422). The coherent window's wipe completes, the functions become ready and SYSEV.START is set. -/
  | functionsReady
  /-- AMENDMENT_GO (R426). A write of MBCTL.GO starts copying and hashing an amendment, or is refused while BUSY. -/
  | amendmentGo (w : Who) (v : W32)
  /-- AMENDMENT_VERIFY_DONE (R426). The amendment's signature and fields are checked and the unit's drain starts, or the amendment ends with its result. -/
  | amendmentVerifyDone (sigOk : Bool)
  /-- AMENDMENT_DRAIN_DONE (R426). The unit's held work has ended, its spine ports close, and the payload reload begins. -/
  | amendmentDrainDone
  /-- AMENDMENT_DRAIN_TIMEOUT (R426). The drain limit passes and the amendment ends with result 0x06, the unit returning to service unchanged. -/
  | amendmentDrainTimeout
  /-- AMENDMENT_RELOAD_DONE (R428). The reload completes and the unit becomes STALE, or fails and stays OUT with result 0x07. -/
  | amendmentReloadDone (ok : Bool)
  /-- UCTL_REJOIN (R440). A write of REJOIN moves an OUT unit whose error sources are clear to STALE. -/
  | uctlRejoin (w : Who)
  /-- UNIT_REJOIN (R429). A STALE unit has its epoch raised and its caches invalidated, then returns to IN with its pool or LIVE bit set. -/
  | unitRejoin (code inst : Byte)
  /-- LIFE_CYCLE_TRANSITION (R431). An amendment with CODE 0x7F takes the links down, aborts all work and starts the life-cycle wipe. -/
  | lifeCycleTransition
  /-- LIFE_CYCLE_WIPE_DONE (R432). The transition wipe ends, the new state and SVN minimum are stored, and a power-on reset follows. -/
  | lifeCycleWipeDone
  /-- OPERATING_HOURS_TICK (R433). Every 112,500,000 always-on ticks the operating-hours counter rises by 1 and is stored. -/
  | operatingHoursTick
  /-- ERROR_REPORT (R445). A source's pair shows an error, its sticky bit is latched and a handling interval starts for FENCE or DEVICE reactions. -/
  | errorReport (srcs : List (Fin 512)) (granule : Option Nat)
  /-- WIRE_FAULT (R443). A pair showing equal levels for 4 consecutive samples enters wire fault and is treated as an error of its source. -/
  | wireFault (n : Fin 512)
  /-- HANDLING_INTERVAL_END (R446). The 16-cycle handling interval ends and level reports still showing are latched. -/
  | handlingIntervalEnd
  /-- ERR_STAT_CLEAR (R452). A write of 1 clears a sticky bit only while the source's pair shows no error, reopening a fenced tile or tailor-core port. -/
  | errStatClear (w : Who) (k : Fin 16) (mask : W32)
  /-- HALT_CLEAR (R452). A write of 1 to GSTAT.HALT clears it only when every DEVICE source is clear and its unit is IN. -/
  | haltClear (w : Who)
  /-- FERR_DEASSERT (R450). At the first always-on tick with no asserting condition, after at least 4 ticks asserted, FERR is deasserted. -/
  | ferrDeassert
  /-- TRACE_DRAIN (R468). A buffer holding 64 records, or one whose oldest record has waited a tick, starts a drain on an IDLE pleat engine. -/
  | traceDrain (p : Fin 16) (buf : Fin 65)
  /-- TRACE_DRAIN_DONE (R468). The drained records are written and published by advancing TRPTR.TAIL, or the drain fails and DERR is set. -/
  | traceDrainDone (p : Fin 16) (ok : Bool)
  /-- TACK_GO (R472). A write of TKCTL.GO requests a tack snapshot, or is refused while BUSY. -/
  | tackGo (w : Who) (v : W32)
  /-- TACK_WATCHDOG (R472). No command has ended for WDOG ticks while work is committed, so the watchdog takes a snapshot. -/
  | tackWatchdog
  /-- TACK_CAPTURE (R472). In the first cycle with every domain in RUN, every unit copies its state into shadow registers and the write-out begins. -/
  | tackCapture
  /-- TACK_DONE (R472). The last write response of the snapshot write-out returns and DONE is set, with ERR set if the write-out failed. -/
  | tackDone (ok : Bool)
  /-- REC_FREEZE (R481). Writing FREEZE stops all recording within 4 cycles, and clearing it resumes recording. -/
  | recFreeze (w : Who) (on : Bool)
  /-- REC_SNAP (R480). A write of SNAP captures every enabled snapshot set into the ring. -/
  | recSnap (w : Who)
  /-- REC_CLRALL (R488). A write of CLRALL clears the bins, trackers 2 to 255 and the ring and stamps the header. -/
  | recClrall (w : Who)
  /-- SNAPSHOT_PERIOD (R480). A snapshot set's PERIOD expires in snapshot mode and the set is captured into the next slot. -/
  | snapshotPeriod (k : Fin 16)
  /-- REC_DATA_ACCESS (R482). A read or write of FRZ_REC_DATA accesses the recorder SRAM at the cursor and advances the cursor. -/
  | recDataAccess (w : Who) (a : RecAccess)
  /-- TEMP_CLRPEAK (R485). A write of CLRPEAK sets PEAK to the current temperature. -/
  | tempClrpeak (w : Who)
  /-- REGISTER_WRITE (R6). A BAR0 write to a register with no behaviour of its own stores or ignores its fields according to their access codes. -/
  | registerWrite (w : Who) (off : BitVec 26) (width : Nat) (v : W64)
  /-- BOUND_MODE_REQUEST (R107). A memory request from a tailor core, or from an engine of a bound-mode partition, arrives untranslated and is checked against the partition's bound ranges before it proceeds or returns a bus error. -/
  | boundModeRequest (x : BReq)
  /-- PORB_N_ASSERTED (R450). PORB_N falls (power-on reset asserted or power removed), every state is reset and the FERR pair is driven 0, 0. -/
  | porbNAsserted
  /-- PERST_DEASSERTED (R23). PERST_A_N or PERST_B_N rises, and the port's links may train once the device has started. -/
  | perstDeasserted (b : Bool)
  /-- HUPEN_PORT_TRAINED (R304). A Hupen port block's link trains and its FRZ_SEAM_PORTS.LIVE bit becomes 1, so routes may use it. -/
  | hupenPortTrained (i : Fin 12)
  /-- CONFIGURATION_WRITE (R151). A host configuration write changes a function's settings, such as Bus Master Enable, the D-state, Completion Timeout Value, ATS or PRI Enable (whose toggle clears PRIOFF), or the CXL DVSEC that enables HDM-DB. -/
  | configurationWrite (p : Fin 16) (c : CfgWrite)
  /-- SWATCH_READ_RETURN (R223). The reads of a SWATCH command's epoch record and list return, and the entries are installed all together or none, with the command's status. -/
  | swatchReadReturn (q : Fin 4096) (pos : BitVec 16) (r : Reply)
  /-- HOME_READ_RETURN (R331). A home read issued by the lining directory returns, and the data goes to the requester in CMPD or to the NAR. -/
  | homeReadReturn (line : Nat) (r : Reply)
  /-- H2D_SNOOP (R348). A CXL.cache H2D snoop arrives from the host and is answered with RspIHitI. -/
  | h2dSnoop (b : Bool) (addr : BitVec 64)
  /-- WIRE_FAULT_CLEARED (R443). A pair in wire fault shows opposite levels again, and its FRZ_ERR_WIRE bit returns to 0. -/
  | wireFaultCleared (n : Fin 512) (err : Bool)
  /-- TILE_POWERED_AGAIN (R27). A powered-down tile regains power, and the requests held in its tile port are delivered. -/
  | tilePoweredAgain (t : TilePower)
  deriving DecidableEq, Repr

end Sys2Proof
end

