-- ==== Sys2Proof/Decode.lean ====
section
/-! DEFINITION. Commands as words. The rows of spec/opcode_table.json give no bits: no word spells a command. -/

namespace Sys2Proof

/-- The command that a word of the table's bits spells: none, for no row has bits. -/
def decodeTableWord (_nbits _w : Nat) : Option Instr := none

end Sys2Proof
end

