-- ==== Sys2Proof/Config.lean ====
section
/-! DEFINITION. The free values of the model: what the spec leaves open, as constants without a body. -/

namespace Sys2Proof

/-- A byte whose value the spec leaves open, by the number of the use: the DW of a host read that enables no byte (R371). -/
opaque Config.freeByte : Nat → Byte

/-- Energy drawn in a step, in µJ, by the number of the use (R461 estimates it from weights whose form the spec does not
give). -/
opaque Config.freeEnergy : Nat → BitVec 48

/-- The hottest thermal sensor's reading, by the number of the use (R461). -/
opaque Config.freeTemp : Nat → Byte

/-- Send credits held at an interface, by the number of the use (R473): the counts of a credit pool are not given. -/
opaque Config.freeCredit : Nat → BitVec 16

end Sys2Proof
end

