-- ==== Sys2Proof/Machine/State.lean ====
section
/-! DEFINITION. The state of Fraiz: every register, queue, cache, engine, buffer and pin the spec names, as plain data,
and the state right after reset (R367, power-on: every state reset, PORB_N low). -/

namespace Sys2Proof.Machine

open Sys2Proof

/-- How a host request is addressed: as a translated request, and with which PASID (R116, R117, R135). -/
structure HostAt where
  tr    : Bool := false
  pasid : Option (BitVec 20) := none
  deriving DecidableEq, Repr

/-! ### Requests on the spine (R13, R33, R140) -/

/-- The unit that holds a request, and what it is for. -/
inductive Owner where
  | ring (q : Nat)                        -- the first read of a slug
  | reread (q k : Nat)                    -- re-read number k
  | record (q : Nat) (pos : BitVec 16)    -- a completion record
  | pltRead (e : Nat) (off : Nat)         -- source bytes from this source-stream offset on
  | pltWrite (e : Nat) (off : Nat)        -- the destination granule at this stream offset
  | cmpRecord (n : Nat)
  | cmpStream (n : Nat) (k : Nat)         -- 0 index, 1 weight, 2 offset, 3 mask
  | cmpGrad (n : Nat) (bag : Nat)
  | cmpPlace (n : Nat) (idx : Nat)
  | cmpRow (n : Nat) (idx : Nat)
  | cmpResult (n : Nat) (bag : Nat)
  | cmpUpdate (n : Nat) (idx : Nat)
  | swRecord (q : Nat) (pos : BitVec 16)  -- the epoch record of a SWATCH
  | swList (q : Nat) (pos : BitVec 16)
  | tadd (q : Nat) (pos : BitVec 16)
  | tile (t e : Nat)
  | core (k : Nat)
  | fltRec (p : Nat)                      -- a fault record's write
  | phys (k : Nat)                        -- 0 the tack snapshot's writes; 1 + p a trace drain of partition p
  | walk (w : Nat)                        -- a walker's table read in the coherent window (R315)
  | bar2Rd (link p : Nat)                 -- a host access to the coherent window
  | bar2Zero (p : Nat)                    -- a host read that enables no byte and waits for earlier writes (R371)
  | bar2Wr (link p : Nat) (adds : List (Nat × Nat))   -- tallies and the bytes they count when it is done
  | bar2At (link p : Nat)
  | inb (fl : Nat)                        -- an inbound peer packet in the coherent window, by its flight
  | cxlRd (b : Bool)
  | cxlWr (b : Bool)
  deriving DecidableEq, Repr

/-- Where a translated request goes (R96, R106). -/
inductive Out where
  | dev (a : Nat)
  | host (a : Nat) (ats : Bool)           -- ats: sent as a translated request (R116)
  | peer (a : Nat)
  deriving DecidableEq, Repr

/-- How far a request has come. -/
inductive ReqSt where
  | held                                  -- not yet presented for translation
  | ctxWait                               -- waits for a resident context slot (R126)
  | missWait                              -- waits for a walker (R113)
  | walking (w : Nat)                     -- joined to the walk of walker w (R112)
  | entryWait (ord cause : Nat)             -- waits for a free fault entry, in the order of raising (R142)
  | faulted (p n : Nat)                   -- joined to fault entry n of partition p (R141)
  | bwWait (o : Out)                      -- waits for the next accounting period (R400)
  | tileOff (o : Out)                     -- held in the port of a powered-down tile (R27)
  | issued (o : Out)
  | sent (o : Out)                        -- its packet or host request has left, and its completion is due
  | have (o : Out) (b : Bytes)            -- its data is here
  | done (o : Out)                        -- its write is performed at home
  | failed (o : Out) (e : ECode)          -- it met a bus error
  deriving DecidableEq, Repr

/-- What a request's last fault noted: the level and entry that raised it, its queue and time (R144), and for a compositor the
index-stream position (R155). -/
structure FNote where
  level : Nat := 0
  raw   : W64 := 0
  queue : Option Nat := none              -- none: a tile engine
  time  : BitVec 64 := 0
  pos   : Nat := 0
  deriving DecidableEq, Repr

structure Req where
  id     : Nat
  owner  : Owner
  src    : BitVec 9
  part   : Nat
  ctx    : Nat                            -- global context
  va     : Nat                            -- 57-bit address as issued
  len    : Nat
  acc    : Acc
  data   : Bytes
  en     : List Bool
  st     : ReqSt
  replay : Option (Nat × Nat)             -- retranslates for this fault entry (R147)
  phys   : Bool                           -- made at a device physical address (R493)
  op     : AtomOp := .add                 -- an atomic operation and its operands
  x      : W64 := 0
  y      : W64 := 0
  lines  : List (Nat × Bytes) := []       -- lines of the coherent window the directory has answered
  at_    : Nat := 0                       -- time of issue
  pieces : List (Nat × Reply) := []       -- completions of its packets that are here, by their offset (R284)
  note   : FNote := {}
  cut    : Nat := 4096                    -- Max Read Request Size in force when it was sent (R348)
  grp    : Nat := 0                       -- the tile request of several pages that it is a piece of (R17); 0: whole
  used   : Nat := 0                       -- log2 of the bytes that the cached leaf it used covers (R120); 0: it used none
  deriving DecidableEq, Repr

/-! ### Galley (chapter 3) -/

/-- R80. -/
inductive QSt where
  | disabled | idle | ready | resident | waiting | halted | draining | resetting
  deriving DecidableEq, Repr

/-- R71, but for TORN, which passes to QUIET at once. -/
inductive FetchSt where
  | quiet | reading | rereading | accepted
  deriving DecidableEq, Repr

structure Fetch where
  st   : FetchSt := .quiet
  n    : Nat := 0                         -- positions the read covers
  out  : List Nat := []                   -- re-reads issued whose data is not yet here
  slug : Bytes := []                      -- the accepted slug and its extensions
  deriving DecidableEq, Repr

structure Queue where
  st      : QSt := .disabled
  tail    : BitVec 16 := 0
  head    : BitVec 16 := 0
  ctail   : BitVec 16 := 0
  chead   : BitVec 16 := 0
  qphase  : BitVec 2 := 1
  cphase  : BitVec 2 := 1
  qbase   : W64 := 0
  cbase   : W64 := 0
  isrc    : BitVec 11 := 0
  ctx     : BitVec 6 := 0
  prio    : BitVec 3 := 0
  csize   : BitVec 4 := 0
  qsize   : BitVec 4 := 0
  wait    : BitVec 4 := 0
  err     : Byte := 0
  rereads : BitVec 7 := 0
  age     : Nat := 0                      -- A of R75
  since   : Nat := 0                      -- order of entering READY (R76)
  readyAt : Nat := 0                      -- time of entering READY
  bellAt  : Option Nat := none            -- time of a doorbell whose ring read is due (R87)
  fetch   : Fetch := {}
  deriving DecidableEq, Repr

/-- How far a committed command has come (R85). -/
inductive CmdSt where
  | needEngine                            -- committed, waits for its pleat engine (R188)
  | running
  | ended                                 -- every write has had its response
  | flushing                              -- the flushing read is out
  | recordDue                             -- its record waits behind an earlier one
  | recordOut                             -- its record write is out
  deriving DecidableEq, Repr

structure Cmd where
  queue    : Nat
  pos      : BitVec 16
  part     : Nat
  slug     : Bytes                        -- slug and extensions
  st       : CmdSt := .running
  status   : Byte := 0
  flags    : BitVec 16 := 0
  residue  : BitVec 64 := 0
  detail   : Bytes := []
  tstamp   : BitVec 64 := 0
  began    : BitVec 64 := 0               -- time of commitment
  noTally  : Bool := false                -- completed under R73
  hostLast : Option (Nat × HostAt) := none   -- last byte of its host-memory writes, and how they were addressed
  ftag     : Option Nat := none           -- tag of its flushing read
  src      : Nat := 0x1FF                 -- source identifier of the engine that ran it
  aborted  : Bool := false                -- R82
  slots    : List (Nat × Bool) := []      -- slots a WAITREL waits for: table, slot B
  inv      : Option (BitVec 32) := none   -- the invalidation an INVALIDATE issued
  window   : Option Nat := none           -- the window a WCOMMIT commits
  list     : Bytes := []                  -- the epoch record a SWATCH has read
  deriving DecidableEq, Repr

structure Gal where
  queues : Tbl Queue := []
  selPart : Tbl (BitVec 4) := []          -- FRZ_GAL_SEL.QPART, one for each partition
  selQ    : Tbl Byte := []                -- FRZ_GAL_SEL.QSEL
  haltmap : Tbl (BitVec 256) := []        -- FRZ_GAL_HALTMAP, one for each partition
  slice   : BitVec 16 := 0x007D           -- FRZ_GAL_SLICE
  cmds    : List Cmd := []                -- commands in flight, in the order of commitment; ended ones in R83's order behind `ends`
  ends    : List (Nat × BitVec 16) := []  -- ended commands whose record is not yet written, oldest first (R83)
  since   : Nat := 0                      -- next order number of READY
  rr      : Nat := 0                      -- partition the next grant is offered to first (R399)
  rrPleat : Nat := 0                      -- the same for a freed pleat engine
  rrComp  : Nat := 0                      -- and for a freed compositor
  deriving DecidableEq, Repr

/-! ### Translation (chapter 4) -/

/-- One entry of an edge buffer or of the folio cache (R110). `level` 0 marks a leaf; otherwise a pointer of that level. -/
structure XEntry where
  buf   : Nat                             -- edge buffer: 0 to 63 tiles, 64 to 79 internal; folio: the set
  slot  : Nat                             -- resident slot
  ctx   : Nat                             -- global context
  level : Nat
  size  : Nat := 0                        -- log2 of the page's bytes (leaf)
  run   : Nat := 0
  va    : Nat                             -- first address covered
  out   : Nat                             -- output of that address; a pointer: the next table
  typ   : BitVec 2 := 0
  rd    : Bool := false
  wr    : Bool := false
  atm   : Bool := false
  spec  : Bool := false
  ats   : Bool := false                   -- from an ATS completion
  unt   : Bool := false                   -- U: send untranslated (R116)
  pasid : Option (BitVec 20) := none
  raw   : W64 := 0
  rlev  : Nat := 0
  stamp : Nat := 0                        -- recency
  deriving DecidableEq, Repr

/-- How a walk stands. -/
inductive WalkSt where
  | reading                               -- a table read is out
  | filling (leaf : XEntry)               -- reached its leaf
  | ats                                   -- an ATS Translation Request is out
  deriving DecidableEq, Repr

structure Walk where
  w     : Nat
  part  : Nat
  ctx   : Nat
  va    : Nat
  level : Nat
  table : Nat                             -- table being read
  num   : BitVec 32                       -- invalidation number recorded (R121)
  fails : Nat := 0                        -- discards in a row (R122)
  ptrs  : List XEntry := []               -- pointers read
  proof : Option Nat := none              -- a proof walk of this compositor's lookahead
  st    : WalkSt := .reading
  tag   : Nat := 0                        -- tag of its Translation Request
  order : Nat := 0                        -- start order (R261)
  at_   : Nat := 0                        -- time of the start
  deriving DecidableEq, Repr

/-- What an invalidation names (R119). -/
inductive InvScope where
  | part
  | ctx (c : Nat)
  | range (c va size : Nat)
  | ats (va size : Nat) (pasid : Option (BitVec 20)) (global : Bool)
  deriving DecidableEq, Repr

/-- Who waits for an invalidation (R118). -/
inductive InvFrom where
  | reg (p : Nat) (w : Who)               -- FRZ_TRN_INVCTL of partition p, written by w
  | cmd (q : Nat) (pos : BitVec 16)
  | ats (p itag : Nat)
  | cfg                                   -- VALID cleared
  deriving DecidableEq, Repr

structure Inv where
  num   : BitVec 32
  part  : Nat
  scope : InvScope
  by_   : InvFrom
  users : List Nat                        -- requests that used a removed entry and have not finished
  rows  : List (Nat × Nat) := []          -- SCATTER rows that used a removed entry, by compositor and first request of their read (R154)
  deriving DecidableEq, Repr

structure Trn where
  invaddr  : Tbl W64 := []
  busy     : Tbl Bool := []
  refused  : Tbl Bool := []
  invseq   : Tbl W32 := []
  invLast  : W32 := 0                     -- last number given
  invDone  : W32 := 0
  lastInv  : Tbl W32 := []                -- last number given that names each partition
  anyInv   : Tbl Bool := []               -- whether one ever named it
  invs     : List Inv := []               -- numbered, not complete, in order
  invHeld  : List (Nat × InvScope × InvFrom) := []   -- accepted, not numbered (R122)
  pmode    : Tbl W32 := []
  tbind    : Tbl W32 := []
  bbase    : Tbl W64 := []
  blim     : Tbl W64 := []
  ctxroot  : Tbl W64 := []
  ctxcfg   : Tbl W64 := []                -- RES apart
  slots    : List (Nat × Nat × Nat) := [] -- resident slot, context, recency
  edge     : List XEntry := []
  folio    : List XEntry := []
  walks    : List Walk := []
  roots    : List (Nat × Nat) := []       -- context and page of misses whose next walk begins at the root (R449)
  late     : List Nat := []               -- walkers that were fenced with a table read out, which will still return (R429)
  rr       : Nat := 0
  rr0      : Nat := 0                     -- round robin of the share-0 partitions (R113)
  stamp    : Nat := 0
  deriving DecidableEq, Repr

/-! ### Faults and epochs (chapter 5) -/

/-- R147, but for ENDED, whose entry is free. -/
inductive FSt where
  | raised | logged | requested | replaying
  deriving DecidableEq, Repr

structure FEntry where
  n      : Nat
  gen    : Nat
  st     : FSt
  pri    : Bool                           -- routed to PRI (R146)
  ctx    : Nat
  va     : Nat
  cause  : Nat
  acc    : Acc
  src    : BitVec 9
  level  : Nat
  raw    : W64
  queue  : Option Nat                     -- none: a tile engine
  removed : Bool := false                 -- REPLAYING: the removal of R149 is done
  stale  : Bool := false                  -- raised again, and its route is to be found anew (R146)
  born   : BitVec 64 := 0                 -- time at which the entry was taken
  age    : Nat := 0                       -- management-plane ticks seen
  tstamp : BitVec 64 := 0
  order  : Nat := 0
  deriving DecidableEq, Repr

structure FltP where
  rbase   : W64 := 0
  en      : Bool := false
  deadline : BitVec 16 := 0x0032
  ringerr : Bool := false
  refused : Bool := false
  prioff  : Bool := false
  tail    : BitVec 16 := 0
  head    : BitVec 16 := 0
  phase   : BitVec 2 := 1
  entries : List FEntry := []
  gens    : Tbl Nat := []                 -- generation last used by each entry
  writing : Option Nat := none            -- entry whose record write is out
  order   : Nat := 0
  deriving DecidableEq, Repr

/-- R159. -/
inductive SlotSt where
  | free | staged | current | draining | purging
  deriving DecidableEq, Repr

structure Slot where
  st   : SlotSt := .free
  addr : Nat := 0
  pins : Nat := 0
  deriving DecidableEq, Repr

structure Table where
  valid : Bool := false
  curB  : Bool := true                    -- CUR names slot B
  gen   : BitVec 16 := 0
  a     : Slot := {}
  b     : Slot := {}
  deriving DecidableEq, Repr

structure Flip where
  queue   : Nat
  pos     : BitVec 16
  part    : Nat
  tables  : List Nat
  retire  : Bool
  waitrel : Bool
  deriving DecidableEq, Repr

structure Epo where
  tables : Tbl Table := []                -- 512p + t
  flips  : List Flip := []
  sweep  : Option (List (Nat × Bool)) := none   -- 512p + t, slot B
  deriving DecidableEq, Repr

/-! ### Pleat engines (chapter 6) -/

/-- R194. -/
inductive PSt where
  | idle | running | stalled | aborting | draining | halted | fenced
  deriving DecidableEq, Repr

/-- One side of a MOVE (R175, R181). -/
structure Shape where
  addr : Nat := 0
  len0 : Nat := 0
  c1 : Nat := 1
  c2 : Nat := 1
  c3 : Nat := 1
  s1 : BitVec 64 := 0
  s2 : BitVec 64 := 0
  s3 : BitVec 64 := 0
  deriving DecidableEq, Repr

structure Eng where
  st      : PSt := .idle
  abtpend : Bool := false
  drain   : Option Nat := none            -- trace drain: buffer drained (R468)
  part    : Nat := 0
  queue   : Nat := 0
  pos     : BitVec 16 := 0
  opcode  : Byte := 0
  tag     : W32 := 0
  residue : BitVec 48 := 0
  cur0    : W32 := 0
  cur1    : W32 := 0
  cur2    : W32 := 0
  cur3    : W32 := 0
  eva     : BitVec 57 := 0
  ekind   : BitVec 2 := 0
  epa     : BitVec 57 := 0
  emore   : Bool := false
  ecode   : BitVec 4 := 0
  edir    : Bool := false
  /- the transfer in progress -/
  src     : Shape := {}
  dst     : Shape := {}
  put     : Bytes := []                   -- payload of a PUT
  next    : Nat := 0                      -- stream offset of the first granule not begun
  start   : Nat := 0                      -- stream offset at which this run began
  asked   : List (Nat × Nat) := []        -- source-stream ranges whose reads were made, as far back as they may still be needed
  wnext   : Nat := 0                      -- stream offset of the first granule whose write is not issued
  bursts  : List Nat := []                -- ends of bursts begun and not fully written
  buf     : List (Nat × Byte) := []       -- source bytes here, by source-stream offset
  stop    : Option Nat := none            -- no granule from this offset on is written
  fin     : Byte := 0                     -- status the command ends with
  fdetail : Bytes := []
  err     : Option Nat := none            -- offset of the failing granule (R192)
  later   : Option (BitVec 3) := none     -- CCTL write that waits (R193)
  kill    : Bool := false                 -- reset: no record (R82)
  fence   : Bool := false                 -- fenced: ends with 0x06
  count   : BitVec 48 := 0                -- FRZ_OBS_CCNT
  cpart   : Nat := 0
  deriving DecidableEq, Repr

structure Plt where
  eng     : Tbl Eng := []
  sel     : Tbl (BitVec 6) := []
  pool    : BitVec 64 := BitVec.allOnes 64
  haltmap : Tbl (BitVec 64) := []
  deriving DecidableEq, Repr

/-! ### Compositors (chapters 7 and 8) -/

/-- A Pica accumulator (R244), or the held extreme of max and min (R249): the window and its extension as one
integer, and for an extreme its sign of zero. -/
structure Pica where
  sum  : Int := 0
  infp : Bool := false
  infn : Bool := false
  nanf : Bool := false
  wovf : Bool := false
  /-- max and min: the value held. -/
  ext  : Option Val := none
  deriving DecidableEq, Repr

/-- A group of lookups that pool identically (R219). -/
structure Group where
  idx : Nat
  bag : Nat
  wt  : Nat
  k   : Nat
  deriving DecidableEq, Repr

/-- How an index was resolved (R210). -/
inductive Place where
  | wait                                  -- its placement entry is not yet here
  | absent
  | at_ (seg slot : Nat) (meter : Option Nat)
  | swatch (seg va : Nat)
  deriving DecidableEq, Repr

/-- A distinct index of a window. -/
structure Dist where
  idx   : Nat
  first : Nat                             -- position of its first occurrence
  place : Place := .wait
  asked : Bool := false                   -- its placement read was made
  read  : Bool := false                   -- its row read was made
  got   : Bool := false                   -- its row is accumulated, or its progress mark is set
  rid   : Nat := 0                        -- SCATTER: the first request of its row's read
  used  : List (Nat × Nat) := []          -- SCATTER: address, and log2 of the reach, of each leaf its row's read used (R120)
  outs  : List (Nat × Nat × Out) := []    -- SCATTER: offset, length and output of each part of its read (R154)
  row   : Bytes := []                     -- SCATTER: row and state as read
  upd   : Bool := false                   -- SCATTER: its write is out
  told  : Bool := false                   -- SCATTER: its row caches are told, and their acknowledgements are due (R40)
  bad   : Bool := false                   -- SCATTER: one of its writes met a bus error
  deriving DecidableEq, Repr

/-- R236. -/
inductive CSt where
  | idle | running | stalled | draining | fenced
  deriving DecidableEq, Repr

/-- How a command that cannot go on will end (R155, R221). -/
structure CFail where
  status : Nat
  va     : Nat := 0
  cause  : Nat := 0
  acc    : Nat := 0
  why    : Nat := 0
  pos    : Nat := 0
  deriving DecidableEq, Repr

structure Comp where
  st     : CSt := .idle
  part   : Nat := 0
  queue  : Nat := 0
  pos    : BitVec 16 := 0
  opcode : Byte := 0
  tag    : W32 := 0
  table  : Nat := 0                       -- 512p + t
  slotB  : Bool := false
  gen    : BitVec 16 := 0
  record : Option Bytes := none
  idx    : Bytes := []                    -- streams as far as they are here
  wts    : Bytes := []
  offs   : Bytes := []
  mask   : Bytes := []
  asked  : Tbl Nat := []                  -- bytes asked for, by stream
  nidx   : Nat := 0                       -- lookups to run (cut by R215)
  nbag   : Nat := 0                       -- bags to run
  adm    : Nat := 0                       -- lookups admitted
  wstart : Nat := 0                       -- first lookup of the window
  full   : Bool := false                  -- the window is cut
  short  : Bool := false                  -- it was cut before its indices were resolved, and may go on past ABSENT ones (R218)
  peek   : Option Nat := none             -- an index past the cut whose placement decides whether the window goes on
  groups : List Group := []
  dists  : List Dist := []
  grads  : Tbl Bytes := []                -- gradient vectors here, by bag
  lens   : Tbl Nat := []                  -- unmasked lookups, by bag
  acc    : Tbl (List Pica) := []          -- by bag; SCATTER: by index
  done   : Nat := 0                       -- results written, or rows updated
  flags  : BitVec 16 := 0
  look   : Nat := 0
  fetch  : Nat := 0
  swhit  : Nat := 0
  wins   : Nat := 0
  ngrp   : Nat := 0
  upds   : Nat := 0
  seen   : List Nat := []                 -- SCATTER: rows updated in earlier windows (R228)
  fail   : Option CFail := none           -- it ends with this status and DETAIL
  rfail  : Option Nat := none             -- first result whose write failed
  rows   : Nat := 0                       -- SCATTER: rows of the window whose progress mark is set
  broken : Bool := false                  -- the open window was cut by a bus error
  pre    : Bool := false                  -- SCATTER with FAC 0b10: bags are being counted
  known  : List (Nat × Place) := []       -- placements that the count found
  stallPos : Nat := 0                     -- POS while STALLED (R237)
  kill   : Bool := false
  fence  : Bool := false
  count  : BitVec 48 := 0                 -- FRZ_OBS_CCNT
  cpart  : Nat := 0
  deriving DecidableEq, Repr

structure SwEntry where
  table : Nat                             -- 512p + t
  slotB : Bool
  idx   : Nat
  seg   : Nat
  va    : Nat
  deriving DecidableEq, Repr

structure Tracker where
  en     : Bool := false
  freeze : Bool := false
  part   : BitVec 4 := 0
  table  : BitVec 9 := 0
  ptr    : Byte := 0
  ents   : Tbl (W32 × W32) := []          -- index, count
  deriving DecidableEq, Repr

structure CmpU where
  comp   : Tbl Comp := []
  sel    : Tbl (BitVec 4) := []
  pool   : BitVec 16 := 0xFFFF
  swatch : List SwEntry := []
  trk    : Tbl Tracker := []
  look   : Tbl (BitVec 48) := []          -- FRZ_CMP_MLOOK, 1024p + m
  fetch  : Tbl (BitVec 48) := []
  deriving DecidableEq, Repr

/-! ### Lookahead (chapter 9) -/

/-- A proof read in flight or held (R262). -/
structure Proof where
  id     : Nat
  part   : Nat                            -- the partition it is issued for
  kind   : ProofKind
  target : Nat
  addr   : Nat
  len    : Nat
  out    : Out
  num    : W32                            -- invalidation number in force at issue
  slotB  : Bool
  gen    : BitVec 16
  data   : Option Bytes := none
  dead   : Bool := false                  -- discarded while in flight
  used   : Bool := false                  -- used, and wanted again (R262)
  nar    : Option Bytes := none           -- what the lining directory answered
  deriving DecidableEq, Repr

/-- A slug read ahead (R258). -/
structure Target where
  pos  : BitVec 16
  slug : Bytes
  deriving DecidableEq, Repr

structure Lka where
  queue   : Option Nat := none
  next    : BitVec 16 := 0                -- position the ring read looks at
  fresh   : Bool := false                 -- it looks at HEAD next, wherever that stands
  asked   : Bool := false                 -- a proof ring read is out
  retry   : Bool := false                 -- a mismatch waits to be read again
  targets : List Target := []
  held    : List Proof := []
  xlt     : List (Nat × XEntry × W32) := []   -- translations held: context, entry, recorded number
  deriving DecidableEq, Repr

structure LkaU where
  gctl  : W32 := 0x80000010
  ctl   : Tbl W32 := []
  last  : Tbl (BitVec 4) := []
  issue : Tbl (BitVec 48) := []
  used  : Tbl (BitVec 48) := []
  disc  : Tbl (BitVec 48) := []
  walks : Tbl (BitVec 48) := []
  lk    : Tbl Lka := []
  deriving DecidableEq, Repr

/-! ### Seam and tallies (chapter 10) -/

structure Win where
  base : W64 := 0
  lim  : W64 := 0
  cfg  : W64 := 0
  deriving DecidableEq, Repr

structure WinU where
  live   : Win := {}
  staged : Win := {}
  ver    : Byte := 0
  drops  : BitVec 16 := 0
  drain  : BitVec 16 := 0
  pend   : Option Win := none             -- a commit decoded and not yet in effect
  deriving DecidableEq, Repr

/-- An inbound packet decoded and not yet finished (R299). -/
structure Flight where
  id     : Nat
  port   : Nat                            -- 12: loopback (R279)
  src    : BitVec 9                       -- source identifier (R13)
  kind   : Nat                            -- 0 WR, 1 RD, 2 ATM
  head   : PktHead
  tag    : Nat                            -- the requester's number of an RD or ATM
  back   : Option (Nat × Nat)             -- loopback: the request answered, and the offset within it
  window : Nat
  ver    : Byte
  old    : Bool                           -- of the previous version
  addr   : Nat
  len    : Nat
  data   : Bytes
  en     : List Bool
  op     : AtomOp
  x      : W64
  y      : W64
  err    : Option ECode                   -- the home answers a read with an error
  tally  : Option Nat
  part   : Nat
  deriving DecidableEq, Repr

/-- A request that timed out, kept so that a late completion is known (R284, R364). -/
structure Late where
  link  : Nat := 0
  tag   : Nat
  proof : Bool := false
  time  : Nat
  part  : Nat
  src   : BitVec 9
  deriving DecidableEq, Repr

structure Tally where
  count  : BitVec 48 := 0
  sat    : Bool := false
  owner  : Option Nat := none
  mode   : Bool := false
  irq    : Bool := false
  tevt   : Bool := false
  tile   : BitVec 6 := 0
  thresh : BitVec 48 := 0
  deriving DecidableEq, Repr

structure Seam where
  peer    : BitVec 10 := 0
  tmo     : BitVec 16 := 0x03E8
  live    : BitVec 12 := 0
  trained : BitVec 12 := 0                -- port blocks whose link has trained
  timedOut : List Late := []              -- requests that timed out
  sel     : Tbl (BitVec 10) := []
  refused : Tbl Bool := []                -- FRZ_SEAM_WCTL.REFUSED
  rsn     : Tbl (BitVec 4) := []
  town    : Bool := false                 -- FRZ_SEAM_TOWN.REFUSED
  route   : Tbl (BitVec 12) := []
  wins    : Tbl WinU := []
  flight  : List Flight := []
  rr      : Tbl Nat := []                 -- next port, by peer
  deriving DecidableEq, Repr

/-! ### Lining directory (chapter 11) -/

/-- R317, but for UNC, whose line has no entry. -/
inductive LSt where
  | sh | shb | ex | ow | owb
  deriving DecidableEq, Repr

structure LEntry where
  line  : Nat
  way   : Nat
  st    : LSt
  ptrs  : List Nat                        -- agents; the owner first in EX, OW and OWB
  stamp : Nat := 0
  deriving DecidableEq, Repr

inductive TxKind where
  | rds | rdx | upg | evc | nar | uwr | atm | sweep | flush
  deriving DecidableEq, Repr

/-- A recall within a transaction (R328): the victim's line, the agents whose response is due, those that answered RSPWBIF and whose
WBD has not arrived, and the dirty data returned. -/
structure Victim where
  line   : Nat
  due    : List Nat
  wbWait : List Nat := []
  dirty  : Option Bytes := none
  deriving DecidableEq, Repr

/-- A transaction of the directory (R320, R326), or one entry's part of a sweep. -/
structure Txn where
  line    : Nat
  kind    : TxKind
  agent   : Nat := 0                      -- the requesting agent; the agent swept
  ureq    : Option UReq := none
  hint    : Option Nat := none            -- target of an accepted write hint (R323)
  way     : Option Nat := none            -- the way it pins
  snoops  : List Nat := []                -- agents whose response is due
  wbWait  : List Nat := []                -- agents that answered RSPWBIF and whose WBD has not arrived
  dirty   : Option Bytes := none          -- data an owner returned
  crossed : Bool := false                 -- that data came from a WBD (R329)
  gone    : List Nat := []                -- agents found in I
  victim  : Option Victim := none
  host    : Option Bool := none           -- a request of the host agent of port A (false) or B (R333)
  orphan  : Bool := false                 -- its agent has left without answering (R336)
  homeR   : Bool := false                 -- a home read is out
  homeD   : Option Reply := none
  homeW   : Bool := false                 -- its home write is out
  wrote   : Bool := false                 -- its home write has been performed
  deriving DecidableEq, Repr

structure Lin where
  base    : Nat := 0                      -- first address
  size    : Nat := 0                      -- GiB
  en      : Bool := false
  flushing : Bool := false
  sweeps  : List (Nat × Bool) := []       -- agents being swept; true: without snoops
  active  : BitVec 74 := BitVec.ofNat 74 (2 ^ 72 - 1)
  refused : Bool := false
  prba    : W64 := 0
  prbd    : W64 := 0x00FFFFFFF0000000
  nbcast  : BitVec 48 := 0
  nrecall : BitVec 48 := 0
  ncross  : BitVec 48 := 0
  hintb   : Tbl W64 := []
  hintl   : Tbl W64 := []
  ents    : List LEntry := []
  opens   : List Txn := []
  waits   : List Txn := []
  wbs     : List (Nat × Nat × Bytes) := []   -- writeback buffers: agent, line, data
  epochs  : Tbl Byte := []                -- epoch of each agent (R336)
  conflicts : List (Bool × Nat × Nat) := []   -- BIConflicts not acknowledged: port, line, earlier requests not completed (R333)
  stamp   : Nat := 0
  deriving DecidableEq, Repr

/-! ### Host endpoint (chapter 12) -/

/-- Steps of a function-level reset (R368). -/
inductive Flr where
  | none | drain | reset                  -- steps 1 to 3; steps 4 and 5
  deriving DecidableEq, Repr

structure MsixE where
  mask : Bool := true
  addr : W64 := 0
  data : W32 := 0
  st   : BitVec 16 := 0
  deriving DecidableEq, Repr

structure Fn where
  enabled : Bool := false                 -- presented
  bme     : Bool := false
  d3      : Bool := false
  ats     : Bool := false
  pri     : Bool := false
  prAlloc : Nat := 0
  atomReq : Bool := false
  tph     : Bool := false
  tphVec  : Bool := false
  msixEn  : Bool := false
  fmask   : Bool := false
  table   : Tbl MsixE := []
  pba     : BitVec 128 := 0
  pasid   : Bool := false
  mps     : BitVec 3 := 0                 -- Device Control (R348); its reset values are those of PCI Express
  mrrs    : BitVec 3 := 2
  ro      : Bool := true
  ido     : Bool := false
  tag10   : Bool := false
  tag14   : Bool := false
  bars    : Tbl W32 := []                 -- base address registers 0 to 5 (R355)
  aer     : W32 := 0                      -- AER: Uncorrectable Error Status
  aerFirst : BitVec 5 := 0                -- First Error Pointer, of the first error of those that stand (R354)
  flr     : Flr := .none
  flrId   : Nat := 0                      -- first request number that step 3 does not wait for from a tailor core (R368)
  deriving DecidableEq, Repr

/-- A selective IDE stream (R360). -/
structure Ide where
  rids   : List Nat                       -- partitions whose functions its RID range covers
  blocks : List (Nat × Nat)               -- host address ranges it covers: first byte, first byte past
  secure : Bool
  deriving DecidableEq, Repr

structure Link where
  stat    : LinkStat := ⟨false, false, false, false, false, 0, 0⟩
  present : Bool := false
  perst   : Bool := true                  -- the port is held in fundamental reset
  cpto    : BitVec 4 := 0
  ctoDis  : Bool := false
  vfEn    : Bool := false
  numVfs  : Nat := 0
  pfBar   : Nat := 28                     -- log2 of the BAR2 sizes
  vfBar   : Nat := 28
  vfBars  : Tbl W32 := []                 -- VF base address registers 0 to 5 of the SR-IOV capability (R354, R355)
  seq     : BitVec 16 := 0                -- FRZ_HOST_FENCE.SEQ
  fences  : List (Who × Nat) := []        -- fence reads that wait, with the first request number they do not wait for (R51)
  ide     : List (Nat × Ide) := []        -- IDE streams, up to 4
  deriving DecidableEq, Repr

structure HostU where
  links  : Tbl Link := []
  fns    : Tbl Fn := []
  bifA   : Bool := false
  bifB   : Bool := false
  portB  : Bool := false
  cxlA   : Bool := false
  cxlB   : Bool := false
  late   : BitVec 48 := 0
  quar   : List Late := []                -- tags in quarantine
  pfBar  : Nat := 28                      -- BAR2 sizes of the image, in force at reset
  vfBar  : Nat := 28
  deriving DecidableEq, Repr

/-! ### Interrupts (chapter 13) -/

structure Src where
  pend   : Bool := false
  act    : Bool := false
  en     : Bool := false
  mode   : Bool := false
  cls    : Bool := false
  kind   : Bool := false
  owner  : Option Nat := none
  prio   : BitVec 4 := 0
  target : BitVec 7 := 0
  deriving DecidableEq, Repr

structure Bank where
  armed : Bool := true
  n     : Nat := 0                        -- edges counted, up to 255
  timer : Bool := false
  due   : Bool := false                   -- TIME has passed
  count : Byte := 1
  time  : BitVec 16 := 0
  line  : Bool := false                   -- tailor-core line asserted
  sentAt : Option Nat := none             -- time of a delivery not yet claimed
  deriving DecidableEq, Repr

structure Ic where
  dis     : Bool := false
  refused : Bool := false
  sysev   : W32 := 0
  srcs    : Tbl Src := []
  hbanks  : Tbl Bank := []                -- 256p + b
  tbanks  : Tbl Bank := []
  risen   : List Nat := []                -- lines that have risen and are not yet latched
  deriving DecidableEq, Repr

/-! ### Partitions (chapter 14) -/

structure PartU where
  tcact : Tbl (BitVec 4) := []
  qa    : Tbl W64 := []
  qb    : Tbl W64 := []
  bw    : Tbl W32 := []
  bwNow : Tbl W32 := []                   -- the budget that the current period runs under (R401)
  ovr   : Tbl W32 := []
  charge : Tbl Nat := []                  -- granules charged in this period, carry included
  pcharge : Tbl Nat := []                 -- granules read in proof in this period (R269)
  last  : Tbl (BitVec 20) := []
  deriving DecidableEq, Repr

/-! ### Always-on (chapter 15) -/

/-- R413. -/
inductive Dom where
  | run | idle | deep
  | waking (deep : Bool)                  -- true: from DEEP
  deriving DecidableEq, Repr

/-- How far start-up has come (R422). -/
inductive Boot where
  | off | reading | header | locked | wiped | applied | ready | recovery
  | transition                            -- a life-cycle transition wipes (R431)
  deriving DecidableEq, Repr

/-- R428. -/
inductive USt where
  | in_ | draining | out | reloading | stale | rejoining
  deriving DecidableEq, Repr

structure UnitS where
  st    : USt := .in_
  epoch : Byte := 0
  seq   : Option W32 := none              -- of the last amendment applied since power-on
  deriving DecidableEq, Repr

structure Aon where
  boot    : Boot := .off
  header  : Bool := false                 -- IDENT, HOST and CLOCK are held
  sram    : Bool := false                 -- the SRAM wipe is complete
  lcs     : BitVec 3 := 0                 -- always-on store
  svnMin  : BitVec 16 := 0
  keyHash : Bytes := []                   -- owner key hash, once provisioned
  ident   : Ident := {}                   -- IDENT
  rvendor : BitVec 16 := 0                -- Vendor ID and Device ID of the recovery identity, in the always-on store (R421)
  rdevice : BitVec 16 := 0
  pll     : Bytes := []                   -- CLOCK
  hours   : W32 := 0
  pcycle  : W32 := 0
  imgerr  : BitVec 5 := 0
  recov   : Bool := false                 -- FRZ_AON_STAT.REC
  imgver  : BitVec 16 := 0
  doms    : Tbl Dom := []
  slpctl  : W32 := 0
  deepok  : BitVec 26 := 0
  mbaddr  : W64 := 0
  mblen   : BitVec 15 := 0
  mbbusy  : Bool := false
  mbstep  : BitVec 3 := 0
  mbref   : Bool := false
  mbres   : Byte := 0
  mbseq   : BitVec 16 := 0
  usel    : BitVec 16 := 0
  units   : Tbl UnitS := []               -- 256 x CODE + INST
  amend   : Option Amendment := none
  target  : BitVec 3 := 0                 -- state a transition goes to
  tsvn    : BitVec 16 := 0
  tileOff : BitVec 64 := 0                -- tiles without power (R27)
  wakeN   : Bool := true                  -- level of WAKE_N, an open drain that is released (R23)
  flashCs : Bool := true                  -- level of FLASH_CS_N
  flashSck : Bool := false                -- FLASH_SCK runs; it is low otherwise
  deriving DecidableEq, Repr

/-! ### Errors (chapter 16) -/

structure Err where
  sticky   : BitVec 512 := 0
  live     : BitVec 512 := 0              -- pairs that show an error as a level
  wire     : BitVec 512 := 0
  halt     : Bool := false
  missed   : Bool := false
  handling : Bool := false
  force    : Bool := false
  cnt      : Tbl W32 := []
  irq      : BitVec 512 := BitVec.ofNat 512 (2 ^ 297 - 2 ^ 16 + 2 ^ 7 - 1)   -- every source that can report (R458)
  ferrCfg  : BitVec 512 := BitVec.ofNat 512 (2 ^ 170 + 2 ^ 177 - 2 ^ 172 + 2 ^ 179 + 2 ^ 180)   -- the DEVICE sources
  ferrP    : Bool := false
  ferrN    : Bool := false
  deriving DecidableEq, Repr

/-! ### Counters, trace and recorder (chapter 17) -/

structure TraceR where
  part  : Nat
  bytes : Bytes
  tile  : Bool                            -- a tile record; otherwise an engine record
  stamp : Bool                            -- a STAMP record
  deriving DecidableEq, Repr

structure TrP where
  base  : W64 := 0
  en    : Bool := false
  size  : BitVec 4 := 0
  kinds : BitVec 3 := 0
  derr  : Bool := false
  lost  : BitVec 24 := 0
  head  : W32 := 0
  tail  : W32 := 0
  deriving DecidableEq, Repr

structure Obs where
  on      : Bool := false                 -- the time base counts
  since   : Nat := 0                      -- spine cycles since the PLLs locked, whether or not the Control domain ran
  time    : BitVec 64 := 0
  energy  : BitVec 48 := 0
  egap    : Bool := false
  temp    : Byte := 0
  peak    : Byte := 0
  stcfg   : Bool := false
  tr      : Tbl TrP := []
  pcnt    : Tbl (BitVec 48) := []         -- 8p + i
  gap     : Tbl Bool := []
  tiles   : Tbl (List TraceR) := []       -- tile buffers
  own     : List TraceR := []             -- Fraiz's own buffer
  lossT   : Tbl Nat := []                 -- dropped since the last LOSS record, by tile
  lossP   : Tbl Nat := []                 -- the same for the own buffer, by partition
  drains  : List (Nat × Nat × List TraceR) := []  -- drains in progress: partition, engine, records
  flush   : List (Nat × Nat) := []        -- flushing reads of drains: engine, tag
  stamps  : BitVec 12 := 0                -- ports whose first packet since the tick is due
  tkbase  : W64 := 0
  wdog    : BitVec 16 := 0
  tkbusy  : Bool := false
  tkdone  : Bool := false
  tkref   : Bool := false
  tkerr   : Bool := false
  tkcause : BitVec 4 := 0
  shadow  : List Host.Cell := []          -- the snapshot captured, by offset
  captured : Bool := false
  deriving DecidableEq, Repr

structure RecU where
  freeze : Bool := false
  mode   : Bool := false
  wrap   : Bool := false
  next   : BitVec 12 := 0
  lostev : BitVec 16 := 0
  seq    : W32 := 0                       -- slots written since CLRALL
  cursor : Tbl (BitVec 18) := []          -- bits [20:3]
  latch  : Tbl W32 := []
  /-- 2 MiB of SRAM, in the canonical form of memory; trackers 0 and 1 are fixed at reset (R479). -/
  sram   : List Host.Cell := [(0x2840, 0x10), (0x2841, 0x80), (0x2842, 2), (0x2860, 0x11), (0x2861, 0x80), (0x2862, 2)]
  deriving DecidableEq, Repr

/-! ### What crosses the boundary -/

/-- Messages Fraiz sends (R20), in the order in which the model's steps send them. -/
inductive OutMsg where
  | regRead (w : Who) (v : W64)
  | hostWrite (p : Nat) (addr : Nat) (data : Bytes) (en : List Bool) (ro ido : Bool) (st : Option (BitVec 16)) (at_ : HostAt)
  -- the byte enables are all 1 or all 0; the request and the offset within it
  | hostRead (p : Nat) (addr len : Nat) (be ro ido : Bool) (id off : Nat) (at_ : HostAt)
  | hostAtomic (p addr : Nat) (op : AtomOp) (len : Nat) (x y : W64) (id : Nat) (at_ : HostAt)
  | msix (p entry : Nat) (addr : W64) (data : W32)
  | bar2Data (p : Nat) (d : Bytes)
  | bar2Ur (p : Nat)
  | bar2Ca (p : Nat)
  | bar2Poison (p : Nat)
  | unexpected (link tag : Nat)           -- Unexpected Completion through AER
  | cplTimeout (p : Nat)                  -- Completion Timeout through AER
  | uncorrectable                         -- Uncorrectable Internal Error through AER
  | retryStatus (p : Nat)                 -- Request Retry Status
  -- a packet: 0 WR, 1 RD, 2 ATM, 3 TADD; an ATM's operation and operands; the request and the offset within it
  | peer (port : Nat) (h : PktHead) (kind len : Nat) (data : Bytes) (en : List Bool) (op : AtomOp) (x y : W64) (id off : Nat)
  | peerCpl (port : Nat) (h : PktHead) (id : Nat) (r : Reply)
  | tileRsp (t e : Nat) (r : Reply)
  | tileEvent (t tally : Nat)
  | coreRsp (k : Nat) (r : Reply)
  | coreLine (k : Nat) (fast on : Bool)
  | rowInval (table : Nat) (slotB : Bool) (idx : Nat)
  | rowPurge (slots : List (Nat × Bool))
  | rowRange (base size : Nat)
  | atsRequest (p va : Nat) (pasid : Option (BitVec 20)) (w tag : Nat)
  | atsInvDone (p itag : Nat)
  | pageRequest (p va n : Nat) (rd wr : Bool) (pasid : Option (BitVec 20))
  | snoop (a line : Nat) (k : Nat)        -- 0 SNPS, 1 SNPI, 2 SNPC
  | cmpd (a line : Nat) (st : Nat) (d : Reply)   -- 0 S, 1 E, 2 M
  | cmpu (a line : Nat)
  | cmpw (src : Nat) (line : Nat)
  | cmpo (src : Nat) (line : Nat) (d : Reply)    -- NAR data, or the old value of an atomic
  | wback (a line : Nat)
  | fillE (a line : Nat) (d : Reply)      -- an accepted write hint, with the data or the poison mark
  | cxlPoison (b : Bool)
  | biAck (b : Bool) (line : Nat)
  | rspIHitI (b : Bool) (addr : Nat)
  | cal (b : Bytes)                       -- calibration handed to the PHYs and port blocks (R419)
  deriving DecidableEq, Repr

/-! ### The whole state -/

/-- Why the machine can stop: nothing stops it. -/
inductive Fault where
  deriving DecidableEq, Repr

/-- Why a command can be refused. -/
inductive Refusal where
  /-- Answered by an arm of exec for a command that has no meaning yet. Safe. -/
  | notModelled (mnemonic : String)
  deriving DecidableEq, Repr

/-- A command that has reached Fraiz and waits: for domains to run (R25), for units to be in service (R425), and, where it is a
register read, until its reader's invalidations are numbered (R118). -/
structure Held where
  doms   : List Nat := []
  units  : List (Nat × Nat) := []
  reader : Option Who := none
  origin : Option Nat := none             -- the interface it came in on, whose commands keep their order
  cmd    : Instr
  deriving DecidableEq, Repr

structure State where
  pending : List Instr := []              -- commands that wait, first in, first out
  held    : List Held := []               -- commands that Fraiz holds, oldest first
  part    : Part := .v3x
  mem     : List Host.Cell := []          -- device memory: tier 0, tier 1 and scratchpads
  poison  : List Nat := []                -- poisoned granules
  veil    : List (Nat × Nat × Nat) := []  -- veiled regions: partition, first, last
  reqs    : List Req := []
  orphans : List Req := []                -- requests that their units have given up, whose completions are due
  nextId  : Nat := 1
  free    : Nat := 0                      -- next free value (the model's own)
  tileQ   : List (Nat × OutMsg) := []     -- requests held in the port of a tile without power (R27)
  out     : List OutMsg := []             -- messages sent, oldest first (the model's own)
  latch   : List (Who × Nat × W32) := []   -- high halves held for their next read, by reader and register (R11)
  gal     : Gal := {}
  trn     : Trn := {}
  flt     : Tbl FltP := []
  epo     : Epo := {}
  plt     : Plt := {}
  cmp     : CmpU := {}
  lka     : LkaU := {}
  seam    : Seam := {}
  tal     : Tbl Tally := []
  lin     : Lin := {}
  host    : HostU := {}
  ic      : Ic := {}
  prt     : PartU := {}
  aon     : Aon := {}
  err     : Err := {}
  obs     : Obs := {}
  rcd     : RecU := {}
  deriving DecidableEq, Repr

/-- The state right after reset: every field at its reset value, PORB_N low, the FERR pair 0, 0 (R367, R450). -/
def State.reset : State := {}

end Sys2Proof.Machine
end

