-- ==== Sys2Proof/Machine/Ops.lean ====
section
/-! DEFINITION. The named operations over memory, addresses, partitions, register tables and the request pool that every
unit uses. -/

namespace Sys2Proof.Machine

open Sys2Proof

/-- What a command answers. -/
abbrev Ans := Host.Outcome State Fault Refusal

/-! ### Bytes -/

/-- The little-endian value of a byte string (R10, R63). -/
def leNat : Bytes → Nat
  | [] => 0
  | b :: r => b.toNat + 256 * leNat r

/-- The `n` low bytes of `v`, lowest first. -/
def toLE : Nat → Nat → Bytes
  | 0, _ => []
  | n + 1, v => BitVec.ofNat 8 v :: toLE n (v / 256)

/-- Bytes `off` to `off + n - 1`. -/
def slice (b : Bytes) (off n : Nat) : Bytes := (b.drop off).take n

/-- The little-endian number at bytes `off` to `off + n - 1`. -/
def numAt (b : Bytes) (off n : Nat) : Nat := leNat (slice b off n)

/-- Bits `[hi:lo]` of a number. -/
def bits (v hi lo : Nat) : Nat := v / 2 ^ lo % 2 ^ (hi + 1 - lo)

/-- Bit `i` of a number. -/
def bit (v i : Nat) : Bool := bits v i i = 1

def b2n (b : Bool) : Nat := if b then 1 else 0

/-- `n` zero bytes. -/
def zeros (n : Nat) : Bytes := List.replicate n 0

/-- Round up a division. -/
def divUp (a b : Nat) : Nat := (a + b - 1) / b

/-- Bit `i` of a bit vector set to `v`. -/
def setBit {w : Nat} (x : BitVec w) (i : Nat) (v : Bool) : BitVec w :=
  if v then x ||| BitVec.ofNat w (2 ^ i) else x &&& ~~~(BitVec.ofNat w (2 ^ i))

/-- An optional element as a list. -/
def optList {α : Type} : Option α → List α
  | none => []
  | some a => [a]

/-- The numbers below `n` that satisfy `p`, rising. -/
def below (n : Nat) (p : Nat → Bool) : List Nat := (List.range n).filter p

/-- The element with the largest key, the first among equals. -/
def maxBy {α : Type} (key : α → Nat) : List α → Option α
  | [] => none
  | a :: r =>
    match maxBy key r with
    | none => some a
    | some b => if key b ≤ key a then some a else some b

/-- The element with the smallest key, the first among equals. -/
def minBy {α : Type} (key : α → Nat) : List α → Option α
  | [] => none
  | a :: r =>
    match minBy key r with
    | none => some a
    | some b => if key a ≤ key b then some a else some b

/-- The first of `cands` met when counting up from `start` around `n` (round robin, R399). -/
def roundRobin (n start : Nat) (ok : Nat → Bool) : Option Nat :=
  ((List.range n).map fun i => (start + i) % n).find? ok

/-! ### Memory (R16, R29) -/

abbrev Memory := List Host.Cell

/-- The byte at an address; an unlisted address reads 0. -/
def Memory.read : Memory → Nat → Byte
  | [], _ => 0
  | (k, b) :: r, a => if k = a then b else Memory.read r a

/-- Store one byte, keeping the canonical form: addresses rising, no zero listed. -/
def Memory.write : Memory → Nat → Byte → Memory
  | [], a, b => if b = 0 then [] else [(a, b)]
  | (k, c) :: r, a, b =>
    if a < k then (if b = 0 then (k, c) :: r else (a, b) :: (k, c) :: r)
    else if k = a then (if b = 0 then r else (a, b) :: r)
    else (k, c) :: Memory.write r a b

/-- Every address listed is at least `n`, they rise strictly, and no zero is listed. -/
def Memory.wfFrom : Nat → Memory → Bool
  | _, [] => true
  | n, (k, b) :: r => decide (n ≤ k) && decide (b ≠ 0) && Memory.wfFrom (k + 1) r

/-- The canonical form. -/
def Memory.wf (m : Memory) : Bool := Memory.wfFrom 0 m

/-- Store bytes from an address upward. -/
def Memory.writeAll : Memory → Nat → Bytes → Memory
  | m, _, [] => m
  | m, a, b :: r => Memory.writeAll (m.write a b) (a + 1) r

/-- Store the enabled bytes from an address upward; bytes past the enables' end are enabled. -/
def Memory.writeEn : Memory → Nat → Bytes → List Bool → Memory
  | m, _, [], _ => m
  | m, a, b :: r, [] => Memory.writeEn (m.write a b) (a + 1) r []
  | m, a, b :: r, e :: es => Memory.writeEn (if e then m.write a b else m) (a + 1) r es

/-- `n` bytes from an address upward. -/
def Memory.readAll (m : Memory) (a : Nat) : Nat → Bytes
  | 0 => []
  | n + 1 => m.read a :: Memory.readAll m (a + 1) n

/-- Remove every cell with an address in `[lo, hi)`: those bytes then read 0 (wipes). -/
def Memory.clear (m : Memory) (lo hi : Nat) : Memory := m.filter fun c => decide (c.1 < lo) || decide (hi ≤ c.1)

/-! ### The device physical address map (R16) -/

inductive Region where
  | tier0 | tier1 | scratch | regs | unassigned
  deriving DecidableEq, Repr

def tier0End : Nat := 0x6000000000
def tier1End : Nat := 0x1E000000000
def scratchBase : Nat := 0x100000000000
def regBase : Nat := 0x110000000000

/-- The region an address lies in (R16). -/
def region (a : Nat) : Region :=
  if a < tier0End then .tier0
  else if a < tier1End then .tier1
  else if a < scratchBase then .unassigned
  else if a < scratchBase + 0x40000000 then
    (if (a - scratchBase) % 0x1000000 < 0xC00000 then .scratch else .unassigned)
  else if a < regBase then .unassigned
  else if a < regBase + 0x4000000 then .regs
  else .unassigned

/-- The tile whose scratchpad an address lies in. -/
def scratchTile (a : Nat) : Nat := (a - scratchBase) / 0x1000000

/-- The granules that `len` bytes at `a` fall in (R5). -/
def granules (a len : Nat) : List Nat :=
  if len = 0 then [] else (List.range ((a + len - 1) / 64 - a / 64 + 1)).map (a / 64 + ·)

/-- R17: a request is judged whole. -/
def anyUnassigned (a len : Nat) : Bool := (granules a len).any fun g => region (64 * g) == .unassigned

/-- A request that falls in the Fraiz register space (R18). -/
def anyRegs (a len : Nat) : Bool := (granules a len).any fun g => region (64 * g) == .regs

/-! ### Partitions and parties -/

/-- Partitions present on the part (R2, R395). -/
def State.present (s : State) (p : Nat) : Bool :=
  match s.part with
  | .v3s => decide (p < 4)
  | .v3x => decide (p < 16)

/-- The partition of a register access (R14, R490). -/
def whoPart : Who → Nat
  | .fn p => p.val
  | .core _ => 0

/-- An access of partition 0: its function, or a tailor core (R490). -/
def isMgr (w : Who) : Bool := whoPart w == 0

/-- The partition whose FLT and recorder-cursor registers an access uses (R397). -/
def State.actPart (s : State) : Who → Nat
  | .fn p => p.val
  | .core k => (s.prt.tcact.get 0 k.val).toNat

/-! ### Access to the numbered parts of State -/

def State.queue (s : State) (q : Nat) : Queue := s.gal.queues.get {} q
def State.setQueue (s : State) (q : Nat) (v : Queue) : State :=
  { s with gal := { s.gal with queues := s.gal.queues.set q v } }
def State.modQueue (s : State) (q : Nat) (f : Queue → Queue) : State := s.setQueue q (f (s.queue q))

def State.eng (s : State) (e : Nat) : Eng := s.plt.eng.get {} e
def State.setEng (s : State) (e : Nat) (v : Eng) : State := { s with plt := { s.plt with eng := s.plt.eng.set e v } }
def State.modEng (s : State) (e : Nat) (f : Eng → Eng) : State := s.setEng e (f (s.eng e))

def State.comp (s : State) (n : Nat) : Comp := s.cmp.comp.get {} n
def State.setComp (s : State) (n : Nat) (v : Comp) : State :=
  { s with cmp := { s.cmp with comp := s.cmp.comp.set n v } }
def State.modComp (s : State) (n : Nat) (f : Comp → Comp) : State := s.setComp n (f (s.comp n))

def State.fltp (s : State) (p : Nat) : FltP := s.flt.get {} p
def State.setFltp (s : State) (p : Nat) (v : FltP) : State := { s with flt := s.flt.set p v }
def State.modFltp (s : State) (p : Nat) (f : FltP → FltP) : State := s.setFltp p (f (s.fltp p))

/-- The table numbered `512p + t`. -/
def State.table (s : State) (t : Nat) : Table := s.epo.tables.get {} t
def State.setTable (s : State) (t : Nat) (v : Table) : State :=
  { s with epo := { s.epo with tables := s.epo.tables.set t v } }

/-- One slot of a table. -/
def Table.slot (t : Table) (isB : Bool) : Slot := if isB then t.b else t.a
def Table.setSlot (t : Table) (isB : Bool) (v : Slot) : Table := if isB then { t with b := v } else { t with a := v }

def State.tally (s : State) (t : Nat) : Tally := s.tal.get {} t
def State.setTally (s : State) (t : Nat) (v : Tally) : State := { s with tal := s.tal.set t v }

def State.win (s : State) (n : Nat) : WinU := s.seam.wins.get {} n
def State.setWin (s : State) (n : Nat) (v : WinU) : State :=
  { s with seam := { s.seam with wins := s.seam.wins.set n v } }

def State.link (s : State) (l : Nat) : Link := s.host.links.get {} l
def State.setLink (s : State) (l : Nat) (v : Link) : State :=
  { s with host := { s.host with links := s.host.links.set l v } }

def State.fn (s : State) (p : Nat) : Fn := s.host.fns.get {} p
def State.setFn (s : State) (p : Nat) (v : Fn) : State := { s with host := { s.host with fns := s.host.fns.set p v } }

def State.lk (s : State) (n : Nat) : Lka := s.lka.lk.get {} n
def State.setLk (s : State) (n : Nat) (v : Lka) : State := { s with lka := { s.lka with lk := s.lka.lk.set n v } }

def State.dom (s : State) (d : Nat) : Dom := s.aon.doms.get .run d
def State.setDom (s : State) (d : Nat) (v : Dom) : State := { s with aon := { s.aon with doms := s.aon.doms.set d v } }

/-- The unit with the given CODE and INST (R425). -/
def State.unit (s : State) (code inst : Nat) : UnitS := s.aon.units.get {} (256 * code + inst)
def State.setUnit (s : State) (code inst : Nat) (v : UnitS) : State :=
  { s with aon := { s.aon with units := s.aon.units.set (256 * code + inst) v } }

def State.trp (s : State) (p : Nat) : TrP := s.obs.tr.get {} p
def State.setTrp (s : State) (p : Nat) (v : TrP) : State := { s with obs := { s.obs with tr := s.obs.tr.set p v } }

/-- Send a message across the boundary. -/
def State.emit (s : State) (m : OutMsg) : State := { s with out := s.out ++ [m] }

/-- A request that Fraiz sends to an agent: for a tile without power it is held in the tile's port (R27). -/
def State.toTile (s : State) (t : Nat) (m : OutMsg) : State :=
  if decide (t < 64) && s.aon.tileOff.getLsbD t then { s with tileQ := s.tileQ ++ [(t, m)] } else s.emit m

/-- A message to the row caches of all tiles; each tile without power has its copy held in its port (R27). -/
def State.toTiles (s : State) (m : OutMsg) : State :=
  ({ s with tileQ := s.tileQ ++ ((List.range 64).filter fun t => s.aon.tileOff.getLsbD t).map fun t => (t, m) } : State).emit m

/-- `n` fresh free values are used, numbered from `s.free` on: the values themselves are opaque functions of the number. -/
def State.useFree (s : State) (n : Nat) : State := { s with free := s.free + n }

/-- The next `n` free bytes. -/
def State.freeBytes (s : State) (n : Nat) : Bytes := (List.range n).map fun i => Config.freeByte (s.free + i)

/-- A unit takes part in work: it is IN, or DRAINING what it holds (R428). -/
def State.serving (s : State) (code inst : Nat) : Bool :=
  match (s.unit code inst).st with
  | .in_ => true
  | .draining => true
  | _ => false

/-- The link that a partition's function stands on (R350). -/
def State.linkOf (s : State) (p : Nat) : Nat :=
  match s.part with
  | .v3s => if s.host.bifA && p == 3 then 1 else 0
  | .v3x =>
    if p < 8 then (if s.host.bifA && p == 7 then 1 else 0)
    else (if s.host.bifB && p == 15 then 3 else 2)

/-- The host-port domain of a function (R24, R436). -/
def State.portDom (s : State) (p : Nat) : Nat := if s.linkOf p < 2 then 1 else 2

/-- The port of a tile or of a tailor core is closed: its error source is latched (R449, R452). -/
def State.tileClosed (s : State) (t : Nat) : Bool := s.err.sticky.getLsbD (181 + t)
def State.coreClosed (s : State) (k : Nat) : Bool := s.err.sticky.getLsbD (245 + k)

/-- Some byte lies in the scratchpad of a tile whose port is closed (R449). -/
def State.anyClosed (s : State) (a len : Nat) : Bool :=
  (granules a len).any fun g => region (64 * g) == .scratch && s.tileClosed (scratchTile (64 * g))

/-- A unit takes new work (R426, R428). -/
def State.unitIn (s : State) (code inst : Nat) : Bool := (s.unit code inst).st == .in_

/-- Add to always-on counter `i` of a partition, modulo 2^48; nothing is counted while the unit is out (R460). -/
def State.pcntAdd (s : State) (p i n : Nat) : State :=
  if s.serving 0xC 0 then
    { s with obs := { s.obs with pcnt := s.obs.pcnt.set (8 * p + i) (s.obs.pcnt.get 0 (8 * p + i) + BitVec.ofNat 48 n) } }
  else s

/-- Charge granules to a partition's accounting period, and count them (R400, R460). -/
def State.chargeTo (s : State) (p n : Nat) : State :=
  ({ s with prt := { s.prt with charge := s.prt.charge.set p (s.prt.charge.get 0 p + n) } } : State).pcntAdd p 2 n

/-- The trace time base as a number (R459). -/
def State.now (s : State) : Nat := s.obs.time.toNat

/-- One sleeping domain starts its wake. -/
def State.wakeOne (s : State) (d : Nat) : State :=
  match s.dom d with
  | .idle => s.setDom d (.waking false)
  | .deep => s.setDom d (.waking true)
  | _ => s

/-- A sleeping domain is woken, and the Control domain with it, which sleeps only while every other does (R414, R416). -/
def State.wake (s : State) (d : Nat) : State :=
  match s.dom d with
  | .idle => (s.wakeOne d).wakeOne 0
  | .deep => (s.wakeOne d).wakeOne 0
  | _ => s

/-! ### The request pool -/

/-- A request with a given number. -/
def State.req? (s : State) (id : Nat) : Option Req := s.reqs.find? fun r => r.id == id

/-- The requests a unit holds, oldest first. -/
def State.reqsOf (s : State) (p : Owner → Bool) : List Req := s.reqs.filter fun r => p r.owner

/-- Replace the request that has `r`'s number. -/
def State.setReq (s : State) (r : Req) : State := { s with reqs := s.reqs.map fun x => if x.id == r.id then r else x }

/-- Its host request has left, and its completion is due. -/
def Req.atHost (r : Req) : Bool :=
  match r.st with
  | .sent (.host _ _) => true
  | _ => false

/-- A request ends and leaves the pool; it no longer uses any translation (R120). One whose completion the host still owes is kept
aside: what comes back is discarded (R71, R364). -/
def State.dropReq (s : State) (id : Nat) : State :=
  { s with
    reqs := s.reqs.filter fun r => r.id != id
    orphans := s.orphans ++ (optList (s.req? id)).filter (·.atHost)
    trn := { s.trn with invs := s.trn.invs.map fun i => { i with users := i.users.erase id } } }

/-- Drop every request that satisfies `p`. -/
def State.dropReqs (s : State) (p : Req → Bool) : State :=
  (s.reqs.filter p).foldl (fun s r => s.dropReq r.id) s

/-- A new request, not yet presented for translation. -/
def State.addReq (s : State) (o : Owner) (src part ctx va len : Nat) (acc : Acc) (data : Bytes) (en : List Bool) : State :=
  { s with
    nextId := s.nextId + 1
    reqs := s.reqs ++ [{ id := s.nextId, owner := o, src := BitVec.ofNat 9 src, part := part, ctx := ctx, va := va,
                         len := len, acc := acc, data := data, en := en, st := .held, replay := none, phys := false }] }

/-- A new request at a device physical address: it takes no translation (R493). -/
def State.addPhys (s : State) (o : Owner) (src part a len : Nat) (acc : Acc) : State :=
  { s with
    nextId := s.nextId + 1
    reqs := s.reqs ++ [{ id := s.nextId, owner := o, src := BitVec.ofNat 9 src, part := part, ctx := 0, va := a, len := len,
                         acc := acc, data := [], en := [], st := .issued (.dev a), replay := none, phys := true }] }

/-- A new write at a device physical address (R493). -/
def State.addPhysWrite (s : State) (o : Owner) (src part a : Nat) (data : Bytes) : State :=
  { s with
    nextId := s.nextId + 1
    reqs := s.reqs ++ [{ id := s.nextId, owner := o, src := BitVec.ofNat 9 src, part := part, ctx := 0, va := a,
                         len := data.length, acc := .write, data := data, en := [], st := .issued (.dev a), replay := none,
                         phys := true }] }

/-- Where an issued request went. -/
def ReqSt.out? : ReqSt → Option Out
  | .issued o => some o
  | .have o _ => some o
  | .done o => some o
  | .failed o _ => some o
  | .bwWait o => some o
  | .tileOff o => some o
  | _ => none

/-- A request that has been issued and has not been performed or answered. -/
def ReqSt.isIssued : ReqSt → Bool
  | .issued _ => true
  | .tileOff _ => true
  | _ => false

/-- Not yet issued: held, waiting or faulted. -/
def ReqSt.unissued : ReqSt → Bool
  | .held => true
  | .ctxWait => true
  | .missWait => true
  | .walking _ => true
  | .entryWait _ _ => true
  | .faulted _ _ => true
  | .bwWait _ => true
  | _ => false

/-- Stalled by a fault. -/
def ReqSt.inFault : ReqSt → Bool
  | .entryWait _ _ => true
  | .faulted _ _ => true
  | _ => false

/-- The device granules an unperformed request covers. -/
def Req.devGranules (r : Req) : List Nat :=
  match r.st with
  | .issued (.dev a) => granules a r.len
  | .tileOff (.dev a) => granules a r.len
  | _ => []

/-- R33: an earlier request of the same source to one of its granules has not been performed. -/
def State.orderHeld (s : State) (r : Req) : Bool :=
  (s.reqs.takeWhile fun x => x.id != r.id).any fun x =>
    x.src == r.src && x.devGranules.any fun g => r.devGranules.contains g

/-! ### Poison and the veil -/

/-- A byte address in a veiled region (R369). -/
def State.veiled (s : State) (a : Nat) : Bool :=
  s.veil.any fun v => decide (v.2.1 ≤ a / 2 ^ 21) && decide (a / 2 ^ 21 ≤ v.2.2)

/-- A device range that meets a poisoned granule (R337); a veiled granule reads 0 whatever it held (R369). -/
def State.poisoned (s : State) (a len : Nat) : Bool :=
  (granules a len).any fun g => s.poison.contains g && !s.veiled (64 * g)

/-- What the home returns for a read (R30): veiled bytes read 0 (R369). -/
def State.readMem (s : State) (a len : Nat) : Bytes :=
  (List.range len).map fun i => if s.veiled (a + i) then 0 else Memory.read s.mem (a + i)

/-- A write performed at its home: the enabled bytes change and no other (R29). -/
def State.storeMem (s : State) (a : Nat) (data : Bytes) (en : List Bool) : State :=
  { s with mem := Memory.writeEn s.mem a data en }

end Sys2Proof.Machine
end

