-- ==== Sys2Proof/Machine/Numeric.lean ====
section
/-! DEFINITION. The numbers of chapters 6 and 8: element formats (R183), exact values (R241), one rounding to a format
(R186, R251, R252) and the fp32 steps of R227. -/

namespace Sys2Proof

open Sys2Proof.Machine

/-- Positive zero. -/
def Val.zero : Val := .fin false 0 1 0

/-- An integer times a power of two. -/
def Val.ofInt (i : Int) (e : Int) : Val := .fin (decide (i < 0)) i.natAbs 1 e

def Val.isNan : Val → Bool
  | .nan => true
  | _ => false

def Val.isInf : Val → Bool
  | .inf _ => true
  | _ => false

def Val.isFin : Val → Bool
  | .fin _ _ _ _ => true
  | _ => false

def Val.isZero : Val → Bool
  | .fin _ n _ _ => n == 0
  | _ => false

def Val.neg? : Val → Bool
  | .nan => false
  | .inf s => s
  | .fin s _ _ _ => s

def Val.negate : Val → Val
  | .nan => .nan
  | .inf s => .inf (!s)
  | .fin s n d e => .fin (!s) n d e

/-- A product, as IEEE 754 classifies it (R243). -/
def Val.mul : Val → Val → Val
  | .nan, _ => .nan
  | _, .nan => .nan
  | .inf s, y => if y.isZero then .nan else .inf (xor s y.neg?)
  | x, .inf s => if x.isZero then .nan else .inf (xor s x.neg?)
  | .fin s n d e, .fin t m c f => .fin (xor s t) (n * m) (d * c) (e + f)

/-- A contribution of a row element and its weight, by the first row of R243 that applies: an infinite weight makes an infinity of every
element that is no NaN, a zero one included. -/
def Val.contribution (x w : Val) : Val :=
  match x, w with
  | .nan, _ => .nan
  | _, .nan => .nan
  | .inf s, y => if y.isZero then .nan else .inf (xor s y.neg?)
  | y, .inf s => .inf (xor s y.neg?)
  | x, w => x.mul w

/-- A contribution of a gradient element: a zero one contributes 0 under every weight that is no NaN (R255). -/
def Val.gradContribution (g w : Val) : Val :=
  match w with
  | .nan => .nan
  | w => if g.isZero then .fin false 0 1 0 else g.contribution w

/-- A quotient. -/
def Val.div : Val → Val → Val
  | .nan, _ => .nan
  | _, .nan => .nan
  | .inf s, .inf _ => if s then .nan else .nan
  | .inf s, y => .inf (xor s y.neg?)
  | .fin s _ _ _, .inf t => .fin (xor s t) 0 1 0
  | .fin s n d e, .fin t m c f =>
    if m = 0 then (if n = 0 then .nan else .inf (xor s t)) else .fin (xor s t) (n * c) (d * m) (e - f)

/-- A sum; an exact zero sum of opposite signs is +0. -/
def Val.add : Val → Val → Val
  | .nan, _ => .nan
  | _, .nan => .nan
  | .inf s, .inf t => if s = t then .inf s else .nan
  | .inf s, _ => .inf s
  | _, .inf t => .inf t
  | .fin s n d e, .fin t m c f =>
    let g := min e f
    let a : Int := n * c * 2 ^ (e - g).toNat
    let b : Int := m * d * 2 ^ (f - g).toNat
    let r := (if s then -a else a) + (if t then -b else b)
    if r = 0 then .fin (s && t) 0 1 0 else .fin (decide (r < 0)) r.natAbs (d * c) g

/-- Compare two finite values: x < y. -/
def Val.finLt (s : Bool) (n d : Nat) (e : Int) (t : Bool) (m c : Nat) (f : Int) : Bool :=
  let g := min e f
  let a : Int := n * c * 2 ^ (e - g).toNat
  let b : Int := m * d * 2 ^ (f - g).toNat
  decide ((if s then -a else a) < (if t then -b else b))

/-- The total order of R249: -infinity, negative values, -0, +0, positive values, +infinity. -/
def Val.lt : Val → Val → Bool
  | .inf true, .inf true => false
  | .inf true, _ => true
  | _, .inf true => false
  | .inf false, _ => false
  | _, .inf false => true
  | .fin s n d e, .fin t m c f =>
    if n = 0 ∧ m = 0 then s && !t else Val.finLt s n d e t m c f
  | _, _ => false

end Sys2Proof

namespace Sys2Proof.Machine

open Sys2Proof

/-! ### Formats -/

/-- A float format: mantissa bits, exponent bits, bias, and whether it has infinities. -/
structure Flt where
  man  : Nat
  exb  : Nat
  bias : Nat
  inf  : Bool
  deriving DecidableEq, Repr

/-- The float formats of R183 by code. -/
def fltOf (code : Nat) : Option Flt :=
  match code with
  | 1 => some ⟨23, 8, 127, true⟩
  | 2 => some ⟨7, 8, 127, true⟩
  | 3 => some ⟨10, 5, 15, true⟩
  | 4 => some ⟨3, 4, 7, false⟩
  | 5 => some ⟨2, 5, 15, true⟩
  | _ => none

/-- Bits per element (R183); BYTES counts each byte as an element (R187). -/
def fmtBits (code : Nat) : Nat :=
  match code with
  | 1 => 32
  | 2 => 16
  | 3 => 16
  | 7 => 4
  | _ => 8

/-- The value of a float's bits; subnormals are kept (R241). -/
def Flt.value (f : Flt) (x : Nat) : Val :=
  let m := x % 2 ^ f.man
  let e := x / 2 ^ f.man % 2 ^ f.exb
  let s := decide (x / 2 ^ (f.man + f.exb) % 2 = 1)
  let top := 2 ^ f.exb - 1
  if f.inf && e == top then (if m = 0 then .inf s else .nan)
  else if !f.inf && e == top && m == 2 ^ f.man - 1 then .nan
  else if e = 0 then .fin s m 1 (1 - (f.bias : Int) - f.man)
  else .fin s (m + 2 ^ f.man) 1 ((e : Int) - f.bias - f.man)

/-- A two's-complement integer of `w` bits. -/
def signed (w x : Nat) : Int := if x % 2 ^ w < 2 ^ (w - 1) then (x % 2 ^ w : Nat) else ((x % 2 ^ w : Nat) : Int) - 2 ^ w

/-- The value of an element as it stands (R241). -/
def elemValue (code x : Nat) : Val :=
  match fltOf code with
  | some f => f.value x
  | none => .ofInt (signed (fmtBits code) x) 0

/-- Floor of log2 of `n / d`, for n and d not 0. -/
def ilog (n d : Nat) : Int :=
  let a := Nat.log2 n
  let b := Nat.log2 d
  if d * 2 ^ (a - b) ≤ n * 2 ^ (b - a) then (a : Int) - b else (a : Int) - b - 1

/-- The nearest integer to `n / d x 2^e`, ties to even. -/
def nearest (n d : Nat) (e : Int) : Nat :=
  let a := n * 2 ^ e.toNat
  let b := d * 2 ^ (-e).toNat
  let q := a / b
  let r := a % b
  if 2 * r < b then q else if b < 2 * r then q + 1 else q + q % 2

/-- The canonical NaN (R252). -/
def Flt.nanBits (f : Flt) : Nat :=
  if f.inf then (2 ^ f.exb - 1) * 2 ^ f.man + 2 ^ (f.man - 1) else 2 ^ (f.man + f.exb) - 1

/-- The largest finite magnitude's bits. -/
def Flt.maxBits (f : Flt) : Nat :=
  if f.inf then (2 ^ f.exb - 1) * 2 ^ f.man - 1 else 2 ^ (f.man + f.exb) - 2

/-- Round once to a float format: nearest even, subnormals kept; too large gives infinity, or the largest finite magnitude
where there is none (R186, R251). -/
def Flt.round (f : Flt) (v : Val) : Nat :=
  let sg (s : Bool) := b2n s * 2 ^ (f.man + f.exb)
  let big := if f.inf then (2 ^ f.exb - 1) * 2 ^ f.man else f.maxBits
  match v with
  | .nan => f.nanBits
  | .inf s => sg s + big
  | .fin s n d e =>
    if n = 0 then sg s
    else
      let low : Int := 1 - (f.bias : Int) - f.man
      let u := max (ilog n d + e - f.man) low
      let k := nearest n d (e - u)
      -- the encoding counts up from the least subnormal, one step for each unit in the last place
      let code := k + (u - low).toNat * 2 ^ f.man
      sg s + min code big

/-- Round once to an integer format, ties to even; out of range gives the bound, NaN gives 0 (R186). -/
def roundInt (w : Nat) (v : Val) : Nat :=
  let clampTo (i : Int) : Nat :=
    let lo : Int := -(2 ^ (w - 1))
    let hi : Int := 2 ^ (w - 1) - 1
    ((if i < lo then lo else if hi < i then hi else i) % 2 ^ w).toNat
  match v with
  | .nan => 0
  | .inf s => clampTo (if s then -(2 ^ w) else 2 ^ w)
  | .fin s n d e =>
    let k : Int := nearest n d e
    clampTo (if s then -k else k)

/-- Round a value once to an element format. -/
def roundElem (code : Nat) (v : Val) : Nat :=
  match fltOf code with
  | some f => f.round v
  | none => roundInt (fmtBits code) v

def fp32 : Flt := ⟨23, 8, 127, true⟩
def fp16 : Flt := ⟨10, 5, 15, true⟩

/-- Round to fp32 and take the value held (R227). -/
def r32 (v : Val) : Val := fp32.value (fp32.round v)

/-- The floor of the square root, by bits from `b` down. -/
def isqrtGo (n : Nat) : Nat → Nat → Nat
  | 0, r => r
  | b + 1, r => if (r + 2 ^ b) * (r + 2 ^ b) ≤ n then isqrtGo n b (r + 2 ^ b) else isqrtGo n b r

def isqrt (n : Nat) : Nat := isqrtGo n (Nat.log2 n / 2 + 1) 0

/-- The square root of a value held in fp32, rounded once (R227). A negative value gives a NaN; a zero gives itself. -/
def sqrt32 (v : Val) : Val :=
  match v with
  | .nan => .nan
  | .inf s => if s then .nan else .inf false
  | .fin s n d e =>
    if n = 0 then .fin s 0 1 0
    else if s then .nan
    else
      -- scale to an integer with an even exponent and far more bits than fp32 keeps, and mark an inexact root
      let k : Nat := 80 + (if (e - 80) % 2 = 0 then 0 else 1)
      let m := n * 2 ^ k / d
      let r := isqrt m
      let sticky := if r * r = m then 0 else 1
      r32 (.fin false (2 * r + sticky) 1 ((e - k) / 2 - 1))

/-! ### Packed elements (R207) -/

/-- Element `j` of packed elements of a format. -/
def elemAt (code : Nat) (b : Bytes) (j : Nat) : Nat :=
  match fmtBits code with
  | 32 => numAt b (4 * j) 4
  | 16 => numAt b (2 * j) 2
  | 4 => bits (numAt b (j / 2) 1) (4 * (j % 2) + 3) (4 * (j % 2))
  | _ => numAt b j 1

/-- Pack element values of a format. -/
def packElems (code : Nat) : List Nat → Bytes
  | [] => []
  | [x] => if fmtBits code = 4 then [BitVec.ofNat 8 (x % 16)] else toLE (fmtBits code / 8) x
  | x :: y :: r =>
    if fmtBits code = 4 then BitVec.ofNat 8 (x % 16 + 16 * (y % 16)) :: packElems code r
    else toLE (fmtBits code / 8) x ++ packElems code (y :: r)

/-- Bytes of `e` packed elements. -/
def elemBytes (code e : Nat) : Nat := e * fmtBits code / 8

/-- The dequantised value of element `j` of a row: `q x s + b` when the row carries a scale and bias at `eb` (R241). -/
def dequant (code : Nat) (scaled : Bool) (row : Bytes) (eb j : Nat) : Val :=
  let q := elemValue code (elemAt code row j)
  if scaled then (q.mul (fp16.value (numAt row eb 2))).add (fp16.value (numAt row (eb + 2) 2)) else q

end Sys2Proof.Machine
end

