-- ==== Sys2Proof/Machine/Operands.lean ====
section
/-! DEFINITION. The operand forms: the fields of a slug and its extensions (R63, R130, R166, R180 to R182, R212, R213, R217,
R223, R301), the seal (R64), epoch records and segments (R205 to R209), and the plan of a MOVE or PUT (R175 to R187). -/

namespace Sys2Proof.Machine

open Sys2Proof

/-! ### The slug (R63) -/

def slugOpcode (b : Bytes) : Nat := numAt b 0 1
def slugExt (b : Bytes) : Nat := bits (numAt b 0 4) 10 8
def slugFence (b : Bytes) : Bool := bit (numAt b 0 4) 11
def slugCrec (b : Bytes) : Bool := bit (numAt b 0 4) 12
def slugIrq (b : Bytes) : Bool := bit (numAt b 0 4) 13
def slugWaitt (b : Bytes) : Bool := bit (numAt b 0 4) 14
def slugCt (b : Bytes) : Bool := bit (numAt b 0 4) 15
def slugCtinc (b : Bytes) : Nat := numAt b 2 1
def slugTag (b : Bytes) : Nat := numAt b 4 4
def slugWtally (b : Bytes) : Nat := numAt b 8 2
def slugCtally (b : Bytes) : Nat := numAt b 10 2
def slugPhase (b : Bytes) : Nat := bits (numAt b 62 2) 9 8
def slugCheck (b : Bytes) : Nat := numAt b 62 1

/-- The payload of the extensions. -/
def slugPayload (b : Bytes) : Bytes := b.drop 64

/-- Extension slug `i`, from 1. -/
def slugExtn (b : Bytes) (i : Nat) : Bytes := slice b (64 * i) 64

/-! ### The seal (R64) -/

/-- Eight shifts of the check code. -/
def crcShift : Nat → Nat → Nat
  | 0, c => c
  | n + 1, c => crcShift n (if bit c 7 then Nat.xor (c * 2 % 256) 7 else c * 2 % 256)

/-- CRC-8 of a byte string from a given value. -/
def crcFrom : Nat → Bytes → Nat
  | c, [] => c
  | c, b :: r => crcFrom (crcShift 8 (Nat.xor c b.toNat)) r

/-- The check code of covered bytes and a phase. -/
def checkCode (b : Bytes) (phase : Nat) : Nat := crcFrom 0xFF (b ++ [BitVec.ofNat 8 phase])

/-- The head slug's own seal: PHASE equals the ring's and CHECK agrees. -/
def headSeal (b : Bytes) (phase : Nat) : Bool :=
  slugPhase b == phase && slugCheck b == checkCode (b.take 62) phase

/-- The entries ECHK[0] to ECHK[6] of extensions that are here agree; entries of extensions the slug does not have are 0. -/
def extSeals (b : Bytes) (here : Nat) (phase : Nat) : Bool :=
  (List.range 7).all fun e =>
    if e < slugExt b then (decide (here ≤ e) || numAt b (54 + e) 1 == checkCode (slugExtn b (e + 1)) phase)
    else numAt b (54 + e) 1 == 0

/-! ### Body fields -/

/-- A 57-bit address field of 8 bytes. -/
def addr57 (b : Bytes) (off : Nat) : Nat := numAt b off 8 % 2 ^ 57

/-! ### Tables (R205 to R208) -/

def recPlace (r : Bytes) : Nat := addr57 r 0
def recRows (r : Bytes) : Nat := numAt r 8 4
def recSwen (r : Bytes) : Bool := bit (numAt r 12 1) 4
def recState (r : Bytes) : Nat := bits (numAt r 12 1) 3 2
def recDirect (r : Bytes) : Bool := bit (numAt r 12 1) 1
def recNseg (r : Bytes) : Nat := numAt r 13 1
def recElem (r : Bytes) : Nat := numAt r 14 2
def recRange (r : Bytes) : Int := signed 16 (numAt r 16 2)
def segBase (r : Bytes) (s : Nat) : Nat := addr57 r (64 + 16 * s)
def segFmt (r : Bytes) (s : Nat) : Nat := numAt r (72 + 16 * s) 1
def segStride (r : Bytes) (s : Nat) : Nat := numAt r (74 + 16 * s) 2
def segSlots (r : Bytes) (s : Nat) : Nat := numAt r (76 + 16 * s) 4

/-- EB, RB, SO of a row of a format (R207). -/
def rowEb (fmt e : Nat) : Nat := elemBytes fmt e
def rowRb (fmt e : Nat) : Nat := if fmt = 2 then rowEb fmt e else rowEb fmt e + 4
def rowSo (fmt e : Nat) : Nat := divUp (rowRb fmt e) 4 * 4

/-- Bytes of optimiser state beside a row. -/
def stateBytes (st e : Nat) : Nat :=
  match st with
  | 1 => 4 * e
  | 2 => 4
  | _ => 0

def segFmtOk (f : Nat) : Bool := f == 2 || f == 4 || f == 5 || f == 6 || f == 7

/-- A segment in use is valid (R208). -/
def segOk (r : Bytes) (s : Nat) : Bool :=
  let e := recElem r
  let f := segFmt r s
  bits (numAt r (64 + 16 * s) 8) 63 57 == 0 && numAt r (73 + 16 * s) 1 == 0 && segFmtOk f && decide (0 < segSlots r s) &&
    segStride r s % 4 == 0 && decide (rowSo f e + stateBytes (recState r) e ≤ segStride r s) && (f != 7 || e % 2 == 0)

/-- A record is valid (R208). -/
def recordOk (r : Bytes) : Bool :=
  let flags := numAt r 12 1
  decide (1 ≤ recRows r) && decide (1 ≤ recNseg r) && decide (recNseg r ≤ 4) && decide (1 ≤ recElem r) &&
    decide (recElem r ≤ 1024) && recState r != 3 && bits flags 7 5 == 0 && !bit flags 0 && bits (numAt r 0 8) 63 57 == 0 &&
    (slice r 18 46).all (· == 0) && (List.range (recNseg r)).all (segOk r) &&
    (!recDirect r || (recNseg r == 1 && decide (recRows r ≤ segSlots r 0)))

/-! ### The plan of a MOVE or PUT -/

/-- One side's shape, from its extension slug (R181). -/
def shapeOf (x : Bytes) : Shape :=
  { addr := addr57 x 0, len0 := numAt x 8 4, c1 := numAt x 12 4, c2 := numAt x 16 4, c3 := numAt x 20 4,
    s1 := BitVec.ofNat 64 (numAt x 24 8), s2 := BitVec.ofNat 64 (numAt x 32 8), s3 := BitVec.ofNat 64 (numAt x 40 8) }

/-- The bytes of a shape's stream. -/
def Shape.bytes (h : Shape) : Nat := h.len0 * h.c1 * h.c2 * h.c3

/-- The virtual address of a stream offset (R175); addresses wrap modulo 2^57. -/
def Shape.addrAt (h : Shape) (off : Nat) : Nat :=
  let b := off % h.len0
  let l := off / h.len0
  let a : Int := h.addr + (l % h.c1 : Nat) * h.s1.toInt + (l / h.c1 % h.c2 : Nat) * h.s2.toInt +
    (l / h.c1 / h.c2 : Nat) * h.s3.toInt + b
  (a % 2 ^ 57).toNat

/-- The cursors of a stream offset (R177). -/
def Shape.cursors (h : Shape) (off : Nat) : Nat × Nat × Nat × Nat :=
  let l := off / h.len0
  (off % h.len0, l % h.c1, l / h.c1 % h.c2, l / h.c1 / h.c2)

/-- The end of the piece that begins at a stream offset: the end of its granule or of its descriptor line. -/
def Shape.pieceEnd (h : Shape) (off : Nat) : Nat :=
  min (off + (64 - h.addrAt off % 64)) ((off / h.len0 + 1) * h.len0)

/-- The conversion fields of a MOVE (R180). -/
structure Conv where
  sf    : Nat := 0
  df    : Nat := 0
  lay   : Nat := 0
  sscb  : Bool := false
  dscb  : Bool := false
  elems : Nat := 0
  group : Nat := 0
  slice : Nat := 0
  deriving DecidableEq, Repr

def convOf (b : Bytes) : Conv :=
  { sf := bits (numAt b 12 1) 3 0, df := bits (numAt b 12 1) 7 4, lay := bits (numAt b 13 1) 3 2, sscb := bit (numAt b 13 1) 0,
    dscb := bit (numAt b 13 1) 1, elems := numAt b 14 2, group := numAt b 16 2, slice := numAt b 18 1 }

/-- Width conversion takes place (R186). -/
def Conv.wide (c : Conv) : Bool := c.sf != c.df || c.sscb != c.dscb

/-- RBS and RBD (R186, R187, R207). -/
def Conv.rbs (c : Conv) : Nat := elemBytes c.sf c.elems + (if c.sscb then 4 else 0)
def Conv.rbd (c : Conv) : Nat := elemBytes c.df c.elems + (if c.dscb then 4 else 0)

/-- SB (R187). -/
def Conv.sb (c : Conv) : Nat := 64 * c.slice

/-- The offset, in the converted stream, of a destination byte (R187): the inverse of the layout conversion. -/
def Conv.unlay (c : Conv) (j : Nat) : Nat :=
  let blk := c.group * c.rbd
  let k := j % blk
  let base := j - k
  match c.lay with
  | 1 => base + (k % (c.group * c.sb) / c.sb) * c.rbd + (k / (c.group * c.sb)) * c.sb + k % c.sb
  | 2 =>
    let r := k / c.rbd
    let b := k % c.rbd
    base + (b / c.sb) * (c.group * c.sb) + r * c.sb + b % c.sb
  | _ => j

/-- The destination offset of a converted byte: the layout conversion itself. -/
def Conv.relay (c : Conv) (j : Nat) : Nat :=
  match c.lay with
  | 1 => Conv.unlay { c with lay := 2 } j
  | 2 => Conv.unlay { c with lay := 1 } j
  | _ => j

/-- The source offsets that a converted byte needs. -/
def Conv.needs (c : Conv) (j : Nat) : List Nat :=
  if !c.wide then [j]
  else
    let row := j / c.rbd * c.rbs
    let b := j % c.rbd
    let eb := elemBytes c.df c.elems
    if eb ≤ b then []
    else
      let sb := fmtBits c.sf
      let one (e : Nat) : List Nat := (List.range (max 1 (sb / 8))).map fun i => row + e * sb / 8 + i
      let e := b * 8 / fmtBits c.df
      (if fmtBits c.df = 4 then one e ++ one (e + 1) else one e) ++
        (if c.sscb then (List.range 4).map fun i => row + elemBytes c.sf c.elems + i else [])

/-- The value of a converted byte, from a view of the source stream. -/
def Conv.byteAt (c : Conv) (src : Nat → Byte) (j : Nat) : Byte :=
  if !c.wide then src j
  else
    let row := j / c.rbd * c.rbs
    let b := j % c.rbd
    let eb := elemBytes c.df c.elems
    if eb ≤ b then [0x00, 0x3C, 0x00, 0x00].getD (b - eb) 0
    else
      let seb := elemBytes c.sf c.elems
      let get (off n : Nat) : Nat := leNat ((List.range n).map fun i => src (row + off + i))
      let raw (e : Nat) : Nat :=
        match fmtBits c.sf with
        | 32 => get (4 * e) 4
        | 16 => get (2 * e) 2
        | 4 => bits (get (e / 2) 1) (4 * (e % 2) + 3) (4 * (e % 2))
        | _ => get e 1
      let val (e : Nat) : Val :=
        let q := elemValue c.sf (raw e)
        if c.sscb then (q.mul (fp16.value (get seb 2))).add (fp16.value (get (seb + 2) 2)) else q
      let out (e : Nat) : Nat := roundElem c.df (val e)
      let db := fmtBits c.df
      if db = 4 then BitVec.ofNat 8 (out (2 * b) % 16 + 16 * (out (2 * b + 1) % 16))
      else BitVec.ofNat 8 (out (b * 8 / db) / 2 ^ (8 * (b % (db / 8))))

/-- A PUT's destination: one line (R182). -/
def putShape (b : Bytes) : Shape := { addr := addr57 b 12, len0 := numAt b 20 2, c1 := 1, c2 := 1, c3 := 1 }

def srcShape (b : Bytes) : Shape := shapeOf (slugExtn b 1)
def dstShape (b : Bytes) : Shape := if slugOpcode b = 0x11 then putShape b else shapeOf (slugExtn b 2)

/-- The stream offset that START0 to START3 name (R181). -/
def startOff (b : Bytes) : Nat :=
  if slugOpcode b = 0x11 then 0
  else
    let d := dstShape b
    numAt b 20 4 + d.len0 * (numAt b 24 4 + d.c1 * (numAt b 28 4 + d.c2 * numAt b 32 4))

/-- Why a MOVE fails its checks, in the order of R184; `none` when it passes. -/
def moveCheck (b : Bytes) : Option Nat :=
  let c := convOf b
  let s := srcShape b
  let d := dstShape b
  let lay := c.lay != 0
  let conv := c.wide || lay
  let odd4 := (c.sf == 7 || c.df == 7) && c.elems % 2 == 1
  if slugExt b ≠ 2 ∨ c.lay = 3 then some 0x03
  else if (conv && (decide (4096 < c.elems))) || (lay && decide (256 < c.group)) then some 0x03
  else if conv && (c.elems == 0 || odd4) then some 0x03
  else if lay && (c.group == 0 || c.slice == 0) then some 0x03
  else if decide (7 < c.sf) || decide (7 < c.df) || ((c.sf == 0) != (c.df == 0)) || ((c.sscb || c.dscb) && (c.sf == 0 || c.df == 0))
  then some 0x21
  else if decide (2 ^ 48 ≤ s.bytes) || decide (2 ^ 48 ≤ d.bytes) then some 0x20
  else if c.wide && (s.bytes % c.rbs != 0 || d.bytes != s.bytes / c.rbs * c.rbd) then some 0x20
  else if !c.wide && s.bytes != d.bytes then some 0x20
  else if lay && (c.rbd % c.sb != 0 || d.bytes % (c.group * c.rbd) != 0) then some 0x20
  else if d.bytes ≠ 0 ∧ (d.len0 ≤ numAt b 20 4 ∨ d.c1 ≤ numAt b 24 4 ∨ d.c2 ≤ numAt b 28 4 ∨ d.c3 ≤ numAt b 32 4) then some 0x22
  else none

/-- Why a PUT fails (R182). -/
def putCheck (b : Bytes) : Option Nat := if 64 * slugExt b < numAt b 20 2 then some 0x03 else none

end Sys2Proof.Machine
end

