-- ==== Sys2Proof/Machine/Pooling.lean ====
section
/-! DEFINITION. Pica accumulators and rounding of results (R242 to R253), and the optimiser step of a scatter (R227). -/

namespace Sys2Proof.Machine

open Sys2Proof

/-! ### Accumulators -/

def picaMax : Int := 2 ^ 191 - 1
def picaMin : Int := -(2 ^ 191)

/-- Add a contribution `k` times: rounded once to a multiple of 2^g, bounded before the multiplicity applies (R245,
R246). -/
def Pica.addVal (a : Pica) (c : Val) (k : Nat) (g : Int) : Pica :=
  match c with
  | .nan => { a with nanf := true }
  | .inf true => { a with infn := true }
  | .inf false => { a with infp := true }
  | .fin s n d e =>
    let m : Int := nearest n d (e - g)
    let c0 : Int := if s then -m else m
    if (2 ^ 191 : Int) < c0.natAbs then
      { a with wovf := true, sum := a.sum + k * (if s then picaMin else picaMax) }
    else { a with sum := a.sum + k * c0 }

/-- Take a value into the extreme held (R249). -/
def Pica.extreme (a : Pica) (v : Val) (isMax : Bool) : Pica :=
  if v.isNan then { a with nanf := true }
  else match a.ext with
    | none => { a with ext := some v }
    | some h => if (if isMax then h.lt v else v.lt h) then { a with ext := some v } else a

/-- The window-overflow flag at rounding: a bounded contribution, or a sum out of range where no NaN and no infinity comes first (R251). -/
def Pica.overflow (a : Pica) : Bool :=
  a.wovf || (!(a.nanf || a.infp || a.infn) && (decide (a.sum < picaMin) || decide (picaMax < a.sum)))

/-- The value rounded to the output format, first row that applies (R249, R251). `len` is L. -/
def Pica.result (a : Pica) (op : Nat) (g : Int) (len : Nat) : Val :=
  if op = 3 ∨ op = 4 then (if a.nanf then .nan else a.ext.getD Val.zero)
  else if a.nanf || (a.infp && a.infn) then .nan
  else if a.infp then .inf false
  else if a.infn then .inf true
  else
    let sum := if a.sum < picaMin then picaMin else if picaMax < a.sum then picaMax else a.sum
    let v := Val.ofInt sum g
    if op = 2 then v.div (.fin false len 1 0) else v

/-- WFMT as an element format (R212). -/
def wfmtCode (w : Nat) : Nat := w + 1

/-! ### The optimiser step -/

/-- The dequantised elements of a row of a table segment (R241). -/
def rowValues (fmt e : Nat) (row : Bytes) : List Val := (List.range e).map fun j => dequant fmt (fmt != 2) row (rowEb fmt e) j

/-- fp32 sum in element order of the squares of the gradient (R227). -/
def sumSquares (g : List Val) : Val := g.foldl (fun a x => r32 (a.add (r32 (x.mul x)))) Val.zero

/-- New weights and new state (R227), in fp32, each operation rounded once. `opt`: 0 SGD, 1 momentum, 2 row-wise Adagrad. -/
def optValues (opt e : Nat) (lr mu eps : Val) (w g st : List Val) : List Val × List Val :=
  match opt with
  | 0 => ((w.zip g).map fun x => r32 (x.1.add (r32 (lr.mul x.2)).negate), [])
  | 1 =>
    let m := (st.zip g).map fun x => r32 ((r32 (mu.mul x.1)).add x.2)
    ((w.zip m).map fun x => r32 (x.1.add (r32 (lr.mul x.2)).negate), m)
  | _ =>
    let q := r32 ((sumSquares g).div (.fin false e 1 0))
    let a := r32 ((st.getD 0 Val.zero).add q)
    let d := r32 ((sqrt32 a).add eps)
    ((w.zip g).map fun x => r32 (x.1.add (r32 ((r32 (lr.mul x.2)).div d)).negate), [a])

/-- The row and its state after the step; `none` where the row is left unchanged (NANSKIP). -/
def optStep (opt fmt e : Nat) (lr mu eps : Val) (g : List Val) (row : Bytes) : Option Bytes :=
  let so := rowSo fmt e
  let nst := match opt with | 0 => 0 | 1 => e | _ => 1
  let st := (List.range nst).map fun i => fp32.value (numAt row (so + 4 * i) 4)
  let w := (rowValues fmt e row).map r32
  let (nw, ns) := optValues opt e lr mu eps w g st
  if !(g.all Val.isFin && nw.all Val.isFin && ns.all Val.isFin) then none
  else
    let eb := rowEb fmt e
    let scale := fp16.value (numAt row eb 2)
    let bias := fp16.value (numAt row (eb + 2) 2)
    let qs := if fmt = 2 then nw else nw.map fun x => r32 ((r32 (x.add bias.negate)).div scale)
    if !qs.all Val.isFin then none
    else
      let elems := packElems fmt (qs.map (roundElem fmt))
      let tail := ns.flatMap fun x => toLE 4 (fp32.round x)
      some (elems ++ slice row eb (so - eb) ++ (if nst = 0 then row.drop so else tail ++ row.drop (so + 4 * nst)))

/-- Bytes of the row that the step writes: the elements, and the state unless SGD (R227). -/
def optWrites (opt fmt e off : Nat) : Bool :=
  decide (off < rowEb fmt e) || (opt != 0 && decide (rowSo fmt e ≤ off) && decide (off < rowSo fmt e + stateBytes opt e))

end Sys2Proof.Machine
end

