-- ==== Sys2Proof/Machine/Flags.lean ====
section
/-! DEFINITION. The flags of the block: interrupt request lines and the rising of a source (chapter 13), the error sources
with their forms and reactions, and the pulse of a detecting check (chapter 16). -/

namespace Sys2Proof.Machine

open Sys2Proof

/-! ### Interrupt sources (R375 to R377) -/

/-- Who owns a source; `none` for a source that is unowned, reserved or numbered 0. -/
def State.srcOwner (s : State) (n : Nat) : Option Nat :=
  if n = 0 then none
  else if n ≤ 5 then some 0
  else if n < 16 then none
  else if n < 144 then (if (n - 16) % 8 < 6 then some ((n - 16) / 8) else none)
  else if n < 2048 then (s.ic.srcs.get {} n).owner
  else none

/-- A source of a partition that is not on the part is absent (R375). -/
def State.srcAbsent (s : State) (n : Nat) : Bool := decide (48 ≤ n) && decide (n < 144) && !s.present ((n - 16) / 8)

/-- A source that can rise (R375). -/
def State.canRise (s : State) (n : Nat) : Bool := (s.srcOwner n).isSome && !s.srcAbsent n

/-- The sources that react NONE, POISON, FENCE and DEVICE (R447). -/
inductive React where
  | none | poison | fence | device
  deriving DecidableEq, Repr

/-- The reaction of an error source; reserved sources have none (R447). -/
def reactOf (n : Nat) : React :=
  if n < 16 then .none
  else if n < 170 then .fence
  else if n = 170 then .device
  else if n = 171 then .none
  else if n < 177 then .device
  else if n < 179 then .fence
  else if n < 181 then .device
  else if n < 253 then .fence
  else if n < 289 then .poison
  else .none

/-- Sources that report as a level (R447). -/
def isLevel (n : Nat) : Bool := reactOf n == .fence || reactOf n == .device

/-- Sources that never report (R447). -/
def errReserved (n : Nat) : Bool := (decide (7 ≤ n) && decide (n < 16)) || decide (297 ≤ n)

/-- The counter of FRZ_ERR_CNT that counts a source (R447). -/
def errCounter (n : Nat) : Option Nat :=
  if n < 7 then some n
  else if n = 171 then some 7
  else if 289 ≤ n ∧ n < 297 then some (n - 281)
  else none

/-- CODE and INST of R425 of the unit a source names; CODE 0 for one without a code. -/
def errUnit (n : Nat) : Nat × Nat :=
  if n < 16 then (0, 0)
  else if n < 80 then (4, n - 16)
  else if n < 96 then (5, n - 80)
  else if n < 144 then (3, n - 96)
  else if n < 156 then (7, n - 144)
  else if n < 168 then (7, n - 156)
  else if n < 170 then (9, n - 168)
  else if n = 170 then (1, 0)
  else if n ≤ 172 then (2, 0)
  else if n = 173 then (6, 0)
  else if n = 174 then (8, 0)
  else if n = 175 then (0xA, 0)
  else if n = 176 then (0xE, 0)
  else if n = 177 then (0xC, 0)
  else if n = 178 then (0xD, 0)
  else if n = 179 then (0xB, 0)
  else if n = 180 then (0, 0)
  else if n < 245 then (0, n - 181)
  else if n < 253 then (0, n - 245)
  else if n < 285 then (0, n - 253)
  else if n < 289 then (0, n - 285)
  else (0, 0)

/-- The line of a level source: R451 for 1, R377 for 2, 4 and 5, R470 for 3. -/
def State.lineHigh (s : State) (n : Nat) : Bool :=
  if n = 1 then (s.err.sticky &&& s.err.irq) != 0
  else if n = 2 then (s.ic.sysev &&& 0xE0000000) != 0
  else if n = 3 then s.obs.tkdone || s.obs.tr.any fun t => t.2.derr
  else if n = 4 then (s.ic.sysev &&& 0x100) != 0
  else if n = 5 then (s.ic.sysev &&& 0xF) != 0
  else false

/-- A source's line rises for one cycle (R376); a source that cannot rise does nothing. -/
def State.raise (s : State) (n : Nat) : State :=
  if s.canRise n then { s with ic := { s.ic with risen := s.ic.risen ++ [n] } } else s

/-- After a step from `old`, the level lines that have risen join those not yet latched. -/
def State.relevel (s old : State) : State :=
  [1, 2, 3, 4, 5].foldl (fun s n => if s.lineHigh n && !old.lineHigh n then s.raise n else s) s

/-- Set bits of FRZ_IC_SYSEV (R377). -/
def State.setSysev (s : State) (m : W32) : State :=
  ({ s with ic := { s.ic with sysev := s.ic.sysev ||| m } } : State).relevel s

/-! ### The detecting checks -/

/-- Raise a counted source's count, saturating (R447). -/
def State.countErr (s : State) (n : Nat) : State :=
  match errCounter n with
  | none => s
  | some j =>
    let c := s.err.cnt.get 0 j
    { s with err := { s.err with cnt := s.err.cnt.set j (if c = 0xFFFFFFFF then c else c + 1) } }

/-- Some condition asserts FERR (R450). -/
def State.ferrWant (s : State) : Bool := (s.err.sticky &&& s.err.ferrCfg) != 0 || s.err.force || s.aon.imgerr != 0

/-- FERR is asserted once a condition holds; it is deasserted by a step of its own (R450). -/
def State.updFerr (s : State) : State :=
  if s.ferrWant then { s with err := { s.err with ferrP := true, ferrN := false } } else s

/-- A pulse of a source whose reaction is NONE: it is counted, and latched unless a handling interval runs, when it is
lost and MISSED is set (R446). -/
def State.pulse (s : State) (n : Nat) : State :=
  let s1 := s.countErr n
  if s1.err.handling then { s1 with err := { s1.err with missed := true } }
  else (({ s1 with err := { s1.err with sticky := setBit s1.err.sticky n true } } : State).relevel s).updFerr

/-- `k` pulses of a source. -/
def State.pulses (s : State) (n : Nat) : Nat → State
  | 0 => s
  | k + 1 => (s.pulse n).pulses n k

/-- Source 0: a BAR0 access that is misaligned or at an unassigned offset (R10). -/
def State.badAccess (s : State) : State := s.pulse 0

/-- Source 1: an access refused between partitions. -/
def State.isolation (s : State) : State := s.pulse 1

/-- Source 2: a peer inbound packet dropped. -/
def State.peerDrop (s : State) : State := s.pulse 2

/-! ### What a command waits for (R25, R118, R425) -/

/-- The units that the registers from a BAR0 offset on belong to (R425, R489). -/
def regUnits (o : Nat) : List (Nat × Nat) :=
  if o < 0x9000 then [(1, 0)]
  else if o < 0x10000 then []
  else if o < 0x20000 then [(0xA, 0)]
  else if o < 0x30000 then [(0xE, 0)]
  else if o < 0x40000 then [(2, 0)]
  else if o < 0x70000 then []
  else if o < 0x80000 then [(6, 0)]
  else if o < 0x90000 then [(8, 0)]
  else if o < 0xA0000 then [(0xB, 0)]
  else if o < 0xB0000 then [(0xC, 0)]
  else if o < 0xC0000 then [(0xD, 0)]
  else if o < 0x800000 then []
  else if o < 0xC00000 then [(6, 0)]
  else [(1, 0)]

/-- The domains they lie in, the Control domain apart (R24, R436). DESIGN CHOICE: an access wakes the domain of the unit. -/
def regDoms (o : Nat) : List Nat :=
  if 0x30000 ≤ o ∧ o < 0x40000 then [3]
  else if 0x70000 ≤ o ∧ o < 0x80000 then [24]
  else if 0x80000 ≤ o ∧ o < 0x90000 then [25]
  else if 0x800000 ≤ o ∧ o < 0xC00000 then [24]
  else []

/-- What comes in on a host link: by the port of partition `p`'s function. -/
def State.onLink (s : State) (c : Instr) (p : Nat) (units : List (Nat × Nat)) (doms : List Nat) : Held :=
  { doms := s.portDom p :: doms, units := (9, s.linkOf p / 2) :: units, origin := some (s.linkOf p), cmd := c }

/-- A register access: of a function, by its link, or of a tailor core, by its port; both reach the Control domain (R25, R27). -/
def State.regAccess (s : State) (c : Instr) (w : Who) (units : List (Nat × Nat)) (doms : List Nat) : Held :=
  match w with
  | .core k => { doms := 0 :: doms, units := units, origin := some (8 + k.val), cmd := c }
  | .fn p => s.onLink c p.val units (0 :: doms)

/-- A register access at an offset of the party's view. -/
def State.regAccessAt (s : State) (c : Instr) (w : Who) (o : Nat) : Held := s.regAccess c w (regUnits o) (regDoms o)

/-- A register read, which waits for its reader's invalidations to be numbered (R118). -/
def State.regReadAt (s : State) (c : Instr) (w : Who) (o : Nat) : Held := { s.regAccessAt c w o with reader := some w }

/-- A register read; the counters-and-trace unit and the recorder answer it 0 while they are out of service. -/
def State.rcNeeds (s : State) (c : Instr) (w : Who) : RcReg → Held
  | .errCnt _ => s.regReadAt c w 0x90000
  | .wstat _ => s.regReadAt c w 0x70000
  | .linNbcast => s.regReadAt c w 0x80000
  | .linNrecall => s.regReadAt c w 0x80000
  | .linNcross => s.regReadAt c w 0x80000
  | .reg o _ => if 0xA0000 ≤ o.toNat ∧ o.toNat < 0xC0000 then s.regReadAt c w 0xC0000 else s.regReadAt c w o.toNat
  | _ => s.regReadAt c w 0x50000

/-- What a packet from a Hupen port needs: its units and the Seam domain (R26, R425). -/
def onPort (c : Instr) (i : Fin 12) : Held := { doms := [24], units := [(6, 0)], origin := some (16 + i.val), cmd := c }

/-- What a request of an agent to the lining directory needs. -/
def toLining (c : Instr) (a : Option Nat) : Held := { doms := [25], units := [(8, 0)], origin := a.map (64 + ·), cmd := c }

/-- What a command from outside needs before Fraiz acts on it. A step of a unit of Fraiz itself needs nothing here: it comes about
when the unit takes it. -/
def State.needs (s : State) (c : Instr) : Held :=
  match c with
  | .doorbellWrite w _ _ _ => s.regAccessAt c w 0x8000
  | .cheadWrite w _ _ => s.regAccessAt c w 0x8000
  | .qctlEnable w => s.regAccessAt c w 0x8000
  | .qctlDisable w => s.regAccessAt c w 0x8000
  | .qctlResume w => s.regAccessAt c w 0x8000
  | .qctlReset w => s.regAccessAt c w 0x8000
  | .invctlPartition w _ => s.regAccessAt c w 0x30000
  | .invctlContext w _ _ => s.regAccessAt c w 0x30000
  | .invctlRange w _ _ => s.regAccessAt c w 0x30000
  | .ctxcfgWrite w _ _ => s.regAccessAt c w 0x30000
  | .tbindWrite w _ _ => s.regAccessAt c w 0x30000
  | .fltRespRetry w _ => s.regAccessAt c w 0x38000
  | .fltRespAbort w _ => s.regAccessAt c w 0x38000
  | .fltRcfgWrite w _ => s.regAccessAt c w 0x38000
  | .trecWrite w _ _ _ => s.regAccessAt c w 0x38000
  | .pltCctlAbort w => s.regAccessAt c w 0x40000
  | .pltCctlRelease w => s.regAccessAt c w 0x40000
  | .pltCctlRetry w => s.regAccessAt c w 0x40000
  | .skcfgClr w _ => s.regAccessAt c w 0x50000
  | .skentRead w _ => s.regReadAt c w 0x50000
  | .readClearCounterRead w r _ => s.rcNeeds c w r
  | .lkaGctlWrite w _ => s.regAccessAt c w 0x60000
  | .lkaCtlWrite w _ => s.regAccessAt c w 0x60000
  | .talCountWrite w _ _ => s.regAccessAt c w 0x800000
  | .talThrWrite w _ _ => s.regAccessAt c w 0x800000
  | .townAssign w _ _ => s.regAccessAt c w 0x70000
  | .townRelease w _ => s.regAccessAt c w 0x70000
  | .windowCommit w => s.regAccessAt c w 0x70000
  | .agctlLeave w _ => s.regAccessAt c w 0x80000
  | .agctlJoin w _ => s.regAccessAt c w 0x80000
  | .linDisable w => s.regAccessAt c w 0x80000
  | .linEnable w => s.regAccessAt c w 0x80000
  | .linProbe w _ => s.regAccessAt c w 0x80000
  | .hostFenceRead w => s.regReadAt c w 0x9000
  | .claim w _ => s.regReadAt c w 0x10000
  | .sourceComplete w _ _ => s.regAccessAt c w 0x10000
  | .pendClear w _ _ => s.regAccessAt c w 0x10000
  | .tgtWrite w _ _ => s.regAccessAt c w 0x10000
  | .gctlWrite w _ => s.regAccessAt c w 0x10000
  | .sysevClear w _ => s.regAccessAt c w 0x10000
  | .tcactWrite w _ _ => s.regAccessAt c w 0x20000
  | .quotaWrite w _ _ _ _ => s.regAccessAt c w 0x20000
  | .amendmentGo w _ => s.regAccessAt c w 0xC0000
  | .uctlRejoin w => s.regAccessAt c w 0xC0000
  | .errStatClear w _ _ => s.regAccessAt c w 0x90000
  | .haltClear w => s.regAccessAt c w 0x90000
  | .tackGo w _ => s.regAccessAt c w 0xA0000
  | .tempClrpeak w => s.regAccessAt c w 0xA0000
  | .recFreeze w _ => s.regAccessAt c w 0xB0000
  | .recSnap w => s.regAccessAt c w 0xB0000
  | .recClrall w => s.regAccessAt c w 0xB0000
  | .recDataAccess w (.read _) => s.regReadAt c w 0xC0000
  | .recDataAccess w (.write _) => s.regAccessAt c w 0xB0000
  | .registerWrite w off _ _ => s.regAccessAt c w off.toNat
  | .bar2Write p _ _ _ => s.onLink c p.val [] []
  | .bar2Read p _ _ _ => s.onLink c p.val [] []
  | .bar2Atomicop p _ _ _ _ _ => s.onLink c p.val [] []
  | .configurationWrite p _ => s.onLink c p.val [] []
  | .initiateFlr p => s.onLink c p.val [] []
  | .atsInvalidationRequest p _ _ _ _ _ => s.onLink c p.val [] []
  | .prgResponse p _ _ => s.onLink c p.val [(2, 0)] [3]
  | .barSizeWrite l _ _ => { doms := [1 + l.val / 2], units := [(9, l.val / 2)], origin := some l.val, cmd := c }
  | .vfEnable l _ _ => { doms := [1 + l.val / 2], units := [(9, l.val / 2)], origin := some l.val, cmd := c }
  | .cxlMemRequest b _ _ => { doms := [1 + b2n b, 25], units := [(9, b2n b), (8, 0)], origin := some (2 * b2n b), cmd := c }
  | .biconflict b _ => { doms := [1 + b2n b, 25], units := [(9, b2n b), (8, 0)], origin := some (2 * b2n b), cmd := c }
  | .h2dSnoop b _ => { doms := [1 + b2n b], units := [(9, b2n b)], origin := some (2 * b2n b), cmd := c }
  | .inboundWr i _ _ _ => onPort c i
  | .inboundRd i _ _ _ => onPort c i
  | .inboundAtm i _ _ _ _ _ => onPort c i
  | .inboundCpl i _ _ => onPort c i
  | .inboundTadd i _ _ => onPort c i
  | .translate (.tile t _ _ _ _ _ _ _ _) => { doms := [0, 3], units := [(2, 0)], origin := some (256 + t.val), cmd := c }
  | .boundModeRequest (.tile t _ _ _ _ _ _ _ _) => { doms := [0, 3], units := [(2, 0)], origin := some (256 + t.val), cmd := c }
  | .boundModeRequest (.core k _ _ _ _ _ _ _) => { doms := [0, 3], units := [(2, 0)], origin := some (8 + k.val), cmd := c }
  | .rds a _ => toLining c (some a.val)
  | .rdx a _ => toLining c (some a.val)
  | .upg a _ => toLining c (some a.val)
  | .evc a _ => toLining c (some a.val)
  | .wbd a _ _ => toLining c (some a.val)
  | .snoopResponse a _ _ => toLining c (some a.val)
  | .sourceEdge _ => { doms := [0], cmd := c }   -- edges are latched while the unit is out (R425)
  | .sourceLineFall _ => { doms := [0], cmd := c }
  | _ => { cmd := c }

/-- Parties whose reads R118 orders alike: a tailor core, or the functions of one link. -/
def State.sameReader (s : State) : Who → Who → Bool
  | .core k, .core l => k == l
  | .fn p, .fn r => s.linkOf p.val == s.linkOf r.val
  | _, _ => false

/-- An invalidation that a party's write issued waits for its number (R122). -/
def State.numbering (s : State) (w : Who) : Bool :=
  s.trn.invHeld.any fun i => match i.2.2 with
    | .reg _ x => s.sameReader x w
    | _ => false

/-- The domains run, the units serve, and a read's invalidations are numbered. -/
def State.ready (s : State) (h : Held) : Bool :=
  h.doms.all (fun d => s.dom d == .run) && h.units.all (fun u => s.serving u.1 u.2) &&
    (match h.reader with
      | some w => !s.numbering w
      | none => true)

/-- A command held before keeps `h` behind it: what one interface brings keeps its order, but a write may pass a held read. -/
def Held.before (x h : Held) : Bool := x.origin.isSome && x.origin == h.origin && (x.reader.isNone || h.reader.isSome)

/-- Fraiz acts on the command at once. -/
def State.admits (s : State) (c : Instr) : Bool := s.ready (s.needs c) && !s.held.any fun x => x.before (s.needs c)

/-- The command is held, and wakes every domain that it needs (R25). -/
def State.hold (s : State) (c : Instr) : State :=
  let h := s.needs c
  let s1 := h.doms.foldl State.wake s
  { s1 with held := s1.held ++ [h] }

/-- A command from outside: acted on at once, or held until what it needs is there (R25, R26, R118, R122, R425). -/
def delivered (c : Instr) (s : State) (k : State → Ans) : Ans := if s.admits c then k s else .next (s.hold c)

/-- Some held command can go on: it is ready, and none of the earlier ones, `old`, keeps it behind. -/
def State.someReady (s : State) : List Held → List Held → Bool
  | [], _ => false
  | h :: r, old => (s.ready h && !old.any fun x => x.before h) || s.someReady r (old ++ [h])

/-- Every held command enters the queue again, in order; those that still wait are held anew. -/
def State.requeue (s : State) : State := { s with pending := s.pending ++ s.held.map (·.cmd), held := [] }

/-- Drop what is held of some interfaces: it was lost with the link. -/
def State.dropHeld (s : State) (p : Nat → Bool) : State :=
  { s with held := s.held.filter fun h => match h.origin with
      | some o => !p o
      | none => true }

/-! ### Where a function's BARs lie (R355, R356, R360) -/

/-- The function is a physical function (R350). -/
def State.isPf (s : State) (p : Nat) : Bool :=
  match s.part with
  | .v3s => p == 0 || (s.host.bifA && p == 3)
  | .v3x => p == 0 || p == 8 || (s.host.bifA && p == 7) || (s.host.bifB && p == 15)

/-- The partition of a link's physical function. -/
def State.pfOf (s : State) (l : Nat) : Nat :=
  match l with
  | 0 => 0
  | 1 => match s.part with | .v3s => 3 | .v3x => 7
  | 2 => 8
  | _ => 15

/-- log2 of the size of a function's BAR2 (R356). -/
def State.barLog (s : State) (p : Nat) : Nat := if s.isPf p then (s.link (s.linkOf p)).pfBar else (s.link (s.linkOf p)).vfBar

/-- log2 of the size of BAR `2k` of a physical or a virtual function (R355). -/
def Link.barSize (l : Link) (pf : Bool) (k : Nat) : Nat :=
  match k with
  | 0 => if pf then 26 else 24
  | 1 => if pf then l.pfBar else l.vfBar
  | _ => 14

/-- The 64 bits of the pair `2k`, `2k + 1` that are stored, the bits below the size apart. -/
def barStored (t : Tbl W32) (size k : Nat) : Nat :=
  let v := (t.get 0 (2 * k)).toNat + 2 ^ 32 * (t.get 0 (2 * k + 1)).toNat
  v / 2 ^ size * 2 ^ size

/-- The number of a virtual function within its physical function. -/
def State.vfNum (s : State) (p : Nat) : Nat := p - s.pfOf (s.linkOf p)

/-- The first host address of BAR `2k` of a function: a VF's stands at its place behind the VF BAR of the SR-IOV capability. -/
def State.barBase (s : State) (p k : Nat) : Nat :=
  let l := s.link (s.linkOf p)
  if s.isPf p then barStored (s.fn p).bars (l.barSize true k) k
  else barStored l.vfBars (l.barSize false k) k + (s.vfNum p - 1) * 2 ^ l.barSize false k

/-- A stream of a function that covers a range of host addresses is in an insecure state (R360). -/
def State.ideInsecure (s : State) (p a len : Nat) : Bool :=
  (s.link (s.linkOf p)).ide.any fun x =>
    x.2.rids.contains p && x.2.blocks.any (fun b => decide (b.1 ≤ a) && decide (a + len ≤ b.2)) && !x.2.secure

/-- Register accesses of a function come over such a stream. DESIGN CHOICE: a stream covers them when its block covers all of BAR0. -/
def State.ideBar0 (s : State) (p : Nat) : Bool :=
  s.ideInsecure p (s.barBase p 0) (2 ^ (s.link (s.linkOf p)).barSize (s.isPf p) 0)

/-! ### Who is heard -/

/-- The functions answer: start-up is over and the function is presented and not being reset (R368, R423). -/
def State.fnServes (s : State) (p : Nat) : Bool :=
  s.aon.boot == .ready && (s.fn p).enabled && (s.fn p).flr == .none

/-- A step of a unit that is out of service cannot come about (R425). -/
def inUnit (code inst : Nat) (s : State) (k : State → Ans) : Ans := if s.serving code inst then k s else .next s

/-- A completion from the host cannot arrive while the port of partition `p`'s function is out (R425). -/
def inPort (p : Nat) (s : State) (k : State → Ans) : Ans := inUnit 9 (s.linkOf p / 2) s k

/-- A tailor core's access: with its port closed it takes a bus error (R449). -/
def fromCore (c : Fin 8) (s : State) (k : State → Ans) : Ans :=
  if s.coreClosed c.val then .next (s.emit (.coreRsp c.val (.error .none))) else k s

/-- A register write reaches its unit: from a tailor core, or from a function that serves; any other is dropped (R368, R423). In
the recovery identity its offset is unassigned (R421). -/
def heard (w : Who) (s : State) (k : State → Ans) : Ans :=
  match w with
  | .core c => fromCore c s k
  | .fn p =>
    if s.fnServes p.val && !s.ideBar0 p.val then k s
    else if s.aon.boot = .recovery ∧ p.val = 0 then .next s.badAccess
    else .next s

/-- The same for a register read: it is completed with Unsupported Request while the function is absent or is being reset. -/
def heardRead (w : Who) (s : State) (k : State → Ans) : Ans :=
  match w with
  | .core c => fromCore c s k
  | .fn p =>
    if s.fnServes p.val && !s.ideBar0 p.val then k s
    else if s.aon.boot = .recovery ∧ p.val = 0 then .next (s.badAccess.emit (.regRead w 0))
    else if s.aon.boot = .ready then .next (s.emit (.bar2Ur p.val))
    else .next s

/-- The AON and ERR regions also answer the recovery identity (R421). -/
def heardAon (w : Who) (s : State) (k : State → Ans) : Ans :=
  match w with
  | .core c => fromCore c s k
  | .fn p => if s.fnServes p.val && !s.ideBar0 p.val || (s.aon.boot == .recovery && p.val == 0) then k s else .next s

/-- The same for a read. -/
def heardAonRead (w : Who) (s : State) (k : State → Ans) : Ans :=
  match w with
  | .core c => fromCore c s k
  | .fn p => if s.aon.boot = .recovery ∧ p.val = 0 then k s else heardRead w s k

end Sys2Proof.Machine
end

