-- ==== Sys2Proof/Machine/Home.lean ====
section
/-! DEFINITION. Accesses performed at their home (R29 to R35): writes, atomics, poison (R337), the veil (R369), and the
proof results that a write or another cause discards (R266, R267). -/

namespace Sys2Proof.Machine

open Sys2Proof

/-! ### Discarding proof results -/

/-- A 48-bit counter that saturates. -/
def sat48 (c : BitVec 48) (n : Nat) : BitVec 48 := BitVec.ofNat 48 (min (c.toNat + n) (2 ^ 48 - 1))

/-- The partition of the queue a lookahead follows. -/
def State.lkPart (s : State) (n : Nat) : Nat := ((s.lk n).queue.getD 0) / 256

/-- Discard the proof reads and held translations that satisfy the predicates, with a code of R266. A read in flight
runs to its end and its data is dropped. One that was used and was kept for a later use counts as used. -/
def State.discard (s : State) (n : Nat) (p : Proof → Bool) (x : Nat × XEntry × W32 → Bool) (code : Nat) : State :=
  let v := s.lk n
  let all := v.held.filter fun h => !h.dead && p h
  let hit := all.filter fun h => !h.used
  if all.isEmpty && !v.xlt.any x then s
  else
    let pt := s.lkPart n
    let held := (v.held.filter fun h => h.dead || !(p h && h.data.isSome)).map fun h => if p h then { h with dead := true } else h
    let s1 := s.setLk n { v with held := held, xlt := v.xlt.filter fun t => !x t }
    { s1 with lka := { s1.lka with
        disc := s1.lka.disc.set pt (sat48 (s1.lka.disc.get 0 pt) hit.length)
        used := s1.lka.used.set pt (sat48 (s1.lka.used.get 0 pt) (all.length - hit.length))
        last := s1.lka.last.set pt (BitVec.ofNat 4 code) } }

/-- A proof read that fails or times out brings nothing, and counts as discarded (R264, R274). -/
def State.loseProof (s : State) (n id : Nat) : State :=
  let v := s.lk n
  let pt := s.lkPart n
  let k := (v.held.filter fun h => h.id == id && !h.dead).length
  let s1 := s.setLk n { v with held := v.held.filter fun h => h.id != id }
  { s1 with lka := { s1.lka with disc := s1.lka.disc.set pt (sat48 (s1.lka.disc.get 0 pt) k) } }

/-- The same for proof reads that a write or an invalidation has hit (R265, R266). DESIGN CHOICE: with a ring read of a target, that target
and the later ones go, and their positions are read again. -/
def State.discardHits (s : State) (n : Nat) (p : Proof → Bool) (x : Nat × XEntry × W32 → Bool) (code : Nat) : State :=
  let v := s.lk n
  let hits := v.held.filter fun h => !h.dead && p h && h.kind == .ring
  match minBy id (hits.map (·.target)) with
  | none => s.discard n p x code
  | some k =>
    let gone (h : Proof) : Bool := p h || (h.kind == .ring && h.target == 3) || (decide (k ≤ h.target) && h.target != 3)
    let s1 := s.discard n gone x code
    let w := { s1.lk n with asked := false, retry := false }
    match v.targets[k - 1]? with
    | some t => s1.setLk n { w with targets := v.targets.take (k - 1), next := t.pos }
    | none => s1.setLk n w

/-- The proof walks of a lookahead are abandoned (R261, R266): their walkers are free, and what their reads bring is dropped. -/
def State.dropProofWalks (s : State) (n : Nat) : State :=
  let mine := (s.trn.walks.filter fun w => w.proof == some n).map (·.w)
  let s1 := s.dropReqs fun r => match r.owner with | .walk w => mine.contains w | _ => false
  { s1 with trn := { s1.trn with walks := s1.trn.walks.filter fun w => w.proof != some n } }

/-- Everything a lookahead holds is discarded, and it follows no queue (R256, R266 code 0x8 and 0x9). -/
def State.discardAll (s : State) (n code : Nat) : State :=
  let s1 := (s.discard n (fun _ => true) (fun _ => true) code).dropProofWalks n
  s1.setLk n { s1.lk n with queue := none, next := 0, fresh := false, asked := false, retry := false, targets := [] }

/-- Apply a discard to every lookahead. -/
def State.discardEach (s : State) (f : State → Nat → State) : State := (List.range 16).foldl f s

/-- R267: a write performed at `len` device bytes, or write ownership granted there, hits the proof results read there. -/
def State.watchDev (s : State) (a len : Nat) : State :=
  s.discardEach fun s n => s.discardHits n (fun h => match h.out with
    | .dev b => (granules b h.len).any fun g => (granules a len).contains g
    | _ => false) (fun _ => false) 3

/-- R267: a write sent to host memory hits the proof results read there. -/
def State.watchHost (s : State) (a len : Nat) : State :=
  s.discardEach fun s n => s.discardHits n (fun h => match h.out with
    | .host b _ => (granules b h.len).any fun g => (granules a len).contains g
    | _ => false) (fun _ => false) 3

/-! ### The veil -/

/-- Zeros written over a 2 MiB region (R369). -/
def State.wipeRegion (s : State) (r : Nat) : State :=
  { s with mem := Memory.clear s.mem (r * 2 ^ 21) ((r + 1) * 2 ^ 21), poison := s.poison.filter fun g => g / 2 ^ 15 != r }

/-- The ranges left when region `r` leaves them. -/
def cutRegion (r : Nat) : List (Nat × Nat × Nat) → List (Nat × Nat × Nat)
  | [] => []
  | (p, a, b) :: t =>
    if a ≤ r ∧ r ≤ b then
      (if a < r then [(p, a, r - 1)] else []) ++ (if r < b then [(p, r + 1, b)] else []) ++ cutRegion r t
    else (p, a, b) :: cutRegion r t

/-- A veiled region is wiped and leaves the veil; any other is left as it is. -/
def State.unveil (s : State) (r : Nat) : State :=
  if s.veiled (r * 2 ^ 21) then { s.wipeRegion r with veil := cutRegion r s.veil } else s

/-- Every region that `len` bytes at `a` touch is wiped ahead of the background order (R369). -/
def State.unveilRange (s : State) (a len : Nat) : State :=
  if len = 0 then s
  else (List.range ((a + len - 1) / 2 ^ 21 - a / 2 ^ 21 + 1)).foldl (fun s i => s.unveil (a / 2 ^ 21 + i)) s

/-! ### Writes and atomics -/

/-- Byte `i` of a write is enabled; bytes past the enables' end are. -/
def enabledAt (en : List Bool) (i : Nat) : Bool := en.getD i true

/-- How many of a write's enabled bytes fall in granule `g`. -/
def enabledIn (a len : Nat) (en : List Bool) (g : Nat) : Nat :=
  ((List.range len).filter fun i => enabledAt en i && (a + i) / 64 == g).length

/-- R337: a write enabling all 64 bytes of a granule clears its poison. -/
def State.clearPoison (s : State) (a len : Nat) (en : List Bool) : State :=
  { s with poison := s.poison.filter fun g => !(enabledIn a len en g == 64) }

/-- A write performed at its home. A write that enables no byte performs nothing. -/
def State.performWrite (s : State) (a : Nat) (data : Bytes) (en : List Bool) : State :=
  if (List.range data.length).any (enabledAt en) then
    (((s.unveilRange a data.length).storeMem a data en).clearPoison a data.length en).watchDev a data.length
  else s

/-- The value an atomic operation stores (R34, R277): Add adds `x`, Swap stores `x`, Compare-and-Swap stores `y` when the
old value is `x`. -/
def atomResult (op : AtomOp) (len : Nat) (old : Nat) (x y : W64) : Nat :=
  match op with
  | .add => (old + x.toNat) % 2 ^ (8 * len)
  | .swap => x.toNat % 2 ^ (8 * len)
  | .cas => if old = x.toNat % 2 ^ (8 * len) then y.toNat % 2 ^ (8 * len) else old

/-- An atomic operation performed at its home: the old bytes, or `none` on a poisoned granule, where nothing is written
(R337). -/
def State.performAtomic (s : State) (a : Nat) (op : AtomOp) (len : Nat) (x y : W64) : Option Bytes × State :=
  if s.poisoned a len then (none, s)
  else
    let s1 := s.unveilRange a len
    let old := s1.readMem a len
    (some old, s1.performWrite a (toLE len (atomResult op len (leNat old) x y)) [])

/-! ### The coherent window (R312) -/

/-- An address inside the coherent window while the directory serves it. -/
def State.inWindow (s : State) (a : Nat) : Bool :=
  (s.lin.en || s.lin.flushing) && decide (s.lin.base ≤ a) && decide (a < s.lin.base + s.lin.size * 2 ^ 30)

/-- Lines of the window. -/
def State.lineOf (s : State) (a : Nat) : Nat := (a - s.lin.base) / 64

/-- The first address of a line. -/
def State.lineAddr (s : State) (l : Nat) : Nat := s.lin.base + 64 * l

/-- The lines of the window that a range covers. -/
def State.linesOf (s : State) (a len : Nat) : List Nat :=
  ((granules a len).filter fun g => s.inWindow (64 * g)).map fun g => s.lineOf (64 * g)

/-- A range meets a poisoned granule whose bytes come from its home, and not from the directory (R337). -/
def State.poisonedHome (s : State) (a len : Nat) : Bool :=
  (granules a len).any fun g => s.poison.contains g && !s.veiled (64 * g) && !s.inWindow (64 * g)

/-- Every line of the window that a request covers has been answered. -/
def Req.linesDone (r : Req) (lines : List Nat) : Bool := lines.all fun l => r.lines.any fun x => x.1 == l

/-- The bytes of a device read: from its lines where the directory answered, from the home elsewhere. -/
def State.gatherRead (s : State) (r : Req) (a : Nat) : Bytes :=
  (List.range r.len).map fun i =>
    match r.lines.find? fun x => x.1 == s.lineOf (a + i) && s.inWindow (a + i) with
    | some x => x.2.getD ((a + i) % 64) 0
    | none => if s.veiled (a + i) then 0 else Memory.read s.mem (a + i)

/-- What an issued read brings back: device bytes from the home or the directory, others from outside. `none` while it
has not been issued, while an earlier request of its source to the same granule is due (R33), or while the directory
has not answered every line. -/
def State.readBack (s : State) (r : Req) (x : Reply) : Option Reply :=
  match r.st with
  | .issued (.dev a) =>
    if s.orderHeld r || !r.linesDone (s.linesOf a r.len) then none
    else match x with
      | .error e => some (.error e)
      | .data _ => if s.poisonedHome a r.len then some (.error .poison) else some (.data (s.gatherRead r a))
  | .have _ b => some (.data b)
  | .failed _ e => some (.error e)
  | _ => none

/-- What an issued write brings back, with the write performed at its home; lines of the window were performed by the
directory. -/
def State.writeBack (s : State) (r : Req) (x : WReply) : Option (WReply × State) :=
  match r.st with
  | .issued (.dev a) =>
    if s.orderHeld r || !r.linesDone (s.linesOf a r.len) then none
    else match x with
      | .error e => some (.error e, s)
      | .done =>
        let en := (List.range r.data.length).map fun i => enabledAt r.en i && !s.inWindow (a + i)
        some (.done, s.performWrite a r.data en)
  | .done _ => some (.done, s)
  | .failed _ e => some (.error e, s)
  | _ => none

/-- The pieces of the tile request that a request belongs to, in address order (R17). -/
def State.groupOf (s : State) (r : Req) : List Req :=
  if r.grp = 0 then [r] else s.reqs.filter fun x => x.grp == r.grp

/-- What a finished request of a tile or of a tailor core brings back. -/
def Req.reply? (r : Req) : Option Reply :=
  match r.st with
  | .have _ b => some (.data b)
  | .done _ => some (.data [])
  | .failed _ e => some (.error e)
  | _ => none

/-- The one answer to the pieces of a request: their bytes in order, or the first error; `none` while one is due. -/
def joinReplies : List Req → Option Reply
  | [] => some (.data [])
  | r :: rs =>
    match r.reply?, joinReplies rs with
    | some (.data b), some (.data c) => some (.data (b ++ c))
    | some (.error e), some _ => some (.error e)
    | some (.data _), some (.error e) => some (.error e)
    | _, _ => none

/-- A request of a tile or of a tailor core that has its data, its response or an error is answered and ends; one of several pages is
answered once, whole. -/
def State.handOn (s : State) (id : Nat) : State :=
  match s.req? id with
  | none => s
  | some r =>
    match r.owner, joinReplies (s.groupOf r) with
    | .tile t e, some x => (s.emit (.tileRsp t e x)).dropReqs fun y => y.id == id || (r.grp != 0 && y.grp == r.grp)
    | .core k, some x => (s.emit (.coreRsp k x)).dropReq id
    | _, _ => s

end Sys2Proof.Machine
end

