-- ==== Sys2Proof/Machine/Trace.lean ====
section
/-! DEFINITION. What is noted about work as it happens: the recorder's histograms and extremes (R477 to R481), trace records
and their loss (R465 to R471). -/

namespace Sys2Proof.Machine

open Sys2Proof

/-! ### The event recorder -/

/-- `n` bytes of the recorder SRAM. -/
def State.sramNum (s : State) (a n : Nat) : Nat := leNat (Memory.readAll s.rcd.sram a n)

/-- Write the low `n` bytes of a number into the recorder SRAM. -/
def State.setSram (s : State) (a n v : Nat) : State :=
  { s with rcd := { s.rcd with sram := Memory.writeAll s.rcd.sram a (toLE n v) } }

/-- HOURS and PCYCLE as one 8-byte stamp (R477). -/
def State.stampNum (s : State) : Nat := s.aon.hours.toNat + 2 ^ 32 * s.aon.pcycle.toNat

/-- The numbers of the histogram sets that have a METRIC. -/
def State.histSets (s : State) : List Nat :=
  (s.rcd.sram.filter fun c => decide (0x40 ≤ c.1) && decide (c.1 < 0x2840) && (c.1 - 0x40) % 160 == 0).map
    fun c => (c.1 - 0x40) / 160

/-- The numbers of the extreme trackers that have a METRIC. -/
def State.trackers (s : State) : List Nat :=
  (s.rcd.sram.filter fun c => decide (0x2840 ≤ c.1) && decide (c.1 < 0x4840) && (c.1 - 0x2840) % 32 == 0).map
    fun c => (c.1 - 0x2840) / 32

/-- ALL, or PART naming the event's partition. -/
def scopeMatch (b p : Nat) : Bool := bit b 7 || bits b 3 0 == p

/-- The bin of a value (R477). -/
def binOf (v shift : Nat) : Nat := if v < 2 ^ shift then 0 else min 31 (Nat.log2 v - shift + 1)

/-- The histogram sets that take an event (R477). They record in native mode; late completions go to no set (R478). -/
def State.histTakes (s : State) (m p h : Nat) : Bool :=
  !s.rcd.mode && decide (m < 0x10) && s.sramNum (0x40 + 160 * h) 1 == m && scopeMatch (s.sramNum (0x41 + 160 * h) 1) p
    && bit (s.sramNum (0x43 + 160 * h) 1) 0

/-- The trackers that would be asked (R479). Trackers 0 and 1 record in either mode (R475), and they alone take late completions
(R478). -/
def State.trackTakes (s : State) (m p k : Nat) : Bool :=
  let a := 0x2840 + 32 * k
  (decide (k < 2) || !s.rcd.mode) && (decide (m < 0x10) || m == 0x10 + k) && s.sramNum a 1 == m && scopeMatch (s.sramNum (a + 1) 1) p
    && bit (s.sramNum (a + 2) 1) 1

/-- One event goes to a bin, TOTAL and the update stamp (R477). -/
def State.histAdd (s : State) (v h : Nat) : State :=
  let a := 0x40 + 160 * h
  let b := a + 32 + 4 * binOf v (s.sramNum (a + 2) 1)
  (((s.setSram b 4 (min 0xFFFFFFFF (s.sramNum b 4 + 1))).setSram (a + 24) 8 (s.sramNum (a + 24) 8 + 1)).setSram
    (a + 16) 8 s.stampNum)

/-- The record of an event that beats the one held; a tie keeps the earlier (R479). -/
def State.trackAdd (s : State) (v p src q tag k : Nat) : State :=
  let a := 0x2840 + 32 * k
  let held := s.sramNum (a + 8) 8
  let better := if bit (s.sramNum (a + 2) 1) 0 then decide (v < held) else decide (held < v)
  if better then
    ((((((s.setSram (a + 3) 1 p).setSram (a + 4) 2 src).setSram (a + 6) 2 q).setSram (a + 8) 8 v).setSram (a + 16) 4 tag).setSram
      (a + 20) 8 s.stampNum).setSram (a + 28) 4 s.now
  else s

/-- An event of a metric (R478): recorded, or counted in LOSTEV while FROZEN (R481). -/
def State.metric (s : State) (m v p src q tag : Nat) : State :=
  if !s.serving 0xD 0 then s
  else
    let hs := s.histSets.filter (s.histTakes m p)
    let ts := s.trackers.filter (s.trackTakes m p)
    if hs.isEmpty && ts.isEmpty then s
    else if s.rcd.freeze then
      { s with rcd := { s.rcd with lostev := BitVec.ofNat 16 (min 0xFFFF (s.rcd.lostev.toNat + 1)) } }
    else ts.foldl (fun s k => s.trackAdd v p src q tag k) (hs.foldl (fun s h => s.histAdd v h) s)

/-! ### Trace records (R466) -/

/-- The 32 bytes of a record. -/
def traceBytes (time kind opcode status part source queue tag arg : Nat) : Bytes :=
  toLE 8 time ++ toLE 1 kind ++ toLE 1 opcode ++ toLE 1 status ++ toLE 1 (part * 16) ++ toLE 2 source ++ toLE 2 queue ++
    toLE 4 tag ++ toLE 8 arg ++ zeros 4

/-- QB.TRACE, in records (R467). -/
def State.traceShare (s : State) (p : Nat) : Nat := min 64 (bits (s.prt.qb.get 0 p).toNat 30 24) * 2048

/-- Records of a partition in Fraiz's own buffer. -/
def State.traceHeld (s : State) (p : Nat) : Nat := (s.obs.own.filter fun r => r.part == p).length

/-- A record is lost: TRSTAT.LOST rises, saturating (R469). -/
def State.traceLost (s : State) (p : Nat) : State :=
  s.setTrp p { s.trp p with lost := BitVec.ofNat 24 (min 0xFFFFFF ((s.trp p).lost.toNat + 1)) }

/-- A record as a buffer takes it, behind a LOSS record when earlier ones were dropped (R469). -/
def withLoss (time p k : Nat) (r : TraceR) : List TraceR :=
  if k = 0 then [r] else [{ part := p, bytes := traceBytes time 6 0 0 p 0 0 0 k, tile := r.tile, stamp := false }, r]

/-- Put a record into Fraiz's own buffer, where it fits with its LOSS record in the partition's share and in the buffer (R467). -/
def State.addTrace (s : State) (p : Nat) (b : Bytes) (stamp : Bool) : State :=
  if !s.serving 0xC 0 then s
  else
    let rs := withLoss s.now p (s.obs.lossP.get 0 p) { part := p, bytes := b, tile := false, stamp := stamp }
    if s.traceHeld p + rs.length ≤ s.traceShare p ∧ s.obs.own.length + rs.length ≤ 131072 then
      { s with obs := { s.obs with own := s.obs.own ++ rs, lossP := s.obs.lossP.set p 0 } }
    else
      let s1 := s.traceLost p
      { s1 with obs := { s1.obs with lossP := s1.obs.lossP.set p (s1.obs.lossP.get 0 p + 1) } }

/-- The partition that a tile's binding names, while it is in force (R99, R132). -/
def State.tilePart (s : State) (t : Nat) : Option Nat :=
  let v := (s.trn.tbind.get 0 t).toNat
  if bit v 31 then some (bits v 9 0 / 64) else none

/-- A tile's trace port writes a record into the tile's own buffer of 2,048 records (R465, R467). -/
def State.addTileTrace (s : State) (t : Nat) (b : Bytes) : State :=
  match s.tilePart t with
  | none => s
  | some p =>
    let buf := s.obs.tiles.get [] t
    let rs := withLoss s.now p (s.obs.lossT.get 0 t) { part := p, bytes := b, tile := true, stamp := false }
    if buf.length + rs.length ≤ 2048 then
      { s with obs := { s.obs with tiles := s.obs.tiles.set t (buf ++ rs), lossT := s.obs.lossT.set t 0 } }
    else
      let s1 := s.traceLost p
      { s1 with obs := { s1.obs with lossT := s1.obs.lossT.set t (s1.obs.lossT.get 0 t + 1) } }

/-- R471: the first packet a port receives after a management-plane tick yields a STAMP record while EN is 1. -/
def State.noteStamp (s : State) (port : Nat) (h : PktHead) : State :=
  if s.obs.stamps.getLsbD port then
    let s1 : State := { s with obs := { s.obs with stamps := setBit s.obs.stamps port false } }
    if s.obs.stcfg then s1.addTrace 0 (traceBytes s.now 5 port 0 0 h.src.toNat 0 0 h.stamp.toNat) true else s1
  else s

end Sys2Proof.Machine
end

