-- ==== Sys2Proof/Machine/Interrupts.lean ====
section
/-! DEFINITION. The interrupt controller (chapter 13): latching, banks, delivery, claims and completions. -/

namespace Sys2Proof.Machine

open Sys2Proof

/-- A source's own state, of whichever number. -/
def State.src (s : State) (n : Nat) : Src := s.ic.srcs.get {} n

def State.setSrc (s : State) (n : Nat) (v : Src) : State := { s with ic := { s.ic with srcs := s.ic.srcs.set n v } }

/-- A bank by its kind (`true`: of a tailor core) and its number: 2 x core + class, or 256 x partition + 2 x group + class. -/
def State.bank (s : State) (core : Bool) (i : Nat) : Bank :=
  if core then s.ic.tbanks.get {} i else s.ic.hbanks.get {} i

def State.setBank (s : State) (core : Bool) (i : Nat) (b : Bank) : State :=
  if core then { s with ic := { s.ic with tbanks := s.ic.tbanks.set i b } }
  else { s with ic := { s.ic with hbanks := s.ic.hbanks.set i b } }

/-- The bank that a source's target names (R380). -/
def State.bankOf (s : State) (n : Nat) : Bool × Nat :=
  let v := s.src n
  let i := 2 * v.target.toNat + b2n v.cls
  if v.kind then (true, i) else (false, 256 * (s.srcOwner n).getD 0 + i)

/-- The delivery condition of an armed bank (R382); `fast` is its class. -/
def bankReady (b : Bank) (fast : Bool) : Bool :=
  if fast then decide (1 ≤ b.n)
  else if b.count = 0 ∧ b.time = 0 then decide (1 ≤ b.n)
  else (decide (b.count ≠ 0) && decide (b.count.toNat ≤ b.n)) || (decide (b.time ≠ 0) && b.due)

/-- Traffic for a link in L1 brings it to L0 first (R383). -/
def State.bringUp (s : State) (p : Nat) : State :=
  let l := s.linkOf p
  let k := s.link l
  if k.stat.l1 then s.setLink l { k with stat := { k.stat with l1 := false } } else s

/-- An MSI-X message of entry `e` can be sent (R352, R383), once the port's domain runs (R25). -/
def State.canMsix (s : State) (p e : Nat) : Bool :=
  let f := s.fn p
  s.dom (s.portDom p) == .run && s.serving 9 (s.linkOf p / 2) && f.enabled && f.bme && !f.d3 && f.msixEn && !f.fmask && !(f.table.get {} e).mask

/-- The message of entry `e` leaves, as the table gives it (R383). -/
def State.emitMsix (s : State) (p e : Nat) : State :=
  let x := (s.fn p).table.get {} e
  ((s.chargeTo p 1).bringUp p).emit (.msix p e x.addr x.data)

/-- Send an MSI-X message, or hold it, set its PBA bit, and wake the port's domain (R25). One that is held already adds none (R383). -/
def State.sendMsix (s : State) (p e : Nat) : State :=
  if (s.fn p).pba.getLsbD e then s
  else if s.canMsix p e then s.emitMsix p e
  else (s.setFn p { s.fn p with pba := setBit (s.fn p).pba e true }).wake (s.portDom p)

/-- A bank notifies its target and becomes DELIVERED (R383). -/
def State.deliver (s : State) (core : Bool) (i : Nat) : State :=
  let b := { s.bank core i with armed := false, n := 0, timer := false, due := false, sentAt := some s.now }
  if core then (s.setBank core i { b with line := true }).emit (.coreLine (i / 2) (i % 2 == 1) true)
  else (s.setBank core i b).sendMsix (i / 256) (i % 256 / 2)

/-- Deliver when the bank is armed, its condition holds and delivery is enabled (R382); none is made while the unit is out
(R425). -/
def State.tryDeliver (s : State) (core : Bool) (i : Nat) : State :=
  let b := s.bank core i
  if s.serving 0xA 0 && !s.ic.dis && b.armed && bankReady b (i % 2 == 1) then s.deliver core i else s

/-- Count one edge of a source in its bank (R381). -/
def State.countEdge (s : State) (n : Nat) : State :=
  let (core, i) := s.bankOf n
  let b := s.bank core i
  if b.armed then
    (s.setBank core i { b with n := min 255 (b.n + 1), timer := true }).tryDeliver core i
  else s

/-- A rising edge is latched, and counted in the bank when the source is not active and its EN is 1 (R378, R379). -/
def State.latchEdge (s : State) (n : Nat) : State :=
  let v := s.src n
  let s1 := s.setSrc n { v with pend := true }
  if v.en && !v.act then s1.countEdge n else s1

/-- A pending source is withdrawn (R378). -/
def State.withdraw (s : State) (n : Nat) : State := s.setSrc n { s.src n with pend := false }

/-- Source `n` is served by the bank (R380). -/
def State.servedBy (s : State) (core : Bool) (i n : Nat) : Bool := s.canRise n && s.bankOf n == (core, i)

/-- The eligible source that a claim of a bank returns (R384). -/
def State.claimable (s : State) (core : Bool) (i : Nat) : Option Nat :=
  (maxBy (fun t => t.2.prio.toNat)
    (s.ic.srcs.filter fun t => t.2.pend && !t.2.act && t.2.en && s.servedBy core i t.1)).map (·.1)

/-- The bank a claim or completion names, when the accessing party reaches it: its own partition's banks, and the
tailor-core banks for partition 0 and the cores. -/
def bankFor (w : Who) : BankId → Option (Bool × Nat)
  | .core b => if isMgr w then some (true, b.val) else none
  | .host p b => if whoPart w == p.val then some (false, 256 * p.val + b.val) else none

/-- A bank returns to ARMED, with its count at 0 and its timer stopped (R384). -/
def State.rearm (s : State) (core : Bool) (i : Nat) : State :=
  let b := s.bank core i
  let s1 := s.setBank core i { b with armed := true, n := 0, timer := false, due := false, line := false }
  if core && b.line then s1.emit (.coreLine (i / 2) (i % 2 == 1) false) else s1

/-- A read of a claim register: the source it answers, or 0, and the state after it (R383, R384). -/
def State.claim (s : State) (w : Who) (b : BankId) : Nat × State :=
  match bankFor w b with
  | none => (0, s)
  | some (core, i) =>
    let v := s.bank core i
    let s := match v.sentAt with
      | some t => (s.setBank core i { v with sentAt := none }).metric 8 (s.now - t) (if core then 0 else i / 256) 0x1FF 0 0
      | none => s
    match s.claimable core i with
    | some n => (n, s.setSrc n { s.src n with pend := false, act := true })
    | none => (0, s.rearm core i)

/-- A register read is answered. -/
def answerRead (w : Who) (x : Nat × State) : State := x.2.emit (.regRead w (BitVec.ofNat 64 x.1))

/-! ### Meanings -/

/-- R378: a line that has risen is latched. -/
def execSourceEdge (n : Fin 2048) (s_ : State) : Ans :=
  delivered (.sourceEdge n) s_ fun s =>
  if s.canRise n.val && s.ic.risen.contains n.val then
    .next (({ s with ic := { s.ic with risen := s.ic.risen.erase n.val } } : State).latchEdge n.val)
  else .next s

def execSourceLineFall (n : Fin 2048) (s_ : State) : Ans :=
  delivered (.sourceLineFall n) s_ fun s =>
  if (s.src n.val).mode && !s.lineHigh n.val && !s.ic.risen.contains n.val then .next (s.withdraw n.val) else .next s

def execCoalesceTime (b : BankId) (s : State) : Ans :=
  let (core, i) := match b with
    | .core b => (true, b.val)
    | .host p b => (false, 256 * p.val + b.val)
  let v := s.bank core i
  if i % 2 = 0 ∧ v.armed = true ∧ v.timer = true ∧ v.time ≠ 0 then
    .next ((s.setBank core i { v with due := true }).tryDeliver core i)
  else .next s

/-- R384: the claim returns the choice and makes it active, or returns 0 and re-arms the bank. -/
def execClaim (w : Who) (b : BankId) (s_ : State) : Ans :=
  delivered (.claim w b) s_ fun t_ =>
  heardRead w t_ fun s => .next (answerRead w (s.claim w b))

/-- R384: only an active source of the bank is completed; one that is pending is then counted (R379). -/
def execSourceComplete (w : Who) (b : BankId) (n : BitVec 11) (s_ : State) : Ans :=
  delivered (.sourceComplete w b n) s_ fun t_ =>
  heard w t_ fun s =>
  match bankFor w b with
  | none => .next s
  | some (core, i) =>
    let v := s.src n.toNat
    if s.servedBy core i n.toNat && v.act then
      let s1 := s.setSrc n.toNat { v with act := false }
      .next (if v.pend && v.en then s1.countEdge n.toNat else s1)
    else .next s

/-- A source that the accessing partition owns, or any from partition 0. -/
def State.mayTouchSrc (s : State) (w : Who) (n : Nat) : Bool := isMgr w || s.srcOwner n == some (whoPart w)

/-- R390: a 1 withdraws the source. -/
def execPendClear (w : Who) (k : Fin 64) (mask : W32) (s_ : State) : Ans :=
  delivered (.pendClear w k mask) s_ fun t_ =>
  heard w t_ fun s =>
  .next ((List.range 32).foldl (fun s i =>
    let n := 32 * k.val + i
    if mask.getLsbD i && (s.src n).pend && s.mayTouchSrc w n then s.withdraw n else s) s)

/-- The sources 144 to 2,047 that a partition owns (QB.VEC, R398). -/
def State.vecUse (s : State) (p : Nat) : Nat :=
  (s.ic.srcs.filter fun t => decide (144 ≤ t.1) && t.2.owner == some p).length

/-- QB.VEC, QB.WIN, QB.TRACE and QB.TALLY of a partition (R408). -/
def State.quotaVec (s : State) (p : Nat) : Nat := min 1904 (bits (s.prt.qb.get 0 p).toNat 58 48)

/-- R380 and R391. -/
def execTgtWrite (w : Who) (n : Fin 2048) (v : W32) (s_ : State) : Ans :=
  delivered (.tgtWrite w n v) s_ fun t_ =>
  heard w t_ fun s =>
  let m := n.val
  let x := v.toNat
  let o := s.src m
  if m < 144 ∧ s.canRise m = false then .next s
  else if !s.mayTouchSrc w m then .next s.isolation
  else
    let owner' := if isMgr w ∧ 144 ≤ m then some (bits x 27 24) else o.owner
    let new : Src :=
      { o with en := bit x 31, mode := bit x 30, cls := bit x 29, kind := bit x 28, owner := owner',
               prio := BitVec.ofNat 4 (bits x 23 20), target := BitVec.ofNat 7 (bits x 6 0) }
    let other := !(new.mode == o.mode && new.cls == o.cls && new.kind == o.kind && new.owner == o.owner &&
      new.prio == o.prio && new.target == o.target)
    if o.en && other then .next s
    else if new.kind && !o.kind && !isMgr w then .next s
    else if new.en && new.kind && decide (7 < new.target.toNat) then .next s
    else if new.owner != o.owner && (!s.present (bits x 27 24) || decide (s.quotaVec (bits x 27 24) ≤ s.vecUse (bits x 27 24)))
    then .next { s with ic := { s.ic with refused := true } }
    else
      let s1 := s.setSrc m new
      .next (if new.en && !o.en && o.pend && !o.act then s1.countEdge m else s1)

/-- Every bank whose condition holds delivers, fast banks first (R382). -/
def State.deliverAll (s : State) : State :=
  let core (c : Nat) (s : State) := (s.ic.tbanks.filter fun t => t.1 % 2 == c).foldl (fun s t => s.tryDeliver true t.1) s
  let host (c : Nat) (s : State) := (s.ic.hbanks.filter fun t => t.1 % 2 == c).foldl (fun s t => s.tryDeliver false t.1) s
  host 0 (core 0 (host 1 (core 1 s)))

/-- R388: only partition 0 writes it. -/
def execGctlWrite (w : Who) (v : W32) (s_ : State) : Ans :=
  delivered (.gctlWrite w v) s_ fun t_ =>
  heard w t_ fun s =>
  if isMgr w then
    let s1 : State := { s with ic := { s.ic with dis := bit v.toNat 31, refused := s.ic.refused && !bit v.toNat 30 } }
    .next (if s.ic.dis && !s1.ic.dis then s1.deliverAll else s1)
  else .next s

def execMsixHeldSend (p : Fin 16) (e : Fin 128) (s : State) : Ans :=
  let f := s.fn p.val
  if f.pba.getLsbD e.val && s.canMsix p.val e.val then
    .next ((s.setFn p.val { f with pba := setBit f.pba e.val false }).emitMsix p.val e.val)
  else .next s

/-- R389: it answers partition 0 and the tailor cores. -/
def execSysevClear (w : Who) (mask : W32) (s_ : State) : Ans :=
  delivered (.sysevClear w mask) s_ fun t_ =>
  heard w t_ fun s =>
  if isMgr w then .next { s with ic := { s.ic with sysev := s.ic.sysev &&& ~~~mask } } else .next s

/-- Writes of FRZ_IC_HCOAL and FRZ_IC_TCOAL (R394): a fast bank ignores them. -/
def State.writeCoal (s : State) (core : Bool) (i : Nat) (v : W32) : State :=
  if i % 2 = 1 then s
  else
    (s.setBank core i { s.bank core i with count := BitVec.ofNat 8 (bits v.toNat 23 16),
                                           time := BitVec.ofNat 16 (bits v.toNat 15 0) }).tryDeliver core i

end Sys2Proof.Machine
end

