-- ==== Sys2Proof/Machine/Tallies.lean ====
section
/-! DEFINITION. Tallies (R289 to R296): counts, thresholds, threshold events, ownership. -/

namespace Sys2Proof.Machine

open Sys2Proof

/-- R294. -/
def Tally.reached (t : Tally) : Bool := decide (t.thresh.toNat ≤ t.count.toNat)

/-- The event of a tally whose REACHED has changed to 1 (R295): to the tile it names, when that tile is bound to the
owning partition, and to the partition's tally source. Galley's waiting queues are looked at by WAIT_CONDITION_CLEARED. -/
def State.thresholdEvent (s : State) (t : Nat) : State :=
  let v := s.tally t
  match v.owner with
  | none => s
  | some p =>
    let s1 := s.pcntAdd p 7 1
    let s2 := if v.tevt && s1.tilePart v.tile.toNat == some p then s1.toTile v.tile.toNat (.tileEvent v.tile.toNat t) else s1
    if v.irq then s2.raise (16 + 8 * p + 4) else s2

/-- Store a tally's new value and send the event when REACHED changes from 0 to 1, or `always` while it is 1. -/
def State.putTally (s : State) (t : Nat) (v : Tally) (always : Bool) : State :=
  let s1 := s.setTally t v
  if v.reached && (always || !(s.tally t).reached) then s1.thresholdEvent t else s1

/-- An addition, saturating (R293). -/
def Tally.plus (v : Tally) (n : Nat) : Tally :=
  if v.count.toNat + n ≤ 2 ^ 48 - 1 then { v with count := BitVec.ofNat 48 (v.count.toNat + n) }
  else { v with count := BitVec.ofNat 48 (2 ^ 48 - 1), sat := true }

def State.tallyAdd (s : State) (t n : Nat) : State := s.putTally t ((s.tally t).plus n) false

/-- The amount a delivery of `bytes` enabled bytes adds (R292). -/
def Tally.amount (v : Tally) (bytes : Nat) : Nat := if v.mode then 1 else bytes

/-- QB.TALLY (R398). -/
def State.quotaTally (s : State) (p : Nat) : Nat := min 65536 (bits (s.prt.qb.get 0 p).toNat 16 0)

/-- Tallies a partition owns. -/
def State.tallyUse (s : State) (p : Nat) : Nat := (s.tal.filter fun t => t.2.owner == some p).length

/-- R290: the owning partition and partition 0. -/
def State.mayTouchTally (s : State) (w : Who) (t : Nat) : Bool := isMgr w || (s.tally t).owner == some (whoPart w)

/-! ### Meanings -/

/-- R290, R294: COUNT is replaced and SAT cleared. -/
def execTalCountWrite (w : Who) (t : BitVec 16) (v : W64) (s_ : State) : Ans :=
  delivered (.talCountWrite w t v) s_ fun t_ =>
  heard w t_ fun s =>
  if s.mayTouchTally w t.toNat then
    .next (s.putTally t.toNat { s.tally t.toNat with count := BitVec.ofNat 48 v.toNat, sat := false } false)
  else .next s.isolation

/-- R290, R294, R311: an event also follows a write that leaves REACHED at 1. -/
def execTalThrWrite (w : Who) (t : BitVec 16) (v : W64) (s_ : State) : Ans :=
  delivered (.talThrWrite w t v) s_ fun t_ =>
  heard w t_ fun s =>
  if s.mayTouchTally w t.toNat then
    let x := v.toNat
    .next (s.putTally t.toNat
      { s.tally t.toNat with mode := bit x 58, irq := bit x 57, tevt := bit x 56, tile := BitVec.ofNat 6 (bits x 55 50),
                             thresh := BitVec.ofNat 48 x } true)
  else .next s.isolation

def State.townRefuse (s : State) : State := { s with seam := { s.seam with town := true } }

/-- R289, R310. -/
def execTownAssign (w : Who) (p : Fin 16) (t : BitVec 16) (s_ : State) : Ans :=
  delivered (.townAssign w p t) s_ fun t_ =>
  heard w t_ fun s =>
  if !isMgr w then .next s
  else if (s.tally t.toNat).owner.isSome || !s.present p.val || decide (s.quotaTally p.val ≤ s.tallyUse p.val) then
    .next s.townRefuse
  else .next (s.setTally t.toNat { owner := some p.val })

/-- A tally that a live or staged window, or a command in flight, names (R289). -/
def State.tallyNamed (s : State) (t : Nat) : Bool :=
  let names (w : Win) := bit w.cfg.toNat 58 && bits w.cfg.toNat 15 0 == t
  (s.seam.wins.any fun w => names w.2.live || names w.2.staged || w.2.pend.any names) ||
  s.gal.cmds.any fun c =>
    let d := numAt c.slug 0 4
    (bit d 14 && numAt c.slug 8 2 == t) || (bit d 15 && numAt c.slug 10 2 == t) ||
    (numAt c.slug 0 1 == 0x40 && numAt c.slug 12 2 == t)

/-- R289. -/
def execTownRelease (w : Who) (t : BitVec 16) (s_ : State) : Ans :=
  delivered (.townRelease w t) s_ fun t_ =>
  heard w t_ fun s =>
  if !isMgr w then .next s
  else if (s.tally t.toNat).owner.isNone || s.tallyNamed t.toNat then .next s.townRefuse
  else .next (s.setTally t.toNat {})

end Sys2Proof.Machine
end

