-- ==== Sys2Proof/Machine/Seam.lean ====
section
/-! DEFINITION. Seam (chapter 10): windows and their commits, inbound packets, and the outbound side of peer requests. -/

namespace Sys2Proof.Machine

open Sys2Proof

/-! ### Windows -/

/-- EN, KIND, ATM, WR, RD, TEN and SRCANY of a window's configuration (R307). -/
def Win.en (w : Win) : Bool := bit w.cfg.toNat 63
def Win.kind1 (w : Win) : Bool := bit w.cfg.toNat 62
def Win.atm (w : Win) : Bool := bit w.cfg.toNat 61
def Win.wr (w : Win) : Bool := bit w.cfg.toNat 60
def Win.rd (w : Win) : Bool := bit w.cfg.toNat 59
def Win.ten (w : Win) : Bool := bit w.cfg.toNat 58
def Win.tally (w : Win) : Nat := bits w.cfg.toNat 15 0
/-- BASE, and END: the offset in WLIM plus 63 (R285). -/
def Win.baseAddr (w : Win) : Nat := bits w.base.toNat 51 6 * 64
def Win.endOff (w : Win) : Nat := bits w.lim.toNat 36 6 * 64 + 63

/-- Windows of partitions present on the part (R285). -/
def State.winPresent (s : State) (n : Nat) : Bool := decide (n < 1024) && s.present (n / 64)

/-- QB.WIN (R398). -/
def State.quotaWin (s : State) (p : Nat) : Nat := min 64 (bits (s.prt.qb.get 0 p).toNat 38 32)
/-- The windows of a partition in use: live with EN 1, or committed so and not yet in effect. -/
def State.winUse (s : State) (p : Nat) : Nat :=
  (s.seam.wins.filter fun w => w.1 / 64 == p && (w.2.live.en || w.2.pend.any Win.en)).length

/-- BASE to BASE + END lies wholly within tier 0, tier 1 or one tile's scratchpad (R298). -/
def Win.placed (w : Win) : Bool :=
  let a := w.baseAddr
  let b := a + w.endOff
  match region a with
  | .tier0 => region b == .tier0
  | .tier1 => region b == .tier1
  | .scratch => region b == .scratch && scratchTile a == scratchTile b
  | _ => false

/-- Packets of a window decoded and not yet finished. -/
def State.flights (s : State) (n : Nat) : List Flight := s.seam.flight.filter fun f => f.window == n

/-- New live values: VER rises and DRAIN takes the count of the packets not yet finished (R298, R299). -/
def State.commitWin (s : State) (n : Nat) (w : Win) : State :=
  let u := s.win n
  let k := (s.flights n).length
  let fl := s.seam.flight.map fun f => if f.window == n then { f with old := true } else f
  let s1 : State := { s with seam := { s.seam with flight := fl } }
  s1.setWin n { u with live := w, ver := u.ver + 1, drain := BitVec.ofNat 16 k, pend := none }

/-- A scheduled commit takes effect. -/
def State.takeEffect (s : State) (n : Nat) : State :=
  match (s.win n).pend with
  | none => s
  | some w => s.commitWin n w

/-- Why a commit of window `n` is refused; 0 when it is not (R298). -/
def State.commitRsn (s : State) (n : Nat) : Nat :=
  let u := s.win n
  let w := u.staged
  if !s.winPresent n then 5
  else if w.en && w.ten && (s.tally w.tally).owner != some (n / 64) then 1
  else if w.en && !w.placed then 2
  else if u.drain != 0 then 3
  else if w.en && !u.live.en && decide (s.quotaWin (n / 64) ≤ s.winUse (n / 64)) then 4
  else 0

/-- A commit that is not refused is scheduled with the values staged when its write is decoded. -/
def State.scheduleWin (s : State) (n : Nat) : State := s.setWin n { s.win n with pend := some (s.win n).staged }

/-- DROPS of a window, saturating, and the peer-inbound error source (R286). -/
def State.dropPacket (s : State) (n : Nat) : State :=
  let s1 :=
    if s.winPresent n then
      let u := s.win n
      s.setWin n { u with drops := BitVec.ofNat 16 (min 0xFFFF (u.drops.toNat + 1)) }
    else s
  s1.peerDrop

/-- A packet has finished: DRAIN falls when it is of the previous version (R299). -/
def State.finishFlight (s : State) (f : Flight) : State :=
  let s1 : State := { s with seam := { s.seam with flight := s.seam.flight.filter fun g => g.id != f.id } }
  if f.old then
    let u := s1.win f.window
    s1.setWin f.window { u with drain := u.drain - 1 }
  else s1

/-! ### Packets of a request -/

/-- Ports that lead toward a peer (R278). -/
def State.routePorts (s : State) (d : Nat) : BitVec 12 := s.seam.route.get 0 d &&& s.seam.live

/-- The next port of a peer's route, round robin (R278), and the state with the turn passed on. -/
def State.takePort (s : State) (d : Nat) : Option (Nat × State) :=
  (roundRobin 12 (s.seam.rr.get 0 d) fun i => (s.routePorts d).getLsbD i).map fun i =>
    (i, { s with seam := { s.seam with rr := s.seam.rr.set d ((i + 1) % 12) } })

/-- Consecutive pieces of a range, none crossing a multiple of `size`: offset, length. -/
def piecesOf (size : Nat) : Nat → Nat → Nat → List (Nat × Nat)
  | 0, _, _ => []
  | fuel + 1, off, len =>
    if len = 0 then []
    else
      let k := min len (size - off % size)
      (off, k) :: piecesOf size fuel (off + k) (len - k)

/-- The pieces of `len` bytes at `a`: offsets from `a`, and lengths. -/
def cutsOf (size a len : Nat) : List (Nat × Nat) := (piecesOf size (len + 1) a len).map fun c => (c.1 - a, c.2)

/-- The packets of one request: none crosses a 256-byte boundary of the offset space (R277, R282). -/
def Req.cuts (r : Req) (a : Nat) : List (Nat × Nat) := cutsOf 256 (bits a 36 0) r.len

/-- The bytes of a request's pieces, each at its offset. -/
def assemble (len : Nat) (ps : List (Nat × Bytes)) : Bytes :=
  (List.range len).map fun i =>
    ((ps.find? fun l => decide (l.1 ≤ i) && decide (i < l.1 + l.2.length)).map fun l => l.2.getD (i - l.1) 0).getD 0

def replyBytes : Reply → Bytes
  | .data b => b
  | .error _ => []

def replyFails : Reply → Bool
  | .data _ => false
  | .error _ => true

/-- The completion for the packet at an offset of the request is still due. -/
def Req.lacks (r : Req) (a off : Nat) : Bool := (r.cuts a).any (fun c => c.1 == off) && !r.pieces.any fun p => p.1 == off

/-- A completion for one packet of a request is here. With the last of them the request has its data, or meets a bus error where one
carried an error (R284). -/
def State.pieceHere (s : State) (r : Req) (a off : Nat) (x : Reply) : State :=
  if !r.lacks a off then s
  else
    let ps := r.pieces ++ [(off, x)]
    if ps.length < (r.cuts a).length then s.setReq { r with pieces := ps }
    else if ps.any (fun p => replyFails p.2) then (s.setReq { r with st := .failed (.peer a) .peer }).handOn r.id
    else (s.setReq { r with st := .have (.peer a) (assemble r.len (ps.map fun p => (p.1, replyBytes p.2))) }).handOn r.id

/-! ### Inbound -/

/-- Rights an inbound packet needs: 0 WR, 1 RD, 2 ATM, 3 TADD (R286, step 3). -/
def Win.grants (w : Win) (kind : Nat) : Bool :=
  match kind with
  | 0 => w.wr
  | 1 => w.rd
  | 2 => w.atm && w.wr
  | _ => w.ten && w.wr

/-- The ingress checks of R286 in order. -/
def State.windowTakes (s : State) (h : PktHead) (kind len : Nat) : Bool :=
  let n := h.window.toNat
  let w := (s.win n).live
  s.winPresent n && w.en && !w.kind1 &&
    (bit w.cfg.toNat 57 || (bits w.cfg.toNat 41 32 == h.src.toNat && bits w.cfg.toNat 51 48 == h.srcPart.toNat)) &&
    w.grants kind && decide (h.offset.toNat + len - 1 ≤ w.endOff)

/-- The layer of a port decodes packets: it is in service, or the packet is a loopback (R279). -/
def State.layerUp (s : State) (port : Nat) : Bool := decide (12 ≤ port) || s.serving 7 port

/-- What stands before every check: a fenced layer drops, a packet for another device is dropped (R280), and the first
packet after a tick is stamped (R471). `none`: dropped. -/
def State.ingress (s : State) (port : Nat) (h : PktHead) : Option State × State :=
  if !s.layerUp port then (none, s.peerDrop)
  else
    let s1 := if port < 12 then s.noteStamp port h else s
    if h.dst != s1.seam.peer then (none, s1.peerDrop) else (some s1, s1)

/-- Who sent a packet and what it asks: through a port, or on loopback by the request `back` of the source `src` (R13, R279). -/
structure Arrival where
  port : Nat
  src  : Nat
  head : PktHead
  tag  : Nat := 0
  back : Option (Nat × Nat) := none

/-- A packet of Hupen port `i` (R13). -/
def fromPort (i : Fin 12) (h : PktHead) (tag : Nat) : Arrival := { port := i.val, src := 0x1A0 + i.val, head := h, tag := tag }

/-- A decoded packet that waits for its granules. -/
def State.addFlight (s : State) (p : Arrival) (kind len : Nat) (data : Bytes) (en : List Bool) (op : AtomOp) (x y : W64)
    (err : Option ECode) : State :=
  let n := p.head.window.toNat
  let u := s.win n
  let w := u.live
  let a := w.baseAddr + p.head.offset.toNat
  let f : Flight :=
    { id := s.nextId, port := p.port, src := BitVec.ofNat 9 p.src, kind := kind, head := p.head, tag := p.tag, back := p.back,
      window := n, ver := u.ver, old := false, addr := a, len := len, data := data, en := en, op := op, x := x, y := y, err := err,
      tally := if w.ten then some w.tally else none, part := n / 64 }
  let s1 : State := { s with nextId := s.nextId + 1, seam := { s.seam with flight := s.seam.flight ++ [f] } }
  let s2 := s1.chargeTo (n / 64) (granules a len).length
  if (s2.linesOf a len).isEmpty then s2
  else
    { s2 with
      nextId := s2.nextId + 1
      reqs := s2.reqs ++ [{ id := s2.nextId, owner := .inb f.id, src := f.src, part := n / 64,
                            ctx := 0, va := a, len := len, acc := if kind = 0 then .write else if kind = 1 then .read else .atomic,
                            data := data, en := en, st := .issued (.dev a), replay := none, phys := true,
                            op := op, x := x, y := y }] }

/-- A completion to a peer: to the requester itself on a loopback; otherwise on a port of the peer's route (R277, R278). A peer that no
port leads to gets none. -/
def State.answerPeer (s : State) (h : PktHead) (tag : Nat) (back : Option (Nat × Nat)) (x : Reply) : State :=
  match back with
  | some (id, off) =>
    match s.req? id with
    | some r =>
      match r.st with
      | .sent (.peer a) => s.pieceHere r a off x
      | _ => s
    | none => s
  | none =>
    match s.takePort h.src.toNat with
    | none => s
    | some (i, s1) =>
      s1.emit (.peerCpl i { h with dst := h.src, src := s1.seam.peer, srcPart := BitVec.ofNat 4 (h.window.toNat / 64),
                                   stamp := BitVec.ofNat 48 s1.now } tag x)

/-- Enabled bytes of a delivery. -/
def enabledBytes (data : Bytes) (en : List Bool) : Nat := ((List.range data.length).filter (enabledAt en)).length

/-- Some byte lies in the scratchpad of a tile without power (R27). -/
def State.anyOff (s : State) (a len : Nat) : Bool :=
  (granules a len).any fun g => region (64 * g) == .scratch && s.aon.tileOff.getLsbD (scratchTile (64 * g))

/-- An earlier packet of the same source to one of the flight's granules is not yet performed (R33), or it waits in the port of a
tile without power (R27). -/
def State.flightHeld (s : State) (f : Flight) : Bool :=
  s.anyOff f.addr f.len || (s.seam.flight.takeWhile fun g => g.id != f.id).any fun g =>
    g.src == f.src && (granules g.addr g.len).any fun x => (granules f.addr f.len).contains x

/-- The read of a packet outside the coherent window: whole, or an error on poison (R337) or at a closed port (R449). -/
def State.readPlain (s : State) (f : Flight) : Reply :=
  match f.err with
  | some e => .error e
  | none => if s.poisoned f.addr f.len || s.anyClosed f.addr f.len then .error .poison else .data (s.readMem f.addr f.len)

/-- The tally of a window takes what its packet delivered (R44, R292). -/
def State.countFlight (s : State) (f : Flight) (n : Nat) : State :=
  match f.tally with
  | none => s
  | some t => s.tallyAdd t ((s.tally t).amount n)

/-- A read or atomic outside the coherent window is performed and answered (R287). -/
def State.performFlight (s : State) (f : Flight) : State :=
  if f.kind = 1 then (s.answerPeer f.head f.tag f.back (s.readPlain f)).finishFlight f
  else if s.anyClosed f.addr f.len then (s.answerPeer f.head f.tag f.back (.error .poison)).finishFlight f
  else
    match s.performAtomic f.addr f.op f.len f.x f.y with
    | (none, s1) => (s1.answerPeer f.head f.tag f.back (.error .poison)).finishFlight f
    | (some b, s1) => ((s1.countFlight f f.len).answerPeer f.head f.tag f.back (.data b)).finishFlight f

/-- The reads and atomics that nothing holds any more are performed, in the order they came. Those in the coherent window wait for the
directory. -/
def State.settleFlights (s : State) : State :=
  s.seam.flight.foldl (fun s f =>
    if f.kind = 0 || !(s.linesOf f.addr f.len).isEmpty || s.flightHeld f then s else s.performFlight f) s

def State.inWr (s : State) (p : Arrival) (data : Bytes) (en : List Bool) : State :=
  match s.ingress p.port p.head with
  | (none, s1) => s1
  | (some s1, _) =>
    if s1.windowTakes p.head 0 data.length then s1.addFlight p 0 data.length data en .add 0 0 none
    else s1.dropPacket p.head.window.toNat

def State.inRd (s : State) (p : Arrival) (len : Nat) (err : Option ECode) : State :=
  match s.ingress p.port p.head with
  | (none, s1) => s1
  | (some s1, _) =>
    if s1.windowTakes p.head 1 len then (s1.addFlight p 1 len [] [] .add 0 0 err).settleFlights
    else (s1.dropPacket p.head.window.toNat).answerPeer p.head p.tag p.back (.error .peer)

def State.inAtm (s : State) (p : Arrival) (op : AtomOp) (len : Nat) (x y : W64) : State :=
  match s.ingress p.port p.head with
  | (none, s1) => s1
  | (some s1, _) =>
    if s1.windowTakes p.head 2 len then (s1.addFlight p 2 len [] [] op x y none).settleFlights
    else (s1.dropPacket p.head.window.toNat).answerPeer p.head p.tag p.back (.error .peer)

def State.inTadd (s : State) (p : Arrival) (v : BitVec 48) : State :=
  match s.ingress p.port p.head with
  | (none, s1) => s1
  | (some s1, _) =>
    let n := p.head.window.toNat
    if s1.windowTakes p.head 3 1 then (s1.chargeTo (n / 64) 1).tallyAdd (s1.win n).live.tally v.toNat else s1.dropPacket n

/-- Work that needs a domain: done in RUN; otherwise the need is a wake request and the work is held (R416). -/
def gated (d : Nat) (s : State) (k : State → Ans) : Ans :=
  match s.dom d with
  | .run => k s
  | .waking _ => .next s
  | _ => .next (s.wake d)

/-! ### Outbound -/

/-- The header of a packet of a request's bytes at aperture address `a` (R281, R282). -/
def State.headFor (s : State) (r : Req) (a : Nat) : PktHead :=
  { dst := BitVec.ofNat 10 (bits a 56 47), src := s.seam.peer, srcPart := BitVec.ofNat 4 r.part,
    window := BitVec.ofNat 10 (bits a 46 37), offset := BitVec.ofNat 37 (bits a 36 0), stamp := BitVec.ofNat 48 s.now }

/-- The packet kind of a request. -/
def Req.pktKind (r : Req) : Nat :=
  match r.owner with
  | .tadd _ _ => 3
  | _ => match r.acc with
    | .write => 0
    | .atomic => 2
    | _ => 1

/-- Send one packet on the next port of the set, round robin (R278). -/
def State.sendPacket (s : State) (r : Req) (a off len : Nat) : State :=
  match s.takePort (bits a 56 47) with
  | none => s
  | some (i, s1) =>
    let data := if r.pktKind = 3 then r.data else slice r.data off len
    s1.emit (.peer i (s1.headFor r (a + off)) r.pktKind len data ((r.en.drop off).take len) r.op r.x r.y r.id off)

/-- A packet to the device itself (R279). DESIGN CHOICE: it keeps the source identifier of the request. -/
def State.loopArrival (s : State) (r : Req) (a off : Nat) : Arrival :=
  { port := 12, src := r.src.toNat, head := s.headFor r (a + off), back := some (r.id, off) }

/-- A posted packet to the device itself meets its own inbound side (R279). -/
def State.loopPosted (s : State) (r : Req) (a : Nat) : State :=
  if r.pktKind = 3 then s.inTadd (s.loopArrival r a 0) (BitVec.ofNat 48 (leNat r.data))
  else (r.cuts a).foldl (fun s c => s.inWr (s.loopArrival r a c.1) (slice r.data c.1 c.2) ((r.en.drop c.1).take c.2)) s

/-- A read or atomic of the device's own windows (R279). -/
def State.loopRead (s : State) (r : Req) (a : Nat) : State :=
  if r.acc = .atomic then s.inAtm (s.loopArrival r a 0) r.op r.len r.x r.y
  else (r.cuts a).foldl (fun s c => s.inRd (s.loopArrival r a c.1) c.2 none) s

/-! ### Meanings -/

def execInboundWr (port : Fin 12) (h : PktHead) (data : Bytes) (en : List Bool) (s_ : State) : Ans :=
  delivered (.inboundWr port h data en) s_ fun s => .next (s.inWr (fromPort port h 0) data en)

def execInboundRd (port : Fin 12) (h : PktHead) (q : Ask) (r : Reply) (s_ : State) : Ans :=
  delivered (.inboundRd port h q r) s_ fun s =>
  .next (s.inRd (fromPort port h q.id) q.len (match r with
    | .error e => some e
    | .data _ => none))

def execInboundAtm (port : Fin 12) (h : PktHead) (q : Ask) (op : AtomOp) (x y : W64) (s_ : State) : Ans :=
  delivered (.inboundAtm port h q op x y) s_ fun s => .next (s.inAtm (fromPort port h q.id) op q.len x y)

def execInboundTadd (port : Fin 12) (h : PktHead) (v : BitVec 48) (s_ : State) : Ans :=
  delivered (.inboundTadd port h v) s_ fun s => .next (s.inTadd (fromPort port h 0) v)

/-- A completion whose request timed out is late: it is dropped, counted, and noted in the recorder's extremes (R284). One that
answers no request is dropped. -/
def State.lateCpl (s : State) (port id : Nat) : State :=
  match s.seam.timedOut.find? fun l => l.tag == id with
  | some l => (s.pulse 3).metric 0x11 (s.now - l.time) l.part l.src.toNat port 0
  | none => s

/-- A peer completion for a packet of a request that waits for it (R284); one for another device is dropped (R280). -/
def execInboundCpl (port : Fin 12) (c : CplHead) (x : Reply) (s_ : State) : Ans :=
  delivered (.inboundCpl port c x) s_ fun s =>
  if !s.layerUp port.val ∨ c.dst ≠ s.seam.peer then .next s.peerDrop
  else match s.req? c.id with
  | some r =>
    match r.st with
    | .sent (.peer a) =>
      let last := r.lacks a c.off && decide (r.pieces.length + 1 = (r.cuts a).length)
      let s1 := if r.acc = .atomic ∨ last = false then s else s.metric 7 (s.now - r.at_) r.part r.src.toNat 0 0
      .next (s1.pieceHere r a c.off x)
    | _ => .next (s.lateCpl port.val c.id)
  | none => .next (s.lateCpl port.val c.id)

/-- R284: only a request whose CPL is due times out, and none while TMO is 0 (R303). -/
def execPeerCompletionTimeout (id : Nat) (s : State) : Ans :=
  match s.req? id with
  | none => .next s
  | some r =>
    match r.st with
    | .sent (.peer a) =>
      if s.seam.tmo = 0 then .next s
      else
        let l : Late := { tag := id, time := s.now, part := r.part, src := r.src }
        let s1 : State := { s with seam := { s.seam with timedOut := s.seam.timedOut ++ [l] } }
        .next ((s1.setReq { r with st := .failed (.peer a) .peer }).handOn id)
    | _ => .next s

/-- R298, R309: COMMIT acts only from partition 0, on the window its SEL names. -/
def execWindowCommit (w : Who) (s_ : State) : Ans :=
  delivered (.windowCommit w) s_ fun t_ =>
  heard w t_ fun s =>
  if !isMgr w then .next s
  else
    let n := (s.seam.sel.get 0 0).toNat
    let s1 := s.takeEffect n
    match s1.commitRsn n with
    | 0 => .next (s1.scheduleWin n)
    | k + 1 =>
      let m := { s1.seam with refused := s1.seam.refused.set 0 true, rsn := s1.seam.rsn.set 0 (BitVec.ofNat 4 (k + 1)) }
      .next { s1 with seam := m }

def execCommitTakesEffect (n : Fin 1024) (s_ : State) : Ans :=
  inUnit 6 0 s_ fun s => .next (s.takeEffect n.val)

/-- R304: the port block's link has trained. A fenced layer stays out of LIVE. -/
def execHupenPortTrained (i : Fin 12) (s : State) : Ans :=
  .next { s with seam := { s.seam with trained := setBit s.seam.trained i.val true,
                                       live := setBit s.seam.live i.val (s.serving 7 i.val) } }

end Sys2Proof.Machine
end

