-- ==== Sys2Proof/Machine/Lining.lean ====
section
/-! DEFINITION. The lining directory (chapter 11): lookups, admission, snoops, writebacks, recalls, sweeps, write hints,
and the host agents. -/

namespace Sys2Proof.Machine

open Sys2Proof

/-! ### Entries and sets -/

def State.setLin (s : State) (l : Lin) : State := { s with lin := l }

/-- The set of a line (R318). -/
def lineSet (l : Nat) : Nat := Nat.xor (l % 2 ^ 17) (l / 2 ^ 17 % 2 ^ 13)

def State.lentry? (s : State) (l : Nat) : Option LEntry := s.lin.ents.find? fun e => e.line == l

def State.dropEntry (s : State) (l : Nat) : State :=
  s.setLin { s.lin with ents := s.lin.ents.filter fun e => e.line != l }

def State.putEntry (s : State) (e : LEntry) : State :=
  s.setLin { s.lin with ents := (s.lin.ents.filter fun x => x.line != e.line) ++ [e] }

/-- Active agents (R313). -/
def State.agents (s : State) : List Nat := below 74 fun a => s.lin.active.getLsbD a

def LSt.broadcast : LSt → Bool
  | .shb => true
  | .owb => true
  | _ => false

/-- The agents an entry names: its pointers, and in broadcast every active agent (R319, R328). -/
def State.holders (s : State) (e : LEntry) : List Nat :=
  if e.st.broadcast then s.agents ++ e.ptrs.filter (fun a => !s.agents.contains a) else e.ptrs

def LEntry.owner? (e : LEntry) : Option Nat :=
  match e.st with
  | .ex => e.ptrs.head?
  | .ow => e.ptrs.head?
  | .owb => e.ptrs.head?
  | _ => none

/-- The owner of a line with O or M data holds it no more: its sharers keep S (R331). -/
def State.ownerGone (s : State) (e : LEntry) : State :=
  match e.st with
  | .ex => s.dropEntry e.line
  | .ow => match e.ptrs.drop 1 with
    | [] => s.dropEntry e.line
    | r => s.putEntry { e with st := .sh, ptrs := r }
  | .owb => s.putEntry { e with st := .shb, ptrs := [] }
  | _ => s

/-- An agent's pointer is removed. -/
def State.dropPtr (s : State) (e : LEntry) (a : Nat) : State :=
  if e.owner? = some a then s.ownerGone e
  else if e.ptrs.contains a then
    match e.ptrs.erase a with
    | [] => s.dropEntry e.line
    | r => s.putEntry { e with ptrs := r }
  else s

/-! ### Transactions -/

def State.txn? (s : State) (l : Nat) : Option Txn := s.lin.opens.find? fun t => t.line == l

def State.putTxn (s : State) (t : Txn) : State :=
  s.setLin { s.lin with opens := s.lin.opens.map fun x => if x.line == t.line then t else x }

/-- The line has an open transaction, or is being recalled (R326, R328). -/
def State.lineBusy (s : State) (l : Nat) : Bool :=
  s.lin.opens.any fun t => t.line == l || t.victim.any fun v => v.line == l

/-- Ways of a set that open transactions pin (R327). -/
def State.pinned (s : State) (set : Nat) : List Nat :=
  (s.lin.opens.filter fun t => lineSet t.line == set).filterMap (·.way)

/-- The request behind an uncached access. -/
def State.ureq? (s : State) : Option UReq → Option Req
  | some (.held id _) => s.req? id
  | _ => none

/-- The bytes of line `l` that a request writes, and which of them are enabled. -/
def State.lineBytes (s : State) (r : Req) (l : Nat) : List (Option Byte) :=
  match r.st with
  | .issued (.dev a) =>
    (List.range 64).map fun i =>
      let b := s.lineAddr l + i
      if a ≤ b ∧ b < a + r.data.length ∧ enabledAt r.en (b - a) = true then r.data[b - a]? else none
  | _ => []

/-- A tile target is bound to a context of the partition; a tailor core needs no binding (R323). -/
def State.hintTarget (s : State) (r : Req) (t : Nat) : Bool :=
  decide (t < 72) && s.lin.active.getLsbD t &&
    (decide (64 ≤ t) || ((match r.owner with | .cmpUpdate _ _ => true | _ => false) && s.tilePart t == some r.part))

/-- The target of a write hint that covers the line, lowest range first (R323, R347). -/
def State.hintFor (s : State) (r : Req) (l : Nat) : Option Nat :=
  let a := s.lineAddr l
  ((List.range 4).map (4 * r.part + ·)).findSome? fun h =>
    let b := (s.lin.hintb.get 0 h).toNat
    let m := (s.lin.hintl.get 0 h).toNat
    if bit b 63 ∧ bits b 51 21 * 2 ^ 21 ≤ a ∧ a < (bits m 51 21 + 1) * 2 ^ 21 then some (bits b 62 56) else none

/-- The target whose write hint the directory accepts, when it has a free fill buffer (R323). -/
def State.hintTaken (s : State) (r : Req) (l : Nat) (fill : Bool) : Option Nat :=
  match s.hintFor r l with
  | some t => if fill && s.hintTarget r t then some t else none
  | none => none

/-- A transaction that will create an entry on a line without one. -/
def Txn.creates (t : Txn) : Bool :=
  match t.kind with
  | .rds => true
  | .rdx => true
  | .upg => true
  | .uwr => t.hint.isSome
  | .atm => t.hint.isSome
  | _ => false

/-- A transaction of an agent or uncached requester, held to the admission of R327; sweeps are not. -/
def Txn.isReq (t : Txn) : Bool := t.kind != .sweep && t.kind != .flush

/-- A NAR made in proof (R322). -/
def Txn.isProof (t : Txn) : Bool :=
  match t.ureq with
  | some (.proof _ _) => true
  | _ => false

/-- A REQ transaction that pins a way once it is open (R327). -/
def State.pins (s : State) (t : Txn) : Bool := t.isReq && (t.creates || (s.lentry? t.line).isSome)

/-- The ways of a set that REQ transactions pin (R327). -/
def State.reqPinned (s : State) (set : Nat) : Nat :=
  ((s.lin.opens.filter fun t => t.isReq && lineSet t.line == set).filterMap (·.way)).length

/-- R322, R326, R327: room in the table of open transactions and in the set. -/
def State.hasRoom (s : State) (t : Txn) : Bool :=
  let set := lineSet t.line
  decide (s.lin.opens.length < 1024) &&
    (if t.isProof then decide ((s.pinned set).length < 8) else !s.pins t || decide (s.reqPinned set < 15))

/-- The agents to be snooped (R321, R331): `e` is the entry at the lookup. -/
def State.snoopsFor (s : State) (t : Txn) (e : Option LEntry) : List Nat :=
  match e with
  | none => []
  | some e =>
    match t.kind with
    | .rds => (optList e.owner?).filter (· != t.agent)
    | .rdx => (s.holders e).filter (· != t.agent)
    | .upg => (s.holders e).filter (· != t.agent)
    | .nar => optList e.owner?
    | .uwr => s.holders e
    | .atm => s.holders e
    | .sweep => if e.ptrs.contains t.agent then [t.agent] else []
    | .flush => s.holders e
    | .evc => []

/-- SNPS 0, SNPI 1, SNPC 2. -/
def Txn.snoopKind (t : Txn) : Nat :=
  match t.kind with
  | .rds => 0
  | .nar => 2
  | _ => 1

/-- A home read is issued at the end of the lookup (R321, R331). -/
def Txn.readsHome (t : Txn) (e : Option LEntry) : Bool :=
  (t.kind == .rds || t.kind == .rdx || t.kind == .nar) && !(e.any fun e => e.st == .ow || e.st == .owb)

/-- The agent holds the line as far as the entry can tell (R330). -/
def LEntry.names (e : LEntry) (a : Nat) : Bool := e.st.broadcast || e.ptrs.contains a

def State.emitAll (s : State) (ms : List OutMsg) : State := { s with out := s.out ++ ms }

/-- Snoops: the agent, the line and the kind of each. -/
def State.snoopAll (s : State) (xs : List (Nat × Nat × Nat)) : State :=
  xs.foldl (fun s x => s.toTile x.1 (.snoop x.1 x.2.1 x.2.2)) s

/-- A free way of a set. -/
def State.freeWay (s : State) (set : Nat) : Option Nat :=
  (List.range 16).find? fun w =>
    !(s.lin.ents.any fun e => lineSet e.line == set && e.way == w) && !(s.pinned set).contains w

/-- The least recently used entry of a set that no open transaction pins (R328). -/
def State.victimOf (s : State) (set : Nat) : Option LEntry :=
  minBy (·.stamp) (s.lin.ents.filter fun e => lineSet e.line == set && !(s.pinned set).contains e.way)

/-! ### Completion -/

/-- CMPD: 0 S, 1 E, 2 M, with the data or the poison mark. -/
def State.grant (s : State) (t : Txn) (st : Nat) (d : Reply) : State :=
  let s1 := s.emit (.cmpd t.agent t.line st d)
  if st = 0 then s1 else s1.watchDev (s.lineAddr t.line) 64

/-- The value of a fence read's completion on a link: DONE, LINK and the fence reads completed there, this one included
(R366). -/
def State.fenceDone (s : State) (l : Nat) (w : Who) : State :=
  let k := s.link l
  (s.setLink l { k with seq := k.seq + 1 }).emit
    (.regRead w (BitVec.ofNat 64 (2 ^ 31 + l * 2 ^ 16 + (k.seq + 1).toNat)))

/-- An earlier posted write of the link has not finished (R51). -/
def State.postedBefore (s : State) (l n : Nat) : Bool :=
  s.reqs.any fun r => decide (r.id < n) && (match r.owner with | .bar2Wr k _ _ => k == l | _ => false)

/-- Fence reads of a link whose earlier posted writes have all finished complete (R51). -/
def State.releaseFences (s : State) (l : Nat) : State :=
  let k := s.link l
  let due := k.fences.takeWhile fun f => !s.postedBefore l f.2
  due.foldl (fun s f => s.fenceDone l f.1) (s.setLink l { k with fences := k.fences.drop due.length })

/-- A request of a tile or a tailor core whose lines have all been answered is answered in turn; the bytes of a write that lie
outside the window are performed at their homes. -/
def State.finishOwn (s : State) (r : Req) (a : Nat) : State :=
  match r.st with
  | .issued o =>
    if !r.linesDone (s.linesOf a r.len) || r.acc == .atomic then s
    else if r.acc = .write then
      match s.writeBack r .done with
      | some (_, t) => (t.setReq { r with st := .done o }).handOn r.id
      | none => s
    else (s.setReq { r with st := .have o (s.gatherRead r a) }).handOn r.id
  | _ => s.handOn r.id

/-- A peer's read or atomic in the window ends with its completion; what waited behind it goes on. -/
def State.endFlight (s : State) (fl : Flight) (id : Nat) (x : Reply) : State :=
  (((s.answerPeer fl.head fl.tag fl.back x).dropReq id).finishFlight fl).settleFlights

/-- Some granule that the request accesses lies in a tile without power (R27). -/
def State.waitsOff (s : State) (r : Req) (a : Nat) : Bool :=
  (granules a r.len).any fun g => decide (0 < enabledIn a r.len r.en g) && s.anyOff (64 * g) 64

/-- A host or peer access that waits in the pool, for the directory (R315), for an earlier request (R33) or for a tile's power (R27): once
nothing is due its answer goes out and the request ends. -/
def State.finishOne (s : State) (id : Nat) : State :=
  match s.req? id with
  | none => s
  | some r =>
    let a := match r.st.out? with | some (.dev a) => a | _ => 0
    let plain := (s.linesOf a r.len).isEmpty
    let whole := r.linesDone (s.linesOf a r.len) && !s.waitsOff r a && !s.orderHeld r
    match r.owner, r.st with
    | .tile _ _, _ => s.finishOwn r a
    | .core _, _ => s.finishOwn r a
    | .bar2Rd _ p, .issued _ =>
      if !whole then s
      else (s.emit (if s.poisonedHome a r.len then .bar2Poison p else .bar2Data p (s.gatherRead r a))).dropReq id
    | .bar2Rd _ p, .failed _ _ => (s.emit (.bar2Poison p)).dropReq id
    | .bar2Zero p, .issued _ =>
      if s.orderHeld r then s
      else ((s.useFree 4).emit (.bar2Data p (s.freeBytes 4))).dropReq id
    | .bar2Wr l _ adds, .issued _ =>
      if whole then
        let en := (List.range r.data.length).map fun i => enabledAt r.en i && !s.inWindow (a + i)
        let s1 := (s.performWrite a r.data en).dropReq id
        (adds.foldl (fun s t => s.tallyAdd t.1 ((s.tally t.1).amount t.2)) s1).releaseFences l
      else s
    | .bar2At _ p, .issued _ =>
      if plain && whole then
        match s.performAtomic a r.op r.len r.x r.y with
        | (none, s1) => (s1.emit (.bar2Poison p)).dropReq id
        | (some b, s1) => (s1.emit (.bar2Data p b)).dropReq id
      else s
    | .bar2At _ p, .have _ b => (s.emit (.bar2Data p b)).dropReq id
    | .bar2At _ p, .failed _ _ => (s.emit (.bar2Poison p)).dropReq id
    | .cxlRd b, .issued _ => if whole then (s.emit (.cmpo (0x190 + b2n b) (s.lineOf a) (.data (s.gatherRead r a)))).dropReq id else s
    | .cxlRd b, .failed _ _ => (s.emit (.cxlPoison b)).dropReq id
    | .cxlWr b, .issued _ => if whole then (s.emit (.cmpw (0x190 + b2n b) (s.lineOf a))).dropReq id else s
    | .inb f, st =>
      match s.seam.flight.find? fun x => x.id == f with
      | none => s.dropReq id
      | some fl =>
        match fl.kind, st with
        | 1, .issued _ =>
          if !whole || s.flightHeld fl then s
          else s.endFlight fl id (if s.poisonedHome a r.len then .error .poison else .data (s.gatherRead r a))
        | 1, .failed _ e => s.endFlight fl id (.error e)
        | 2, .have _ b => (s.countFlight fl r.len).endFlight fl id (.data b)
        | 2, .failed _ e => s.endFlight fl id (.error e)
        | _, _ => s
    | _, _ => s

/-- A request of a host or a peer that Fraiz itself waits to finish. -/
def Owner.isExt : Owner → Bool
  | .bar2Rd _ _ => true
  | .bar2Zero _ => true
  | .bar2Wr _ _ _ => true
  | .bar2At _ _ => true
  | .inb _ => true
  | _ => false

/-- What waited behind a request that has ended goes on. -/
def State.goOn (s : State) : State :=
  (s.settleFlights.reqs.filter fun r => Owner.isExt r.owner).foldl (fun s r => s.finishOne r.id) s.settleFlights

/-- A request is finished where it can be, and what waited behind it goes on. -/
def State.finishExt (s : State) (id : Nat) : State := (s.finishOne id).goOn

/-- R44: the granules are performed, and then the tally addition is made. At a closed port the write meets a bus error, and nothing
is performed or counted (R449). What waited behind it goes on. -/
def execInboundWritePerformed (id : Nat) (s_ : State) : Ans :=
  inUnit 6 0 s_ fun s =>
  match s.seam.flight.find? fun f => f.id == id with
  | none => .next s
  | some f =>
    let wait := (s.reqsOf fun o => o == .inb id).any fun r => !r.linesDone (s.linesOf f.addr f.len)
    if f.kind ≠ 0 ∨ s.flightHeld f = true ∨ wait = true then .next s
    else if s.anyClosed f.addr f.len then .next (s.finishFlight f).goOn
    else
      let en := (List.range f.data.length).map fun i => enabledAt f.en i && !s.inWindow (f.addr + i)
      let s1 := (s.performWrite f.addr f.data en).dropReqs fun r => r.owner == .inb id
      .next ((s1.countFlight f (enabledBytes f.data f.en)).finishFlight f).goOn

/-- An uncached read is answered with the line (R322). -/
def State.answerNar (s : State) (t : Txn) (d : Reply) : State :=
  match t.ureq with
  | some (.held id l) =>
    match s.req? id with
    | none => s
    | some r =>
      let s1 := match d, r.st.out? with
        | .data b, _ => s.setReq { r with lines := r.lines ++ [(l, b)] }
        | .error e, some o => s.setReq { r with st := .failed o e }
        | _, _ => s
      s1.finishExt id
  | some (.proof n id) =>
    match d with
    | .data b =>
      let v := s.lk n.val
      s.setLk n.val { v with held := v.held.map fun h => if h.id == id then { h with nar := some b } else h }
    | .error _ => s.loseProof n.val id
  | none => s

/-- An uncached write's response (R323). -/
def State.answerUwr (s : State) (t : Txn) : State :=
  match t.ureq with
  | some (.held id l) =>
    match s.req? id with
    | none => s
    | some r => (s.setReq { r with lines := r.lines ++ [(l, [])] }).finishExt id
  | _ => s

/-- An atomic's answer: the old value, or the bus error of a poisoned granule (R337). -/
def State.answerAtm (s : State) (t : Txn) : State :=
  match t.ureq with
  | some (.held id _) =>
    match s.req? id with
    | none => s
    | some r =>
      let s1 := match r.st.out?, t.homeD with
        | some o, some (.data b) => s.setReq { r with st := .have o b }
        | some o, some (.error e) => s.setReq { r with st := .failed o e }
        | _, _ => s
      s1.finishExt id
  | _ => s

/-- The entry of a line after its transaction, and the grant (R331). The data is there. -/
def State.closeRds (s : State) (t : Txn) (d : Reply) : State :=
  let a := t.agent
  let way := t.way.getD 0
  let fresh (st : LSt) (ptrs : List Nat) : LEntry := { line := t.line, way := way, st := st, ptrs := ptrs, stamp := s.lin.stamp }
  let toE := (s.putEntry (fresh .ex [a])).grant t 1 d
  let bcast (s : State) : State := s.setLin { s.lin with nbcast := sat48 s.lin.nbcast 1 }
  match s.lentry? t.line with
  | none => toE
  | some e =>
    match e.st with
    | .sh =>
      if e.ptrs.contains a then s.grant t 0 d
      else if e.ptrs.length < 4 then (s.putEntry { e with ptrs := e.ptrs ++ [a] }).grant t 0 d
      else (bcast (s.putEntry { e with st := .shb, ptrs := [] })).grant t 0 d
    | .shb => s.grant t 0 d
    | .ex =>
      let h := e.ptrs.headD 0
      if h = a ∨ t.gone.contains h = true then toE
      else if t.dirty.isSome then (s.putEntry (fresh .ow [h, a])).grant t 0 d
      else (s.putEntry (fresh .sh [h, a])).grant t 0 d
    | .ow =>
      let o := e.ptrs.headD 0
      if t.gone.contains o then
        match (e.ptrs.drop 1).filter (· != a) with
        | [] => toE
        | r => (s.putEntry (fresh .sh (r ++ [a]))).grant t 0 d
      else if e.ptrs.contains a then s.grant t 0 d
      else if e.ptrs.length < 4 then (s.putEntry { e with ptrs := e.ptrs ++ [a] }).grant t 0 d
      else (bcast (s.putEntry { e with st := .owb, ptrs := [o] })).grant t 0 d
    | .owb =>
      if t.gone.contains (e.ptrs.headD 0) then (s.putEntry { e with st := .shb, ptrs := [] }).grant t 0 d
      else s.grant t 0 d

/-- The requester becomes the one holder. -/
def State.toOwner (s : State) (t : Txn) : State :=
  s.putEntry { line := t.line, way := t.way.getD 0, st := .ex, ptrs := [t.agent], stamp := s.lin.stamp }

/-- One earlier request of the host to the line has been completed; a BIConflict with none left is acknowledged (R333). -/
def State.hostDone (s : State) (b : Bool) (l : Nat) : State :=
  let cs := s.lin.conflicts.map fun c => if c.1 == b && c.2.1 == l then (c.1, c.2.1, c.2.2 - 1) else c
  let due := cs.filter fun c => c.2.2 == 0
  (s.setLin { s.lin with conflicts := cs.filter fun c => c.2.2 != 0 }).emitAll (due.map fun c => .biAck c.1 c.2.1)

/-- The transaction leaves the table. -/
def State.closeTxn (s : State) (t : Txn) : State :=
  let s1 := s.setLin { s.lin with opens := s.lin.opens.filter fun x => x.line != t.line }
  match t.host with
  | some b => s1.hostDone b t.line
  | none => s1

/-- The entry of a line after a read whose agent has left: the holders that remain (R331, R336). -/
def State.orphanRds (s : State) (t : Txn) : State :=
  match s.lentry? t.line with
  | none => s
  | some e =>
    if e.owner?.any t.gone.contains then s.ownerGone e
    else if e.st = .ex then s.putEntry { e with st := if t.dirty.isSome then .ow else .sh }
    else s

/-- What data a read transaction returns: an owner's, else the home's. -/
def Txn.answer (t : Txn) : Option Reply :=
  match t.dirty with
  | some b => some (.data b)
  | none => t.homeD

/-- The line as the home holds it, or the poison mark (R30, R337). -/
def State.homeLine (s : State) (l : Nat) : Reply :=
  let a := s.lineAddr l
  if s.poisoned a 64 then .error .poison else .data (s.readMem a 64)

/-- An accepted write hint: the whole line goes to the target in E (R323). -/
def State.fillTarget (s : State) (t : Txn) (g : Nat) : State :=
  (s.putEntry { line := t.line, way := t.way.getD 0, st := .ex, ptrs := [g], stamp := s.lin.stamp }).toTile g
    (.fillE g t.line (s.homeLine t.line))

/-- A transaction whose snoops have all been answered, and whose recall is over, takes its next action (R331): a home
read it still needs, a home write, or its end. -/
def State.progress (s : State) (t : Txn) : State :=
  let needHome := t.crossed && !t.wrote
  match t.kind with
  | .evc => (match s.lentry? t.line with
      | some e => if e.st.broadcast then s else s.dropPtr e t.agent
      | none => s).closeTxn t
  | .rds =>
    if needHome then s.putTxn { t with homeW := true }
    else if t.orphan then (s.orphanRds t).closeTxn t
    else match t.answer with
      | some d => (s.closeRds t d).closeTxn t
      | none => s.putTxn { t with homeR := true }
  | .rdx =>
    if t.orphan then
      (if t.dirty.isSome && !t.wrote then s.putTxn { t with homeW := true } else (s.dropEntry t.line).closeTxn t)
    else match t.answer with
      | some d => ((s.toOwner t).grant t (if t.dirty.isSome then 2 else 1) d).closeTxn t
      | none => s.putTxn { t with homeR := true }
  | .upg =>
    if t.orphan then
      (if t.dirty.isSome && !t.wrote then s.putTxn { t with homeW := true } else (s.dropEntry t.line).closeTxn t)
    else (((s.toOwner t).emit (.cmpu t.agent t.line)).watchDev (s.lineAddr t.line) 64).closeTxn t
  | .nar =>
    if needHome then s.putTxn { t with homeW := true }
    else match t.answer with
      | some d =>
        let s1 := match s.lentry? t.line with
          | some e => if t.crossed then s.ownerGone e else s
          | none => s
        (s1.answerNar t d).closeTxn t
      | none => s.putTxn { t with homeR := true }
  | .uwr =>
    if !t.wrote then s.putTxn { t with homeW := true }
    else
      let s1 := s.dropEntry t.line
      let s2 := match t.hint with
        | some g => if s.lin.active.getLsbD g then s1.fillTarget t g else s1
        | none => s1
      (s2.answerUwr t).closeTxn t
  | .atm =>
    if !t.wrote then s.putTxn { t with homeW := true }
    else ((s.dropEntry t.line).answerAtm t).closeTxn t
  | .sweep =>
    if t.dirty.isSome && !t.wrote then s.putTxn { t with homeW := true }
    else (match s.lentry? t.line with
      | some e => s.dropPtr e t.agent
      | none => s).closeTxn t
  | .flush =>
    if t.dirty.isSome && !t.wrote then s.putTxn { t with homeW := true }
    else (s.dropEntry t.line).closeTxn t

/-- Advance the transaction of a line when nothing it waits for is due. -/
def State.advance (s : State) (l : Nat) : State :=
  match s.txn? l with
  | none => s
  | some t =>
    if t.snoops.isEmpty && t.wbWait.isEmpty && t.victim.isNone && !t.homeW then s.progress t else s

/-! ### Admission -/

/-- Open a transaction: lookup, way, victim, snoops, home read (R326 to R328). -/
def State.openTxn (s : State) (t0 : Txn) : State :=
  let e := s.lentry? t0.line
  let t := if t0.kind = .upg ∧ (e.any fun e => e.names t0.agent) = false then { t0 with kind := .rdx } else t0
  let set := lineSet t.line
  let st := if t.kind = .nar then s.lin.stamp else s.lin.stamp + 1
  let s := s.setLin { s.lin with
    stamp := st
    ents := s.lin.ents.map fun x => if x.line == t.line && t.kind != .nar then { x with stamp := st } else x }
  let victim := if e.isNone && t.creates && (s.freeWay set).isNone then s.victimOf set else none
  let way := match e, victim with
    | some e, _ => some e.way
    | none, some v => some v.way
    | none, none => if t.creates then s.freeWay set else none
  let sn := s.snoopsFor t e
  let vs := match victim with
    | some v => s.holders v
    | none => []
  let t1 := { t with way := way, snoops := sn, homeR := t.readsHome e,
                     victim := victim.map fun v => { line := v.line, due := vs } }
  let s1 := s.setLin { s.lin with opens := s.lin.opens ++ [t1],
                                  nrecall := if victim.isSome then sat48 s.lin.nrecall 1 else s.lin.nrecall }
  let s2 := s1.snoopAll (sn.map fun a => (a, t.line, t.snoopKind))
  let s2 := s2.snoopAll (match victim with
    | some v => vs.map fun a => (a, v.line, 1)
    | none => [])
  let s3 := match victim with
    | some v => if vs.isEmpty then
        (s2.dropEntry v.line).putTxn { t1 with victim := none } else s2
    | none => s2
  s3.advance t.line

/-- A waiting transaction may be opened: its line is free and it is the line's first to wait, there is room, and no earlier arrival of
its set waits for a way (R326, R327). A NAR made in proof holds back no committed transaction, and yields to any that could be opened
(R322). -/
def State.admissible (s : State) (t : Txn) (before : List Txn) : Bool :=
  let ahead := before.filter fun w => t.isProof || !w.isProof
  !s.lineBusy t.line && !(ahead.any fun w => w.line == t.line) && s.hasRoom t &&
    !(s.pins t && ahead.any fun w => lineSet w.line == lineSet t.line && s.pins w && !s.lineBusy w.line) &&
    !(t.isProof && s.lin.waits.any fun w => !w.isProof && !s.lineBusy w.line && s.hasRoom w)

/-- The first waiting transaction of a line that may be opened, with those before it and behind it. -/
def State.nextOf (s : State) (l : Nat) : List Txn → List Txn → Option (List Txn × Txn × List Txn)
  | _, [] => none
  | before, t :: r => if t.line = l ∧ s.admissible t before = true then some (before, t, r) else s.nextOf l (before ++ [t]) r

/-- Admit a waiting transaction of a line, when one may be. -/
def State.admitLine (s : State) (l : Nat) : State :=
  match s.nextOf l [] s.lin.waits with
  | none => s
  | some (before, t, r) => (s.setLin { s.lin with waits := before ++ r }).openTxn t

/-- A transaction arrives: it waits behind those of its line, and is admitted at once when it may be. -/
def State.arrive (s : State) (t : Txn) : State :=
  (s.setLin { s.lin with waits := s.lin.waits ++ [t] }).admitLine t.line

/-- Lines the window has. -/
def State.isLine (s : State) (l : Nat) : Bool := decide (l < s.lin.size * 2 ^ 24)

/-- The directory serves the window: it is enabled, or its disabling sweep runs (R338). -/
def State.linServes (s : State) : Bool := s.lin.en || s.lin.flushing

/-- An agent's request is taken while the directory serves the window and the agent is active. -/
def State.agentReq (s : State) (a l : Nat) (k : TxKind) : State :=
  if s.linServes && s.isLine l && s.lin.active.getLsbD a then
    s.arrive { line := l, kind := k, agent := a, host := if a < 72 then none else some (a == 73) }
  else s

/-! ### Meanings -/

def execRds (a : Fin 74) (line : Nat) (s_ : State) : Ans :=
  delivered (.rds a line) s_ fun s => .next (s.agentReq a.val line .rds)

def execRdx (a : Fin 74) (line : Nat) (s_ : State) : Ans :=
  delivered (.rdx a line) s_ fun s => .next (s.agentReq a.val line .rdx)

def execUpg (a : Fin 74) (line : Nat) (s_ : State) : Ans :=
  delivered (.upg a line) s_ fun s => .next (s.agentReq a.val line .upg)

def execEvc (a : Fin 74) (line : Nat) (s_ : State) : Ans :=
  delivered (.evc a line) s_ fun s => .next (s.agentReq a.val line .evc)

/-- A read that enables no byte reads nothing. -/
def Owner.readsNone : Owner → Bool
  | .bar2Zero _ => true
  | _ => false

/-- The uncached access asks for a line it covers and that has not been asked for. -/
def State.mayAsk (s : State) (r : Req) (l : Nat) : Bool :=
  let asked (t : Txn) := t.ureq == some (.held r.id l)
  match r.st with
  | .issued (.dev a) => (s.linesOf a r.len).contains l && !(r.lines.any fun x => x.1 == l) &&
      !(s.lin.waits.any asked) && !(s.lin.opens.any asked) && !s.orderHeld r && !Owner.readsNone r.owner
  | _ => false

/-- R322: the latest line is read, and no state changes. A read made in proof wakes nothing (R260). -/
def execNar (u : UReq) (s_ : State) : Ans :=
  inUnit 8 0 s_ fun s =>
  match u with
  | .held id l =>
    gated 25 s fun s =>
    match s.req? id with
    | none => .next s
    | some r =>
      if s.mayAsk r l && r.acc != .write && r.acc != .atomic then .next (s.arrive { line := l, kind := .nar, ureq := some u })
      else .next s
  | .proof n id =>
    match (s.lk n.val).held.find? fun h => h.id == id && !h.dead && h.data.isNone && h.nar.isNone with
    | none => .next s
    | some h =>
      match h.out with
      | .dev a => if s.inWindow a && s.dom 25 == .run then .next (s.arrive { line := s.lineOf a, kind := .nar, ureq := some u }) else .next s
      | _ => .next s

/-- R320: the uncached write; one that enables no byte of the line performs nothing and sends no snoop. -/
def execUwr (u : UReq) (fill : Bool) (s_ : State) : Ans :=
  inUnit 8 0 s_ fun t_ => gated 25 t_ fun s =>
  match u with
  | .proof _ _ => .next s
  | .held id l =>
    match s.req? id with
    | none => .next s
    | some r =>
      if s.mayAsk r l && r.acc == .write then
        if (s.lineBytes r l).all (·.isNone) then .next (s.answerUwr { line := l, kind := .uwr, ureq := some u })
        else
          .next (s.arrive { line := l, kind := .uwr, ureq := some u, hint := s.hintTaken r l fill })
      else .next s

def execAtm (u : UReq) (s_ : State) : Ans :=
  inUnit 8 0 s_ fun t_ => gated 25 t_ fun s =>
  match u with
  | .proof _ _ => .next s
  | .held id l =>
    match s.req? id with
    | none => .next s
    | some r =>
      if s.mayAsk r l && r.acc == .atomic then .next (s.arrive { line := l, kind := .atm, ureq := some u })
      else .next s

/-- A snoop of the recall is due from the agent. -/
def Victim.asks (v : Victim) (a l : Nat) : Bool := v.line == l && (v.due.contains a || v.wbWait.contains a)

/-- A snoop of the line to the agent is due: of the line's transaction, or of a recall. -/
def State.snoopDue (s : State) (a l : Nat) : Bool :=
  s.lin.opens.any fun t => (t.line == l && (t.snoops.contains a || t.wbWait.contains a)) || t.victim.any fun v => v.asks a l

/-- A recall with its new responses: the way is free once none is due and no data must go home (R328). -/
def State.putVictim (s : State) (t : Txn) (v : Victim) : State :=
  if v.due.isEmpty && v.wbWait.isEmpty && v.dirty.isNone then
    ((s.dropEntry v.line).putTxn { t with victim := none }).advance t.line
  else s.putTxn { t with victim := some v }

/-- A response is complete: `d` the owner's data, `isI` the agent holds nothing afterwards, `x` the data came from a WBD. -/
def State.answered (s : State) (a l : Nat) (d : Option Bytes) (isI x : Bool) : State :=
  match s.lin.opens.find? fun t => t.line == l && (t.snoops.contains a || t.wbWait.contains a) with
  | some t =>
    let t1 := { t with snoops := t.snoops.erase a, wbWait := t.wbWait.erase a,
                       dirty := if d.isSome then d else t.dirty,
                       crossed := t.crossed || (x && d.isSome),
                       gone := if isI then t.gone ++ [a] else t.gone }
    (s.putTxn t1).advance l
  | none =>
    match s.lin.opens.find? fun t => t.victim.any fun v => v.asks a l with
    | none => s
    | some t =>
      match t.victim with
      | none => s
      | some v => s.putVictim t { v with due := v.due.erase a, wbWait := v.wbWait.erase a,
                                         dirty := if d.isSome then d else v.dirty }

/-- The snoop due from the agent is that of a NAR made in proof, which no counter records (R54, R264). -/
def State.proofSnoop (s : State) (a l : Nat) : Bool :=
  s.lin.opens.any fun t => t.line == l && (t.snoops.contains a || t.wbWait.contains a) && t.isProof

/-- A WBD consumed by the snoop it crossed (R329): WBACK is sent, and the crossing is counted. -/
def State.consumeWb (s : State) (a l : Nat) (d : Bytes) : State :=
  let s1 := s.setLin { s.lin with wbs := s.lin.wbs.filter fun w => !(w.1 == a && w.2.1 == l),
                                  ncross := if s.proofSnoop a l then s.lin.ncross else sat48 s.lin.ncross 1 }
  (s1.emit (.wback a l)).answered a l (some d) true true

/-- The agent answered RSPWBIF for the line and its WBD has not come. -/
def State.wbWaited (s : State) (a l : Nat) : Bool :=
  s.lin.opens.any fun t => (t.line == l && t.wbWait.contains a) || t.victim.any fun v => v.line == l && v.wbWait.contains a

/-- Writeback buffers of an agent in use, of its 4 (R325). -/
def State.wbHeld (s : State) (a : Nat) : Nat := (s.lin.wbs.filter fun w => w.1 == a).length

/-- A writeback arrives (R329): with a snoop open to the agent the data goes with that snoop, at once when the agent has answered and
from a buffer otherwise; with none it is written home and the entry leaves its owner (R331). -/
def State.takeWbd (s : State) (a l : Nat) (d : Bytes) : State :=
  if s.snoopDue a l then
    if s.wbWaited a l then s.consumeWb a l d
    else if s.wbHeld a < 4 then s.setLin { s.lin with wbs := s.lin.wbs ++ [(a, l, d)] }
    else s
  else
    let s1 := s.performWrite (s.lineAddr l) d []
    let s2 := match s1.lentry? l with
      | some e => if e.owner? = some a then s1.ownerGone e else s1
      | none => s1
    s2.emit (.wback a l)

/-- The agent's current epoch (R336). -/
def State.agentEpoch (s : State) (a : Nat) : Byte := s.lin.epochs.get 0 a

/-- R329, R336: a writeback of an older epoch of its agent is dropped. -/
def execWbd (a : Fin 74) (line : Nat) (w : Writeback) (s_ : State) : Ans :=
  delivered (.wbd a line w) s_ fun s =>
  if s.isLine line && s.linServes && s.agentEpoch a.val == w.epoch then .next (s.takeWbd a.val line (w.data.take 64)) else .next s

def execTransactionAdmit (line : Nat) (s_ : State) : Ans :=
  inUnit 8 0 s_ fun s => .next (s.admitLine line)

/-- The agent answers RSPWBIF: its response is due until its WBD is here (R329). -/
def State.wbDue (s : State) (a l : Nat) : State :=
  match s.lin.opens.find? fun t => t.line == l && t.snoops.contains a with
  | some t => s.putTxn { t with snoops := t.snoops.erase a, wbWait := t.wbWait ++ [a] }
  | none =>
    match s.lin.opens.find? fun t => t.victim.any fun v => v.line == l && v.due.contains a with
    | none => s
    | some t => s.putTxn { t with victim := t.victim.map fun v => { v with due := v.due.erase a, wbWait := v.wbWait ++ [a] } }

/-- R321, R329, R334: a host agent's response takes up the MemWr that came before it. A response of an older epoch is dropped (R336). -/
def execSnoopResponse (a : Fin 74) (line : Nat) (r : SnpAns) (s_ : State) : Ans :=
  delivered (.snoopResponse a line r) s_ fun s =>
  if !s.snoopDue a.val line || s.agentEpoch a.val != r.epoch then .next s
  else
    match s.lin.wbs.find? fun w => w.1 == a.val && w.2.1 == line with
    | some w => .next (s.consumeWb a.val line w.2.2)
    | none =>
      match r.resp with
      | .data d =>
        -- an owner stays O or M under SNPS and SNPC; SNPI leaves it in I
        .next (s.answered a.val line (some (d.take 64)) false false)
      | .clean => .next (s.answered a.val line none false false)
      | .rspI => .next (s.answered a.val line none true false)
      | .wbInFlight => .next (s.wbDue a.val line)

/-- The home read returns the line as it stands, or the poison mark (R30, R337). -/
def execHomeReadReturn (line : Nat) (r : Reply) (s_ : State) : Ans :=
  inUnit 8 0 s_ fun s =>
  match s.txn? line with
  | none => .next s
  | some t =>
    if t.homeR && t.homeD.isNone then
      let d : Reply := match r with
        | .error e => .error e
        | .data _ => s.homeLine line
      .next ((s.putTxn { t with homeD := some d }).advance line)
    else .next s

/-- Overlay the enabled bytes of a write on an owner's data. -/
def overlay : Bytes → List (Option Byte) → Bytes
  | [], _ => []
  | b :: r, [] => b :: r
  | b :: r, o :: os => o.getD b :: overlay r os

/-- The home write of a transaction: an owner's data, an uncached write with the owner's data merged, or an atomic. -/
def State.homeWrite (s : State) (t : Txn) : State × Option Reply :=
  let a := s.lineAddr t.line
  match t.kind, s.ureq? t.ureq with
  | .uwr, some r =>
    let bs := s.lineBytes r t.line
    match t.dirty with
    | some d => (s.performWrite a (overlay d bs) [], none)
    | none => (s.performWrite a (bs.map (·.getD 0)) (bs.map (·.isSome)), none)
  | .atm, some r =>
    let s1 := match t.dirty with
      | some d => s.performWrite a d []
      | none => s
    match r.st with
    | .issued (.dev b) =>
      let (old, s2) := s1.performAtomic b r.op r.len r.x r.y
      (s2, some (match old with | some x => .data x | none => .error .poison))
    | _ => (s1, none)
  | _, _ => (match t.dirty with | some d => s.performWrite a d [] | none => s, none)

/-- R339: a recall's write gives the way to the new line; a transaction's write lets it end. -/
def execHomeWriteResponse (line : Nat) (s_ : State) : Ans :=
  inUnit 8 0 s_ fun s =>
  match s.lin.opens.find? fun t => t.victim.any fun v => v.line == line && v.due.isEmpty && v.wbWait.isEmpty && v.dirty.isSome with
  | some t =>
    match t.victim with
    | none => .next s
    | some v =>
      let s1 := s.performWrite (s.lineAddr v.line) (v.dirty.getD []) []
      .next (s1.putVictim t { v with dirty := none })
  | none =>
    match s.txn? line with
    | none => .next s
    | some t =>
      if t.homeW then
        let (s1, old) := s.homeWrite t
        let t1 := { t with homeW := false, wrote := true, homeD := if old.isSome then old else t.homeD }
        .next ((s1.putTxn t1).advance line)
      else .next s

/-- A request of the host agent for a line it does not own, made as an uncached access on behalf of partition 0 (R335); it waits for
the port's earlier requests to the line (R33). -/
def State.cxlReq (s : State) (b : Bool) (l : Nat) (write : Bool) (d : Bytes) (en : List Bool) (fill : Bool) : State :=
  let id := s.nextId
  let r : Req :=
    { id := id, owner := if write then .cxlWr b else .cxlRd b, src := BitVec.ofNat 9 (0x190 + b2n b), part := 0, ctx := 0,
      va := s.lineAddr l, len := 64, acc := if write then .write else .read, data := d, en := en,
      st := .issued (.dev (s.lineAddr l)), replay := none, phys := true }
  let s1 : State := { s with nextId := id + 1, reqs := s.reqs ++ [r] }
  if s1.orderHeld r then s1
  else if write && (s1.lineBytes r l).all (·.isNone) then s1.answerUwr { line := l, kind := .uwr, ureq := some (.held id l) }
  else
    s1.arrive { line := l, kind := if write then .uwr else .nar, ureq := some (.held id l), host := some b,
                hint := if write then s1.hintTaken r l fill else none }

/-- The host holds M or O as far as the entry can tell (R333). -/
def State.hostOwns (s : State) (a l : Nat) : Bool := (s.lentry? l).any fun e => e.owner? == some a

/-- An address within the window's bounds, whether or not the window is enabled (R335). -/
def State.inBounds (s : State) (a : Nat) : Bool := decide (s.lin.base ≤ a) && decide (a < s.lin.base + s.lin.size * 2 ^ 30)

/-- A CXL.mem request while the window is disabled: its addresses are ordinary tier 0 (R338). -/
def State.cxlPlain (s : State) (b : Bool) (l : Nat) (op : CxlOp) : State :=
  match op with
  | .memWr d en _ => (s.performWrite (s.lineAddr l) (d.take 64) en).emit (.cmpw (0x190 + b2n b) l)
  | .memRdS => s.emit (.cmpo (0x190 + b2n b) l (s.homeLine l))
  | .memRdData => s.emit (.cmpo (0x190 + b2n b) l (s.homeLine l))
  | .memRdA => s.emit (.cmpo (0x190 + b2n b) l (s.homeLine l))
  | .memRdI => s.emit (.cmpo (0x190 + b2n b) l (s.homeLine l))
  | _ => s

/-- R333 to R335. -/
def execCxlMemRequest (b : Bool) (addr : BitVec 52) (op : CxlOp) (s_ : State) : Ans :=
  delivered (.cxlMemRequest b addr op) s_ fun s =>
  let a := addr.toNat
  let ag := 72 + b2n b
  let isWrite := match op with
    | .memWr _ _ _ => true
    | .memWrFwd => true
    | _ => false
  if !s.inBounds a then .next (if isWrite then s.isolation else s.isolation.emit (.cxlPoison b))
  else
    let l := s.lineOf a
    if !s.linServes then .next (s.cxlPlain b l op)
    else match op with
    | .memRdS => .next (s.agentReq ag l .rds)
    | .memRdData => .next (s.agentReq ag l .rds)
    | .memRdA => .next (s.agentReq ag l .rdx)
    | .memRdI => .next (s.cxlReq b l false [] [] false)
    | .memInvA => .next (s.agentReq ag l .upg)
    | .memInvI => .next (s.agentReq ag l .evc)
    | .memInvNT => .next (s.agentReq ag l .evc)
    | .memClnEvct => .next (s.agentReq ag l .evc)
    | .memSpecRd => .next s
    | .memRdFwd => .next s
    | .memWrFwd => .next s
    | .memWr d en fill =>
      if s.snoopDue ag l || s.hostOwns ag l then
        let old := s.readMem (s.lineAddr l) 64
        .next (s.takeWbd ag l ((List.range 64).map fun i => if enabledAt en i then d.getD i 0 else old.getD i 0))
      else .next (s.cxlReq b l true (d.take 64) en fill)

/-- The requests of a host to a line that are not completed. -/
def State.hostReqs (s : State) (b : Bool) (l : Nat) : Nat :=
  let mine (t : Txn) := t.line == l && t.host == some b && t.ureq.isNone
  (s.lin.opens.filter mine).length + (s.lin.waits.filter mine).length +
    (s.reqs.filter fun r => (r.owner == .cxlRd b || r.owner == .cxlWr b) && s.lineOf r.va == l).length

/-- R333: acknowledged once every earlier request of the host to the line has been completed. -/
def execBiconflict (b : Bool) (line : Nat) (s_ : State) : Ans :=
  delivered (.biconflict b line) s_ fun s =>
  let n := s.hostReqs b line
  if n = 0 then .next (s.emit (.biAck b line))
  else .next (s.setLin { s.lin with conflicts := s.lin.conflicts ++ [(b, line, n)] })

/-- R348: Fraiz caches no host memory. -/
def execH2dSnoop (b : Bool) (addr : BitVec 64) (s_ : State) : Ans :=
  delivered (.h2dSnoop b addr) s_ fun s => .next (s.emit (.rspIHitI b addr.toNat))

/-! ### Agents leaving and joining (R336, R344) -/

/-- The snoops due from an agent that has left count as RSPI (R325). -/
def State.answerFor (s : State) (a : Nat) : State :=
  let ls := (s.lin.opens.filter fun t => t.snoops.contains a || t.wbWait.contains a).map (·.line) ++
    (s.lin.opens.filterMap fun t => t.victim.bind fun v => if v.asks a v.line then some v.line else none)
  ls.foldl (fun s l => s.answered a l none true false) s

/-- A request of the agent for a line it caches. -/
def Txn.ofAgent (t : Txn) (a : Nat) : Bool := t.agent == a && t.ureq.isNone && t.isReq

/-- The agent is inactive from here on: its requests that wait are not served, and a sweep begins (R313, R336). -/
def State.leave (s : State) (a : Nat) (dead : Bool) : State :=
  s.setLin { s.lin with active := setBit s.lin.active a false, sweeps := s.lin.sweeps ++ [(a, dead)],
                        waits := s.lin.waits.filter fun t => !t.ofAgent a,
                        conflicts := s.lin.conflicts.filter fun c => 72 + b2n c.1 != a }

/-- The agent has left: its epoch rises, its writebacks are dropped, and the directory answers for it (R325, R336). -/
def State.depart (s : State) (a : Nat) : State :=
  (s.setLin { s.lin with epochs := s.lin.epochs.set a (s.agentEpoch a + 1), wbs := s.lin.wbs.filter fun w => w.1 != a }).answerFor a

/-- The home line an owner took with it is poisoned, whatever a transaction has already read there (R336). -/
def State.loseLines (s : State) (ls : List Nat) : State :=
  let gs := ls.map fun l => s.lineAddr l / 64
  let s1 : State := { s with poison := s.poison ++ gs.filter fun g => !s.poison.contains g }
  let mark (t : Txn) : Txn := if ls.contains t.line && t.homeD.isSome then { t with homeD := some (.error .poison) } else t
  s1.setLin { s1.lin with opens := s1.lin.opens.map mark }

/-- An agent leaves by fencing, or with stale state (R336): no snoop; an owner's lines are poisoned at home; pointers go;
entries in broadcast stay so. What it has asked for is not granted. -/
def State.sweepDead (s : State) (a : Nat) : State :=
  if !s.lin.active.getLsbD a then s
  else
    let mine := s.lin.ents.filter fun e => e.ptrs.contains a
    let lost := (mine.filter fun e => e.owner? == some a).map (·.line)
    let s1 := (s.leave a true).loseLines lost
    let s2 := s1.setLin { s1.lin with opens := s1.lin.opens.map fun t => if t.ofAgent a then { t with orphan := true } else t }
    (mine.foldl (fun s e => s.dropPtr e a) s2).depart a

/-- Snoop the entries that name an agent that leaves and still answers, and the lines it is being granted. -/
def State.sweepNamed (s : State) (a : Nat) : State :=
  let ls := (s.lin.ents.filter fun e => e.ptrs.contains a).map (·.line)
  let due := (s.lin.opens.filter fun t => t.ofAgent a && !ls.contains t.line).map (·.line)
  (ls ++ due).foldl (fun s l => s.arrive { line := l, kind := .sweep, agent := a }) s

/-- An agent that still answers leaves: every entry that names it is snooped (R336). -/
def State.sweepLive (s : State) (a : Nat) : State := (s.leave a false).sweepNamed a

def State.linRefuse (s : State) : State := s.setLin { s.lin with refused := true }

/-- A LEAVE sweep runs (R344). -/
def State.linBusy (s : State) : Bool := s.lin.sweeps.any fun x => !x.2

def execAgctlLeave (w : Who) (a : BitVec 7) (s_ : State) : Ans :=
  delivered (.agctlLeave w a) s_ fun t_ =>
  heard w t_ fun s =>
  if !isMgr w then .next s
  else if s.linBusy || decide (71 < a.toNat) || !s.lin.active.getLsbD a.toNat then .next s.linRefuse
  else .next (s.sweepLive a.toNat)

def execAgctlJoin (w : Who) (a : BitVec 7) (s_ : State) : Ans :=
  delivered (.agctlJoin w a) s_ fun t_ =>
  heard w t_ fun s =>
  if !isMgr w then .next s
  else if s.linBusy || decide (71 < a.toNat) || s.lin.active.getLsbD a.toNat then .next s.linRefuse
  else .next (s.setLin { s.lin with active := setBit s.lin.active a.toNat true })

/-- R336, R377: the first sweep whose entries are all done ends, and SYSEV.SWEEP is set; the agent of a LEAVE has then left. -/
def execAgentSweepEnd (s_ : State) : Ans :=
  inUnit 8 0 s_ fun s =>
  let busy (a : Nat) (t : Txn) := t.agent == a && (t.kind == .sweep || t.ofAgent a)
  match s.lin.sweeps.find? fun x => !(s.lin.opens.any (busy x.1)) && !(s.lin.waits.any (busy x.1)) with
  | none => .next s
  | some x =>
    if !x.2 && s.lin.ents.any (fun e => e.ptrs.contains x.1) then .next (s.sweepNamed x.1)
    else
      let s1 := s.setLin { s.lin with sweeps := s.lin.sweeps.erase x }
      .next ((if x.2 then s1 else s1.depart x.1).setSysev 0x100)

/-- Recall every entry that no recall of the disabling sweep has yet reached (R338). -/
def State.flushAll (s : State) : State :=
  let due := s.lin.ents.filter fun e => !(s.lin.waits.any fun t => t.line == e.line && t.kind == .flush) &&
    !(s.lin.opens.any fun t => t.line == e.line && t.kind == .flush)
  due.foldl (fun s e => s.arrive { line := e.line, kind := .flush }) s

/-- R338: every entry is recalled in one sweep. -/
def execLinDisable (w : Who) (s_ : State) : Ans :=
  delivered (.linDisable w) s_ fun t_ =>
  heard w t_ fun s =>
  if isMgr w && s.lin.en then .next (s.setLin { s.lin with en := false, flushing := true }).flushAll else .next s

/-- R338: the sweep ends when no entry is left. Entries that requests already taken have made since are recalled in turn. -/
def execFlushSweepEnd (s_ : State) : Ans :=
  inUnit 8 0 s_ fun s =>
  if !s.lin.flushing then .next s
  else if s.lin.ents.isEmpty && s.lin.opens.isEmpty && s.lin.waits.isEmpty then
    .next ((s.setLin { s.lin with flushing := false }).setSysev 0x100)
  else .next s.flushAll

/-- R338: every row-cache entry of the window's range is removed first. -/
def execLinEnable (w : Who) (s_ : State) : Ans :=
  delivered (.linEnable w) s_ fun t_ =>
  heard w t_ fun s =>
  if isMgr w && !s.lin.en && !s.lin.flushing && s.lin.size != 0 then
    .next ((s.toTiles (.rowRange s.lin.base (s.lin.size * 2 ^ 30))).setLin { s.lin with en := true })
  else .next s

def LSt.code : LSt → Nat
  | .sh => 1
  | .shb => 2
  | .ex => 3
  | .ow => 4
  | .owb => 5

/-- PRBD: a copy of a line's entry (R345). -/
def State.probe (s : State) (a : Nat) : Nat :=
  let l := s.lineOf a
  let inside := decide (s.lin.base ≤ a) && s.isLine l && decide (s.lin.size ≠ 0)
  let ptr (e : Option LEntry) (i : Nat) := match e with
    | some e => e.ptrs.getD i 0x7F
    | none => 0x7F
  let e := if inside then s.lentry? l else none
  2 ^ 63 + b2n e.isSome * 2 ^ 62 + (match e with | some e => e.st.code | none => 0) * 2 ^ 59 +
    b2n (e.any fun e => (s.pinned (lineSet l)).contains e.way) * 2 ^ 58 +
    ptr e 3 * 2 ^ 49 + ptr e 2 * 2 ^ 42 + ptr e 1 * 2 ^ 35 + ptr e 0 * 2 ^ 28 +
    (match e with | some e => e.way | none => 0) * 2 ^ 24 + (if inside then lineSet l else 0)

def execLinProbe (w : Who) (addr : W64) (s_ : State) : Ans :=
  delivered (.linProbe w addr) s_ fun t_ =>
  heard w t_ fun s =>
  if isMgr w then
    let a := bits addr.toNat 51 6 * 64
    .next (s.setLin { s.lin with prba := BitVec.ofNat 64 a, prbd := BitVec.ofNat 64 (s.probe a) })
  else .next s

end Sys2Proof.Machine
end

