-- ==== Sys2Proof/Machine/Grant.lean ====
section
/-! DEFINITION. The bound ranges and the grant check (R105, R107, R108), and where a function's traffic goes (R350, R352). -/

namespace Sys2Proof.Machine

open Sys2Proof

/-- Range `n` covers an address with the rights an access needs (R105, R107); `spec`: a proof read. -/
def State.rangeGrants (s : State) (n a : Nat) (acc : Acc) (spec : Bool) : Bool :=
  let b := (s.trn.bbase.get 0 n).toNat
  let l := (s.trn.blim.get 0 n).toNat
  bit b 0 && decide (bits b 51 12 * 4096 ≤ a) && decide (a < bits l 51 12 * 4096 + 4096) &&
    (match acc with
     | .read => bit b 1
     | .ringRead => bit b 1
     | .write => bit b 2
     | .atomic => bit b 3 && bit b 2
     | .rmw => bit b 1 && bit b 2) &&
    (!spec || bit b 4)

/-- One address is granted to a partition. -/
def State.grantedAt (s : State) (p a : Nat) (acc : Acc) (spec : Bool) : Bool :=
  decide (a < 2 ^ 52) && (List.range 8).any fun i => s.rangeGrants (8 * p + i) a acc spec

/-- Every granule of a request is granted: a request is judged whole (R108). -/
def State.grantedAll (s : State) (p a len : Nat) (acc : Acc) (spec : Bool) : Bool :=
  (granules a len).all fun g => s.grantedAt p (64 * g) acc spec

/-- A device physical address may be read in proof: its tier, or a coherent window whose domain is awake, and a range with RD and SPEC
(R260). -/
def State.proofReads (s : State) (p a len : Nat) : Bool :=
  (granules a len).all (fun g => region (64 * g) == .tier0 || region (64 * g) == .tier1) &&
    s.grantedAll p a len .read true && ((s.linesOf a len).isEmpty || s.dom 25 == .run)

/-- Committed traffic and earlier proof reads leave a granule of the period's budget for proof (R269, R400). -/
def State.proofRoom (s : State) (p : Nat) : Bool :=
  let b := bits (s.prt.bwNow.get 0 p).toNat 19 0
  b == 0xFFFFF || decide (s.prt.charge.get 0 p + s.prt.pcharge.get 0 p < b)

/-- A granule read in proof takes its part of the period (R269). -/
def State.proofCharge (s : State) (p : Nat) : State :=
  { s with prt := { s.prt with pcharge := s.prt.pcharge.set p (s.prt.pcharge.get 0 p + 1) } }

/-- TotalVFs of a link's physical function (R350, R351). -/
def State.totalVfs (s : State) (l : Nat) : Nat :=
  match s.part, l with
  | .v3s, 0 => if s.host.bifA then 2 else 3
  | .v3x, 0 => if s.host.bifA then 6 else 7
  | .v3x, 2 => if s.host.bifB then 6 else 7
  | _, _ => 0

/-- The host port of a partition's function is fenced: out, with its link taken down (R449). -/
def State.portFenced (s : State) (p : Nat) : Bool :=
  (s.unit 9 (s.linkOf p / 2)).st == .out && !(s.link (s.linkOf p)).stat.up

/-- A host-bound request of the partition may be sent (R352, R449). -/
def State.canSend (s : State) (p : Nat) : Bool :=
  let f := s.fn p
  f.enabled && f.bme && !f.d3 && !s.portFenced p

end Sys2Proof.Machine
end

