-- ==== Sys2Proof/Machine/ConfigSpace.lean ====
section
/-! DEFINITION. What a function presents in configuration space: its Type 0 header (R353), its capability list (R354), its base address
registers (R355, R356), and the error status that it reports through AER. -/

namespace Sys2Proof.Machine

open Sys2Proof

/-! ### The header -/

/-- The fields of a Type 0 header that R353 lists. -/
structure Header where
  vendor    : BitVec 16
  device    : BitVec 16
  rev       : Byte
  classCode : BitVec 24
  htype     : Byte
  ssVendor  : BitVec 16
  subsystem : BitVec 16
  intPin    : Byte
  deriving DecidableEq, Repr

/-- The header of a function: from the image, or of the recovery identity (R421). -/
def State.header (s : State) (p : Nat) : Header :=
  let i := s.aon.ident
  let own : Header :=
    { vendor := i.vendor, device := if s.isPf p then i.device else i.vfDevice, rev := i.rev, classCode := 0x120000, htype := 0,
      ssVendor := i.ssVendor, subsystem := i.subsystem, intPin := 0 }
  if s.aon.boot = .recovery then { own with vendor := s.aon.rvendor, device := s.aon.rdevice, rev := 0, ssVendor := 0, subsystem := 0 }
  else own

/-! ### The base address registers -/

/-- The low bits of a 64-bit memory BAR: BAR2 is prefetchable. -/
def barKind (k : Nat) : Nat := if k = 1 then 0xC else 4

/-- What base address register `n` of a table reads: the address bits below the size read 0 (R355). -/
def barRead (t : Tbl W32) (l : Link) (pf : Bool) (n : Nat) : W32 :=
  let v := barStored t (l.barSize pf (n / 2)) (n / 2) + barKind (n / 2)
  if n % 2 = 0 then BitVec.ofNat 32 v else BitVec.ofNat 32 (v / 2 ^ 32)

/-- Only the bits that announce no size are written (R355). -/
def barWrite (t : Tbl W32) (l : Link) (pf : Bool) (n : Nat) (v : W32) : Tbl W32 :=
  let u := t.set n v
  let x := barStored u (l.barSize pf (n / 2)) (n / 2)
  u.set n (if n % 2 = 0 then BitVec.ofNat 32 x else BitVec.ofNat 32 (x / 2 ^ 32))

/-- Base address bits that fall below a new BAR2 size read 0 from then on (R356). -/
def barCut (t : Tbl W32) (size : Nat) : Tbl W32 :=
  let x := barStored t size 1
  (t.set 2 (BitVec.ofNat 32 x)).set 3 (BitVec.ofNat 32 (x / 2 ^ 32))

/-- Base address register `n` of a function's own header; a VF's read 0. -/
def State.barReg (s : State) (p n : Nat) : W32 :=
  if s.isPf p then (if s.aon.boot = .recovery ∧ 2 ≤ n then 0 else barRead (s.fn p).bars (s.link (s.linkOf p)) true n) else 0

/-- A write of a base address register of a physical function. -/
def State.writeBar (s : State) (p n : Nat) (v : W32) : State :=
  if s.isPf p then s.setFn p { s.fn p with bars := barWrite (s.fn p).bars (s.link (s.linkOf p)) true n v } else s

/-- The links whose physical function has the SR-IOV capability: 0 and 2 (R350, R354). -/
def hasSriov (l : Nat) : Bool := l % 2 == 0

/-- A write of a VF base address register. -/
def State.writeVfBar (s : State) (p n : Nat) (v : W32) : State :=
  let l := s.linkOf p
  if s.isPf p && hasSriov l then s.setLink l { s.link l with vfBars := barWrite (s.link l).vfBars (s.link l) false n v } else s

/-- A new BAR2 size through Resizable BAR or VF Resizable BAR (R356). -/
def State.resizeBar (s : State) (l : Nat) (vf : Bool) (size : Nat) : State :=
  let k := s.link l
  if vf then s.setLink l { k with vfBar := size, vfBars := barCut k.vfBars size }
  else
    let s1 := s.setLink l { k with pfBar := size }
    s1.setFn (s.pfOf l) { s.fn (s.pfOf l) with bars := barCut (s.fn (s.pfOf l)).bars size }

/-! ### The capability list -/

/-- A capability with the values that R354 gives it. -/
inductive Cap where
  | powerManagement (d3hot noSoftReset : Bool)
  | pciExpress (endpoint flr : Bool) (ctoRanges : BitVec 4) (ctoDisable tag14Completer tag14Requester : Bool)
  | msix (entries tableBar tableOff pbaBar pbaOff : Nat)
  | aer (headerLogDw : Nat) (prefixLog : Bool)
  | serial (n : W64)
  | ari
  | secondary | dataLink | phy16 | phy32 | phy64 | margining | flitLogging
  | l1Substates (l11 l12 : Bool)
  | sriov (totalVfs firstOffset stride pageSize : Nat)
  | ats (queueDepth : BitVec 5) (pageAligned global : Bool)
  | pri (capacity : Nat) (prgPasid : Bool)
  | pasid (width : Nat) (exec priv : Bool)
  | tph
  | resizableBar | vfResizableBar
  | doe
  | ide
  | cxlDvsec
  deriving DecidableEq, Repr

/-- The capabilities of a function, in the order in which they are linked (R354). -/
def State.caps (s : State) (p : Nat) : List Cap :=
  let pf := s.isPf p
  let l := s.linkOf p
  let vfs := pf && hasSriov l
  let x := s.part == .v3x
  let on (b : Bool) (cs : List Cap) : List Cap := if b then cs else []
  on pf [.powerManagement true true] ++ [.pciExpress true true 0xF true true true, .msix 128 4 0 4 0x800, .aer 4 true] ++
    on pf [.serial s.aon.ident.serial] ++ [.ari] ++
    on pf [.secondary, .dataLink, .phy16, .phy32, .phy64, .margining, .flitLogging, .l1Substates true true] ++
    on vfs [.sriov (s.totalVfs l) 1 1 4096] ++ on x [.ats 0 true true, .pri 512 true] ++ on pf [.pasid 20 false false] ++ [.tph] ++
    on pf [.resizableBar] ++ on vfs [.vfResizableBar] ++ on pf [.doe, .ide] ++ on (vfs && (s.link l).stat.cxl) [.cxlDvsec]

/-! ### AER -/

/-- An uncorrectable error of a function is reported through AER: its status bit is set, and the First Error Pointer names it when no
other stands (R354). -/
def State.aerReport (s : State) (p bit : Nat) : State :=
  let f := s.fn p
  s.setFn p { f with aer := setBit f.aer bit true, aerFirst := if f.aer = 0 then BitVec.ofNat 5 bit else f.aerFirst }

/-- The bits of PCI Express for Completion Timeout, Unexpected Completion and Uncorrectable Internal Error. -/
def aerTimeout : Nat := 14
def aerUnexpected : Nat := 16
def aerInternal : Nat := 22

end Sys2Proof.Machine
end

