-- ==== Sys2Proof/Machine/HostEndpoint.lean ====
section
/-! DEFINITION. The host endpoint's traffic (chapter 12): BAR2, the fence, completions, BAR sizes and link status. -/

namespace Sys2Proof.Machine

open Sys2Proof

/-- The request decodes to BAR2. -/
def State.inBar (s : State) (p a len : Nat) : Bool := decide (a + len ≤ 2 ^ s.barLog p)

/-- A stream that covers a BAR2 access is in an insecure state (R360). -/
def State.ideBar2 (s : State) (p a len : Nat) : Bool := s.ideInsecure p (s.barBase p 1 + a) len

/-- The lowest-numbered enabled KIND 1 window of the partition that a granule lies in (R288). -/
def State.kind1At (s : State) (p g : Nat) : Option Nat :=
  ((List.range 64).map (64 * p + ·)).find? fun n =>
    let w := (s.win n).live
    w.en && w.kind1 && decide (w.baseAddr ≤ 64 * g) && decide (64 * g + 63 ≤ w.baseAddr + w.endOff)

/-- What becomes of one granule of a BAR2 write (R357). -/
inductive Fate where
  | unassigned
  | closed
  | refusedWin (n : Nat)
  | refused
  | plain
  | counted (tally : Nat)
  deriving DecidableEq, Repr

def State.fateOf (s : State) (p g : Nat) : Fate :=
  if region (64 * g) == .unassigned then .unassigned
  else if s.anyClosed (64 * g) 64 then .closed
  else match s.kind1At p g with
    | some n =>
      let w := (s.win n).live
      if !w.wr then .refusedWin n else if w.ten then .counted w.tally else .plain
    | none => if s.grantedAt p (64 * g) .write false then .plain else .refused

def Fate.ok : Fate → Bool
  | .plain => true
  | .counted _ => true
  | _ => false

/-- The counts a refused granule makes. -/
def State.noteFate (s : State) : Fate → State
  | .unassigned => s.badAccess
  | .refusedWin n => s.dropPacket n
  | .refused => s.isolation
  | _ => s

/-- Tallies of the counted granules with the enabled bytes each counts, lowest tally first met first (R292). -/
def tallySums (a : Nat) (len : Nat) (en : List Bool) : List (Nat × Fate) → List (Nat × Nat) → List (Nat × Nat)
  | [], acc => acc
  | (g, .counted t) :: r, acc => tallySums a len en r (Tbl.set acc t (Tbl.get acc 0 t + enabledIn a len en g))
  | _ :: r, acc => tallySums a len en r acc

/-- The source identifier of the host port a function stands on (R13). -/
def State.portSrc (s : State) (p : Nat) : Nat := if s.linkOf p < 2 then 0x190 else 0x191

/-- Keep a host access to the coherent window until the directory has answered its lines. -/
def State.addExt (s : State) (o : Owner) (p a len : Nat) (acc : Acc) (data : Bytes) (en : List Bool) (op : AtomOp)
    (x y : W64) : State :=
  { s with
    nextId := s.nextId + 1
    reqs := s.reqs ++ [{ id := s.nextId, owner := o, src := BitVec.ofNat 9 (s.portSrc p), part := p, ctx := 0, va := a,
                         len := len, acc := acc, data := data, en := en, st := .issued (.dev a), replay := none,
                         phys := true, op := op, x := x, y := y }] }

/-- A host access cannot be performed at once: it meets the coherent window, a tile without power (R27), or an earlier unperformed request
of the port to the same granule (R33). -/
def State.pools (s : State) (p a len : Nat) : Bool :=
  !(s.linesOf a len).isEmpty || s.anyOff a len ||
    s.reqs.any fun x => x.src.toNat == s.portSrc p && x.devGranules.any fun g => (granules a len).contains g

/-- Granules that pass are performed, those that must wait in the pool; the others are dropped and counted; then the tally additions are
made (R44, R288, R357). DESIGN CHOICE: what need not wait is performed whole as it arrives, in the order of arrival (R50). -/
def State.bar2Write (s : State) (p a : Nat) (data : Bytes) (en : List Bool) : State :=
  let len := data.length
  let gs := (granules a len).filter fun g => decide (0 < enabledIn a len en g)
  let fates := gs.map fun g => (g, s.fateOf p g)
  let s1 := (fates.foldl (fun s f => s.noteFate f.2) s).chargeTo p gs.length
  let okAt (b : Nat) := fates.any fun f => f.1 == b / 64 && f.2.ok
  let pass := (List.range len).map fun i => enabledAt en i && okAt (a + i)
  let adds := tallySums a len en fates []
  let here := (List.range len).map fun i => pass.getD i false && !s.pools p (a + i) 1
  let there := (List.range len).map fun i => pass.getD i false && s.pools p (a + i) 1
  let s2 := s1.performWrite a data here
  if there.any id then
    -- lines of the range whose bytes are all disabled are answered without a transaction (R320)
    s2.addExt (.bar2Wr (s.linkOf p) p adds) p a len .write data there .add 0 0
  else adds.foldl (fun s t => s.tallyAdd t.1 ((s.tally t.1).amount t.2)) s2

/-- Whether a BAR2 read or atomic is completed with Unsupported Request, Completer Abort, or performed (R357); the bus error of a
closed port (R449) is a Completer Abort. -/
def State.bar2Check (s : State) (p a len : Nat) (acc : Acc) : Option Bool × State :=
  let gs := granules a len
  let un := gs.filter fun g => region (64 * g) == .unassigned
  let bad := gs.filter fun g => region (64 * g) != .unassigned && !s.grantedAt p (64 * g) acc false
  let s1 := (s.pulses 0 un.length).pulses 1 bad.length
  if !un.isEmpty then (some true, s1) else if !bad.isEmpty || s.anyClosed a len then (some false, s1) else (none, s1)

/-! ### Requests to the host (R348, R352) -/

/-- The function whose Device Control governs a partition's requests: the physical function of its link. -/
def State.devControl (s : State) (p : Nat) : Fn := s.fn (s.pfOf (s.linkOf p))

/-- Max Payload Size and Max Read Request Size in bytes, as far as Fraiz supports them. -/
def State.maxPayload (s : State) (p : Nat) : Nat := 128 * 2 ^ min 2 (s.devControl p).mps.toNat
def State.maxRead (s : State) (p : Nat) : Nat := 128 * 2 ^ min 5 (s.devControl p).mrrs.toNat

/-- A write to host memory leaves in pieces of at most Max Payload Size; `bulk`: with the ordering attributes that are enabled (R52). A
record has none. -/
def State.hostWrite (s : State) (p a : Nat) (data : Bytes) (en : List Bool) (bulk : Bool) (st : Option (BitVec 16))
    (at_ : HostAt) : State :=
  let f := s.devControl p
  ((cutsOf (s.maxPayload p) a data.length).foldl (fun s c => s.emit (.hostWrite p (a + c.1) (slice data c.1 c.2)
    ((en.drop c.1).take c.2) (bulk && f.ro) (bulk && f.ido) st at_)) s).watchHost a data.length

/-- A read of host memory leaves in pieces of at most Max Read Request Size. -/
def State.hostReads (s : State) (p a len id : Nat) (at_ : HostAt) : State :=
  (cutsOf (s.maxRead p) a len).foldl (fun s c => s.emit (.hostRead p (a + c.1) c.2 true false false id c.1 at_)) s

/-- A flushing read: one DW with both byte enables 0 and no ordering attribute (R52). -/
def State.flushRead (s : State) (p a id : Nat) (at_ : HostAt) : State := s.emit (.hostRead p a 4 false false false id 0 at_)

/-- Byte `i` of a host read has come back, or its piece has failed. -/
def Req.covers (r : Req) (a i : Nat) : Bool :=
  r.pieces.any fun p => match p.2 with
    | .data b => decide (p.1 ≤ i) && decide (i < p.1 + b.length)
    | .error _ => decide (p.1 ≤ i) && (a + p.1) / r.cut == (a + i) / r.cut

/-- Everything that a host request is owed has come back. -/
def Req.whole (r : Req) (a : Nat) : Bool := (List.range r.len).all (r.covers a)

/-- The pieces of a host request that are still outstanding. -/
def Req.tags (r : Req) : Nat :=
  match r.st with
  | .sent (.host a _) => ((cutsOf r.cut a r.len).filter fun c => !(List.range c.2).all fun i => r.covers a (c.1 + i)).length
  | _ => 0

/-- A proof read of host memory whose completion is due. -/
def Proof.atHost (h : Proof) : Bool :=
  h.data.isNone && h.nar.isNone && (match h.out with
    | .host _ _ => true
    | _ => false)

/-- The non-posted requests outstanding at the host of the partitions that `here` takes (R372). -/
def State.tagsOut (s : State) (here : Nat → Bool) : Nat :=
  ((s.reqs ++ s.orphans).map fun r => if here r.part then r.tags else 0).sum +
    (s.gal.cmds.filter fun c => here c.part && c.st == .flushing && c.ftag.isSome).length +
    (s.obs.flush.filter fun f => here (s.eng f.1).part).length +
    (s.trn.walks.filter fun w => here w.part && w.st == .ats).length +
    ((List.range 16).flatMap fun n => (s.lk n).held.filter fun h => here h.part && h.atHost).length

/-- Room for `n` more non-posted requests of a partition: 8,192 on its link, and as many as the enabled tag width numbers (R348). -/
def State.tagRoom (s : State) (p n : Nat) : Bool :=
  let f := s.devControl p
  decide (s.tagsOut (fun q => s.linkOf q == s.linkOf p) + n ≤ 8192) &&
    decide (s.tagsOut (fun q => q == p) + n ≤ if f.tag14 then 8192 else if f.tag10 then 768 else 256)

/-- A completion that matches nothing is reported through AER on the link's physical function (R364). -/
def State.unexpected (s : State) (l tag : Nat) : State := (s.aerReport (s.pfOf l) aerUnexpected).emit (.unexpected l tag)

/-! ### Meanings -/

/-- R357: posted; dropped while the function is absent, being reset, or its stream is insecure. -/
def execBar2Write (p : Fin 16) (addr : BitVec 52) (data : Bytes) (en : List Bool) (s_ : State) : Ans :=
  delivered (.bar2Write p addr data en) s_ fun s =>
  if s.fnServes p.val && s.inBar p.val addr.toNat data.length && !s.ideBar2 p.val addr.toNat data.length then
    .next (s.bar2Write p.val addr.toNat data en)
  else .next s

def execBar2Read (p : Fin 16) (addr : BitVec 52) (len : Nat) (any : Bool) (s_ : State) : Ans :=
  delivered (.bar2Read p addr len any) s_ fun s =>
  let a := addr.toNat
  if s.aon.boot != .ready || !s.inBar p.val a len then .next s
  else if !s.fnServes p.val || s.ideBar2 p.val a len then .next (s.emit (.bar2Ur p.val))
  else if !any then
    .next ((s.addExt (.bar2Zero p.val) p.val a len .read [] [] .add 0 0).finishOne s.nextId)
  else
    match s.bar2Check p.val a len .read with
    | (some true, s1) => .next (s1.emit (.bar2Ur p.val))
    | (some false, s1) => .next (s1.emit (.bar2Ca p.val))
    | (none, s1) =>
      let s2 := s1.chargeTo p.val (granules a len).length
      if s2.pools p.val a len then .next (s2.addExt (.bar2Rd (s.linkOf p.val) p.val) p.val a len .read [] [] .add 0 0)
      else if s2.poisoned a len then .next (s2.emit (.bar2Poison p.val))
      else .next (s2.emit (.bar2Data p.val (s2.readMem a len)))

/-- R348, R357: FetchAdd, Swap and CAS of 32 and 64 bits; another width is an Unsupported Request. -/
def execBar2Atomicop (p : Fin 16) (addr : BitVec 52) (op : AtomOp) (len : Nat) (x y : W64) (s_ : State) : Ans :=
  delivered (.bar2Atomicop p addr op len x y) s_ fun s =>
  let a := addr.toNat
  if s.aon.boot != .ready || !s.inBar p.val a len then .next s
  else if !s.fnServes p.val || s.ideBar2 p.val a len || !(len == 4 || len == 8) then .next (s.emit (.bar2Ur p.val))
  else
    match s.bar2Check p.val a len .atomic with
    | (some true, s1) => .next (s1.emit (.bar2Ur p.val))
    | (some false, s1) => .next (s1.emit (.bar2Ca p.val))
    | (none, s1) =>
      let s2 := s1.chargeTo p.val 1
      if s2.pools p.val a len then .next (s2.addExt (.bar2At (s.linkOf p.val) p.val) p.val a len .atomic [] [] op x y)
      else
        match s2.performAtomic a op len x y with
        | (none, s3) => .next (s3.emit (.bar2Poison p.val))
        | (some b, s3) => .next (s3.emit (.bar2Data p.val b))

/-- A fence read: a host's joins those that wait on its link; a tailor core's completes at once and orders nothing (R51, R366). -/
def State.fenceRead (s : State) (w : Who) : State :=
  match w with
  | .core _ => s.emit (.regRead w (BitVec.ofNat 64 (2 ^ 31 + 4 * 2 ^ 16)))
  | .fn p =>
    let l := s.linkOf p.val
    let k := s.link l
    (s.setLink l { k with fences := k.fences ++ [(w, s.nextId)] }).releaseFences l

/-- R51, R366. -/
def execHostFenceRead (w : Who) (s_ : State) : Ans :=
  delivered (.hostFenceRead w) s_ fun t_ =>
  heardRead w t_ fun s => .next (s.fenceRead w)

/-- R356: the sizes are the powers of two from 256 MiB to 2 TiB; another value is not stored. -/
def execBarSizeWrite (link : Fin 4) (vf : Bool) (size : Fin 64) (s_ : State) : Ans :=
  delivered (.barSizeWrite link vf size) s_ fun s =>
  let pf := s.pfOf link.val
  if s.aon.boot ≠ .ready ∨ (s.fn pf).enabled = false then .next s
  else if (s.fn pf).flr ≠ .none then .next (s.emit (.retryStatus pf))
  else if 28 ≤ size.val ∧ size.val ≤ 41 ∧ (vf = false ∨ hasSriov link.val = true) then .next (s.resizeBar link.val vf size.val)
  else .next s

/-- The host agent of a link's port is active: CXL with 256B flits and HDM-DB enabled (R313, R348). -/
def hostAgentOn (st : LinkStat) : Bool := st.up && st.cxl && st.flit && st.bi

/-- R336: a host agent joins when HDM-DB is enabled, and leaves when its port leaves CXL mode or its link goes down. -/
def State.moveHostAgent (s : State) (l : Nat) (st : LinkStat) : State :=
  if l = 0 ∨ (l = 2 ∧ s.part = .v3x) then
    let a := 72 + l / 2
    if hostAgentOn st && s.lin.size != 0 then
      (if s.lin.active.getLsbD a then s else s.setLin { s.lin with active := setBit s.lin.active a true })
    else s.sweepDead a
  else s

/-- Links the part has (R349, R372). -/
def State.linkThere (s : State) (l : Nat) : Bool :=
  match s.part with
  | .v3s => l == 0 || (l == 1 && s.host.bifA)
  | .v3x => l == 0 || (l == 1 && s.host.bifA) || (s.host.portB && (l == 2 || (l == 3 && s.host.bifB)))

/-- What a link can report (R348, R349): the second link of a port runs PCI Express only, and a port runs CXL as the image sets it. HDM-DB
needs CXL with 256B flits and a window whose SIZE is not 0 (R361). -/
def State.linkCan (s : State) (l : Nat) (st : LinkStat) : LinkStat :=
  let cxl := st.cxl && st.up && ((l == 0 && s.host.cxlA) || (l == 2 && s.host.cxlB))
  { st with cxl := cxl, bi := st.bi && cxl && st.flit && s.lin.size != 0 }

/-- R372, R377: a change of UP, CXL, FLIT, BI, SPEED or WIDTH sets SYSEV.LINK. -/
def State.setLinkStat (s : State) (l : Nat) (new : LinkStat) : State :=
  let st := s.linkCan l new
  let old := (s.link l).stat
  let s1 := (s.setLink l { s.link l with stat := st }).moveHostAgent l st
  if { old with l1 := st.l1 } = st then s1 else s1.setSysev (BitVec.ofNat 32 (2 ^ l))

/-- R364: the tag may be used again. -/
def execTagQuarantineEnd (link : Fin 4) (tag : Nat) (s : State) : Ans :=
  .next { s with host := { s.host with quar := s.host.quar.filter fun l => !(l.link == link.val && l.tag == tag) } }

/-- The background wipe's last write response for a region (R369). -/
def execVeilRegionWiped (r : Nat) (s : State) : Ans := .next (s.unveil r)

/-- R23, R422: the port's links may train once the device has started. -/
def execPerstDeasserted (b : Bool) (s : State) : Ans :=
  if b && s.part == .v3s then .next s
  else
    let l := 2 * b2n b
    let s1 := s.setLink l { s.link l with perst := false }
    .next (s1.setLink (l + 1) { s1.link (l + 1) with perst := false })

end Sys2Proof.Machine
end

