-- ==== Sys2Proof/Machine/Ending.lean ====
section
/-! DEFINITION. What every unit asks of Galley: commands in flight and their end (R83 to R85), a queue's fetch and its halt
(R66, R69, R81), and requests leaving fault entries (R147). -/

namespace Sys2Proof.Machine

open Sys2Proof

/-! ### Commands -/

/-- The command at a position of a queue. -/
def State.cmd? (s : State) (q : Nat) (pos : BitVec 16) : Option Cmd := s.gal.cmds.find? fun c => c.queue == q && c.pos == pos

def State.setCmd (s : State) (c : Cmd) : State :=
  { s with gal := { s.gal with cmds := s.gal.cmds.map fun x => if x.queue == c.queue && x.pos == c.pos then c else x } }

/-- A command leaves its queue. -/
def State.dropCmd (s : State) (q : Nat) (pos : BitVec 16) : State :=
  { s with gal := { s.gal with cmds := s.gal.cmds.filter fun c => !(c.queue == q && c.pos == pos),
                               ends := s.gal.ends.filter fun e => !(e.1 == q && e.2 == pos) } }

/-- Commands of a queue in flight. -/
def State.inFlight (s : State) (q : Nat) : List Cmd := s.gal.cmds.filter fun c => c.queue == q

/-- A command ends: its last write response is here (step 1 of R85, R465). One that its queue's RESET or its partition's
reset aborts writes no record and leaves at once (R82). -/
def State.endCmd (s : State) (q : Nat) (pos : BitVec 16) (status flags residue : Nat) (detail : Bytes) (count : Nat) : State :=
  match s.cmd? q pos with
  | none => s
  | some c =>
    let st := if c.aborted then 1 else status
    let s1 := s.addTrace c.part
      (traceBytes s.now 2 (slugOpcode c.slug) st c.part c.src q (slugTag c.slug) count) false
    if c.aborted then s1.dropCmd q pos
    else
      let s2 := s1.pcntAdd c.part 0 1
      let s3 := if st = 0 then s2 else s2.pcntAdd c.part 1 1
      let s4 := s3.metric 1 (s.now - c.began.toNat) c.part c.src q (slugTag c.slug)
      let s5 := s4.setCmd { c with st := .ended, status := BitVec.ofNat 8 st, flags := BitVec.ofNat 16 flags,
                                   residue := BitVec.ofNat 64 residue, detail := detail, tstamp := s.obs.time }
      { s5 with gal := { s5.gal with ends := s5.gal.ends ++ [(q, pos)] } }

/-- DETAIL of R155: VA, CAUSE, ACCESS, SIDE, WHY and four cursors. -/
def detailBytes (va cause acc side why c0 c1 c2 c3 : Nat) : Bytes :=
  toLE 8 va ++ toLE 1 (cause * 16 + acc * 2 + side) ++ toLE 1 (why * 32) ++ zeros 2 ++ toLE 4 c0 ++ toLE 4 c1 ++ toLE 4 c2 ++
    toLE 4 c3 ++ zeros 2

/-- ACCESS of R144. -/
def Acc.code : Acc → Nat
  | .read => 0
  | .write => 1
  | .atomic => 2
  | .rmw => 3
  | .ringRead => 4

/-! ### Fault entries that lose their requesters (R147) -/

/-- The request is joined to entry `n` of partition `p`. -/
def Req.joined (r : Req) (p n : Nat) : Bool := r.st == .faulted p n || r.replay == some (p, n)

/-- An entry ends: its number is free; the time it lived is an event of metric 0x04 (R478). -/
def State.endEntry (s : State) (p : Nat) (e : FEntry) : State :=
  let f := s.fltp p
  (s.setFltp p { f with entries := f.entries.filter fun x => x.n != e.n,
                        writing := if f.writing = some e.n then none else f.writing }).metric 4
    ((s.now - e.born.toNat) / 2000) p e.src.toNat (e.queue.getD 0) 0

/-- The next generation of an entry (R142). -/
def nextGen (g : Nat) : Nat := if g = 0 ∨ 127 ≤ g then 1 else g + 1

/-- A REPLAYING entry is RAISED again for a request that faulted as before, with a new generation (R147). -/
def FEntry.again (x : FEntry) (r : Req) (gen order : Nat) : FEntry :=
  { x with st := .raised, gen := gen, removed := false, stale := true, order := order, va := r.va, acc := r.acc, src := r.src,
           level := r.note.level, raw := r.note.raw, queue := r.note.queue, tstamp := r.note.time }

/-- After requests have left or have been retranslated: an entry with no requester ends; a REPLAYING entry whose requesters
have all retranslated, some with the same fault, is RAISED again. -/
def State.settleEntry (s : State) (p : Nat) (e : FEntry) : State :=
  match s.reqs.filter fun r => r.joined p e.n with
  | [] => s.endEntry p e
  | r :: rs =>
    if e.st = .replaying ∧ e.removed = true ∧ !(r :: rs).any (fun r => r.replay == some (p, e.n)) then
      let f := s.fltp p
      let g := nextGen e.gen
      s.setFltp p { f with gens := f.gens.set e.n g, order := f.order + 1,
                           entries := f.entries.map fun x => if x.n == e.n then x.again r g f.order else x }
    else s

/-- Settle every entry of a partition. -/
def State.settlePart (s : State) (p : Nat) : State := (s.fltp p).entries.foldl (fun s e => s.settleEntry p e) s

/-- Settle every entry. -/
def State.settle (s : State) : State := (List.range 16).foldl State.settlePart s

/-- Requests leave, aborted or discarded; they are withdrawn from their fault entries. -/
def State.withdrawReqs (s : State) (p : Req → Bool) : State := (s.dropReqs p).settle

/-! ### Fetch -/

/-- 2^(SIZE + 6) positions (R90). -/
def ringSize (v : BitVec 4) : Nat := 2 ^ (min 9 v.toNat + 6)

/-- The owners of a queue's ring reads. -/
def Owner.fetchOf (q : Nat) : Owner → Bool
  | .ring k => k == q
  | .reread k _ => k == q
  | _ => false

/-- A fetch in progress is abandoned: QUIET, its data discarded (R71, R79). -/
def State.dropFetch (s : State) (q : Nat) : State :=
  (s.withdrawReqs fun r => Owner.fetchOf q r.owner).modQueue q fun v => { v with fetch := {} }

/-- Proof results of a queue's targets are discarded (R266). -/
def State.discardQueue (s : State) (q code : Nat) : State :=
  s.discardEach fun s n =>
    if (s.lk n).queue = some q then
      let s1 := s.discard n (fun h => h.target != 0) (fun _ => false) code
      s1.setLk n { s1.lk n with targets := [], asked := false, retry := false, fresh := true }
    else s

/-- The state in which a queue can halt (R81). -/
def QSt.canHalt : QSt → Bool
  | .idle => true
  | .ready => true
  | .resident => true
  | .waiting => true
  | _ => false

/-- R81: an error with an ERR code. A queue that is disabled, halted, draining or resetting has no such row and stays. -/
def State.haltQueue (s : State) (q : Nat) (code : Byte) : State :=
  let s1 := s.dropFetch q
  let v := s1.queue q
  if v.st.canHalt then
    let p := q / 256
    let s2 := s1.setQueue q { v with st := .halted, err := code, wait := 0 }
    let map := setBit (s2.gal.haltmap.get 0 p) (q % 256) true
    let s3 : State := { s2 with gal := { s2.gal with haltmap := s2.gal.haltmap.set p map } }
    (s3.discardQueue q 6).raise (16 + 8 * p)
  else s1

/-- Enter READY: A becomes 0, and the order of entering is noted (R75, R76). -/
def State.makeReady (s : State) (q : Nat) : State :=
  let s1 := s.modQueue q fun v => { v with st := .ready, wait := 0, age := 0, since := s.gal.since, readyAt := s.now }
  { s1 with gal := { s1.gal with since := s1.gal.since + 1 } }

/-- READY when HEAD differs from TAIL, IDLE otherwise. -/
def State.readyOrIdle (s : State) (q : Nat) : State :=
  let v := s.queue q
  if v.head = v.tail then s.setQueue q { v with st := .idle, wait := 0 } else s.makeReady q

/-- A queue goes WAITING with a reason; its slot is released and its fetch is QUIET (R72, R78). The slug that waits is noted, so
that its condition can be evaluated. -/
def State.makeWait (s : State) (q : Nat) (reason : BitVec 4) : State :=
  let b := (s.queue q).fetch.slug
  (s.dropFetch q).modQueue q fun v => { v with st := .waiting, wait := reason, fetch := { slug := b } }

/-! ### Completion records (R83, R85) -/

/-- A record is written when CREC is 1, and always when the status is not 0x00. -/
def Cmd.needsRecord (c : Cmd) : Bool := slugCrec c.slug || c.status != 0

/-- A completion record. -/
def recordBytes (c : Cmd) (cphase : Nat) : Bytes :=
  toLE 4 (slugTag c.slug) ++ toLE 2 c.pos.toNat ++ toLE 2 c.queue ++ [c.status, BitVec.ofNat 8 (slugOpcode c.slug)] ++
    toLE 2 c.flags.toNat ++ zeros 4 ++ toLE 8 c.residue.toNat ++ toLE 8 c.tstamp.toNat ++
    (c.detail ++ zeros (30 - c.detail.length)) ++ toLE 2 cphase

/-- A completion record's write begins, at CTAIL. -/
def State.writeRecord (s : State) (c : Cmd) : State :=
  let v := s.queue c.queue
  let va := (bits v.cbase.toNat 56 12 * 4096 + 64 * (v.ctail.toNat % ringSize v.csize)) % 2 ^ 57
  (s.setCmd { c with st := .recordOut }).addReq (.record c.queue c.pos) 0x108 c.part (64 * (c.queue / 256) + v.ctx.toNat) va 64 .write
    (recordBytes c v.cphase.toNat) []

/-- The oldest ended command of a queue that needs a record. -/
def State.dueRecord (s : State) (q : Nat) : Option Cmd :=
  (s.gal.ends.filterMap fun e => if e.1 = q then s.cmd? q e.2 else none).find? (·.needsRecord)

/-- Records are written in the order in which commands end: the oldest one goes out when it is due. -/
def State.pumpRecords (s : State) (q : Nat) : State :=
  match s.dueRecord q with
  | some c => if c.st = .recordDue then s.writeRecord c else s
  | none => s

/-! ### Reads that come back -/

/-- A read's round trip to tier 0 (R478). -/
def State.noteTrip (s : State) (r : Req) : State :=
  match r.st with
  | .issued (.dev a) => if region a == .tier0 then s.metric 5 (s.now - r.at_) r.part r.src.toNat 0 0 else s
  | _ => s

/-- What the reads of one piece of work bring back together; `none` while one of them is due. -/
def State.answers (s : State) (x : Reply) : List Req → Option Reply
  | [] => some (.data [])
  | r :: rs =>
    match s.readBack r x, s.answers x rs with
    | some (.data b), some (.data c) => some (.data (b ++ c))
    | some (.error e), some _ => some (.error e)
    | some (.data _), some (.error e) => some (.error e)
    | _, _ => none

/-- Reads that have come back leave the pool. -/
def State.takeReads (s : State) (rs : List Req) (x : Reply) : Option (Reply × State) :=
  match s.answers x rs with
  | none => none
  | some y =>
    let ids := rs.map (·.id)
    some (y, (rs.foldl State.noteTrip s).dropReqs fun r => ids.contains r.id)

end Sys2Proof.Machine
end

