-- ==== Sys2Proof/Machine/Transfer.lean ====
section
/-! DEFINITION. The pleat engine's transfer (R177, R178, R185 to R195): bursts, the byte funnel, the stall, the halt, the abort
and the end of its command. Galley hands it commands and Translation its faults and errors. -/

namespace Sys2Proof.Machine

open Sys2Proof

/-! ### Small parts -/

/-- The code of FRZ_PLT_EINFO.ECODE (R202). -/
def ECode.code : ECode → Nat
  | .none => 0
  | .unassigned => 1
  | .grant => 2
  | .hostUr => 3
  | .hostCa => 4
  | .hostTimeout => 5
  | .poison => 6
  | .peer => 7
  | .port k => (Config.freeByte k).toNat % 16

/-- KIND and ADDR of FRZ_PLT_EPA (R202). -/
def outKind : Out → Nat × Nat
  | .dev a => (0, a)
  | .host a _ => (1, a)
  | .peer a => (2, a)

/-- The engine of a pleat request. -/
def Owner.pleat? : Owner → Option Nat
  | .pltRead e _ => some e
  | .pltWrite e _ => some e
  | _ => none

/-- The requests an engine has in the pool. -/
def State.pleatReqs (s : State) (e : Nat) : List Req := s.reqs.filter fun r => Owner.pleat? r.owner == some e

/-- The command an engine holds. -/
def State.engCmd (s : State) (e : Nat) : Option Cmd :=
  (s.cmd? (s.eng e).queue (s.eng e).pos).filter fun c => c.src == 0x110 + e && c.st == .running

/-- The conversion of the engine's command. -/
def State.engConv (s : State) (e : Nat) : Conv :=
  match s.engCmd e with
  | some c => if slugOpcode c.slug = 0x10 then convOf c.slug else {}
  | none => {}

/-- The bytes of the destination stream. -/
def Eng.total (v : Eng) : Nat := v.dst.bytes

def Eng.setCur (v : Eng) (off : Nat) : Eng :=
  let c := v.dst.cursors off
  { v with cur0 := BitVec.ofNat 32 c.1, cur1 := BitVec.ofNat 32 c.2.1, cur2 := BitVec.ofNat 32 c.2.2.1,
           cur3 := BitVec.ofNat 32 c.2.2.2 }

/-- Destination granules of `[off, hi)`, each with its end (R185). -/
def granList (d : Shape) : Nat → Nat → Nat → List (Nat × Nat)
  | 0, _, _ => []
  | fuel + 1, off, hi =>
    if off < hi then (off, min hi (d.pieceEnd off)) :: granList d fuel (d.pieceEnd off) hi else []

/-- Destination granules begun and not yet written: at most 4 bursts of 16. -/
def Eng.begun (v : Eng) : List (Nat × Nat) := granList v.dst 65 v.wnext v.next

/-- Source offsets a destination range needs. -/
def Conv.needsRange (c : Conv) (a b : Nat) : List Nat := (List.range (b - a)).flatMap fun i => c.needs (c.unlay (a + i))

/-- The least source offset that destination bytes from `off` on can need. -/
def Conv.floor (c : Conv) (off : Nat) : Nat :=
  if c.lay = 0 then (if c.wide then off / c.rbd * c.rbs else off)
  else off / (c.group * c.rbd) * c.group * (if c.wide then c.rbs else c.rbd)

/-- A source byte that some destination byte satisfying `ok` needs (R181). -/
def Conv.needed (c : Conv) (ok : Nat → Bool) (o : Nat) : Bool :=
  if !c.wide then ok (c.relay o)
  else
    let row := o / c.rbs * c.rbd
    let b := o % c.rbs
    let eb := elemBytes c.df c.elems
    let used (d : Nat) : Bool := ok (c.relay (row + d))
    if elemBytes c.sf c.elems ≤ b then (List.range eb).any used
    else
      let e := b * 8 / fmtBits c.sf
      let at_ (e : Nat) : Bool := (List.range (max 1 (fmtBits c.df / 8))).any fun i => used (e * fmtBits c.df / 8 + i)
      at_ e || (fmtBits c.sf == 4 && at_ (e + 1))

/-- The run of source bytes at `o` that satisfy `more`, within its piece. -/
def neededRun (more : Nat → Bool) : Nat → Nat → Nat → Nat
  | 0, o, _ => o
  | fuel + 1, o, stop => if o < stop ∧ more o = true then neededRun more fuel (o + 1) stop else o

/-- Source reads from `o` up to the offset `hi`, in source-stream order: offset and end of each. One begins at a byte that is wanted, and
takes on the rest of its source granule what is needed at all, so that a granule is read once (R185). -/
def srcReads (want more : Nat → Bool) (s : Shape) : Nat → Nat → Nat → List (Nat × Nat)
  | 0, _, _ => []
  | fuel + 1, o, hi =>
    if hi ≤ o then []
    else if want o then
      let stop := max (o + 1) (neededRun more 64 o (s.pieceEnd o))
      (o, stop) :: srcReads want more s fuel stop hi
    else srcReads want more s fuel (o + 1) hi

/-- The byte of the source stream that the funnel holds. -/
def bufByte (b : List (Nat × Byte)) (o : Nat) : Option Byte := (b.find? fun x => x.1 == o).map (·.2)

/-- The first begun granule that a request of the engine serves: a write's own, or the first that needs a byte of a read. -/
def State.granuleOf (s : State) (e : Nat) (r : Req) : Nat :=
  let v := s.eng e
  match r.owner with
  | .pltWrite _ off => off
  | .pltRead _ off =>
    let c := s.engConv e
    match v.begun.find? fun g => (c.needsRange g.1 g.2).any fun o => decide (off ≤ o) && decide (o < off + r.len) with
    | some g => g.1
    | none => v.wnext
  | _ => v.wnext

/-- A read that some granule before `g` still needs. -/
def State.neededBefore (s : State) (e g : Nat) (r : Req) : Bool :=
  match r.owner with
  | .pltWrite _ off => decide (off < g)
  | .pltRead _ off =>
    let c := s.engConv e
    (s.eng e).begun.any fun x => decide (x.1 < g) &&
      (c.needsRange x.1 x.2).any fun o => decide (off ≤ o) && decide (o < off + r.len)
  | _ => false

/-- Requests of the engine that are not issued and serve no granule before `g` leave. -/
def State.cutPleat (s : State) (e g : Nat) : State :=
  let ids := ((s.pleatReqs e).filter fun r => r.st.unissued && !s.neededBefore e g r).map (·.id)
  s.withdrawReqs fun r => ids.contains r.id

/-! ### The funnel -/

/-- The context a command's requests use (R97). -/
def State.cmdCtx (s : State) (q : Nat) : Nat := 64 * (q / 256) + (s.queue q).ctx.toNat

/-- The bytes of the granule `[a, b)`, once every source byte it needs is here. -/
def State.granuleData (s : State) (e a b : Nat) : Option Bytes :=
  let v := s.eng e
  if v.opcode = 0x11 then some (slice v.put a (b - a))
  else
    let c := s.engConv e
    if (c.needsRange a b).all fun o => (bufByte v.buf o).isSome then
      some ((List.range (b - a)).map fun i => c.byteAt (fun o => (bufByte v.buf o).getD 0) (c.unlay (a + i)))
    else none

/-- The granules before `stop` are written: source bytes before `floor` are needed no more. -/
def Eng.passed (v : Eng) (stop floor : Nat) : Eng :=
  { v with wnext := stop, buf := v.buf.filter (fun x => decide (floor ≤ x.1)), asked := v.asked.filter (fun x => decide (floor < x.2)) }

/-- Issue the writes of every granule that is ready, in destination order (R178). -/
def State.pleatWrites (e : Nat) : Nat → State → State
  | 0, s => s
  | fuel + 1, s =>
    let v := s.eng e
    let hi := min v.next (v.stop.getD v.next)
    if v.wnext < hi then
      let stop := min v.total (v.dst.pieceEnd v.wnext)
      match s.granuleData e v.wnext stop with
      | none => s
      | some d =>
        let s1 := s.addReq (.pltWrite e v.wnext) (0x110 + e) v.part (s.cmdCtx v.queue) (v.dst.addrAt v.wnext) d.length .write d []
        State.pleatWrites e fuel (s1.modEng e fun v => v.passed stop ((s.engConv e).floor stop))
    else s

/-! ### The end of a command -/

/-- The engine has nothing out. -/
def State.pleatQuiet (s : State) (e : Nat) : Bool := (s.pleatReqs e).isEmpty

/-- The engine returns to IDLE, or stays FENCED. -/
def State.freeEng (s : State) (e : Nat) : State :=
  s.modEng e fun v =>
    { v with st := if v.st = .fenced then .fenced else .idle, abtpend := false, drain := none, put := [], next := 0, wnext := 0,
             start := 0, asked := [], bursts := [], buf := [], stop := none, fin := 0, fdetail := [], err := none, later := none,
             kill := false, fence := false }

/-- The engine's command ends with a status, the stream offset its RESIDUE runs from, and DETAIL. -/
def State.pleatEnd (s : State) (e : Nat) (status off : Nat) (detail : Bytes) : State :=
  let v := s.eng e
  let left := v.total - off
  let s1 := s.setEng e { v.setCur off with residue := BitVec.ofNat 48 left }
  (s1.endCmd v.queue v.pos status 0 (if status = 0 then 0 else left) detail v.count.toNat).freeEng e

/-- The cursors of an offset, in DETAIL's form. -/
def Eng.detail (v : Eng) (va cause acc side why off : Nat) : Bytes :=
  let c := v.dst.cursors off
  detailBytes va cause acc side why c.1 c.2.1 c.2.2.1 c.2.2.2

/-- R193: RELEASE, or ABORT, of a halted engine. -/
def State.pleatRelease (s : State) (e : Nat) : State :=
  let v := s.eng e
  let off := v.err.getD v.wnext
  s.pleatEnd e 5 off (v.detail v.eva.toNat 0 (b2n v.edir) (b2n v.edir) 0 off)

/-- R193: RETRY: RUNNING again at the latched cursors; every byte from there on is again to be delivered. -/
def State.pleatRetry (s : State) (e : Nat) : State :=
  let off := (s.eng e).err.getD (s.eng e).wnext
  s.modEng e fun v =>
    { v.setCur off with st := .running, next := off, wnext := off, start := off, asked := [], bursts := [], buf := [],
                        stop := none, err := none, later := none, residue := BitVec.ofNat 48 (v.total - off) }

/-- R193: the CCTL write that waited: bit 2 RETRY, bits 1 and 0 RELEASE and ABORT. -/
def State.pleatLater (s : State) (e : Nat) : State :=
  match (s.eng e).later with
  | none => s
  | some w => if w = 4 then s.pleatRetry e else s.pleatRelease e

/-- Bursts whose every granule has been written leave (R189). -/
def State.dropBursts (s : State) (e : Nat) : State :=
  let out := s.reqs.filterMap fun r => match r.owner with
    | .pltWrite k off => if k = e then some off else none
    | _ => none
  s.modEng e fun v => { v with bursts := v.bursts.filter fun b => decide (v.wnext < b) || out.any fun o => decide (o < b) }

/-- What follows for an engine after any of its requests moved: its state under R195, or the end of its command. -/
def State.pleatSettle (s0 : State) (e : Nat) : State :=
  let s := s0.dropBursts e
  let v := s.eng e
  if (s.engCmd e).isNone || v.drain.isSome then s
  else
    let unissued := (s.pleatReqs e).any fun r => r.st.unissued
    let stop := min v.total (v.stop.getD v.total)
    if v.kill && s.pleatQuiet e then (s.endCmd v.queue v.pos 1 0 0 [] v.count.toNat).freeEng e
    else match v.st with
    | .running =>
      if v.total ≤ v.wnext ∧ unissued = false then
        if s.pleatQuiet e then s.pleatEnd e 0 v.total [] else s.setEng e { v with st := .draining }
      else s
    | .aborting =>
      if v.next ≤ v.wnext ∧ unissued = false then
        if s.pleatQuiet e then (s.pleatEnd e 1 v.next (v.detail 0 0 0 0 0 v.next)).raise (16 + 8 * v.part + 3)
        else s.setEng e { v with st := .draining, fin := 1 }
      else s
    | .draining =>
      if s.pleatQuiet e then
        match v.fin.toNat with
        | 0 => s.pleatEnd e 0 v.total []
        | 1 => (s.pleatEnd e 1 v.next (v.detail 0 0 0 0 0 v.next)).raise (16 + 8 * v.part + 3)
        | k => if stop ≤ v.wnext then s.pleatEnd e k stop v.fdetail else s
      else s
    | .fenced =>
      if s.pleatQuiet e then
        match v.err with
        | some off => s.pleatEnd e 6 off (v.detail v.eva.toNat 0 (b2n v.edir) (b2n v.edir) 0 off)
        | none => s.pleatEnd e 6 stop (v.detail 0 0 0 0 0 stop)
      else s
    | _ => s

/-! ### Faults and errors -/

/-- R139, R195: a fault stalls the engine; the cursors name the faulting granule. -/
def State.pleatStall (s : State) (e : Nat) (r : Req) : State :=
  let g := s.granuleOf e r
  let v := s.eng e
  match v.st with
  | .running => s.setEng e { v.setCur g with st := .stalled, stop := some g }
  | .aborting => s.setEng e { v.setCur g with st := .stalled, stop := some g, abtpend := true }
  | .stalled =>
    let h := min g (v.stop.getD g)
    s.setEng e { v.setCur h with stop := some h }
  | _ => s

/-- R195: the fault has been replayed. -/
def State.pleatUnstall (s : State) (e : Nat) : State :=
  let v := s.eng e
  if v.st = .stalled ∧ !(s.pleatReqs e).any (fun r => r.st.inFault || r.replay.isSome) then
    ((State.pleatWrites e 65 (s.setEng e { v.setCur v.next with st := if v.abtpend then .aborting else .running,
                                                                stop := none, abtpend := false })).pleatSettle e)
  else s

/-- R155: the fault ended unserviceable. The request that faulted has left the pool. Where several faults end so, the first granule in
stream order stands; a fault before the failing granule of a halted engine ends its command too. -/
def State.pleatUnserviceable (s : State) (e : Nat) (r : Req) (cause acc why : Nat) : State :=
  let g := s.granuleOf e r
  let v := s.eng e
  let counts := v.st == .stalled || (v.st == .halted && v.err.any fun x => decide (g < x)) ||
    (v.st == .draining && v.fin == 4 && v.stop.any fun x => decide (g < x))
  if counts && !v.kill then
    let side := match r.owner with | .pltWrite _ _ => 1 | _ => 0
    let s1 := s.setEng e { v.setCur g with st := .draining, abtpend := false, fin := 4, stop := some g, err := none, later := none,
                                           fdetail := v.detail r.va cause acc side why g }
    ((s1.cutPleat e g).pleatSettle e)
  else s.pleatSettle e

/-- R192: a bus error on a request of the engine, which has left the pool: the latches hold the failing granule that is first in stream
order. While an engine drains after an unserviceable fault, that fault's granule is the first to be delivered again when it comes before
the failing one. -/
def State.pleatError (s : State) (e : Nat) (r : Req) (kind addr ecode : Nat) : State :=
  let v := s.eng e
  let g0 := s.granuleOf e r
  let g := if v.st = .draining ∧ v.fin = 4 then min g0 (v.stop.getD g0) else g0
  let side := match r.owner with | .pltWrite _ _ => true | _ => false
  if v.kill || v.fence then s.pleatSettle e
  else
    let first := match v.err with | none => true | some x => decide (g < x)
    let v1 := { v with emore := v.err.isSome }
    let v2 :=
      if first then
        { v1.setCur g with eva := BitVec.ofNat 57 r.va, ekind := BitVec.ofNat 2 kind, epa := BitVec.ofNat 57 addr,
                           ecode := BitVec.ofNat 4 ecode, edir := side, err := some g, stop := some g }
      else v1
    let s1 := (s.setEng e { v2 with st := .halted, fin := 0, abtpend := false }).cutPleat e g
    if v.st = .halted then s1.pleatSettle e
    else
      let map := setBit (s1.plt.haltmap.get 0 v.part) e true
      let s2 : State := { s1 with plt := { s1.plt with haltmap := s1.plt.haltmap.set v.part map } }
      ((s2.raise (16 + 8 * v.part + 3)).pleatSettle e)

/-- The last request ordered before a fault has been issued, or the engine goes on: called when one of its requests is
issued. -/
def State.pleatIssued (s : State) (e : Nat) : State := (s.pleatUnstall e).pleatSettle e

/-- R82, R195: the engine's command is aborted; issued requests run to their end and no record is written. -/
def State.pleatKill (s : State) (e : Nat) : State :=
  let s1 := s.withdrawReqs fun r => Owner.pleat? r.owner == some e && r.st.unissued
  (s1.modEng e fun v => { v with kill := true, stop := some 0, later := none }).pleatSettle e

/-- R195: the error collector fences the engine. -/
def State.pleatFence (s : State) (e : Nat) : State :=
  let v := s.eng e
  let pend := (s.pleatReqs e).filterMap fun r => match r.owner with
    | .pltWrite _ off => if r.st.unissued then some off else none
    | _ => none
  let g := pend.foldl min v.wnext
  let s1 := s.withdrawReqs fun r => Owner.pleat? r.owner == some e && r.st.unissued
  (s1.modEng e fun v => { v with st := .fenced, fence := true, stop := some g, fin := 6 }).pleatSettle e

end Sys2Proof.Machine
end

