-- ==== Sys2Proof/Machine/Gathering.lean ====
section
/-! DEFINITION. The compositor (chapter 7): streams, admission to windows, placement and rows, accumulation, results and row
updates, and the end of a GATHER or SCATTER. Galley hands it commands and Translation its faults and errors. -/

namespace Sys2Proof.Machine

open Sys2Proof

/-! ### The command -/

/-- The compositor of a request. -/
def Owner.comp? : Owner → Option Nat
  | .cmpRecord n => some n
  | .cmpStream n _ => some n
  | .cmpGrad n _ => some n
  | .cmpPlace n _ => some n
  | .cmpRow n _ => some n
  | .cmpResult n _ => some n
  | .cmpUpdate n _ => some n
  | _ => none

def State.compReqs (s : State) (n : Nat) : List Req := s.reqs.filter fun r => Owner.comp? r.owner == some n

/-- The command a compositor runs. -/
def State.compCmd (s : State) (n : Nat) : Option Cmd :=
  (s.cmd? (s.comp n).queue (s.comp n).pos).filter fun c => c.src == 0x150 + n && c.st == .running

/-- The slug of the command a compositor runs. -/
def State.compSlug (s : State) (n : Nat) : Bytes := ((s.compCmd n).map (·.slug)).getD []

def gScatter (b : Bytes) : Bool := slugOpcode b == 0x21
def gTable (b : Bytes) : Nat := numAt b 12 2
def gOp (b : Bytes) : Nat := bits (numAt b 14 1) 2 0
def gInl (b : Bytes) : Bool := !gScatter b && bit (numAt b 14 1) 3
def gBags (b : Bytes) : Bool := bit (numAt b 14 1) 4
def gMsk (b : Bytes) : Bool := bit (numAt b 14 1) 5
def gWfmt (b : Bytes) : Nat := bits (numAt b 14 1) 7 6
def gOpt (b : Bytes) : Nat := bits (numAt b 14 1) 1 0
def gFac (b : Bytes) : Nat := bits (numAt b 14 1) 3 2
def gOfmt (b : Bytes) : Nat := bits (numAt b 15 1) 3 0
def gGsel (b : Bytes) : Bool := bit (numAt b 15 1) 4
def gGexp (b : Bytes) : Int := signed 16 (numAt b 16 2)
def gBaglen (b : Bytes) : Nat := numAt b 18 2
def gNidx (b : Bytes) : Nat := numAt b 20 4
def gNbag (b : Bytes) : Nat := numAt b 24 4
def gFill (b : Bytes) : Nat := numAt b 28 4
def gDst (b : Bytes) : Nat := addr57 b 32
def gDstride (b : Bytes) : Nat := numAt b 40 4
def gWeighted (b : Bytes) : Bool := if gScatter b then gFac b == 1 else gOp b == 1

/-- The commitment checks of R231 and R248, in the order of the table: a status, or `none`. -/
def gatherCheck (b : Bytes) (valid : Bool) : Option Nat :=
  let nidx := gNidx b
  let nbag := gNbag b
  let al (n : Nat) := divUp n 4 * 4
  let w := if gWfmt b = 0 then 4 else 2
  let need := al (4 * nidx) + (if gWeighted b then al (w * nidx) else 0) + (if gBags b then 4 * (nbag + 1) else 0) +
    (if gMsk b then divUp nidx 8 else 0)
  if 511 < gTable b ∨ valid = false then some 0x03
  else if gInl b = false ∧ slugExt b ≠ 1 then some 0x03
  else if gInl b = true ∧ 64 * slugExt b < need then some 0x03
  else if gWfmt b = 3 ∨ (if gScatter b then gFac b == 3 || gOpt b == 3 else decide (6 ≤ gOp b)) = true then some 0x03
  else if (gBags b = false ∧ nidx ≠ nbag * gBaglen b) ∨ (nbag = 0 ∧ nidx ≠ 0) then some 0x03
  else if gGsel b = true ∧ (gGexp b < -512 ∨ 255 < gGexp b) then some 0x03
  else if (if gScatter b then gOfmt b == 1 || gOfmt b == 2 else decide (1 ≤ gOfmt b) && decide (gOfmt b ≤ 5)) = false then some 0x21
  else none

/-- The grid exponent (R248). -/
def gridOf (b rec : Bytes) : Int :=
  if gGsel b then gGexp b else max (-512) (min 255 (recRange rec - 159))

/-- The bytes of a stream: 0 index, 1 weight, 2 offset, 3 mask (R214). -/
def streamLen (b : Bytes) (k : Nat) : Nat :=
  match k with
  | 0 => 4 * gNidx b
  | 1 => if gWeighted b then (if gWfmt b = 0 then 4 else 2) * gNidx b else 0
  | 2 => if gBags b then 4 * (gNbag b + 1) else 0
  | _ => if gMsk b then divUp (gNidx b) 8 else 0

/-- Where an in-line stream begins in the payload. -/
def inlineOff (b : Bytes) (k : Nat) : Nat := ((List.range k).map fun i => divUp (streamLen b i) 4 * 4).foldl (· + ·) 0

/-- Address of a stream in memory. -/
def streamAddr (b : Bytes) (k : Nat) : Nat := addr57 (slugExtn b 1) (8 * k)

/-- The bytes of a stream that are here. -/
def Comp.stream (v : Comp) (k : Nat) : Bytes :=
  match k with
  | 0 => v.idx
  | 1 => v.wts
  | 2 => v.offs
  | _ => v.mask

def Comp.addStream (v : Comp) (k : Nat) (d : Bytes) : Comp :=
  match k with
  | 0 => { v with idx := v.idx ++ d }
  | 1 => { v with wts := v.wts ++ d }
  | 2 => { v with offs := v.offs ++ d }
  | _ => { v with mask := v.mask ++ d }

/-- The end of a bag, once it is known. -/
def Comp.bagEnd (v : Comp) (b : Bytes) (k : Nat) : Option Nat :=
  if gBags b then (if 4 * (k + 2) ≤ v.offs.length then some (numAt v.offs (4 * (k + 1)) 4) else none)
  else some ((k + 1) * gBaglen b)

/-- The bag of a lookup, once it is known (R214). -/
def Comp.bagOf (v : Comp) (b : Bytes) (k : Nat) : Option Nat :=
  if gBags b then (List.range (v.offs.length / 4 - 1)).find? fun i => decide (k < numAt v.offs (4 * (i + 1)) 4)
  else some (k / gBaglen b)

/-- Accumulators that a bag, or a distinct row, takes (R218). -/
def accEach (b rec : Bytes) : Nat := if gScatter b || gOp b != 5 then recElem rec else 1

/-- The first offset entry among those here that breaks R215. -/
def Comp.badOffset (v : Comp) (b : Bytes) : Option Nat :=
  (List.range (v.offs.length / 4)).find? fun i =>
    let x := numAt v.offs (4 * i) 4
    (i == 0 && x != 0) || decide (gNidx b < x) || (i != 0 && decide (x < numAt v.offs (4 * (i - 1)) 4)) ||
      (i == gNbag b && x != gNidx b)

/-! ### The end of a command -/

/-- A command's pin on its slot is released (R160). -/
def State.unpin (s : State) (t : Nat) (slotB : Bool) : State :=
  let v := s.table t
  s.setTable t (if slotB then { v with b := { v.b with pins := v.b.pins - 1 } } else { v with a := { v.a with pins := v.a.pins - 1 } })

/-- Results whose every write has been issued (R216). -/
def State.compDone (s : State) (n : Nat) : Nat :=
  let v := s.comp n
  let held := s.reqs.filterMap fun r => match r.owner with
    | .cmpResult m bag => if m = n ∧ r.st.unissued = true then some bag else none
    | _ => none
  min (v.rfail.getD v.done) (held.foldl min v.done)

/-- The length of one result (R494). -/
def resultLen (b rec : Bytes) : Nat := elemBytes (gOfmt b) (if gOp b = 5 then 1 else recElem rec)

/-- The compositor returns to IDLE, or stays FENCED (R236). TAG, PROG and WSTAT keep their last values. -/
def State.freeComp (s : State) (n : Nat) : State :=
  let v := s.comp n
  s.setComp n
    { st := if v.st = .fenced then .fenced else .idle, tag := v.tag, done := v.done, adm := v.adm, wins := v.wins,
      dists := v.dists, upds := v.upds, opcode := v.opcode, count := v.count, cpart := v.cpart }

/-- DETAIL of a successful command (R233). -/
def Comp.stats (v : Comp) : Bytes :=
  toLE 4 v.look ++ toLE 4 v.fetch ++ toLE 4 v.swhit ++ toLE 4 v.wins ++ toLE 4 v.ngrp ++ toLE 4 v.upds ++ zeros 6

/-- Some bag of a SCATTER's closed windows had no unmasked lookup (R253). -/
def Comp.emptyBag (v : Comp) (b : Bytes) : Bool :=
  gScatter b && v.record.isSome && (List.range v.nbag).any fun i =>
    v.lens.get 0 i == 0 && (match v.bagEnd b i with | some e => decide (e ≤ v.wstart) | none => false)

/-- The command ends: its pins are released, then Galley takes it (R160, R221, R233, R494). -/
def State.compEnd (s : State) (n : Nat) : State :=
  let v := s.comp n
  let b := s.compSlug n
  let done := s.compDone n
  let status := if v.fence then 6 else match v.fail with | none => 0 | some f => f.status
  let detail :=
    if status = 0 then v.stats
    else
      let f : CFail := v.fail.getD { status := 6, pos := v.adm }
      detailBytes f.va f.cause f.acc 0 f.why f.pos (if gScatter b then v.rows else done) (if gScatter b then v.wstart else 0) 0
  let residue := match v.record with
    | some r => if status = 0 || status = 0x28 || gScatter b then 0 else (gNbag b - done) * resultLen b r
    | none => 0
  let s1 := ((s.setComp n { v with done := done }).unpin v.table v.slotB).discard n (fun h => h.target == 0) (fun _ => false) 0xA
  let flags := v.flags ||| (if v.emptyBag b then 1 else 0)
  (s1.endCmd v.queue v.pos status flags.toNat residue detail v.count.toNat).freeComp n

/-- What follows after any of a compositor's requests moved: DRAINING, or the end. -/
def State.compSettle (s : State) (n : Nat) : State :=
  let v := s.comp n
  if (s.compCmd n).isNone then s
  else
    let quiet := (s.compReqs n).isEmpty
    let b := s.compSlug n
    if v.kill then
      (if quiet then ((s.unpin v.table v.slotB).endCmd v.queue v.pos 1 0 0 [] v.count.toNat).freeComp n else s)
    else if v.fence then (if quiet then s.compEnd n else s)
    else
      let ovr := match v.fail with
        | some f => gScatter b || f.status == 4 || f.status == 0x28 || f.status == 0x2B || v.record.isNone ||
            (decide (v.nidx ≤ v.wstart) && decide (v.nbag ≤ v.done))
        | none => v.record.isSome && decide (v.nidx ≤ v.wstart) && (gScatter b || decide (v.nbag ≤ v.done))
      if ovr && quiet then s.compEnd n
      else if ovr && v.st == .running && !(s.compReqs n).any (fun r => r.st.unissued) then
        s.setComp n { v with st := .draining }
      else s

/-! ### Cutting what will not run -/

/-- Lookups of bag `b` and later are not run: their groups, and the distinct indices no other group needs, leave the open
window (R215, R221). -/
def Comp.cut (v : Comp) (b : Bytes) (bag : Nat) : Comp :=
  let nbag := min v.nbag bag
  let nidx := if nbag = 0 then 0 else min v.nidx ((v.bagEnd b (nbag - 1)).getD 0)
  let groups := v.groups.filter fun g => decide (g.bag < nbag)
  { v with nbag := nbag, nidx := nidx, groups := groups,
           dists := v.dists.filter fun d => groups.any fun g => g.idx == d.idx,
           full := v.full || decide (nidx ≤ v.adm), peek := none }

/-- Requests of a compositor that are not issued and serve no index that is still to run leave. -/
def State.cutComp (s : State) (n : Nat) : State :=
  let v := s.comp n
  let keep (o : Owner) : Bool := match o with
    | .cmpPlace _ i => v.peek == some i || v.dists.any fun d => d.idx == i
    | .cmpRow _ i => v.dists.any fun d => d.idx == i
    | .cmpStream _ k => decide ((v.stream k).length < (match k with
        | 0 => 4 * v.nidx
        | 2 => 4 * (v.nbag + 1)
        | 3 => divUp v.nidx 8
        | _ => 4 * v.nidx))
    | .cmpResult _ bag => decide (bag < v.nbag)
    | _ => true
  s.withdrawReqs fun r => Owner.comp? r.owner == some n && !keep r.owner && r.st.unissued

/-- A request of the command cannot be answered: note how it will end, the failure first in stream order standing. -/
def Comp.noteFail (v : Comp) (f : CFail) : Comp :=
  match v.fail with
  | none => { v with fail := some f }
  | some g => if decide (f.pos < g.pos) && g.status == f.status then { v with fail := some f } else v

/-! ### Streams -/

/-- Granule pieces of `len` bytes at a virtual address: offset and length (R185). -/
def pieces (unit va : Nat) : Nat → Nat → Nat → List (Nat × Nat)
  | 0, _, _ => []
  | fuel + 1, off, len =>
    if len ≤ off then []
    else
      let k := min (len - off) (unit - (va + off) % unit)
      (off, k) :: pieces unit va fuel (off + k) len

/-- New read requests for `len` bytes at a virtual address, none crossing a multiple of `unit`. -/
def State.addCut (s : State) (unit : Nat) (o : Owner) (src part ctx va len : Nat) (acc : Acc) : State :=
  (pieces unit va (len / unit + 2) 0 len).foldl
    (fun s p => s.addReq o src part ctx ((va + p.1) % 2 ^ 57) p.2 acc [] []) s

/-- The same, by 4 KiB pages. -/
def State.addReads (s : State) (o : Owner) (src part ctx va len : Nat) (acc : Acc) : State := s.addCut 4096 o src part ctx va len acc

/-- The reads of a compositor, one for each granule. -/
def State.compRead (s : State) (n : Nat) (o : Owner) (va len : Nat) (acc : Acc) : State :=
  let v := s.comp n
  s.addCut 64 o (0x150 + n) v.part (64 * v.part + (s.queue v.queue).ctx.toNat) (va % 2 ^ 57) len acc

/-- Ask for the next granule of each stream in memory that has no read out (R214). -/
def State.askStreams (s : State) (n : Nat) : State :=
  let b := s.compSlug n
  if gInl b then s
  else [2, 3, 1, 0].foldl (fun s k =>
    let v := s.comp n
    let got := (v.stream k).length
    let len := min (streamLen b k) (match k with
      | 0 => 4 * v.nidx
      | 2 => 4 * (v.nbag + 1)
      | 3 => divUp v.nidx 8
      | _ => streamLen b 1 / max 1 (gNidx b) * v.nidx)
    let out := s.reqs.any fun r => r.owner == .cmpStream n k
    if out || decide (len ≤ got) then s
    else
      let va := streamAddr b k + got
      s.compRead n (.cmpStream n k) va (min (len - got) (64 - va % 64)) .read) s

/-! ### Admission -/

/-- The swatch table's entry for an index of the pinned slot (R222). -/
def State.swatchOf (s : State) (t : Nat) (slotB : Bool) (i : Nat) : Option SwEntry :=
  s.cmp.swatch.find? fun e => e.table == t && e.slotB == slotB && e.idx == i

/-- The weight bits of a lookup, 0 where the command has no weights. -/
def Comp.weight (v : Comp) (b : Bytes) (k : Nat) : Nat :=
  if gWeighted b then (if gWfmt b = 0 then numAt v.wts (4 * k) 4 else numAt v.wts (2 * k) 2) else 0

/-- Everything a lookup needs of the streams is here. -/
def Comp.ready (v : Comp) (b : Bytes) (k : Nat) : Bool :=
  decide (4 * (k + 1) ≤ v.idx.length) && (!gMsk b || decide (k / 8 < v.mask.length)) &&
    (!gWeighted b || decide ((if gWfmt b = 0 then 4 else 2) * (k + 1) ≤ v.wts.length)) && (v.bagOf b k).isSome

/-- How an index is resolved before any placement read (R210). -/
def State.firstPlace (s : State) (v : Comp) (rec : Bytes) (i : Nat) : Place :=
  match (if recSwen rec then s.swatchOf v.table v.slotB i else none) with
  | some e => .swatch e.seg e.va
  | none =>
    if recDirect rec then .at_ 0 i none
    else match v.known.find? fun x => x.1 == i with
      | some x => x.2
      | none => .wait

/-- The distinct indices that count: an ABSENT one is masked (R210). -/
def Comp.distinct (v : Comp) : Nat := (v.dists.filter fun d => d.place != .absent).length

/-- The window would go past a limit with the next lookup (R218). An index that is not yet resolved counts, until it is found ABSENT. -/
def Comp.past (v : Comp) (b rec : Bytes) (newD newG newA : Bool) : Bool :=
  let each := accEach b rec
  let accs := if gScatter b then v.distinct * each else (v.groups.map (·.bag)).eraseDups.length * each
  decide (65536 < v.distinct + b2n newD) || decide (262144 < v.groups.length + b2n newG) || decide (65536 < accs + b2n newA * each)

/-- The window is cut before lookup `i`. Where its own indices, or `i`, are not yet resolved, the cut is not final. -/
def Comp.cutHere (v : Comp) (i : Nat) (now : Place) : Comp :=
  if v.dists.any fun d => d.place == .wait then { v with full := true, short := true }
  else if now = .wait then { v with full := true, short := true, peek := some i }
  else { v with full := true }

/-- Admit lookups in stream order until the window is full or the streams run out (R218, R219). -/
def State.admitGo (n : Nat) (b rec : Bytes) : Nat → State → State
  | 0, s => s
  | fuel + 1, s =>
    let v := s.comp n
    let k := v.adm
    if v.full then s
    else if v.nidx ≤ k then s.setComp n { v with full := true }
    else if !v.ready b k then s
    else
      let i := numAt v.idx (4 * k) 4
      let bag := (v.bagOf b k).getD 0
      let step (w : Comp) : Comp := { w with adm := k + 1, count := if w.pre then w.count else BitVec.ofNat 48 (k + 1) }
      if gMsk b && bit (numAt v.mask (k / 8) 1) (k % 8) then State.admitGo n b rec fuel (s.setComp n (step v))
      else if i = 0xFFFFFFFF then State.admitGo n b rec fuel (s.setComp n (step v))
      else if recRows rec ≤ i then
        State.admitGo n b rec fuel (s.setComp n (step { v with flags := v.flags ||| 0x8 }))
      else
        let wt := v.weight b k
        let known := v.dists.find? fun d => d.idx == i
        let now := (known.map (·.place)).getD (s.firstPlace v rec i)
        let newD := known.isNone
        let newG := !v.groups.any fun g => g.idx == i && g.bag == bag && g.wt == wt
        let newA := if gScatter b then newD else !v.groups.any fun g => g.bag == bag
        if now = .absent then State.admitGo n b rec fuel (s.setComp n (step v))
        else if v.past b rec newD newG newA then s.setComp n (v.cutHere i now)
        else
          let dists := if newD then v.dists ++ [{ idx := i, first := k, place := now }] else v.dists
          let groups :=
            if newG then v.groups ++ [{ idx := i, bag := bag, wt := wt, k := 1 }]
            else v.groups.map fun g => if g.idx == i && g.bag == bag && g.wt == wt then { g with k := g.k + 1 } else g
          let hit := match now with | .swatch _ _ => newD && !v.pre | _ => false
          -- a bag's length is counted once: where FAC needs it, by the count that precedes the windows
          let lens := if v.pre || !(gScatter b && gFac b == 2) then v.lens.set bag (v.lens.get 0 bag + 1) else v.lens
          State.admitGo n b rec fuel
            (s.setComp n (step { v with dists := dists, groups := groups, lens := lens, swhit := v.swhit + b2n hit }))

/-! ### Placement and rows -/

/-- What a placement entry resolves to (R210). -/
def placeOf (rec : Bytes) (e : Nat) : Place :=
  let seg := bits e 63 62
  let slot := bits e 31 0
  if bit e 61 && decide (seg < recNseg rec) && decide (slot < segSlots rec seg) && !bit e 60 && bits e 47 32 == 0 then
    .at_ seg slot (some (bits e 59 48))
  else .absent

/-- A distinct index has been resolved: the lookups of an ABSENT one are masked, and leave their groups and bags (R210). -/
def Comp.resolve (v : Comp) (i : Nat) (p : Place) : Comp :=
  let known := if v.peek = some i then v.known ++ [(i, p)] else v.known
  let v1 := { v with dists := v.dists.map fun d => if d.idx == i then { d with place := p } else d
                     known := known, peek := if v.peek = some i then none else v.peek }
  if p = .absent then
    let lens := (v.groups.filter fun g => g.idx == i).foldl (fun t g => Tbl.set t g.bag (Tbl.get t 0 g.bag - g.k)) v.lens
    { v1 with lens := lens, groups := v.groups.filter fun g => g.idx != i, flags := v.flags ||| 0x10 }
  else v1

/-- Every index of the window is resolved. -/
def Comp.placed (v : Comp) : Bool := v.dists.all fun d => d.place != .wait

/-- Admission goes on where the cut was not final: once the indices are resolved, ABSENT lookups have left the counts (R218). -/
def State.admitAll (n : Nat) (b rec : Bytes) : Nat → State → State
  | 0, s => s
  | fuel + 1, s =>
    let t := State.admitGo n b rec ((s.comp n).nidx + 1 - (s.comp n).adm) s
    let v := t.comp n
    if v.short && v.placed && v.peek.isNone then State.admitAll n b rec fuel (t.setComp n { v with full := false, short := false })
    else t

/-- The segment and address of a placed index. -/
def Dist.home (d : Dist) (rec : Bytes) : Option (Nat × Nat) :=
  match d.place with
  | .at_ s k _ => some (s, (segBase rec s + k * segStride rec s) % 2 ^ 57)
  | .swatch s va => some (s, va)
  | _ => none

/-- The bytes of a row that are read: the row, and for a SCATTER its state (R221). -/
def rowSpan (b rec : Bytes) (seg : Nat) : Nat :=
  let e := recElem rec
  let f := segFmt rec seg
  let st := stateBytes (recState rec) e
  if gScatter b && st != 0 then rowSo f e + st else rowRb f e

def Comp.setDist (v : Comp) (i : Nat) (f : Dist → Dist) : Comp :=
  { v with dists := v.dists.map fun d => if d.idx == i then f d else d }

/-- Make the row read of an index. -/
def State.askRow (s : State) (n : Nat) (b rec : Bytes) (d : Dist) : State :=
  match d.home rec with
  | none => s
  | some (seg, va) =>
    let s1 := s.setComp n ((s.comp n).setDist d.idx fun d => { d with read := true })
    s1.compRead n (.cmpRow n d.idx) va (rowSpan b rec seg) (if gScatter b then .rmw else .read)

/-- Unmasked lookups of a window's resolved indices: LOOK and the LOOKUPS counter. -/
def Comp.winLooks (v : Comp) : Nat :=
  ((v.groups.filter fun g => v.dists.any fun d => d.idx == g.idx && d.place != .absent).map (·.k)).foldl (· + ·) 0

/-- Groups of a window that are accumulated. -/
def Comp.winGroups (v : Comp) : Nat :=
  (v.groups.filter fun g => v.dists.any fun d => d.idx == g.idx && d.place != .absent).length

/-! ### Accumulation -/

/-- The accumulators of a bag or a row. -/
def Comp.accs (v : Comp) (k e : Nat) : List Pica := (v.acc.get [] k) ++ List.replicate (e - (v.acc.get [] k).length) ({} : Pica)

/-- GATHER: a row's values enter the accumulators of each of its groups (R219, R242 to R249). -/
def Comp.poolRow (v : Comp) (b rec : Bytes) (i : Nat) (vals : List Val) : Comp :=
  let g := gridOf b rec
  let op := gOp b
  (v.groups.filter fun x => x.idx == i).foldl (fun v x =>
    if op = 5 then v
    else
      let w := elemValue (wfmtCode (gWfmt b)) x.wt
      let accs := ((v.accs x.bag vals.length).zip vals).map fun a =>
        if op = 3 ∨ op = 4 then a.1.extreme a.2 (op == 3)
        else a.1.addVal (if op = 1 then a.2.contribution w else a.2) x.k g
      { v with acc := v.acc.set x.bag accs }) v

/-- SCATTER: the window's gradients are accumulated by row (R226). -/
def Comp.poolGrads (v : Comp) (b rec : Bytes) : Comp :=
  let g := gridOf b rec
  let e := recElem rec
  let here (i : Nat) := v.dists.any fun d => d.idx == i && d.place != .absent
  (v.groups.filter fun x => here x.idx).foldl (fun v x =>
    let grad := v.grads.get [] x.bag
    let w := elemValue (wfmtCode (gWfmt b)) x.wt
    let vals := (List.range e).map fun j =>
      let gv := elemValue (gOfmt b) (elemAt (gOfmt b) grad j)
      match gFac b with
      | 0 => gv
      | 1 => gv.gradContribution w
      | _ => gv.div (.fin false (v.lens.get 0 x.bag) 1 0)
    let accs := ((v.accs x.idx e).zip vals).map fun a => a.1.addVal a.2 x.k g
    { v with acc := v.acc.set x.idx accs }) v

/-- Bags whose gradients a window needs. -/
def Comp.gradBags (v : Comp) : List Nat :=
  ((v.groups.filter fun g => v.dists.any fun d => d.idx == g.idx && d.place != .absent).map (·.bag)).eraseDups

/-- SCATTER: make the next row read, once the row before it has its progress mark (R154). -/
def State.nextRow (s : State) (n : Nat) (b rec : Bytes) : State :=
  match (s.comp n).dists.find? fun d => d.place != .absent && !d.got with
  | none => s
  | some d => if d.read then s else s.askRow n b rec d

/-- The window is done: every resolved row is accumulated or has its mark. -/
def Comp.winDone (v : Comp) : Bool := v.full && v.placed && v.dists.all fun d => d.place == .absent || d.got

/-- The open window is left behind. -/
def Comp.leaveWindow (v : Comp) : Comp :=
  { v with wstart := v.adm, full := false, short := false, peek := none, groups := [], dists := [], grads := [], rows := 0, broken := false }

/-- One round of what a compositor does without waiting for anything: streams, admission, placement reads, then row
reads in the order of first occurrence (R219). -/
def State.compAdvance (s0 : State) (n : Nat) : State :=
  let b := s0.compSlug n
  let v0 := s0.comp n
  match v0.record with
  | none => s0.compSettle n
  | some rec =>
    let dead := v0.kill || v0.fence || (match v0.fail with
      | some f => gScatter b || f.status == 4 || f.status == 0x28 || f.status == 0x2B
      | none => false)
    if dead then s0.compSettle n
    else
      let s1 := s0.askStreams n
      let s2 := if v0.nidx ≤ v0.wstart then s1 else State.admitAll n b rec (v0.nidx + 2) s1
      let v := s2.comp n
      if !v.full then s2.compSettle n
      else if !v.placed || v.peek.isSome then
        let out (i : Nat) : Bool := s2.reqs.any fun r => r.owner == .cmpPlace n i
        let ask := (v.dists.filter fun d => d.place == .wait && !d.asked).map (·.idx) ++ (optList v.peek).filter fun i => !out i
        let s3 := s2.setComp n { v with dists := v.dists.map fun d => if d.place == .wait then { d with asked := true } else d }
        ask.foldl (fun s i => s.compRead n (.cmpPlace n i) (recPlace rec + 8 * i) 8 .read) s3
      else if v.pre then
        -- the count of R226's L: note the placements, and go on to the next window, or begin the command proper
        let known := v.dists.foldl (fun t d => if t.any (fun x => x.1 == d.idx) then t else t ++ [(d.idx, d.place)]) v.known
        let w := v.leaveWindow
        if v.nidx ≤ v.adm then
          (s2.setComp n { w with known := known, pre := false, adm := 0, wstart := 0 }).askStreams n
        else s2.setComp n { w with known := known }
      else if gScatter b then
        let bags := v.gradBags
        let missing := bags.filter fun k => (v.grads.get [] k).length < elemBytes (gOfmt b) (recElem rec)
        if missing.isEmpty then
          (if v.winDone then s2 else s2.nextRow n b rec).compSettle n
        else
          let asked := s2.reqs.any fun r => match r.owner with | .cmpGrad m _ => m == n | _ => false
          if asked then s2
          else
            let x := slugExtn b 1
            missing.foldl (fun s k =>
              s.compRead n (.cmpGrad n k) (addr57 x 32 + k * numAt x 40 4) (elemBytes (gOfmt b) (recElem rec)) .read) s2
      else
        let rest := v.dists.filter fun d => d.place != .absent && !d.read
        let s3 := rest.foldl (fun s d => s.askRow n b rec d) s2
        let w := s3.comp n
        if w.broken && w.winDone then (s3.setComp n w.leaveWindow).compSettle n else s3.compSettle n

/-- Several rounds: a counted window hands on to the next. -/
def State.compRun (n : Nat) : Nat → State → State
  | 0, s => s
  | fuel + 1, s =>
    let t := s.compAdvance n
    let v := t.comp n
    if (s.comp n).pre && decide (v.wstart ≠ (s.comp n).wstart ∨ v.pre = false) then State.compRun n fuel t else t

/-- Go on with a command (the number of rounds is bounded by its lookups). -/
def State.compGo (s : State) (n : Nat) : State := State.compRun n ((s.comp n).nidx + 2) s

/-! ### Faults and errors -/

/-- The index-stream position a request stands for (R155, R233). -/
def State.compPos (s : State) (n : Nat) (r : Req) : Nat :=
  let v := s.comp n
  let at_ (i : Nat) := ((v.dists.find? fun d => d.idx == i).map (·.first)).getD v.adm
  match r.owner with
  | .cmpPlace _ i => at_ i
  | .cmpRow _ i => at_ i
  | .cmpUpdate _ i => at_ i
  | _ => v.adm

/-- R139. -/
def State.compStall (s : State) (n : Nat) (r : Req) : State :=
  let v := s.comp n
  if v.st = .running then s.setComp n { v with st := .stalled, stallPos := s.compPos n r } else s

/-- Replayed: the command goes on (R153). -/
def State.compUnstall (s : State) (n : Nat) : State :=
  let v := s.comp n
  let stuck := (s.compReqs n).any fun r => (match r.st with | .entryWait _ _ => true | .faulted _ _ => true | _ => false) ||
    r.replay.isSome
  if v.st = .stalled ∧ stuck = false then (s.setComp n { v with st := .running }).compGo n else s

/-- Requests of the compositor that are not issued leave. -/
def State.dropUnissued (s : State) (n : Nat) : State :=
  s.withdrawReqs fun r => Owner.comp? r.owner == some n && (match r.st with
    | .issued _ => false | .sent _ => false | .have _ _ => false | .done _ => false | .failed _ _ => false | .tileOff _ => false
    | _ => true)

/-- R155: the fault ended unserviceable; nothing further is issued. The request has left the pool. -/
def State.compUnserviceable (s : State) (n : Nat) (r : Req) (cause acc why : Nat) : State :=
  let v := s.comp n
  let f : CFail := { status := 4, va := r.va, cause := cause, acc := acc, why := why, pos := r.note.pos }
  let done := match r.owner with
    | .cmpResult _ bag => min bag (s.compDone n)
    | _ => s.compDone n
  let s1 := s.setComp n { v with fail := some f, st := .draining, done := done }
  ((s1.dropUnissued n).setComp n { (s1.dropUnissued n).comp n with done := done }).compSettle n

/-- R215, R221: a bus error on a request of the command, which has left the pool. -/
def State.compError (s : State) (n : Nat) (r : Req) : State :=
  let v := s.comp n
  let b := s.compSlug n
  if v.kill || v.fence || (v.fail.any fun f => f.status == 4) then s.compSettle n
  else
    let f : CFail := { status := 5, va := if r.phys then 0 else r.va % 2 ^ 57,
                       acc := Acc.code r.acc, pos := s.compPos n r }
    let v1 := { v.noteFail f with st := if v.st = .stalled then .running else v.st }
    match r.owner with
    | .cmpResult _ bag =>
      let d := min bag (s.compDone n)
      ((s.setComp n { v1 with rfail := some (min bag (v.rfail.getD bag)), nbag := min v1.nbag v1.done, nidx := v1.wstart,
                              groups := [], dists := [], full := false, done := max d v1.done }).dropUnissued n).compSettle n
    | _ =>
      if gScatter b || v.record.isNone then ((s.setComp n v1).dropUnissued n).compSettle n
      else
        let bag := match r.owner with
          | .cmpPlace _ i => ((v.groups.find? fun g => g.idx == i).map (·.bag)).getD v.nbag
          | .cmpRow _ i => ((v.groups.find? fun g => g.idx == i).map (·.bag)).getD v.nbag
          | .cmpStream _ k =>
            let got := (v.stream k).length
            match k with
            | 2 => got / 4 - 1
            | _ =>
              let j := match k with | 3 => 8 * got | 1 => got / (if gWfmt b = 0 then 4 else 2) | _ => got / 4
              (List.range v.nbag).find? (fun i => match v.bagEnd b i with | some e => decide (j < e) | none => true) |>.getD v.nbag
          | _ => v.nbag
        let w := v1.cut b bag
        let inWin := match r.owner with | .cmpPlace _ _ => true | .cmpRow _ _ => true | _ => false
        (((s.setComp n { w with broken := w.broken || inWin }).cutComp n).compGo n)

/-- R82: the command is aborted. -/
def State.compKill (s : State) (n : Nat) : State :=
  ((s.setComp n { s.comp n with kill := true }).dropUnissued n).compSettle n

/-- R236: the error collector fences the compositor. -/
def State.compFence (s : State) (n : Nat) : State :=
  let s1 := s.setComp n { s.comp n with st := .fenced, fence := (s.compCmd n).isSome }
  ((s1.dropUnissued n).compSettle n)

end Sys2Proof.Machine
end

