-- ==== Sys2Proof/Machine/Requesters.lean ====
section
/-! DEFINITION. What becomes of a request: bus errors (R17, R108), the stall and the fault entry it takes (R139 to R147), the
unserviceable fault (R155, R156), and its issue under the accounting period (R400). -/

namespace Sys2Proof.Machine

open Sys2Proof

/-! ### Contexts -/

/-- The partition runs in bound mode (R96). -/
def State.bound (s : State) (p : Nat) : Bool := bits (s.trn.pmode.get 0 p).toNat 1 0 == 1

/-- VALID, MODE and PASIDEN of a context (R135). -/
def State.ctxValid (s : State) (c : Nat) : Bool := bit (s.trn.ctxcfg.get 0 c).toNat 63
def State.ctxAts (s : State) (c : Nat) : Bool := bits (s.trn.ctxcfg.get 0 c).toNat 61 60 == 1

/-- The PASID a context's host requests carry. -/
def State.ctxPasid (s : State) (c : Nat) : Option (BitVec 20) :=
  let v := (s.trn.ctxcfg.get 0 c).toNat
  if bit v 20 then some (BitVec.ofNat 20 (bits v 19 0)) else none

/-- An address in the host-visible half of an ATS context (R98). -/
def State.atsHalf (s : State) (c va : Nat) : Bool := s.ctxAts c && !bit va 56

/-! ### Bus errors -/

/-- A command that takes no engine ends with a bus error, or its record or ring read halts its queue (R69, R85, R221, R302). -/
def State.recordFails (s : State) (q : Nat) (pos : BitVec 16) : State := ((s.haltQueue q 7).dropCmd q pos).pumpRecords q

/-- No re-read is counted for a read that faults or fails (R69); one that is replayed has been taken off already. -/
def State.uncount (s : State) (q : Nat) (r : Req) : State :=
  if r.replay.isSome then s else s.modQueue q fun v => { v with rereads := v.rereads - 1 }

/-- A tile's request fails: every piece of it leaves, and the tile has one bus error (R17). -/
def State.tileFails (s : State) (r : Req) (t n : Nat) (e : ECode) : State :=
  ((if r.grp = 0 then s else s.withdrawReqs fun x => x.grp == r.grp).emit (.tileRsp t n (.error e)))

/-- A request meets a bus error: it leaves the pool, and its requester reacts. `kind` and `addr` are those of R202. -/
def State.bounce (s0 : State) (r : Req) (kind addr : Nat) (e : ECode) : State :=
  let s := s0.withdrawReqs fun x => x.id == r.id
  match r.owner with
  | .ring q => s.haltQueue q 6
  | .reread q _ => (s.uncount q r).haltQueue q 6
  | .record q pos => s.recordFails q pos
  | .pltRead n _ => s.pleatError n r kind addr (ECode.code e)
  | .pltWrite n _ => s.pleatError n r kind addr (ECode.code e)
  | .swRecord q pos => s.endCmd q pos 5 0 0 [] 0
  | .swList q pos => s.endCmd q pos 5 0 0 [] 0
  | .tadd q pos => s.endCmd q pos 5 0 0 [] 0
  | .tile t n => s.tileFails r t n e
  | .core k => s.emit (.coreRsp k (.error e))
  | _ =>
    match Owner.comp? r.owner with
    | some n => s.compError n r
    | none => s

/-- The bus error of a request that had been translated. -/
def State.bounceAt (s : State) (r : Req) (o : Out) (e : ECode) : State := s.bounce r (outKind o).1 (outKind o).2 e

/-! ### Faults -/

/-- The queue of R144 of a request; `none` for a tile engine. -/
def State.reqQueue (s : State) (r : Req) : Option Nat :=
  match r.owner with
  | .ring q => some q
  | .reread q _ => some q
  | .record q _ => some q
  | .swRecord q _ => some q
  | .swList q _ => some q
  | .tadd q _ => some q
  | .pltRead e _ => some (s.eng e).queue
  | .pltWrite e _ => some (s.eng e).queue
  | _ => (Owner.comp? r.owner).map fun n => (s.comp n).queue

/-- R69: a fault on a ring read; the read that faulted stays, and every other read of the slug is abandoned. -/
def State.ringFault (s : State) (q id : Nat) : State :=
  (s.withdrawReqs fun r => Owner.fetchOf q r.owner && r.id != id).modQueue q fun v =>
    { v with st := .waiting, wait := 5, fetch := {} }

/-- R139: the requester stalls. -/
def State.stallFor (s : State) (r : Req) : State :=
  match r.owner with
  | .ring q => s.ringFault q r.id
  | .reread q _ => (s.ringFault q r.id).uncount q r
  | .pltRead e _ => s.pleatStall e r
  | .pltWrite e _ => s.pleatStall e r
  | _ =>
    match Owner.comp? r.owner with
    | some n => s.compStall n r
    | none => s

/-- R155, R156: the fault of a request ends unserviceable; the request has left the pool. -/
def State.unserviceable (s : State) (r : Req) (cause why : Nat) : State :=
  let acc := Acc.code r.acc
  let alone (q : Nat) (pos : BitVec 16) := s.endCmd q pos 4 0 0 (detailBytes r.va cause acc 0 why 0 0 0 0) 0
  match r.owner with
  | .ring q => s.haltQueue q 5
  | .reread q _ => s.haltQueue q 5
  | .record q pos => s.recordFails q pos
  | .pltRead e _ => s.pleatUnserviceable e r cause acc why
  | .pltWrite e _ => s.pleatUnserviceable e r cause acc why
  | .swRecord q pos => alone q pos
  | .swList q pos => alone q pos
  | .tadd q pos => alone q pos
  | .tile t n => s.tileFails r t n .none
  | _ =>
    match Owner.comp? r.owner with
    | some n => s.compUnserviceable n r cause acc why
    | none => s

/-- Requests, and of those that are pieces of one tile request the first. -/
def oneEach : List Req → List Nat → List Req
  | [], _ => []
  | r :: rs, seen => if r.grp != 0 && seen.contains r.grp then oneEach rs seen else r :: oneEach rs (r.grp :: seen)

/-- Requests leave the pool and each takes its unserviceable fault. -/
def State.giveUp (s : State) (rs : List Req) (cause why : Nat) : State :=
  (oneEach rs []).foldl (fun s r => s.unserviceable r cause why) (rs.foldl (fun s r => s.dropReq r.id) s)

/-- An entry ends unserviceable, and every request joined to it with it (R141, R147). -/
def State.endUnserviceable (s : State) (p : Nat) (e : FEntry) (why : Nat) : State :=
  (s.endEntry p e).giveUp (s.reqs.filter fun r => r.joined p e.n) e.cause why

/-- R146: serviced through PRI. -/
def State.priRoute (s : State) (p c va cause : Nat) : Bool :=
  (cause == 1 || cause == 2) && s.atsHalf c va && (s.fn p).pri && !(s.fltp p).prioff

/-- An open entry that the fault joins (R141). -/
def State.joinable (s : State) (p c va cause : Nat) : Option FEntry :=
  (s.fltp p).entries.find? fun e => e.ctx == c && e.va / 4096 == va / 4096 && e.cause == cause && e.st != .replaying

/-- The lowest-numbered free entry (R142). -/
def State.freeEntry (s : State) (p : Nat) : Option Nat :=
  (List.range 512).find? fun n => !(s.fltp p).entries.any fun e => e.n == n

/-- What the record of a request's fault will hold (R144). -/
def State.noteFault (s : State) (r : Req) (level : Nat) (raw : W64) : Req :=
  { r with note := { level := level, raw := raw, queue := s.reqQueue r, time := s.obs.time,
                     pos := match Owner.comp? r.owner with
                       | some n => s.compPos n r
                       | none => 0 } }

/-- An entry is allocated to a request's fault (R142, R147). -/
def State.takeEntry (s : State) (r : Req) (n cause : Nat) (pri : Bool) : State :=
  let p := r.part
  let f := s.fltp p
  let g := nextGen (f.gens.get 0 n)
  let e : FEntry :=
    { n := n, gen := g, st := .raised, pri := pri, ctx := r.ctx, va := r.va, cause := cause, acc := r.acc, src := r.src,
      level := r.note.level, raw := r.note.raw, queue := r.note.queue, tstamp := r.note.time, born := s.obs.time, order := f.order }
  let s1 := s.setFltp p { f with entries := f.entries ++ [e], gens := f.gens.set n g, order := f.order + 1 }
  (s1.setReq { r with st := .faulted p n, replay := none }).pcntAdd p 4 1

/-- The order in which a waiting fault was raised. -/
def ReqSt.waitOrder? : ReqSt → Option Nat
  | .entryWait o _ => some o
  | _ => none

/-- A fault of the partition waits for an entry already (R142). -/
def State.entryQueue (s : State) (p : Nat) : Bool := s.reqs.any fun r => r.part == p && r.st.waitOrder?.isSome

/-- A fault is raised, or joins an entry (R139, R141, R142, R146). One that finds no free entry, or finds others waiting for one, waits
behind them. -/
def State.raiseFault (s0 : State) (r0 : Req) (cause level : Nat) (raw : W64) : State :=
  let p := r0.part
  let r := s0.noteFault r0 level raw
  let s := s0.stallFor r
  match s.joinable p r.ctx r.va cause with
  | some e => s.setReq { r with st := .faulted p e.n, replay := none }
  | none =>
    let pri := s.priRoute p r.ctx r.va cause
    if !pri && !(s.fltp p).en then s.giveUp [r] cause 5
    else match (if s.entryQueue p then none else s.freeEntry p) with
      | some n => s.takeEntry r n cause pri
      | none =>
        let f := s.fltp p
        (s.setFltp p { f with order := f.order + 1 }).setReq { r with st := .entryWait f.order cause, replay := none }

/-- A RAISED entry takes the route it has now, or ends unserviceable when it has none left (R146, R147). -/
def State.routeEntry (s : State) (p : Nat) (e : FEntry) : State :=
  let pri := s.priRoute p e.ctx e.va e.cause
  if !pri && !(s.fltp p).en then s.endUnserviceable p e 5
  else s.modFltp p fun f =>
    { f with entries := f.entries.map fun x => if x.n == e.n then { x with pri := pri, stale := false } else x }

/-- The entries of a partition that were raised again are routed. -/
def State.routeStale (s : State) (p : Nat) : State :=
  ((s.fltp p).entries.filter (·.stale)).foldl (fun s e =>
    match (s.fltp p).entries.find? fun x => x.n == e.n && x.stale with
    | some x => s.routeEntry p x
    | none => s) s

/-- After requests of entry `n` have retranslated (R147). -/
def State.settleOne (s : State) (p n : Nat) : State :=
  match (s.fltp p).entries.find? fun e => e.n == n with
  | none => s
  | some e => (s.settleEntry p e).routeStale p

/-- A translation ends in a fault (R127); a request that is replaying keeps its entry when page and cause are the same (R147). -/
def State.fault (s : State) (r : Req) (cause level : Nat) (raw : W64) : State :=
  match r.replay with
  | none => s.raiseFault r cause level raw
  | some (p, n) =>
    match (s.fltp p).entries.find? fun e => e.n == n with
    | none => s.raiseFault r cause level raw
    | some e =>
      if e.cause = cause then (s.setReq { s.noteFault r level raw with st := .faulted p n, replay := none }).settleOne p n
      else (s.raiseFault r cause level raw).settleOne p n

/-! ### Issue -/

/-- R400: held when the budget is spent. -/
def Owner.holds : Owner → Bool
  | .ring _ => true
  | .reread _ _ => true
  | .record _ _ => true
  | .pltRead _ _ => true
  | .pltWrite _ _ => true
  | .tile _ _ => true
  | .phys k => k != 0
  | o => (Owner.comp? o).isSome

/-- The partition's charge for the period has reached its budget (R400). -/
def State.spent (s : State) (p : Nat) : Bool :=
  let b := bits (s.prt.bwNow.get 0 p).toNat 19 0
  b != 0xFFFFF && decide (b ≤ s.prt.charge.get 0 p)

/-- The requests of one result, of one SCATTER row's read, or of one tile request go out together (R17, R154, R216). -/
def Req.grouped (r : Req) : Bool :=
  match r.owner with
  | .cmpResult _ _ => true
  | .cmpRow _ _ => r.acc == .rmw
  | .tile _ _ => r.grp != 0
  | _ => false

/-- Two requests of one group. -/
def Req.together (r x : Req) : Bool := r.grouped && x.owner == r.owner && x.grp == r.grp

/-- Every request of the group has been translated. -/
def State.groupReady (s : State) (r : Req) : Bool :=
  !r.grouped || s.reqs.all fun x => !r.together x || (match x.st with | .bwWait _ => true | _ => !x.st.unissued)

/-- A request that meets the scratchpad of a powered-down tile is held in the tile's port (R27). -/
def State.tileIsOff (s : State) (r : Req) (o : Out) : Bool :=
  match o with
  | .dev a => s.anyOff a r.len
  | _ => false

/-- The ST of the MSI-X entry of a source's vector group (R359). -/
def State.steerOf (s : State) (p src : Nat) : Option (BitVec 16) :=
  let v := s.src src
  if (s.fn p).tph && src != 0 && !v.kind then
    some (if (s.fn p).tphVec then ((s.fn p).table.get {} v.target.toNat).st else 0)
  else none

/-- How a host request is addressed. -/
def State.hostAt (s : State) (r : Req) (tr : Bool) : HostAt :=
  { tr := tr, pasid := if r.phys || s.bound r.part then none else s.ctxPasid r.ctx }

/-- A device request of a tile or a tailor core is performed and answered (R29 to R35); one that covers lines of the coherent
window waits for the directory. -/
def State.performNow (s : State) (id a : Nat) : State :=
  match s.req? id with
  | none => s
  | some r =>
    if !(s.linesOf a r.len).isEmpty || s.orderHeld r then s
    else match r.acc with
      | .write =>
        match s.writeBack r .done with
        | some (_, t) => (t.setReq { r with st := .done (.dev a) }).handOn id
        | none => s
      | .atomic =>
        let (old, t) := s.performAtomic a r.op r.len r.x r.y
        (match old with
          | some b => t.setReq { r with st := .have (.dev a) b }
          | none => t.setReq { r with st := .failed (.dev a) .poison }).handOn id
      | _ =>
        match s.readBack r (.data []) with
        | some (.data b) => (s.setReq { r with st := .have (.dev a) b }).handOn id
        | some (.error e) => (s.setReq { r with st := .failed (.dev a) e }).handOn id
        | none => s

/-- The last byte of a command's host-memory writes (R52). -/
def State.noteHost (s : State) (r : Req) (a : Nat) (at_ : HostAt) : State :=
  let note (q : Nat) (pos : BitVec 16) : State :=
    match s.cmd? q pos with
    | some c => s.setCmd { c with hostLast := some (a + r.len - 1, at_) }
    | none => s
  match r.owner with
  | .pltWrite e _ => if (s.eng e).drain.isSome then s else note (s.eng e).queue (s.eng e).pos
  | .cmpResult n _ => note (s.comp n).queue (s.comp n).pos
  | .cmpUpdate n _ => note (s.comp n).queue (s.comp n).pos
  | _ => s

/-- A host request leaves on its function's link (R52, R83, R106, R116, R348). -/
def State.sendHost (s : State) (r : Req) (a : Nat) (tr : Bool) : State :=
  let at_ := s.hostAt r tr
  let o : Out := .host a tr
  match r.acc with
  | .write =>
    let (bulk, st) := match r.owner with
      | .record q _ => (false, s.steerOf r.part (s.queue q).isrc.toNat)
      | _ => (true, none)
    ((s.hostWrite r.part a r.data r.en bulk st at_).noteHost r a at_).setReq { r with st := .done o }
  | .atomic =>
    ((s.emit (.hostAtomic r.part a r.op r.len r.x r.y r.id at_)).watchHost a r.len).setReq { r with st := .sent o, cut := 4096 }
  | _ => (s.hostReads r.part a r.len r.id at_).setReq { r with st := .sent o, at_ := s.now, cut := s.maxRead r.part }

/-- Tags that a host request takes (R348). -/
def State.tagNeed (s : State) (r : Req) (a : Nat) : Nat :=
  match r.acc with
  | .write => 0
  | .atomic => 1
  | _ => (cutsOf (s.maxRead r.part) a r.len).length

/-- A non-posted host request waits for a tag. -/
def State.tagHeld (s : State) (r : Req) (o : Out) : Bool :=
  match o with
  | .host a _ => s.tagNeed r a != 0 && !s.tagRoom r.part (s.tagNeed r a)
  | _ => false

/-- R352, R449: a host request that its function cannot send. -/
def State.hostBarred (s : State) (r : Req) (o : Out) : Bool :=
  match o with
  | .host _ _ => !s.canSend r.part || (r.acc == .atomic && !(s.fn r.part).atomReq)
  | _ => false

/-- A request has retranslated: it leaves its REPLAYING entry (R147). -/
def State.replayed (s : State) (r : Req) : State :=
  match r.replay with
  | none => s
  | some (p, n) =>
    (match s.req? r.id with
      | some x => s.setReq { x with replay := none }
      | none => s).settleOne p n

/-- SCATTER: where a part of a row's read went, for the row's write (R154). -/
def State.noteRow (s : State) (r : Req) (o : Out) : State :=
  match r.owner with
  | .cmpRow n i =>
    if r.acc = .rmw then
      s.modComp n fun v => v.setDist i fun d =>
        let va := match v.record with
          | some rec => ((d.home rec).map (·.2)).getD r.va
          | none => r.va
        { d with outs := d.outs ++ [((r.va + 2 ^ 57 - va) % 2 ^ 57, r.len, o)]
                 rid := if d.rid = 0 then r.id else d.rid
                 used := if r.used = 0 then d.used else d.used ++ [(r.va, r.used)] }
    else s
  | _ => s

/-- What a request's issue starts: the replay of its fault entry ends for it, and its engine goes on (R147, R153). -/
def State.issuedHook (s : State) (r : Req) : State :=
  let s1 := s.replayed r
  match r.owner with
  | .pltRead e _ => s1.pleatIssued e
  | .pltWrite e _ => s1.pleatIssued e
  | _ =>
    match Owner.comp? r.owner with
    | some n => s1.compUnstall n
    | none => s1

/-- A translated request goes out: charged, and sent or performed where it can be at once (R400). -/
def State.issueTo (s : State) (r : Req) (o : Out) : State :=
  let a := (outKind o).2
  let s1 := s.chargeTo r.part (granules a r.len).length
  let s2 := match r.owner with
    | .ring q =>
      let v := s1.queue q
      match v.bellAt with
      | some t => (s1.setQueue q { v with bellAt := none }).metric 9 (s1.now - t) r.part 0x108 q 0
      | none => s1
    | _ => s1
  let s3 := match o with
    | .host h tr => s2.sendHost { r with at_ := s.now } h tr
    | _ => s2.setReq { r with st := .issued o, at_ := s.now }
  let s4 := s3.issuedHook r
  match r.owner, o with
  | .tile _ _, .dev d => s4.performNow r.id d
  | .core _, .dev d => s4.performNow r.id d
  | .tile _ _, .host _ _ => s4.handOn r.id
  | .core _, .host _ _ => s4.handOn r.id
  | _, _ => s4

/-- Issue a translated request unless its group, a tag, its tile's power or its budget holds it (R27, R154, R216, R348, R400). What its
function can no longer send meets a bus error (R352). -/
def State.tryIssue (s : State) (r : Req) (o : Out) : State :=
  if s.hostBarred r o then s.bounceAt r o .hostUr
  else if !s.groupReady r || (Owner.holds r.owner && s.spent r.part) || s.tagHeld r o then
    (s.setReq { r with st := .bwWait o }).replayed r
  else if s.tileIsOff r o then (s.setReq { r with st := .tileOff o }).issuedHook r
  else s.issueTo r o

/-- Issue every request of the partition that waits and may now go, oldest first. -/
def State.release (s : State) (p : Req → Bool) : State :=
  (s.reqs.filter p).foldl (fun s r =>
    match s.req? r.id with
    | some x => match x.st with
      | .bwWait o => s.tryIssue x o
      | _ => s
    | none => s) s

/-- Why a translated request is turned away with a bus error (R17, R107, R108, R352, R449), or meets the register space (R18). -/
inductive Bar where
  | grant | regs | unassigned | closed | host
  deriving DecidableEq, Repr

def State.barFor (s : State) (r : Req) (o : Out) : Option Bar :=
  match o with
  | .dev a =>
    if !s.grantedAll r.part a r.len r.acc false then some .grant
    else if anyRegs a r.len then some .regs
    else if anyUnassigned a r.len then some .unassigned
    else if s.anyClosed a r.len then some .closed
    else none
  | .host _ _ => if s.hostBarred r o then some .host else none
  | .peer _ => none

/-- An access to the register space through a pointer of an engine: its result is undefined (R18). As free values decide, it takes a bus
error with a free cause, or it is done, touches no partition's state, and a read brings free bytes. -/
def State.regsAccess (s : State) (r : Req) (o : Out) : State :=
  let s1 := s.useFree (r.len + 2)
  if (Config.freeByte s.free).getLsbD 0 then s1.bounceAt r o (.port (s.free + 1))
  else
    let st : ReqSt := match r.acc with
      | .write => .done o
      | _ => .have o ((List.range r.len).map fun i => Config.freeByte (s.free + 2 + i))
    (((s1.setReq { r with st := st }).noteRow r o).issuedHook r).handOn r.id

/-- A request has been translated: its checks, then its issue. A ring read that was replayed is not made: its queue reads
from HEAD again (R153). -/
def State.translated (s : State) (r : Req) (o : Out) : State :=
  match r.owner, r.replay, o with
  | .ring q, some _, _ => (s.withdrawReqs fun x => x.id == r.id).makeReady q
  | .reread q _, some _, _ => (s.withdrawReqs fun x => x.id == r.id).makeReady q
  | .tadd q pos, _, .dev _ => (s.withdrawReqs fun x => x.id == r.id).endCmd q pos 3 0 0 [] 0
  | .tadd q pos, _, .host _ _ => (s.withdrawReqs fun x => x.id == r.id).endCmd q pos 3 0 0 [] 0
  | _, _, _ =>
    match s.barFor r o with
    | some .grant => s.isolation.bounceAt r o .grant
    | some .regs => s.regsAccess r o
    | some .unassigned => s.bounceAt r o .unassigned
    | some .closed => (s.useFree 1).bounceAt r o (.port s.free)
    | some .host => s.bounceAt r o .hostUr
    | none =>
      if r.grouped then
        (((s.setReq { r with st := .bwWait o }).noteRow r o).replayed r).release fun x => r.together x
      else s.tryIssue r o

/-- A request made at a device physical or untranslated host address: checked and issued (R493). -/
def State.issuePhys (s : State) (o : Owner) (src part a len : Nat) (acc : Acc) : State :=
  let id := s.nextId
  let s1 := s.addPhys o src part a len acc
  match s1.req? id with
  | some r => s1.translated r (.dev a)
  | none => s1

/-! ### Meanings -/

/-- The last packet of a posted request has left (R283): a TADD ends (R301), and a tile or a tailor core has its response. -/
def State.posted (s : State) (r : Req) (a : Nat) : State :=
  match r.owner with
  | .tadd q pos => (s.dropReq r.id).endCmd q pos 0 0 0 [] 0
  | _ => (s.setReq { r with st := .done (.peer a) }).handOn r.id

/-- The stream in which a unit's requests keep their order (R139, R140, R178): unit kind, number. -/
def Owner.side : Owner → Option (Nat × Nat)
  | .pltRead e _ => some (0, e)
  | .pltWrite e _ => some (1, e)
  | .tile t e => some (2, 4 * t + e)
  | o => (Owner.comp? o).map fun n => (3, n)

/-- An earlier request of the same stream, or of the same source where its unit has none, has a packet to send still (R282). -/
def State.peerBefore (s : State) (r : Req) : Bool :=
  (s.reqs.takeWhile fun x => x.id != r.id).any fun x =>
    Owner.side x.owner == Owner.side r.owner && x.src == r.src && (match x.st with
      | .issued (.peer _) => true
      | _ => false)

/-- R278, R279, R282 to R284. -/
def execPeerPacketSend (id : Nat) (s : State) : Ans :=
  match s.req? id with
  | none => .next s
  | some r =>
    match r.st with
    | .issued (.peer a) =>
      if s.peerBefore r then .next s
      else gated 24 s fun s =>
        let d := bits a 56 47
        let posts := r.pktKind == 0 || r.pktKind == 3
        if d = s.seam.peer.toNat then
          if posts then .next ((s.loopPosted r a).posted r a)
          else .next ((s.setReq { r with st := .sent (.peer a) }).loopRead r a)
        else if s.routePorts d = 0 then .next (s.bounceAt r (.peer a) .peer)
        else
          let s1 := (r.cuts a).foldl (fun s c => s.sendPacket r a c.1 c.2) s
          if posts then .next (s1.posted r a) else .next (s1.setReq { r with st := .sent (.peer a), at_ := s.now })
    | _ => .next s

/-- What a completed read or atomic of the host brings its requester. -/
def Req.hostReply (r : Req) : Reply :=
  match r.pieces.find? fun p => replyFails p.2 with
  | some p => p.2
  | none => .data (assemble r.len (r.pieces.map fun p => (p.1, replyBytes p.2)))

/-- A completion for bytes from `off` on of a host request that waits for it. With the last of them the requester has its data, or a bus
error where one carried an error. -/
def State.hostPiece (s : State) (r : Req) (a : Nat) (ats : Bool) (off : Nat) (x : Reply) : State :=
  let r1 := { r with pieces := r.pieces ++ [(off, x)] }
  if !r1.whole a then s.setReq r1
  else
    let s1 := if r.acc = .atomic then s else s.metric 6 (s.now - r.at_) r.part r.src.toNat 0 0
    match r1.hostReply with
    | .data b => (s1.setReq { r1 with st := .have (.host a ats) b }).handOn r.id
    | .error e => (s1.setReq { r1 with st := .failed (.host a ats) e }).handOn r.id

/-- A completion for a request that its unit has given up is discarded. -/
def State.orphanPiece (s : State) (r : Req) (off : Nat) (x : Reply) : State :=
  match r.st with
  | .sent (.host a _) =>
    let r1 := { r with pieces := r.pieces ++ [(off, x)] }
    { s with orphans := if r1.whole a then s.orphans.filter fun y => y.id != r.id
                        else s.orphans.map fun y => if y.id == r.id then r1 else y }
  | _ => s

/-- The host read of a lookahead with a tag that is out, and the lookahead's number. -/
def State.proofTag (s : State) (tag : Nat) : Option (Nat × Proof) :=
  (List.range 16).findSome? fun n => ((s.lk n).held.find? fun h => h.id == tag && h.atHost).map fun h => (n, h)

/-- A completion that no request of the pool waits for: of a request given up, of one that timed out and is late, of a proof read, or
unexpected (R364). -/
def State.strayCpl (s : State) (l tag off : Nat) (x : Reply) : State :=
  match s.orphans.find? fun r => r.id == tag && s.linkOf r.part == l with
  | some r => s.orphanPiece r off x
  | none =>
    match s.host.quar.find? fun q => q.link == l && q.tag == tag with
    | some q =>
      if q.proof then s
      else
        ({ s with host := { s.host with late := sat48 s.host.late 1 } } : State).metric 0x10 (s.now - q.time) q.part q.src.toNat l 0
    | none =>
      match s.proofTag tag with
      | some (n, h) =>
        if s.linkOf h.part ≠ l then s.unexpected l tag
        else match x with
        | .data b =>
          s.setLk n { s.lk n with held := (s.lk n).held.map fun h => if h.id == tag then { h with nar := some b } else h }
        | .error _ => s.loseProof n tag
      | none => s.unexpected l tag

/-- R364: a completion that matches a request that waits for one delivers; the flushing reads have steps of their own. -/
def execHostCompletion (link : Fin 4) (tag : Nat) (c : HostCpl) (s_ : State) : Ans :=
  inUnit 9 (link.val / 2) s_ fun s =>
  if s.gal.cmds.any (fun c => c.ftag == some tag && c.st == .flushing) || s.obs.flush.any (fun f => f.2 == tag) then .next s
  else match s.req? tag with
  | some r =>
    match r.st with
    | .sent (.host a ats) =>
      if s.linkOf r.part = link.val ∧ c.off < r.len ∧ r.covers a c.off = false then
        .next ((s.hostPiece r a ats c.off c.reply).release fun y => y.part == r.part)
      else .next (s.unexpected link.val tag)
    | _ => .next (s.unexpected link.val tag)
  | none => .next (s.strayCpl link.val tag c.off c.reply)

end Sys2Proof.Machine
end

