-- ==== Sys2Proof/Machine/Lookahead.lean ====
section
/-! DEFINITION. What a lookahead knows of the work it reads ahead, which reads that work wants (R257 to R259, R262), and how a committed
read takes them up (R265). -/

namespace Sys2Proof.Machine

open Sys2Proof

/-! ### Controls (R270 to R272) -/

/-- FRZ_LKA_CTL of a partition. -/
def State.lkaCtl (s : State) (p : Nat) : Nat := (s.lka.ctl.get 0x80003210 p).toNat
def State.lkaOn (s : State) (p : Nat) : Bool := bit s.lka.gctl.toNat 31 && bit (s.lkaCtl p) 31
def State.lkaCmds (s : State) (p : Nat) : Nat := min 2 (bits (s.lkaCtl p) 9 8)
def State.lkaIdx (s : State) (p : Nat) : Nat := min 16 (bits (s.lkaCtl p) 4 0)
def State.lkaPwmax (s : State) : Nat := min 48 (bits s.lka.gctl.toNat 5 0)

/-- Granule entries of the proof buffer in use (R262). -/
def Lka.buffered (v : Lka) : Nat := (v.held.filter fun h => h.kind != .ring && !h.dead).length

/-- The table, 512p + t, of the running command (0) or of a target. -/
def State.targetTable (s : State) (n k : Nat) : Option Nat :=
  let p := s.lkPart n
  if k = 0 then (if (s.compCmd n).isSome then some (s.comp n).table else none)
  else ((s.lk n).targets[k - 1]?).map fun x => 512 * p + gTable x.slug

/-! ### What is known of the work ahead -/

/-- A compositor's view of a command of queue `q` that is about to begin, under the current slot of its table: its in-line streams are
here (R214). -/
def State.newComp (s : State) (q : Nat) (b : Bytes) : Comp :=
  let t := 512 * (q / 256) + gTable b
  let part (i : Nat) : Bytes := if gInl b then slice (slugPayload b) (inlineOff b i) (streamLen b i) else []
  { st := .running, part := q / 256, queue := q, opcode := BitVec.ofNat 8 (slugOpcode b), tag := BitVec.ofNat 32 (slugTag b), table := t,
    slotB := (s.table t).curB, gen := (s.table t).gen, idx := part 0, wts := part 1, offs := part 2, mask := part 3,
    nidx := gNidx b, nbag := gNbag b, pre := gScatter b && gFac b == 2, cpart := q / 256 }

/-- The bytes that proof reads of a kind hold for a target at an address. -/
def State.heldBytes (s : State) (n k : Nat) (kind : ProofKind) (a len : Nat) : Option Bytes :=
  ((pieces 64 a (len / 64 + 2) 0 len).mapM fun p =>
    ((s.lk n).held.find? fun h => !h.dead && h.target == k && h.kind == kind && h.data.isSome && decide (h.addr ≤ a + p.1) &&
      decide (a + p.1 + p.2 ≤ h.addr + h.len)).map fun h => slice (h.data.getD []) (a + p.1 - h.addr) p.2).map List.flatten

/-- A stream in memory goes on with what proof reads hold of it. -/
def State.extendStream (s : State) (n k : Nat) (b : Bytes) (j : Nat) : Nat → Comp → Comp
  | 0, v => v
  | fuel + 1, v =>
    let got := (v.stream j).length
    let a := streamAddr b j + got
    if streamLen b j ≤ got then v
    else match s.heldBytes n k .stream a (min (streamLen b j - got) (64 - a % 64)) with
      | some d => s.extendStream n k b j fuel (v.addStream j d)
      | none => v

/-- Work ahead: the running command, or a target. -/
structure Ahead where
  k    : Nat                              -- 0: the running command
  slug : Bytes
  view : Comp                             -- with what proof holds of its streams and record
  here : List Nat                         -- stream bytes that the command itself has read
  lo   : Nat                              -- its first lookup beyond the committed position
  base : Nat                              -- lookups between the committed position and `lo`
  deriving Repr

/-- Lookups of the work that lie within the reach (R257). -/
def State.inReach (s : State) (p : Nat) (x : Ahead) : List Nat :=
  let hi := min x.view.nidx (x.lo + (256 * s.lkaIdx p - x.base))
  (List.range (hi - x.lo)).map fun i => x.lo + i

/-- The work with what proof holds of it. -/
def State.aheadOn (s : State) (n k base : Nat) (b : Bytes) (v : Comp) : Ahead :=
  let w := if gInl b then v else [2, 3, 1, 0].foldl (fun v j => s.extendStream n k b j (streamLen b j / 64 + 2) v) v
  let t := s.table v.table
  { k := k, slug := b, here := (List.range 4).map fun j => (v.stream j).length, lo := v.adm, base := base,
    view := { w with record := if v.record.isSome then v.record else s.heldBytes n k .record (t.slot v.slotB).addr 128 } }

/-- What lies ahead of a lookahead's committed position, nearest first: the rest of the running command, and the targets (R257). -/
def State.aheads (s : State) (n : Nat) : List Ahead :=
  match (s.lk n).queue with
  | none => []
  | some q =>
    let run := match s.compCmd n with
      | some c => if c.queue = q then [s.aheadOn n 0 0 c.slug (s.comp n)] else []
      | none => []
    let rest := (run.map fun x => x.view.nidx - x.lo).sum
    let ts := (s.lk n).targets
    run ++ (List.range ts.length).filterMap fun i => (ts[i]?).map fun t =>
      s.aheadOn n (i + 1) (rest + ((ts.take i).map fun u => gNidx u.slug).sum) t.slug (s.newComp q t.slug)

/-! ### What it wants (R259) -/

/-- The granule pieces of a stream in memory that hold `len` of its bytes from `off` on, but for what the command has read. -/
def Ahead.streamPieces (x : Ahead) (j off len : Nat) : List (ProofKind × Nat × Nat) :=
  let a := streamAddr x.slug j
  let e := a + streamLen x.slug j
  if gInl x.slug || off + len ≤ (x.here[j]?).getD 0 || len = 0 then []
  else (Sys2Proof.Machine.granules (a + off) len).map fun g => (.stream, max a (64 * g), min e (64 * g + 64) - max a (64 * g))

/-- The index of a lookup, once its index and mask bytes are here and it is neither masked nor padding. -/
def Ahead.index (x : Ahead) (p : Nat) : Option Nat :=
  let v := x.view
  let i := numAt v.idx (4 * p) 4
  if v.idx.length < 4 * (p + 1) || (gMsk x.slug && (decide (v.mask.length ≤ p / 8) || bit (numAt v.mask (p / 8) 1) (p % 8))) ||
      i == 0xFFFFFFFF then none
  else some i

/-- Where an index lies, as far as it is known: the command's own window, the swatch table, a direct table, or a held placement. -/
def State.placeAhead (s : State) (n : Nat) (x : Ahead) (rec : Bytes) (i : Nat) : Place :=
  let first := match x.view.dists.find? fun d => d.idx == i with
    | some d => d.place
    | none => s.firstPlace x.view rec i
  if first != .wait then first
  else match s.heldBytes n x.k .placement (recPlace rec + 8 * i) 8 with
    | some d => placeOf rec (leNat d)
    | none => .wait

/-- The reads that one lookup wants: its pieces of the streams, its placement entry and, for a GATHER, its row. -/
def State.lookupWants (s : State) (n : Nat) (x : Ahead) (p : Nat) : List (ProofKind × Nat × Nat) :=
  let b := x.slug
  let v := x.view
  let streams :=
    (if gBags b && (v.bagOf b p).isNone then x.streamPieces 2 v.offs.length (min 4 (streamLen b 2 - v.offs.length)) else []) ++
    (if gMsk b then x.streamPieces 3 (p / 8) 1 else []) ++
    (if gWeighted b then x.streamPieces 1 ((if gWfmt b = 0 then 4 else 2) * p) (if gWfmt b = 0 then 4 else 2) else []) ++
    x.streamPieces 0 (4 * p) 4
  match v.record, x.index p with
  | some rec, some i =>
    if !recordOk rec || decide (recRows rec ≤ i) then streams
    else
      let grads := match gScatter b, v.bagOf b p with
        | true, some k =>
          let e := slugExtn b 1
          let len := elemBytes (gOfmt b) (recElem rec)
          let a := (addr57 e 32 + k * numAt e 40 4) % 2 ^ 57
          (pieces 64 a (len / 64 + 2) 0 len).map fun c => (ProofKind.stream, a + c.1, c.2)
        | _, _ => []
      let place := s.placeAhead n x rec i
      let own := x.view.known.any (fun y => y.1 == i) || x.view.dists.any fun d => d.idx == i && d.place != .wait
      let entry := if (s.firstPlace v rec i == .wait) && !own then [(ProofKind.placement, recPlace rec + 8 * i, 8)] else []
      let row := match gScatter b || !bit (s.lkaCtl (s.lkPart n)) 13, ({ idx := i, first := p, place := place } : Dist).home rec with
        | false, some (seg, va) =>
          (pieces 64 va (rowSpan b rec seg / 64 + 2) 0 (rowSpan b rec seg)).map fun c => (ProofKind.row, va + c.1, c.2)
        | _, _ => []
      streams ++ grads ++ entry ++ row
  | _, _ => streams

/-- The reads of a target's epoch record, while its table is valid. -/
def State.recordWants (s : State) (x : Ahead) : List (ProofKind × Nat × Nat) :=
  let t := s.table x.view.table
  let a := (t.slot x.view.slotB).addr
  if x.k ≠ 0 ∧ t.valid = true then [(.record, a, 64), (.record, a + 64, 64)] else []

/-- What one piece of work wants, in stream order. -/
def State.workWants (s : State) (n : Nat) (x : Ahead) : List (Nat × ProofKind × Nat × Nat) :=
  (s.recordWants x ++ (s.inReach (s.lkPart n) x).flatMap (s.lookupWants n x)).eraseDups.map fun r => (x.k, r)

/-- Everything that a lookahead wants, nearest first: target, kind, address and length (R257, R259). -/
def State.wants (s : State) (n : Nat) : List (Nat × ProofKind × Nat × Nat) := (s.aheads n).flatMap (s.workWants n)

/-- A lookup beyond the committed position has proof work launched (R275). -/
def State.launched (s : State) (n : Nat) (x : Ahead) (p : Nat) : Bool :=
  (s.lookupWants n x p).any fun r => (s.lk n).held.any fun h => !h.dead && h.target == x.k && h.kind == r.1 && h.addr == r.2.1

/-- AHEAD (R275). -/
def State.aheadOf (s : State) (n : Nat) : Nat :=
  ((s.aheads n).map fun x => ((s.inReach (s.lkPart n) x).filter (s.launched n x)).length).sum

/-! ### Proof results taken up by committed reads (R265) -/

/-- The granule pieces of a committed read that a lookahead may have read ahead. -/
def Req.wanted (r : Req) : List (Nat × Nat) :=
  (Sys2Proof.Machine.pieces 64 r.va (r.len / 64 + 2) 0 r.len).map fun p => (r.va + p.1, p.2)

/-- The kind of proof read that may serve a request of a compositor. -/
def Owner.proofKind? : Owner → Option ProofKind
  | .cmpRecord _ => some .record
  | .cmpStream _ _ => some .stream
  | .cmpGrad _ _ => some .stream
  | .cmpPlace _ _ => some .placement
  | .cmpRow _ _ => some .row
  | _ => none

/-- The held proof reads that cover a committed read of a compositor, with what each piece takes; `none` when some piece has none. What
depends on the record was read under the pinned slot and its GEN. -/
def State.proofFor (s : State) (r : Req) : Option (List (Proof × Nat × Nat)) :=
  match Owner.comp? r.owner, Owner.proofKind? r.owner with
  | some n, some k =>
    let v := s.comp n
    if r.acc != .read then none
    else r.wanted.mapM fun p =>
      ((s.lk n).held.find? fun h => !h.dead && h.target == 0 && h.kind == k && (h.slotB == v.slotB && h.gen == v.gen || k == .stream) &&
        decide (h.addr ≤ p.1) && decide (p.1 + p.2 ≤ h.addr + h.len)).map fun h => (h, p)
  | _, _ => none

/-- A row that a later lookup of the running command wants again within the reach stays in the buffer (R262). -/
def State.usedAgain (s : State) (n : Nat) (h : Proof) : Bool :=
  h.kind == .row && ((s.aheads n).filter fun x => x.k == 0).any fun x =>
    (s.inReach (s.lkPart n) x).any fun p => (s.lookupWants n x p).any fun r => r.1 == .row && r.2.1 == h.addr

/-- Proof reads are used: they leave the buffer after their last use, and are counted then (R262, R274). -/
def State.useProofs (s : State) (n : Nat) (ids : List Nat) : State :=
  let v := s.lk n
  let p := s.lkPart n
  let mine (h : Proof) : Bool := ids.contains h.id
  let stays (h : Proof) : Bool := !mine h || s.usedAgain n h
  let gone := (v.held.filter fun h => !stays h).length
  let held := (v.held.filter stays).map fun h => if mine h then { h with used := true } else h
  let s1 := s.setLk n { v with held := held }
  { s1 with lka := { s1.lka with used := s1.lka.used.set p (sat48 (s1.lka.used.get 0 p) gone) } }

/-- A committed read is answered from proof results: at once when all are here, later when some are in flight; `none` when it is not. -/
def State.fromProof (s : State) (r : Req) : Option State :=
  match s.proofFor r, Owner.comp? r.owner with
  | some (h :: hs), some n =>
    let ps := h :: hs
    if ps.all fun x => x.1.data.isSome then
      let bytes := ps.flatMap fun x => slice (x.1.data.getD []) (x.2.1 - x.1.addr) x.2.2
      some ((s.setReq { r with st := .have h.1.out bytes }).useProofs n ((ps.map fun x => x.1.id).eraseDups))
    else some s
  | _, _ => none

end Sys2Proof.Machine
end

