-- ==== Sys2Proof/Machine/Translation.lean ====
section
/-! DEFINITION. Address translation (chapter 4): edge buffers, folio cache, resident contexts, walks, invalidation, and the
bound-mode path. -/

namespace Sys2Proof.Machine

open Sys2Proof

/-! ### Resident contexts (R126) -/

/-- Resident slots a partition is guaranteed. -/
def State.slotShare (s : State) : Nat := match s.part with | .v3s => 64 | .v3x => 16

/-- The resident slot of a context. On V3-S every context is always resident (R126): DESIGN CHOICE, RES then reads 1 for every one of
them, valid or not, where R135 leaves RES 0 at reset and once a slot is released. -/
def State.slotOf (s : State) (c : Nat) : Option Nat :=
  match s.part with
  | .v3s => some (c % 256)
  | .v3x => (s.trn.slots.find? fun x => x.2.1 == c).map (·.1)

def State.setTrn (s : State) (t : Trn) : State := { s with trn := t }

/-- Note the use of a context's slot. -/
def State.touchSlot (s : State) (c : Nat) : State :=
  s.setTrn { s.trn with stamp := s.trn.stamp + 1
                        slots := s.trn.slots.map fun x => if x.2.1 == c then (x.1, x.2.1, s.trn.stamp) else x }

/-- Requests and walks of a context that keep its slot from being idle. -/
def State.slotBusy (s : State) (c : Nat) : Bool :=
  s.trn.walks.any (fun w => w.ctx == c) ||
    s.reqs.any fun r => !r.phys && r.ctx == c && (match r.st with
      | .held => false
      | .ctxWait => false
      | .entryWait _ _ => false
      | .faulted _ _ => false
      | _ => true)

/-- Slots a partition holds. -/
def State.slotsHeld (s : State) (p : Nat) : Nat := (s.trn.slots.filter fun x => x.2.1 / 64 == p).length

/-- The slot a context obtains: a free one; below its share, the least recently used idle one of a partition above its own; otherwise its
own least recently used idle one (R126). -/
def State.slotFor (s : State) (c : Nat) : Option Nat :=
  let p := c / 64
  match (List.range 256).find? fun n => !s.trn.slots.any fun x => x.1 == n with
  | some n => some n
  | none =>
    let idle := s.trn.slots.filter fun x => !s.slotBusy x.2.1
    let own := idle.filter fun x => x.2.1 / 64 == p
    let above := idle.filter fun x => decide (s.slotShare < s.slotsHeld (x.2.1 / 64))
    match (if s.slotsHeld p < s.slotShare then minBy (·.2.2) above else none) with
    | some x => some x.1
    | none => (minBy (·.2.2) own).map (·.1)

/-- A context takes a slot; every entry of the context that held it is removed (R126). -/
def State.loadSlot (s : State) (n c : Nat) : State :=
  let keep (e : XEntry) : Bool := e.slot != n
  s.setTrn { s.trn with stamp := s.trn.stamp + 1, edge := s.trn.edge.filter keep, folio := s.trn.folio.filter keep,
                        slots := (s.trn.slots.filter fun x => x.1 != n) ++ [(n, c, s.trn.stamp)] }

/-! ### Cached entries (R104, R110, R114, R115) -/

/-- log2 of the bytes an entry covers: a leaf's run, or a pointer's reach (R100). -/
def XEntry.span (e : XEntry) : Nat := if e.level = 0 then e.size + e.run else 12 + 9 * (e.level - 1)

/-- The entry covers an address of its context. -/
def XEntry.covers (e : XEntry) (c va : Nat) : Bool := e.ctx == c && e.va / 2 ^ e.span == va / 2 ^ e.span

/-- The edge buffer of a request (R12, R493). DESIGN CHOICE: the list read of a SWATCH uses the one of its queue's ring reads. -/
def Owner.edge : Owner → Nat
  | .tile t _ => t
  | .pltRead e _ => 64 + e % 16
  | .pltWrite e _ => 64 + e % 16
  | .ring q => 64 + q % 16
  | .reread q _ => 64 + q % 16
  | .record q _ => 64 + q % 16
  | .swRecord q _ => 64 + q % 16
  | .swList q _ => 64 + q % 16
  | .tadd q _ => 64 + q % 16
  | o => 64 + (Owner.comp? o).getD 0

/-- Entries of an edge buffer. -/
def edgeCap (b : Nat) : Nat := if b < 64 then 64 else 128

def State.edgeHit (s : State) (b c va : Nat) : Option XEntry := s.trn.edge.find? fun e => e.buf == b && e.covers c va

def State.folioHit (s : State) (c va : Nat) : Option XEntry := s.trn.folio.find? fun e => e.level == 0 && e.covers c va

/-- Mark the entries that satisfy `p` as the most recently used. -/
def touched (p : XEntry → Bool) (stamp : Nat) (es : List XEntry) : List XEntry :=
  es.map fun e => if p e then { e with stamp := stamp } else e

/-- Fill an edge buffer, replacing its least recently used entry when it is full. -/
def State.fillEdge (s : State) (b : Nat) (e : XEntry) : State :=
  let same (x : XEntry) : Bool := x.buf == b && x.ctx == e.ctx && x.va == e.va && x.size == e.size
  let rest := s.trn.edge.filter fun x => !same x
  let mine := rest.filter fun x => x.buf == b
  let rest' :=
    if mine.length < edgeCap b then rest
    else match minBy (·.stamp) mine with
      | some v => rest.filter fun x => x != v
      | none => rest
  s.setTrn { s.trn with stamp := s.trn.stamp + 1, edge := rest' ++ [{ e with buf := b, stamp := s.trn.stamp }] }

/-- The set of an entry (R114). -/
def folioSet (e : XEntry) : Nat :=
  let u := if e.level = 0 then (if e.size = 12 then 16 else if e.size = 21 then 25 else 34) else 12 + 9 * (e.level - 1)
  Nat.xor (Nat.xor (bits e.va (u + 10) u) (bits (e.va % 2 ^ 57) (u + 21) (u + 11))) (e.slot * 8) % 2048

/-- QA.FOLIO of a partition. -/
def State.quotaFolio (s : State) (p : Nat) : Nat := min 16 (bits (s.prt.qa.get 0 p).toNat 52 48)

/-- Entries of a partition in a list. -/
def ownIn (es : List XEntry) (p : Nat) : List XEntry := es.filter fun e => e.ctx / 64 == p

/-- The entry a fill in a set replaces, `none` when a way is empty (R115). -/
def State.folioVictim (s : State) (set : List XEntry) (p : Nat) : Option XEntry :=
  if s.quotaFolio p ≤ (ownIn set p).length then minBy (·.stamp) (ownIn set p)
  else if set.length < 16 then none
  else match minBy (·.stamp) (set.filter fun e => decide (s.quotaFolio (e.ctx / 64) < (ownIn set (e.ctx / 64)).length)) with
    | some e => some e
    | none => minBy (·.stamp) set

/-- Fill the folio cache. -/
def State.fillFolio (s : State) (e0 : XEntry) : State :=
  let n := folioSet e0
  let e := { e0 with buf := n }
  let p := e.ctx / 64
  if s.quotaFolio p = 0 then s
  else
    let same (x : XEntry) : Bool := x.ctx == e.ctx && x.level == e.level && x.va == e.va && x.size == e.size
    let rest := s.trn.folio.filter fun x => !same x
    let rest' := match s.folioVictim (rest.filter fun x => x.buf == n) p with
      | some v => rest.filter fun x => x != v
      | none => rest
    s.setTrn { s.trn with stamp := s.trn.stamp + 1, folio := rest' ++ [{ e with stamp := s.trn.stamp }] }

/-- Every fill of one walk: its pointers, then its leaf. -/
def State.fillAll (s : State) (es : List XEntry) : State := es.foldl (fun s e => s.fillFolio e) s

/-! ### Resolving a request (R110, R116, R117) -/

/-- The leaf grants the access (R105). -/
def XEntry.grants (e : XEntry) : Acc → Bool
  | .read => e.rd
  | .ringRead => e.rd
  | .write => e.wr
  | .atomic => e.atm && e.wr
  | .rmw => e.rd && e.wr

/-- The output of a leaf for an address: the leaf's own page lies at ADDR, modulo 2^57 (R104). -/
def XEntry.output (e : XEntry) (va : Nat) : Out :=
  if e.unt then .host va false
  else
    let a := (e.out + (va - e.va)) % 2 ^ 57
    if e.typ = 0 then .dev a else if e.typ = 1 then .host a e.ats else .peer a

/-- A request uses a leaf: it faults without the right, and goes on otherwise. -/
def State.useLeaf (s : State) (r : Req) (e : XEntry) : State :=
  if e.grants r.acc then s.translated { r with used := e.span } (e.output r.va)
  else s.fault r 2 e.rlev e.raw

/-- The entry that a cached leaf is for a context as it is resident now. -/
def State.tagged (s : State) (e : XEntry) : XEntry := { e with slot := (s.slotOf e.ctx).getD 0 }

/-- A translation that the lookahead of a compositor holds for an address (R123, R265): an invalidation of the partition has discarded
any older than it. -/
def State.heldXlt (s : State) (o : Owner) (c va : Nat) : Option (Nat × XEntry) :=
  match Owner.comp? o with
  | some n => ((s.lk n).xlt.find? fun x => x.2.1.covers c va).map fun x => (n, x.2.1)
  | none => none

/-- A committed request takes a held translation: it fills the caches as the walk it saves would have (R110), unless it ends in a fault
(R103). -/
def State.takeXlt (s : State) (r : Req) (n : Nat) (e : XEntry) : State :=
  let f := s.tagged e
  let s1 := s.setLk n { s.lk n with xlt := (s.lk n).xlt.filter fun x => x.2.1 != e }
  if e.grants r.acc then ((s1.fillFolio f).fillEdge (Owner.edge r.owner) f).useLeaf r f else s.useLeaf r f

/-- A miss joins the walk of its page, or waits for a walker (R112, R113); the walk becomes a committed one (R261). -/
def State.miss (s : State) (r : Req) : State :=
  match s.trn.walks.find? fun w => w.ctx == r.ctx && w.va / 4096 == r.va / 4096 with
  | some w =>
    (s.setTrn { s.trn with walks := s.trn.walks.map fun x => if x.w == w.w then { x with proof := none } else x }).setReq
      { r with st := .walking w.w }
  | none =>
    (s.setTrn { s.trn with stamp := s.trn.stamp + 1 }).setReq { r with st := .missWait, at_ := s.trn.stamp }

/-- A request is presented for translation (R97, R110, R117, R126, R127). -/
def State.lookup (s : State) (r : Req) : State :=
  if s.bound r.part then s.translated r (.dev r.va)
  else if !s.ctxValid r.ctx then s.fault r 4 0 0
  else if s.atsHalf r.ctx r.va && !(s.fn r.part).ats then s.translated r (.host r.va false)
  else
    match s.slotOf r.ctx with
    | none => s.setReq { r with st := .ctxWait }
    | some _ =>
      let s1 := s.touchSlot r.ctx
      let b := Owner.edge r.owner
      match s1.edgeHit b r.ctx r.va with
      | some e =>
        (s1.setTrn { s1.trn with edge := touched (· == e) s1.trn.stamp s1.trn.edge }).useLeaf r e
      | none =>
        match s1.folioHit r.ctx r.va with
        | some e =>
          let s2 := s1.setTrn { s1.trn with folio := touched (· == e) s1.trn.stamp s1.trn.folio }
          if e.grants r.acc then (s2.fillEdge b e).useLeaf r e else s2.useLeaf r e
        | none =>
          match s1.heldXlt r.owner r.ctx r.va with
          | some x => s1.takeXlt r x.1 x.2
          | none => s1.miss r

/-- A request may be presented now: earlier ones of its side have gone, and its unit is not stalled before it (R139, R140). -/
def State.canPresent (s : State) (r : Req) : Bool :=
  let first := match Owner.side r.owner with
    | none => true
    | some d => !(s.reqs.takeWhile fun x => x.id != r.id).any fun x =>
        Owner.side x.owner == some d && x.st.unissued &&
          !(r.together x && (match x.st with | .bwWait _ => true | _ => false))
  let free := match r.owner with
    | .pltRead e _ => (s.eng e).st != .stalled || r.replay.isSome
    | .pltWrite e off => (s.eng e).st != .stalled || r.replay.isSome || (match (s.eng e).stop with | some g => decide (off < g) | none => true)
    | o => match Owner.comp? o with
      | some n => (s.comp n).st != .stalled || r.replay.isSome
      | none => true
  r.st == .held && first && free

/-- A new request of a tile engine: of several pieces, none crossing a 4 KiB page, that go out together, or in bound mode whole (R17). -/
def State.addTile (s0 : State) (t e c va : Nat) (acc : Acc) (len : Nat) (data : Bytes) (op : AtomOp) (x y : W64) : State :=
  let ps := if s0.bound (c / 64) then [(0, len)] else pieces 4096 va (len / 4096 + 2) 0 len
  let grp := if 1 < ps.length then s0.nextId else 0
  ps.foldl (fun s p =>
    { s with
      nextId := s.nextId + 1
      reqs := s.reqs ++ [{ id := s.nextId, owner := .tile t e, src := BitVec.ofNat 9 (4 * t + e), part := c / 64, ctx := c,
                           va := (va + p.1) % 2 ^ 57, len := p.2, acc := acc,
                           data := if acc = .write then slice data p.1 p.2 else [], en := [], st := .held, replay := none,
                           phys := false, op := op, x := x, y := y, grp := grp }] }) s0

/-- Present the requests numbered from `n` on, oldest first, as far as their order allows. -/
def State.presentFrom (s : State) (n : Nat) : State :=
  (s.reqs.filter fun r => decide (n ≤ r.id)).foldl (fun s r =>
    match s.req? r.id with
    | some x => if s.canPresent x then s.lookup x else s
    | none => s) s

/-- A request of a tile engine: turned away without a binding (R99), otherwise presented. -/
def State.tileRequest (s : State) (t e va : Nat) (acc : Acc) (len : Nat) (data : Bytes) (op : AtomOp) (x y : W64) : State :=
  let v := (s.trn.tbind.get 0 t).toNat
  if !bit v 31 then s.isolation.emit (.tileRsp t e (.error .grant))
  else (s.addTile t e (bits v 9 0) va acc len data op x y).presentFrom s.nextId

/-! ### Page-table entries (R100 to R104) -/

/-- The index of an address at a level. -/
def vaIndex (va level : Nat) : Nat := bits va (12 + 9 * level - 1) (12 + 9 * (level - 1))

/-- Fields that a pointer shows as 0, and those that a leaf does. -/
def pteZero (e : Nat) : Bool :=
  if bit e 1 then bit e 57 || bits e 11 7 != 0 || bit e 5
  else bits e 63 57 != 0 || bits e 56 52 != 0 || bits e 11 2 != 0

/-- A present entry is malformed (R102). -/
def pteBad (e level va : Nat) : Bool :=
  let size := 12 + 9 * (level - 1)
  let run := bits e 61 58
  let addr := bits e 56 12 * 4096
  let typ := bits e 63 62
  pteZero e ||
  (if bit e 1 then
    decide (3 < level) || typ == 3 || decide (4 < run) ||
    (if typ = 0 then
      bits e 56 52 != 0 || addr % 2 ^ size != 0 || addr / 2 ^ size % 2 ^ run != va / 2 ^ size % 2 ^ run
    else
      -- the run's last byte: its base is the leaf's page less the page's place in the run
      let base : Int := addr - ((va / 2 ^ size % 2 ^ run : Nat) * 2 ^ size : Nat)
      decide ((2 : Int) ^ 57 - 1 < base + (2 : Int) ^ (size + run) - 1) || decide ((2 : Int) ^ 57 - 1 < (addr : Int) + 2 ^ size - 1))
  else level == 1)

/-- A pointer entry as the folio cache holds it. -/
def pteNext (e level slot c va : Nat) : XEntry :=
  let span := 12 + 9 * (level - 1)
  { buf := 0, slot := slot, ctx := c, level := level, va := va / 2 ^ span * 2 ^ span, out := bits e 51 12 * 4096 }

/-- A leaf entry as the caches hold it. The output of the run's first byte is taken modulo 2^57. -/
def pteLeaf (e level slot c va : Nat) : XEntry :=
  let size := 12 + 9 * (level - 1)
  let run := bits e 61 58
  let page := va / 2 ^ size % 2 ^ run
  { buf := 0, slot := slot, ctx := c, level := 0, size := size, run := run,
    va := va / 2 ^ (size + run) * 2 ^ (size + run), out := (bits e 56 12 * 4096 + 2 ^ 57 - page * 2 ^ size) % 2 ^ 57,
    typ := BitVec.ofNat 2 (bits e 63 62), rd := bit e 2, wr := bit e 3, atm := bit e 4, spec := bit e 6,
    raw := BitVec.ofNat 64 e, rlev := level }

/-! ### Walks (R111 to R113, R121 to R123) -/

/-- QA.WALK of a partition. -/
def State.quotaWalk (s : State) (p : Nat) : Nat := min 48 (bits (s.prt.qa.get 0 p).toNat 29 24)

/-- Committed walks of a partition, and all of its walks. -/
def State.walksOf (s : State) (p : Nat) : Nat := (s.trn.walks.filter fun w => w.part == p && w.proof.isNone).length
def State.allWalksOf (s : State) (p : Nat) : Nat := (s.trn.walks.filter fun w => w.part == p).length

def State.walk? (s : State) (w : Nat) : Option Walk := s.trn.walks.find? fun x => x.w == w
def State.putWalk (s : State) (w : Walk) : State :=
  s.setTrn { s.trn with walks := s.trn.walks.map fun x => if x.w == w.w then w else x }

/-- A walk leaves its walker; a table read of its own that is out is dropped. -/
def State.dropWalk (s : State) (w : Nat) : State :=
  (s.dropReqs fun r => r.owner == .walk w).setTrn { (s.dropReqs fun r => r.owner == .walk w).trn with
    walks := s.trn.walks.filter fun x => x.w != w }

/-- The address of the entry a walk reads. -/
def Walk.entryAt (w : Walk) : Nat := w.table + 8 * vaIndex w.va w.level

/-- A walk from the root, or, in the host-visible half, a Translation Request. -/
def State.rootWalk (s : State) (w : Walk) : Walk :=
  { w with level := 5, table := bits (s.trn.ctxroot.get 0 w.ctx).toNat 51 12 * 4096, num := s.trn.invLast, ptrs := [],
           st := if s.atsHalf w.ctx w.va then .ats else .reading }

/-- A new walk: from the deepest pointer that the folio cache holds, or from the root (R111). -/
def State.newWalk (s : State) (w part c va : Nat) (proof : Option Nat) : Walk :=
  let fresh : Walk := { w := w, part := part, ctx := c, va := va, level := 5, table := 0, num := s.trn.invLast, proof := proof,
                        order := s.trn.stamp, at_ := s.now }
  let root := s.rootWalk fresh
  match minBy (·.level) (s.trn.folio.filter fun e => e.level != 0 && e.covers c va) with
  | some e => if root.st = .ats then root else { root with level := e.level - 1, table := e.out }
  | none => root

/-- A walk takes a free walker. -/
def State.startWalk (s : State) (w : Walk) : State :=
  let touch (e : XEntry) : Bool := w.proof.isNone && e.level == w.level + 1 && e.covers w.ctx w.va
  let trn := { s.trn with stamp := s.trn.stamp + 1, walks := s.trn.walks ++ [w],
                          folio := touched touch s.trn.stamp s.trn.folio }
  s.setTrn trn

/-- An invalidation naming the walk's partition has been numbered since its start (R121; numbers compare modulo 2^32). -/
def State.walkStale (s : State) (w : Walk) : Bool :=
  let d := (s.trn.lastInv.get 0 w.part - w.num).toNat
  s.trn.anyInv.get false w.part && decide (0 < d) && decide (d < 2 ^ 31)

/-- Requests that wait on a walk. -/
def State.waiters (s : State) (w : Nat) : List Req := s.reqs.filter fun r => r.st == .walking w

/-- The event of metric 0x03. -/
def State.walkMetric (s : State) (w : Walk) : State :=
  if w.proof.isSome then s else s.metric 3 (s.now - w.at_) w.part (0x160 + w.w) 0 0

/-- A walk ends in a fault: every request that waits on it faults (R112, R127); a proof walk reports nothing (R123). -/
def State.walkFault (s : State) (w : Walk) (cause level : Nat) (raw : W64) : State :=
  (s.waiters w.w).foldl (fun s r =>
    match s.req? r.id with
    | some x => s.fault x cause level raw
    | none => s) ((s.dropWalk w.w).walkMetric w)

/-- A table read met a bus error: every request that waits receives it (R128). -/
def State.walkEnd (s : State) (w : Walk) (e : ECode) : State :=
  (s.waiters w.w).foldl (fun s r =>
    match s.req? r.id with
    | some x => s.bounce x 0 w.entryAt e
    | none => s) (if e = .grant ∧ w.proof.isNone then (s.dropWalk w.w).isolation else s.dropWalk w.w)

/-- A walk ends with nothing cached, and every request that waits on it goes on as `k` says. -/
def State.walkGives (s : State) (w : Walk) (k : State → Req → State) : State :=
  (s.waiters w.w).foldl (fun s r =>
    match s.req? r.id with
    | some x => k s x
    | none => s) (s.dropWalk w.w)

/-- Why a walker's table read is not made (R107, R128), `none` when it is. The check is made once, as the read is issued (R109). In proof
the read needs the conditions of R260, and the budget that committed traffic leaves (R269). -/
def State.walkBar (s : State) (w : Walk) : Option ECode :=
  let a := w.entryAt
  if w.proof.isSome then (if s.proofReads w.part a 8 && s.proofRoom w.part then none else some .grant)
  else if !s.grantedAt w.part a .read false then some .grant
  else if anyUnassigned a 8 || s.anyClosed a 8 then some .unassigned
  else none

/-- Send what a walk that has just started waits for: an ATS Translation Request, or a table read; one in the coherent window is a
non-allocating snooping read (R111, R116). With ATS off the requests go on untranslated (R117); a Translation Request that its function
may not send (R352) is an ATS failure; one without a tag waits for a walker again (R348). -/
def State.walkSend (s : State) (w : Walk) : State :=
  match w.st with
  | .ats =>
    if !(s.fn w.part).ats then s.walkGives w fun s r => s.translated r (.host r.va false)
    else if !s.canSend w.part then s.walkFault w 5 0 0
    else if !s.tagRoom w.part 0 then s.walkGives w fun s r => s.setReq { r with st := .missWait, at_ := s.trn.stamp }
    else
      let id := s.nextId
      ((({ s with nextId := id + 1 } : State).putWalk { w with tag := id }).emit
        (.atsRequest w.part w.va (s.ctxPasid w.ctx) w.w id))
  | _ =>
    match s.walkBar w with
    | some e => s.walkEnd w e
    | none =>
      let s1 := if w.proof.isSome then s.proofCharge w.part else s.chargeTo w.part 1
      if s.inWindow w.entryAt then s1.addPhys (.walk w.w) (0x160 + w.w) w.part w.entryAt 8 .read else s1

/-- A discarded walk starts again from the root (R121); a context no longer valid faults instead. -/
def State.restartWalk (s : State) (w : Walk) : State :=
  if !s.ctxValid w.ctx then s.walkFault w 4 0 0
  else
    let s1 := s.dropReqs fun r => r.owner == .walk w.w
    let v := { s1.rootWalk w with fails := w.fails + 1 }
    (s1.putWalk v).walkSend v

/-- R121 comes before a table read's bus error (R128). -/
def State.walkError (s : State) (w : Walk) (e : ECode) : State := if s.walkStale w then s.restartWalk w else s.walkEnd w e

/-- A walk goes on to its next level. -/
def State.walkAsk (s : State) (w : Walk) : State :=
  if (s.walkBar w).isSome && s.walkStale w then s.restartWalk w else s.walkSend w

/-- A walk has its leaf: requests without the right fault (R105, R127), and the rest wait for the fill; nothing is cached for a
walk on which none waits any more (R103). -/
def State.walkLeaf (s : State) (w : Walk) (e : XEntry) : State :=
  let (ok, bad) := (s.waiters w.w).partition fun r => e.grants r.acc
  let s1 := s.putWalk { w with st := .filling e }
  if w.proof.isSome || !ok.isEmpty || bad.isEmpty then
    bad.foldl (fun s r =>
      match s.req? r.id with
      | some x => s.fault x 2 e.rlev e.raw
      | none => s) s1
  else s1.walkFault w 2 e.rlev e.raw

/-- The entry a walk has read (R101 to R103, R111, R121, R127). -/
def State.walkEntry (s : State) (w : Walk) (e : Nat) : State :=
  let slot := (s.slotOf w.ctx).getD 0
  let raw := BitVec.ofNat 64 e
  if !bit e 0 then (if s.walkStale w then s.restartWalk w else s.walkFault w 1 w.level raw)
  else if pteBad e w.level w.va then (if s.walkStale w then s.restartWalk w else s.walkFault w 3 w.level raw)
  else if bit e 1 then
    (if s.walkStale w then s.restartWalk w else s.walkLeaf w (pteLeaf e w.level slot w.ctx w.va))
  else
    let p := pteNext e w.level slot w.ctx w.va
    let v := { w with level := w.level - 1, table := p.out, ptrs := w.ptrs ++ [p] }
    ((s.dropReqs fun r => r.owner == .walk w.w).putWalk v).walkAsk v

/-- The 8 bytes of a walk's table read: from the directory when it was made in the coherent window, from the home otherwise. -/
def State.walkData (s : State) (w : Walk) : Option Reply :=
  let a := w.entryAt
  match s.reqs.find? fun r => r.owner == .walk w.w with
  | some r => match r.st with
    | .failed _ _ => some (.error .poison)
    | _ => if r.linesDone (s.linesOf a 8) then some (.data (s.gatherRead r a)) else none
  | none => if s.anyOff a 8 then none else if s.poisoned a 8 then some (.error .poison) else some (.data (s.readMem a 8))

/-- A walker's table read returns and is used (R111, R128). One in the register space brings, as free values decide, a bus error with a
free cause or a free entry (R18). -/
def State.walkRead (s : State) (w : Walk) (x : TblReply) : State :=
  if anyRegs w.entryAt 8 then
    let s1 := s.useFree 10
    if (Config.freeByte s.free).getLsbD 0 then s1.walkError w (.port (s.free + 1))
    else s1.walkEntry w (leNat ((List.range 8).map fun i => Config.freeByte (s.free + 2 + i)))
  else
    match x with
    | .error e => s.walkError w e
    | .home =>
      match s.walkData w with
      | none => s
      | some (.error e) => s.walkError w e
      | some (.data b) => s.walkEntry w (leNat b)

/-- A walk fills: pointers and leaf enter the folio cache, the leaf enters the edge buffer of each requester that it serves, and each goes
on (R110, R112). A leaf that serves none of those that wait is not cached (R103). -/
def State.fillWalk (s : State) (w : Walk) (e : XEntry) : State :=
  let go := s.waiters w.w
  let s1 := (s.dropWalk w.w).walkMetric w
  let s2 := if !go.isEmpty && go.all fun r => !e.grants r.acc then s1 else s1.fillAll (w.ptrs ++ [e])
  go.foldl (fun s r =>
    match s.req? r.id with
    | some x => if e.grants x.acc then (s.fillEdge (Owner.edge x.owner) e).useLeaf x e else s.useLeaf x e
    | none => s) s2

/-- A proof walk's result is held for its lookahead, up to 256 (R123, R259). -/
def State.keepProof (s : State) (n : Nat) (w : Walk) (e : XEntry) : State :=
  let s1 := s.dropWalk w.w
  let v := s1.lk n
  if v.queue.isSome && decide (v.xlt.length < 256) then s1.setLk n { v with xlt := v.xlt ++ [(w.ctx, e, w.num)] } else s1

/-- The largest page and run of R116 that lie inside a reported range of 2^size bytes: log2 of both. -/
def atsSpan (size : Nat) : Nat :=
  if size ≤ 12 then 12 else if size < 17 then size else if size < 21 then 16 else if size < 26 then size
  else if size < 30 then 25 else if size < 35 then size else 34

/-- The entry of an ATS completion (R116). -/
def atsLeaf (s : State) (w : Walk) (addr : Nat) (size : Nat) (r wr u : Bool) : XEntry :=
  let k := atsSpan size
  let page := if k < 21 then 12 else if k < 30 then 21 else 30
  let span := max 12 size
  { buf := 0, slot := (s.slotOf w.ctx).getD 0, ctx := w.ctx, level := 0, size := page, run := k - page,
    va := w.va / 2 ^ k * 2 ^ k, out := addr / 2 ^ span * 2 ^ span + w.va / 2 ^ k * 2 ^ k % 2 ^ span, typ := 1, rd := r, wr := wr,
    atm := r && wr, ats := true, unt := u, pasid := s.ctxPasid w.ctx }

/-- What an ATS Translation Request brings back (R116, R121); nothing is cached once ATS is off (R117). DESIGN CHOICE: an address at or
above 2^57 is an ATS failure whatever rights come with it. -/
def State.atsAnswer (s : State) (w : Walk) (a : AtsCpl) : State :=
  if s.walkStale w then s.restartWalk w
  else if !(s.fn w.part).ats then s.walkSend w
  else
    match a with
    | .failed => s.walkFault w 5 0 0
    | .ok addr size r wr u =>
      if 2 ^ 57 ≤ addr.toNat then s.walkFault w 5 0 0
      else if !r && !wr then s.walkFault w 1 0 0
      else
        let e := atsLeaf s w addr.toNat size.val r wr u
        let t := s.walkLeaf w e
        match t.walk? w.w with
        | some v => t.fillWalk v e
        | none => t

/-! ### Invalidation (R118 to R122) -/

/-- First byte and byte past the end of a range of 2^size pages (R119, R136). -/
def invRange (va size : Nat) : Nat × Nat :=
  let k := 12 + min 45 size
  (va / 2 ^ k * 2 ^ k, (va / 2 ^ k + 1) * 2 ^ k)

def overlaps (a b c d : Nat) : Bool := decide (a < d) && decide (c < b)

/-- The invalidation removes the entry (R119). -/
def InvScope.removes (sc : InvScope) (p : Nat) (e : XEntry) : Bool :=
  let a := e.va
  let b := e.va + 2 ^ e.span
  match sc with
  | .part => e.ctx / 64 == p
  | .ctx c => e.ctx == c
  | .range c va size =>
    let (x, y) := invRange va size
    e.ctx == c && (if e.level = 0 then overlaps a b x y else decide (4 < size) || overlaps a b x y)
  | .ats va size pasid global =>
    let (x, y) := invRange va size
    e.ats && e.ctx / 64 == p && overlaps a b x y && (global || pasid.isNone || e.pasid == pasid)

/-- An entry that an access used, with 2^span bytes of reach around its address, is one that the invalidation removes (R119, R120). -/
def State.removesUse (s : State) (sc : InvScope) (p c va span : Nat) : Bool :=
  let a := va / 2 ^ span * 2 ^ span
  match sc with
  | .part => c / 64 == p
  | .ctx d => c == d
  | .range d x size => c == d && overlaps a (a + 2 ^ span) (invRange x size).1 (invRange x size).2
  | .ats x size pasid global => c / 64 == p && s.atsHalf c va && overlaps a (a + 2 ^ span) (invRange x size).1 (invRange x size).2 &&
      (global || pasid.isNone || s.ctxPasid c == pasid)

/-- A request translated through a cached entry and not finished (R120). -/
def ReqSt.inUse : ReqSt → Bool
  | .issued _ => true
  | .bwWait _ => true
  | .tileOff _ => true
  | _ => false

/-- A request that used a removed entry and has not finished (R120). -/
def State.usesRemoved (s : State) (sc : InvScope) (p : Nat) (r : Req) : Bool :=
  r.used != 0 && r.st.inUse && s.removesUse sc p r.ctx r.va r.used

/-- The SCATTER rows that used a removed entry and are not written back (R120, R154). -/
def State.rowsRemoved (s : State) (sc : InvScope) (p : Nat) : List (Nat × Nat) :=
  (List.range 16).flatMap fun n =>
    let v := s.comp n
    let c := s.cmdCtx v.queue
    (v.dists.filter fun d => d.rid != 0 && !d.got && d.used.any fun x => s.removesUse sc p c x.1 x.2).map fun d => (n, d.rid)

/-- The fourth attempt of a walk of the partition holds back numbering (R122). -/
def State.numberingHeld (s : State) (p : Nat) : Bool := s.trn.walks.any fun w => w.part == p && w.proof.isNone && decide (3 ≤ w.fails)

/-- R266, code 0x2: proof results issued before an invalidation that names their partition. -/
def State.discardPart (s : State) (p code : Nat) : State :=
  s.discardEach fun s n => if s.lkPart n = p then s.discardHits n (fun _ => true) (fun _ => true) code else s

/-- An invalidation takes the next number, and its entries are removed (R118, R119); it wakes a Translation domain in IDLE
(R415). -/
def State.numberInv (s : State) (p : Nat) (sc : InvScope) (by_ : InvFrom) : State :=
  let n := s.trn.invLast + 1
  let users := (s.reqs.filter (s.usesRemoved sc p)).map (·.id)
  let t := s.trn
  let s1 := s.setTrn { t with
    invLast := n, lastInv := t.lastInv.set p n, anyInv := t.anyInv.set p true,
    invseq := match by_ with | .reg q _ => t.invseq.set q n | _ => t.invseq,
    edge := t.edge.filter fun e => !sc.removes p e, folio := t.folio.filter fun e => !sc.removes p e,
    invs := t.invs ++ [{ num := n, part := p, scope := sc, by_ := by_, users := users, rows := s.rowsRemoved sc p }] }
  let s2 := s1.discardPart p 2
  if s2.dom 3 = .idle then s2.wake 3 else s2

/-- An invalidation is accepted: numbered, or held back (R118, R122). -/
def State.acceptInv (s : State) (p : Nat) (sc : InvScope) (by_ : InvFrom) : State :=
  let s1 := match by_ with
    | .reg q _ => s.setTrn { s.trn with busy := s.trn.busy.set q true }
    | _ => s
  if s1.numberingHeld p then s1.setTrn { s1.trn with invHeld := s1.trn.invHeld ++ [(p, sc, by_)] }
  else s1.numberInv p sc by_

/-- Every user of the invalidation has finished (R120). -/
def State.invReady (s : State) (i : Inv) : Bool :=
  (i.users.all fun u => match s.req? u with
    | some r => !r.st.inUse
    | none => true) &&
  i.rows.all fun x => !(s.comp x.1).dists.any fun d => d.rid == x.2 && !d.got

/-- The party that waits for an invalidation learns that it is complete; the slot of a context no longer valid is released. -/
def State.invDoneFor (s : State) (i : Inv) : State :=
  match i.by_ with
  | .reg q _ => s.setTrn { s.trn with busy := s.trn.busy.set q false }
  | .cmd q pos => s.endCmd q pos 0 0 0 [] 0
  | .ats p t => s.emit (.atsInvDone p t)
  | .cfg =>
    match i.scope with
    | .ctx c => if s.ctxValid c then s else s.setTrn { s.trn with slots := s.trn.slots.filter fun x => x.2.1 != c }
    | _ => s

/-- A write of FRZ_TRN_INVCTL (R137): refused while the partition's last one is not complete. DESIGN CHOICE: a write that would have no
effect anyway does not set REFUSED while BUSY either. -/
def State.invctl (s : State) (w : Who) (part : BitVec 4) (sc : Nat → InvScope) : State :=
  let me := whoPart w
  let p := if isMgr w then part.toNat else me
  if !s.present p then s
  else if s.trn.busy.get false me then s.setTrn { s.trn with refused := s.trn.refused.set me true }
  else s.acceptInv p (sc p) (.reg me w)

/-! ### Presenting a request -/

/-- A held request is presented, or takes the proof results made for it (R265); one at a device physical address goes out as it is. -/
def State.lookupHeld (s : State) (r : Req) : State :=
  match s.fromProof r with
  | some t => t
  | none => if r.phys then s.translated r (.dev r.va) else s.lookup r

/-! ### Meanings -/

/-- R97, R99, R110. A request of a tile's trace port is a trace record (R465). -/
def execTranslate (x : XReq) (s_ : State) : Ans :=
  delivered (.translate x) s_ fun s =>
  inUnit 2 0 s fun s =>
  gated 3 s fun s =>
    match x with
    | .tile t e va acc len data op a b =>
      if s.tileClosed t.val then .next (s.emit (.tileRsp t.val e.val (.error .none)))
      else if e = 3 then .next (s.addTileTrace t.val (data.take 32))
      else
        let v := (s.trn.tbind.get 0 t.val).toNat
        if bit v 31 && s.bound (bits v 9 0 / 64) then .next s
        else .next (s.tileRequest t.val e.val va.toNat acc len data op a b)
    | .held id =>
      match s.req? id with
      | some r => if s.canPresent r && !s.bound r.part then .next (s.lookupHeld r) else .next s
      | none => .next s

/-- R97: no request of a bound-mode partition is translated. -/
def execBoundModeRequest (x : BReq) (s_ : State) : Ans :=
  delivered (.boundModeRequest x) s_ fun s =>
  inUnit 2 0 s fun s =>
  gated 3 s fun s =>
    match x with
    | .core k addr acc len data op a b => fromCore k s fun s =>
      let p := (s.prt.tcact.get 0 k.val).toNat
      let r : Req :=
        { id := s.nextId, owner := .core k.val, src := BitVec.ofNat 9 (0x100 + k.val), part := p, ctx := 0, va := addr.toNat,
          len := len, acc := acc, data := if acc = .write then data.take len else [], en := [], st := .held, replay := none,
          phys := true, op := op, x := a, y := b }
      .next (({ s with nextId := s.nextId + 1, reqs := s.reqs ++ [r] } : State).translated r (.dev addr.toNat))
    | .tile t e va acc len data op a b =>
      let v := (s.trn.tbind.get 0 t.val).toNat
      if s.tileClosed t.val then .next (s.emit (.tileRsp t.val e.val (.error .none)))
      else if bit v 31 && !s.bound (bits v 9 0 / 64) then .next s
      else .next (s.tileRequest t.val e.val va.toNat acc len data op a b)
    | .held id =>
      match s.req? id with
      | some r => if s.canPresent r && s.bound r.part then .next (s.lookupHeld r) else .next s
      | none => .next s

/-- R126. -/
def execContextSlotLoad (c : Fin 1024) (s_ : State) : Ans :=
  inUnit 2 0 s_ fun s =>
  let wait := s.reqs.filter fun r => r.st == .ctxWait && r.ctx == c.val
  if wait.isEmpty || (s.slotOf c.val).isSome then .next s
  else
    match s.slotFor c.val with
    | none => .next s
    | some n =>
      .next (wait.foldl (fun s r =>
        match s.req? r.id with
        | some x => if x.st = .ctxWait then s.lookup x else s
        | none => s) (s.loadSlot n c.val))

/-- The oldest miss of a partition that waits for a walker. -/
def State.nextMiss (s : State) (p : Nat) : Option Req := minBy (·.at_) (s.reqs.filter fun r => r.st == .missWait && r.part == p)

/-- The partition whose miss takes a free walker (R113). -/
def State.walkerFor (s : State) : Option (Nat × Bool) :=
  match roundRobin 16 s.trn.rr fun p => decide (s.walksOf p < s.quotaWalk p) && (s.nextMiss p).isSome with
  | some p => some (p, false)
  | none =>
    if s.trn.walks.any fun w => w.proof.isNone && s.quotaWalk w.part == 0 then none
    else (roundRobin 16 s.trn.rr0 fun p => s.quotaWalk p == 0 && (s.nextMiss p).isSome).map fun p => (p, true)

/-- The walker is free, or its proof walk is the latest and no walker is free (R261). -/
def State.walkerOpen (s : State) (w : Nat) : Bool :=
  match s.walk? w with
  | none => true
  | some x => !(List.range 48).any (fun k => s.unitIn 3 k && (s.walk? k).isNone) &&
      ((maxBy (·.order) (s.trn.walks.filter fun v => v.proof.isSome)).map (·.w) == some x.w)

/-- The walk of a miss: from the root where the last walk of its page was discarded. -/
def State.missWalk (s : State) (w p : Nat) (r : Req) : Walk :=
  let v := s.newWalk w p r.ctx r.va none
  if s.trn.roots.contains (r.ctx, r.va / 4096) then s.rootWalk v else v

/-- R113: the walk of the oldest miss of the partition whose turn it is; every miss of the page waits on it (R112). -/
def execWalkStart (w : Fin 48) (s_ : State) : Ans :=
  inUnit 2 0 s_ fun s =>
  match s.walkerFor with
  | none => .next s
  | some (p, zero) =>
    match s.nextMiss p with
    | none => .next s
    | some r =>
      if !s.walkerOpen w.val || !s.unitIn 3 w.val then .next s
      else
        let s1 := s.dropWalk w.val
        let s2 := s1.setTrn (if zero then { s1.trn with rr0 := (p + 1) % 16 } else { s1.trn with rr := (p + 1) % 16 })
        let v := s2.missWalk w.val p r
        let s3 := (s2.setTrn { s2.trn with roots := s2.trn.roots.filter (· != (r.ctx, r.va / 4096)) }).startWalk v
        let rs := s3.reqs.map fun x =>
          if x.st == .missWait && x.ctx == r.ctx && x.va / 4096 == r.va / 4096 then { x with st := .walking w.val } else x
        .next (({ s3 with reqs := rs } : State).walkSend v)

/-- The read of a walk that was fenced comes back: it is dropped at the closed port while the walker is OUT; once the walker's epoch has been
raised it is a stale message, and counted as one (R429). -/
def State.staleRead (s : State) (w : Nat) : State :=
  let s1 := s.setTrn { s.trn with late := s.trn.late.erase w }
  match (s.unit 3 w).st with
  | .out => s1
  | .reloading => s1
  | _ => s1.pulse 5

/-- R111, R429. A walker's reads come back in the order in which they were made. -/
def execWalkTableReadReturn (w : Fin 48) (r : TblReply) (s_ : State) : Ans :=
  inUnit 2 0 s_ fun s =>
  if s.trn.late.contains w.val then .next (s.staleRead w.val)
  else
    match s.walk? w.val with
    | some v => if v.st = .reading then .next (s.walkRead v r) else .next s
    | none => .next s

/-- R121, R123. -/
def execWalkFill (w : Fin 48) (s_ : State) : Ans :=
  inUnit 2 0 s_ fun s =>
  match s.walk? w.val with
  | none => .next s
  | some v =>
    match v.st with
    | .filling e =>
      if s.walkStale v then .next (s.restartWalk v)
      else match v.proof with
        | some n => .next (s.keepProof n v e)
        | none => .next (s.fillWalk v e)
    | _ => .next s

def execAtsTranslationCompletion (w : Fin 48) (a : AtsCpl) (s_ : State) : Ans :=
  inUnit 2 0 s_ fun s =>
  match s.walk? w.val with
  | some v => if v.st = .ats then inPort v.part s fun s => .next (s.atsAnswer v a) else .next s
  | none => .next s

/-- R118, R119: received on a host port of a V3-X function whose ATS is present. -/
def execAtsInvalidationRequest (p : Fin 16) (itag : Fin 32) (va : BitVec 57) (size : BitVec 6) (pasid : Option (BitVec 20))
    (global : Bool) (s_ : State) : Ans :=
  delivered (.atsInvalidationRequest p itag va size pasid global) s_ fun s =>
  if s.part = .v3x ∧ s.fnServes p.val = true then
    .next (s.acceptInv p.val (.ats va.toNat size.toNat pasid global) (.ats p.val itag.val))
  else .next s

def execInvctlPartition (w : Who) (part : BitVec 4) (s_ : State) : Ans :=
  delivered (.invctlPartition w part) s_ fun t_ =>
  heard w t_ fun t_ =>
  .next (t_.invctl w part fun _ => .part)

def execInvctlContext (w : Who) (part : BitVec 4) (ctx : BitVec 6) (s_ : State) : Ans :=
  delivered (.invctlContext w part ctx) s_ fun t_ =>
  heard w t_ fun s =>
  .next (s.invctl w part fun p => .ctx (64 * p + ctx.toNat))

def execInvctlRange (w : Who) (part : BitVec 4) (ctx : BitVec 6) (s_ : State) : Ans :=
  delivered (.invctlRange w part ctx) s_ fun t_ =>
  heard w t_ fun s =>
  let v := (s.trn.invaddr.get 0 (whoPart w)).toNat
  .next (s.invctl w part fun p => .range (64 * p + ctx.toNat) (bits v 56 12 * 4096) (bits v 5 0))

/-- R122: in the order in which they were accepted. -/
def execInvalidationNumberingRelease (p : Fin 16) (s_ : State) : Ans :=
  inUnit 2 0 s_ fun s =>
  if s.numberingHeld p.val then .next s
  else
    let mine := s.trn.invHeld.filter fun h => h.1 == p.val
    .next (mine.foldl (fun s h => s.numberInv h.1 h.2.1 h.2.2)
      (s.setTrn { s.trn with invHeld := s.trn.invHeld.filter fun h => h.1 != p.val }))

/-- R120: the lowest number not yet complete. It completes without waking a domain in DEEP, and after the wake otherwise (R415). -/
def execInvalidationComplete (s_ : State) : Ans :=
  inUnit 2 0 s_ fun s =>
  match s.trn.invs with
  | [] => .next s
  | i :: r =>
    if s.dom 3 ≠ .run ∧ s.dom 3 ≠ .deep then .next s else
    if s.invReady i then .next ((s.setTrn { s.trn with invs := r, invDone := i.num }).invDoneFor i) else .next s

/-- An indexed register whose instance belongs to partition `p` takes the access (R131, R135). -/
def State.mayIndex (s : State) (w : Who) (p : Nat) : Bool := s.present p && (isMgr w || whoPart w == p)

/-- R135. -/
def execCtxcfgWrite (w : Who) (c : Fin 1024) (v : W64) (s_ : State) : Ans :=
  delivered (.ctxcfgWrite w c v) s_ fun t_ =>
  heard w t_ fun s =>
  let p := c.val / 64
  let x := v.toNat
  let keep := BitVec.ofNat 64 (x % 2 ^ 21 + bits x 61 60 * 2 ^ 60 + b2n (bit x 63) * 2 ^ 63)
  let put (s : State) : State := s.setTrn { s.trn with ctxcfg := s.trn.ctxcfg.set c.val keep }
  if !s.mayIndex w p then .next s
  else if s.ctxValid c.val then
    (if bit x 63 then .next s else .next ((put s).acceptInv p (.ctx c.val) .cfg))
  else if bit x 63 && (decide (2 ≤ bits x 61 60) || (bits x 61 60 == 1 && !bit (s.trn.pmode.get 0 p).toNat 2)) then .next s
  else .next (put s)

/-- R99, R132: only partition 0 writes it; the tile's edge buffer is emptied. -/
def execTbindWrite (w : Who) (t : Fin 64) (v : W32) (s_ : State) : Ans :=
  delivered (.tbindWrite w t v) s_ fun t_ =>
  heard w t_ fun s =>
  if isMgr w then
    let x := v.toNat
    .next (s.setTrn { s.trn with tbind := s.trn.tbind.set t.val (BitVec.ofNat 32 (x % 2 ^ 10 + b2n (bit x 31) * 2 ^ 31))
                                 edge := s.trn.edge.filter fun e => e.buf != t.val })
  else .next s

end Sys2Proof.Machine
end

