-- ==== Sys2Proof/Machine/Faults.lean ====
section
/-! DEFINITION. Fault entries, the fault ring, the responses of the servicer and of the host, and replay (R141 to R152, R169). -/

namespace Sys2Proof.Machine

open Sys2Proof

/-! ### The ring -/

/-- FID (R142). -/
def FEntry.fid (e : FEntry) : Nat := e.gen * 512 + e.n

/-- The entry with a number. -/
def State.fent? (s : State) (p n : Nat) : Option FEntry := (s.fltp p).entries.find? fun e => e.n == n

def State.setFent (s : State) (p : Nat) (e : FEntry) : State :=
  s.modFltp p fun f => { f with entries := f.entries.map fun x => if x.n == e.n then e else x }

/-- Records written and not yet consumed. -/
def FltP.used (f : FltP) : Nat := (f.tail - f.head).toNat

/-- The address of the ring position at TAIL, and whether it is in host memory (R143, R168). -/
def FltP.place (f : FltP) : Bool × Nat := (bit f.rbase.toNat 63, bits f.rbase.toNat 56 15 * 32768 + 64 * (f.tail.toNat % 512))

/-- A fault record (R144). -/
def faultRecord (p : Nat) (e : FEntry) (phase : Nat) : Bytes :=
  toLE 8 e.va ++ toLE 2 e.fid ++ toLE 2 (e.cause * 4096 + Acc.code e.acc * 512 + e.src.toNat) ++ toLE 1 (e.ctx % 64) ++
    toLE 1 (e.level * 16 + p) ++ toLE 2 (match e.queue with | some q => q | none => 32768) ++ toLE 8 e.raw.toNat ++
    toLE 8 e.tstamp.toNat ++ zeros 30 ++ toLE 2 phase

/-- Phase 3 is followed by 1 (R57). -/
def nextPhase (x : BitVec 2) : BitVec 2 := if x = 3 then 1 else x + 1

/-- The fault source of a partition (R375). -/
def State.raiseFaultSource (s : State) (p : Nat) : State := s.raise (16 + 8 * p + 1)

/-- The record write of an entry fails (R145). -/
def State.recordFailed (s : State) (p : Nat) (e : FEntry) : State :=
  (((s.modFltp p fun f => { f with ringerr := true, writing := none }).endUnserviceable p e 5)).raiseFaultSource p

/-- The entry whose record is written next: RAISED, routed to the ring, first in order. -/
def State.nextRecord (s : State) (p : Nat) : Option FEntry :=
  minBy (·.order) ((s.fltp p).entries.filter fun e => e.st == .raised && !e.pri)

/-- A record whose ring lies in the register space: as a free value decides, its write fails, or it touches no partition's state and succeeds
(R18). -/
def State.recordInRegs (s : State) (p : Nat) (e : FEntry) (a : Nat) (data : Bytes) : State :=
  let s1 := s.useFree 1
  if (Config.freeByte s.free).getLsbD 0 then s1.recordFailed p e
  else
    { s1 with
      nextId := s1.nextId + 1
      reqs := s1.reqs ++ [{ id := s1.nextId, owner := .fltRec p, src := 0x109, part := p, ctx := 0, va := a, len := 64, acc := .write,
                            data := data, en := [], st := .done (.dev a), replay := none, phys := true }] }

/-- A record write is made: checked under R107 in device memory, sent at once to host memory (R143, R145). -/
def State.sendRecord (s : State) (p : Nat) (e : FEntry) : State :=
  let f := s.fltp p
  let (host, a) := f.place
  let rec_ := faultRecord p e f.phase.toNat
  let s1 := (s.setFltp p { f with writing := some e.n }).chargeTo p 1
  if host then
    if !s.canSend p then s1.recordFailed p e
    else
      let st := s.steerOf p (16 + 8 * p + 1)
      let s2 := s1.hostWrite p a rec_ [] false st {}
      { s2 with
        nextId := s2.nextId + 1
        reqs := s2.reqs ++ [{ id := s2.nextId, owner := .fltRec p, src := 0x109, part := p, ctx := 0, va := a, len := 64,
                              acc := .write, data := rec_, en := [], st := .done (.host a false), replay := none, phys := true }] }
  else if !s.grantedAll p a 64 .write false then (s1.isolation).recordFailed p e
  else if anyRegs a 64 then s1.recordInRegs p e a rec_
  else if anyUnassigned a 64 || s.anyClosed a 64 then s1.recordFailed p e
  else s1.addPhysWrite (.fltRec p) 0x109 p a rec_

/-- The write has succeeded: LOGGED, TAIL advances, the source rises (R145). An entry that ended meanwhile leaves TAIL as it
is, and the next record is written at the same position. -/
def State.recordLogged (s : State) (p : Nat) : State :=
  let f := s.fltp p
  match f.writing.bind fun n => s.fent? p n with
  | none => s.setFltp p { f with writing := none }
  | some e =>
    let ph := if f.tail.toNat % 512 = 511 then nextPhase f.phase else f.phase
    (((s.setFltp p { f with writing := none, tail := f.tail + 1, phase := ph }).setFent p { e with st := .logged })).raiseFaultSource p

/-! ### Replay -/

/-- R149: every leaf of the faulting context whose run covers the page leaves the caches, and no lookahead keeps one either (R55). -/
def State.removeLeaves (s : State) (c va : Nat) : State :=
  let keep (e : XEntry) : Bool := !(e.level == 0 && e.covers c va)
  (s.discardEach fun s n => s.setLk n { s.lk n with xlt := (s.lk n).xlt.filter fun x => keep x.2.1 }).setTrn
    { s.trn with edge := s.trn.edge.filter keep, folio := s.trn.folio.filter keep }

/-- R147, R149: each joined request retranslates, in its own access kind. -/
def State.replayEntry (s : State) (p : Nat) (e : FEntry) : State :=
  let ids := (s.reqs.filter fun r => r.st == .faulted p e.n).map (·.id)
  let s1 := (s.removeLeaves e.ctx e.va).setFent p { e with removed := true }
  let again (r : Req) : Req := if r.st == .faulted p e.n then { r with st := .held, replay := some (p, e.n) } else r
  let s2 : State := { s1 with reqs := s1.reqs.map again }
  ids.foldl (fun s i =>
    match s.req? i with
    | some r => if r.replay = some (p, e.n) ∧ r.st = .held then s.lookup r else s
    | none => s) s2

/-! ### Meanings -/

/-- The fault of a partition that has waited longest for an entry. -/
def State.nextWaiting (s : State) (p : Nat) : Option Req :=
  minBy (fun r => r.st.waitOrder?.getD 0) (s.reqs.filter fun r => r.part == p && r.st.waitOrder?.isSome)

/-- R142: in the order of raising; a fault that can join an entry by now joins it (R141). -/
def execFaultEntryAllocate (p : Fin 16) (s_ : State) : Ans :=
  inUnit 2 0 s_ fun s =>
  match s.nextWaiting p.val with
  | none => .next s
  | some r =>
    match r.st with
    | .entryWait _ cause =>
      match s.joinable p.val r.ctx r.va cause with
      | some e => .next (s.setReq { r with st := .faulted p.val e.n })
      | none =>
        let pri := s.priRoute p.val r.ctx r.va cause
        if !pri && !(s.fltp p.val).en then .next (s.giveUp [r] cause 5)
        else match s.freeEntry p.val with
          | none => .next s
          | some n => .next (s.takeEntry r n cause pri)
    | _ => .next s

/-- R145: one record at a time, while a position is free. -/
def execFaultRecordIssue (p : Fin 16) (s_ : State) : Ans :=
  inUnit 2 0 s_ fun t =>
  let s := t.routeStale p.val
  let f := s.fltp p.val
  let out := s.reqs.any fun r => r.owner == .fltRec p.val
  if !f.en || f.writing.isSome || out || decide (512 ≤ f.used) then .next s
  else match s.nextRecord p.val with
    | none => .next s
    | some e => .next (s.sendRecord p.val e)

def execFaultRecordDone (p : Fin 16) (x : WReply) (s_ : State) : Ans :=
  inUnit 2 0 s_ fun s =>
  match s.reqs.find? fun r => r.owner == .fltRec p.val with
  | none => .next s
  | some r =>
    match s.writeBack r x with
    | none => .next s
    | some (.done, t) => .next ((t.dropReq r.id).recordLogged p.val)
    | some (.error _, t) =>
      let t1 := t.dropReq r.id
      match (t1.fltp p.val).writing.bind fun n => t1.fent? p.val n with
      | some e => .next (t1.recordFailed p.val e)
      | none => .next ((t1.modFltp p.val fun f => { f with ringerr := true, writing := none }).raiseFaultSource p.val)

/-- A response to a LOGGED entry whose FID is the one written; any other is refused (R148). -/
def State.respond (s : State) (w : Who) (fid : BitVec 16) (k : Nat → FEntry → State → State) : State :=
  let p := s.actPart w
  match (s.fltp p).entries.find? fun e => e.st == .logged && e.fid == fid.toNat with
  | some e => k p e s
  | none => s.modFltp p fun f => { f with refused := true }

def execFltRespRetry (w : Who) (fid : BitVec 16) (s_ : State) : Ans :=
  delivered (.fltRespRetry w fid) s_ fun t_ =>
  heard w t_ fun s =>
  .next (s.respond w fid fun p e s => s.setFent p { e with st := .replaying, removed := false })

def execFltRespAbort (w : Who) (fid : BitVec 16) (s_ : State) : Ans :=
  delivered (.fltRespAbort w fid) s_ fun t_ =>
  heard w t_ fun s =>
  .next (s.respond w fid fun p e s => s.endUnserviceable p e 1)

def execReplayRemovalDone (p : Fin 16) (n : Fin 512) (s_ : State) : Ans :=
  inUnit 2 0 s_ fun s =>
  match s.fent? p.val n.val with
  | some e => if e.st = .replaying ∧ e.removed = false then .next (s.replayEntry p.val e) else .next s
  | none => .next s

/-- R152: one management-plane tick for the entries of a partition. -/
def execFaultDeadline (p : Fin 16) (s : State) : Ans :=
  let d := (s.fltp p.val).deadline.toNat
  .next ((s.fltp p.val).entries.foldl (fun s e =>
    if e.st ≠ .replaying ∧ d ≤ e.age then s.endUnserviceable p.val e 2
    else s.modFltp p.val fun f => { f with entries := f.entries.map fun x => if x.n == e.n then { x with age := x.age + 1 } else x })
    s)

/-- R151: one page in its own group, with Last set. -/
def execPageRequestSend (p : Fin 16) (s_ : State) : Ans :=
  inUnit 2 0 s_ fun t =>
  let s := t.routeStale p.val
  let f := s.fltp p.val
  let out := (f.entries.filter fun e => e.st == .requested).length
  match minBy (·.order) (f.entries.filter fun e => e.st == .raised && e.pri) with
  | none => .next s
  | some e =>
    if (s.fn p.val).prAlloc ≤ out ∨ s.canSend p.val = false then .next s
    else
      let rd := e.acc == .read || e.acc == .rmw || e.acc == .ringRead
      let wr := e.acc == .write || e.acc == .atomic || e.acc == .rmw
      .next ((s.setFent p.val { e with st := .requested }).emit
        (.pageRequest p.val (e.va / 4096 * 4096) e.n rd wr (s.ctxPasid e.ctx)))

/-- R147, R151: a response whose PRG Index names no REQUESTED entry is ignored. -/
def execPrgResponse (p : Fin 16) (n : Fin 512) (c : PrgCode) (s_ : State) : Ans :=
  delivered (.prgResponse p n c) s_ fun s =>
  match s.fent? p.val n.val with
  | none => .next s
  | some e =>
    if e.st ≠ .requested then .next s
    else match c with
      | .success => .next (s.setFent p.val { e with st := .replaying, removed := false })
      | .invalid => .next (s.endUnserviceable p.val e 3)
      | .failure =>
        let s1 := s.modFltp p.val fun f => { f with prioff := true }
        let s2 := ((s1.fltp p.val).entries.filter fun x => x.st == .requested).foldl
          (fun s x => s.endUnserviceable p.val x 4) s1
        .next (((s2.fltp p.val).entries.filter fun x => x.st == .raised).foldl (fun s x => s.routeEntry p.val x) s2)

/-- Faults that wait for an entry end when no route is left for them (R146). -/
def State.dropWaiting (s : State) (p : Nat) : State :=
  (s.reqs.filter fun r => r.part == p && r.st.waitOrder?.isSome).foldl (fun s r =>
    match s.req? r.id with
    | some x => match x.st with
      | .entryWait _ cause => if s.priRoute p x.ctx x.va cause || (s.fltp p).en then s else s.giveUp [x] cause 5
      | _ => s
    | none => s) s

/-- R143, R169: EN cannot be set while entries are outstanding; clearing it ends the RAISED entries of the ring (R147), and what waits for
one. -/
def execFltRcfgWrite (w : Who) (v : W32) (s_ : State) : Ans :=
  delivered (.fltRcfgWrite w v) s_ fun t_ =>
  heard w t_ fun s =>
  let p := s.actPart w
  let f := s.fltp p
  let en := bit v.toNat 31
  let d := BitVec.ofNat 16 v.toNat
  if en && !f.en then
    (if f.entries.isEmpty then .next (s.setFltp p { f with en := true, deadline := d, tail := 0, head := 0, phase := 1 })
     else .next s)
  else
    let s1 := s.setFltp p { f with en := en, deadline := d }
    .next (if f.en && !en then
        (((s1.fltp p).entries.filter fun e => e.st == .raised).foldl (fun s e => s.routeEntry p e) s1).dropWaiting p
      else s1)

end Sys2Proof.Machine
end

