-- ==== Sys2Proof/Machine/Epochs.lean ====
section
/-! DEFINITION. Table epochs (R158 to R166, R173): slots, flips, purging, and the commands that wait for them. -/

namespace Sys2Proof.Machine

open Sys2Proof

/-- The idle slot (R158). -/
def Table.idleB (t : Table) : Bool := !t.curB

/-- A flip of the table is pending (R159, R161). -/
def State.flipPending (s : State) (t : Nat) : Bool := s.epo.flips.any fun f => f.tables.contains t

/-- Swatch entries of a slot leave the table (R222). -/
def State.dropSwatches (s : State) (t : Nat) (isB : Bool) : State :=
  { s with cmp := { s.cmp with swatch := s.cmp.swatch.filter fun e => !(e.table == t && e.slotB == isB) } }

/-- A write of a record register, or a STAGE, to a slot (R159): V, and the record's address. -/
def State.stageSlot (s : State) (t : Nat) (isB : Bool) (v : Bool) (addr : Nat) : State :=
  let x := s.table t
  let k := x.slot isB
  if x.curB == isB || !(k.st == .free || k.st == .staged) then s
  else
    let s1 := if k.st = .staged then s.dropSwatches t isB else s
    if v then s1.setTable t (x.setSlot isB { k with st := .staged, addr := addr })
    else s1.setTable t (x.setSlot isB { k with st := .free, addr := 0 })

/-- GEN rises by 1, from 65,535 to 1 (R159). -/
def nextTableGen (g : BitVec 16) : BitVec 16 := if g = 0xFFFF then 1 else g + 1

/-- A table flips under a SWAP, or is retired (R159). -/
def Table.flip (t : Table) (retire : Bool) : Table :=
  let old := t.slot t.curB
  let t1 := if old.st = .current then t.setSlot t.curB { old with st := .draining } else t
  if retire then { t1 with valid := false }
  else
    let k := t1.slot t1.idleB
    { t1.setSlot t1.idleB { k with st := .current } with curB := t1.idleB, valid := true, gen := nextTableGen t1.gen }

/-- R266, code 0x1: every result of a flipped table's lookups. -/
def State.discardTables (s : State) (ts : List Nat) : State :=
  s.discardEach fun s n => s.discard n
    (fun h => h.kind != .ring && (match s.targetTable n h.target with | some t => ts.contains t | none => false)) (fun _ => false) 1

/-- Slots that a flip makes DRAINING. -/
def State.drains (s : State) (f : Flip) : List (Nat × Bool) :=
  f.tables.filterMap fun t => let x := s.table t; if (x.slot x.curB).st = .current then some (t, x.curB) else none

/-- Every flip of a command takes effect together (R161). -/
def State.applyFlip (s : State) (f : Flip) : State :=
  let dr := s.drains f
  let s1 := f.tables.foldl (fun s t => s.setTable t ((s.table t).flip f.retire)) s
  let s2 : State := { s1 with epo := { s1.epo with flips := s1.epo.flips.filter fun x => !(x.queue == f.queue && x.pos == f.pos) } }
  let s3 := s2.discardTables f.tables
  match s3.cmd? f.queue f.pos with
  | none => s3
  | some c =>
    if f.waitrel && !dr.isEmpty && !c.aborted then s3.setCmd { c with slots := dr } else s3.endCmd f.queue f.pos 0 0 0 [] 0

/-- Slots have become FREE: commands that wait for them go on (R166). -/
def State.slotsFreed (s : State) (fs : List (Nat × Bool)) : State :=
  let cs := s.gal.cmds.filter fun c => c.slots.any fun x => fs.contains x
  cs.foldl (fun s c =>
    let left := c.slots.filter fun x => !fs.contains x
    let s1 := s.setCmd { c with slots := left }
    if left.isEmpty then s1.endCmd c.queue c.pos 0 0 0 [] 0 else s1) s

/-! ### Meanings -/

def execTrecWrite (w : Who) (t : Fin 512) (slotB : Bool) (v : W64) (s_ : State) : Ans :=
  delivered (.trecWrite w t slotB v) s_ fun t_ =>
  heard w t_ fun s =>
  let n := 512 * whoPart w + t.val
  if s.flipPending n then .next s else .next (s.stageSlot n slotB (bit v.toNat 63) (bits v.toNat 51 6 * 64))

def execEpochFlip (q : Fin 4096) (pos : BitVec 16) (s_ : State) : Ans :=
  inUnit 2 0 s_ fun s =>
  match s.epo.flips.find? fun f => f.queue == q.val && f.pos == pos with
  | none => .next s
  | some f => .next (s.applyFlip f)

/-- R163: a DRAINING slot without pins. -/
def execSlotPurging (p : Fin 16) (t : Fin 512) (slotB : Bool) (s_ : State) : Ans :=
  inUnit 2 0 s_ fun s =>
  let n := 512 * p.val + t.val
  let x := s.table n
  let k := x.slot slotB
  if k.st = .draining ∧ k.pins = 0 then .next (s.setTable n (x.setSlot slotB { k with st := .purging })) else .next s

/-- Every slot that is PURGING, in order of table number. -/
def State.purging (s : State) : List (Nat × Bool) :=
  s.epo.tables.flatMap fun t =>
    (if t.2.a.st = .purging then [(t.1, false)] else []) ++ (if t.2.b.st = .purging then [(t.1, true)] else [])

/-- R41, R163. -/
def execPurgeSweepStart (s_ : State) : Ans :=
  inUnit 2 0 s_ fun s =>
  let ps := s.purging
  if s.epo.sweep.isSome || ps.isEmpty then .next s
  else .next (({ s with epo := { s.epo with sweep := some ps } } : State).emit (.rowPurge ps))

/-- R163: the sweep's slots become FREE; the release source of each partition rises. -/
def execPurgeSweepEnd (s_ : State) : Ans :=
  inUnit 2 0 s_ fun s =>
  match s.epo.sweep with
  | none => .next s
  | some ps =>
    let fs := ps.filter fun x => ((s.table x.1).slot x.2).st == .purging
    let s1 : State := { s with epo := { s.epo with sweep := none } }
    let s2 := fs.foldl (fun s x => (s.setTable x.1 ((s.table x.1).setSlot x.2 {})).dropSwatches x.1 x.2) s1
    let s3 := ((fs.map fun x => x.1 / 512).eraseDups).foldl (fun s p => s.raise (16 + 8 * p + 2)) s2
    .next (s3.slotsFreed fs)

end Sys2Proof.Machine
end

