-- ==== Sys2Proof/Machine/Proofs.lean ====
section
/-! DEFINITION. Lookahead and proof (chapter 9): what a lookahead follows, what it reads ahead, and what is discarded. Proof
results live in `Lka.held` until a committed read takes them up or a cause of R266 discards them. -/

namespace Sys2Proof.Machine

open Sys2Proof

/-- Proof reads whose data is dropped without a cause of R266: counted, and no code is recorded. -/
def State.dropProofs (s : State) (n : Nat) (p : Proof → Bool) : State :=
  let v := s.lk n
  let k := (v.held.filter fun h => !h.dead && p h).length
  let q := s.lkPart n
  let s1 := s.setLk n { v with held := v.held.filter fun h => !p h }
  { s1 with lka := { s1.lka with disc := s1.lka.disc.set q (sat48 (s1.lka.disc.get 0 q) k) } }

/-! ### Following (R256 to R258, R266) -/

/-- Results of a target. -/
def State.discardTarget (s : State) (n k code : Nat) : State := s.discard n (fun h => h.target == k) (fun _ => false) code

/-- The targets up to and including number `k` leave; the results of number `k` are the running command's from now on, and those of later
ones are renumbered. -/
def Lka.shift (v : Lka) (k : Nat) : Lka :=
  { v with targets := v.targets.drop k
           held := v.held.map fun h => if k ≤ h.target && h.target != 3 then { h with target := h.target - k } else h }

/-- A lookahead reads the ring on from a position. -/
def Lka.from (v : Lka) (pos : BitVec 16) : Lka := { v with next := pos, fresh := false, retry := false, asked := false }

/-- The number of the target at a position. -/
def Lka.targetAt (v : Lka) (pos : BitVec 16) : Option Nat :=
  ((List.range v.targets.length).find? fun i => (v.targets[i]?).any fun t => t.pos == pos).map (· + 1)

/-- A command of queue `q` commits on compositor `m`: R256, R265, R266 codes 0x4, 0x5 and 0xA. -/
def State.lkaCommitted (s0 : State) (q m : Nat) (pos : BitVec 16) (slug : Bytes) (head : BitVec 16) : State :=
  let others (s : State) (n : Nat) : State :=
    if (s.lk n).queue = some q ∧ n ≠ m then s.discardAll n 5 else s
  let s := s0.discardEach others
  let v := s.lk m
  if !s.lkaOn (q / 256) then s
  else if v.queue != some q then
    let s1 := if v.queue.isSome then s.discardAll m 0xA else s
    s1.setLk m ({ s1.lk m with queue := some q }.from head)
  else
    -- results of the command that ran before are no longer needed
    let s1 := s.discardTarget m 0 0xA
    match v.targetAt pos with
    | none =>
      let s2 := s1.discard m (fun h => h.target != 0 && h.target != 3) (fun _ => false) 5
      let s3 := s2.dropProofs m fun h => h.target == 3
      s3.setLk m ({ s3.lk m with targets := [] }.from head)
    | some k =>
      let same := (v.targets[k - 1]?).any fun t => t.slug == slug
      -- targets before it were passed by
      let s2 := (List.range (k - 1)).foldl (fun s i => s.discardTarget m (i + 1) 5) s1
      let s3 := if same then
          s2.useProofs m (((s2.lk m).held.filter fun h => h.target == k && h.kind == .ring && !h.dead).map (·.id))
        else s2.discardTarget m k 4
      s3.setLk m ((s3.lk m).shift k)

/-- A command that takes no compositor commits: a target at its position was none, or ended at commitment (R266, codes 0x5 and
0x7). -/
def State.lkaPassed (s : State) (q : Nat) (pos head : BitVec 16) (code : Nat) : State :=
  s.discardEach fun s n =>
    if (s.lk n).queue = some q then
      match (s.lk n).targetAt pos with
      | some k =>
        let s1 := (List.range k).foldl (fun s i => s.discardTarget n (i + 1) code) s
        s1.setLk n ((s1.lk n).shift k)
      | none =>
        if ((s.lk n).next - pos).toNat < (head - pos).toNat then
          let s1 := s.dropProofs n fun h => h.target == 3
          s1.setLk n ((s1.lk n).from head)
        else s
    else s

/-- The compositor whose lookahead prepared the slug (R229). -/
def State.preparedBy (s : State) (q : Nat) (pos : BitVec 16) : Option Nat :=
  (List.range 16).find? fun n => (s.lk n).queue == some q && ((s.lk n).targetAt pos).isSome

/-- A doorbell lets a lookahead read a mismatching position again (R258). -/
def State.bellRetry (s : State) (q : Nat) : State :=
  s.discardEach fun s n => if (s.lk n).queue = some q then s.setLk n { s.lk n with retry := false } else s

/-! ### Proof reads (R259, R260) -/

/-- How a proof read's address resolves: held translations, edge buffer n and the folio cache, with nothing reordered. -/
def State.proofOut (s : State) (n c va : Nat) : Option Out :=
  let p := c / 64
  if s.bound p then some (.dev va)
  else if !s.ctxValid c || s.atsHalf c va || (s.slotOf c).isNone then none
  else
    let held := ((s.lk n).xlt.find? fun x => x.2.1.covers c va).map (·.2.1)
    let e := match held with
      | some e => some e
      | none => match s.edgeHit (64 + n) c va with
        | some e => some e
        | none => s.folioHit c va
    match e with
    | some e => if e.rd && e.spec then some (e.output va) else none
    | none => none

/-- The destination may be read in proof (R260); a host read needs a tag (R348). -/
def State.proofDest (s : State) (p : Nat) (o : Out) (len : Nat) : Bool :=
  match o with
  | .dev a => s.proofReads p a len
  | .host _ _ =>
    let k := s.link (s.linkOf p)
    s.canSend p && k.stat.up && !k.stat.l1 && s.dom (s.portDom p) == .run && s.tagRoom p 1
  | .peer _ => false

/-- The position that the next ring read looks at, before those that are out. -/
def State.ringNext (s : State) (n q : Nat) : BitVec 16 := if (s.lk n).fresh then (s.queue q).head else (s.lk n).next

/-- The slug being read ahead: its ring reads in order. -/
def Lka.ringHeld (v : Lka) : List Proof := v.held.filter fun h => h.kind == .ring && h.target == 3 && !h.dead

/-- The address a proof ring read looks at: the first position not yet asked for, before TAIL and at most 16 past HEAD (R258). -/
def State.proofRingAt (s : State) (n q : Nat) : Option Nat :=
  let v := s.lk n
  let x := s.queue q
  let out := v.ringHeld.length
  let pos := s.ringNext n q + BitVec.ofNat 16 out
  let size := ringSize x.qsize
  if v.retry || decide ((x.tail - x.head).toNat ≤ (pos - x.head).toNat) || decide (16 < (pos - x.head).toNat) ||
      (out != 0 && pos.toNat % size == 0) || decide (s.lkaCmds (q / 256) ≤ v.targets.length) then none
  else some ((bits x.qbase.toNat 56 12 * 4096 + 64 * (pos.toNat % size)) % 2 ^ 57)

/-- Where a wanted read goes, when it is not held and every condition of R260 holds. -/
def State.launchable (s : State) (n q : Nat) (w : Nat × ProofKind × Nat × Nat) : Option Out :=
  let p := q / 256
  if (s.lk n).held.any fun h => !h.dead && h.target == w.1 && h.kind == w.2.1 && h.addr == w.2.2.1 then none
  else
    (if w.2.1 = .record then some (.dev w.2.2.1) else s.proofOut n (s.cmdCtx q) w.2.2.1).filter fun o => s.proofDest p o w.2.2.2

/-- The nearest wanted read of a kind that can be issued now (R257, R259, R260). -/
def State.nextProof (s : State) (n q : Nat) (k : ProofKind) : Option (Nat × Nat × Nat × Out) :=
  ((s.wants n).filter fun w => w.2.1 == k).findSome? fun w => (s.launchable n q w).map fun o => (w.1, w.2.2.1, w.2.2.2, o)

/-- Where a proof read goes, when every condition of R257 to R262 and R269 holds: its output, and the target it is tagged with. -/
def State.proofCheck (s : State) (n q : Nat) (x : ProofRead) : Option (Out × Nat) :=
  let p := q / 256
  let a := x.addr.toNat
  if !s.lkaOn p || !s.proofRoom p then none
  else match x.kind with
    | .ring =>
      if s.proofRingAt n q = some a ∧ x.len = 64 then
        ((s.proofOut n (s.cmdCtx q) a).filter fun o => s.proofDest p o 64).map fun o => (o, 3)
      else none
    | k =>
      if 16384 ≤ (s.lk n).buffered then none
      else match s.nextProof n q k with
        | some (t, b, len, o) => if t = x.target.val ∧ b = a ∧ len = x.len then some (o, t) else none
        | none => none

/-- The read is issued: tagged, counted and taken from the budget (R262, R269, R274); a host read leaves on the partition's link. -/
def State.proofIssue (s0 : State) (n q : Nat) (x : ProofRead) (o : Out) (tag : Nat) : State :=
  let p := q / 256
  let s := s0.proofCharge p
  let id := s.nextId
  let (isB, gen) :=
    if tag = 0 then ((s.comp n).slotB, (s.comp n).gen)
    else match s.targetTable n tag with
      | some t => ((s.table t).curB, (s.table t).gen)
      | none => (false, 0)
  let h : Proof := { id := id, part := s.lkPart n, kind := x.kind, target := tag, addr := x.addr.toNat, len := x.len, out := o, num := s.trn.invLast,
                     slotB := isB, gen := gen }
  let s1 : State := { s with nextId := id + 1 }
  let v := s1.lk n
  let s2 := s1.setLk n { v with held := v.held ++ [h], asked := v.asked || x.kind == .ring,
                                next := if x.kind = .ring then s.ringNext n q else v.next
                                fresh := v.fresh && x.kind != .ring }
  let s3 : State := { s2 with lka := { s2.lka with issue := s2.lka.issue.set p (sat48 (s2.lka.issue.get 0 p) 1) } }
  match o with
  | .host a tr => s3.hostReads p a x.len id { tr := tr, pasid := if s.bound p then none else s.ctxPasid (s.cmdCtx q) }
  | _ => s3

/-- What a proof read has brought back, `none` while the directory or the host has not answered; a poisoned read is an error. -/
def State.proofData (s : State) (h : Proof) (r : Reply) : Option Reply :=
  match r with
  | .error e => some (.error e)
  | .data _ =>
    match h.out with
    | .dev a =>
      if s.inWindow a then h.nar.map fun b => .data (slice b (a % 64) h.len)
      else if s.poisoned a h.len then some (.error .poison) else some (.data (s.readMem a h.len))
    | _ => h.nar.map fun b => .data b

/-- Give a held proof read its data. -/
def State.keepData (s : State) (n id : Nat) (b : Bytes) : State :=
  let v := s.lk n
  s.setLk n { v with held := v.held.map fun h => if h.id == id then { h with data := some b } else h }

/-- The seal of a slug read ahead is checked once its data is here: it becomes a target, is passed over, is read again later, or
waits for its extensions (R258). -/
def State.proofSeal (s : State) (n q : Nat) : State :=
  let v := s.lk n
  let hs := v.ringHeld
  let b := hs.flatMap fun h => h.data.getD []
  let size := ringSize (s.queue q).qsize
  -- the phase of the lap that the position lies in
  let x := s.queue q
  let lap := decide (size ≤ x.head.toNat % size + (v.next - x.head).toNat)
  let phase := if lap then (if x.qphase = 3 then 1 else x.qphase.toNat + 1) else x.qphase.toNat
  let ext := slugExt b
  let next := v.next + BitVec.ofNat 16 (1 + ext)
  let ring (h : Proof) : Bool := h.kind == .ring && h.target == 3
  if !headSeal b phase || !extSeals b (hs.length - 1) phase then
    let s1 := s.dropProofs n ring
    s1.setLk n { s1.lk n with asked := false, retry := true }
  else if hs.length < 1 + ext then s.setLk n { v with asked := false }
  else if (slugOpcode b = 0x20 ∨ slugOpcode b = 0x21) ∧ v.targets.length < s.lkaCmds (q / 256) then
    let k := v.targets.length + 1
    s.setLk n { v with asked := false, next := next, targets := v.targets ++ [{ pos := v.next, slug := b.take (64 * (1 + ext)) }],
                       held := v.held.map fun h => if ring h then { h with target := k } else h }
  else
    let s1 := s.dropProofs n ring
    s1.setLk n { s1.lk n with asked := false, next := next }

/-! ### Meanings -/

/-- R258: the data of the ring reads that are out returns. -/
def execProofRingReadReturn (n : Fin 16) (r : Reply) (s : State) : Ans :=
  match (s.lk n.val).queue with
  | none => .next s
  | some q =>
    let hs := (s.lk n.val).ringHeld
    let got := hs.map fun h => match h.data with | some b => some (Reply.data b) | none => s.proofData h r
    if hs.isEmpty || got.any (·.isNone) then .next s
    else if got.any fun x => (match x with | some (.error _) => true | _ => false) then
      let s1 := s.dropProofs n.val fun h => h.kind == .ring && h.target == 3
      .next (s1.setLk n.val { s1.lk n.val with asked := false, retry := true })
    else
      let s1 := (hs.zip got).foldl (fun s x => match x.2 with | some (.data b) => s.keepData n.val x.1.id b | _ => s) s
      .next (s1.proofSeal n.val q)

def execProofSealRetry (n : Fin 16) (s : State) : Ans := .next (s.setLk n.val { s.lk n.val with retry := false })

def execProofReadIssue (n : Fin 16) (x : ProofRead) (s : State) : Ans :=
  match (s.lk n.val).queue with
  | none => .next s
  | some q =>
    match s.proofCheck n.val q x with
    | some (o, tag) => .next (s.proofIssue n.val q x o tag)
    | none => .next s

/-- R262, R264, R266: placed in the buffer, or dropped. -/
def execProofReadReturn (n : Fin 16) (id : Nat) (r : Reply) (s : State) : Ans :=
  match (s.lk n.val).held.find? fun h => h.id == id && h.data.isNone && h.kind != .ring with
  | none =>
    -- a ring read that was discarded in flight
    let v := s.lk n.val
    .next (s.setLk n.val { v with held := v.held.filter fun h => !(h.id == id && h.dead) })
  | some h =>
    if h.dead then
      let v := s.lk n.val
      .next (s.setLk n.val { v with held := v.held.filter fun x => x.id != id })
    else match s.proofData h r with
      | none => .next s
      | some (.error _) => .next (s.loseProof n.val id)
      | some (.data b) => .next (s.keepData n.val id b)

/-- Some read of the lookahead waits for the translation of an address: a wanted one, or the next of the ring (R259). -/
def State.proofNeeds (s : State) (n q a : Nat) : Bool :=
  let page (b : Nat) : Bool := b / 4096 == a / 4096
  (s.proofOut n (s.cmdCtx q) a).isNone &&
    ((s.proofRingAt n q).any page || (s.wants n).any fun w => w.2.1 != .record && page w.2.2.1)

/-- R261. -/
def execProofWalkStart (n : Fin 16) (w : Fin 48) (va : BitVec 57) (s_ : State) : Ans :=
  inUnit 2 0 s_ fun s =>
  match (s.lk n.val).queue with
  | none => .next s
  | some q =>
    let p := q / 256
    let c := s.cmdCtx q
    let a := va.toNat
    let mine := (s.trn.walks.filter fun x => x.proof == some n.val).length
    let all := (s.trn.walks.filter fun x => x.proof.isSome).length
    if s.lkaOn p && bit (s.lkaCtl p) 12 && !s.bound p && s.ctxValid c && !s.atsHalf c a && (s.slotOf c).isSome &&
        (s.walk? w.val).isNone && !(s.reqs.any fun r => r.st == .missWait) && decide (s.allWalksOf p < s.quotaWalk p) &&
        decide (all < s.lkaPwmax) && decide (mine < 8) && !(s.trn.walks.any fun x => x.ctx == c && x.va / 4096 == a / 4096) &&
        s.dom 3 == .run && s.unitIn 3 w.val && s.proofNeeds n.val q a then
      let v := s.newWalk w.val p c a (some n.val)
      let s1 := (s.startWalk v).walkSend v
      .next { s1 with lka := { s1.lka with walks := s1.lka.walks.set p (sat48 (s1.lka.walks.get 0 p) 1) } }
    else .next s

/-- Results beyond the new reach of a partition's lookaheads, lowered from what it was in `old`: of targets past CMDS, and of lookups past
IDX (R266, code 0x9). -/
def State.trimReach (s0 : State) (old : State) (p : Nat) : State :=
  s0.discardEach fun s n =>
    if (s.lk n).queue.isNone || s.lkPart n != p then s
    else
      let cmds := s.lkaCmds p
      let ts := (s.lk n).targets
      let ws := s.wants n
      let was := old.wants n
      let same (h : Proof) (w : Nat × ProofKind × Nat × Nat) : Bool := w.1 == h.target && w.2.1 == h.kind && w.2.2.1 == h.addr
      let kept (h : Proof) : Bool :=
        if h.kind = .ring then (if h.target = 3 then decide (0 < cmds) else decide (h.target ≤ cmds))
        else decide (h.target ≤ cmds) && (!was.any (same h) || ws.any (same h))
      let serves (e : XEntry) : Bool := (ws.any fun w => e.covers e.ctx w.2.2.1) ||
        (s.lk n).held.any fun h => h.kind == .ring && e.covers e.ctx h.addr
      let s1 := s.discard n (fun h => !kept h) (fun x => !serves x.2.1) 9
      match ts[cmds]? with
      | some t => s1.setLk n ({ s1.lk n with targets := ts.take cmds }.from t.pos)
      | none => s1

/-- Every lookahead of a partition stops, and what it holds is discarded (R256, R266 code 0x9, R270). -/
def State.stopLookahead (s : State) (p : Nat) : State :=
  s.discardEach fun s n => if (s.lk n).queue.isSome && s.lkPart n == p then s.discardAll n 9 else s

/-- R271: only partition 0 writes it. -/
def execLkaGctlWrite (w : Who) (v : W32) (s_ : State) : Ans :=
  delivered (.lkaGctlWrite w v) s_ fun t_ =>
  heard w t_ fun s =>
  if isMgr w then
    let s1 : State := { s with lka := { s.lka with gctl := v &&& 0x8000003F } }
    .next (if bit v.toNat 31 then s1 else (List.range 16).foldl State.stopLookahead s1)
  else .next s

/-- R272: from partition 0, its own copy. -/
def execLkaCtlWrite (w : Who) (v : W32) (s_ : State) : Ans :=
  delivered (.lkaCtlWrite w v) s_ fun t_ =>
  heard w t_ fun s =>
  let p := whoPart w
  let s1 : State := { s with lka := { s.lka with ctl := s.lka.ctl.set p (v &&& 0x8000331F) } }
  .next (if !bit v.toNat 31 then s1.stopLookahead p
    else if s1.lkaIdx p < s.lkaIdx p ∨ s1.lkaCmds p < s.lkaCmds p then s1.trimReach s p else s1)

end Sys2Proof.Machine
end

