-- ==== Sys2Proof/Machine/Galley.lean ====
section
/-! DEFINITION. Galley (chapter 3): doorbells, residency, the seal-fetch machine, commitment conditions, queue controls, and the
end of commands with their flushing reads and completion records. -/

namespace Sys2Proof.Machine

open Sys2Proof

/-- Galley's own work: while the unit is in service and the Control domain runs. -/
def galley (s : State) (k : State → Ans) : Ans := inUnit 1 0 s fun t => gated 0 t k

/-! ### Residency (R75 to R77, R399) -/

/-- QA.SLOTS of a partition (R398). -/
def State.quotaSlots (s : State) (p : Nat) : Nat := min 256 (bits (s.prt.qa.get 0 p).toNat 40 32)

/-- Resident queues, of a partition and of the device. -/
def State.residents (s : State) (p : Nat) : Nat := (s.gal.queues.filter fun t => t.1 / 256 == p && t.2.st == .resident).length
def State.slotsUsed (s : State) : Nat := (s.gal.queues.filter fun t => t.2.st == .resident).length

/-- READY queues of a partition. -/
def State.readyOf (s : State) (p : Nat) : List (Nat × Queue) := s.gal.queues.filter fun t => t.1 / 256 == p && t.2.st == .ready

/-- The partition is below its slot quota and has a READY queue. -/
def State.slotDue (s : State) (p : Nat) : Bool := !(s.readyOf p).isEmpty && decide (s.residents p < s.quotaSlots p)

/-- Effective priority. -/
def Queue.eff (v : Queue) : Nat := min (v.prio.toNat + v.age) 15

/-- The READY queue that a grant takes: the highest E, and among equals the one READY longest. -/
def State.grantChoice (s : State) (p : Nat) : Option Nat :=
  match maxBy (fun t => t.2.eff) (s.readyOf p) with
  | none => none
  | some best => (minBy (fun t => t.2.since) ((s.readyOf p).filter fun t => t.2.eff == best.2.eff)).map (·.1)

/-- A slot is granted to a queue; the partition's other READY queues age. -/
def State.grantSlot (s : State) (q : Nat) : State :=
  let p := q / 256
  let aged := s.gal.queues.map fun t =>
    if t.1 ≠ q ∧ t.1 / 256 = p ∧ t.2.st = .ready then (t.1, { t.2 with age := min 15 (t.2.age + 1) }) else t
  let s1 : State := { s with gal := { s.gal with queues := aged, rr := (p + 1) % 16 } }
  (s1.modQueue q fun v => { v with st := .resident, fetch := {} }).metric 2 (s.now - (s.queue q).readyAt) p 0x108 q 0

/-! ### Commitment conditions (R72, R73) -/

/-- The opcodes that are defined (R65). -/
def opDefined (op : Nat) : Bool :=
  [0x00, 0x01, 0x10, 0x11, 0x20, 0x21, 0x22, 0x30, 0x31, 0x32, 0x40, 0x41, 0x42, 0x50].contains op

/-- R73: the slug names a tally that the queue's partition does not own. -/
def State.foreignTally (s : State) (q : Nat) (b : Bytes) : Bool :=
  (slugWaitt b && (s.tally (slugWtally b)).owner != some (q / 256)) || (slugCt b && (s.tally (slugCtally b)).owner != some (q / 256))

/-- QA.PLEAT and QA.CMP of a partition. -/
def State.quotaPleat (s : State) (p : Nat) : Nat := min 64 (bits (s.prt.qa.get 0 p).toNat 22 16)
def State.quotaCmp (s : State) (p : Nat) : Nat := min 16 (bits (s.prt.qa.get 0 p).toNat 4 0)

/-- The command runs on a pleat engine. -/
def Cmd.onPleat (c : Cmd) : Bool := c.st == .running && decide (0x110 ≤ c.src) && decide (c.src < 0x150)
/-- The command runs on a compositor. -/
def Cmd.onComp (c : Cmd) : Bool := c.st == .running && decide (0x150 ≤ c.src) && decide (c.src < 0x160)

/-- Engines that hold, or are promised to, a command of the partition, trace drains included (R188, R468). -/
def State.pleatUse (s : State) (p : Nat) : Nat :=
  (s.gal.cmds.filter fun c => c.part == p && (c.st == .needEngine || c.onPleat)).length +
    (s.plt.eng.filter fun t => t.2.drain.isSome && t.2.part == p).length

def State.compUse (s : State) (p : Nat) : Nat := (s.gal.cmds.filter fun c => c.part == p && c.onComp).length

/-- IDLE engines of the pool. -/
def State.idleEngs (s : State) : List Nat := below 64 fun e => (s.eng e).st == .idle && s.plt.pool.getLsbD e
def State.idleComps (s : State) : List Nat := below 16 fun n => (s.comp n).st == .idle && s.cmp.pool.getLsbD n

/-- The checks that a MOVE or PUT meets at commitment. -/
def engineCheck (b : Bytes) : Option Nat := if slugOpcode b = 0x11 then putCheck b else moveCheck b

/-- The slug needs a pleat engine (R188). -/
def wantsPleat (b : Bytes) : Bool :=
  (slugOpcode b == 0x10 || slugOpcode b == 0x11) && (engineCheck b).isNone && (dstShape b).bytes != 0

/-- The slug needs a compositor (R229, R231, R234). -/
def State.wantsComp (s : State) (q : Nat) (b : Bytes) : Bool :=
  (slugOpcode b == 0x20 || slugOpcode b == 0x21) &&
    (gatherCheck b (s.table (512 * (q / 256) + gTable b)).valid).isNone && gNbag b != 0

/-- IDLE units of a kind (`true`: compositors) that no command has been promised. -/
def State.freeUnits (s : State) (comp : Bool) : Nat :=
  if comp then s.idleComps.length else s.idleEngs.length - (s.gal.cmds.filter fun c => c.st == .needEngine).length

/-- The partition's use of a kind of unit is below its quota (R398). -/
def State.belowShare (s : State) (comp : Bool) (p : Nat) : Bool :=
  if comp then decide (s.compUse p < s.quotaCmp p) else decide (s.pleatUse p < s.quotaPleat p)

/-- A partition below its quota has a queue that waits for a unit of the kind. -/
def State.unitWait (s : State) (comp : Bool) (p : Nat) : Bool :=
  s.belowShare comp p && s.gal.queues.any fun t => t.1 / 256 == p && t.2.st == .waiting && t.2.wait == 6 &&
    (if comp then s.wantsComp t.1 t.2.fetch.slug else wantsPleat t.2.fetch.slug)

/-- A unit can be given to a command of the partition: the partitions that wait and come before it in round-robin order leave one
(R188, R229, R399). -/
def State.unitFree (s : State) (comp : Bool) (p : Nat) : Bool :=
  let first := if comp then s.gal.rrComp else s.gal.rrPleat
  let ahead := (((List.range 16).map fun i => (first + i) % 16).takeWhile fun k => k != p).filter (s.unitWait comp)
  s.belowShare comp p && decide (ahead.length < s.freeUnits comp)

/-- After the partition has got a unit, the next is offered to the partition that follows. -/
def State.tookUnit (s : State) (comp : Bool) (p : Nat) : State :=
  let n := (p + 1) % 16
  { s with gal := if comp then { s.gal with rrComp := n } else { s.gal with rrPleat := n } }

/-- The condition with a WAIT reason is not met. -/
def State.condUnmet (s : State) (q : Nat) (b : Bytes) (reason : Nat) : Bool :=
  let v := s.queue q
  let n := (s.inFlight q).length
  match reason with
  | 1 => slugWaitt b && !s.foreignTally q b && !(s.tally (slugWtally b)).reached
  | 2 => (slugFence b || slugOpcode b == 1) && n != 0
  | 3 => decide (16 ≤ n)
  | 4 => decide (ringSize v.csize ≤ (v.ctail - v.chead).toNat + n)
  | 6 => (wantsPleat b && !s.unitFree false (q / 256)) || (s.wantsComp q b && !s.unitFree true (q / 256))
  | _ => false

/-- The WAIT reason of the first condition of R72 that is not met. -/
def State.unmet (s : State) (q : Nat) (b : Bytes) : Option Nat := [1, 2, 3, 4, 6].find? (s.condUnmet q b)

/-! ### Commitment -/

/-- The accepted slug commits: HEAD passes it, and its command is in flight (R57, R71, R73). -/
def State.commitSlug (s : State) (q : Nat) (st : CmdSt) (src : Nat) (noTally : Bool) : State :=
  let v := s.queue q
  let b := v.fetch.slug
  let n := 1 + slugExt b
  let size := ringSize v.qsize
  let head := v.head + BitVec.ofNat 16 n
  let c : Cmd :=
    { queue := q, pos := v.head, part := q / 256, slug := b, st := st, began := s.obs.time, src := src, noTally := noTally }
  let s1 := s.setQueue q
    { v with head := head, fetch := {}, st := if head = v.tail then .idle else v.st,
             qphase := if size ≤ v.head.toNat % size + n then nextPhase v.qphase else v.qphase }
  { s1 with gal := { s1.gal with cmds := s1.gal.cmds ++ [c] } }

/-- A slug commits and its command takes no compositor; it runs with nothing to wait for yet. -/
def State.commitAlone (s : State) (q : Nat) (st : CmdSt) (src code : Nat) : State :=
  let pos := (s.queue q).head
  let s1 := s.commitSlug q st src false
  s1.lkaPassed q pos (s1.queue q).head code

/-- A slug commits and its command ends at commitment. -/
def State.commitEnd (s : State) (q status : Nat) : State :=
  let v := s.queue q
  let op := slugOpcode v.fetch.slug
  let s1 := s.commitSlug q .running 0x1FF (s.foreignTally q v.fetch.slug)
  (s1.lkaPassed q v.head (s1.queue q).head (if op = 0x20 ∨ op = 0x21 then 7 else 5)).endCmd q v.head status 0 0 [] 0

/-- An accepted slug that needs no step of its own: one whose opcode is not defined (R65), or that R73 ends. A slug whose
condition is unmet waits. While HALT is 1 no slug commits (R448). DESIGN CHOICE: a foreign tally comes before an undefined opcode, and the
status is 0x03. -/
def State.settleAccepted (s : State) (q : Nat) : State :=
  let v := s.queue q
  let b := v.fetch.slug
  if v.st ≠ .resident ∨ v.fetch.st ≠ .accepted ∨ s.err.halt = true then s
  else match s.unmet q b with
    | some k => s.makeWait q (BitVec.ofNat 4 k)
    | none =>
      if s.foreignTally q b then s.commitEnd q 3
      else if opDefined (slugOpcode b) then s
      else s.commitEnd q 2

/-- Commitment of the accepted slug at the head of a queue, when it has the opcode `op`. -/
def atCommit (q op : Nat) (s0 : State) (k : State → Bytes → State) : Ans :=
  galley s0 fun s =>
    let v := s.queue q
    let b := v.fetch.slug
    if v.st ≠ .resident ∨ v.fetch.st ≠ .accepted ∨ slugOpcode b ≠ op ∨ s.err.halt = true then .next s
    else match s.unmet q b with
      | some r => .next (s.makeWait q (BitVec.ofNat 4 r))
      | none => .next (if s.foreignTally q b then s.commitEnd q 3 else k s b)

/-! ### Fetch (R66 to R71) -/

/-- Positions that a read from HEAD covers. -/
def Queue.span (v : Queue) : Nat :=
  min 8 (min (v.tail - v.head).toNat (ringSize v.qsize - v.head.toNat % ringSize v.qsize))

/-- The ring address of HEAD. -/
def Queue.headAddr (v : Queue) : Nat := (bits v.qbase.toNat 56 12 * 4096 + 64 * (v.head.toNat % ringSize v.qsize)) % 2 ^ 57

/-- A ring read of the positions from HEAD. -/
def State.ringRead (s : State) (q n : Nat) (o : Owner) : State :=
  s.addReads o 0x108 (q / 256) (s.cmdCtx q) (s.queue q).headAddr (64 * n) .ringRead

/-- The head slug's own seal, with 0 in the entries of extensions it does not have. -/
def headOk (b : Bytes) (phase : Nat) : Bool := headSeal b phase && extSeals b 0 phase

/-- What ring data is worth (R66, R67). -/
inductive Seal where
  | accept
  | bad
  | pastEnd                               -- the ring ends before the last extension
  | beyond                                -- the extensions lie beyond TAIL
  | again                                 -- TAIL has moved on to cover them (DESIGN CHOICE: they are read again, uncounted)
  deriving DecidableEq, Repr

def State.sealOf (s : State) (q : Nat) (b : Bytes) : Seal :=
  let v := s.queue q
  let phase := v.qphase.toNat
  let here := b.length / 64 - 1
  let ext := slugExt b
  if !headOk b phase then .bad
  else if here < ext then
    (if ringSize v.qsize < v.head.toNat % ringSize v.qsize + 1 + ext then .pastEnd
     else if (v.tail - v.head).toNat < 1 + ext then .beyond
     else .again)
  else if extSeals b here phase then .accept
  else .bad

/-- A slug whose data has come back, other than a mismatch. -/
def State.takeSlug (s : State) (q : Nat) (b : Bytes) (k : Seal) : State :=
  let s1 := s.dropFetch q
  match k with
  | .accept =>
    (s1.modQueue q fun v =>
      { v with rereads := 0, fetch := { st := .accepted, slug := b.take (64 * (1 + slugExt b)) } }).settleAccepted q
  | .pastEnd => s1.haltQueue q 4
  | .beyond => s1.modQueue q fun v => { v with st := .idle }
  | _ => s1

/-! ### Commands ending (R85) -/

/-- Steps 4 and 5 of R85, when the command leaves. -/
def State.finishCmd (s : State) (c : Cmd) : State :=
  let s1 := s.dropCmd c.queue c.pos
  let s2 := if slugCt c.slug && !c.noTally then s1.tallyAdd (slugCtally c.slug) (slugCtinc c.slug) else s1
  let isrc := (s.queue c.queue).isrc.toNat
  let s3 := if slugIrq c.slug && isrc != 0 then s2.raise isrc else s2
  s3.pumpRecords c.queue

/-- Step 3 of R85: the record, when one is written and its turn has come. -/
def State.recordStep (s : State) (c : Cmd) : State :=
  if c.needsRecord then (s.setCmd { c with st := .recordDue, ftag := none }).pumpRecords c.queue else s.finishCmd c

/-- Step 2 of R85: the flushing read of R52. One that cannot be sent fails (R53, R352); one without a tag waits for it (R348). -/
def State.flushStep (s : State) (c : Cmd) : State :=
  match c.hostLast with
  | none => s.recordStep c
  | some (a, at_) =>
    if s.canSend c.part then
      let id := s.nextId
      if !s.tagRoom c.part 1 then s
      else ((({ s with nextId := id + 1 } : State).setCmd { c with st := .flushing, ftag := some id }).chargeTo c.part 1).flushRead
        c.part a id at_
    else ((s.haltQueue c.queue 8).dropCmd c.queue c.pos).pumpRecords c.queue

/-- The flushing read of a command has completed, or has failed (R53, R82). -/
def State.flushEnds (s : State) (c : Cmd) (ok : Bool) : State :=
  if c.aborted then (s.dropCmd c.queue c.pos).pumpRecords c.queue
  else if ok then s.recordStep c
  else ((s.haltQueue c.queue 8).dropCmd c.queue c.pos).pumpRecords c.queue

/-- A WCOMMIT's commit has taken effect, and with WAITDRAIN its window has drained (R301). -/
def State.windowDone (s : State) (c : Cmd) : Bool :=
  match c.window with
  | none => false
  | some n => c.st == .running && (s.win n).pend.isNone && (!bit (numAt c.slug 14 1) 0 || (s.win n).drain == 0)

/-! ### Aborting (R82) -/

/-- The requests of a command that takes no engine. -/
def Owner.alone (q : Nat) (pos : BitVec 16) : Owner → Bool
  | .swRecord k x => k == q && x == pos
  | .swList k x => k == q && x == pos
  | .tadd k x => k == q && x == pos
  | .record k x => k == q && x == pos
  | _ => false

/-- A command is aborted: one with nothing issued leaves at once. -/
def State.abortCmd (s : State) (c : Cmd) : State :=
  let gone := s.dropCmd c.queue c.pos
  let stay := s.setCmd { c with aborted := true }
  let own := Owner.alone c.queue c.pos
  if c.onPleat then stay.pleatKill (c.src - 0x110)
  else if c.onComp then stay.compKill (c.src - 0x150)
  else match c.st with
    | .needEngine => gone
    | .ended => gone
    | .recordDue => gone
    | .flushing => stay
    | _ =>
      if s.epo.flips.any fun f => f.queue == c.queue && f.pos == c.pos then stay
      else if s.reqs.any fun r => own r.owner && !r.st.unissued then stay.withdrawReqs fun r => own r.owner && r.st.unissued
      else (s.withdrawReqs fun r => own r.owner).dropCmd c.queue c.pos

/-- RESET of a queue: fetching stops, and its commands are aborted (R81, R82). -/
def State.resetQueue (s : State) (q : Nat) : State :=
  let v := s.queue q
  let zero (v : Queue) : Queue :=
    { v with head := 0, tail := 0, ctail := 0, chead := 0, rereads := 0, qphase := 1, cphase := 1, bellAt := none }
  match v.st with
  | .disabled => s.setQueue q (zero v)
  | .resetting => s
  | _ =>
    let s1 := ((s.dropFetch q).modQueue q fun v => { v with st := .resetting, wait := 0, bellAt := none }).discardQueue q 6
    (s1.inFlight q).foldl (fun s c =>
      match s.cmd? q c.pos with
      | some d => s.abortCmd d
      | none => s) s1

/-! ### Registers' queue -/

/-- The queue that an access's window selects (R88); `none` where it names a partition that is not present. -/
def State.selQueue (s : State) (w : Who) : Option Nat :=
  let p := whoPart w
  let k := if p = 0 then (s.gal.selPart.get 0 0).toNat else p
  if s.present k then some (256 * k + (s.gal.selQ.get 0 p).toNat) else none

/-- A control write for the selected queue (R91). -/
def onQueue (c : Instr) (w : Who) (s0 : State) (k : State → Nat → State) : Ans :=
  delivered c s0 fun s1 => heard w s1 fun s =>
    match s.selQueue w with
    | none => .next s
    | some q => .next (k s q)

/-! ### Meanings: doorbells and residency -/

def execDoorbellWrite (w : Who) (q : Fin 4096) (inc : Bool) (value : BitVec 16) (s_ : State) : Ans :=
  delivered (.doorbellWrite w q inc value) s_ fun t_ =>
  heard w t_ fun s =>
  if whoPart w ≠ q.val / 256 then .next s.isolation
  else
    let v := s.queue q.val
    let t := if inc then v.tail + value else value
    if v.st = .disabled ∨ v.st = .draining ∨ v.st = .resetting ∨ t = v.tail then .next s
    else if ringSize v.qsize < (t - v.head).toNat then .next (s.haltQueue q.val 2)
    else if (t - v.head).toNat < (v.tail - v.head).toNat then .next (s.haltQueue q.val 3)
    else
      let bell := if v.st = .halted then none else some (v.bellAt.getD s.now)
      let s1 := s.setQueue q.val { v with tail := t, bellAt := bell }
      .next ((if v.st = .idle then s1.makeReady q.val else s1).bellRetry q.val)

def execCheadWrite (w : Who) (q : Fin 4096) (value : BitVec 16) (s_ : State) : Ans :=
  delivered (.cheadWrite w q value) s_ fun t_ =>
  heard w t_ fun s =>
  if whoPart w ≠ q.val / 256 then .next s.isolation
  else
    let v := s.queue q.val
    .next (if ringSize v.csize < (v.ctail - value).toNat then s else s.setQueue q.val { v with chead := value })

def execSlotGrant (s0 : State) : Ans :=
  galley s0 fun s =>
    if 256 ≤ s.slotsUsed then .next s
    else match roundRobin 16 s.gal.rr s.slotDue with
      | none => .next s
      | some p =>
        match s.grantChoice p with
        | none => .next s
        | some q => .next (s.grantSlot q)

def execSlugFetch (q : Fin 4096) (s0 : State) : Ans :=
  galley s0 fun s =>
    let v := s.queue q.val
    if v.st = .resident ∧ v.fetch.st = .quiet ∧ v.head ≠ v.tail then
      .next ((s.setQueue q.val { v with fetch := { st := .reading, n := v.span } }).ringRead q.val v.span (.ring q.val))
    else .next s

def execRingReadReturn (q : Fin 4096) (r : Reply) (s0 : State) : Ans :=
  galley s0 fun s =>
    let v := s.queue q.val
    let rs := s.reqsOf (· == .ring q.val)
    if v.fetch.st ≠ .reading ∨ rs.isEmpty = true then .next s
    else match s.takeReads rs r with
      | none => .next s
      | some (.error _, s1) => .next (s1.haltQueue q.val 6)
      | some (.data b, s1) =>
        match s1.sealOf q.val b with
        | .bad =>
          if v.rereads = 64 then .next (s1.haltQueue q.val 1)
          else .next (s1.setQueue q.val { v with fetch := { v.fetch with st := .rereading } })
        | k => .next (s1.takeSlug q.val b k)

def execSealReread (q : Fin 4096) (s0 : State) : Ans :=
  galley s0 fun s =>
    let v := s.queue q.val
    if v.st = .resident ∧ v.fetch.st = .rereading ∧ v.rereads.toNat < 64 then
      let k := v.rereads.toNat + 1
      .next ((s.setQueue q.val { v with rereads := BitVec.ofNat 7 k, fetch := { v.fetch with out := v.fetch.out ++ [k] } }).ringRead
        q.val v.fetch.n (.reread q.val k))
    else .next s

def execRereadReturn (q : Fin 4096) (k : Fin 65) (r : Reply) (s0 : State) : Ans :=
  galley s0 fun s =>
    let v := s.queue q.val
    let rs := s.reqsOf (· == .reread q.val k.val)
    if v.fetch.st ≠ .rereading ∨ rs.isEmpty = true then .next s
    else match s.takeReads rs r with
      | none => .next s
      | some (.error _, s1) => .next ((s1.modQueue q.val fun v => { v with rereads := v.rereads - 1 }).haltQueue q.val 6)
      | some (.data b, s1) =>
        match s1.sealOf q.val b with
        | .bad =>
          if k.val = 64 then .next (s1.haltQueue q.val 1)
          else .next (s1.setQueue q.val { v with fetch := { v.fetch with out := v.fetch.out.erase k.val } })
        | d => .next (s1.takeSlug q.val b d)

/-- R72: reasons 1 to 4 and 6; a fault's wait (5) ends with its service (R69). -/
def execWaitConditionCleared (q : Fin 4096) (s0 : State) : Ans :=
  galley s0 fun s =>
    let v := s.queue q.val
    if v.st = .waiting ∧ v.wait ≠ 5 ∧ s.condUnmet q.val v.fetch.slug v.wait.toNat = false then
      .next ((s.makeReady q.val).modQueue q.val fun v => { v with fetch := {} })
    else .next s

/-- R77, R399. -/
def execSliceEnd (q : Fin 4096) (s0 : State) : Ans :=
  galley s0 fun s =>
    let p := q.val / 256
    let full := decide (256 ≤ s.slotsUsed)
    let leave := !(s.readyOf p).isEmpty || (full && (below 16 fun k => k != p && s.slotDue k) != [])
    if (s.queue q.val).st = .resident ∧ leave = true then .next ((s.dropFetch q.val).readyOrIdle q.val) else .next s

/-! ### Meanings: queue controls (R81) -/

/-- The configuration is valid at ENABLE (R90). -/
def State.configOk (s : State) (q : Nat) : Bool :=
  let v := s.queue q
  let p := q / 256
  decide (v.qsize.toNat ≤ 9) && decide (v.csize.toNat ≤ 9) && (v.isrc == 0 || s.srcOwner v.isrc.toNat == some p) &&
    (s.bound p || s.ctxValid (s.cmdCtx q))

def execQctlEnable (w : Who) (s0 : State) : Ans :=
  onQueue (.qctlEnable w) w s0 fun s q =>
    let v := s.queue q
    if v.st ≠ .disabled then s
    else if s.configOk q then (s.setQueue q { v with err := 0 }).readyOrIdle q
    else s.setQueue q { v with err := 9 }

def execQctlDisable (w : Who) (s0 : State) : Ans :=
  onQueue (.qctlDisable w) w s0 fun s q =>
    let v := s.queue q
    if v.st = .disabled ∨ v.st = .resetting ∨ v.st = .draining then s
    else ((s.dropFetch q).modQueue q fun v => { v with st := .draining, wait := 0, bellAt := none }).discardQueue q 6

def execQctlResume (w : Who) (s0 : State) : Ans :=
  onQueue (.qctlResume w) w s0 fun s q =>
    let v := s.queue q
    if v.st = .halted then (s.setQueue q { v with err := 0, rereads := 0 }).readyOrIdle q else s

def execQctlReset (w : Who) (s0 : State) : Ans := onQueue (.qctlReset w) w s0 fun s q => s.resetQueue q

def execQueueDrained (q : Fin 4096) (s0 : State) : Ans :=
  galley s0 fun s =>
    if (s.queue q.val).st = .draining ∧ (s.inFlight q.val).isEmpty = true then
      .next (s.modQueue q.val fun v => { v with st := .disabled })
    else .next s

def execQueueResetDone (q : Fin 4096) (s0 : State) : Ans :=
  galley s0 fun s =>
    if (s.queue q.val).st = .resetting ∧ (s.inFlight q.val).isEmpty = true then
      .next ((s.modQueue q.val fun v => { v with st := .disabled }).resetQueue q.val)
    else .next s

/-! ### Meanings: the end of a command -/

def execCommandEnd (q : Fin 4096) (pos : BitVec 16) (s0 : State) : Ans :=
  galley s0 fun s =>
    let s1 := match s.cmd? q.val pos with
      | some c => if s.windowDone c then s.endCmd q.val pos 0 0 0 [] 0 else s
      | none => s
    match s1.cmd? q.val pos with
    | none => .next s1
    | some c =>
      match c.st with
      | .ended => .next (s1.flushStep c)
      | .recordDue => .next (s1.pumpRecords q.val)
      | _ => .next s1

def execFlushingReadComplete (q : Fin 4096) (pos : BitVec 16) (ok : Bool) (s0 : State) : Ans :=
  galley s0 fun s =>
    match s.cmd? q.val pos with
    | none => .next s
    | some c => if c.st = .flushing then inPort c.part s fun s => .next (s.flushEnds c ok) else .next s

def execRecordWriteResponse (q : Fin 4096) (pos : BitVec 16) (r : WReply) (s0 : State) : Ans :=
  galley s0 fun s =>
    match s.cmd? q.val pos, s.reqs.find? (fun x => x.owner == .record q.val pos) with
    | some c, some x =>
      match s.writeBack x r with
      | none => .next s
      | some (y, s1) =>
        let s2 := s1.dropReq x.id
        if c.aborted then .next (s2.dropCmd q.val pos)
        else match y with
          | .error _ => .next (s2.recordFails q.val pos)
          | .done =>
            let v := s2.queue q.val
            let size := ringSize v.csize
            let s3 := s2.setQueue q.val
              { v with ctail := v.ctail + 1, cphase := if v.ctail.toNat % size + 1 = size then nextPhase v.cphase else v.cphase }
            .next (s3.finishCmd c)
    | _, _ => .next s

end Sys2Proof.Machine
end

