-- ==== Sys2Proof/Machine/Commands.lean ====
section
/-! DEFINITION. The commands' commitment, opcode by opcode (R65): what each does at its commitment, and the tables, engines, windows
and tallies it takes. -/

namespace Sys2Proof.Machine

open Sys2Proof

/-! ### Compositor commands (R160, R212, R217, R229, R231) -/

/-- The compositor a GATHER or SCATTER takes (R229). -/
def State.chooseComp (s : State) (q : Nat) : Option Nat :=
  let idle := s.idleComps
  match (s.preparedBy q (s.queue q).head).filter fun n => idle.contains n with
  | some n => some n
  | none =>
    match idle.find? fun n => s.dom (8 + n) == .run with
    | some n => some n
    | none => idle.head?

/-- Ask for the epoch record of a compositor's command: from proof results that cover it, at once or as they come, or by a read (R205,
R265). -/
def State.askRecord (s : State) (n : Nat) : State :=
  let v := s.comp n
  let a := ((s.table v.table).slot v.slotB).addr
  let r : Req := { id := s.nextId, owner := .cmpRecord n, src := BitVec.ofNat 9 (0x150 + n), part := v.part, ctx := 0, va := a, len := 128,
                   acc := .read, data := [], en := [], st := .held, replay := none, phys := true }
  ({ s with nextId := s.nextId + 1, reqs := s.reqs ++ [r] } : State).lookupHeld r

/-- A command takes compositor `n` and pins the current slot of its table (R160, R229). -/
def State.startComp (s : State) (q n : Nat) (b : Bytes) : State :=
  let p := q / 256
  let pos := (s.queue q).head
  let t := 512 * p + gTable b
  let tb := s.table t
  let k := tb.slot tb.curB
  let s1 := ((s.commitSlug q .running (0x150 + n) false).setTable t (tb.setSlot tb.curB { k with pins := k.pins + 1 })).setComp n
    { s.newComp q b with pos := pos }
  let s2 := (s1.lkaCommitted q n pos b (s1.queue q).head).tookUnit true p
  let s3 := s2.addTrace p (traceBytes s.now 1 (slugOpcode b) 0 p (0x150 + n) q (slugTag b) 0) false
  if s3.dom (8 + n) = .run then s3.askRecord n else s3.wake (8 + n)

/-- Commitment of a GATHER or SCATTER. One whose table waits for a flip is held (R161); one without bags, or that fails a check,
takes no compositor (R231, R234). -/
def State.commitGather (s : State) (q : Nat) (b : Bytes) : State :=
  let t := 512 * (q / 256) + gTable b
  if gTable b ≤ 511 ∧ s.flipPending t = true then s
  else match gatherCheck b (s.table t).valid with
    | some st => s.commitEnd q st
    | none =>
      if gNbag b = 0 then s.commitEnd q 0
      else match s.chooseComp q with
        | some n => s.startComp q n b
        | none => s.makeWait q 6

/-! ### Pleat commands (R182, R184, R188) -/

/-- Commitment of a MOVE or PUT: an empty destination takes no engine. -/
def State.commitMove (s : State) (q : Nat) (b : Bytes) : State :=
  match engineCheck b with
  | some st => s.commitEnd q st
  | none => if (dstShape b).bytes = 0 then s.commitEnd q 0 else (s.commitAlone q .needEngine 0x1FF 5).tookUnit false (q / 256)

/-! ### Epoch commands (R161, R162, R166) -/

def State.commitStage (s : State) (q : Nat) (b : Bytes) : State :=
  let k := numAt b 12 2
  let t := 512 * (q / 256) + k
  if 511 < k then s.commitEnd q 3
  else if s.flipPending t then s
  else
    let tb := s.table t
    let st := (tb.slot tb.idleB).st
    if st = .draining ∨ st = .purging then s.commitEnd q 0x13
    else
      let v := numAt b 16 8
      (s.commitEnd q 0).stageSlot t tb.idleB (bit v 63) (bits v 51 6 * 64)

/-- The local table numbers that a SWAP names, as far as its extensions reach. -/
def swapTables (b : Bytes) : List Nat :=
  let n := min (numAt b 12 2) (32 * slugExt b)
  (List.range n).map fun i => numAt (slugPayload b) (2 * i) 2

/-- Why a SWAP flips nothing (R162). -/
def State.swapCheck (s : State) (p : Nat) (b : Bytes) : Option Nat :=
  let ts := swapTables b
  if slugExt b < divUp (numAt b 12 2) 32 ∨ ts.any (fun t => decide (511 < t)) = true then some 3
  else if ts.eraseDups.length ≠ ts.length then some 0x11
  else if ts.any (fun t => let x := s.table (512 * p + t); (x.slot x.idleB).st != .staged) then some 0x10
  else none

/-- The flips of a committed SWAP or RETIRE are pending (R161). -/
def State.addFlip (s : State) (q : Nat) (ts : List Nat) (retire waitrel : Bool) : State :=
  let pos := (s.queue q).head
  let s1 := s.commitAlone q .running 0x1FF 5
  let f : Flip := { queue := q, pos := pos, part := q / 256, tables := ts, retire := retire, waitrel := waitrel }
  { s1 with epo := { s1.epo with flips := s1.epo.flips ++ [f] } }

def State.commitSwap (s : State) (q : Nat) (b : Bytes) : State :=
  let p := q / 256
  let ts := (swapTables b).map (512 * p + ·)
  if (swapTables b).any fun t => decide (t ≤ 511) && s.flipPending (512 * p + t) then s
  else match s.swapCheck p b with
    | some st => s.commitEnd q st
    | none => if ts.isEmpty then s.commitEnd q 0 else s.addFlip q ts false (bit (numAt b 14 1) 0)

def State.commitRetire (s : State) (q : Nat) (b : Bytes) : State :=
  let k := numAt b 12 2
  let t := 512 * (q / 256) + k
  if 511 < k then s.commitEnd q 3
  else if s.flipPending t then s
  else if !(s.table t).valid then s.commitEnd q 0x12
  else s.addFlip q [t] true (bit (numAt b 14 1) 0)

/-! ### SWATCH (R223) -/

/-- The slot that a SWATCH names. -/
def swSlotB (b : Bytes) : Bool := bit (numAt b 14 1) 0

def State.commitSwatch (s : State) (q : Nat) (b : Bytes) : State :=
  let k := numAt b 12 2
  let t := 512 * (q / 256) + k
  let pos := (s.queue q).head
  if 511 < k then s.commitEnd q 3
  else if s.flipPending t then s
  else
    let x := (s.table t).slot (swSlotB b)
    if x.st ≠ .staged then s.commitEnd q 0x2C
    else (s.commitAlone q .running 0x1FF 5).issuePhys (.swRecord q pos) 0x108 (q / 256) x.addr 128 .read

/-! ### Tally and window commands (R301, R302) -/

def State.commitTset (s : State) (q : Nat) (b : Bytes) : State :=
  let t := numAt b 12 2
  let v := s.tally t
  if v.owner ≠ some (q / 256) then s.commitEnd q 3
  else
    let setc := bit (numAt b 14 1) 0
    let sett := bit (numAt b 14 1) 1
    let v1 := if setc then { v with count := BitVec.ofNat 48 (numAt b 16 6), sat := false } else v
    let v2 := if sett then { v1 with thresh := BitVec.ofNat 48 (numAt b 24 6) } else v1
    (s.commitEnd q 0).putTally t v2 sett

def State.commitTadd (s : State) (q : Nat) (b : Bytes) : State :=
  let pos := (s.queue q).head
  (s.commitAlone q .running 0x1FF 5).addReq (.tadd q pos) 0x10A (q / 256) (s.cmdCtx q) (addr57 b 16) 1 .write (slice b 24 6) []

def State.commitWcommit (s0 : State) (q : Nat) (b : Bytes) : State :=
  if q / 256 ≠ 0 then s0.commitEnd q 3
  else
    let n := numAt b 12 2 % 1024
    let s := s0.takeEffect n
    match s.commitRsn n with
    | 0 =>
      let pos := (s.queue q).head
      let s1 := s.commitAlone q .running 0x1FF 5
      let s2 := match s1.cmd? q pos with
        | some c => s1.setCmd { c with window := some n }
        | none => s1
      s2.scheduleWin n
    | 3 => s.commitEnd q 0x31
    | _ => s.commitEnd q 0x30

/-! ### INVALIDATE (R130) -/

def State.commitInvalidate (s : State) (q : Nat) (b : Bytes) : State :=
  let me := q / 256
  let scope := bits (numAt b 12 1) 1 0
  let p := if me = 0 then bits (numAt b 14 1) 3 0 else me
  if scope = 3 ∨ s.present p = false then s.commitEnd q 3
  else
    let c := 64 * p + bits (numAt b 13 1) 5 0
    let v := numAt b 16 8
    let pos := (s.queue q).head
    let sc : InvScope := match scope with
      | 0 => .part
      | 1 => .ctx c
      | _ => .range c (bits v 56 12 * 4096) (bits v 5 0)
    (s.commitAlone q .running 0x1FF 5).acceptInv p sc (.cmd q pos)

/-! ### Meanings -/

def execNop (q : Fin 4096) (s : State) : Ans := atCommit q.val 0x00 s fun s _ => s.commitEnd q.val 0

/-- R65: every earlier command has completed when the conditions of R72 hold. -/
def execMarker (q : Fin 4096) (s : State) : Ans := atCommit q.val 0x01 s fun s _ => s.commitEnd q.val 0

def execInvalidate (q : Fin 4096) (s : State) : Ans := atCommit q.val 0x50 s fun s b => s.commitInvalidate q.val b

def execStage (q : Fin 4096) (s : State) : Ans := atCommit q.val 0x30 s fun s b => s.commitStage q.val b

def execSwap (q : Fin 4096) (s : State) : Ans := atCommit q.val 0x31 s fun s b => s.commitSwap q.val b

def execRetire (q : Fin 4096) (s : State) : Ans := atCommit q.val 0x32 s fun s b => s.commitRetire q.val b

def execMove (q : Fin 4096) (s : State) : Ans := atCommit q.val 0x10 s fun s b => s.commitMove q.val b

def execPut (q : Fin 4096) (s : State) : Ans := atCommit q.val 0x11 s fun s b => s.commitMove q.val b

def execGather (q : Fin 4096) (s : State) : Ans := atCommit q.val 0x20 s fun s b => s.commitGather q.val b

def execScatter (q : Fin 4096) (s : State) : Ans := atCommit q.val 0x21 s fun s b => s.commitGather q.val b

def execSwatch (q : Fin 4096) (s : State) : Ans := atCommit q.val 0x22 s fun s b => s.commitSwatch q.val b

def execTset (q : Fin 4096) (s : State) : Ans := atCommit q.val 0x40 s fun s b => s.commitTset q.val b

def execTadd (q : Fin 4096) (s : State) : Ans := atCommit q.val 0x41 s fun s b => s.commitTadd q.val b

def execWcommit (q : Fin 4096) (s : State) : Ans := atCommit q.val 0x42 s fun s b => s.commitWcommit q.val b

end Sys2Proof.Machine
end

