-- ==== Sys2Proof/Machine/Pleat.lean ====
section
/-! DEFINITION. The pleat engines' steps (chapter 6): assignment, bursts, the data and responses that come back, and the control
writes. -/

namespace Sys2Proof.Machine

open Sys2Proof

/-! ### Assignment (R188) -/

/-- The engine a command takes: the lowest-numbered IDLE one of the pool in a group that is awake, or the lowest overall. -/
def State.chooseEng (s : State) : Option Nat :=
  match s.idleEngs.find? fun e => s.dom (4 + e / 16) == .run with
  | some e => some e
  | none => s.idleEngs.head?

/-- The engine as its command begins: the latches, cursors and counts of the last one are left behind (R195, R202, R463). -/
def engFor (c : Cmd) : Eng :=
  let b := c.slug
  let start := startOff b
  let d := dstShape b
  let put := slugOpcode b == 0x11
  let v : Eng :=
    { st := .running, part := c.part, queue := c.queue, pos := c.pos, opcode := BitVec.ofNat 8 (slugOpcode b),
      tag := BitVec.ofNat 32 (slugTag b), src := if put then {} else srcShape b, dst := d,
      put := if put then (slugPayload b).take (numAt b 20 2) else [], next := start, wnext := start, start := start, residue := BitVec.ofNat 48 (d.bytes - start), cpart := c.part }
  v.setCur start

/-! ### Bursts (R178, R185, R189) -/

/-- The end of a burst that begins at a stream offset: up to `n` granules, none past the descriptor line's end. -/
def burstEnd (d : Shape) (total : Nat) : Nat → Nat → Nat
  | 0, off => off
  | n + 1, off =>
    let e := min total (d.pieceEnd off)
    if e % d.len0 = 0 ∨ total ≤ e then e else burstEnd d total n e

/-- The source offset up to which a destination range needs bytes. -/
def Conv.needEnd (c : Conv) (a b : Nat) : Nat := (c.needsRange a b).foldl (fun m o => max m (o + 1)) 0

/-- The source reads of a burst `[a, b)`: the bytes that it needs and that no read has brought yet. DEDUCED: they are in source-stream
order within the burst; a later burst's reads begin that burst (R189). -/
def Eng.burstReads (v : Eng) (c : Conv) (a b : Nat) : List (Nat × Nat) :=
  let fresh (o : Nat) : Bool := !v.asked.any fun x => decide (x.1 ≤ o) && decide (o < x.2)
  let want (o : Nat) : Bool := c.needed (fun d => decide (a ≤ d) && decide (d < b)) o && fresh o
  let more (o : Nat) : Bool := c.needed (fun d => decide (v.start ≤ d)) o && fresh o
  let lo := c.floor a
  let hi := c.needEnd a b
  srcReads want more v.src (hi - lo + 1) lo hi

/-- A burst begins: its source reads go out, or for a PUT its writes. -/
def State.beginBurst (s : State) (e : Nat) : State :=
  let v := s.eng e
  let stop := burstEnd v.dst v.total 16 v.next
  let c := s.engConv e
  let v1 := { v with next := stop, bursts := v.bursts ++ [stop] }
  if v.opcode = 0x11 then ((State.pleatWrites e 65 (s.setEng e (v1.setCur stop))).pleatSettle e)
  else
    let rs := v.burstReads c v.next stop
    let s1 := s.setEng e { v1.setCur stop with asked := v.asked ++ rs }
    let ctx := s.cmdCtx v.queue
    let s2 := rs.foldl
      (fun s x => s.addReq (.pltRead e x.1) (0x110 + e) v.part ctx (v.src.addrAt x.1) (x.2 - x.1) .read [] []) s1
    ((State.pleatWrites e 65 s2).pleatSettle e)

/-- Destination bytes not yet delivered: those not written, and those whose response is due (R200). -/
def State.undelivered (s : State) (e : Nat) : Nat :=
  let v := s.eng e
  let out := s.reqs.map fun r => match r.owner with
    | .pltWrite k _ => if k = e then r.len else 0
    | _ => 0
  (v.total - v.wnext) + out.foldl (· + ·) 0

/-- Bytes are delivered: FRZ_OBS_CCNT rises, and RESIDUE falls while the engine's state lets it change (R200, R463). -/
def State.deliverBytes (s : State) (e n : Nat) : State :=
  let v := s.eng e
  let moves := v.st == .running || v.st == .aborting || v.st == .draining
  s.setEng e { v with count := v.count + BitVec.ofNat 48 n, residue := if moves then BitVec.ofNat 48 (s.undelivered e) else v.residue }

/-! ### Control writes (R191, R193, R199) -/

/-- The engine that the accessing partition's window shows: any from partition 0, otherwise one that holds its command. -/
def State.selEng (s : State) (w : Who) : Option Nat :=
  let p := whoPart w
  let e := (s.plt.sel.get 0 p).toNat
  let v := s.eng e
  let holds := (v.st != .idle && v.st != .fenced || (s.engCmd e).isSome) && v.part == p
  if isMgr w || holds then some e else none

def onEng (c : Instr) (w : Who) (s_ : State) (k : State → Nat → State) : Ans :=
  delivered c s_ fun s0 =>
  heard w s0 fun s =>
    match s.selEng w with
    | none => .next s
    | some e => if (s.engCmd e).isSome then .next (k s e) else .next s

/-- A CCTL write to a halted engine: at once when nothing is out, otherwise when the requests end. The first to arrive stands. -/
def State.haltWrite (s : State) (e : Nat) (w : BitVec 3) : State :=
  let s1 := s.modEng e fun v => { v with later := some (v.later.getD w) }
  if s.pleatQuiet e then s1.pleatLater e else s1

/-! ### Meanings -/

/-- R188, R195, R465: the command's BEGIN record has the engine's source. -/
def execPleatAssign (q : Fin 4096) (pos : BitVec 16) (s : State) : Ans :=
  match s.cmd? q.val pos, s.chooseEng with
  | some c, some e =>
    if c.st = .needEngine then
      let s1 := (s.setEng e (engFor c)).setCmd { c with st := .running, src := 0x110 + e }
      .next ((s1.addTrace c.part (traceBytes s.now 1 (slugOpcode c.slug) 0 c.part (0x110 + e) q.val (slugTag c.slug) 0) false).wake
        (4 + e / 16))
    else .next s
  | _, _ => .next s

def execPleatBurstBegin (e : Fin 64) (s0 : State) : Ans :=
  gated (4 + e.val / 16) s0 fun s =>
    let v := s.eng e.val
    if (s.engCmd e.val).isSome && v.st == .running && !v.kill && decide (v.bursts.length < 4) && decide (v.next < v.total) then
      .next (s.beginBurst e.val)
    else .next s

def execPleatReadReturn (e : Fin 64) (id : Nat) (r : Reply) (s0 : State) : Ans :=
  gated (4 + e.val / 16) s0 fun s =>
    match s.req? id with
    | none => .next s
    | some x =>
      match x.owner with
      | .pltRead k off =>
        if k ≠ e.val then .next s
        else match s.takeReads [x] r with
          | none => .next s
          | some (.error y, _) => .next (s.bounceAt x (x.st.out?.getD (.dev 0)) y)
          | some (.data b, s1) =>
            let add := (List.range b.length).map fun i => (off + i, b.getD i 0)
            .next ((State.pleatWrites e.val 65 (s1.modEng e.val fun v => { v with buf := v.buf ++ add })).pleatSettle e.val)
      | _ => .next s

def execPleatWriteResponse (e : Fin 64) (id : Nat) (r : WReply) (s0 : State) : Ans :=
  gated (4 + e.val / 16) s0 fun s =>
    match s.req? id with
    | none => .next s
    | some x =>
      match x.owner with
      | .pltWrite k _ =>
        if k ≠ e.val then .next s
        else match s.writeBack x r with
          | none => .next s
          | some (.error y, _) => .next (s.bounceAt x (x.st.out?.getD (.dev 0)) y)
          | some (.done, s1) => .next (((s1.dropReq id).deliverBytes e.val x.len).pleatSettle e.val)
      | _ => .next s

/-- R191. -/
def execPltCctlAbort (w : Who) (s0 : State) : Ans :=
  onEng (.pltCctlAbort w) w s0 fun s e =>
    let v := s.eng e
    match v.st with
    | .running => (s.setEng e { v with st := .aborting }).pleatSettle e
    | .stalled => s.setEng e { v with abtpend := true }
    | .halted => s.haltWrite e 1
    | _ => s

/-- R193. -/
def execPltCctlRelease (w : Who) (s0 : State) : Ans :=
  onEng (.pltCctlRelease w) w s0 fun s e => if (s.eng e).st = .halted then s.haltWrite e 2 else s

def execPltCctlRetry (w : Who) (s0 : State) : Ans :=
  onEng (.pltCctlRetry w) w s0 fun s e => if (s.eng e).st = .halted then s.haltWrite e 4 else s

/-- R193: the requests issued before the halt have ended. -/
def execPltCctlDeferred (e : Fin 64) (s : State) : Ans :=
  if (s.engCmd e.val).isSome && (s.eng e.val).st == .halted && s.pleatQuiet e.val then .next (s.pleatLater e.val) else .next s

end Sys2Proof.Machine
end

