-- ==== Sys2Proof/Machine/Compositor.lean ====
section
/-! DEFINITION. The compositors' steps (chapters 7 and 8): the record, streams, placements and rows that come back, the close of a
window, results and row updates, trackers and meters, and the swatch list. -/

namespace Sys2Proof.Machine

open Sys2Proof

/-! ### Trackers and meters (R224, R225) -/

/-- One index of a closed window reaches a tracker with its multiplicity. -/
def Tracker.take (t : Tracker) (i k : Nat) : Tracker :=
  let ent (e : Nat) : W32 × W32 := t.ents.get (0, 0) e
  let put (e c : Nat) : Tracker := { t with ents := t.ents.set e (BitVec.ofNat 32 i, BitVec.ofNat 32 (min 0xFFFFFFFF c)) }
  let slots := List.range 256
  match slots.find? fun e => (ent e).2 != 0 && (ent e).1.toNat == i with
  | some e => put e ((ent e).2.toNat + k)
  | none =>
    match slots.find? fun e => (ent e).2 == 0 with
    | some e => put e k
    | none =>
      match minBy (fun e => (ent e).2.toNat) slots with
      | some e => put e ((ent e).2.toNat + k)
      | none => t

/-- Unmasked multiplicity of an index in the open window. -/
def Comp.multiplicity (v : Comp) (i : Nat) : Nat :=
  ((v.groups.filter fun g => g.idx == i).map (·.k)).foldl (· + ·) 0

/-- Every tracker of the command's table takes the window's indices, in the order of first occurrence. -/
def State.trackWindow (s : State) (v : Comp) : State :=
  let hits := v.dists.filter fun d => d.place != .absent
  (List.range 16).foldl (fun s k =>
    let t := s.cmp.trk.get {} k
    if t.en && !t.freeze && 512 * t.part.toNat + t.table.toNat == v.table then
      { s with cmp := { s.cmp with trk := s.cmp.trk.set k (hits.foldl (fun t d => t.take d.idx (v.multiplicity d.idx)) t) } }
    else s) s

/-- Meters of a partition. -/
def State.meterShare (s : State) : Nat := match s.part with | .v3s => 1024 | .v3x => 256

/-- LOOK of a meter rises. -/
def State.meterLook (s : State) (p : Nat) (m : Option Nat) (k : Nat) : State :=
  match m with
  | some i =>
    if i < s.meterShare then
      { s with cmp := { s.cmp with look := s.cmp.look.set (1024 * p + i) (sat48 (s.cmp.look.get 0 (1024 * p + i)) k) } }
    else s
  | none => s

/-- FETCH of a meter rises. -/
def State.meterFetch (s : State) (p : Nat) (m : Option Nat) : State :=
  match m with
  | some i =>
    if i < s.meterShare then
      { s with cmp := { s.cmp with fetch := s.cmp.fetch.set (1024 * p + i) (sat48 (s.cmp.fetch.get 0 (1024 * p + i)) 1) } }
    else s
  | none => s

/-- The meter a resolved index counts on. -/
def Place.meter : Place → Option Nat
  | .at_ _ _ m => m
  | _ => none

/-! ### The record and the streams -/

/-- The offsets that are here are checked; the first that breaks R215 ends the command. -/
def State.checkOffsets (s : State) (n : Nat) : State :=
  let v := s.comp n
  let b := s.compSlug n
  match (if gBags b then v.badOffset b else none) with
  | some i => (s.setComp n ((v.noteFail { status := 0x29, pos := i }).cut b (i - 1))).cutComp n
  | none => s

/-- Why a command ends at its record read (R208, R222, R227). -/
def State.recordFail (s : State) (v : Comp) (b rcd : Bytes) : Option Nat :=
  if !recordOk rcd then some 0x28
  else if gScatter b && ((gOpt b == 1 && recState rcd != 1) || (gOpt b == 2 && recState rcd != 2) ||
      s.cmp.swatch.any fun e => e.table == v.table && e.slotB == v.slotB) then some 0x2B
  else none

/-- The requests of one read, in order. -/
def State.piecesOf (s : State) (o : Owner) : List Req := s.reqs.filter fun r => r.owner == o

/-- A read of a compositor has come back whole: what it brought, or the bus error of its first failing granule. The error reply is that
of the granule whose request is named. -/
def State.compBack (s : State) (n : Nat) (o : Owner) (id : Nat) (r : Reply) (k : State → Bytes → State) : Ans :=
  let rs := s.piecesOf o
  let back (x : Req) : Option Reply := s.readBack x (if x.id = id then r else .data [])
  if rs.isEmpty || (s.compCmd n).isNone || rs.any (fun x => (back x).isNone) then .next s
  else
    let ids := rs.map (·.id)
    let s1 := (rs.foldl State.noteTrip s).dropReqs fun x => ids.contains x.id
    match rs.find? fun x => (match back x with | some (.error _) => true | _ => false) with
    | some x =>
      let e := match back x with | some (.error e) => e | _ => .none
      .next (({ s1 with reqs := s1.reqs ++ [x] } : State).bounceAt x (x.st.out?.getD (.dev 0)) e)
    | none => .next (k s1 (rs.flatMap fun x => match back x with | some (.data b) => b | _ => []))

/-! ### Results (R216, R249 to R253) -/

/-- The values of a bag's result. -/
def Comp.resultVals (v : Comp) (b rcd : Bytes) (bag : Nat) : List Val :=
  let len := v.lens.get 0 bag
  let op := gOp b
  let e := if op = 5 then 1 else recElem rcd
  if op = 5 then [Val.fin false len 1 0]
  else if len = 0 then List.replicate e (if op = 3 ∨ op = 4 then fp32.value (gFill b) else Val.zero)
  else (v.accs bag e).map fun a => a.result op (gridOf b rcd) len

/-- FLAGS that a result sets: EMPTY, WOVF and NAN (R232). -/
def Comp.resultFlags (v : Comp) (b : Bytes) (bag : Nat) (vals : List Val) : Nat :=
  let op := gOp b
  let live := v.lens.get 0 bag != 0
  b2n (!live) + (if live && decide (op ≤ 2) && (v.acc.get [] bag).any (·.overflow) then 2 else 0) + (if vals.any Val.isNan then 4 else 0)

/-- The next result can be written: its bag's lookups are all accumulated. -/
def Comp.resultReady (v : Comp) (b : Bytes) : Bool :=
  decide (v.done < v.nbag) && (match v.bagEnd b v.done with | some e => decide (e ≤ v.wstart) | none => false) &&
    (match v.fail with | some f => f.status == 5 || f.status == 0x29 | none => true)

/-- A write of a compositor: one for each granule it touches. -/
def State.compWrites (s : State) (n : Nat) (o : Owner) (va : Nat) (data : Bytes) : State :=
  let v := s.comp n
  let ctx := 64 * v.part + (s.queue v.queue).ctx.toNat
  (pieces 64 va (data.length / 64 + 2) 0 data.length).foldl
    (fun s p => s.addReq o (0x150 + n) v.part ctx ((va + p.1) % 2 ^ 57) p.2 .write (slice data p.1 p.2) []) s

/-! ### Row updates (R154, R226, R227) -/

/-- The gradient vector of a row, in fp32. -/
def gradOf (w : Comp) (b rcd : Bytes) (i : Nat) : List Val :=
  (w.accs i (recElem rcd)).map fun a => r32 (a.result 0 (gridOf b rcd) 1)

/-- The row whose update is due: the first without its progress mark, when its bytes are here. -/
def Comp.rowDue (v : Comp) : Option Dist :=
  (v.dists.find? fun d => d.place != .absent && !d.got).filter fun d => d.read && !d.row.isEmpty && !d.upd

/-- Set the progress mark of a row. -/
def Comp.mark (v : Comp) (i : Nat) : Comp := { v.setDist i fun d => { d with got := true, upd := false, told := false } with rows := v.rows + 1 }

/-- The row's write goes to where its read went: one request for each part that has a byte to write. -/
def State.rowWrites (s : State) (n : Nat) (d : Dist) (va : Nat) (new : Bytes) (en : Nat → Bool) : State :=
  let v := s.comp n
  d.outs.foldl (fun s x =>
    let bits := (List.range x.2.1).map fun i => en (x.1 + i)
    if !bits.any id then s
    else
      let r : Req :=
        { id := s.nextId, owner := .cmpUpdate n d.idx, src := BitVec.ofNat 9 (0x150 + n), part := v.part,
          ctx := 64 * v.part + (s.queue v.queue).ctx.toNat, va := (va + x.1) % 2 ^ 57, len := x.2.1, acc := .write,
          data := slice new x.1 x.2.1, en := bits, st := .held, replay := none, phys := false }
      ({ s with nextId := s.nextId + 1, reqs := s.reqs ++ [r] } : State).tryIssue r x.2.2) s

/-- The update of a row: computed, and written unless a value is not finite (NANSKIP). -/
def State.updateRow (s : State) (n : Nat) (b rcd : Bytes) (d : Dist) : State :=
  match d.home rcd with
  | none => s
  | some (seg, va) =>
    let v := s.comp n
    let w := v.poolGrads b rcd
    let e := recElem rcd
    let fmt := segFmt rcd seg
    let x := slugExtn b 1
    let f32 (off : Nat) : Val := fp32.value (numAt x off 4)
    let ovr := (w.accs d.idx e).any (·.overflow)
    let v1 := { v with flags := v.flags ||| (if ovr then 2 else 0) }
    match optStep (gOpt b) fmt e (f32 44) (f32 48) (f32 52) (gradOf w b rcd d.idx) d.row with
    | none => (s.setComp n ({ v1 with flags := v1.flags ||| 0x20 }.mark d.idx)).compGo n
    | some new =>
      (s.setComp n (v1.setDist d.idx fun d => { d with upd := true })).rowWrites n d va new (optWrites (gOpt b) fmt e)

/-- Every row cache is told that a row has changed (R40). -/
def State.tellRow (s : State) (n i : Nat) : State := s.toTiles (.rowInval (s.comp n).table (s.comp n).slotB i)

/-- A write response of a row: the last one tells every row cache, and the request stays until they have acknowledged (R40). -/
def State.rowWritten (s : State) (n i : Nat) (x : Req) : State :=
  if 1 < (s.piecesOf (.cmpUpdate n i)).length then s.dropReq x.id
  else ((s.setReq { x with st := .done (x.st.out?.getD (.dev 0)) }).setComp n
    ((s.comp n).setDist i fun d => { d with told := true })).tellRow n i

/-- The acknowledgements are here: the row's response is counted, and its mark is set (R40, R154). A row with a failed write has none. -/
def State.rowDone (s : State) (n i : Nat) : State :=
  let v := s.comp n
  if v.dists.any fun d => d.idx == i && d.bad then s.compGo n
  else (s.setComp n { v.mark i with upds := v.upds + 1, done := v.done + 1 }).compGo n

/-- A row's write met a bus error. What the row's other writes have changed must leave the row caches too. -/
def State.rowBad (s : State) (n i : Nat) : State :=
  let s1 := s.setComp n ((s.comp n).setDist i fun d => { d with bad := true })
  if 1 < (s.piecesOf (.cmpUpdate n i)).length then s1 else s1.tellRow n i

/-! ### SWATCH (R222, R223) -/

/-- Entries a partition may hold. -/
def State.swatchShare (s : State) : Nat := match s.part with | .v3s => 4096 | .v3x => 1024

/-- Entries a partition holds. -/
def State.swatchUse (s : State) (p : Nat) : Nat := (s.cmp.swatch.filter fun e => e.table / 512 == p).length

/-- The entries of a list, in order. -/
def swatchList (t : Nat) (slotB : Bool) (b : Bytes) : List SwEntry :=
  (List.range (b.length / 16)).map fun i =>
    { table := t, slotB := slotB, idx := numAt b (16 * i) 4, seg := numAt b (16 * i + 4) 1, va := addr57 b (16 * i + 8) }

/-- Install one entry; it replaces one with the same key. -/
def putSwatch (es : List SwEntry) (e : SwEntry) : List SwEntry :=
  es.filter (fun x => !(x.table == e.table && x.slotB == e.slotB && x.idx == e.idx)) ++ [e]

/-- All entries are installed, or none. -/
def State.installSwatch (s : State) (c : Cmd) (b : Bytes) : State :=
  let t := 512 * (c.queue / 256) + numAt c.slug 12 2
  let sb := swSlotB c.slug
  let es := swatchList t sb b
  let base := if bit (numAt c.slug 14 1) 1 then s.cmp.swatch.filter fun e => !(e.table == t && e.slotB == sb) else s.cmp.swatch
  let all := es.foldl putSwatch base
  let stop (st : Nat) := s.endCmd c.queue c.pos st 0 0 [] 0
  if ((s.table t).slot sb).st ≠ .staged then stop 0x2C
  else if es.any fun e => decide (recRows c.list ≤ e.idx) || decide (recNseg c.list ≤ e.seg) then stop 3
  else if s.swatchShare < (all.filter fun e => e.table / 512 == c.queue / 256).length then stop 0x2A
  else ({ s with cmp := { s.cmp with swatch := all } } : State).endCmd c.queue c.pos 0 0 0 [] 0

/-- The slot's record is here: the list is read, when it has entries. -/
def State.swatchRecord (s : State) (c : Cmd) (rcd : Bytes) : State :=
  if !recordOk rcd then s.endCmd c.queue c.pos 0x28 0 0 [] 0
  else
    let c1 := { c with list := rcd }
    let s1 := s.setCmd c1
    let n := numAt c.slug 16 4
    if n = 0 then s1.installSwatch c1 []
    else s1.addReads (.swList c.queue c.pos) 0x108 c.part (s.cmdCtx c.queue) (addr57 c.slug 20) (16 * n) .read

/-! ### Meanings -/

/-- R205, R208: the pinned record. -/
def execEpochRecordRead (n : Fin 16) (r : Reply) (s0 : State) : Ans :=
  gated (8 + n.val) s0 fun s =>
    s.compBack n.val (.cmpRecord n.val) (((s.piecesOf (.cmpRecord n.val)).head?.map (·.id)).getD 0) r fun s rcd =>
      let v := s.comp n.val
      let b := s.compSlug n.val
      let v1 := { v with record := some rcd }
      match s.recordFail v b rcd with
      | some st =>
        ((s.setComp n.val (v1.noteFail { status := st, pos := 0 })).discard n.val (fun h => h.target == 0) (fun _ => false) 7).compGo n.val
      | none => ((s.setComp n.val v1).checkOffsets n.val).compGo n.val

/-- R214, R215, R226: a piece of a stream, or a bag's gradient vector. -/
def execStreamReadReturn (n : Fin 16) (id : Nat) (r : Reply) (s0 : State) : Ans :=
  gated (8 + n.val) s0 fun s =>
    match (s.req? id).map Req.owner with
    | some (.cmpStream m k) =>
      if m ≠ n.val then .next s
      else s.compBack m (.cmpStream m k) id r fun s d =>
        let s1 := s.setComp m ((s.comp m).addStream k d)
        ((if k = 2 then s1.checkOffsets m else s1).compGo m)
    | some (.cmpGrad m bag) =>
      if m ≠ n.val then .next s
      else s.compBack m (.cmpGrad m bag) id r fun s d =>
        (s.setComp m { s.comp m with grads := (s.comp m).grads.set bag d }).compGo m
    | _ => .next s

/-- R209, R210. -/
def execPlacementReadReturn (n : Fin 16) (id : Nat) (r : Reply) (s0 : State) : Ans :=
  gated (8 + n.val) s0 fun s =>
    match (s.req? id).map Req.owner with
    | some (.cmpPlace m i) =>
      if m ≠ n.val then .next s
      else s.compBack m (.cmpPlace m i) id r fun s d =>
        let v := s.comp m
        (s.setComp m (v.resolve i (placeOf (v.record.getD []) (leNat d)))).compGo m
    | _ => .next s

/-- R219, R221, R225: the row enters the accumulators of its groups; a SCATTER keeps it for its update. -/
def execRowReadReturn (n : Fin 16) (id : Nat) (r : Reply) (s0 : State) : Ans :=
  gated (8 + n.val) s0 fun s =>
    match (s.req? id).map Req.owner with
    | some (.cmpRow m i) =>
      if m ≠ n.val then .next s
      else s.compBack m (.cmpRow m i) id r fun s d =>
        let v := s.comp m
        let b := s.compSlug m
        let rcd := v.record.getD []
        match v.dists.find? fun x => x.idx == i with
        | none => s.compGo m
        | some x =>
          let v1 := match x.place with | .at_ _ _ _ => { v with fetch := v.fetch + 1 } | _ => v
          let s1 := s.meterFetch v.part x.place.meter
          if gScatter b then (s1.setComp m (v1.setDist i fun y => { y with row := d })).compGo m
          else
            let seg := ((x.home rcd).map (·.1)).getD 0
            let v2 := v1.poolRow b rcd i (rowValues (segFmt rcd seg) (recElem rcd) d)
            (s1.setComp m (v2.setDist i fun y => { y with got := true })).compGo m
    | _ => .next s

/-- R218, R224, R225, R228: a window whose every row is accumulated, or marked, closes. -/
def execWindowClose (n : Fin 16) (s0 : State) : Ans :=
  gated (8 + n.val) s0 fun s =>
    let v := s.comp n.val
    let b := s.compSlug n.val
    if (s.compCmd n.val).isSome && v.record.isSome && !v.pre && !v.kill && !v.fence && v.winDone && decide (v.wstart < v.adm) &&
        (match v.fail with | some f => !gScatter b && (f.status == 5 || f.status == 0x29) | none => true) then
      let hits := v.dists.filter fun d => d.place != .absent
      let s1 := (s.trackWindow v).pcntAdd v.part 3 v.winLooks
      let s2 := hits.foldl (fun s d => s.meterLook v.part d.place.meter (v.multiplicity d.idx)) s1
      let multi := gScatter b && hits.any fun d => v.seen.contains d.idx
      let w := { v.leaveWindow with
        wins := v.wins + 1, look := v.look + v.winLooks, ngrp := v.ngrp + v.winGroups,
        seen := if gScatter b then (v.seen ++ hits.map (·.idx)).eraseDups else v.seen,
        flags := v.flags ||| (if multi then 0x40 else 0) }
      .next ((s2.setComp n.val w).compGo n.val)
    else .next s

/-- R154, R226 to R228. -/
def execScatterRowUpdate (n : Fin 16) (s0 : State) : Ans :=
  gated (8 + n.val) s0 fun s =>
    let v := s.comp n.val
    let b := s.compSlug n.val
    match (s.compCmd n.val).isSome && gScatter b && !v.kill && !v.fence && v.fail.isNone, v.record, v.rowDue with
    | true, some rcd, some d => .next (s.updateRow n.val b rcd d)
    | _, _, _ => .next s

/-- R216, R249 to R253: results are written in bag order. -/
def execResultWrite (n : Fin 16) (s0 : State) : Ans :=
  gated (8 + n.val) s0 fun s =>
    let v := s.comp n.val
    let b := s.compSlug n.val
    match (s.compCmd n.val).isSome && !gScatter b && !v.kill && !v.fence && v.resultReady b, v.record with
    | true, some rcd =>
      let vals := v.resultVals b rcd v.done
      let data := packElems (gOfmt b) (vals.map (roundElem (gOfmt b)))
      let va := (gDst b + v.done * gDstride b) % 2 ^ 57
      let w := { v with done := v.done + 1, flags := v.flags ||| BitVec.ofNat 16 (v.resultFlags b v.done vals),
                        acc := v.acc.filter fun t => t.1 != v.done }
      .next (((s.setComp n.val w).compWrites n.val (.cmpResult n.val v.done) va data).compSettle n.val)
    | _, _ => .next s

/-- R35, R37: the response of a result's write. -/
def State.resultBack (s : State) (n : Nat) (x : Req) (r : WReply) : State :=
  match s.writeBack x r with
  | none => s
  | some (.error e, _) => s.bounceAt x (x.st.out?.getD (.dev 0)) e
  | some (.done, s1) => (s1.dropReq x.id).compSettle n

/-- R35, R40: the response of a row's write, or, once its row caches are told, their acknowledgements. -/
def State.updateBack (s : State) (n i : Nat) (x : Req) (r : WReply) : State :=
  if (s.comp n).dists.any fun d => d.idx == i && d.told then ((s.dropReq x.id).rowDone n i).compSettle n
  else match s.writeBack x r with
    | none => s
    | some (.error e, _) => (s.rowBad n i).bounceAt x (x.st.out?.getD (.dev 0)) e
    | some (.done, s1) => s1.rowWritten n i x

/-- R35, R37, R40. DESIGN CHOICE: the row caches' acknowledgements of a row come as a second response of its last write. -/
def execCompositorWriteResponse (n : Fin 16) (id : Nat) (r : WReply) (s0 : State) : Ans :=
  gated (8 + n.val) s0 fun s =>
    match s.req? id with
    | none => .next s
    | some x =>
      match x.owner with
      | .cmpResult m _ => .next (if m = n.val then s.resultBack m x r else s)
      | .cmpUpdate m i => .next (if m = n.val then s.updateBack m i x r else s)
      | _ => .next s

/-- The accessing party may clear and read a tracker (R239). -/
def State.mayTrack (s : State) (w : Who) (k : Nat) : Bool := isMgr w || (s.cmp.trk.get {} k).part.toNat == whoPart w

/-- R239. -/
def execSkcfgClr (w : Who) (k : Fin 16) (s_ : State) : Ans :=
  delivered (.skcfgClr w k) s_ fun t_ =>
  heard w t_ fun s =>
    if s.mayTrack w k.val then
      .next { s with cmp := { s.cmp with trk := s.cmp.trk.set k.val { s.cmp.trk.get {} k.val with ents := [] } } }
    else .next s

/-- A 64-bit read of the entry that ENTRY names, and the state after it, with ENTRY advanced (R239). -/
def State.skentRead (s : State) (w : Who) (k : Nat) : Nat × State :=
  let t := s.cmp.trk.get {} k
  if s.mayTrack w k then
    let e := t.ents.get (0, 0) t.ptr.toNat
    (2 ^ 32 * e.2.toNat + e.1.toNat, { s with cmp := { s.cmp with trk := s.cmp.trk.set k { t with ptr := t.ptr + 1 } } })
  else (0, s)

/-- R239. -/
def execSkentRead (w : Who) (k : Fin 16) (s_ : State) : Ans :=
  delivered (.skentRead w k) s_ fun t_ =>
  heardRead w t_ fun s => .next (answerRead w (s.skentRead w k.val))

/-- R223: the slot's record, then the list. -/
def execSwatchReadReturn (q : Fin 4096) (pos : BitVec 16) (r : Reply) (s0 : State) : Ans :=
  galley s0 fun s =>
    match s.cmd? q.val pos with
    | none => .next s
    | some c =>
      let recs := s.piecesOf (.swRecord q.val pos)
      let lists := s.piecesOf (.swList q.val pos)
      let rs := if recs.isEmpty then lists else recs
      if rs.isEmpty then .next s
      else match s.takeReads rs r with
        | none => .next s
        | some (y, s1) =>
          if c.aborted then .next (s1.dropCmd q.val pos)
          else match y with
            | .error _ => .next (s1.endCmd q.val pos 5 0 0 [] 0)
            | .data b => .next (if recs.isEmpty then s1.installSwatch c b else s1.swatchRecord c b)

end Sys2Proof.Machine
end

