-- ==== Sys2Proof/Machine/Partitions.lean ====
section
/-! DEFINITION. Partitions and quotas (chapter 14): the partition a tailor core acts for, the quota registers and their cuts,
and the accounting period. -/

namespace Sys2Proof.Machine

open Sys2Proof

/-! ### Use of the pooled resources (R398) -/

/-- Engines that hold a command of the partition, or one of its trace drains. -/
def State.pleatHeld (s : State) (p : Nat) : Nat :=
  (s.gal.cmds.filter fun c => c.part == p && c.onPleat).length +
    (s.plt.eng.filter fun t => t.2.drain.isSome && t.2.part == p).length

/-- QB.TRACE, in units of 64 KiB. -/
def State.quotaTrace (s : State) (p : Nat) : Nat := min 64 (bits (s.prt.qb.get 0 p).toNat 30 24)

/-- Units of 64 KiB that the partition's records in Fraiz's own buffer take. -/
def State.traceUse (s : State) (p : Nat) : Nat := divUp (s.traceHeld p) 2048

/-- FRZ_PART_UA of a partition (R407). -/
def State.useA (s : State) (p : Nat) : Nat :=
  s.residents p * 2 ^ 32 + s.allWalksOf p * 2 ^ 24 + s.pleatHeld p * 2 ^ 16 + s.compUse p

/-- FRZ_PART_UB of a partition (R408). -/
def State.useB (s : State) (p : Nat) : Nat :=
  s.vecUse p * 2 ^ 48 + s.winUse p * 2 ^ 32 + s.traceUse p * 2 ^ 24 + s.tallyUse p

/-- Each quota of QA: its half (`true`: high), its bit of OVER, and whether use is above it. -/
def State.cutsA (s : State) (p : Nat) : List (Bool × Nat × Bool) :=
  [(true, 0, decide (s.quotaSlots p < s.residents p)), (false, 1, decide (s.quotaPleat p < s.pleatHeld p)),
   (false, 2, decide (s.quotaCmp p < s.compUse p)), (false, 3, decide (s.quotaWalk p < s.allWalksOf p))]

/-- Each quota of QB in the same form. -/
def State.cutsB (s : State) (p : Nat) : List (Bool × Nat × Bool) :=
  [(false, 5, decide (s.quotaTally p < s.tallyUse p)), (true, 6, decide (s.quotaWin p < s.winUse p)),
   (true, 7, decide (s.quotaVec p < s.vecUse p)), (false, 8, decide (s.quotaTrace p < s.traceUse p))]

/-- The half of a register that a write covers. -/
def Half.covers : Half → Bool → Bool
  | .whole, _ => true
  | .low, hi => !hi
  | .high, hi => hi

/-- A 64-bit register after a write of one half or of the whole; `mask` holds its stored fields (R6, R10). -/
def putHalf (old : W64) (h : Half) (v : W64) (mask : Nat) : W64 :=
  let o := old.toNat
  let lo := o % 2 ^ 32
  let hi := o / 2 ^ 32
  let n := match h with
    | .whole => v.toNat
    | .low => v.toNat % 2 ^ 32 + hi * 2 ^ 32
    | .high => lo + v.toNat % 2 ^ 32 * 2 ^ 32
  BitVec.ofNat 64 n &&& BitVec.ofNat 64 mask

/-- The stored fields of QA, QB and BW (R407 to R409). -/
def maskQa : Nat := 0x001F01FF3F7F001F
def maskQb : Nat := 0x07FF007F7F01FFFF
def maskBw : Nat := 0xFFFFF

/-- Set bits of FRZ_PART_OVER, and raise the over-quota source (R401). -/
def State.setOver (s : State) (p m : Nat) : State :=
  if m = 0 then s
  else
    ({ s with prt := { s.prt with ovr := s.prt.ovr.set p (s.prt.ovr.get 0 p ||| BitVec.ofNat 32 m) } } : State).raise
      (16 + 8 * p + 5)

/-- The bits of OVER that a write of some halves sets. -/
def overMask (h : Half) (cuts : List (Bool × Nat × Bool)) : Nat :=
  ((cuts.filter fun c => Half.covers h c.1 && c.2.2).map fun c => 2 ^ c.2.1).foldl (· + ·) 0

def State.writeQa (s : State) (p : Nat) (h : Half) (v : W64) : State :=
  let s1 : State := { s with prt := { s.prt with qa := s.prt.qa.set p (putHalf (s.prt.qa.get 0 p) h v maskQa) } }
  s1.setOver p (overMask h (s1.cutsA p))

def State.writeQb (s : State) (p : Nat) (h : Half) (v : W64) : State :=
  let s1 : State := { s with prt := { s.prt with qb := s.prt.qb.set p (putHalf (s.prt.qb.get 0 p) h v maskQb) } }
  s1.setOver p (overMask h (s1.cutsB p))

/-- A changed budget below the current period's charge sets OVER.BW; it applies from the next period (R401). -/
def State.writeBw (s : State) (p : Nat) (v : Nat) : State :=
  let new := v % 2 ^ 20
  let old := s.prt.bw.get 0 p
  let s1 : State := { s with prt := { s.prt with bw := s.prt.bw.set p (BitVec.ofNat 32 new) } }
  if old.toNat ≠ new ∧ new ≠ maskBw ∧ new < s.prt.charge.get 0 p then s1.setOver p (2 ^ 9) else s1

/-- FRZ_PART_OVER: a 1 clears (R410). -/
def State.writeOver (s : State) (p : Nat) (v : W32) : State :=
  { s with prt := { s.prt with ovr := s.prt.ovr.set p (s.prt.ovr.get 0 p &&& ~~~v) } }

/-- Who may set tailor core `k`'s partition: core `k` itself, and partition 0 through its function (R397). -/
def maySetTcact (w : Who) (k : Nat) : Bool :=
  match w with
  | .fn p => p.val == 0
  | .core j => j.val == k

/-! ### Meanings -/

/-- R397: a partition that is not on the part is not stored. -/
def execTcactWrite (w : Who) (k : Fin 8) (v : W32) (s_ : State) : Ans :=
  delivered (.tcactWrite w k v) s_ fun t_ =>
  heard w t_ fun s =>
  let p := bits v.toNat 3 0
  if maySetTcact w k.val && s.present p then
    .next { s with prt := { s.prt with tcact := s.prt.tcact.set k.val (BitVec.ofNat 4 p) } }
  else .next s

/-- R396, R401, R407 to R409. FRZ_PART_BW is a 32-bit register in the low half of its 8 bytes; FRZ_PART_OVER is the high half. -/
def execQuotaWrite (w : Who) (p : Fin 16) (r : QuotaReg) (h : Half) (v : W64) (s_ : State) : Ans :=
  delivered (.quotaWrite w p r h v) s_ fun t_ =>
  heard w t_ fun s =>
  if isMgr w && s.present p.val then
    .next (match r with
      | .qa => s.writeQa p.val h v
      | .qb => s.writeQb p.val h v
      | .bw => if h = .high then s else s.writeBw p.val v.toNat)
  else .next s

/-- One partition's period ends: LAST, and the excess carried, up to one budget; the next runs under the budget written (R400,
R401, R409). -/
def State.endPeriod (s : State) (p : Nat) : State :=
  let c := s.prt.charge.get 0 p
  let b := (s.prt.bwNow.get 0 p).toNat
  let carry := if b = maskBw then 0 else min b (c - b)
  { s with prt := { s.prt with charge := s.prt.charge.set p carry, pcharge := s.prt.pcharge.set p 0,
                               last := s.prt.last.set p (BitVec.ofNat 20 (min maskBw c)),
                               bwNow := s.prt.bwNow.set p (s.prt.bw.get 0 p) } }

/-- R400: the held requests of every partition may go, oldest first. -/
def execAccountingPeriod (s_ : State) : Ans :=
  inUnit 0xE 0 s_ fun s => .next (((List.range 16).foldl State.endPeriod s).release fun _ => true)

end Sys2Proof.Machine
end

