-- ==== Sys2Proof/Machine/Observe.lean ====
section
/-! DEFINITION. The counters-and-trace unit's own work (chapter 17): trace drains, the tack snapshot, the peak temperature. -/

namespace Sys2Proof.Machine

open Sys2Proof

/-! ### Trace drains (R467, R468, R486) -/

/-- Records of the drain ring. -/
def TrP.size2 (t : TrP) : Nat := 2 ^ (min 13 t.size.toNat + 7)

/-- Positions of the drain ring that hold no record. -/
def TrP.room (t : TrP) : Nat := t.size2 - (t.tail - t.head).toNat

/-- The ring lies in host memory, and its first address. -/
def TrP.place (t : TrP) : Bool × Nat := (bit t.base.toNat 63, bits t.base.toNat 56 12 * 4096)

/-- KINDS lets a record be drained. -/
def TrP.kindOk (t : TrP) (p : Nat) (r : TraceR) : Bool :=
  if r.stamp then p == 0 && t.kinds.getLsbD 2 else if r.tile then t.kinds.getLsbD 1 else t.kinds.getLsbD 0

/-- Buffer `b`: of tile `b`, or Fraiz's own, 64. -/
def State.traceBuf (s : State) (b : Nat) : List TraceR := if b < 64 then s.obs.tiles.get [] b else s.obs.own

def State.setTraceBuf (s : State) (b : Nat) (rs : List TraceR) : State :=
  if b < 64 then { s with obs := { s.obs with tiles := s.obs.tiles.set b rs } } else { s with obs := { s.obs with own := rs } }

/-- The partition's records in a buffer that may be drained, oldest first. -/
def State.drainable (s : State) (p b : Nat) : List TraceR :=
  (s.traceBuf b).filter fun r => r.part == p && (s.trp p).kindOk p r

/-- The records of a drain that is due: at least 64 of them, or the oldest has waited one management-plane tick. -/
def State.drainDue (s : State) (p b : Nat) : List TraceR :=
  let t := s.trp p
  let rs := s.drainable p b
  let old := rs.head?.any fun r => decide (leNat (r.bytes.take 8) + 2000000 ≤ s.now)
  if t.en && !t.derr && (decide (64 ≤ rs.length) || old) && !s.obs.drains.any (fun d => d.1 == p) then rs.take (min 64 t.room)
  else []

/-- DERR is set, and source 3 rises (R468, R470). -/
def State.setDerr (s : State) (p : Nat) : State := (s.setTrp p { s.trp p with derr := true }).relevel s

/-- A partition's drain ends, and its engine returns to IDLE. -/
def State.leaveDrain (s : State) (p e : Nat) : State :=
  let s1 := s.dropReqs fun r => r.owner == .phys (1 + p)
  let s2 : State := { s1 with obs := { s1.obs with drains := s1.obs.drains.filter fun d => d.1 != p,
                                                   flush := s1.obs.flush.filter fun f => f.1 != e } }
  s2.freeEng e

/-- The drain fails: the records stay. -/
def State.failDrain (s : State) (p e : Nat) : State := (s.leaveDrain p e).setDerr p

/-- The drained records leave their buffer, and TAIL publishes them. -/
def State.publishDrain (s : State) (p e b : Nat) (rs : List TraceR) : State :=
  let s1 := s.setTraceBuf b (rs.foldl (fun l r => l.erase r) (s.traceBuf b))
  let t := s1.trp p
  (s1.setTrp p { t with tail := t.tail + BitVec.ofNat 32 rs.length }).leaveDrain p e

/-- Up to two runs of the drain ring: address and bytes of each. -/
def drainRuns (t : TrP) (rs : List TraceR) : List (Nat × Bytes) :=
  let base := t.place.2
  let at_ := t.tail.toNat % t.size2
  let first := rs.take (t.size2 - at_)
  let rest := rs.drop (t.size2 - at_)
  let body (l : List TraceR) : Bytes := l.flatMap (·.bytes)
  (base + 32 * at_, body first) :: (if rest.isEmpty then [] else [(base, body rest)])

/-- One write of a drain: checked, and issued unless the budget holds it (R143, R400, R468). `false`: a bus error. -/
def State.drainWrite (s : State) (p e a : Nat) (d : Bytes) (host : Bool) : Bool × State :=
  let o : Out := if host then .host a false else .dev a
  let r : Req := { id := s.nextId, owner := .phys (1 + p), src := BitVec.ofNat 9 (0x110 + e), part := p, ctx := 0, va := a,
                   len := d.length, acc := .write, data := d, en := [], st := .bwWait o, replay := none, phys := true }
  let s1 : State := { s with nextId := s.nextId + 1, reqs := s.reqs ++ [r] }
  match s1.barFor r o with
  | some .regs =>
    -- as a free value decides, a bus error, or done with no partition's state touched (R18)
    let s2 := s1.useFree 1
    if (Config.freeByte s.free).getLsbD 0 then (false, s.useFree 1) else (true, s2.setReq { r with st := .done o })
  | some .grant => (false, s.isolation)
  | some _ => (false, s)
  | none => (true, s1.tryIssue r o)

/-- Every write of a drain, or the failure of the first that meets a bus error. -/
def State.drainWrites (p e : Nat) (host : Bool) : List (Nat × Bytes) → State → State
  | [], s => s
  | (a, d) :: rest, s =>
    match s.drainWrite p e a d host with
    | (true, t) => State.drainWrites p e host rest t
    | (false, t) => t.failDrain p e

/-- For a host ring whose writes have all left, the flushing read (R52, R468); one that cannot be sent fails. -/
def State.drainFlush (s : State) (p e : Nat) : State :=
  let rs := s.reqsOf (· == .phys (1 + p))
  let left := rs.all fun r => match r.st with | .done (.host _ _) => true | _ => false
  match rs.getLast? with
  | some r =>
    if !left || s.obs.flush.any (fun f => f.1 == e) then s
    else if !s.canSend p then s.failDrain p e
    else if !s.tagRoom p 1 then s
    else
      let id := s.nextId
      ((({ s with nextId := id + 1, obs := { s.obs with flush := s.obs.flush ++ [(e, id)] } } : State).dropReqs
        fun x => x.owner == .phys (1 + p)).chargeTo p 1).flushRead p (r.va + r.len - 1) id {}
  | none => s

/-- R468: a drain takes an IDLE engine within the partition's pleat share, and its writes go out. -/
def State.beginDrain (s : State) (p b e : Nat) (rs : List TraceR) : State :=
  let t := s.trp p
  let s1 := s.modEng e fun v =>
    { v with st := .running, drain := some b, part := p, queue := 0, pos := 0, opcode := 0x10, tag := 0 }
  let s2 : State := { s1 with obs := { s1.obs with drains := s1.obs.drains ++ [(p, e, rs)] } }
  (State.drainWrites p e t.place.1 (drainRuns t rs) s2).drainFlush p e

/-- R468, R470. -/
def execTraceDrain (p : Fin 16) (buf : Fin 65) (s_ : State) : Ans :=
  inUnit 0xC 0 s_ fun s =>
  let rs := s.drainDue p.val buf.val
  match s.unitFree false p.val && !rs.isEmpty, s.chooseEng with
  | true, some e => gated (4 + e / 16) s fun s => .next ((s.tookUnit false p.val).beginDrain p.val buf.val e rs)
  | _, _ => .next s

/-- The responses of a device ring's writes. -/
def State.drainResponses (s : State) : List Req → Option (Bool × State)
  | [] => some (true, s)
  | r :: rest =>
    match s.writeBack r .done with
    | none => none
    | some (.error _, _) => some (false, s)
    | some (.done, t) => t.drainResponses rest

/-- The drain of a partition comes to its end: the flushing read of a host ring completes, or the last write response of a device
ring is here (R468). -/
def State.endDrain (s : State) (p : Nat) (ok : Bool) : State :=
  match s.obs.drains.find? fun d => d.1 == p with
  | none => s
  | some (_, e, rs) =>
    let b := ((s.eng e).drain).getD 64
    let good := ok && (s.eng e).st != .fenced
    if s.obs.flush.any fun f => f.1 == e then (if good then s.publishDrain p e b rs else s.failDrain p e)
    else
      let ws := s.reqsOf (· == .phys (1 + p))
      if ws.any fun r => r.st.unissued then s
      else if !good then s.failDrain p e
      else if (s.trp p).place.1 then s.drainFlush p e
      else match s.drainResponses ws with
        | none => s
        | some (true, t) => t.publishDrain p e b rs
        | some (false, t) => t.failDrain p e

def execTraceDrainDone (p : Fin 16) (ok : Bool) (s_ : State) : Ans :=
  inUnit 0xC 0 s_ fun s => .next (s.endDrain p.val ok)

/-! ### The tack snapshot (R472 to R474) -/

/-- Every sleeping domain is woken. -/
def State.wakeAll (s : State) : State := (List.range 26).foldl State.wake s

/-- A snapshot is requested. -/
def State.startTack (s : State) (cause : BitVec 4) : State :=
  ({ s with obs := { s.obs with tkbusy := true, tkcause := cause, captured := false } } : State).wakeAll

/-- R474, R487. WDOG takes the value written whatever becomes of GO. -/
def execTackGo (w : Who) (v : W32) (s_ : State) : Ans :=
  delivered (.tackGo w v) s_ fun t_ =>
  heard w t_ fun s =>
  if isMgr w then
    let s1 : State := { s with obs := { s.obs with wdog := BitVec.ofNat 16 v.toNat } }
    if !bit v.toNat 31 then .next s1
    else if s.obs.tkbusy then .next { s1 with obs := { s1.obs with tkref := true } }
    else .next (s1.startTack 1)
  else .next s

/-- R472, R474: with a command committed and not ended, and the last snapshot's DONE cleared. -/
def execTackWatchdog (s_ : State) : Ans :=
  inUnit 0xC 0 s_ fun s =>
  let work := s.gal.cmds.any fun c => c.st == .needEngine || c.st == .running
  if s.obs.wdog != 0 && work && !s.obs.tkbusy && !s.obs.tkdone then .next (s.startTack 2) else .next s

/-- Codes of the states that registers and the snapshot report (R80, R194, R236). -/
def QSt.code : QSt → Nat
  | .disabled => 0
  | .idle => 1
  | .ready => 2
  | .resident => 3
  | .waiting => 4
  | .halted => 5
  | .draining => 6
  | .resetting => 7

def PSt.code : PSt → Nat
  | .idle => 0
  | .running => 1
  | .stalled => 2
  | .aborting => 3
  | .draining => 4
  | .halted => 5
  | .fenced => 6

def CSt.code : CSt → Nat
  | .idle => 0
  | .running => 1
  | .stalled => 2
  | .draining => 3
  | .fenced => 6

/-- FRZ_PART_ID.PRESENT (R406). -/
def State.presentMask (s : State) : Nat := match s.part with | .v3s => 0x000F | .v3x => 0xFFFF

/-- The FID that an engine stalls on. -/
def State.stallFid (s : State) (rs : List Req) : Nat :=
  (rs.findSome? fun r => match r.st with
    | .faulted p n => (s.fent? p n).map FEntry.fid
    | _ => none).getD 0

/-- POS of FRZ_CMP_PROG (R233, R237). -/
def Comp.posNow (v : Comp) : Nat := if v.st = .stalled then v.stallPos else v.adm

/-- An engine's entry in the snapshot. -/
def engEntry (state part queue fid low : Nat) : Bytes :=
  toLE 1 state ++ toLE 1 part ++ toLE 2 queue ++ toLE 2 fid ++ zeros 2 ++ toLE 8 low

/-- A queue's entry in the snapshot. -/
def State.queueEntry (s : State) (q : Nat) : Bytes :=
  let v := s.queue q
  toLE 2 v.head.toNat ++ toLE 2 v.tail.toNat ++ toLE 2 v.ctail.toNat ++ toLE 2 v.chead.toNat ++
    toLE 1 (v.st.code + 16 * v.wait.toNat) ++ toLE 1 (s.inFlight q).length ++ toLE 2 (slugWtally v.fetch.slug) ++
    toLE 1 (b2n (slugWaitt v.fetch.slug)) ++ toLE 1 v.rereads.toNat ++ zeros 2

def State.pleatEntry (s : State) (e : Nat) : Bytes :=
  let v := s.eng e
  engEntry v.st.code v.part (if (s.engCmd e).isSome then v.queue else 0xFFFF) (s.stallFid (s.pleatReqs e))
    v.residue.toNat

def State.compEntry (s : State) (n : Nat) : Bytes :=
  let v := s.comp n
  engEntry v.st.code v.part (if (s.compCmd n).isSome then v.queue else 0xFFFF) (s.stallFid (s.compReqs n)) v.posNow

/-- A walker's entry. R473 gives no code for the STATE of a walker that holds a walk: a free value. -/
def State.walkerEntry (s : State) (w : Nat) : Bytes :=
  match s.walk? w with
  | none => engEntry 0 0 0xFFFF 0 0
  | some v => engEntry (Config.freeByte (s.free + w)).toNat v.part 0xFFFF 0 v.va

/-- A fault entry of the snapshot, with the state's code. -/
def State.faultEntry (s : State) (e : FEntry) : Bytes :=
  let k := match e.st with
    | .raised => 1
    | .logged => 2
    | .requested => 3
    | .replaying => 4
  toLE 2 e.fid ++ toLE 1 k ++ zeros 1 ++ toLE 4 ((s.now - e.tstamp.toNat) / 2000000)

/-- The kind of an open directory transaction in the snapshot; sweeps have none. -/
def TxKind.code : TxKind → Nat
  | .rds => 1
  | .rdx => 2
  | .upg => 3
  | .evc => 4
  | .nar => 5
  | .uwr => 6
  | .atm => 7
  | .sweep => 0
  | .flush => 0

def State.txnEntry (s : State) (t : Txn) : Bytes :=
  toLE 4 t.line ++ toLE 1 t.kind.code ++ toLE 1 (if t.ureq.isSome then 0x7F else t.agent) ++ toLE 1 t.snoops.length ++
    toLE 1 (s.lin.waits.filter fun x => x.line == t.line).length ++ zeros 8

/-- Send credits held at an interface: their counts are free values. -/
def State.creditEntry (s : State) (i : Nat) : Bytes :=
  let c (k : Nat) : Bytes := toLE 2 (Config.freeCredit (s.free + 4 * i + k)).toNat
  toLE 2 i ++ zeros 2 ++ c 0 ++ c 1 ++ c 2 ++ c 3 ++ zeros 4

/-- The sections of the snapshot, as offset and bytes (R473). -/
def State.tackParts (s : State) : List (Nat × Bytes) :=
  [(0, toLE 4 0x4B434154 ++ zeros 4 ++ toLE 8 s.now ++ toLE 4 s.aon.hours.toNat ++ toLE 4 s.aon.pcycle.toNat ++
      toLE 1 s.obs.tkcause.toNat ++ zeros 1 ++ toLE 2 s.presentMask)] ++
    (s.gal.queues.map fun t => (0x40 + 16 * t.1, s.queueEntry t.1)) ++
    ((List.range 64).map fun e => (0x10040 + 16 * e, s.pleatEntry e)) ++
    ((List.range 16).map fun n => (0x10040 + 16 * (64 + n), s.compEntry n)) ++
    ((List.range 48).map fun w => (0x10040 + 16 * (80 + w), s.walkerEntry w)) ++
    ((List.range 16).flatMap fun p => (s.fltp p).entries.map fun e => (0x10840 + 4096 * p + 8 * e.n, s.faultEntry e)) ++
    (((s.lin.opens.filter Txn.isReq).take 1024).zipIdx.map fun t => (0x20840 + 16 * t.2, s.txnEntry t.1)) ++
    ((List.range 124).map fun i => (0x24840 + 16 * i, s.creditEntry i))

/-- Bytes of the snapshot. -/
def tackLen : Nat := 151616

/-- R472: one instant of the whole device. -/
def execTackCapture (s_ : State) : Ans :=
  inUnit 0xC 0 s_ fun s =>
  if s.obs.tkbusy && !s.obs.captured && (List.range 26).all fun d => s.dom d == .run then
    .next { s with
      free := s.free + 512
      obs := { s.obs with captured := true, shadow := s.tackParts.foldl (fun m x => Memory.writeAll m x.1 x.2) [] } }
  else .next s

/-- The granules of the snapshot that partition 0 may not write (R107, R472). -/
def State.tackBad (s : State) : List Nat :=
  (granules (bits s.obs.tkbase.toNat 51 12 * 4096) tackLen).filter fun g => !s.grantedAt 0 (64 * g) .write false

/-- The write-out reaches the homes of its granules, but for those refused: every byte of the snapshot, zeros included. -/
def State.tackStore (s : State) (bad : List Nat) : State :=
  let a := bits s.obs.tkbase.toNat 51 12 * 4096
  let s1 := s.unveilRange a tackLen
  let stays (b : Nat) : Bool := decide (b < a) || decide (a + tackLen ≤ b) || bad.contains (b / 64)
  let m := (s.obs.shadow.filter fun c => !stays (a + c.1)).foldl (fun m c => Memory.write m (a + c.1) c.2)
    (s1.mem.filter fun c => stays c.1)
  ({ s1 with mem := m, poison := s1.poison.filter fun g => stays (64 * g) } : State).watchDev a tackLen

/-- R472, R474: DONE, with ERR when a write failed; the base must lie in tier 0. A failure reported from outside leaves memory as
it was. -/
def execTackDone (ok : Bool) (s_ : State) : Ans :=
  inUnit 0xC 0 s_ fun s =>
  if s.obs.tkbusy && s.obs.captured then
    let a := bits s.obs.tkbase.toNat 51 12 * 4096
    let bad := s.tackBad
    let there := ok && decide (a + tackLen ≤ tier0End)
    let s1 := (if there then s.tackStore bad else s).pulses 1 bad.length
    let s2 : State := { s1 with obs := { s1.obs with tkbusy := false, tkdone := true,
                                                     tkerr := s1.obs.tkerr || !there || !bad.isEmpty,
                                                     captured := false, shadow := [] } }
    .next (s2.relevel s)
  else .next s

/-! ### Sensors (R461, R485) -/

/-- PEAK takes the value of NOW; TEMP responds to partition 0 and the tailor cores (R462). -/
def execTempClrpeak (w : Who) (s_ : State) : Ans :=
  delivered (.tempClrpeak w) s_ fun t_ =>
  heard w t_ fun s =>
  if isMgr w then .next { s with obs := { s.obs with peak := s.obs.temp } } else .next s

end Sys2Proof.Machine
end

