-- ==== Sys2Proof/Machine/Resets.lean ====
section
/-! DEFINITION. Timeouts of host requests (R362 to R365), the resets of functions, links and ports with the veil (R367 to R370), VF
Enable (R351), link changes (R372), and configuration writes (chapter 12). -/

namespace Sys2Proof.Machine

open Sys2Proof

/-! ### Completion timeouts -/

/-- The tag of a request that timed out is kept out of use (R364). -/
def State.quarantine (s : State) (link tag part : Nat) (src : BitVec 9) (proof : Bool) : State :=
  let l : Late := { link := link, tag := tag, proof := proof, time := s.now, part := part, src := src }
  { s with host := { s.host with quar := s.host.quar ++ [l] } }

/-- A committed request that times out is also reported through AER on its function (R363). -/
def State.reportTimeout (s : State) (tag part : Nat) (src : BitVec 9) : State :=
  ((s.quarantine (s.linkOf part) tag part src false).aerReport part aerTimeout).emit (.cplTimeout part)

/-- A request of the pool times out, whole (R365): a bus error for its requester. -/
def State.timeOutReq (s : State) (r : Req) : State :=
  match r.st with
  | .sent (.host a ats) =>
    ((s.reportTimeout r.id r.part r.src).setReq { r with st := .failed (.host a ats) .hostTimeout }).handOn r.id
  | _ => s

/-- A request that its unit had given up times out. -/
def State.timeOutOrphan (s : State) (r : Req) : State :=
  ({ s with orphans := s.orphans.filter fun x => x.id != r.id } : State).reportTimeout r.id r.part r.src

/-- A flushing read of a command times out (R53). -/
def State.timeOutFlush (s : State) (c : Cmd) : State :=
  match c.st, c.ftag with
  | .flushing, some tag => (s.reportTimeout tag c.part 0x108).flushEnds c false
  | _, _ => s

/-- The flushing read of a trace drain times out (R468). -/
def State.timeOutDrain (s : State) (p e tag : Nat) : State :=
  (s.reportTimeout tag p (BitVec.ofNat 9 (0x110 + e))).endDrain p false

/-- An ATS Translation Request times out (R116); that of a proof walk is reported nowhere (R264). -/
def State.timeOutAts (s : State) (w : Walk) : State :=
  let src := BitVec.ofNat 9 (0x160 + w.w)
  (if w.proof.isSome then s.quarantine (s.linkOf w.part) w.tag w.part src true else s.reportTimeout w.tag w.part src).atsAnswer w
    .failed

/-- A proof read of host memory times out: it is dropped silently (R264). -/
def State.timeOutProof (s : State) (n : Nat) (h : Proof) : State :=
  (s.quarantine (s.linkOf h.part) h.id h.part (BitVec.ofNat 9 (0x150 + n)) true).loseProof n h.id

/-- The host request with a tag, of the partitions that `here` takes, times out (R362, R363). -/
def State.timeOutTag (s : State) (here : Nat → Bool) (tag : Nat) : State :=
  match s.req? tag with
  | some r => if here r.part then s.timeOutReq r else s
  | none =>
    match s.orphans.find? fun r => r.id == tag && here r.part with
    | some r => s.timeOutOrphan r
    | none =>
      match s.gal.cmds.find? fun c => c.ftag == some tag && c.st == .flushing && here c.part with
      | some c => s.timeOutFlush c
      | none =>
        match s.obs.drains.find? fun d => here d.1 && s.obs.flush.contains (d.2.1, tag) with
        | some d => s.timeOutDrain d.1 d.2.1 tag
        | none =>
          match s.trn.walks.find? fun w => w.tag == tag && w.st == .ats && here w.part with
          | some w => s.timeOutAts w
          | none =>
            match s.proofTag tag with
            | some (n, h) => if here h.part then s.timeOutProof n h else s
            | none => s

/-- R362, R363: what waits for a tag may go then. -/
def execCompletionTimeout (link : Fin 4) (tag : Nat) (s : State) : Ans :=
  let here (p : Nat) : Bool := s.linkOf p == link.val
  if (s.link link.val).ctoDis then .next s else .next ((s.timeOutTag here tag).release fun r => here r.part)

/-- Every host request of a partition that is out is treated as timed out (R368, step 3; R367). -/
def State.timeOutPart (s : State) (p : Nat) : State :=
  let reqs := ((s.reqs ++ s.orphans).filter fun r => r.part == p && (match r.st with | .sent (.host _ _) => true | _ => false)).map (·.id)
  let flushes := (s.gal.cmds.filter fun c => c.part == p && c.st == .flushing).filterMap (·.ftag)
  let drains := (s.obs.drains.filter fun d => d.1 == p).flatMap fun d => (s.obs.flush.filter fun f => f.1 == d.2.1).map (·.2)
  let walks := (s.trn.walks.filter fun w => w.part == p && w.st == .ats).map (·.tag)
  let proofs := (List.range 16).flatMap fun n => ((s.lk n).held.filter fun h => h.part == p && h.atHost).map (·.id)
  (reqs ++ flushes ++ drains ++ walks ++ proofs).foldl (fun s tag => s.timeOutTag (fun q => q == p) tag) s

/-! ### The veil (R369) -/

/-- Intervals without the regions `a` to `b`. -/
def cutIv (a b : Nat) : List (Nat × Nat) → List (Nat × Nat)
  | [] => []
  | (f, l) :: t => (if f < a then [(f, min l (a - 1))] else []) ++ (if b < l then [(max f (b + 1), l)] else []) ++ cutIv a b t

/-- Intervals without any of some others. -/
def cutAll (ivs : List (Nat × Nat)) (l : List (Nat × Nat)) : List (Nat × Nat) := ivs.foldl (fun l iv => cutIv iv.1 iv.2 l) l

/-- The last 2 MiB region of tier 1. -/
def lastRegion : Nat := tier1End / 2 ^ 21 - 1

/-- The 2 MiB regions of tier 0 and tier 1 that a partition's ranges with WR cover, in whole or in part. -/
def State.wrRegions (s : State) (p : Nat) : List (Nat × Nat) :=
  (List.range 8).filterMap fun i =>
    let b := (s.trn.bbase.get 0 (8 * p + i)).toNat
    let l := (s.trn.blim.get 0 (8 * p + i)).toNat
    let lo := bits b 51 12 * 4096
    let hi := bits l 51 12 * 4096 + 4095
    if bit b 0 && bit b 2 && decide (lo ≤ hi) && decide (lo / 2 ^ 21 ≤ lastRegion) then
      some (lo / 2 ^ 21, min (hi / 2 ^ 21) lastRegion)
    else none

/-- The regions of the coherent window. -/
def State.windowRegions (s : State) : List (Nat × Nat) :=
  if s.lin.size = 0 then [] else [(s.lin.base / 2 ^ 21, (s.lin.base + s.lin.size * 2 ^ 30) / 2 ^ 21 - 1)]

/-- The regions that the reset of a partition veils; those veiled already stay so. -/
def State.newVeil (s : State) (p : Nat) : List (Nat × Nat) :=
  let others := (below 16 fun q => q != p && q != 0 && s.present q && (s.fn q).flr == .none).flatMap s.wrRegions
  let kept := others ++ s.windowRegions ++ s.veil.map (·.2)
  (s.wrRegions p).foldl (fun acc iv => acc ++ cutAll (kept ++ acc) [iv]) []

def State.raiseVeil (s : State) (p : Nat) : State :=
  { s with veil := s.veil ++ (s.newVeil p).map fun iv => (p, iv.1, iv.2) }

/-! ### The steps of a function-level reset (R368) -/

/-- Fault entries of a partition end, and so do the faults that wait for one: a tile that waits takes a bus error, for its
request is aborted. -/
def State.endFaults (s : State) (p : Nat) : State :=
  let rs := s.reqs.filter fun r => r.part == p && (r.st.inFault || r.replay.isSome)
  let s1 := s.withdrawReqs fun r => r.part == p && (r.st.inFault || r.replay.isSome)
  (oneEach rs []).foldl (fun s r => match r.owner with
    | .tile t e => s.tileFails r t e .none
    | .core k => s.emit (.coreRsp k (.error .none))
    | _ => s) s1

/-- Tiles bound to a partition's contexts are bound no more, and their edge buffers are emptied. -/
def State.unbindTiles (s : State) (p : Nat) : State :=
  let ts := below 64 fun t => s.tilePart t == some p
  s.setTrn { s.trn with
    tbind := s.trn.tbind.map fun x => if ts.contains x.1 then (x.1, x.2 &&& 0x7FFFFFFF) else x
    edge := s.trn.edge.filter fun e => !ts.contains e.buf }

/-- Every window of a partition is committed with EN 0. -/
def State.closeWindows (s : State) (p : Nat) : State :=
  (List.range 64).foldl (fun s i =>
    let n := 64 * p + i
    let w := (s.win n).live
    s.commitWin n { w with cfg := w.cfg &&& 0x7FFFFFFFFFFFFFFF }) s

/-- Every queue of a partition enters RESETTING, and its commands are aborted (R81, R82). -/
def State.resetQueues (s : State) (p : Nat) : State :=
  ((s.gal.queues.filter fun t => t.1 / 256 == p).map (·.1)).foldl State.resetQueue s

/-- What the lookaheads hold for a partition is discarded with code 0x8. -/
def State.dropLookaheads (s : State) (p : Nat) : State :=
  (below 16 fun n => (s.lk n).queue.isSome && s.lkPart n == p).foldl (fun s n => s.discardAll n 8) s

/-- Steps 1 and 2. A reset that finds one in progress joins it. -/
def State.startFlr (s : State) (p : Nat) : State :=
  if (s.fn p).flr ≠ .none then s
  else
    let s1 := s.setFn p { s.fn p with flr := .drain, flrId := s.nextId }
    ((((s1.resetQueues p).endFaults p).dropLookaheads p).closeWindows p).unbindTiles p

/-- The enabled virtual functions of a link. -/
def State.vfsOf (s : State) (l : Nat) : List Nat := below 16 fun p => s.linkOf p == l && !s.isPf p && (s.fn p).enabled

/-- A function-level reset of a function, and of the enabled VFs of a PF. -/
def State.flrOf (s : State) (p : Nat) : State :=
  let s1 := s.startFlr p
  if s.isPf p then (s.vfsOf (s.linkOf p)).foldl State.startFlr s1 else s1

/-- A request that step 3 waits for: not one that a tailor core issued after step 2. -/
def State.flrWaits (s : State) (p : Nat) (r : Req) : Bool :=
  r.part == p && (match r.owner with | .core _ => decide (r.id < (s.fn p).flrId) | _ => true)

/-- A lookahead's read of a partition that is still out. -/
def State.proofsOut (s : State) (p : Nat) : Bool := (List.range 16).any fun n => (s.lk n).held.any fun h => h.part == p && h.data.isNone

/-- Nothing of the partition is outstanding, wherever it was issued: step 3 ends. Reads given up by their unit count while the host owes
them. -/
def State.flrQuiet (s : State) (p : Nat) : Bool :=
  !(s.reqs ++ s.orphans).any (s.flrWaits p) && !s.proofsOut p && !s.gal.cmds.any (fun c => c.part == p) && !s.seam.flight.any (fun f => f.part == p) &&
    (List.range 64).all (fun i => (s.win (64 * p + i)).drain == 0) && !s.trn.walks.any (fun w => w.part == p) &&
    !s.obs.drains.any (fun d => d.1 == p)

/-- Transactions Pending of a function reads 1 while step 3 waits. -/
def State.transactionsPending (s : State) (p : Nat) : Bool := (s.fn p).flr == .drain && !s.flrQuiet p

/-- Instances of a table whose number satisfies `p` return to their default. -/
def Tbl.clear {α : Type} (t : Tbl α) (p : Nat → Bool) : Tbl α := t.filter fun x => !p x.1

/-- Every context of a partition has VALID cleared, which issues an invalidation of each that was valid (R135). -/
def State.clearContexts (s : State) (p : Nat) : State :=
  let cs := below 64 fun i => s.ctxValid (64 * p + i)
  let s1 := s.setTrn { s.trn with ctxcfg := Tbl.clear s.trn.ctxcfg fun c => c / 64 == p,
                                  ctxroot := Tbl.clear s.trn.ctxroot fun c => c / 64 == p }
  cs.foldl (fun s i => s.acceptInv p (.ctx (64 * p + i)) .cfg) s1

/-- Every epoch slot of a partition becomes FREE after a purge sweep, with no release source (R159, R163). -/
def State.freeSlots (s : State) (p : Nat) : State :=
  let mine (t : Nat) : Bool := t / 512 == p
  let used := (s.epo.tables.filter fun t => mine t.1).flatMap fun t =>
    (if t.2.a.st = .free then [] else [(t.1, false)]) ++ (if t.2.b.st = .free then [] else [(t.1, true)])
  let s1 : State := { s with
    epo := { tables := Tbl.clear s.epo.tables mine, flips := s.epo.flips.filter fun f => f.part != p,
             sweep := s.epo.sweep.map fun l => l.filter fun x => !mine x.1 }
    cmp := { s.cmp with swatch := s.cmp.swatch.filter fun e => !mine e.table } }
  if used.isEmpty then s1 else s1.emit (.rowPurge used)

/-- The sources and banks of a partition return to their reset values; ownership stays (R375, R379). -/
def State.resetSources (s : State) (p : Nat) : State :=
  let mine (n : Nat) : Bool := s.srcOwner n == some p
  { s with ic := { s.ic with
      srcs := s.ic.srcs.map fun x => if mine x.1 then (x.1, { owner := x.2.owner }) else x
      risen := s.ic.risen.filter fun n => !mine n
      hbanks := Tbl.clear s.ic.hbanks fun b => b / 256 == p } }

/-- The configuration space of a function after its reset; a PF's VFs are gone, and its link's settings are the reset ones. Max Payload Size
and what AER has noted stay (PRESUMED: PCI Express keeps them). -/
def State.resetConfig (s : State) (p : Nat) : State :=
  let f := s.fn p
  let s1 := s.setFn p { enabled := f.enabled, flr := f.flr, flrId := f.flrId, mps := f.mps, aer := f.aer, aerFirst := f.aerFirst }
  if s1.isPf p then
    let l := s1.linkOf p
    let s2 := (s1.vfsOf l).foldl (fun s q => s.setFn q { s.fn q with enabled := false }) s1
    s2.setLink l { s2.link l with cpto := 0, ctoDis := false, vfEn := false, numVfs := 0, pfBar := s2.host.pfBar,
                                  vfBar := s2.host.vfBar, vfBars := [] }
  else s1

/-- The registers of a partition return to their reset values; quotas, bound ranges, PMODE, tally ownership, source ownership and
what only partition 0 writes stay. -/
def State.resetRegs (s : State) (p : Nat) : State :=
  let me (k : Nat) : Bool := k == p
  let f := s.fltp p
  let s1 := (s.clearContexts p).freeSlots p
  let s2 := (s1.setFltp p { gens := f.gens, order := f.order }).resetSources p
  { s2 with
    latch := s2.latch.filter fun x => match x.1 with | .fn q => q.val != p | .core _ => true
    gal := { s2.gal with queues := Tbl.clear s2.gal.queues fun q => q / 256 == p, selPart := Tbl.clear s2.gal.selPart me,
                         selQ := Tbl.clear s2.gal.selQ me, haltmap := Tbl.clear s2.gal.haltmap me }
    trn := { s2.trn with invaddr := Tbl.clear s2.trn.invaddr me, refused := Tbl.clear s2.trn.refused me,
                         invseq := Tbl.clear s2.trn.invseq me }
    plt := { s2.plt with sel := Tbl.clear s2.plt.sel me, haltmap := Tbl.clear s2.plt.haltmap me }
    cmp := { s2.cmp with sel := Tbl.clear s2.cmp.sel me, look := Tbl.clear s2.cmp.look fun k => k / 1024 == p,
                         fetch := Tbl.clear s2.cmp.fetch fun k => k / 1024 == p }
    lka := { s2.lka with ctl := Tbl.clear s2.lka.ctl me, last := Tbl.clear s2.lka.last me, issue := Tbl.clear s2.lka.issue me,
                         used := Tbl.clear s2.lka.used me, disc := Tbl.clear s2.lka.disc me, walks := Tbl.clear s2.lka.walks me }
    seam := { s2.seam with wins := Tbl.clear s2.seam.wins fun n => n / 64 == p, sel := Tbl.clear s2.seam.sel me,
                           refused := Tbl.clear s2.seam.refused me, rsn := Tbl.clear s2.seam.rsn me }
    tal := s2.tal.map fun t => if t.2.owner = some p then (t.1, { owner := some p }) else t
    lin := { s2.lin with hintb := Tbl.clear s2.lin.hintb fun h => h / 4 == p, hintl := Tbl.clear s2.lin.hintl fun h => h / 4 == p }
    prt := { s2.prt with ovr := Tbl.clear s2.prt.ovr me, last := Tbl.clear s2.prt.last me }
    obs := { s2.obs with tr := Tbl.clear s2.obs.tr me, pcnt := Tbl.clear s2.obs.pcnt fun k => k / 8 == p,
                         gap := Tbl.clear s2.obs.gap fun k => k / 8 == p }
    rcd := { s2.rcd with cursor := Tbl.clear s2.rcd.cursor me, latch := Tbl.clear s2.rcd.latch me } }

/-! ### Meanings: function-level resets -/

/-- R368, steps 1 and 2. -/
def execInitiateFlr (p : Fin 16) (s_ : State) : Ans :=
  delivered (.initiateFlr p) s_ fun s =>
  if s.aon.boot ≠ .ready ∨ (s.fn p.val).enabled = false then .next s
  else if (s.fn p.val).flr ≠ .none then .next (s.emit (.retryStatus p.val))
  else .next (s.flrOf p.val)

/-- R368, steps 4 and 5: the veil, then the registers. -/
def execFlrDrainDone (p : Fin 16) (s : State) : Ans :=
  if (s.fn p.val).flr = .drain ∧ s.flrQuiet p.val = true then
    let s1 := ((s.raiseVeil p.val).resetRegs p.val).resetConfig p.val
    .next ((s1.setFn p.val { s1.fn p.val with flr := .reset }).relevel s1)
  else .next s

/-- A request of the partition that is held in the port of a tile without power (R27). -/
def State.heldOff (s : State) (p : Nat) (r : Req) : Bool :=
  r.part == p && (match r.st with
    | .tileOff _ => true
    | .issued (.dev a) => s.waitsOff r a
    | _ => false)

/-- A walk of the partition whose table read is held there. -/
def State.walkOff (s : State) (p : Nat) (w : Walk) : Bool := w.part == p && w.st == .reading && s.anyOff w.entryAt 8

/-- What is discarded of the partition: what is held there, with the other pieces of a tile's request, and what waits on such a walk. -/
def State.offReqs (s : State) (p : Nat) : List Req :=
  let off (r : Req) : Bool := s.heldOff p r || (match r.st with
    | .walking w => r.part == p && s.trn.walks.any fun x => x.w == w && s.walkOff p x
    | _ => false)
  s.reqs.filter fun r => off r || (r.grp != 0 && s.reqs.any fun x => x.grp == r.grp && off x)

/-- The unit whose request has been discarded goes on, and what waited for it. -/
def State.afterDiscard (s : State) (r : Req) : State :=
  match r.owner with
  | .record q pos => s.dropCmd q pos
  | .swRecord q pos => s.dropCmd q pos
  | .swList q pos => s.dropCmd q pos
  | .tadd q pos => s.dropCmd q pos
  | .bar2Wr l _ _ => s.releaseFences l
  | .phys k =>
    match s.obs.drains.find? fun d => 1 + d.1 == k with
    | some d => s.leaveDrain d.1 d.2.1
    | none => s
  | o =>
    match Owner.pleat? o, Owner.comp? o with
    | some e, _ => s.pleatSettle e
    | _, some n => s.compSettle n
    | _, _ => s

/-- Requests held in the port of a powered-down tile are discarded: they perform nothing and return nothing (R368, step 3). -/
def State.discardHeld (s : State) (p : Nat) : State :=
  let rs := s.offReqs p
  let fl := s.seam.flight.filter fun f => f.part == p && s.anyOff f.addr f.len
  let s1 := (s.trn.walks.filter (s.walkOff p)).foldl (fun s w => s.dropWalk w.w) (s.dropReqs fun r => rs.any fun x => x.id == r.id)
  let s2 := if fl.isEmpty then s1 else (fl.foldl State.finishFlight s1).settleFlights
  rs.foldl State.afterDiscard s2

/-- R368, step 3 at 50 ms. -/
def execFlrDrainTimeout (p : Fin 16) (s : State) : Ans :=
  if (s.fn p.val).flr = .drain then .next ((s.timeOutPart p.val).discardHeld p.val) else .next s

/-- R368, step 6. -/
def execFlrReady (p : Fin 16) (s : State) : Ans :=
  if (s.fn p.val).flr = .reset then .next (s.setFn p.val { s.fn p.val with flr := .none }) else .next s

/-! ### Meanings: VF Enable and the links' resets -/

/-- Partitions that present a function in the life-cycle state (R430). -/
def State.lcsAllows (s : State) (p : Nat) : Bool := p == 0 || !(s.aon.lcs == 0 || s.aon.lcs == 3)

/-- R351. -/
def execVfEnable (link : Fin 4) (on : Bool) (num : Nat) (s_ : State) : Ans :=
  delivered (.vfEnable link on num) s_ fun s =>
  let l := link.val
  let pf := s.pfOf l
  let k := s.link l
  if s.aon.boot ≠ .ready ∨ s.linkThere l = false ∨ s.totalVfs l = 0 ∨ (s.fn pf).enabled = false then .next s
  else if (s.fn pf).flr ≠ .none then .next (s.emit (.retryStatus pf))
  else if on then
    (if k.vfEn then .next s
     else if s.totalVfs l < num then .next (s.pulse 4)
     else
       let s1 := s.setLink l { k with vfEn := true, numVfs := num }
       .next ((below 16 fun p => decide (pf < p) && decide (p ≤ pf + num) && s.lcsAllows p).foldl
         (fun s p => s.setFn p { s.fn p with enabled := true }) s1))
  else
    let vs := s.vfsOf l
    let s1 := vs.foldl State.startFlr (s.setLink l { k with vfEn := false })
    .next (vs.foldl (fun s p => s.setFn p { s.fn p with enabled := false }) s1)

/-- The link is down: its status fields show no link. -/
def downStat : LinkStat := ⟨false, false, false, false, false, 0, 0⟩

/-- A reset of a link: a function-level reset of its functions that waits for nothing of the host, and its configuration space at
reset values (R367). What it had brought and Fraiz still holds is lost. -/
def State.resetLink (s : State) (l : Nat) : State :=
  let fs := below 16 fun p => s.linkOf p == l && (s.fn p).enabled
  let s1 := (fs.foldl State.startFlr s).dropHeld (· == l)
  let s2 := fs.foldl State.timeOutPart s1
  let s3 := (s2.vfsOf l).foldl (fun s p => s.setFn p { s.fn p with enabled := false })
    (s2.setFn (s2.pfOf l) { s2.fn (s2.pfOf l) with mps := 0 })
  (s3.setLink l { s3.link l with cpto := 0, ctoDis := false, vfEn := false, numVfs := 0, pfBar := s3.host.pfBar,
                                 vfBar := s3.host.vfBar, vfBars := [], fences := [], ide := [] }).setLinkStat l downStat

/-- R23, R367. -/
def execFundamentalReset (b : Bool) (s : State) : Ans :=
  if b && s.part == .v3s then .next s
  else
    let l := 2 * b2n b
    let s1 := (s.resetLink l).resetLink (l + 1)
    let s2 := s1.setLink l { s1.link l with perst := true }
    .next (s2.setLink (l + 1) { s2.link (l + 1) with perst := true })

/-- R367: in band, or the link going down. -/
def execHotReset (link : Fin 4) (s : State) : Ans :=
  if s.linkThere link.val then .next (s.resetLink link.val) else .next s

/-- R367, R372, R377: a link that goes down resets its functions. One trains only once the PLLs have locked (R422). -/
def execLinkStateChange (link : Fin 4) (st : LinkStat) (s : State) : Ans :=
  let k := s.link link.val
  if !s.linkThere link.val || k.perst || (st.up && !s.obs.on) || (st.up && !s.serving 9 (link.val / 2)) then .next s
  else if k.stat.up && !st.up then .next ((s.resetLink link.val).setLinkStat link.val st)
  else
    let d := if link.val < 2 then 1 else 2
    .next ((if st.up && !st.l1 then s.wake d else s).setLinkStat link.val st)

/-- ATS is off for a function: no translation of its host-visible half stays cached (R117). -/
def State.dropAts (s : State) (p : Nat) : State :=
  let keep (e : XEntry) : Bool := !(e.ats && e.ctx / 64 == p)
  s.setTrn { s.trn with edge := s.trn.edge.filter keep, folio := s.trn.folio.filter keep }

/-! ### Meanings: configuration writes -/

/-- A configuration write that a function takes. The Device Control of a physical function governs its VFs too (PRESUMED). -/
def State.configure (s : State) (p : Nat) (c : CfgWrite) : State :=
  let f := s.fn p
  let l := s.linkOf p
  let k := s.link l
  match c with
  | .busMaster on => s.setFn p { f with bme := on }
  | .dstate d3 => if s.isPf p then s.setFn p { f with d3 := d3 } else s
  | .cplTimeout v off => if s.isPf p then s.setLink l { k with cpto := v, ctoDis := off } else s
  | .ats on => if s.part = .v3x then (s.setFn p { f with ats := on }).dropAts p else s
  | .pasid on => if s.isPf p then s.setFn p { f with pasid := on } else s
  | .devControl mps mrrs ro ido tag10 tag14 =>
    if s.isPf p then
      (s.setFn p { f with mps := mps, mrrs := mrrs, ro := ro, ido := ido, tag10 := tag10, tag14 := tag14 }).release fun r =>
        s.linkOf r.part == l
    else s
  | .baseAddr n v => s.writeBar p n.val v
  | .vfBaseAddr n v => s.writeVfBar p n.val v
  | .aerClear mask => s.setFn p { f with aer := f.aer &&& ~~~mask }
  | .pri on alloc =>
    if s.part = .v3x then
      let s1 := s.setFn p { f with pri := on, prAlloc := alloc }
      let s2 := if on && !f.pri then s1.modFltp p fun x => { x with prioff := false } else s1
      ((s2.fltp p).entries.filter fun x => x.st == .raised).foldl (fun s x => s.routeEntry p x) s2
    else s
  | .atomicRequester on => s.setFn p { f with atomReq := on }
  | .tph on vec => s.setFn p { f with tph := on, tphVec := vec }
  | .msix en mask => s.setFn p { f with msixEn := en, fmask := mask }
  | .msixEntry n mask a d st => s.setFn p { f with table := f.table.set n.val { mask := mask, addr := a, data := d, st := st } }
  | .cxlHdmDb on =>
    if s.isPf p && (l == 0 || l == 2) && k.stat.cxl && (!on || s.lin.size != 0) then s.setLinkStat l { k.stat with bi := on } else s
  | .ide i rids blocks secure =>
    if s.isPf p then
      s.setLink l { k with ide := Tbl.set k.ide i.val { rids := rids.map (·.val), blocks := blocks.take 2, secure := secure } }
    else s

/-- What the recovery identity's one function takes: it has BAR0 alone, and no host-bound request exists (R421). -/
def recoveryTakes : CfgWrite → Bool
  | .busMaster _ => true
  | .dstate _ => true
  | .cplTimeout _ _ => true
  | .devControl _ _ _ _ _ _ => true
  | .aerClear _ => true
  | .baseAddr n _ => decide (n.val < 2)
  | _ => false

/-- R352, R354, R359 to R362, R423: Request Retry Status before the functions are ready and while one is being reset. -/
def execConfigurationWrite (p : Fin 16) (c : CfgWrite) (s_ : State) : Ans :=
  delivered (.configurationWrite p c) s_ fun s =>
  if s.aon.boot = .recovery then .next (if p.val = 0 && recoveryTakes c then s.configure 0 c else s)
  else if s.aon.boot ≠ .ready then .next (s.emit (.retryStatus p.val))
  else if (s.fn p.val).enabled = false then .next s
  else if (s.fn p.val).flr ≠ .none then .next (s.emit (.retryStatus p.val))
  else .next (s.configure p.val c)

end Sys2Proof.Machine
end

