-- ==== Sys2Proof/Machine/Errors.lean ====
section
/-! DEFINITION. The error collector (chapter 16): reports and wire faults, latching and the handling interval, fencing with its
degraded modes, the FERR pair, and clearing. -/

namespace Sys2Proof.Machine

open Sys2Proof

/-! ### What a pair shows -/

/-- A source's pair shows an error, or is in wire fault. -/
def State.showing (s : State) (n : Nat) : Bool := s.err.live.getLsbD n || s.err.wire.getLsbD n

/-- The level report of a source is over, or none is made: its unit is OUT, or its port is closed (R444). -/
def State.silent (s : State) (n : Nat) : Bool :=
  let (c, i) := errUnit n
  if 181 ≤ n ∧ n < 253 then s.err.sticky.getLsbD n else c != 0 && (s.unit c i).st == .out

/-! ### Amendments and units -/

/-- An amendment ends, whatever its result (R426, R439). -/
def State.endAmendment (s0 : State) (res : Byte) : State :=
  let s := s0.dropReqs fun r => r.owner == .phys 0
  ({ s with aon := { s.aon with mbbusy := false, mbstep := 0, mbres := res, amend := none } } : State).setSysev 0x80000000

/-- The amendment that has passed its checks is of this unit. -/
def State.amending (s : State) (code inst : Nat) : Bool :=
  s.aon.mbbusy && s.aon.amend.any fun a => a.code.toNat == code && a.inst.toNat == inst

/-! ### Degraded modes (R449) -/

/-- A fenced walker's walk is discarded, and the requests that wait on it wait for another, which begins at the root. A table read
that is out still returns. -/
def State.fenceWalker (s : State) (w : Nat) : State :=
  match s.walk? w with
  | none => s
  | some v =>
    let owed := v.st == .reading && !s.reqs.any fun r => r.owner == .walk w
    let s0 := s.dropWalk w
    let s1 := if owed then s0.setTrn { s0.trn with late := s0.trn.late ++ [w] } else s0
    let again (r : Req) : Req := if r.st == .walking w then { r with st := .missWait, at_ := v.order } else r
    let any := s1.reqs.any fun r => r.st == .walking w
    { s1 with reqs := s1.reqs.map again,
              trn := { s1.trn with roots := if any then s1.trn.roots ++ [(v.ctx, v.va / 4096)] else s1.trn.roots } }

/-- A host port's links are taken down, and the host requests that are out end as timed out. The functions are not reset:
their partitions go on, and meet R352. -/
def State.fencePort (s : State) (b : Nat) : State :=
  [2 * b, 2 * b + 1].foldl (fun s l =>
    if (s.link l).stat.up then
      let s1 := (below 16 fun p => s.linkOf p == l).foldl State.timeOutPart s
      ((s1.dropHeld (· == l)).setLink l { s1.link l with fences := [] }).setLinkStat l downStat
    else s) s

/-- A Hupen transaction layer is fenced: it is not live, and the inbound packets that it has not decoded are dropped and counted. -/
def State.fenceLayer (s : State) (i : Nat) : State :=
  let mine := s.held.filter fun h => h.origin == some (16 + i)
  let s1 := (s.dropHeld (· == 16 + i)).pulses 2 mine.length
  { s1 with seam := { s1.seam with live := setBit s1.seam.live i false } }

/-- What fencing does beyond the unit's state. -/
def State.degrade (s : State) (c i : Nat) : State :=
  match c with
  | 3 => s.fenceWalker i
  | 4 => ({ s with plt := { s.plt with pool := setBit s.plt.pool i false } } : State).pleatFence i
  | 5 => (({ s with cmp := { s.cmp with pool := setBit s.cmp.pool i false } } : State).discardAll i 8).compFence i
  | 7 => s.fenceLayer i
  | 9 => s.fencePort i
  | _ => s

/-- A unit goes OUT; an amendment of it under way ends with 0x07 (R428). -/
def State.fenceUnit (s : State) (c i : Nat) : State :=
  let u := s.unit c i
  if u.st = .out then s
  else
    let s1 := s.setUnit c i { u with st := .out }
    (if s.amending c i then s1.endAmendment 7 else s1).degrade c i

/-- A request in a port that closes ends with a bus error. -/
def State.portBounce (s : State) (r : Req) : State :=
  match r.owner with
  | .fltRec p =>
    let s1 := s.dropReq r.id
    match (s1.fltp p).writing.bind fun n => s1.fent? p n with
    | some e => s1.recordFailed p e
    | none => (s1.modFltp p fun f => { f with ringerr := true, writing := none }).raiseFaultSource p
  | .phys k =>
    match s.obs.drains.find? fun d => 1 + d.1 == k with
    | some d => s.failDrain d.1 d.2.1
    | none => s
  | _ => (s.useFree 1).bounceAt r (r.st.out?.getD (.dev r.va)) (.port s.free)

/-- A request on its way to the scratchpad of tile `t`. -/
def Req.toScratch (r : Req) (t : Nat) : Bool :=
  match r.st with
  | .issued (.dev a) => (granules a r.len).any fun g => region (64 * g) == .scratch && scratchTile (64 * g) == t
  | .tileOff (.dev a) => (granules a r.len).any fun g => region (64 * g) == .scratch && scratchTile (64 * g) == t
  | .bwWait (.dev a) => (granules a r.len).any fun g => region (64 * g) == .scratch && scratchTile (64 * g) == t
  | _ => false

/-- A port closes: its agent is swept as for fencing (R336), and the requests in it end with a bus error. -/
def State.closePort (s : State) (agent : Nat) (inPort : Req → Bool) : State :=
  ((s.reqs.filter inPort).map (·.id)).foldl (fun s i =>
    match s.req? i with
    | some r => if inPort r then s.portBounce r else s
    | none => s) (s.sweepDead agent)

/-! ### Reactions (R448) -/

/-- The reaction of one latched source. -/
def State.react (s : State) (n : Nat) : State :=
  let (c, i) := errUnit n
  match reactOf n with
  | .fence =>
    if 181 ≤ n ∧ n < 245 then
      let t := n - 181
      s.closePort t fun r => (match r.owner with | .tile k _ => k == t | _ => false) || r.toScratch t
    else if 245 ≤ n then
      let k := n - 245
      s.closePort (64 + k) fun r => match r.owner with | .core j => j == k | _ => false
    else s.fenceUnit c i
  | .device =>
    let s1 := if c = 0 then s else s.fenceUnit c i
    let s2 : State := { s1 with err := { s1.err with halt := true } }
    let fs := below 16 fun p => (s2.fn p).enabled && (s2.link (s2.linkOf p)).stat.up
    if fs.isEmpty then s2 else (fs.foldl (fun s p => s.aerReport p aerInternal) s2).emit .uncorrectable
  | _ => s

/-- The sources sampled in one cycle are latched and handled together (R445, R446). A level ends once its unit is OUT or its port
is closed (R444). -/
def State.latchAll (s : State) (ns : List Nat) : State :=
  let st := ns.foldl (fun b n => setBit b n true) s.err.sticky
  let s1 := ({ s with err := { s.err with sticky := st, handling := s.err.handling || ns.any isLevel } } : State).relevel s
  let s2 := ns.foldl State.react s1
  let lv := (below 512 fun n => s2.err.live.getLsbD n && s2.silent n).foldl (fun b n => setBit b n false) s2.err.live
  ({ s2 with err := { s2.err with live := lv } } : State).updFerr

/-- The entry of the translation caches that source 171 reports is invalidated (R447): of the folio cache or an internal edge buffer, as a free
value says. -/
def State.dropBadEntry (s : State) : State :=
  let inner := s.trn.edge.filter fun e => decide (64 ≤ e.buf)
  let n := s.trn.folio.length + inner.length
  if n = 0 then s
  else
    let k := (Config.freeByte s.free).toNat + 256 * (Config.freeByte (s.free + 1)).toNat
    let s1 := s.useFree 2
    let i := k % n
    if i < s.trn.folio.length then s1.setTrn { s1.trn with folio := s1.trn.folio.eraseIdx i }
    else match inner[i - s.trn.folio.length]? with
      | some e => s1.setTrn { s1.trn with edge := s1.trn.edge.erase e }
      | none => s1

/-- The granule that a POISON source reports is marked at its home (R337, R448). -/
def State.poisonAt (s : State) (g : Nat) : State :=
  if (region (64 * g) == .tier0 || region (64 * g) == .tier1) && !s.poison.contains g then { s with poison := s.poison ++ [g] }
  else s

/-! ### Meanings: reports -/

/-- R444 to R448: the sources whose pairs show an error in one cycle. A port block whose link is lost is no longer trained, and so not live (R304). -/
def execErrorReport (srcs : List (Fin 512)) (granule : Option Nat) (s : State) : Ans :=
  let ns := ((srcs.map (·.val)).eraseDups).filter fun n => !errReserved n && !(isLevel n && s.silent n)
  let lost (b : BitVec 12) : BitVec 12 := (srcs.map (·.val)).foldl (fun b n => if 156 ≤ n ∧ n < 168 then setBit b (n - 156) false else b) b
  let s0 := ns.foldl State.countErr { s with seam := { s.seam with trained := lost s.seam.trained, live := lost s.seam.live } }
  let s1 := if ns.contains 171 then s0.dropBadEntry else s0
  let s2 := match granule with
    | some g => if ns.any (fun n => reactOf n == React.poison) then s1.poisonAt g else s1
    | none => s1
  let lv := (ns.filter isLevel).foldl (fun b n => setBit b n true) s2.err.live
  let s3 : State := { s2 with err := { s2.err with live := lv } }
  if s.err.handling then .next { s3 with err := { s3.err with missed := s3.err.missed || ns.any fun n => !isLevel n } }
  else .next (s3.latchAll ns)

/-- R443: from the fourth equal sample on; an error of its source for as long as it lasts. -/
def execWireFault (n : Fin 512) (s : State) : Ans :=
  if errReserved n.val || s.err.wire.getLsbD n.val then .next s
  else
    let s1 : State := { s with err := { s.err with wire := setBit s.err.wire n.val true } }
    if s.showing n.val || s.err.handling then .next s1 else .next (s1.latchAll [n.val])

/-- R443: opposite levels again; `err`: they show an error. -/
def execWireFaultCleared (n : Fin 512) (err : Bool) (s : State) : Ans :=
  if s.err.wire.getLsbD n.val then
    let on := err && isLevel n.val && !s.silent n.val
    .next { s with err := { s.err with wire := setBit s.err.wire n.val false,
                                       live := if on then setBit s.err.live n.val true else s.err.live } }
  else .next s

/-- R446: reports still showing are latched, and those of FENCE and DEVICE sources start an interval of their own. -/
def execHandlingIntervalEnd (s : State) : Ans :=
  if s.err.handling then
    let s1 : State := { s with err := { s.err with handling := false } }
    .next (s1.latchAll (below 512 fun n => s1.showing n && !s1.err.sticky.getLsbD n))
  else .next s

/-! ### Meanings: clearing and the FERR pair -/

/-- R452. A port whose bit is cleared is open again. Sources 179 and 180 are left only by a power-on reset. -/
def execErrStatClear (w : Who) (k : Fin 16) (mask : W32) (s_ : State) : Ans :=
  delivered (.errStatClear w k mask) s_ fun t_ =>
  heardAon w t_ fun s =>
  if isMgr w then
    let ns := below 32 fun i =>
      mask.getLsbD i && !s.showing (32 * k.val + i) && 32 * k.val + i != 179 && 32 * k.val + i != 180
    .next { s with err := { s.err with sticky := ns.foldl (fun b i => setBit b (32 * k.val + i) false) s.err.sticky } }
  else .next s

/-- The sources whose reaction is DEVICE. -/
def deviceSources : List Nat := below 512 fun n => reactOf n == React.device

/-- Every DEVICE source has its bit clear and its unit IN (R452). -/
def State.devicesIn (s : State) : Bool :=
  deviceSources.all fun n => !s.err.sticky.getLsbD n && ((errUnit n).1 == 0 || s.unitIn (errUnit n).1 (errUnit n).2)

/-- Galley commits again: accepted slugs that need no step of their own. -/
def State.resumeCommits (s : State) : State :=
  ((s.gal.queues.filter fun t => t.2.fetch.st == .accepted).map (·.1)).foldl State.settleAccepted s

/-- R448, R452. -/
def execHaltClear (w : Who) (s_ : State) : Ans :=
  delivered (.haltClear w) s_ fun t_ =>
  heardAon w t_ fun s =>
  if isMgr w && s.err.halt && s.devicesIn then
    .next (({ s with err := { s.err with halt := false } } : State).resumeCommits)
  else .next s

/-- R450. -/
def execFerrDeassert (s : State) : Ans :=
  if s.err.ferrP && !s.ferrWant then .next { s with err := { s.err with ferrP := false, ferrN := true } } else .next s

end Sys2Proof.Machine
end

