-- ==== Sys2Proof/Machine/AlwaysOn.lean ====
section
/-! DEFINITION. Sleep and wake (R413 to R417), power-on, the configuration image and start-up (R418 to R423), the operating hours
(R433), and a tile's power (R27). -/

namespace Sys2Proof.Machine

open Sys2Proof

/-! ### Sleep (R413 to R417) -/

/-- Domains present on the part (R2, R436). -/
def State.domThere (s : State) (d : Nat) : Bool := !(d == 2 && s.part == .v3s)

/-- The domain is in IDLE or DEEP. -/
def State.asleep (s : State) (d : Nat) : Bool := s.dom d == .idle || s.dom d == .deep

/-- The link is down or in a low-power state (R414). -/
def State.linkQuiet (s : State) (l : Nat) : Bool := !(s.link l).stat.up || (s.link l).stat.l1

/-- The translation unit holds work: a walk, an invalidation, a fault to be recorded, or a request on its way through. -/
def State.trnBusy (s : State) : Bool :=
  !s.trn.walks.isEmpty || !s.trn.invs.isEmpty || !s.trn.invHeld.isEmpty ||
    s.reqs.any (fun r => match r.st with
      | .held => true
      | .ctxWait => true
      | .missWait => true
      | .walking _ => true
      | .entryWait _ _ => true
      | _ => false) ||
    s.flt.any fun f => f.2.entries.any fun e => e.st == .raised || (e.st == .replaying && !e.removed)

/-- A host port has requests out on one of its links. -/
def State.portBusy (s : State) (b : Nat) : Bool :=
  s.reqs.any (fun r => s.linkOf r.part / 2 == b && (match r.st with
    | .sent (.host _ _) => true
    | .issued (.host _ _) => true
    | _ => false)) ||
    s.gal.cmds.any (fun c => s.linkOf c.part / 2 == b && c.st == .flushing) ||
    s.obs.drains.any (fun d => s.linkOf d.1 / 2 == b) || s.trn.walks.any fun w => s.linkOf w.part / 2 == b && w.st == .ats

/-- The domain has work, a request at its ports, or a request outstanding, or a condition of its sleep does not hold (R24, R414). -/
def State.domBusy (s : State) (d : Nat) : Bool :=
  if s.held.any fun h => h.doms.contains d then true
  else if d = 0 then
    (List.range 26).any (fun k => k != 0 && s.domThere k && !s.asleep k) || !(List.range 4).all s.linkQuiet ||
      !s.aon.deepok.getLsbD 0 || !s.gal.cmds.isEmpty ||
      s.gal.queues.any (fun q => q.2.st == .ready || q.2.st == .resident) || !s.ic.risen.isEmpty || s.aon.mbbusy || s.obs.tkbusy
  else if d ≤ 2 then !(s.linkQuiet (2 * (d - 1)) && s.linkQuiet (2 * (d - 1) + 1)) || s.portBusy (d - 1)
  else if d = 3 then s.trnBusy
  else if d < 8 then (List.range 16).any fun i => (s.engCmd (16 * (d - 4) + i)).isSome || (s.eng (16 * (d - 4) + i)).drain.isSome
  else if d < 24 then (s.compCmd (d - 8)).isSome || (s.lk (d - 8)).held.any fun h => h.data.isNone
  else if d = 24 then
    !s.seam.flight.isEmpty || s.reqs.any fun r => match r.st with
      | .issued (.peer _) => true
      | .sent (.peer _) => true
      | _ => false
  else !s.lin.opens.isEmpty || !s.lin.waits.isEmpty || (s.lin.en && !s.lin.ents.isEmpty) || s.lin.flushing

/-- What a compositor's lookahead holds is discarded at entry (R413, R415, R266). -/
def State.enterSleep (s : State) (d : Nat) : State := if 8 ≤ d ∧ d < 24 then s.discardAll (d - 8) 8 else s

/-- The units of a domain (R24, R425): code and instance. -/
def domUnits (d : Nat) : List (Nat × Nat) :=
  if d = 0 then [(1, 0), (0xA, 0), (0xB, 0), (0xC, 0), (0xD, 0), (0xE, 0)]
  else if d ≤ 2 then [(9, d - 1)]
  else if d = 3 then (2, 0) :: (List.range 48).map fun w => (3, w)
  else if d < 8 then (List.range 16).map fun i => (4, 16 * (d - 4) + i)
  else if d < 24 then [(5, d - 8)]
  else if d = 24 then (6, 0) :: (List.range 12).map fun i => (7, i)
  else [(8, 0)]

/-- A unit leaves OUT, or fails its retention check, and carries stale state: its epoch rises (R429, step 1). -/
def State.makeStale (s : State) (c i : Nat) : State :=
  let u := s.unit c i
  s.setUnit c i { u with st := .stale, epoch := u.epoch + 1 }

/-- A unit takes no new work: its pool or LIVE bit is cleared, and a lookahead's results are discarded (R425, R426). -/
def State.leavePool (s : State) (c i : Nat) : State :=
  match c with
  | 4 => { s with plt := { s.plt with pool := setBit s.plt.pool i false } }
  | 5 => ({ s with cmp := { s.cmp with pool := setBit s.cmp.pool i false } } : State).discardAll i 8
  | 7 => { s with seam := { s.seam with live := setBit s.seam.live i false } }
  | _ => s

/-- R414. -/
def execDomainEnterIdle (d : Fin 26) (s : State) : Ans :=
  if s.domThere d.val && bit s.aon.slpctl.toNat 31 && s.dom d.val == .run && !s.domBusy d.val then
    .next ((s.setDom d.val .idle).enterSleep d.val)
  else .next s

/-- R24, R414, R415: the caches of the Translation domain are emptied. -/
def execDomainEnterDeep (d : Fin 26) (s : State) : Ans :=
  let ok := s.domThere d.val && bit s.aon.slpctl.toNat 31 && s.dom d.val == .idle && decide (d.val < 24) &&
    s.aon.deepok.getLsbD d.val && !(d.val == 0 && s.domBusy 0)
  if ok then
    let s1 := (s.setDom d.val .deep).enterSleep d.val
    .next (if d.val = 3 then s1.setTrn { s1.trn with folio := [], edge := s1.trn.edge.filter fun e => decide (e.buf < 64) } else s1)
  else .next s

/-- R416. -/
def execWakeRequest (d : Fin 26) (s : State) : Ans := .next (s.wake d.val)

/-- A compositor that took its command while it slept asks for its epoch record. -/
def State.wakeComp (s : State) (n : Nat) : State :=
  let v := s.comp n
  if (s.compCmd n).isSome && v.st == .running && v.record.isNone && !v.kill && !(s.reqs.any fun r => r.owner == .cmpRecord n) then
    s.askRecord n
  else s

/-- R416, R459: the domain runs. A retention check that fails makes its units that are IN return as stale ones (R429). -/
def execWakeComplete (d : Fin 26) (ok : Bool) (s : State) : Ans :=
  match s.dom d.val with
  | .waking deep =>
    let s1 := s.setDom d.val .run
    let t := s1.obs.since / 1000 * 1000
    let s2 : State :=
      if d.val = 0 ∧ deep = true ∧ s1.now < t then { s1 with obs := { s1.obs with time := BitVec.ofNat 64 t } } else s1
    let s3 := if 8 ≤ d.val ∧ d.val < 24 then s2.wakeComp (d.val - 8) else s2
    if ok then .next s3
    else
      let s4 := (domUnits d.val).foldl (fun s u =>
        if (s.unit u.1 u.2).st = .in_ then (s.makeStale u.1 u.2).leavePool u.1 u.2 else s) s3
      .next ((s4.pulse 6).setSysev 0x20000000)
  | _ => .next s

/-! ### Power-on (R367, R422, R450) -/

/-- Everything but the always-on store, the contents of tier 0 and tier 1, and the model's own counters at its reset value. -/
def State.powerReset (s : State) : State :=
  let r := State.reset
  { r with
    pending := s.pending, part := s.part, mem := s.mem, poison := s.poison, nextId := s.nextId, free := s.free, out := s.out
    aon := { r.aon with lcs := s.aon.lcs, keyHash := s.aon.keyHash, svnMin := s.aon.svnMin, hours := s.aon.hours,
                        pcycle := s.aon.pcycle, rvendor := s.aon.rvendor, rdevice := s.aon.rdevice, tileOff := s.aon.tileOff } }

/-- R367, R450: PORB_N is low. -/
def execPorbNAsserted (s : State) : Ans := .next s.powerReset

/-- A counter of 32 bits that saturates (R433). -/
def sat32 (c : W32) : W32 := if c = 0xFFFFFFFF then c else c + 1

/-- Tier 0 and tier 1 outside the coherent window are veiled (R369, R422). -/
def State.veilAll (s : State) : State :=
  { s with veil := (cutAll s.windowRegions [(0, lastRegion)]).map fun iv => (0, iv.1, iv.2) }

/-- The recovery identity, with its cause (R421). -/
def State.recover (s : State) (code : BitVec 5) : State :=
  (({ s with aon := { s.aon with boot := .recovery, recov := true, imgerr := code } } : State).veilAll).updFerr

/-- R23, R422, ticks 0 to 2: the power-cycle count rises, the FERR pair leaves 0, 0, and the flash is selected and clocked. A Retired device
reads no image (R430). -/
def execPowerOnReset (s : State) : Ans :=
  if s.aon.boot = .off then
    let image := s.aon.lcs != 4
    let s1 : State := { s with aon := { s.aon with boot := .reading, pcycle := sat32 s.aon.pcycle, flashCs := !image, flashSck := image },
                               err := { s.err with ferrP := false, ferrN := true } }
    .next (if s.aon.lcs = 4 then s1.recover 0x0C else s1)
  else .next s

/-- R422, tick 5,245: IDENT, HOST and CLOCK are held, and the PLLs start. -/
def execImageHeaderRead (s : State) : Ans :=
  if s.aon.boot = .reading then .next { s with aon := { s.aon with boot := .header, header := true } } else .next s

/-- R422, R459, tick 5,326: the time base starts at 0. A Retired device locks its PLLs too. -/
def execPllLock (s : State) : Ans :=
  if s.aon.boot = .header then
    .next { s with aon := { s.aon with boot := .locked }, obs := { s.obs with on := true, time := 0, since := 0 } }
  else if s.aon.boot = .recovery ∧ s.obs.on = false then .next { s with obs := { s.obs with on := true, time := 0, since := 0 } }
  else .next s

/-- The tile scratchpads read 0 (R432). -/
def State.wipeScratch (s : State) : State :=
  { s with mem := Memory.clear s.mem scratchBase (scratchBase + 0x40000000),
           poison := s.poison.filter fun g => region (64 * g) != .scratch }

/-- R422, R432, tick 7,326. -/
def execSramWipeDone (s : State) : Ans :=
  if s.aon.boot = .locked then
    .next (({ s with aon := { s.aon with boot := .wiped, sram := true } } : State).wipeScratch)
  else if s.aon.boot = .recovery ∧ s.aon.sram = false then
    .next (({ s with aon := { s.aon with sram := true } } : State).wipeScratch)
  else .next s

/-! ### The image (R418 to R420) -/

def imageCount (i : Image) (t : Nat) : Nat := (i.records.filter fun r => r.1 == t).length

/-- 0x06: required records once, the first three within the first 64 KiB, END last, others at most once. -/
def recordsBad (i : Image) : Bool :=
  [1, 2, 3, 4, 0xFFFF].any (fun t => imageCount i t != 1) || i.records.any (fun r => [1, 2, 3].contains r.1 && !r.2.2) ||
    (i.records.getLast?.map (·.1)) != some 0xFFFF || [5, 6, 7, 8, 9, 10].any fun t => decide (1 < imageCount i t)

/-- A field of a partition's entry above its range, SLOTS, PLEAT and CMP apart (R131, R398). -/
def cfgOver (c : PartCfg) : Bool :=
  decide (2 ≤ c.pmode.toNat) || decide (48 < c.walk) || decide (16 < c.folio) || decide (65536 < c.tally) || decide (64 < c.win) ||
    decide (1904 < c.vec) || decide (64 < c.trace) || decide (2 ^ 20 ≤ c.budget)

/-- Instances that an owner list gives to a partition. -/
def ownedBy (l : List (Nat × Nat)) (p : Nat) : Nat := (l.filter fun x => x.2 == p).length

/-- 0x07. -/
def State.fieldsBad (s : State) (i : Image) : Bool :=
  let parts := i.parts.map (·.1)
  let cfg (p : Nat) : Option PartCfg := (i.parts.find? fun x => x.1 == p).map (·.2)
  !i.zeroOk || i.records.any (fun r => if r.1 = 0xFFFF then r.2.1 != 0 else r.2.1 == 0 || !decide (1 ≤ r.1 ∧ r.1 ≤ 10)) ||
    !i.partsFull || (below 16 s.present).any (fun p => !parts.contains p) || parts.any (fun p => !s.present p) ||
    parts.eraseDups.length != parts.length || i.parts.any (fun x => cfgOver x.2) ||
    i.bound.any (fun b => !s.present (b.1 / 8)) || i.routes.any (fun r => decide (1024 ≤ r.1)) ||
    i.recSets.any (fun r => decide (16 ≤ r.1) || decide (32 < numAt r.2 2 1)) ||
    i.srcOwners.any (fun x => decide (x.1 < 144) || decide (2048 ≤ x.1) || !s.present x.2) ||
    i.talOwners.any (fun x => decide (65536 ≤ x.1) || !s.present x.2) ||
    (i.talOwners.map (·.1)).eraseDups.length != i.talOwners.length ||
    (below 16 s.present).any fun p => match cfg p with
      | some c => decide (c.vec < ownedBy i.srcOwners p) || decide (c.tally < ownedBy i.talOwners p)
      | none => false

/-- FRZ_AON_ID.IMGERR of an image: the first cause of R420 that applies. -/
def State.imageError (s : State) (i : Image) : BitVec 5 :=
  let part := match s.part with | .v3s => 0 | .v3x => 1
  let sizeBad (n : Nat) : Bool := decide (n < 28) || decide (41 < n)
  if !i.answers || i.magic != 0x495A5246 || i.format != 1 then 1
  else if decide (8388608 < i.len) || decide (i.len < i.recEnd + 128) then 2
  else if !i.sigOk then 3
  else if decide (i.svn.toNat < s.aon.svnMin.toNat) then 4
  else if i.partByte.toNat != part then 5
  else if recordsBad i then 6
  else if s.fieldsBad i then 7
  else if s.part == Part.v3s && (i.portB || i.parts.any fun x => x.2.atsok) then 8
  else if decide (64 < i.winSize) || i.winBase % 2 ^ 30 != 0 || decide (tier0End < i.winBase + i.winSize * 2 ^ 30) then 9
  else if sizeBad i.pfBar || sizeBad i.vfBar then 0xA
  else if i.parts.any fun x => decide (256 < x.2.slots) || decide (64 < x.2.pleat) || decide (16 < x.2.cmp) then 0xB
  else 0

/-- QA and QB of an entry. -/
def cfgQa (c : PartCfg) : W64 :=
  BitVec.ofNat 64 (c.folio * 2 ^ 48 + c.slots * 2 ^ 32 + c.walk * 2 ^ 24 + c.pleat * 2 ^ 16 + c.cmp)
def cfgQb (c : PartCfg) : W64 := BitVec.ofNat 64 (c.vec * 2 ^ 48 + c.win * 2 ^ 32 + c.trace * 2 ^ 24 + c.tally)

/-- The PARTS entry of a partition takes force. -/
def State.applyPart (s : State) (p : Nat) (c : PartCfg) : State :=
  let b := BitVec.ofNat 32 c.budget
  { s with
    trn := { s.trn with pmode := s.trn.pmode.set p (BitVec.ofNat 32 (c.pmode.toNat + 4 * b2n (c.atsok && s.part == .v3x))) }
    prt := { s.prt with qa := s.prt.qa.set p (cfgQa c), qb := s.prt.qb.set p (cfgQb c), bw := s.prt.bw.set p b, bwNow := s.prt.bwNow.set p b } }

/-- The stored fields of BBASE, BLIM, SLPCTL and DEEPOK (R133, R437). -/
def maskBbase : Nat := 0x000FFFFFFFFFF01F
def maskBlim : Nat := 0x000FFFFFFFFFF000
def maskSlpctl : W32 := 0x80FFFFFF
def State.maskDeepok (s : State) : BitVec 26 := if s.part = .v3s then 0x0FFFFFB else 0x0FFFFFF

/-- A bound range. -/
def State.applyBound (s : State) (n : Nat) (b l : W64) : State :=
  { s with trn := { s.trn with bbase := s.trn.bbase.set n (b &&& BitVec.ofNat 64 maskBbase),
                               blim := s.trn.blim.set n (l &&& BitVec.ofNat 64 maskBlim) } }

/-- A snapshot set of the recorder (R480). -/
def State.applyRecSet (s : State) (k : Nat) (b : Bytes) : State :=
  { s with rcd := { s.rcd with sram := Memory.writeAll s.rcd.sram (0x4840 + 256 * k) (b.take 256) } }

/-- BAR2 sizes in force at reset, on every link (R356). -/
def State.applyBars (s : State) (pf vf : Nat) : State :=
  (List.range 4).foldl (fun s l => s.setLink l { s.link l with pfBar := pf, vfBar := vf })
    { s with host := { s.host with pfBar := pf, vfBar := vf } }

/-- The records of a valid image take force (R419). -/
def State.applyImage (s : State) (i : Image) : State :=
  let s1 : State := { s with
    aon := { s.aon with ident := i.ident, pll := i.pll, imgver := i.imgver, slpctl := i.slpctl &&& maskSlpctl,
                        deepok := i.deepok &&& s.maskDeepok }
    host := { s.host with bifA := i.bifA, bifB := i.bifB, portB := i.portB, cxlA := i.cxlA, cxlB := i.cxlB }
    seam := { s.seam with peer := i.peer }
    lin := { s.lin with base := i.winBase, size := i.winSize, en := i.winSize != 0 }
    rcd := { s.rcd with mode := i.recMode } }
  let s2 := (s1.applyBars i.pfBar i.vfBar).setSram 8 1 (b2n i.recMode)
  let s3 := i.parts.foldl (fun s x => s.applyPart x.1 x.2) s2
  let s4 := i.bound.foldl (fun s x => s.applyBound x.1 x.2.1 x.2.2) s3
  let s5 := i.routes.foldl (fun s x => { s with seam := { s.seam with route := s.seam.route.set x.1 x.2 } }) s4
  let s6 := i.srcOwners.foldl (fun s x => s.setSrc x.1 { s.src x.1 with owner := some x.2 }) s5
  let s7 := i.talOwners.foldl (fun s x => s.setTally x.1 { s.tally x.1 with owner := some x.2 }) s6
  let s8 := i.recSets.foldl (fun s x => s.applyRecSet x.1 x.2) s7
  if i.cal.isEmpty then s8 else s8.emit (.cal i.cal)

/-- R420 to R422: the image is found invalid, or its records are applied and memory outside the coherent window is veiled. The flash is
no longer read (R23). -/
def execImageReadDone (i : Image) (s_ : State) : Ans :=
  let s : State := if s_.aon.boot = .wiped then { s_ with aon := { s_.aon with flashCs := true, flashSck := false } } else s_
  if s.aon.boot = .wiped then
    let e := s.imageError i
    if e = 0 then
      let s1 := s.applyImage i
      .next (({ s1 with aon := { s1.aon with boot := .applied } } : State).veilAll)
    else .next (s.recover e)
  else .next s

/-! ### The functions become ready -/

/-- The physical functions of the links the device has, as far as the life-cycle state presents them (R350, R430). -/
def State.presentFns (s : State) : State :=
  ((List.range 4).filter s.linkThere).foldl (fun s l =>
    let p := s.pfOf l
    if s.lcsAllows p then s.setFn p { s.fn p with enabled := true } else s) s

/-- The coherent window reads 0 (R422, R432). -/
def State.wipeWindow (s : State) : State :=
  let hi := s.lin.base + s.lin.size * 2 ^ 30
  { s with mem := Memory.clear s.mem s.lin.base hi,
           poison := s.poison.filter fun g => !(decide (s.lin.base ≤ 64 * g) && decide (64 * g < hi)) }

/-- R377, R422, R423. -/
def execFunctionsReady (s : State) : Ans :=
  if s.aon.boot = .applied then
    .next (((({ s with aon := { s.aon with boot := .ready } } : State).wipeWindow).presentFns).setSysev 0x40000000)
  else .next s

/-! ### Counts and tiles -/

/-- R433. -/
def execOperatingHoursTick (s : State) : Ans :=
  if s.aon.boot = .off then .next s else .next { s with aon := { s.aon with hours := sat32 s.aon.hours } }

/-- R27: with power the requests held in the tile's port are delivered, oldest first. DESIGN CHOICE: the same event says that a tile's power
goes (`on` false), for which the table has no row. -/
def execTilePoweredAgain (t : TilePower) (s : State) : Ans :=
  let s1 : State := { s with aon := { s.aon with tileOff := setBit s.aon.tileOff t.tile.val (!t.on) } }
  if !t.on then .next s1
  else
    let mine := (s1.tileQ.filter fun m => m.1 == t.tile.val).map (·.2)
    let s2 := mine.foldl State.emit { s1 with tileQ := s1.tileQ.filter fun m => m.1 != t.tile.val }
    .next ((s2.reqs.filter fun r => r.toScratch t.tile.val).foldl (fun s r =>
      match s.req? r.id with
      | some x => match x.st with
        | .tileOff o => if s.tileIsOff x o then s else s.issueTo x o
        | _ => s
      | none => s) s2).goOn

end Sys2Proof.Machine
end

