-- ==== Sys2Proof/Machine/Lifecycle.lean ====
section
/-! DEFINITION. Amendments (R424 to R427), units leaving and rejoining (R428, R429, R440), and life-cycle transitions (R430 to
R432). -/

namespace Sys2Proof.Machine

open Sys2Proof

/-! ### Amendments -/

/-- The unit exists on the part (R425). -/
def State.unitThere (s : State) (code inst : Nat) : Bool :=
  let n := match code with
    | 3 => 48
    | 4 => 64
    | 5 => 16
    | 7 => 12
    | 9 => match s.part with | .v3s => 1 | .v3x => 2
    | 0x7F => 1
    | c => if 1 ≤ c ∧ c ≤ 0xE then 1 else 0
  decide (inst < n)

/-- The header of an amendment (R424), with the payload's first bytes. -/
def amendOf (b : Bytes) : Amendment :=
  { magic := BitVec.ofNat 32 (numAt b 0 4), code := BitVec.ofNat 8 (numAt b 4 1), inst := BitVec.ofNat 8 (numAt b 5 1),
    drainT := BitVec.ofNat 16 (numAt b 6 2), seq := BitVec.ofNat 32 (numAt b 8 4), len := BitVec.ofNat 32 (numAt b 12 4),
    svn := BitVec.ofNat 16 (numAt b 16 2), lcs := BitVec.ofNat 8 (numAt b 18 1), zeroOk := (slice b 19 45).all (· == 0),
    hash := slice b 64 48 }

/-- The first address of the amendment, and its bytes (R438). -/
def State.mailbox (s : State) : Nat × Nat := (bits s.aon.mbaddr.toNat 51 6 * 64, 64 * s.aon.mblen.toNat)

/-- The copy meets a bus error: checked as a read of partition 0 (R107, R438). -/
def State.mailboxBad (s : State) : Bool :=
  let (a, n) := s.mailbox
  !s.grantedAll 0 a n .read false || anyUnassigned a n || s.anyClosed a n || s.poisoned a n

/-- Step 1 of R426: the amendment is copied; without a copy, it will end with 0x08. What lies in the coherent window is read through the
directory (R315), and the copy is taken once that has answered. In the register space, as a free value decides, the copy fails or brings
free bytes (R18). -/
def State.copyAmendment (s : State) : State :=
  let (a, n) := s.mailbox
  let s1 : State := { s with aon := { s.aon with mbbusy := true, mbstep := 1, amend := none } }
  if s.aon.mblen = 0 then s1
  else if s.mailboxBad then (if s.grantedAll 0 a n .read false then s1 else s1.isolation)
  else if anyRegs a n then
    let s2 := s1.useFree 129
    if (Config.freeByte s.free).getLsbD 0 then s2
    else { s2 with aon := { s2.aon with amend := some (amendOf ((List.range (min n 128)).map fun i => Config.freeByte (s.free + 1 + i))) } }
  else if !(s.linesOf a n).isEmpty then s1.addPhys (.phys 0) 0x108 0 a n .read
  else { s1 with aon := { s1.aon with amend := some (amendOf (s.readMem a (min n 128))) } }

/-- What the directory has answered of an amendment in the coherent window: `none` while some of it is due. -/
def State.copiedAmendment (s : State) : Option State :=
  match s.reqs.find? fun r => r.owner == .phys 0 with
  | none => some s
  | some r =>
    match r.st with
    | .failed _ _ => some (s.dropReq r.id)
    | _ =>
      if !r.linesDone (s.linesOf r.va r.len) then none
      else
        let s1 := s.dropReq r.id
        some { s1 with aon := { s1.aon with amend := some (amendOf ((s.gatherRead r r.va).take 128)) } }

/-- R426, R438. A GO while BUSY has no effect and sets REFUSED. -/
def execAmendmentGo (w : Who) (v : W32) (s_ : State) : Ans :=
  delivered (.amendmentGo w v) s_ fun t_ =>
  heardAon w t_ fun s =>
  let s1 : State := { s with aon := { s.aon with mblen := BitVec.ofNat 15 v.toNat } }
  if !isMgr w then .next s
  else if !bit v.toNat 31 then .next s1
  else if s.aon.mbbusy then .next { s with aon := { s.aon with mbref := true } }
  else .next s1.copyAmendment

/-- The transitions that R431 permits. -/
def transitionOk (a b : Nat) : Bool :=
  (a == 0 && b == 1) || (a == 1 && b == 2) || (a == 2 && b == 3) || (a == 3 && b == 2) || (decide (a < 4) && b == 4)

/-- The checks of R424 and R425 in the order of their codes; 0: none fails (R427). -/
def State.amendCheck (s : State) (a : Amendment) : Byte :=
  let life := a.code == 0x7F
  let hash := life && a.lcs == 1
  if a.magic != 0x444D4146 || decide (1048576 < a.len.toNat) || a.len.toNat % 64 != 0 || a.drainT == 0 || !a.zeroOk ||
      (!life && a.lcs != 0) || s.aon.mblen.toNat != 3 + a.len.toNat / 64 || (life && a.len != (if hash then 64 else 0)) then 1
  else if decide (a.svn.toNat < s.aon.svnMin.toNat) then 3
  else if (s.unit a.code.toNat a.inst.toNat).seq.any fun q => decide (a.seq.toNat ≤ q.toNat) then 4
  else if !s.unitThere a.code.toNat a.inst.toNat || (a.code == 8 && s.lin.en) then 5
  else if life && !transitionOk s.aon.lcs.toNat a.lcs.toNat then 9
  else 0

/-- The domain of a unit. -/
def unitDom (code inst : Nat) : Nat := ((List.range 26).find? fun d => (domUnits d).contains (code, inst)).getD 0

/-- Step 2: the unit takes no new work. -/
def State.startDrain (s : State) (c i : Nat) : State :=
  let s1 : State := { s with aon := { s.aon with mbstep := 2 } }
  if c = 0x7F then s1
  else
    let s2 := s1.wake (unitDom c i)
    if (s2.unit c i).st = .in_ then (s2.setUnit c i { s2.unit c i with st := .draining }).leavePool c i else s2

/-- R426, R427: the signature first, then the checks. A unit that is rejoining is waited for, and so is the copy. -/
def execAmendmentVerifyDone (sigOk : Bool) (s_ : State) : Ans :=
  if !(s_.aon.mbbusy && s_.aon.mbstep == 1) then .next s_
  else if s_.aon.mblen = 0 then .next (s_.endAmendment 1)
  else match s_.copiedAmendment with
    | none => .next s_
    | some s =>
      match s.aon.amend with
      | none => .next (s.endAmendment 8)
      | some a =>
        let (c, i) := (a.code.toNat, a.inst.toNat)
        if !sigOk then .next (s.endAmendment 2)
        else
          let r := s.amendCheck a
          if r ≠ 0 then .next (s.endAmendment r)
          else if (s.unit c i).st = .stale ∨ (s.unit c i).st = .rejoining then .next s
          else .next (s.startDrain c i)

/-- The work that a unit holds has ended (R426). -/
def State.drained (s : State) (c i : Nat) : Bool :=
  match c with
  | 1 => s.gal.cmds.isEmpty
  | 2 => !s.trnBusy && s.epo.sweep.isNone
  | 3 => (s.walk? i).isNone
  | 4 => (s.engCmd i).isNone && (s.eng i).drain.isNone && (s.pleatReqs i).isEmpty
  | 5 => (s.compCmd i).isNone && (s.compReqs i).isEmpty
  | 6 => s.seam.flight.isEmpty
  | 7 => !s.seam.flight.any fun f => f.port == i
  | 8 => s.lin.opens.isEmpty && s.lin.waits.isEmpty
  | 9 => !s.portBusy i
  | 0xC => s.obs.drains.isEmpty && !s.obs.tkbusy
  | _ => true

/-- Steps 3 and 4: the unit's ports close, and the payload is written into it. A unit that was OUT has nothing to drain. -/
def execAmendmentDrainDone (s : State) : Ans :=
  match s.aon.amend with
  | none => .next s
  | some a =>
    let (c, i) := (a.code.toNat, a.inst.toNat)
    let u := s.unit c i
    if s.aon.mbstep = 2 ∧ a.code ≠ 0x7F ∧ ((u.st = .draining ∧ s.drained c i = true) ∨ u.st = .out) then
      let s1 := s.setUnit c i { u with st := .reloading }
      .next { s1 with aon := { s1.aon with mbstep := 4 } }
    else .next s

/-- The unit's pool or LIVE bit is set, and it takes work (R429, step 4). -/
def State.joinPool (s : State) (c i : Nat) : State :=
  match c with
  | 4 =>
    ({ s with plt := { s.plt with pool := setBit s.plt.pool i true } } : State).modEng i fun v =>
      if v.st = .fenced then { v with st := .idle, fence := false, fin := 0, stop := none } else v
  | 5 =>
    ({ s with cmp := { s.cmp with pool := setBit s.cmp.pool i true } } : State).modComp i fun v =>
      if v.st = .fenced then { v with st := .idle, fence := false } else v
  | 7 => { s with seam := { s.seam with live := setBit s.seam.live i (s.seam.trained.getLsbD i) } }
  | _ => s

/-- R426: the unit returns to service unchanged. -/
def execAmendmentDrainTimeout (s : State) : Ans :=
  match s.aon.amend with
  | none => .next s
  | some a =>
    let (c, i) := (a.code.toNat, a.inst.toNat)
    let u := s.unit c i
    if s.aon.mbstep = 2 ∧ a.code ≠ 0x7F ∧ u.st = .draining then
      .next (((s.setUnit c i { u with st := .in_ }).joinPool c i).endAmendment 6)
    else .next s

/-- R428. -/
def execAmendmentReloadDone (ok : Bool) (s : State) : Ans :=
  match s.aon.amend with
  | none => .next s
  | some a =>
    let (c, i) := (a.code.toNat, a.inst.toNat)
    let u := s.unit c i
    if s.aon.mbstep = 4 ∧ u.st = .reloading then
      if ok then
        let s1 := (s.setUnit c i { u with seq := some a.seq }).makeStale c i
        .next { s1 with aon := { s1.aon with mbstep := 5, mbseq := BitVec.ofNat 16 a.seq.toNat } }
      else .next ((s.setUnit c i { u with st := .out }).endAmendment 7)
    else .next s

/-! ### Rejoining -/

/-- Every error source of the unit is clear (R440). -/
def State.unitClear (s : State) (code inst : Nat) : Bool :=
  (below 512 fun n => errUnit n == (code, inst)).all fun n => !s.err.sticky.getLsbD n

/-- R440: of the unit that USEL names. -/
def execUctlRejoin (w : Who) (s_ : State) : Ans :=
  delivered (.uctlRejoin w) s_ fun t_ =>
  heardAon w t_ fun s =>
  let c := bits s.aon.usel.toNat 15 8
  let i := bits s.aon.usel.toNat 7 0
  let u := s.unit c i
  if isMgr w && u.st == .out && s.unitClear c i then .next (s.makeStale c i) else .next s

/-- Step 2 of R429: caches and held results are invalidated. -/
def State.forget (s : State) (c i : Nat) : State :=
  match c with
  | 2 => s.setTrn { s.trn with folio := [], edge := s.trn.edge.filter fun e => decide (e.buf < 64) }
  | 5 => s.discardAll i 8
  | _ => s

/-- GAP is set for counters that stood still (R460). -/
def State.setGaps (s : State) : State :=
  { s with obs := { s.obs with egap := true, gap := (below 16 s.present).foldl (fun t p =>
      (List.range 8).foldl (fun t i => Tbl.set t (8 * p + i) true) t) s.obs.gap } }

/-- What a unit does as it takes work again: the agent of a host port joins while HDM-DB is enabled (R429, step 3), banks deliver what they
counted meanwhile (R425), and the counters go on. -/
def State.resumeUnit (s : State) (c i : Nat) : State :=
  match c with
  | 9 => s.moveHostAgent (2 * i) (s.link (2 * i)).stat
  | 0xA => s.deliverAll
  | 0xC => s.setGaps
  | _ => s

/-- The agent of a host port is still being swept (R429, step 3). -/
def State.portSwept (s : State) (c i : Nat) : Bool := c == 9 && s.lin.sweeps.any fun x => x.1 == 72 + i

/-- The agent of a host port is active, and is swept before the port rejoins (R429, step 3). -/
def State.portAgent (s : State) (c i : Nat) : Bool := c == 9 && s.lin.active.getLsbD (72 + i)

/-- R429: what the unit held is forgotten, and it is IN. A fenced engine whose command still has requests out
waits for them, and a host port for the sweep of its agent. The amendment that reloaded it ends as applied. -/
def execUnitRejoin (code inst : Byte) (s : State) : Ans :=
  let (c, i) := (code.toNat, inst.toNat)
  let u := s.unit c i
  let idle := (c != 4 || s.drained 4 i) && (c != 5 || s.drained 5 i) && !s.portSwept c i
  if (u.st = .stale ∨ u.st = .rejoining) ∧ s.portAgent c i = true then .next (s.sweepDead (72 + i))
  else if (u.st = .stale ∨ u.st = .rejoining) ∧ idle = true then
    let s1 := ((s.setUnit c i { u with st := .in_ }).forget c i).joinPool c i
    let s2 := s1.resumeUnit c i
    .next (if s2.amending c i && s2.aon.mbstep == 5 then s2.endAmendment 0 else s2)
  else .next s

/-! ### Life-cycle transitions (R431, R432) -/

/-- Steps 1 and 2 of R431: the functions stop, every link goes down, and every command is aborted. What Fraiz held is lost. -/
def execLifeCycleTransition (s : State) : Ans :=
  match s.aon.amend with
  | none => .next s
  | some a =>
    if s.aon.mbbusy && s.aon.mbstep == 2 && a.code == 0x7F && s.aon.boot == .ready then
      let s1 : State := { s with held := [], aon := { s.aon with boot := .transition, target := BitVec.ofNat 3 a.lcs.toNat, tsvn := a.svn } }
      let s2 := (below 16 s1.present).foldl State.startFlr s1
      .next (([0, 1, 2, 3].filter s2.linkThere).foldl State.resetLink s2)
    else .next s

/-- Nothing of any partition is outstanding, and no tailor core has a request out. -/
def State.allQuiet (s : State) : Bool := s.reqs.isEmpty && s.gal.cmds.isEmpty && s.seam.flight.isEmpty && s.trn.walks.isEmpty

/-- Steps 3 to 5 of R431: every store but the always-on one is wiped, the new state and SVN minimum are stored, and the device is
at tick 0 of a power-on reset. -/
def execLifeCycleWipeDone (s : State) : Ans :=
  if s.aon.boot = .transition ∧ s.allQuiet = true then
    let hash := if s.aon.lcs = 0 ∧ s.aon.target = 1 then ((s.aon.amend.map (·.hash)).getD []) else s.aon.keyHash
    let r := { s with mem := [], poison := [] }.powerReset
    .next { r with aon := { r.aon with lcs := s.aon.target, svnMin := s.aon.tsvn, keyHash := hash } }
  else .next s

end Sys2Proof.Machine
end

