-- ==== Sys2Proof/Machine/ReadRegs.lean ====
section
/-! DEFINITION. What BAR0 registers read as, to any accessing party, without acting (chapter 18 and the field maps of the chapters
it names). A snapshot set of the recorder captures these values as partition 0 would read them (R480). -/

namespace Sys2Proof.Machine

open Sys2Proof

/-- A register at an offset: whether it is 64 bits wide, and its value. -/
abbrev RegVal := Option (Bool × Nat)

def reg32 (v : Nat) : RegVal := some (false, v)
def reg64 (v : Nat) : RegVal := some (true, v)

/-- A field's value at its lowest bit. -/
def fld (lo v : Nat) : Nat := v * 2 ^ lo
def flag (lo : Nat) (b : Bool) : Nat := if b then 2 ^ lo else 0

/-- A value that reads 0 where it may not be seen. -/
def seen (b : Bool) (v : Nat) : Nat := if b then v else 0

/-- The number of the register among `n` of a kind that lie at `base`, `base + stride`, and so on. -/
def nth (o base stride n : Nat) : Option Nat :=
  if base ≤ o ∧ o < base + stride * n ∧ (o - base) % stride = 0 then some ((o - base) / stride) else none

/-- Word `k` of a wide bit vector. -/
def word {n : Nat} (x : BitVec n) (k : Nat) : Nat := x.toNat / 2 ^ (32 * k) % 2 ^ 32

/-! ### Identity and global (R88 to R95, R366, R372 to R374) -/

/-- FRZ_GAL_SEL.QPART of an accessing party: its own outside partition 0 (R88). -/
def State.qpart (s : State) (w : Who) : Nat := if isMgr w then (s.gal.selPart.get 0 0).toNat else whoPart w

def State.galRead (s : State) (w : Who) (o : Nat) : RegVal :=
  let p := whoPart w
  let win (f : Nat → Queue → Nat) : Nat := ((s.selQueue w).map fun q => f q (s.queue q)).getD 0
  if o = 0x8000 then reg32 (fld 8 (s.qpart w) + (s.gal.selQ.get 0 p).toNat)
  else if o = 0x8010 then reg64 (win fun _ v => v.qbase.toNat)
  else if o = 0x8018 then reg64 (win fun _ v => v.cbase.toNat)
  else if o = 0x8020 then
    reg32 (win fun _ v => fld 20 v.isrc.toNat + fld 12 v.ctx.toNat + fld 8 v.prio.toNat + fld 4 v.csize.toNat + v.qsize.toNat)
  else if o = 0x8024 then reg32 0
  else if o = 0x8028 then
    reg32 (win fun q v => fld 30 v.qphase.toNat + fld 28 v.cphase.toNat + fld 23 (s.inFlight q).length + fld 16 v.rereads.toNat +
      fld 8 v.err.toNat + fld 4 v.wait.toNat + v.st.code)
  else if o = 0x802C then reg32 (win fun _ v => fld 16 v.tail.toNat + v.head.toNat)
  else if o = 0x8030 then reg32 (win fun _ v => fld 16 v.chead.toNat + v.ctail.toNat)
  else if o = 0x8080 then reg32 s.gal.slice.toNat
  else (nth o 0x8040 4 8).bind fun k => reg32 (word (s.gal.haltmap.get 0 p) k)

/-- FRZ_HOST_LSTAT of a link (R372). -/
def State.lstat (s : State) (l : Nat) : Nat :=
  let v := (s.link l).stat
  if s.part == .v3s && decide (2 ≤ l) then 0
  else
    flag 31 v.up + flag 30 v.cxl + flag 29 v.flit + flag 28 v.bi + fld 25 v.speed.toNat + fld 20 v.width.toNat +
      flag 19 (if l < 2 then s.host.bifA else s.host.bifB) + min 4095 (s.tagsOut fun p => s.linkOf p == l)

/-- Regions of a partition's veil (R374). -/
def State.veilCount (s : State) (p : Nat) : Nat :=
  ((s.veil.filter fun v => v.1 == p).map fun v => v.2.2 + 1 - v.2.1).foldl (· + ·) 0

/-- The fence register as a capture sees it: the fence reads completed so far on the link (R366). -/
def State.fenceNow (s : State) (w : Who) : Nat :=
  match w with
  | .core _ => 2 ^ 31 + 4 * 2 ^ 16
  | .fn p => 2 ^ 31 + s.linkOf p.val * 2 ^ 16 + (s.link (s.linkOf p.val)).seq.toNat

def State.hostRead (s : State) (w : Who) (o : Nat) : RegVal :=
  if o = 0x9000 then reg32 (s.fenceNow w)
  else if o = 0x9020 then reg64 (seen (isMgr w) s.host.late.toNat)
  else if o = 0x9028 then
    let n := s.veilCount (s.qpart w)
    reg32 (flag 31 (n != 0) + n)
  else (nth o 0x9010 4 4).bind fun l => reg32 (s.lstat l)

/-! ### IC and PART (R388 to R394, R406 to R410) -/

/-- Bits of 32 sources that the accessing party may see (R390). -/
def State.srcWord (s : State) (w : Who) (k : Nat) (f : Src → Bool) : Nat :=
  ((List.range 32).map fun i =>
    let n := 32 * k + i
    flag i (s.canRise n && s.mayTouchSrc w n && f (s.src n))).foldl (· + ·) 0

/-- FRZ_IC_TGT of a source (R391): 0 for an absent one, and to a party that neither owns it nor is partition 0. -/
def State.tgtRead (s : State) (w : Who) (n : Nat) : Nat :=
  let v := s.src n
  let owned := decide (n < 144) || v.owner.isSome
  seen (!s.srcAbsent n && s.mayTouchSrc w n)
    (flag 31 v.en + flag 30 v.mode + flag 29 v.cls + flag 28 v.kind + fld 24 ((s.srcOwner n).getD 0) + fld 20 v.prio.toNat +
      flag 19 owned + v.target.toNat)

/-- A bank's coalescing register (R394). -/
def coalRead (b : Bank) (fast : Bool) : Nat :=
  flag 31 b.armed + seen (!fast) (fld 16 b.count.toNat + b.time.toNat)

def State.icRead (s : State) (w : Who) (o : Nat) : RegVal :=
  let p := whoPart w
  if o = 0x10000 then reg32 (flag 31 s.ic.dis + flag 30 s.ic.refused)
  else if o = 0x10010 then reg32 (seen (isMgr w) s.ic.sysev.toNat)
  else ((nth o 0x10100 4 64).bind fun k => reg32 (s.srcWord w k (·.pend))) <|>
    ((nth o 0x10200 4 64).bind fun k => reg32 (s.srcWord w k (·.act))) <|>
    ((nth o 0x12004 4 2047).bind fun n => reg32 (s.tgtRead w (n + 1))) <|>
    ((nth o 0x18000 16 256).bind fun b => reg32 ((s.claimable false (256 * p + b)).getD 0)) <|>
    ((nth o 0x18004 16 256).bind fun _ => reg32 0) <|>
    ((nth o 0x18008 16 256).bind fun b => reg32 (coalRead (s.bank false (256 * p + b)) (b % 2 == 1))) <|>
    ((nth o 0x1C000 16 16).bind fun b => reg32 (seen (isMgr w) ((s.claimable true b).getD 0))) <|>
    ((nth o 0x1C004 16 16).bind fun _ => reg32 0) <|>
    ((nth o 0x1C008 16 16).bind fun b => reg32 (seen (isMgr w) (coalRead (s.bank true b) (b % 2 == 1))))

def State.partRead (s : State) (w : Who) (o : Nat) : RegVal :=
  let see (p v : Nat) : Nat := seen (s.mayIndex w p) v
  if o = 0x20000 then reg32 (fld 16 s.presentMask + whoPart w)
  else ((nth o 0x20040 4 8).bind fun k => reg32 (seen (isMgr w) (s.prt.tcact.get 0 k).toNat)) <|>
    ((nth o 0x20100 32 16).bind fun p => reg64 (see p (s.prt.qa.get 0 p).toNat)) <|>
    ((nth o 0x20108 32 16).bind fun p => reg64 (see p (s.prt.qb.get 0 p).toNat)) <|>
    ((nth o 0x20110 32 16).bind fun p => reg32 (see p (s.prt.bw.get 0 p).toNat)) <|>
    ((nth o 0x20114 32 16).bind fun p => reg32 (see p (s.prt.ovr.get 0 p).toNat)) <|>
    ((nth o 0x20400 32 16).bind fun p => reg64 (see p (s.useA p))) <|>
    ((nth o 0x20408 32 16).bind fun p => reg64 (see p (s.useB p))) <|>
    ((nth o 0x20410 32 16).bind fun p => reg32 (see p (s.prt.last.get 0 p).toNat))

/-! ### TRN, FLT and EPO (R131 to R138, R168 to R174) -/

def State.trnRead (s : State) (w : Who) (o : Nat) : RegVal :=
  let p := whoPart w
  let see (p v : Nat) : Nat := seen (s.mayIndex w p) v
  if o = 0x30000 then reg64 (s.trn.invaddr.get 0 p).toNat
  else if o = 0x30008 then reg32 0
  else if o = 0x3000C then reg32 (flag 1 (s.trn.refused.get false p) + flag 0 (s.trn.busy.get false p))
  else if o = 0x30010 then reg32 (s.trn.invseq.get 0 p).toNat
  else if o = 0x30014 then reg32 s.trn.invDone.toNat
  else ((nth o 0x30040 4 16).bind fun q => reg32 (see q (s.trn.pmode.get 0 q).toNat)) <|>
    ((nth o 0x30100 4 64).bind fun t =>
      let v := (s.trn.tbind.get 0 t).toNat
      reg32 (seen (isMgr w || bits v 9 0 / 64 == p) v)) <|>
    ((nth o 0x30400 16 128).bind fun n => reg64 (see (n / 8) (s.trn.bbase.get 0 n).toNat)) <|>
    ((nth o 0x30408 16 128).bind fun n => reg64 (see (n / 8) (s.trn.blim.get 0 n).toNat)) <|>
    ((nth o 0x34000 16 1024).bind fun c => reg64 (see (c / 64) (s.trn.ctxroot.get 0 c).toNat)) <|>
    ((nth o 0x34008 16 1024).bind fun c =>
      reg64 (see (c / 64) ((s.trn.ctxcfg.get 0 c).toNat + flag 62 (s.slotOf c).isSome)))

/-- Codes of a slot's state (R174). -/
def SlotSt.code : SlotSt → Nat
  | .free => 0
  | .staged => 1
  | .current => 2
  | .draining => 3
  | .purging => 4

/-- A slot's record register (R173). -/
def trecRead (t : Slot) : Nat := flag 63 (t.st != .free) + t.addr

def State.fltRead (s : State) (w : Who) (o : Nat) : RegVal :=
  let f := s.fltp (s.actPart w)
  let tab (t : Nat) : Table := s.table (512 * whoPart w + t)
  if o = 0x38000 then reg64 f.rbase.toNat
  else if o = 0x38008 then reg32 (flag 31 f.en + f.deadline.toNat)
  else if o = 0x3800C then
    reg32 (flag 31 f.ringerr + flag 30 (decide (512 ≤ (f.tail - f.head).toNat)) + flag 29 f.refused + flag 28 f.prioff +
      f.entries.length)
  else if o = 0x38010 then reg32 (fld 16 f.head.toNat + f.tail.toNat)
  else if o = 0x38014 then reg32 0
  else ((nth o 0x3C000 32 512).bind fun t => reg64 (trecRead (tab t).a)) <|>
    ((nth o 0x3C008 32 512).bind fun t => reg64 (trecRead (tab t).b)) <|>
    ((nth o 0x3C010 32 512).bind fun t =>
      let v := tab t
      reg64 (flag 63 v.valid + flag 62 v.curB + fld 59 v.a.st.code + fld 56 v.b.st.code + fld 32 v.gen.toNat)) <|>
    ((nth o 0x3C018 32 512).bind fun t => reg64 (fld 32 (tab t).b.pins + (tab t).a.pins))

/-! ### PLT, CMP and LKA (R197 to R204, R235 to R240, R271 to R275) -/

/-- The bits of the engines that hold a command of the accessing partition, or of any from partition 0 (R204, R238). -/
def busyMask (n : Nat) (w : Who) (part : Nat → Option Nat) : Nat :=
  ((List.range n).map fun e => flag e ((part e).any fun p => isMgr w || p == whoPart w)).foldl (· + ·) 0

def State.pltRead (s : State) (w : Who) (o : Nat) : RegVal :=
  let p := whoPart w
  let win (f : Nat → Eng → Nat) : Nat := ((s.selEng w).map fun e => f e (s.eng e)).getD 0
  if o = 0x40000 then reg32 (s.plt.sel.get 0 p).toNat
  else if o = 0x40004 then
    reg32 (win fun _ v => flag 31 v.abtpend + flag 28 v.drain.isSome + fld 24 v.part + fld 12 v.queue + fld 8 v.st.code +
      v.opcode.toNat)
  else if o = 0x40008 then reg32 0
  else if o = 0x4000C then reg32 (win fun _ v => v.tag.toNat)
  else if o = 0x40010 then reg64 (win fun _ v => v.residue.toNat)
  else if o = 0x40018 then reg64 (win fun _ v => fld 32 v.cur1.toNat + v.cur0.toNat)
  else if o = 0x40020 then reg64 (win fun _ v => fld 32 v.cur3.toNat + v.cur2.toNat)
  else if o = 0x40028 then reg64 (win fun _ v => v.eva.toNat)
  else if o = 0x40030 then reg64 (win fun _ v => fld 62 v.ekind.toNat + v.epa.toNat)
  else if o = 0x40038 then reg32 (win fun _ v => flag 8 v.emore + fld 4 v.ecode.toNat + flag 0 v.edir)
  else if o = 0x40100 then reg64 s.plt.pool.toNat
  else if o = 0x40108 then reg64 (busyMask 64 w fun e => (s.engCmd e).map fun c => c.part)
  else if o = 0x40110 then reg64 (s.plt.haltmap.get 0 p).toNat
  else none

/-- The compositor that the accessing partition's window shows (R235). -/
def State.selComp (s : State) (w : Who) : Option Nat :=
  let n := (s.cmp.sel.get 0 (whoPart w)).toNat
  if isMgr w || (s.compCmd n).any fun c => c.part == whoPart w then some n else none

def State.cmpRead (s : State) (w : Who) (o : Nat) : RegVal :=
  let p := whoPart w
  let win (f : Comp → Nat) : Nat := ((s.selComp w).map fun n => f (s.comp n)).getD 0
  let trk (k : Nat) : Tracker := s.cmp.trk.get {} k
  if o = 0x50000 then reg32 (s.cmp.sel.get 0 p).toNat
  else if o = 0x50004 then reg32 (win fun v => fld 24 v.part + fld 12 v.queue + fld 8 v.st.code + v.opcode.toNat)
  else if o = 0x50008 then reg32 (win fun v => v.tag.toNat)
  else if o = 0x50010 then reg64 (((s.selComp w).map fun n => fld 32 (s.compDone n) + (s.comp n).posNow).getD 0)
  else if o = 0x50018 then reg64 (win fun v => fld 32 v.wins + v.distinct)
  else if o = 0x50100 then reg32 s.cmp.pool.toNat
  else if o = 0x50104 then reg32 (busyMask 16 w fun n => (s.compCmd n).map fun c => c.part)
  else if o = 0x50108 then reg32 (fld 16 s.swatchShare + s.swatchUse p)
  else ((nth o 0x50200 16 16).bind fun k =>
      let t := trk k
      reg32 (seen (s.mayTrack w k) (flag 31 t.en + flag 30 t.freeze + fld 24 t.part.toNat + t.table.toNat))) <|>
    ((nth o 0x50204 16 16).bind fun k => reg32 (seen (s.mayTrack w k) (trk k).ptr.toNat)) <|>
    ((nth o 0x50208 16 16).bind fun k =>
      let e := (trk k).ents.get (0, 0) (trk k).ptr.toNat
      reg64 (seen (s.mayTrack w k) (fld 32 e.2.toNat + e.1.toNat))) <|>
    ((nth o 0x54000 16 1024).bind fun m => reg64 (seen (m < s.meterShare) (s.cmp.look.get 0 (1024 * p + m)).toNat)) <|>
    ((nth o 0x54008 16 1024).bind fun m => reg64 (seen (m < s.meterShare) (s.cmp.fetch.get 0 (1024 * p + m)).toNat))

/-- FRZ_LKA_STAT of a lookahead (R275). -/
def State.lkaStat (s : State) (w : Who) (n : Nat) : Nat :=
  let v := s.lk n
  seen (isMgr w || v.queue.any fun q => q / 256 == whoPart w)
    (flag 63 v.queue.isSome + fld 48 (v.queue.getD 0) + fld 41 v.targets.length + fld 26 v.buffered +
      fld 13 (min 4096 (s.aheadOf n)) + fld 9 (s.trn.walks.filter fun x => x.proof == some n).length + v.xlt.length)

def State.lkaRead (s : State) (w : Who) (o : Nat) : RegVal :=
  let p := whoPart w
  if o = 0x60000 then reg32 s.lka.gctl.toNat
  else if o = 0x60004 then reg32 (s.lkaCtl p)
  else if o = 0x60008 then reg32 (s.lka.last.get 0 p).toNat
  else if o = 0x60010 then reg64 (s.lka.issue.get 0 p).toNat
  else if o = 0x60018 then reg64 (s.lka.used.get 0 p).toNat
  else if o = 0x60020 then reg64 (s.lka.disc.get 0 p).toNat
  else if o = 0x60028 then reg64 (s.lka.walks.get 0 p).toNat
  else (nth o 0x60100 8 16).bind fun n => reg64 (s.lkaStat w n)

/-! ### SEAM, tallies and LIN (R304 to R311, R341 to R347) -/

def State.seamRead (s : State) (w : Who) (o : Nat) : RegVal :=
  let p := whoPart w
  let st := (s.win (s.seam.sel.get 0 0).toNat).staged
  let see (n v : Nat) : Nat := seen (isMgr w || n / 64 == p) v
  if o = 0x70000 then reg32 s.seam.peer.toNat
  else if o = 0x70004 then reg32 s.seam.tmo.toNat
  else if o = 0x70008 then reg32 s.seam.live.toNat
  else if o = 0x70010 then reg32 (s.seam.sel.get 0 p).toNat
  else if o = 0x70018 then reg64 (seen (isMgr w) st.base.toNat)
  else if o = 0x70020 then reg64 (seen (isMgr w) st.lim.toNat)
  else if o = 0x70028 then reg64 (seen (isMgr w) st.cfg.toNat)
  else if o = 0x70030 then reg32 (flag 8 (s.seam.refused.get false p) + fld 4 (s.seam.rsn.get 0 p).toNat)
  else if o = 0x70040 then reg32 (flag 29 s.seam.town)
  else if o = 0x70044 then reg32 (s.tallyUse (if isMgr w then (s.seam.sel.get 0 0).toNat / 64 else p))
  else ((nth o 0x71000 4 1024).bind fun d => reg32 (s.seam.route.get 0 d).toNat) <|>
    ((nth o 0x78000 32 1024).bind fun n => reg64 (see n (s.win n).live.base.toNat)) <|>
    ((nth o 0x78008 32 1024).bind fun n => reg64 (see n (s.win n).live.lim.toNat)) <|>
    ((nth o 0x78010 32 1024).bind fun n => reg64 (see n (s.win n).live.cfg.toNat)) <|>
    ((nth o 0x78018 32 1024).bind fun n =>
      let u := s.win n
      reg64 (see n (fld 56 u.ver.toNat + fld 32 u.drops.toNat + u.drain.toNat)))

/-- FRZ_TAL_COUNT and FRZ_TAL_THR of a tally (R311). -/
def Tally.countRead (t : Tally) : Nat := flag 63 t.reached + flag 62 t.sat + t.count.toNat
def Tally.thrRead (t : Tally) : Nat :=
  fld 60 (t.owner.getD 0) + flag 59 t.owner.isSome + flag 58 t.mode + flag 57 t.irq + flag 56 t.tevt + fld 50 t.tile.toNat +
    t.thresh.toNat

def State.talRead (s : State) (w : Who) (o : Nat) : RegVal :=
  ((nth o 0x800000 16 65536).bind fun t => reg64 (seen (s.mayTouchTally w t) (s.tally t).countRead)) <|>
    ((nth o 0x800008 16 65536).bind fun t => reg64 (seen (s.mayTouchTally w t) (s.tally t).thrRead))

/-- A hint range of a partition that is present answers its partition and partition 0 (R2, R347). -/
def State.mayHint (s : State) (w : Who) (h : Nat) : Bool := s.present (h / 4) && (isMgr w || h / 4 == whoPart w)

def State.linRead (s : State) (w : Who) (o : Nat) : RegVal :=
  let see (v : Nat) : Nat := seen (isMgr w) v
  let hint (h v : Nat) : Nat := seen (s.mayHint w h) v
  if o = 0x80000 then reg64 (fld 30 (s.lin.base / 2 ^ 30) + s.lin.size)
  else if o = 0x80008 then reg32 (see (flag 31 s.lin.en))
  else if o = 0x8000C then
    reg32 (flag 31 s.lin.flushing + flag 30 (!s.lin.sweeps.isEmpty) + (s.lin.opens.filter Txn.isReq).length)
  else if o = 0x80010 then reg64 (see (s.lin.active.toNat % 2 ^ 64))
  else if o = 0x80018 then reg32 (see (s.lin.active.toNat / 2 ^ 64))
  else if o = 0x8001C then reg32 (see (flag 29 s.lin.refused + flag 28 s.linBusy))
  else if o = 0x80020 then reg64 (see s.lin.prba.toNat)
  else if o = 0x80028 then reg64 (see s.lin.prbd.toNat)
  else if o = 0x80040 then reg64 (see s.lin.nbcast.toNat)
  else if o = 0x80048 then reg64 (see s.lin.nrecall.toNat)
  else if o = 0x80050 then reg64 (see s.lin.ncross.toNat)
  else ((nth o 0x80100 16 64).bind fun h => reg64 (hint h (s.lin.hintb.get 0 h).toNat)) <|>
    ((nth o 0x80108 16 64).bind fun h => reg64 (hint h (s.lin.hintl.get 0 h).toNat))

/-! ### ERR, OBS and AON (R435 to R441, R455 to R458, R485 to R487) -/

/-- REACT of FRZ_ERR_CFG (R458). -/
def React.code : React → Nat
  | .none => 0
  | .poison => 1
  | .fence => 2
  | .device => 3

def State.errRead (s : State) (w : Who) (o : Nat) : RegVal :=
  let see (v : Nat) : Nat := seen (isMgr w) v
  let e := s.err
  if o = 0x90100 then
    reg32 (see (flag 31 e.halt + flag 30 e.missed + flag 29 (e.ferrP && !e.ferrN) + flag 28 e.handling))
  else if o = 0x90104 then reg32 (see (flag 31 e.force))
  else ((nth o 0x90000 4 16).bind fun k => reg32 (see (word e.sticky k))) <|>
    ((nth o 0x90040 4 16).bind fun k => reg32 (see (word (e.live ||| e.wire) k))) <|>
    ((nth o 0x90080 4 16).bind fun k => reg32 (see (word e.wire k))) <|>
    ((nth o 0x90200 4 16).bind fun j => reg32 (see (e.cnt.get 0 j).toNat)) <|>
    ((nth o 0x91000 4 512).bind fun n =>
      let u := errUnit n
      reg32 (seen (isMgr w && !errReserved n)
        (flag 31 (e.irq.getLsbD n) + flag 30 (e.ferrCfg.getLsbD n) + fld 16 u.1 + fld 8 u.2 +
          flag 2 (isLevel n) + (reactOf n).code)))

/-- The partition whose copy of a per-partition OBS register an access reaches (R462). -/
def State.obsPart (s : State) (w : Who) : Nat := s.qpart w

/-- Partition and count of FRZ_OBS_CCNT (R463). -/
def State.ccnt (s : State) (e : Nat) : Nat × Nat :=
  if e < 64 then ((s.eng e).cpart, (s.eng e).count.toNat) else ((s.comp (e - 64)).cpart, (s.comp (e - 64)).count.toNat)

def State.obsValue (s : State) (w : Who) (o : Nat) : RegVal :=
  let p := s.obsPart w
  let t := s.trp p
  let b := s.obs
  let see (v : Nat) : Nat := seen (isMgr w) v
  if o = 0xA0000 then reg64 b.time.toNat
  else if o = 0xA0008 then reg64 (see (flag 63 b.egap + b.energy.toNat))
  else if o = 0xA0010 then reg32 (see (fld 8 b.peak.toNat + b.temp.toNat))
  else if o = 0xA0014 then reg32 (flag 31 b.stcfg)
  else if o = 0xA0020 then reg64 t.base.toNat
  else if o = 0xA0028 then reg32 (flag 31 t.en + fld 4 t.size.toNat + t.kinds.toNat)
  else if o = 0xA002C then reg32 (flag 31 t.derr + flag 30 (t.room == 0) + t.lost.toNat)
  else if o = 0xA0030 then reg64 (fld 32 t.head.toNat + t.tail.toNat)
  else if o = 0xA0040 then reg64 (see b.tkbase.toNat)
  else if o = 0xA0048 then reg32 (see b.wdog.toNat)
  else if o = 0xA004C then
    reg32 (see (flag 31 b.tkbusy + flag 30 b.tkdone + flag 29 b.tkref + flag 28 b.tkerr + fld 24 b.tkcause.toNat))
  else ((nth o 0xA0100 8 8).bind fun i =>
      reg64 (flag 63 (b.gap.get false (8 * p + i)) + (b.pcnt.get 0 (8 * p + i)).toNat)) <|>
    ((nth o 0xA0200 8 80).bind fun e =>
      let c := s.ccnt e
      reg64 (seen (isMgr w || c.1 == whoPart w) (fld 60 c.1 + c.2)))

/-- The unit's registers read 0 while it is out (R449, R460). -/
def State.obsRead (s : State) (w : Who) (o : Nat) : RegVal :=
  (s.obsValue w o).map fun v => (v.1, seen (s.serving 0xC 0) v.2)

/-- The byte offset that a party's cursor holds (R482). -/
def State.cursorAt (s : State) (w : Who) : Nat := 8 * (s.rcd.cursor.get 0 (s.actPart w)).toNat

/-- The recorder's registers (R488), which read 0 while it is out (R449); the SRAM's bytes at the cursor are read apart (R482). -/
def State.recRegs (s : State) (w : Who) (o : Nat) : RegVal :=
  let see (v : Nat) : Nat := seen (s.serving 0xD 0) v
  if o = 0xB0000 then reg32 (see (flag 31 s.rcd.freeze + flag 0 s.rcd.mode))
  else if o = 0xB0004 then
    reg32 (see (flag 31 s.rcd.freeze + flag 30 s.rcd.wrap + fld 16 s.rcd.next.toNat + s.rcd.lostev.toNat))
  else if o = 0xB0008 then reg32 (see (s.cursorAt w))
  else if o = 0xB0010 then reg64 0
  else none

/-- Codes of a domain's state, and of a unit's (R428, R436). -/
def Dom.code : Dom → Nat
  | .run => 0
  | .idle => 1
  | .deep => 2
  | .waking _ => 3

def USt.code : USt → Nat
  | .in_ => 0
  | .draining => 1
  | .out => 2
  | .reloading => 3
  | .stale => 4
  | .rejoining => 5

def State.aonRead (s : State) (w : Who) (o : Nat) : RegVal :=
  let a := s.aon
  let see (v : Nat) : Nat := seen (isMgr w) v
  if o = 0xC0000 then reg32 (fld 29 a.lcs.toNat + fld 24 a.imgerr.toNat + flag 23 a.recov + a.imgver.toNat)
  else if o = 0xC0008 then
    reg64 (see (((List.range 26).map fun d => seen (s.domThere d) (fld (2 * d) (s.dom d).code)).foldl (· + ·) 0))
  else if o = 0xC0010 then reg32 (see a.slpctl.toNat)
  else if o = 0xC0018 then reg64 (see a.deepok.toNat)
  else if o = 0xC0020 then reg64 (see a.mbaddr.toNat)
  else if o = 0xC0028 then reg32 (see a.mblen.toNat)
  else if o = 0xC002C then
    reg32 (see (flag 31 a.mbbusy + fld 28 a.mbstep.toNat + flag 27 a.mbref + fld 16 a.mbres.toNat + a.mbseq.toNat))
  else if o = 0xC0030 then reg32 (see a.usel.toNat)
  else if o = 0xC0034 then
    let u := s.unit (bits a.usel.toNat 15 8) (bits a.usel.toNat 7 0)
    reg32 (see (fld 29 u.st.code + fld 8 u.epoch.toNat))
  else if o = 0xC0038 then reg32 0
  else if o = 0xC0040 then reg64 (fld 32 a.pcycle.toNat + a.hours.toNat)
  else none

/-! ### The whole space (R489 to R491) -/

/-- A party that sees the VF view: a function that is no physical function (R490). -/
def State.vfView (s : State) (w : Who) : Bool :=
  match w with
  | .fn p => !s.isPf p.val
  | .core _ => false

/-- An offset of the accessing party's view as an offset of the PF view; `none` past the view's end (R489, R491). -/
def State.pfOffset (s : State) (w : Who) (o : Nat) : Option Nat :=
  if s.vfView w then
    (if o < 0xC00000 then some o
     else if o < 0xD00000 then some (0x1000000 + 256 * 0x1000 * whoPart w + (o - 0xC00000))
     else none)
  else if o < 0x2000000 then some o else none

/-- A queue's doorbell page (R59, R61, R62). -/
def State.pageRead (s : State) (w : Who) (o : Nat) : RegVal :=
  ((nth o 0x1000000 0x1000 4096).bind fun _ => reg32 0) <|>
    ((nth o 0x1000008 0x1000 4096).bind fun q => reg32 (seen (whoPart w == q / 256) (s.queue q).chead.toNat))

/-- The register at an offset of the PF view, as a read that does not act sees it. -/
def State.regAt (s : State) (w : Who) (o : Nat) : RegVal :=
  if o < 0x9000 then s.galRead w o
  else if o < 0x10000 then s.hostRead w o
  else if o < 0x20000 then s.icRead w o
  else if o < 0x30000 then s.partRead w o
  else if o < 0x38000 then s.trnRead w o
  else if o < 0x40000 then s.fltRead w o
  else if o < 0x50000 then s.pltRead w o
  else if o < 0x60000 then s.cmpRead w o
  else if o < 0x70000 then s.lkaRead w o
  else if o < 0x80000 then s.seamRead w o
  else if o < 0x90000 then s.linRead w o
  else if o < 0xA0000 then s.errRead w o
  else if o < 0xB0000 then s.obsRead w o
  else if o < 0xC0000 then s.recRegs w o
  else if o < 0x800000 then s.aonRead w o
  else if o < 0x1000000 then s.talRead w o
  else s.pageRead w o

/-- The 32-bit word at an aligned offset of the PF view: a register, or a half of one; 0 where none lies (R10). -/
def State.regWord (s : State) (w : Who) (o : Nat) : Nat :=
  match s.regAt w o with
  | some v => v.2 % 2 ^ 32
  | none =>
    if o % 8 = 4 then
      match s.regAt w (o - 4) with
      | some (true, v) => v / 2 ^ 32 % 2 ^ 32
      | _ => 0
    else 0

/-- What a snapshot set captures at an offset: a misaligned or unassigned one reads 0, and so does the recorder's own (R10, R480). -/
def State.captured (s : State) (o : Nat) (wide : Bool) : Nat :=
  let w : Who := .fn 0
  if o % (if wide then 8 else 4) ≠ 0 ∨ 0xB0000 ≤ o ∧ o < 0xC0000 then 0
  else if wide then s.regWord w o + 2 ^ 32 * s.regWord w (o + 4)
  else s.regWord w o

end Sys2Proof.Machine
end

