-- ==== Sys2Proof/Machine/Recorder.lean ====
section
/-! DEFINITION. The event recorder's registers (R475 to R483, R488): freezing, snapshots into the ring, clearing, and access to its
SRAM at the cursor. -/

namespace Sys2Proof.Machine

open Sys2Proof

/-! ### The SRAM's layout (R476) -/

def histBase : Nat := 0x40
def trackBase : Nat := 0x2840
def setBase : Nat := 0x4840
def setEnd : Nat := 0x5840
def ringBase : Nat := 0x8000
def ringSlots : Nat := 4032
def sramEnd : Nat := 0x200000

/-- The histogram set, and the tracker, whose bytes an offset lies in: its first byte. -/
def histOf (a : Nat) : Option Nat := if histBase ≤ a ∧ a < trackBase then some (a - (a - histBase) % 160) else none
def trackOf (a : Nat) : Option Nat := if trackBase ≤ a ∧ a < setBase then some (a - (a - trackBase) % 32) else none

/-- A byte that a partition reads (R482): every one from partition 0; to another, those of the sets and trackers whose ALL is 0 and
whose PART names it. -/
def State.sramSeen (s : State) (p a : Nat) : Bool :=
  p == 0 ||
    match histOf a <|> trackOf a with
    | some b => !bit (s.sramNum (b + 1) 1) 7 && bits (s.sramNum (b + 1) 1) 3 0 == p
    | none => false

/-- The 8 bytes at an offset as a partition reads them. -/
def State.sramView (s : State) (p a : Nat) : Nat :=
  leNat ((List.range 8).map fun i => if s.sramSeen p (a + i) then Memory.read s.rcd.sram (a + i) else 0)

/-- A byte that partition 0 writes (R482): bytes 0 to 3 of a histogram set, bytes 0 to 2 of a tracker but 0 and 1 (R479), and the
snapshot set configurations. -/
def sramWritable (a : Nat) : Bool :=
  match histOf a, trackOf a with
  | some b, _ => decide (a < b + 4)
  | none, some b => decide (a < b + 3) && decide (trackBase + 64 ≤ b)
  | none, none => decide (setBase ≤ a) && decide (a < setEnd)

/-! ### Clearing (R477, R479, R488) -/

/-- The bins and TOTAL of a histogram set become 0, and its clear is stamped. -/
def State.clearHist (s : State) (b : Nat) : State :=
  let m := Memory.clear (Memory.clear s.rcd.sram (b + 24) (b + 32)) (b + 32) (b + 160)
  ({ s with rcd := { s.rcd with sram := m } } : State).setSram (b + 8) 8 s.stampNum

/-- A cleared tracker's VALUE (R479). -/
def State.clearTracker (s : State) (k : Nat) : State :=
  let a := trackBase + 32 * k
  s.setSram (a + 8) 8 (if bit (s.sramNum (a + 2) 1) 0 then 2 ^ 64 - 1 else 0)

/-- R488: the bins, trackers 2 to 255 and the ring are cleared, and the header stamped. -/
def State.recClear (s : State) : State :=
  let s1 := (List.range 64).foldl (fun s h => s.clearHist (histBase + 160 * h)) s
  let s2 := (List.range 254).foldl (fun s k => s.clearTracker (k + 2)) s1
  let r := { s2.rcd with sram := Memory.clear s2.rcd.sram ringBase sramEnd, wrap := false, next := 0, seq := 0 }
  ({ s2 with rcd := r } : State).setSram 0 8 s.stampNum

/-! ### Snapshots (R480) -/

/-- EN, PERIOD and N of a snapshot set. -/
def State.setOn (s : State) (k : Nat) : Bool := bit (s.sramNum (setBase + 256 * k + 3) 1) 0
def State.setPeriod (s : State) (k : Nat) : Nat := s.sramNum (setBase + 256 * k) 2
def State.setN (s : State) (k : Nat) : Nat := min 32 (s.sramNum (setBase + 256 * k + 2) 1)

/-- The slot that a capture of a set fills. -/
def State.slotBytes (s : State) (k : Nat) : Bytes :=
  let value (i : Nat) : Nat :=
    let o := s.sramNum (setBase + 256 * k + 8 + 4 * i) 4
    s.captured (bits o 25 0) (bit o 31)
  toLE 1 k ++ toLE 1 (s.setN k) ++ zeros 2 ++ toLE 8 s.stampNum ++ toLE 4 s.rcd.seq.toNat ++ toLE 8 s.now ++ zeros 40 ++
    (List.range (s.setN k)).flatMap fun i => toLE 8 (value i)

/-- One set is captured into the slot that NEXT names. -/
def State.capture (s : State) (k : Nat) : State :=
  let a := ringBase + 512 * s.rcd.next.toNat
  let last := s.rcd.next.toNat + 1 == ringSlots
  let m := Memory.writeAll (Memory.clear s.rcd.sram a (a + 512)) a (s.slotBytes k)
  { s with rcd := { s.rcd with sram := m, next := if last then 0 else s.rcd.next + 1, wrap := s.rcd.wrap || last,
                               seq := s.rcd.seq + 1 } }

/-- Every enabled set is captured, in snapshot mode (R480). -/
def State.snapAll (s : State) : State :=
  if s.rcd.mode then ((List.range 16).filter s.setOn).foldl State.capture s else s

/-! ### FRZ_REC_CTL (R488) -/

def State.setMode (s : State) (on : Bool) : State :=
  ({ s with rcd := { s.rcd with mode := on } } : State).setSram 8 1 (b2n on)

/-- A write of the whole register: CLRALL, then SNAP, unless recording is frozen (R481); then FREEZE and MODE take their values. -/
def State.writeRecCtl (s : State) (v : W32) : State :=
  let x := v.toNat
  let s0 := s.setMode (bit x 0)
  let s1 := if bit x 29 && !s.rcd.freeze then s0.recClear else s0
  let s2 := if bit x 30 && !s.rcd.freeze then s1.snapAll else s1
  { s2 with rcd := { s2.rcd with freeze := bit x 31 } }

/-! ### FRZ_REC_DATA (R482) -/

/-- The cursor advances by 8, modulo 2 MiB. -/
def State.advanceCursor (s : State) (w : Who) : State :=
  let p := s.actPart w
  { s with rcd := { s.rcd with cursor := s.rcd.cursor.set p (s.rcd.cursor.get 0 p + 1) } }

/-- The high half that a read of the low half left. -/
def State.cursorLatch (s : State) (w : Who) : Option W32 :=
  (s.rcd.latch.find? fun x => x.1 == s.actPart w).map (·.2)

def State.setLatch (s : State) (w : Who) (v : Option W32) : State :=
  let p := s.actPart w
  { s with rcd := { s.rcd with latch := match v with
      | some x => s.rcd.latch.set p x
      | none => s.rcd.latch.filter fun x => x.1 != p } }

/-- The histogram set whose bytes 0 to 3 a write from `a` on of `n` bytes meets. -/
def histHeader (a n : Nat) : Option Nat :=
  ((List.range n).map (a + ·)).findSome? fun b =>
    match histOf b with
    | some h => if b < h + 4 then some h else none
    | none => none

/-- Bytes written to the SRAM by partition 0: those it may write are stored, and a histogram header written is cleared, unless
recording is frozen (R477, R481). -/
def State.sramPut (s : State) (a : Nat) (d : Bytes) : State :=
  let m := Memory.writeEn s.rcd.sram a d ((List.range d.length).map fun i => sramWritable (a + i))
  let s1 : State := { s with rcd := { s.rcd with sram := m } }
  match histHeader a d.length with
  | some h => if s.rcd.freeze then s1 else s1.clearHist h
  | none => s1

def State.recWrite (s : State) (w : Who) (h : Half) (v : W64) : State :=
  let a := s.cursorAt w
  let at_ := if h = .high then a + 4 else a
  let d := if h = .whole then toLE 8 v.toNat else toLE 4 v.toNat
  let s1 := if isMgr w then s.sramPut at_ d else s
  if h = .low then s1 else s1.advanceCursor w

/-- A read of the register, and the state after it: the low half leaves the high half for its next read, and the cursor advances
past both. The recorder answers 0 while it is out (R449). -/
def State.recRead (s : State) (w : Who) (h : Half) : Nat × State :=
  let x := s.sramView (whoPart w) (s.cursorAt w)
  if !s.serving 0xD 0 then (0, s)
  else match h with
    | .whole => (x, (s.setLatch w none).advanceCursor w)
    | .low => (x % 2 ^ 32, s.setLatch w (some (BitVec.ofNat 32 (x / 2 ^ 32))))
    | .high => ((((s.cursorLatch w).map BitVec.toNat).getD (x / 2 ^ 32)), (s.setLatch w none).advanceCursor w)

/-! ### Meanings -/

/-- R481: FREEZE as written; a tailor core and partition 0 write it (R488, R490). -/
def execRecFreeze (w : Who) (on : Bool) (s_ : State) : Ans :=
  delivered (.recFreeze w on) s_ fun t_ =>
  heard w t_ fun s =>
  if isMgr w then .next { s with rcd := { s.rcd with freeze := on } } else .next s

/-- R480, R481. -/
def execRecSnap (w : Who) (s_ : State) : Ans :=
  delivered (.recSnap w) s_ fun t_ =>
  heard w t_ fun s =>
  if isMgr w && !s.rcd.freeze then .next s.snapAll else .next s

/-- R488, R481. -/
def execRecClrall (w : Who) (s_ : State) : Ans :=
  delivered (.recClrall w) s_ fun t_ =>
  heard w t_ fun s =>
  if isMgr w && !s.rcd.freeze then .next s.recClear else .next s

/-- R480: a period that falls due while FROZEN is skipped (R481). -/
def execSnapshotPeriod (k : Fin 16) (s_ : State) : Ans :=
  inUnit 0xD 0 s_ fun s =>
  if s.rcd.mode && !s.rcd.freeze && s.setOn k.val && s.setPeriod k.val != 0 then .next (s.capture k.val) else .next s

/-- R482; while the recorder is out its registers read 0 (R449). -/
def execRecDataAccess (w : Who) (a : RecAccess) (s_ : State) : Ans :=
  delivered (.recDataAccess w a) s_ fun t_ =>
  match a with
  | .read h => heardRead w t_ fun s => .next (answerRead w (s.recRead w h))
  | .write v => heard w t_ fun s => .next (s.recWrite w .whole v)

end Sys2Proof.Machine
end

