-- ==== Sys2Proof/Machine/Registers.lean ====
section
/-! DEFINITION. BAR0 writes (R6 to R11, R489 to R492): which register an access of 32 or 64 bits falls on, what a plain register
stores, and which command a register with a behaviour of its own gives; and reads of the RC fields (R8). -/

namespace Sys2Proof.Machine

open Sys2Proof

/-! ### Shared forms -/

/-- A write that a party's view carries to a unit, and that stores something there. -/
def store (w : Who) (code : Nat) (s : State) (f : State → State) : Ans :=
  heard w s fun t => inUnit code 0 t fun s => .next (f s)

/-- The same for a register that only partition 0 and the tailor cores write. -/
def storeMgr (w : Who) (code : Nat) (s : State) (f : State → State) : Ans :=
  store w code s fun s => if isMgr w then f s else s

/-- A register of a unit that has no code of R425. -/
def storeAny (w : Who) (s : State) (f : State → State) : Ans := heard w s fun s => .next (f s)

/-- A register of AON (R421). -/
def storeAon (w : Who) (s : State) (f : State → State) : Ans := heardAon w s fun s => .next (if isMgr w then f s else s)

/-- A register of the error collector. -/
def storeErr (w : Who) (s : State) (f : State → State) : Ans :=
  heardAon w s fun t => inUnit 0xB 0 t fun s => .next (if isMgr w then f s else s)

/-- A write that nothing stores. -/
def ignored (w : Who) (s : State) : Ans := heard w s .next

/-- Masks of stored fields: bits `[hi:lo]`. -/
def maskOf (hi lo : Nat) : Nat := 2 ^ (hi + 1) - 2 ^ lo

/-- The bits of a 64-bit register that a write of a half, or of the whole, sets to 1 in a RW1C field. -/
def ones (h : Half) (v : W64) : W64 :=
  match h with
  | .whole => v
  | .low => BitVec.ofNat 64 (v.toNat % 2 ^ 32)
  | .high => BitVec.ofNat 64 (v.toNat % 2 ^ 32 * 2 ^ 32)

/-! ### Galley (R88 to R95) -/

/-- A configuration write for the selected queue, which takes it only while DISABLED (R89, R90). -/
def State.cfgQueue (s : State) (w : Who) (f : Queue → Queue) : State :=
  match s.selQueue w with
  | some q => if (s.queue q).st = .disabled then s.modQueue q f else s
  | none => s

def State.writeGalSel (s : State) (w : Who) (x : Nat) : State :=
  let p := whoPart w
  let part := if isMgr w then s.gal.selPart.set 0 (BitVec.ofNat 4 (bits x 11 8)) else s.gal.selPart
  { s with gal := { s.gal with selPart := part, selQ := s.gal.selQ.set p (BitVec.ofNat 8 x) } }

def Queue.setCfg (v : Queue) (x : Nat) : Queue :=
  { v with isrc := BitVec.ofNat 11 (bits x 30 20), ctx := BitVec.ofNat 6 (bits x 17 12), prio := BitVec.ofNat 3 (bits x 10 8),
           csize := BitVec.ofNat 4 (bits x 7 4), qsize := BitVec.ofNat 4 (bits x 3 0) }

/-- FRZ_GAL_QCTL: a write with more than one bit set has no effect (R91). -/
def writeQctl (w : Who) (x : Nat) (s : State) : Ans :=
  let m := bits x 3 0
  if m = 1 then Sys2Proof.Machine.execQctlEnable w s
  else if m = 2 then Sys2Proof.Machine.execQctlDisable w s
  else if m = 4 then Sys2Proof.Machine.execQctlResume w s
  else if m = 8 then Sys2Proof.Machine.execQctlReset w s
  else ignored w s

/-- FRZ_GAL_HALTMAP[k] (R94). -/
def State.clearHalted (s : State) (p k x : Nat) : State :=
  let m := s.gal.haltmap.get 0 p
  { s with gal := { s.gal with haltmap := s.gal.haltmap.set p (m &&& ~~~(BitVec.ofNat 256 (x % 2 ^ 32 * 2 ^ (32 * k)))) } }

def galWrite (w : Who) (o : Nat) (h : Half) (v : W64) (s : State) : Ans :=
  let x := v.toNat % 2 ^ 32
  if o = 0x8000 then store w 1 s fun s => s.writeGalSel w x
  else if o = 0x8010 then store w 1 s fun s => s.cfgQueue w fun q => { q with qbase := putHalf q.qbase h v (maskOf 56 12) }
  else if o = 0x8018 then store w 1 s fun s => s.cfgQueue w fun q => { q with cbase := putHalf q.cbase h v (maskOf 56 12) }
  else if o = 0x8020 then store w 1 s fun s => s.cfgQueue w fun q => q.setCfg x
  else if o = 0x8024 then writeQctl w x s
  else if o = 0x8080 then storeMgr w 1 s fun s => { s with gal := { s.gal with slice := if bits x 15 0 = 0 then 1 else BitVec.ofNat 16 x } }
  else match nth o 0x8040 4 8 with
    | some k => store w 1 s fun s => s.clearHalted (whoPart w) k x
    | none => ignored w s

/-! ### IC and PART -/

/-- The partition of a party, as the number of a bank group. -/
def whoFin : Who → Fin 16
  | .fn p => p
  | .core _ => 0

def icWrite (w : Who) (o : Nat) (v : W64) (s : State) : Ans :=
  let x : W32 := BitVec.ofNat 32 v.toNat
  let n : BitVec 11 := BitVec.ofNat 11 v.toNat
  if o = 0x10000 then Sys2Proof.Machine.execGctlWrite w x s
  else if o = 0x10010 then Sys2Proof.Machine.execSysevClear w x s
  else match nth o 0x10100 4 64, nth o 0x12000 4 2048, nth o 0x18004 16 256, nth o 0x18008 16 256, nth o 0x1C004 16 16,
      nth o 0x1C008 16 16 with
    | some k, _, _, _, _, _ => Sys2Proof.Machine.execPendClear w (Fin.ofNat 64 k) x s
    | _, some k, _, _, _, _ => Sys2Proof.Machine.execTgtWrite w (Fin.ofNat 2048 k) x s
    | _, _, some b, _, _, _ => Sys2Proof.Machine.execSourceComplete w (.host (whoFin w) (Fin.ofNat 256 b)) n s
    | _, _, _, some b, _, _ => store w 0xA s fun s => s.writeCoal false (256 * whoPart w + b) x
    | _, _, _, _, some b, _ => Sys2Proof.Machine.execSourceComplete w (.core (Fin.ofNat 16 b)) n s
    | _, _, _, _, _, some b => storeMgr w 0xA s fun s => s.writeCoal true b x
    | _, _, _, _, _, _ => ignored w s

def partWrite (w : Who) (o : Nat) (h : Half) (v : W64) (s : State) : Ans :=
  let x : W32 := BitVec.ofNat 32 v.toNat
  match nth o 0x20040 4 8, nth o 0x20100 32 16, nth o 0x20108 32 16, nth o 0x20110 32 16, nth o 0x20114 32 16 with
  | some k, _, _, _, _ => Sys2Proof.Machine.execTcactWrite w (Fin.ofNat 8 k) x s
  | _, some p, _, _, _ => Sys2Proof.Machine.execQuotaWrite w (Fin.ofNat 16 p) .qa h v s
  | _, _, some p, _, _ => Sys2Proof.Machine.execQuotaWrite w (Fin.ofNat 16 p) .qb h v s
  | _, _, _, some p, _ => Sys2Proof.Machine.execQuotaWrite w (Fin.ofNat 16 p) .bw h v s
  | _, _, _, _, some p => store w 0xE s fun s => if s.mayIndex w p then s.writeOver p x else s
  | _, _, _, _, _ => ignored w s

/-! ### TRN, FLT and EPO -/

/-- R131: no queue but DISABLED ones, no valid context, and no tile bound to one of the partition's contexts. -/
def State.pmodeFree (s : State) (p : Nat) : Bool :=
  (s.gal.queues.all fun t => t.1 / 256 != p || t.2.st == .disabled) &&
    (List.range 64).all (fun l => !s.ctxValid (64 * p + l)) &&
    s.trn.tbind.all fun t => !(bit t.2.toNat 31 && bits t.2.toNat 9 0 / 64 == p)

/-- FRZ_TRN_PMODE[p] (R131). -/
def State.writePmode (s : State) (p x : Nat) : State :=
  if s.present p && s.pmodeFree p && decide (bits x 1 0 < 2) then
    s.setTrn { s.trn with pmode := s.trn.pmode.set p (BitVec.ofNat 32 (bits x 1 0 + 4 * b2n (bit x 2 && s.part == .v3x))) }
  else s

/-- FRZ_TRN_INVCTL (R137): the scope chooses the command; the reserved one has no effect. -/
def writeInvctl (w : Who) (x : Nat) (s : State) : Ans :=
  let p : BitVec 4 := BitVec.ofNat 4 (bits x 13 10)
  let c : BitVec 6 := BitVec.ofNat 6 (bits x 5 0)
  match bits x 31 30 with
  | 0 => Sys2Proof.Machine.execInvctlPartition w p s
  | 1 => Sys2Proof.Machine.execInvctlContext w p c s
  | 2 => Sys2Proof.Machine.execInvctlRange w p c s
  | _ => ignored w s

/-- Registers of the bound ranges and of the contexts (R133, R134, R135). -/
def trnTable (w : Who) (o : Nat) (h : Half) (v : W64) (s : State) : Ans :=
  match nth o 0x30400 16 128, nth o 0x30408 16 128, nth o 0x34000 16 1024, nth o 0x34008 16 1024 with
  | some n, _, _, _ => storeMgr w 2 s fun s =>
      if s.present (n / 8) then s.setTrn { s.trn with bbase := s.trn.bbase.set n (putHalf (s.trn.bbase.get 0 n) h v maskBbase) }
      else s
  | _, some n, _, _ => storeMgr w 2 s fun s =>
      if s.present (n / 8) then s.setTrn { s.trn with blim := s.trn.blim.set n (putHalf (s.trn.blim.get 0 n) h v maskBlim) } else s
  | _, _, some c, _ => store w 2 s fun s =>
      if s.mayIndex w (c / 64) && !s.ctxValid c then
        s.setTrn { s.trn with ctxroot := s.trn.ctxroot.set c (putHalf (s.trn.ctxroot.get 0 c) h v (maskOf 51 12)) }
      else s
  | _, _, _, some c =>
      Sys2Proof.Machine.execCtxcfgWrite w (Fin.ofNat 1024 c) (putHalf (s.trn.ctxcfg.get 0 c) h v (2 ^ 64 - 1)) s
  | _, _, _, _ => ignored w s

def trnWrite (w : Who) (o : Nat) (h : Half) (v : W64) (s : State) : Ans :=
  let x := v.toNat % 2 ^ 32
  let p := whoPart w
  if o = 0x30000 then
    store w 2 s fun s => s.setTrn { s.trn with
      invaddr := s.trn.invaddr.set p (putHalf (s.trn.invaddr.get 0 p) h v (maskOf 56 12 + maskOf 5 0)) }
  else if o = 0x30008 then writeInvctl w x s
  else if o = 0x3000C then
    store w 2 s fun s => if bit x 1 then s.setTrn { s.trn with refused := s.trn.refused.set p false } else s
  else match nth o 0x30040 4 16, nth o 0x30100 4 64 with
    | some q, _ => storeMgr w 2 s fun s => s.writePmode q x
    | _, some t => Sys2Proof.Machine.execTbindWrite w (Fin.ofNat 64 t) (BitVec.ofNat 32 x) s
    | _, _ => trnTable w o h v s

/-- FRZ_FLT_RPTR: HEAD, unless more than 512 records would then be unread (R171). -/
def FltP.setHead (f : FltP) (x : Nat) : FltP :=
  let head : BitVec 16 := BitVec.ofNat 16 (bits x 31 16)
  if 512 < (f.tail - head).toNat then f else { f with head := head }

/-- FRZ_FLT_RESP (R148, R172): an ACTION that is neither is refused. -/
def writeResp (w : Who) (x : Nat) (s : State) : Ans :=
  let fid : BitVec 16 := BitVec.ofNat 16 x
  match bits x 31 30 with
  | 1 => Sys2Proof.Machine.execFltRespRetry w fid s
  | 2 => Sys2Proof.Machine.execFltRespAbort w fid s
  | _ => store w 2 s fun s => s.modFltp (s.actPart w) fun f => { f with refused := true }

/-- A write of half of a TREC register, of which R173 gives no effect, merges with what the register reads. DESIGN CHOICE (log entry
56): the low half written to a FREE slot, whose V reads 0, unstages it and is lost. -/
def fltWrite (w : Who) (o : Nat) (h : Half) (v : W64) (s : State) : Ans :=
  let x := v.toNat % 2 ^ 32
  let mod (f : FltP → FltP) : Ans := store w 2 s fun s => s.modFltp (s.actPart w) f
  let slot (t : Nat) : Table := s.table (512 * whoPart w + t)
  let now (t : Slot) : W64 := putHalf (BitVec.ofNat 64 (trecRead t)) h v (2 ^ 64 - 1)
  if o = 0x38000 then mod fun f => if f.en then f else { f with rbase := putHalf f.rbase h v (2 ^ 63 + maskOf 56 15) }
  else if o = 0x38008 then Sys2Proof.Machine.execFltRcfgWrite w (BitVec.ofNat 32 x) s
  else if o = 0x3800C then mod fun f => { f with ringerr := f.ringerr && !bit x 31, refused := f.refused && !bit x 29 }
  else if o = 0x38010 then mod fun f => f.setHead x
  else if o = 0x38014 then writeResp w x s
  else match nth o 0x3C000 32 512, nth o 0x3C008 32 512 with
    | some t, _ => Sys2Proof.Machine.execTrecWrite w (Fin.ofNat 512 t) false (now (slot t).a) s
    | _, some t => Sys2Proof.Machine.execTrecWrite w (Fin.ofNat 512 t) true (now (slot t).b) s
    | _, _ => ignored w s

/-! ### PLT, CMP and LKA -/

/-- FRZ_PLT_CCTL: a write with more than one bit set has no effect (R199). -/
def writeCctl (w : Who) (x : Nat) (s : State) : Ans :=
  match bits x 2 0 with
  | 1 => Sys2Proof.Machine.execPltCctlAbort w s
  | 2 => Sys2Proof.Machine.execPltCctlRelease w s
  | 4 => Sys2Proof.Machine.execPltCctlRetry w s
  | _ => ignored w s

def pltWrite (w : Who) (o : Nat) (h : Half) (v : W64) (s : State) : Ans :=
  let x := v.toNat % 2 ^ 32
  let p := whoPart w
  if o = 0x40000 then storeAny w s fun s => { s with plt := { s.plt with sel := s.plt.sel.set p (BitVec.ofNat 6 x) } }
  else if o = 0x40008 then writeCctl w x s
  else if o = 0x40110 then
    storeAny w s fun s =>
      { s with plt := { s.plt with haltmap := s.plt.haltmap.set p (s.plt.haltmap.get 0 p &&& ~~~(ones h v)) } }
  else ignored w s

/-- FRZ_CMP_SKCFG[k] (R239): from partition 0 every field; from the partition tracked only FREEZE, and CLR. -/
def State.writeSkcfg (s : State) (w : Who) (k x : Nat) : State :=
  let t := s.cmp.trk.get {} k
  let t1 : Tracker :=
    if isMgr w then { t with en := bit x 31, freeze := bit x 30, part := BitVec.ofNat 4 (bits x 27 24), table := BitVec.ofNat 9 x }
    else { t with freeze := bit x 30 }
  if s.mayTrack w k then
    { s with cmp := { s.cmp with trk := s.cmp.trk.set k (if bit x 29 then { t1 with ents := [] } else t1) } }
  else s

def cmpWrite (w : Who) (o : Nat) (v : W64) (s : State) : Ans :=
  let x := v.toNat % 2 ^ 32
  let p := whoPart w
  if o = 0x50000 then storeAny w s fun s => { s with cmp := { s.cmp with sel := s.cmp.sel.set p (BitVec.ofNat 4 x) } }
  else match nth o 0x50200 16 16, nth o 0x50204 16 16 with
    | some k, _ => storeAny w s fun s => s.writeSkcfg w k x
    | _, some k => storeAny w s fun s =>
        if isMgr w then
          { s with cmp := { s.cmp with trk := s.cmp.trk.set k { s.cmp.trk.get {} k with ptr := BitVec.ofNat 8 x } } }
        else s
    | _, _ => ignored w s

def lkaWrite (w : Who) (o : Nat) (v : W64) (s : State) : Ans :=
  let x : W32 := BitVec.ofNat 32 v.toNat
  if o = 0x60000 then Sys2Proof.Machine.execLkaGctlWrite w x s
  else if o = 0x60004 then Sys2Proof.Machine.execLkaCtlWrite w x s
  else ignored w s

/-! ### SEAM, tallies and LIN -/

/-- The staging store of the window that partition 0 has selected (R306, R307); an absent partition has none (R2). -/
def State.stage (s : State) (f : Win → Win) : State :=
  let n := (s.seam.sel.get 0 0).toNat
  if s.present (n / 64) then s.setWin n { s.win n with staged := f (s.win n).staged } else s

def maskWcfg : Nat := maskOf 63 57 + maskOf 51 48 + maskOf 41 32 + maskOf 15 0

/-- FRZ_SEAM_WCTL (R309): a REFUSED cleared by a write that also commits shows that commit's refusal. -/
def writeWctl (w : Who) (x : Nat) (s : State) : Ans :=
  let clear (s : State) : State :=
    if bit x 8 then { s with seam := { s.seam with refused := s.seam.refused.set (whoPart w) false } } else s
  store w 6 s clear |> fun a =>
    match a with
    | .next t => if bit x 31 then Sys2Proof.Machine.execWindowCommit w t else .next t
    | a => a

/-- FRZ_SEAM_TOWN (R289, R310). -/
def writeTown (w : Who) (x : Nat) (s : State) : Ans :=
  let t : BitVec 16 := BitVec.ofNat 16 x
  match storeMgr w 6 s fun s => if bit x 29 then { s with seam := { s.seam with town := false } } else s with
  | .next s1 =>
    match bits x 31 30 with
    | 1 => Sys2Proof.Machine.execTownAssign w (Fin.ofNat 16 (bits x 19 16)) t s1
    | 2 => Sys2Proof.Machine.execTownRelease w t s1
    | _ => .next s1
  | a => a

def seamWrite (w : Who) (o : Nat) (h : Half) (v : W64) (s : State) : Ans :=
  let x := v.toNat % 2 ^ 32
  if o = 0x70004 then storeMgr w 6 s fun s => { s with seam := { s.seam with tmo := BitVec.ofNat 16 x } }
  else if o = 0x70010 then
    store w 6 s fun s => { s with seam := { s.seam with sel := s.seam.sel.set (whoPart w) (BitVec.ofNat 10 x) } }
  else if o = 0x70018 then storeMgr w 6 s fun s => s.stage fun n => { n with base := putHalf n.base h v (maskOf 51 6) }
  else if o = 0x70020 then storeMgr w 6 s fun s => s.stage fun n => { n with lim := putHalf n.lim h v (maskOf 36 6) }
  else if o = 0x70028 then storeMgr w 6 s fun s => s.stage fun n => { n with cfg := putHalf n.cfg h v maskWcfg }
  else if o = 0x70030 then writeWctl w x s
  else if o = 0x70040 then writeTown w x s
  else match nth o 0x71000 4 1024 with
    | some d => storeMgr w 6 s fun s => { s with seam := { s.seam with route := s.seam.route.set d (BitVec.ofNat 12 x) } }
    | none => ignored w s

/-- COUNT and THRESH change only on 64-bit writes; a write of a half that another party makes is counted (R290). -/
def talWrite (w : Who) (o : Nat) (h : Half) (v : W64) (s : State) : Ans :=
  let t : BitVec 16 := BitVec.ofNat 16 (o / 16)
  if h = .whole then
    (if o % 16 = 0 then Sys2Proof.Machine.execTalCountWrite w t v s else Sys2Proof.Machine.execTalThrWrite w t v s)
  else store w 6 s fun s => if s.mayTouchTally w t.toNat then s else s.isolation

/-- FRZ_LIN_AGCTL (R344). -/
def writeAgctl (w : Who) (x : Nat) (s : State) : Ans :=
  let a : BitVec 7 := BitVec.ofNat 7 x
  match storeMgr w 8 s fun s => if bit x 29 then s.setLin { s.lin with refused := false } else s with
  | .next s1 =>
    match bits x 31 30 with
    | 1 => Sys2Proof.Machine.execAgctlLeave w a s1
    | 2 => Sys2Proof.Machine.execAgctlJoin w a s1
    | _ => .next s1
  | a => a

def maskHintb : Nat := maskOf 63 56 + maskOf 51 21

def linWrite (w : Who) (o : Nat) (h : Half) (v : W64) (s : State) : Ans :=
  let x := v.toNat % 2 ^ 32
  if o = 0x80008 then
    (if bit x 31 then Sys2Proof.Machine.execLinEnable w s else Sys2Proof.Machine.execLinDisable w s)
  else if o = 0x8001C then writeAgctl w x s
  else if o = 0x80020 then Sys2Proof.Machine.execLinProbe w (putHalf s.lin.prba h v (2 ^ 64 - 1)) s
  else match nth o 0x80100 16 64, nth o 0x80108 16 64 with
    | some k, _ => store w 8 s fun s =>
        if s.mayHint w k then s.setLin { s.lin with hintb := s.lin.hintb.set k (putHalf (s.lin.hintb.get 0 k) h v maskHintb) } else s
    | _, some k => store w 8 s fun s =>
        if s.mayHint w k then s.setLin { s.lin with hintl := s.lin.hintl.set k (putHalf (s.lin.hintl.get 0 k) h v (maskOf 51 21)) }
        else s
    | _, _ => ignored w s

/-! ### ERR, OBS, REC and AON -/

/-- FRZ_ERR_CFG[n] (R458): FERR is read-only for a DEVICE source. -/
def State.writeErrCfg (s : State) (n x : Nat) : State :=
  if errReserved n then s
  else
    let ferr := if reactOf n = React.device then s.err.ferrCfg else setBit s.err.ferrCfg n (bit x 30)
    let s1 : State := { s with err := { s.err with irq := setBit s.err.irq n (bit x 31), ferrCfg := ferr } }
    (s1.relevel s).updFerr

/-- FRZ_ERR_GSTAT (R452, R456). -/
def writeGstat (w : Who) (x : Nat) (s : State) : Ans :=
  match storeErr w s fun s => if bit x 30 then { s with err := { s.err with missed := false } } else s with
  | .next s1 => if bit x 31 then Sys2Proof.Machine.execHaltClear w s1 else .next s1
  | a => a

def errWrite (w : Who) (o : Nat) (v : W64) (s : State) : Ans :=
  let x := v.toNat % 2 ^ 32
  if o = 0x90100 then writeGstat w x s
  else if o = 0x90104 then storeErr w s fun s => ({ s with err := { s.err with force := bit x 31 } } : State).updFerr
  else match nth o 0x90000 4 16, nth o 0x91000 4 512 with
    | some k, _ => Sys2Proof.Machine.execErrStatClear w (Fin.ofNat 16 k) (BitVec.ofNat 32 x) s
    | _, some n => storeErr w s fun s => s.writeErrCfg n x
    | _, _ => heardAon w s .next

/-- FRZ_OBS_TRCFG (R486): SIZE while EN is 0; setting EN makes HEAD and TAIL 0. -/
def TrP.setCfg (t : TrP) (x : Nat) : TrP :=
  let t1 : TrP := { t with en := bit x 31, kinds := BitVec.ofNat 3 x, size := if t.en then t.size else BitVec.ofNat 4 (bits x 7 4) }
  if !t.en && bit x 31 then { t1 with head := 0, tail := 0 } else t1

/-- FRZ_OBS_TRPTR.HEAD: a write that passes TAIL has no effect (R486). -/
def TrP.setHead (t : TrP) (head : W32) : TrP := if t.size2 < (t.tail - head).toNat then t else { t with head := head }

def obsWrite (w : Who) (o : Nat) (h : Half) (v : W64) (s : State) : Ans :=
  let x := v.toNat % 2 ^ 32
  let mod (f : TrP → TrP) : Ans := store w 0xC s fun s => s.setTrp (s.obsPart w) (f (s.trp (s.obsPart w)))
  if o = 0xA0010 then (if bit x 31 then Sys2Proof.Machine.execTempClrpeak w s else ignored w s)
  else if o = 0xA0014 then storeMgr w 0xC s fun s => { s with obs := { s.obs with stcfg := bit x 31 } }
  else if o = 0xA0020 then mod fun t => if t.en then t else { t with base := putHalf t.base h v (2 ^ 63 + maskOf 56 12) }
  else if o = 0xA0028 then mod fun t => t.setCfg x
  else if o = 0xA002C then mod fun t => { t with derr := t.derr && !bit x 31 }
  else if o = 0xA0030 then
    (match h with
      | .low => ignored w s
      | .high => mod fun t => t.setHead (BitVec.ofNat 32 x)
      | .whole => mod fun t => t.setHead (BitVec.ofNat 32 (v.toNat / 2 ^ 32)))
  else if o = 0xA0040 then
    storeMgr w 0xC s fun s => { s with obs := { s.obs with tkbase := putHalf s.obs.tkbase h v (maskOf 51 12) } }
  else if o = 0xA0048 then Sys2Proof.Machine.execTackGo w (BitVec.ofNat 32 x) s
  else if o = 0xA004C then
    storeMgr w 0xC s fun s => { s with obs := { s.obs with tkdone := s.obs.tkdone && !bit x 30, tkref := s.obs.tkref && !bit x 29,
                                                           tkerr := s.obs.tkerr && !bit x 28 } }
  else ignored w s

def recRegWrite (w : Who) (o : Nat) (h : Half) (v : W64) (s : State) : Ans :=
  if o = 0xB0000 then storeMgr w 0xD s fun s => s.writeRecCtl (BitVec.ofNat 32 v.toNat)
  else if o = 0xB0008 then
    store w 0xD s fun s =>
      { s with rcd := { s.rcd with cursor := s.rcd.cursor.set (s.actPart w) (BitVec.ofNat 18 (bits v.toNat 20 3)) } }
  else if o = 0xB0010 then store w 0xD s fun s => s.recWrite w h v
  else ignored w s

def aonWrite (w : Who) (o : Nat) (h : Half) (v : W64) (s : State) : Ans :=
  let x := v.toNat % 2 ^ 32
  if o = 0xC0010 then storeAon w s fun s => { s with aon := { s.aon with slpctl := BitVec.ofNat 32 x &&& maskSlpctl } }
  else if o = 0xC0018 then
    storeAon w s fun s =>
      let d := putHalf (BitVec.ofNat 64 s.aon.deepok.toNat) h v (2 ^ 26 - 1)
      { s with aon := { s.aon with deepok := BitVec.ofNat 26 d.toNat &&& s.maskDeepok } }
  else if o = 0xC0020 then storeAon w s fun s => { s with aon := { s.aon with mbaddr := putHalf s.aon.mbaddr h v (maskOf 51 6) } }
  else if o = 0xC0028 then Sys2Proof.Machine.execAmendmentGo w (BitVec.ofNat 32 x) s
  else if o = 0xC002C then storeAon w s fun s => { s with aon := { s.aon with mbref := s.aon.mbref && !bit x 27 } }
  else if o = 0xC0030 then storeAon w s fun s => { s with aon := { s.aon with usel := BitVec.ofNat 16 x } }
  else if o = 0xC0038 then (if bit x 31 then Sys2Proof.Machine.execUctlRejoin w s else heardAon w s .next)
  else heardAon w s .next

/-- A queue's page (R60 to R62). -/
def pageWrite (w : Who) (o : Nat) (v : W64) (s : State) : Ans :=
  let x := v.toNat
  match nth o 0x1000000 0x1000 4096, nth o 0x1000008 0x1000 4096 with
  | some q, _ => Sys2Proof.Machine.execDoorbellWrite w (Fin.ofNat 4096 q) (bit x 31) (BitVec.ofNat 16 x) s
  | _, some q => Sys2Proof.Machine.execCheadWrite w (Fin.ofNat 4096 q) (BitVec.ofNat 16 x) s
  | _, _ => ignored w s

/-! ### The whole space -/

/-- Whether a register begins at an offset of the PF view, and is 64 bits wide. -/
def State.regWide (s : State) (w : Who) (o : Nat) : Option Bool := (s.regAt w o).map (·.1)

/-- A write of the register that begins at an offset: of a half of it, or of the whole. For a 32-bit register, and for a half, the
value is the low 32 bits. -/
def writeReg (w : Who) (o : Nat) (h : Half) (v : W64) (s : State) : Ans :=
  if o < 0x9000 then galWrite w o h v s
  else if o < 0x10000 then ignored w s
  else if o < 0x20000 then icWrite w o v s
  else if o < 0x30000 then partWrite w o h v s
  else if o < 0x38000 then trnWrite w o h v s
  else if o < 0x40000 then fltWrite w o h v s
  else if o < 0x50000 then pltWrite w o h v s
  else if o < 0x60000 then cmpWrite w o v s
  else if o < 0x70000 then lkaWrite w o v s
  else if o < 0x80000 then seamWrite w o h v s
  else if o < 0x90000 then linWrite w o h v s
  else if o < 0xA0000 then errWrite w o v s
  else if o < 0xB0000 then obsWrite w o h v s
  else if o < 0xC0000 then recRegWrite w o h v s
  else if o < 0x800000 then aonWrite w o h v s
  else if o < 0x1000000 then talWrite w o h v s
  else pageWrite w o v s

/-- A 32-bit write at an aligned offset: to a register, or to a half of one; `none` where none lies. -/
def writeWord (w : Who) (o : Nat) (v : W64) (s : State) : Option Ans :=
  match s.regWide w o with
  | some _ => some (writeReg w o .low v s)
  | none =>
    if o % 8 = 4 ∧ s.regWide w (o - 4) = some true then some (writeReg w (o - 4) .high v s) else none

/-- An access that no register takes is counted (R10). -/
def badWrite (w : Who) (s : State) : Ans := heard w s fun s => .next s.badAccess

/-- A 64-bit write over two places of 32 bits. R10 leaves this open. DESIGN CHOICE (log entry 56): each register that lies there is
written, the lower first; where only one place is a register, that one is written, and source 0 counts nothing. -/
def writePair (w : Who) (o : Nat) (v : W64) (s : State) : Ans :=
  let hi : W64 := BitVec.ofNat 64 (v.toNat / 2 ^ 32)
  match writeWord w o (BitVec.ofNat 64 (v.toNat % 2 ^ 32)) s with
  | some (.next t) => (writeWord w (o + 4) hi t).getD (.next t)
  | some a => a
  | none => (writeWord w (o + 4) hi s).getD (badWrite w s)

/-- A naturally aligned write of 32 or 64 bits at an offset of the PF view (R10). -/
def writeAt (w : Who) (o width : Nat) (v : W64) (s : State) : Ans :=
  if width = 32 ∧ o % 4 = 0 then (writeWord w o (BitVec.ofNat 64 (v.toNat % 2 ^ 32)) s).getD (badWrite w s)
  else if width = 64 ∧ o % 8 = 0 then
    (if s.regWide w o = some true then writeReg w o .whole v s else writePair w o v s)
  else badWrite w s

/-! ### Reads (R6, R8, R10, R11) -/

/-- The offset of the register that holds an RC field. -/
def rcOffset : RcReg → Nat
  | .errCnt j => 0x90200 + 4 * j.val
  | .wstat n => 0x78018 + 32 * n.val
  | .mlook m => 0x54000 + 16 * m.val
  | .mfetch m => 0x54008 + 16 * m.val
  | .lkaIssue => 0x60010
  | .lkaUsed => 0x60018
  | .lkaDisc => 0x60020
  | .lkaWalks => 0x60028
  | .linNbcast => 0x80040
  | .linNrecall => 0x80048
  | .linNcross => 0x80050
  | .hostLate => 0x9020
  | .trstat => 0xA002C
  | .recStat => 0xB0004
  | .reg o _ => o.toNat

/-- The RC field of the register that begins at an offset of the PF view. -/
def rcAt (o : Nat) : Option RcReg :=
  ([.lkaIssue, .lkaUsed, .lkaDisc, .lkaWalks, .linNbcast, .linNrecall, .linNcross, .hostLate, .trstat, .recStat].find?
      fun r => rcOffset r == o) <|>
    ((nth o 0x90200 4 16).map fun j => .errCnt (Fin.ofNat 16 j)) <|>
    ((nth o 0x78018 32 1024).map fun n => .wstat (Fin.ofNat 1024 n)) <|>
    ((nth o 0x54000 16 1024).map fun m => .mlook (Fin.ofNat 1024 m)) <|>
    ((nth o 0x54008 16 1024).map fun m => .mfetch (Fin.ofNat 1024 m))

/-- The registers that are 32 bits wide. -/
def rcNarrow : RcReg → Bool
  | .errCnt _ => true
  | .trstat => true
  | .recStat => true
  | _ => false

/-- The field clears, where the party reaches it. -/
def State.rcClear (s : State) (w : Who) (r : RcReg) : State :=
  let p := whoPart w
  let lin (l : Lin) : State := if isMgr w then s.setLin l else s
  match r with
  | .errCnt j => if isMgr w then { s with err := { s.err with cnt := s.err.cnt.set j.val 0 } } else s
  | .wstat n => if isMgr w || n.val / 64 == p then s.setWin n.val { s.win n.val with drops := 0 } else s
  | .mlook m => if m.val < s.meterShare then { s with cmp := { s.cmp with look := s.cmp.look.set (1024 * p + m.val) 0 } } else s
  | .mfetch m => if m.val < s.meterShare then { s with cmp := { s.cmp with fetch := s.cmp.fetch.set (1024 * p + m.val) 0 } } else s
  | .lkaIssue => { s with lka := { s.lka with issue := s.lka.issue.set p 0 } }
  | .lkaUsed => { s with lka := { s.lka with used := s.lka.used.set p 0 } }
  | .lkaDisc => { s with lka := { s.lka with disc := s.lka.disc.set p 0 } }
  | .lkaWalks => { s with lka := { s.lka with walks := s.lka.walks.set p 0 } }
  | .linNbcast => lin { s.lin with nbcast := 0 }
  | .linNrecall => lin { s.lin with nrecall := 0 }
  | .linNcross => lin { s.lin with ncross := 0 }
  | .hostLate => if isMgr w then { s with host := { s.host with late := 0 } } else s
  | .trstat => if s.serving 0xC 0 then s.setTrp (s.obsPart w) { s.trp (s.obsPart w) with lost := 0 } else s
  | .recStat => if s.serving 0xD 0 then { s with rcd := { s.rcd with lostev := 0 } } else s
  | .reg _ _ => s

/-- Registers whose high half a read of the low half latches until it is read (R200, R237, R275, R296, R308, R441, R485). -/
def latchesHigh (o : Nat) : Bool :=
  [0x40010, 0x50010, 0x50018, 0xA0000, 0xA0008, 0xC0040].contains o || (nth o 0x60100 8 16).isSome ||
    (nth o 0x78018 32 1024).isSome || (nth o 0xA0100 8 8).isSome || (nth o 0xA0200 8 80).isSome || (nth o 0x800000 16 65536).isSome

/-- The high half that a party's read of the low half left (R11). -/
def State.heldHigh (s : State) (w : Who) (o : Nat) : Option W32 := (s.latch.find? fun x => x.1 == w && x.2.1 == o).map (·.2.2)

def State.dropHigh (s : State) (w : Who) (o : Nat) : State :=
  { s with latch := s.latch.filter fun x => !(x.1 == w && x.2.1 == o) }

def State.holdHigh (s : State) (w : Who) (o : Nat) (v : W32) : State :=
  let s1 := s.dropHigh w o
  { s1 with latch := s1.latch ++ [(w, o, v)] }

/-- A read of a register, of a half or of the whole: an RC field clears, and the low half's read may leave the high half for its own
next read. The chapters leave open what follows when the halves are read in another order. DESIGN CHOICE (log entry 57): a half that a
register holds until it is read stays, whatever is read meanwhile; that of an RC counter is replaced by the next read of its low half;
a high half read with none held is the current one, and clears the field; a whole read leaves the half held. -/
def State.readHalf (s : State) (w : Who) (o : Nat) (h : Half) : Nat × State :=
  let v := ((s.regAt w o).map (·.2)).getD 0
  let cleared := match rcAt o with
    | some r => s.rcClear w r
    | none => s
  match h with
  | .whole => (v, cleared)
  | .low =>
    if latchesHigh o && (s.heldHigh w o).isSome || !latchesHigh o && (rcAt o).isNone then (v % 2 ^ 32, s)
    else (v % 2 ^ 32, cleared.holdHigh w o (BitVec.ofNat 32 (v / 2 ^ 32)))
  | .high =>
    match s.heldHigh w o with
    | some x => (x.toNat, s.dropHigh w o)
    | none => (v / 2 ^ 32, cleared)

/-- A read of another partition's CHEAD or tally is counted (R59, R290). -/
def State.countForeign (s : State) (w : Who) (o : Nat) : State :=
  let tal := (nth o 0x800000 8 131072).any fun k => !s.mayTouchTally w (k / 2)
  let page := (nth o 0x1000008 0x1000 4096).any fun q => q / 256 != whoPart w
  if tal || page then s.isolation else s

/-- A read of the register that begins at an offset of the PF view: its answer, and the state after it. -/
def State.readReg (s : State) (w : Who) (o : Nat) (h : Half) : Nat × State :=
  match nth o 0x18000 16 256, nth o 0x1C000 16 16, nth o 0x50208 16 16 with
  | some b, _, _ => s.claim w (.host (whoFin w) (Fin.ofNat 256 b))
  | _, some b, _ => s.claim w (.core (Fin.ofNat 16 b))
  | _, _, some k => if h = .whole then s.skentRead w k else s.readHalf w o h
  | _, _, _ => if o = 0xB0010 then s.recRead w h else (s.countForeign w o).readHalf w o h

/-- A 32-bit read at an aligned offset: of a register, or of a half of one; `none` where none lies. -/
def State.readWord (s : State) (w : Who) (o : Nat) : Option (Nat × State) :=
  match s.regWide w o with
  | some wide => some (s.readReg w o (if wide then .low else .whole))
  | none => if o % 8 = 4 ∧ s.regWide w (o - 4) = some true then some (s.readReg w (o - 4) .high) else none

/-- A 64-bit read over two places of 32 bits is two reads, the lower first; a place that is no register reads 0 (DESIGN CHOICE, log
entry 56). -/
def State.readPair (s : State) (w : Who) (o : Nat) : Nat × State :=
  match s.readWord w o with
  | some x =>
    match x.2.readWord w (o + 4) with
    | some y => (x.1 + 2 ^ 32 * y.1, y.2)
    | none => x
  | none =>
    match s.readWord w (o + 4) with
    | some y => (2 ^ 32 * y.1, y.2)
    | none => (0, s.badAccess)

/-- A read of `width` bits at an offset of the PF view: one that is misaligned, or falls on no register, returns 0 and is counted. -/
def State.readAt (s : State) (w : Who) (o width : Nat) : Nat × State :=
  if width = 32 ∧ o % 4 = 0 then (s.readWord w o).getD (0, s.badAccess)
  else if width = 64 ∧ o % 8 = 0 then (if s.regWide w o = some true then s.readReg w o .whole else s.readPair w o)
  else (0, s.badAccess)

/-- A read at an offset of the party's view: the fence register completes under R51. -/
def State.readView (s : State) (w : Who) (o width : Nat) : State :=
  match s.pfOffset w o with
  | some o => if o = 0x9000 ∧ (width = 32 ∨ width = 64) then s.fenceRead w else answerRead w (s.readAt w o width)
  | none => answerRead w (0, s.badAccess)

/-! ### Meanings -/

/-- R6, R8, R10, R11: a register that holds an RC field is named, with the part of it that is read; of any other place the access is
given as it is made. The ERR and AON regions also answer the recovery identity (R421). -/
def execReadClearCounterRead (w : Who) (r : RcReg) (h : Half) (s_ : State) : Ans :=
  delivered (.readClearCounterRead w r h) s_ fun t_ =>
  let o := rcOffset r
  let go (s : State) : Ans := .next (match r with
    | .reg _ width => s.readView w o width
    | r =>
      if rcNarrow r then s.readView w o 32
      else match h with
        | .whole => s.readView w o 64
        | .low => s.readView w o 32
        | .high => s.readView w (o + 4) 32)
  if 0x90000 ≤ o ∧ o < 0xA0000 ∨ 0xC0000 ≤ o ∧ o < 0x800000 then heardAonRead w t_ go else heardRead w t_ go

/-- R6, R10, R489: the offset lies in the view of the accessing party; `width` is in bits. -/
def execRegisterWrite (w : Who) (off : BitVec 26) (width : Nat) (v : W64) (s_ : State) : Ans :=
  delivered (.registerWrite w off width v) s_ fun s =>
  match s.pfOffset w off.toNat with
  | some o => writeAt w o width v s
  | none => badWrite w s

end Sys2Proof.Machine
end

