-- ==== Sys2Proof/Machine/Clock.lean ====
section
/-! DEFINITION. One spine cycle, which the block takes when no command waits: the time base (R459), the counters of busy engines
(R460), energy and temperature (R461), the ports due for a stamp (R471). DESIGN CHOICE: the table has no row for a cycle. -/

namespace Sys2Proof.Machine

open Sys2Proof

/-- The partitions of the engines that hold a command, and of the compositors that run one. -/
def State.busyEngines (s : State) : List Nat :=
  (List.range 64).filterMap fun e => (s.engCmd e).map fun c => c.part

def State.busyComps (s : State) : List Nat :=
  (List.range 16).filterMap fun n => (s.compCmd n).map fun c => c.part

/-- PLTBUSY and CMPBUSY (R460). -/
def State.countBusy (s : State) : State :=
  s.busyComps.foldl (fun s p => s.pcntAdd p 6 1) (s.busyEngines.foldl (fun s p => s.pcntAdd p 5 1) s)

/-- Energy and the hottest sensor: both free values (R461). -/
def State.sense (s : State) : State :=
  if s.serving 0xC 0 then
    let t := Config.freeTemp s.free
    { s with
      free := s.free + 1
      obs := { s.obs with energy := s.obs.energy + Config.freeEnergy s.free, temp := t,
                          peak := if s.obs.peak.toNat < t.toNat then t else s.obs.peak } }
  else s

/-- The time base rises while the Control domain runs, and every 2,000,000 cycles is a management-plane tick (R459, R471). -/
def State.countTime (s : State) : State :=
  if s.dom 0 = .run then
    let t := s.obs.time + 1
    { s with obs := { s.obs with time := t, stamps := if t.toNat % 2000000 = 0 then BitVec.allOnes 12 else s.obs.stamps } }
  else s

/-- A unit that has been STALE for a cycle is REJOINING (R428). -/
def State.rejoinTick (s : State) : State :=
  { s with aon := { s.aon with units := s.aon.units.map fun x => if x.2.st = .stale then (x.1, { x.2 with st := .rejoining }) else x } }

/-- A spine cycle, once the PLLs have locked. -/
def State.tick (s : State) : State :=
  if s.obs.on then
    let s1 := s.countTime.countBusy.sense.rejoinTick
    { s1 with obs := { s1.obs with since := s1.obs.since + 1 } }
  else s

/-- What a step does when no command waits: held commands enter the queue again once one of them can go on (R25, R425); else a spine
cycle passes. -/
def State.onEmpty (s : State) : State := if s.someReady s.held [] then s.requeue else s.tick

end Sys2Proof.Machine
end

