-- ==== Sys2Proof/Machine/Dispatch.lean ====
section
/-! DEFINITION. The meaning of each command: one arm for each row of spec/opcode_table.json. -/

namespace Sys2Proof.Machine

open Sys2Proof

/-- The effect of a command on everything but the queue of waiting commands. -/
def exec (i : Instr) (s : State) : Host.Outcome State Fault Refusal :=
  match i with
  | .doorbellWrite w q inc value => Sys2Proof.Machine.execDoorbellWrite w q inc value s
  | .cheadWrite w q value => Sys2Proof.Machine.execCheadWrite w q value s
  | .slotGrant => Sys2Proof.Machine.execSlotGrant s
  | .slugFetch q => Sys2Proof.Machine.execSlugFetch q s
  | .ringReadReturn q r => Sys2Proof.Machine.execRingReadReturn q r s
  | .sealReread q => Sys2Proof.Machine.execSealReread q s
  | .rereadReturn q k r => Sys2Proof.Machine.execRereadReturn q k r s
  | .waitConditionCleared q => Sys2Proof.Machine.execWaitConditionCleared q s
  | .sliceEnd q => Sys2Proof.Machine.execSliceEnd q s
  | .qctlEnable w => Sys2Proof.Machine.execQctlEnable w s
  | .qctlDisable w => Sys2Proof.Machine.execQctlDisable w s
  | .qctlResume w => Sys2Proof.Machine.execQctlResume w s
  | .qctlReset w => Sys2Proof.Machine.execQctlReset w s
  | .queueDrained q => Sys2Proof.Machine.execQueueDrained q s
  | .queueResetDone q => Sys2Proof.Machine.execQueueResetDone q s
  | .commandEnd q pos => Sys2Proof.Machine.execCommandEnd q pos s
  | .flushingReadComplete q pos ok => Sys2Proof.Machine.execFlushingReadComplete q pos ok s
  | .recordWriteResponse q pos r => Sys2Proof.Machine.execRecordWriteResponse q pos r s
  | .nop q => Sys2Proof.Machine.execNop q s
  | .marker q => Sys2Proof.Machine.execMarker q s
  | .invalidate q => Sys2Proof.Machine.execInvalidate q s
  | .stage q => Sys2Proof.Machine.execStage q s
  | .swap q => Sys2Proof.Machine.execSwap q s
  | .retire q => Sys2Proof.Machine.execRetire q s
  | .move q => Sys2Proof.Machine.execMove q s
  | .put q => Sys2Proof.Machine.execPut q s
  | .gather q => Sys2Proof.Machine.execGather q s
  | .scatter q => Sys2Proof.Machine.execScatter q s
  | .swatch q => Sys2Proof.Machine.execSwatch q s
  | .tset q => Sys2Proof.Machine.execTset q s
  | .tadd q => Sys2Proof.Machine.execTadd q s
  | .wcommit q => Sys2Proof.Machine.execWcommit q s
  | .translate x => Sys2Proof.Machine.execTranslate x s
  | .contextSlotLoad c => Sys2Proof.Machine.execContextSlotLoad c s
  | .walkStart w => Sys2Proof.Machine.execWalkStart w s
  | .walkTableReadReturn w r => Sys2Proof.Machine.execWalkTableReadReturn w r s
  | .walkFill w => Sys2Proof.Machine.execWalkFill w s
  | .atsTranslationCompletion w a => Sys2Proof.Machine.execAtsTranslationCompletion w a s
  | .atsInvalidationRequest p itag va size pasid global => Sys2Proof.Machine.execAtsInvalidationRequest p itag va size pasid global s
  | .invctlPartition w part => Sys2Proof.Machine.execInvctlPartition w part s
  | .invctlContext w part ctx => Sys2Proof.Machine.execInvctlContext w part ctx s
  | .invctlRange w part ctx => Sys2Proof.Machine.execInvctlRange w part ctx s
  | .invalidationNumberingRelease p => Sys2Proof.Machine.execInvalidationNumberingRelease p s
  | .invalidationComplete => Sys2Proof.Machine.execInvalidationComplete s
  | .ctxcfgWrite w c v => Sys2Proof.Machine.execCtxcfgWrite w c v s
  | .tbindWrite w t v => Sys2Proof.Machine.execTbindWrite w t v s
  | .faultEntryAllocate p => Sys2Proof.Machine.execFaultEntryAllocate p s
  | .faultRecordIssue p => Sys2Proof.Machine.execFaultRecordIssue p s
  | .faultRecordDone p r => Sys2Proof.Machine.execFaultRecordDone p r s
  | .fltRespRetry w fid => Sys2Proof.Machine.execFltRespRetry w fid s
  | .fltRespAbort w fid => Sys2Proof.Machine.execFltRespAbort w fid s
  | .replayRemovalDone p n => Sys2Proof.Machine.execReplayRemovalDone p n s
  | .faultDeadline p => Sys2Proof.Machine.execFaultDeadline p s
  | .pageRequestSend p => Sys2Proof.Machine.execPageRequestSend p s
  | .prgResponse p n c => Sys2Proof.Machine.execPrgResponse p n c s
  | .fltRcfgWrite w v => Sys2Proof.Machine.execFltRcfgWrite w v s
  | .trecWrite w t slotB v => Sys2Proof.Machine.execTrecWrite w t slotB v s
  | .epochFlip q pos => Sys2Proof.Machine.execEpochFlip q pos s
  | .slotPurging p t slotB => Sys2Proof.Machine.execSlotPurging p t slotB s
  | .purgeSweepStart => Sys2Proof.Machine.execPurgeSweepStart s
  | .purgeSweepEnd => Sys2Proof.Machine.execPurgeSweepEnd s
  | .pleatAssign q pos => Sys2Proof.Machine.execPleatAssign q pos s
  | .pleatBurstBegin e => Sys2Proof.Machine.execPleatBurstBegin e s
  | .pleatReadReturn e id r => Sys2Proof.Machine.execPleatReadReturn e id r s
  | .pleatWriteResponse e id r => Sys2Proof.Machine.execPleatWriteResponse e id r s
  | .pltCctlAbort w => Sys2Proof.Machine.execPltCctlAbort w s
  | .pltCctlRelease w => Sys2Proof.Machine.execPltCctlRelease w s
  | .pltCctlRetry w => Sys2Proof.Machine.execPltCctlRetry w s
  | .pltCctlDeferred e => Sys2Proof.Machine.execPltCctlDeferred e s
  | .epochRecordRead n r => Sys2Proof.Machine.execEpochRecordRead n r s
  | .streamReadReturn n id r => Sys2Proof.Machine.execStreamReadReturn n id r s
  | .placementReadReturn n id r => Sys2Proof.Machine.execPlacementReadReturn n id r s
  | .rowReadReturn n id r => Sys2Proof.Machine.execRowReadReturn n id r s
  | .windowClose n => Sys2Proof.Machine.execWindowClose n s
  | .scatterRowUpdate n => Sys2Proof.Machine.execScatterRowUpdate n s
  | .resultWrite n => Sys2Proof.Machine.execResultWrite n s
  | .compositorWriteResponse n id r => Sys2Proof.Machine.execCompositorWriteResponse n id r s
  | .skcfgClr w k => Sys2Proof.Machine.execSkcfgClr w k s
  | .skentRead w k => Sys2Proof.Machine.execSkentRead w k s
  | .readClearCounterRead w r h => Sys2Proof.Machine.execReadClearCounterRead w r h s
  | .proofRingReadReturn n r => Sys2Proof.Machine.execProofRingReadReturn n r s
  | .proofSealRetry n => Sys2Proof.Machine.execProofSealRetry n s
  | .proofReadIssue n x => Sys2Proof.Machine.execProofReadIssue n x s
  | .proofReadReturn n id r => Sys2Proof.Machine.execProofReadReturn n id r s
  | .proofWalkStart n w va => Sys2Proof.Machine.execProofWalkStart n w va s
  | .lkaGctlWrite w v => Sys2Proof.Machine.execLkaGctlWrite w v s
  | .lkaCtlWrite w v => Sys2Proof.Machine.execLkaCtlWrite w v s
  | .peerPacketSend id => Sys2Proof.Machine.execPeerPacketSend id s
  | .inboundWr port h data en => Sys2Proof.Machine.execInboundWr port h data en s
  | .inboundRd port h q r => Sys2Proof.Machine.execInboundRd port h q r s
  | .inboundAtm port h q op x y => Sys2Proof.Machine.execInboundAtm port h q op x y s
  | .inboundTadd port h v => Sys2Proof.Machine.execInboundTadd port h v s
  | .inboundCpl port c r => Sys2Proof.Machine.execInboundCpl port c r s
  | .inboundWritePerformed id => Sys2Proof.Machine.execInboundWritePerformed id s
  | .peerCompletionTimeout id => Sys2Proof.Machine.execPeerCompletionTimeout id s
  | .talCountWrite w t v => Sys2Proof.Machine.execTalCountWrite w t v s
  | .talThrWrite w t v => Sys2Proof.Machine.execTalThrWrite w t v s
  | .townAssign w p t => Sys2Proof.Machine.execTownAssign w p t s
  | .townRelease w t => Sys2Proof.Machine.execTownRelease w t s
  | .windowCommit w => Sys2Proof.Machine.execWindowCommit w s
  | .commitTakesEffect n => Sys2Proof.Machine.execCommitTakesEffect n s
  | .rds a line => Sys2Proof.Machine.execRds a line s
  | .rdx a line => Sys2Proof.Machine.execRdx a line s
  | .upg a line => Sys2Proof.Machine.execUpg a line s
  | .evc a line => Sys2Proof.Machine.execEvc a line s
  | .nar u => Sys2Proof.Machine.execNar u s
  | .uwr u fill => Sys2Proof.Machine.execUwr u fill s
  | .atm u => Sys2Proof.Machine.execAtm u s
  | .wbd a line w => Sys2Proof.Machine.execWbd a line w s
  | .transactionAdmit line => Sys2Proof.Machine.execTransactionAdmit line s
  | .snoopResponse a line r => Sys2Proof.Machine.execSnoopResponse a line r s
  | .homeWriteResponse line => Sys2Proof.Machine.execHomeWriteResponse line s
  | .cxlMemRequest b addr op => Sys2Proof.Machine.execCxlMemRequest b addr op s
  | .biconflict b line => Sys2Proof.Machine.execBiconflict b line s
  | .agctlLeave w a => Sys2Proof.Machine.execAgctlLeave w a s
  | .agctlJoin w a => Sys2Proof.Machine.execAgctlJoin w a s
  | .agentSweepEnd => Sys2Proof.Machine.execAgentSweepEnd s
  | .linDisable w => Sys2Proof.Machine.execLinDisable w s
  | .flushSweepEnd => Sys2Proof.Machine.execFlushSweepEnd s
  | .linEnable w => Sys2Proof.Machine.execLinEnable w s
  | .linProbe w addr => Sys2Proof.Machine.execLinProbe w addr s
  | .bar2Write p addr data en => Sys2Proof.Machine.execBar2Write p addr data en s
  | .bar2Read p addr len any => Sys2Proof.Machine.execBar2Read p addr len any s
  | .bar2Atomicop p addr op len x y => Sys2Proof.Machine.execBar2Atomicop p addr op len x y s
  | .hostFenceRead w => Sys2Proof.Machine.execHostFenceRead w s
  | .hostCompletion link tag r => Sys2Proof.Machine.execHostCompletion link tag r s
  | .completionTimeout link tag => Sys2Proof.Machine.execCompletionTimeout link tag s
  | .tagQuarantineEnd link tag => Sys2Proof.Machine.execTagQuarantineEnd link tag s
  | .vfEnable link on num => Sys2Proof.Machine.execVfEnable link on num s
  | .barSizeWrite link vf size => Sys2Proof.Machine.execBarSizeWrite link vf size s
  | .initiateFlr p => Sys2Proof.Machine.execInitiateFlr p s
  | .flrDrainDone p => Sys2Proof.Machine.execFlrDrainDone p s
  | .flrDrainTimeout p => Sys2Proof.Machine.execFlrDrainTimeout p s
  | .flrReady p => Sys2Proof.Machine.execFlrReady p s
  | .veilRegionWiped r => Sys2Proof.Machine.execVeilRegionWiped r s
  | .fundamentalReset b => Sys2Proof.Machine.execFundamentalReset b s
  | .hotReset link => Sys2Proof.Machine.execHotReset link s
  | .linkStateChange link st => Sys2Proof.Machine.execLinkStateChange link st s
  | .sourceEdge n => Sys2Proof.Machine.execSourceEdge n s
  | .sourceLineFall n => Sys2Proof.Machine.execSourceLineFall n s
  | .coalesceTime b => Sys2Proof.Machine.execCoalesceTime b s
  | .claim w b => Sys2Proof.Machine.execClaim w b s
  | .sourceComplete w b n => Sys2Proof.Machine.execSourceComplete w b n s
  | .pendClear w k mask => Sys2Proof.Machine.execPendClear w k mask s
  | .tgtWrite w n v => Sys2Proof.Machine.execTgtWrite w n v s
  | .gctlWrite w v => Sys2Proof.Machine.execGctlWrite w v s
  | .msixHeldSend p e => Sys2Proof.Machine.execMsixHeldSend p e s
  | .sysevClear w mask => Sys2Proof.Machine.execSysevClear w mask s
  | .tcactWrite w k v => Sys2Proof.Machine.execTcactWrite w k v s
  | .quotaWrite w p r h v => Sys2Proof.Machine.execQuotaWrite w p r h v s
  | .accountingPeriod => Sys2Proof.Machine.execAccountingPeriod s
  | .domainEnterIdle d => Sys2Proof.Machine.execDomainEnterIdle d s
  | .domainEnterDeep d => Sys2Proof.Machine.execDomainEnterDeep d s
  | .wakeRequest d => Sys2Proof.Machine.execWakeRequest d s
  | .wakeComplete d ok => Sys2Proof.Machine.execWakeComplete d ok s
  | .powerOnReset => Sys2Proof.Machine.execPowerOnReset s
  | .imageHeaderRead => Sys2Proof.Machine.execImageHeaderRead s
  | .pllLock => Sys2Proof.Machine.execPllLock s
  | .sramWipeDone => Sys2Proof.Machine.execSramWipeDone s
  | .imageReadDone im => Sys2Proof.Machine.execImageReadDone im s
  | .functionsReady => Sys2Proof.Machine.execFunctionsReady s
  | .amendmentGo w v => Sys2Proof.Machine.execAmendmentGo w v s
  | .amendmentVerifyDone sigOk => Sys2Proof.Machine.execAmendmentVerifyDone sigOk s
  | .amendmentDrainDone => Sys2Proof.Machine.execAmendmentDrainDone s
  | .amendmentDrainTimeout => Sys2Proof.Machine.execAmendmentDrainTimeout s
  | .amendmentReloadDone ok => Sys2Proof.Machine.execAmendmentReloadDone ok s
  | .uctlRejoin w => Sys2Proof.Machine.execUctlRejoin w s
  | .unitRejoin code inst => Sys2Proof.Machine.execUnitRejoin code inst s
  | .lifeCycleTransition => Sys2Proof.Machine.execLifeCycleTransition s
  | .lifeCycleWipeDone => Sys2Proof.Machine.execLifeCycleWipeDone s
  | .operatingHoursTick => Sys2Proof.Machine.execOperatingHoursTick s
  | .errorReport srcs granule => Sys2Proof.Machine.execErrorReport srcs granule s
  | .wireFault n => Sys2Proof.Machine.execWireFault n s
  | .handlingIntervalEnd => Sys2Proof.Machine.execHandlingIntervalEnd s
  | .errStatClear w k mask => Sys2Proof.Machine.execErrStatClear w k mask s
  | .haltClear w => Sys2Proof.Machine.execHaltClear w s
  | .ferrDeassert => Sys2Proof.Machine.execFerrDeassert s
  | .traceDrain p buf => Sys2Proof.Machine.execTraceDrain p buf s
  | .traceDrainDone p ok => Sys2Proof.Machine.execTraceDrainDone p ok s
  | .tackGo w v => Sys2Proof.Machine.execTackGo w v s
  | .tackWatchdog => Sys2Proof.Machine.execTackWatchdog s
  | .tackCapture => Sys2Proof.Machine.execTackCapture s
  | .tackDone ok => Sys2Proof.Machine.execTackDone ok s
  | .recFreeze w on => Sys2Proof.Machine.execRecFreeze w on s
  | .recSnap w => Sys2Proof.Machine.execRecSnap w s
  | .recClrall w => Sys2Proof.Machine.execRecClrall w s
  | .snapshotPeriod k => Sys2Proof.Machine.execSnapshotPeriod k s
  | .recDataAccess w a => Sys2Proof.Machine.execRecDataAccess w a s
  | .tempClrpeak w => Sys2Proof.Machine.execTempClrpeak w s
  | .registerWrite w off width v => Sys2Proof.Machine.execRegisterWrite w off width v s
  | .boundModeRequest x => Sys2Proof.Machine.execBoundModeRequest x s
  | .porbNAsserted => Sys2Proof.Machine.execPorbNAsserted s
  | .perstDeasserted b => Sys2Proof.Machine.execPerstDeasserted b s
  | .hupenPortTrained k => Sys2Proof.Machine.execHupenPortTrained k s
  | .configurationWrite p c => Sys2Proof.Machine.execConfigurationWrite p c s
  | .swatchReadReturn q pos r => Sys2Proof.Machine.execSwatchReadReturn q pos r s
  | .homeReadReturn line r => Sys2Proof.Machine.execHomeReadReturn line r s
  | .h2dSnoop b addr => Sys2Proof.Machine.execH2dSnoop b addr s
  | .wireFaultCleared n err => Sys2Proof.Machine.execWireFaultCleared n err s
  | .tilePoweredAgain t => Sys2Proof.Machine.execTilePoweredAgain t s

end Sys2Proof.Machine
end

