-- ==== Sys2Proof/Machine/Step.lean ====
section
/-! DEFINITION. One step: the command at the front of the queue, or, on an empty queue, the held commands that can go on, or one
spine cycle. -/

namespace Sys2Proof.Machine

open Sys2Proof

/-- Take the command at the front, with the rest of the queue left waiting. DESIGN CHOICE: when there is none, the held commands whose
domains and units have come back enter the queue, and when there is none of those either, a spine cycle passes. -/
def step (s : State) : Host.Outcome State Fault Refusal :=
  match s.pending with
  | [] => .next s.onEmpty
  | c :: rest => exec c { s with pending := rest }

/-- The state with the command that a word spells put at the front of the queue. -/
def State.withFetchWord (s : State) (nbits w : Nat) : State :=
  match decodeTableWord nbits w with
  | some c => { s with pending := c :: s.pending }
  | none => s

end Sys2Proof.Machine
end

