-- ==== Sys2Proof/Safety.lean ====
section
/-! DEFINITION. The terms the statements use: the memories' canonical form, what a step leaves as it was, and when an access reaches
its register. -/

namespace Sys2Proof.Machine

open Sys2Proof

/-- Device memory, the recorder's SRAM and the tack shadow are in canonical form (R16, R472, R476). -/
def State.memOk (s : State) : Prop :=
  Memory.wf s.mem = true ∧ Memory.wf s.rcd.sram = true ∧ Memory.wf s.obs.shadow = true

/-- The pieces of the state, by the name of their field. -/
inductive Piece where
  | pending | held | part | mem | poison | veil | reqs | orphans | nextId | free | tileQ | out | latch | gal | trn | flt | epo | plt | cmp
  | lka | seam | tal | lin | host | ic | prt | aon | err | obs | rcd
  deriving DecidableEq, Repr

/-- A piece of `t` is what it was in `s`. -/
def State.same (s t : State) : Piece → Prop
  | .pending => t.pending = s.pending
  | .held => t.held = s.held
  | .part => t.part = s.part
  | .mem => t.mem = s.mem
  | .poison => t.poison = s.poison
  | .veil => t.veil = s.veil
  | .reqs => t.reqs = s.reqs
  | .orphans => t.orphans = s.orphans
  | .nextId => t.nextId = s.nextId
  | .free => t.free = s.free
  | .tileQ => t.tileQ = s.tileQ
  | .out => t.out = s.out
  | .latch => t.latch = s.latch
  | .gal => t.gal = s.gal
  | .trn => t.trn = s.trn
  | .flt => t.flt = s.flt
  | .epo => t.epo = s.epo
  | .plt => t.plt = s.plt
  | .cmp => t.cmp = s.cmp
  | .lka => t.lka = s.lka
  | .seam => t.seam = s.seam
  | .tal => t.tal = s.tal
  | .lin => t.lin = s.lin
  | .host => t.host = s.host
  | .ic => t.ic = s.ic
  | .prt => t.prt = s.prt
  | .aon => t.aon = s.aon
  | .err => t.err = s.err
  | .obs => t.obs = s.obs
  | .rcd => t.rcd = s.rcd

/-- Every request, of the pool and of those given up whose completion is due, is numbered below the next number. -/
def State.fresh (s : State) : Prop := ∀ r ∈ s.reqs ++ s.orphans, r.id < s.nextId

/-- The frame of a step: no piece but those named differs. -/
def State.only (ps : List Piece) (s t : State) : Prop := ∀ k, k ∉ ps → s.same t k

/-- A register access of `w` is answered: by a tailor core whose port is open, or by a function that serves and whose accesses come
over no insecure stream (R360, R368, R423, R449). -/
def State.hears (s : State) : Who → Bool
  | .core c => !s.coreClosed c.val
  | .fn p => s.fnServes p.val && !s.ideBar0 p.val

/-- The same for the AON and ERR regions, which also answer the recovery identity (R421). -/
def State.hearsAon (s : State) : Who → Bool
  | .core c => !s.coreClosed c.val
  | .fn p => s.fnServes p.val && !s.ideBar0 p.val || (s.aon.boot == .recovery && p.val == 0)

/-- A register access reaches its unit at once: its domains run and its units serve, nothing keeps it behind (R25, R118, R425), and
it is answered. -/
def State.takes (s : State) (w : Who) (c : Instr) : Bool := s.admits c && s.hears w

/-- The same for the AON and ERR regions. -/
def State.takesAon (s : State) (w : Who) (c : Instr) : Bool := s.admits c && s.hearsAon w

/-- The commands that may clear a latched error or HALT: the clearing writes, and those that bring the device to its reset (R431, R450, R452). -/
def mayClearErrors : Instr → Bool
  | .errStatClear _ _ _ => true
  | .haltClear _ => true
  | .registerWrite _ _ _ _ => true
  | .lifeCycleWipeDone => true
  | .porbNAsserted => true
  | _ => false

/-- Galley works: its unit is in service and the Control domain runs (R413, R428). -/
def State.galleyRuns (s : State) : Bool := s.serving 1 0 && s.dom 0 == .run

/-- The slug accepted at the head of queue `q` has the opcode `op`, and every condition of its commitment holds (R71 to R73, R448); no
earlier command stands at its position. -/
def State.commits (s : State) (q op : Nat) : Bool :=
  s.galleyRuns && (s.queue q).st == .resident && (s.queue q).fetch.st == .accepted && slugOpcode (s.queue q).fetch.slug == op &&
    !s.err.halt && s.unmet q (s.queue q).fetch.slug == none && !s.foreignTally q (s.queue q).fetch.slug &&
    s.cmd? q (s.queue q).head == none

/-- HEAD of queue `q` has passed the accepted slug, and no other queue differs (R57, R71, R81). -/
def State.passed (s t : State) (q : Nat) : Prop :=
  let v := s.queue q
  let n := 1 + slugExt v.fetch.slug
  t.queue q =
    { v with
      head := v.head + BitVec.ofNat 16 n, fetch := {}
      st := if v.head + BitVec.ofNat 16 n = v.tail then .idle else v.st
      qphase := if ringSize v.qsize ≤ v.head.toNat % ringSize v.qsize + n then nextPhase v.qphase else v.qphase } ∧
  ∀ k, k ≠ q → t.queue k = s.queue k

/-- The command of the accepted slug is in flight in `t`, in the state `st`. -/
def State.inState (s t : State) (q : Nat) (st : CmdSt) : Prop :=
  ∃ c, t.cmd? q (s.queue q).head = some c ∧ c.st = st ∧ c.slug = (s.queue q).fetch.slug ∧ c.part = q / 256

/-- The command of the accepted slug has ended in `t`, with a status. -/
def State.endedAs (s t : State) (q status : Nat) : Prop :=
  ∃ c, t.cmd? q (s.queue q).head = some c ∧ c.st = .ended ∧ c.status = BitVec.ofNat 8 status ∧ c.slug = (s.queue q).fetch.slug ∧
    c.part = q / 256

/-- No two of those requests share a number. -/
def State.distinct (s : State) : Prop := ((s.reqs ++ s.orphans).map (·.id)).Nodup

/-- The accounting period of a partition has no budget (R400). -/
def State.unlimited (s : State) (p : Nat) : Bool := bits (s.prt.bwNow.get 0 p).toNat 19 0 == 0xFFFFF

/-- `t` has given the next number to an invalidation of partition `p` (R118, R119): its entries are gone, no other is, and it stands last
among those not complete, with the requests it waits for. -/
def State.numberedAs (s t : State) (p : Nat) (sc : InvScope) (by_ : InvFrom) : Prop :=
  t.trn.invLast = s.trn.invLast + 1 ∧ t.trn.lastInv.get 0 p = s.trn.invLast + 1 ∧
  t.trn.edge = s.trn.edge.filter (fun e => !sc.removes p e) ∧ t.trn.folio = s.trn.folio.filter (fun e => !sc.removes p e) ∧
  t.trn.invs = s.trn.invs ++
    [{ num := s.trn.invLast + 1, part := p, scope := sc, by_ := by_, users := (s.reqs.filter (s.usesRemoved sc p)).map (·.id),
       rows := s.rowsRemoved sc p }]

/-- Compositor `n` is in the midst of the command `c`: it runs, its record is here, lookups are left to run, and nothing ends it. -/
def State.composing (s : State) (n : Nat) (c : Cmd) (rcd : Bytes) : Prop :=
  s.dom (8 + n) = .run ∧ s.compCmd n = some c ∧ c.aborted = false ∧
  (let v := s.comp n
   v.st = .running ∧ v.record = some rcd ∧ v.kill = false ∧ v.fence = false ∧ v.fail = none ∧ v.broken = false ∧ v.pre = false ∧
     v.wstart < v.nidx)

/-- The command `c` has ended in `t`, with a status. -/
def State.ended (t : State) (c : Cmd) (status : Nat) : Prop :=
  ∃ d, t.cmd? c.queue c.pos = some d ∧ d.st = .ended ∧ d.status = BitVec.ofNat 8 status

end Sys2Proof.Machine
end

