-- ==== Sys2Proof/Certificates/Slice0/Obligations.lean ====
section
/-! DEFINITION. The statements about the model, for the provers: the step, the invariants, and what each family of commands does. -/

open Sys2Proof Sys2Proof.Machine

/-- A step takes the command at the front of the queue and is its execution with the rest of the queue left waiting; on an empty queue the
commands that Fraiz holds enter it again once one of them can go on (R25, R425), and else a spine cycle passes: both are the model's own
choice (log entries 1 and 58). -/
def Obligations.StepRunsTheFrontCommand : Prop :=
  (∀ (c : Instr) (rest : List Instr) (s : State), step { s with pending := c :: rest } = exec c { s with pending := rest }) ∧
  (∀ (s : State), s.pending = [] → step s = .next (if s.someReady s.held [] then { s with pending := s.held.map (·.cmd), held := [] } else s.tick))

/-- The state after reset: no command waits, no request is out, every queue is DISABLED with its phases 1, no window is enabled, no
context is valid, no tally is owned, no table is valid with slot B its last current one, every agent but the host's is active, nothing is
latched, and power has not come up; the memories are canonical and the requests numbered. -/
def Obligations.ResetLeavesTheSpecsState : Prop :=
  let s := State.reset
  s.pending = [] ∧ s.held = [] ∧ s.reqs = [] ∧ s.tileQ = [] ∧ s.memOk ∧ s.fresh ∧ s.distinct ∧
  (∀ q, (s.queue q).st = .disabled ∧ (s.queue q).head = 0 ∧ (s.queue q).tail = 0 ∧ (s.queue q).qphase = 1 ∧ (s.queue q).cphase = 1) ∧
  (∀ n, (s.win n).live.en = false ∧ (s.win n).drops = 0) ∧ (∀ c, s.ctxValid c = false) ∧ (∀ k, (s.tally k).owner = none) ∧
  (∀ k, (s.table k).valid = false ∧ (s.table k).curB = true ∧ (s.table k).gen = 0) ∧
  s.lin.active.toNat = 2 ^ 72 - 1 ∧ s.ic.sysev = 0 ∧ s.err.sticky = 0 ∧ s.err.halt = false ∧ s.err.ferrP = false ∧ s.err.ferrN = false ∧
  s.aon.boot = .off

/-- R16, R472, R476: whatever a step does, device memory, the recorder's SRAM and the tack shadow keep their canonical form: addresses
rising, and no byte listed that an unlisted one would read. -/
def Obligations.MemoriesStayCanonical : Prop :=
  ∀ (s t : State), s.memOk → step s = .next t → t.memOk

/-- The request pool's numbers, which the model's own addressing of requests rests on: a step keeps every request numbered below the next
number, and no two alike. -/
def Obligations.RequestsStayNumbered : Prop :=
  ∀ (s t : State), s.fresh → s.distinct → step s = .next t → t.fresh ∧ t.distinct

/-- Whole-device rules. No command touches the waiting queue or the part. The always-on store changes only at power-on, at a tick of the
operating hours and at the end of a life-cycle transition. A latched error stays, and so does HALT, but for the commands that clear them.
-/
def Obligations.OnlyTheirCommandsChangeThem : Prop :=
  (∀ (c : Instr) (s t : State), exec c s = .next t → t.pending = s.pending ∧ t.part = s.part) ∧
  (∀ (c : Instr) (s t : State), c ≠ .powerOnReset → c ≠ .operatingHoursTick → c ≠ .lifeCycleWipeDone → exec c s = .next t →
    t.aon.lcs = s.aon.lcs ∧ t.aon.svnMin = s.aon.svnMin ∧ t.aon.keyHash = s.aon.keyHash ∧ t.aon.hours = s.aon.hours ∧
    t.aon.pcycle = s.aon.pcycle) ∧
  (∀ (c : Instr) (s t : State), mayClearErrors c = false → exec c s = .next t →
    (∀ n, s.err.sticky.getLsbD n = true → t.err.sticky.getLsbD n = true) ∧ (s.err.halt = true → t.err.halt = true))

/-- R1, R18: every command answers a next state in every state; none faults and none is refused. A command from outside that must wait is
held whole and changes nothing but the domains it wakes (R25, R425). -/
def Obligations.EveryCommandHasItsEffect : Prop :=
  (∀ (c : Instr) (s : State), ∃ t, exec c s = .next t) ∧
  (∀ (c : Instr) (s : State) (k : State → Ans), s.admits c = false →
    ∃ t, delivered c s k = .next t ∧ t.held = s.held ++ [s.needs c] ∧ (s.needs c).cmd = c ∧
      (∀ d, d ∈ (s.needs c).doms → t.dom d ≠ .idle ∧ t.dom d ≠ .deep) ∧ s.only [.held, .aon] t)

/-- R29, R30, R34, R337, R369: what a write leaves to be read. Its enabled bytes read as written and every other byte reads as it did,
veiled or not; an atomic brings what was to be read and leaves its result, and on a poisoned granule does nothing. -/
def Obligations.WritesAreReadBack : Prop :=
  (∀ (s : State) (a b : Nat) (data : Bytes) (en : List Bool), Memory.wf s.mem = true →
    (s.performWrite a data en).readMem b 1 =
      (if a ≤ b ∧ b < a + data.length ∧ enabledAt en (b - a) = true then [data.getD (b - a) 0] else s.readMem b 1)) ∧
  (∀ (s : State) (a len : Nat) (op : AtomOp) (x y : W64), Memory.wf s.mem = true → 0 < len →
    let r := s.performAtomic a op len x y
    (s.poisoned a len = true → r = (none, s)) ∧
    (s.poisoned a len = false → r.1 = some (s.readMem a len) ∧
      r.2.readMem a len = toLE len (atomResult op len (leNat (s.readMem a len)) x y) ∧
      (∀ b, b < a ∨ a + len ≤ b → r.2.readMem b 1 = s.readMem b 1)))

/-- R280: an inbound packet whose destination identifier is not the device's own is dropped and counted as an error of source 2. It
changes no memory, no tally and no window, becomes no flight, and nothing is sent on. -/
def Obligations.ForeignPacketsAreDropped : Prop :=
  ∀ (s : State) (port : Fin 12) (h : PktHead) (c : Instr), s.admits c = true → h.dst ≠ s.seam.peer →
    (∃ data en, c = .inboundWr port h data en) ∨ (∃ id len x, c = .inboundRd port h ⟨id, len⟩ x) ∨
      (∃ id op len x y, c = .inboundAtm port h ⟨id, len⟩ op x y) ∨ (∃ v, c = .inboundTadd port h v) ∨
      (∃ id off x, c = .inboundCpl port ⟨h.dst, id, off⟩ x) →
    ∃ t, exec c s = .next t ∧
      t.err.cnt.get 0 2 = (if s.err.cnt.get 0 2 = 0xFFFFFFFF then s.err.cnt.get 0 2 else s.err.cnt.get 0 2 + 1) ∧
      (s.err.handling = false → t.err.sticky.getLsbD 2 = true) ∧ s.only [.obs, .err, .ic] t

/-- R293, R451, R470. A tally's count saturates at 2^48 - 1, where SAT is set; further additions leave SAT set, and a write of COUNT
clears it. The line of source 1 is high while a sticky bit is set whose IRQ is 1, and that of source 3 while TKSTAT.DONE or the DERR of
any partition is 1. -/
def Obligations.CountsSaturateAndLinesFollow : Prop :=
  (∀ (v : Tally) (n : Nat), ((v.plus n).count.toNat = min (2 ^ 48 - 1) (v.count.toNat + n)) ∧
    (v.plus n).sat = (v.sat || decide (2 ^ 48 - 1 < v.count.toNat + n))) ∧
  (∀ (s : State) (w : Who) (k : BitVec 16) (v : W64), s.takes w (.talCountWrite w k v) = true → s.mayTouchTally w k.toNat = true →
    ∃ t, exec (.talCountWrite w k v) s = .next t ∧ (t.tally k.toNat).sat = false) ∧
  (∀ (s : State), s.lineHigh 1 = true ↔ ∃ n, n < 512 ∧ s.err.sticky.getLsbD n = true ∧ s.err.irq.getLsbD n = true) ∧
  (∀ (s : State), s.lineHigh 3 = true ↔ s.obs.tkdone = true ∨ ∃ x ∈ s.obs.tr, x.2.derr = true)

/-- R60, every row of its table: what an accepted doorbell does to the queue it names, in each of the queue's states. No other queue, and
nothing outside Galley's queues, the requests of the fetch it may abandon and the lookahead, differs. -/
def Obligations.DoorbellFollowsTheTable : Prop :=
  ∀ (s : State) (w : Who) (q : Fin 4096) (inc : Bool) (x : BitVec 16),
    s.takes w (.doorbellWrite w q inc x) = true → whoPart w = q.val / 256 →
    let v := s.queue q.val
    let tail := if inc then v.tail + x else x
    let deaf := v.st = .disabled ∨ v.st = .draining ∨ v.st = .resetting ∨ tail = v.tail
    let ovr := ringSize v.qsize < (tail - v.head).toNat
    let back := (tail - v.head).toNat < (v.tail - v.head).toNat
    ∃ t, exec (.doorbellWrite w q inc x) s = .next t ∧
      (deaf → t.queue q.val = v) ∧
      (¬deaf → ovr ∨ back → (t.queue q.val).tail = v.tail ∧ (t.queue q.val).st = .halted ∧
        (t.queue q.val).err = if v.st = .halted then v.err else if ovr then 2 else 3) ∧
      (¬deaf → ¬ovr → ¬back → (t.queue q.val).tail = tail ∧ (t.queue q.val).head = v.head ∧
        (t.queue q.val).fetch = v.fetch ∧ (t.queue q.val).err = v.err ∧
        (t.queue q.val).st = if v.st = .idle then .ready else v.st) ∧
      (∀ k, k ≠ q.val → t.queue k = s.queue k) ∧ s.only [.gal, .reqs, .orphans, .trn, .flt, .lka, .ic, .rcd] t

/-- R62: a CHEAD write frees the positions before it, unless more would then be held than the completion ring has. R75 to R77: a slot goes
to a READY queue of the highest effective priority, among equals to the one READY longest, and the partition's other READY queues age; a
slice that ends while a queue is READY takes the slot back and abandons the fetch. R72: a WAITING queue becomes READY once the condition
that stopped it holds; a fault's wait (reason 5) does not end so. -/
def Obligations.SlotsRecordsAndWaiting : Prop :=
  (∀ (s : State) (w : Who) (q : Fin 4096) (x : BitVec 16),
    s.takes w (.cheadWrite w q x) = true → whoPart w = q.val / 256 →
    ∃ t, exec (.cheadWrite w q x) s = .next t ∧
      t.queue q.val = (if ringSize (s.queue q.val).csize < ((s.queue q.val).ctail - x).toNat then s.queue q.val
        else { s.queue q.val with chead := x }) ∧
      (∀ k, k ≠ q.val → t.queue k = s.queue k) ∧ s.only [.gal] t) ∧
  ((∀ (s : State) (p q : Nat), s.galleyRuns = true → s.slotsUsed < 256 → roundRobin 16 s.gal.rr s.slotDue = some p →
    s.grantChoice p = some q →
    (∃ v, (q, v) ∈ s.readyOf p ∧ ∀ x ∈ s.readyOf p, x.2.eff ≤ v.eff ∧ (x.2.eff = v.eff → v.since ≤ x.2.since)) ∧
    ∃ t, exec .slotGrant s = .next t ∧ t.queue q = { s.queue q with st := .resident, fetch := {} } ∧
      (∀ k, k ≠ q → t.queue k = if k / 256 = p ∧ (s.queue k).st = .ready then
        { s.queue k with age := min 15 ((s.queue k).age + 1) } else s.queue k) ∧ s.only [.gal, .rcd] t) ∧
  (∀ (s : State) (q : Fin 4096), s.galleyRuns = true → (s.queue q.val).st = .resident → s.readyOf (q.val / 256) ≠ [] →
    ∃ t, exec (.sliceEnd q) s = .next t ∧
      (t.queue q.val).st = (if (s.queue q.val).head = (s.queue q.val).tail then .idle else .ready) ∧
      (t.queue q.val).fetch = {} ∧ (t.queue q.val).head = (s.queue q.val).head ∧
      (t.queue q.val).rereads = (s.queue q.val).rereads ∧
      (∀ k, k ≠ q.val → t.queue k = s.queue k) ∧ s.only [.gal, .reqs, .orphans, .trn, .flt, .rcd] t)) ∧
  (∀ (s : State) (q : Fin 4096), s.galleyRuns = true → (s.queue q.val).st = .waiting → (s.queue q.val).wait ≠ 5 →
    s.condUnmet q.val (s.queue q.val).fetch.slug (s.queue q.val).wait.toNat = false →
    ∃ t, exec (.waitConditionCleared q) s = .next t ∧ (t.queue q.val).st = .ready ∧ (t.queue q.val).wait = 0 ∧
      (t.queue q.val).age = 0 ∧ (t.queue q.val).fetch = {} ∧ (t.queue q.val).head = (s.queue q.val).head ∧
      (t.queue q.val).tail = (s.queue q.val).tail ∧
      (∀ k, k ≠ q.val → t.queue k = s.queue k) ∧ s.only [.gal] t)

/-- R66 to R69, R71: the seal-fetch machine. A fetch reads from HEAD; a mismatch is read again up to 64 times, the 64th mismatch tears the
queue (ERR 0x01), a bus error halts it with ERR 0x06 and counts no re-read, and a match is accepted, with REREADS 0: it then stays
accepted, waits for a condition of R72, or has committed. -/
def Obligations.SealFetchMachine : Prop :=
  (∀ (s : State) (q : Fin 4096), s.galleyRuns = true → (s.queue q.val).st = .resident → (s.queue q.val).fetch.st = .quiet →
    (s.queue q.val).head ≠ (s.queue q.val).tail →
    ∃ t new, exec (.slugFetch q) s = .next t ∧ t.queue q.val = { s.queue q.val with fetch := { st := .reading, n := (s.queue q.val).span } } ∧
      t.reqs = s.reqs ++ new ∧ (∀ r ∈ new, r.owner = .ring q.val ∧ r.acc = .ringRead ∧ r.part = q.val / 256 ∧ r.st = .held) ∧
      (∀ k, k ≠ q.val → t.queue k = s.queue k) ∧ s.only [.gal, .reqs, .nextId] t) ∧
  (∀ (s : State) (q : Fin 4096), s.galleyRuns = true → (s.queue q.val).st = .resident → (s.queue q.val).fetch.st = .rereading →
    (s.queue q.val).rereads.toNat < 64 →
    ∃ t new, exec (.sealReread q) s = .next t ∧ (t.queue q.val).rereads = (s.queue q.val).rereads + 1 ∧
      (t.queue q.val).fetch = { (s.queue q.val).fetch with out := (s.queue q.val).fetch.out ++ [(s.queue q.val).rereads.toNat + 1] } ∧
      t.reqs = s.reqs ++ new ∧
      (∀ r ∈ new, r.owner = .reread q.val ((s.queue q.val).rereads.toNat + 1) ∧ r.acc = .ringRead ∧ r.part = q.val / 256 ∧ r.st = .held) ∧
      (∀ k, k ≠ q.val → t.queue k = s.queue k) ∧ s.only [.gal, .reqs, .nextId] t) ∧
  (∀ (s : State) (q : Fin 4096) (r y : Reply), s.galleyRuns = true → (s.queue q.val).st = .resident →
    (s.queue q.val).fetch.st = .reading → s.reqsOf (· == .ring q.val) ≠ [] → s.answers r (s.reqsOf (· == .ring q.val)) = some y →
    ∃ t, exec (.ringReadReturn q r) s = .next t ∧
      (∀ e, y = .error e → (t.queue q.val).st = .halted ∧ (t.queue q.val).err = 6 ∧ (t.queue q.val).rereads = (s.queue q.val).rereads) ∧
      (∀ b, y = .data b → s.sealOf q.val b = .bad → (s.queue q.val).rereads ≠ 64 →
        t.queue q.val = { s.queue q.val with fetch := { (s.queue q.val).fetch with st := .rereading } }) ∧
      (∀ b, y = .data b → s.sealOf q.val b = .bad → (s.queue q.val).rereads = 64 → (t.queue q.val).st = .halted ∧ (t.queue q.val).err = 1) ∧
      (∀ b, y = .data b → s.sealOf q.val b = .pastEnd → (t.queue q.val).st = .halted ∧ (t.queue q.val).err = 4) ∧
      (∀ b, y = .data b → s.sealOf q.val b = .beyond → (t.queue q.val).st = .idle ∧ (t.queue q.val).rereads = (s.queue q.val).rereads) ∧
      (∀ b, y = .data b → s.sealOf q.val b = .accept → (t.queue q.val).rereads = 0 ∧
        ((t.queue q.val).fetch = { st := .accepted, slug := b.take (64 * (1 + slugExt b)) } ∨ (t.queue q.val).st = .waiting ∨
          (t.queue q.val).head = (s.queue q.val).head + BitVec.ofNat 16 (1 + slugExt b))) ∧
      (∀ k, k ≠ q.val → t.queue k = s.queue k) ∧ s.only [.gal, .reqs, .orphans, .trn, .flt, .lka, .ic, .obs, .rcd] t) ∧
  (∀ (s : State) (q : Fin 4096) (k : Fin 65) (r y : Reply), s.galleyRuns = true → (s.queue q.val).st = .resident →
    (s.queue q.val).fetch.st = .rereading → s.reqsOf (· == .reread q.val k.val) ≠ [] →
    s.answers r (s.reqsOf (· == .reread q.val k.val)) = some y →
    ∃ t, exec (.rereadReturn q k r) s = .next t ∧
      (∀ e, y = .error e → (t.queue q.val).st = .halted ∧ (t.queue q.val).err = 6 ∧ (t.queue q.val).rereads = (s.queue q.val).rereads - 1) ∧
      (∀ b, y = .data b → s.sealOf q.val b = .bad → k.val ≠ 64 → (t.queue q.val).st = .resident ∧
        (t.queue q.val).fetch = { (s.queue q.val).fetch with out := (s.queue q.val).fetch.out.erase k.val }) ∧
      (∀ b, y = .data b → s.sealOf q.val b = .bad → k.val = 64 → (t.queue q.val).st = .halted ∧ (t.queue q.val).err = 1) ∧
      (∀ b, y = .data b → s.sealOf q.val b = .accept → (t.queue q.val).rereads = 0 ∧
        ((t.queue q.val).fetch = { st := .accepted, slug := b.take (64 * (1 + slugExt b)) } ∨ (t.queue q.val).st = .waiting ∨
          (t.queue q.val).head = (s.queue q.val).head + BitVec.ofNat 16 (1 + slugExt b))) ∧
      (∀ j, j ≠ q.val → t.queue j = s.queue j) ∧ s.only [.gal, .reqs, .orphans, .trn, .flt, .lka, .ic, .obs, .rcd] t)

/-- R81, R90: the queue controls. What each request does to the selected queue, in every state of it; a request that the state does not
take changes nothing. R81: a DRAINING queue with no command in flight becomes DISABLED with its counters and phases kept, a RESETTING one
with them at their first values. -/
def Obligations.QueueControlsAndTheirEnd : Prop :=
  ((∀ (s : State) (w : Who) (q : Nat), s.takes w (.qctlEnable w) = true → s.selQueue w = some q →
    let v := s.queue q
    ∃ t, exec (.qctlEnable w) s = .next t ∧ (∀ k, k ≠ q → t.queue k = s.queue k) ∧ s.only [.gal] t ∧
      (v.st ≠ .disabled → t.queue q = v) ∧
      (v.st = .disabled → s.configOk q = false → t.queue q = { v with err := 9 }) ∧
      (v.st = .disabled → s.configOk q = true → (t.queue q).st = (if v.head = v.tail then .idle else .ready) ∧ (t.queue q).err = 0 ∧
        (t.queue q).head = v.head ∧ (t.queue q).tail = v.tail)) ∧
  (∀ (s : State) (w : Who) (q : Nat), s.takes w (.qctlDisable w) = true → s.selQueue w = some q →
    let v := s.queue q
    ∃ t, exec (.qctlDisable w) s = .next t ∧ (∀ k, k ≠ q → t.queue k = s.queue k) ∧
      s.only [.gal, .reqs, .orphans, .trn, .flt, .lka, .rcd] t ∧
      (v.st = .disabled ∨ v.st = .resetting ∨ v.st = .draining → t.queue q = v) ∧
      (¬(v.st = .disabled ∨ v.st = .resetting ∨ v.st = .draining) →
        t.queue q = { v with st := .draining, wait := 0, bellAt := none, fetch := {} })) ∧
  (∀ (s : State) (w : Who) (q : Nat), s.takes w (.qctlResume w) = true → s.selQueue w = some q →
    let v := s.queue q
    ∃ t, exec (.qctlResume w) s = .next t ∧ (∀ k, k ≠ q → t.queue k = s.queue k) ∧ s.only [.gal] t ∧
      (v.st ≠ .halted → t.queue q = v) ∧
      (v.st = .halted → (t.queue q).st = (if v.head = v.tail then .idle else .ready) ∧ (t.queue q).err = 0 ∧ (t.queue q).rereads = 0 ∧
        (t.queue q).head = v.head ∧ (t.queue q).tail = v.tail)) ∧
  (∀ (s : State) (w : Who) (q : Nat), s.takes w (.qctlReset w) = true → s.selQueue w = some q →
    let v := s.queue q
    ∃ t, exec (.qctlReset w) s = .next t ∧ (∀ k, k ≠ q → t.queue k = s.queue k) ∧
      s.only [.reqs, .orphans, .gal, .trn, .flt, .epo, .plt, .cmp, .lka, .ic, .obs, .rcd] t ∧
      (v.st = .resetting → t.queue q = v) ∧
      (v.st = .disabled → t.queue q =
        { v with head := 0, tail := 0, ctail := 0, chead := 0, rereads := 0, qphase := 1, cphase := 1, bellAt := none }) ∧
      (v.st ≠ .disabled → v.st ≠ .resetting → t.queue q = { v with st := .resetting, wait := 0, bellAt := none, fetch := {} }))) ∧
  ((∀ (s : State) (q : Fin 4096), s.galleyRuns = true → (s.queue q.val).st = .draining → s.inFlight q.val = [] →
    ∃ t, exec (.queueDrained q) s = .next t ∧ t.queue q.val = { s.queue q.val with st := .disabled } ∧
      (∀ k, k ≠ q.val → t.queue k = s.queue k) ∧ s.only [.gal] t) ∧
  (∀ (s : State) (q : Fin 4096), s.galleyRuns = true → (s.queue q.val).st = .resetting → s.inFlight q.val = [] →
    let v := s.queue q.val
    ∃ t, exec (.queueResetDone q) s = .next t ∧ (t.queue q.val).st = .disabled ∧
      t.queue q.val = { v with st := .disabled, head := 0, tail := 0, ctail := 0, chead := 0, rereads := 0, qphase := 1, cphase := 1, bellAt := none } ∧
      (∀ k, k ≠ q.val → t.queue k = s.queue k) ∧ s.only [.gal] t))

/-- R52, R53, R83, R85: the end of a command. Without host writes and without a record it leaves at once; with a record it waits for it;
host writes are first covered by a flushing read of 4 bytes at their last byte. A failed flushing read halts the queue with ERR 0x08; a
record's response moves CTAIL and the command leaves, and a failed record halts the queue with ERR 0x07. -/
def Obligations.CommandsEndInOrder : Prop :=
  (∀ (s : State) (q : Fin 4096) (pos : BitVec 16) (c : Cmd), s.galleyRuns = true → s.cmd? q.val pos = some c → c.st = .ended →
    ∃ t, exec (.commandEnd q pos) s = .next t ∧ (∀ k, (t.queue k).ctail = (s.queue k).ctail) ∧
      (c.hostLast = none → c.needsRecord = false → t.cmd? q.val pos = none ∧
        (slugCt c.slug = true → c.noTally = false →
          t.tally (slugCtally c.slug) = (s.tally (slugCtally c.slug)).plus (slugCtinc c.slug))) ∧
      (c.hostLast = none → c.needsRecord = true → ∃ d, t.cmd? q.val pos = some d ∧ (d.st = .recordDue ∨ d.st = .recordOut)) ∧
      (∀ a h, c.hostLast = some (a, h) → s.canSend c.part = true → s.tagRoom c.part 1 = true →
        t.cmd? q.val pos = some { c with st := .flushing, ftag := some s.nextId } ∧
        t.out = s.out ++ [.hostRead c.part a 4 false false false s.nextId 0 h]) ∧
      s.only [.reqs, .orphans, .nextId, .tileQ, .out, .gal, .trn, .flt, .lka, .tal, .ic, .prt, .obs, .rcd] t) ∧
  (∀ (s : State) (q : Fin 4096) (pos : BitVec 16) (ok : Bool) (c : Cmd), s.galleyRuns = true → s.cmd? q.val pos = some c →
    c.st = .flushing → c.aborted = false → s.serving 9 (s.linkOf c.part / 2) = true →
    ∃ t, exec (.flushingReadComplete q pos ok) s = .next t ∧
      (ok = false → t.cmd? q.val pos = none ∧
        ((s.queue q.val).st.canHalt = true → (t.queue q.val).st = .halted ∧ (t.queue q.val).err = 8)) ∧
      (ok = true → c.needsRecord = true → ∃ d, t.cmd? q.val pos = some d ∧ (d.st = .recordDue ∨ d.st = .recordOut)) ∧
      (ok = true → c.needsRecord = false → t.cmd? q.val pos = none) ∧
      s.only [.reqs, .orphans, .nextId, .tileQ, .out, .gal, .trn, .flt, .lka, .tal, .ic, .obs, .rcd] t) ∧
  (∀ (s : State) (q : Fin 4096) (pos : BitVec 16) (r y : WReply) (c : Cmd) (x : Req) (s1 : State), s.galleyRuns = true →
    s.cmd? q.val pos = some c → s.reqs.find? (fun x => x.owner == .record q.val pos) = some x → c.aborted = false →
    s.writeBack x r = some (y, s1) →
    ∃ t, exec (.recordWriteResponse q pos r) s = .next t ∧ t.cmd? q.val pos = none ∧ t.mem = s1.mem ∧
      (y = .done → (t.queue q.val).ctail = (s.queue q.val).ctail + 1 ∧ (t.queue q.val).cphase =
        (if (s.queue q.val).ctail.toNat % ringSize (s.queue q.val).csize + 1 = ringSize (s.queue q.val).csize then
          nextPhase (s.queue q.val).cphase else (s.queue q.val).cphase)) ∧
      (∀ e, y = .error e → (s.queue q.val).st.canHalt = true → (t.queue q.val).st = .halted ∧ (t.queue q.val).err = 7 ∧
        (t.queue q.val).ctail = (s.queue q.val).ctail) ∧
      s.only [.mem, .poison, .veil, .reqs, .orphans, .nextId, .tileQ, .out, .gal, .trn, .flt, .lka, .tal, .ic, .obs, .rcd] t)

/-- R83: what a completion record says, byte for byte; it is one granule. R144: what a fault record says, byte for byte; it is one
granule. -/
def Obligations.RecordLayouts : Prop :=
  (∀ (c : Cmd) (phase : Nat), c.queue < 4096 → c.detail.length ≤ 30 → phase < 4 →
    let b := recordBytes c phase
    b.length = 64 ∧ numAt b 0 4 = slugTag c.slug % 2 ^ 32 ∧ numAt b 4 2 = c.pos.toNat ∧ numAt b 6 2 = c.queue ∧
    numAt b 8 1 = c.status.toNat ∧ numAt b 9 1 = slugOpcode c.slug % 256 ∧ numAt b 10 2 = c.flags.toNat ∧ numAt b 12 4 = 0 ∧
    numAt b 16 8 = c.residue.toNat ∧ numAt b 24 8 = c.tstamp.toNat ∧ slice b 32 c.detail.length = c.detail ∧ numAt b 62 2 = phase) ∧
  (∀ (p : Nat) (e : FEntry) (phase : Nat), p < 16 → e.va < 2 ^ 57 → e.fid < 2 ^ 16 → e.cause < 16 → e.level < 16 → phase < 4 →
    (∀ q, e.queue = some q → q < 4096) →
    let b := faultRecord p e phase
    b.length = 64 ∧ numAt b 0 8 = e.va ∧ numAt b 8 2 = e.fid ∧ bits (numAt b 10 2) 15 12 = e.cause ∧
    bits (numAt b 10 2) 11 9 = Acc.code e.acc ∧ bits (numAt b 10 2) 8 0 = e.src.toNat ∧ numAt b 12 1 = e.ctx % 64 ∧
    bits (numAt b 13 1) 7 4 = e.level ∧ bits (numAt b 13 1) 3 0 = p ∧ (∀ q, e.queue = some q → numAt b 14 2 = q) ∧
    (e.queue = none → numAt b 14 2 = 32768) ∧ numAt b 16 8 = e.raw.toNat ∧ numAt b 24 8 = e.tstamp.toNat ∧ numAt b 62 2 = phase)

/-- R71 to R73, R448: what every commitment waits for, for the fourteen opcodes. While HALT is 1 nothing commits; a condition that is not
met sends the queue WAITING with its reason, and HEAD stays; a slug that names a tally of another partition ends with status 0x03 and
counts no tally, whatever its opcode. R65, R301: NOP and MARKER end at commitment with status 0; a TSET sets its tally's count, its
threshold or both, as its flags say, and only of a tally its queue's partition owns. -/
def Obligations.CommandsCommit : Prop :=
  (∀ (s : State) (q : Fin 4096) (op : Nat) (i : Instr),
    (op, i) ∈ [(0x00, Instr.nop q), (0x01, .marker q), (0x10, .move q), (0x11, .put q), (0x20, .gather q), (0x21, .scatter q),
      (0x22, .swatch q), (0x30, .stage q), (0x31, .swap q), (0x32, .retire q), (0x40, .tset q), (0x41, .tadd q), (0x42, .wcommit q),
      (0x50, .invalidate q)] →
    s.galleyRuns = true → (s.queue q.val).st = .resident → (s.queue q.val).fetch.st = .accepted →
    slugOpcode (s.queue q.val).fetch.slug = op →
    (s.err.halt = true → exec i s = .next s) ∧
    (s.err.halt = false → ∀ r, s.unmet q.val (s.queue q.val).fetch.slug = some r →
      ∃ t, exec i s = .next t ∧ (t.queue q.val).st = .waiting ∧ (t.queue q.val).wait = BitVec.ofNat 4 r ∧
        (t.queue q.val).head = (s.queue q.val).head ∧ (∀ k, k ≠ q.val → t.queue k = s.queue k) ∧
        s.only [.gal, .reqs, .orphans, .trn, .flt, .rcd] t) ∧
    (s.err.halt = false → s.unmet q.val (s.queue q.val).fetch.slug = none → s.foreignTally q.val (s.queue q.val).fetch.slug = true →
      s.cmd? q.val (s.queue q.val).head = none →
      ∃ t, exec i s = .next t ∧ s.passed t q.val ∧ s.endedAs t q.val 3 ∧
        (∃ c, t.cmd? q.val (s.queue q.val).head = some c ∧ c.noTally = true) ∧ s.only [.gal, .lka, .obs, .rcd] t)) ∧
  ((∀ (s : State) (q : Fin 4096), s.commits q.val 0x00 = true →
    ∃ t, exec (.nop q) s = .next t ∧ s.passed t q.val ∧ s.endedAs t q.val 0 ∧ s.only [.gal, .lka, .obs, .rcd] t) ∧
  (∀ (s : State) (q : Fin 4096), s.commits q.val 0x01 = true →
    ∃ t, exec (.marker q) s = .next t ∧ s.passed t q.val ∧ s.endedAs t q.val 0 ∧ s.only [.gal, .lka, .obs, .rcd] t) ∧
  (∀ (s : State) (q : Fin 4096), s.commits q.val 0x40 = true →
    let b := (s.queue q.val).fetch.slug
    let k := numAt b 12 2
    let old := s.tally k
    ∃ t, exec (.tset q) s = .next t ∧ s.passed t q.val ∧
      (old.owner ≠ some (q.val / 256) → s.endedAs t q.val 3 ∧ t.tal = s.tal) ∧
      (old.owner = some (q.val / 256) → s.endedAs t q.val 0 ∧ (∀ j, j ≠ k → t.tally j = s.tally j) ∧
        (t.tally k).count = (if bit (numAt b 14 1) 0 then BitVec.ofNat 48 (numAt b 16 6) else old.count) ∧
        (t.tally k).sat = (if bit (numAt b 14 1) 0 then false else old.sat) ∧
        (t.tally k).thresh = (if bit (numAt b 14 1) 1 then BitVec.ofNat 48 (numAt b 24 6) else old.thresh) ∧
        (t.tally k).owner = old.owner) ∧
      s.only [.gal, .lka, .obs, .rcd, .tal, .tileQ, .out, .ic] t))

/-- R130, R301, R302: INVALIDATE, TADD and WCOMMIT. An INVALIDATE runs once its invalidation is accepted, numbered or held back; a TADD
runs with its one packet asked for; a WCOMMIT of partition 0 runs with the window's staged values scheduled, and one that is refused ends
with 0x31 where the window drains and 0x30 otherwise. A scope or a partition that does not exist, and a WCOMMIT of another partition, end
with 0x03. -/
def Obligations.InvalidateTaddAndWcommit : Prop :=
  (∀ (s : State) (q : Fin 4096), s.commits q.val 0x50 = true →
    let b := (s.queue q.val).fetch.slug
    let scope := bits (numAt b 12 1) 1 0
    let p := if q.val / 256 = 0 then bits (numAt b 14 1) 3 0 else q.val / 256
    ∃ t, exec (.invalidate q) s = .next t ∧ s.passed t q.val ∧
      (scope = 3 ∨ s.present p = false → s.endedAs t q.val 3 ∧ t.trn = s.trn) ∧
      (scope ≠ 3 → s.present p = true → s.inState t q.val .running ∧
        ∃ sc, (sc = if scope = 0 then InvScope.part else if scope = 1 then .ctx (64 * p + bits (numAt b 13 1) 5 0)
            else .range (64 * p + bits (numAt b 13 1) 5 0) (bits (numAt b 16 8) 56 12 * 4096) (bits (numAt b 16 8) 5 0)) ∧
          ((∃ i ∈ t.trn.invs, i.part = p ∧ i.scope = sc ∧ i.by_ = .cmd q.val (s.queue q.val).head ∧ i.num = s.trn.invLast + 1) ∨
            (p, sc, .cmd q.val (s.queue q.val).head) ∈ t.trn.invHeld)) ∧
      s.only [.gal, .lka, .obs, .rcd, .trn, .aon] t) ∧
  (∀ (s : State) (q : Fin 4096), s.commits q.val 0x41 = true →
    let b := (s.queue q.val).fetch.slug
    ∃ t r, exec (.tadd q) s = .next t ∧ s.passed t q.val ∧ s.inState t q.val .running ∧ t.reqs = s.reqs ++ [r] ∧
      r.owner = .tadd q.val (s.queue q.val).head ∧ r.va = addr57 b 16 ∧ r.data = slice b 24 6 ∧ r.st = .held ∧ r.src = 0x10A ∧
      s.only [.gal, .lka, .reqs, .nextId] t) ∧
  (∀ (s : State) (q : Fin 4096), s.commits q.val 0x42 = true →
    let n := numAt (s.queue q.val).fetch.slug 12 2 % 1024
    let u := s.takeEffect n
    ∃ t, exec (.wcommit q) s = .next t ∧ s.passed t q.val ∧ (∀ k, k ≠ n → t.win k = s.win k) ∧
      (q.val / 256 ≠ 0 → s.endedAs t q.val 3 ∧ t.win n = s.win n) ∧
      (q.val / 256 = 0 → u.commitRsn n = 0 → (s.inState t q.val .running ∧
        (∃ c, t.cmd? q.val (s.queue q.val).head = some c ∧ c.window = some n)) ∧
        t.win n = { u.win n with pend := some (u.win n).staged }) ∧
      (q.val / 256 = 0 → u.commitRsn n ≠ 0 → s.endedAs t q.val (if u.commitRsn n = 3 then 0x31 else 0x30) ∧ t.win n = u.win n) ∧
      s.only [.gal, .lka, .obs, .rcd, .seam] t)

/-- R161, R162, R166: STAGE, SWAP and RETIRE. A STAGE fills or empties the idle slot of its table; a SWAP whose checks pass and a RETIRE
of a valid table leave a flip pending that takes effect as one; a SWAP of no table ends at once with status 0; what fails a check ends
with its status and changes no table; what names a table whose flip is pending does not commit. -/
def Obligations.EpochCommands : Prop :=
  (∀ (s : State) (q : Fin 4096), s.commits q.val 0x30 = true →
    let b := (s.queue q.val).fetch.slug
    let k := numAt b 12 2
    let n := 512 * (q.val / 256) + k
    let x := s.table n
    let y := x.slot x.idleB
    k ≤ 511 → s.flipPending n = false → (y.st = .free ∨ y.st = .staged) →
    ∃ t, exec (.stage q) s = .next t ∧ s.passed t q.val ∧ s.endedAs t q.val 0 ∧
      t.table n = x.setSlot x.idleB (if bit (numAt b 16 8) 63 then { y with st := .staged, addr := bits (numAt b 16 8) 51 6 * 64 }
        else { y with st := .free, addr := 0 }) ∧
      (∀ j, j ≠ n → t.table j = s.table j) ∧ s.only [.gal, .lka, .obs, .rcd, .epo, .cmp] t) ∧
  (∀ (s : State) (q : Fin 4096), s.commits q.val 0x30 = true →
    let k := numAt (s.queue q.val).fetch.slug 12 2
    let n := 512 * (q.val / 256) + k
    let y := (s.table n).slot (s.table n).idleB
    (k ≤ 511 → s.flipPending n = true → exec (.stage q) s = .next s) ∧
    (k ≤ 511 → s.flipPending n = false → (y.st = .draining ∨ y.st = .purging) →
      ∃ t, exec (.stage q) s = .next t ∧ s.passed t q.val ∧ s.endedAs t q.val 0x13 ∧ s.only [.gal, .lka, .obs, .rcd] t) ∧
    (511 < k → ∃ t, exec (.stage q) s = .next t ∧ s.passed t q.val ∧ s.endedAs t q.val 3 ∧ s.only [.gal, .lka, .obs, .rcd] t)) ∧
  (∀ (s : State) (q : Fin 4096), s.commits q.val 0x31 = true →
    let b := (s.queue q.val).fetch.slug
    let p := q.val / 256
    (swapTables b).all (fun t => !s.flipPending (512 * p + t)) = true → s.swapCheck p b = none → swapTables b ≠ [] →
    ∃ t, exec (.swap q) s = .next t ∧ s.passed t q.val ∧ s.inState t q.val .running ∧ t.epo.tables = s.epo.tables ∧
      t.epo.flips = s.epo.flips ++ [{ queue := q.val, pos := (s.queue q.val).head, part := p, tables := (swapTables b).map (512 * p + ·), retire := false, waitrel := bit (numAt b 14 1) 0 }] ∧
      s.only [.gal, .lka, .epo] t) ∧
  (∀ (s : State) (q : Fin 4096), s.commits q.val 0x31 = true →
    let b := (s.queue q.val).fetch.slug
    let p := q.val / 256
    let held := (swapTables b).any fun t => decide (t ≤ 511) && s.flipPending (512 * p + t)
    (held = true → exec (.swap q) s = .next s) ∧
    (held = false → ∀ e, s.swapCheck p b = some e →
      ∃ t, exec (.swap q) s = .next t ∧ s.passed t q.val ∧ s.endedAs t q.val e ∧ s.only [.gal, .lka, .obs, .rcd] t) ∧
    (swapTables b = [] → s.swapCheck p b = none →
      ∃ t, exec (.swap q) s = .next t ∧ s.passed t q.val ∧ s.endedAs t q.val 0 ∧ s.only [.gal, .lka, .obs, .rcd] t)) ∧
  (∀ (s : State) (q : Fin 4096), s.commits q.val 0x32 = true →
    let b := (s.queue q.val).fetch.slug
    let p := q.val / 256
    let n := 512 * p + numAt b 12 2
    numAt b 12 2 ≤ 511 → s.flipPending n = false → (s.table n).valid = true →
    ∃ t, exec (.retire q) s = .next t ∧ s.passed t q.val ∧ s.inState t q.val .running ∧ t.epo.tables = s.epo.tables ∧
      t.epo.flips = s.epo.flips ++ [{ queue := q.val, pos := (s.queue q.val).head, part := p, tables := [n], retire := true, waitrel := bit (numAt b 14 1) 0 }] ∧
      s.only [.gal, .lka, .epo] t) ∧
  (∀ (s : State) (q : Fin 4096), s.commits q.val 0x32 = true →
    let k := numAt (s.queue q.val).fetch.slug 12 2
    let n := 512 * (q.val / 256) + k
    (k ≤ 511 → s.flipPending n = true → exec (.retire q) s = .next s) ∧
    (511 < k → ∃ t, exec (.retire q) s = .next t ∧ s.passed t q.val ∧ s.endedAs t q.val 3 ∧ s.only [.gal, .lka, .obs, .rcd] t) ∧
    (k ≤ 511 → s.flipPending n = false → (s.table n).valid = false →
      ∃ t, exec (.retire q) s = .next t ∧ s.passed t q.val ∧ s.endedAs t q.val 0x12 ∧ s.only [.gal, .lka, .obs, .rcd] t))

/-- R182, R184, R188: MOVE and PUT. One that fails a check ends with that status, one with an empty destination with 0; any other waits
for a pleat engine. R160, R205, R212, R229, R231, R234: GATHER and SCATTER. One whose table waits for a flip does not commit; one that
fails a check ends with that status, one without bags with 0, and neither takes a compositor. Any other takes an idle compositor of the
pool, pins its table's current slot, and has that slot's epoch record read at once, or when the compositor's domain has woken. R161, R223:
a SWATCH of a STAGED slot runs, its slot's epoch record being read; of another slot it ends with 0x2C. -/
def Obligations.EngineCommandsCommit : Prop :=
  (∀ (s : State) (q : Fin 4096) (op : Nat) (i : Instr), (op, i) ∈ [(0x10, Instr.move q), (0x11, Instr.put q)] → s.commits q.val op = true →
    let b := (s.queue q.val).fetch.slug
    ∃ t, exec i s = .next t ∧ s.passed t q.val ∧
      (∀ e, engineCheck b = some e → s.endedAs t q.val e) ∧
      (engineCheck b = none → (dstShape b).bytes = 0 → s.endedAs t q.val 0) ∧
      (engineCheck b = none → (dstShape b).bytes ≠ 0 → s.inState t q.val .needEngine) ∧
      s.only [.gal, .lka, .obs, .rcd] t) ∧
  ((∀ (s : State) (q : Fin 4096) (op : Nat) (i : Instr) (k : Nat), (op, i) ∈ [(0x20, Instr.gather q), (0x21, Instr.scatter q)] →
    s.commits q.val op = true →
    let b := (s.queue q.val).fetch.slug
    let n := 512 * (q.val / 256) + gTable b
    let x := s.table n
    ¬(gTable b ≤ 511 ∧ s.flipPending n = true) → gatherCheck b x.valid = none → gNbag b ≠ 0 → s.chooseComp q.val = some k →
    ∃ t u, s.passed u q.val ∧ s.inState u q.val .running ∧ (u.comp k).st = .running ∧ (u.comp k).queue = q.val ∧
      (u.comp k).pos = (s.queue q.val).head ∧ (u.comp k).table = n ∧ (u.comp k).slotB = x.curB ∧ (u.comp k).gen = x.gen ∧
      (u.comp k).nidx = gNidx b ∧ (u.comp k).nbag = gNbag b ∧ (∀ j, j ≠ k → u.comp j = s.comp j) ∧
      u.table n = x.setSlot x.curB { x.slot x.curB with pins := (x.slot x.curB).pins + 1 } ∧ (∀ j, j ≠ n → u.table j = s.table j) ∧
      s.only [.gal, .epo, .cmp, .lka, .obs, .reqs, .orphans, .trn] u ∧
      t = (if u.dom (8 + k) = .run then u.askRecord k else u.wake (8 + k)) ∧ exec i s = .next t) ∧
  (∀ (s : State) (q : Fin 4096) (op : Nat) (i : Instr), (op, i) ∈ [(0x20, Instr.gather q), (0x21, Instr.scatter q)] → s.commits q.val op = true →
    let b := (s.queue q.val).fetch.slug
    let n := 512 * (q.val / 256) + gTable b
    let x := s.table n
    let held := gTable b ≤ 511 ∧ s.flipPending n = true
    (held → exec i s = .next s) ∧
    (¬held → ∀ e, gatherCheck b x.valid = some e →
      ∃ t, exec i s = .next t ∧ s.passed t q.val ∧ s.endedAs t q.val e ∧ s.only [.gal, .lka, .obs, .rcd] t) ∧
    (¬held → gatherCheck b x.valid = none → gNbag b = 0 →
      ∃ t, exec i s = .next t ∧ s.passed t q.val ∧ s.endedAs t q.val 0 ∧ s.only [.gal, .lka, .obs, .rcd] t))) ∧
  ((∀ (s : State) (q : Fin 4096), s.commits q.val 0x22 = true →
    let b := (s.queue q.val).fetch.slug
    let n := 512 * (q.val / 256) + numAt b 12 2
    let y := (s.table n).slot (swSlotB b)
    numAt b 12 2 ≤ 511 → s.flipPending n = false → y.st = .staged →
    ∃ t u, s.passed u q.val ∧ s.inState u q.val .running ∧ s.only [.gal, .lka] u ∧
      t = u.issuePhys (.swRecord q.val (s.queue q.val).head) 0x108 (q.val / 256) y.addr 128 .read ∧ exec (.swatch q) s = .next t) ∧
  (∀ (s : State) (q : Fin 4096), s.commits q.val 0x22 = true →
    let b := (s.queue q.val).fetch.slug
    let k := numAt b 12 2
    let n := 512 * (q.val / 256) + k
    let y := (s.table n).slot (swSlotB b)
    (k ≤ 511 → s.flipPending n = true → exec (.swatch q) s = .next s) ∧
    (511 < k → ∃ t, exec (.swatch q) s = .next t ∧ s.passed t q.val ∧ s.endedAs t q.val 3 ∧ s.only [.gal, .lka, .obs, .rcd] t) ∧
    (k ≤ 511 → s.flipPending n = false → y.st ≠ .staged →
      ∃ t, exec (.swatch q) s = .next t ∧ s.passed t q.val ∧ s.endedAs t q.val 0x2C ∧ s.only [.gal, .lka, .obs, .rcd] t)))

/-- R97, R110, R112, R113, R126: what TRANSLATE makes of a request that a unit holds and that may be presented: without a resident slot it
waits for one; a miss joins the walk of its page, or waits for a walker; a hit in the edge buffer with the right sends it to its output. A
request of a tile's trace port is a trace record (R465). R29, R30, R34, R97, R105: a tailor core's access to device memory, granted by the
bound ranges of its active partition, outside the coherent window and the register space, with no veil and no other request of the core
outstanding: a read brings back the bytes that stand there, a write changes its bytes and no other, an atomic brings back the old value
and stores the operation's result. -/
def Obligations.TranslationAndItsEnds : Prop :=
  ((∀ (s : State) (id : Nat) (r : Req), s.serving 2 0 = true → s.dom 3 = .run → r.phys = false → s.req? id = some r →
    s.canPresent r = true → s.bound r.part = false → s.fromProof r = none → s.ctxValid r.ctx = true →
    (s.atsHalf r.ctx r.va = true → (s.fn r.part).ats = true) →
    (s.slotOf r.ctx = none → exec (.translate (.held id)) s = .next (s.setReq { r with st := .ctxWait })) ∧
    (s.slotOf r.ctx ≠ none → s.edgeHit (Owner.edge r.owner) r.ctx r.va = none → s.folioHit r.ctx r.va = none →
      s.heldXlt r.owner r.ctx r.va = none →
      ∃ t x, exec (.translate (.held id)) s = .next t ∧ t.req? id = some x ∧ s.only [.reqs, .trn] t ∧ t.trn.edge = s.trn.edge ∧
        t.trn.folio = s.trn.folio ∧
        ((∀ w ∈ s.trn.walks, w.ctx = r.ctx → w.va / 4096 ≠ r.va / 4096) → x.st = .missWait ∧ t.trn.walks = s.trn.walks) ∧
        (∀ w, s.trn.walks.find? (fun w => w.ctx == r.ctx && w.va / 4096 == r.va / 4096) = some w → x.st = .walking w.w)) ∧
    (∀ e a m n, s.slotOf r.ctx ≠ none → s.edgeHit (Owner.edge r.owner) r.ctx r.va = some e → e.grants r.acc = true → r.owner = .tile m n →
      r.replay = none → r.grp = 0 → e.output r.va = .peer a → s.spent r.part = false →
      ∃ t, exec (.translate (.held id)) s = .next t ∧ t.req? id = some { r with st := .issued (.peer a), at_ := s.now, used := e.span } ∧
        t.trn.folio = s.trn.folio ∧ s.only [.reqs, .trn, .prt, .obs] t)) ∧
  (∀ (s : State) (m : Fin 64) (va : BitVec 57) (acc : Acc) (len : Nat) (data : Bytes) (op : AtomOp) (x y : W64),
    s.admits (.translate (.tile m 3 va acc len data op x y)) = true → s.tileClosed m.val = false →
    exec (.translate (.tile m 3 va acc len data op x y)) s = .next (s.addTileTrace m.val (data.take 32)))) ∧
  (∀ (s : State) (k : Fin 8) (addr : BitVec 57) (acc : Acc) (len : Nat) (data : Bytes) (op : AtomOp) (x y : W64),
    let p := (s.prt.tcact.get 0 k.val).toNat
    let a := addr.toNat
    s.admits (.boundModeRequest (.core k addr acc len data op x y)) = true → s.coreClosed k.val = false → s.fresh →
    (∀ r ∈ s.reqs, r.src ≠ BitVec.ofNat 9 (0x100 + k.val)) → s.grantedAll p a len acc false = true → anyRegs a len = false →
    anyUnassigned a len = false → s.anyClosed a len = false → s.anyOff a len = false → (∀ b, a / 64 * 64 ≤ b → b < a + len + 64 → s.inWindow b = false) →
    s.veil = [] → Memory.wf s.mem = true →
    (acc = .read → s.poisoned a len = false →
      ∃ t, exec (.boundModeRequest (.core k addr acc len data op x y)) s = .next t ∧
        t.out = s.out ++ [.coreRsp k.val (.data (s.readMem a len))] ∧ t.reqs = s.reqs ∧ s.only [.reqs, .nextId, .out, .trn, .prt, .obs] t) ∧
    (acc = .write → len ≤ data.length →
      ∃ t, exec (.boundModeRequest (.core k addr acc len data op x y)) s = .next t ∧ t.out = s.out ++ [.coreRsp k.val (.data [])] ∧
        (∀ b, Memory.read t.mem b = if a ≤ b ∧ b < a + len then data.getD (b - a) 0 else Memory.read s.mem b) ∧
        s.only [.mem, .poison, .lka, .reqs, .nextId, .out, .trn, .prt, .obs] t) ∧
    (acc = .atomic → s.poisoned a len = false →
      ∃ t, exec (.boundModeRequest (.core k addr acc len data op x y)) s = .next t ∧
        t.out = s.out ++ [.coreRsp k.val (.data (s.readMem a len))] ∧
        (∀ b, Memory.read t.mem b = if a ≤ b ∧ b < a + len then
          (toLE len (atomResult op len (leNat (s.readMem a len)) x y)).getD (b - a) 0 else Memory.read s.mem b) ∧
        s.only [.mem, .poison, .lka, .reqs, .nextId, .out, .trn, .prt, .obs] t))

/-- R126: a context of V3-X that obtains a resident slot: the slot's old entries are gone, and every request that waited is presented;
with nothing of the context cached and no walk of it, each then waits for a walker. R111 to R113, R116: a walker takes the oldest miss of
the partition whose turn it is, and every request that missed on that page waits on its walk, which records the last invalidation number
given; in the host-visible half of an ATS context the walk is a Translation Request of the partition's function. R104, R110, R112, R116,
R121: a walk that has its leaf fills: the leaf enters the folio cache where the partition's share is not 0, the walker is free, and every
request that waited goes to the leaf's output; of a walk that an invalidation has passed nothing is kept. A Translation Request's
completion fills at once, with a range in host memory. -/
def Obligations.WalksStartAndFill : Prop :=
  (∀ (s : State) (c : Fin 1024) (n : Nat), s.serving 2 0 = true → s.distinct →
    (∃ r ∈ s.reqs, r.st = .ctxWait ∧ r.ctx = c.val) → s.slotOf c.val = none → s.slotFor c.val = some n → s.ctxValid c.val = true →
    s.ctxAts c.val = false → (∀ r ∈ s.reqs, r.ctx = c.val → s.bound r.part = false) →
    (∀ e ∈ s.trn.edge ++ s.trn.folio, e.ctx ≠ c.val) → (∀ w ∈ s.trn.walks, w.ctx ≠ c.val) → (∀ r ∈ s.reqs, s.heldXlt r.owner c.val r.va = none) →
    ∃ t, exec (.contextSlotLoad c) s = .next t ∧ t.slotOf c.val = some n ∧ t.trn.edge = s.trn.edge.filter (fun e => e.slot != n) ∧
      t.trn.folio = s.trn.folio.filter (fun e => e.slot != n) ∧
      (∀ r ∈ s.reqs, r.st = .ctxWait → r.ctx = c.val → ∃ x, t.req? r.id = some x ∧ x.st = .missWait) ∧ s.only [.reqs, .trn] t) ∧
  (∀ (s : State) (w : Fin 48) (p : Nat) (zero : Bool) (r : Req), s.serving 2 0 = true → s.walkerFor = some (p, zero) → s.nextMiss p = some r →
    s.walkerOpen w.val = true → s.unitIn 3 w.val = true →
    (let v := s.missWalk w.val p r
     v.w = w.val ∧ v.part = p ∧ v.ctx = r.ctx ∧ v.va = r.va ∧ v.proof = none ∧ v.num = s.trn.invLast ∧ v.fails = 0 ∧
       v.st = (if s.atsHalf r.ctx r.va then .ats else .reading)) ∧
    (s.atsHalf r.ctx r.va = false → s.walkBar (s.missWalk w.val p r) = none →
      ∃ t, exec (.walkStart w) s = .next t ∧ t.walk? w.val = some (s.missWalk w.val p r) ∧
        t.prt.charge.get 0 p = s.prt.charge.get 0 p + 1 ∧
        (∀ x ∈ t.reqs, x.ctx = r.ctx → x.va / 4096 = r.va / 4096 → x.st ≠ .missWait) ∧
        s.only [.reqs, .orphans, .nextId, .trn, .prt, .obs] t) ∧
    (s.atsHalf r.ctx r.va = true → (s.fn p).ats = true → s.canSend p = true → s.tagRoom p 1 = true →
      ∃ t, exec (.walkStart w) s = .next t ∧ t.walk? w.val = some { s.missWalk w.val p r with tag := s.nextId } ∧
        t.out = s.out ++ [.atsRequest p r.va (s.ctxPasid r.ctx) w.val s.nextId] ∧
        (∀ x ∈ t.reqs, x.ctx = r.ctx → x.va / 4096 = r.va / 4096 → x.st ≠ .missWait) ∧
        s.only [.reqs, .orphans, .nextId, .trn, .out] t)) ∧
  ((∀ (s : State) (w : Fin 48) (v : Walk) (e : XEntry), s.serving 2 0 = true → s.distinct → s.walk? w.val = some v →
    v.st = .filling e →
    let again := { s.rootWalk v with fails := v.fails + 1 }
    (s.walkStale v = false → v.proof = none → e.typ = 2 → e.unt = false →
      (∀ r ∈ s.waiters w.val,
        e.grants r.acc = true ∧ (∃ m k, r.owner = .tile m k) ∧ r.replay = none ∧ r.grp = 0 ∧ s.unlimited r.part = true) →
      ∃ t, exec (.walkFill w) s = .next t ∧ t.walk? w.val = none ∧
        (∀ r ∈ s.waiters w.val, t.req? r.id =
          some { r with st := .issued (.peer ((e.out + (r.va - e.va)) % 2 ^ 57)), at_ := s.now, used := e.span }) ∧
        (s.quotaFolio (e.ctx / 64) ≠ 0 → ∃ x ∈ t.trn.folio, x.ctx = e.ctx ∧ x.va = e.va ∧ x.level = e.level ∧ x.size = e.size ∧
          x.run = e.run ∧ x.out = e.out) ∧ s.only [.reqs, .orphans, .trn, .prt, .obs, .rcd] t) ∧
    (s.walkStale v = true → s.ctxValid v.ctx = true → s.atsHalf v.ctx v.va = false → s.walkBar again = none →
      ∃ t, exec (.walkFill w) s = .next t ∧ t.walk? w.val = some again ∧ again.level = 5 ∧ again.st = .reading ∧
        t.trn.folio = s.trn.folio ∧ t.trn.edge = s.trn.edge ∧ s.only [.reqs, .orphans, .nextId, .trn, .prt, .obs] t)) ∧
  (∀ (s : State) (w : Fin 48) (v : Walk) (addr : BitVec 64) (size : Fin 58) (wr : Bool) (r : Req) (m k : Nat), s.serving 2 0 = true →
    s.distinct → s.walk? w.val = some v → v.st = .ats → s.serving 9 (s.linkOf v.part / 2) = true → s.walkStale v = false →
    (s.fn v.part).ats = true → addr.toNat < 2 ^ 57 →
    let e := atsLeaf s v addr.toNat size.val true wr false
    let a := (e.out + (r.va - e.va)) % 2 ^ 57
    s.waiters w.val = [r] → r.acc = .read → r.owner = .tile m k → r.replay = none → r.grp = 0 → s.unlimited r.part = true →
    s.canSend r.part = true → s.tagRoom r.part (s.tagNeed r a) = true →
    ∃ t, exec (.atsTranslationCompletion w (.ok addr size true wr false)) s = .next t ∧ t.walk? w.val = none ∧
      t.req? r.id = some { r with st := .sent (.host a true), at_ := s.now, used := e.span, cut := s.maxRead r.part } ∧
      t.out = (s.hostReads r.part a r.len r.id (s.hostAt r true)).out ∧ s.only [.reqs, .orphans, .trn, .prt, .obs, .rcd, .out] t))

/-- R100 to R103, R111, R121, R127, R128, R139 to R142: a table read returns to its walker, from the home. A pointer takes the walk one
level down; a leaf that grants every access that waits makes the walk fill, unless an invalidation of the partition has been numbered
since the walk began, which starts it again from the root; an entry that is not present ends the walk in a fault with cause 1, of which a
tile engine's request takes the lowest free entry; a bus error reaches the requester. R429: a read of a walk that was fenced is dropped
when it comes back: at the closed port while the walker is OUT or reloads, and else as a stale message, counted on source 5. -/
def Obligations.WalksReadTheirTables : Prop :=
  (∀ (s : State) (w : Fin 48) (v : Walk), s.serving 2 0 = true → s.distinct → s.walk? w.val = some v → v.st = .reading →
    let a := v.entryAt
    let e := leNat (s.readMem a 8)
    let p := pteNext e v.level ((s.slotOf v.ctx).getD 0) v.ctx v.va
    let leaf := pteLeaf e v.level ((s.slotOf v.ctx).getD 0) v.ctx v.va
    let next := { v with level := v.level - 1, table := bits e 51 12 * 4096, ptrs := v.ptrs ++ [p] }
    let again := { s.rootWalk v with fails := v.fails + 1 }
    (∀ r ∈ s.reqs, r.owner ≠ .walk w.val) → s.trn.late.contains w.val = false → anyRegs a 8 = false →
    (s.anyOff a 8 = false → s.poisoned a 8 = false → bit e 0 = true → pteBad e v.level v.va = false → bit e 1 = false →
      s.walkBar next = none →
      ∃ t, exec (.walkTableReadReturn w .home) s = .next t ∧ t.walk? w.val = some next ∧
        s.only [.reqs, .nextId, .trn, .prt, .obs] t) ∧
    (s.anyOff a 8 = false → s.poisoned a 8 = false → bit e 0 = true → pteBad e v.level v.va = false → bit e 1 = true →
      s.walkStale v = false → (∀ r ∈ s.waiters w.val, leaf.grants r.acc = true) →
      ∃ t, exec (.walkTableReadReturn w .home) s = .next t ∧ t.walk? w.val = some { v with st := .filling leaf } ∧ s.only [.trn] t) ∧
    (s.anyOff a 8 = false → s.poisoned a 8 = false → bit e 0 = true → pteBad e v.level v.va = false → bit e 1 = true →
      s.walkStale v = true → s.ctxValid v.ctx = true → s.atsHalf v.ctx v.va = false → s.walkBar again = none →
      ∃ t, exec (.walkTableReadReturn w .home) s = .next t ∧ t.walk? w.val = some again ∧ again.level = 5 ∧
        again.num = s.trn.invLast ∧ again.st = .reading ∧ s.only [.reqs, .nextId, .trn, .prt, .obs] t) ∧
    (∀ r m k n, s.anyOff a 8 = false → s.poisoned a 8 = false → bit e 0 = false → s.walkStale v = false → s.waiters w.val = [r] →
      r.owner = .tile m k → r.replay = none → s.joinable r.part r.ctx r.va 1 = none → (s.fltp r.part).en = true →
      s.entryQueue r.part = false → s.freeEntry r.part = some n →
      ∃ t x, exec (.walkTableReadReturn w .home) s = .next t ∧ t.walk? w.val = none ∧
        t.req? r.id = some { s.noteFault r v.level (BitVec.ofNat 64 e) with st := .faulted r.part n, replay := none } ∧
        (t.fltp r.part).entries = (s.fltp r.part).entries ++ [x] ∧
        x.n = n ∧ x.st = .raised ∧ x.cause = 1 ∧ x.level = v.level ∧ x.raw = BitVec.ofNat 64 e ∧ x.ctx = r.ctx ∧ x.va = r.va ∧
        x.acc = r.acc ∧ x.src = r.src ∧ x.queue = none ∧ x.tstamp = s.obs.time ∧ x.pri = s.priRoute r.part r.ctx r.va 1 ∧
        x.gen = nextGen ((s.fltp r.part).gens.get 0 n) ∧ s.only [.reqs, .trn, .flt, .obs, .rcd] t) ∧
    (∀ r m k c, c ≠ .grant → s.walkStale v = false → s.waiters w.val = [r] → r.owner = .tile m k → r.replay = none → r.grp = 0 →
      ∃ t, exec (.walkTableReadReturn w (.error c)) s = .next t ∧ t.walk? w.val = none ∧ t.req? r.id = none ∧
        t.out = s.out ++ [.tileRsp m k (.error c)] ∧ s.only [.reqs, .trn, .flt, .rcd, .out] t)) ∧
  (∀ (s : State) (w : Fin 48) (r : TblReply), s.serving 2 0 = true → s.trn.late.contains w.val = true →
    ((s.unit 3 w.val).st = .out ∨ (s.unit 3 w.val).st = .reloading →
      exec (.walkTableReadReturn w r) s = .next { s with trn := { s.trn with late := s.trn.late.erase w.val } }) ∧
    ((s.unit 3 w.val).st ≠ .out → (s.unit 3 w.val).st ≠ .reloading →
      ∃ t, exec (.walkTableReadReturn w r) s = .next t ∧ t.trn = { s.trn with late := s.trn.late.erase w.val } ∧
        (t.err.cnt.get 0 5 = if s.err.cnt.get 0 5 = 0xFFFFFFFF then s.err.cnt.get 0 5 else s.err.cnt.get 0 5 + 1) ∧
        s.only [.trn, .err, .ic] t))

/-- R118 to R120, R122, R137: the three forms of FRZ_TRN_INVCTL and a host's ATS Invalidation Request. An invalidation that is not held
back takes the next number and removes the entries its scope names, in the partition it names, and no other; one of a partition with a
walk at its fourth attempt waits for its number. A form written while the partition's last one is not complete is refused. R120, R122:
invalidations that were held back are numbered in the order in which they were accepted, once no walk of the partition is at its fourth
attempt; and the lowest number completes when no request that used a removed entry is unfinished: INVDONE takes it, and the register, the
host or the command that waits learns of it. -/
def Obligations.InvalidationsAreOrdered : Prop :=
  ((∀ (s : State) (w : Who) (part : BitVec 4) (ctx : BitVec 6) (i : Instr) (sc : InvScope), s.takes w i = true →
    let me := whoPart w
    let p := if isMgr w then part.toNat else me
    let v := (s.trn.invaddr.get 0 me).toNat
    (i, sc) ∈ [(Instr.invctlPartition w part, InvScope.part), (.invctlContext w part ctx, .ctx (64 * p + ctx.toNat)),
      (.invctlRange w part ctx, .range (64 * p + ctx.toNat) (bits v 56 12 * 4096) (bits v 5 0))] →
    (s.present p = false → exec i s = .next s) ∧
    (s.present p = true → s.trn.busy.get false me = true →
      exec i s = .next { s with trn := { s.trn with refused := s.trn.refused.set me true } }) ∧
    (s.present p = true → s.trn.busy.get false me = false → ∃ t, exec i s = .next t ∧ t.trn.busy.get false me = true ∧
      (s.numberingHeld p = true → t.trn.invHeld = s.trn.invHeld ++ [(p, sc, .reg me w)] ∧ t.trn.invLast = s.trn.invLast ∧
        s.only [.trn] t) ∧
      (s.numberingHeld p = false → s.numberedAs t p sc (.reg me w) ∧ t.trn.invseq.get 0 me = s.trn.invLast + 1) ∧
      s.only [.trn, .lka, .aon] t)) ∧
  (∀ (s : State) (p : Fin 16) (itag : Fin 32) (va : BitVec 57) (size : BitVec 6) (pasid : Option (BitVec 20)) (global : Bool),
    s.admits (.atsInvalidationRequest p itag va size pasid global) = true → s.part = .v3x → s.fnServes p.val = true →
    ∃ t, exec (.atsInvalidationRequest p itag va size pasid global) s = .next t ∧
      (s.numberingHeld p.val = true →
        t.trn = { s.trn with invHeld := s.trn.invHeld ++ [(p.val, .ats va.toNat size.toNat pasid global, .ats p.val itag.val)] }) ∧
      (s.numberingHeld p.val = false → s.numberedAs t p.val (.ats va.toNat size.toNat pasid global) (.ats p.val itag.val)) ∧
      s.only [.trn, .lka, .aon] t)) ∧
  ((∀ (s : State) (p : Fin 16), s.serving 2 0 = true → s.numberingHeld p.val = false →
    let mine := s.trn.invHeld.filter fun h => h.1 == p.val
    ∃ t, exec (.invalidationNumberingRelease p) s = .next t ∧ t.trn.invHeld = s.trn.invHeld.filter (fun h => h.1 != p.val) ∧
      t.trn.invLast = s.trn.invLast + BitVec.ofNat 32 mine.length ∧
      t.trn.invs.map (fun i => (i.part, i.scope, i.by_)) = s.trn.invs.map (fun i => (i.part, i.scope, i.by_)) ++ mine ∧
      s.only [.trn, .lka, .aon] t) ∧
  (∀ (s : State) (i : Inv) (rest : List Inv), s.serving 2 0 = true → s.trn.invs = i :: rest → (s.dom 3 = .run ∨ s.dom 3 = .deep) →
    s.invReady i = true →
    ∃ t, exec .invalidationComplete s = .next t ∧ t.trn.invs = rest ∧ t.trn.invDone = i.num ∧
      (∀ q x, i.by_ = .reg q x → t.trn.busy.get false q = false) ∧
      (∀ p k, i.by_ = .ats p k → t.out = s.out ++ [.atsInvDone p k]) ∧
      (∀ q pos c, i.by_ = .cmd q pos → s.cmd? q pos = some c → c.aborted = false →
        ∃ d, t.cmd? q pos = some d ∧ d.st = .ended ∧ d.status = 0) ∧
      t.trn.edge = s.trn.edge ∧ t.trn.folio = s.trn.folio ∧ s.only [.trn, .out, .gal, .obs, .rcd] t))

/-- R99, R131, R132, R135: a context's configuration and a tile's binding. A write of CTXCFG is taken while VALID is 0, unless it sets
VALID with a mode that the partition may not use; while VALID is 1 only a write that clears it is, and it invalidates the context. TBIND
takes a write of partition 0 only, and empties the tile's edge buffer. -/
def Obligations.ContextsAndBindings : Prop :=
  (∀ (s : State) (w : Who) (c : Fin 1024) (v : W64), s.takes w (.ctxcfgWrite w c v) = true → s.mayIndex w (c.val / 64) = true →
    let x := v.toNat
    let keep := BitVec.ofNat 64 (x % 2 ^ 21 + bits x 61 60 * 2 ^ 60 + b2n (bit x 63) * 2 ^ 63)
    let bad := bit x 63 = true ∧ (2 ≤ bits x 61 60 ∨ (bits x 61 60 = 1 ∧ bit (s.trn.pmode.get 0 (c.val / 64)).toNat 2 = false))
    (s.ctxValid c.val = true → bit x 63 = true → exec (.ctxcfgWrite w c v) s = .next s) ∧
    (s.ctxValid c.val = true → bit x 63 = false → ∃ t, exec (.ctxcfgWrite w c v) s = .next t ∧ t.ctxValid c.val = false ∧
      t.trn.ctxcfg = s.trn.ctxcfg.set c.val keep ∧
      (s.numberingHeld (c.val / 64) = false → (∀ e ∈ t.trn.edge ++ t.trn.folio, e.ctx ≠ c.val) ∧ t.trn.invLast = s.trn.invLast + 1) ∧
      s.only [.trn, .lka, .aon] t) ∧
    (s.ctxValid c.val = false → bad → exec (.ctxcfgWrite w c v) s = .next s) ∧
    (s.ctxValid c.val = false → ¬bad →
      exec (.ctxcfgWrite w c v) s = .next { s with trn := { s.trn with ctxcfg := s.trn.ctxcfg.set c.val keep } })) ∧
  (∀ (s : State) (w : Who) (t : Fin 64) (v : W32), s.takes w (.tbindWrite w t v) = true →
    (isMgr w = false → exec (.tbindWrite w t v) s = .next s) ∧
    (isMgr w = true → exec (.tbindWrite w t v) s = .next
      { s with trn := { s.trn with
          tbind := s.trn.tbind.set t.val (BitVec.ofNat 32 (v.toNat % 2 ^ 10 + b2n (bit v.toNat 31) * 2 ^ 31))
          edge := s.trn.edge.filter fun e => e.buf != t.val } }))

/-- R141, R142: a fault that found every entry taken, the first in the order of raising. It joins an open entry of its page, context and
cause; else it takes the lowest free entry, whose generation rises; with none free it waits on. R152: one management-plane tick. An entry
that is not REPLAYING and has stood its deadline ends unserviceable; every other grows older. R143, R147, R169: FRZ_FLT_RCFG. EN is set
only with no entry outstanding, and then the ring begins at position 0 with phase 1; while entries are outstanding such a write does
nothing. Clearing EN ends the RAISED entries that have no other route. -/
def Obligations.FaultEntriesLiveAndEnd : Prop :=
  (∀ (s : State) (p : Fin 16) (r : Req) (o cause : Nat), s.serving 2 0 = true → s.distinct → r ∈ s.reqs →
    r.part = p.val → r.st = .entryWait o cause →
    (∀ x ∈ s.reqs, ∀ o' c, x.part = p.val → x.st = .entryWait o' c → x = r ∨ o < o') →
    (∀ e, s.joinable p.val r.ctx r.va cause = some e →
      exec (.faultEntryAllocate p) s = .next (s.setReq { r with st := .faulted p.val e.n })) ∧
    (s.joinable p.val r.ctx r.va cause = none → s.freeEntry p.val = none → (s.fltp p.val).en = true → exec (.faultEntryAllocate p) s = .next s) ∧
    (∀ n, s.joinable p.val r.ctx r.va cause = none → s.freeEntry p.val = some n →
      (s.fltp p.val).en = true ∨ s.priRoute p.val r.ctx r.va cause = true →
      ∃ t x, exec (.faultEntryAllocate p) s = .next t ∧ (t.fltp p.val).entries = (s.fltp p.val).entries ++ [x] ∧ x.n = n ∧ x.st = .raised ∧
        x.gen = nextGen ((s.fltp p.val).gens.get 0 n) ∧ x.cause = cause ∧ x.level = r.note.level ∧ x.raw = r.note.raw ∧ x.queue = r.note.queue ∧ x.ctx = r.ctx ∧ x.va = r.va ∧
        x.acc = r.acc ∧ x.src = r.src ∧ x.tstamp = r.note.time ∧ x.pri = s.priRoute p.val r.ctx r.va cause ∧
        t.req? r.id = some { r with st := .faulted p.val n, replay := none } ∧ s.only [.reqs, .flt, .obs] t)) ∧
  (∀ (s : State) (p : Fin 16), let f := s.fltp p.val
    ∃ t, exec (.faultDeadline p) s = .next t ∧
      (∀ e ∈ f.entries, e.st ≠ .replaying → f.deadline.toNat ≤ e.age → t.fent? p.val e.n = none) ∧
      ((f.entries.map (·.n)).Nodup → (∀ e ∈ f.entries, e.st = .replaying ∨ e.age < f.deadline.toNat) →
        (t.fltp p.val).entries = f.entries.map (fun e => { e with age := e.age + 1 }) ∧ s.only [.flt] t) ∧
      s.only [.reqs, .orphans, .nextId, .out, .gal, .trn, .flt, .epo, .plt, .cmp, .lka, .ic, .obs, .rcd] t) ∧
  (∀ (s : State) (w : Who) (v : W32), s.takes w (.fltRcfgWrite w v) = true →
    let p := s.actPart w
    let f := s.fltp p
    let d := BitVec.ofNat 16 v.toNat
    (bit v.toNat 31 = true → f.en = false → f.entries = [] → exec (.fltRcfgWrite w v) s =
      .next (s.setFltp p { f with en := true, deadline := d, tail := 0, head := 0, phase := 1 })) ∧
    (bit v.toNat 31 = true → f.en = false → f.entries ≠ [] → exec (.fltRcfgWrite w v) s = .next s) ∧
    (bit v.toNat 31 = f.en →
      exec (.fltRcfgWrite w v) s = .next (s.setFltp p { f with en := f.en, deadline := d })) ∧
    (bit v.toNat 31 = false → f.en = true → ∃ t, exec (.fltRcfgWrite w v) s = .next t ∧ (t.fltp p).en = false ∧ (t.fltp p).deadline = d ∧
      (∀ e ∈ f.entries, e.st = .raised → s.priRoute p e.ctx e.va e.cause = false → t.fent? p e.n = none) ∧
      s.only [.reqs, .orphans, .nextId, .out, .gal, .trn, .flt, .epo, .plt, .cmp, .lka, .ic, .obs, .rcd] t))

/-- R143, R145: one record of a partition's ring at a time, of the RAISED entry first in order, at TAIL's position, while a position is
free. In device memory it is a write the partition's bound ranges grant, in host memory a write that leaves at once; one that its function
may not send fails. R57, R145: a record that is written makes its entry LOGGED and moves TAIL, and the partition's fault source rises; one
that fails leaves TAIL, sets RINGERR and ends its entry unserviceable. -/
def Obligations.FaultRecordsGoOut : Prop :=
  (∀ (s : State) (p : Fin 16) (e : FEntry), s.serving 2 0 = true → (s.fltp p.val).en = true → (∀ x ∈ (s.fltp p.val).entries, x.stale = false) →
    (s.fltp p.val).writing = none → (∀ r ∈ s.reqs, r.owner ≠ .fltRec p.val) → (s.fltp p.val).used < 512 → s.nextRecord p.val = some e →
    let f := s.fltp p.val
    let a := f.place.2
    let b := faultRecord p.val e f.phase.toNat
    (f.place.1 = false → s.grantedAll p.val a 64 .write false = true → anyRegs a 64 = false → anyUnassigned a 64 = false →
      s.anyClosed a 64 = false →
      ∃ t r, exec (.faultRecordIssue p) s = .next t ∧ t.fltp p.val = { f with writing := some e.n } ∧ t.reqs = s.reqs ++ [r] ∧
        r.owner = .fltRec p.val ∧ r.va = a ∧ r.data = b ∧ r.acc = .write ∧ r.st = .issued (.dev a) ∧ r.src = 0x109 ∧
        s.only [.flt, .reqs, .nextId, .prt, .obs] t) ∧
    (f.place.1 = true → s.canSend p.val = true →
      ∃ t r, exec (.faultRecordIssue p) s = .next t ∧ t.fltp p.val = { f with writing := some e.n } ∧ t.reqs = s.reqs ++ [r] ∧
        r.owner = .fltRec p.val ∧ r.st = .done (.host a false) ∧ t.out = s.out ++ [.hostWrite p.val a b [] false false (s.steerOf p.val (16 + 8 * p.val + 1)) {}] ∧
        s.only [.flt, .reqs, .nextId, .prt, .obs, .out, .lka] t) ∧
    (f.place.1 = true → s.canSend p.val = false →
      ∃ t, exec (.faultRecordIssue p) s = .next t ∧ (t.fltp p.val).ringerr = true ∧ t.fent? p.val e.n = none ∧
        (t.fltp p.val).tail = f.tail)) ∧
  (∀ (s : State) (p : Fin 16) (x y : WReply) (r : Req) (s1 : State) (e : FEntry) (n : Nat), s.serving 2 0 = true →
    s.reqs.find? (fun r => r.owner == .fltRec p.val) = some r → s.writeBack r x = some (y, s1) →
    (s.fltp p.val).writing = some n → s.fent? p.val n = some e →
    let f := s.fltp p.val
    (y = .done → ∃ t, exec (.faultRecordDone p x) s = .next t ∧ t.mem = s1.mem ∧ (t.fltp p.val).tail = f.tail + 1 ∧
      (t.fltp p.val).writing = none ∧ (t.fltp p.val).phase = (if f.tail.toNat % 512 = 511 then nextPhase f.phase else f.phase) ∧
      t.fent? p.val n = some { e with st := .logged } ∧ t.req? r.id = none ∧
      (s.canRise (16 + 8 * p.val + 1) = true → t.ic.risen = s.ic.risen ++ [16 + 8 * p.val + 1]) ∧
      s.only [.mem, .poison, .veil, .lka, .reqs, .orphans, .trn, .flt, .ic] t) ∧
    (∀ c, y = .error c → ∃ t, exec (.faultRecordDone p x) s = .next t ∧ (t.fltp p.val).tail = f.tail ∧
      (t.fltp p.val).ringerr = true ∧ t.fent? p.val n = none ∧
      s.only [.mem, .poison, .veil, .reqs, .orphans, .nextId, .out, .gal, .trn, .flt, .epo, .plt, .cmp, .lka, .ic, .obs, .rcd] t))

/-- R147 to R149: the servicer's responses. RETRY sends the LOGGED entry whose FID it names into replay; ABORT ends it, and a tile
engine's request that stood on it is answered with an error; a FID that names no LOGGED entry is refused. Once the leaves of the page are
removed, every request of the entry translates again: with nothing else of the context cached, each misses. R146, R147, R151: the host's
way. A Page Request of the RAISED entry routed to PRI that is first in order leaves while the function has requests to spare; the PRG
Response names the entry: success replays it, invalid ends it, and a failure ends every REQUESTED entry and turns the page requests of the
partition off. -/
def Obligations.FaultsAreAnswered : Prop :=
  ((∀ (s : State) (w : Who) (fid : BitVec 16), s.takes w (.fltRespRetry w fid) = true → s.takes w (.fltRespAbort w fid) = true →
    let p := s.actPart w
    let hit := (s.fltp p).entries.find? fun e => e.st == .logged && e.fid == fid.toNat
    (hit = none → exec (.fltRespRetry w fid) s = .next (s.setFltp p { s.fltp p with refused := true }) ∧
      exec (.fltRespAbort w fid) s = .next (s.setFltp p { s.fltp p with refused := true })) ∧
    (∀ e, hit = some e → (∃ t, exec (.fltRespRetry w fid) s = .next t ∧ t.fent? p e.n = some { e with st := .replaying, removed := false } ∧
        (∀ n, n ≠ e.n → t.fent? p n = s.fent? p n) ∧ s.only [.flt] t) ∧
      (∃ t, exec (.fltRespAbort w fid) s = .next t ∧ t.fent? p e.n = none ∧
        (∀ r m k, s.reqs.filter (fun r => r.joined p e.n) = [r] → r.owner = .tile m k → r.grp = 0 →
          t.out = s.out ++ [.tileRsp m k (.error .none)] ∧ t.reqs = s.reqs.filter (fun x => x.id != r.id)) ∧
        s.only [.reqs, .orphans, .nextId, .out, .gal, .trn, .flt, .epo, .plt, .cmp, .lka, .ic, .obs, .rcd] t))) ∧
  (∀ (s : State) (p : Fin 16) (n : Fin 512) (e : FEntry), s.serving 2 0 = true → s.distinct → s.fent? p.val n.val = some e →
    e.st = .replaying → e.removed = false → s.ctxValid e.ctx = true → s.ctxAts e.ctx = false → s.slotOf e.ctx ≠ none →
    (∀ r ∈ s.reqs, r.st = .faulted p.val n.val → r.ctx = e.ctx ∧ s.bound r.part = false ∧ s.heldXlt r.owner r.ctx r.va = none) →
    (∀ x ∈ s.trn.edge, x.ctx = e.ctx → x.level = 0) →
    (∀ x ∈ s.trn.edge ++ s.trn.folio, x.ctx = e.ctx → x.level = 0 → x.covers e.ctx e.va = true) →
    ∃ t, exec (.replayRemovalDone p n) s = .next t ∧ t.fent? p.val n.val = some { e with removed := true } ∧
      t.trn.edge = s.trn.edge.filter (fun x => !(x.level == 0 && x.covers e.ctx e.va)) ∧
      t.trn.folio = s.trn.folio.filter (fun x => !(x.level == 0 && x.covers e.ctx e.va)) ∧
      (∀ r ∈ s.reqs, r.st = .faulted p.val n.val → ∃ x, t.req? r.id = some x ∧ x.replay = some (p.val, n.val) ∧
        (x.st = .missWait ∨ ∃ k, x.st = .walking k)) ∧ s.only [.reqs, .trn, .flt, .lka] t)) ∧
  ((∀ (s : State) (p : Fin 16) (e : FEntry), s.serving 2 0 = true → s.canSend p.val = true →
    (∀ x ∈ (s.fltp p.val).entries, x.stale = false) →
    minBy (·.order) ((s.fltp p.val).entries.filter fun e => e.st == .raised && e.pri) = some e →
    ((s.fltp p.val).entries.filter fun e => e.st == .requested).length < (s.fn p.val).prAlloc →
    ∃ t, exec (.pageRequestSend p) s = .next t ∧ t.fent? p.val e.n = some { e with st := .requested } ∧
      t.out = s.out ++ [.pageRequest p.val (e.va / 4096 * 4096) e.n (e.acc == .read || e.acc == .rmw || e.acc == .ringRead)
        (e.acc == .write || e.acc == .atomic || e.acc == .rmw) (s.ctxPasid e.ctx)] ∧ s.only [.flt, .out] t) ∧
  (∀ (s : State) (p : Fin 16) (n : Fin 512) (e : FEntry), (∀ c, s.admits (.prgResponse p n c) = true) →
    s.fent? p.val n.val = some e → e.st = .requested →
    (∃ t, exec (.prgResponse p n .success) s = .next t ∧ t.fent? p.val n.val = some { e with st := .replaying, removed := false } ∧
      (∀ k, k ≠ n.val → t.fent? p.val k = s.fent? p.val k) ∧ s.only [.flt] t) ∧
    (∃ t, exec (.prgResponse p n .invalid) s = .next t ∧ t.fent? p.val n.val = none ∧
      s.only [.reqs, .orphans, .nextId, .out, .gal, .trn, .flt, .epo, .plt, .cmp, .lka, .ic, .obs, .rcd] t) ∧
    (∃ t, exec (.prgResponse p n .failure) s = .next t ∧ (t.fltp p.val).prioff = true ∧
      (∀ x ∈ (s.fltp p.val).entries, x.st = .requested → t.fent? p.val x.n = none) ∧
      s.only [.reqs, .orphans, .nextId, .out, .gal, .trn, .flt, .epo, .plt, .cmp, .lka, .ic, .obs, .rcd] t)))

/-- R158, R159, R161, R222: a write of a record register stages or empties the slot it names, unless it is the current one or still
drains; restaging drops the slot's swatches; while a flip of the table is pending nothing changes. R159, R161, R166: the flips of one
command take effect in one step. A swapped table's staged slot becomes current and its old one drains, GEN rises, from 65,535 to 1; a
retired table is no longer valid. The command ends with status 0, or, with WAITREL, waits for the slots that drain. R41, R163, R375: a
DRAINING slot without pins is PURGING; a sweep takes every slot that is PURGING when it starts, tells the tiles, and at its end frees
those slots, drops their swatches and raises the release source of their partitions. -/
def Obligations.EpochTablesChange : Prop :=
  (∀ (s : State) (w : Who) (t : Fin 512) (b : Bool) (v : W64), s.takes w (.trecWrite w t b v) = true →
    let n := 512 * whoPart w + t.val
    let x := s.table n
    let k := x.slot b
    (s.flipPending n = true ∨ x.curB = b ∨ (k.st ≠ .free ∧ k.st ≠ .staged) → exec (.trecWrite w t b v) s = .next s) ∧
    (s.flipPending n = false → x.curB ≠ b → (k.st = .free ∨ k.st = .staged) →
      ∃ u, exec (.trecWrite w t b v) s = .next u ∧
        u.table n = x.setSlot b (if bit v.toNat 63 then { k with st := .staged, addr := bits v.toNat 51 6 * 64 }
          else { k with st := .free, addr := 0 }) ∧
        (∀ m, m ≠ n → u.table m = s.table m) ∧
        u.cmp = (if k.st = .staged then { s.cmp with swatch := s.cmp.swatch.filter fun e => !(e.table == n && e.slotB == b) } else s.cmp) ∧
        s.only [.epo, .cmp] u)) ∧
  (∀ (s : State) (q : Fin 4096) (pos : BitVec 16) (f : Flip) (c : Cmd), s.serving 2 0 = true →
    s.epo.flips.find? (fun f => f.queue == q.val && f.pos == pos) = some f → f.tables.Nodup → s.cmd? q.val pos = some c → c.aborted = false →
    ∃ t d, exec (.epochFlip q pos) s = .next t ∧ t.cmd? q.val pos = some d ∧
      (∀ n ∈ f.tables, let x := s.table n
        let y := t.table n
        (f.retire = true → y.valid = false ∧ y.curB = x.curB ∧ y.gen = x.gen) ∧
        (f.retire = false → y.valid = true ∧ y.curB = (!x.curB) ∧ y.gen = nextTableGen x.gen ∧
          y.slot y.curB = { x.slot (!x.curB) with st := .current }) ∧
        ((x.slot x.curB).st = .current → y.slot x.curB = { x.slot x.curB with st := .draining })) ∧
      (∀ n, n ∉ f.tables → t.table n = s.table n) ∧
      t.epo.flips = s.epo.flips.filter (fun x => !(x.queue == q.val && x.pos == pos)) ∧
      (f.waitrel = true ∧ s.drains f ≠ [] → d = { c with slots := s.drains f }) ∧
      (¬(f.waitrel = true ∧ s.drains f ≠ []) → d.st = .ended ∧ d.status = 0) ∧
      s.only [.epo, .lka, .gal, .obs, .rcd] t) ∧
  ((∀ (s : State) (p : Fin 16) (t : Fin 512) (b : Bool), s.serving 2 0 = true →
    let n := 512 * p.val + t.val
    let x := s.table n
    ((x.slot b).st = .draining → (x.slot b).pins = 0 →
      exec (.slotPurging p t b) s = .next (s.setTable n (x.setSlot b { x.slot b with st := .purging }))) ∧
    ((x.slot b).st ≠ .draining ∨ (x.slot b).pins ≠ 0 → exec (.slotPurging p t b) s = .next s)) ∧
  (∀ (s : State), s.serving 2 0 = true → s.epo.sweep = none → s.purging ≠ [] →
    exec .purgeSweepStart s = .next { s with epo := { s.epo with sweep := some s.purging }, out := s.out ++ [.rowPurge s.purging] }) ∧
  (∀ (s : State) (ps : List (Nat × Bool)), s.serving 2 0 = true → s.epo.sweep = some ps →
    let hit := fun x : Nat × Bool => x ∈ ps ∧ ((s.table x.1).slot x.2).st = .purging
    ∃ t, exec .purgeSweepEnd s = .next t ∧ t.epo.sweep = none ∧
      (∀ n b, hit (n, b) → (t.table n).slot b = {} ∧ (s.canRise (16 + 8 * (n / 512) + 2) = true → 16 + 8 * (n / 512) + 2 ∈ t.ic.risen)) ∧
      (∀ n b, ¬hit (n, b) → (t.table n).slot b = (s.table n).slot b) ∧
      (∀ e ∈ t.cmp.swatch, e ∈ s.cmp.swatch ∧ ¬hit (e.table, e.slotB)) ∧ s.only [.epo, .cmp, .ic, .gal, .obs, .rcd] t))

/-- R188, R195: a command that waits takes the engine R188 names, whose latches, counts and cursors are those of its own start; it runs,
and the engine's domain is woken. R175, R178, R185, R189: a burst begins while fewer than 4 are open: up to 16 destination granules, none
past the descriptor line's end, and every request it makes is the engine's own, at the address its stream offset has in the source or the
destination shape. R191, R193: the control writes of the selected engine. ABORT of a RUNNING engine with granules left aborts it, of a
STALLED one is held; RELEASE, and ABORT, end the command of a HALTED engine with status 0x05 once nothing of it is out, RETRY runs it
again from the failing granule; a write that must wait is the first one that arrived, and acts when the last request has ended. -/
def Obligations.PleatEnginesTakeWork : Prop :=
  (∀ (s : State) (q : Fin 4096) (pos : BitVec 16) (c : Cmd) (e : Nat), s.cmd? q.val pos = some c → c.st = .needEngine → s.chooseEng = some e →
    ∃ t, exec (.pleatAssign q pos) s = .next t ∧ t.cmd? q.val pos = some { c with st := .running, src := 0x110 + e } ∧
      (t.eng e).st = .running ∧ (t.eng e).part = c.part ∧ (t.eng e).queue = c.queue ∧ (t.eng e).pos = c.pos ∧
      (t.eng e).dst = dstShape c.slug ∧ (t.eng e).next = startOff c.slug ∧ (t.eng e).wnext = startOff c.slug ∧ (t.eng e).count = 0 ∧
      (t.eng e).bursts = [] ∧ (t.eng e).ecode = 0 ∧ (t.eng e).err = none ∧
      (∀ k, k ≠ e → t.eng k = s.eng k) ∧ s.only [.gal, .plt, .obs, .aon] t) ∧
  (∀ (s : State) (e : Fin 64), s.dom (4 + e.val / 16) = .run → (s.engCmd e.val).isSome = true → (s.eng e.val).st = .running →
    (s.eng e.val).bursts.length < 4 → (s.eng e.val).next < (s.eng e.val).total → (s.eng e.val).wnext ≤ (s.eng e.val).next →
    (s.eng e.val).kill = false →
    let v := s.eng e.val
    ∃ t new, exec (.pleatBurstBegin e) s = .next t ∧ (t.eng e.val).st = .running ∧ (t.eng e.val).next = burstEnd v.dst v.total 16 v.next ∧
      t.reqs = s.reqs ++ new ∧
      (∀ r ∈ new, r.st = .held ∧ r.part = v.part ∧ r.src = BitVec.ofNat 9 (0x110 + e.val) ∧ r.ctx = s.cmdCtx v.queue ∧
        ((∃ off, r.owner = .pltRead e.val off ∧ r.acc = .read ∧ r.va = v.src.addrAt off ∧ v.opcode ≠ 0x11) ∨
          (∃ off, r.owner = .pltWrite e.val off ∧ r.acc = .write ∧ r.va = v.dst.addrAt off))) ∧
      (∀ k, k ≠ e.val → t.eng k = s.eng k) ∧ s.only [.plt, .reqs, .nextId] t) ∧
  ((∀ (s : State) (w : Who) (e : Nat) (c : Cmd), (∀ i ∈ [Instr.pltCctlAbort w, .pltCctlRelease w, .pltCctlRetry w], s.takes w i = true) →
    s.selEng w = some e → s.engCmd e = some c → c.aborted = false →
    let v := s.eng e
    (v.st = .running → v.kill = false → v.wnext < v.next →
      ∃ t, exec (.pltCctlAbort w) s = .next t ∧ (t.eng e).st = .aborting ∧ s.only [.plt] t) ∧
    (v.st = .stalled → exec (.pltCctlAbort w) s = .next (s.setEng e { v with abtpend := true })) ∧
    (v.st ≠ .halted → exec (.pltCctlRelease w) s = .next s ∧ exec (.pltCctlRetry w) s = .next s) ∧
    (v.st = .halted → s.pleatQuiet e = false →
      exec (.pltCctlAbort w) s = .next (s.setEng e { v with later := some (v.later.getD 1) }) ∧
      exec (.pltCctlRelease w) s = .next (s.setEng e { v with later := some (v.later.getD 2) }) ∧
      exec (.pltCctlRetry w) s = .next (s.setEng e { v with later := some (v.later.getD 4) })) ∧
    (v.st = .halted → s.pleatQuiet e = true → v.later = none →
      (∀ i ∈ [Instr.pltCctlAbort w, .pltCctlRelease w], ∃ t d, exec i s = .next t ∧ (t.eng e).st = .idle ∧
        t.cmd? c.queue c.pos = some d ∧ d.st = .ended ∧ d.status = 5 ∧ d.residue = BitVec.ofNat 64 (v.total - v.err.getD v.wnext) ∧
        (∀ k, k ≠ e → t.eng k = s.eng k) ∧ s.only [.plt, .gal, .obs, .rcd] t) ∧
      (∃ t, exec (.pltCctlRetry w) s = .next t ∧ (t.eng e).st = .running ∧ (t.eng e).next = v.err.getD v.wnext ∧
        (t.eng e).wnext = v.err.getD v.wnext ∧ (t.eng e).err = none ∧ (t.eng e).bursts = [] ∧ (t.eng e).buf = [] ∧
        (∀ k, k ≠ e → t.eng k = s.eng k) ∧ s.only [.plt] t))) ∧
  (∀ (s : State) (e : Fin 64) (c : Cmd) (k : BitVec 3), s.engCmd e.val = some c → c.aborted = false → (s.eng e.val).st = .halted →
    s.pleatQuiet e.val = true → (s.eng e.val).later = some k →
    (k = 4 → ∃ t, exec (.pltCctlDeferred e) s = .next t ∧ (t.eng e.val).st = .running ∧ (t.eng e.val).later = none ∧ s.only [.plt] t) ∧
    (k ≠ 4 → ∃ t d, exec (.pltCctlDeferred e) s = .next t ∧ (t.eng e.val).st = .idle ∧ t.cmd? c.queue c.pos = some d ∧ d.st = .ended ∧
      d.status = 5 ∧ s.only [.plt, .gal, .obs, .rcd] t)))

/-- R178, R186, R187, R192, R202: source bytes come back to their engine. When every byte that the next destination granule needs is here,
its write goes out with the converted bytes; a bus error halts the engine, with the latches of the first failing granule, and sets its bit
of the partition's HALTMAP. R29, R192, R195, R200, R463: a write's response. Its bytes are at their home and are counted; when it was the
last one of a command whose every granule has been written, the command ends with status 0 and the engine is IDLE; a bus error halts the
engine with EDIR 1. -/
def Obligations.PleatReadsAndWrites : Prop :=
  (∀ (s : State) (e : Fin 64) (id off : Nat) (r y : Reply) (x : Req), s.dom (4 + e.val / 16) = .run → s.fresh → s.distinct →
    s.req? id = some x → x.owner = .pltRead e.val off → s.readBack x r = some y → (s.eng e.val).kill = false →
    let v := s.eng e.val
    (∀ b, y = .data b → v.st = .running →
      let v1 := { v with buf := v.buf ++ (List.range b.length).map fun i => (off + i, b.getD i 0) }
      let stop := min v.total (v.dst.pieceEnd v.wnext)
      ∃ t, exec (.pleatReadReturn e id r) s = .next t ∧ t.req? id = none ∧ (∀ k, k ≠ e.val → t.eng k = s.eng k) ∧
        (v.wnext < v.total → (s.setEng e.val v1).granuleData e.val v.wnext stop = none →
          (t.eng e.val).buf = v1.buf ∧ (t.eng e.val).wnext = v.wnext ∧ (t.eng e.val).st = .running) ∧
        (∀ d, v.stop = none → v.wnext < v.next → (s.setEng e.val v1).granuleData e.val v.wnext stop = some d →
          (∃ z ∈ t.reqs, z.owner = .pltWrite e.val v.wnext ∧ z.va = v.dst.addrAt v.wnext ∧ z.data = d ∧ z.acc = .write ∧ z.st = .held) ∧
          v.wnext < (t.eng e.val).wnext) ∧
        s.only [.reqs, .nextId, .gal, .trn, .plt, .obs, .rcd] t) ∧
    (∀ k, y = .error k → v.fence = false → v.err = none → v.st ≠ .halted →
      ∃ t, exec (.pleatReadReturn e id r) s = .next t ∧ (t.eng e.val).st = .halted ∧ (t.eng e.val).eva = BitVec.ofNat 57 x.va ∧
        (t.eng e.val).ecode = BitVec.ofNat 4 (ECode.code k) ∧ (t.eng e.val).edir = false ∧
        ((t.plt.haltmap.get 0 v.part).getLsbD e.val) = true ∧ t.req? id = none ∧ (∀ k, k ≠ e.val → t.eng k = s.eng k) ∧
        s.only [.reqs, .trn, .flt, .plt, .ic, .rcd] t)) ∧
  (∀ (s s1 : State) (e : Fin 64) (id off : Nat) (r y : WReply) (x : Req), s.dom (4 + e.val / 16) = .run → s.distinct →
    s.req? id = some x → x.owner = .pltWrite e.val off → s.writeBack x r = some (y, s1) → (s.eng e.val).kill = false →
    let v := s.eng e.val
    (y = .done →
      ∃ t, exec (.pleatWriteResponse e id r) s = .next t ∧ t.mem = s1.mem ∧ t.req? id = none ∧
        (t.eng e.val).count = v.count + BitVec.ofNat 48 x.len ∧ (∀ k, k ≠ e.val → t.eng k = s.eng k) ∧
        (∀ c, s.engCmd e.val = some c → c.aborted = false → v.drain = none → s.pleatReqs e.val = [x] → v.total ≤ v.wnext →
          v.st = .running ∨ (v.st = .draining ∧ v.fin = 0) →
          (t.eng e.val).st = .idle ∧ ∃ d, t.cmd? c.queue c.pos = some d ∧ d.st = .ended ∧ d.status = 0 ∧ d.residue = 0) ∧
        s.only [.mem, .poison, .veil, .lka, .reqs, .trn, .plt, .gal, .ic, .obs, .rcd] t) ∧
    (∀ k, y = .error k → v.fence = false → v.err = none → v.st ≠ .halted →
      ∃ t, exec (.pleatWriteResponse e id r) s = .next t ∧ (t.eng e.val).st = .halted ∧ (t.eng e.val).edir = true ∧
        (t.eng e.val).ecode = BitVec.ofNat 4 (ECode.code k) ∧ ((t.plt.haltmap.get 0 v.part).getLsbD e.val) = true ∧
        s.only [.reqs, .trn, .flt, .plt, .ic, .rcd] t))

/-- R205, R208, R215, R221, R227: the pinned epoch record comes back. An invalid one ends the command with 0x28, one that a SCATTER cannot
take with 0x2B, a bus error with 0x05; a valid one is kept, and the first granule of the index stream is asked for where it stands in
memory. R209, R210, R214, R219, R221, R225, R226: stream bytes, gradient vectors, placement entries and rows come back to the compositor
that asked for them: a stream grows by what came, an index takes the place its entry names (an ABSENT one sets its flag), a GATHER's row
enters the accumulators and is counted, a SCATTER's row is kept for its update. -/
def Obligations.CompositorReads : Prop :=
  (∀ (s : State) (n : Fin 16) (c : Cmd), s.dom (8 + n.val) = .run → s.compCmd n.val = some c → c.aborted = false →
    let v := s.comp n.val
    let rs := s.piecesOf (.cmpRecord n.val)
    v.st = .running → v.kill = false → v.fence = false → v.fail = none → v.record = none → rs ≠ [] → s.compReqs n.val = rs →
    s.distinct →
    (∀ r x e, rs = [x] → s.readBack x r = some (.error e) → ∃ t, exec (.epochRecordRead n r) s = .next t ∧ t.ended c 5 ∧
      (t.comp n.val).st = .idle ∧ (∀ k, k ≠ n.val → t.comp k = s.comp k)) ∧
    (∀ d b st, s.answers (.data d) rs = some (.data b) → s.recordFail v c.slug b = some st →
      ∃ t, exec (.epochRecordRead n (.data d)) s = .next t ∧ t.ended c st ∧ (t.comp n.val).st = .idle ∧
        ((t.table v.table).slot v.slotB).pins = ((s.table v.table).slot v.slotB).pins - 1) ∧
    (∀ d b, s.answers (.data d) rs = some (.data b) → s.recordFail v c.slug b = none → gInl c.slug = false → gBags c.slug = false →
      v.pre = false → v.idx = [] → v.full = false → v.adm < v.nidx → v.wstart < v.nidx → v.nidx = gNidx c.slug →
      ∃ t, exec (.epochRecordRead n (.data d)) s = .next t ∧ (t.comp n.val).record = some b ∧ (t.comp n.val).st = .running ∧
        (∃ x ∈ t.reqs, x.owner = .cmpStream n.val 0 ∧ x.acc = .read ∧ x.va = streamAddr c.slug 0 ∧ x.part = v.part ∧ x.st = .held) ∧
        (∀ k, k ≠ n.val → t.comp k = s.comp k) ∧ s.only [.reqs, .nextId, .trn, .cmp, .rcd] t)) ∧
  (∀ (s : State) (n : Fin 16) (id : Nat) (b d rcd : Bytes) (x : Req) (c : Cmd), s.composing n.val c rcd → s.fresh → s.distinct →
    s.req? id = some x → s.answers (.data b) (s.piecesOf x.owner) = some (.data d) →
    let v := s.comp n.val
    (∀ k, x.owner = .cmpStream n.val k → k < 4 → k ≠ 2 → ∃ t, exec (.streamReadReturn n id (.data b)) s = .next t ∧ t.req? id = none ∧
      (t.comp n.val).stream k = v.stream k ++ d ∧ (t.comp n.val).record = some rcd ∧ v.adm ≤ (t.comp n.val).adm ∧
      (∀ k, k ≠ n.val → t.comp k = s.comp k) ∧ s.only [.reqs, .nextId, .trn, .cmp, .rcd] t) ∧
    (∀ bag, x.owner = .cmpGrad n.val bag → ∃ t, exec (.streamReadReturn n id (.data b)) s = .next t ∧ t.req? id = none ∧
      (t.comp n.val).grads.get [] bag = d ∧ (∀ k, k ≠ n.val → t.comp k = s.comp k) ∧
      s.only [.reqs, .nextId, .trn, .cmp, .rcd] t) ∧
    (∀ i, x.owner = .cmpPlace n.val i → ∃ t, exec (.placementReadReturn n id (.data b)) s = .next t ∧ t.req? id = none ∧
      (∀ z ∈ v.dists, z.idx = i → ∃ w ∈ (t.comp n.val).dists, w.idx = i ∧ w.place = placeOf rcd (leNat d)) ∧
      (placeOf rcd (leNat d) = .absent → (t.comp n.val).flags.getLsbD 4 = true) ∧ (∀ k, k ≠ n.val → t.comp k = s.comp k) ∧
      s.only [.reqs, .nextId, .trn, .cmp, .rcd] t) ∧
    (∀ i z, x.owner = .cmpRow n.val i → v.dists.find? (fun z => z.idx == i) = some z →
      ∃ t w, exec (.rowReadReturn n id (.data b)) s = .next t ∧ t.req? id = none ∧ w ∈ (t.comp n.val).dists ∧ w.idx = i ∧
        (t.comp n.val).fetch = v.fetch + (match z.place with | .at_ _ _ _ => 1 | _ => 0) ∧
        (gScatter c.slug = true → w.row = d ∧ (t.comp n.val).acc = v.acc) ∧
        (gScatter c.slug = false → w.got = true ∧
          let seg := ((z.home rcd).map (·.1)).getD 0
          (t.comp n.val).acc = (v.poolRow c.slug rcd i (rowValues (segFmt rcd seg) (recElem rcd) d)).acc) ∧
        (∀ k, k ≠ n.val → t.comp k = s.comp k) ∧ s.only [.reqs, .nextId, .trn, .cmp, .rcd] t))

/-- R218, R228, R460: a window whose every row is accumulated, or marked, closes: WINDOWS rises by 1, and the partition's LOOKUPS counter
by the lookups of the window; while lookups are left the next window begins where this one ended. R154, R226 to R228, R232: the update of
the row whose turn it is. A gradient step that is not finite skips the row, sets NANSKIP and the row's progress mark; any other is written
where the row was read: for a row whose read was one device request, by one write there. -/
def Obligations.WindowsCloseAndRowsAreUpdated : Prop :=
  (∀ (s : State) (n : Fin 16) (c : Cmd) (rcd : Bytes), s.composing n.val c rcd → (s.comp n.val).winDone = true →
    (s.comp n.val).wstart < (s.comp n.val).adm → s.serving 0xC 0 = true →
    let v := s.comp n.val
    ∃ t, exec (.windowClose n) s = .next t ∧ (t.comp n.val).wins = v.wins + 1 ∧
      t.obs.pcnt.get 0 (8 * v.part + 3) = s.obs.pcnt.get 0 (8 * v.part + 3) + BitVec.ofNat 48 v.winLooks ∧
      (v.adm < v.nidx → (t.comp n.val).wstart = v.adm ∧ (t.comp n.val).look = v.look + v.winLooks ∧
        (t.comp n.val).ngrp = v.ngrp + v.winGroups ∧ (t.comp n.val).st = .running) ∧
      (∀ k, k ≠ n.val → t.comp k = s.comp k) ∧ s.only [.reqs, .nextId, .gal, .epo, .cmp, .lka, .obs, .rcd] t) ∧
  (∀ (s : State) (n : Fin 16) (c : Cmd) (rcd : Bytes) (d : Dist) (seg va : Nat), s.composing n.val c rcd → gScatter c.slug = true →
    (s.comp n.val).rowDue = some d → d.home rcd = some (seg, va) →
    let v := s.comp n.val
    let x := slugExtn c.slug 1
    let f := fun off => fp32.value (numAt x off 4)
    let step := optStep (gOpt c.slug) (segFmt rcd seg) (recElem rcd) (f 44) (f 48) (f 52) (gradOf (v.poolGrads c.slug rcd) c.slug rcd d.idx) d.row
    (step = none → ∃ t, exec (.scatterRowUpdate n) s = .next t ∧ (t.comp n.val).flags.getLsbD 5 = true ∧
      (∃ w ∈ (t.comp n.val).dists, w.idx = d.idx ∧ w.got = true) ∧ t.mem = s.mem ∧ (∀ k, k ≠ n.val → t.comp k = s.comp k)) ∧
    (∀ new a len, step = some new → d.outs = [(0, len, .dev a)] →
      (List.range len).any (optWrites (gOpt c.slug) (segFmt rcd seg) (recElem rcd)) = true → s.unlimited v.part = true →
      s.anyOff a len = false → s.fresh →
      ∃ t r, exec (.scatterRowUpdate n) s = .next t ∧ t.reqs = s.reqs ++ [r] ∧ r.owner = .cmpUpdate n.val d.idx ∧ r.acc = .write ∧
        r.st = .issued (.dev a) ∧ r.va = va % 2 ^ 57 ∧ r.len = len ∧ r.data = slice new 0 len ∧
        r.en = (List.range len).map (fun i => optWrites (gOpt c.slug) (segFmt rcd seg) (recElem rcd) (0 + i)) ∧
        (∃ w ∈ (t.comp n.val).dists, w.idx = d.idx ∧ w.upd = true ∧ w.got = d.got) ∧
        (∀ k, k ≠ n.val → t.comp k = s.comp k) ∧ s.only [.reqs, .nextId, .cmp, .prt, .obs] t) ∧
    (∀ new, step = some new → ∃ t, exec (.scatterRowUpdate n) s = .next t ∧
      (∃ w ∈ (t.comp n.val).dists, w.idx = d.idx ∧ w.upd = true ∧ w.got = d.got) ∧
      s.only [.reqs, .orphans, .nextId, .out, .gal, .trn, .flt, .epo, .plt, .cmp, .lka, .ic, .prt, .obs, .rcd] t))

/-- R216, R249 to R253: results are written in bag order: the next one is rounded and packed in the command's output format, at its own
place in the destination, in as many writes as it touches granules. R35, R40, R154, R160: the response of a compositor's write. The last
result's ends the command with status 0, releases its pin and leaves the compositor IDLE; the last of a row's tells every row cache, and
once they have acknowledged, the row has its progress mark. -/
def Obligations.CompositorWrites : Prop :=
  (∀ (s : State) (n : Fin 16) (c : Cmd) (rcd : Bytes), s.dom (8 + n.val) = .run → s.compCmd n.val = some c → gScatter c.slug = false →
    let v := s.comp n.val
    v.st = .running → v.record = some rcd → v.kill = false → v.fence = false → v.resultReady c.slug = true →
    let vals := v.resultVals c.slug rcd v.done
    let data := packElems (gOfmt c.slug) (vals.map (roundElem (gOfmt c.slug)))
    0 < data.length →
    ∃ t new, exec (.resultWrite n) s = .next t ∧ (t.comp n.val).done = v.done + 1 ∧ (t.comp n.val).st = .running ∧ t.reqs = s.reqs ++ new ∧
      new.flatMap (·.data) = data ∧ (∀ q ∈ new, q.owner = .cmpResult n.val v.done ∧ q.acc = .write ∧ q.part = v.part ∧ q.st = .held) ∧
      (∀ q ∈ new.head?, q.va = (gDst c.slug + v.done * gDstride c.slug) % 2 ^ 57) ∧
      (t.comp n.val).flags = v.flags ||| BitVec.ofNat 16 (v.resultFlags c.slug v.done vals) ∧
      (∀ k, k ≠ n.val → t.comp k = s.comp k) ∧ s.only [.reqs, .nextId, .cmp] t) ∧
  ((∀ (s s1 : State) (n : Fin 16) (id bag : Nat) (r : WReply) (x : Req) (c : Cmd) (rcd : Bytes), s.dom (8 + n.val) = .run →
    s.compCmd n.val = some c → c.aborted = false → s.distinct → s.req? id = some x → x.owner = .cmpResult n.val bag →
    s.writeBack x r = some (.done, s1) → gScatter c.slug = false →
    let v := s.comp n.val
    (v.st = .running ∨ v.st = .draining) → v.record = some rcd → v.kill = false → v.fence = false → v.fail = none → v.rfail = none →
    ∃ t, exec (.compositorWriteResponse n id r) s = .next t ∧ t.mem = s1.mem ∧ t.req? id = none ∧
      (v.nidx ≤ v.wstart → v.nbag ≤ v.done → s.compReqs n.val = [x] → t.ended c 0 ∧ (t.comp n.val).st = .idle ∧
        ((t.table v.table).slot v.slotB).pins = ((s.table v.table).slot v.slotB).pins - 1) ∧
      (∀ k, k ≠ n.val → t.comp k = s.comp k) ∧ s.only [.mem, .poison, .veil, .lka, .reqs, .trn, .gal, .epo, .cmp, .obs, .rcd] t) ∧
  (∀ (s s1 : State) (n : Fin 16) (id i : Nat) (r : WReply) (x : Req), s.dom (8 + n.val) = .run → s.distinct →
    s.req? id = some x → x.owner = .cmpUpdate n.val i → s.writeBack x r = some (.done, s1) → s.piecesOf (.cmpUpdate n.val i) = [x] →
    (∀ z ∈ (s.comp n.val).dists, z.idx = i → z.told = false) →
    let v := s.comp n.val
    ∃ t, exec (.compositorWriteResponse n id r) s = .next t ∧ t.mem = s1.mem ∧ t.out = s.out ++ [.rowInval v.table v.slotB i] ∧
      t.req? id = some { x with st := .done (x.st.out?.getD (.dev 0)) } ∧
      t.comp n.val = v.setDist i (fun d => { d with told := true }) ∧ (∀ k, k ≠ n.val → t.comp k = s.comp k) ∧
      s.only [.mem, .poison, .veil, .lka, .reqs, .out, .tileQ, .cmp] t) ∧
  (∀ (s : State) (n : Fin 16) (id i : Nat) (r : WReply) (x : Req) (c : Cmd) (rcd : Bytes), s.composing n.val c rcd → s.fresh → s.distinct →
    s.req? id = some x → x.owner = .cmpUpdate n.val i → (∃ z ∈ (s.comp n.val).dists, z.idx = i ∧ z.told = true) →
    (∀ z ∈ (s.comp n.val).dists, z.idx = i → z.bad = false) →
    let v := s.comp n.val
    ∃ t, exec (.compositorWriteResponse n id r) s = .next t ∧ t.req? id = none ∧ (t.comp n.val).upds = v.upds + 1 ∧
      (t.comp n.val).rows = v.rows + 1 ∧ (∀ w ∈ (t.comp n.val).dists, w.idx = i → w.got = true) ∧
      (∀ k, k ≠ n.val → t.comp k = s.comp k) ∧ s.only [.reqs, .orphans, .nextId, .trn, .cmp] t))

/-- R239: a tracker's CLR empties it, and a read of an entry brings the entry that ENTRY names and moves ENTRY on, both for partition 0
and for the partition the tracker follows; for any other a write does nothing and a read brings 0. R222, R223: what a SWATCH reads. A
slot's record that is not valid ends it with 0x28; with entries to come, their list is read next. The list is installed whole, or not at
all: with 0x2C when the slot is no longer STAGED, 0x03 when an entry is out of range, 0x2A when the partition's share would be passed. -/
def Obligations.TrackersAndSwatches : Prop :=
  (∀ (s : State) (w : Who) (k : Fin 16), s.takes w (.skcfgClr w k) = true → s.takes w (.skentRead w k) = true →
    let t := s.cmp.trk.get {} k.val
    (s.mayTrack w k.val = true →
      exec (.skcfgClr w k) s = .next { s with cmp := { s.cmp with trk := s.cmp.trk.set k.val { t with ents := [] } } } ∧
      exec (.skentRead w k) s = .next { s with
        cmp := { s.cmp with trk := s.cmp.trk.set k.val { t with ptr := t.ptr + 1 } }
        out := s.out ++ [.regRead w ((t.ents.get (0, 0) t.ptr.toNat).2 ++ (t.ents.get (0, 0) t.ptr.toNat).1)] }) ∧
    (s.mayTrack w k.val = false → exec (.skcfgClr w k) s = .next s ∧
      exec (.skentRead w k) s = .next { s with out := s.out ++ [.regRead w 0] })) ∧
  (∀ (s : State) (q : Fin 4096) (pos : BitVec 16) (r : Reply) (c : Cmd) (d : Bytes), s.galleyRuns = true → s.cmd? q.val pos = some c →
    c.aborted = false → s.distinct →
    let recs := s.piecesOf (.swRecord q.val pos)
    let lists := s.piecesOf (.swList q.val pos)
    (recs ≠ [] → s.answers r recs = some (.data d) →
      (recordOk d = false → ∃ t, exec (.swatchReadReturn q pos r) s = .next t ∧ t.ended c 0x28 ∧ t.cmp = s.cmp) ∧
      (recordOk d = true → numAt c.slug 16 4 ≠ 0 →
        ∃ t, exec (.swatchReadReturn q pos r) s = .next t ∧ t.cmd? q.val pos = some { c with list := d } ∧
          (∃ x ∈ t.reqs, x.owner = .swList q.val pos ∧ x.va = addr57 c.slug 20 ∧ x.acc = .read ∧ x.st = .held) ∧
          s.only [.reqs, .nextId, .trn, .gal, .rcd] t)) ∧
    (recs = [] → lists ≠ [] → s.answers r lists = some (.data d) →
      let n := 512 * (q.val / 256) + numAt c.slug 12 2
      let es := swatchList n (swSlotB c.slug) d
      let base := if bit (numAt c.slug 14 1) 1 then s.cmp.swatch.filter fun e => !(e.table == n && e.slotB == swSlotB c.slug) else s.cmp.swatch
      let all := es.foldl putSwatch base
      let out := es.any fun e => decide (recRows c.list ≤ e.idx) || decide (recNseg c.list ≤ e.seg)
      let ovr := s.swatchShare < (all.filter fun e => e.table / 512 == q.val / 256).length
      let st := if ((s.table n).slot (swSlotB c.slug)).st ≠ .staged then 0x2C else if out then 3 else if ovr then 0x2A else 0
      ∃ t, exec (.swatchReadReturn q pos r) s = .next t ∧ t.ended c st ∧
        t.cmp = (if st = 0 then { s.cmp with swatch := all } else s.cmp) ∧ s.only [.reqs, .trn, .gal, .cmp, .obs, .rcd] t) ∧
    (∀ e, (recs ≠ [] → s.answers r recs = some (.error e)) → (recs = [] → lists ≠ [] ∧ s.answers r lists = some (.error e)) →
      ∃ t, exec (.swatchReadReturn q pos r) s = .next t ∧ t.ended c 5 ∧ t.cmp = s.cmp))

/-- R258: what a lookahead makes of the slug it reads ahead, when its one ring read comes back. A slug whose seal does not agree with the
lap's phase is given up until a doorbell or a retry; a GATHER or SCATTER without extensions becomes a target while there is room; any
other slug without extensions is passed over; a bus error is as a mismatch. R266, R271, R272: the lookahead's controls. GCTL takes a write
of partition 0 only; clearing its EN discards every result and target, and no queue is followed any more. CTL is each partition's own;
clearing its EN does the same for that partition's lookaheads. -/
def Obligations.LookaheadsReadInProof : Prop :=
  ((∀ (s : State) (n : Fin 16) (r y : Reply) (q : Nat) (h : Proof), (s.lk n.val).queue = some q → (s.lk n.val).ringHeld = [h] →
    h.data = none → (∀ z ∈ (s.lk n.val).held, z.id = h.id → z = h) → s.proofData h r = some y →
    let v := s.lk n.val
    let x := s.queue q
    let lap := ringSize x.qsize ≤ x.head.toNat % ringSize x.qsize + (v.next - x.head).toNat
    let phase := if lap then (nextPhase x.qphase).toNat else x.qphase.toNat
    ∃ t, exec (.proofRingReadReturn n r) s = .next t ∧ (t.lk n.val).asked = false ∧ (∀ k, k ≠ n.val → t.lk k = s.lk k) ∧ s.only [.lka] t ∧
      (∀ e, y = .error e → (t.lk n.val).retry = true ∧ (t.lk n.val).ringHeld = [] ∧ (t.lk n.val).targets = v.targets) ∧
      (∀ b, y = .data b → (headSeal b phase && extSeals b 0 phase) = false →
        (t.lk n.val).retry = true ∧ (t.lk n.val).ringHeld = [] ∧ (t.lk n.val).targets = v.targets ∧ (t.lk n.val).next = v.next) ∧
      (∀ b, y = .data b → (headSeal b phase && extSeals b 0 phase) = true → slugExt b = 0 →
        let takes := (slugOpcode b = 0x20 ∨ slugOpcode b = 0x21) ∧ v.targets.length < s.lkaCmds (q / 256)
        (t.lk n.val).next = v.next + 1 ∧ (t.lk n.val).ringHeld = [] ∧ (t.lk n.val).retry = v.retry ∧
        (takes → (t.lk n.val).targets = v.targets ++ [{ pos := v.next, slug := b.take 64 }]) ∧
        (¬takes → (t.lk n.val).targets = v.targets)) ∧
      (∀ b, y = .data b → (headSeal b phase && extSeals b 0 phase) = true → 0 < slugExt b →
        (t.lk n.val).next = v.next ∧ (t.lk n.val).targets = v.targets ∧ (t.lk n.val).retry = v.retry)) ∧
  (∀ (s : State) (n : Fin 16), exec (.proofSealRetry n) s = .next (s.setLk n.val { s.lk n.val with retry := false }))) ∧
  ((∀ (s : State) (w : Who) (v : W32), s.takes w (.lkaGctlWrite w v) = true →
    (isMgr w = false → exec (.lkaGctlWrite w v) s = .next s) ∧
    (isMgr w = true → bit v.toNat 31 = true →
      exec (.lkaGctlWrite w v) s = .next { s with lka := { s.lka with gctl := v &&& 0x8000003F } }) ∧
    (isMgr w = true → bit v.toNat 31 = false → ∃ t, exec (.lkaGctlWrite w v) s = .next t ∧ t.lka.gctl = v &&& 0x8000003F ∧
      (∀ n q, n < 16 → (s.lk n).queue = some q → q < 4096 → (t.lk n).queue = none ∧ (t.lk n).targets = [] ∧ (t.lk n).xlt = [] ∧ ∀ h ∈ (t.lk n).held, h.dead = true) ∧
      s.only [.lka, .trn, .reqs, .orphans] t)) ∧
  (∀ (s : State) (w : Who) (v : W32), s.takes w (.lkaCtlWrite w v) = true → ∃ t, exec (.lkaCtlWrite w v) s = .next t ∧
    t.lka.ctl = s.lka.ctl.set (whoPart w) (v &&& 0x8000331F) ∧ t.lka.gctl = s.lka.gctl ∧
    (bit v.toNat 31 = false → ∀ n q, n < 16 → (s.lk n).queue = some q → q / 256 = whoPart w →
      (t.lk n).queue = none ∧ (t.lk n).targets = [] ∧ (t.lk n).xlt = [] ∧ ∀ h ∈ (t.lk n).held, h.dead = true) ∧
    (∀ n q, (s.lk n).queue = some q → q / 256 ≠ whoPart w → t.lk n = s.lk n) ∧
    (bit v.toNat 31 = true → s.only [.lka] t) ∧ s.only [.lka, .trn, .reqs, .orphans] t))

/-- R259 to R262, R264, R266, R274: proof reads and proof walks. A read that every condition allows is issued under a new number with the
invalidation number in force, counted, and sent on the link when it goes to the host; one that does not is not made. Its data is held; an
error, and what was discarded in flight, leaves the buffer. A proof walk takes a walker of its own and is counted. -/
def Obligations.ProofReadsAndWalks : Prop :=
  (∀ (s : State) (n : Fin 16) (x : ProofRead) (q : Nat), (s.lk n.val).queue = some q →
    (s.proofCheck n.val q x = none → exec (.proofReadIssue n x) s = .next s) ∧
    (∀ o k, s.proofCheck n.val q x = some (o, k) →
      ∃ t h, exec (.proofReadIssue n x) s = .next t ∧ (t.lk n.val).held = (s.lk n.val).held ++ [h] ∧ h.id = s.nextId ∧ h.kind = x.kind ∧
        h.target = k ∧ h.addr = x.addr.toNat ∧ h.len = x.len ∧ h.out = o ∧ h.num = s.trn.invLast ∧ h.data = none ∧ h.dead = false ∧
        t.nextId = s.nextId + 1 ∧ t.lka.issue.get 0 (q / 256) = sat48 (s.lka.issue.get 0 (q / 256)) 1 ∧
        (∀ k, k ≠ n.val → t.lk k = s.lk k) ∧
        t.prt.pcharge.get 0 (q / 256) = s.prt.pcharge.get 0 (q / 256) + 1 ∧
        (∀ a tr, o = .host a tr → t.out = (s.hostReads (q / 256) a x.len s.nextId
          { tr := tr, pasid := if s.bound (q / 256) then none else s.ctxPasid (s.cmdCtx q) }).out) ∧
        ((∀ a tr, o ≠ .host a tr) → t.out = s.out) ∧ s.only [.lka, .nextId, .out, .prt] t)) ∧
  (∀ (s : State) (n : Fin 16) (id : Nat) (r y : Reply) (h : Proof),
    (s.lk n.val).held.find? (fun h => h.id == id && h.data.isNone && h.kind != .ring) = some h →
    (h.dead = true → ∃ t, exec (.proofReadReturn n id r) s = .next t ∧ (t.lk n.val).held = (s.lk n.val).held.filter (fun z => z.id != id) ∧
      s.only [.lka] t) ∧
    (h.dead = false → s.proofData h r = some y → ∃ t, exec (.proofReadReturn n id r) s = .next t ∧ (∀ k, k ≠ n.val → t.lk k = s.lk k) ∧
      (∀ b, y = .data b → (t.lk n.val).held = (s.lk n.val).held.map (fun z => if z.id == id then { z with data := some b } else z)) ∧
      (∀ e, y = .error e → (t.lk n.val).held = (s.lk n.val).held.filter (fun z => z.id != id)) ∧ s.only [.lka] t)) ∧
  (∀ (s : State) (n : Fin 16) (w : Fin 48) (va : BitVec 57) (q : Nat), s.serving 2 0 = true → (s.lk n.val).queue = some q →
    let p := q / 256
    let c := s.cmdCtx q
    s.lkaOn p = true → bit (s.lkaCtl p) 12 = true → s.bound p = false → s.ctxValid c = true → s.atsHalf c va.toNat = false →
    s.slotOf c ≠ none → s.walk? w.val = none → (∀ r ∈ s.reqs, r.st ≠ .missWait) → s.allWalksOf p < s.quotaWalk p →
    (s.trn.walks.filter fun x => x.proof.isSome).length < s.lkaPwmax →
    (s.trn.walks.filter fun x => x.proof == some n.val).length < 8 →
    (∀ x ∈ s.trn.walks, x.ctx = c → x.va / 4096 ≠ va.toNat / 4096) → s.dom 3 = .run → s.unitIn 3 w.val = true →
    s.proofNeeds n.val q va.toNat = true →
    let u := s.newWalk w.val p c va.toNat (some n.val)
    s.walkBar u = none →
    ∃ t, exec (.proofWalkStart n w va) s = .next t ∧ t.walk? w.val = some u ∧ u.proof = some n.val ∧ u.ctx = c ∧ u.va = va.toNat ∧
      u.part = p ∧ u.st = .reading ∧ u.num = s.trn.invLast ∧ t.prt.pcharge.get 0 p = s.prt.pcharge.get 0 p + 1 ∧ t.lka.walks.get 0 p = sat48 (s.lka.walks.get 0 p) 1 ∧
      t.trn.edge = s.trn.edge ∧ s.only [.trn, .lka, .reqs, .nextId, .prt] t)

/-- R475 to R482, R488: the recorder's controls. FREEZE takes what is written; a snapshot captures every enabled set in snapshot mode, a
set's period captures that set into the slot that NEXT names, and both are skipped while FROZEN; CLRALL empties the bins and the ring and
starts its numbers again. Only partition 0 commands them. R11, R482: FRZ_REC_DATA. A whole read brings the 8 bytes at the party's cursor,
as far as its partition may see them, and moves the cursor on; so do the reads of the low and then the high half together. A whole write
of partition 0 stores the bytes that may be written, of any other nothing, and moves the cursor on. While the recorder is out a read
brings 0. -/
def Obligations.RecorderCommandsAndData : Prop :=
  ((∀ (s : State) (w : Who) (on : Bool), s.takes w (.recFreeze w on) = true →
    exec (.recFreeze w on) s = .next (if isMgr w then { s with rcd := { s.rcd with freeze := on } } else s)) ∧
  (∀ (s : State) (w : Who), s.takes w (.recSnap w) = true → s.takes w (.recClrall w) = true →
    (isMgr w = false ∨ s.rcd.freeze = true → exec (.recSnap w) s = .next s ∧ exec (.recClrall w) s = .next s) ∧
    (isMgr w = true → s.rcd.freeze = false →
      (s.rcd.mode = false → exec (.recSnap w) s = .next s) ∧
      (∃ t, exec (.recSnap w) s = .next t ∧ s.only [.rcd] t ∧
        (s.rcd.mode = true → ∀ k, (List.range 16).filter s.setOn = [k] → t.rcd.seq = s.rcd.seq + 1 ∧
          t.rcd.next = (if s.rcd.next.toNat + 1 = 4032 then 0 else s.rcd.next + 1))) ∧
      (∃ t, exec (.recClrall w) s = .next t ∧ t.rcd.next = 0 ∧ t.rcd.seq = 0 ∧ t.rcd.wrap = false ∧ t.rcd.freeze = s.rcd.freeze ∧
        (∀ a, 0x8000 ≤ a → a < 0x200000 → Memory.read t.rcd.sram a = 0) ∧
        (∀ h i, h < 64 → 24 ≤ i → i < 160 → Memory.read t.rcd.sram (0x40 + 160 * h + i) = 0) ∧
        (∀ a, 0x4840 ≤ a → a < 0x8000 → Memory.read t.rcd.sram a = Memory.read s.rcd.sram a) ∧ s.only [.rcd] t))) ∧
  (∀ (s : State) (k : Fin 16), s.serving 0xD 0 = true →
    (s.rcd.freeze = true ∨ s.rcd.mode = false → exec (.snapshotPeriod k) s = .next s) ∧
    (s.rcd.mode = true → s.rcd.freeze = false → s.setOn k.val = true → s.setPeriod k.val ≠ 0 → Memory.wf s.rcd.sram = true →
      let a := 0x8000 + 512 * s.rcd.next.toNat
      ∃ t, exec (.snapshotPeriod k) s = .next t ∧ Memory.readAll t.rcd.sram a (s.slotBytes k.val).length = s.slotBytes k.val ∧
        (∀ b, b < a ∨ a + 512 ≤ b → Memory.read t.rcd.sram b = Memory.read s.rcd.sram b) ∧ t.rcd.seq = s.rcd.seq + 1 ∧
        t.rcd.next = (if s.rcd.next.toNat + 1 = 4032 then 0 else s.rcd.next + 1) ∧
        t.rcd.wrap = (s.rcd.wrap || s.rcd.next.toNat + 1 == 4032) ∧ s.only [.rcd] t))) ∧
  ((∀ (s : State) (w : Who), (∀ h, s.takes w (.recDataAccess w (.read h)) = true) →
    let p := s.actPart w
    let x := s.sramView (whoPart w) (s.cursorAt w)
    (s.serving 0xD 0 = false → ∀ h, exec (.recDataAccess w (.read h)) s = .next (s.emit (.regRead w 0))) ∧
    (s.serving 0xD 0 = true →
      (∃ t, exec (.recDataAccess w (.read .whole)) s = .next t ∧ t.out = s.out ++ [.regRead w (BitVec.ofNat 64 x)] ∧
        t.rcd.cursor.get 0 p = s.rcd.cursor.get 0 p + 1 ∧ t.rcd.sram = s.rcd.sram ∧ s.only [.out, .rcd] t) ∧
      (∃ t u, exec (.recDataAccess w (.read .low)) s = .next t ∧ t.out = s.out ++ [.regRead w (BitVec.ofNat 64 (x % 2 ^ 32))] ∧
        t.rcd.cursor = s.rcd.cursor ∧ exec (.recDataAccess w (.read .high)) t = .next u ∧
        u.out = t.out ++ [.regRead w (BitVec.ofNat 64 (x / 2 ^ 32 % 2 ^ 32))] ∧ u.rcd.cursor.get 0 p = s.rcd.cursor.get 0 p + 1 ∧
        s.only [.out, .rcd] u))) ∧
  (∀ (s : State) (w : Who) (v : W64), s.takes w (.recDataAccess w (.write v)) = true → Memory.wf s.rcd.sram = true →
    let p := s.actPart w
    let a := s.cursorAt w
    ∃ t, exec (.recDataAccess w (.write v)) s = .next t ∧ t.rcd.cursor.get 0 p = s.rcd.cursor.get 0 p + 1 ∧
      (isMgr w = false → t.rcd.sram = s.rcd.sram) ∧
      (isMgr w = true → histHeader a 8 = none → ∀ b, Memory.read t.rcd.sram b =
        if a ≤ b ∧ b < a + 8 ∧ sramWritable b = true then (toLE 8 v.toNat).getD (b - a) 0 else Memory.read s.rcd.sram b) ∧
      s.only [.rcd] t))

/-- R6, R10, R86: registers that store what is written. A 32-bit write of partition 0, or of a tailor core, changes its register and
nothing else; an access that is not naturally aligned is dropped and counted as an error of source 0. R8, R11: a read of a register that
holds an RC field brings its value and clears the field; the read of its low half leaves the high half for the party's next read of it. -/
def Obligations.RegistersStore : Prop :=
  (∀ (s : State) (w : Who) (v : W64), isMgr w = true →
    let x := v.toNat % 2 ^ 32
    let gives := fun (o width : Nat) (t : State) => s.takes w (.registerWrite w (BitVec.ofNat 26 o) width v) = true →
      exec (.registerWrite w (BitVec.ofNat 26 o) width v) s = .next t
    gives 0x8080 32 { s with gal := { s.gal with slice := if x % 2 ^ 16 = 0 then 1 else BitVec.ofNat 16 x } } ∧
    gives 0x70004 32 { s with seam := { s.seam with tmo := BitVec.ofNat 16 x } } ∧
    (∀ d : Nat, d < 1024 → gives (0x71000 + 4 * d) 32 { s with seam := { s.seam with route := s.seam.route.set d (BitVec.ofNat 12 x) } }) ∧
    gives 0x70010 32 { s with seam := { s.seam with sel := s.seam.sel.set (whoPart w) (BitVec.ofNat 10 x) } } ∧
    gives 0x30000 64 { s with trn := { s.trn with invaddr := s.trn.invaddr.set (whoPart w) (v &&& 0x01FFFFFFFFFFF03F) } } ∧
    gives 0x40000 32 { s with plt := { s.plt with sel := s.plt.sel.set (whoPart w) (BitVec.ofNat 6 x) } } ∧
    gives 0x50000 32 { s with cmp := { s.cmp with sel := s.cmp.sel.set (whoPart w) (BitVec.ofNat 4 x) } } ∧
    gives 0xA0014 32 { s with obs := { s.obs with stcfg := bit x 31 } } ∧
    gives 0xC0030 32 { s with aon := { s.aon with usel := BitVec.ofNat 16 x } } ∧
    (∀ o : Nat, o < 0x2000000 → o % 4 ≠ 0 → gives o 32 s.badAccess) ∧
    (∀ o : Nat, o < 0x2000000 → o % 8 ≠ 0 → gives o 64 s.badAccess) ∧
    (s.err.handling = false → (s.badAccess).err.sticky.getLsbD 0 = true) ∧ (s.err.handling = true → (s.badAccess).err.missed = true)) ∧
  ((∀ (s : State) (w : Who) (r : RcReg) (x : Nat), s.takes w (.readClearCounterRead w r .whole) = true → (∀ o k, r ≠ .reg o k) →
    s.regAt w (rcOffset r) = some (!rcNarrow r, x) →
    ∃ t, exec (.readClearCounterRead w r .whole) s = .next t ∧ t.out = s.out ++ [.regRead w (BitVec.ofNat 64 x)] ∧
      (∀ j, r = .errCnt j → isMgr w = true → t.err.cnt.get 0 j.val = 0) ∧
      (∀ n, r = .wstat n → isMgr w = true ∨ n.val / 64 = whoPart w → (t.win n.val).drops = 0 ∧ (t.win n.val).live = (s.win n.val).live) ∧
      (∀ m, r = .mlook m → m.val < s.meterShare → t.cmp.look.get 0 (1024 * whoPart w + m.val) = 0) ∧
      (∀ m, r = .mfetch m → m.val < s.meterShare → t.cmp.fetch.get 0 (1024 * whoPart w + m.val) = 0) ∧
      (r = .lkaIssue → t.lka.issue.get 0 (whoPart w) = 0) ∧ (r = .lkaUsed → t.lka.used.get 0 (whoPart w) = 0) ∧
      (r = .lkaDisc → t.lka.disc.get 0 (whoPart w) = 0) ∧ (r = .lkaWalks → t.lka.walks.get 0 (whoPart w) = 0) ∧
      (r = .linNbcast → isMgr w = true → t.lin.nbcast = 0) ∧ (r = .linNrecall → isMgr w = true → t.lin.nrecall = 0) ∧
      (r = .linNcross → isMgr w = true → t.lin.ncross = 0) ∧ (r = .hostLate → isMgr w = true → t.host.late = 0) ∧
      (r = .trstat → s.serving 0xC 0 = true → (t.trp (s.obsPart w)).lost = 0) ∧
      (r = .recStat → s.serving 0xD 0 = true → t.rcd.lostev = 0) ∧
      s.only [.out, .err, .seam, .cmp, .lka, .lin, .host, .obs, .rcd] t) ∧
  (∀ (s : State) (w : Who) (r : RcReg) (x : Nat), s.takes w (.readClearCounterRead w r .low) = true →
    s.takes w (.readClearCounterRead w r .high) = true → (∀ o k, r ≠ .reg o k) → s.regAt w (rcOffset r) = some (true, x) →
    s.heldHigh w (rcOffset r) = none →
    ∃ t u, exec (.readClearCounterRead w r .low) s = .next t ∧ t.out = s.out ++ [.regRead w (BitVec.ofNat 64 (x % 2 ^ 32))] ∧
      exec (.readClearCounterRead w r .high) t = .next u ∧ u.out = t.out ++ [.regRead w (BitVec.ofNat 64 (x / 2 ^ 32 % 2 ^ 32))] ∧
      (∀ n, r = .wstat n → isMgr w = true ∨ n.val / 64 = whoPart w → (u.win n.val).drops = 0) ∧
      u.heldHigh w (rcOffset r) = none))

/-- R6, R60, R62, R91, R137, R172, R199: a write of a command register is that register's command: the write and the command have one
effect. -/
def Obligations.CommandRegistersCommand : Prop :=
  ∀ (s : State) (w : Who) (v : W64), isMgr w = true →
    let x : W32 := BitVec.ofNat 32 v.toNat
    let is := fun (o : Nat) (c : Instr) => s.admits (.registerWrite w (BitVec.ofNat 26 o) 32 v) = true →
      exec (.registerWrite w (BitVec.ofNat 26 o) 32 v) s = exec c s
    (∀ q : Fin 4096, is (0x1000000 + 0x1000 * q.val) (.doorbellWrite w q (bit v.toNat 31) (BitVec.ofNat 16 v.toNat)) ∧
      is (0x1000008 + 0x1000 * q.val) (.cheadWrite w q (BitVec.ofNat 16 v.toNat))) ∧
    (bits v.toNat 3 0 = 1 → is 0x8024 (.qctlEnable w)) ∧ (bits v.toNat 3 0 = 2 → is 0x8024 (.qctlDisable w)) ∧
    (bits v.toNat 3 0 = 4 → is 0x8024 (.qctlResume w)) ∧ (bits v.toNat 3 0 = 8 → is 0x8024 (.qctlReset w)) ∧
    (bits v.toNat 31 30 = 0 → is 0x30008 (.invctlPartition w (BitVec.ofNat 4 (bits v.toNat 13 10)))) ∧
    (bits v.toNat 31 30 = 1 → is 0x30008 (.invctlContext w (BitVec.ofNat 4 (bits v.toNat 13 10)) (BitVec.ofNat 6 (bits v.toNat 5 0)))) ∧
    (bits v.toNat 31 30 = 2 → is 0x30008 (.invctlRange w (BitVec.ofNat 4 (bits v.toNat 13 10)) (BitVec.ofNat 6 (bits v.toNat 5 0)))) ∧
    is 0x38008 (.fltRcfgWrite w x) ∧
    (bits v.toNat 31 30 = 1 → is 0x38014 (.fltRespRetry w (BitVec.ofNat 16 v.toNat))) ∧
    (bits v.toNat 31 30 = 2 → is 0x38014 (.fltRespAbort w (BitVec.ofNat 16 v.toNat))) ∧
    (bits v.toNat 2 0 = 1 → is 0x40008 (.pltCctlAbort w)) ∧ (bits v.toNat 2 0 = 2 → is 0x40008 (.pltCctlRelease w)) ∧
    (bits v.toNat 2 0 = 4 → is 0x40008 (.pltCctlRetry w)) ∧
    is 0x60000 (.lkaGctlWrite w x) ∧ is 0x60004 (.lkaCtlWrite w x) ∧ is 0x10000 (.gctlWrite w x) ∧
    is 0x10010 (.sysevClear w x) ∧ is 0xA0048 (.tackGo w x) ∧ is 0xC0028 (.amendmentGo w x) ∧
    (∀ t : Fin 64, is (0x30100 + 4 * t.val) (.tbindWrite w t x)) ∧
    (∀ k : Fin 64, is (0x10100 + 4 * k.val) (.pendClear w k x)) ∧
    (∀ n : Fin 2048, n.val ≠ 0 → is (0x12000 + 4 * n.val) (.tgtWrite w n x)) ∧
    (bit v.toNat 31 = true → is 0x80008 (.linEnable w)) ∧ (bit v.toNat 31 = false → is 0x80008 (.linDisable w))

/-- R278, R281 to R284: the outbound side of Seam. A posted request leaves in its packets, each on a port that leads toward the peer, the
first on the next such port in turn, and has its response when the last has left; a read or an atomic then waits for its completion. A
request with no port toward its peer meets a bus error. A completion for a request that waits is delivered, any other is late and is
counted; a request whose completion is due times out while TMO is not 0. -/
def Obligations.PeerRequestsAreSentAndAnswered : Prop :=
  (∀ (s : State) (id : Nat) (r : Req) (a : Nat), s.req? id = some r → r.st = .issued (.peer a) → s.dom 24 = .run →
    s.peerBefore r = false → bits a 56 47 ≠ s.seam.peer.toNat →
    let d := bits a 56 47
    let cs := r.cuts a
    (s.routePorts d = 0 → ∀ k n, r.owner = .tile k n → r.grp = 0 → ∃ t, exec (.peerPacketSend id) s = .next t ∧
      t.out = s.out ++ [.tileRsp k n (.error .peer)] ∧ t.req? id = none) ∧
    (s.routePorts d ≠ 0 → ∀ k n, r.owner = .tile k n → r.grp = 0 → ∃ t pk, exec (.peerPacketSend id) s = .next t ∧ pk.length = cs.length ∧
      (∀ j c, cs[j]? = some c → ∃ i, (s.routePorts d).getLsbD i = true ∧
        (j = 0 → roundRobin 12 (s.seam.rr.get 0 d) (fun i => (s.routePorts d).getLsbD i) = some i) ∧
        pk[j]? = some (.peer i (s.headFor r (a + c.1)) r.pktKind c.2 (slice r.data c.1 c.2) ((r.en.drop c.1).take c.2) r.op r.x r.y id c.1)) ∧
      (r.acc = .write → t.out = s.out ++ pk ++ [.tileRsp k n (.data [])] ∧ t.req? id = none ∧ s.only [.out, .reqs, .trn, .seam] t) ∧
      (r.acc ≠ .write → t.out = s.out ++ pk ∧ t.req? id = some { r with st := .sent (.peer a), at_ := s.now } ∧
        s.only [.out, .reqs, .seam] t)) ∧
    (∀ q pos c, r.owner = .tadd q pos → s.cmd? q pos = some c → c.aborted = false → s.routePorts d ≠ 0 → r.len = 1 →
      ∃ t i, exec (.peerPacketSend id) s = .next t ∧ roundRobin 12 (s.seam.rr.get 0 d) (fun i => (s.routePorts d).getLsbD i) = some i ∧
        .peer i (s.headFor r a) 3 1 r.data (r.en.take 1) r.op r.x r.y id 0 ∈ t.out ∧ t.ended c 0)) ∧
  (∀ (s : State) (port : Fin 12) (dst : BitVec 10) (id off : Nat) (x : Reply), s.admits (.inboundCpl port ⟨dst, id, off⟩ x) = true →
    (dst ≠ s.seam.peer → exec (.inboundCpl port ⟨dst, id, off⟩ x) s = .next s.peerDrop) ∧
    (dst = s.seam.peer → s.serving 7 port.val = true → s.req? id = none →
      (s.seam.timedOut.any (·.tag == id) = false → exec (.inboundCpl port ⟨dst, id, off⟩ x) s = .next s) ∧
      (s.seam.timedOut.any (·.tag == id) = true → (s.err.cnt.get 0 3).toNat < 0xFFFFFFFF →
        ∃ t, exec (.inboundCpl port ⟨dst, id, off⟩ x) s = .next t ∧
          t.err.cnt.get 0 3 = s.err.cnt.get 0 3 + 1 ∧ s.only [.err, .ic, .rcd] t)) ∧
    (∀ r a, dst = s.seam.peer → s.serving 7 port.val = true → s.req? id = some r → r.st = .sent (.peer a) →
      let ps := r.pieces ++ [(off, x)]
      (r.lacks a off = false → exec (.inboundCpl port ⟨dst, id, off⟩ x) s = .next s) ∧
      (r.lacks a off = true → ps.length < (r.cuts a).length →
        exec (.inboundCpl port ⟨dst, id, off⟩ x) s = .next (s.setReq { r with pieces := ps })) ∧
      (r.lacks a off = true → ps.length = (r.cuts a).length →
        let whole := assemble r.len (ps.map fun p => (p.1, replyBytes p.2))
        ∃ t, exec (.inboundCpl port ⟨dst, id, off⟩ x) s = .next t ∧ s.only [.reqs, .out, .trn, .rcd] t ∧
          (∀ k n, r.owner = .tile k n → r.grp = 0 → t.req? id = none ∧
            t.out = s.out ++ [.tileRsp k n (if ps.any (fun p => replyFails p.2) then .error .peer else .data whole)]) ∧
          (∀ n i, r.owner = .cmpStream n i → t.out = s.out ∧ t.req? id = some { r with
            st := if ps.any (fun p => replyFails p.2) then .failed (.peer a) .peer else .have (.peer a) whole })))) ∧
  (∀ (s : State) (id : Nat) (r : Req) (a : Nat), s.req? id = some r → r.st = .sent (.peer a) →
    (s.seam.tmo = 0 → exec (.peerCompletionTimeout id) s = .next s) ∧
    (s.seam.tmo ≠ 0 → ∃ t, exec (.peerCompletionTimeout id) s = .next t ∧
      t.seam.timedOut = s.seam.timedOut ++ [{ tag := id, time := s.now, part := r.part, src := r.src }] ∧
      (∀ k n, r.owner = .tile k n → r.grp = 0 → t.out = s.out ++ [.tileRsp k n (.error .peer)] ∧ t.req? id = none) ∧
      (∀ n i, r.owner = .cmpStream n i → t.req? id = some { r with st := .failed (.peer a) .peer }) ∧ s.only [.reqs, .out, .trn, .seam] t))

/-- R44, R278, R280, R285, R286, R292: the inbound side of Seam. A write packet that its window admits becomes a flight at the window's
address, and when its granules are performed they are stored and then the window's tally counts them; a read brings the bytes, an atomic
the old value and stores its result, each in a completion on a port of the requester's route; a TADD adds its amount. A packet that a
check refuses changes no memory: it is counted at its window and as an error of source 2, and a read or an atomic is answered with an
error. -/
def Obligations.InboundPacketsAreChecked : Prop :=
  (∀ (s : State) (port : Fin 12) (h : PktHead), s.serving 7 port.val = true → h.dst = s.seam.peer →
    let n := h.window.toNat
    let w := (s.win n).live
    let a := w.baseAddr + h.offset.toNat
    let cpl := fun (i id : Nat) (x : Reply) => OutMsg.peerCpl i { h with
      dst := h.src, src := s.seam.peer, srcPart := BitVec.ofNat 4 (n / 64), stamp := BitVec.ofNat 48 s.now } id x
    let port? := roundRobin 12 (s.seam.rr.get 0 h.src.toNat) fun i => (s.routePorts h.src.toNat).getLsbD i
    let alone := ∀ f ∈ s.seam.flight, f.kind = 0 ∧ f.id < s.nextId ∧ f.src ≠ BitVec.ofNat 9 (0x1A0 + port.val)
    (∀ data en, s.admits (.inboundWr port h data en) = true → s.windowTakes h 0 data.length = true →
      ∃ t, exec (.inboundWr port h data en) s = .next t ∧ t.seam.flight = s.seam.flight ++ [{
        id := s.nextId, port := port.val, src := BitVec.ofNat 9 (0x1A0 + port.val), kind := 0, head := h, tag := 0, back := none, window := n,
        ver := (s.win n).ver, old := false, addr := a, len := data.length, data := data, en := en, op := .add, x := 0, y := 0, err := none,
        tally := (if w.ten then some w.tally else none), part := n / 64 }] ∧ s.only [.reqs, .nextId, .seam, .prt, .obs] t) ∧
    (∀ data en, s.admits (.inboundWr port h data en) = true → s.windowTakes h 0 data.length = false →
      ∃ t, exec (.inboundWr port h data en) s = .next t ∧
      (s.winPresent n = true → (t.win n).drops = BitVec.ofNat 16 (min 0xFFFF ((s.win n).drops.toNat + 1)) ∧ (t.win n).live = w) ∧
      (t.err.cnt.get 0 2 = if s.err.cnt.get 0 2 = 0xFFFFFFFF then s.err.cnt.get 0 2 else s.err.cnt.get 0 2 + 1) ∧
      s.only [.seam, .err, .ic, .obs] t) ∧
    (∀ id len d i, s.admits (.inboundRd port h ⟨id, len⟩ (.data d)) = true → s.windowTakes h 1 len = true → s.linesOf a len = [] →
      s.anyClosed a len = false → s.anyOff a len = false → alone → port? = some i → ∃ t,
      exec (.inboundRd port h ⟨id, len⟩ (.data d)) s = .next t ∧
      t.out = s.out ++ [cpl i id (if s.poisoned a len then .error .poison else .data (s.readMem a len))] ∧ t.seam.flight = s.seam.flight ∧
      s.only [.out, .nextId, .seam, .prt, .obs] t) ∧
    (∀ id len x i, s.admits (.inboundRd port h ⟨id, len⟩ x) = true → s.windowTakes h 1 len = false → port? = some i →
      ∃ t, exec (.inboundRd port h ⟨id, len⟩ x) s = .next t ∧
      t.out = s.out ++ [cpl i id (.error .peer)] ∧ s.only [.out, .seam, .err, .ic, .obs] t) ∧
    (∀ id op len x y i, s.admits (.inboundAtm port h ⟨id, len⟩ op x y) = true → s.windowTakes h 2 len = true → s.linesOf a len = [] →
      s.anyClosed a len = false → s.anyOff a len = false → s.poisoned a len = false → s.veil = [] → Memory.wf s.mem = true → 0 < len →
      alone → port? = some i → ∃ t, exec (.inboundAtm port h ⟨id, len⟩ op x y) s = .next t ∧
      cpl i id (.data (Memory.readAll s.mem a len)) ∈ t.out ∧
      Memory.readAll t.mem a len = toLE len (atomResult op len (leNat (Memory.readAll s.mem a len)) x y) ∧
      (∀ b, b < a ∨ a + len ≤ b → Memory.read t.mem b = Memory.read s.mem b) ∧
      t.tally w.tally = (if w.ten then (s.tally w.tally).plus ((s.tally w.tally).amount len) else s.tally w.tally) ∧
      s.only [.mem, .poison, .veil, .out, .tileQ, .nextId, .seam, .lka, .tal, .ic, .prt, .obs] t) ∧
    (∀ v : BitVec 48, s.admits (.inboundTadd port h v) = true → s.windowTakes h 3 1 = true → ∃ t, exec (.inboundTadd port h v) s = .next t ∧
      t.tally w.tally = (s.tally w.tally).plus v.toNat ∧ (∀ k, k ≠ w.tally → t.tally k = s.tally k) ∧
      s.only [.out, .tileQ, .tal, .ic, .prt, .obs] t)) ∧
  (∀ (s : State) (id : Nat) (f : Flight), s.serving 6 0 = true → s.seam.flight.find? (fun g => g.id == id) = some f → f.kind = 0 →
    s.flightHeld f = false → (∀ g ∈ s.seam.flight, g.kind = 0) → (∀ r ∈ s.reqs, Owner.isExt r.owner = false) →
    s.anyClosed f.addr f.len = false → s.veil = [] → Memory.wf s.mem = true → (∀ i, i < f.data.length → s.inWindow (f.addr + i) = false) →
    ∃ t, exec (.inboundWritePerformed id) s = .next t ∧
      (∀ b, Memory.read t.mem b = if f.addr ≤ b ∧ b < f.addr + f.data.length ∧ enabledAt f.en (b - f.addr) = true then
        f.data.getD (b - f.addr) 0 else Memory.read s.mem b) ∧
      (∀ k, f.tally = some k → t.tally k = (s.tally k).plus ((s.tally k).amount (enabledBytes f.data f.en))) ∧
      t.seam.flight = s.seam.flight.filter (fun g => g.id != f.id) ∧
      (t.win f.window).drain = (if f.old then (s.win f.window).drain - 1 else (s.win f.window).drain) ∧
      s.only [.mem, .poison, .veil, .lka, .tal, .seam, .out, .tileQ, .ic, .obs] t)

/-- R298, R299, R304, R309: a COMMIT of partition 0 that no check refuses is scheduled with the values staged then, and takes effect with
VER raised and DRAIN the packets of the window not yet finished; one that is refused says why and changes no window. A port block whose
link has trained is in TRAINED, and in LIVE while its layer is in service. R289, R290, R294, R295: tallies. A write of COUNT replaces the
count and clears SAT; a write of the threshold stores its fields; the event of a tally that has reached its threshold goes to the tile it
names. Another partition's write is refused and counted as a violation. Only partition 0 gives a free tally to a partition that has room,
and takes back one that nothing names. -/
def Obligations.WindowsAndTallies : Prop :=
  ((∀ (s : State) (w : Who), s.takes w (.windowCommit w) = true →
    let n := (s.seam.sel.get 0 0).toNat
    let u := s.takeEffect n
    (isMgr w = false → exec (.windowCommit w) s = .next s) ∧
    (isMgr w = true → u.commitRsn n = 0 → ∃ t, exec (.windowCommit w) s = .next t ∧
      t.win n = { u.win n with pend := some (u.win n).staged } ∧ (∀ k, k ≠ n → t.win k = s.win k) ∧ s.only [.seam] t) ∧
    (isMgr w = true → u.commitRsn n ≠ 0 → ∃ t, exec (.windowCommit w) s = .next t ∧ t.seam.refused.get false 0 = true ∧
      t.seam.rsn.get 0 0 = BitVec.ofNat 4 (u.commitRsn n) ∧ t.seam.wins = u.seam.wins ∧ s.only [.seam] t)) ∧
  (∀ (s : State) (n : Fin 1024) (w : Win), s.serving 6 0 = true → (s.win n.val).pend = some w →
    ∃ t, exec (.commitTakesEffect n) s = .next t ∧
      t.win n.val = { s.win n.val with live := w, ver := (s.win n.val).ver + 1, drain := BitVec.ofNat 16 (s.flights n.val).length, pend := none } ∧
      (∀ k, k ≠ n.val → t.win k = s.win k) ∧ (∀ f ∈ t.seam.flight, f.window = n.val → f.old = true) ∧ s.only [.seam] t) ∧
  (∀ (s : State) (i : Fin 12), ∃ t, exec (.hupenPortTrained i) s = .next t ∧ t.seam.trained.getLsbD i.val = true ∧
    t.seam.live.getLsbD i.val = s.serving 7 i.val ∧
    (∀ j, j < 12 → j ≠ i.val → t.seam.trained.getLsbD j = s.seam.trained.getLsbD j ∧ t.seam.live.getLsbD j = s.seam.live.getLsbD j) ∧
    s.only [.seam] t)) ∧
  ((∀ (s : State) (w : Who) (k : BitVec 16) (v : W64), s.takes w (.talCountWrite w k v) = true → s.takes w (.talThrWrite w k v) = true →
    let x := v.toNat
    let c := s.tally k.toNat
    (s.mayTouchTally w k.toNat = false → ∃ t, exec (.talCountWrite w k v) s = .next t ∧ exec (.talThrWrite w k v) s = .next t ∧
      (t.err.cnt.get 0 1 = if s.err.cnt.get 0 1 = 0xFFFFFFFF then s.err.cnt.get 0 1 else s.err.cnt.get 0 1 + 1) ∧ s.only [.err, .ic] t) ∧
    (s.mayTouchTally w k.toNat = true →
      (∃ t, exec (.talCountWrite w k v) s = .next t ∧ t.tally k.toNat = { c with count := BitVec.ofNat 48 x, sat := false } ∧
        (∀ p, c.owner = some p → c.tevt = true → s.tilePart c.tile.toNat = some p → s.aon.tileOff.getLsbD c.tile.toNat = false → c.reached = false → c.thresh.toNat ≤ x % 2 ^ 48 →
          t.out = s.out ++ [.tileEvent c.tile.toNat k.toNat]) ∧
        (c.reached = true ∨ x % 2 ^ 48 < c.thresh.toNat → t.out = s.out) ∧
        (∀ j, j ≠ k.toNat → t.tally j = s.tally j) ∧ s.only [.out, .tileQ, .tal, .ic, .obs] t) ∧
      (∃ t, exec (.talThrWrite w k v) s = .next t ∧
        t.tally k.toNat = { c with mode := bit x 58, irq := bit x 57, tevt := bit x 56, tile := BitVec.ofNat 6 (bits x 55 50), thresh := BitVec.ofNat 48 x } ∧
        (∀ p, c.owner = some p → bit x 56 = true → s.tilePart (bits x 55 50) = some p →
          s.aon.tileOff.getLsbD (bits x 55 50) = false → x % 2 ^ 48 ≤ c.count.toNat →
          t.out = s.out ++ [.tileEvent (bits x 55 50) k.toNat]) ∧
        (∀ j, j ≠ k.toNat → t.tally j = s.tally j) ∧ s.only [.out, .tileQ, .tal, .ic, .obs] t))) ∧
  (∀ (s : State) (w : Who) (p : Fin 16) (k : BitVec 16), s.takes w (.townAssign w p k) = true → s.takes w (.townRelease w k) = true →
    (isMgr w = false → exec (.townAssign w p k) s = .next s ∧ exec (.townRelease w k) s = .next s) ∧
    (isMgr w = true →
      ((s.tally k.toNat).owner = none → s.present p.val = true → s.tallyUse p.val < s.quotaTally p.val →
        exec (.townAssign w p k) s = .next (s.setTally k.toNat { owner := some p.val })) ∧
      ((s.tally k.toNat).owner ≠ none ∨ s.present p.val = false ∨ s.quotaTally p.val ≤ s.tallyUse p.val →
        exec (.townAssign w p k) s = .next { s with seam := { s.seam with town := true } }) ∧
      ((s.tally k.toNat).owner ≠ none → s.tallyNamed k.toNat = false → exec (.townRelease w k) s = .next (s.setTally k.toNat {})) ∧
      ((s.tally k.toNat).owner = none ∨ s.tallyNamed k.toNat = true →
        exec (.townRelease w k) s = .next { s with seam := { s.seam with town := true } }))))

/-- R320, R321, R326 to R328, R331: the requests of agents. One for a line that is busy waits behind the others. One that is admitted is
opened: it reads home or snoops the agents its entry names, and takes a free way or recalls the least recently used entry; an EVC, and an
UPG with no other holder, end at once. A snoop to a tile without power is held in its port. -/
def Obligations.AgentsAskForLines : Prop :=
  (∀ (s : State) (xs : List (Nat × Nat × Nat)), s.aon.tileOff = 0 →
    s.snoopAll xs = { s with out := s.out ++ xs.map fun x => .snoop x.1 x.2.1 x.2.2 }) ∧
  (∀ (s : State) (a : Fin 74) (line : Nat), (∀ c ∈ [Instr.rds a line, .rdx a line, .upg a line, .evc a line], s.admits c = true) →
    s.linServes = true → s.isLine line = true → s.lin.active.getLsbD a.val = true →
    let ar (k : TxKind) : Txn := { line := line, kind := k, agent := a.val, host := if a.val < 72 then none else some (a.val == 73) }
    let snoops (t : State) (xs : List (Nat × Nat × Nat)) := t.out = (s.snoopAll xs).out ∧ t.tileQ = (s.snoopAll xs).tileQ
    (s.lineBusy line = true → ∀ p ∈ [(TxKind.rds, Instr.rds a line), (.rdx, .rdx a line), (.upg, .upg a line), (.evc, .evc a line)],
      exec p.2 s = .next { s with lin := { s.lin with waits := s.lin.waits ++ [ar p.1] } }) ∧
    (s.lentry? line = none → ∀ p ∈ [(TxKind.rds, Instr.rds a line), (.rdx, .rdx a line), (.rdx, .upg a line)],
      s.admissible (ar .rdx) s.lin.waits = true →
      (∀ wy, s.freeWay (lineSet line) = some wy → ∃ t, exec p.2 s = .next t ∧
        t.lin.opens = s.lin.opens ++ [{ ar p.1 with way := some wy, homeR := true }] ∧ t.lin.ents = s.lin.ents ∧ s.only [.lin] t) ∧
      (∀ v, s.freeWay (lineSet line) = none → s.victimOf (lineSet line) = some v → s.holders v ≠ [] → ∃ t, exec p.2 s = .next t ∧
        t.lin.opens = s.lin.opens ++
          [{ ar p.1 with way := some v.way, homeR := true, victim := some { line := v.line, due := s.holders v } }] ∧
        snoops t ((s.holders v).map fun h => (h, v.line, 1)) ∧ t.lin.nrecall = sat48 s.lin.nrecall 1 ∧ s.only [.lin, .out, .tileQ] t)) ∧
    (∀ e, s.lentry? line = some e → s.admissible (ar .rds) s.lin.waits = true →
      (∀ h, e.owner? = some h → h ≠ a.val → ∃ t, exec (.rds a line) s = .next t ∧ snoops t [(h, line, 0)] ∧
        t.lin.opens = s.lin.opens ++ [{ ar .rds with way := some e.way, snoops := [h], homeR := (e.st == .ex) }] ∧
        s.only [.lin, .out, .tileQ] t) ∧
      (e.owner? = none → ∃ t, exec (.rds a line) s = .next t ∧
        t.lin.opens = s.lin.opens ++ [{ ar .rds with way := some e.way, homeR := true }] ∧ s.only [.lin] t) ∧
      (let hs := (s.holders e).filter (· != a.val)
       hs ≠ [] → ∃ t u, exec (.rdx a line) s = .next t ∧ snoops t (hs.map fun h => (h, line, 1)) ∧
        t.lin.opens = s.lin.opens ++ [{ ar .rdx with way := some e.way, snoops := hs, homeR := (e.st != .ow && e.st != .owb) }] ∧
        s.only [.lin, .out, .tileQ] t ∧ exec (.upg a line) s = .next u ∧ u.out = t.out ∧ u.tileQ = t.tileQ ∧
        (e.names a.val = true → u.lin.opens = s.lin.opens ++ [{ ar .upg with way := some e.way, snoops := hs }]) ∧
        (e.names a.val = false → u.lin.opens = t.lin.opens) ∧ s.only [.lin, .out, .tileQ] u) ∧
      (e.names a.val = true → (s.holders e).filter (· != a.val) = [] → s.lin.conflicts = [] → ∃ t, exec (.upg a line) s = .next t ∧
        t.out = s.out ++ [.cmpu a.val line] ∧ t.lin.opens = s.lin.opens ∧
        (∃ f, t.lentry? line = some f ∧ f.st = .ex ∧ f.ptrs = [a.val] ∧ f.way = e.way) ∧ s.only [.lin, .out, .lka] t)) ∧
    (s.admissible (ar .evc) s.lin.waits = true → s.lin.conflicts = [] → ∃ t, exec (.evc a line) s = .next t ∧
      t.lin.opens = s.lin.opens ∧ (s.lentry? line = none → t.lentry? line = none) ∧
      (∀ e, s.lentry? line = some e →
        (e.st.broadcast = true → ∃ f, t.lentry? line = some f ∧ f.st = e.st ∧ f.ptrs = e.ptrs) ∧
        (e.st = .ex → e.ptrs = [a.val] → t.lentry? line = none) ∧
        (e.st = .sh → e.ptrs = [a.val] → t.lentry? line = none) ∧
        (e.st = .sh → a.val ∈ e.ptrs → e.ptrs.erase a.val ≠ [] →
          ∃ f, t.lentry? line = some f ∧ f.st = .sh ∧ f.ptrs = e.ptrs.erase a.val)) ∧ s.only [.lin] t)) ∧
  (∀ (s : State) (line : Nat), s.serving 8 0 = true →
    ((∀ pre w post, s.lin.waits = pre ++ w :: post → w.line = line → s.admissible w pre = false) →
      exec (.transactionAdmit line) s = .next s) ∧
    (∀ pre x post wy, s.lin.waits = pre ++ x :: post → (∀ w ∈ pre, w.line ≠ line) → s.admissible x pre = true →
      x = { line := line, kind := .rds, agent := x.agent, host := x.host } → s.lentry? line = none →
      s.freeWay (lineSet line) = some wy → ∃ t, exec (.transactionAdmit line) s = .next t ∧ t.lin.waits = pre ++ post ∧
        t.lin.opens = s.lin.opens ++ [{ x with way := some wy, homeR := true }] ∧ s.only [.lin] t))

/-- R320, R322, R323, R337: the uncached accesses of the window. A read snoops an owner and reads home; a write or an atomic first
invalidates every copy and then is performed at home. A write that enables no byte of the line performs nothing and its response returns
at once. -/
def Obligations.UncachedAccessesAskForLines : Prop :=
  ∀ (s : State) (id l : Nat) (r : Req), s.serving 8 0 = true → s.dom 25 = .run → s.req? id = some r → s.mayAsk r l = true →
    let u := UReq.held id l
    let op (k : TxKind) : Txn := { line := l, kind := k, ureq := some u }
    let snoops (t : State) (xs : List (Nat × Nat × Nat)) := t.out = (s.snoopAll xs).out ∧ t.tileQ = (s.snoopAll xs).tileQ
    (r.acc ≠ .write → r.acc ≠ .atomic → s.admissible (op .nar) s.lin.waits = true → ∃ t, exec (.nar u) s = .next t ∧
      t.lin.ents = s.lin.ents ∧
      (∀ h e, s.lentry? l = some e → e.owner? = some h → snoops t [(h, l, 2)] ∧ s.only [.lin, .out, .tileQ] t ∧
        t.lin.opens = s.lin.opens ++ [{ op .nar with way := some e.way, snoops := [h], homeR := (e.st == .ex) }]) ∧
      (∀ e, s.lentry? l = some e → e.owner? = none → s.only [.lin] t ∧
        t.lin.opens = s.lin.opens ++ [{ op .nar with way := some e.way, homeR := true }]) ∧
      (s.lentry? l = none → s.only [.lin] t ∧ t.lin.opens = s.lin.opens ++ [{ op .nar with homeR := true }])) ∧
    (r.acc = .write → (s.lineBytes r l).all (·.isNone) = true → ∀ b, r.owner = .cxlWr b → r.st = .issued (.dev (s.lineAddr l)) →
      s.linesOf (s.lineAddr l) r.len = [l] → s.waitsOff r (s.lineAddr l) = false →
      exec (.uwr u false) s = .next ((s.emit (.cmpw (0x190 + b2n b) (s.lineOf (s.lineAddr l)))).dropReq id).goOn) ∧
    (r.acc = .write → (s.lineBytes r l).all (·.isNone) = false → s.admissible (op .uwr) s.lin.waits = true → ∃ t, exec (.uwr u false) s = .next t ∧
      (s.lentry? l = none → t.lin.opens = s.lin.opens ++ [{ op .uwr with homeW := true }] ∧ s.only [.lin] t) ∧
      (∀ e, s.lentry? l = some e → snoops t ((s.holders e).map fun h => (h, l, 1)) ∧
        t.lin.opens = s.lin.opens ++ [{ op .uwr with way := some e.way, snoops := s.holders e, homeW := (s.holders e).isEmpty }] ∧
        s.only [.lin, .out, .tileQ] t)) ∧
    (r.acc = .write → (s.lineBytes r l).all (·.isNone) = false → s.lentry? l = none → ∀ g, s.hintFor r l = some g → s.hintTarget r g = true →
      (s.admissible { op .uwr with hint := some g } s.lin.waits = true → ∀ wy, s.freeWay (lineSet l) = some wy →
        ∃ t, exec (.uwr u true) s = .next t ∧
          t.lin.opens = s.lin.opens ++ [{ op .uwr with way := some wy, hint := some g, homeW := true }] ∧ s.only [.lin] t)) ∧
    (r.acc = .atomic → s.admissible (op .atm) s.lin.waits = true →
      (s.lentry? l = none → ∃ t, exec (.atm u) s = .next t ∧ t.lin.opens = s.lin.opens ++ [{ op .atm with homeW := true }] ∧ s.only [.lin] t) ∧
      (∀ e, s.lentry? l = some e → s.holders e ≠ [] → ∃ t, exec (.atm u) s = .next t ∧ snoops t ((s.holders e).map fun h => (h, l, 1)) ∧
        t.lin.opens = s.lin.opens ++ [{ op .atm with way := some e.way, snoops := s.holders e }] ∧ s.only [.lin, .out, .tileQ] t))

/-- R321, R329, R331, R336, R337: what comes back to the directory. A response is taken up for its agent, and one of an older epoch is
dropped; an owner's data goes to the requester that asked for ownership. A home read ends an RDS with the line, or with the poison mark,
in E where no other agent holds it and in S where others do. A home write stores the line, or the enabled bytes, and an atomic's answers
with the old value. A writeback that no snoop is waiting for is written home and its owner's entry goes; one that a snoop crossed is kept
for it, or taken by it at once. -/
def Obligations.DirectoryAnswersAreTaken : Prop :=
  (∀ (s : State) (a : Fin 74) (line : Nat) (ep : Byte), ep ≠ s.agentEpoch a.val →
    (∀ r, s.admits (.snoopResponse a line ⟨ep, r⟩) = true → exec (.snoopResponse a line ⟨ep, r⟩) s = .next s) ∧
    (∀ d, s.admits (.wbd a line ⟨ep, d⟩) = true → exec (.wbd a line ⟨ep, d⟩) s = .next s)) ∧
  (∀ (s : State) (a : Fin 74) (line : Nat) (ep : Byte) (x : Txn), ep = s.agentEpoch a.val → (∀ r, s.admits (.snoopResponse a line ⟨ep, r⟩) = true) →
    s.txn? line = some x → a.val ∈ x.snoops → (∀ w ∈ s.lin.wbs, w.1 = a.val → w.2.1 ≠ line) →
    let y := { x with snoops := x.snoops.erase a.val }
    exec (.snoopResponse a line ⟨ep, .wbInFlight⟩) s = .next (s.putTxn { y with wbWait := x.wbWait ++ [a.val] }) ∧
    (∀ d, s.admits (.wbd a line ⟨ep, d⟩) = true → s.wbWaited a.val line = false → s.isLine line = true → s.linServes = true →
      exec (.wbd a line ⟨ep, d⟩) s = .next (if s.wbHeld a.val < 4 then
        { s with lin := { s.lin with wbs := s.lin.wbs ++ [(a.val, line, d.take 64)] } } else s)) ∧
    (y.snoops ≠ [] → x.wbWait = [] →
      (∀ d, exec (.snoopResponse a line ⟨ep, .data d⟩) s = .next (s.putTxn { y with dirty := some (d.take 64) })) ∧
      exec (.snoopResponse a line ⟨ep, .clean⟩) s = .next (s.putTxn y) ∧
      exec (.snoopResponse a line ⟨ep, .rspI⟩) s = .next (s.putTxn { y with gone := x.gone ++ [a.val] })) ∧
    (y.snoops = [] → x.wbWait = [] → x.victim = none → x.kind = .rdx → x.homeW = false → x.orphan = false → s.lin.conflicts = [] →
      ∀ d, ∃ t, exec (.snoopResponse a line ⟨ep, .data d⟩) s = .next t ∧ t.out = s.out ++ [.cmpd x.agent line 2 (.data (d.take 64))] ∧
        t.txn? line = none ∧ (∃ e, t.lentry? line = some e ∧ e.st = .ex ∧ e.ptrs = [x.agent]) ∧ s.only [.lin, .out, .lka] t)) ∧
  (∀ (s : State) (a : Fin 74) (v : Nat) (ep : Byte) (x : Txn), ep = s.agentEpoch a.val → (∀ r, s.admits (.snoopResponse a v ⟨ep, r⟩) = true) →
    s.lin.opens = [x] → x.line ≠ v → x.victim = some { line := v, due := [a.val] } → (∀ w ∈ s.lin.wbs, w.1 = a.val → w.2.1 ≠ v) →
    exec (.snoopResponse a v ⟨ep, .wbInFlight⟩) s =
      .next (s.putTxn { x with victim := some { line := v, due := [], wbWait := [a.val] } }) ∧
    (∀ d, exec (.snoopResponse a v ⟨ep, .data d⟩) s = .next (s.putTxn { x with victim := some { line := v, due := [], dirty := some (d.take 64) } })) ∧
    (x.snoops ≠ [] → exec (.snoopResponse a v ⟨ep, .clean⟩) s = .next ((s.dropEntry v).putTxn { x with victim := none }))) ∧
  (∀ (s : State) (a : Fin 74) (line : Nat) (ep : Byte) (d : Bytes), ep = s.agentEpoch a.val → s.admits (.wbd a line ⟨ep, d⟩) = true →
    s.isLine line = true → s.linServes = true →
    (s.snoopDue a.val line = false → d.length = 64 → s.veil = [] → Memory.wf s.mem = true → ∃ t, exec (.wbd a line ⟨ep, d⟩) s = .next t ∧
      (∀ b, Memory.read t.mem b = if s.lineAddr line ≤ b ∧ b < s.lineAddr line + 64 then d.getD (b - s.lineAddr line) 0 else Memory.read s.mem b) ∧
      (∀ e, s.lentry? line = some e → e.st = .ex → e.ptrs.head? = some a.val → t.lentry? line = none) ∧
      t.out = s.out ++ [.wback a.val line] ∧ s.only [.mem, .poison, .veil, .lka, .lin, .out] t) ∧
    (∀ x, s.txn? line = some x → x.wbWait = [a.val] → x.snoops = [] → x.victim = none → x.kind = .rdx → x.homeW = false → x.orphan = false →
      s.proofSnoop a.val line = false → s.lin.conflicts = [] →
      ∃ t, exec (.wbd a line ⟨ep, d⟩) s = .next t ∧ t.lin.ncross = sat48 s.lin.ncross 1 ∧
        t.out = s.out ++ [.wback a.val line, .cmpd x.agent line 2 (.data (d.take 64))] ∧ t.txn? line = none ∧ s.only [.lin, .out, .lka] t)) ∧
  (∀ (s : State) (line : Nat) (x : Txn), s.serving 8 0 = true → s.txn? line = some x → x.homeR = true → x.homeD = none →
    let d : Reply := if s.poisoned (s.lineAddr line) 64 then .error .poison else .data (s.readMem (s.lineAddr line) 64)
    ∀ w, (x.snoops ≠ [] → exec (.homeReadReturn line (.data w)) s = .next (s.putTxn { x with homeD := some d })) ∧
    (x.kind = .rds → x.snoops = [] → x.wbWait = [] → x.victim = none → x.homeW = false → x.dirty = none → x.crossed = false →
      x.orphan = false → s.lin.conflicts = [] → ∃ t, exec (.homeReadReturn line (.data w)) s = .next t ∧ t.txn? line = none ∧
      (s.lentry? line = none → t.out = s.out ++ [.cmpd x.agent line 1 d] ∧
        ∃ e, t.lentry? line = some e ∧ e.st = .ex ∧ e.ptrs = [x.agent]) ∧
      (∀ e, s.lentry? line = some e → e.st = .sh → x.agent ∉ e.ptrs → t.out = s.out ++ [.cmpd x.agent line 0 d] ∧
        ∃ f, t.lentry? line = some f ∧ (e.ptrs.length < 4 → f.st = .sh ∧ f.ptrs = e.ptrs ++ [x.agent]) ∧
          (4 ≤ e.ptrs.length → f.st = .shb ∧ f.ptrs = [])) ∧ s.only [.lin, .out, .lka] t)) ∧
  (∀ (s : State) (line : Nat) (x : Txn), s.serving 8 0 = true → s.txn? line = some x → x.homeW = true → x.snoops = [] → x.wbWait = [] →
    x.victim = none → s.veil = [] → Memory.wf s.mem = true → s.seam.flight = [] → (∀ q ∈ s.reqs, q.owner.isExt = false) →
    (∀ t ∈ s.lin.opens, t.victim.any (fun v => v.line == line && v.due.isEmpty && v.wbWait.isEmpty && v.dirty.isSome) = false) →
    ∀ id r b, s.req? id = some r → r.st = .issued (.dev b) → x.ureq = some (.held id line) →
    (∀ n i, x.kind = .uwr → x.dirty = none → x.hint = none → r.owner = .cmpUpdate n i → ∃ t, exec (.homeWriteResponse line) s = .next t ∧
      (∀ k, Memory.read t.mem k = if s.lineAddr line ≤ k ∧ k < s.lineAddr line + 64 then
        ((s.lineBytes r line).getD (k - s.lineAddr line) none).getD (Memory.read s.mem k) else Memory.read s.mem k) ∧
      t.lentry? line = none ∧ t.txn? line = none ∧ (∃ q, t.req? id = some q ∧ (line, []) ∈ q.lines)) ∧
    (∀ n i, x.kind = .atm → x.dirty = none → r.owner = .tile n i → r.grp = 0 → s.poisoned b r.len = false → 0 < r.len → s.lin.conflicts = [] →
      ∃ t, exec (.homeWriteResponse line) s = .next t ∧ t.out = s.out ++ [.tileRsp n i (.data (Memory.readAll s.mem b r.len))] ∧
      Memory.readAll t.mem b r.len = toLE r.len (atomResult r.op r.len (leNat (Memory.readAll s.mem b r.len)) r.x r.y) ∧
      (∀ k, k < b ∨ b + r.len ≤ k → Memory.read t.mem k = Memory.read s.mem k) ∧ t.lentry? line = none ∧ t.txn? line = none)) ∧
  (∀ (s : State) (v : Nat) (x : Txn) (d : Bytes), s.serving 8 0 = true → s.lin.opens.find? (fun t => t.victim.any fun v' =>
      v'.line == v && v'.due.isEmpty && v'.wbWait.isEmpty && v'.dirty.isSome) = some x → x.victim = some { line := v, due := [], dirty := some d } →
    x.snoops ≠ [] → d.length = 64 → s.veil = [] → Memory.wf s.mem = true → ∃ t, exec (.homeWriteResponse v) s = .next t ∧
      (∀ k, Memory.read t.mem k = if s.lineAddr v ≤ k ∧ k < s.lineAddr v + 64 then d.getD (k - s.lineAddr v) 0 else Memory.read s.mem k) ∧
      t.lentry? v = none ∧ t.lin.opens = s.lin.opens.map (fun y => if y.line == x.line then { x with victim := none } else y))

/-- R333 to R335, R348: the host's side of the window. A request for a line it may hold is the directory's request of that kind; one that
leaves nothing with the host is an uncached access. An access outside the window is counted as a violation, and a read brings poison.
While the window is disabled its lines are ordinary memory. A writeback of a line that the host owns, or for which a snoop is open to it,
keeps the home's bytes where it enables none. A conflict with no earlier request of the host to its line is acknowledged at once, and any
other when they are over. A snoop of a host memory line is answered that nothing is held. -/
def Obligations.HostAgentRequests : Prop :=
  (∀ (s : State) (b : Bool) (addr : BitVec 52), (∀ op, s.admits (.cxlMemRequest b addr op) = true) → s.inBounds addr.toNat = false →
    (∀ op, op ≠ .memWrFwd → (∀ d en f, op ≠ .memWr d en f) → ∃ t, exec (.cxlMemRequest b addr op) s = .next t ∧
      t.out = s.out ++ [.cxlPoison b] ∧ s.only [.out, .err, .ic] t ∧
      ((s.err.cnt.get 0 1).toNat < 0xFFFFFFFF → t.err.cnt.get 0 1 = s.err.cnt.get 0 1 + 1)) ∧
    (∀ d en f, ∃ t, exec (.cxlMemRequest b addr (.memWr d en f)) s = .next t ∧ s.only [.err, .ic] t)) ∧
  (∀ (s : State) (b : Bool) (addr : BitVec 52), (∀ op, s.admits (.cxlMemRequest b addr op) = true) → s.inBounds addr.toNat = true →
    s.linServes = false → let l := s.lineOf addr.toNat
    (∀ op, op = .memRdS ∨ op = .memRdData ∨ op = .memRdA ∨ op = .memRdI →
      exec (.cxlMemRequest b addr op) s = .next (s.emit (.cmpo (0x190 + b2n b) l (s.homeLine l)))) ∧
    (∀ d en f, d.length = 64 → s.veil = [] → Memory.wf s.mem = true → ∃ t, exec (.cxlMemRequest b addr (.memWr d en f)) s = .next t ∧
      (∀ k, Memory.read t.mem k = if s.lineAddr l ≤ k ∧ k < s.lineAddr l + 64 ∧ enabledAt en (k - s.lineAddr l) = true then
        d.getD (k - s.lineAddr l) 0 else Memory.read s.mem k) ∧
      t.out = s.out ++ [.cmpw (0x190 + b2n b) l] ∧ s.only [.mem, .poison, .veil, .lka, .out] t)) ∧
  (∀ (s : State) (b : Bool) (addr : BitVec 52) (ag : Fin 74), (∀ op, s.admits (.cxlMemRequest b addr op) = true) → ag.val = 72 + b2n b →
    s.inBounds addr.toNat = true → s.linServes = true → let l := s.lineOf addr.toNat
    (∀ o, o = .memRdS ∨ o = .memRdData → exec (.cxlMemRequest b addr o) s = .next (s.agentReq ag.val l .rds)) ∧
    exec (.cxlMemRequest b addr .memRdA) s = .next (s.agentReq ag.val l .rdx) ∧
    exec (.cxlMemRequest b addr .memInvA) s = .next (s.agentReq ag.val l .upg) ∧
    (∀ o, o = .memInvI ∨ o = .memInvNT ∨ o = .memClnEvct → exec (.cxlMemRequest b addr o) s = .next (s.agentReq ag.val l .evc)) ∧
    (∀ o, o = .memSpecRd ∨ o = .memRdFwd ∨ o = .memWrFwd → exec (.cxlMemRequest b addr o) s = .next s) ∧
    (∀ k c, (k = .rds ∧ c = .rds ag l) ∨ (k = .rdx ∧ c = .rdx ag l) ∨ (k = .upg ∧ c = .upg ag l) ∨ (k = .evc ∧ c = .evc ag l) →
      s.admits c = true → exec c s = .next (s.agentReq ag.val l k)) ∧
    (s.lineBusy l = true → ∃ t r, exec (.cxlMemRequest b addr .memRdI) s = .next t ∧ t.reqs = s.reqs ++ [r] ∧ r.id = s.nextId ∧
      t.nextId = s.nextId + 1 ∧ r.owner = .cxlRd b ∧ r.acc = .read ∧ r.st = .issued (.dev (s.lineAddr l)) ∧ r.len = 64 ∧
      (t.orderHeld r = true → t.lin = s.lin) ∧
      (t.orderHeld r = false →
        t.lin = { s.lin with waits := s.lin.waits ++ [{ line := l, kind := .nar, ureq := some (.held s.nextId l), host := some b }] }) ∧
      s.only [.reqs, .nextId, .lin] t) ∧
    (∀ d en f, s.snoopDue ag.val l = false → s.hostOwns ag.val l = false → s.lineBusy l = true →
      (∃ i, i < 64 ∧ i < d.length ∧ enabledAt en i = true) →
      ∃ t r, exec (.cxlMemRequest b addr (.memWr d en f)) s = .next t ∧ t.reqs = s.reqs ++ [r] ∧ r.id = s.nextId ∧ t.nextId = s.nextId + 1 ∧
        r.owner = .cxlWr b ∧ r.acc = .write ∧ r.st = .issued (.dev (s.lineAddr l)) ∧ r.data = d.take 64 ∧ r.en = en ∧
        (t.orderHeld r = true → t.lin = s.lin) ∧
        (t.orderHeld r = false → t.lin = { s.lin with waits := s.lin.waits ++
          [{ line := l, kind := .uwr, ureq := some (.held s.nextId l), host := some b,
             hint := if f && (s.hintFor r l).any (s.hintTarget r) then s.hintFor r l else none }] }) ∧
        s.only [.reqs, .nextId, .lin] t) ∧
    (∀ d en f, s.snoopDue ag.val l = true ∨ s.hostOwns ag.val l = true →
      exec (.cxlMemRequest b addr (.memWr d en f)) s = .next (s.takeWbd ag.val l ((List.range 64).map fun i =>
        if enabledAt en i then d.getD i 0 else (s.readMem (s.lineAddr l) 64).getD i 0))) ∧
    (∀ d f, s.snoopDue ag.val l = true ∨ s.hostOwns ag.val l = true → d.length = 64 → s.admits (.wbd ag l ⟨s.agentEpoch ag.val, d⟩) = true →
      exec (.cxlMemRequest b addr (.memWr d [] f)) s = exec (.wbd ag l ⟨s.agentEpoch ag.val, d⟩) s)) ∧
  (∀ (s : State) (b : Bool) (line : Nat), s.admits (.biconflict b line) = true →
    (s.hostReqs b line = 0 → exec (.biconflict b line) s = .next { s with out := s.out ++ [.biAck b line] }) ∧
    (∀ n, s.hostReqs b line = n → 0 < n →
      exec (.biconflict b line) s = .next { s with lin := { s.lin with conflicts := s.lin.conflicts ++ [(b, line, n)] } })) ∧
  (∀ (s : State) (b : Bool) (addr : BitVec 64), s.admits (.h2dSnoop b addr) = true →
    exec (.h2dSnoop b addr) s = .next { s with out := s.out ++ [.rspIHitI b addr.toNat] })

/-- R336, R338, R344, R345: agents and the window as a whole. A LEAVE of an active tile or core agent makes it inactive and starts its
sweep, a JOIN of an inactive one makes it active; either is refused while a sweep runs, and only partition 0 asks. A sweep that has no
entry left to do ends and sets SYSEV.SWEEP; the agent of a LEAVE has then left, and its epoch rises. DISABLE starts the recall of every
entry and the window's end; ENABLE has every row-cache entry of the range removed first. A probe copies a line's entry and changes nothing
else. -/
def Obligations.AgentsAndWindowChange : Prop :=
  (∀ (s : State) (w : Who) (a : BitVec 7), s.takes w (.agctlLeave w a) = true → s.takes w (.agctlJoin w a) = true →
    (isMgr w = false → exec (.agctlLeave w a) s = .next s ∧ exec (.agctlJoin w a) s = .next s) ∧
    (isMgr w = true → s.linBusy = true ∨ 71 < a.toNat ∨ s.lin.active.getLsbD a.toNat = false →
      exec (.agctlLeave w a) s = .next { s with lin := { s.lin with refused := true } }) ∧
    (isMgr w = true → s.linBusy = true ∨ 71 < a.toNat ∨ s.lin.active.getLsbD a.toNat = true →
      exec (.agctlJoin w a) s = .next { s with lin := { s.lin with refused := true } }) ∧
    (isMgr w = true → s.linBusy = false → a.toNat ≤ 71 →
      (s.lin.active.getLsbD a.toNat = true → ∃ t, exec (.agctlLeave w a) s = .next t ∧
        (∀ i, i < 74 → t.lin.active.getLsbD i = (s.lin.active.getLsbD i && i != a.toNat)) ∧ t.lin.sweeps = s.lin.sweeps ++ [(a.toNat, false)] ∧
        (∀ e, s.lin.ents = [e] → a.toNat ∈ e.ptrs → s.lin.opens = [] → s.lin.waits = [] →
          t.out = (s.snoopAll [(a.toNat, e.line, 1)]).out ∧ t.tileQ = (s.snoopAll [(a.toNat, e.line, 1)]).tileQ ∧
          t.lin.opens = [{ line := e.line, kind := .sweep, agent := a.toNat, way := some e.way, snoops := [a.toNat] }] ∧
          s.only [.lin, .out, .tileQ] t) ∧
        ((∀ e ∈ s.lin.ents, a.toNat ∉ e.ptrs) → (∀ x ∈ s.lin.opens, x.ofAgent a.toNat = false) →
          t.lin.waits = s.lin.waits.filter (fun x => !x.ofAgent a.toNat) ∧ s.only [.lin] t)) ∧
      (s.lin.active.getLsbD a.toNat = false → ∃ t, exec (.agctlJoin w a) s = .next t ∧
        (∀ i, i < 74 → t.lin.active.getLsbD i = (s.lin.active.getLsbD i || i == a.toNat)) ∧ s.only [.lin] t))) ∧
  (∀ (s : State) (a : Nat) (dead : Bool), s.serving 8 0 = true → s.lin.sweeps = [(a, dead)] → a < 74 →
    (∀ x ∈ s.lin.opens ++ s.lin.waits, x.agent = a → x.kind ≠ .sweep ∧ x.ofAgent a = false) →
    (dead = true → ∃ t, exec .agentSweepEnd s = .next t ∧ t.lin.sweeps = [] ∧ t.ic.sysev = s.ic.sysev ||| 0x100 ∧ s.only [.lin, .ic] t) ∧
    (dead = false → (∀ e ∈ s.lin.ents, a ∉ e.ptrs) → (∀ x ∈ s.lin.opens, a ∉ x.snoops ∧ a ∉ x.wbWait ∧ x.victim = none) →
      ∃ t, exec .agentSweepEnd s = .next t ∧ t.lin.sweeps = [] ∧ t.agentEpoch a = s.agentEpoch a + 1 ∧
        t.lin.wbs = s.lin.wbs.filter (fun x => x.1 != a) ∧ t.ic.sysev = s.ic.sysev ||| 0x100 ∧ s.only [.lin, .ic] t) ∧
    (∀ e, dead = false → s.lin.ents = [e] → a ∈ e.ptrs → s.lin.opens = [] → s.lin.waits = [] → ∃ t, exec .agentSweepEnd s = .next t ∧
      t.lin.sweeps = s.lin.sweeps ∧
      t.lin.opens = [{ line := e.line, kind := .sweep, agent := a, way := some e.way, snoops := [a] }] ∧ s.only [.lin, .out, .tileQ] t)) ∧
  (∀ (s : State) (w : Who), s.takes w (.linDisable w) = true → s.takes w (.linEnable w) = true →
    (isMgr w = false → exec (.linDisable w) s = .next s ∧ exec (.linEnable w) s = .next s) ∧
    (isMgr w = true → s.lin.en = false → exec (.linDisable w) s = .next s) ∧
    (isMgr w = true → s.lin.en = true → ∃ t, exec (.linDisable w) s = .next t ∧ t.lin.en = false ∧ t.lin.flushing = true ∧
      (s.lin.ents = [] → s.only [.lin] t) ∧
      (∀ e, s.lin.ents = [e] → s.lin.opens = [] → s.lin.waits = [] → s.holders e ≠ [] →
        t.out = (s.snoopAll ((s.holders e).map fun h => (h, e.line, 1))).out ∧
        t.lin.opens = [{ line := e.line, kind := .flush, way := some e.way, snoops := s.holders e }] ∧ s.only [.lin, .out, .tileQ] t)) ∧
    (isMgr w = true → s.lin.en = false → s.lin.flushing = false → s.lin.size ≠ 0 → exec (.linEnable w) s =
      .next { s.toTiles (.rowRange s.lin.base (s.lin.size * 2 ^ 30)) with lin := { s.lin with en := true } }) ∧
    (isMgr w = true → s.lin.en = true ∨ s.lin.flushing = true ∨ s.lin.size = 0 → exec (.linEnable w) s = .next s)) ∧
  (∀ (s : State), s.serving 8 0 = true →
    (s.lin.flushing = true → s.lin.ents = [] → s.lin.opens = [] → s.lin.waits = [] → ∃ t, exec .flushSweepEnd s = .next t ∧
      t.lin.flushing = false ∧ t.ic.sysev = s.ic.sysev ||| 0x100 ∧ s.only [.lin, .ic] t) ∧
    (s.lin.flushing = false → exec .flushSweepEnd s = .next s) ∧
    (s.lin.flushing = true → s.lin.ents ≠ [] → (∀ e ∈ s.lin.ents, ∃ x ∈ s.lin.opens ++ s.lin.waits, x.line = e.line ∧ x.kind = .flush) →
      exec .flushSweepEnd s = .next s)) ∧
  (∀ (s : State) (w : Who) (addr : W64), s.takes w (.linProbe w addr) = true →
    (isMgr w = false → exec (.linProbe w addr) s = .next s) ∧
    (isMgr w = true → ∃ t, exec (.linProbe w addr) s = .next t ∧ s.only [.lin] t ∧ t.lin.prba.toNat = bits addr.toNat 51 6 * 64 ∧
      t.lin.prbd.getLsbD 63 = true ∧ t.lin.ents = s.lin.ents ∧
      (s.lin.size ≠ 0 → s.lin.base ≤ t.lin.prba.toNat → s.isLine (s.lineOf t.lin.prba.toNat) = true →
        bits t.lin.prbd.toNat 16 0 = lineSet (s.lineOf t.lin.prba.toNat) % 2 ^ 17 ∧
        (∀ e, s.lentry? (s.lineOf t.lin.prba.toNat) = some e → (∀ p ∈ e.ptrs, p < 128) → e.way < 16 → e.ptrs.length ≤ 4 →
          t.lin.prbd.getLsbD 62 = true ∧ bits t.lin.prbd.toNat 61 59 = e.st.code ∧ bits t.lin.prbd.toNat 34 28 = e.ptrs.getD 0 0x7F ∧
          bits t.lin.prbd.toNat 55 49 = e.ptrs.getD 3 0x7F ∧ bits t.lin.prbd.toNat 27 24 = e.way) ∧
        (s.lentry? (s.lineOf t.lin.prba.toNat) = none → t.lin.prbd.getLsbD 62 = false ∧ bits t.lin.prbd.toNat 61 59 = 0))))

/-- R44, R288, R337, R348, R357, R360: BAR2. Each granule of a write passes by its window, else by the partition's grants, and the enabled
bytes of those that pass are stored; what a counted window passes its tally counts. A read or an atomic that meets an unassigned granule,
an atomic of another width than 4 or 8 bytes, or one that an insecure stream covers, is completed with Unsupported Request, and one that
is not granted or meets a closed port with Completer Abort; else it brings its bytes, or poison. What the coherent window covers, or must
wait, goes into the pool. A read of no byte brings bytes that nothing constrains. -/
def Obligations.Bar2AccessesAreChecked : Prop :=
  ∀ (s : State) (p : Fin 16) (addr : BitVec 52),
    let a := addr.toNat
    let goes := s.fnServes p.val = true
    (∀ data en, s.admits (.bar2Write p addr data en) = true →
      (s.fnServes p.val = false ∨ s.inBar p.val a data.length = false ∨ s.ideBar2 p.val a data.length = true →
        exec (.bar2Write p addr data en) s = .next s) ∧
      (goes → s.inBar p.val a data.length = true → s.ideBar2 p.val a data.length = false → s.veil = [] →
        Memory.wf s.mem = true → ∃ t, exec (.bar2Write p addr data en) s = .next t ∧
        (∀ b, Memory.read t.mem b = if a ≤ b ∧ b < a + data.length ∧ enabledAt en (b - a) = true ∧ (s.fateOf p.val (b / 64)).ok = true ∧
          s.pools p.val b 1 = false then data.getD (b - a) 0 else Memory.read s.mem b) ∧
        ((∀ g ∈ granules a data.length, 0 < enabledIn a data.length en g → (s.fateOf p.val g).ok = true) → t.err = s.err) ∧
        (∀ g, granules a data.length = [g] → 0 < enabledIn a data.length en g →
          (s.fateOf p.val g = .refused → (s.err.cnt.get 0 1).toNat < 0xFFFFFFFF → t.err.cnt.get 0 1 = s.err.cnt.get 0 1 + 1) ∧
          (∀ k, s.fateOf p.val g = .counted k → (∀ i, i < data.length → s.pools p.val (a + i) 1 = false) →
            t.tally k = (s.tally k).plus ((s.tally k).amount (enabledIn a data.length en g))) ∧
          (s.fateOf p.val g = .plain → (∀ i, i < data.length → s.pools p.val (a + i) 1 = true) →
            ∃ r, t.reqs = s.reqs ++ [r] ∧ r.owner = .bar2Wr (s.linkOf p.val) p.val [] ∧ r.va = a ∧ r.data = data ∧ r.st = .issued (.dev a))) ∧
        s.only [.mem, .poison, .veil, .reqs, .nextId, .tileQ, .out, .lka, .seam, .tal, .ic, .prt, .err, .obs] t)) ∧
    (∀ len any, s.admits (.bar2Read p addr len any) = true →
      (s.aon.boot ≠ .ready ∨ s.inBar p.val a len = false → exec (.bar2Read p addr len any) s = .next s) ∧
      (s.aon.boot = .ready → s.inBar p.val a len = true → s.fnServes p.val = false ∨ s.ideBar2 p.val a len = true →
        exec (.bar2Read p addr len any) s = .next { s with out := s.out ++ [.bar2Ur p.val] })) ∧
    (∀ op len x y, s.admits (.bar2Atomicop p addr op len x y) = true →
      (s.aon.boot ≠ .ready ∨ s.inBar p.val a len = false → exec (.bar2Atomicop p addr op len x y) s = .next s) ∧
      (s.aon.boot = .ready → s.inBar p.val a len = true → s.fnServes p.val = false ∨ s.ideBar2 p.val a len = true ∨ (len ≠ 4 ∧ len ≠ 8) →
        exec (.bar2Atomicop p addr op len x y) s = .next { s with out := s.out ++ [.bar2Ur p.val] })) ∧
    (∀ len, goes → s.inBar p.val a len = true → s.ideBar2 p.val a len = false →
      let un := (granules a len).any fun g => region (64 * g) == .unassigned
      let ok (acc : Acc) := (granules a len).all fun g => s.grantedAt p.val (64 * g) acc false
      (s.admits (.bar2Read p addr len false) = true → s.fresh →
        (∀ x ∈ s.reqs, x.src.toNat = s.portSrc p.val → ∀ g ∈ x.devGranules, g ∉ granules a len) →
        ∃ t d, exec (.bar2Read p addr len false) s = .next t ∧ d.length = 4 ∧ t.out = s.out ++ [.bar2Data p.val d] ∧ t.free = s.free + 4 ∧
          t.reqs = s.reqs ∧ s.only [.out, .free, .nextId, .trn] t) ∧
      (s.admits (.bar2Read p addr len true) = true →
        (un = true → ∃ t, exec (.bar2Read p addr len true) s = .next t ∧ t.out = s.out ++ [.bar2Ur p.val] ∧ s.only [.out, .err, .ic] t) ∧
        (un = false → ok .read = false ∨ s.anyClosed a len = true → ∃ t, exec (.bar2Read p addr len true) s = .next t ∧
          t.out = s.out ++ [.bar2Ca p.val] ∧ s.only [.out, .err, .ic] t) ∧
        (un = false → ok .read = true → s.anyClosed a len = false → s.pools p.val a len = false →
          ∃ t, exec (.bar2Read p addr len true) s = .next t ∧
          t.out = s.out ++ [if s.poisoned a len then .bar2Poison p.val else .bar2Data p.val (s.readMem a len)] ∧ s.only [.out, .prt, .obs] t) ∧
        (un = false → ok .read = true → s.anyClosed a len = false → s.pools p.val a len = true → ∃ t r,
          exec (.bar2Read p addr len true) s = .next t ∧ t.reqs = s.reqs ++ [r] ∧ r.owner = .bar2Rd (s.linkOf p.val) p.val ∧ r.va = a ∧
          r.len = len ∧ r.st = .issued (.dev a) ∧ s.only [.reqs, .nextId, .prt, .obs] t)) ∧
      (∀ op x y, s.admits (.bar2Atomicop p addr op len x y) = true → len = 4 ∨ len = 8 →
        (un = true → ∃ t, exec (.bar2Atomicop p addr op len x y) s = .next t ∧ t.out = s.out ++ [.bar2Ur p.val] ∧ s.only [.out, .err, .ic] t) ∧
        (un = false → ok .atomic = true → s.anyClosed a len = false → s.pools p.val a len = false → s.poisoned a len = false → s.veil = [] →
          Memory.wf s.mem = true → ∃ t, exec (.bar2Atomicop p addr op len x y) s = .next t ∧
          t.out = s.out ++ [.bar2Data p.val (Memory.readAll s.mem a len)] ∧
          Memory.readAll t.mem a len = toLE len (atomResult op len (leNat (Memory.readAll s.mem a len)) x y) ∧
          (∀ b, b < a ∨ a + len ≤ b → Memory.read t.mem b = Memory.read s.mem b) ∧
          s.only [.mem, .poison, .veil, .out, .lka, .prt, .obs] t)))

/-- R51, R362 to R366: the fence and completions. A fence read completes when the link's earlier posted writes have finished, and counts
itself; a tailor core's completes at once and orders nothing. A completion brings bytes of the request that waits for it, and the last of
them ends it; one of a quarantined tag is late and counted, any other is unexpected, and AER notes it. A request that times out meets a
bus error, is reported, and its tag is kept out of use until its quarantine ends. What waits for a tag then goes on. -/
def Obligations.FencesAndHostCompletions : Prop :=
  (∀ (s : State) (p : Fin 16), s.takes (.fn p) (.hostFenceRead (.fn p)) = true →
    let l := s.linkOf p.val
    (s.link l).fences = [] →
    (s.postedBefore l s.nextId = false → ∃ t, exec (.hostFenceRead (.fn p)) s = .next t ∧
      t.out = s.out ++ [.regRead (.fn p) (BitVec.ofNat 64 (2 ^ 31 + l * 2 ^ 16 + ((s.link l).seq + 1).toNat))] ∧
      t.link l = { s.link l with seq := (s.link l).seq + 1 } ∧ s.only [.out, .host] t) ∧
    (s.postedBefore l s.nextId = true → ∃ t, exec (.hostFenceRead (.fn p)) s = .next t ∧
      t.link l = { s.link l with fences := [(.fn p, s.nextId)] } ∧ s.only [.host] t)) ∧
  (∀ (s : State) (c : Fin 8), s.takes (.core c) (.hostFenceRead (.core c)) = true →
    exec (.hostFenceRead (.core c)) s = .next { s with out := s.out ++ [.regRead (.core c) (BitVec.ofNat 64 (2 ^ 31 + 4 * 2 ^ 16))] }) ∧
  (∀ (s : State) (link : Fin 4) (tag off : Nat) (x : Reply), s.serving 9 (link.val / 2) = true →
    (∀ c ∈ s.gal.cmds, c.ftag ≠ some tag) → (∀ f ∈ s.obs.flush, f.2 ≠ tag) →
    (∀ r a ats, s.req? tag = some r → r.st = .sent (.host a ats) → s.linkOf r.part = link.val → off < r.len → r.covers a off = false →
      let r1 := { r with pieces := r.pieces ++ [(off, x)] }
      (r1.whole a = false → exec (.hostCompletion link tag ⟨off, x⟩) s = .next ((s.setReq r1).release fun y => y.part == r.part)) ∧
      (r1.whole a = true → ∃ u, exec (.hostCompletion link tag ⟨off, x⟩) s = .next (u.release fun y => y.part == r.part) ∧
        s.only [.reqs, .out, .trn, .rcd] u ∧
        (∀ k n, r.owner = .tile k n → r.grp = 0 → u.out = s.out ++ [.tileRsp k n r1.hostReply] ∧ u.req? tag = none) ∧
        (∀ n i, r.owner = .cmpStream n i → u.out = s.out ∧
          u.req? tag = some { r1 with st := match r1.hostReply with | .data b => .have (.host a ats) b | .error e => .failed (.host a ats) e }))) ∧
    (∀ r, s.req? tag = some r → (∀ a ats, r.st ≠ .sent (.host a ats)) ∨ s.linkOf r.part ≠ link.val ∨ r.len ≤ off →
      ∃ t, exec (.hostCompletion link tag ⟨off, x⟩) s = .next t ∧ t.out = s.out ++ [.unexpected link.val tag] ∧
        (t.fn (s.pfOf link.val)).aer = setBit (s.fn (s.pfOf link.val)).aer 16 true ∧ s.only [.out, .host] t) ∧
    (s.req? tag = none → (∀ r ∈ s.orphans, r.id ≠ tag) →
      (∀ q, s.host.quar.find? (fun l => l.link == link.val && l.tag == tag) = some q → q.proof = false →
        ∃ t, exec (.hostCompletion link tag ⟨off, x⟩) s = .next t ∧ t.host = { s.host with late := sat48 s.host.late 1 } ∧ s.only [.host, .rcd] t) ∧
      (∀ q, s.host.quar.find? (fun l => l.link == link.val && l.tag == tag) = some q → q.proof = true →
        exec (.hostCompletion link tag ⟨off, x⟩) s = .next s) ∧
      ((∀ l ∈ s.host.quar, l.tag ≠ tag) → (∀ n, n < 16 → ∀ h ∈ (s.lk n).held, h.id ≠ tag) →
        ∃ t, exec (.hostCompletion link tag ⟨off, x⟩) s = .next t ∧ t.out = s.out ++ [.unexpected link.val tag] ∧
          (t.fn (s.pfOf link.val)).aer = setBit (s.fn (s.pfOf link.val)).aer 16 true ∧ s.only [.out, .host] t))) ∧
  (∀ (s : State) (link : Fin 4) (tag : Nat),
    ((s.link link.val).ctoDis = true → exec (.completionTimeout link tag) s = .next s) ∧
    (∀ r a ats, (s.link link.val).ctoDis = false → s.req? tag = some r → r.st = .sent (.host a ats) → s.linkOf r.part = link.val →
      ∃ u, exec (.completionTimeout link tag) s = .next (u.release fun y => s.linkOf y.part == link.val) ∧ s.only [.reqs, .out, .trn, .host] u ∧
        u.host.quar = s.host.quar ++ [{ link := link.val, tag := tag, proof := false, time := s.now, part := r.part, src := r.src }] ∧
        (u.fn r.part).aer = setBit (s.fn r.part).aer 14 true ∧
        (∀ k n, r.owner = .tile k n → r.grp = 0 →
          u.out = s.out ++ [.cplTimeout r.part, .tileRsp k n (.error .hostTimeout)] ∧ u.req? tag = none) ∧
        (∀ n i, r.owner = .cmpStream n i → u.out = s.out ++ [.cplTimeout r.part] ∧
          u.req? tag = some { r with st := .failed (.host a ats) .hostTimeout })) ∧
    (∃ t, exec (.tagQuarantineEnd link tag) s = .next t ∧ (∀ l ∈ t.host.quar, l.link = link.val → l.tag ≠ tag) ∧
      (∀ l ∈ s.host.quar, l.link ≠ link.val ∨ l.tag ≠ tag → l ∈ t.host.quar) ∧ s.only [.host] t))

/-- R351, R352, R354 to R356, R359 to R362, R423: what the host configures. VF Enable presents the functions it numbers, unless they are
more than there are, which is counted; cleared, it takes them away. A BAR takes a size from 256 MiB to 2 TiB, and its address bits below
the size read 0. A configuration write stores its field in its function or its link; while the function is being reset it is retried. -/
def Obligations.FunctionsAreConfigured : Prop :=
  (∀ (s : State) (link : Fin 4) (on : Bool) (num : Nat), s.admits (.vfEnable link on num) = true → s.aon.boot = .ready →
    s.linkThere link.val = true → 0 < s.totalVfs link.val →
    let l := link.val
    let pf := s.pfOf l
    (s.fn pf).enabled = true →
    ((s.fn pf).flr ≠ .none → exec (.vfEnable link on num) s = .next { s with out := s.out ++ [.retryStatus pf] }) ∧
    (on = true → (s.fn pf).flr = .none → (s.link l).vfEn = true → exec (.vfEnable link on num) s = .next s) ∧
    (on = true → (s.fn pf).flr = .none → (s.link l).vfEn = false → num ≤ s.totalVfs l → ∃ t, exec (.vfEnable link on num) s = .next t ∧
      (t.link l).vfEn = true ∧ (t.link l).numVfs = num ∧
      (∀ p, p < 16 → t.fn p = (if pf < p ∧ p ≤ pf + num ∧ s.lcsAllows p = true then { s.fn p with enabled := true } else s.fn p)) ∧ s.only [.host] t) ∧
    (on = true → (s.fn pf).flr = .none → (s.link l).vfEn = false → s.totalVfs l < num → (s.err.cnt.get 0 4).toNat < 0xFFFFFFFF →
      ∃ t, exec (.vfEnable link on num) s = .next t ∧ t.err.cnt.get 0 4 = s.err.cnt.get 0 4 + 1 ∧ s.only [.err, .ic] t) ∧
    (on = false → (s.fn pf).flr = .none → ∃ t, exec (.vfEnable link on num) s = .next t ∧ (t.link l).vfEn = false ∧
      ∀ p, p < 16 → s.linkOf p = l → s.isPf p = false → (t.fn p).enabled = false ∧
        ((s.fn p).enabled = true → (s.fn p).flr = .none → (t.fn p).flr = .drain))) ∧
  (∀ (s : State) (link : Fin 4) (vf : Bool) (size : Fin 64), s.admits (.barSizeWrite link vf size) = true → s.aon.boot = .ready →
    (s.fn (s.pfOf link.val)).enabled = true →
    ((s.fn (s.pfOf link.val)).flr ≠ .none →
      exec (.barSizeWrite link vf size) s = .next { s with out := s.out ++ [.retryStatus (s.pfOf link.val)] }) ∧
    ((s.fn (s.pfOf link.val)).flr = .none →
      (28 ≤ size.val → size.val ≤ 41 → (vf = true → hasSriov link.val = true) → ∃ t, exec (.barSizeWrite link vf size) s = .next t ∧
        t.link link.val = (if vf then { s.link link.val with vfBar := size.val, vfBars := (t.link link.val).vfBars }
          else { s.link link.val with pfBar := size.val }) ∧
        (let bars := if vf then (t.link link.val).vfBars else (t.fn (s.pfOf link.val)).bars
         ∀ i, i < size.val → (if i < 32 then (bars.get 0 2).getLsbD i else (bars.get 0 3).getLsbD (i - 32)) = false) ∧ s.only [.host] t) ∧
      (size.val < 28 ∨ 41 < size.val ∨ (vf = true ∧ hasSriov link.val = false) → exec (.barSizeWrite link vf size) s = .next s))) ∧
  (∀ (s : State) (p : Fin 16), (∀ c, s.admits (.configurationWrite p c) = true) → s.aon.boot = .ready → (s.fn p.val).enabled = true →
    let f := s.fn p.val
    let l := s.linkOf p.val
    let k := s.link l
    (f.flr ≠ .none → ∀ c, exec (.configurationWrite p c) s = .next { s with out := s.out ++ [.retryStatus p.val] }) ∧
    (f.flr = .none →
      (∀ on, exec (.configurationWrite p (.busMaster on)) s = .next (s.setFn p.val { f with bme := on })) ∧
      (∀ d3, exec (.configurationWrite p (.dstate d3)) s = .next (if s.isPf p.val then s.setFn p.val { f with d3 := d3 } else s)) ∧
      (∀ v off, exec (.configurationWrite p (.cplTimeout v off)) s =
        .next (if s.isPf p.val then s.setLink l { k with cpto := v, ctoDis := off } else s)) ∧
      (∀ on, (s.part = .v3s → exec (.configurationWrite p (.ats on)) s = .next s) ∧
        (s.part = .v3x → ∃ t, exec (.configurationWrite p (.ats on)) s = .next t ∧ t.fn p.val = { f with ats := on } ∧
          t.trn.edge = s.trn.edge.filter (fun e => !(e.ats && e.ctx / 64 == p.val)) ∧
          t.trn.folio = s.trn.folio.filter (fun e => !(e.ats && e.ctx / 64 == p.val)) ∧ s.only [.host, .trn] t)) ∧
      (∀ on, exec (.configurationWrite p (.pasid on)) s = .next (if s.isPf p.val then s.setFn p.val { f with pasid := on } else s)) ∧
      (∀ mps mrrs ro ido t10 t14, exec (.configurationWrite p (.devControl mps mrrs ro ido t10 t14)) s = .next (if s.isPf p.val then
        (s.setFn p.val { f with mps := mps, mrrs := mrrs, ro := ro, ido := ido, tag10 := t10, tag14 := t14 }).release
          (fun r => s.linkOf r.part == l) else s)) ∧
      (∀ (n : Fin 6) v, ∃ t, exec (.configurationWrite p (.baseAddr n v)) s = .next t ∧ s.only [.host] t ∧ (s.isPf p.val = false → t = s) ∧
        (s.isPf p.val = true → 4 ≤ k.pfBar → let size := k.barSize true (n.val / 2)
          ∀ i, i < 32 → (t.barReg p.val n.val).getLsbD i = (if size ≤ 32 * (n.val % 2) + i then v.getLsbD i
            else n.val % 2 == 0 && (BitVec.ofNat 32 (barKind (n.val / 2))).getLsbD i))) ∧
      (∀ mask, exec (.configurationWrite p (.aerClear mask)) s = .next (s.setFn p.val { f with aer := f.aer &&& ~~~mask })) ∧
      (∀ on alloc, ∃ t, exec (.configurationWrite p (.pri on alloc)) s = .next t ∧
        (s.part = .v3x → t.fn p.val = { f with pri := on, prAlloc := alloc } ∧ (on = true → f.pri = false → (t.fltp p.val).prioff = false)) ∧
        (s.part = .v3s → t = s)) ∧
      (∀ on, exec (.configurationWrite p (.atomicRequester on)) s = .next (s.setFn p.val { f with atomReq := on })) ∧
      (∀ on vec, exec (.configurationWrite p (.tph on vec)) s = .next (s.setFn p.val { f with tph := on, tphVec := vec })) ∧
      (∀ en mask, exec (.configurationWrite p (.msix en mask)) s = .next (s.setFn p.val { f with msixEn := en, fmask := mask })) ∧
      (∀ (n : Fin 128) mask a d st, ∃ t, exec (.configurationWrite p (.msixEntry n mask a d st)) s = .next t ∧
        (t.fn p.val).table.get {} n.val = { mask := mask, addr := a, data := d, st := st } ∧
        (∀ j, j ≠ n.val → (t.fn p.val).table.get {} j = f.table.get {} j) ∧ s.only [.host] t) ∧
      (∀ on, ((s.isPf p.val && (l == 0 || l == 2) && k.stat.cxl && (!on || s.lin.size != 0)) = false →
          exec (.configurationWrite p (.cxlHdmDb on)) s = .next s) ∧
        (s.isPf p.val = true → l = 0 ∨ l = 2 → k.stat.cxl = true → on = false ∨ s.lin.size ≠ 0 →
          ∃ t, exec (.configurationWrite p (.cxlHdmDb on)) s = .next t ∧ (t.link l).stat = s.linkCan l { k.stat with bi := on })) ∧
      (∀ (i : Fin 4) rids blocks sec, ∃ t, exec (.configurationWrite p (.ide i rids blocks sec)) s = .next t ∧ s.only [.host] t ∧
        (s.isPf p.val = true → (t.link l).ide.find? (fun x => x.1 == i.val) =
          some (i.val, { rids := rids.map (·.val), blocks := blocks.take 2, secure := sec })) ∧
        (s.isPf p.val = false → t = s))))

/-- R368, R369: a function-level reset. It starts at Initiate FLR: the function, and the enabled VFs of a PF, drain, every queue of the
partition is RESETTING, its windows are closed and its tiles unbound. Once nothing of it is outstanding its veil is raised and its
registers return to their reset values, while its quotas, bound ranges and tally ownership stay; at 50 ms what is out is treated as timed
out. Then it serves again. A veiled region leaves the veil with its bytes 0. -/
def Obligations.FunctionLevelReset : Prop :=
  (∀ (s : State) (p : Fin 16), s.admits (.initiateFlr p) = true → s.aon.boot = .ready → (s.fn p.val).enabled = true →
    ((s.fn p.val).flr ≠ .none → exec (.initiateFlr p) s = .next { s with out := s.out ++ [.retryStatus p.val] }) ∧
    ((s.fn p.val).flr = .none → ∃ t, exec (.initiateFlr p) s = .next t ∧ (t.fn p.val).flr = .drain ∧ (t.fn p.val).enabled = true ∧
      (∀ q, q / 256 = p.val → (s.queue q).st ≠ .disabled → (t.queue q).st = .resetting) ∧
      (∀ i, i < 64 → (t.win (64 * p.val + i)).live.en = false) ∧ (∀ k, k < 64 → t.tilePart k ≠ some p.val) ∧
      (s.isPf p.val = true → ∀ v, v < 16 → s.linkOf v = s.linkOf p.val → s.isPf v = false → (s.fn v).enabled = true →
        (t.fn v).flr ≠ .none))) ∧
  (∀ (s : State) (p : Fin 16), (s.fn p.val).flr = .drain →
    (s.flrQuiet p.val = false → exec (.flrDrainDone p) s = .next s) ∧
    (s.flrQuiet p.val = true → ∃ t, exec (.flrDrainDone p) s = .next t ∧
      (let f := s.fn p.val
       t.fn p.val = { enabled := f.enabled, flr := .reset, flrId := f.flrId, mps := f.mps, aer := f.aer, aerFirst := f.aerFirst }) ∧
      t.veil = s.veil ++ (s.newVeil p.val).map (fun iv => (p.val, iv.1, iv.2)) ∧
      (∀ q, q / 256 = p.val → t.queue q = {}) ∧ (∀ i, i < 64 → t.win (64 * p.val + i) = {} ∧ t.ctxValid (64 * p.val + i) = false) ∧
      (∀ k, (s.tally k).owner = some p.val → t.tally k = { owner := some p.val }) ∧
      (∀ q, q / 256 ≠ p.val → t.queue q = s.queue q) ∧ t.prt.qb = s.prt.qb ∧ t.trn.bbase = s.trn.bbase ∧ t.trn.blim = s.trn.blim ∧
      t.trn.pmode = s.trn.pmode ∧ t.mem = s.mem ∧ t.reqs = s.reqs ∧
      (s.isPf p.val = true → (t.link (s.linkOf p.val)).vfEn = false ∧ (t.link (s.linkOf p.val)).numVfs = 0 ∧
        ∀ v, v < 16 → s.linkOf v = s.linkOf p.val → s.isPf v = false → (t.fn v).enabled = false))) ∧
  (∀ (s : State) (p : Fin 16), (s.fn p.val).flr = .drain → s.distinct →
    (∀ r ∈ s.reqs, r.part = p.val → ∃ k n a ats, r.owner = .tile k n ∧ r.grp = 0 ∧ r.st = .sent (.host a ats)) →
    (∀ r ∈ s.orphans, r.part ≠ p.val) → (∀ c ∈ s.gal.cmds, c.part ≠ p.val) →
    (∀ d ∈ s.obs.drains, d.1 ≠ p.val) → (∀ w ∈ s.trn.walks, w.part = p.val → w.st ≠ .ats ∧ (w.st = .reading → s.anyOff w.entryAt 8 = false)) →
    (∀ f ∈ s.seam.flight, f.part = p.val → s.anyOff f.addr f.len = false) →
    (∀ n, n < 16 → ∀ h ∈ (s.lk n).held, h.part ≠ p.val) →
    let rs := s.reqs.filter fun r => r.part == p.val
    ∃ t, exec (.flrDrainTimeout p) s = .next t ∧ t.reqs = s.reqs.filter (fun r => r.part != p.val) ∧
      t.out = s.out ++ rs.flatMap (fun r => match r.owner with
        | .tile k n => [.cplTimeout p.val, .tileRsp k n (.error .hostTimeout)]
        | _ => []) ∧ t.host.quar.length = s.host.quar.length + rs.length ∧ s.only [.reqs, .out, .trn, .host] t) ∧
  (∀ (s : State) (p : Fin 16),
    ((s.fn p.val).flr = .reset → exec (.flrReady p) s = .next (s.setFn p.val { s.fn p.val with flr := .none })) ∧
    ((s.fn p.val).flr ≠ .reset → exec (.flrReady p) s = .next s) ∧
    ((s.fn p.val).flr ≠ .drain → exec (.flrDrainDone p) s = .next s ∧ exec (.flrDrainTimeout p) s = .next s)) ∧
  (∀ (s : State) (r : Nat), Memory.wf s.mem = true →
    (s.veiled (r * 2 ^ 21) = false → exec (.veilRegionWiped r) s = .next s) ∧
    (s.veiled (r * 2 ^ 21) = true → ∃ t, exec (.veilRegionWiped r) s = .next t ∧
      (∀ a, Memory.read t.mem a = if a / 2 ^ 21 = r then 0 else Memory.read s.mem a) ∧
      (∀ a, t.veiled a = (s.veiled a && a / 2 ^ 21 != r)) ∧ s.only [.mem, .poison, .veil] t))

/-- R23, R367, R372, R377: resets of links. A hot reset, a link that goes down and a fundamental reset drain the functions of the link,
take away its VFs and return its settings to their reset values; the link shows what it can run, and SYSEV.LINK is set where that changed.
PERST# holds a port in reset until it is deasserted. R430 to R432: a life-cycle transition. Every function of the part is drained and
every link goes down; once nothing is outstanding every store but the always-on one is wiped, which takes the new state, the SVN minimum
and, where an owner key is provisioned, its hash, and the device is where power-on begins. -/
def Obligations.LinksAndLifeCycleReset : Prop :=
  ((∀ (s : State) (link : Fin 4),
    let l := link.val
    (s.linkThere l = false → exec (.hotReset link) s = .next s) ∧
    (s.linkThere l = true → ∃ t, exec (.hotReset link) s = .next t ∧ (t.link l).stat = downStat ∧ (t.link l).vfEn = false ∧
      (t.link l).numVfs = 0 ∧ (t.link l).pfBar = s.host.pfBar ∧ (t.link l).fences = [] ∧ (t.link l).ide = [] ∧
      (t.link l).perst = (s.link l).perst ∧ (∀ h ∈ t.held, h.origin ≠ some l) ∧
      (∀ p, p < 16 → s.linkOf p = l → (s.fn p).enabled = true → (t.fn p).enabled = s.isPf p ∧
        ((s.fn p).flr = .none → (t.fn p).flr = .drain))) ∧
    (∀ st, s.linkThere l = true → (s.link l).perst = false → (s.link l).stat.up = true → st.up = false →
      ∃ t, exec (.linkStateChange link st) s = .next t ∧ (t.link l).stat = s.linkCan l st ∧
        ∀ p, p < 16 → s.linkOf p = l → (s.fn p).enabled = true → (s.fn p).flr = .none → (t.fn p).flr = .drain)) ∧
  (∀ (s : State) (b : Bool),
    (b = true → s.part = .v3s → exec (.fundamentalReset b) s = .next s ∧ exec (.perstDeasserted b) s = .next s) ∧
    (b = false ∨ s.part = .v3x → (∃ t, exec (.fundamentalReset b) s = .next t ∧
      ∀ l, l = 2 * b2n b ∨ l = 2 * b2n b + 1 → (t.link l).perst = true ∧ (t.link l).stat = downStat ∧
        ∀ p, p < 16 → s.linkOf p = l → (s.fn p).enabled = true → (s.fn p).flr = .none → (t.fn p).flr = .drain) ∧
      (∃ t, exec (.perstDeasserted b) s = .next t ∧ s.only [.host] t ∧
        ∀ l, t.link l = (if l = 2 * b2n b ∨ l = 2 * b2n b + 1 then { s.link l with perst := false } else s.link l)))) ∧
  (∀ (s : State) (link : Fin 4) (st : LinkStat), s.linkThere link.val = true → (s.link link.val).perst = false → st.up = true →
    s.serving 9 (link.val / 2) = true → s.dom (if link.val < 2 then 1 else 2) = .run → s.lin.opens = [] →
    let l := link.val
    let old := (s.link l).stat
    let new := s.linkCan l st
    (s.obs.on = false → exec (.linkStateChange link st) s = .next s) ∧
    (s.obs.on = true → ∃ t, exec (.linkStateChange link st) s = .next t ∧ t.link l = { s.link l with stat := new } ∧
      (∀ k, k ≠ l → t.link k = s.link k) ∧ t.host.fns = s.host.fns ∧
      t.ic.sysev = (if { old with l1 := new.l1 } = new then s.ic.sysev else s.ic.sysev ||| BitVec.ofNat 32 (2 ^ l))))) ∧
  ((∀ (s : State) (a : Amendment), s.aon.amend = some a → s.aon.mbbusy = true →
    s.aon.mbstep = 2 → a.code = 0x7F → s.aon.boot = .ready → ∃ t, exec .lifeCycleTransition s = .next t ∧ t.aon.boot = .transition ∧
      t.aon.target = BitVec.ofNat 3 a.lcs.toNat ∧ t.aon.tsvn = a.svn ∧ t.aon.lcs = s.aon.lcs ∧ t.held = [] ∧
      (∀ p, p < 16 → s.present p = true → (t.fn p).flr ≠ .none) ∧ (∀ l, l < 4 → s.linkThere l = true → (t.link l).stat = downStat)) ∧
  (∀ (s : State), s.aon.boot ≠ .ready → exec .lifeCycleTransition s = .next s) ∧
  (∀ (s : State), (s.aon.boot ≠ .transition ∨ s.allQuiet = false → exec .lifeCycleWipeDone s = .next s) ∧
    (s.aon.boot = .transition → s.allQuiet = true → ∃ t, exec .lifeCycleWipeDone s = .next t ∧ t.mem = [] ∧ t.poison = [] ∧ t.part = s.part ∧
      t.pending = s.pending ∧ t.aon.boot = .off ∧ t.aon.lcs = s.aon.target ∧ t.aon.svnMin = s.aon.tsvn ∧ t.aon.hours = s.aon.hours ∧
      t.aon.pcycle = s.aon.pcycle ∧
      (¬(s.aon.lcs = 0 ∧ s.aon.target = 1) → t.aon.keyHash = s.aon.keyHash) ∧
      (∀ a, s.aon.lcs = 0 → s.aon.target = 1 → s.aon.amend = some a → t.aon.keyHash = a.hash) ∧
      State.reset.only [.pending, .part, .mem, .poison, .nextId, .free, .out, .aon] t)))

/-- R376 to R384, R390: a source's edge. It is pending, and counted in the armed bank it names when it is enabled and not active; the bank
delivers when its condition holds: a host bank sends its MSI-X message, or holds it in the PBA where it cannot be sent, and a core's bank
raises its line. A line that falls withdraws a level source. TIME after the first counted edge a normal bank delivers. -/
def Obligations.SourcesAreCountedAndDelivered : Prop :=
  (∀ (s : State) (n : Fin 2048), s.admits (.sourceEdge n) = true →
    let v := s.src n.val
    let core := (s.bankOf n.val).1
    let i := (s.bankOf n.val).2
    let b := s.bank core i
    let c := { b with n := min 255 (b.n + 1), timer := true }
    let sends := s.serving 0xA 0 && !s.ic.dis && bankReady c (i % 2 == 1)
    (s.canRise n.val = false ∨ n.val ∉ s.ic.risen → exec (.sourceEdge n) s = .next s) ∧
    (s.canRise n.val = true → n.val ∈ s.ic.risen → ∃ t, exec (.sourceEdge n) s = .next t ∧ t.src n.val = { v with pend := true } ∧
      (∀ k, k ≠ n.val → t.src k = s.src k) ∧ t.ic.risen = s.ic.risen.erase n.val ∧ s.only [.ic, .host, .out, .prt, .aon, .obs] t ∧
      (∀ d k, (d, k) ≠ (core, i) → t.bank d k = s.bank d k) ∧
      (v.en = false ∨ v.act = true ∨ b.armed = false → t.bank core i = b ∧ t.out = s.out ∧ t.host = s.host) ∧
      (v.en = true → v.act = false → b.armed = true → sends = false → t.bank core i = c ∧ t.out = s.out ∧ t.host = s.host) ∧
      (v.en = true → v.act = false → b.armed = true → sends = true → (t.bank core i).armed = false ∧ (t.bank core i).n = 0 ∧
        (core = true → t.out = s.out ++ [.coreLine (i / 2) (i % 2 == 1) true] ∧ (t.bank core i).line = true) ∧
        (let p := i / 256
         let e := i % 256 / 2
         let x := (s.fn p).table.get {} e
         core = false →
          ((s.fn p).pba.getLsbD e = true → t.out = s.out ∧ t.host = s.host) ∧
          ((s.fn p).pba.getLsbD e = false → s.canMsix p e = true → t.out = s.out ++ [.msix p e x.addr x.data]) ∧
          ((s.fn p).pba.getLsbD e = false → s.canMsix p e = false → t.out = s.out ∧
            t.fn p = { s.fn p with pba := setBit (s.fn p).pba e true }))))) ∧
  (∀ (s : State) (n : Fin 2048), s.admits (.sourceLineFall n) = true →
    ((s.src n.val).mode = true → s.lineHigh n.val = false → n.val ∉ s.ic.risen →
      exec (.sourceLineFall n) s = .next (s.setSrc n.val { s.src n.val with pend := false })) ∧
    ((s.src n.val).mode = false ∨ s.lineHigh n.val = true ∨ n.val ∈ s.ic.risen → exec (.sourceLineFall n) s = .next s)) ∧
  (∀ (s : State) (p : Fin 16) (k : Fin 256), (s.bank false (256 * p.val + k.val)).timer = true →
    (s.bank false (256 * p.val + k.val)).armed = true → (s.bank false (256 * p.val + k.val)).time ≠ 0 → k.val % 2 = 0 →
    s.serving 0xA 0 = true →
    let x := (s.fn p.val).table.get {} (k.val / 2)
    (s.ic.dis = false → s.canMsix p.val (k.val / 2) = true → (s.fn p.val).pba.getLsbD (k.val / 2) = false →
      ∃ t, exec (.coalesceTime (.host p k)) s = .next t ∧ (t.bank false (256 * p.val + k.val)).armed = false ∧
        t.out = s.out ++ [.msix p.val (k.val / 2) x.addr x.data] ∧ s.only [.ic, .host, .out, .prt, .obs] t) ∧
    (s.ic.dis = true → exec (.coalesceTime (.host p k)) s =
      .next (s.setBank false (256 * p.val + k.val) { s.bank false (256 * p.val + k.val) with due := true }))) ∧
  (∀ (s : State) (p : Fin 16) (e : Fin 128),
    ((s.fn p.val).pba.getLsbD e.val = true → s.canMsix p.val e.val = true → ∃ t, exec (.msixHeldSend p e) s = .next t ∧
      t.out = s.out ++ [.msix p.val e.val ((s.fn p.val).table.get {} e.val).addr ((s.fn p.val).table.get {} e.val).data] ∧ t.fn p.val = { s.fn p.val with pba := setBit (s.fn p.val).pba e.val false } ∧
      s.only [.host, .out, .prt, .obs] t) ∧
    ((s.fn p.val).pba.getLsbD e.val = false ∨ s.canMsix p.val e.val = false → exec (.msixHeldSend p e) s = .next s))

/-- R384: claims and completions. A claim returns an eligible source of the bank than which none has a higher priority, and makes it
active; with none it returns 0 and the bank is armed again. A completion ends the active source it names, and one that is pending again is
counted. R380, R388, R391: what a source targets, and the global disable. A write of FRZ_IC_TGT stores its fields while EN is 0, and one
that sets EN of a pending source counts it; a write that changes another field while EN is 1, or that gives a source to a core without
partition 0, has no effect; OWNER is refused where the partition has no quota left. Another partition's write is a violation. When DIS
returns to 0 every bank whose condition holds delivers. -/
def Obligations.ClaimsTargetsAndDisable : Prop :=
  ((∀ (s : State) (w : Who) (b : BankId), s.takes w (.claim w b) = true →
    (bankFor w b = none → exec (.claim w b) s = .next { s with out := s.out ++ [.regRead w 0] }) ∧
    (∀ core i, bankFor w b = some (core, i) → ∃ t, exec (.claim w b) s = .next t ∧ s.only [.ic, .out, .rcd] t ∧
      (∀ n, s.claimable core i = some n → t.src n = { s.src n with pend := false, act := true } ∧ (∀ k, k ≠ n → t.src k = s.src k) ∧
        t.out = s.out ++ [.regRead w (BitVec.ofNat 64 n)] ∧
        ∃ x ∈ s.ic.srcs, x.1 = n ∧ x.2.pend = true ∧ x.2.act = false ∧ x.2.en = true ∧ s.servedBy core i n = true ∧
          ∀ y ∈ s.ic.srcs, y.2.pend = true → y.2.act = false → y.2.en = true → s.servedBy core i y.1 = true →
            y.2.prio.toNat ≤ x.2.prio.toNat) ∧
      (s.claimable core i = none → t.ic.srcs = s.ic.srcs ∧ (t.bank core i).armed = true ∧ (t.bank core i).n = 0 ∧
        (t.bank core i).line = false ∧ (t.bank core i).timer = false ∧
        t.out = s.out ++ (if core = true ∧ (s.bank core i).line = true then [.coreLine (i / 2) (i % 2 == 1) false] else []) ++ [.regRead w 0]))) ∧
  (∀ (s : State) (w : Who) (b : BankId) (n : BitVec 11), s.takes w (.sourceComplete w b n) = true →
    (bankFor w b = none → exec (.sourceComplete w b n) s = .next s) ∧
    (∀ core i, bankFor w b = some (core, i) →
      let v := s.src n.toNat
      ((s.servedBy core i n.toNat && v.act) = false → exec (.sourceComplete w b n) s = .next s) ∧
      ((s.servedBy core i n.toNat && v.act) = true → v.pend = false ∨ v.en = false →
        exec (.sourceComplete w b n) s = .next (s.setSrc n.toNat { v with act := false })) ∧
      ((s.servedBy core i n.toNat && v.act) = true → v.pend = true → v.en = true → (s.bank core i).armed = true → s.ic.dis = true →
        ∃ t, exec (.sourceComplete w b n) s = .next t ∧ t.src n.toNat = { v with act := false } ∧
          (t.bank core i).n = min 255 ((s.bank core i).n + 1) ∧ s.only [.ic] t))) ∧
  (∀ (s : State) (w : Who) (k : Fin 64) (mask : W32), s.takes w (.pendClear w k mask) = true →
    ∃ t, exec (.pendClear w k mask) s = .next t ∧ s.only [.ic] t ∧
      (∀ i, i < 32 → (t.src (32 * k.val + i)).act = (s.src (32 * k.val + i)).act ∧ (t.src (32 * k.val + i)).pend =
        ((s.src (32 * k.val + i)).pend && !(mask.getLsbD i && s.mayTouchSrc w (32 * k.val + i)))) ∧
      (∀ n, n < 32 * k.val ∨ 32 * k.val + 32 ≤ n → t.src n = s.src n)) ∧
  (∀ (s : State) (w : Who) (mask : W32), s.takes w (.sysevClear w mask) = true → exec (.sysevClear w mask) s =
    .next (if isMgr w then { s with ic := { s.ic with sysev := s.ic.sysev &&& ~~~mask } } else s))) ∧
  ((∀ (s : State) (w : Who) (n : Fin 2048) (v : W32), s.takes w (.tgtWrite w n v) = true → 144 ≤ n.val ∨ s.canRise n.val = true →
    let m := n.val
    let x := v.toNat
    let o := s.src m
    let own := if isMgr w ∧ 144 ≤ m then some (bits x 27 24) else o.owner
    let new : Src := { o with en := bit x 31, mode := bit x 30, cls := bit x 29, kind := bit x 28, owner := own, prio := BitVec.ofNat 4 (bits x 23 20), target := BitVec.ofNat 7 (bits x 6 0) }
    (s.mayTouchSrc w m = false → ∃ t, exec (.tgtWrite w n v) s = .next t ∧ s.only [.err, .ic] t ∧ t.ic.srcs = s.ic.srcs ∧
      (t.err.cnt.get 0 1 = if s.err.cnt.get 0 1 = 0xFFFFFFFF then s.err.cnt.get 0 1 else s.err.cnt.get 0 1 + 1)) ∧
    (s.mayTouchSrc w m = true →
      (o.en = true → new ≠ { o with en := new.en } → exec (.tgtWrite w n v) s = .next s) ∧
      (o.en = true → new = { o with en := new.en } → (new.kind = false ∨ new.target.toNat ≤ 7) →
        exec (.tgtWrite w n v) s = .next (s.setSrc m new)) ∧
      (o.en = false → o.kind = false → bit x 28 = true → isMgr w = false → exec (.tgtWrite w n v) s = .next s) ∧
      (o.en = false → bit x 28 = false ∨ (o.kind = true ∨ isMgr w = true) ∧ (bit x 31 = false ∨ bits x 6 0 ≤ 7) → own = o.owner ∨
          s.present (bits x 27 24) = true ∧ s.vecUse (bits x 27 24) < s.quotaVec (bits x 27 24) →
        (bit x 31 = false ∨ o.pend = false ∨ o.act = true → exec (.tgtWrite w n v) s = .next (s.setSrc m new)) ∧
        (bit x 31 = true → o.pend = true → o.act = false → ∃ t, exec (.tgtWrite w n v) s = .next t ∧ t.src m = new ∧
          (s.ic.dis = true → ∀ c i, (s.setSrc m new).bankOf m = (c, i) → (s.bank c i).armed = true →
            (t.bank c i).n = min 255 ((s.bank c i).n + 1)))) ∧
      (o.en = false → bit x 28 = false → own ≠ o.owner → s.present (bits x 27 24) = false ∨ s.quotaVec (bits x 27 24) ≤ s.vecUse (bits x 27 24) →
        exec (.tgtWrite w n v) s = .next { s with ic := { s.ic with refused := true } }))) ∧
  (∀ (s : State) (w : Who) (v : W32), s.takes w (.gctlWrite w v) = true →
    (isMgr w = false → exec (.gctlWrite w v) s = .next s) ∧
    (isMgr w = true → s.ic.dis = false ∨ bit v.toNat 31 = true → exec (.gctlWrite w v) s =
      .next { s with ic := { s.ic with dis := bit v.toNat 31, refused := s.ic.refused && !bit v.toNat 30 } }) ∧
    (isMgr w = true → s.ic.dis = true → bit v.toNat 31 = false → ∃ t, exec (.gctlWrite w v) s = .next t ∧ t.ic.dis = false ∧
      t.ic.srcs = s.ic.srcs ∧ (∀ x ∈ s.ic.tbanks, (s.bank true x.1).armed = true → bankReady (s.bank true x.1) (x.1 % 2 == 1) = true →
        (t.bank true x.1).armed = false ∧ .coreLine (x.1 / 2) (x.1 % 2 == 1) true ∈ t.out) ∧
      (∀ x ∈ s.ic.hbanks, (s.bank false x.1).armed = true → bankReady (s.bank false x.1) (x.1 % 2 == 1) = true →
        (t.bank false x.1).armed = false) ∧ s.only [.ic, .host, .out, .prt, .aon, .obs] t)))

/-- R396, R397, R400, R401, R407 to R409: partitions. A core acts for the partition written, if the part has it; only partition 0 writes
quotas, and a quota cut below its use sets its bit of OVER; at each period's end the charge carries what exceeds its budget, up to one
budget, and what was held may go. -/
def Obligations.PartitionsAreCharged : Prop :=
  (∀ (s : State) (w : Who) (k : Fin 8) (v : W32), s.takes w (.tcactWrite w k v) = true →
    exec (.tcactWrite w k v) s = .next (if maySetTcact w k.val = true ∧ s.present (bits v.toNat 3 0) = true then
      { s with prt := { s.prt with tcact := s.prt.tcact.set k.val (BitVec.ofNat 4 (bits v.toNat 3 0)) } } else s)) ∧
  (∀ (s : State) (w : Who) (p : Fin 16) (v : W64), (∀ r h, s.takes w (.quotaWrite w p r h v) = true) →
    (isMgr w = false ∨ s.present p.val = false → ∀ r h, exec (.quotaWrite w p r h v) s = .next s) ∧
    (isMgr w = true → s.present p.val = true →
      (∃ t, exec (.quotaWrite w p .qa .whole v) s = .next t ∧ s.only [.prt, .ic] t ∧ t.prt.qa.get 0 p.val = v &&& BitVec.ofNat 64 maskQa ∧
        (t.prt.ovr.get 0 p.val).getLsbD 0 = ((s.prt.ovr.get 0 p.val).getLsbD 0 || decide (t.quotaSlots p.val < s.residents p.val)) ∧
        (t.prt.ovr.get 0 p.val).getLsbD 1 = ((s.prt.ovr.get 0 p.val).getLsbD 1 || decide (t.quotaPleat p.val < s.pleatHeld p.val)) ∧
        (t.prt.ovr.get 0 p.val).getLsbD 2 = ((s.prt.ovr.get 0 p.val).getLsbD 2 || decide (t.quotaCmp p.val < s.compUse p.val))) ∧
      (∃ t, exec (.quotaWrite w p .qb .whole v) s = .next t ∧ s.only [.prt, .ic] t ∧ t.prt.qb.get 0 p.val = v &&& BitVec.ofNat 64 maskQb ∧
        (t.prt.ovr.get 0 p.val).getLsbD 5 = ((s.prt.ovr.get 0 p.val).getLsbD 5 || decide (t.quotaTally p.val < s.tallyUse p.val)) ∧
        (t.prt.ovr.get 0 p.val).getLsbD 6 = ((s.prt.ovr.get 0 p.val).getLsbD 6 || decide (t.quotaWin p.val < s.winUse p.val))) ∧
      (∃ t, exec (.quotaWrite w p .bw .low v) s = .next t ∧ s.only [.prt, .ic] t ∧ t.prt.bw.get 0 p.val = BitVec.ofNat 32 (v.toNat % 2 ^ 20) ∧
        t.prt.bwNow = s.prt.bwNow) ∧ exec (.quotaWrite w p .bw .high v) s = .next s)) ∧
  (∀ (s : State), s.serving 0xE 0 = true →
    ((∀ r ∈ s.reqs, ∀ o, r.st ≠ .bwWait o) → ∃ t, exec .accountingPeriod s = .next t ∧ s.only [.prt] t ∧ ∀ p, p < 16 →
      let c := s.prt.charge.get 0 p
      let b := (s.prt.bwNow.get 0 p).toNat
      t.prt.charge.get 0 p = (if b = 0xFFFFF then 0 else min b (c - b)) ∧ t.prt.last.get 0 p = BitVec.ofNat 20 (min 0xFFFFF c) ∧
        t.prt.bwNow.get 0 p = s.prt.bw.get 0 p) ∧
    (∀ r a n i, s.reqs = [r] → r.st = .bwWait (.dev a) → r.owner = .cmpStream n i → r.replay = none → r.part < 16 →
      s.tileIsOff r (.dev a) = false → bits (s.prt.bw.get 0 r.part).toNat 19 0 = 0xFFFFF →
      ∃ t, exec .accountingPeriod s = .next t ∧ t.req? r.id = some { r with st := .issued (.dev a), at_ := s.now }))

/-- R24, R27, R413 to R416, R429: sleep and power. A domain that is not busy goes to IDLE where sleep is on, and from IDLE to DEEP where
it may; a sleeping Translation domain keeps no translation. A wake request starts a sleeping domain and with it the Control domain, and
the wake's end has it run; a failed retention check leaves its units stale and sets SYSEV.RETFAIL. A tile that has power again takes what
its port held. -/
def Obligations.DomainsSleepAndWake : Prop :=
  (∀ (s : State) (d : Fin 26),
    ((s.domThere d.val && bit s.aon.slpctl.toNat 31 && s.dom d.val == .run && !s.domBusy d.val) = false →
      exec (.domainEnterIdle d) s = .next s) ∧
    (s.domThere d.val = true → bit s.aon.slpctl.toNat 31 = true → s.dom d.val = .run → s.domBusy d.val = false →
      ∃ t, exec (.domainEnterIdle d) s = .next t ∧ t.dom d.val = .idle ∧ (∀ k, k ≠ d.val → t.dom k = s.dom k) ∧
        (d.val < 8 ∨ 24 ≤ d.val → s.only [.aon] t) ∧ s.only [.aon, .lka, .reqs, .orphans, .trn] t) ∧
    ((s.dom d.val ≠ .idle ∨ 24 ≤ d.val ∨ s.aon.deepok.getLsbD d.val = false) → exec (.domainEnterDeep d) s = .next s) ∧
    (s.domThere d.val = true → bit s.aon.slpctl.toNat 31 = true → s.dom d.val = .idle → d.val < 24 → s.aon.deepok.getLsbD d.val = true →
      (d.val = 0 → s.domBusy 0 = false) → ∃ t, exec (.domainEnterDeep d) s = .next t ∧ t.dom d.val = .deep ∧
        (∀ k, k ≠ d.val → t.dom k = s.dom k) ∧ (d.val = 3 → t.trn.folio = [] ∧ ∀ e ∈ t.trn.edge, e.buf < 64) ∧
        (d.val < 3 ∨ (3 < d.val ∧ d.val < 8) → s.only [.aon] t) ∧ s.only [.aon, .lka, .reqs, .orphans, .trn] t) ∧
    (s.dom d.val = .run → exec (.wakeRequest d) s = .next s) ∧
    (s.dom d.val = .idle ∨ s.dom d.val = .deep → ∃ t, exec (.wakeRequest d) s = .next t ∧
      t.dom d.val = .waking (s.dom d.val == .deep) ∧ t.dom 0 ≠ .idle ∧ t.dom 0 ≠ .deep ∧
      (∀ k, k ≠ d.val → k ≠ 0 → t.dom k = s.dom k) ∧ s.only [.aon] t)) ∧
  (∀ (s : State) (d : Fin 26) (deep : Bool), s.dom d.val = .waking deep →
    (8 ≤ d.val → d.val < 24 → s.compCmd (d.val - 8) = none) →
    (∃ t, exec (.wakeComplete d true) s = .next t ∧ t.dom d.val = .run ∧ (∀ k, k ≠ d.val → t.dom k = s.dom k) ∧
      (d.val = 0 → deep = true → s.obs.since / 1000 * 1000 < 2 ^ 64 → s.obs.since / 1000 * 1000 ≤ t.now ∧ s.now ≤ t.now) ∧
      s.only [.aon, .obs] t) ∧
    (∃ t, exec (.wakeComplete d false) s = .next t ∧ t.dom d.val = .run ∧ t.ic.sysev = s.ic.sysev ||| 0x20000000 ∧
      (∀ u ∈ domUnits d.val, (t.unit u.1 u.2).st ≠ .in_))) ∧
  (∀ (s : State) (d : Fin 26) (ok : Bool), (∀ deep, s.dom d.val ≠ .waking deep) → exec (.wakeComplete d ok) s = .next s) ∧
  (∀ (s : State) (k : Fin 64),
    exec (.tilePoweredAgain ⟨k, false⟩) s = .next { s with aon := { s.aon with tileOff := setBit s.aon.tileOff k.val true } } ∧
    ((∀ r ∈ s.reqs, r.toScratch k.val = false) → exec (.tilePoweredAgain ⟨k, true⟩) s = .next ({ s with
      aon := { s.aon with tileOff := setBit s.aon.tileOff k.val false }, tileQ := s.tileQ.filter fun m => m.1 != k.val,
      out := s.out ++ (s.tileQ.filter fun m => m.1 == k.val).map (·.2) } : State).goOn) ∧
    (∀ r a n i, s.reqs = [r] → r.st = .tileOff (.dev a) → r.toScratch k.val = true → r.owner = .cmpStream n i → r.replay = none →
      setBit s.aon.tileOff k.val false = 0 → s.seam.flight = [] → ∃ t, exec (.tilePoweredAgain ⟨k, true⟩) s = .next t ∧ t.aon.tileOff.getLsbD k.val = false ∧
        t.req? r.id = some { r with st := .issued (.dev a), at_ := s.now }))

/-- R367, R418 to R423, R430, R432, R433, R450: start-up. A low PORB_N returns everything to reset but the always-on store and the
contents of memory; power-on counts a power cycle; then the header is read, the PLLs lock and the time base starts at 0, the scratchpads
read 0, the image is applied, or the recovery identity comes up with the cause, and the functions are ready with SYSEV.START set.
Operating hours count once power is on. -/
def Obligations.StartUpGoesInOrder : Prop :=
  (∀ (s : State), ∃ t, exec .porbNAsserted s = .next t ∧ t.pending = s.pending ∧ t.part = s.part ∧ t.mem = s.mem ∧ t.poison = s.poison ∧
    t.aon = { State.reset.aon with lcs := s.aon.lcs, keyHash := s.aon.keyHash, svnMin := s.aon.svnMin, hours := s.aon.hours, pcycle := s.aon.pcycle,
                                      rvendor := s.aon.rvendor, rdevice := s.aon.rdevice, tileOff := s.aon.tileOff } ∧
    State.reset.only [.pending, .part, .mem, .poison, .nextId, .free, .out, .aon] t) ∧
  (∀ (s : State), (s.aon.boot ≠ .off → exec .powerOnReset s = .next s) ∧ (s.aon.boot = .off → ∃ t, exec .powerOnReset s = .next t ∧
    t.aon.pcycle = (if s.aon.pcycle = 0xFFFFFFFF then s.aon.pcycle else s.aon.pcycle + 1) ∧ s.only [.aon, .err, .veil] t ∧
    (s.aon.lcs ≠ 4 → t.aon.boot = .reading ∧ t.err.ferrP = false ∧ t.err.ferrN = true ∧ t.veil = s.veil) ∧
    (s.aon.lcs = 4 → t.aon.boot = .recovery ∧ t.aon.imgerr = 0x0C ∧ t.aon.recov = true ∧ t.err.ferrP = true ∧ t.err.ferrN = false))) ∧
  (∀ (s : State), (s.aon.boot = .reading → exec .imageHeaderRead s = .next { s with aon := { s.aon with boot := .header, header := true } }) ∧
    (s.aon.boot ≠ .reading → exec .imageHeaderRead s = .next s) ∧
    (s.aon.boot = .header → exec .pllLock s =
      .next { s with aon := { s.aon with boot := .locked }, obs := { s.obs with on := true, time := 0, since := 0 } }) ∧
    (s.aon.boot = .recovery → s.obs.on = false → exec .pllLock s = .next { s with obs := { s.obs with on := true, time := 0, since := 0 } }) ∧
    (s.aon.boot ≠ .header → s.aon.boot ≠ .recovery → exec .pllLock s = .next s)) ∧
  (∀ (s : State), Memory.wf s.mem = true → s.aon.boot = .locked ∨ (s.aon.boot = .recovery ∧ s.aon.sram = false) →
    ∃ t, exec .sramWipeDone s = .next t ∧ t.aon.sram = true ∧ (s.aon.boot = .locked → t.aon.boot = .wiped) ∧
      (∀ a, Memory.read t.mem a = if scratchBase ≤ a ∧ a < scratchBase + 0x40000000 then 0 else Memory.read s.mem a) ∧
      s.only [.mem, .poison, .aon] t) ∧
  (∀ (s : State) (i : Image), s.aon.boot = .wiped →
    (s.imageError i ≠ 0 → ∃ t, exec (.imageReadDone i) s = .next t ∧ t.aon.boot = .recovery ∧ t.aon.recov = true ∧
      t.aon.imgerr = s.imageError i ∧ t.err.ferrP = true ∧ t.err.ferrN = false ∧ s.only [.aon, .err, .veil] t) ∧
    (s.imageError i = 0 → ∃ t, exec (.imageReadDone i) s = .next t ∧ t.aon.boot = .applied ∧ t.aon.imgver = i.imgver ∧ t.seam.peer = i.peer ∧
      t.lin.base = i.winBase ∧ t.lin.size = i.winSize ∧ t.lin.en = (i.winSize != 0) ∧ t.host.pfBar = i.pfBar ∧ t.host.vfBar = i.vfBar ∧
      (∀ l, l < 4 → (t.link l).pfBar = i.pfBar ∧ (t.link l).vfBar = i.vfBar) ∧ t.rcd.mode = i.recMode ∧
      ((i.parts.map (·.1)).Nodup → ∀ x ∈ i.parts, t.prt.qa.get 0 x.1 = cfgQa x.2 ∧ t.prt.qb.get 0 x.1 = cfgQb x.2) ∧
      ((i.talOwners.map (·.1)).Nodup → ∀ x ∈ i.talOwners, (t.tally x.1).owner = some x.2) ∧
      (∀ r, r ≤ lastRegion → (∀ w ∈ t.windowRegions, r < w.1 ∨ w.2 < r) → t.veiled (r * 2 ^ 21) = true) ∧
      s.only [.aon, .host, .seam, .lin, .rcd, .trn, .prt, .ic, .tal, .veil, .out] t)) ∧
  (∀ (s : State), s.aon.boot = .applied → Memory.wf s.mem = true → ∃ t, exec .functionsReady s = .next t ∧ t.aon.boot = .ready ∧
    t.ic.sysev = s.ic.sysev ||| 0x40000000 ∧
    (∀ a, Memory.read t.mem a = if s.lin.base ≤ a ∧ a < s.lin.base + s.lin.size * 2 ^ 30 then 0 else Memory.read s.mem a) ∧
    (∀ l, l < 4 → s.linkThere l = true → s.lcsAllows (s.pfOf l) = true → (t.fn (s.pfOf l)).enabled = true) ∧
    s.only [.mem, .poison, .host, .ic, .aon] t) ∧
  (∀ (s : State), exec .operatingHoursTick s = .next (if s.aon.boot = .off then s else
    { s with aon := { s.aon with hours := if s.aon.hours = 0xFFFFFFFF then s.aon.hours else s.aon.hours + 1 } }))

/-- R443 to R452: the error collector. What a pair shows is latched and counted, unless a handling interval runs; a POISON source marks
its granule; a FENCE or DEVICE source starts an interval and takes its unit out, a DEVICE source halts commitment, and FERR is asserted
where the source asserts it. A wire fault is such a report for as long as it lasts. The interval's end latches what still shows. A 1
clears a latched source that does not show, HALT is cleared once every DEVICE source is clear with its unit in, and FERR once nothing
asserts it. -/
def Obligations.ErrorsAreLatchedAndReactedTo : Prop :=
  (∀ (s : State) (n : Fin 512), errReserved n.val = false → (isLevel n.val && s.silent n.val) = false →
    (s.err.handling = true → ∃ t, exec (.errorReport [n] none) s = .next t ∧ t.err.missed = (s.err.missed || !isLevel n.val) ∧
      t.err.sticky = s.err.sticky ∧ s.only [.err, .seam, .trn, .free] t ∧ (n.val ≠ 171 → s.only [.err, .seam] t)) ∧
    (s.err.handling = false → ∃ t, exec (.errorReport [n] none) s = .next t ∧ t.err.sticky.getLsbD n.val = true ∧
      (t.err.handling = isLevel n.val) ∧
      (∀ j, errCounter n.val = some j → (s.err.cnt.get 0 j).toNat < 0xFFFFFFFF → t.err.cnt.get 0 j = s.err.cnt.get 0 j + 1) ∧
      (reactOf n.val = .none ∨ reactOf n.val = .poison → s.only [.err, .ic] t) ∧
      (reactOf n.val = .device → t.err.halt = true) ∧
      (reactOf n.val = .fence ∨ reactOf n.val = .device → (errUnit n.val).1 ≠ 0 → (t.unit (errUnit n.val).1 (errUnit n.val).2).st = .out) ∧
      (∀ i, i < 12 → n.val = 144 + i ∨ n.val = 156 + i → t.seam.live.getLsbD i = false) ∧
      (∀ i, i < 12 → n.val = 156 + i → t.seam.trained.getLsbD i = false) ∧
      (s.err.ferrCfg.getLsbD n.val = true → t.err.ferrP = true ∧ t.err.ferrN = false))) ∧
  (∀ (s : State) (n : Fin 512) (g : Nat), s.err.handling = false → 253 ≤ n.val → n.val < 289 → region (64 * g) = .tier0 →
    ∃ t, exec (.errorReport [n] (some g)) s = .next t ∧ g ∈ t.poison ∧ t.err.sticky.getLsbD n.val = true ∧ s.only [.err, .ic, .poison] t) ∧
  (∀ (s : State) (n : Fin 512),
    (errReserved n.val = true ∨ s.err.wire.getLsbD n.val = true → exec (.wireFault n) s = .next s) ∧
    (errReserved n.val = false → s.err.wire.getLsbD n.val = false → ∃ t, exec (.wireFault n) s = .next t ∧ t.err.wire.getLsbD n.val = true ∧
      (s.showing n.val = true ∨ s.err.handling = true → t.err.sticky = s.err.sticky ∧ s.only [.err] t) ∧
      (s.showing n.val = false → s.err.handling = false → t.err.sticky.getLsbD n.val = true)) ∧
    (s.err.wire.getLsbD n.val = false → ∀ err, exec (.wireFaultCleared n err) s = .next s) ∧
    (s.err.wire.getLsbD n.val = true → ∀ err, ∃ t, exec (.wireFaultCleared n err) s = .next t ∧ t.err.wire.getLsbD n.val = false ∧
      t.err.live.getLsbD n.val = (s.err.live.getLsbD n.val || (err && isLevel n.val && !s.silent n.val)) ∧
      t.err.sticky = s.err.sticky ∧ s.only [.err] t)) ∧
  (∀ (s : State),
    (s.err.handling = false → exec .handlingIntervalEnd s = .next s) ∧
    (s.err.handling = true → ∃ t, exec .handlingIntervalEnd s = .next t ∧
      (∀ n, n < 512 → s.showing n = true → t.err.sticky.getLsbD n = true) ∧
      ((∀ n, n < 512 → s.showing n = true → s.err.sticky.getLsbD n = true) → t.err.handling = false ∧ t.err.sticky = s.err.sticky ∧
        s.only [.err, .ic] t))) ∧
  (∀ (s : State) (w : Who) (k : Fin 16) (mask : W32), s.takesAon w (.errStatClear w k mask) = true → s.takesAon w (.haltClear w) = true →
    (isMgr w = false → exec (.errStatClear w k mask) s = .next s ∧ exec (.haltClear w) s = .next s) ∧
    (isMgr w = true → ∃ t, exec (.errStatClear w k mask) s = .next t ∧ s.only [.err] t ∧ t.err.halt = s.err.halt ∧
      ∀ n, n < 512 → t.err.sticky.getLsbD n = (s.err.sticky.getLsbD n &&
        !(n / 32 == k.val && mask.getLsbD (n % 32) && !s.showing n && n != 179 && n != 180))) ∧
    (isMgr w = true → (s.err.halt && s.devicesIn) = false → exec (.haltClear w) s = .next s) ∧
    (isMgr w = true → s.err.halt = true → s.devicesIn = true → ∃ t, exec (.haltClear w) s = .next t ∧ t.err.halt = false ∧
      ((∀ x ∈ s.gal.queues, x.2.fetch.st ≠ .accepted) → t = { s with err := { s.err with halt := false } }))) ∧
  (∀ (s : State), exec .ferrDeassert s = .next (if s.err.ferrP = true ∧ s.ferrWant = false then
    { s with err := { s.err with ferrP := false, ferrN := true } } else s))

/-- R424 to R429, R438 to R440: amendments and units. GO copies the amendment, or is refused while one runs; a copy that cannot be made, a
bad signature and a failed check end it with their results and SYSEV.AMEND; else its unit drains, reloads and, being stale, rejoins with
its epoch raised, and the amendment ends as applied. A drain that takes too long gives the unit back, a reload that fails leaves it out; a
unit that is out with its errors clear may be told to rejoin. -/
def Obligations.AmendmentsReplaceUnits : Prop :=
  (∀ (s : State) (w : Who) (v : W32), s.takesAon w (.amendmentGo w v) = true →
    let a := bits s.aon.mbaddr.toNat 51 6 * 64
    let n := 64 * (v.toNat % 2 ^ 15)
    (isMgr w = false → exec (.amendmentGo w v) s = .next s) ∧
    (isMgr w = true → bit v.toNat 31 = false → exec (.amendmentGo w v) s =
      .next { s with aon := { s.aon with mblen := BitVec.ofNat 15 v.toNat } }) ∧
    (isMgr w = true → bit v.toNat 31 = true → s.aon.mbbusy = true → exec (.amendmentGo w v) s =
      .next { s with aon := { s.aon with mbref := true } }) ∧
    (isMgr w = true → bit v.toNat 31 = true → s.aon.mbbusy = false → n = 0 → exec (.amendmentGo w v) s =
      .next { s with aon := { s.aon with mblen := 0, mbbusy := true, mbstep := 1, amend := none } }) ∧
    (isMgr w = true → bit v.toNat 31 = true → s.aon.mbbusy = false → n ≠ 0 → s.grantedAll 0 a n .read false = true →
      let begun : Aon := { s.aon with mblen := BitVec.ofNat 15 v.toNat, mbbusy := true, mbstep := 1, amend := none }
      (anyUnassigned a n = true ∨ s.anyClosed a n = true ∨ s.poisoned a n = true → exec (.amendmentGo w v) s = .next { s with aon := begun }) ∧
      (anyUnassigned a n = false → s.anyClosed a n = false → s.poisoned a n = false →
        (anyRegs a n = true → ∃ t, exec (.amendmentGo w v) s = .next t ∧ t.aon = { begun with amend := t.aon.amend } ∧ t.free = s.free + 129 ∧
          s.only [.aon, .free] t) ∧
        (anyRegs a n = false → s.linesOf a n = [] → exec (.amendmentGo w v) s =
          .next { s with aon := { begun with amend := some (amendOf (s.readMem a (min n 128))) } }) ∧
        (anyRegs a n = false → s.linesOf a n ≠ [] → ∃ t r, exec (.amendmentGo w v) s = .next t ∧ t.aon = begun ∧ t.reqs = s.reqs ++ [r] ∧
          r.owner = .phys 0 ∧ r.va = a ∧ r.len = n ∧ r.acc = .read ∧ r.st = .issued (.dev a) ∧ s.only [.aon, .reqs, .nextId] t))) ∧
    (isMgr w = true → bit v.toNat 31 = true → s.aon.mbbusy = false → n ≠ 0 → s.grantedAll 0 a n .read false = false →
      ∃ t, exec (.amendmentGo w v) s = .next t ∧ t.aon.mbbusy = true ∧ t.aon.mbstep = 1 ∧ t.aon.amend = none ∧
        ((s.err.cnt.get 0 1).toNat < 0xFFFFFFFF → t.err.cnt.get 0 1 = s.err.cnt.get 0 1 + 1) ∧ s.only [.aon, .err, .ic] t)) ∧
  (∀ (s : State) (r : Req), s.aon.mbbusy = true → s.aon.mbstep = 1 → s.aon.mblen ≠ 0 → s.reqs.find? (fun x => x.owner == .phys 0) = some r →
    (∀ o e, r.st ≠ .failed o e) → r.linesDone (s.linesOf (bits s.aon.mbaddr.toNat 51 6 * 64) r.len) = false →
    ∀ ok, exec (.amendmentVerifyDone ok) s = .next s) ∧
  (∀ (s : State) (a : Amendment), s.aon.mbbusy = true → s.aon.mbstep = 1 → s.aon.mblen ≠ 0 → (∀ r ∈ s.reqs, r.owner ≠ .phys 0) →
    let c := a.code.toNat
    let i := a.inst.toNat
    let ends := fun (u t : State) (r : Byte) => t.aon.mbbusy = false ∧ t.aon.mbres = r ∧ t.aon.amend = none ∧
      t.ic.sysev = u.ic.sysev ||| 0x80000000 ∧ u.only [.aon, .ic] t
    (s.aon.amend = none → ∃ t, exec (.amendmentVerifyDone true) s = .next t ∧ ends s t 8) ∧
    (s.aon.amend = some a →
      (∃ t, exec (.amendmentVerifyDone false) s = .next t ∧ ends s t 2) ∧
      (s.amendCheck a ≠ 0 → ∃ t, exec (.amendmentVerifyDone true) s = .next t ∧ ends s t (s.amendCheck a)) ∧
      (s.amendCheck a = 0 → a.code ≠ 0x7F → (s.unit c i).st = .in_ → s.dom (unitDom c i) = .run → ∃ t,
        exec (.amendmentVerifyDone true) s = .next t ∧ t.unit c i = { s.unit c i with st := .draining } ∧ t.aon.mbstep = 2 ∧
        (c = 7 → t.seam.live = setBit s.seam.live i false) ∧ (c ≠ 5 → s.only [.aon, .plt, .seam] t) ∧
        s.only [.aon, .plt, .cmp, .lka, .seam, .reqs, .orphans, .trn] t) ∧
      (s.amendCheck a = 0 → a.code = 0x7F → (s.unit c i).st = .in_ → exec (.amendmentVerifyDone true) s =
        .next { s with aon := { s.aon with mbstep := 2 } }))) ∧
  (∀ (s : State) (a : Amendment), s.aon.amend = some a → a.code ≠ 0x7F → s.aon.mbbusy = true → (∀ r ∈ s.reqs, r.owner ≠ .phys 0) →
    let c := a.code.toNat
    let i := a.inst.toNat
    (s.aon.mbstep = 2 → (s.unit c i).st = .draining ∧ s.drained c i = true ∨ (s.unit c i).st = .out → ∃ t, exec .amendmentDrainDone s = .next t ∧
      t.unit c i = { s.unit c i with st := .reloading } ∧ t.aon.mbstep = 4 ∧ s.only [.aon] t) ∧
    (s.aon.mbstep = 2 → (s.unit c i).st = .draining → s.drained c i = false → exec .amendmentDrainDone s = .next s) ∧
    (s.aon.mbstep = 2 → (s.unit c i).st = .draining → ∃ t, exec .amendmentDrainTimeout s = .next t ∧
      t.unit c i = { s.unit c i with st := .in_ } ∧ t.aon.mbres = 6 ∧ t.aon.mbbusy = false ∧ t.ic.sysev = s.ic.sysev ||| 0x80000000 ∧
      s.only [.aon, .ic, .plt, .cmp, .seam] t) ∧
    (s.aon.mbstep = 4 → (s.unit c i).st = .reloading →
      (∃ t, exec (.amendmentReloadDone true) s = .next t ∧ t.unit c i =
          { s.unit c i with st := .stale, seq := some a.seq, epoch := (s.unit c i).epoch + 1 } ∧
        t.aon.mbstep = 5 ∧ t.aon.mbbusy = true ∧ s.only [.aon] t) ∧
      (∃ t, exec (.amendmentReloadDone false) s = .next t ∧ t.unit c i = { s.unit c i with st := .out } ∧ t.aon.mbres = 7 ∧
        t.aon.mbbusy = false ∧ s.only [.aon, .ic] t))) ∧
  (∀ (s : State) (w : Who), s.takesAon w (.uctlRejoin w) = true →
    let c := bits s.aon.usel.toNat 15 8
    let i := bits s.aon.usel.toNat 7 0
    exec (.uctlRejoin w) s = .next (if isMgr w = true ∧ (s.unit c i).st = .out ∧ s.unitClear c i = true then
      s.setUnit c i { s.unit c i with st := .stale, epoch := (s.unit c i).epoch + 1 } else s)) ∧
  (∀ (s : State) (c i : Byte), let u := s.unit c.toNat i.toNat
    (u.st ≠ .stale → u.st ≠ .rejoining → exec (.unitRejoin c i) s = .next s) ∧
    (u.st = .stale ∨ u.st = .rejoining → (c.toNat = 4 → s.drained 4 i.toNat = true) → (c.toNat = 5 → s.drained 5 i.toNat = true) →
      (c = 9 → (∀ x ∈ s.lin.sweeps, x.1 ≠ 72 + i.toNat) ∧ s.lin.active.getLsbD (72 + i.toNat) = false) →
      ∃ t, exec (.unitRejoin c i) s = .next t ∧ t.unit c.toNat i.toNat = { u with st := .in_ } ∧
        (c = 7 → t.seam.live = setBit s.seam.live i.toNat (s.seam.trained.getLsbD i.toNat)) ∧ (c = 2 → t.trn.folio = []) ∧
        (c = 0xC → t.obs.egap = true) ∧
        (s.amending c.toNat i.toNat = true → s.aon.mbstep = 5 → t.aon.mbbusy = false ∧ t.aon.mbres = 0 ∧
          t.ic.sysev = s.ic.sysev ||| 0x80000000)) ∧
    (u.st = .stale ∨ u.st = .rejoining → c = 9 → s.lin.active.getLsbD (72 + i.toNat) = true →
      ∃ t, exec (.unitRejoin c i) s = .next t ∧ t.unit c.toNat i.toNat = u ∧ t.lin.active.getLsbD (72 + i.toNat) = false ∧
        (72 + i.toNat, true) ∈ t.lin.sweeps) ∧
    (u.st = .stale ∨ u.st = .rejoining → c = 9 → s.lin.active.getLsbD (72 + i.toNat) = false →
      (∃ x ∈ s.lin.sweeps, x.1 = 72 + i.toNat) → exec (.unitRejoin c i) s = .next s))

/-- R467, R468, R470, R486: trace drains. A drain that is due takes a free engine and writes the records at the tail of its ring; when the
writes of a device ring have their responses the records leave their buffer and TAIL publishes them; one that fails leaves the records and
sets DERR. R461, R472 to R474, R485, R487: the tack snapshot, and the peak temperature. GO asks for a snapshot, or sets REFUSED while one
is made; the watchdog asks for one while commands run and the last has been cleared. With every domain running it is captured, its header
first, and its write-out puts its bytes at its base in tier 0, or ends with ERR. A write of CLRPEAK has the peak start again from the
temperature. -/
def Obligations.TracesAndSnapshots : Prop :=
  ((∀ (s : State) (p : Fin 16) (buf : Fin 65), s.serving 0xC 0 = true →
    let rs := s.drainDue p.val buf.val
    let v := s.trp p.val
    let a := bits v.base.toNat 56 12 * 4096 + 32 * (v.tail.toNat % v.size2)
    let d := rs.flatMap (·.bytes)
    (rs = [] ∨ s.unitFree false p.val = false → exec (.traceDrain p buf) s = .next s) ∧
    (∀ e, rs ≠ [] → s.unitFree false p.val = true → s.chooseEng = some e → s.dom (4 + e / 16) = .run → s.fresh →
      bit v.base.toNat 63 = false → v.tail.toNat % v.size2 + rs.length ≤ v.size2 → s.grantedAll p.val a d.length .write false = true →
      anyRegs a d.length = false → anyUnassigned a d.length = false → s.anyClosed a d.length = false → s.anyOff a d.length = false →
      s.spent p.val = false → ∃ t r, exec (.traceDrain p buf) s = .next t ∧ t.reqs = s.reqs ++ [r] ∧ r.owner = .phys (1 + p.val) ∧ r.va = a ∧
        r.data = d ∧ r.acc = .write ∧ r.st = .issued (.dev a) ∧ t.obs.drains = s.obs.drains ++ [(p.val, e, rs)] ∧
        (t.eng e).st = .running ∧ (t.eng e).drain = some buf.val ∧ (t.eng e).part = p.val ∧ s.only [.reqs, .nextId, .gal, .plt, .cmp, .prt, .obs] t)) ∧
  (∀ (s : State) (p : Fin 16) (e b : Nat) (rs : List TraceR), s.serving 0xC 0 = true →
    s.obs.drains.find? (fun d => d.1 == p.val) = some (p.val, e, rs) → (s.eng e).drain = some b → (∀ f ∈ s.obs.flush, f.1 ≠ e) →
    (∀ r ∈ s.reqsOf (· == .phys (1 + p.val)), r.st.unissued = false) →
    (∃ t, exec (.traceDrainDone p false) s = .next t ∧ (t.trp p.val).derr = true ∧ (t.trp p.val).tail = (s.trp p.val).tail ∧
      t.traceBuf b = s.traceBuf b ∧ (∀ d ∈ t.obs.drains, d.1 ≠ p.val) ∧ t.mem = s.mem ∧ s.only [.reqs, .orphans, .trn, .plt, .obs, .ic] t) ∧
    (∀ r a, s.reqsOf (· == .phys (1 + p.val)) = [r] → r.st = .issued (.dev a) → r.en = [] → s.orderHeld r = false → s.linesOf a r.len = [] →
      (s.eng e).st = .running → bit (s.trp p.val).base.toNat 63 = false → s.veil = [] → Memory.wf s.mem = true →
      (∀ k, k < r.data.length → s.inWindow (a + k) = false) → ∃ t, exec (.traceDrainDone p true) s = .next t ∧
      (∀ k, Memory.read t.mem k = if a ≤ k ∧ k < a + r.data.length then r.data.getD (k - a) 0 else Memory.read s.mem k) ∧
      (t.trp p.val).tail = (s.trp p.val).tail + BitVec.ofNat 32 rs.length ∧ t.traceBuf b = rs.foldl (fun l x => l.erase x) (s.traceBuf b) ∧
      (t.eng e).st = .idle ∧ (t.eng e).drain = none ∧ (∀ d ∈ t.obs.drains, d.1 ≠ p.val) ∧
      s.only [.mem, .poison, .veil, .reqs, .orphans, .trn, .plt, .lka, .obs] t))) ∧
  ((∀ (s : State) (w : Who) (v : W32), s.takes w (.tackGo w v) = true → s.takes w (.tempClrpeak w) = true →
    let wd := BitVec.ofNat 16 v.toNat
    (isMgr w = false → exec (.tackGo w v) s = .next s ∧ exec (.tempClrpeak w) s = .next s) ∧
    (isMgr w = true →
      (bit v.toNat 31 = false → exec (.tackGo w v) s = .next { s with obs := { s.obs with wdog := wd } }) ∧
      (bit v.toNat 31 = true → s.obs.tkbusy = true → exec (.tackGo w v) s = .next { s with obs := { s.obs with wdog := wd, tkref := true } }) ∧
      (bit v.toNat 31 = true → s.obs.tkbusy = false → ∃ t, exec (.tackGo w v) s = .next t ∧
        t.obs = { s.obs with wdog := wd, tkbusy := true, tkcause := 1, captured := false } ∧
        (∀ d, d < 26 → t.dom d ≠ .idle ∧ t.dom d ≠ .deep) ∧ s.only [.obs, .aon] t) ∧
      exec (.tempClrpeak w) s = .next { s with obs := { s.obs with peak := s.obs.temp } })) ∧
  (∀ (s : State), s.serving 0xC 0 = true →
    let work := s.gal.cmds.any fun c => c.st == .needEngine || c.st == .running
    ((s.obs.wdog != 0 && work && !s.obs.tkbusy && !s.obs.tkdone) = false → exec .tackWatchdog s = .next s) ∧
    ((s.obs.wdog != 0 && work && !s.obs.tkbusy && !s.obs.tkdone) = true → ∃ t, exec .tackWatchdog s = .next t ∧
      t.obs = { s.obs with tkbusy := true, tkcause := 2, captured := false } ∧ s.only [.obs, .aon] t)) ∧
  (∀ (s : State), s.serving 0xC 0 = true →
    (s.obs.tkbusy = false ∨ s.obs.captured = true → exec .tackCapture s = .next s) ∧
    (s.obs.tkbusy = true → s.obs.captured = false → (∀ d, d < 26 → s.dom d = .run) → ∃ t, exec .tackCapture s = .next t ∧
      t.obs.captured = true ∧ t.obs.tkbusy = true ∧ s.only [.free, .obs] t ∧
      Memory.readAll t.obs.shadow 0 24 = toLE 4 0x4B434154 ++ zeros 4 ++ toLE 8 s.now ++ toLE 4 s.aon.hours.toNat ++ toLE 4 s.aon.pcycle.toNat)) ∧
  (∀ (s : State), s.serving 0xC 0 = true → s.obs.tkbusy = true → s.obs.captured = true →
    let a := bits s.obs.tkbase.toNat 51 12 * 4096
    (∃ t, exec (.tackDone false) s = .next t ∧ t.obs.tkbusy = false ∧ t.obs.tkdone = true ∧ t.obs.tkerr = true ∧ t.mem = s.mem ∧
      s.only [.obs, .err, .ic] t) ∧
    (s.tackBad = [] → a + 151616 ≤ tier0End → s.veil = [] → Memory.wf s.mem = true → Memory.wf s.obs.shadow = true →
      ∃ t, exec (.tackDone true) s = .next t ∧ t.obs.tkbusy = false ∧ t.obs.tkdone = true ∧ t.obs.tkerr = s.obs.tkerr ∧ t.obs.captured = false ∧
        (∀ b, Memory.read t.mem b = if a ≤ b ∧ b < a + 151616 then Memory.read s.obs.shadow (b - a) else Memory.read s.mem b) ∧
        s.only [.mem, .poison, .veil, .lka, .obs, .ic] t)))
end

