-- ==== Sys2Proof/Laws/Only.lean ====
section
/-! SUPPORT. The frame of each operation: which pieces of State it can change. -/

set_option linter.unusedSimpArgs false
set_option Elab.async false

namespace Sys2Proof.Machine

open Sys2Proof

theorem only_aon (ps : List Piece) (s0 s : State) x_aon (h_aon : Piece.aon ∈ ps) :
    s0.only ps (State.mk s.pending s.held s.part s.mem s.poison s.veil s.reqs s.orphans s.nextId s.free s.tileQ s.out s.latch s.gal s.trn s.flt s.epo s.plt s.cmp s.lka s.seam s.tal s.lin s.host s.ic s.prt x_aon s.err s.obs s.rcd) ↔ s0.only ps s :=
  ⟨fun h k hk => by cases k <;> first | exact h _ hk | exact absurd ‹_› hk, fun h k hk => by cases k <;> first | exact h _ hk | exact absurd ‹_› hk⟩
theorem only_aon_err (ps : List Piece) (s0 s : State) x_aon x_err (h_aon : Piece.aon ∈ ps) (h_err : Piece.err ∈ ps) :
    s0.only ps (State.mk s.pending s.held s.part s.mem s.poison s.veil s.reqs s.orphans s.nextId s.free s.tileQ s.out s.latch s.gal s.trn s.flt s.epo s.plt s.cmp s.lka s.seam s.tal s.lin s.host s.ic s.prt x_aon x_err s.obs s.rcd) ↔ s0.only ps s :=
  ⟨fun h k hk => by cases k <;> first | exact h _ hk | exact absurd ‹_› hk, fun h k hk => by cases k <;> first | exact h _ hk | exact absurd ‹_› hk⟩
theorem only_aon_obs (ps : List Piece) (s0 s : State) x_aon x_obs (h_aon : Piece.aon ∈ ps) (h_obs : Piece.obs ∈ ps) :
    s0.only ps (State.mk s.pending s.held s.part s.mem s.poison s.veil s.reqs s.orphans s.nextId s.free s.tileQ s.out s.latch s.gal s.trn s.flt s.epo s.plt s.cmp s.lka s.seam s.tal s.lin s.host s.ic s.prt x_aon s.err x_obs s.rcd) ↔ s0.only ps s :=
  ⟨fun h k hk => by cases k <;> first | exact h _ hk | exact absurd ‹_› hk, fun h k hk => by cases k <;> first | exact h _ hk | exact absurd ‹_› hk⟩
theorem only_cmp (ps : List Piece) (s0 s : State) x_cmp (h_cmp : Piece.cmp ∈ ps) :
    s0.only ps (State.mk s.pending s.held s.part s.mem s.poison s.veil s.reqs s.orphans s.nextId s.free s.tileQ s.out s.latch s.gal s.trn s.flt s.epo s.plt x_cmp s.lka s.seam s.tal s.lin s.host s.ic s.prt s.aon s.err s.obs s.rcd) ↔ s0.only ps s :=
  ⟨fun h k hk => by cases k <;> first | exact h _ hk | exact absurd ‹_› hk, fun h k hk => by cases k <;> first | exact h _ hk | exact absurd ‹_› hk⟩
theorem only_epo (ps : List Piece) (s0 s : State) x_epo (h_epo : Piece.epo ∈ ps) :
    s0.only ps (State.mk s.pending s.held s.part s.mem s.poison s.veil s.reqs s.orphans s.nextId s.free s.tileQ s.out s.latch s.gal s.trn s.flt x_epo s.plt s.cmp s.lka s.seam s.tal s.lin s.host s.ic s.prt s.aon s.err s.obs s.rcd) ↔ s0.only ps s :=
  ⟨fun h k hk => by cases k <;> first | exact h _ hk | exact absurd ‹_› hk, fun h k hk => by cases k <;> first | exact h _ hk | exact absurd ‹_› hk⟩
theorem only_epo_cmp (ps : List Piece) (s0 s : State) x_epo x_cmp (h_epo : Piece.epo ∈ ps) (h_cmp : Piece.cmp ∈ ps) :
    s0.only ps (State.mk s.pending s.held s.part s.mem s.poison s.veil s.reqs s.orphans s.nextId s.free s.tileQ s.out s.latch s.gal s.trn s.flt x_epo s.plt x_cmp s.lka s.seam s.tal s.lin s.host s.ic s.prt s.aon s.err s.obs s.rcd) ↔ s0.only ps s :=
  ⟨fun h k hk => by cases k <;> first | exact h _ hk | exact absurd ‹_› hk, fun h k hk => by cases k <;> first | exact h _ hk | exact absurd ‹_› hk⟩
theorem only_err (ps : List Piece) (s0 s : State) x_err (h_err : Piece.err ∈ ps) :
    s0.only ps (State.mk s.pending s.held s.part s.mem s.poison s.veil s.reqs s.orphans s.nextId s.free s.tileQ s.out s.latch s.gal s.trn s.flt s.epo s.plt s.cmp s.lka s.seam s.tal s.lin s.host s.ic s.prt s.aon x_err s.obs s.rcd) ↔ s0.only ps s :=
  ⟨fun h k hk => by cases k <;> first | exact h _ hk | exact absurd ‹_› hk, fun h k hk => by cases k <;> first | exact h _ hk | exact absurd ‹_› hk⟩
theorem only_flt (ps : List Piece) (s0 s : State) x_flt (h_flt : Piece.flt ∈ ps) :
    s0.only ps (State.mk s.pending s.held s.part s.mem s.poison s.veil s.reqs s.orphans s.nextId s.free s.tileQ s.out s.latch s.gal s.trn x_flt s.epo s.plt s.cmp s.lka s.seam s.tal s.lin s.host s.ic s.prt s.aon s.err s.obs s.rcd) ↔ s0.only ps s :=
  ⟨fun h k hk => by cases k <;> first | exact h _ hk | exact absurd ‹_› hk, fun h k hk => by cases k <;> first | exact h _ hk | exact absurd ‹_› hk⟩
theorem only_free (ps : List Piece) (s0 s : State) x_free (h_free : Piece.free ∈ ps) :
    s0.only ps (State.mk s.pending s.held s.part s.mem s.poison s.veil s.reqs s.orphans s.nextId x_free s.tileQ s.out s.latch s.gal s.trn s.flt s.epo s.plt s.cmp s.lka s.seam s.tal s.lin s.host s.ic s.prt s.aon s.err s.obs s.rcd) ↔ s0.only ps s :=
  ⟨fun h k hk => by cases k <;> first | exact h _ hk | exact absurd ‹_› hk, fun h k hk => by cases k <;> first | exact h _ hk | exact absurd ‹_› hk⟩
theorem only_free_obs (ps : List Piece) (s0 s : State) x_free x_obs (h_free : Piece.free ∈ ps) (h_obs : Piece.obs ∈ ps) :
    s0.only ps (State.mk s.pending s.held s.part s.mem s.poison s.veil s.reqs s.orphans s.nextId x_free s.tileQ s.out s.latch s.gal s.trn s.flt s.epo s.plt s.cmp s.lka s.seam s.tal s.lin s.host s.ic s.prt s.aon s.err x_obs s.rcd) ↔ s0.only ps s :=
  ⟨fun h k hk => by cases k <;> first | exact h _ hk | exact absurd ‹_› hk, fun h k hk => by cases k <;> first | exact h _ hk | exact absurd ‹_› hk⟩
theorem only_gal (ps : List Piece) (s0 s : State) x_gal (h_gal : Piece.gal ∈ ps) :
    s0.only ps (State.mk s.pending s.held s.part s.mem s.poison s.veil s.reqs s.orphans s.nextId s.free s.tileQ s.out s.latch x_gal s.trn s.flt s.epo s.plt s.cmp s.lka s.seam s.tal s.lin s.host s.ic s.prt s.aon s.err s.obs s.rcd) ↔ s0.only ps s :=
  ⟨fun h k hk => by cases k <;> first | exact h _ hk | exact absurd ‹_› hk, fun h k hk => by cases k <;> first | exact h _ hk | exact absurd ‹_› hk⟩
theorem only_held (ps : List Piece) (s0 s : State) x_held (h_held : Piece.held ∈ ps) :
    s0.only ps (State.mk s.pending x_held s.part s.mem s.poison s.veil s.reqs s.orphans s.nextId s.free s.tileQ s.out s.latch s.gal s.trn s.flt s.epo s.plt s.cmp s.lka s.seam s.tal s.lin s.host s.ic s.prt s.aon s.err s.obs s.rcd) ↔ s0.only ps s :=
  ⟨fun h k hk => by cases k <;> first | exact h _ hk | exact absurd ‹_› hk, fun h k hk => by cases k <;> first | exact h _ hk | exact absurd ‹_› hk⟩
theorem only_held_aon (ps : List Piece) (s0 s : State) x_held x_aon (h_held : Piece.held ∈ ps) (h_aon : Piece.aon ∈ ps) :
    s0.only ps (State.mk s.pending x_held s.part s.mem s.poison s.veil s.reqs s.orphans s.nextId s.free s.tileQ s.out s.latch s.gal s.trn s.flt s.epo s.plt s.cmp s.lka s.seam s.tal s.lin s.host s.ic s.prt x_aon s.err s.obs s.rcd) ↔ s0.only ps s :=
  ⟨fun h k hk => by cases k <;> first | exact h _ hk | exact absurd ‹_› hk, fun h k hk => by cases k <;> first | exact h _ hk | exact absurd ‹_› hk⟩
theorem only_host (ps : List Piece) (s0 s : State) x_host (h_host : Piece.host ∈ ps) :
    s0.only ps (State.mk s.pending s.held s.part s.mem s.poison s.veil s.reqs s.orphans s.nextId s.free s.tileQ s.out s.latch s.gal s.trn s.flt s.epo s.plt s.cmp s.lka s.seam s.tal s.lin x_host s.ic s.prt s.aon s.err s.obs s.rcd) ↔ s0.only ps s :=
  ⟨fun h k hk => by cases k <;> first | exact h _ hk | exact absurd ‹_› hk, fun h k hk => by cases k <;> first | exact h _ hk | exact absurd ‹_› hk⟩
theorem only_ic (ps : List Piece) (s0 s : State) x_ic (h_ic : Piece.ic ∈ ps) :
    s0.only ps (State.mk s.pending s.held s.part s.mem s.poison s.veil s.reqs s.orphans s.nextId s.free s.tileQ s.out s.latch s.gal s.trn s.flt s.epo s.plt s.cmp s.lka s.seam s.tal s.lin s.host x_ic s.prt s.aon s.err s.obs s.rcd) ↔ s0.only ps s :=
  ⟨fun h k hk => by cases k <;> first | exact h _ hk | exact absurd ‹_› hk, fun h k hk => by cases k <;> first | exact h _ hk | exact absurd ‹_› hk⟩
theorem only_latch (ps : List Piece) (s0 s : State) x_latch (h_latch : Piece.latch ∈ ps) :
    s0.only ps (State.mk s.pending s.held s.part s.mem s.poison s.veil s.reqs s.orphans s.nextId s.free s.tileQ s.out x_latch s.gal s.trn s.flt s.epo s.plt s.cmp s.lka s.seam s.tal s.lin s.host s.ic s.prt s.aon s.err s.obs s.rcd) ↔ s0.only ps s :=
  ⟨fun h k hk => by cases k <;> first | exact h _ hk | exact absurd ‹_› hk, fun h k hk => by cases k <;> first | exact h _ hk | exact absurd ‹_› hk⟩
theorem only_latch_gal_trn_plt_cmp_lka_seam_tal_lin_prt_obs_rcd (ps : List Piece) (s0 s : State) x_latch x_gal x_trn x_plt x_cmp x_lka x_seam x_tal x_lin x_prt x_obs x_rcd (h_latch : Piece.latch ∈ ps) (h_gal : Piece.gal ∈ ps) (h_trn : Piece.trn ∈ ps) (h_plt : Piece.plt ∈ ps) (h_cmp : Piece.cmp ∈ ps) (h_lka : Piece.lka ∈ ps) (h_seam : Piece.seam ∈ ps) (h_tal : Piece.tal ∈ ps) (h_lin : Piece.lin ∈ ps) (h_prt : Piece.prt ∈ ps) (h_obs : Piece.obs ∈ ps) (h_rcd : Piece.rcd ∈ ps) :
    s0.only ps (State.mk s.pending s.held s.part s.mem s.poison s.veil s.reqs s.orphans s.nextId s.free s.tileQ s.out x_latch x_gal x_trn s.flt s.epo x_plt x_cmp x_lka x_seam x_tal x_lin s.host s.ic x_prt s.aon s.err x_obs x_rcd) ↔ s0.only ps s :=
  ⟨fun h k hk => by cases k <;> first | exact h _ hk | exact absurd ‹_› hk, fun h k hk => by cases k <;> first | exact h _ hk | exact absurd ‹_› hk⟩
theorem only_lin (ps : List Piece) (s0 s : State) x_lin (h_lin : Piece.lin ∈ ps) :
    s0.only ps (State.mk s.pending s.held s.part s.mem s.poison s.veil s.reqs s.orphans s.nextId s.free s.tileQ s.out s.latch s.gal s.trn s.flt s.epo s.plt s.cmp s.lka s.seam s.tal x_lin s.host s.ic s.prt s.aon s.err s.obs s.rcd) ↔ s0.only ps s :=
  ⟨fun h k hk => by cases k <;> first | exact h _ hk | exact absurd ‹_› hk, fun h k hk => by cases k <;> first | exact h _ hk | exact absurd ‹_› hk⟩
theorem only_lka (ps : List Piece) (s0 s : State) x_lka (h_lka : Piece.lka ∈ ps) :
    s0.only ps (State.mk s.pending s.held s.part s.mem s.poison s.veil s.reqs s.orphans s.nextId s.free s.tileQ s.out s.latch s.gal s.trn s.flt s.epo s.plt s.cmp x_lka s.seam s.tal s.lin s.host s.ic s.prt s.aon s.err s.obs s.rcd) ↔ s0.only ps s :=
  ⟨fun h k hk => by cases k <;> first | exact h _ hk | exact absurd ‹_› hk, fun h k hk => by cases k <;> first | exact h _ hk | exact absurd ‹_› hk⟩
theorem only_mem (ps : List Piece) (s0 s : State) x_mem (h_mem : Piece.mem ∈ ps) :
    s0.only ps (State.mk s.pending s.held s.part x_mem s.poison s.veil s.reqs s.orphans s.nextId s.free s.tileQ s.out s.latch s.gal s.trn s.flt s.epo s.plt s.cmp s.lka s.seam s.tal s.lin s.host s.ic s.prt s.aon s.err s.obs s.rcd) ↔ s0.only ps s :=
  ⟨fun h k hk => by cases k <;> first | exact h _ hk | exact absurd ‹_› hk, fun h k hk => by cases k <;> first | exact h _ hk | exact absurd ‹_› hk⟩
theorem only_mem_poison (ps : List Piece) (s0 s : State) x_mem x_poison (h_mem : Piece.mem ∈ ps) (h_poison : Piece.poison ∈ ps) :
    s0.only ps (State.mk s.pending s.held s.part x_mem x_poison s.veil s.reqs s.orphans s.nextId s.free s.tileQ s.out s.latch s.gal s.trn s.flt s.epo s.plt s.cmp s.lka s.seam s.tal s.lin s.host s.ic s.prt s.aon s.err s.obs s.rcd) ↔ s0.only ps s :=
  ⟨fun h k hk => by cases k <;> first | exact h _ hk | exact absurd ‹_› hk, fun h k hk => by cases k <;> first | exact h _ hk | exact absurd ‹_› hk⟩
theorem only_nextId (ps : List Piece) (s0 s : State) x_nextId (h_nextId : Piece.nextId ∈ ps) :
    s0.only ps (State.mk s.pending s.held s.part s.mem s.poison s.veil s.reqs s.orphans x_nextId s.free s.tileQ s.out s.latch s.gal s.trn s.flt s.epo s.plt s.cmp s.lka s.seam s.tal s.lin s.host s.ic s.prt s.aon s.err s.obs s.rcd) ↔ s0.only ps s :=
  ⟨fun h k hk => by cases k <;> first | exact h _ hk | exact absurd ‹_› hk, fun h k hk => by cases k <;> first | exact h _ hk | exact absurd ‹_› hk⟩
theorem only_nextId_obs (ps : List Piece) (s0 s : State) x_nextId x_obs (h_nextId : Piece.nextId ∈ ps) (h_obs : Piece.obs ∈ ps) :
    s0.only ps (State.mk s.pending s.held s.part s.mem s.poison s.veil s.reqs s.orphans x_nextId s.free s.tileQ s.out s.latch s.gal s.trn s.flt s.epo s.plt s.cmp s.lka s.seam s.tal s.lin s.host s.ic s.prt s.aon s.err x_obs s.rcd) ↔ s0.only ps s :=
  ⟨fun h k hk => by cases k <;> first | exact h _ hk | exact absurd ‹_› hk, fun h k hk => by cases k <;> first | exact h _ hk | exact absurd ‹_› hk⟩
theorem only_nextId_seam (ps : List Piece) (s0 s : State) x_nextId x_seam (h_nextId : Piece.nextId ∈ ps) (h_seam : Piece.seam ∈ ps) :
    s0.only ps (State.mk s.pending s.held s.part s.mem s.poison s.veil s.reqs s.orphans x_nextId s.free s.tileQ s.out s.latch s.gal s.trn s.flt s.epo s.plt s.cmp s.lka x_seam s.tal s.lin s.host s.ic s.prt s.aon s.err s.obs s.rcd) ↔ s0.only ps s :=
  ⟨fun h k hk => by cases k <;> first | exact h _ hk | exact absurd ‹_› hk, fun h k hk => by cases k <;> first | exact h _ hk | exact absurd ‹_› hk⟩
theorem only_obs (ps : List Piece) (s0 s : State) x_obs (h_obs : Piece.obs ∈ ps) :
    s0.only ps (State.mk s.pending s.held s.part s.mem s.poison s.veil s.reqs s.orphans s.nextId s.free s.tileQ s.out s.latch s.gal s.trn s.flt s.epo s.plt s.cmp s.lka s.seam s.tal s.lin s.host s.ic s.prt s.aon s.err x_obs s.rcd) ↔ s0.only ps s :=
  ⟨fun h k hk => by cases k <;> first | exact h _ hk | exact absurd ‹_› hk, fun h k hk => by cases k <;> first | exact h _ hk | exact absurd ‹_› hk⟩
theorem only_orphans (ps : List Piece) (s0 s : State) x_orphans (h_orphans : Piece.orphans ∈ ps) :
    s0.only ps (State.mk s.pending s.held s.part s.mem s.poison s.veil s.reqs x_orphans s.nextId s.free s.tileQ s.out s.latch s.gal s.trn s.flt s.epo s.plt s.cmp s.lka s.seam s.tal s.lin s.host s.ic s.prt s.aon s.err s.obs s.rcd) ↔ s0.only ps s :=
  ⟨fun h k hk => by cases k <;> first | exact h _ hk | exact absurd ‹_› hk, fun h k hk => by cases k <;> first | exact h _ hk | exact absurd ‹_› hk⟩
theorem only_out (ps : List Piece) (s0 s : State) x_out (h_out : Piece.out ∈ ps) :
    s0.only ps (State.mk s.pending s.held s.part s.mem s.poison s.veil s.reqs s.orphans s.nextId s.free s.tileQ x_out s.latch s.gal s.trn s.flt s.epo s.plt s.cmp s.lka s.seam s.tal s.lin s.host s.ic s.prt s.aon s.err s.obs s.rcd) ↔ s0.only ps s :=
  ⟨fun h k hk => by cases k <;> first | exact h _ hk | exact absurd ‹_› hk, fun h k hk => by cases k <;> first | exact h _ hk | exact absurd ‹_› hk⟩
theorem only_pending (ps : List Piece) (s0 s : State) x_pending (h_pending : Piece.pending ∈ ps) :
    s0.only ps (State.mk x_pending s.held s.part s.mem s.poison s.veil s.reqs s.orphans s.nextId s.free s.tileQ s.out s.latch s.gal s.trn s.flt s.epo s.plt s.cmp s.lka s.seam s.tal s.lin s.host s.ic s.prt s.aon s.err s.obs s.rcd) ↔ s0.only ps s :=
  ⟨fun h k hk => by cases k <;> first | exact h _ hk | exact absurd ‹_› hk, fun h k hk => by cases k <;> first | exact h _ hk | exact absurd ‹_› hk⟩
theorem only_pending_held (ps : List Piece) (s0 s : State) x_pending x_held (h_pending : Piece.pending ∈ ps) (h_held : Piece.held ∈ ps) :
    s0.only ps (State.mk x_pending x_held s.part s.mem s.poison s.veil s.reqs s.orphans s.nextId s.free s.tileQ s.out s.latch s.gal s.trn s.flt s.epo s.plt s.cmp s.lka s.seam s.tal s.lin s.host s.ic s.prt s.aon s.err s.obs s.rcd) ↔ s0.only ps s :=
  ⟨fun h k hk => by cases k <;> first | exact h _ hk | exact absurd ‹_› hk, fun h k hk => by cases k <;> first | exact h _ hk | exact absurd ‹_› hk⟩
theorem only_plt (ps : List Piece) (s0 s : State) x_plt (h_plt : Piece.plt ∈ ps) :
    s0.only ps (State.mk s.pending s.held s.part s.mem s.poison s.veil s.reqs s.orphans s.nextId s.free s.tileQ s.out s.latch s.gal s.trn s.flt s.epo x_plt s.cmp s.lka s.seam s.tal s.lin s.host s.ic s.prt s.aon s.err s.obs s.rcd) ↔ s0.only ps s :=
  ⟨fun h k hk => by cases k <;> first | exact h _ hk | exact absurd ‹_› hk, fun h k hk => by cases k <;> first | exact h _ hk | exact absurd ‹_› hk⟩
theorem only_poison (ps : List Piece) (s0 s : State) x_poison (h_poison : Piece.poison ∈ ps) :
    s0.only ps (State.mk s.pending s.held s.part s.mem x_poison s.veil s.reqs s.orphans s.nextId s.free s.tileQ s.out s.latch s.gal s.trn s.flt s.epo s.plt s.cmp s.lka s.seam s.tal s.lin s.host s.ic s.prt s.aon s.err s.obs s.rcd) ↔ s0.only ps s :=
  ⟨fun h k hk => by cases k <;> first | exact h _ hk | exact absurd ‹_› hk, fun h k hk => by cases k <;> first | exact h _ hk | exact absurd ‹_› hk⟩
theorem only_prt (ps : List Piece) (s0 s : State) x_prt (h_prt : Piece.prt ∈ ps) :
    s0.only ps (State.mk s.pending s.held s.part s.mem s.poison s.veil s.reqs s.orphans s.nextId s.free s.tileQ s.out s.latch s.gal s.trn s.flt s.epo s.plt s.cmp s.lka s.seam s.tal s.lin s.host s.ic x_prt s.aon s.err s.obs s.rcd) ↔ s0.only ps s :=
  ⟨fun h k hk => by cases k <;> first | exact h _ hk | exact absurd ‹_› hk, fun h k hk => by cases k <;> first | exact h _ hk | exact absurd ‹_› hk⟩
theorem only_rcd (ps : List Piece) (s0 s : State) x_rcd (h_rcd : Piece.rcd ∈ ps) :
    s0.only ps (State.mk s.pending s.held s.part s.mem s.poison s.veil s.reqs s.orphans s.nextId s.free s.tileQ s.out s.latch s.gal s.trn s.flt s.epo s.plt s.cmp s.lka s.seam s.tal s.lin s.host s.ic s.prt s.aon s.err s.obs x_rcd) ↔ s0.only ps s :=
  ⟨fun h k hk => by cases k <;> first | exact h _ hk | exact absurd ‹_› hk, fun h k hk => by cases k <;> first | exact h _ hk | exact absurd ‹_› hk⟩
theorem only_reqs (ps : List Piece) (s0 s : State) x_reqs (h_reqs : Piece.reqs ∈ ps) :
    s0.only ps (State.mk s.pending s.held s.part s.mem s.poison s.veil x_reqs s.orphans s.nextId s.free s.tileQ s.out s.latch s.gal s.trn s.flt s.epo s.plt s.cmp s.lka s.seam s.tal s.lin s.host s.ic s.prt s.aon s.err s.obs s.rcd) ↔ s0.only ps s :=
  ⟨fun h k hk => by cases k <;> first | exact h _ hk | exact absurd ‹_› hk, fun h k hk => by cases k <;> first | exact h _ hk | exact absurd ‹_› hk⟩
theorem only_reqs_nextId (ps : List Piece) (s0 s : State) x_reqs x_nextId (h_reqs : Piece.reqs ∈ ps) (h_nextId : Piece.nextId ∈ ps) :
    s0.only ps (State.mk s.pending s.held s.part s.mem s.poison s.veil x_reqs s.orphans x_nextId s.free s.tileQ s.out s.latch s.gal s.trn s.flt s.epo s.plt s.cmp s.lka s.seam s.tal s.lin s.host s.ic s.prt s.aon s.err s.obs s.rcd) ↔ s0.only ps s :=
  ⟨fun h k hk => by cases k <;> first | exact h _ hk | exact absurd ‹_› hk, fun h k hk => by cases k <;> first | exact h _ hk | exact absurd ‹_› hk⟩
theorem only_reqs_orphans_trn (ps : List Piece) (s0 s : State) x_reqs x_orphans x_trn (h_reqs : Piece.reqs ∈ ps) (h_orphans : Piece.orphans ∈ ps) (h_trn : Piece.trn ∈ ps) :
    s0.only ps (State.mk s.pending s.held s.part s.mem s.poison s.veil x_reqs x_orphans s.nextId s.free s.tileQ s.out s.latch s.gal x_trn s.flt s.epo s.plt s.cmp s.lka s.seam s.tal s.lin s.host s.ic s.prt s.aon s.err s.obs s.rcd) ↔ s0.only ps s :=
  ⟨fun h k hk => by cases k <;> first | exact h _ hk | exact absurd ‹_› hk, fun h k hk => by cases k <;> first | exact h _ hk | exact absurd ‹_› hk⟩
theorem only_reqs_trn (ps : List Piece) (s0 s : State) x_reqs x_trn (h_reqs : Piece.reqs ∈ ps) (h_trn : Piece.trn ∈ ps) :
    s0.only ps (State.mk s.pending s.held s.part s.mem s.poison s.veil x_reqs s.orphans s.nextId s.free s.tileQ s.out s.latch s.gal x_trn s.flt s.epo s.plt s.cmp s.lka s.seam s.tal s.lin s.host s.ic s.prt s.aon s.err s.obs s.rcd) ↔ s0.only ps s :=
  ⟨fun h k hk => by cases k <;> first | exact h _ hk | exact absurd ‹_› hk, fun h k hk => by cases k <;> first | exact h _ hk | exact absurd ‹_› hk⟩
theorem only_seam (ps : List Piece) (s0 s : State) x_seam (h_seam : Piece.seam ∈ ps) :
    s0.only ps (State.mk s.pending s.held s.part s.mem s.poison s.veil s.reqs s.orphans s.nextId s.free s.tileQ s.out s.latch s.gal s.trn s.flt s.epo s.plt s.cmp s.lka x_seam s.tal s.lin s.host s.ic s.prt s.aon s.err s.obs s.rcd) ↔ s0.only ps s :=
  ⟨fun h k hk => by cases k <;> first | exact h _ hk | exact absurd ‹_› hk, fun h k hk => by cases k <;> first | exact h _ hk | exact absurd ‹_› hk⟩
theorem only_seam_lin_host_aon_rcd (ps : List Piece) (s0 s : State) x_seam x_lin x_host x_aon x_rcd (h_seam : Piece.seam ∈ ps) (h_lin : Piece.lin ∈ ps) (h_host : Piece.host ∈ ps) (h_aon : Piece.aon ∈ ps) (h_rcd : Piece.rcd ∈ ps) :
    s0.only ps (State.mk s.pending s.held s.part s.mem s.poison s.veil s.reqs s.orphans s.nextId s.free s.tileQ s.out s.latch s.gal s.trn s.flt s.epo s.plt s.cmp s.lka x_seam s.tal x_lin x_host s.ic s.prt x_aon s.err s.obs x_rcd) ↔ s0.only ps s :=
  ⟨fun h k hk => by cases k <;> first | exact h _ hk | exact absurd ‹_› hk, fun h k hk => by cases k <;> first | exact h _ hk | exact absurd ‹_› hk⟩
theorem only_tal (ps : List Piece) (s0 s : State) x_tal (h_tal : Piece.tal ∈ ps) :
    s0.only ps (State.mk s.pending s.held s.part s.mem s.poison s.veil s.reqs s.orphans s.nextId s.free s.tileQ s.out s.latch s.gal s.trn s.flt s.epo s.plt s.cmp s.lka s.seam x_tal s.lin s.host s.ic s.prt s.aon s.err s.obs s.rcd) ↔ s0.only ps s :=
  ⟨fun h k hk => by cases k <;> first | exact h _ hk | exact absurd ‹_› hk, fun h k hk => by cases k <;> first | exact h _ hk | exact absurd ‹_› hk⟩
theorem only_tileQ (ps : List Piece) (s0 s : State) x_tileQ (h_tileQ : Piece.tileQ ∈ ps) :
    s0.only ps (State.mk s.pending s.held s.part s.mem s.poison s.veil s.reqs s.orphans s.nextId s.free x_tileQ s.out s.latch s.gal s.trn s.flt s.epo s.plt s.cmp s.lka s.seam s.tal s.lin s.host s.ic s.prt s.aon s.err s.obs s.rcd) ↔ s0.only ps s :=
  ⟨fun h k hk => by cases k <;> first | exact h _ hk | exact absurd ‹_› hk, fun h k hk => by cases k <;> first | exact h _ hk | exact absurd ‹_› hk⟩
theorem only_trn (ps : List Piece) (s0 s : State) x_trn (h_trn : Piece.trn ∈ ps) :
    s0.only ps (State.mk s.pending s.held s.part s.mem s.poison s.veil s.reqs s.orphans s.nextId s.free s.tileQ s.out s.latch s.gal x_trn s.flt s.epo s.plt s.cmp s.lka s.seam s.tal s.lin s.host s.ic s.prt s.aon s.err s.obs s.rcd) ↔ s0.only ps s :=
  ⟨fun h k hk => by cases k <;> first | exact h _ hk | exact absurd ‹_› hk, fun h k hk => by cases k <;> first | exact h _ hk | exact absurd ‹_› hk⟩
theorem only_trn_prt (ps : List Piece) (s0 s : State) x_trn x_prt (h_trn : Piece.trn ∈ ps) (h_prt : Piece.prt ∈ ps) :
    s0.only ps (State.mk s.pending s.held s.part s.mem s.poison s.veil s.reqs s.orphans s.nextId s.free s.tileQ s.out s.latch s.gal x_trn s.flt s.epo s.plt s.cmp s.lka s.seam s.tal s.lin s.host s.ic x_prt s.aon s.err s.obs s.rcd) ↔ s0.only ps s :=
  ⟨fun h k hk => by cases k <;> first | exact h _ hk | exact absurd ‹_› hk, fun h k hk => by cases k <;> first | exact h _ hk | exact absurd ‹_› hk⟩
theorem only_veil (ps : List Piece) (s0 s : State) x_veil (h_veil : Piece.veil ∈ ps) :
    s0.only ps (State.mk s.pending s.held s.part s.mem s.poison x_veil s.reqs s.orphans s.nextId s.free s.tileQ s.out s.latch s.gal s.trn s.flt s.epo s.plt s.cmp s.lka s.seam s.tal s.lin s.host s.ic s.prt s.aon s.err s.obs s.rcd) ↔ s0.only ps s :=
  ⟨fun h k hk => by cases k <;> first | exact h _ hk | exact absurd ‹_› hk, fun h k hk => by cases k <;> first | exact h _ hk | exact absurd ‹_› hk⟩
theorem only_refl (ps : List Piece) (s : State) : s.only ps s := fun k _ => by cases k <;> rfl
theorem only_ite {ps : List Piece} {s0 a b : State} (c : Prop) [Decidable c] (ha : s0.only ps a) (hb : s0.only ps b) :
    s0.only ps (if c then a else b) := by split <;> assumption
theorem only_foldl {α : Type} {ps : List Piece} {s0 : State} (g : State → α → State) (hg : ∀ s a, s0.only ps s → s0.only ps (g s a))
    (l : List α) (s : State) (h : s0.only ps s) : s0.only ps (l.foldl g s) := by
  induction l generalizing s with
  | nil => exact h
  | cons a r ih => exact ih _ (hg _ _ h)
theorem State.addPhys_only {ps : List Piece} {s0 : State} (s : State) (x1 : Owner) (x2 : Nat) (x3 : Nat) (x4 : Nat) (x5 : Nat) (x6 : Acc) (h : s0.only ps s) (h_reqs : .reqs ∈ ps := by simp [*]) (h_nextId : .nextId ∈ ps := by simp [*]) :
    s0.only ps (State.addPhys s x1 x2 x3 x4 x5 x6) := by
  unfold State.addPhys
  repeat' first | with_reducible assumption | simp only [only_reqs_nextId, h_reqs, h_nextId]
theorem State.addPhysWrite_only {ps : List Piece} {s0 : State} (s : State) (x1 : Owner) (x2 : Nat) (x3 : Nat) (x4 : Nat) (x5 : Bytes) (h : s0.only ps s) (h_reqs : .reqs ∈ ps := by simp [*]) (h_nextId : .nextId ∈ ps := by simp [*]) :
    s0.only ps (State.addPhysWrite s x1 x2 x3 x4 x5) := by
  unfold State.addPhysWrite
  repeat' first | with_reducible assumption | simp only [only_reqs_nextId, h_reqs, h_nextId]
theorem State.addReq_only {ps : List Piece} {s0 : State} (s : State) (x1 : Owner) (x2 : Nat) (x3 : Nat) (x4 : Nat) (x5 : Nat) (x6 : Nat) (x7 : Acc) (x8 : Bytes) (x9 : List Bool) (h : s0.only ps s) (h_reqs : .reqs ∈ ps := by simp [*]) (h_nextId : .nextId ∈ ps := by simp [*]) :
    s0.only ps (State.addReq s x1 x2 x3 x4 x5 x6 x7 x8 x9) := by
  unfold State.addReq
  repeat' first | with_reducible assumption | simp only [only_reqs_nextId, h_reqs, h_nextId]
theorem State.pcntAdd_only {ps : List Piece} {s0 : State} (s : State) (x1 : Nat) (x2 : Nat) (x3 : Nat) (h : s0.only ps s) (h_obs : .obs ∈ ps := by simp [*]) :
    s0.only ps (State.pcntAdd s x1 x2 x3) := by
  unfold State.pcntAdd
  repeat' first | with_reducible assumption | simp only [only_obs, h_obs] | with_reducible apply only_ite
theorem State.chargeTo_only {ps : List Piece} {s0 : State} (s : State) (x1 : Nat) (x2 : Nat) (h : s0.only ps s) (h_prt : .prt ∈ ps := by simp [*]) (h_obs : .obs ∈ ps := by simp [*]) :
    s0.only ps (State.chargeTo s x1 x2) := by
  unfold State.chargeTo
  repeat' first | with_reducible assumption | with_reducible apply State.pcntAdd_only | simp only [only_prt, h_prt, h_obs]
theorem State.dropReq_only {ps : List Piece} {s0 : State} (s : State) (x1 : Nat) (h : s0.only ps s) (h_reqs : .reqs ∈ ps := by simp [*]) (h_orphans : .orphans ∈ ps := by simp [*]) (h_trn : .trn ∈ ps := by simp [*]) :
    s0.only ps (State.dropReq s x1) := by
  unfold State.dropReq
  repeat' first | with_reducible assumption | simp only [only_reqs_orphans_trn, h_reqs, h_orphans, h_trn]
theorem State.dropReqs_only {ps : List Piece} {s0 : State} (s : State) (x1 : Req → Bool) (h : s0.only ps s) (h_reqs : .reqs ∈ ps := by simp [*]) (h_orphans : .orphans ∈ ps := by simp [*]) (h_trn : .trn ∈ ps := by simp [*]) :
    s0.only ps (State.dropReqs s x1) := by
  unfold State.dropReqs
  repeat' first
    | with_reducible assumption | with_reducible apply State.dropReq_only
    | (with_reducible apply only_foldl; intro _ _ _; try dsimp only)
theorem State.emit_only {ps : List Piece} {s0 : State} (s : State) (x1 : OutMsg) (h : s0.only ps s) (h_out : .out ∈ ps := by simp [*]) :
    s0.only ps (State.emit s x1) := by
  unfold State.emit
  repeat' first | with_reducible assumption | simp only [only_out, h_out]
theorem State.setComp_only {ps : List Piece} {s0 : State} (s : State) (x1 : Nat) (x2 : Comp) (h : s0.only ps s) (h_cmp : .cmp ∈ ps := by simp [*]) :
    s0.only ps (State.setComp s x1 x2) := by
  unfold State.setComp
  repeat' first | with_reducible assumption | simp only [only_cmp, h_cmp]
theorem State.modComp_only {ps : List Piece} {s0 : State} (s : State) (x1 : Nat) (x2 : Comp → Comp) (h : s0.only ps s) (h_cmp : .cmp ∈ ps := by simp [*]) :
    s0.only ps (State.modComp s x1 x2) := by
  unfold State.modComp
  repeat' first | with_reducible assumption | with_reducible apply State.setComp_only
theorem State.setEng_only {ps : List Piece} {s0 : State} (s : State) (x1 : Nat) (x2 : Eng) (h : s0.only ps s) (h_plt : .plt ∈ ps := by simp [*]) :
    s0.only ps (State.setEng s x1 x2) := by
  unfold State.setEng
  repeat' first | with_reducible assumption | simp only [only_plt, h_plt]
theorem State.modEng_only {ps : List Piece} {s0 : State} (s : State) (x1 : Nat) (x2 : Eng → Eng) (h : s0.only ps s) (h_plt : .plt ∈ ps := by simp [*]) :
    s0.only ps (State.modEng s x1 x2) := by
  unfold State.modEng
  repeat' first | with_reducible assumption | with_reducible apply State.setEng_only
theorem State.setFltp_only {ps : List Piece} {s0 : State} (s : State) (x1 : Nat) (x2 : FltP) (h : s0.only ps s) (h_flt : .flt ∈ ps := by simp [*]) :
    s0.only ps (State.setFltp s x1 x2) := by
  unfold State.setFltp
  repeat' first | with_reducible assumption | simp only [only_flt, h_flt]
theorem State.modFltp_only {ps : List Piece} {s0 : State} (s : State) (x1 : Nat) (x2 : FltP → FltP) (h : s0.only ps s) (h_flt : .flt ∈ ps := by simp [*]) :
    s0.only ps (State.modFltp s x1 x2) := by
  unfold State.modFltp
  repeat' first | with_reducible assumption | with_reducible apply State.setFltp_only
theorem State.setQueue_only {ps : List Piece} {s0 : State} (s : State) (x1 : Nat) (x2 : Queue) (h : s0.only ps s) (h_gal : .gal ∈ ps := by simp [*]) :
    s0.only ps (State.setQueue s x1 x2) := by
  unfold State.setQueue
  repeat' first | with_reducible assumption | simp only [only_gal, h_gal]
theorem State.modQueue_only {ps : List Piece} {s0 : State} (s : State) (x1 : Nat) (x2 : Queue → Queue) (h : s0.only ps s) (h_gal : .gal ∈ ps := by simp [*]) :
    s0.only ps (State.modQueue s x1 x2) := by
  unfold State.modQueue
  repeat' first | with_reducible assumption | with_reducible apply State.setQueue_only
theorem State.setDom_only {ps : List Piece} {s0 : State} (s : State) (x1 : Nat) (x2 : Dom) (h : s0.only ps s) (h_aon : .aon ∈ ps := by simp [*]) :
    s0.only ps (State.setDom s x1 x2) := by
  unfold State.setDom
  repeat' first | with_reducible assumption | simp only [only_aon, h_aon]
theorem State.setFn_only {ps : List Piece} {s0 : State} (s : State) (x1 : Nat) (x2 : Fn) (h : s0.only ps s) (h_host : .host ∈ ps := by simp [*]) :
    s0.only ps (State.setFn s x1 x2) := by
  unfold State.setFn
  repeat' first | with_reducible assumption | simp only [only_host, h_host]
theorem State.setLink_only {ps : List Piece} {s0 : State} (s : State) (x1 : Nat) (x2 : Link) (h : s0.only ps s) (h_host : .host ∈ ps := by simp [*]) :
    s0.only ps (State.setLink s x1 x2) := by
  unfold State.setLink
  repeat' first | with_reducible assumption | simp only [only_host, h_host]
theorem State.setLk_only {ps : List Piece} {s0 : State} (s : State) (x1 : Nat) (x2 : Lka) (h : s0.only ps s) (h_lka : .lka ∈ ps := by simp [*]) :
    s0.only ps (State.setLk s x1 x2) := by
  unfold State.setLk
  repeat' first | with_reducible assumption | simp only [only_lka, h_lka]
theorem State.setReq_only {ps : List Piece} {s0 : State} (s : State) (x1 : Req) (h : s0.only ps s) (h_reqs : .reqs ∈ ps := by simp [*]) :
    s0.only ps (State.setReq s x1) := by
  unfold State.setReq
  repeat' first | with_reducible assumption | simp only [only_reqs, h_reqs]
theorem State.setTable_only {ps : List Piece} {s0 : State} (s : State) (x1 : Nat) (x2 : Table) (h : s0.only ps s) (h_epo : .epo ∈ ps := by simp [*]) :
    s0.only ps (State.setTable s x1 x2) := by
  unfold State.setTable
  repeat' first | with_reducible assumption | simp only [only_epo, h_epo]
theorem State.setTally_only {ps : List Piece} {s0 : State} (s : State) (x1 : Nat) (x2 : Tally) (h : s0.only ps s) (h_tal : .tal ∈ ps := by simp [*]) :
    s0.only ps (State.setTally s x1 x2) := by
  unfold State.setTally
  repeat' first | with_reducible assumption | simp only [only_tal, h_tal]
theorem State.setTrp_only {ps : List Piece} {s0 : State} (s : State) (x1 : Nat) (x2 : TrP) (h : s0.only ps s) (h_obs : .obs ∈ ps := by simp [*]) :
    s0.only ps (State.setTrp s x1 x2) := by
  unfold State.setTrp
  repeat' first | with_reducible assumption | simp only [only_obs, h_obs]
theorem State.setUnit_only {ps : List Piece} {s0 : State} (s : State) (x1 : Nat) (x2 : Nat) (x3 : UnitS) (h : s0.only ps s) (h_aon : .aon ∈ ps := by simp [*]) :
    s0.only ps (State.setUnit s x1 x2 x3) := by
  unfold State.setUnit
  repeat' first | with_reducible assumption | simp only [only_aon, h_aon]
theorem State.setWin_only {ps : List Piece} {s0 : State} (s : State) (x1 : Nat) (x2 : WinU) (h : s0.only ps s) (h_seam : .seam ∈ ps := by simp [*]) :
    s0.only ps (State.setWin s x1 x2) := by
  unfold State.setWin
  repeat' first | with_reducible assumption | simp only [only_seam, h_seam]
theorem State.storeMem_only {ps : List Piece} {s0 : State} (s : State) (x1 : Nat) (x2 : Bytes) (x3 : List Bool) (h : s0.only ps s) (h_mem : .mem ∈ ps := by simp [*]) :
    s0.only ps (State.storeMem s x1 x2 x3) := by
  unfold State.storeMem
  repeat' first | with_reducible assumption | simp only [only_mem, h_mem]
theorem State.toTile_only {ps : List Piece} {s0 : State} (s : State) (x1 : Nat) (x2 : OutMsg) (h : s0.only ps s) (h_tileQ : .tileQ ∈ ps := by simp [*]) (h_out : .out ∈ ps := by simp [*]) :
    s0.only ps (State.toTile s x1 x2) := by
  unfold State.toTile
  repeat' first
    | with_reducible assumption | with_reducible apply State.emit_only | simp only [only_tileQ, h_tileQ, h_out]
    | with_reducible apply only_ite
theorem State.toTiles_only {ps : List Piece} {s0 : State} (s : State) (x1 : OutMsg) (h : s0.only ps s) (h_tileQ : .tileQ ∈ ps := by simp [*]) (h_out : .out ∈ ps := by simp [*]) :
    s0.only ps (State.toTiles s x1) := by
  unfold State.toTiles
  repeat' first | with_reducible assumption | with_reducible apply State.emit_only | simp only [only_tileQ, h_tileQ, h_out]
theorem State.useFree_only {ps : List Piece} {s0 : State} (s : State) (x1 : Nat) (h : s0.only ps s) (h_free : .free ∈ ps := by simp [*]) :
    s0.only ps (State.useFree s x1) := by
  unfold State.useFree
  repeat' first | with_reducible assumption | simp only [only_free, h_free]
theorem State.wakeOne_only {ps : List Piece} {s0 : State} (s : State) (x1 : Nat) (h : s0.only ps s) (h_aon : .aon ∈ ps := by simp [*]) :
    s0.only ps (State.wakeOne s x1) := by
  unfold State.wakeOne
  repeat' first | with_reducible assumption | with_reducible apply State.setDom_only | split
theorem State.wake_only {ps : List Piece} {s0 : State} (s : State) (x1 : Nat) (h : s0.only ps s) (h_aon : .aon ∈ ps := by simp [*]) :
    s0.only ps (State.wake s x1) := by
  unfold State.wake
  repeat' first | with_reducible assumption | with_reducible apply State.wakeOne_only | split
theorem State.countErr_only {ps : List Piece} {s0 : State} (s : State) (x1 : Nat) (h : s0.only ps s) (h_err : .err ∈ ps := by simp [*]) :
    s0.only ps (State.countErr s x1) := by
  unfold State.countErr
  repeat' first | with_reducible assumption | simp only [only_err, h_err] | split
theorem State.updFerr_only {ps : List Piece} {s0 : State} (s : State) (h : s0.only ps s) (h_err : .err ∈ ps := by simp [*]) :
    s0.only ps (State.updFerr s) := by
  unfold State.updFerr
  repeat' first | with_reducible assumption | simp only [only_err, h_err] | with_reducible apply only_ite
theorem State.raise_only {ps : List Piece} {s0 : State} (s : State) (x1 : Nat) (h : s0.only ps s) (h_ic : .ic ∈ ps := by simp [*]) :
    s0.only ps (State.raise s x1) := by
  unfold State.raise
  repeat' first | with_reducible assumption | simp only [only_ic, h_ic] | with_reducible apply only_ite
theorem State.relevel_only {ps : List Piece} {s0 : State} (s : State) (x1 : State) (h : s0.only ps s) (h_ic : .ic ∈ ps := by simp [*]) :
    s0.only ps (State.relevel s x1) := by
  unfold State.relevel
  repeat' first
    | with_reducible assumption | with_reducible apply State.raise_only | with_reducible apply only_ite
    | (with_reducible apply only_foldl; intro _ _ _; try dsimp only)
theorem State.pulse_only {ps : List Piece} {s0 : State} (s : State) (x1 : Nat) (h : s0.only ps s) (h_ic : .ic ∈ ps := by simp [*]) (h_err : .err ∈ ps := by simp [*]) :
    s0.only ps (State.pulse s x1) := by
  unfold State.pulse
  repeat' first
    | with_reducible assumption | with_reducible apply State.countErr_only | with_reducible apply State.updFerr_only
    | with_reducible apply State.relevel_only | simp only [only_err, h_ic, h_err] | with_reducible apply only_ite
theorem State.badAccess_only {ps : List Piece} {s0 : State} (s : State) (h : s0.only ps s) (h_ic : .ic ∈ ps := by simp [*]) (h_err : .err ∈ ps := by simp [*]) :
    s0.only ps (State.badAccess s) := by
  unfold State.badAccess
  repeat' first | with_reducible assumption | with_reducible apply State.pulse_only
theorem State.dropHeld_only {ps : List Piece} {s0 : State} (s : State) (x1 : Nat → Bool) (h : s0.only ps s) (h_held : .held ∈ ps := by simp [*]) :
    s0.only ps (State.dropHeld s x1) := by
  unfold State.dropHeld
  repeat' first | with_reducible assumption | simp only [only_held, h_held]
theorem State.hold_only {ps : List Piece} {s0 : State} (s : State) (x1 : Instr) (h : s0.only ps s) (h_held : .held ∈ ps := by simp [*]) (h_aon : .aon ∈ ps := by simp [*]) :
    s0.only ps (State.hold s x1) := by
  unfold State.hold
  repeat' first
    | with_reducible assumption | with_reducible apply State.wake_only | simp only [only_held, h_held, h_aon]
    | (with_reducible apply only_foldl; intro _ _ _; try dsimp only)
theorem State.isolation_only {ps : List Piece} {s0 : State} (s : State) (h : s0.only ps s) (h_ic : .ic ∈ ps := by simp [*]) (h_err : .err ∈ ps := by simp [*]) :
    s0.only ps (State.isolation s) := by
  unfold State.isolation
  repeat' first | with_reducible assumption | with_reducible apply State.pulse_only
theorem State.peerDrop_only {ps : List Piece} {s0 : State} (s : State) (h : s0.only ps s) (h_ic : .ic ∈ ps := by simp [*]) (h_err : .err ∈ ps := by simp [*]) :
    s0.only ps (State.peerDrop s) := by
  unfold State.peerDrop
  repeat' first | with_reducible assumption | with_reducible apply State.pulse_only
theorem State.pulses_only {ps : List Piece} {s0 : State} (s : State) (x1 : Nat) (x2 : Nat) (h : s0.only ps s) (h_ic : .ic ∈ ps := by simp [*]) (h_err : .err ∈ ps := by simp [*]) :
    s0.only ps (State.pulses s x1 x2) := by
  induction x2 generalizing s with
  | zero => exact h
  | succ k ih => exact ih _ (State.pulse_only s x1 h)
theorem State.requeue_only {ps : List Piece} {s0 : State} (s : State) (h : s0.only ps s) (h_pending : .pending ∈ ps := by simp [*]) (h_held : .held ∈ ps := by simp [*]) :
    s0.only ps (State.requeue s) := by
  unfold State.requeue
  repeat' first | with_reducible assumption | simp only [only_pending_held, h_pending, h_held]
theorem State.setSysev_only {ps : List Piece} {s0 : State} (s : State) (x1 : W32) (h : s0.only ps s) (h_ic : .ic ∈ ps := by simp [*]) :
    s0.only ps (State.setSysev s x1) := by
  unfold State.setSysev
  repeat' first | with_reducible assumption | with_reducible apply State.relevel_only | simp only [only_ic, h_ic]
theorem State.clearPoison_only {ps : List Piece} {s0 : State} (s : State) (x1 : Nat) (x2 : Nat) (x3 : List Bool) (h : s0.only ps s) (h_poison : .poison ∈ ps := by simp [*]) :
    s0.only ps (State.clearPoison s x1 x2 x3) := by
  unfold State.clearPoison
  repeat' first | with_reducible assumption | simp only [only_poison, h_poison]
theorem State.discard_only {ps : List Piece} {s0 : State} (s : State) (x1 : Nat) (x2 : Proof → Bool) (x3 : Nat × XEntry × W32 → Bool) (x4 : Nat) (h : s0.only ps s) (h_lka : .lka ∈ ps := by simp [*]) :
    s0.only ps (State.discard s x1 x2 x3 x4) := by
  unfold State.discard
  repeat' first
    | with_reducible assumption | with_reducible apply State.setLk_only | simp only [only_lka, h_lka]
    | with_reducible apply only_ite
theorem State.dropProofWalks_only {ps : List Piece} {s0 : State} (s : State) (x1 : Nat) (h : s0.only ps s) (h_reqs : .reqs ∈ ps := by simp [*]) (h_orphans : .orphans ∈ ps := by simp [*]) (h_trn : .trn ∈ ps := by simp [*]) :
    s0.only ps (State.dropProofWalks s x1) := by
  unfold State.dropProofWalks
  repeat' first
    | with_reducible assumption | with_reducible apply State.dropReqs_only | simp only [only_trn, h_reqs, h_orphans, h_trn]
theorem State.discardAll_only {ps : List Piece} {s0 : State} (s : State) (x1 : Nat) (x2 : Nat) (h : s0.only ps s) (h_reqs : .reqs ∈ ps := by simp [*]) (h_orphans : .orphans ∈ ps := by simp [*]) (h_trn : .trn ∈ ps := by simp [*]) (h_lka : .lka ∈ ps := by simp [*]) :
    s0.only ps (State.discardAll s x1 x2) := by
  unfold State.discardAll
  repeat' first
    | with_reducible assumption | with_reducible apply State.dropProofWalks_only | with_reducible apply State.discard_only
    | with_reducible apply State.setLk_only
theorem State.discardEach_only {ps : List Piece} {s0 : State} (s : State) (f : State → Nat → State) (hf : ∀ s n, s0.only ps s → s0.only ps (f s n))
    (h : s0.only ps s) : s0.only ps (s.discardEach f) := only_foldl f hf _ s h
theorem State.discardHits_only {ps : List Piece} {s0 : State} (s : State) (x1 : Nat) (x2 : Proof → Bool) (x3 : Nat × XEntry × W32 → Bool) (x4 : Nat) (h : s0.only ps s) (h_lka : .lka ∈ ps := by simp [*]) :
    s0.only ps (State.discardHits s x1 x2 x3 x4) := by
  unfold State.discardHits
  try dsimp only
  repeat' first
    | with_reducible assumption | with_reducible apply State.discard_only | with_reducible apply State.setLk_only | split
theorem State.handOn_only {ps : List Piece} {s0 : State} (s : State) (x1 : Nat) (h : s0.only ps s) (h_reqs : .reqs ∈ ps := by simp [*]) (h_orphans : .orphans ∈ ps := by simp [*]) (h_out : .out ∈ ps := by simp [*]) (h_trn : .trn ∈ ps := by simp [*]) :
    s0.only ps (State.handOn s x1) := by
  unfold State.handOn
  repeat' first
    | with_reducible assumption | with_reducible apply State.dropReqs_only | with_reducible apply State.emit_only
    | with_reducible apply State.dropReq_only | split
theorem State.loseProof_only {ps : List Piece} {s0 : State} (s : State) (x1 : Nat) (x2 : Nat) (h : s0.only ps s) (h_lka : .lka ∈ ps := by simp [*]) :
    s0.only ps (State.loseProof s x1 x2) := by
  unfold State.loseProof
  repeat' first | with_reducible assumption | with_reducible apply State.setLk_only | simp only [only_lka, h_lka]
theorem State.wipeRegion_only {ps : List Piece} {s0 : State} (s : State) (x1 : Nat) (h : s0.only ps s) (h_mem : .mem ∈ ps := by simp [*]) (h_poison : .poison ∈ ps := by simp [*]) :
    s0.only ps (State.wipeRegion s x1) := by
  unfold State.wipeRegion
  repeat' first | with_reducible assumption | simp only [only_mem_poison, h_mem, h_poison]
theorem State.unveil_only {ps : List Piece} {s0 : State} (s : State) (x1 : Nat) (h : s0.only ps s) (h_mem : .mem ∈ ps := by simp [*]) (h_poison : .poison ∈ ps := by simp [*]) (h_veil : .veil ∈ ps := by simp [*]) :
    s0.only ps (State.unveil s x1) := by
  unfold State.unveil
  repeat' first
    | with_reducible assumption | with_reducible apply State.wipeRegion_only
    | simp only [only_veil, h_mem, h_poison, h_veil] | with_reducible apply only_ite
theorem State.unveilRange_only {ps : List Piece} {s0 : State} (s : State) (x1 : Nat) (x2 : Nat) (h : s0.only ps s) (h_mem : .mem ∈ ps := by simp [*]) (h_poison : .poison ∈ ps := by simp [*]) (h_veil : .veil ∈ ps := by simp [*]) :
    s0.only ps (State.unveilRange s x1 x2) := by
  unfold State.unveilRange
  repeat' first
    | with_reducible assumption | with_reducible apply State.unveil_only | with_reducible apply only_ite
    | (with_reducible apply only_foldl; intro _ _ _; try dsimp only)
theorem State.watchDev_only {ps : List Piece} {s0 : State} (s : State) (x1 : Nat) (x2 : Nat) (h : s0.only ps s) (h_lka : .lka ∈ ps := by simp [*]) :
    s0.only ps (State.watchDev s x1 x2) := by
  unfold State.watchDev
  repeat' first
    | with_reducible assumption | with_reducible apply State.discardHits_only
    | (with_reducible apply State.discardEach_only; intro _ _ _; try dsimp only)
theorem State.performWrite_only {ps : List Piece} {s0 : State} (s : State) (x1 : Nat) (x2 : Bytes) (x3 : List Bool) (h : s0.only ps s) (h_mem : .mem ∈ ps := by simp [*]) (h_poison : .poison ∈ ps := by simp [*]) (h_veil : .veil ∈ ps := by simp [*]) (h_lka : .lka ∈ ps := by simp [*]) :
    s0.only ps (State.performWrite s x1 x2 x3) := by
  unfold State.performWrite
  repeat' first
    | with_reducible assumption | with_reducible apply State.watchDev_only | with_reducible apply State.clearPoison_only
    | with_reducible apply State.storeMem_only | with_reducible apply State.unveilRange_only
    | with_reducible apply only_ite
theorem State.performAtomic_only {ps : List Piece} {s0 : State} (s : State) (x1 : Nat) (x2 : AtomOp) (x3 : Nat) (x4 : W64) (x5 : W64) (h : s0.only ps s) (h_mem : .mem ∈ ps := by simp [*]) (h_poison : .poison ∈ ps := by simp [*]) (h_veil : .veil ∈ ps := by simp [*]) (h_lka : .lka ∈ ps := by simp [*]) :
    s0.only ps (State.performAtomic s x1 x2 x3 x4 x5).2 := by
  unfold State.performAtomic
  repeat' first
    | with_reducible assumption | with_reducible apply State.unveilRange_only
    | with_reducible apply State.performWrite_only | split
theorem State.performAtomic_eq {ps : List Piece} {s0 : State} {s : State} {x1 : Nat} {x2 : AtomOp} {x3 : Nat} {x4 : W64} {x5 : W64} {y : Option Bytes} {t : State} (e : (State.performAtomic s x1 x2 x3 x4 x5) = (y, t)) (h : s0.only ps s) (h_mem : .mem ∈ ps := by simp [*]) (h_poison : .poison ∈ ps := by simp [*]) (h_veil : .veil ∈ ps := by simp [*]) (h_lka : .lka ∈ ps := by simp [*]) :
    s0.only ps t := by
  have := State.performAtomic_only s x1 x2 x3 x4 x5 h (ps := ps) (h_mem := h_mem) (h_poison := h_poison) (h_veil := h_veil) (h_lka := h_lka)
  rw [e] at this; exact this
theorem State.watchHost_only {ps : List Piece} {s0 : State} (s : State) (x1 : Nat) (x2 : Nat) (h : s0.only ps s) (h_lka : .lka ∈ ps := by simp [*]) :
    s0.only ps (State.watchHost s x1 x2) := by
  unfold State.watchHost
  repeat' first
    | with_reducible assumption | with_reducible apply State.discardHits_only
    | (with_reducible apply State.discardEach_only; intro _ _ _; try dsimp only)
theorem State.writeBack_only {ps : List Piece} {s0 : State} {s : State} {x1 : Req} {x2 : WReply} {y : WReply} {t : State} (e : (State.writeBack s x1 x2) = some (y, t)) (h : s0.only ps s) (h_mem : .mem ∈ ps := by simp [*]) (h_poison : .poison ∈ ps := by simp [*]) (h_veil : .veil ∈ ps := by simp [*]) (h_lka : .lka ∈ ps := by simp [*]) :
    s0.only ps t := by
  unfold State.writeBack at e
  try dsimp only at e
  repeat' split at e
  all_goals try cases e; done
  all_goals first | contradiction | (simp only [Option.some.injEq, Prod.mk.injEq] at e; obtain ⟨rfl, rfl⟩ := e)
  all_goals
  repeat' first | with_reducible assumption | with_reducible apply State.performWrite_only
theorem State.traceLost_only {ps : List Piece} {s0 : State} (s : State) (x1 : Nat) (h : s0.only ps s) (h_obs : .obs ∈ ps := by simp [*]) :
    s0.only ps (State.traceLost s x1) := by
  unfold State.traceLost
  repeat' first | with_reducible assumption | with_reducible apply State.setTrp_only
theorem State.addTileTrace_only {ps : List Piece} {s0 : State} (s : State) (x1 : Nat) (x2 : Bytes) (h : s0.only ps s) (h_obs : .obs ∈ ps := by simp [*]) :
    s0.only ps (State.addTileTrace s x1 x2) := by
  unfold State.addTileTrace
  repeat' first | with_reducible assumption | with_reducible apply State.traceLost_only | simp only [only_obs, h_obs] | split
theorem State.addTrace_only {ps : List Piece} {s0 : State} (s : State) (x1 : Nat) (x2 : Bytes) (x3 : Bool) (h : s0.only ps s) (h_obs : .obs ∈ ps := by simp [*]) :
    s0.only ps (State.addTrace s x1 x2 x3) := by
  unfold State.addTrace
  repeat' first
    | with_reducible assumption | with_reducible apply State.traceLost_only | simp only [only_obs, h_obs]
    | with_reducible apply only_ite
theorem State.setSram_only {ps : List Piece} {s0 : State} (s : State) (x1 : Nat) (x2 : Nat) (x3 : Nat) (h : s0.only ps s) (h_rcd : .rcd ∈ ps := by simp [*]) :
    s0.only ps (State.setSram s x1 x2 x3) := by
  unfold State.setSram
  repeat' first | with_reducible assumption | simp only [only_rcd, h_rcd]
theorem State.histAdd_only {ps : List Piece} {s0 : State} (s : State) (x1 : Nat) (x2 : Nat) (h : s0.only ps s) (h_rcd : .rcd ∈ ps := by simp [*]) :
    s0.only ps (State.histAdd s x1 x2) := by
  unfold State.histAdd
  repeat' first | with_reducible assumption | with_reducible apply State.setSram_only
theorem State.trackAdd_only {ps : List Piece} {s0 : State} (s : State) (x1 : Nat) (x2 : Nat) (x3 : Nat) (x4 : Nat) (x5 : Nat) (x6 : Nat) (h : s0.only ps s) (h_rcd : .rcd ∈ ps := by simp [*]) :
    s0.only ps (State.trackAdd s x1 x2 x3 x4 x5 x6) := by
  unfold State.trackAdd
  repeat' first | with_reducible assumption | with_reducible apply State.setSram_only | with_reducible apply only_ite
theorem State.metric_only {ps : List Piece} {s0 : State} (s : State) (x1 : Nat) (x2 : Nat) (x3 : Nat) (x4 : Nat) (x5 : Nat) (x6 : Nat) (h : s0.only ps s) (h_rcd : .rcd ∈ ps := by simp [*]) :
    s0.only ps (State.metric s x1 x2 x3 x4 x5 x6) := by
  unfold State.metric
  repeat' first
    | with_reducible assumption | with_reducible apply State.trackAdd_only | with_reducible apply State.histAdd_only
    | simp only [only_rcd, h_rcd] | with_reducible apply only_ite
    | (with_reducible apply only_foldl; intro _ _ _; try dsimp only)
theorem State.noteStamp_only {ps : List Piece} {s0 : State} (s : State) (x1 : Nat) (x2 : PktHead) (h : s0.only ps s) (h_obs : .obs ∈ ps := by simp [*]) :
    s0.only ps (State.noteStamp s x1 x2) := by
  unfold State.noteStamp
  repeat' first
    | with_reducible assumption | with_reducible apply State.addTrace_only | simp only [only_obs, h_obs]
    | with_reducible apply only_ite
theorem State.bringUp_only {ps : List Piece} {s0 : State} (s : State) (x1 : Nat) (h : s0.only ps s) (h_host : .host ∈ ps := by simp [*]) :
    s0.only ps (State.bringUp s x1) := by
  unfold State.bringUp
  repeat' first | with_reducible assumption | with_reducible apply State.setLink_only | with_reducible apply only_ite
theorem State.setBank_only {ps : List Piece} {s0 : State} (s : State) (x1 : Bool) (x2 : Nat) (x3 : Bank) (h : s0.only ps s) (h_ic : .ic ∈ ps := by simp [*]) :
    s0.only ps (State.setBank s x1 x2 x3) := by
  unfold State.setBank
  repeat' first | with_reducible assumption | simp only [only_ic, h_ic] | with_reducible apply only_ite
theorem State.setSrc_only {ps : List Piece} {s0 : State} (s : State) (x1 : Nat) (x2 : Src) (h : s0.only ps s) (h_ic : .ic ∈ ps := by simp [*]) :
    s0.only ps (State.setSrc s x1 x2) := by
  unfold State.setSrc
  repeat' first | with_reducible assumption | simp only [only_ic, h_ic]
theorem State.rearm_only {ps : List Piece} {s0 : State} (s : State) (x1 : Bool) (x2 : Nat) (h : s0.only ps s) (h_out : .out ∈ ps := by simp [*]) (h_ic : .ic ∈ ps := by simp [*]) :
    s0.only ps (State.rearm s x1 x2) := by
  unfold State.rearm
  repeat' first
    | with_reducible assumption | with_reducible apply State.setBank_only | with_reducible apply State.emit_only
    | with_reducible apply only_ite
theorem State.claim_only {ps : List Piece} {s0 : State} (s : State) (x1 : Who) (x2 : BankId) (h : s0.only ps s) (h_out : .out ∈ ps := by simp [*]) (h_ic : .ic ∈ ps := by simp [*]) (h_rcd : .rcd ∈ ps := by simp [*]) :
    s0.only ps (State.claim s x1 x2).2 := by
  unfold State.claim
  try dsimp only
  repeat' first
    | with_reducible assumption | with_reducible apply State.metric_only | with_reducible apply State.setBank_only
    | with_reducible apply State.setSrc_only | with_reducible apply State.rearm_only | split
theorem State.claim_eq {ps : List Piece} {s0 : State} {s : State} {x1 : Who} {x2 : BankId} {y : Nat} {t : State} (e : (State.claim s x1 x2) = (y, t)) (h : s0.only ps s) (h_out : .out ∈ ps := by simp [*]) (h_ic : .ic ∈ ps := by simp [*]) (h_rcd : .rcd ∈ ps := by simp [*]) :
    s0.only ps t := by
  have := State.claim_only s x1 x2 h (ps := ps) (h_out := h_out) (h_ic := h_ic) (h_rcd := h_rcd)
  rw [e] at this; exact this
theorem State.emitMsix_only {ps : List Piece} {s0 : State} (s : State) (x1 : Nat) (x2 : Nat) (h : s0.only ps s) (h_out : .out ∈ ps := by simp [*]) (h_host : .host ∈ ps := by simp [*]) (h_prt : .prt ∈ ps := by simp [*]) (h_obs : .obs ∈ ps := by simp [*]) :
    s0.only ps (State.emitMsix s x1 x2) := by
  unfold State.emitMsix
  repeat' first
    | with_reducible assumption | with_reducible apply State.emit_only | with_reducible apply State.bringUp_only
    | with_reducible apply State.chargeTo_only
theorem State.sendMsix_only {ps : List Piece} {s0 : State} (s : State) (x1 : Nat) (x2 : Nat) (h : s0.only ps s) (h_out : .out ∈ ps := by simp [*]) (h_host : .host ∈ ps := by simp [*]) (h_prt : .prt ∈ ps := by simp [*]) (h_aon : .aon ∈ ps := by simp [*]) (h_obs : .obs ∈ ps := by simp [*]) :
    s0.only ps (State.sendMsix s x1 x2) := by
  unfold State.sendMsix
  repeat' first
    | with_reducible assumption | with_reducible apply State.emitMsix_only | with_reducible apply State.wake_only
    | with_reducible apply State.setFn_only | with_reducible apply only_ite
theorem State.deliver_only {ps : List Piece} {s0 : State} (s : State) (x1 : Bool) (x2 : Nat) (h : s0.only ps s) (h_out : .out ∈ ps := by simp [*]) (h_host : .host ∈ ps := by simp [*]) (h_ic : .ic ∈ ps := by simp [*]) (h_prt : .prt ∈ ps := by simp [*]) (h_aon : .aon ∈ ps := by simp [*]) (h_obs : .obs ∈ ps := by simp [*]) :
    s0.only ps (State.deliver s x1 x2) := by
  unfold State.deliver
  repeat' first
    | with_reducible assumption | with_reducible apply State.emit_only | with_reducible apply State.setBank_only
    | with_reducible apply State.sendMsix_only | with_reducible apply only_ite
theorem State.tryDeliver_only {ps : List Piece} {s0 : State} (s : State) (x1 : Bool) (x2 : Nat) (h : s0.only ps s) (h_out : .out ∈ ps := by simp [*]) (h_host : .host ∈ ps := by simp [*]) (h_ic : .ic ∈ ps := by simp [*]) (h_prt : .prt ∈ ps := by simp [*]) (h_aon : .aon ∈ ps := by simp [*]) (h_obs : .obs ∈ ps := by simp [*]) :
    s0.only ps (State.tryDeliver s x1 x2) := by
  unfold State.tryDeliver
  repeat' first | with_reducible assumption | with_reducible apply State.deliver_only | with_reducible apply only_ite
theorem State.countEdge_only {ps : List Piece} {s0 : State} (s : State) (x1 : Nat) (h : s0.only ps s) (h_out : .out ∈ ps := by simp [*]) (h_host : .host ∈ ps := by simp [*]) (h_ic : .ic ∈ ps := by simp [*]) (h_prt : .prt ∈ ps := by simp [*]) (h_aon : .aon ∈ ps := by simp [*]) (h_obs : .obs ∈ ps := by simp [*]) :
    s0.only ps (State.countEdge s x1) := by
  unfold State.countEdge
  repeat' first
    | with_reducible assumption | with_reducible apply State.tryDeliver_only | with_reducible apply State.setBank_only
    | with_reducible apply only_ite
theorem State.deliverAll_only {ps : List Piece} {s0 : State} (s : State) (h : s0.only ps s) (h_out : .out ∈ ps := by simp [*]) (h_host : .host ∈ ps := by simp [*]) (h_ic : .ic ∈ ps := by simp [*]) (h_prt : .prt ∈ ps := by simp [*]) (h_aon : .aon ∈ ps := by simp [*]) (h_obs : .obs ∈ ps := by simp [*]) :
    s0.only ps (State.deliverAll s) := by
  unfold State.deliverAll
  repeat' first
    | with_reducible assumption | with_reducible apply State.tryDeliver_only
    | (with_reducible apply only_foldl; intro _ _ _; try dsimp only)
theorem State.latchEdge_only {ps : List Piece} {s0 : State} (s : State) (x1 : Nat) (h : s0.only ps s) (h_out : .out ∈ ps := by simp [*]) (h_host : .host ∈ ps := by simp [*]) (h_ic : .ic ∈ ps := by simp [*]) (h_prt : .prt ∈ ps := by simp [*]) (h_aon : .aon ∈ ps := by simp [*]) (h_obs : .obs ∈ ps := by simp [*]) :
    s0.only ps (State.latchEdge s x1) := by
  unfold State.latchEdge
  repeat' first
    | with_reducible assumption | with_reducible apply State.setSrc_only | with_reducible apply State.countEdge_only
    | with_reducible apply only_ite
theorem State.withdraw_only {ps : List Piece} {s0 : State} (s : State) (x1 : Nat) (h : s0.only ps s) (h_ic : .ic ∈ ps := by simp [*]) :
    s0.only ps (State.withdraw s x1) := by
  unfold State.withdraw
  repeat' first | with_reducible assumption | with_reducible apply State.setSrc_only
theorem State.writeCoal_only {ps : List Piece} {s0 : State} (s : State) (x1 : Bool) (x2 : Nat) (x3 : W32) (h : s0.only ps s) (h_out : .out ∈ ps := by simp [*]) (h_host : .host ∈ ps := by simp [*]) (h_ic : .ic ∈ ps := by simp [*]) (h_prt : .prt ∈ ps := by simp [*]) (h_aon : .aon ∈ ps := by simp [*]) (h_obs : .obs ∈ ps := by simp [*]) :
    s0.only ps (State.writeCoal s x1 x2 x3) := by
  unfold State.writeCoal
  repeat' first
    | with_reducible assumption | with_reducible apply State.tryDeliver_only | with_reducible apply State.setBank_only
    | with_reducible apply only_ite
theorem answerRead_only {ps : List Piece} {s0 : State} (w : Who) (x : Nat × State) (h : s0.only ps x.2) (h_out : .out ∈ ps := by simp [*]) :
    s0.only ps (answerRead w x) := State.emit_only _ _ h
theorem State.thresholdEvent_only {ps : List Piece} {s0 : State} (s : State) (x1 : Nat) (h : s0.only ps s) (h_tileQ : .tileQ ∈ ps := by simp [*]) (h_out : .out ∈ ps := by simp [*]) (h_ic : .ic ∈ ps := by simp [*]) (h_obs : .obs ∈ ps := by simp [*]) :
    s0.only ps (State.thresholdEvent s x1) := by
  unfold State.thresholdEvent
  try dsimp only
  repeat' first
    | with_reducible assumption | with_reducible apply State.pcntAdd_only | with_reducible apply State.toTile_only
    | with_reducible apply State.raise_only | split
theorem State.putTally_only {ps : List Piece} {s0 : State} (s : State) (x1 : Nat) (x2 : Tally) (x3 : Bool) (h : s0.only ps s) (h_tileQ : .tileQ ∈ ps := by simp [*]) (h_out : .out ∈ ps := by simp [*]) (h_tal : .tal ∈ ps := by simp [*]) (h_ic : .ic ∈ ps := by simp [*]) (h_obs : .obs ∈ ps := by simp [*]) :
    s0.only ps (State.putTally s x1 x2 x3) := by
  unfold State.putTally
  repeat' first
    | with_reducible assumption | with_reducible apply State.setTally_only | with_reducible apply State.thresholdEvent_only
    | with_reducible apply only_ite
theorem State.tallyAdd_only {ps : List Piece} {s0 : State} (s : State) (x1 : Nat) (x2 : Nat) (h : s0.only ps s) (h_tileQ : .tileQ ∈ ps := by simp [*]) (h_out : .out ∈ ps := by simp [*]) (h_tal : .tal ∈ ps := by simp [*]) (h_ic : .ic ∈ ps := by simp [*]) (h_obs : .obs ∈ ps := by simp [*]) :
    s0.only ps (State.tallyAdd s x1 x2) := by
  unfold State.tallyAdd
  repeat' first | with_reducible assumption | with_reducible apply State.putTally_only
theorem State.townRefuse_only {ps : List Piece} {s0 : State} (s : State) (h : s0.only ps s) (h_seam : .seam ∈ ps := by simp [*]) :
    s0.only ps (State.townRefuse s) := by
  unfold State.townRefuse
  repeat' first | with_reducible assumption | simp only [only_seam, h_seam]
theorem State.addFlight_only {ps : List Piece} {s0 : State} (s : State) (x1 : Arrival) (x2 : Nat) (x3 : Nat) (x4 : Bytes) (x5 : List Bool) (x6 : AtomOp) (x7 : W64) (x8 : W64) (x9 : Option ECode) (h : s0.only ps s) (h_reqs : .reqs ∈ ps := by simp [*]) (h_nextId : .nextId ∈ ps := by simp [*]) (h_seam : .seam ∈ ps := by simp [*]) (h_prt : .prt ∈ ps := by simp [*]) (h_obs : .obs ∈ ps := by simp [*]) :
    s0.only ps (State.addFlight s x1 x2 x3 x4 x5 x6 x7 x8 x9) := by
  unfold State.addFlight
  repeat' first
    | with_reducible assumption | with_reducible apply State.chargeTo_only
    | simp only [only_nextId_seam, only_reqs_nextId, h_reqs, h_nextId, h_seam, h_prt, h_obs]
    | with_reducible apply only_ite
theorem State.pieceHere_only {ps : List Piece} {s0 : State} (s : State) (x1 : Req) (x2 : Nat) (x3 : Nat) (x4 : Reply) (h : s0.only ps s) (h_reqs : .reqs ∈ ps := by simp [*]) (h_orphans : .orphans ∈ ps := by simp [*]) (h_out : .out ∈ ps := by simp [*]) (h_trn : .trn ∈ ps := by simp [*]) :
    s0.only ps (State.pieceHere s x1 x2 x3 x4) := by
  unfold State.pieceHere
  repeat' first
    | with_reducible assumption | with_reducible apply State.setReq_only | with_reducible apply State.handOn_only
    | with_reducible apply only_ite
theorem State.takePort_only {ps : List Piece} {s0 : State} {s : State} {x1 : Nat} {y : Nat} {t : State} (e : (State.takePort s x1) = some (y, t)) (h : s0.only ps s) (h_seam : .seam ∈ ps := by simp [*]) :
    s0.only ps t := by
  unfold State.takePort at e
  rw [Option.map_eq_some_iff] at e
  obtain ⟨i, _, e⟩ := e
  cases e
  exact (only_seam _ _ _ _ h_seam).2 h
theorem State.answerPeer_only {ps : List Piece} {s0 : State} (s : State) (x1 : PktHead) (x2 : Nat) (x3 : Option (Nat × Nat)) (x4 : Reply) (h : s0.only ps s) (h_reqs : .reqs ∈ ps := by simp [*]) (h_orphans : .orphans ∈ ps := by simp [*]) (h_out : .out ∈ ps := by simp [*]) (h_trn : .trn ∈ ps := by simp [*]) (h_seam : .seam ∈ ps := by simp [*]) :
    s0.only ps (State.answerPeer s x1 x2 x3 x4) := by
  unfold State.answerPeer
  repeat' first
    | with_reducible assumption | with_reducible apply State.pieceHere_only
    | with_reducible refine State.takePort_only (by assumption) ?_ | with_reducible apply State.emit_only | split
theorem State.commitWin_only {ps : List Piece} {s0 : State} (s : State) (x1 : Nat) (x2 : Win) (h : s0.only ps s) (h_seam : .seam ∈ ps := by simp [*]) :
    s0.only ps (State.commitWin s x1 x2) := by
  unfold State.commitWin
  repeat' first | with_reducible assumption | with_reducible apply State.setWin_only | simp only [only_seam, h_seam]
theorem State.countFlight_only {ps : List Piece} {s0 : State} (s : State) (x1 : Flight) (x2 : Nat) (h : s0.only ps s) (h_tileQ : .tileQ ∈ ps := by simp [*]) (h_out : .out ∈ ps := by simp [*]) (h_tal : .tal ∈ ps := by simp [*]) (h_ic : .ic ∈ ps := by simp [*]) (h_obs : .obs ∈ ps := by simp [*]) :
    s0.only ps (State.countFlight s x1 x2) := by
  unfold State.countFlight
  repeat' first | with_reducible assumption | with_reducible apply State.tallyAdd_only | split
theorem State.dropPacket_only {ps : List Piece} {s0 : State} (s : State) (x1 : Nat) (h : s0.only ps s) (h_seam : .seam ∈ ps := by simp [*]) (h_ic : .ic ∈ ps := by simp [*]) (h_err : .err ∈ ps := by simp [*]) :
    s0.only ps (State.dropPacket s x1) := by
  unfold State.dropPacket
  repeat' first
    | with_reducible assumption | with_reducible apply State.setWin_only | with_reducible apply State.peerDrop_only
    | with_reducible apply only_ite
theorem State.finishFlight_only {ps : List Piece} {s0 : State} (s : State) (x1 : Flight) (h : s0.only ps s) (h_seam : .seam ∈ ps := by simp [*]) :
    s0.only ps (State.finishFlight s x1) := by
  unfold State.finishFlight
  repeat' first
    | with_reducible assumption | with_reducible apply State.setWin_only | simp only [only_seam, h_seam]
    | with_reducible apply only_ite
theorem State.ingress_only {ps : List Piece} {s0 s : State} {port : Nat} {x : PktHead} {a : Option State} {t : State}
    (e : s.ingress port x = (a, t)) (h : s0.only ps s) (h_ic : .ic ∈ ps := by simp [*]) (h_err : .err ∈ ps := by simp [*]) (h_obs : .obs ∈ ps := by simp [*]) : s0.only ps t := by
  unfold State.ingress at e; dsimp only at e
  have h1 : s0.only ps (if port < 12 then s.noteStamp port x else s) := by split; exact State.noteStamp_only _ _ _ h; exact h
  generalize (if port < 12 then s.noteStamp port x else s) = u at e h1
  repeat' split at e
  all_goals cases e
  · exact State.peerDrop_only _ h
  · exact State.peerDrop_only _ h1
  · exact h1
theorem State.ingress_some {ps : List Piece} {s0 s : State} {port : Nat} {x : PktHead} {u t : State}
    (e : s.ingress port x = (some u, t)) (h : s0.only ps s) (h_ic : .ic ∈ ps := by simp [*]) (h_err : .err ∈ ps := by simp [*]) (h_obs : .obs ∈ ps := by simp [*]) : s0.only ps u := by
  have h2 := State.ingress_only e h
  have : u = t := by
    unfold State.ingress at e; dsimp only at e
    repeat' split at e
    all_goals cases e
    all_goals rfl
  exact this ▸ h2
theorem State.performFlight_only {ps : List Piece} {s0 : State} (s : State) (x1 : Flight) (h : s0.only ps s) (h_mem : .mem ∈ ps := by simp [*]) (h_poison : .poison ∈ ps := by simp [*]) (h_veil : .veil ∈ ps := by simp [*]) (h_reqs : .reqs ∈ ps := by simp [*]) (h_orphans : .orphans ∈ ps := by simp [*]) (h_tileQ : .tileQ ∈ ps := by simp [*]) (h_out : .out ∈ ps := by simp [*]) (h_trn : .trn ∈ ps := by simp [*]) (h_lka : .lka ∈ ps := by simp [*]) (h_seam : .seam ∈ ps := by simp [*]) (h_tal : .tal ∈ ps := by simp [*]) (h_ic : .ic ∈ ps := by simp [*]) (h_obs : .obs ∈ ps := by simp [*]) :
    s0.only ps (State.performFlight s x1) := by
  unfold State.performFlight
  repeat' first
    | with_reducible assumption | with_reducible apply State.finishFlight_only | with_reducible apply State.answerPeer_only
    | with_reducible apply State.performAtomic_only | with_reducible refine State.performAtomic_eq (by assumption) ?_
    | with_reducible apply State.countFlight_only | split
theorem State.settleFlights_only {ps : List Piece} {s0 : State} (s : State) (h : s0.only ps s) (h_mem : .mem ∈ ps := by simp [*]) (h_poison : .poison ∈ ps := by simp [*]) (h_veil : .veil ∈ ps := by simp [*]) (h_reqs : .reqs ∈ ps := by simp [*]) (h_orphans : .orphans ∈ ps := by simp [*]) (h_tileQ : .tileQ ∈ ps := by simp [*]) (h_out : .out ∈ ps := by simp [*]) (h_trn : .trn ∈ ps := by simp [*]) (h_lka : .lka ∈ ps := by simp [*]) (h_seam : .seam ∈ ps := by simp [*]) (h_tal : .tal ∈ ps := by simp [*]) (h_ic : .ic ∈ ps := by simp [*]) (h_obs : .obs ∈ ps := by simp [*]) :
    s0.only ps (State.settleFlights s) := by
  unfold State.settleFlights
  repeat' first
    | with_reducible assumption | with_reducible apply State.performFlight_only | with_reducible apply only_ite
    | (with_reducible apply only_foldl; intro _ _ _; try dsimp only)
theorem State.inAtm_only {ps : List Piece} {s0 : State} (s : State) (x1 : Arrival) (x2 : AtomOp) (x3 : Nat) (x4 : W64) (x5 : W64) (h : s0.only ps s) (h_mem : .mem ∈ ps := by simp [*]) (h_poison : .poison ∈ ps := by simp [*]) (h_veil : .veil ∈ ps := by simp [*]) (h_reqs : .reqs ∈ ps := by simp [*]) (h_orphans : .orphans ∈ ps := by simp [*]) (h_nextId : .nextId ∈ ps := by simp [*]) (h_tileQ : .tileQ ∈ ps := by simp [*]) (h_out : .out ∈ ps := by simp [*]) (h_trn : .trn ∈ ps := by simp [*]) (h_lka : .lka ∈ ps := by simp [*]) (h_seam : .seam ∈ ps := by simp [*]) (h_tal : .tal ∈ ps := by simp [*]) (h_ic : .ic ∈ ps := by simp [*]) (h_prt : .prt ∈ ps := by simp [*]) (h_err : .err ∈ ps := by simp [*]) (h_obs : .obs ∈ ps := by simp [*]) :
    s0.only ps (State.inAtm s x1 x2 x3 x4 x5) := by
  unfold State.inAtm
  repeat' first
    | with_reducible assumption | with_reducible apply State.settleFlights_only | with_reducible apply State.addFlight_only
    | with_reducible apply State.answerPeer_only | with_reducible apply State.dropPacket_only
    | with_reducible refine State.ingress_only (by assumption) ?_
    | with_reducible refine State.ingress_some (by assumption) ?_ | split
theorem State.inRd_only {ps : List Piece} {s0 : State} (s : State) (x1 : Arrival) (x2 : Nat) (x3 : Option ECode) (h : s0.only ps s) (h_mem : .mem ∈ ps := by simp [*]) (h_poison : .poison ∈ ps := by simp [*]) (h_veil : .veil ∈ ps := by simp [*]) (h_reqs : .reqs ∈ ps := by simp [*]) (h_orphans : .orphans ∈ ps := by simp [*]) (h_nextId : .nextId ∈ ps := by simp [*]) (h_tileQ : .tileQ ∈ ps := by simp [*]) (h_out : .out ∈ ps := by simp [*]) (h_trn : .trn ∈ ps := by simp [*]) (h_lka : .lka ∈ ps := by simp [*]) (h_seam : .seam ∈ ps := by simp [*]) (h_tal : .tal ∈ ps := by simp [*]) (h_ic : .ic ∈ ps := by simp [*]) (h_prt : .prt ∈ ps := by simp [*]) (h_err : .err ∈ ps := by simp [*]) (h_obs : .obs ∈ ps := by simp [*]) :
    s0.only ps (State.inRd s x1 x2 x3) := by
  unfold State.inRd
  repeat' first
    | with_reducible assumption | with_reducible apply State.settleFlights_only | with_reducible apply State.addFlight_only
    | with_reducible apply State.answerPeer_only | with_reducible apply State.dropPacket_only
    | with_reducible refine State.ingress_only (by assumption) ?_
    | with_reducible refine State.ingress_some (by assumption) ?_ | split
theorem State.inTadd_only {ps : List Piece} {s0 : State} (s : State) (x1 : Arrival) (x2 : BitVec 48) (h : s0.only ps s) (h_tileQ : .tileQ ∈ ps := by simp [*]) (h_out : .out ∈ ps := by simp [*]) (h_seam : .seam ∈ ps := by simp [*]) (h_tal : .tal ∈ ps := by simp [*]) (h_ic : .ic ∈ ps := by simp [*]) (h_prt : .prt ∈ ps := by simp [*]) (h_err : .err ∈ ps := by simp [*]) (h_obs : .obs ∈ ps := by simp [*]) :
    s0.only ps (State.inTadd s x1 x2) := by
  unfold State.inTadd
  repeat' first
    | with_reducible assumption | with_reducible apply State.tallyAdd_only | with_reducible apply State.chargeTo_only
    | with_reducible apply State.dropPacket_only | with_reducible refine State.ingress_only (by assumption) ?_
    | with_reducible refine State.ingress_some (by assumption) ?_ | split
theorem State.inWr_only {ps : List Piece} {s0 : State} (s : State) (x1 : Arrival) (x2 : Bytes) (x3 : List Bool) (h : s0.only ps s) (h_reqs : .reqs ∈ ps := by simp [*]) (h_nextId : .nextId ∈ ps := by simp [*]) (h_seam : .seam ∈ ps := by simp [*]) (h_ic : .ic ∈ ps := by simp [*]) (h_prt : .prt ∈ ps := by simp [*]) (h_err : .err ∈ ps := by simp [*]) (h_obs : .obs ∈ ps := by simp [*]) :
    s0.only ps (State.inWr s x1 x2 x3) := by
  unfold State.inWr
  repeat' first
    | with_reducible assumption | with_reducible apply State.addFlight_only | with_reducible apply State.dropPacket_only
    | with_reducible refine State.ingress_only (by assumption) ?_
    | with_reducible refine State.ingress_some (by assumption) ?_ | split
theorem State.lateCpl_only {ps : List Piece} {s0 : State} (s : State) (x1 : Nat) (x2 : Nat) (h : s0.only ps s) (h_ic : .ic ∈ ps := by simp [*]) (h_err : .err ∈ ps := by simp [*]) (h_rcd : .rcd ∈ ps := by simp [*]) :
    s0.only ps (State.lateCpl s x1 x2) := by
  unfold State.lateCpl
  repeat' first
    | with_reducible assumption | with_reducible apply State.metric_only | with_reducible apply State.pulse_only | split
theorem State.loopPosted_only {ps : List Piece} {s0 : State} (s : State) (x1 : Req) (x2 : Nat) (h : s0.only ps s) (h_reqs : .reqs ∈ ps := by simp [*]) (h_nextId : .nextId ∈ ps := by simp [*]) (h_tileQ : .tileQ ∈ ps := by simp [*]) (h_out : .out ∈ ps := by simp [*]) (h_seam : .seam ∈ ps := by simp [*]) (h_tal : .tal ∈ ps := by simp [*]) (h_ic : .ic ∈ ps := by simp [*]) (h_prt : .prt ∈ ps := by simp [*]) (h_err : .err ∈ ps := by simp [*]) (h_obs : .obs ∈ ps := by simp [*]) :
    s0.only ps (State.loopPosted s x1 x2) := by
  unfold State.loopPosted
  repeat' first
    | with_reducible assumption | with_reducible apply State.inTadd_only | with_reducible apply State.inWr_only
    | with_reducible apply only_ite | (with_reducible apply only_foldl; intro _ _ _; try dsimp only)
theorem State.loopRead_only {ps : List Piece} {s0 : State} (s : State) (x1 : Req) (x2 : Nat) (h : s0.only ps s) (h_mem : .mem ∈ ps := by simp [*]) (h_poison : .poison ∈ ps := by simp [*]) (h_veil : .veil ∈ ps := by simp [*]) (h_reqs : .reqs ∈ ps := by simp [*]) (h_orphans : .orphans ∈ ps := by simp [*]) (h_nextId : .nextId ∈ ps := by simp [*]) (h_tileQ : .tileQ ∈ ps := by simp [*]) (h_out : .out ∈ ps := by simp [*]) (h_trn : .trn ∈ ps := by simp [*]) (h_lka : .lka ∈ ps := by simp [*]) (h_seam : .seam ∈ ps := by simp [*]) (h_tal : .tal ∈ ps := by simp [*]) (h_ic : .ic ∈ ps := by simp [*]) (h_prt : .prt ∈ ps := by simp [*]) (h_err : .err ∈ ps := by simp [*]) (h_obs : .obs ∈ ps := by simp [*]) :
    s0.only ps (State.loopRead s x1 x2) := by
  unfold State.loopRead
  repeat' first
    | with_reducible assumption | with_reducible apply State.inAtm_only | with_reducible apply State.inRd_only
    | with_reducible apply only_ite | (with_reducible apply only_foldl; intro _ _ _; try dsimp only)
theorem State.scheduleWin_only {ps : List Piece} {s0 : State} (s : State) (x1 : Nat) (h : s0.only ps s) (h_seam : .seam ∈ ps := by simp [*]) :
    s0.only ps (State.scheduleWin s x1) := by
  unfold State.scheduleWin
  repeat' first | with_reducible assumption | with_reducible apply State.setWin_only
theorem State.sendPacket_only {ps : List Piece} {s0 : State} (s : State) (x1 : Req) (x2 : Nat) (x3 : Nat) (x4 : Nat) (h : s0.only ps s) (h_out : .out ∈ ps := by simp [*]) (h_seam : .seam ∈ ps := by simp [*]) :
    s0.only ps (State.sendPacket s x1 x2 x3 x4) := by
  unfold State.sendPacket
  repeat' first
    | with_reducible assumption | with_reducible refine State.takePort_only (by assumption) ?_
    | with_reducible apply State.emit_only | split
theorem State.takeEffect_only {ps : List Piece} {s0 : State} (s : State) (x1 : Nat) (h : s0.only ps s) (h_seam : .seam ∈ ps := by simp [*]) :
    s0.only ps (State.takeEffect s x1) := by
  unfold State.takeEffect
  repeat' first | with_reducible assumption | with_reducible apply State.commitWin_only | split
theorem State.setLin_only {ps : List Piece} {s0 : State} (s : State) (x1 : Lin) (h : s0.only ps s) (h_lin : .lin ∈ ps := by simp [*]) :
    s0.only ps (State.setLin s x1) := by
  unfold State.setLin
  repeat' first | with_reducible assumption | simp only [only_lin, h_lin]
theorem State.snoopAll_only {ps : List Piece} {s0 : State} (s : State) (x1 : List (Nat × Nat × Nat)) (h : s0.only ps s) (h_tileQ : .tileQ ∈ ps := by simp [*]) (h_out : .out ∈ ps := by simp [*]) :
    s0.only ps (State.snoopAll s x1) := by
  unfold State.snoopAll
  repeat' first
    | with_reducible assumption | with_reducible apply State.toTile_only
    | (with_reducible apply only_foldl; intro _ _ _; try dsimp only)
theorem State.putTxn_only {ps : List Piece} {s0 : State} (s : State) (x1 : Txn) (h : s0.only ps s) (h_lin : .lin ∈ ps := by simp [*]) :
    s0.only ps (State.putTxn s x1) := by
  unfold State.putTxn
  repeat' first | with_reducible assumption | with_reducible apply State.setLin_only
theorem State.dropEntry_only {ps : List Piece} {s0 : State} (s : State) (x1 : Nat) (h : s0.only ps s) (h_lin : .lin ∈ ps := by simp [*]) :
    s0.only ps (State.dropEntry s x1) := by
  unfold State.dropEntry
  repeat' first | with_reducible assumption | with_reducible apply State.setLin_only
theorem State.emitAll_only {ps : List Piece} {s0 : State} (s : State) (x1 : List OutMsg) (h : s0.only ps s) (h_out : .out ∈ ps := by simp [*]) :
    s0.only ps (State.emitAll s x1) := by
  unfold State.emitAll
  repeat' first | with_reducible assumption | simp only [only_out, h_out]
theorem State.hostDone_only {ps : List Piece} {s0 : State} (s : State) (x1 : Bool) (x2 : Nat) (h : s0.only ps s) (h_out : .out ∈ ps := by simp [*]) (h_lin : .lin ∈ ps := by simp [*]) :
    s0.only ps (State.hostDone s x1 x2) := by
  unfold State.hostDone
  repeat' first
    | with_reducible assumption | with_reducible apply State.emitAll_only | with_reducible apply State.setLin_only
theorem State.closeTxn_only {ps : List Piece} {s0 : State} (s : State) (x1 : Txn) (h : s0.only ps s) (h_out : .out ∈ ps := by simp [*]) (h_lin : .lin ∈ ps := by simp [*]) :
    s0.only ps (State.closeTxn s x1) := by
  unfold State.closeTxn
  repeat' first
    | with_reducible assumption | with_reducible apply State.setLin_only | with_reducible apply State.hostDone_only | split
theorem State.putEntry_only {ps : List Piece} {s0 : State} (s : State) (x1 : LEntry) (h : s0.only ps s) (h_lin : .lin ∈ ps := by simp [*]) :
    s0.only ps (State.putEntry s x1) := by
  unfold State.putEntry
  repeat' first | with_reducible assumption | with_reducible apply State.setLin_only
theorem State.ownerGone_only {ps : List Piece} {s0 : State} (s : State) (x1 : LEntry) (h : s0.only ps s) (h_lin : .lin ∈ ps := by simp [*]) :
    s0.only ps (State.ownerGone s x1) := by
  unfold State.ownerGone
  repeat' first
    | with_reducible assumption | with_reducible apply State.dropEntry_only | with_reducible apply State.putEntry_only
    | split
theorem State.dropPtr_only {ps : List Piece} {s0 : State} (s : State) (x1 : LEntry) (x2 : Nat) (h : s0.only ps s) (h_lin : .lin ∈ ps := by simp [*]) :
    s0.only ps (State.dropPtr s x1 x2) := by
  unfold State.dropPtr
  repeat' first
    | with_reducible assumption | with_reducible apply State.ownerGone_only | with_reducible apply State.dropEntry_only
    | with_reducible apply State.putEntry_only | split
theorem State.orphanRds_only {ps : List Piece} {s0 : State} (s : State) (x1 : Txn) (h : s0.only ps s) (h_lin : .lin ∈ ps := by simp [*]) :
    s0.only ps (State.orphanRds s x1) := by
  unfold State.orphanRds
  repeat' first
    | with_reducible assumption | with_reducible apply State.ownerGone_only | with_reducible apply State.putEntry_only
    | split
theorem State.grant_only {ps : List Piece} {s0 : State} (s : State) (x1 : Txn) (x2 : Nat) (x3 : Reply) (h : s0.only ps s) (h_out : .out ∈ ps := by simp [*]) (h_lka : .lka ∈ ps := by simp [*]) :
    s0.only ps (State.grant s x1 x2 x3) := by
  unfold State.grant
  repeat' first
    | with_reducible assumption | with_reducible apply State.emit_only | with_reducible apply State.watchDev_only
    | with_reducible apply only_ite
theorem State.closeRds_only {ps : List Piece} {s0 : State} (s : State) (x1 : Txn) (x2 : Reply) (h : s0.only ps s) (h_out : .out ∈ ps := by simp [*]) (h_lka : .lka ∈ ps := by simp [*]) (h_lin : .lin ∈ ps := by simp [*]) :
    s0.only ps (State.closeRds s x1 x2) := by
  unfold State.closeRds
  try dsimp only
  repeat' first
    | with_reducible assumption | with_reducible apply State.grant_only | with_reducible apply State.putEntry_only
    | with_reducible apply State.setLin_only | split
theorem State.toOwner_only {ps : List Piece} {s0 : State} (s : State) (x1 : Txn) (h : s0.only ps s) (h_lin : .lin ∈ ps := by simp [*]) :
    s0.only ps (State.toOwner s x1) := by
  unfold State.toOwner
  repeat' first | with_reducible assumption | with_reducible apply State.putEntry_only
theorem State.finishOwn_only {ps : List Piece} {s0 : State} (s : State) (x1 : Req) (x2 : Nat) (h : s0.only ps s) (h_mem : .mem ∈ ps := by simp [*]) (h_poison : .poison ∈ ps := by simp [*]) (h_veil : .veil ∈ ps := by simp [*]) (h_reqs : .reqs ∈ ps := by simp [*]) (h_orphans : .orphans ∈ ps := by simp [*]) (h_out : .out ∈ ps := by simp [*]) (h_trn : .trn ∈ ps := by simp [*]) (h_lka : .lka ∈ ps := by simp [*]) :
    s0.only ps (State.finishOwn s x1 x2) := by
  unfold State.finishOwn
  repeat' first
    | with_reducible assumption | with_reducible refine State.writeBack_only (by assumption) ?_
    | with_reducible apply State.handOn_only | with_reducible apply State.setReq_only | split
theorem State.fenceDone_only {ps : List Piece} {s0 : State} (s : State) (x1 : Nat) (x2 : Who) (h : s0.only ps s) (h_out : .out ∈ ps := by simp [*]) (h_host : .host ∈ ps := by simp [*]) :
    s0.only ps (State.fenceDone s x1 x2) := by
  unfold State.fenceDone
  repeat' first | with_reducible assumption | with_reducible apply State.emit_only | with_reducible apply State.setLink_only
theorem State.releaseFences_only {ps : List Piece} {s0 : State} (s : State) (x1 : Nat) (h : s0.only ps s) (h_out : .out ∈ ps := by simp [*]) (h_host : .host ∈ ps := by simp [*]) :
    s0.only ps (State.releaseFences s x1) := by
  unfold State.releaseFences
  repeat' first
    | with_reducible assumption | with_reducible apply State.fenceDone_only | with_reducible apply State.setLink_only
    | (with_reducible apply only_foldl; intro _ _ _; try dsimp only)
theorem State.endFlight_only {ps : List Piece} {s0 : State} (s : State) (x1 : Flight) (x2 : Nat) (x3 : Reply) (h : s0.only ps s) (h_mem : .mem ∈ ps := by simp [*]) (h_poison : .poison ∈ ps := by simp [*]) (h_veil : .veil ∈ ps := by simp [*]) (h_reqs : .reqs ∈ ps := by simp [*]) (h_orphans : .orphans ∈ ps := by simp [*]) (h_tileQ : .tileQ ∈ ps := by simp [*]) (h_out : .out ∈ ps := by simp [*]) (h_trn : .trn ∈ ps := by simp [*]) (h_lka : .lka ∈ ps := by simp [*]) (h_seam : .seam ∈ ps := by simp [*]) (h_tal : .tal ∈ ps := by simp [*]) (h_ic : .ic ∈ ps := by simp [*]) (h_obs : .obs ∈ ps := by simp [*]) :
    s0.only ps (State.endFlight s x1 x2 x3) := by
  unfold State.endFlight
  repeat' first
    | with_reducible assumption | with_reducible apply State.settleFlights_only
    | with_reducible apply State.finishFlight_only | with_reducible apply State.dropReq_only
    | with_reducible apply State.answerPeer_only
theorem State.finishOne_only {ps : List Piece} {s0 : State} (s : State) (x1 : Nat) (h : s0.only ps s) (h_mem : .mem ∈ ps := by simp [*]) (h_poison : .poison ∈ ps := by simp [*]) (h_veil : .veil ∈ ps := by simp [*]) (h_reqs : .reqs ∈ ps := by simp [*]) (h_orphans : .orphans ∈ ps := by simp [*]) (h_free : .free ∈ ps := by simp [*]) (h_tileQ : .tileQ ∈ ps := by simp [*]) (h_out : .out ∈ ps := by simp [*]) (h_trn : .trn ∈ ps := by simp [*]) (h_lka : .lka ∈ ps := by simp [*]) (h_seam : .seam ∈ ps := by simp [*]) (h_tal : .tal ∈ ps := by simp [*]) (h_host : .host ∈ ps := by simp [*]) (h_ic : .ic ∈ ps := by simp [*]) (h_obs : .obs ∈ ps := by simp [*]) :
    s0.only ps (State.finishOne s x1) := by
  unfold State.finishOne
  try dsimp only
  repeat' first
    | with_reducible assumption | with_reducible apply State.finishOwn_only | with_reducible apply State.dropReq_only
    | with_reducible apply State.emit_only | with_reducible apply State.useFree_only
    | with_reducible apply State.performWrite_only | with_reducible apply State.releaseFences_only
    | with_reducible apply State.tallyAdd_only | with_reducible apply State.performAtomic_only
    | with_reducible refine State.performAtomic_eq (by assumption) ?_ | with_reducible apply State.endFlight_only
    | with_reducible apply State.countFlight_only | (with_reducible apply only_foldl; intro _ _ _; try dsimp only) | split
theorem State.goOn_only {ps : List Piece} {s0 : State} (s : State) (h : s0.only ps s) (h_mem : .mem ∈ ps := by simp [*]) (h_poison : .poison ∈ ps := by simp [*]) (h_veil : .veil ∈ ps := by simp [*]) (h_reqs : .reqs ∈ ps := by simp [*]) (h_orphans : .orphans ∈ ps := by simp [*]) (h_free : .free ∈ ps := by simp [*]) (h_tileQ : .tileQ ∈ ps := by simp [*]) (h_out : .out ∈ ps := by simp [*]) (h_trn : .trn ∈ ps := by simp [*]) (h_lka : .lka ∈ ps := by simp [*]) (h_seam : .seam ∈ ps := by simp [*]) (h_tal : .tal ∈ ps := by simp [*]) (h_host : .host ∈ ps := by simp [*]) (h_ic : .ic ∈ ps := by simp [*]) (h_obs : .obs ∈ ps := by simp [*]) :
    s0.only ps (State.goOn s) := by
  unfold State.goOn
  repeat' first
    | with_reducible assumption | with_reducible apply State.finishOne_only | with_reducible apply State.settleFlights_only
    | (with_reducible apply only_foldl; intro _ _ _; try dsimp only)
theorem State.finishExt_only {ps : List Piece} {s0 : State} (s : State) (x1 : Nat) (h : s0.only ps s) (h_mem : .mem ∈ ps := by simp [*]) (h_poison : .poison ∈ ps := by simp [*]) (h_veil : .veil ∈ ps := by simp [*]) (h_reqs : .reqs ∈ ps := by simp [*]) (h_orphans : .orphans ∈ ps := by simp [*]) (h_free : .free ∈ ps := by simp [*]) (h_tileQ : .tileQ ∈ ps := by simp [*]) (h_out : .out ∈ ps := by simp [*]) (h_trn : .trn ∈ ps := by simp [*]) (h_lka : .lka ∈ ps := by simp [*]) (h_seam : .seam ∈ ps := by simp [*]) (h_tal : .tal ∈ ps := by simp [*]) (h_host : .host ∈ ps := by simp [*]) (h_ic : .ic ∈ ps := by simp [*]) (h_obs : .obs ∈ ps := by simp [*]) :
    s0.only ps (State.finishExt s x1) := by
  unfold State.finishExt
  repeat' first
    | with_reducible assumption | with_reducible apply State.goOn_only | with_reducible apply State.finishOne_only
theorem State.answerNar_only {ps : List Piece} {s0 : State} (s : State) (x1 : Txn) (x2 : Reply) (h : s0.only ps s) (h_mem : .mem ∈ ps := by simp [*]) (h_poison : .poison ∈ ps := by simp [*]) (h_veil : .veil ∈ ps := by simp [*]) (h_reqs : .reqs ∈ ps := by simp [*]) (h_orphans : .orphans ∈ ps := by simp [*]) (h_free : .free ∈ ps := by simp [*]) (h_tileQ : .tileQ ∈ ps := by simp [*]) (h_out : .out ∈ ps := by simp [*]) (h_trn : .trn ∈ ps := by simp [*]) (h_lka : .lka ∈ ps := by simp [*]) (h_seam : .seam ∈ ps := by simp [*]) (h_tal : .tal ∈ ps := by simp [*]) (h_host : .host ∈ ps := by simp [*]) (h_ic : .ic ∈ ps := by simp [*]) (h_obs : .obs ∈ ps := by simp [*]) :
    s0.only ps (State.answerNar s x1 x2) := by
  unfold State.answerNar
  repeat' first
    | with_reducible assumption | with_reducible apply State.setReq_only | with_reducible apply State.finishExt_only
    | with_reducible apply State.setLk_only | with_reducible apply State.loseProof_only | split
theorem State.fillTarget_only {ps : List Piece} {s0 : State} (s : State) (x1 : Txn) (x2 : Nat) (h : s0.only ps s) (h_tileQ : .tileQ ∈ ps := by simp [*]) (h_out : .out ∈ ps := by simp [*]) (h_lin : .lin ∈ ps := by simp [*]) :
    s0.only ps (State.fillTarget s x1 x2) := by
  unfold State.fillTarget
  repeat' first
    | with_reducible assumption | with_reducible apply State.toTile_only | with_reducible apply State.putEntry_only
theorem State.answerUwr_only {ps : List Piece} {s0 : State} (s : State) (x1 : Txn) (h : s0.only ps s) (h_mem : .mem ∈ ps := by simp [*]) (h_poison : .poison ∈ ps := by simp [*]) (h_veil : .veil ∈ ps := by simp [*]) (h_reqs : .reqs ∈ ps := by simp [*]) (h_orphans : .orphans ∈ ps := by simp [*]) (h_free : .free ∈ ps := by simp [*]) (h_tileQ : .tileQ ∈ ps := by simp [*]) (h_out : .out ∈ ps := by simp [*]) (h_trn : .trn ∈ ps := by simp [*]) (h_lka : .lka ∈ ps := by simp [*]) (h_seam : .seam ∈ ps := by simp [*]) (h_tal : .tal ∈ ps := by simp [*]) (h_host : .host ∈ ps := by simp [*]) (h_ic : .ic ∈ ps := by simp [*]) (h_obs : .obs ∈ ps := by simp [*]) :
    s0.only ps (State.answerUwr s x1) := by
  unfold State.answerUwr
  repeat' first
    | with_reducible assumption | with_reducible apply State.finishExt_only | with_reducible apply State.setReq_only
    | split
theorem State.answerAtm_only {ps : List Piece} {s0 : State} (s : State) (x1 : Txn) (h : s0.only ps s) (h_mem : .mem ∈ ps := by simp [*]) (h_poison : .poison ∈ ps := by simp [*]) (h_veil : .veil ∈ ps := by simp [*]) (h_reqs : .reqs ∈ ps := by simp [*]) (h_orphans : .orphans ∈ ps := by simp [*]) (h_free : .free ∈ ps := by simp [*]) (h_tileQ : .tileQ ∈ ps := by simp [*]) (h_out : .out ∈ ps := by simp [*]) (h_trn : .trn ∈ ps := by simp [*]) (h_lka : .lka ∈ ps := by simp [*]) (h_seam : .seam ∈ ps := by simp [*]) (h_tal : .tal ∈ ps := by simp [*]) (h_host : .host ∈ ps := by simp [*]) (h_ic : .ic ∈ ps := by simp [*]) (h_obs : .obs ∈ ps := by simp [*]) :
    s0.only ps (State.answerAtm s x1) := by
  unfold State.answerAtm
  repeat' first
    | with_reducible assumption | with_reducible apply State.setReq_only | with_reducible apply State.finishExt_only
    | split
theorem State.progress_only {ps : List Piece} {s0 : State} (s : State) (x1 : Txn) (h : s0.only ps s) (h_mem : .mem ∈ ps := by simp [*]) (h_poison : .poison ∈ ps := by simp [*]) (h_veil : .veil ∈ ps := by simp [*]) (h_reqs : .reqs ∈ ps := by simp [*]) (h_orphans : .orphans ∈ ps := by simp [*]) (h_free : .free ∈ ps := by simp [*]) (h_tileQ : .tileQ ∈ ps := by simp [*]) (h_out : .out ∈ ps := by simp [*]) (h_trn : .trn ∈ ps := by simp [*]) (h_lka : .lka ∈ ps := by simp [*]) (h_seam : .seam ∈ ps := by simp [*]) (h_tal : .tal ∈ ps := by simp [*]) (h_lin : .lin ∈ ps := by simp [*]) (h_host : .host ∈ ps := by simp [*]) (h_ic : .ic ∈ ps := by simp [*]) (h_obs : .obs ∈ ps := by simp [*]) :
    s0.only ps (State.progress s x1) := by
  unfold State.progress
  try dsimp only
  repeat' first
    | with_reducible assumption | with_reducible apply State.closeTxn_only | with_reducible apply State.dropPtr_only
    | with_reducible apply State.putTxn_only | with_reducible apply State.orphanRds_only
    | with_reducible apply State.closeRds_only | with_reducible apply State.dropEntry_only
    | with_reducible apply State.grant_only | with_reducible apply State.toOwner_only
    | with_reducible apply State.watchDev_only | with_reducible apply State.emit_only
    | with_reducible apply State.ownerGone_only | with_reducible apply State.answerNar_only
    | with_reducible apply State.fillTarget_only | with_reducible apply State.answerUwr_only
    | with_reducible apply State.answerAtm_only | split
theorem State.advance_only {ps : List Piece} {s0 : State} (s : State) (x1 : Nat) (h : s0.only ps s) (h_mem : .mem ∈ ps := by simp [*]) (h_poison : .poison ∈ ps := by simp [*]) (h_veil : .veil ∈ ps := by simp [*]) (h_reqs : .reqs ∈ ps := by simp [*]) (h_orphans : .orphans ∈ ps := by simp [*]) (h_free : .free ∈ ps := by simp [*]) (h_tileQ : .tileQ ∈ ps := by simp [*]) (h_out : .out ∈ ps := by simp [*]) (h_trn : .trn ∈ ps := by simp [*]) (h_lka : .lka ∈ ps := by simp [*]) (h_seam : .seam ∈ ps := by simp [*]) (h_tal : .tal ∈ ps := by simp [*]) (h_lin : .lin ∈ ps := by simp [*]) (h_host : .host ∈ ps := by simp [*]) (h_ic : .ic ∈ ps := by simp [*]) (h_obs : .obs ∈ ps := by simp [*]) :
    s0.only ps (State.advance s x1) := by
  unfold State.advance
  repeat' first | with_reducible assumption | with_reducible apply State.progress_only | split
theorem State.openTxn_only {ps : List Piece} {s0 : State} (s : State) (x1 : Txn) (h : s0.only ps s) (h_mem : .mem ∈ ps := by simp [*]) (h_poison : .poison ∈ ps := by simp [*]) (h_veil : .veil ∈ ps := by simp [*]) (h_reqs : .reqs ∈ ps := by simp [*]) (h_orphans : .orphans ∈ ps := by simp [*]) (h_free : .free ∈ ps := by simp [*]) (h_tileQ : .tileQ ∈ ps := by simp [*]) (h_out : .out ∈ ps := by simp [*]) (h_trn : .trn ∈ ps := by simp [*]) (h_lka : .lka ∈ ps := by simp [*]) (h_seam : .seam ∈ ps := by simp [*]) (h_tal : .tal ∈ ps := by simp [*]) (h_lin : .lin ∈ ps := by simp [*]) (h_host : .host ∈ ps := by simp [*]) (h_ic : .ic ∈ ps := by simp [*]) (h_obs : .obs ∈ ps := by simp [*]) :
    s0.only ps (State.openTxn s x1) := by
  unfold State.openTxn
  try dsimp only
  repeat' first
    | with_reducible assumption | with_reducible apply State.setLin_only | with_reducible apply State.snoopAll_only
    | with_reducible apply State.putTxn_only | with_reducible apply State.dropEntry_only
    | with_reducible apply State.advance_only | split
theorem State.admitLine_only {ps : List Piece} {s0 : State} (s : State) (x1 : Nat) (h : s0.only ps s) (h_mem : .mem ∈ ps := by simp [*]) (h_poison : .poison ∈ ps := by simp [*]) (h_veil : .veil ∈ ps := by simp [*]) (h_reqs : .reqs ∈ ps := by simp [*]) (h_orphans : .orphans ∈ ps := by simp [*]) (h_free : .free ∈ ps := by simp [*]) (h_tileQ : .tileQ ∈ ps := by simp [*]) (h_out : .out ∈ ps := by simp [*]) (h_trn : .trn ∈ ps := by simp [*]) (h_lka : .lka ∈ ps := by simp [*]) (h_seam : .seam ∈ ps := by simp [*]) (h_tal : .tal ∈ ps := by simp [*]) (h_lin : .lin ∈ ps := by simp [*]) (h_host : .host ∈ ps := by simp [*]) (h_ic : .ic ∈ ps := by simp [*]) (h_obs : .obs ∈ ps := by simp [*]) :
    s0.only ps (State.admitLine s x1) := by
  unfold State.admitLine
  repeat' first
    | with_reducible assumption | with_reducible apply State.openTxn_only | with_reducible apply State.setLin_only | split
theorem State.arrive_only {ps : List Piece} {s0 : State} (s : State) (x1 : Txn) (h : s0.only ps s) (h_mem : .mem ∈ ps := by simp [*]) (h_poison : .poison ∈ ps := by simp [*]) (h_veil : .veil ∈ ps := by simp [*]) (h_reqs : .reqs ∈ ps := by simp [*]) (h_orphans : .orphans ∈ ps := by simp [*]) (h_free : .free ∈ ps := by simp [*]) (h_tileQ : .tileQ ∈ ps := by simp [*]) (h_out : .out ∈ ps := by simp [*]) (h_trn : .trn ∈ ps := by simp [*]) (h_lka : .lka ∈ ps := by simp [*]) (h_seam : .seam ∈ ps := by simp [*]) (h_tal : .tal ∈ ps := by simp [*]) (h_lin : .lin ∈ ps := by simp [*]) (h_host : .host ∈ ps := by simp [*]) (h_ic : .ic ∈ ps := by simp [*]) (h_obs : .obs ∈ ps := by simp [*]) :
    s0.only ps (State.arrive s x1) := by
  unfold State.arrive
  repeat' first
    | with_reducible assumption | with_reducible apply State.admitLine_only | with_reducible apply State.setLin_only
theorem State.agentReq_only {ps : List Piece} {s0 : State} (s : State) (x1 : Nat) (x2 : Nat) (x3 : TxKind) (h : s0.only ps s) (h_mem : .mem ∈ ps := by simp [*]) (h_poison : .poison ∈ ps := by simp [*]) (h_veil : .veil ∈ ps := by simp [*]) (h_reqs : .reqs ∈ ps := by simp [*]) (h_orphans : .orphans ∈ ps := by simp [*]) (h_free : .free ∈ ps := by simp [*]) (h_tileQ : .tileQ ∈ ps := by simp [*]) (h_out : .out ∈ ps := by simp [*]) (h_trn : .trn ∈ ps := by simp [*]) (h_lka : .lka ∈ ps := by simp [*]) (h_seam : .seam ∈ ps := by simp [*]) (h_tal : .tal ∈ ps := by simp [*]) (h_lin : .lin ∈ ps := by simp [*]) (h_host : .host ∈ ps := by simp [*]) (h_ic : .ic ∈ ps := by simp [*]) (h_obs : .obs ∈ ps := by simp [*]) :
    s0.only ps (State.agentReq s x1 x2 x3) := by
  unfold State.agentReq
  repeat' first | with_reducible assumption | with_reducible apply State.arrive_only | with_reducible apply only_ite
theorem State.putVictim_only {ps : List Piece} {s0 : State} (s : State) (x1 : Txn) (x2 : Victim) (h : s0.only ps s) (h_mem : .mem ∈ ps := by simp [*]) (h_poison : .poison ∈ ps := by simp [*]) (h_veil : .veil ∈ ps := by simp [*]) (h_reqs : .reqs ∈ ps := by simp [*]) (h_orphans : .orphans ∈ ps := by simp [*]) (h_free : .free ∈ ps := by simp [*]) (h_tileQ : .tileQ ∈ ps := by simp [*]) (h_out : .out ∈ ps := by simp [*]) (h_trn : .trn ∈ ps := by simp [*]) (h_lka : .lka ∈ ps := by simp [*]) (h_seam : .seam ∈ ps := by simp [*]) (h_tal : .tal ∈ ps := by simp [*]) (h_lin : .lin ∈ ps := by simp [*]) (h_host : .host ∈ ps := by simp [*]) (h_ic : .ic ∈ ps := by simp [*]) (h_obs : .obs ∈ ps := by simp [*]) :
    s0.only ps (State.putVictim s x1 x2) := by
  unfold State.putVictim
  repeat' first
    | with_reducible assumption | with_reducible apply State.advance_only | with_reducible apply State.putTxn_only
    | with_reducible apply State.dropEntry_only | with_reducible apply only_ite
theorem State.answered_only {ps : List Piece} {s0 : State} (s : State) (x1 : Nat) (x2 : Nat) (x3 : Option Bytes) (x4 : Bool) (x5 : Bool) (h : s0.only ps s) (h_mem : .mem ∈ ps := by simp [*]) (h_poison : .poison ∈ ps := by simp [*]) (h_veil : .veil ∈ ps := by simp [*]) (h_reqs : .reqs ∈ ps := by simp [*]) (h_orphans : .orphans ∈ ps := by simp [*]) (h_free : .free ∈ ps := by simp [*]) (h_tileQ : .tileQ ∈ ps := by simp [*]) (h_out : .out ∈ ps := by simp [*]) (h_trn : .trn ∈ ps := by simp [*]) (h_lka : .lka ∈ ps := by simp [*]) (h_seam : .seam ∈ ps := by simp [*]) (h_tal : .tal ∈ ps := by simp [*]) (h_lin : .lin ∈ ps := by simp [*]) (h_host : .host ∈ ps := by simp [*]) (h_ic : .ic ∈ ps := by simp [*]) (h_obs : .obs ∈ ps := by simp [*]) :
    s0.only ps (State.answered s x1 x2 x3 x4 x5) := by
  unfold State.answered
  repeat' first
    | with_reducible assumption | with_reducible apply State.advance_only | with_reducible apply State.putTxn_only
    | with_reducible apply State.putVictim_only | split
theorem State.answerFor_only {ps : List Piece} {s0 : State} (s : State) (x1 : Nat) (h : s0.only ps s) (h_mem : .mem ∈ ps := by simp [*]) (h_poison : .poison ∈ ps := by simp [*]) (h_veil : .veil ∈ ps := by simp [*]) (h_reqs : .reqs ∈ ps := by simp [*]) (h_orphans : .orphans ∈ ps := by simp [*]) (h_free : .free ∈ ps := by simp [*]) (h_tileQ : .tileQ ∈ ps := by simp [*]) (h_out : .out ∈ ps := by simp [*]) (h_trn : .trn ∈ ps := by simp [*]) (h_lka : .lka ∈ ps := by simp [*]) (h_seam : .seam ∈ ps := by simp [*]) (h_tal : .tal ∈ ps := by simp [*]) (h_lin : .lin ∈ ps := by simp [*]) (h_host : .host ∈ ps := by simp [*]) (h_ic : .ic ∈ ps := by simp [*]) (h_obs : .obs ∈ ps := by simp [*]) :
    s0.only ps (State.answerFor s x1) := by
  unfold State.answerFor
  repeat' first
    | with_reducible assumption | with_reducible apply State.answered_only
    | (with_reducible apply only_foldl; intro _ _ _; try dsimp only)
theorem State.consumeWb_only {ps : List Piece} {s0 : State} (s : State) (x1 : Nat) (x2 : Nat) (x3 : Bytes) (h : s0.only ps s) (h_mem : .mem ∈ ps := by simp [*]) (h_poison : .poison ∈ ps := by simp [*]) (h_veil : .veil ∈ ps := by simp [*]) (h_reqs : .reqs ∈ ps := by simp [*]) (h_orphans : .orphans ∈ ps := by simp [*]) (h_free : .free ∈ ps := by simp [*]) (h_tileQ : .tileQ ∈ ps := by simp [*]) (h_out : .out ∈ ps := by simp [*]) (h_trn : .trn ∈ ps := by simp [*]) (h_lka : .lka ∈ ps := by simp [*]) (h_seam : .seam ∈ ps := by simp [*]) (h_tal : .tal ∈ ps := by simp [*]) (h_lin : .lin ∈ ps := by simp [*]) (h_host : .host ∈ ps := by simp [*]) (h_ic : .ic ∈ ps := by simp [*]) (h_obs : .obs ∈ ps := by simp [*]) :
    s0.only ps (State.consumeWb s x1 x2 x3) := by
  unfold State.consumeWb
  repeat' first
    | with_reducible assumption | with_reducible apply State.setLin_only | with_reducible apply State.answered_only
    | with_reducible apply State.emit_only
theorem State.cxlPlain_only {ps : List Piece} {s0 : State} (s : State) (x1 : Bool) (x2 : Nat) (x3 : CxlOp) (h : s0.only ps s) (h_mem : .mem ∈ ps := by simp [*]) (h_poison : .poison ∈ ps := by simp [*]) (h_veil : .veil ∈ ps := by simp [*]) (h_out : .out ∈ ps := by simp [*]) (h_lka : .lka ∈ ps := by simp [*]) :
    s0.only ps (State.cxlPlain s x1 x2 x3) := by
  unfold State.cxlPlain
  repeat' first
    | with_reducible assumption | with_reducible apply State.emit_only | with_reducible apply State.performWrite_only
    | split
theorem State.cxlReq_only {ps : List Piece} {s0 : State} (s : State) (x1 : Bool) (x2 : Nat) (x3 : Bool) (x4 : Bytes) (x5 : List Bool) (x6 : Bool) (h : s0.only ps s) (h_mem : .mem ∈ ps := by simp [*]) (h_poison : .poison ∈ ps := by simp [*]) (h_veil : .veil ∈ ps := by simp [*]) (h_reqs : .reqs ∈ ps := by simp [*]) (h_orphans : .orphans ∈ ps := by simp [*]) (h_nextId : .nextId ∈ ps := by simp [*]) (h_free : .free ∈ ps := by simp [*]) (h_tileQ : .tileQ ∈ ps := by simp [*]) (h_out : .out ∈ ps := by simp [*]) (h_trn : .trn ∈ ps := by simp [*]) (h_lka : .lka ∈ ps := by simp [*]) (h_seam : .seam ∈ ps := by simp [*]) (h_tal : .tal ∈ ps := by simp [*]) (h_lin : .lin ∈ ps := by simp [*]) (h_host : .host ∈ ps := by simp [*]) (h_ic : .ic ∈ ps := by simp [*]) (h_obs : .obs ∈ ps := by simp [*]) :
    s0.only ps (State.cxlReq s x1 x2 x3 x4 x5 x6) := by
  unfold State.cxlReq
  repeat' first
    | with_reducible assumption | with_reducible apply State.answerUwr_only | with_reducible apply State.arrive_only
    | simp only [only_reqs_nextId, h_mem, h_poison, h_veil, h_reqs, h_orphans, h_nextId, h_free, h_tileQ, h_out, h_trn, h_lka, h_seam, h_tal, h_lin, h_host, h_ic, h_obs]
    | with_reducible apply only_ite
theorem State.depart_only {ps : List Piece} {s0 : State} (s : State) (x1 : Nat) (h : s0.only ps s) (h_mem : .mem ∈ ps := by simp [*]) (h_poison : .poison ∈ ps := by simp [*]) (h_veil : .veil ∈ ps := by simp [*]) (h_reqs : .reqs ∈ ps := by simp [*]) (h_orphans : .orphans ∈ ps := by simp [*]) (h_free : .free ∈ ps := by simp [*]) (h_tileQ : .tileQ ∈ ps := by simp [*]) (h_out : .out ∈ ps := by simp [*]) (h_trn : .trn ∈ ps := by simp [*]) (h_lka : .lka ∈ ps := by simp [*]) (h_seam : .seam ∈ ps := by simp [*]) (h_tal : .tal ∈ ps := by simp [*]) (h_lin : .lin ∈ ps := by simp [*]) (h_host : .host ∈ ps := by simp [*]) (h_ic : .ic ∈ ps := by simp [*]) (h_obs : .obs ∈ ps := by simp [*]) :
    s0.only ps (State.depart s x1) := by
  unfold State.depart
  repeat' first
    | with_reducible assumption | with_reducible apply State.answerFor_only | with_reducible apply State.setLin_only
theorem State.flushAll_only {ps : List Piece} {s0 : State} (s : State) (h : s0.only ps s) (h_mem : .mem ∈ ps := by simp [*]) (h_poison : .poison ∈ ps := by simp [*]) (h_veil : .veil ∈ ps := by simp [*]) (h_reqs : .reqs ∈ ps := by simp [*]) (h_orphans : .orphans ∈ ps := by simp [*]) (h_free : .free ∈ ps := by simp [*]) (h_tileQ : .tileQ ∈ ps := by simp [*]) (h_out : .out ∈ ps := by simp [*]) (h_trn : .trn ∈ ps := by simp [*]) (h_lka : .lka ∈ ps := by simp [*]) (h_seam : .seam ∈ ps := by simp [*]) (h_tal : .tal ∈ ps := by simp [*]) (h_lin : .lin ∈ ps := by simp [*]) (h_host : .host ∈ ps := by simp [*]) (h_ic : .ic ∈ ps := by simp [*]) (h_obs : .obs ∈ ps := by simp [*]) :
    s0.only ps (State.flushAll s) := by
  unfold State.flushAll
  repeat' first
    | with_reducible assumption | with_reducible apply State.arrive_only
    | (with_reducible apply only_foldl; intro _ _ _; try dsimp only)
theorem State.homeWrite_only {ps : List Piece} {s0 : State} (s : State) (x1 : Txn) (h : s0.only ps s) (h_mem : .mem ∈ ps := by simp [*]) (h_poison : .poison ∈ ps := by simp [*]) (h_veil : .veil ∈ ps := by simp [*]) (h_lka : .lka ∈ ps := by simp [*]) :
    s0.only ps (State.homeWrite s x1).1 := by
  unfold State.homeWrite
  repeat' first
    | with_reducible assumption | with_reducible apply State.performWrite_only
    | with_reducible apply State.performAtomic_only | with_reducible refine State.performAtomic_eq (by assumption) ?_
    | split
theorem State.homeWrite_eq {ps : List Piece} {s0 : State} {s : State} {x1 : Txn} {y : Option Reply} {t : State} (e : (State.homeWrite s x1) = (t, y)) (h : s0.only ps s) (h_mem : .mem ∈ ps := by simp [*]) (h_poison : .poison ∈ ps := by simp [*]) (h_veil : .veil ∈ ps := by simp [*]) (h_lka : .lka ∈ ps := by simp [*]) :
    s0.only ps t := by
  have := State.homeWrite_only s x1 h (ps := ps) (h_mem := h_mem) (h_poison := h_poison) (h_veil := h_veil) (h_lka := h_lka)
  rw [e] at this; exact this
theorem State.leave_only {ps : List Piece} {s0 : State} (s : State) (x1 : Nat) (x2 : Bool) (h : s0.only ps s) (h_lin : .lin ∈ ps := by simp [*]) :
    s0.only ps (State.leave s x1 x2) := by
  unfold State.leave
  repeat' first | with_reducible assumption | with_reducible apply State.setLin_only
theorem State.linRefuse_only {ps : List Piece} {s0 : State} (s : State) (h : s0.only ps s) (h_lin : .lin ∈ ps := by simp [*]) :
    s0.only ps (State.linRefuse s) := by
  unfold State.linRefuse
  repeat' first | with_reducible assumption | with_reducible apply State.setLin_only
theorem State.loseLines_only {ps : List Piece} {s0 : State} (s : State) (x1 : List Nat) (h : s0.only ps s) (h_poison : .poison ∈ ps := by simp [*]) (h_lin : .lin ∈ ps := by simp [*]) :
    s0.only ps (State.loseLines s x1) := by
  unfold State.loseLines
  repeat' first
    | with_reducible assumption | with_reducible apply State.setLin_only | simp only [only_poison, h_poison, h_lin]
theorem State.sweepDead_only {ps : List Piece} {s0 : State} (s : State) (x1 : Nat) (h : s0.only ps s) (h_mem : .mem ∈ ps := by simp [*]) (h_poison : .poison ∈ ps := by simp [*]) (h_veil : .veil ∈ ps := by simp [*]) (h_reqs : .reqs ∈ ps := by simp [*]) (h_orphans : .orphans ∈ ps := by simp [*]) (h_free : .free ∈ ps := by simp [*]) (h_tileQ : .tileQ ∈ ps := by simp [*]) (h_out : .out ∈ ps := by simp [*]) (h_trn : .trn ∈ ps := by simp [*]) (h_lka : .lka ∈ ps := by simp [*]) (h_seam : .seam ∈ ps := by simp [*]) (h_tal : .tal ∈ ps := by simp [*]) (h_lin : .lin ∈ ps := by simp [*]) (h_host : .host ∈ ps := by simp [*]) (h_ic : .ic ∈ ps := by simp [*]) (h_obs : .obs ∈ ps := by simp [*]) :
    s0.only ps (State.sweepDead s x1) := by
  unfold State.sweepDead
  repeat' first
    | with_reducible assumption | with_reducible apply State.loseLines_only | with_reducible apply State.leave_only
    | with_reducible apply State.setLin_only | with_reducible apply State.depart_only
    | with_reducible apply State.dropPtr_only | with_reducible apply only_ite
    | (with_reducible apply only_foldl; intro _ _ _; try dsimp only)
theorem State.sweepNamed_only {ps : List Piece} {s0 : State} (s : State) (x1 : Nat) (h : s0.only ps s) (h_mem : .mem ∈ ps := by simp [*]) (h_poison : .poison ∈ ps := by simp [*]) (h_veil : .veil ∈ ps := by simp [*]) (h_reqs : .reqs ∈ ps := by simp [*]) (h_orphans : .orphans ∈ ps := by simp [*]) (h_free : .free ∈ ps := by simp [*]) (h_tileQ : .tileQ ∈ ps := by simp [*]) (h_out : .out ∈ ps := by simp [*]) (h_trn : .trn ∈ ps := by simp [*]) (h_lka : .lka ∈ ps := by simp [*]) (h_seam : .seam ∈ ps := by simp [*]) (h_tal : .tal ∈ ps := by simp [*]) (h_lin : .lin ∈ ps := by simp [*]) (h_host : .host ∈ ps := by simp [*]) (h_ic : .ic ∈ ps := by simp [*]) (h_obs : .obs ∈ ps := by simp [*]) :
    s0.only ps (State.sweepNamed s x1) := by
  unfold State.sweepNamed
  repeat' first
    | with_reducible assumption | with_reducible apply State.arrive_only
    | (with_reducible apply only_foldl; intro _ _ _; try dsimp only)
theorem State.sweepLive_only {ps : List Piece} {s0 : State} (s : State) (x1 : Nat) (h : s0.only ps s) (h_mem : .mem ∈ ps := by simp [*]) (h_poison : .poison ∈ ps := by simp [*]) (h_veil : .veil ∈ ps := by simp [*]) (h_reqs : .reqs ∈ ps := by simp [*]) (h_orphans : .orphans ∈ ps := by simp [*]) (h_free : .free ∈ ps := by simp [*]) (h_tileQ : .tileQ ∈ ps := by simp [*]) (h_out : .out ∈ ps := by simp [*]) (h_trn : .trn ∈ ps := by simp [*]) (h_lka : .lka ∈ ps := by simp [*]) (h_seam : .seam ∈ ps := by simp [*]) (h_tal : .tal ∈ ps := by simp [*]) (h_lin : .lin ∈ ps := by simp [*]) (h_host : .host ∈ ps := by simp [*]) (h_ic : .ic ∈ ps := by simp [*]) (h_obs : .obs ∈ ps := by simp [*]) :
    s0.only ps (State.sweepLive s x1) := by
  unfold State.sweepLive
  repeat' first
    | with_reducible assumption | with_reducible apply State.sweepNamed_only | with_reducible apply State.leave_only
theorem State.takeWbd_only {ps : List Piece} {s0 : State} (s : State) (x1 : Nat) (x2 : Nat) (x3 : Bytes) (h : s0.only ps s) (h_mem : .mem ∈ ps := by simp [*]) (h_poison : .poison ∈ ps := by simp [*]) (h_veil : .veil ∈ ps := by simp [*]) (h_reqs : .reqs ∈ ps := by simp [*]) (h_orphans : .orphans ∈ ps := by simp [*]) (h_free : .free ∈ ps := by simp [*]) (h_tileQ : .tileQ ∈ ps := by simp [*]) (h_out : .out ∈ ps := by simp [*]) (h_trn : .trn ∈ ps := by simp [*]) (h_lka : .lka ∈ ps := by simp [*]) (h_seam : .seam ∈ ps := by simp [*]) (h_tal : .tal ∈ ps := by simp [*]) (h_lin : .lin ∈ ps := by simp [*]) (h_host : .host ∈ ps := by simp [*]) (h_ic : .ic ∈ ps := by simp [*]) (h_obs : .obs ∈ ps := by simp [*]) :
    s0.only ps (State.takeWbd s x1 x2 x3) := by
  unfold State.takeWbd
  repeat' first
    | with_reducible assumption | with_reducible apply State.consumeWb_only | with_reducible apply State.setLin_only
    | with_reducible apply State.performWrite_only | with_reducible apply State.ownerGone_only
    | with_reducible apply State.emit_only | split
theorem State.wbDue_only {ps : List Piece} {s0 : State} (s : State) (x1 : Nat) (x2 : Nat) (h : s0.only ps s) (h_lin : .lin ∈ ps := by simp [*]) :
    s0.only ps (State.wbDue s x1 x2) := by
  unfold State.wbDue
  repeat' first | with_reducible assumption | with_reducible apply State.putTxn_only | split
theorem State.proofCharge_only {ps : List Piece} {s0 : State} (s : State) (x1 : Nat) (h : s0.only ps s) (h_prt : .prt ∈ ps := by simp [*]) :
    s0.only ps (State.proofCharge s x1) := by
  unfold State.proofCharge
  repeat' first | with_reducible assumption | simp only [only_prt, h_prt]
theorem State.aerReport_only {ps : List Piece} {s0 : State} (s : State) (x1 : Nat) (x2 : Nat) (h : s0.only ps s) (h_host : .host ∈ ps := by simp [*]) :
    s0.only ps (State.aerReport s x1 x2) := by
  unfold State.aerReport
  repeat' first | with_reducible assumption | with_reducible apply State.setFn_only
theorem State.resizeBar_only {ps : List Piece} {s0 : State} (s : State) (x1 : Nat) (x2 : Bool) (x3 : Nat) (h : s0.only ps s) (h_host : .host ∈ ps := by simp [*]) :
    s0.only ps (State.resizeBar s x1 x2 x3) := by
  unfold State.resizeBar
  repeat' first
    | with_reducible assumption | with_reducible apply State.setLink_only | with_reducible apply State.setFn_only
    | with_reducible apply only_ite
theorem State.writeBar_only {ps : List Piece} {s0 : State} (s : State) (x1 : Nat) (x2 : Nat) (x3 : W32) (h : s0.only ps s) (h_host : .host ∈ ps := by simp [*]) :
    s0.only ps (State.writeBar s x1 x2 x3) := by
  unfold State.writeBar
  repeat' first | with_reducible assumption | with_reducible apply State.setFn_only | with_reducible apply only_ite
theorem State.writeVfBar_only {ps : List Piece} {s0 : State} (s : State) (x1 : Nat) (x2 : Nat) (x3 : W32) (h : s0.only ps s) (h_host : .host ∈ ps := by simp [*]) :
    s0.only ps (State.writeVfBar s x1 x2 x3) := by
  unfold State.writeVfBar
  repeat' first | with_reducible assumption | with_reducible apply State.setLink_only | with_reducible apply only_ite
theorem State.addExt_only {ps : List Piece} {s0 : State} (s : State) (x1 : Owner) (x2 : Nat) (x3 : Nat) (x4 : Nat) (x5 : Acc) (x6 : Bytes) (x7 : List Bool) (x8 : AtomOp) (x9 : W64) (x10 : W64) (h : s0.only ps s) (h_reqs : .reqs ∈ ps := by simp [*]) (h_nextId : .nextId ∈ ps := by simp [*]) :
    s0.only ps (State.addExt s x1 x2 x3 x4 x5 x6 x7 x8 x9 x10) := by
  unfold State.addExt
  repeat' first | with_reducible assumption | simp only [only_reqs_nextId, h_reqs, h_nextId]
theorem State.bar2Check_only {ps : List Piece} {s0 : State} (s : State) (x1 : Nat) (x2 : Nat) (x3 : Nat) (x4 : Acc) (h : s0.only ps s) (h_ic : .ic ∈ ps := by simp [*]) (h_err : .err ∈ ps := by simp [*]) :
    s0.only ps (State.bar2Check s x1 x2 x3 x4).2 := by
  unfold State.bar2Check
  try dsimp only
  repeat' first | with_reducible assumption | with_reducible apply State.pulses_only | split
theorem State.bar2Check_eq {ps : List Piece} {s0 : State} {s : State} {x1 : Nat} {x2 : Nat} {x3 : Nat} {x4 : Acc} {y : Option Bool} {t : State} (e : (State.bar2Check s x1 x2 x3 x4) = (y, t)) (h : s0.only ps s) (h_ic : .ic ∈ ps := by simp [*]) (h_err : .err ∈ ps := by simp [*]) :
    s0.only ps t := by
  have := State.bar2Check_only s x1 x2 x3 x4 h (ps := ps) (h_ic := h_ic) (h_err := h_err)
  rw [e] at this; exact this
theorem State.noteFate_only {ps : List Piece} {s0 : State} (s : State) (x1 : Fate) (h : s0.only ps s) (h_seam : .seam ∈ ps := by simp [*]) (h_ic : .ic ∈ ps := by simp [*]) (h_err : .err ∈ ps := by simp [*]) :
    s0.only ps (State.noteFate s x1) := by
  unfold State.noteFate
  repeat' first
    | with_reducible assumption | with_reducible apply State.badAccess_only | with_reducible apply State.dropPacket_only
    | with_reducible apply State.isolation_only | split
theorem State.bar2Write_only {ps : List Piece} {s0 : State} (s : State) (x1 : Nat) (x2 : Nat) (x3 : Bytes) (x4 : List Bool) (h : s0.only ps s) (h_mem : .mem ∈ ps := by simp [*]) (h_poison : .poison ∈ ps := by simp [*]) (h_veil : .veil ∈ ps := by simp [*]) (h_reqs : .reqs ∈ ps := by simp [*]) (h_nextId : .nextId ∈ ps := by simp [*]) (h_tileQ : .tileQ ∈ ps := by simp [*]) (h_out : .out ∈ ps := by simp [*]) (h_lka : .lka ∈ ps := by simp [*]) (h_seam : .seam ∈ ps := by simp [*]) (h_tal : .tal ∈ ps := by simp [*]) (h_ic : .ic ∈ ps := by simp [*]) (h_prt : .prt ∈ ps := by simp [*]) (h_err : .err ∈ ps := by simp [*]) (h_obs : .obs ∈ ps := by simp [*]) :
    s0.only ps (State.bar2Write s x1 x2 x3 x4) := by
  unfold State.bar2Write
  repeat' first
    | with_reducible assumption | with_reducible apply State.chargeTo_only | with_reducible apply State.noteFate_only
    | with_reducible apply State.performWrite_only | with_reducible apply State.addExt_only
    | with_reducible apply State.tallyAdd_only | with_reducible apply only_ite
    | (with_reducible apply only_foldl; intro _ _ _; try dsimp only)
theorem State.fenceRead_only {ps : List Piece} {s0 : State} (s : State) (x1 : Who) (h : s0.only ps s) (h_out : .out ∈ ps := by simp [*]) (h_host : .host ∈ ps := by simp [*]) :
    s0.only ps (State.fenceRead s x1) := by
  unfold State.fenceRead
  repeat' first
    | with_reducible assumption | with_reducible apply State.emit_only | with_reducible apply State.releaseFences_only
    | with_reducible apply State.setLink_only | split
theorem State.flushRead_only {ps : List Piece} {s0 : State} (s : State) (x1 : Nat) (x2 : Nat) (x3 : Nat) (x4 : HostAt) (h : s0.only ps s) (h_out : .out ∈ ps := by simp [*]) :
    s0.only ps (State.flushRead s x1 x2 x3 x4) := by
  unfold State.flushRead
  repeat' first | with_reducible assumption | with_reducible apply State.emit_only
theorem State.hostReads_only {ps : List Piece} {s0 : State} (s : State) (x1 : Nat) (x2 : Nat) (x3 : Nat) (x4 : Nat) (x5 : HostAt) (h : s0.only ps s) (h_out : .out ∈ ps := by simp [*]) :
    s0.only ps (State.hostReads s x1 x2 x3 x4 x5) := by
  unfold State.hostReads
  repeat' first
    | with_reducible assumption | with_reducible apply State.emit_only
    | (with_reducible apply only_foldl; intro _ _ _; try dsimp only)
theorem State.hostWrite_only {ps : List Piece} {s0 : State} (s : State) (x1 : Nat) (x2 : Nat) (x3 : Bytes) (x4 : List Bool) (x5 : Bool) (x6 : Option (BitVec 16)) (x7 : HostAt) (h : s0.only ps s) (h_out : .out ∈ ps := by simp [*]) (h_lka : .lka ∈ ps := by simp [*]) :
    s0.only ps (State.hostWrite s x1 x2 x3 x4 x5 x6 x7) := by
  unfold State.hostWrite
  repeat' first
    | with_reducible assumption | with_reducible apply State.watchHost_only | with_reducible apply State.emit_only
    | (with_reducible apply only_foldl; intro _ _ _; try dsimp only)
theorem State.moveHostAgent_only {ps : List Piece} {s0 : State} (s : State) (x1 : Nat) (x2 : LinkStat) (h : s0.only ps s) (h_mem : .mem ∈ ps := by simp [*]) (h_poison : .poison ∈ ps := by simp [*]) (h_veil : .veil ∈ ps := by simp [*]) (h_reqs : .reqs ∈ ps := by simp [*]) (h_orphans : .orphans ∈ ps := by simp [*]) (h_free : .free ∈ ps := by simp [*]) (h_tileQ : .tileQ ∈ ps := by simp [*]) (h_out : .out ∈ ps := by simp [*]) (h_trn : .trn ∈ ps := by simp [*]) (h_lka : .lka ∈ ps := by simp [*]) (h_seam : .seam ∈ ps := by simp [*]) (h_tal : .tal ∈ ps := by simp [*]) (h_lin : .lin ∈ ps := by simp [*]) (h_host : .host ∈ ps := by simp [*]) (h_ic : .ic ∈ ps := by simp [*]) (h_obs : .obs ∈ ps := by simp [*]) :
    s0.only ps (State.moveHostAgent s x1 x2) := by
  unfold State.moveHostAgent
  repeat' first
    | with_reducible assumption | with_reducible apply State.setLin_only | with_reducible apply State.sweepDead_only
    | with_reducible apply only_ite
theorem State.setLinkStat_only {ps : List Piece} {s0 : State} (s : State) (x1 : Nat) (x2 : LinkStat) (h : s0.only ps s) (h_mem : .mem ∈ ps := by simp [*]) (h_poison : .poison ∈ ps := by simp [*]) (h_veil : .veil ∈ ps := by simp [*]) (h_reqs : .reqs ∈ ps := by simp [*]) (h_orphans : .orphans ∈ ps := by simp [*]) (h_free : .free ∈ ps := by simp [*]) (h_tileQ : .tileQ ∈ ps := by simp [*]) (h_out : .out ∈ ps := by simp [*]) (h_trn : .trn ∈ ps := by simp [*]) (h_lka : .lka ∈ ps := by simp [*]) (h_seam : .seam ∈ ps := by simp [*]) (h_tal : .tal ∈ ps := by simp [*]) (h_lin : .lin ∈ ps := by simp [*]) (h_host : .host ∈ ps := by simp [*]) (h_ic : .ic ∈ ps := by simp [*]) (h_obs : .obs ∈ ps := by simp [*]) :
    s0.only ps (State.setLinkStat s x1 x2) := by
  unfold State.setLinkStat
  repeat' first
    | with_reducible assumption | with_reducible apply State.moveHostAgent_only | with_reducible apply State.setLink_only
    | with_reducible apply State.setSysev_only | with_reducible apply only_ite
theorem State.unexpected_only {ps : List Piece} {s0 : State} (s : State) (x1 : Nat) (x2 : Nat) (h : s0.only ps s) (h_out : .out ∈ ps := by simp [*]) (h_host : .host ∈ ps := by simp [*]) :
    s0.only ps (State.unexpected s x1 x2) := by
  unfold State.unexpected
  repeat' first
    | with_reducible assumption | with_reducible apply State.emit_only | with_reducible apply State.aerReport_only
theorem State.discardQueue_only {ps : List Piece} {s0 : State} (s : State) (x1 : Nat) (x2 : Nat) (h : s0.only ps s) (h_lka : .lka ∈ ps := by simp [*]) :
    s0.only ps (State.discardQueue s x1 x2) := by
  unfold State.discardQueue
  repeat' first
    | with_reducible assumption | with_reducible apply State.discard_only | with_reducible apply State.setLk_only
    | (with_reducible apply State.discardEach_only; intro _ _ _; try dsimp only) | with_reducible apply only_ite
theorem State.dropCmd_only {ps : List Piece} {s0 : State} (s : State) (x1 : Nat) (x2 : BitVec 16) (h : s0.only ps s) (h_gal : .gal ∈ ps := by simp [*]) :
    s0.only ps (State.dropCmd s x1 x2) := by
  unfold State.dropCmd
  repeat' first | with_reducible assumption | simp only [only_gal, h_gal]
theorem State.endEntry_only {ps : List Piece} {s0 : State} (s : State) (x1 : Nat) (x2 : FEntry) (h : s0.only ps s) (h_flt : .flt ∈ ps := by simp [*]) (h_rcd : .rcd ∈ ps := by simp [*]) :
    s0.only ps (State.endEntry s x1 x2) := by
  unfold State.endEntry
  repeat' first
    | with_reducible assumption | with_reducible apply State.metric_only | with_reducible apply State.setFltp_only
theorem State.settleEntry_only {ps : List Piece} {s0 : State} (s : State) (x1 : Nat) (x2 : FEntry) (h : s0.only ps s) (h_flt : .flt ∈ ps := by simp [*]) (h_rcd : .rcd ∈ ps := by simp [*]) :
    s0.only ps (State.settleEntry s x1 x2) := by
  unfold State.settleEntry
  repeat' first
    | with_reducible assumption | with_reducible apply State.endEntry_only | with_reducible apply State.setFltp_only
    | split
theorem State.settlePart_only {ps : List Piece} {s0 : State} (s : State) (x1 : Nat) (h : s0.only ps s) (h_flt : .flt ∈ ps := by simp [*]) (h_rcd : .rcd ∈ ps := by simp [*]) :
    s0.only ps (State.settlePart s x1) := by
  unfold State.settlePart
  repeat' first
    | with_reducible assumption | with_reducible apply State.settleEntry_only
    | (with_reducible apply only_foldl; intro _ _ _; try dsimp only)
theorem State.settle_only {ps : List Piece} {s0 : State} (s : State) (h : s0.only ps s) (h_flt : .flt ∈ ps := by simp [*]) (h_rcd : .rcd ∈ ps := by simp [*]) :
    s0.only ps (State.settle s) := by
  unfold State.settle
  repeat' first
    | with_reducible assumption | with_reducible apply State.settlePart_only
    | (with_reducible apply only_foldl; intro _ _ _; try dsimp only)
theorem State.withdrawReqs_only {ps : List Piece} {s0 : State} (s : State) (x1 : Req → Bool) (h : s0.only ps s) (h_reqs : .reqs ∈ ps := by simp [*]) (h_orphans : .orphans ∈ ps := by simp [*]) (h_trn : .trn ∈ ps := by simp [*]) (h_flt : .flt ∈ ps := by simp [*]) (h_rcd : .rcd ∈ ps := by simp [*]) :
    s0.only ps (State.withdrawReqs s x1) := by
  unfold State.withdrawReqs
  repeat' first
    | with_reducible assumption | with_reducible apply State.settle_only | with_reducible apply State.dropReqs_only
theorem State.dropFetch_only {ps : List Piece} {s0 : State} (s : State) (x1 : Nat) (h : s0.only ps s) (h_reqs : .reqs ∈ ps := by simp [*]) (h_orphans : .orphans ∈ ps := by simp [*]) (h_gal : .gal ∈ ps := by simp [*]) (h_trn : .trn ∈ ps := by simp [*]) (h_flt : .flt ∈ ps := by simp [*]) (h_rcd : .rcd ∈ ps := by simp [*]) :
    s0.only ps (State.dropFetch s x1) := by
  unfold State.dropFetch
  repeat' first
    | with_reducible assumption | with_reducible apply State.modQueue_only | with_reducible apply State.withdrawReqs_only
theorem State.setCmd_only {ps : List Piece} {s0 : State} (s : State) (x1 : Cmd) (h : s0.only ps s) (h_gal : .gal ∈ ps := by simp [*]) :
    s0.only ps (State.setCmd s x1) := by
  unfold State.setCmd
  repeat' first | with_reducible assumption | simp only [only_gal, h_gal]
theorem State.endCmd_only {ps : List Piece} {s0 : State} (s : State) (x1 : Nat) (x2 : BitVec 16) (x3 : Nat) (x4 : Nat) (x5 : Nat) (x6 : Bytes) (x7 : Nat) (h : s0.only ps s) (h_gal : .gal ∈ ps := by simp [*]) (h_obs : .obs ∈ ps := by simp [*]) (h_rcd : .rcd ∈ ps := by simp [*]) :
    s0.only ps (State.endCmd s x1 x2 x3 x4 x5 x6 x7) := by
  unfold State.endCmd
  repeat' first
    | with_reducible assumption | with_reducible apply State.addTrace_only | with_reducible apply State.dropCmd_only
    | with_reducible apply State.pcntAdd_only | with_reducible apply State.metric_only
    | with_reducible apply State.setCmd_only | simp only [only_gal, h_gal, h_obs, h_rcd] | split
theorem State.haltQueue_only {ps : List Piece} {s0 : State} (s : State) (x1 : Nat) (x2 : Byte) (h : s0.only ps s) (h_reqs : .reqs ∈ ps := by simp [*]) (h_orphans : .orphans ∈ ps := by simp [*]) (h_gal : .gal ∈ ps := by simp [*]) (h_trn : .trn ∈ ps := by simp [*]) (h_flt : .flt ∈ ps := by simp [*]) (h_lka : .lka ∈ ps := by simp [*]) (h_ic : .ic ∈ ps := by simp [*]) (h_rcd : .rcd ∈ ps := by simp [*]) :
    s0.only ps (State.haltQueue s x1 x2) := by
  unfold State.haltQueue
  repeat' first
    | with_reducible assumption | with_reducible apply State.dropFetch_only | with_reducible apply State.setQueue_only
    | with_reducible apply State.raise_only | with_reducible apply State.discardQueue_only
    | simp only [only_gal, h_reqs, h_orphans, h_gal, h_trn, h_flt, h_lka, h_ic, h_rcd] | with_reducible apply only_ite
theorem State.makeReady_only {ps : List Piece} {s0 : State} (s : State) (x1 : Nat) (h : s0.only ps s) (h_gal : .gal ∈ ps := by simp [*]) :
    s0.only ps (State.makeReady s x1) := by
  unfold State.makeReady
  repeat' first | with_reducible assumption | with_reducible apply State.modQueue_only | simp only [only_gal, h_gal]
theorem State.makeWait_only {ps : List Piece} {s0 : State} (s : State) (x1 : Nat) (x2 : BitVec 4) (h : s0.only ps s) (h_reqs : .reqs ∈ ps := by simp [*]) (h_orphans : .orphans ∈ ps := by simp [*]) (h_gal : .gal ∈ ps := by simp [*]) (h_trn : .trn ∈ ps := by simp [*]) (h_flt : .flt ∈ ps := by simp [*]) (h_rcd : .rcd ∈ ps := by simp [*]) :
    s0.only ps (State.makeWait s x1 x2) := by
  unfold State.makeWait
  repeat' first
    | with_reducible assumption | with_reducible apply State.modQueue_only | with_reducible apply State.dropFetch_only
theorem State.noteTrip_only {ps : List Piece} {s0 : State} (s : State) (x1 : Req) (h : s0.only ps s) (h_rcd : .rcd ∈ ps := by simp [*]) :
    s0.only ps (State.noteTrip s x1) := by
  unfold State.noteTrip
  repeat' first | with_reducible assumption | with_reducible apply State.metric_only | split
theorem State.writeRecord_only {ps : List Piece} {s0 : State} (s : State) (x1 : Cmd) (h : s0.only ps s) (h_reqs : .reqs ∈ ps := by simp [*]) (h_nextId : .nextId ∈ ps := by simp [*]) (h_gal : .gal ∈ ps := by simp [*]) :
    s0.only ps (State.writeRecord s x1) := by
  unfold State.writeRecord
  repeat' first | with_reducible assumption | with_reducible apply State.addReq_only | with_reducible apply State.setCmd_only
theorem State.pumpRecords_only {ps : List Piece} {s0 : State} (s : State) (x1 : Nat) (h : s0.only ps s) (h_reqs : .reqs ∈ ps := by simp [*]) (h_nextId : .nextId ∈ ps := by simp [*]) (h_gal : .gal ∈ ps := by simp [*]) :
    s0.only ps (State.pumpRecords s x1) := by
  unfold State.pumpRecords
  repeat' first | with_reducible assumption | with_reducible apply State.writeRecord_only | split
theorem State.readyOrIdle_only {ps : List Piece} {s0 : State} (s : State) (x1 : Nat) (h : s0.only ps s) (h_gal : .gal ∈ ps := by simp [*]) :
    s0.only ps (State.readyOrIdle s x1) := by
  unfold State.readyOrIdle
  repeat' first
    | with_reducible assumption | with_reducible apply State.setQueue_only | with_reducible apply State.makeReady_only
    | with_reducible apply only_ite
theorem State.takeReads_only {ps : List Piece} {s0 : State} {s : State} {x1 : List Req} {x2 : Reply} {y : Reply} {t : State} (e : (State.takeReads s x1 x2) = some (y, t)) (h : s0.only ps s) (h_reqs : .reqs ∈ ps := by simp [*]) (h_orphans : .orphans ∈ ps := by simp [*]) (h_trn : .trn ∈ ps := by simp [*]) (h_rcd : .rcd ∈ ps := by simp [*]) :
    s0.only ps t := by
  unfold State.takeReads at e
  try dsimp only at e
  repeat' split at e
  all_goals try cases e; done
  all_goals first | contradiction | (simp only [Option.some.injEq, Prod.mk.injEq] at e; obtain ⟨rfl, rfl⟩ := e)
  all_goals
  repeat' first
    | with_reducible assumption | with_reducible apply State.dropReqs_only | with_reducible apply State.noteTrip_only
    | (with_reducible apply only_foldl; intro _ _ _; try dsimp only)
theorem State.cutPleat_only {ps : List Piece} {s0 : State} (s : State) (x1 : Nat) (x2 : Nat) (h : s0.only ps s) (h_reqs : .reqs ∈ ps := by simp [*]) (h_orphans : .orphans ∈ ps := by simp [*]) (h_trn : .trn ∈ ps := by simp [*]) (h_flt : .flt ∈ ps := by simp [*]) (h_rcd : .rcd ∈ ps := by simp [*]) :
    s0.only ps (State.cutPleat s x1 x2) := by
  unfold State.cutPleat
  repeat' first | with_reducible assumption | with_reducible apply State.withdrawReqs_only
theorem State.dropBursts_only {ps : List Piece} {s0 : State} (s : State) (x1 : Nat) (h : s0.only ps s) (h_plt : .plt ∈ ps := by simp [*]) :
    s0.only ps (State.dropBursts s x1) := by
  unfold State.dropBursts
  repeat' first | with_reducible assumption | with_reducible apply State.modEng_only
theorem State.freeEng_only {ps : List Piece} {s0 : State} (s : State) (x1 : Nat) (h : s0.only ps s) (h_plt : .plt ∈ ps := by simp [*]) :
    s0.only ps (State.freeEng s x1) := by
  unfold State.freeEng
  repeat' first | with_reducible assumption | with_reducible apply State.modEng_only
theorem State.pleatEnd_only {ps : List Piece} {s0 : State} (s : State) (x1 : Nat) (x2 : Nat) (x3 : Nat) (x4 : Bytes) (h : s0.only ps s) (h_gal : .gal ∈ ps := by simp [*]) (h_plt : .plt ∈ ps := by simp [*]) (h_obs : .obs ∈ ps := by simp [*]) (h_rcd : .rcd ∈ ps := by simp [*]) :
    s0.only ps (State.pleatEnd s x1 x2 x3 x4) := by
  unfold State.pleatEnd
  repeat' first
    | with_reducible assumption | with_reducible apply State.setEng_only | with_reducible apply State.freeEng_only
    | with_reducible apply State.endCmd_only
theorem State.pleatSettle_only {ps : List Piece} {s0 : State} (s : State) (x1 : Nat) (h : s0.only ps s) (h_gal : .gal ∈ ps := by simp [*]) (h_plt : .plt ∈ ps := by simp [*]) (h_ic : .ic ∈ ps := by simp [*]) (h_obs : .obs ∈ ps := by simp [*]) (h_rcd : .rcd ∈ ps := by simp [*]) :
    s0.only ps (State.pleatSettle s x1) := by
  unfold State.pleatSettle
  try dsimp only
  repeat' first
    | with_reducible assumption | with_reducible apply State.dropBursts_only | with_reducible apply State.freeEng_only
    | with_reducible apply State.endCmd_only | with_reducible apply State.pleatEnd_only
    | with_reducible apply State.setEng_only | with_reducible apply State.raise_only | split
theorem State.pleatError_only {ps : List Piece} {s0 : State} (s : State) (x1 : Nat) (x2 : Req) (x3 : Nat) (x4 : Nat) (x5 : Nat) (h : s0.only ps s) (h_reqs : .reqs ∈ ps := by simp [*]) (h_orphans : .orphans ∈ ps := by simp [*]) (h_gal : .gal ∈ ps := by simp [*]) (h_trn : .trn ∈ ps := by simp [*]) (h_flt : .flt ∈ ps := by simp [*]) (h_plt : .plt ∈ ps := by simp [*]) (h_ic : .ic ∈ ps := by simp [*]) (h_obs : .obs ∈ ps := by simp [*]) (h_rcd : .rcd ∈ ps := by simp [*]) :
    s0.only ps (State.pleatError s x1 x2 x3 x4 x5) := by
  unfold State.pleatError
  repeat' first
    | with_reducible assumption | with_reducible apply State.pleatSettle_only | with_reducible apply State.cutPleat_only
    | with_reducible apply State.setEng_only | with_reducible apply State.raise_only
    | simp only [only_plt, h_reqs, h_orphans, h_gal, h_trn, h_flt, h_plt, h_ic, h_obs, h_rcd]
    | with_reducible apply only_ite
theorem State.pleatFence_only {ps : List Piece} {s0 : State} (s : State) (x1 : Nat) (h : s0.only ps s) (h_reqs : .reqs ∈ ps := by simp [*]) (h_orphans : .orphans ∈ ps := by simp [*]) (h_gal : .gal ∈ ps := by simp [*]) (h_trn : .trn ∈ ps := by simp [*]) (h_flt : .flt ∈ ps := by simp [*]) (h_plt : .plt ∈ ps := by simp [*]) (h_ic : .ic ∈ ps := by simp [*]) (h_obs : .obs ∈ ps := by simp [*]) (h_rcd : .rcd ∈ ps := by simp [*]) :
    s0.only ps (State.pleatFence s x1) := by
  unfold State.pleatFence
  repeat' first
    | with_reducible assumption | with_reducible apply State.withdrawReqs_only
    | with_reducible apply State.pleatSettle_only | with_reducible apply State.modEng_only
theorem State.pleatWrites_only {ps : List Piece} {s0 : State} (x0 : Nat) (x1 : Nat) (s : State) (h : s0.only ps s) (h_reqs : .reqs ∈ ps := by simp [*]) (h_nextId : .nextId ∈ ps := by simp [*]) (h_plt : .plt ∈ ps := by simp [*]) :
    s0.only ps (State.pleatWrites x0 x1 s) := by
  induction x1 generalizing s with
  | zero => exact h
  | succ k ih =>
    unfold State.pleatWrites; try dsimp only
    repeat' first | with_reducible assumption | with_reducible apply ih | with_reducible apply State.modEng_only | with_reducible apply State.addReq_only | with_reducible apply only_ite | split
theorem State.pleatUnstall_only {ps : List Piece} {s0 : State} (s : State) (x1 : Nat) (h : s0.only ps s) (h_reqs : .reqs ∈ ps := by simp [*]) (h_nextId : .nextId ∈ ps := by simp [*]) (h_gal : .gal ∈ ps := by simp [*]) (h_plt : .plt ∈ ps := by simp [*]) (h_ic : .ic ∈ ps := by simp [*]) (h_obs : .obs ∈ ps := by simp [*]) (h_rcd : .rcd ∈ ps := by simp [*]) :
    s0.only ps (State.pleatUnstall s x1) := by
  unfold State.pleatUnstall
  repeat' first
    | with_reducible assumption | with_reducible apply State.pleatSettle_only | with_reducible apply State.pleatWrites_only
    | with_reducible apply State.setEng_only | with_reducible apply only_ite
theorem State.pleatIssued_only {ps : List Piece} {s0 : State} (s : State) (x1 : Nat) (h : s0.only ps s) (h_reqs : .reqs ∈ ps := by simp [*]) (h_nextId : .nextId ∈ ps := by simp [*]) (h_gal : .gal ∈ ps := by simp [*]) (h_plt : .plt ∈ ps := by simp [*]) (h_ic : .ic ∈ ps := by simp [*]) (h_obs : .obs ∈ ps := by simp [*]) (h_rcd : .rcd ∈ ps := by simp [*]) :
    s0.only ps (State.pleatIssued s x1) := by
  unfold State.pleatIssued
  repeat' first
    | with_reducible assumption | with_reducible apply State.pleatSettle_only
    | with_reducible apply State.pleatUnstall_only
theorem State.pleatKill_only {ps : List Piece} {s0 : State} (s : State) (x1 : Nat) (h : s0.only ps s) (h_reqs : .reqs ∈ ps := by simp [*]) (h_orphans : .orphans ∈ ps := by simp [*]) (h_gal : .gal ∈ ps := by simp [*]) (h_trn : .trn ∈ ps := by simp [*]) (h_flt : .flt ∈ ps := by simp [*]) (h_plt : .plt ∈ ps := by simp [*]) (h_ic : .ic ∈ ps := by simp [*]) (h_obs : .obs ∈ ps := by simp [*]) (h_rcd : .rcd ∈ ps := by simp [*]) :
    s0.only ps (State.pleatKill s x1) := by
  unfold State.pleatKill
  repeat' first
    | with_reducible assumption | with_reducible apply State.withdrawReqs_only
    | with_reducible apply State.pleatSettle_only | with_reducible apply State.modEng_only
theorem State.pleatRetry_only {ps : List Piece} {s0 : State} (s : State) (x1 : Nat) (h : s0.only ps s) (h_plt : .plt ∈ ps := by simp [*]) :
    s0.only ps (State.pleatRetry s x1) := by
  unfold State.pleatRetry
  repeat' first | with_reducible assumption | with_reducible apply State.modEng_only
theorem State.pleatRelease_only {ps : List Piece} {s0 : State} (s : State) (x1 : Nat) (h : s0.only ps s) (h_gal : .gal ∈ ps := by simp [*]) (h_plt : .plt ∈ ps := by simp [*]) (h_obs : .obs ∈ ps := by simp [*]) (h_rcd : .rcd ∈ ps := by simp [*]) :
    s0.only ps (State.pleatRelease s x1) := by
  unfold State.pleatRelease
  repeat' first | with_reducible assumption | with_reducible apply State.pleatEnd_only
theorem State.pleatLater_only {ps : List Piece} {s0 : State} (s : State) (x1 : Nat) (h : s0.only ps s) (h_gal : .gal ∈ ps := by simp [*]) (h_plt : .plt ∈ ps := by simp [*]) (h_obs : .obs ∈ ps := by simp [*]) (h_rcd : .rcd ∈ ps := by simp [*]) :
    s0.only ps (State.pleatLater s x1) := by
  unfold State.pleatLater
  repeat' first
    | with_reducible assumption | with_reducible apply State.pleatRetry_only | with_reducible apply State.pleatRelease_only
    | split
theorem State.pleatStall_only {ps : List Piece} {s0 : State} (s : State) (x1 : Nat) (x2 : Req) (h : s0.only ps s) (h_plt : .plt ∈ ps := by simp [*]) :
    s0.only ps (State.pleatStall s x1 x2) := by
  unfold State.pleatStall
  try dsimp only
  repeat' first | with_reducible assumption | with_reducible apply State.setEng_only | split
theorem State.pleatUnserviceable_only {ps : List Piece} {s0 : State} (s : State) (x1 : Nat) (x2 : Req) (x3 : Nat) (x4 : Nat) (x5 : Nat) (h : s0.only ps s) (h_reqs : .reqs ∈ ps := by simp [*]) (h_orphans : .orphans ∈ ps := by simp [*]) (h_gal : .gal ∈ ps := by simp [*]) (h_trn : .trn ∈ ps := by simp [*]) (h_flt : .flt ∈ ps := by simp [*]) (h_plt : .plt ∈ ps := by simp [*]) (h_ic : .ic ∈ ps := by simp [*]) (h_obs : .obs ∈ ps := by simp [*]) (h_rcd : .rcd ∈ ps := by simp [*]) :
    s0.only ps (State.pleatUnserviceable s x1 x2 x3 x4 x5) := by
  unfold State.pleatUnserviceable
  repeat' first
    | with_reducible assumption | with_reducible apply State.setEng_only | with_reducible apply State.pleatSettle_only
    | with_reducible apply State.cutPleat_only | with_reducible apply only_ite
theorem State.addCut_only {ps : List Piece} {s0 : State} (s : State) (x1 : Nat) (x2 : Owner) (x3 : Nat) (x4 : Nat) (x5 : Nat) (x6 : Nat) (x7 : Nat) (x8 : Acc) (h : s0.only ps s) (h_reqs : .reqs ∈ ps := by simp [*]) (h_nextId : .nextId ∈ ps := by simp [*]) :
    s0.only ps (State.addCut s x1 x2 x3 x4 x5 x6 x7 x8) := by
  unfold State.addCut
  repeat' first
    | with_reducible assumption | with_reducible apply State.addReq_only
    | (with_reducible apply only_foldl; intro _ _ _; try dsimp only)
theorem State.addReads_only {ps : List Piece} {s0 : State} (s : State) (x1 : Owner) (x2 : Nat) (x3 : Nat) (x4 : Nat) (x5 : Nat) (x6 : Nat) (x7 : Acc) (h : s0.only ps s) (h_reqs : .reqs ∈ ps := by simp [*]) (h_nextId : .nextId ∈ ps := by simp [*]) :
    s0.only ps (State.addReads s x1 x2 x3 x4 x5 x6 x7) := by
  unfold State.addReads
  repeat' first | with_reducible assumption | with_reducible apply State.addCut_only
theorem State.admitGo_only {ps : List Piece} {s0 : State} (x0 : Nat) (x1 : Bytes) (x2 : Bytes) (x3 : Nat) (s : State) (h : s0.only ps s) (h_cmp : .cmp ∈ ps := by simp [*]) :
    s0.only ps (State.admitGo x0 x1 x2 x3 s) := by
  induction x3 generalizing s with
  | zero => exact h
  | succ k ih =>
    unfold State.admitGo; try dsimp only
    repeat' first | with_reducible assumption | with_reducible apply ih | with_reducible apply State.setComp_only | with_reducible apply only_ite | split
theorem State.admitAll_only {ps : List Piece} {s0 : State} (x0 : Nat) (x1 : Bytes) (x2 : Bytes) (x3 : Nat) (s : State) (h : s0.only ps s) (h_cmp : .cmp ∈ ps := by simp [*]) :
    s0.only ps (State.admitAll x0 x1 x2 x3 s) := by
  induction x3 generalizing s with
  | zero => exact h
  | succ k ih =>
    unfold State.admitAll; dsimp only
    have h1 := State.admitGo_only x0 x1 x2 (((s.comp x0).nidx) + 1 - ((s.comp x0).adm)) s h
    generalize State.admitGo x0 x1 x2 _ s = t at h1 ⊢
    split
    · exact ih _ (State.setComp_only _ _ _ h1)
    · exact h1
theorem State.compRead_only {ps : List Piece} {s0 : State} (s : State) (x1 : Nat) (x2 : Owner) (x3 : Nat) (x4 : Nat) (x5 : Acc) (h : s0.only ps s) (h_reqs : .reqs ∈ ps := by simp [*]) (h_nextId : .nextId ∈ ps := by simp [*]) :
    s0.only ps (State.compRead s x1 x2 x3 x4 x5) := by
  unfold State.compRead
  repeat' first | with_reducible assumption | with_reducible apply State.addCut_only
theorem State.askRow_only {ps : List Piece} {s0 : State} (s : State) (x1 : Nat) (x2 : Bytes) (x3 : Bytes) (x4 : Dist) (h : s0.only ps s) (h_reqs : .reqs ∈ ps := by simp [*]) (h_nextId : .nextId ∈ ps := by simp [*]) (h_cmp : .cmp ∈ ps := by simp [*]) :
    s0.only ps (State.askRow s x1 x2 x3 x4) := by
  unfold State.askRow
  repeat' first
    | with_reducible assumption | with_reducible apply State.setComp_only | with_reducible apply State.compRead_only
    | split
theorem State.askStreams_only {ps : List Piece} {s0 : State} (s : State) (x1 : Nat) (h : s0.only ps s) (h_reqs : .reqs ∈ ps := by simp [*]) (h_nextId : .nextId ∈ ps := by simp [*]) :
    s0.only ps (State.askStreams s x1) := by
  unfold State.askStreams
  repeat' first
    | with_reducible assumption | with_reducible apply State.compRead_only | with_reducible apply only_ite
    | (with_reducible apply only_foldl; intro _ _ _; try dsimp only)
theorem State.freeComp_only {ps : List Piece} {s0 : State} (s : State) (x1 : Nat) (h : s0.only ps s) (h_cmp : .cmp ∈ ps := by simp [*]) :
    s0.only ps (State.freeComp s x1) := by
  unfold State.freeComp
  repeat' first | with_reducible assumption | with_reducible apply State.setComp_only
theorem State.unpin_only {ps : List Piece} {s0 : State} (s : State) (x1 : Nat) (x2 : Bool) (h : s0.only ps s) (h_epo : .epo ∈ ps := by simp [*]) :
    s0.only ps (State.unpin s x1 x2) := by
  unfold State.unpin
  repeat' first | with_reducible assumption | with_reducible apply State.setTable_only
theorem State.compEnd_only {ps : List Piece} {s0 : State} (s : State) (x1 : Nat) (h : s0.only ps s) (h_gal : .gal ∈ ps := by simp [*]) (h_epo : .epo ∈ ps := by simp [*]) (h_cmp : .cmp ∈ ps := by simp [*]) (h_lka : .lka ∈ ps := by simp [*]) (h_obs : .obs ∈ ps := by simp [*]) (h_rcd : .rcd ∈ ps := by simp [*]) :
    s0.only ps (State.compEnd s x1) := by
  unfold State.compEnd
  repeat' first
    | with_reducible assumption | with_reducible apply State.discard_only | with_reducible apply State.unpin_only
    | with_reducible apply State.setComp_only | with_reducible apply State.freeComp_only
    | with_reducible apply State.endCmd_only
theorem State.compSettle_only {ps : List Piece} {s0 : State} (s : State) (x1 : Nat) (h : s0.only ps s) (h_gal : .gal ∈ ps := by simp [*]) (h_epo : .epo ∈ ps := by simp [*]) (h_cmp : .cmp ∈ ps := by simp [*]) (h_lka : .lka ∈ ps := by simp [*]) (h_obs : .obs ∈ ps := by simp [*]) (h_rcd : .rcd ∈ ps := by simp [*]) :
    s0.only ps (State.compSettle s x1) := by
  unfold State.compSettle
  repeat' first
    | with_reducible assumption | with_reducible apply State.freeComp_only | with_reducible apply State.endCmd_only
    | with_reducible apply State.unpin_only | with_reducible apply State.compEnd_only
    | with_reducible apply State.setComp_only | with_reducible apply only_ite
theorem State.nextRow_only {ps : List Piece} {s0 : State} (s : State) (x1 : Nat) (x2 : Bytes) (x3 : Bytes) (h : s0.only ps s) (h_reqs : .reqs ∈ ps := by simp [*]) (h_nextId : .nextId ∈ ps := by simp [*]) (h_cmp : .cmp ∈ ps := by simp [*]) :
    s0.only ps (State.nextRow s x1 x2 x3) := by
  unfold State.nextRow
  repeat' first | with_reducible assumption | with_reducible apply State.askRow_only | split
theorem State.compAdvance_only {ps : List Piece} {s0 : State} (s : State) (x1 : Nat) (h : s0.only ps s) (h_reqs : .reqs ∈ ps := by simp [*]) (h_nextId : .nextId ∈ ps := by simp [*]) (h_gal : .gal ∈ ps := by simp [*]) (h_epo : .epo ∈ ps := by simp [*]) (h_cmp : .cmp ∈ ps := by simp [*]) (h_lka : .lka ∈ ps := by simp [*]) (h_obs : .obs ∈ ps := by simp [*]) (h_rcd : .rcd ∈ ps := by simp [*]) :
    s0.only ps (State.compAdvance s x1) := by
  unfold State.compAdvance
  try dsimp only
  repeat' first
    | with_reducible assumption | with_reducible apply State.compSettle_only | with_reducible apply State.askStreams_only
    | with_reducible apply State.admitAll_only | with_reducible apply State.setComp_only
    | with_reducible apply State.compRead_only | with_reducible apply State.nextRow_only
    | with_reducible apply State.askRow_only | with_reducible apply only_ite
    | (with_reducible apply only_foldl; intro _ _ _; try dsimp only) | split
theorem State.dropUnissued_only {ps : List Piece} {s0 : State} (s : State) (x1 : Nat) (h : s0.only ps s) (h_reqs : .reqs ∈ ps := by simp [*]) (h_orphans : .orphans ∈ ps := by simp [*]) (h_trn : .trn ∈ ps := by simp [*]) (h_flt : .flt ∈ ps := by simp [*]) (h_rcd : .rcd ∈ ps := by simp [*]) :
    s0.only ps (State.dropUnissued s x1) := by
  unfold State.dropUnissued
  repeat' first | with_reducible assumption | with_reducible apply State.withdrawReqs_only
theorem State.compRun_only {ps : List Piece} {s0 : State} (x0 : Nat) (x1 : Nat) (s : State) (h : s0.only ps s) (h_reqs : .reqs ∈ ps := by simp [*]) (h_nextId : .nextId ∈ ps := by simp [*]) (h_gal : .gal ∈ ps := by simp [*]) (h_epo : .epo ∈ ps := by simp [*]) (h_cmp : .cmp ∈ ps := by simp [*]) (h_lka : .lka ∈ ps := by simp [*]) (h_obs : .obs ∈ ps := by simp [*]) (h_rcd : .rcd ∈ ps := by simp [*]) :
    s0.only ps (State.compRun x0 x1 s) := by
  induction x1 generalizing s with
  | zero => exact h
  | succ k ih =>
    unfold State.compRun; try dsimp only
    repeat' first | with_reducible assumption | with_reducible apply ih | with_reducible apply State.compAdvance_only | with_reducible apply only_ite | split
theorem State.compGo_only {ps : List Piece} {s0 : State} (s : State) (x1 : Nat) (h : s0.only ps s) (h_reqs : .reqs ∈ ps := by simp [*]) (h_nextId : .nextId ∈ ps := by simp [*]) (h_gal : .gal ∈ ps := by simp [*]) (h_epo : .epo ∈ ps := by simp [*]) (h_cmp : .cmp ∈ ps := by simp [*]) (h_lka : .lka ∈ ps := by simp [*]) (h_obs : .obs ∈ ps := by simp [*]) (h_rcd : .rcd ∈ ps := by simp [*]) :
    s0.only ps (State.compGo s x1) := by
  unfold State.compGo
  repeat' first | with_reducible assumption | with_reducible apply State.compRun_only
theorem State.cutComp_only {ps : List Piece} {s0 : State} (s : State) (x1 : Nat) (h : s0.only ps s) (h_reqs : .reqs ∈ ps := by simp [*]) (h_orphans : .orphans ∈ ps := by simp [*]) (h_trn : .trn ∈ ps := by simp [*]) (h_flt : .flt ∈ ps := by simp [*]) (h_rcd : .rcd ∈ ps := by simp [*]) :
    s0.only ps (State.cutComp s x1) := by
  unfold State.cutComp
  repeat' first | with_reducible assumption | with_reducible apply State.withdrawReqs_only
theorem State.compError_only {ps : List Piece} {s0 : State} (s : State) (x1 : Nat) (x2 : Req) (h : s0.only ps s) (h_reqs : .reqs ∈ ps := by simp [*]) (h_orphans : .orphans ∈ ps := by simp [*]) (h_nextId : .nextId ∈ ps := by simp [*]) (h_gal : .gal ∈ ps := by simp [*]) (h_trn : .trn ∈ ps := by simp [*]) (h_flt : .flt ∈ ps := by simp [*]) (h_epo : .epo ∈ ps := by simp [*]) (h_cmp : .cmp ∈ ps := by simp [*]) (h_lka : .lka ∈ ps := by simp [*]) (h_obs : .obs ∈ ps := by simp [*]) (h_rcd : .rcd ∈ ps := by simp [*]) :
    s0.only ps (State.compError s x1 x2) := by
  unfold State.compError
  try dsimp only
  repeat' first
    | with_reducible assumption | with_reducible apply State.compSettle_only | with_reducible apply State.dropUnissued_only
    | with_reducible apply State.setComp_only | with_reducible apply State.compGo_only
    | with_reducible apply State.cutComp_only | split
theorem State.compFence_only {ps : List Piece} {s0 : State} (s : State) (x1 : Nat) (h : s0.only ps s) (h_reqs : .reqs ∈ ps := by simp [*]) (h_orphans : .orphans ∈ ps := by simp [*]) (h_gal : .gal ∈ ps := by simp [*]) (h_trn : .trn ∈ ps := by simp [*]) (h_flt : .flt ∈ ps := by simp [*]) (h_epo : .epo ∈ ps := by simp [*]) (h_cmp : .cmp ∈ ps := by simp [*]) (h_lka : .lka ∈ ps := by simp [*]) (h_obs : .obs ∈ ps := by simp [*]) (h_rcd : .rcd ∈ ps := by simp [*]) :
    s0.only ps (State.compFence s x1) := by
  unfold State.compFence
  repeat' first
    | with_reducible assumption | with_reducible apply State.setComp_only | with_reducible apply State.compSettle_only
    | with_reducible apply State.dropUnissued_only
theorem State.compKill_only {ps : List Piece} {s0 : State} (s : State) (x1 : Nat) (h : s0.only ps s) (h_reqs : .reqs ∈ ps := by simp [*]) (h_orphans : .orphans ∈ ps := by simp [*]) (h_gal : .gal ∈ ps := by simp [*]) (h_trn : .trn ∈ ps := by simp [*]) (h_flt : .flt ∈ ps := by simp [*]) (h_epo : .epo ∈ ps := by simp [*]) (h_cmp : .cmp ∈ ps := by simp [*]) (h_lka : .lka ∈ ps := by simp [*]) (h_obs : .obs ∈ ps := by simp [*]) (h_rcd : .rcd ∈ ps := by simp [*]) :
    s0.only ps (State.compKill s x1) := by
  unfold State.compKill
  repeat' first
    | with_reducible assumption | with_reducible apply State.compSettle_only | with_reducible apply State.dropUnissued_only
    | with_reducible apply State.setComp_only
theorem State.compStall_only {ps : List Piece} {s0 : State} (s : State) (x1 : Nat) (x2 : Req) (h : s0.only ps s) (h_cmp : .cmp ∈ ps := by simp [*]) :
    s0.only ps (State.compStall s x1 x2) := by
  unfold State.compStall
  repeat' first | with_reducible assumption | with_reducible apply State.setComp_only | with_reducible apply only_ite
theorem State.compUnserviceable_only {ps : List Piece} {s0 : State} (s : State) (x1 : Nat) (x2 : Req) (x3 : Nat) (x4 : Nat) (x5 : Nat) (h : s0.only ps s) (h_reqs : .reqs ∈ ps := by simp [*]) (h_orphans : .orphans ∈ ps := by simp [*]) (h_gal : .gal ∈ ps := by simp [*]) (h_trn : .trn ∈ ps := by simp [*]) (h_flt : .flt ∈ ps := by simp [*]) (h_epo : .epo ∈ ps := by simp [*]) (h_cmp : .cmp ∈ ps := by simp [*]) (h_lka : .lka ∈ ps := by simp [*]) (h_obs : .obs ∈ ps := by simp [*]) (h_rcd : .rcd ∈ ps := by simp [*]) :
    s0.only ps (State.compUnserviceable s x1 x2 x3 x4 x5) := by
  unfold State.compUnserviceable
  repeat' first
    | with_reducible assumption | with_reducible apply State.setComp_only | with_reducible apply State.compSettle_only
    | with_reducible apply State.dropUnissued_only
theorem State.compUnstall_only {ps : List Piece} {s0 : State} (s : State) (x1 : Nat) (h : s0.only ps s) (h_reqs : .reqs ∈ ps := by simp [*]) (h_nextId : .nextId ∈ ps := by simp [*]) (h_gal : .gal ∈ ps := by simp [*]) (h_epo : .epo ∈ ps := by simp [*]) (h_cmp : .cmp ∈ ps := by simp [*]) (h_lka : .lka ∈ ps := by simp [*]) (h_obs : .obs ∈ ps := by simp [*]) (h_rcd : .rcd ∈ ps := by simp [*]) :
    s0.only ps (State.compUnstall s x1) := by
  unfold State.compUnstall
  repeat' first
    | with_reducible assumption | with_reducible apply State.compGo_only | with_reducible apply State.setComp_only
    | with_reducible apply only_ite
theorem State.uncount_only {ps : List Piece} {s0 : State} (s : State) (x1 : Nat) (x2 : Req) (h : s0.only ps s) (h_gal : .gal ∈ ps := by simp [*]) :
    s0.only ps (State.uncount s x1 x2) := by
  unfold State.uncount
  repeat' first | with_reducible assumption | with_reducible apply State.modQueue_only | with_reducible apply only_ite
theorem State.recordFails_only {ps : List Piece} {s0 : State} (s : State) (x1 : Nat) (x2 : BitVec 16) (h : s0.only ps s) (h_reqs : .reqs ∈ ps := by simp [*]) (h_orphans : .orphans ∈ ps := by simp [*]) (h_nextId : .nextId ∈ ps := by simp [*]) (h_gal : .gal ∈ ps := by simp [*]) (h_trn : .trn ∈ ps := by simp [*]) (h_flt : .flt ∈ ps := by simp [*]) (h_lka : .lka ∈ ps := by simp [*]) (h_ic : .ic ∈ ps := by simp [*]) (h_rcd : .rcd ∈ ps := by simp [*]) :
    s0.only ps (State.recordFails s x1 x2) := by
  unfold State.recordFails
  repeat' first
    | with_reducible assumption | with_reducible apply State.pumpRecords_only | with_reducible apply State.dropCmd_only
    | with_reducible apply State.haltQueue_only
theorem State.tileFails_only {ps : List Piece} {s0 : State} (s : State) (x1 : Req) (x2 : Nat) (x3 : Nat) (x4 : ECode) (h : s0.only ps s) (h_reqs : .reqs ∈ ps := by simp [*]) (h_orphans : .orphans ∈ ps := by simp [*]) (h_out : .out ∈ ps := by simp [*]) (h_trn : .trn ∈ ps := by simp [*]) (h_flt : .flt ∈ ps := by simp [*]) (h_rcd : .rcd ∈ ps := by simp [*]) :
    s0.only ps (State.tileFails s x1 x2 x3 x4) := by
  unfold State.tileFails
  repeat' first
    | with_reducible assumption | with_reducible apply State.emit_only | with_reducible apply State.withdrawReqs_only
    | with_reducible apply only_ite
theorem State.bounce_only {ps : List Piece} {s0 : State} (s : State) (x1 : Req) (x2 : Nat) (x3 : Nat) (x4 : ECode) (h : s0.only ps s) (h_reqs : .reqs ∈ ps := by simp [*]) (h_orphans : .orphans ∈ ps := by simp [*]) (h_nextId : .nextId ∈ ps := by simp [*]) (h_out : .out ∈ ps := by simp [*]) (h_gal : .gal ∈ ps := by simp [*]) (h_trn : .trn ∈ ps := by simp [*]) (h_flt : .flt ∈ ps := by simp [*]) (h_epo : .epo ∈ ps := by simp [*]) (h_plt : .plt ∈ ps := by simp [*]) (h_cmp : .cmp ∈ ps := by simp [*]) (h_lka : .lka ∈ ps := by simp [*]) (h_ic : .ic ∈ ps := by simp [*]) (h_obs : .obs ∈ ps := by simp [*]) (h_rcd : .rcd ∈ ps := by simp [*]) :
    s0.only ps (State.bounce s x1 x2 x3 x4) := by
  unfold State.bounce
  repeat' first
    | with_reducible assumption | with_reducible apply State.withdrawReqs_only | with_reducible apply State.haltQueue_only
    | with_reducible apply State.uncount_only | with_reducible apply State.recordFails_only
    | with_reducible apply State.pleatError_only | with_reducible apply State.endCmd_only
    | with_reducible apply State.tileFails_only | with_reducible apply State.emit_only
    | with_reducible apply State.compError_only | split
theorem State.bounceAt_only {ps : List Piece} {s0 : State} (s : State) (x1 : Req) (x2 : Out) (x3 : ECode) (h : s0.only ps s) (h_reqs : .reqs ∈ ps := by simp [*]) (h_orphans : .orphans ∈ ps := by simp [*]) (h_nextId : .nextId ∈ ps := by simp [*]) (h_out : .out ∈ ps := by simp [*]) (h_gal : .gal ∈ ps := by simp [*]) (h_trn : .trn ∈ ps := by simp [*]) (h_flt : .flt ∈ ps := by simp [*]) (h_epo : .epo ∈ ps := by simp [*]) (h_plt : .plt ∈ ps := by simp [*]) (h_cmp : .cmp ∈ ps := by simp [*]) (h_lka : .lka ∈ ps := by simp [*]) (h_ic : .ic ∈ ps := by simp [*]) (h_obs : .obs ∈ ps := by simp [*]) (h_rcd : .rcd ∈ ps := by simp [*]) :
    s0.only ps (State.bounceAt s x1 x2 x3) := by
  unfold State.bounceAt
  repeat' first | with_reducible assumption | with_reducible apply State.bounce_only
theorem State.unserviceable_only {ps : List Piece} {s0 : State} (s : State) (x1 : Req) (x2 : Nat) (x3 : Nat) (h : s0.only ps s) (h_reqs : .reqs ∈ ps := by simp [*]) (h_orphans : .orphans ∈ ps := by simp [*]) (h_nextId : .nextId ∈ ps := by simp [*]) (h_out : .out ∈ ps := by simp [*]) (h_gal : .gal ∈ ps := by simp [*]) (h_trn : .trn ∈ ps := by simp [*]) (h_flt : .flt ∈ ps := by simp [*]) (h_epo : .epo ∈ ps := by simp [*]) (h_plt : .plt ∈ ps := by simp [*]) (h_cmp : .cmp ∈ ps := by simp [*]) (h_lka : .lka ∈ ps := by simp [*]) (h_ic : .ic ∈ ps := by simp [*]) (h_obs : .obs ∈ ps := by simp [*]) (h_rcd : .rcd ∈ ps := by simp [*]) :
    s0.only ps (State.unserviceable s x1 x2 x3) := by
  unfold State.unserviceable
  repeat' first
    | with_reducible assumption | with_reducible apply State.endCmd_only | with_reducible apply State.haltQueue_only
    | with_reducible apply State.recordFails_only | with_reducible apply State.pleatUnserviceable_only
    | with_reducible apply State.tileFails_only | with_reducible apply State.compUnserviceable_only | split
theorem State.giveUp_only {ps : List Piece} {s0 : State} (s : State) (x1 : List Req) (x2 : Nat) (x3 : Nat) (h : s0.only ps s) (h_reqs : .reqs ∈ ps := by simp [*]) (h_orphans : .orphans ∈ ps := by simp [*]) (h_nextId : .nextId ∈ ps := by simp [*]) (h_out : .out ∈ ps := by simp [*]) (h_gal : .gal ∈ ps := by simp [*]) (h_trn : .trn ∈ ps := by simp [*]) (h_flt : .flt ∈ ps := by simp [*]) (h_epo : .epo ∈ ps := by simp [*]) (h_plt : .plt ∈ ps := by simp [*]) (h_cmp : .cmp ∈ ps := by simp [*]) (h_lka : .lka ∈ ps := by simp [*]) (h_ic : .ic ∈ ps := by simp [*]) (h_obs : .obs ∈ ps := by simp [*]) (h_rcd : .rcd ∈ ps := by simp [*]) :
    s0.only ps (State.giveUp s x1 x2 x3) := by
  unfold State.giveUp
  repeat' first
    | with_reducible assumption | with_reducible apply State.unserviceable_only | with_reducible apply State.dropReq_only
    | (with_reducible apply only_foldl; intro _ _ _; try dsimp only)
theorem State.endUnserviceable_only {ps : List Piece} {s0 : State} (s : State) (x1 : Nat) (x2 : FEntry) (x3 : Nat) (h : s0.only ps s) (h_reqs : .reqs ∈ ps := by simp [*]) (h_orphans : .orphans ∈ ps := by simp [*]) (h_nextId : .nextId ∈ ps := by simp [*]) (h_out : .out ∈ ps := by simp [*]) (h_gal : .gal ∈ ps := by simp [*]) (h_trn : .trn ∈ ps := by simp [*]) (h_flt : .flt ∈ ps := by simp [*]) (h_epo : .epo ∈ ps := by simp [*]) (h_plt : .plt ∈ ps := by simp [*]) (h_cmp : .cmp ∈ ps := by simp [*]) (h_lka : .lka ∈ ps := by simp [*]) (h_ic : .ic ∈ ps := by simp [*]) (h_obs : .obs ∈ ps := by simp [*]) (h_rcd : .rcd ∈ ps := by simp [*]) :
    s0.only ps (State.endUnserviceable s x1 x2 x3) := by
  unfold State.endUnserviceable
  repeat' first
    | with_reducible assumption | with_reducible apply State.giveUp_only | with_reducible apply State.endEntry_only
theorem State.ringFault_only {ps : List Piece} {s0 : State} (s : State) (x1 : Nat) (x2 : Nat) (h : s0.only ps s) (h_reqs : .reqs ∈ ps := by simp [*]) (h_orphans : .orphans ∈ ps := by simp [*]) (h_gal : .gal ∈ ps := by simp [*]) (h_trn : .trn ∈ ps := by simp [*]) (h_flt : .flt ∈ ps := by simp [*]) (h_rcd : .rcd ∈ ps := by simp [*]) :
    s0.only ps (State.ringFault s x1 x2) := by
  unfold State.ringFault
  repeat' first
    | with_reducible assumption | with_reducible apply State.modQueue_only | with_reducible apply State.withdrawReqs_only
theorem State.stallFor_only {ps : List Piece} {s0 : State} (s : State) (x1 : Req) (h : s0.only ps s) (h_reqs : .reqs ∈ ps := by simp [*]) (h_orphans : .orphans ∈ ps := by simp [*]) (h_gal : .gal ∈ ps := by simp [*]) (h_trn : .trn ∈ ps := by simp [*]) (h_flt : .flt ∈ ps := by simp [*]) (h_plt : .plt ∈ ps := by simp [*]) (h_cmp : .cmp ∈ ps := by simp [*]) (h_rcd : .rcd ∈ ps := by simp [*]) :
    s0.only ps (State.stallFor s x1) := by
  unfold State.stallFor
  repeat' first
    | with_reducible assumption | with_reducible apply State.ringFault_only | with_reducible apply State.uncount_only
    | with_reducible apply State.pleatStall_only | with_reducible apply State.compStall_only | split
theorem State.takeEntry_only {ps : List Piece} {s0 : State} (s : State) (x1 : Req) (x2 : Nat) (x3 : Nat) (x4 : Bool) (h : s0.only ps s) (h_reqs : .reqs ∈ ps := by simp [*]) (h_flt : .flt ∈ ps := by simp [*]) (h_obs : .obs ∈ ps := by simp [*]) :
    s0.only ps (State.takeEntry s x1 x2 x3 x4) := by
  unfold State.takeEntry
  repeat' first
    | with_reducible assumption | with_reducible apply State.setFltp_only | with_reducible apply State.pcntAdd_only
    | with_reducible apply State.setReq_only
theorem State.raiseFault_only {ps : List Piece} {s0 : State} (s : State) (x1 : Req) (x2 : Nat) (x3 : Nat) (x4 : W64) (h : s0.only ps s) (h_reqs : .reqs ∈ ps := by simp [*]) (h_orphans : .orphans ∈ ps := by simp [*]) (h_nextId : .nextId ∈ ps := by simp [*]) (h_out : .out ∈ ps := by simp [*]) (h_gal : .gal ∈ ps := by simp [*]) (h_trn : .trn ∈ ps := by simp [*]) (h_flt : .flt ∈ ps := by simp [*]) (h_epo : .epo ∈ ps := by simp [*]) (h_plt : .plt ∈ ps := by simp [*]) (h_cmp : .cmp ∈ ps := by simp [*]) (h_lka : .lka ∈ ps := by simp [*]) (h_ic : .ic ∈ ps := by simp [*]) (h_obs : .obs ∈ ps := by simp [*]) (h_rcd : .rcd ∈ ps := by simp [*]) :
    s0.only ps (State.raiseFault s x1 x2 x3 x4) := by
  unfold State.raiseFault
  try dsimp only
  repeat' first
    | with_reducible assumption | with_reducible apply State.stallFor_only | with_reducible apply State.setReq_only
    | with_reducible apply State.giveUp_only | with_reducible apply State.takeEntry_only
    | with_reducible apply State.setFltp_only | split
theorem State.routeEntry_only {ps : List Piece} {s0 : State} (s : State) (x1 : Nat) (x2 : FEntry) (h : s0.only ps s) (h_reqs : .reqs ∈ ps := by simp [*]) (h_orphans : .orphans ∈ ps := by simp [*]) (h_nextId : .nextId ∈ ps := by simp [*]) (h_out : .out ∈ ps := by simp [*]) (h_gal : .gal ∈ ps := by simp [*]) (h_trn : .trn ∈ ps := by simp [*]) (h_flt : .flt ∈ ps := by simp [*]) (h_epo : .epo ∈ ps := by simp [*]) (h_plt : .plt ∈ ps := by simp [*]) (h_cmp : .cmp ∈ ps := by simp [*]) (h_lka : .lka ∈ ps := by simp [*]) (h_ic : .ic ∈ ps := by simp [*]) (h_obs : .obs ∈ ps := by simp [*]) (h_rcd : .rcd ∈ ps := by simp [*]) :
    s0.only ps (State.routeEntry s x1 x2) := by
  unfold State.routeEntry
  repeat' first
    | with_reducible assumption | with_reducible apply State.endUnserviceable_only
    | with_reducible apply State.modFltp_only | with_reducible apply only_ite
theorem State.routeStale_only {ps : List Piece} {s0 : State} (s : State) (x1 : Nat) (h : s0.only ps s) (h_reqs : .reqs ∈ ps := by simp [*]) (h_orphans : .orphans ∈ ps := by simp [*]) (h_nextId : .nextId ∈ ps := by simp [*]) (h_out : .out ∈ ps := by simp [*]) (h_gal : .gal ∈ ps := by simp [*]) (h_trn : .trn ∈ ps := by simp [*]) (h_flt : .flt ∈ ps := by simp [*]) (h_epo : .epo ∈ ps := by simp [*]) (h_plt : .plt ∈ ps := by simp [*]) (h_cmp : .cmp ∈ ps := by simp [*]) (h_lka : .lka ∈ ps := by simp [*]) (h_ic : .ic ∈ ps := by simp [*]) (h_obs : .obs ∈ ps := by simp [*]) (h_rcd : .rcd ∈ ps := by simp [*]) :
    s0.only ps (State.routeStale s x1) := by
  unfold State.routeStale
  repeat' first
    | with_reducible assumption | with_reducible apply State.routeEntry_only
    | (with_reducible apply only_foldl; intro _ _ _; try dsimp only) | split
theorem State.settleOne_only {ps : List Piece} {s0 : State} (s : State) (x1 : Nat) (x2 : Nat) (h : s0.only ps s) (h_reqs : .reqs ∈ ps := by simp [*]) (h_orphans : .orphans ∈ ps := by simp [*]) (h_nextId : .nextId ∈ ps := by simp [*]) (h_out : .out ∈ ps := by simp [*]) (h_gal : .gal ∈ ps := by simp [*]) (h_trn : .trn ∈ ps := by simp [*]) (h_flt : .flt ∈ ps := by simp [*]) (h_epo : .epo ∈ ps := by simp [*]) (h_plt : .plt ∈ ps := by simp [*]) (h_cmp : .cmp ∈ ps := by simp [*]) (h_lka : .lka ∈ ps := by simp [*]) (h_ic : .ic ∈ ps := by simp [*]) (h_obs : .obs ∈ ps := by simp [*]) (h_rcd : .rcd ∈ ps := by simp [*]) :
    s0.only ps (State.settleOne s x1 x2) := by
  unfold State.settleOne
  repeat' first
    | with_reducible assumption | with_reducible apply State.routeStale_only | with_reducible apply State.settleEntry_only
    | split
theorem State.fault_only {ps : List Piece} {s0 : State} (s : State) (x1 : Req) (x2 : Nat) (x3 : Nat) (x4 : W64) (h : s0.only ps s) (h_reqs : .reqs ∈ ps := by simp [*]) (h_orphans : .orphans ∈ ps := by simp [*]) (h_nextId : .nextId ∈ ps := by simp [*]) (h_out : .out ∈ ps := by simp [*]) (h_gal : .gal ∈ ps := by simp [*]) (h_trn : .trn ∈ ps := by simp [*]) (h_flt : .flt ∈ ps := by simp [*]) (h_epo : .epo ∈ ps := by simp [*]) (h_plt : .plt ∈ ps := by simp [*]) (h_cmp : .cmp ∈ ps := by simp [*]) (h_lka : .lka ∈ ps := by simp [*]) (h_ic : .ic ∈ ps := by simp [*]) (h_obs : .obs ∈ ps := by simp [*]) (h_rcd : .rcd ∈ ps := by simp [*]) :
    s0.only ps (State.fault s x1 x2 x3 x4) := by
  unfold State.fault
  repeat' first
    | with_reducible assumption | with_reducible apply State.raiseFault_only | with_reducible apply State.settleOne_only
    | with_reducible apply State.setReq_only | split
theorem State.hostPiece_only {ps : List Piece} {s0 : State} (s : State) (x1 : Req) (x2 : Nat) (x3 : Bool) (x4 : Nat) (x5 : Reply) (h : s0.only ps s) (h_reqs : .reqs ∈ ps := by simp [*]) (h_orphans : .orphans ∈ ps := by simp [*]) (h_out : .out ∈ ps := by simp [*]) (h_trn : .trn ∈ ps := by simp [*]) (h_rcd : .rcd ∈ ps := by simp [*]) :
    s0.only ps (State.hostPiece s x1 x2 x3 x4 x5) := by
  unfold State.hostPiece
  try dsimp only
  repeat' first
    | with_reducible assumption | with_reducible apply State.setReq_only | with_reducible apply State.metric_only
    | with_reducible apply State.handOn_only | split
theorem State.replayed_only {ps : List Piece} {s0 : State} (s : State) (x1 : Req) (h : s0.only ps s) (h_reqs : .reqs ∈ ps := by simp [*]) (h_orphans : .orphans ∈ ps := by simp [*]) (h_nextId : .nextId ∈ ps := by simp [*]) (h_out : .out ∈ ps := by simp [*]) (h_gal : .gal ∈ ps := by simp [*]) (h_trn : .trn ∈ ps := by simp [*]) (h_flt : .flt ∈ ps := by simp [*]) (h_epo : .epo ∈ ps := by simp [*]) (h_plt : .plt ∈ ps := by simp [*]) (h_cmp : .cmp ∈ ps := by simp [*]) (h_lka : .lka ∈ ps := by simp [*]) (h_ic : .ic ∈ ps := by simp [*]) (h_obs : .obs ∈ ps := by simp [*]) (h_rcd : .rcd ∈ ps := by simp [*]) :
    s0.only ps (State.replayed s x1) := by
  unfold State.replayed
  repeat' first
    | with_reducible assumption | with_reducible apply State.settleOne_only | with_reducible apply State.setReq_only
    | split
theorem State.issuedHook_only {ps : List Piece} {s0 : State} (s : State) (x1 : Req) (h : s0.only ps s) (h_reqs : .reqs ∈ ps := by simp [*]) (h_orphans : .orphans ∈ ps := by simp [*]) (h_nextId : .nextId ∈ ps := by simp [*]) (h_out : .out ∈ ps := by simp [*]) (h_gal : .gal ∈ ps := by simp [*]) (h_trn : .trn ∈ ps := by simp [*]) (h_flt : .flt ∈ ps := by simp [*]) (h_epo : .epo ∈ ps := by simp [*]) (h_plt : .plt ∈ ps := by simp [*]) (h_cmp : .cmp ∈ ps := by simp [*]) (h_lka : .lka ∈ ps := by simp [*]) (h_ic : .ic ∈ ps := by simp [*]) (h_obs : .obs ∈ ps := by simp [*]) (h_rcd : .rcd ∈ ps := by simp [*]) :
    s0.only ps (State.issuedHook s x1) := by
  unfold State.issuedHook
  repeat' first
    | with_reducible assumption | with_reducible apply State.replayed_only | with_reducible apply State.pleatIssued_only
    | with_reducible apply State.compUnstall_only | split
theorem State.noteRow_only {ps : List Piece} {s0 : State} (s : State) (x1 : Req) (x2 : Out) (h : s0.only ps s) (h_cmp : .cmp ∈ ps := by simp [*]) :
    s0.only ps (State.noteRow s x1 x2) := by
  unfold State.noteRow
  repeat' first | with_reducible assumption | with_reducible apply State.modComp_only | split
theorem State.regsAccess_only {ps : List Piece} {s0 : State} (s : State) (x1 : Req) (x2 : Out) (h : s0.only ps s) (h_reqs : .reqs ∈ ps := by simp [*]) (h_orphans : .orphans ∈ ps := by simp [*]) (h_nextId : .nextId ∈ ps := by simp [*]) (h_free : .free ∈ ps := by simp [*]) (h_out : .out ∈ ps := by simp [*]) (h_gal : .gal ∈ ps := by simp [*]) (h_trn : .trn ∈ ps := by simp [*]) (h_flt : .flt ∈ ps := by simp [*]) (h_epo : .epo ∈ ps := by simp [*]) (h_plt : .plt ∈ ps := by simp [*]) (h_cmp : .cmp ∈ ps := by simp [*]) (h_lka : .lka ∈ ps := by simp [*]) (h_ic : .ic ∈ ps := by simp [*]) (h_obs : .obs ∈ ps := by simp [*]) (h_rcd : .rcd ∈ ps := by simp [*]) :
    s0.only ps (State.regsAccess s x1 x2) := by
  unfold State.regsAccess
  repeat' first
    | with_reducible assumption | with_reducible apply State.useFree_only | with_reducible apply State.bounceAt_only
    | with_reducible apply State.handOn_only | with_reducible apply State.issuedHook_only
    | with_reducible apply State.noteRow_only | with_reducible apply State.setReq_only | with_reducible apply only_ite
theorem State.noteHost_only {ps : List Piece} {s0 : State} (s : State) (x1 : Req) (x2 : Nat) (x3 : HostAt) (h : s0.only ps s) (h_gal : .gal ∈ ps := by simp [*]) :
    s0.only ps (State.noteHost s x1 x2 x3) := by
  unfold State.noteHost
  try dsimp only
  repeat' first | with_reducible assumption | with_reducible apply State.setCmd_only | split
theorem State.sendHost_only {ps : List Piece} {s0 : State} (s : State) (x1 : Req) (x2 : Nat) (x3 : Bool) (h : s0.only ps s) (h_reqs : .reqs ∈ ps := by simp [*]) (h_out : .out ∈ ps := by simp [*]) (h_gal : .gal ∈ ps := by simp [*]) (h_lka : .lka ∈ ps := by simp [*]) :
    s0.only ps (State.sendHost s x1 x2 x3) := by
  unfold State.sendHost
  repeat' first
    | with_reducible assumption | with_reducible apply State.setReq_only | with_reducible apply State.noteHost_only
    | with_reducible apply State.hostWrite_only | with_reducible apply State.watchHost_only
    | with_reducible apply State.emit_only | with_reducible apply State.hostReads_only | split
theorem State.performNow_only {ps : List Piece} {s0 : State} (s : State) (x1 : Nat) (x2 : Nat) (h : s0.only ps s) (h_mem : .mem ∈ ps := by simp [*]) (h_poison : .poison ∈ ps := by simp [*]) (h_veil : .veil ∈ ps := by simp [*]) (h_reqs : .reqs ∈ ps := by simp [*]) (h_orphans : .orphans ∈ ps := by simp [*]) (h_out : .out ∈ ps := by simp [*]) (h_trn : .trn ∈ ps := by simp [*]) (h_lka : .lka ∈ ps := by simp [*]) :
    s0.only ps (State.performNow s x1 x2) := by
  unfold State.performNow
  repeat' first
    | with_reducible assumption | with_reducible refine State.writeBack_only (by assumption) ?_
    | with_reducible apply State.handOn_only | with_reducible apply State.setReq_only
    | with_reducible apply State.performAtomic_only | with_reducible refine State.performAtomic_eq (by assumption) ?_
    | split
theorem State.issueTo_only {ps : List Piece} {s0 : State} (s : State) (x1 : Req) (x2 : Out) (h : s0.only ps s) (h_mem : .mem ∈ ps := by simp [*]) (h_poison : .poison ∈ ps := by simp [*]) (h_veil : .veil ∈ ps := by simp [*]) (h_reqs : .reqs ∈ ps := by simp [*]) (h_orphans : .orphans ∈ ps := by simp [*]) (h_nextId : .nextId ∈ ps := by simp [*]) (h_out : .out ∈ ps := by simp [*]) (h_gal : .gal ∈ ps := by simp [*]) (h_trn : .trn ∈ ps := by simp [*]) (h_flt : .flt ∈ ps := by simp [*]) (h_epo : .epo ∈ ps := by simp [*]) (h_plt : .plt ∈ ps := by simp [*]) (h_cmp : .cmp ∈ ps := by simp [*]) (h_lka : .lka ∈ ps := by simp [*]) (h_ic : .ic ∈ ps := by simp [*]) (h_prt : .prt ∈ ps := by simp [*]) (h_obs : .obs ∈ ps := by simp [*]) (h_rcd : .rcd ∈ ps := by simp [*]) :
    s0.only ps (State.issueTo s x1 x2) := by
  unfold State.issueTo
  try dsimp only
  repeat' first
    | with_reducible assumption | with_reducible apply State.chargeTo_only | with_reducible apply State.metric_only
    | with_reducible apply State.setQueue_only | with_reducible apply State.sendHost_only
    | with_reducible apply State.setReq_only | with_reducible apply State.issuedHook_only
    | with_reducible apply State.performNow_only | with_reducible apply State.handOn_only | split
theorem State.tryIssue_only {ps : List Piece} {s0 : State} (s : State) (x1 : Req) (x2 : Out) (h : s0.only ps s) (h_mem : .mem ∈ ps := by simp [*]) (h_poison : .poison ∈ ps := by simp [*]) (h_veil : .veil ∈ ps := by simp [*]) (h_reqs : .reqs ∈ ps := by simp [*]) (h_orphans : .orphans ∈ ps := by simp [*]) (h_nextId : .nextId ∈ ps := by simp [*]) (h_out : .out ∈ ps := by simp [*]) (h_gal : .gal ∈ ps := by simp [*]) (h_trn : .trn ∈ ps := by simp [*]) (h_flt : .flt ∈ ps := by simp [*]) (h_epo : .epo ∈ ps := by simp [*]) (h_plt : .plt ∈ ps := by simp [*]) (h_cmp : .cmp ∈ ps := by simp [*]) (h_lka : .lka ∈ ps := by simp [*]) (h_ic : .ic ∈ ps := by simp [*]) (h_prt : .prt ∈ ps := by simp [*]) (h_obs : .obs ∈ ps := by simp [*]) (h_rcd : .rcd ∈ ps := by simp [*]) :
    s0.only ps (State.tryIssue s x1 x2) := by
  unfold State.tryIssue
  repeat' first
    | with_reducible assumption | with_reducible apply State.bounceAt_only | with_reducible apply State.replayed_only
    | with_reducible apply State.setReq_only | with_reducible apply State.issuedHook_only
    | with_reducible apply State.issueTo_only | with_reducible apply only_ite
theorem State.release_only {ps : List Piece} {s0 : State} (s : State) (x1 : Req → Bool) (h : s0.only ps s) (h_mem : .mem ∈ ps := by simp [*]) (h_poison : .poison ∈ ps := by simp [*]) (h_veil : .veil ∈ ps := by simp [*]) (h_reqs : .reqs ∈ ps := by simp [*]) (h_orphans : .orphans ∈ ps := by simp [*]) (h_nextId : .nextId ∈ ps := by simp [*]) (h_out : .out ∈ ps := by simp [*]) (h_gal : .gal ∈ ps := by simp [*]) (h_trn : .trn ∈ ps := by simp [*]) (h_flt : .flt ∈ ps := by simp [*]) (h_epo : .epo ∈ ps := by simp [*]) (h_plt : .plt ∈ ps := by simp [*]) (h_cmp : .cmp ∈ ps := by simp [*]) (h_lka : .lka ∈ ps := by simp [*]) (h_ic : .ic ∈ ps := by simp [*]) (h_prt : .prt ∈ ps := by simp [*]) (h_obs : .obs ∈ ps := by simp [*]) (h_rcd : .rcd ∈ ps := by simp [*]) :
    s0.only ps (State.release s x1) := by
  unfold State.release
  repeat' first
    | with_reducible assumption | with_reducible apply State.tryIssue_only
    | (with_reducible apply only_foldl; intro _ _ _; try dsimp only) | split
theorem State.translated_only {ps : List Piece} {s0 : State} (s : State) (x1 : Req) (x2 : Out) (h : s0.only ps s) (h_mem : .mem ∈ ps := by simp [*]) (h_poison : .poison ∈ ps := by simp [*]) (h_veil : .veil ∈ ps := by simp [*]) (h_reqs : .reqs ∈ ps := by simp [*]) (h_orphans : .orphans ∈ ps := by simp [*]) (h_nextId : .nextId ∈ ps := by simp [*]) (h_free : .free ∈ ps := by simp [*]) (h_out : .out ∈ ps := by simp [*]) (h_gal : .gal ∈ ps := by simp [*]) (h_trn : .trn ∈ ps := by simp [*]) (h_flt : .flt ∈ ps := by simp [*]) (h_epo : .epo ∈ ps := by simp [*]) (h_plt : .plt ∈ ps := by simp [*]) (h_cmp : .cmp ∈ ps := by simp [*]) (h_lka : .lka ∈ ps := by simp [*]) (h_ic : .ic ∈ ps := by simp [*]) (h_prt : .prt ∈ ps := by simp [*]) (h_err : .err ∈ ps := by simp [*]) (h_obs : .obs ∈ ps := by simp [*]) (h_rcd : .rcd ∈ ps := by simp [*]) :
    s0.only ps (State.translated s x1 x2) := by
  unfold State.translated
  repeat' first
    | with_reducible assumption | with_reducible apply State.makeReady_only | with_reducible apply State.withdrawReqs_only
    | with_reducible apply State.endCmd_only | with_reducible apply State.bounceAt_only
    | with_reducible apply State.isolation_only | with_reducible apply State.regsAccess_only
    | with_reducible apply State.useFree_only | with_reducible apply State.release_only
    | with_reducible apply State.replayed_only | with_reducible apply State.noteRow_only
    | with_reducible apply State.setReq_only | with_reducible apply State.tryIssue_only | split
theorem State.issuePhys_only {ps : List Piece} {s0 : State} (s : State) (x1 : Owner) (x2 : Nat) (x3 : Nat) (x4 : Nat) (x5 : Nat) (x6 : Acc) (h : s0.only ps s) (h_mem : .mem ∈ ps := by simp [*]) (h_poison : .poison ∈ ps := by simp [*]) (h_veil : .veil ∈ ps := by simp [*]) (h_reqs : .reqs ∈ ps := by simp [*]) (h_orphans : .orphans ∈ ps := by simp [*]) (h_nextId : .nextId ∈ ps := by simp [*]) (h_free : .free ∈ ps := by simp [*]) (h_out : .out ∈ ps := by simp [*]) (h_gal : .gal ∈ ps := by simp [*]) (h_trn : .trn ∈ ps := by simp [*]) (h_flt : .flt ∈ ps := by simp [*]) (h_epo : .epo ∈ ps := by simp [*]) (h_plt : .plt ∈ ps := by simp [*]) (h_cmp : .cmp ∈ ps := by simp [*]) (h_lka : .lka ∈ ps := by simp [*]) (h_ic : .ic ∈ ps := by simp [*]) (h_prt : .prt ∈ ps := by simp [*]) (h_err : .err ∈ ps := by simp [*]) (h_obs : .obs ∈ ps := by simp [*]) (h_rcd : .rcd ∈ ps := by simp [*]) :
    s0.only ps (State.issuePhys s x1 x2 x3 x4 x5 x6) := by
  unfold State.issuePhys
  try dsimp only
  repeat' first
    | with_reducible assumption | with_reducible apply State.addPhys_only | with_reducible apply State.translated_only
    | split
theorem State.orphanPiece_only {ps : List Piece} {s0 : State} (s : State) (x1 : Req) (x2 : Nat) (x3 : Reply) (h : s0.only ps s) (h_orphans : .orphans ∈ ps := by simp [*]) :
    s0.only ps (State.orphanPiece s x1 x2 x3) := by
  unfold State.orphanPiece
  repeat' first | with_reducible assumption | simp only [only_orphans, h_orphans] | split
theorem State.posted_only {ps : List Piece} {s0 : State} (s : State) (x1 : Req) (x2 : Nat) (h : s0.only ps s) (h_reqs : .reqs ∈ ps := by simp [*]) (h_orphans : .orphans ∈ ps := by simp [*]) (h_out : .out ∈ ps := by simp [*]) (h_gal : .gal ∈ ps := by simp [*]) (h_trn : .trn ∈ ps := by simp [*]) (h_obs : .obs ∈ ps := by simp [*]) (h_rcd : .rcd ∈ ps := by simp [*]) :
    s0.only ps (State.posted s x1 x2) := by
  unfold State.posted
  repeat' first
    | with_reducible assumption | with_reducible apply State.endCmd_only | with_reducible apply State.dropReq_only
    | with_reducible apply State.handOn_only | with_reducible apply State.setReq_only | split
theorem State.strayCpl_only {ps : List Piece} {s0 : State} (s : State) (x1 : Nat) (x2 : Nat) (x3 : Nat) (x4 : Reply) (h : s0.only ps s) (h_orphans : .orphans ∈ ps := by simp [*]) (h_out : .out ∈ ps := by simp [*]) (h_lka : .lka ∈ ps := by simp [*]) (h_host : .host ∈ ps := by simp [*]) (h_rcd : .rcd ∈ ps := by simp [*]) :
    s0.only ps (State.strayCpl s x1 x2 x3 x4) := by
  unfold State.strayCpl
  repeat' first
    | with_reducible assumption | with_reducible apply State.orphanPiece_only | with_reducible apply State.metric_only
    | with_reducible apply State.unexpected_only | with_reducible apply State.setLk_only
    | with_reducible apply State.loseProof_only | simp only [only_host, h_orphans, h_out, h_lka, h_host, h_rcd] | split
theorem State.useProofs_only {ps : List Piece} {s0 : State} (s : State) (x1 : Nat) (x2 : List Nat) (h : s0.only ps s) (h_lka : .lka ∈ ps := by simp [*]) :
    s0.only ps (State.useProofs s x1 x2) := by
  unfold State.useProofs
  repeat' first | with_reducible assumption | with_reducible apply State.setLk_only | simp only [only_lka, h_lka]
theorem State.fromProof_only {ps : List Piece} {s0 : State} {s : State} {x1 : Req} {t : State} (e : (State.fromProof s x1) = some t) (h : s0.only ps s) (h_reqs : .reqs ∈ ps := by simp [*]) (h_lka : .lka ∈ ps := by simp [*]) :
    s0.only ps t := by
  unfold State.fromProof at e
  try dsimp only at e
  repeat' split at e
  all_goals try cases e; done
  all_goals first | contradiction | (simp only [Option.some.injEq] at e; subst e)
  all_goals
  repeat' first
    | with_reducible assumption | with_reducible apply State.useProofs_only | with_reducible apply State.setReq_only
theorem State.setTrn_only {ps : List Piece} {s0 : State} (s : State) (x1 : Trn) (h : s0.only ps s) (h_trn : .trn ∈ ps := by simp [*]) :
    s0.only ps (State.setTrn s x1) := by
  unfold State.setTrn
  repeat' first | with_reducible assumption | simp only [only_trn, h_trn]
theorem State.discardPart_only {ps : List Piece} {s0 : State} (s : State) (x1 : Nat) (x2 : Nat) (h : s0.only ps s) (h_lka : .lka ∈ ps := by simp [*]) :
    s0.only ps (State.discardPart s x1 x2) := by
  unfold State.discardPart
  repeat' first
    | with_reducible assumption | with_reducible apply State.discardHits_only
    | (with_reducible apply State.discardEach_only; intro _ _ _; try dsimp only) | with_reducible apply only_ite
theorem State.numberInv_only {ps : List Piece} {s0 : State} (s : State) (x1 : Nat) (x2 : InvScope) (x3 : InvFrom) (h : s0.only ps s) (h_trn : .trn ∈ ps := by simp [*]) (h_lka : .lka ∈ ps := by simp [*]) (h_aon : .aon ∈ ps := by simp [*]) :
    s0.only ps (State.numberInv s x1 x2 x3) := by
  unfold State.numberInv
  repeat' first
    | with_reducible assumption | with_reducible apply State.setTrn_only | with_reducible apply State.discardPart_only
    | with_reducible apply State.wake_only | with_reducible apply only_ite
theorem State.acceptInv_only {ps : List Piece} {s0 : State} (s : State) (x1 : Nat) (x2 : InvScope) (x3 : InvFrom) (h : s0.only ps s) (h_trn : .trn ∈ ps := by simp [*]) (h_lka : .lka ∈ ps := by simp [*]) (h_aon : .aon ∈ ps := by simp [*]) :
    s0.only ps (State.acceptInv s x1 x2 x3) := by
  unfold State.acceptInv
  try dsimp only
  repeat' first
    | with_reducible assumption | with_reducible apply State.setTrn_only | with_reducible apply State.numberInv_only
    | split
theorem State.addTile_only {ps : List Piece} {s0 : State} (s : State) (x1 : Nat) (x2 : Nat) (x3 : Nat) (x4 : Nat) (x5 : Acc) (x6 : Nat) (x7 : Bytes) (x8 : AtomOp) (x9 : W64) (x10 : W64) (h : s0.only ps s) (h_reqs : .reqs ∈ ps := by simp [*]) (h_nextId : .nextId ∈ ps := by simp [*]) :
    s0.only ps (State.addTile s x1 x2 x3 x4 x5 x6 x7 x8 x9 x10) := by
  unfold State.addTile
  repeat' first
    | with_reducible assumption | simp only [only_reqs_nextId, h_reqs, h_nextId]
    | (with_reducible apply only_foldl; intro _ _ _; try dsimp only)
theorem State.walkMetric_only {ps : List Piece} {s0 : State} (s : State) (x1 : Walk) (h : s0.only ps s) (h_rcd : .rcd ∈ ps := by simp [*]) :
    s0.only ps (State.walkMetric s x1) := by
  unfold State.walkMetric
  repeat' first | with_reducible assumption | with_reducible apply State.metric_only | with_reducible apply only_ite
theorem State.dropWalk_only {ps : List Piece} {s0 : State} (s : State) (x1 : Nat) (h : s0.only ps s) (h_reqs : .reqs ∈ ps := by simp [*]) (h_orphans : .orphans ∈ ps := by simp [*]) (h_trn : .trn ∈ ps := by simp [*]) :
    s0.only ps (State.dropWalk s x1) := by
  unfold State.dropWalk
  repeat' first
    | with_reducible assumption | with_reducible apply State.setTrn_only | with_reducible apply State.dropReqs_only
theorem State.walkFault_only {ps : List Piece} {s0 : State} (s : State) (x1 : Walk) (x2 : Nat) (x3 : Nat) (x4 : W64) (h : s0.only ps s) (h_reqs : .reqs ∈ ps := by simp [*]) (h_orphans : .orphans ∈ ps := by simp [*]) (h_nextId : .nextId ∈ ps := by simp [*]) (h_out : .out ∈ ps := by simp [*]) (h_gal : .gal ∈ ps := by simp [*]) (h_trn : .trn ∈ ps := by simp [*]) (h_flt : .flt ∈ ps := by simp [*]) (h_epo : .epo ∈ ps := by simp [*]) (h_plt : .plt ∈ ps := by simp [*]) (h_cmp : .cmp ∈ ps := by simp [*]) (h_lka : .lka ∈ ps := by simp [*]) (h_ic : .ic ∈ ps := by simp [*]) (h_obs : .obs ∈ ps := by simp [*]) (h_rcd : .rcd ∈ ps := by simp [*]) :
    s0.only ps (State.walkFault s x1 x2 x3 x4) := by
  unfold State.walkFault
  repeat' first
    | with_reducible assumption | with_reducible apply State.fault_only | with_reducible apply State.walkMetric_only
    | with_reducible apply State.dropWalk_only | (with_reducible apply only_foldl; intro _ _ _; try dsimp only) | split
theorem State.walkGives_only {ps : List Piece} {s0 : State} (s : State) (w : Walk) (k : State → Req → State)
    (hk : ∀ s r, s0.only ps s → s0.only ps (k s r)) (h : s0.only ps s) (h_reqs : .reqs ∈ ps := by simp [*]) (h_orphans : .orphans ∈ ps := by simp [*]) (h_trn : .trn ∈ ps := by simp [*]) : s0.only ps (s.walkGives w k) := by
  unfold State.walkGives
  refine only_foldl _ (fun s r hs => ?_) _ _ (State.dropWalk_only _ _ h)
  split
  · exact hk _ _ hs
  · exact hs
theorem State.putWalk_only {ps : List Piece} {s0 : State} (s : State) (x1 : Walk) (h : s0.only ps s) (h_trn : .trn ∈ ps := by simp [*]) :
    s0.only ps (State.putWalk s x1) := by
  unfold State.putWalk
  repeat' first | with_reducible assumption | with_reducible apply State.setTrn_only
theorem State.walkEnd_only {ps : List Piece} {s0 : State} (s : State) (x1 : Walk) (x2 : ECode) (h : s0.only ps s) (h_reqs : .reqs ∈ ps := by simp [*]) (h_orphans : .orphans ∈ ps := by simp [*]) (h_nextId : .nextId ∈ ps := by simp [*]) (h_out : .out ∈ ps := by simp [*]) (h_gal : .gal ∈ ps := by simp [*]) (h_trn : .trn ∈ ps := by simp [*]) (h_flt : .flt ∈ ps := by simp [*]) (h_epo : .epo ∈ ps := by simp [*]) (h_plt : .plt ∈ ps := by simp [*]) (h_cmp : .cmp ∈ ps := by simp [*]) (h_lka : .lka ∈ ps := by simp [*]) (h_ic : .ic ∈ ps := by simp [*]) (h_err : .err ∈ ps := by simp [*]) (h_obs : .obs ∈ ps := by simp [*]) (h_rcd : .rcd ∈ ps := by simp [*]) :
    s0.only ps (State.walkEnd s x1 x2) := by
  unfold State.walkEnd
  repeat' first
    | with_reducible assumption | with_reducible apply State.bounce_only | with_reducible apply State.isolation_only
    | with_reducible apply State.dropWalk_only | (with_reducible apply only_foldl; intro _ _ _; try dsimp only) | split
theorem State.walkSend_only {ps : List Piece} {s0 : State} (s : State) (x1 : Walk) (h : s0.only ps s) (h_mem : .mem ∈ ps := by simp [*]) (h_poison : .poison ∈ ps := by simp [*]) (h_veil : .veil ∈ ps := by simp [*]) (h_reqs : .reqs ∈ ps := by simp [*]) (h_orphans : .orphans ∈ ps := by simp [*]) (h_nextId : .nextId ∈ ps := by simp [*]) (h_free : .free ∈ ps := by simp [*]) (h_out : .out ∈ ps := by simp [*]) (h_gal : .gal ∈ ps := by simp [*]) (h_trn : .trn ∈ ps := by simp [*]) (h_flt : .flt ∈ ps := by simp [*]) (h_epo : .epo ∈ ps := by simp [*]) (h_plt : .plt ∈ ps := by simp [*]) (h_cmp : .cmp ∈ ps := by simp [*]) (h_lka : .lka ∈ ps := by simp [*]) (h_ic : .ic ∈ ps := by simp [*]) (h_prt : .prt ∈ ps := by simp [*]) (h_err : .err ∈ ps := by simp [*]) (h_obs : .obs ∈ ps := by simp [*]) (h_rcd : .rcd ∈ ps := by simp [*]) :
    s0.only ps (State.walkSend s x1) := by
  unfold State.walkSend
  repeat' first
    | with_reducible assumption | with_reducible apply State.walkGives_only | with_reducible apply State.translated_only
    | with_reducible apply State.walkFault_only | with_reducible apply State.setReq_only
    | with_reducible apply State.emit_only | with_reducible apply State.putWalk_only
    | with_reducible apply State.walkEnd_only | with_reducible apply State.proofCharge_only
    | with_reducible apply State.chargeTo_only | with_reducible apply State.addPhys_only
    | simp only [only_nextId, h_mem, h_poison, h_veil, h_reqs, h_orphans, h_nextId, h_free, h_out, h_gal, h_trn, h_flt, h_epo, h_plt, h_cmp, h_lka, h_ic, h_prt, h_err, h_obs, h_rcd]
    | split | intro _ _ _
theorem State.restartWalk_only {ps : List Piece} {s0 : State} (s : State) (x1 : Walk) (h : s0.only ps s) (h_mem : .mem ∈ ps := by simp [*]) (h_poison : .poison ∈ ps := by simp [*]) (h_veil : .veil ∈ ps := by simp [*]) (h_reqs : .reqs ∈ ps := by simp [*]) (h_orphans : .orphans ∈ ps := by simp [*]) (h_nextId : .nextId ∈ ps := by simp [*]) (h_free : .free ∈ ps := by simp [*]) (h_out : .out ∈ ps := by simp [*]) (h_gal : .gal ∈ ps := by simp [*]) (h_trn : .trn ∈ ps := by simp [*]) (h_flt : .flt ∈ ps := by simp [*]) (h_epo : .epo ∈ ps := by simp [*]) (h_plt : .plt ∈ ps := by simp [*]) (h_cmp : .cmp ∈ ps := by simp [*]) (h_lka : .lka ∈ ps := by simp [*]) (h_ic : .ic ∈ ps := by simp [*]) (h_prt : .prt ∈ ps := by simp [*]) (h_err : .err ∈ ps := by simp [*]) (h_obs : .obs ∈ ps := by simp [*]) (h_rcd : .rcd ∈ ps := by simp [*]) :
    s0.only ps (State.restartWalk s x1) := by
  unfold State.restartWalk
  repeat' first
    | with_reducible assumption | with_reducible apply State.walkFault_only | with_reducible apply State.dropReqs_only
    | with_reducible apply State.walkSend_only | with_reducible apply State.putWalk_only | with_reducible apply only_ite
theorem State.walkLeaf_only {ps : List Piece} {s0 : State} (s : State) (x1 : Walk) (x2 : XEntry) (h : s0.only ps s) (h_reqs : .reqs ∈ ps := by simp [*]) (h_orphans : .orphans ∈ ps := by simp [*]) (h_nextId : .nextId ∈ ps := by simp [*]) (h_out : .out ∈ ps := by simp [*]) (h_gal : .gal ∈ ps := by simp [*]) (h_trn : .trn ∈ ps := by simp [*]) (h_flt : .flt ∈ ps := by simp [*]) (h_epo : .epo ∈ ps := by simp [*]) (h_plt : .plt ∈ ps := by simp [*]) (h_cmp : .cmp ∈ ps := by simp [*]) (h_lka : .lka ∈ ps := by simp [*]) (h_ic : .ic ∈ ps := by simp [*]) (h_obs : .obs ∈ ps := by simp [*]) (h_rcd : .rcd ∈ ps := by simp [*]) :
    s0.only ps (State.walkLeaf s x1 x2) := by
  unfold State.walkLeaf
  repeat' first
    | with_reducible assumption | with_reducible apply State.putWalk_only | with_reducible apply State.fault_only
    | with_reducible apply State.walkFault_only | (with_reducible apply only_foldl; intro _ _ _; try dsimp only) | split
theorem State.fillFolio_only {ps : List Piece} {s0 : State} (s : State) (x1 : XEntry) (h : s0.only ps s) (h_trn : .trn ∈ ps := by simp [*]) :
    s0.only ps (State.fillFolio s x1) := by
  unfold State.fillFolio
  repeat' first | with_reducible assumption | with_reducible apply State.setTrn_only | with_reducible apply only_ite
theorem State.fillAll_only {ps : List Piece} {s0 : State} (s : State) (x1 : List XEntry) (h : s0.only ps s) (h_trn : .trn ∈ ps := by simp [*]) :
    s0.only ps (State.fillAll s x1) := by
  unfold State.fillAll
  repeat' first
    | with_reducible assumption | with_reducible apply State.fillFolio_only
    | (with_reducible apply only_foldl; intro _ _ _; try dsimp only)
theorem State.useLeaf_only {ps : List Piece} {s0 : State} (s : State) (x1 : Req) (x2 : XEntry) (h : s0.only ps s) (h_mem : .mem ∈ ps := by simp [*]) (h_poison : .poison ∈ ps := by simp [*]) (h_veil : .veil ∈ ps := by simp [*]) (h_reqs : .reqs ∈ ps := by simp [*]) (h_orphans : .orphans ∈ ps := by simp [*]) (h_nextId : .nextId ∈ ps := by simp [*]) (h_free : .free ∈ ps := by simp [*]) (h_out : .out ∈ ps := by simp [*]) (h_gal : .gal ∈ ps := by simp [*]) (h_trn : .trn ∈ ps := by simp [*]) (h_flt : .flt ∈ ps := by simp [*]) (h_epo : .epo ∈ ps := by simp [*]) (h_plt : .plt ∈ ps := by simp [*]) (h_cmp : .cmp ∈ ps := by simp [*]) (h_lka : .lka ∈ ps := by simp [*]) (h_ic : .ic ∈ ps := by simp [*]) (h_prt : .prt ∈ ps := by simp [*]) (h_err : .err ∈ ps := by simp [*]) (h_obs : .obs ∈ ps := by simp [*]) (h_rcd : .rcd ∈ ps := by simp [*]) :
    s0.only ps (State.useLeaf s x1 x2) := by
  unfold State.useLeaf
  repeat' first
    | with_reducible assumption | with_reducible apply State.translated_only | with_reducible apply State.fault_only
    | with_reducible apply only_ite
theorem State.fillEdge_only {ps : List Piece} {s0 : State} (s : State) (x1 : Nat) (x2 : XEntry) (h : s0.only ps s) (h_trn : .trn ∈ ps := by simp [*]) :
    s0.only ps (State.fillEdge s x1 x2) := by
  unfold State.fillEdge
  repeat' first | with_reducible assumption | with_reducible apply State.setTrn_only
theorem State.fillWalk_only {ps : List Piece} {s0 : State} (s : State) (x1 : Walk) (x2 : XEntry) (h : s0.only ps s) (h_mem : .mem ∈ ps := by simp [*]) (h_poison : .poison ∈ ps := by simp [*]) (h_veil : .veil ∈ ps := by simp [*]) (h_reqs : .reqs ∈ ps := by simp [*]) (h_orphans : .orphans ∈ ps := by simp [*]) (h_nextId : .nextId ∈ ps := by simp [*]) (h_free : .free ∈ ps := by simp [*]) (h_out : .out ∈ ps := by simp [*]) (h_gal : .gal ∈ ps := by simp [*]) (h_trn : .trn ∈ ps := by simp [*]) (h_flt : .flt ∈ ps := by simp [*]) (h_epo : .epo ∈ ps := by simp [*]) (h_plt : .plt ∈ ps := by simp [*]) (h_cmp : .cmp ∈ ps := by simp [*]) (h_lka : .lka ∈ ps := by simp [*]) (h_ic : .ic ∈ ps := by simp [*]) (h_prt : .prt ∈ ps := by simp [*]) (h_err : .err ∈ ps := by simp [*]) (h_obs : .obs ∈ ps := by simp [*]) (h_rcd : .rcd ∈ ps := by simp [*]) :
    s0.only ps (State.fillWalk s x1 x2) := by
  unfold State.fillWalk
  repeat' first
    | with_reducible assumption | with_reducible apply State.walkMetric_only | with_reducible apply State.dropWalk_only
    | with_reducible apply State.fillAll_only | with_reducible apply State.useLeaf_only
    | with_reducible apply State.fillEdge_only | (with_reducible apply only_foldl; intro _ _ _; try dsimp only) | split
theorem State.atsAnswer_only {ps : List Piece} {s0 : State} (s : State) (x1 : Walk) (x2 : AtsCpl) (h : s0.only ps s) (h_mem : .mem ∈ ps := by simp [*]) (h_poison : .poison ∈ ps := by simp [*]) (h_veil : .veil ∈ ps := by simp [*]) (h_reqs : .reqs ∈ ps := by simp [*]) (h_orphans : .orphans ∈ ps := by simp [*]) (h_nextId : .nextId ∈ ps := by simp [*]) (h_free : .free ∈ ps := by simp [*]) (h_out : .out ∈ ps := by simp [*]) (h_gal : .gal ∈ ps := by simp [*]) (h_trn : .trn ∈ ps := by simp [*]) (h_flt : .flt ∈ ps := by simp [*]) (h_epo : .epo ∈ ps := by simp [*]) (h_plt : .plt ∈ ps := by simp [*]) (h_cmp : .cmp ∈ ps := by simp [*]) (h_lka : .lka ∈ ps := by simp [*]) (h_ic : .ic ∈ ps := by simp [*]) (h_prt : .prt ∈ ps := by simp [*]) (h_err : .err ∈ ps := by simp [*]) (h_obs : .obs ∈ ps := by simp [*]) (h_rcd : .rcd ∈ ps := by simp [*]) :
    s0.only ps (State.atsAnswer s x1 x2) := by
  unfold State.atsAnswer
  try dsimp only
  repeat' first
    | with_reducible assumption | with_reducible apply State.restartWalk_only | with_reducible apply State.walkSend_only
    | with_reducible apply State.walkFault_only | with_reducible apply State.walkLeaf_only
    | with_reducible apply State.fillWalk_only | split
theorem State.invDoneFor_only {ps : List Piece} {s0 : State} (s : State) (x1 : Inv) (h : s0.only ps s) (h_out : .out ∈ ps := by simp [*]) (h_gal : .gal ∈ ps := by simp [*]) (h_trn : .trn ∈ ps := by simp [*]) (h_obs : .obs ∈ ps := by simp [*]) (h_rcd : .rcd ∈ ps := by simp [*]) :
    s0.only ps (State.invDoneFor s x1) := by
  unfold State.invDoneFor
  repeat' first
    | with_reducible assumption | with_reducible apply State.setTrn_only | with_reducible apply State.endCmd_only
    | with_reducible apply State.emit_only | split
theorem State.invctl_only {ps : List Piece} {s0 : State} (s : State) (x1 : Who) (x2 : BitVec 4) (x3 : Nat → InvScope) (h : s0.only ps s) (h_trn : .trn ∈ ps := by simp [*]) (h_lka : .lka ∈ ps := by simp [*]) (h_aon : .aon ∈ ps := by simp [*]) :
    s0.only ps (State.invctl s x1 x2 x3) := by
  unfold State.invctl
  repeat' first
    | with_reducible assumption | with_reducible apply State.setTrn_only | with_reducible apply State.acceptInv_only
    | with_reducible apply only_ite
theorem State.keepProof_only {ps : List Piece} {s0 : State} (s : State) (x1 : Nat) (x2 : Walk) (x3 : XEntry) (h : s0.only ps s) (h_reqs : .reqs ∈ ps := by simp [*]) (h_orphans : .orphans ∈ ps := by simp [*]) (h_trn : .trn ∈ ps := by simp [*]) (h_lka : .lka ∈ ps := by simp [*]) :
    s0.only ps (State.keepProof s x1 x2 x3) := by
  unfold State.keepProof
  repeat' first
    | with_reducible assumption | with_reducible apply State.dropWalk_only | with_reducible apply State.setLk_only
    | with_reducible apply only_ite
theorem State.loadSlot_only {ps : List Piece} {s0 : State} (s : State) (x1 : Nat) (x2 : Nat) (h : s0.only ps s) (h_trn : .trn ∈ ps := by simp [*]) :
    s0.only ps (State.loadSlot s x1 x2) := by
  unfold State.loadSlot
  repeat' first | with_reducible assumption | with_reducible apply State.setTrn_only
theorem State.touchSlot_only {ps : List Piece} {s0 : State} (s : State) (x1 : Nat) (h : s0.only ps s) (h_trn : .trn ∈ ps := by simp [*]) :
    s0.only ps (State.touchSlot s x1) := by
  unfold State.touchSlot
  repeat' first | with_reducible assumption | with_reducible apply State.setTrn_only
theorem State.takeXlt_only {ps : List Piece} {s0 : State} (s : State) (x1 : Req) (x2 : Nat) (x3 : XEntry) (h : s0.only ps s) (h_mem : .mem ∈ ps := by simp [*]) (h_poison : .poison ∈ ps := by simp [*]) (h_veil : .veil ∈ ps := by simp [*]) (h_reqs : .reqs ∈ ps := by simp [*]) (h_orphans : .orphans ∈ ps := by simp [*]) (h_nextId : .nextId ∈ ps := by simp [*]) (h_free : .free ∈ ps := by simp [*]) (h_out : .out ∈ ps := by simp [*]) (h_gal : .gal ∈ ps := by simp [*]) (h_trn : .trn ∈ ps := by simp [*]) (h_flt : .flt ∈ ps := by simp [*]) (h_epo : .epo ∈ ps := by simp [*]) (h_plt : .plt ∈ ps := by simp [*]) (h_cmp : .cmp ∈ ps := by simp [*]) (h_lka : .lka ∈ ps := by simp [*]) (h_ic : .ic ∈ ps := by simp [*]) (h_prt : .prt ∈ ps := by simp [*]) (h_err : .err ∈ ps := by simp [*]) (h_obs : .obs ∈ ps := by simp [*]) (h_rcd : .rcd ∈ ps := by simp [*]) :
    s0.only ps (State.takeXlt s x1 x2 x3) := by
  unfold State.takeXlt
  repeat' first
    | with_reducible assumption | with_reducible apply State.setLk_only | with_reducible apply State.useLeaf_only
    | with_reducible apply State.fillEdge_only | with_reducible apply State.fillFolio_only | with_reducible apply only_ite
theorem State.miss_only {ps : List Piece} {s0 : State} (s : State) (x1 : Req) (h : s0.only ps s) (h_reqs : .reqs ∈ ps := by simp [*]) (h_trn : .trn ∈ ps := by simp [*]) :
    s0.only ps (State.miss s x1) := by
  unfold State.miss
  repeat' first
    | with_reducible assumption | with_reducible apply State.setReq_only | with_reducible apply State.setTrn_only | split
theorem State.lookup_only {ps : List Piece} {s0 : State} (s : State) (x1 : Req) (h : s0.only ps s) (h_mem : .mem ∈ ps := by simp [*]) (h_poison : .poison ∈ ps := by simp [*]) (h_veil : .veil ∈ ps := by simp [*]) (h_reqs : .reqs ∈ ps := by simp [*]) (h_orphans : .orphans ∈ ps := by simp [*]) (h_nextId : .nextId ∈ ps := by simp [*]) (h_free : .free ∈ ps := by simp [*]) (h_out : .out ∈ ps := by simp [*]) (h_gal : .gal ∈ ps := by simp [*]) (h_trn : .trn ∈ ps := by simp [*]) (h_flt : .flt ∈ ps := by simp [*]) (h_epo : .epo ∈ ps := by simp [*]) (h_plt : .plt ∈ ps := by simp [*]) (h_cmp : .cmp ∈ ps := by simp [*]) (h_lka : .lka ∈ ps := by simp [*]) (h_ic : .ic ∈ ps := by simp [*]) (h_prt : .prt ∈ ps := by simp [*]) (h_err : .err ∈ ps := by simp [*]) (h_obs : .obs ∈ ps := by simp [*]) (h_rcd : .rcd ∈ ps := by simp [*]) :
    s0.only ps (State.lookup s x1) := by
  unfold State.lookup
  try dsimp only
  repeat' first
    | with_reducible assumption | with_reducible apply State.translated_only | with_reducible apply State.fault_only
    | with_reducible apply State.setReq_only | with_reducible apply State.touchSlot_only
    | with_reducible apply State.useLeaf_only | with_reducible apply State.setTrn_only
    | with_reducible apply State.fillEdge_only | with_reducible apply State.takeXlt_only
    | with_reducible apply State.miss_only | split
theorem State.lookupHeld_only {ps : List Piece} {s0 : State} (s : State) (x1 : Req) (h : s0.only ps s) (h_mem : .mem ∈ ps := by simp [*]) (h_poison : .poison ∈ ps := by simp [*]) (h_veil : .veil ∈ ps := by simp [*]) (h_reqs : .reqs ∈ ps := by simp [*]) (h_orphans : .orphans ∈ ps := by simp [*]) (h_nextId : .nextId ∈ ps := by simp [*]) (h_free : .free ∈ ps := by simp [*]) (h_out : .out ∈ ps := by simp [*]) (h_gal : .gal ∈ ps := by simp [*]) (h_trn : .trn ∈ ps := by simp [*]) (h_flt : .flt ∈ ps := by simp [*]) (h_epo : .epo ∈ ps := by simp [*]) (h_plt : .plt ∈ ps := by simp [*]) (h_cmp : .cmp ∈ ps := by simp [*]) (h_lka : .lka ∈ ps := by simp [*]) (h_ic : .ic ∈ ps := by simp [*]) (h_prt : .prt ∈ ps := by simp [*]) (h_err : .err ∈ ps := by simp [*]) (h_obs : .obs ∈ ps := by simp [*]) (h_rcd : .rcd ∈ ps := by simp [*]) :
    s0.only ps (State.lookupHeld s x1) := by
  unfold State.lookupHeld
  repeat' first
    | with_reducible assumption | with_reducible refine State.fromProof_only (by assumption) ?_
    | with_reducible apply State.translated_only | with_reducible apply State.lookup_only | split
theorem State.presentFrom_only {ps : List Piece} {s0 : State} (s : State) (x1 : Nat) (h : s0.only ps s) (h_mem : .mem ∈ ps := by simp [*]) (h_poison : .poison ∈ ps := by simp [*]) (h_veil : .veil ∈ ps := by simp [*]) (h_reqs : .reqs ∈ ps := by simp [*]) (h_orphans : .orphans ∈ ps := by simp [*]) (h_nextId : .nextId ∈ ps := by simp [*]) (h_free : .free ∈ ps := by simp [*]) (h_out : .out ∈ ps := by simp [*]) (h_gal : .gal ∈ ps := by simp [*]) (h_trn : .trn ∈ ps := by simp [*]) (h_flt : .flt ∈ ps := by simp [*]) (h_epo : .epo ∈ ps := by simp [*]) (h_plt : .plt ∈ ps := by simp [*]) (h_cmp : .cmp ∈ ps := by simp [*]) (h_lka : .lka ∈ ps := by simp [*]) (h_ic : .ic ∈ ps := by simp [*]) (h_prt : .prt ∈ ps := by simp [*]) (h_err : .err ∈ ps := by simp [*]) (h_obs : .obs ∈ ps := by simp [*]) (h_rcd : .rcd ∈ ps := by simp [*]) :
    s0.only ps (State.presentFrom s x1) := by
  unfold State.presentFrom
  repeat' first
    | with_reducible assumption | with_reducible apply State.lookup_only
    | (with_reducible apply only_foldl; intro _ _ _; try dsimp only) | split
theorem State.staleRead_only {ps : List Piece} {s0 : State} (s : State) (x1 : Nat) (h : s0.only ps s) (h_trn : .trn ∈ ps := by simp [*]) (h_ic : .ic ∈ ps := by simp [*]) (h_err : .err ∈ ps := by simp [*]) :
    s0.only ps (State.staleRead s x1) := by
  unfold State.staleRead
  try dsimp only
  repeat' first
    | with_reducible assumption | with_reducible apply State.setTrn_only | with_reducible apply State.pulse_only
    | with_reducible apply only_ite | (with_reducible apply only_foldl; intro _ _ _; try dsimp only) | split | intro _ _ _
theorem State.startWalk_only {ps : List Piece} {s0 : State} (s : State) (x1 : Walk) (h : s0.only ps s) (h_trn : .trn ∈ ps := by simp [*]) :
    s0.only ps (State.startWalk s x1) := by
  unfold State.startWalk
  repeat' first | with_reducible assumption | with_reducible apply State.setTrn_only
theorem State.tileRequest_only {ps : List Piece} {s0 : State} (s : State) (x1 : Nat) (x2 : Nat) (x3 : Nat) (x4 : Acc) (x5 : Nat) (x6 : Bytes) (x7 : AtomOp) (x8 : W64) (x9 : W64) (h : s0.only ps s) (h_mem : .mem ∈ ps := by simp [*]) (h_poison : .poison ∈ ps := by simp [*]) (h_veil : .veil ∈ ps := by simp [*]) (h_reqs : .reqs ∈ ps := by simp [*]) (h_orphans : .orphans ∈ ps := by simp [*]) (h_nextId : .nextId ∈ ps := by simp [*]) (h_free : .free ∈ ps := by simp [*]) (h_out : .out ∈ ps := by simp [*]) (h_gal : .gal ∈ ps := by simp [*]) (h_trn : .trn ∈ ps := by simp [*]) (h_flt : .flt ∈ ps := by simp [*]) (h_epo : .epo ∈ ps := by simp [*]) (h_plt : .plt ∈ ps := by simp [*]) (h_cmp : .cmp ∈ ps := by simp [*]) (h_lka : .lka ∈ ps := by simp [*]) (h_ic : .ic ∈ ps := by simp [*]) (h_prt : .prt ∈ ps := by simp [*]) (h_err : .err ∈ ps := by simp [*]) (h_obs : .obs ∈ ps := by simp [*]) (h_rcd : .rcd ∈ ps := by simp [*]) :
    s0.only ps (State.tileRequest s x1 x2 x3 x4 x5 x6 x7 x8 x9) := by
  unfold State.tileRequest
  repeat' first
    | with_reducible assumption | with_reducible apply State.emit_only | with_reducible apply State.isolation_only
    | with_reducible apply State.presentFrom_only | with_reducible apply State.addTile_only | with_reducible apply only_ite
theorem State.walkAsk_only {ps : List Piece} {s0 : State} (s : State) (x1 : Walk) (h : s0.only ps s) (h_mem : .mem ∈ ps := by simp [*]) (h_poison : .poison ∈ ps := by simp [*]) (h_veil : .veil ∈ ps := by simp [*]) (h_reqs : .reqs ∈ ps := by simp [*]) (h_orphans : .orphans ∈ ps := by simp [*]) (h_nextId : .nextId ∈ ps := by simp [*]) (h_free : .free ∈ ps := by simp [*]) (h_out : .out ∈ ps := by simp [*]) (h_gal : .gal ∈ ps := by simp [*]) (h_trn : .trn ∈ ps := by simp [*]) (h_flt : .flt ∈ ps := by simp [*]) (h_epo : .epo ∈ ps := by simp [*]) (h_plt : .plt ∈ ps := by simp [*]) (h_cmp : .cmp ∈ ps := by simp [*]) (h_lka : .lka ∈ ps := by simp [*]) (h_ic : .ic ∈ ps := by simp [*]) (h_prt : .prt ∈ ps := by simp [*]) (h_err : .err ∈ ps := by simp [*]) (h_obs : .obs ∈ ps := by simp [*]) (h_rcd : .rcd ∈ ps := by simp [*]) :
    s0.only ps (State.walkAsk s x1) := by
  unfold State.walkAsk
  repeat' first
    | with_reducible assumption | with_reducible apply State.restartWalk_only | with_reducible apply State.walkSend_only
    | with_reducible apply only_ite
theorem State.walkEntry_only {ps : List Piece} {s0 : State} (s : State) (x1 : Walk) (x2 : Nat) (h : s0.only ps s) (h_mem : .mem ∈ ps := by simp [*]) (h_poison : .poison ∈ ps := by simp [*]) (h_veil : .veil ∈ ps := by simp [*]) (h_reqs : .reqs ∈ ps := by simp [*]) (h_orphans : .orphans ∈ ps := by simp [*]) (h_nextId : .nextId ∈ ps := by simp [*]) (h_free : .free ∈ ps := by simp [*]) (h_out : .out ∈ ps := by simp [*]) (h_gal : .gal ∈ ps := by simp [*]) (h_trn : .trn ∈ ps := by simp [*]) (h_flt : .flt ∈ ps := by simp [*]) (h_epo : .epo ∈ ps := by simp [*]) (h_plt : .plt ∈ ps := by simp [*]) (h_cmp : .cmp ∈ ps := by simp [*]) (h_lka : .lka ∈ ps := by simp [*]) (h_ic : .ic ∈ ps := by simp [*]) (h_prt : .prt ∈ ps := by simp [*]) (h_err : .err ∈ ps := by simp [*]) (h_obs : .obs ∈ ps := by simp [*]) (h_rcd : .rcd ∈ ps := by simp [*]) :
    s0.only ps (State.walkEntry s x1 x2) := by
  unfold State.walkEntry
  repeat' first
    | with_reducible assumption | with_reducible apply State.restartWalk_only | with_reducible apply State.walkFault_only
    | with_reducible apply State.walkLeaf_only | with_reducible apply State.walkAsk_only
    | with_reducible apply State.putWalk_only | with_reducible apply State.dropReqs_only | with_reducible apply only_ite
theorem State.walkError_only {ps : List Piece} {s0 : State} (s : State) (x1 : Walk) (x2 : ECode) (h : s0.only ps s) (h_mem : .mem ∈ ps := by simp [*]) (h_poison : .poison ∈ ps := by simp [*]) (h_veil : .veil ∈ ps := by simp [*]) (h_reqs : .reqs ∈ ps := by simp [*]) (h_orphans : .orphans ∈ ps := by simp [*]) (h_nextId : .nextId ∈ ps := by simp [*]) (h_free : .free ∈ ps := by simp [*]) (h_out : .out ∈ ps := by simp [*]) (h_gal : .gal ∈ ps := by simp [*]) (h_trn : .trn ∈ ps := by simp [*]) (h_flt : .flt ∈ ps := by simp [*]) (h_epo : .epo ∈ ps := by simp [*]) (h_plt : .plt ∈ ps := by simp [*]) (h_cmp : .cmp ∈ ps := by simp [*]) (h_lka : .lka ∈ ps := by simp [*]) (h_ic : .ic ∈ ps := by simp [*]) (h_prt : .prt ∈ ps := by simp [*]) (h_err : .err ∈ ps := by simp [*]) (h_obs : .obs ∈ ps := by simp [*]) (h_rcd : .rcd ∈ ps := by simp [*]) :
    s0.only ps (State.walkError s x1 x2) := by
  unfold State.walkError
  repeat' first
    | with_reducible assumption | with_reducible apply State.restartWalk_only | with_reducible apply State.walkEnd_only
    | with_reducible apply only_ite
theorem State.walkRead_only {ps : List Piece} {s0 : State} (s : State) (x1 : Walk) (x2 : TblReply) (h : s0.only ps s) (h_mem : .mem ∈ ps := by simp [*]) (h_poison : .poison ∈ ps := by simp [*]) (h_veil : .veil ∈ ps := by simp [*]) (h_reqs : .reqs ∈ ps := by simp [*]) (h_orphans : .orphans ∈ ps := by simp [*]) (h_nextId : .nextId ∈ ps := by simp [*]) (h_free : .free ∈ ps := by simp [*]) (h_out : .out ∈ ps := by simp [*]) (h_gal : .gal ∈ ps := by simp [*]) (h_trn : .trn ∈ ps := by simp [*]) (h_flt : .flt ∈ ps := by simp [*]) (h_epo : .epo ∈ ps := by simp [*]) (h_plt : .plt ∈ ps := by simp [*]) (h_cmp : .cmp ∈ ps := by simp [*]) (h_lka : .lka ∈ ps := by simp [*]) (h_ic : .ic ∈ ps := by simp [*]) (h_prt : .prt ∈ ps := by simp [*]) (h_err : .err ∈ ps := by simp [*]) (h_obs : .obs ∈ ps := by simp [*]) (h_rcd : .rcd ∈ ps := by simp [*]) :
    s0.only ps (State.walkRead s x1 x2) := by
  unfold State.walkRead
  repeat' first
    | with_reducible assumption | with_reducible apply State.useFree_only | with_reducible apply State.walkError_only
    | with_reducible apply State.walkEntry_only | split
theorem State.dropWaiting_only {ps : List Piece} {s0 : State} (s : State) (x1 : Nat) (h : s0.only ps s) (h_reqs : .reqs ∈ ps := by simp [*]) (h_orphans : .orphans ∈ ps := by simp [*]) (h_nextId : .nextId ∈ ps := by simp [*]) (h_out : .out ∈ ps := by simp [*]) (h_gal : .gal ∈ ps := by simp [*]) (h_trn : .trn ∈ ps := by simp [*]) (h_flt : .flt ∈ ps := by simp [*]) (h_epo : .epo ∈ ps := by simp [*]) (h_plt : .plt ∈ ps := by simp [*]) (h_cmp : .cmp ∈ ps := by simp [*]) (h_lka : .lka ∈ ps := by simp [*]) (h_ic : .ic ∈ ps := by simp [*]) (h_obs : .obs ∈ ps := by simp [*]) (h_rcd : .rcd ∈ ps := by simp [*]) :
    s0.only ps (State.dropWaiting s x1) := by
  unfold State.dropWaiting
  repeat' first
    | with_reducible assumption | with_reducible apply State.giveUp_only
    | (with_reducible apply only_foldl; intro _ _ _; try dsimp only) | split
theorem State.raiseFaultSource_only {ps : List Piece} {s0 : State} (s : State) (x1 : Nat) (h : s0.only ps s) (h_ic : .ic ∈ ps := by simp [*]) :
    s0.only ps (State.raiseFaultSource s x1) := by
  unfold State.raiseFaultSource
  repeat' first | with_reducible assumption | with_reducible apply State.raise_only
theorem State.recordFailed_only {ps : List Piece} {s0 : State} (s : State) (x1 : Nat) (x2 : FEntry) (h : s0.only ps s) (h_reqs : .reqs ∈ ps := by simp [*]) (h_orphans : .orphans ∈ ps := by simp [*]) (h_nextId : .nextId ∈ ps := by simp [*]) (h_out : .out ∈ ps := by simp [*]) (h_gal : .gal ∈ ps := by simp [*]) (h_trn : .trn ∈ ps := by simp [*]) (h_flt : .flt ∈ ps := by simp [*]) (h_epo : .epo ∈ ps := by simp [*]) (h_plt : .plt ∈ ps := by simp [*]) (h_cmp : .cmp ∈ ps := by simp [*]) (h_lka : .lka ∈ ps := by simp [*]) (h_ic : .ic ∈ ps := by simp [*]) (h_obs : .obs ∈ ps := by simp [*]) (h_rcd : .rcd ∈ ps := by simp [*]) :
    s0.only ps (State.recordFailed s x1 x2) := by
  unfold State.recordFailed
  repeat' first
    | with_reducible assumption | with_reducible apply State.raiseFaultSource_only
    | with_reducible apply State.endUnserviceable_only | with_reducible apply State.modFltp_only
theorem State.recordInRegs_only {ps : List Piece} {s0 : State} (s : State) (x1 : Nat) (x2 : FEntry) (x3 : Nat) (x4 : Bytes) (h : s0.only ps s) (h_reqs : .reqs ∈ ps := by simp [*]) (h_orphans : .orphans ∈ ps := by simp [*]) (h_nextId : .nextId ∈ ps := by simp [*]) (h_free : .free ∈ ps := by simp [*]) (h_out : .out ∈ ps := by simp [*]) (h_gal : .gal ∈ ps := by simp [*]) (h_trn : .trn ∈ ps := by simp [*]) (h_flt : .flt ∈ ps := by simp [*]) (h_epo : .epo ∈ ps := by simp [*]) (h_plt : .plt ∈ ps := by simp [*]) (h_cmp : .cmp ∈ ps := by simp [*]) (h_lka : .lka ∈ ps := by simp [*]) (h_ic : .ic ∈ ps := by simp [*]) (h_obs : .obs ∈ ps := by simp [*]) (h_rcd : .rcd ∈ ps := by simp [*]) :
    s0.only ps (State.recordInRegs s x1 x2 x3 x4) := by
  unfold State.recordInRegs
  repeat' first
    | with_reducible assumption | with_reducible apply State.useFree_only | with_reducible apply State.recordFailed_only
    | simp only [only_reqs_nextId, h_reqs, h_orphans, h_nextId, h_free, h_out, h_gal, h_trn, h_flt, h_epo, h_plt, h_cmp, h_lka, h_ic, h_obs, h_rcd]
    | with_reducible apply only_ite
theorem State.setFent_only {ps : List Piece} {s0 : State} (s : State) (x1 : Nat) (x2 : FEntry) (h : s0.only ps s) (h_flt : .flt ∈ ps := by simp [*]) :
    s0.only ps (State.setFent s x1 x2) := by
  unfold State.setFent
  repeat' first | with_reducible assumption | with_reducible apply State.modFltp_only
theorem State.recordLogged_only {ps : List Piece} {s0 : State} (s : State) (x1 : Nat) (h : s0.only ps s) (h_flt : .flt ∈ ps := by simp [*]) (h_ic : .ic ∈ ps := by simp [*]) :
    s0.only ps (State.recordLogged s x1) := by
  unfold State.recordLogged
  try dsimp only
  repeat' first
    | with_reducible assumption | with_reducible apply State.setFltp_only
    | with_reducible apply State.raiseFaultSource_only | with_reducible apply State.setFent_only | split
theorem State.removeLeaves_only {ps : List Piece} {s0 : State} (s : State) (x1 : Nat) (x2 : Nat) (h : s0.only ps s) (h_trn : .trn ∈ ps := by simp [*]) (h_lka : .lka ∈ ps := by simp [*]) :
    s0.only ps (State.removeLeaves s x1 x2) := by
  unfold State.removeLeaves
  repeat' first
    | with_reducible assumption | with_reducible apply State.setTrn_only | with_reducible apply State.setLk_only
    | (with_reducible apply State.discardEach_only; intro _ _ _; try dsimp only)
theorem State.replayEntry_only {ps : List Piece} {s0 : State} (s : State) (x1 : Nat) (x2 : FEntry) (h : s0.only ps s) (h_mem : .mem ∈ ps := by simp [*]) (h_poison : .poison ∈ ps := by simp [*]) (h_veil : .veil ∈ ps := by simp [*]) (h_reqs : .reqs ∈ ps := by simp [*]) (h_orphans : .orphans ∈ ps := by simp [*]) (h_nextId : .nextId ∈ ps := by simp [*]) (h_free : .free ∈ ps := by simp [*]) (h_out : .out ∈ ps := by simp [*]) (h_gal : .gal ∈ ps := by simp [*]) (h_trn : .trn ∈ ps := by simp [*]) (h_flt : .flt ∈ ps := by simp [*]) (h_epo : .epo ∈ ps := by simp [*]) (h_plt : .plt ∈ ps := by simp [*]) (h_cmp : .cmp ∈ ps := by simp [*]) (h_lka : .lka ∈ ps := by simp [*]) (h_ic : .ic ∈ ps := by simp [*]) (h_prt : .prt ∈ ps := by simp [*]) (h_err : .err ∈ ps := by simp [*]) (h_obs : .obs ∈ ps := by simp [*]) (h_rcd : .rcd ∈ ps := by simp [*]) :
    s0.only ps (State.replayEntry s x1 x2) := by
  unfold State.replayEntry
  repeat' first
    | with_reducible assumption | with_reducible apply State.setFent_only | with_reducible apply State.removeLeaves_only
    | with_reducible apply State.lookup_only
    | simp only [only_reqs, h_mem, h_poison, h_veil, h_reqs, h_orphans, h_nextId, h_free, h_out, h_gal, h_trn, h_flt, h_epo, h_plt, h_cmp, h_lka, h_ic, h_prt, h_err, h_obs, h_rcd]
    | (with_reducible apply only_foldl; intro _ _ _; try dsimp only) | split
theorem State.respond_only {ps : List Piece} {s0 : State} (s : State) (w : Who) (fid : BitVec 16) (k : Nat → FEntry → State → State)
    (hk : ∀ p e s, s0.only ps s → s0.only ps (k p e s)) (h : s0.only ps s) (h_flt : .flt ∈ ps := by simp [*]) : s0.only ps (s.respond w fid k) := by
  unfold State.respond; dsimp only; split
  · exact hk _ _ _ h
  · exact State.modFltp_only _ _ _ h
theorem State.sendRecord_only {ps : List Piece} {s0 : State} (s : State) (x1 : Nat) (x2 : FEntry) (h : s0.only ps s) (h_reqs : .reqs ∈ ps := by simp [*]) (h_orphans : .orphans ∈ ps := by simp [*]) (h_nextId : .nextId ∈ ps := by simp [*]) (h_free : .free ∈ ps := by simp [*]) (h_out : .out ∈ ps := by simp [*]) (h_gal : .gal ∈ ps := by simp [*]) (h_trn : .trn ∈ ps := by simp [*]) (h_flt : .flt ∈ ps := by simp [*]) (h_epo : .epo ∈ ps := by simp [*]) (h_plt : .plt ∈ ps := by simp [*]) (h_cmp : .cmp ∈ ps := by simp [*]) (h_lka : .lka ∈ ps := by simp [*]) (h_ic : .ic ∈ ps := by simp [*]) (h_prt : .prt ∈ ps := by simp [*]) (h_err : .err ∈ ps := by simp [*]) (h_obs : .obs ∈ ps := by simp [*]) (h_rcd : .rcd ∈ ps := by simp [*]) :
    s0.only ps (State.sendRecord s x1 x2) := by
  unfold State.sendRecord
  repeat' first
    | with_reducible assumption | with_reducible apply State.chargeTo_only | with_reducible apply State.setFltp_only
    | with_reducible apply State.recordFailed_only | with_reducible apply State.hostWrite_only
    | with_reducible apply State.isolation_only | with_reducible apply State.recordInRegs_only
    | with_reducible apply State.addPhysWrite_only
    | simp only [only_reqs_nextId, h_reqs, h_orphans, h_nextId, h_free, h_out, h_gal, h_trn, h_flt, h_epo, h_plt, h_cmp, h_lka, h_ic, h_prt, h_err, h_obs, h_rcd]
    | with_reducible apply only_ite
theorem State.discardTables_only {ps : List Piece} {s0 : State} (s : State) (x1 : List Nat) (h : s0.only ps s) (h_lka : .lka ∈ ps := by simp [*]) :
    s0.only ps (State.discardTables s x1) := by
  unfold State.discardTables
  repeat' first
    | with_reducible assumption | with_reducible apply State.discard_only
    | (with_reducible apply State.discardEach_only; intro _ _ _; try dsimp only)
theorem State.applyFlip_only {ps : List Piece} {s0 : State} (s : State) (x1 : Flip) (h : s0.only ps s) (h_gal : .gal ∈ ps := by simp [*]) (h_epo : .epo ∈ ps := by simp [*]) (h_lka : .lka ∈ ps := by simp [*]) (h_obs : .obs ∈ ps := by simp [*]) (h_rcd : .rcd ∈ ps := by simp [*]) :
    s0.only ps (State.applyFlip s x1) := by
  unfold State.applyFlip
  repeat' first
    | with_reducible assumption | with_reducible apply State.setTable_only | with_reducible apply State.discardTables_only
    | with_reducible apply State.setCmd_only | with_reducible apply State.endCmd_only
    | simp only [only_epo, h_gal, h_epo, h_lka, h_obs, h_rcd]
    | (with_reducible apply only_foldl; intro _ _ _; try dsimp only) | split
theorem State.dropSwatches_only {ps : List Piece} {s0 : State} (s : State) (x1 : Nat) (x2 : Bool) (h : s0.only ps s) (h_cmp : .cmp ∈ ps := by simp [*]) :
    s0.only ps (State.dropSwatches s x1 x2) := by
  unfold State.dropSwatches
  repeat' first | with_reducible assumption | simp only [only_cmp, h_cmp]
theorem State.slotsFreed_only {ps : List Piece} {s0 : State} (s : State) (x1 : List (Nat × Bool)) (h : s0.only ps s) (h_gal : .gal ∈ ps := by simp [*]) (h_obs : .obs ∈ ps := by simp [*]) (h_rcd : .rcd ∈ ps := by simp [*]) :
    s0.only ps (State.slotsFreed s x1) := by
  unfold State.slotsFreed
  repeat' first
    | with_reducible assumption | with_reducible apply State.setCmd_only | with_reducible apply State.endCmd_only
    | with_reducible apply only_ite | (with_reducible apply only_foldl; intro _ _ _; try dsimp only)
theorem State.stageSlot_only {ps : List Piece} {s0 : State} (s : State) (x1 : Nat) (x2 : Bool) (x3 : Bool) (x4 : Nat) (h : s0.only ps s) (h_epo : .epo ∈ ps := by simp [*]) (h_cmp : .cmp ∈ ps := by simp [*]) :
    s0.only ps (State.stageSlot s x1 x2 x3 x4) := by
  unfold State.stageSlot
  repeat' first
    | with_reducible assumption | with_reducible apply State.dropSwatches_only | with_reducible apply State.setTable_only
    | with_reducible apply only_ite
theorem State.bellRetry_only {ps : List Piece} {s0 : State} (s : State) (x1 : Nat) (h : s0.only ps s) (h_lka : .lka ∈ ps := by simp [*]) :
    s0.only ps (State.bellRetry s x1) := by
  unfold State.bellRetry
  repeat' first
    | with_reducible assumption | with_reducible apply State.setLk_only
    | (with_reducible apply State.discardEach_only; intro _ _ _; try dsimp only) | with_reducible apply only_ite
theorem State.discardTarget_only {ps : List Piece} {s0 : State} (s : State) (x1 : Nat) (x2 : Nat) (x3 : Nat) (h : s0.only ps s) (h_lka : .lka ∈ ps := by simp [*]) :
    s0.only ps (State.discardTarget s x1 x2 x3) := by
  unfold State.discardTarget
  repeat' first | with_reducible assumption | with_reducible apply State.discard_only
theorem State.dropProofs_only {ps : List Piece} {s0 : State} (s : State) (x1 : Nat) (x2 : Proof → Bool) (h : s0.only ps s) (h_lka : .lka ∈ ps := by simp [*]) :
    s0.only ps (State.dropProofs s x1 x2) := by
  unfold State.dropProofs
  repeat' first | with_reducible assumption | with_reducible apply State.setLk_only | simp only [only_lka, h_lka]
theorem State.keepData_only {ps : List Piece} {s0 : State} (s : State) (x1 : Nat) (x2 : Nat) (x3 : Bytes) (h : s0.only ps s) (h_lka : .lka ∈ ps := by simp [*]) :
    s0.only ps (State.keepData s x1 x2 x3) := by
  unfold State.keepData
  repeat' first | with_reducible assumption | with_reducible apply State.setLk_only
theorem State.lkaCommitted_only {ps : List Piece} {s0 : State} (s : State) (x1 : Nat) (x2 : Nat) (x3 : BitVec 16) (x4 : Bytes) (x5 : BitVec 16) (h : s0.only ps s) (h_reqs : .reqs ∈ ps := by simp [*]) (h_orphans : .orphans ∈ ps := by simp [*]) (h_trn : .trn ∈ ps := by simp [*]) (h_lka : .lka ∈ ps := by simp [*]) :
    s0.only ps (State.lkaCommitted s x1 x2 x3 x4 x5) := by
  unfold State.lkaCommitted
  try dsimp only
  repeat' first
    | with_reducible assumption | with_reducible apply State.discardAll_only | with_reducible apply State.setLk_only
    | with_reducible apply State.discardTarget_only | with_reducible apply State.discard_only
    | with_reducible apply State.dropProofs_only | with_reducible apply State.useProofs_only
    | (with_reducible apply State.discardEach_only; intro _ _ _; try dsimp only)
    | (with_reducible apply only_foldl; intro _ _ _; try dsimp only) | split
theorem State.lkaPassed_only {ps : List Piece} {s0 : State} (s : State) (x1 : Nat) (x2 : BitVec 16) (x3 : BitVec 16) (x4 : Nat) (h : s0.only ps s) (h_lka : .lka ∈ ps := by simp [*]) :
    s0.only ps (State.lkaPassed s x1 x2 x3 x4) := by
  unfold State.lkaPassed
  repeat' first
    | with_reducible assumption | with_reducible apply State.discardTarget_only | with_reducible apply State.setLk_only
    | with_reducible apply State.dropProofs_only
    | (with_reducible apply State.discardEach_only; intro _ _ _; try dsimp only)
    | (with_reducible apply only_foldl; intro _ _ _; try dsimp only) | split
theorem State.proofIssue_only {ps : List Piece} {s0 : State} (s : State) (x1 : Nat) (x2 : Nat) (x3 : ProofRead) (x4 : Out) (x5 : Nat) (h : s0.only ps s) (h_nextId : .nextId ∈ ps := by simp [*]) (h_out : .out ∈ ps := by simp [*]) (h_lka : .lka ∈ ps := by simp [*]) (h_prt : .prt ∈ ps := by simp [*]) :
    s0.only ps (State.proofIssue s x1 x2 x3 x4 x5) := by
  unfold State.proofIssue
  repeat' first
    | with_reducible assumption | with_reducible apply State.proofCharge_only | with_reducible apply State.setLk_only
    | with_reducible apply State.hostReads_only | simp only [only_lka, only_nextId, h_nextId, h_out, h_lka, h_prt] | split
theorem State.proofSeal_only {ps : List Piece} {s0 : State} (s : State) (x1 : Nat) (x2 : Nat) (h : s0.only ps s) (h_lka : .lka ∈ ps := by simp [*]) :
    s0.only ps (State.proofSeal s x1 x2) := by
  unfold State.proofSeal
  repeat' first
    | with_reducible assumption | with_reducible apply State.dropProofs_only | with_reducible apply State.setLk_only
    | with_reducible apply only_ite
theorem State.stopLookahead_only {ps : List Piece} {s0 : State} (s : State) (x1 : Nat) (h : s0.only ps s) (h_reqs : .reqs ∈ ps := by simp [*]) (h_orphans : .orphans ∈ ps := by simp [*]) (h_trn : .trn ∈ ps := by simp [*]) (h_lka : .lka ∈ ps := by simp [*]) :
    s0.only ps (State.stopLookahead s x1) := by
  unfold State.stopLookahead
  repeat' first
    | with_reducible assumption | with_reducible apply State.discardAll_only
    | (with_reducible apply State.discardEach_only; intro _ _ _; try dsimp only) | with_reducible apply only_ite
theorem State.trimReach_only {ps : List Piece} {s0 : State} (s : State) (x1 : State) (x2 : Nat) (h : s0.only ps s) (h_lka : .lka ∈ ps := by simp [*]) :
    s0.only ps (State.trimReach s x1 x2) := by
  unfold State.trimReach
  repeat' first
    | with_reducible assumption | with_reducible apply State.discard_only | with_reducible apply State.setLk_only
    | (with_reducible apply State.discardEach_only; intro _ _ _; try dsimp only) | split
theorem State.abortCmd_only {ps : List Piece} {s0 : State} (s : State) (x1 : Cmd) (h : s0.only ps s) (h_reqs : .reqs ∈ ps := by simp [*]) (h_orphans : .orphans ∈ ps := by simp [*]) (h_gal : .gal ∈ ps := by simp [*]) (h_trn : .trn ∈ ps := by simp [*]) (h_flt : .flt ∈ ps := by simp [*]) (h_epo : .epo ∈ ps := by simp [*]) (h_plt : .plt ∈ ps := by simp [*]) (h_cmp : .cmp ∈ ps := by simp [*]) (h_lka : .lka ∈ ps := by simp [*]) (h_ic : .ic ∈ ps := by simp [*]) (h_obs : .obs ∈ ps := by simp [*]) (h_rcd : .rcd ∈ ps := by simp [*]) :
    s0.only ps (State.abortCmd s x1) := by
  unfold State.abortCmd
  try dsimp only
  repeat' first
    | with_reducible assumption | with_reducible apply State.dropCmd_only | with_reducible apply State.setCmd_only
    | with_reducible apply State.pleatKill_only | with_reducible apply State.compKill_only
    | with_reducible apply State.withdrawReqs_only | split
theorem State.commitSlug_only {ps : List Piece} {s0 : State} (s : State) (x1 : Nat) (x2 : CmdSt) (x3 : Nat) (x4 : Bool) (h : s0.only ps s) (h_gal : .gal ∈ ps := by simp [*]) :
    s0.only ps (State.commitSlug s x1 x2 x3 x4) := by
  unfold State.commitSlug
  repeat' first | with_reducible assumption | with_reducible apply State.setQueue_only | simp only [only_gal, h_gal]
theorem State.commitAlone_only {ps : List Piece} {s0 : State} (s : State) (x1 : Nat) (x2 : CmdSt) (x3 : Nat) (x4 : Nat) (h : s0.only ps s) (h_gal : .gal ∈ ps := by simp [*]) (h_lka : .lka ∈ ps := by simp [*]) :
    s0.only ps (State.commitAlone s x1 x2 x3 x4) := by
  unfold State.commitAlone
  repeat' first
    | with_reducible assumption | with_reducible apply State.commitSlug_only | with_reducible apply State.lkaPassed_only
theorem State.commitEnd_only {ps : List Piece} {s0 : State} (s : State) (x1 : Nat) (x2 : Nat) (h : s0.only ps s) (h_gal : .gal ∈ ps := by simp [*]) (h_lka : .lka ∈ ps := by simp [*]) (h_obs : .obs ∈ ps := by simp [*]) (h_rcd : .rcd ∈ ps := by simp [*]) :
    s0.only ps (State.commitEnd s x1 x2) := by
  unfold State.commitEnd
  repeat' first
    | with_reducible assumption | with_reducible apply State.commitSlug_only | with_reducible apply State.endCmd_only
    | with_reducible apply State.lkaPassed_only
theorem State.finishCmd_only {ps : List Piece} {s0 : State} (s : State) (x1 : Cmd) (h : s0.only ps s) (h_reqs : .reqs ∈ ps := by simp [*]) (h_nextId : .nextId ∈ ps := by simp [*]) (h_tileQ : .tileQ ∈ ps := by simp [*]) (h_out : .out ∈ ps := by simp [*]) (h_gal : .gal ∈ ps := by simp [*]) (h_tal : .tal ∈ ps := by simp [*]) (h_ic : .ic ∈ ps := by simp [*]) (h_obs : .obs ∈ ps := by simp [*]) :
    s0.only ps (State.finishCmd s x1) := by
  unfold State.finishCmd
  repeat' first
    | with_reducible assumption | with_reducible apply State.dropCmd_only | with_reducible apply State.tallyAdd_only
    | with_reducible apply State.raise_only | with_reducible apply State.pumpRecords_only | with_reducible apply only_ite
theorem State.recordStep_only {ps : List Piece} {s0 : State} (s : State) (x1 : Cmd) (h : s0.only ps s) (h_reqs : .reqs ∈ ps := by simp [*]) (h_nextId : .nextId ∈ ps := by simp [*]) (h_tileQ : .tileQ ∈ ps := by simp [*]) (h_out : .out ∈ ps := by simp [*]) (h_gal : .gal ∈ ps := by simp [*]) (h_tal : .tal ∈ ps := by simp [*]) (h_ic : .ic ∈ ps := by simp [*]) (h_obs : .obs ∈ ps := by simp [*]) :
    s0.only ps (State.recordStep s x1) := by
  unfold State.recordStep
  repeat' first
    | with_reducible assumption | with_reducible apply State.pumpRecords_only | with_reducible apply State.setCmd_only
    | with_reducible apply State.finishCmd_only | with_reducible apply only_ite
theorem State.flushEnds_only {ps : List Piece} {s0 : State} (s : State) (x1 : Cmd) (x2 : Bool) (h : s0.only ps s) (h_reqs : .reqs ∈ ps := by simp [*]) (h_orphans : .orphans ∈ ps := by simp [*]) (h_nextId : .nextId ∈ ps := by simp [*]) (h_tileQ : .tileQ ∈ ps := by simp [*]) (h_out : .out ∈ ps := by simp [*]) (h_gal : .gal ∈ ps := by simp [*]) (h_trn : .trn ∈ ps := by simp [*]) (h_flt : .flt ∈ ps := by simp [*]) (h_lka : .lka ∈ ps := by simp [*]) (h_tal : .tal ∈ ps := by simp [*]) (h_ic : .ic ∈ ps := by simp [*]) (h_obs : .obs ∈ ps := by simp [*]) (h_rcd : .rcd ∈ ps := by simp [*]) :
    s0.only ps (State.flushEnds s x1 x2) := by
  unfold State.flushEnds
  repeat' first
    | with_reducible assumption | with_reducible apply State.pumpRecords_only | with_reducible apply State.dropCmd_only
    | with_reducible apply State.recordStep_only | with_reducible apply State.haltQueue_only
    | with_reducible apply only_ite
theorem State.flushStep_only {ps : List Piece} {s0 : State} (s : State) (x1 : Cmd) (h : s0.only ps s) (h_reqs : .reqs ∈ ps := by simp [*]) (h_orphans : .orphans ∈ ps := by simp [*]) (h_nextId : .nextId ∈ ps := by simp [*]) (h_tileQ : .tileQ ∈ ps := by simp [*]) (h_out : .out ∈ ps := by simp [*]) (h_gal : .gal ∈ ps := by simp [*]) (h_trn : .trn ∈ ps := by simp [*]) (h_flt : .flt ∈ ps := by simp [*]) (h_lka : .lka ∈ ps := by simp [*]) (h_tal : .tal ∈ ps := by simp [*]) (h_ic : .ic ∈ ps := by simp [*]) (h_prt : .prt ∈ ps := by simp [*]) (h_obs : .obs ∈ ps := by simp [*]) (h_rcd : .rcd ∈ ps := by simp [*]) :
    s0.only ps (State.flushStep s x1) := by
  unfold State.flushStep
  repeat' first
    | with_reducible assumption | with_reducible apply State.recordStep_only | with_reducible apply State.flushRead_only
    | with_reducible apply State.chargeTo_only | with_reducible apply State.setCmd_only
    | with_reducible apply State.pumpRecords_only | with_reducible apply State.dropCmd_only
    | with_reducible apply State.haltQueue_only
    | simp only [only_nextId, h_reqs, h_orphans, h_nextId, h_tileQ, h_out, h_gal, h_trn, h_flt, h_lka, h_tal, h_ic, h_prt, h_obs, h_rcd]
    | split
theorem State.grantSlot_only {ps : List Piece} {s0 : State} (s : State) (x1 : Nat) (h : s0.only ps s) (h_gal : .gal ∈ ps := by simp [*]) (h_rcd : .rcd ∈ ps := by simp [*]) :
    s0.only ps (State.grantSlot s x1) := by
  unfold State.grantSlot
  repeat' first
    | with_reducible assumption | with_reducible apply State.metric_only | with_reducible apply State.modQueue_only
    | simp only [only_gal, h_gal, h_rcd]
theorem State.resetQueue_only {ps : List Piece} {s0 : State} (s : State) (x1 : Nat) (h : s0.only ps s) (h_reqs : .reqs ∈ ps := by simp [*]) (h_orphans : .orphans ∈ ps := by simp [*]) (h_gal : .gal ∈ ps := by simp [*]) (h_trn : .trn ∈ ps := by simp [*]) (h_flt : .flt ∈ ps := by simp [*]) (h_epo : .epo ∈ ps := by simp [*]) (h_plt : .plt ∈ ps := by simp [*]) (h_cmp : .cmp ∈ ps := by simp [*]) (h_lka : .lka ∈ ps := by simp [*]) (h_ic : .ic ∈ ps := by simp [*]) (h_obs : .obs ∈ ps := by simp [*]) (h_rcd : .rcd ∈ ps := by simp [*]) :
    s0.only ps (State.resetQueue s x1) := by
  unfold State.resetQueue
  try dsimp only
  repeat' first
    | with_reducible assumption | with_reducible apply State.setQueue_only | with_reducible apply State.discardQueue_only
    | with_reducible apply State.modQueue_only | with_reducible apply State.dropFetch_only
    | with_reducible apply State.abortCmd_only | (with_reducible apply only_foldl; intro _ _ _; try dsimp only) | split
theorem State.ringRead_only {ps : List Piece} {s0 : State} (s : State) (x1 : Nat) (x2 : Nat) (x3 : Owner) (h : s0.only ps s) (h_reqs : .reqs ∈ ps := by simp [*]) (h_nextId : .nextId ∈ ps := by simp [*]) :
    s0.only ps (State.ringRead s x1 x2 x3) := by
  unfold State.ringRead
  repeat' first | with_reducible assumption | with_reducible apply State.addReads_only
theorem State.settleAccepted_only {ps : List Piece} {s0 : State} (s : State) (x1 : Nat) (h : s0.only ps s) (h_reqs : .reqs ∈ ps := by simp [*]) (h_orphans : .orphans ∈ ps := by simp [*]) (h_gal : .gal ∈ ps := by simp [*]) (h_trn : .trn ∈ ps := by simp [*]) (h_flt : .flt ∈ ps := by simp [*]) (h_lka : .lka ∈ ps := by simp [*]) (h_obs : .obs ∈ ps := by simp [*]) (h_rcd : .rcd ∈ ps := by simp [*]) :
    s0.only ps (State.settleAccepted s x1) := by
  unfold State.settleAccepted
  try dsimp only
  repeat' first
    | with_reducible assumption | with_reducible apply State.makeWait_only | with_reducible apply State.commitEnd_only
    | split
theorem State.takeSlug_only {ps : List Piece} {s0 : State} (s : State) (x1 : Nat) (x2 : Bytes) (x3 : Seal) (h : s0.only ps s) (h_reqs : .reqs ∈ ps := by simp [*]) (h_orphans : .orphans ∈ ps := by simp [*]) (h_gal : .gal ∈ ps := by simp [*]) (h_trn : .trn ∈ ps := by simp [*]) (h_flt : .flt ∈ ps := by simp [*]) (h_lka : .lka ∈ ps := by simp [*]) (h_ic : .ic ∈ ps := by simp [*]) (h_obs : .obs ∈ ps := by simp [*]) (h_rcd : .rcd ∈ ps := by simp [*]) :
    s0.only ps (State.takeSlug s x1 x2 x3) := by
  unfold State.takeSlug
  repeat' first
    | with_reducible assumption | with_reducible apply State.dropFetch_only
    | with_reducible apply State.settleAccepted_only | with_reducible apply State.modQueue_only
    | with_reducible apply State.haltQueue_only | split
theorem State.tookUnit_only {ps : List Piece} {s0 : State} (s : State) (x1 : Bool) (x2 : Nat) (h : s0.only ps s) (h_gal : .gal ∈ ps := by simp [*]) :
    s0.only ps (State.tookUnit s x1 x2) := by
  unfold State.tookUnit
  repeat' first | with_reducible assumption | simp only [only_gal, h_gal]
theorem State.addFlip_only {ps : List Piece} {s0 : State} (s : State) (x1 : Nat) (x2 : List Nat) (x3 : Bool) (x4 : Bool) (h : s0.only ps s) (h_gal : .gal ∈ ps := by simp [*]) (h_epo : .epo ∈ ps := by simp [*]) (h_lka : .lka ∈ ps := by simp [*]) :
    s0.only ps (State.addFlip s x1 x2 x3 x4) := by
  unfold State.addFlip
  repeat' first
    | with_reducible assumption | with_reducible apply State.commitAlone_only | simp only [only_epo, h_gal, h_epo, h_lka]
theorem State.askRecord_only {ps : List Piece} {s0 : State} (s : State) (x1 : Nat) (h : s0.only ps s) (h_mem : .mem ∈ ps := by simp [*]) (h_poison : .poison ∈ ps := by simp [*]) (h_veil : .veil ∈ ps := by simp [*]) (h_reqs : .reqs ∈ ps := by simp [*]) (h_orphans : .orphans ∈ ps := by simp [*]) (h_nextId : .nextId ∈ ps := by simp [*]) (h_free : .free ∈ ps := by simp [*]) (h_out : .out ∈ ps := by simp [*]) (h_gal : .gal ∈ ps := by simp [*]) (h_trn : .trn ∈ ps := by simp [*]) (h_flt : .flt ∈ ps := by simp [*]) (h_epo : .epo ∈ ps := by simp [*]) (h_plt : .plt ∈ ps := by simp [*]) (h_cmp : .cmp ∈ ps := by simp [*]) (h_lka : .lka ∈ ps := by simp [*]) (h_ic : .ic ∈ ps := by simp [*]) (h_prt : .prt ∈ ps := by simp [*]) (h_err : .err ∈ ps := by simp [*]) (h_obs : .obs ∈ ps := by simp [*]) (h_rcd : .rcd ∈ ps := by simp [*]) :
    s0.only ps (State.askRecord s x1) := by
  unfold State.askRecord
  repeat' first
    | with_reducible assumption | with_reducible apply State.lookupHeld_only
    | simp only [only_reqs_nextId, h_mem, h_poison, h_veil, h_reqs, h_orphans, h_nextId, h_free, h_out, h_gal, h_trn, h_flt, h_epo, h_plt, h_cmp, h_lka, h_ic, h_prt, h_err, h_obs, h_rcd]
theorem State.startComp_only {ps : List Piece} {s0 : State} (s : State) (x1 : Nat) (x2 : Nat) (x3 : Bytes) (h : s0.only ps s) (h_mem : .mem ∈ ps := by simp [*]) (h_poison : .poison ∈ ps := by simp [*]) (h_veil : .veil ∈ ps := by simp [*]) (h_reqs : .reqs ∈ ps := by simp [*]) (h_orphans : .orphans ∈ ps := by simp [*]) (h_nextId : .nextId ∈ ps := by simp [*]) (h_free : .free ∈ ps := by simp [*]) (h_out : .out ∈ ps := by simp [*]) (h_gal : .gal ∈ ps := by simp [*]) (h_trn : .trn ∈ ps := by simp [*]) (h_flt : .flt ∈ ps := by simp [*]) (h_epo : .epo ∈ ps := by simp [*]) (h_plt : .plt ∈ ps := by simp [*]) (h_cmp : .cmp ∈ ps := by simp [*]) (h_lka : .lka ∈ ps := by simp [*]) (h_ic : .ic ∈ ps := by simp [*]) (h_prt : .prt ∈ ps := by simp [*]) (h_aon : .aon ∈ ps := by simp [*]) (h_err : .err ∈ ps := by simp [*]) (h_obs : .obs ∈ ps := by simp [*]) (h_rcd : .rcd ∈ ps := by simp [*]) :
    s0.only ps (State.startComp s x1 x2 x3) := by
  unfold State.startComp
  repeat' first
    | with_reducible assumption | with_reducible apply State.setComp_only | with_reducible apply State.setTable_only
    | with_reducible apply State.commitSlug_only | with_reducible apply State.tookUnit_only
    | with_reducible apply State.lkaCommitted_only | with_reducible apply State.addTrace_only
    | with_reducible apply State.askRecord_only | with_reducible apply State.wake_only | with_reducible apply only_ite
theorem State.commitGather_only {ps : List Piece} {s0 : State} (s : State) (x1 : Nat) (x2 : Bytes) (h : s0.only ps s) (h_mem : .mem ∈ ps := by simp [*]) (h_poison : .poison ∈ ps := by simp [*]) (h_veil : .veil ∈ ps := by simp [*]) (h_reqs : .reqs ∈ ps := by simp [*]) (h_orphans : .orphans ∈ ps := by simp [*]) (h_nextId : .nextId ∈ ps := by simp [*]) (h_free : .free ∈ ps := by simp [*]) (h_out : .out ∈ ps := by simp [*]) (h_gal : .gal ∈ ps := by simp [*]) (h_trn : .trn ∈ ps := by simp [*]) (h_flt : .flt ∈ ps := by simp [*]) (h_epo : .epo ∈ ps := by simp [*]) (h_plt : .plt ∈ ps := by simp [*]) (h_cmp : .cmp ∈ ps := by simp [*]) (h_lka : .lka ∈ ps := by simp [*]) (h_ic : .ic ∈ ps := by simp [*]) (h_prt : .prt ∈ ps := by simp [*]) (h_aon : .aon ∈ ps := by simp [*]) (h_err : .err ∈ ps := by simp [*]) (h_obs : .obs ∈ ps := by simp [*]) (h_rcd : .rcd ∈ ps := by simp [*]) :
    s0.only ps (State.commitGather s x1 x2) := by
  unfold State.commitGather
  try dsimp only
  repeat' first
    | with_reducible assumption | with_reducible apply State.commitEnd_only | with_reducible apply State.startComp_only
    | with_reducible apply State.makeWait_only | split
theorem State.commitInvalidate_only {ps : List Piece} {s0 : State} (s : State) (x1 : Nat) (x2 : Bytes) (h : s0.only ps s) (h_gal : .gal ∈ ps := by simp [*]) (h_trn : .trn ∈ ps := by simp [*]) (h_lka : .lka ∈ ps := by simp [*]) (h_aon : .aon ∈ ps := by simp [*]) (h_obs : .obs ∈ ps := by simp [*]) (h_rcd : .rcd ∈ ps := by simp [*]) :
    s0.only ps (State.commitInvalidate s x1 x2) := by
  unfold State.commitInvalidate
  repeat' first
    | with_reducible assumption | with_reducible apply State.commitEnd_only | with_reducible apply State.acceptInv_only
    | with_reducible apply State.commitAlone_only | with_reducible apply only_ite
theorem State.commitMove_only {ps : List Piece} {s0 : State} (s : State) (x1 : Nat) (x2 : Bytes) (h : s0.only ps s) (h_gal : .gal ∈ ps := by simp [*]) (h_lka : .lka ∈ ps := by simp [*]) (h_obs : .obs ∈ ps := by simp [*]) (h_rcd : .rcd ∈ ps := by simp [*]) :
    s0.only ps (State.commitMove s x1 x2) := by
  unfold State.commitMove
  repeat' first
    | with_reducible assumption | with_reducible apply State.commitEnd_only | with_reducible apply State.tookUnit_only
    | with_reducible apply State.commitAlone_only | split
theorem State.commitRetire_only {ps : List Piece} {s0 : State} (s : State) (x1 : Nat) (x2 : Bytes) (h : s0.only ps s) (h_gal : .gal ∈ ps := by simp [*]) (h_epo : .epo ∈ ps := by simp [*]) (h_lka : .lka ∈ ps := by simp [*]) (h_obs : .obs ∈ ps := by simp [*]) (h_rcd : .rcd ∈ ps := by simp [*]) :
    s0.only ps (State.commitRetire s x1 x2) := by
  unfold State.commitRetire
  repeat' first
    | with_reducible assumption | with_reducible apply State.commitEnd_only | with_reducible apply State.addFlip_only
    | with_reducible apply only_ite
theorem State.commitStage_only {ps : List Piece} {s0 : State} (s : State) (x1 : Nat) (x2 : Bytes) (h : s0.only ps s) (h_gal : .gal ∈ ps := by simp [*]) (h_epo : .epo ∈ ps := by simp [*]) (h_cmp : .cmp ∈ ps := by simp [*]) (h_lka : .lka ∈ ps := by simp [*]) (h_obs : .obs ∈ ps := by simp [*]) (h_rcd : .rcd ∈ ps := by simp [*]) :
    s0.only ps (State.commitStage s x1 x2) := by
  unfold State.commitStage
  repeat' first
    | with_reducible assumption | with_reducible apply State.commitEnd_only | with_reducible apply State.stageSlot_only
    | with_reducible apply only_ite
theorem State.commitSwap_only {ps : List Piece} {s0 : State} (s : State) (x1 : Nat) (x2 : Bytes) (h : s0.only ps s) (h_gal : .gal ∈ ps := by simp [*]) (h_epo : .epo ∈ ps := by simp [*]) (h_lka : .lka ∈ ps := by simp [*]) (h_obs : .obs ∈ ps := by simp [*]) (h_rcd : .rcd ∈ ps := by simp [*]) :
    s0.only ps (State.commitSwap s x1 x2) := by
  unfold State.commitSwap
  try dsimp only
  repeat' first
    | with_reducible assumption | with_reducible apply State.commitEnd_only | with_reducible apply State.addFlip_only
    | split
theorem State.commitSwatch_only {ps : List Piece} {s0 : State} (s : State) (x1 : Nat) (x2 : Bytes) (h : s0.only ps s) (h_mem : .mem ∈ ps := by simp [*]) (h_poison : .poison ∈ ps := by simp [*]) (h_veil : .veil ∈ ps := by simp [*]) (h_reqs : .reqs ∈ ps := by simp [*]) (h_orphans : .orphans ∈ ps := by simp [*]) (h_nextId : .nextId ∈ ps := by simp [*]) (h_free : .free ∈ ps := by simp [*]) (h_out : .out ∈ ps := by simp [*]) (h_gal : .gal ∈ ps := by simp [*]) (h_trn : .trn ∈ ps := by simp [*]) (h_flt : .flt ∈ ps := by simp [*]) (h_epo : .epo ∈ ps := by simp [*]) (h_plt : .plt ∈ ps := by simp [*]) (h_cmp : .cmp ∈ ps := by simp [*]) (h_lka : .lka ∈ ps := by simp [*]) (h_ic : .ic ∈ ps := by simp [*]) (h_prt : .prt ∈ ps := by simp [*]) (h_err : .err ∈ ps := by simp [*]) (h_obs : .obs ∈ ps := by simp [*]) (h_rcd : .rcd ∈ ps := by simp [*]) :
    s0.only ps (State.commitSwatch s x1 x2) := by
  unfold State.commitSwatch
  repeat' first
    | with_reducible assumption | with_reducible apply State.commitEnd_only | with_reducible apply State.issuePhys_only
    | with_reducible apply State.commitAlone_only | with_reducible apply only_ite
theorem State.commitTadd_only {ps : List Piece} {s0 : State} (s : State) (x1 : Nat) (x2 : Bytes) (h : s0.only ps s) (h_reqs : .reqs ∈ ps := by simp [*]) (h_nextId : .nextId ∈ ps := by simp [*]) (h_gal : .gal ∈ ps := by simp [*]) (h_lka : .lka ∈ ps := by simp [*]) :
    s0.only ps (State.commitTadd s x1 x2) := by
  unfold State.commitTadd
  repeat' first
    | with_reducible assumption | with_reducible apply State.addReq_only | with_reducible apply State.commitAlone_only
theorem State.commitTset_only {ps : List Piece} {s0 : State} (s : State) (x1 : Nat) (x2 : Bytes) (h : s0.only ps s) (h_tileQ : .tileQ ∈ ps := by simp [*]) (h_out : .out ∈ ps := by simp [*]) (h_gal : .gal ∈ ps := by simp [*]) (h_lka : .lka ∈ ps := by simp [*]) (h_tal : .tal ∈ ps := by simp [*]) (h_ic : .ic ∈ ps := by simp [*]) (h_obs : .obs ∈ ps := by simp [*]) (h_rcd : .rcd ∈ ps := by simp [*]) :
    s0.only ps (State.commitTset s x1 x2) := by
  unfold State.commitTset
  repeat' first
    | with_reducible assumption | with_reducible apply State.commitEnd_only | with_reducible apply State.putTally_only
    | with_reducible apply only_ite
theorem State.commitWcommit_only {ps : List Piece} {s0 : State} (s : State) (x1 : Nat) (x2 : Bytes) (h : s0.only ps s) (h_gal : .gal ∈ ps := by simp [*]) (h_lka : .lka ∈ ps := by simp [*]) (h_seam : .seam ∈ ps := by simp [*]) (h_obs : .obs ∈ ps := by simp [*]) (h_rcd : .rcd ∈ ps := by simp [*]) :
    s0.only ps (State.commitWcommit s x1 x2) := by
  unfold State.commitWcommit
  try dsimp only
  repeat' first
    | with_reducible assumption | with_reducible apply State.commitEnd_only | with_reducible apply State.takeEffect_only
    | with_reducible apply State.commitAlone_only | with_reducible apply State.setCmd_only
    | with_reducible apply State.scheduleWin_only | split
theorem State.beginBurst_only {ps : List Piece} {s0 : State} (s : State) (x1 : Nat) (h : s0.only ps s) (h_reqs : .reqs ∈ ps := by simp [*]) (h_nextId : .nextId ∈ ps := by simp [*]) (h_gal : .gal ∈ ps := by simp [*]) (h_plt : .plt ∈ ps := by simp [*]) (h_ic : .ic ∈ ps := by simp [*]) (h_obs : .obs ∈ ps := by simp [*]) (h_rcd : .rcd ∈ ps := by simp [*]) :
    s0.only ps (State.beginBurst s x1) := by
  unfold State.beginBurst
  repeat' first
    | with_reducible assumption | with_reducible apply State.pleatSettle_only | with_reducible apply State.pleatWrites_only
    | with_reducible apply State.setEng_only | with_reducible apply State.addReq_only | with_reducible apply only_ite
    | (with_reducible apply only_foldl; intro _ _ _; try dsimp only)
theorem State.deliverBytes_only {ps : List Piece} {s0 : State} (s : State) (x1 : Nat) (x2 : Nat) (h : s0.only ps s) (h_plt : .plt ∈ ps := by simp [*]) :
    s0.only ps (State.deliverBytes s x1 x2) := by
  unfold State.deliverBytes
  repeat' first | with_reducible assumption | with_reducible apply State.setEng_only
theorem State.haltWrite_only {ps : List Piece} {s0 : State} (s : State) (x1 : Nat) (x2 : BitVec 3) (h : s0.only ps s) (h_gal : .gal ∈ ps := by simp [*]) (h_plt : .plt ∈ ps := by simp [*]) (h_obs : .obs ∈ ps := by simp [*]) (h_rcd : .rcd ∈ ps := by simp [*]) :
    s0.only ps (State.haltWrite s x1 x2) := by
  unfold State.haltWrite
  repeat' first
    | with_reducible assumption | with_reducible apply State.modEng_only | with_reducible apply State.pleatLater_only
    | with_reducible apply only_ite
theorem State.checkOffsets_only {ps : List Piece} {s0 : State} (s : State) (x1 : Nat) (h : s0.only ps s) (h_reqs : .reqs ∈ ps := by simp [*]) (h_orphans : .orphans ∈ ps := by simp [*]) (h_trn : .trn ∈ ps := by simp [*]) (h_flt : .flt ∈ ps := by simp [*]) (h_cmp : .cmp ∈ ps := by simp [*]) (h_rcd : .rcd ∈ ps := by simp [*]) :
    s0.only ps (State.checkOffsets s x1) := by
  unfold State.checkOffsets
  try dsimp only
  repeat' first
    | with_reducible assumption | with_reducible apply State.cutComp_only | with_reducible apply State.setComp_only | split
theorem State.compWrites_only {ps : List Piece} {s0 : State} (s : State) (x1 : Nat) (x2 : Owner) (x3 : Nat) (x4 : Bytes) (h : s0.only ps s) (h_reqs : .reqs ∈ ps := by simp [*]) (h_nextId : .nextId ∈ ps := by simp [*]) :
    s0.only ps (State.compWrites s x1 x2 x3 x4) := by
  unfold State.compWrites
  repeat' first
    | with_reducible assumption | with_reducible apply State.addReq_only
    | (with_reducible apply only_foldl; intro _ _ _; try dsimp only)
theorem State.installSwatch_only {ps : List Piece} {s0 : State} (s : State) (x1 : Cmd) (x2 : Bytes) (h : s0.only ps s) (h_gal : .gal ∈ ps := by simp [*]) (h_cmp : .cmp ∈ ps := by simp [*]) (h_obs : .obs ∈ ps := by simp [*]) (h_rcd : .rcd ∈ ps := by simp [*]) :
    s0.only ps (State.installSwatch s x1 x2) := by
  unfold State.installSwatch
  repeat' first
    | with_reducible assumption | with_reducible apply State.endCmd_only | simp only [only_cmp, h_gal, h_cmp, h_obs, h_rcd]
    | with_reducible apply only_ite
theorem State.meterFetch_only {ps : List Piece} {s0 : State} (s : State) (x1 : Nat) (x2 : Option Nat) (h : s0.only ps s) (h_cmp : .cmp ∈ ps := by simp [*]) :
    s0.only ps (State.meterFetch s x1 x2) := by
  unfold State.meterFetch
  repeat' first | with_reducible assumption | simp only [only_cmp, h_cmp] | split
theorem State.meterLook_only {ps : List Piece} {s0 : State} (s : State) (x1 : Nat) (x2 : Option Nat) (x3 : Nat) (h : s0.only ps s) (h_cmp : .cmp ∈ ps := by simp [*]) :
    s0.only ps (State.meterLook s x1 x2 x3) := by
  unfold State.meterLook
  repeat' first | with_reducible assumption | simp only [only_cmp, h_cmp] | split
theorem State.resultBack_only {ps : List Piece} {s0 : State} (s : State) (x1 : Nat) (x2 : Req) (x3 : WReply) (h : s0.only ps s) (h_mem : .mem ∈ ps := by simp [*]) (h_poison : .poison ∈ ps := by simp [*]) (h_veil : .veil ∈ ps := by simp [*]) (h_reqs : .reqs ∈ ps := by simp [*]) (h_orphans : .orphans ∈ ps := by simp [*]) (h_nextId : .nextId ∈ ps := by simp [*]) (h_out : .out ∈ ps := by simp [*]) (h_gal : .gal ∈ ps := by simp [*]) (h_trn : .trn ∈ ps := by simp [*]) (h_flt : .flt ∈ ps := by simp [*]) (h_epo : .epo ∈ ps := by simp [*]) (h_plt : .plt ∈ ps := by simp [*]) (h_cmp : .cmp ∈ ps := by simp [*]) (h_lka : .lka ∈ ps := by simp [*]) (h_ic : .ic ∈ ps := by simp [*]) (h_obs : .obs ∈ ps := by simp [*]) (h_rcd : .rcd ∈ ps := by simp [*]) :
    s0.only ps (State.resultBack s x1 x2 x3) := by
  unfold State.resultBack
  repeat' first
    | with_reducible assumption | with_reducible refine State.writeBack_only (by assumption) ?_
    | with_reducible apply State.bounceAt_only | with_reducible apply State.compSettle_only
    | with_reducible apply State.dropReq_only | split
theorem State.tellRow_only {ps : List Piece} {s0 : State} (s : State) (x1 : Nat) (x2 : Nat) (h : s0.only ps s) (h_tileQ : .tileQ ∈ ps := by simp [*]) (h_out : .out ∈ ps := by simp [*]) :
    s0.only ps (State.tellRow s x1 x2) := by
  unfold State.tellRow
  repeat' first | with_reducible assumption | with_reducible apply State.toTiles_only
theorem State.rowBad_only {ps : List Piece} {s0 : State} (s : State) (x1 : Nat) (x2 : Nat) (h : s0.only ps s) (h_tileQ : .tileQ ∈ ps := by simp [*]) (h_out : .out ∈ ps := by simp [*]) (h_cmp : .cmp ∈ ps := by simp [*]) :
    s0.only ps (State.rowBad s x1 x2) := by
  unfold State.rowBad
  repeat' first
    | with_reducible assumption | with_reducible apply State.setComp_only | with_reducible apply State.tellRow_only
    | with_reducible apply only_ite
theorem State.rowDone_only {ps : List Piece} {s0 : State} (s : State) (x1 : Nat) (x2 : Nat) (h : s0.only ps s) (h_reqs : .reqs ∈ ps := by simp [*]) (h_nextId : .nextId ∈ ps := by simp [*]) (h_gal : .gal ∈ ps := by simp [*]) (h_epo : .epo ∈ ps := by simp [*]) (h_cmp : .cmp ∈ ps := by simp [*]) (h_lka : .lka ∈ ps := by simp [*]) (h_obs : .obs ∈ ps := by simp [*]) (h_rcd : .rcd ∈ ps := by simp [*]) :
    s0.only ps (State.rowDone s x1 x2) := by
  unfold State.rowDone
  repeat' first
    | with_reducible assumption | with_reducible apply State.compGo_only | with_reducible apply State.setComp_only
    | with_reducible apply only_ite
theorem State.rowWrites_only {ps : List Piece} {s0 : State} (s : State) (x1 : Nat) (x2 : Dist) (x3 : Nat) (x4 : Bytes) (x5 : Nat → Bool) (h : s0.only ps s) (h_mem : .mem ∈ ps := by simp [*]) (h_poison : .poison ∈ ps := by simp [*]) (h_veil : .veil ∈ ps := by simp [*]) (h_reqs : .reqs ∈ ps := by simp [*]) (h_orphans : .orphans ∈ ps := by simp [*]) (h_nextId : .nextId ∈ ps := by simp [*]) (h_out : .out ∈ ps := by simp [*]) (h_gal : .gal ∈ ps := by simp [*]) (h_trn : .trn ∈ ps := by simp [*]) (h_flt : .flt ∈ ps := by simp [*]) (h_epo : .epo ∈ ps := by simp [*]) (h_plt : .plt ∈ ps := by simp [*]) (h_cmp : .cmp ∈ ps := by simp [*]) (h_lka : .lka ∈ ps := by simp [*]) (h_ic : .ic ∈ ps := by simp [*]) (h_prt : .prt ∈ ps := by simp [*]) (h_obs : .obs ∈ ps := by simp [*]) (h_rcd : .rcd ∈ ps := by simp [*]) :
    s0.only ps (State.rowWrites s x1 x2 x3 x4 x5) := by
  unfold State.rowWrites
  repeat' first
    | with_reducible assumption | with_reducible apply State.tryIssue_only
    | simp only [only_reqs_nextId, h_mem, h_poison, h_veil, h_reqs, h_orphans, h_nextId, h_out, h_gal, h_trn, h_flt, h_epo, h_plt, h_cmp, h_lka, h_ic, h_prt, h_obs, h_rcd]
    | with_reducible apply only_ite | (with_reducible apply only_foldl; intro _ _ _; try dsimp only)
theorem State.rowWritten_only {ps : List Piece} {s0 : State} (s : State) (x1 : Nat) (x2 : Nat) (x3 : Req) (h : s0.only ps s) (h_reqs : .reqs ∈ ps := by simp [*]) (h_orphans : .orphans ∈ ps := by simp [*]) (h_tileQ : .tileQ ∈ ps := by simp [*]) (h_out : .out ∈ ps := by simp [*]) (h_trn : .trn ∈ ps := by simp [*]) (h_cmp : .cmp ∈ ps := by simp [*]) :
    s0.only ps (State.rowWritten s x1 x2 x3) := by
  unfold State.rowWritten
  repeat' first
    | with_reducible assumption | with_reducible apply State.dropReq_only | with_reducible apply State.tellRow_only
    | with_reducible apply State.setComp_only | with_reducible apply State.setReq_only | with_reducible apply only_ite
theorem State.skentRead_only {ps : List Piece} {s0 : State} (s : State) (x1 : Who) (x2 : Nat) (h : s0.only ps s) (h_cmp : .cmp ∈ ps := by simp [*]) :
    s0.only ps (State.skentRead s x1 x2).2 := by
  unfold State.skentRead
  repeat' first | with_reducible assumption | simp only [only_cmp, h_cmp] | split
theorem State.skentRead_eq {ps : List Piece} {s0 : State} {s : State} {x1 : Who} {x2 : Nat} {y : Nat} {t : State} (e : (State.skentRead s x1 x2) = (y, t)) (h : s0.only ps s) (h_cmp : .cmp ∈ ps := by simp [*]) :
    s0.only ps t := by
  have := State.skentRead_only s x1 x2 h (ps := ps) (h_cmp := h_cmp)
  rw [e] at this; exact this
theorem State.swatchRecord_only {ps : List Piece} {s0 : State} (s : State) (x1 : Cmd) (x2 : Bytes) (h : s0.only ps s) (h_reqs : .reqs ∈ ps := by simp [*]) (h_nextId : .nextId ∈ ps := by simp [*]) (h_gal : .gal ∈ ps := by simp [*]) (h_cmp : .cmp ∈ ps := by simp [*]) (h_obs : .obs ∈ ps := by simp [*]) (h_rcd : .rcd ∈ ps := by simp [*]) :
    s0.only ps (State.swatchRecord s x1 x2) := by
  unfold State.swatchRecord
  repeat' first
    | with_reducible assumption | with_reducible apply State.endCmd_only | with_reducible apply State.setCmd_only
    | with_reducible apply State.installSwatch_only | with_reducible apply State.addReads_only
    | with_reducible apply only_ite
theorem State.trackWindow_only {ps : List Piece} {s0 : State} (s : State) (x1 : Comp) (h : s0.only ps s) (h_cmp : .cmp ∈ ps := by simp [*]) :
    s0.only ps (State.trackWindow s x1) := by
  unfold State.trackWindow
  repeat' first
    | with_reducible assumption | simp only [only_cmp, h_cmp] | with_reducible apply only_ite
    | (with_reducible apply only_foldl; intro _ _ _; try dsimp only)
theorem State.updateBack_only {ps : List Piece} {s0 : State} (s : State) (x1 : Nat) (x2 : Nat) (x3 : Req) (x4 : WReply) (h : s0.only ps s) (h_mem : .mem ∈ ps := by simp [*]) (h_poison : .poison ∈ ps := by simp [*]) (h_veil : .veil ∈ ps := by simp [*]) (h_reqs : .reqs ∈ ps := by simp [*]) (h_orphans : .orphans ∈ ps := by simp [*]) (h_nextId : .nextId ∈ ps := by simp [*]) (h_tileQ : .tileQ ∈ ps := by simp [*]) (h_out : .out ∈ ps := by simp [*]) (h_gal : .gal ∈ ps := by simp [*]) (h_trn : .trn ∈ ps := by simp [*]) (h_flt : .flt ∈ ps := by simp [*]) (h_epo : .epo ∈ ps := by simp [*]) (h_plt : .plt ∈ ps := by simp [*]) (h_cmp : .cmp ∈ ps := by simp [*]) (h_lka : .lka ∈ ps := by simp [*]) (h_ic : .ic ∈ ps := by simp [*]) (h_obs : .obs ∈ ps := by simp [*]) (h_rcd : .rcd ∈ ps := by simp [*]) :
    s0.only ps (State.updateBack s x1 x2 x3 x4) := by
  unfold State.updateBack
  repeat' first
    | with_reducible assumption | with_reducible apply State.compSettle_only | with_reducible apply State.rowDone_only
    | with_reducible apply State.dropReq_only | with_reducible refine State.writeBack_only (by assumption) ?_
    | with_reducible apply State.bounceAt_only | with_reducible apply State.rowBad_only
    | with_reducible apply State.rowWritten_only | split
theorem State.updateRow_only {ps : List Piece} {s0 : State} (s : State) (x1 : Nat) (x2 : Bytes) (x3 : Bytes) (x4 : Dist) (h : s0.only ps s) (h_mem : .mem ∈ ps := by simp [*]) (h_poison : .poison ∈ ps := by simp [*]) (h_veil : .veil ∈ ps := by simp [*]) (h_reqs : .reqs ∈ ps := by simp [*]) (h_orphans : .orphans ∈ ps := by simp [*]) (h_nextId : .nextId ∈ ps := by simp [*]) (h_out : .out ∈ ps := by simp [*]) (h_gal : .gal ∈ ps := by simp [*]) (h_trn : .trn ∈ ps := by simp [*]) (h_flt : .flt ∈ ps := by simp [*]) (h_epo : .epo ∈ ps := by simp [*]) (h_plt : .plt ∈ ps := by simp [*]) (h_cmp : .cmp ∈ ps := by simp [*]) (h_lka : .lka ∈ ps := by simp [*]) (h_ic : .ic ∈ ps := by simp [*]) (h_prt : .prt ∈ ps := by simp [*]) (h_obs : .obs ∈ ps := by simp [*]) (h_rcd : .rcd ∈ ps := by simp [*]) :
    s0.only ps (State.updateRow s x1 x2 x3 x4) := by
  unfold State.updateRow
  try dsimp only
  repeat' first
    | with_reducible assumption | with_reducible apply State.compGo_only | with_reducible apply State.setComp_only
    | with_reducible apply State.rowWrites_only | split
theorem State.endPeriod_only {ps : List Piece} {s0 : State} (s : State) (x1 : Nat) (h : s0.only ps s) (h_prt : .prt ∈ ps := by simp [*]) :
    s0.only ps (State.endPeriod s x1) := by
  unfold State.endPeriod
  repeat' first | with_reducible assumption | simp only [only_prt, h_prt]
theorem State.setOver_only {ps : List Piece} {s0 : State} (s : State) (x1 : Nat) (x2 : Nat) (h : s0.only ps s) (h_ic : .ic ∈ ps := by simp [*]) (h_prt : .prt ∈ ps := by simp [*]) :
    s0.only ps (State.setOver s x1 x2) := by
  unfold State.setOver
  repeat' first
    | with_reducible assumption | with_reducible apply State.raise_only | simp only [only_prt, h_ic, h_prt]
    | with_reducible apply only_ite
theorem State.writeBw_only {ps : List Piece} {s0 : State} (s : State) (x1 : Nat) (x2 : Nat) (h : s0.only ps s) (h_ic : .ic ∈ ps := by simp [*]) (h_prt : .prt ∈ ps := by simp [*]) :
    s0.only ps (State.writeBw s x1 x2) := by
  unfold State.writeBw
  repeat' first
    | with_reducible assumption | with_reducible apply State.setOver_only | simp only [only_prt, h_ic, h_prt]
    | with_reducible apply only_ite
theorem State.writeOver_only {ps : List Piece} {s0 : State} (s : State) (x1 : Nat) (x2 : W32) (h : s0.only ps s) (h_prt : .prt ∈ ps := by simp [*]) :
    s0.only ps (State.writeOver s x1 x2) := by
  unfold State.writeOver
  repeat' first | with_reducible assumption | simp only [only_prt, h_prt]
theorem State.writeQa_only {ps : List Piece} {s0 : State} (s : State) (x1 : Nat) (x2 : Half) (x3 : W64) (h : s0.only ps s) (h_ic : .ic ∈ ps := by simp [*]) (h_prt : .prt ∈ ps := by simp [*]) :
    s0.only ps (State.writeQa s x1 x2 x3) := by
  unfold State.writeQa
  repeat' first | with_reducible assumption | with_reducible apply State.setOver_only | simp only [only_prt, h_ic, h_prt]
theorem State.writeQb_only {ps : List Piece} {s0 : State} (s : State) (x1 : Nat) (x2 : Half) (x3 : W64) (h : s0.only ps s) (h_ic : .ic ∈ ps := by simp [*]) (h_prt : .prt ∈ ps := by simp [*]) :
    s0.only ps (State.writeQb s x1 x2 x3) := by
  unfold State.writeQb
  repeat' first | with_reducible assumption | with_reducible apply State.setOver_only | simp only [only_prt, h_ic, h_prt]
theorem State.setDerr_only {ps : List Piece} {s0 : State} (s : State) (x1 : Nat) (h : s0.only ps s) (h_ic : .ic ∈ ps := by simp [*]) (h_obs : .obs ∈ ps := by simp [*]) :
    s0.only ps (State.setDerr s x1) := by
  unfold State.setDerr
  repeat' first
    | with_reducible assumption | with_reducible apply State.relevel_only | with_reducible apply State.setTrp_only
theorem State.leaveDrain_only {ps : List Piece} {s0 : State} (s : State) (x1 : Nat) (x2 : Nat) (h : s0.only ps s) (h_reqs : .reqs ∈ ps := by simp [*]) (h_orphans : .orphans ∈ ps := by simp [*]) (h_trn : .trn ∈ ps := by simp [*]) (h_plt : .plt ∈ ps := by simp [*]) (h_obs : .obs ∈ ps := by simp [*]) :
    s0.only ps (State.leaveDrain s x1 x2) := by
  unfold State.leaveDrain
  repeat' first
    | with_reducible assumption | with_reducible apply State.dropReqs_only | with_reducible apply State.freeEng_only
    | simp only [only_obs, h_reqs, h_orphans, h_trn, h_plt, h_obs]
theorem State.failDrain_only {ps : List Piece} {s0 : State} (s : State) (x1 : Nat) (x2 : Nat) (h : s0.only ps s) (h_reqs : .reqs ∈ ps := by simp [*]) (h_orphans : .orphans ∈ ps := by simp [*]) (h_trn : .trn ∈ ps := by simp [*]) (h_plt : .plt ∈ ps := by simp [*]) (h_ic : .ic ∈ ps := by simp [*]) (h_obs : .obs ∈ ps := by simp [*]) :
    s0.only ps (State.failDrain s x1 x2) := by
  unfold State.failDrain
  repeat' first
    | with_reducible assumption | with_reducible apply State.setDerr_only | with_reducible apply State.leaveDrain_only
theorem State.drainFlush_only {ps : List Piece} {s0 : State} (s : State) (x1 : Nat) (x2 : Nat) (h : s0.only ps s) (h_reqs : .reqs ∈ ps := by simp [*]) (h_orphans : .orphans ∈ ps := by simp [*]) (h_nextId : .nextId ∈ ps := by simp [*]) (h_out : .out ∈ ps := by simp [*]) (h_trn : .trn ∈ ps := by simp [*]) (h_plt : .plt ∈ ps := by simp [*]) (h_ic : .ic ∈ ps := by simp [*]) (h_prt : .prt ∈ ps := by simp [*]) (h_obs : .obs ∈ ps := by simp [*]) :
    s0.only ps (State.drainFlush s x1 x2) := by
  unfold State.drainFlush
  repeat' first
    | with_reducible assumption | with_reducible apply State.failDrain_only | with_reducible apply State.flushRead_only
    | with_reducible apply State.chargeTo_only | with_reducible apply State.dropReqs_only
    | simp only [only_nextId_obs, h_reqs, h_orphans, h_nextId, h_out, h_trn, h_plt, h_ic, h_prt, h_obs] | split
theorem State.drainWrite_only {ps : List Piece} {s0 : State} (s : State) (x1 : Nat) (x2 : Nat) (x3 : Nat) (x4 : Bytes) (x5 : Bool) (h : s0.only ps s) (h_mem : .mem ∈ ps := by simp [*]) (h_poison : .poison ∈ ps := by simp [*]) (h_veil : .veil ∈ ps := by simp [*]) (h_reqs : .reqs ∈ ps := by simp [*]) (h_orphans : .orphans ∈ ps := by simp [*]) (h_nextId : .nextId ∈ ps := by simp [*]) (h_free : .free ∈ ps := by simp [*]) (h_out : .out ∈ ps := by simp [*]) (h_gal : .gal ∈ ps := by simp [*]) (h_trn : .trn ∈ ps := by simp [*]) (h_flt : .flt ∈ ps := by simp [*]) (h_epo : .epo ∈ ps := by simp [*]) (h_plt : .plt ∈ ps := by simp [*]) (h_cmp : .cmp ∈ ps := by simp [*]) (h_lka : .lka ∈ ps := by simp [*]) (h_ic : .ic ∈ ps := by simp [*]) (h_prt : .prt ∈ ps := by simp [*]) (h_err : .err ∈ ps := by simp [*]) (h_obs : .obs ∈ ps := by simp [*]) (h_rcd : .rcd ∈ ps := by simp [*]) :
    s0.only ps (State.drainWrite s x1 x2 x3 x4 x5).2 := by
  unfold State.drainWrite
  repeat' first
    | with_reducible assumption | with_reducible apply State.useFree_only | with_reducible apply State.setReq_only
    | with_reducible apply State.isolation_only | with_reducible apply State.tryIssue_only
    | simp only [only_reqs_nextId, h_mem, h_poison, h_veil, h_reqs, h_orphans, h_nextId, h_free, h_out, h_gal, h_trn, h_flt, h_epo, h_plt, h_cmp, h_lka, h_ic, h_prt, h_err, h_obs, h_rcd]
    | split
theorem State.drainWrite_eq {ps : List Piece} {s0 : State} {s : State} {x1 : Nat} {x2 : Nat} {x3 : Nat} {x4 : Bytes} {x5 : Bool} {y : Bool} {t : State} (e : (State.drainWrite s x1 x2 x3 x4 x5) = (y, t)) (h : s0.only ps s) (h_mem : .mem ∈ ps := by simp [*]) (h_poison : .poison ∈ ps := by simp [*]) (h_veil : .veil ∈ ps := by simp [*]) (h_reqs : .reqs ∈ ps := by simp [*]) (h_orphans : .orphans ∈ ps := by simp [*]) (h_nextId : .nextId ∈ ps := by simp [*]) (h_free : .free ∈ ps := by simp [*]) (h_out : .out ∈ ps := by simp [*]) (h_gal : .gal ∈ ps := by simp [*]) (h_trn : .trn ∈ ps := by simp [*]) (h_flt : .flt ∈ ps := by simp [*]) (h_epo : .epo ∈ ps := by simp [*]) (h_plt : .plt ∈ ps := by simp [*]) (h_cmp : .cmp ∈ ps := by simp [*]) (h_lka : .lka ∈ ps := by simp [*]) (h_ic : .ic ∈ ps := by simp [*]) (h_prt : .prt ∈ ps := by simp [*]) (h_err : .err ∈ ps := by simp [*]) (h_obs : .obs ∈ ps := by simp [*]) (h_rcd : .rcd ∈ ps := by simp [*]) :
    s0.only ps t := by
  have := State.drainWrite_only s x1 x2 x3 x4 x5 h (ps := ps) (h_mem := h_mem) (h_poison := h_poison) (h_veil := h_veil) (h_reqs := h_reqs) (h_orphans := h_orphans) (h_nextId := h_nextId) (h_free := h_free) (h_out := h_out) (h_gal := h_gal) (h_trn := h_trn) (h_flt := h_flt) (h_epo := h_epo) (h_plt := h_plt) (h_cmp := h_cmp) (h_lka := h_lka) (h_ic := h_ic) (h_prt := h_prt) (h_err := h_err) (h_obs := h_obs) (h_rcd := h_rcd)
  rw [e] at this; exact this
theorem State.drainWrites_only {ps : List Piece} {s0 : State} (x0 : Nat) (x1 : Nat) (x2 : Bool) (x3 : List (Nat × Bytes)) (s : State) (h : s0.only ps s) (h_mem : .mem ∈ ps := by simp [*]) (h_poison : .poison ∈ ps := by simp [*]) (h_veil : .veil ∈ ps := by simp [*]) (h_reqs : .reqs ∈ ps := by simp [*]) (h_orphans : .orphans ∈ ps := by simp [*]) (h_nextId : .nextId ∈ ps := by simp [*]) (h_free : .free ∈ ps := by simp [*]) (h_out : .out ∈ ps := by simp [*]) (h_gal : .gal ∈ ps := by simp [*]) (h_trn : .trn ∈ ps := by simp [*]) (h_flt : .flt ∈ ps := by simp [*]) (h_epo : .epo ∈ ps := by simp [*]) (h_plt : .plt ∈ ps := by simp [*]) (h_cmp : .cmp ∈ ps := by simp [*]) (h_lka : .lka ∈ ps := by simp [*]) (h_ic : .ic ∈ ps := by simp [*]) (h_prt : .prt ∈ ps := by simp [*]) (h_err : .err ∈ ps := by simp [*]) (h_obs : .obs ∈ ps := by simp [*]) (h_rcd : .rcd ∈ ps := by simp [*]) :
    s0.only ps (State.drainWrites x0 x1 x2 x3 s) := by
  induction x3 generalizing s with
  | nil => exact h
  | cons a r ih =>
    obtain ⟨a, d⟩ := a
    unfold State.drainWrites; try dsimp only
    split
    · exact ih _ (State.drainWrite_eq ‹_› h)
    · exact State.failDrain_only _ _ _ (State.drainWrite_eq ‹_› h)
theorem State.beginDrain_only {ps : List Piece} {s0 : State} (s : State) (x1 : Nat) (x2 : Nat) (x3 : Nat) (x4 : List TraceR) (h : s0.only ps s) (h_mem : .mem ∈ ps := by simp [*]) (h_poison : .poison ∈ ps := by simp [*]) (h_veil : .veil ∈ ps := by simp [*]) (h_reqs : .reqs ∈ ps := by simp [*]) (h_orphans : .orphans ∈ ps := by simp [*]) (h_nextId : .nextId ∈ ps := by simp [*]) (h_free : .free ∈ ps := by simp [*]) (h_out : .out ∈ ps := by simp [*]) (h_gal : .gal ∈ ps := by simp [*]) (h_trn : .trn ∈ ps := by simp [*]) (h_flt : .flt ∈ ps := by simp [*]) (h_epo : .epo ∈ ps := by simp [*]) (h_plt : .plt ∈ ps := by simp [*]) (h_cmp : .cmp ∈ ps := by simp [*]) (h_lka : .lka ∈ ps := by simp [*]) (h_ic : .ic ∈ ps := by simp [*]) (h_prt : .prt ∈ ps := by simp [*]) (h_err : .err ∈ ps := by simp [*]) (h_obs : .obs ∈ ps := by simp [*]) (h_rcd : .rcd ∈ ps := by simp [*]) :
    s0.only ps (State.beginDrain s x1 x2 x3 x4) := by
  unfold State.beginDrain
  repeat' first
    | with_reducible assumption | with_reducible apply State.modEng_only | with_reducible apply State.drainFlush_only
    | with_reducible apply State.drainWrites_only
    | simp only [only_obs, h_mem, h_poison, h_veil, h_reqs, h_orphans, h_nextId, h_free, h_out, h_gal, h_trn, h_flt, h_epo, h_plt, h_cmp, h_lka, h_ic, h_prt, h_err, h_obs, h_rcd]
theorem State.drainResponses_only {ps : List Piece} {s0 : State} {s : State} {x1 : List Req} {y : Bool} {t : State} (e : (State.drainResponses s x1) = some (y, t)) (h : s0.only ps s) (h_mem : .mem ∈ ps := by simp [*]) (h_poison : .poison ∈ ps := by simp [*]) (h_veil : .veil ∈ ps := by simp [*]) (h_lka : .lka ∈ ps := by simp [*]) :
    s0.only ps t := by
  induction x1 generalizing s with
  | nil => cases e; exact h
  | cons a r ih =>
    unfold State.drainResponses at e
    split at e
    · cases e
    · cases e; exact h
    · exact ih e (State.writeBack_only ‹_› h)
theorem State.setTraceBuf_only {ps : List Piece} {s0 : State} (s : State) (x1 : Nat) (x2 : List TraceR) (h : s0.only ps s) (h_obs : .obs ∈ ps := by simp [*]) :
    s0.only ps (State.setTraceBuf s x1 x2) := by
  unfold State.setTraceBuf
  repeat' first | with_reducible assumption | simp only [only_obs, h_obs] | with_reducible apply only_ite
theorem State.publishDrain_only {ps : List Piece} {s0 : State} (s : State) (x1 : Nat) (x2 : Nat) (x3 : Nat) (x4 : List TraceR) (h : s0.only ps s) (h_reqs : .reqs ∈ ps := by simp [*]) (h_orphans : .orphans ∈ ps := by simp [*]) (h_trn : .trn ∈ ps := by simp [*]) (h_plt : .plt ∈ ps := by simp [*]) (h_obs : .obs ∈ ps := by simp [*]) :
    s0.only ps (State.publishDrain s x1 x2 x3 x4) := by
  unfold State.publishDrain
  repeat' first
    | with_reducible assumption | with_reducible apply State.setTraceBuf_only | with_reducible apply State.leaveDrain_only
    | with_reducible apply State.setTrp_only
theorem State.endDrain_only {ps : List Piece} {s0 : State} (s : State) (x1 : Nat) (x2 : Bool) (h : s0.only ps s) (h_mem : .mem ∈ ps := by simp [*]) (h_poison : .poison ∈ ps := by simp [*]) (h_veil : .veil ∈ ps := by simp [*]) (h_reqs : .reqs ∈ ps := by simp [*]) (h_orphans : .orphans ∈ ps := by simp [*]) (h_nextId : .nextId ∈ ps := by simp [*]) (h_out : .out ∈ ps := by simp [*]) (h_trn : .trn ∈ ps := by simp [*]) (h_plt : .plt ∈ ps := by simp [*]) (h_lka : .lka ∈ ps := by simp [*]) (h_ic : .ic ∈ ps := by simp [*]) (h_prt : .prt ∈ ps := by simp [*]) (h_obs : .obs ∈ ps := by simp [*]) :
    s0.only ps (State.endDrain s x1 x2) := by
  unfold State.endDrain
  try dsimp only
  repeat' first
    | with_reducible assumption | with_reducible apply State.publishDrain_only | with_reducible apply State.failDrain_only
    | with_reducible apply State.drainFlush_only | with_reducible refine State.drainResponses_only (by assumption) ?_
    | split
theorem State.wakeAll_only {ps : List Piece} {s0 : State} (s : State) (h : s0.only ps s) (h_aon : .aon ∈ ps := by simp [*]) :
    s0.only ps (State.wakeAll s) := by
  unfold State.wakeAll
  repeat' first
    | with_reducible assumption | with_reducible apply State.wake_only
    | (with_reducible apply only_foldl; intro _ _ _; try dsimp only)
theorem State.startTack_only {ps : List Piece} {s0 : State} (s : State) (x1 : BitVec 4) (h : s0.only ps s) (h_aon : .aon ∈ ps := by simp [*]) (h_obs : .obs ∈ ps := by simp [*]) :
    s0.only ps (State.startTack s x1) := by
  unfold State.startTack
  repeat' first | with_reducible assumption | with_reducible apply State.wakeAll_only | simp only [only_obs, h_aon, h_obs]
theorem State.tackStore_only {ps : List Piece} {s0 : State} (s : State) (x1 : List Nat) (h : s0.only ps s) (h_mem : .mem ∈ ps := by simp [*]) (h_poison : .poison ∈ ps := by simp [*]) (h_veil : .veil ∈ ps := by simp [*]) (h_lka : .lka ∈ ps := by simp [*]) :
    s0.only ps (State.tackStore s x1) := by
  unfold State.tackStore
  repeat' first
    | with_reducible assumption | with_reducible apply State.unveilRange_only | with_reducible apply State.watchDev_only
    | simp only [only_mem_poison, h_mem, h_poison, h_veil, h_lka]
theorem State.afterDiscard_only {ps : List Piece} {s0 : State} (s : State) (x1 : Req) (h : s0.only ps s) (h_reqs : .reqs ∈ ps := by simp [*]) (h_orphans : .orphans ∈ ps := by simp [*]) (h_out : .out ∈ ps := by simp [*]) (h_gal : .gal ∈ ps := by simp [*]) (h_trn : .trn ∈ ps := by simp [*]) (h_epo : .epo ∈ ps := by simp [*]) (h_plt : .plt ∈ ps := by simp [*]) (h_cmp : .cmp ∈ ps := by simp [*]) (h_lka : .lka ∈ ps := by simp [*]) (h_host : .host ∈ ps := by simp [*]) (h_ic : .ic ∈ ps := by simp [*]) (h_obs : .obs ∈ ps := by simp [*]) (h_rcd : .rcd ∈ ps := by simp [*]) :
    s0.only ps (State.afterDiscard s x1) := by
  unfold State.afterDiscard
  try dsimp only
  repeat' first
    | with_reducible assumption | with_reducible apply State.dropCmd_only | with_reducible apply State.releaseFences_only
    | with_reducible apply State.leaveDrain_only | with_reducible apply State.pleatSettle_only
    | with_reducible apply State.compSettle_only | with_reducible apply only_ite
    | (with_reducible apply only_foldl; intro _ _ _; try dsimp only) | split | intro _ _ _
theorem State.clearContexts_only {ps : List Piece} {s0 : State} (s : State) (x1 : Nat) (h : s0.only ps s) (h_trn : .trn ∈ ps := by simp [*]) (h_lka : .lka ∈ ps := by simp [*]) (h_aon : .aon ∈ ps := by simp [*]) :
    s0.only ps (State.clearContexts s x1) := by
  unfold State.clearContexts
  repeat' first
    | with_reducible assumption | with_reducible apply State.setTrn_only | with_reducible apply State.acceptInv_only
    | (with_reducible apply only_foldl; intro _ _ _; try dsimp only)
theorem State.closeWindows_only {ps : List Piece} {s0 : State} (s : State) (x1 : Nat) (h : s0.only ps s) (h_seam : .seam ∈ ps := by simp [*]) :
    s0.only ps (State.closeWindows s x1) := by
  unfold State.closeWindows
  repeat' first
    | with_reducible assumption | with_reducible apply State.commitWin_only
    | (with_reducible apply only_foldl; intro _ _ _; try dsimp only)
theorem State.dropAts_only {ps : List Piece} {s0 : State} (s : State) (x1 : Nat) (h : s0.only ps s) (h_trn : .trn ∈ ps := by simp [*]) :
    s0.only ps (State.dropAts s x1) := by
  unfold State.dropAts
  repeat' first | with_reducible assumption | with_reducible apply State.setTrn_only
theorem State.configure_only {ps : List Piece} {s0 : State} (s : State) (x1 : Nat) (x2 : CfgWrite) (h : s0.only ps s) (h_mem : .mem ∈ ps := by simp [*]) (h_poison : .poison ∈ ps := by simp [*]) (h_veil : .veil ∈ ps := by simp [*]) (h_reqs : .reqs ∈ ps := by simp [*]) (h_orphans : .orphans ∈ ps := by simp [*]) (h_nextId : .nextId ∈ ps := by simp [*]) (h_free : .free ∈ ps := by simp [*]) (h_tileQ : .tileQ ∈ ps := by simp [*]) (h_out : .out ∈ ps := by simp [*]) (h_gal : .gal ∈ ps := by simp [*]) (h_trn : .trn ∈ ps := by simp [*]) (h_flt : .flt ∈ ps := by simp [*]) (h_epo : .epo ∈ ps := by simp [*]) (h_plt : .plt ∈ ps := by simp [*]) (h_cmp : .cmp ∈ ps := by simp [*]) (h_lka : .lka ∈ ps := by simp [*]) (h_seam : .seam ∈ ps := by simp [*]) (h_tal : .tal ∈ ps := by simp [*]) (h_lin : .lin ∈ ps := by simp [*]) (h_host : .host ∈ ps := by simp [*]) (h_ic : .ic ∈ ps := by simp [*]) (h_prt : .prt ∈ ps := by simp [*]) (h_obs : .obs ∈ ps := by simp [*]) (h_rcd : .rcd ∈ ps := by simp [*]) :
    s0.only ps (State.configure s x1 x2) := by
  unfold State.configure
  try dsimp only
  repeat' first
    | with_reducible assumption | with_reducible apply State.setFn_only | with_reducible apply State.setLink_only
    | with_reducible apply State.dropAts_only | with_reducible apply State.release_only
    | with_reducible apply State.writeBar_only | with_reducible apply State.writeVfBar_only
    | with_reducible apply State.modFltp_only | with_reducible apply State.routeEntry_only
    | with_reducible apply State.setLinkStat_only | (with_reducible apply only_foldl; intro _ _ _; try dsimp only) | split
theorem State.discardHeld_only {ps : List Piece} {s0 : State} (s : State) (x1 : Nat) (h : s0.only ps s) (h_mem : .mem ∈ ps := by simp [*]) (h_poison : .poison ∈ ps := by simp [*]) (h_veil : .veil ∈ ps := by simp [*]) (h_reqs : .reqs ∈ ps := by simp [*]) (h_orphans : .orphans ∈ ps := by simp [*]) (h_tileQ : .tileQ ∈ ps := by simp [*]) (h_out : .out ∈ ps := by simp [*]) (h_gal : .gal ∈ ps := by simp [*]) (h_trn : .trn ∈ ps := by simp [*]) (h_epo : .epo ∈ ps := by simp [*]) (h_plt : .plt ∈ ps := by simp [*]) (h_cmp : .cmp ∈ ps := by simp [*]) (h_lka : .lka ∈ ps := by simp [*]) (h_seam : .seam ∈ ps := by simp [*]) (h_tal : .tal ∈ ps := by simp [*]) (h_host : .host ∈ ps := by simp [*]) (h_ic : .ic ∈ ps := by simp [*]) (h_obs : .obs ∈ ps := by simp [*]) (h_rcd : .rcd ∈ ps := by simp [*]) :
    s0.only ps (State.discardHeld s x1) := by
  unfold State.discardHeld
  repeat' first
    | with_reducible assumption | with_reducible apply State.dropWalk_only | with_reducible apply State.dropReqs_only
    | with_reducible apply State.settleFlights_only | with_reducible apply State.finishFlight_only
    | with_reducible apply State.afterDiscard_only | (with_reducible apply only_foldl; intro _ _ _; try dsimp only) | split
theorem State.dropLookaheads_only {ps : List Piece} {s0 : State} (s : State) (x1 : Nat) (h : s0.only ps s) (h_reqs : .reqs ∈ ps := by simp [*]) (h_orphans : .orphans ∈ ps := by simp [*]) (h_trn : .trn ∈ ps := by simp [*]) (h_lka : .lka ∈ ps := by simp [*]) :
    s0.only ps (State.dropLookaheads s x1) := by
  unfold State.dropLookaheads
  repeat' first
    | with_reducible assumption | with_reducible apply State.discardAll_only
    | (with_reducible apply only_foldl; intro _ _ _; try dsimp only)
theorem State.endFaults_only {ps : List Piece} {s0 : State} (s : State) (x1 : Nat) (h : s0.only ps s) (h_reqs : .reqs ∈ ps := by simp [*]) (h_orphans : .orphans ∈ ps := by simp [*]) (h_out : .out ∈ ps := by simp [*]) (h_trn : .trn ∈ ps := by simp [*]) (h_flt : .flt ∈ ps := by simp [*]) (h_rcd : .rcd ∈ ps := by simp [*]) :
    s0.only ps (State.endFaults s x1) := by
  unfold State.endFaults
  repeat' first
    | with_reducible assumption | with_reducible apply State.withdrawReqs_only | with_reducible apply State.tileFails_only
    | with_reducible apply State.emit_only | (with_reducible apply only_foldl; intro _ _ _; try dsimp only) | split
theorem State.unbindTiles_only {ps : List Piece} {s0 : State} (s : State) (x1 : Nat) (h : s0.only ps s) (h_trn : .trn ∈ ps := by simp [*]) :
    s0.only ps (State.unbindTiles s x1) := by
  unfold State.unbindTiles
  repeat' first | with_reducible assumption | with_reducible apply State.setTrn_only
theorem State.resetQueues_only {ps : List Piece} {s0 : State} (s : State) (x1 : Nat) (h : s0.only ps s) (h_reqs : .reqs ∈ ps := by simp [*]) (h_orphans : .orphans ∈ ps := by simp [*]) (h_gal : .gal ∈ ps := by simp [*]) (h_trn : .trn ∈ ps := by simp [*]) (h_flt : .flt ∈ ps := by simp [*]) (h_epo : .epo ∈ ps := by simp [*]) (h_plt : .plt ∈ ps := by simp [*]) (h_cmp : .cmp ∈ ps := by simp [*]) (h_lka : .lka ∈ ps := by simp [*]) (h_ic : .ic ∈ ps := by simp [*]) (h_obs : .obs ∈ ps := by simp [*]) (h_rcd : .rcd ∈ ps := by simp [*]) :
    s0.only ps (State.resetQueues s x1) := by
  unfold State.resetQueues
  repeat' first
    | with_reducible assumption | with_reducible apply State.resetQueue_only
    | (with_reducible apply only_foldl; intro _ _ _; try dsimp only)
theorem State.startFlr_only {ps : List Piece} {s0 : State} (s : State) (x1 : Nat) (h : s0.only ps s) (h_reqs : .reqs ∈ ps := by simp [*]) (h_orphans : .orphans ∈ ps := by simp [*]) (h_out : .out ∈ ps := by simp [*]) (h_gal : .gal ∈ ps := by simp [*]) (h_trn : .trn ∈ ps := by simp [*]) (h_flt : .flt ∈ ps := by simp [*]) (h_epo : .epo ∈ ps := by simp [*]) (h_plt : .plt ∈ ps := by simp [*]) (h_cmp : .cmp ∈ ps := by simp [*]) (h_lka : .lka ∈ ps := by simp [*]) (h_seam : .seam ∈ ps := by simp [*]) (h_host : .host ∈ ps := by simp [*]) (h_ic : .ic ∈ ps := by simp [*]) (h_obs : .obs ∈ ps := by simp [*]) (h_rcd : .rcd ∈ ps := by simp [*]) :
    s0.only ps (State.startFlr s x1) := by
  unfold State.startFlr
  repeat' first
    | with_reducible assumption | with_reducible apply State.setFn_only | with_reducible apply State.unbindTiles_only
    | with_reducible apply State.closeWindows_only | with_reducible apply State.dropLookaheads_only
    | with_reducible apply State.endFaults_only | with_reducible apply State.resetQueues_only
    | with_reducible apply only_ite
theorem State.flrOf_only {ps : List Piece} {s0 : State} (s : State) (x1 : Nat) (h : s0.only ps s) (h_reqs : .reqs ∈ ps := by simp [*]) (h_orphans : .orphans ∈ ps := by simp [*]) (h_out : .out ∈ ps := by simp [*]) (h_gal : .gal ∈ ps := by simp [*]) (h_trn : .trn ∈ ps := by simp [*]) (h_flt : .flt ∈ ps := by simp [*]) (h_epo : .epo ∈ ps := by simp [*]) (h_plt : .plt ∈ ps := by simp [*]) (h_cmp : .cmp ∈ ps := by simp [*]) (h_lka : .lka ∈ ps := by simp [*]) (h_seam : .seam ∈ ps := by simp [*]) (h_host : .host ∈ ps := by simp [*]) (h_ic : .ic ∈ ps := by simp [*]) (h_obs : .obs ∈ ps := by simp [*]) (h_rcd : .rcd ∈ ps := by simp [*]) :
    s0.only ps (State.flrOf s x1) := by
  unfold State.flrOf
  repeat' first
    | with_reducible assumption | with_reducible apply State.startFlr_only | with_reducible apply only_ite
    | (with_reducible apply only_foldl; intro _ _ _; try dsimp only)
theorem State.freeSlots_only {ps : List Piece} {s0 : State} (s : State) (x1 : Nat) (h : s0.only ps s) (h_out : .out ∈ ps := by simp [*]) (h_epo : .epo ∈ ps := by simp [*]) (h_cmp : .cmp ∈ ps := by simp [*]) :
    s0.only ps (State.freeSlots s x1) := by
  unfold State.freeSlots
  repeat' first
    | with_reducible assumption | with_reducible apply State.emit_only | simp only [only_epo_cmp, h_out, h_epo, h_cmp]
    | with_reducible apply only_ite
theorem State.quarantine_only {ps : List Piece} {s0 : State} (s : State) (x1 : Nat) (x2 : Nat) (x3 : Nat) (x4 : BitVec 9) (x5 : Bool) (h : s0.only ps s) (h_host : .host ∈ ps := by simp [*]) :
    s0.only ps (State.quarantine s x1 x2 x3 x4 x5) := by
  unfold State.quarantine
  repeat' first | with_reducible assumption | simp only [only_host, h_host]
theorem State.raiseVeil_only {ps : List Piece} {s0 : State} (s : State) (x1 : Nat) (h : s0.only ps s) (h_veil : .veil ∈ ps := by simp [*]) :
    s0.only ps (State.raiseVeil s x1) := by
  unfold State.raiseVeil
  repeat' first | with_reducible assumption | simp only [only_veil, h_veil]
theorem State.reportTimeout_only {ps : List Piece} {s0 : State} (s : State) (x1 : Nat) (x2 : Nat) (x3 : BitVec 9) (h : s0.only ps s) (h_out : .out ∈ ps := by simp [*]) (h_host : .host ∈ ps := by simp [*]) :
    s0.only ps (State.reportTimeout s x1 x2 x3) := by
  unfold State.reportTimeout
  repeat' first
    | with_reducible assumption | with_reducible apply State.emit_only | with_reducible apply State.aerReport_only
    | with_reducible apply State.quarantine_only
theorem State.resetConfig_only {ps : List Piece} {s0 : State} (s : State) (x1 : Nat) (h : s0.only ps s) (h_host : .host ∈ ps := by simp [*]) :
    s0.only ps (State.resetConfig s x1) := by
  unfold State.resetConfig
  repeat' first
    | with_reducible assumption | with_reducible apply State.setFn_only | with_reducible apply State.setLink_only
    | with_reducible apply only_ite | (with_reducible apply only_foldl; intro _ _ _; try dsimp only)
theorem State.timeOutReq_only {ps : List Piece} {s0 : State} (s : State) (x1 : Req) (h : s0.only ps s) (h_reqs : .reqs ∈ ps := by simp [*]) (h_orphans : .orphans ∈ ps := by simp [*]) (h_out : .out ∈ ps := by simp [*]) (h_trn : .trn ∈ ps := by simp [*]) (h_host : .host ∈ ps := by simp [*]) :
    s0.only ps (State.timeOutReq s x1) := by
  unfold State.timeOutReq
  repeat' first
    | with_reducible assumption | with_reducible apply State.handOn_only | with_reducible apply State.setReq_only
    | with_reducible apply State.reportTimeout_only | split
theorem State.timeOutOrphan_only {ps : List Piece} {s0 : State} (s : State) (x1 : Req) (h : s0.only ps s) (h_orphans : .orphans ∈ ps := by simp [*]) (h_out : .out ∈ ps := by simp [*]) (h_host : .host ∈ ps := by simp [*]) :
    s0.only ps (State.timeOutOrphan s x1) := by
  unfold State.timeOutOrphan
  repeat' first
    | with_reducible assumption | with_reducible apply State.reportTimeout_only
    | simp only [only_orphans, h_orphans, h_out, h_host]
theorem State.timeOutFlush_only {ps : List Piece} {s0 : State} (s : State) (x1 : Cmd) (h : s0.only ps s) (h_reqs : .reqs ∈ ps := by simp [*]) (h_orphans : .orphans ∈ ps := by simp [*]) (h_nextId : .nextId ∈ ps := by simp [*]) (h_tileQ : .tileQ ∈ ps := by simp [*]) (h_out : .out ∈ ps := by simp [*]) (h_gal : .gal ∈ ps := by simp [*]) (h_trn : .trn ∈ ps := by simp [*]) (h_flt : .flt ∈ ps := by simp [*]) (h_lka : .lka ∈ ps := by simp [*]) (h_tal : .tal ∈ ps := by simp [*]) (h_host : .host ∈ ps := by simp [*]) (h_ic : .ic ∈ ps := by simp [*]) (h_obs : .obs ∈ ps := by simp [*]) (h_rcd : .rcd ∈ ps := by simp [*]) :
    s0.only ps (State.timeOutFlush s x1) := by
  unfold State.timeOutFlush
  repeat' first
    | with_reducible assumption | with_reducible apply State.flushEnds_only | with_reducible apply State.reportTimeout_only
    | split
theorem State.timeOutDrain_only {ps : List Piece} {s0 : State} (s : State) (x1 : Nat) (x2 : Nat) (x3 : Nat) (h : s0.only ps s) (h_mem : .mem ∈ ps := by simp [*]) (h_poison : .poison ∈ ps := by simp [*]) (h_veil : .veil ∈ ps := by simp [*]) (h_reqs : .reqs ∈ ps := by simp [*]) (h_orphans : .orphans ∈ ps := by simp [*]) (h_nextId : .nextId ∈ ps := by simp [*]) (h_out : .out ∈ ps := by simp [*]) (h_trn : .trn ∈ ps := by simp [*]) (h_plt : .plt ∈ ps := by simp [*]) (h_lka : .lka ∈ ps := by simp [*]) (h_host : .host ∈ ps := by simp [*]) (h_ic : .ic ∈ ps := by simp [*]) (h_prt : .prt ∈ ps := by simp [*]) (h_obs : .obs ∈ ps := by simp [*]) :
    s0.only ps (State.timeOutDrain s x1 x2 x3) := by
  unfold State.timeOutDrain
  repeat' first
    | with_reducible assumption | with_reducible apply State.endDrain_only | with_reducible apply State.reportTimeout_only
theorem State.timeOutAts_only {ps : List Piece} {s0 : State} (s : State) (x1 : Walk) (h : s0.only ps s) (h_mem : .mem ∈ ps := by simp [*]) (h_poison : .poison ∈ ps := by simp [*]) (h_veil : .veil ∈ ps := by simp [*]) (h_reqs : .reqs ∈ ps := by simp [*]) (h_orphans : .orphans ∈ ps := by simp [*]) (h_nextId : .nextId ∈ ps := by simp [*]) (h_free : .free ∈ ps := by simp [*]) (h_out : .out ∈ ps := by simp [*]) (h_gal : .gal ∈ ps := by simp [*]) (h_trn : .trn ∈ ps := by simp [*]) (h_flt : .flt ∈ ps := by simp [*]) (h_epo : .epo ∈ ps := by simp [*]) (h_plt : .plt ∈ ps := by simp [*]) (h_cmp : .cmp ∈ ps := by simp [*]) (h_lka : .lka ∈ ps := by simp [*]) (h_host : .host ∈ ps := by simp [*]) (h_ic : .ic ∈ ps := by simp [*]) (h_prt : .prt ∈ ps := by simp [*]) (h_err : .err ∈ ps := by simp [*]) (h_obs : .obs ∈ ps := by simp [*]) (h_rcd : .rcd ∈ ps := by simp [*]) :
    s0.only ps (State.timeOutAts s x1) := by
  unfold State.timeOutAts
  repeat' first
    | with_reducible assumption | with_reducible apply State.atsAnswer_only | with_reducible apply State.quarantine_only
    | with_reducible apply State.reportTimeout_only | with_reducible apply only_ite
theorem State.timeOutProof_only {ps : List Piece} {s0 : State} (s : State) (x1 : Nat) (x2 : Proof) (h : s0.only ps s) (h_lka : .lka ∈ ps := by simp [*]) (h_host : .host ∈ ps := by simp [*]) :
    s0.only ps (State.timeOutProof s x1 x2) := by
  unfold State.timeOutProof
  repeat' first
    | with_reducible assumption | with_reducible apply State.loseProof_only | with_reducible apply State.quarantine_only
theorem State.timeOutTag_only {ps : List Piece} {s0 : State} (s : State) (x1 : Nat → Bool) (x2 : Nat) (h : s0.only ps s) (h_mem : .mem ∈ ps := by simp [*]) (h_poison : .poison ∈ ps := by simp [*]) (h_veil : .veil ∈ ps := by simp [*]) (h_reqs : .reqs ∈ ps := by simp [*]) (h_orphans : .orphans ∈ ps := by simp [*]) (h_nextId : .nextId ∈ ps := by simp [*]) (h_free : .free ∈ ps := by simp [*]) (h_tileQ : .tileQ ∈ ps := by simp [*]) (h_out : .out ∈ ps := by simp [*]) (h_gal : .gal ∈ ps := by simp [*]) (h_trn : .trn ∈ ps := by simp [*]) (h_flt : .flt ∈ ps := by simp [*]) (h_epo : .epo ∈ ps := by simp [*]) (h_plt : .plt ∈ ps := by simp [*]) (h_cmp : .cmp ∈ ps := by simp [*]) (h_lka : .lka ∈ ps := by simp [*]) (h_tal : .tal ∈ ps := by simp [*]) (h_host : .host ∈ ps := by simp [*]) (h_ic : .ic ∈ ps := by simp [*]) (h_prt : .prt ∈ ps := by simp [*]) (h_err : .err ∈ ps := by simp [*]) (h_obs : .obs ∈ ps := by simp [*]) (h_rcd : .rcd ∈ ps := by simp [*]) :
    s0.only ps (State.timeOutTag s x1 x2) := by
  unfold State.timeOutTag
  repeat' first
    | with_reducible assumption | with_reducible apply State.timeOutReq_only
    | with_reducible apply State.timeOutOrphan_only | with_reducible apply State.timeOutFlush_only
    | with_reducible apply State.timeOutDrain_only | with_reducible apply State.timeOutAts_only
    | with_reducible apply State.timeOutProof_only | split
theorem State.timeOutPart_only {ps : List Piece} {s0 : State} (s : State) (x1 : Nat) (h : s0.only ps s) (h_mem : .mem ∈ ps := by simp [*]) (h_poison : .poison ∈ ps := by simp [*]) (h_veil : .veil ∈ ps := by simp [*]) (h_reqs : .reqs ∈ ps := by simp [*]) (h_orphans : .orphans ∈ ps := by simp [*]) (h_nextId : .nextId ∈ ps := by simp [*]) (h_free : .free ∈ ps := by simp [*]) (h_tileQ : .tileQ ∈ ps := by simp [*]) (h_out : .out ∈ ps := by simp [*]) (h_gal : .gal ∈ ps := by simp [*]) (h_trn : .trn ∈ ps := by simp [*]) (h_flt : .flt ∈ ps := by simp [*]) (h_epo : .epo ∈ ps := by simp [*]) (h_plt : .plt ∈ ps := by simp [*]) (h_cmp : .cmp ∈ ps := by simp [*]) (h_lka : .lka ∈ ps := by simp [*]) (h_tal : .tal ∈ ps := by simp [*]) (h_host : .host ∈ ps := by simp [*]) (h_ic : .ic ∈ ps := by simp [*]) (h_prt : .prt ∈ ps := by simp [*]) (h_err : .err ∈ ps := by simp [*]) (h_obs : .obs ∈ ps := by simp [*]) (h_rcd : .rcd ∈ ps := by simp [*]) :
    s0.only ps (State.timeOutPart s x1) := by
  unfold State.timeOutPart
  repeat' first
    | with_reducible assumption | with_reducible apply State.timeOutTag_only
    | (with_reducible apply only_foldl; intro _ _ _; try dsimp only)
theorem State.resetLink_only {ps : List Piece} {s0 : State} (s : State) (x1 : Nat) (h : s0.only ps s) (h_held : .held ∈ ps := by simp [*]) (h_mem : .mem ∈ ps := by simp [*]) (h_poison : .poison ∈ ps := by simp [*]) (h_veil : .veil ∈ ps := by simp [*]) (h_reqs : .reqs ∈ ps := by simp [*]) (h_orphans : .orphans ∈ ps := by simp [*]) (h_nextId : .nextId ∈ ps := by simp [*]) (h_free : .free ∈ ps := by simp [*]) (h_tileQ : .tileQ ∈ ps := by simp [*]) (h_out : .out ∈ ps := by simp [*]) (h_gal : .gal ∈ ps := by simp [*]) (h_trn : .trn ∈ ps := by simp [*]) (h_flt : .flt ∈ ps := by simp [*]) (h_epo : .epo ∈ ps := by simp [*]) (h_plt : .plt ∈ ps := by simp [*]) (h_cmp : .cmp ∈ ps := by simp [*]) (h_lka : .lka ∈ ps := by simp [*]) (h_seam : .seam ∈ ps := by simp [*]) (h_tal : .tal ∈ ps := by simp [*]) (h_lin : .lin ∈ ps := by simp [*]) (h_host : .host ∈ ps := by simp [*]) (h_ic : .ic ∈ ps := by simp [*]) (h_prt : .prt ∈ ps := by simp [*]) (h_err : .err ∈ ps := by simp [*]) (h_obs : .obs ∈ ps := by simp [*]) (h_rcd : .rcd ∈ ps := by simp [*]) :
    s0.only ps (State.resetLink s x1) := by
  unfold State.resetLink
  repeat' first
    | with_reducible assumption | with_reducible apply State.dropHeld_only | with_reducible apply State.startFlr_only
    | with_reducible apply State.timeOutPart_only | with_reducible apply State.setFn_only
    | with_reducible apply State.setLinkStat_only | with_reducible apply State.setLink_only
    | (with_reducible apply only_foldl; intro _ _ _; try dsimp only)
theorem State.resetSources_only {ps : List Piece} {s0 : State} (s : State) (x1 : Nat) (h : s0.only ps s) (h_ic : .ic ∈ ps := by simp [*]) :
    s0.only ps (State.resetSources s x1) := by
  unfold State.resetSources
  repeat' first | with_reducible assumption | simp only [only_ic, h_ic]
theorem State.resetRegs_only {ps : List Piece} {s0 : State} (s : State) (x1 : Nat) (h : s0.only ps s) (h_out : .out ∈ ps := by simp [*]) (h_latch : .latch ∈ ps := by simp [*]) (h_gal : .gal ∈ ps := by simp [*]) (h_trn : .trn ∈ ps := by simp [*]) (h_flt : .flt ∈ ps := by simp [*]) (h_epo : .epo ∈ ps := by simp [*]) (h_plt : .plt ∈ ps := by simp [*]) (h_cmp : .cmp ∈ ps := by simp [*]) (h_lka : .lka ∈ ps := by simp [*]) (h_seam : .seam ∈ ps := by simp [*]) (h_tal : .tal ∈ ps := by simp [*]) (h_lin : .lin ∈ ps := by simp [*]) (h_ic : .ic ∈ ps := by simp [*]) (h_prt : .prt ∈ ps := by simp [*]) (h_aon : .aon ∈ ps := by simp [*]) (h_obs : .obs ∈ ps := by simp [*]) (h_rcd : .rcd ∈ ps := by simp [*]) :
    s0.only ps (State.resetRegs s x1) := by
  unfold State.resetRegs
  repeat' first
    | with_reducible assumption | with_reducible apply State.freeSlots_only | with_reducible apply State.clearContexts_only
    | with_reducible apply State.resetSources_only | with_reducible apply State.setFltp_only
    | simp only [only_latch_gal_trn_plt_cmp_lka_seam_tal_lin_prt_obs_rcd, h_out, h_latch, h_gal, h_trn, h_flt, h_epo, h_plt, h_cmp, h_lka, h_seam, h_tal, h_lin, h_ic, h_prt, h_aon, h_obs, h_rcd]
theorem State.portBounce_only {ps : List Piece} {s0 : State} (s : State) (x1 : Req) (h : s0.only ps s) (h_reqs : .reqs ∈ ps := by simp [*]) (h_orphans : .orphans ∈ ps := by simp [*]) (h_nextId : .nextId ∈ ps := by simp [*]) (h_free : .free ∈ ps := by simp [*]) (h_out : .out ∈ ps := by simp [*]) (h_gal : .gal ∈ ps := by simp [*]) (h_trn : .trn ∈ ps := by simp [*]) (h_flt : .flt ∈ ps := by simp [*]) (h_epo : .epo ∈ ps := by simp [*]) (h_plt : .plt ∈ ps := by simp [*]) (h_cmp : .cmp ∈ ps := by simp [*]) (h_lka : .lka ∈ ps := by simp [*]) (h_ic : .ic ∈ ps := by simp [*]) (h_obs : .obs ∈ ps := by simp [*]) (h_rcd : .rcd ∈ ps := by simp [*]) :
    s0.only ps (State.portBounce s x1) := by
  unfold State.portBounce
  try dsimp only
  repeat' first
    | with_reducible assumption | with_reducible apply State.dropReq_only | with_reducible apply State.recordFailed_only
    | with_reducible apply State.raiseFaultSource_only | with_reducible apply State.modFltp_only
    | with_reducible apply State.failDrain_only | with_reducible apply State.bounceAt_only
    | with_reducible apply State.useFree_only | split
theorem State.closePort_only {ps : List Piece} {s0 : State} (s : State) (x1 : Nat) (x2 : Req → Bool) (h : s0.only ps s) (h_mem : .mem ∈ ps := by simp [*]) (h_poison : .poison ∈ ps := by simp [*]) (h_veil : .veil ∈ ps := by simp [*]) (h_reqs : .reqs ∈ ps := by simp [*]) (h_orphans : .orphans ∈ ps := by simp [*]) (h_nextId : .nextId ∈ ps := by simp [*]) (h_free : .free ∈ ps := by simp [*]) (h_tileQ : .tileQ ∈ ps := by simp [*]) (h_out : .out ∈ ps := by simp [*]) (h_gal : .gal ∈ ps := by simp [*]) (h_trn : .trn ∈ ps := by simp [*]) (h_flt : .flt ∈ ps := by simp [*]) (h_epo : .epo ∈ ps := by simp [*]) (h_plt : .plt ∈ ps := by simp [*]) (h_cmp : .cmp ∈ ps := by simp [*]) (h_lka : .lka ∈ ps := by simp [*]) (h_seam : .seam ∈ ps := by simp [*]) (h_tal : .tal ∈ ps := by simp [*]) (h_lin : .lin ∈ ps := by simp [*]) (h_host : .host ∈ ps := by simp [*]) (h_ic : .ic ∈ ps := by simp [*]) (h_obs : .obs ∈ ps := by simp [*]) (h_rcd : .rcd ∈ ps := by simp [*]) :
    s0.only ps (State.closePort s x1 x2) := by
  unfold State.closePort
  repeat' first
    | with_reducible assumption | with_reducible apply State.portBounce_only | with_reducible apply State.sweepDead_only
    | (with_reducible apply only_foldl; intro _ _ _; try dsimp only) | split
theorem State.fenceWalker_only {ps : List Piece} {s0 : State} (s : State) (x1 : Nat) (h : s0.only ps s) (h_reqs : .reqs ∈ ps := by simp [*]) (h_orphans : .orphans ∈ ps := by simp [*]) (h_trn : .trn ∈ ps := by simp [*]) :
    s0.only ps (State.fenceWalker s x1) := by
  unfold State.fenceWalker
  repeat' first
    | with_reducible assumption | with_reducible apply State.dropWalk_only | with_reducible apply State.setTrn_only
    | simp only [only_reqs_trn, h_reqs, h_orphans, h_trn] | split
theorem State.fenceLayer_only {ps : List Piece} {s0 : State} (s : State) (x1 : Nat) (h : s0.only ps s) (h_held : .held ∈ ps := by simp [*]) (h_seam : .seam ∈ ps := by simp [*]) (h_ic : .ic ∈ ps := by simp [*]) (h_err : .err ∈ ps := by simp [*]) :
    s0.only ps (State.fenceLayer s x1) := by
  unfold State.fenceLayer
  repeat' first
    | with_reducible assumption | with_reducible apply State.pulses_only | with_reducible apply State.dropHeld_only
    | simp only [only_seam, h_held, h_seam, h_ic, h_err]
theorem State.fencePort_only {ps : List Piece} {s0 : State} (s : State) (x1 : Nat) (h : s0.only ps s) (h_held : .held ∈ ps := by simp [*]) (h_mem : .mem ∈ ps := by simp [*]) (h_poison : .poison ∈ ps := by simp [*]) (h_veil : .veil ∈ ps := by simp [*]) (h_reqs : .reqs ∈ ps := by simp [*]) (h_orphans : .orphans ∈ ps := by simp [*]) (h_nextId : .nextId ∈ ps := by simp [*]) (h_free : .free ∈ ps := by simp [*]) (h_tileQ : .tileQ ∈ ps := by simp [*]) (h_out : .out ∈ ps := by simp [*]) (h_gal : .gal ∈ ps := by simp [*]) (h_trn : .trn ∈ ps := by simp [*]) (h_flt : .flt ∈ ps := by simp [*]) (h_epo : .epo ∈ ps := by simp [*]) (h_plt : .plt ∈ ps := by simp [*]) (h_cmp : .cmp ∈ ps := by simp [*]) (h_lka : .lka ∈ ps := by simp [*]) (h_seam : .seam ∈ ps := by simp [*]) (h_tal : .tal ∈ ps := by simp [*]) (h_lin : .lin ∈ ps := by simp [*]) (h_host : .host ∈ ps := by simp [*]) (h_ic : .ic ∈ ps := by simp [*]) (h_prt : .prt ∈ ps := by simp [*]) (h_err : .err ∈ ps := by simp [*]) (h_obs : .obs ∈ ps := by simp [*]) (h_rcd : .rcd ∈ ps := by simp [*]) :
    s0.only ps (State.fencePort s x1) := by
  unfold State.fencePort
  repeat' first
    | with_reducible assumption | with_reducible apply State.timeOutPart_only | with_reducible apply State.setLinkStat_only
    | with_reducible apply State.setLink_only | with_reducible apply State.dropHeld_only | with_reducible apply only_ite
    | (with_reducible apply only_foldl; intro _ _ _; try dsimp only)
theorem State.degrade_only {ps : List Piece} {s0 : State} (s : State) (x1 : Nat) (x2 : Nat) (h : s0.only ps s) (h_held : .held ∈ ps := by simp [*]) (h_mem : .mem ∈ ps := by simp [*]) (h_poison : .poison ∈ ps := by simp [*]) (h_veil : .veil ∈ ps := by simp [*]) (h_reqs : .reqs ∈ ps := by simp [*]) (h_orphans : .orphans ∈ ps := by simp [*]) (h_nextId : .nextId ∈ ps := by simp [*]) (h_free : .free ∈ ps := by simp [*]) (h_tileQ : .tileQ ∈ ps := by simp [*]) (h_out : .out ∈ ps := by simp [*]) (h_gal : .gal ∈ ps := by simp [*]) (h_trn : .trn ∈ ps := by simp [*]) (h_flt : .flt ∈ ps := by simp [*]) (h_epo : .epo ∈ ps := by simp [*]) (h_plt : .plt ∈ ps := by simp [*]) (h_cmp : .cmp ∈ ps := by simp [*]) (h_lka : .lka ∈ ps := by simp [*]) (h_seam : .seam ∈ ps := by simp [*]) (h_tal : .tal ∈ ps := by simp [*]) (h_lin : .lin ∈ ps := by simp [*]) (h_host : .host ∈ ps := by simp [*]) (h_ic : .ic ∈ ps := by simp [*]) (h_prt : .prt ∈ ps := by simp [*]) (h_err : .err ∈ ps := by simp [*]) (h_obs : .obs ∈ ps := by simp [*]) (h_rcd : .rcd ∈ ps := by simp [*]) :
    s0.only ps (State.degrade s x1 x2) := by
  unfold State.degrade
  repeat' first
    | with_reducible assumption | with_reducible apply State.fenceWalker_only | with_reducible apply State.pleatFence_only
    | with_reducible apply State.compFence_only | with_reducible apply State.discardAll_only
    | with_reducible apply State.fenceLayer_only | with_reducible apply State.fencePort_only
    | simp only [only_cmp, only_plt, h_held, h_mem, h_poison, h_veil, h_reqs, h_orphans, h_nextId, h_free, h_tileQ, h_out, h_gal, h_trn, h_flt, h_epo, h_plt, h_cmp, h_lka, h_seam, h_tal, h_lin, h_host, h_ic, h_prt, h_err, h_obs, h_rcd]
    | split
theorem State.dropBadEntry_only {ps : List Piece} {s0 : State} (s : State) (h : s0.only ps s) (h_free : .free ∈ ps := by simp [*]) (h_trn : .trn ∈ ps := by simp [*]) :
    s0.only ps (State.dropBadEntry s) := by
  unfold State.dropBadEntry
  try dsimp only
  repeat' first
    | with_reducible assumption | with_reducible apply State.useFree_only | with_reducible apply State.setTrn_only | split
theorem State.endAmendment_only {ps : List Piece} {s0 : State} (s : State) (x1 : Byte) (h : s0.only ps s) (h_reqs : .reqs ∈ ps := by simp [*]) (h_orphans : .orphans ∈ ps := by simp [*]) (h_trn : .trn ∈ ps := by simp [*]) (h_ic : .ic ∈ ps := by simp [*]) (h_aon : .aon ∈ ps := by simp [*]) :
    s0.only ps (State.endAmendment s x1) := by
  unfold State.endAmendment
  repeat' first
    | with_reducible assumption | with_reducible apply State.dropReqs_only | with_reducible apply State.setSysev_only
    | simp only [only_aon, h_reqs, h_orphans, h_trn, h_ic, h_aon]
theorem State.fenceUnit_only {ps : List Piece} {s0 : State} (s : State) (x1 : Nat) (x2 : Nat) (h : s0.only ps s) (h_held : .held ∈ ps := by simp [*]) (h_mem : .mem ∈ ps := by simp [*]) (h_poison : .poison ∈ ps := by simp [*]) (h_veil : .veil ∈ ps := by simp [*]) (h_reqs : .reqs ∈ ps := by simp [*]) (h_orphans : .orphans ∈ ps := by simp [*]) (h_nextId : .nextId ∈ ps := by simp [*]) (h_free : .free ∈ ps := by simp [*]) (h_tileQ : .tileQ ∈ ps := by simp [*]) (h_out : .out ∈ ps := by simp [*]) (h_gal : .gal ∈ ps := by simp [*]) (h_trn : .trn ∈ ps := by simp [*]) (h_flt : .flt ∈ ps := by simp [*]) (h_epo : .epo ∈ ps := by simp [*]) (h_plt : .plt ∈ ps := by simp [*]) (h_cmp : .cmp ∈ ps := by simp [*]) (h_lka : .lka ∈ ps := by simp [*]) (h_seam : .seam ∈ ps := by simp [*]) (h_tal : .tal ∈ ps := by simp [*]) (h_lin : .lin ∈ ps := by simp [*]) (h_host : .host ∈ ps := by simp [*]) (h_ic : .ic ∈ ps := by simp [*]) (h_prt : .prt ∈ ps := by simp [*]) (h_aon : .aon ∈ ps := by simp [*]) (h_err : .err ∈ ps := by simp [*]) (h_obs : .obs ∈ ps := by simp [*]) (h_rcd : .rcd ∈ ps := by simp [*]) :
    s0.only ps (State.fenceUnit s x1 x2) := by
  unfold State.fenceUnit
  repeat' first
    | with_reducible assumption | with_reducible apply State.setUnit_only | with_reducible apply State.degrade_only
    | with_reducible apply State.endAmendment_only | with_reducible apply only_ite
theorem State.react_only {ps : List Piece} {s0 : State} (s : State) (x1 : Nat) (h : s0.only ps s) (h_held : .held ∈ ps := by simp [*]) (h_mem : .mem ∈ ps := by simp [*]) (h_poison : .poison ∈ ps := by simp [*]) (h_veil : .veil ∈ ps := by simp [*]) (h_reqs : .reqs ∈ ps := by simp [*]) (h_orphans : .orphans ∈ ps := by simp [*]) (h_nextId : .nextId ∈ ps := by simp [*]) (h_free : .free ∈ ps := by simp [*]) (h_tileQ : .tileQ ∈ ps := by simp [*]) (h_out : .out ∈ ps := by simp [*]) (h_gal : .gal ∈ ps := by simp [*]) (h_trn : .trn ∈ ps := by simp [*]) (h_flt : .flt ∈ ps := by simp [*]) (h_epo : .epo ∈ ps := by simp [*]) (h_plt : .plt ∈ ps := by simp [*]) (h_cmp : .cmp ∈ ps := by simp [*]) (h_lka : .lka ∈ ps := by simp [*]) (h_seam : .seam ∈ ps := by simp [*]) (h_tal : .tal ∈ ps := by simp [*]) (h_lin : .lin ∈ ps := by simp [*]) (h_host : .host ∈ ps := by simp [*]) (h_ic : .ic ∈ ps := by simp [*]) (h_prt : .prt ∈ ps := by simp [*]) (h_aon : .aon ∈ ps := by simp [*]) (h_err : .err ∈ ps := by simp [*]) (h_obs : .obs ∈ ps := by simp [*]) (h_rcd : .rcd ∈ ps := by simp [*]) :
    s0.only ps (State.react s x1) := by
  unfold State.react
  repeat' first
    | with_reducible assumption | with_reducible apply State.closePort_only | with_reducible apply State.fenceUnit_only
    | with_reducible apply State.emit_only | with_reducible apply State.aerReport_only
    | simp only [only_err, h_held, h_mem, h_poison, h_veil, h_reqs, h_orphans, h_nextId, h_free, h_tileQ, h_out, h_gal, h_trn, h_flt, h_epo, h_plt, h_cmp, h_lka, h_seam, h_tal, h_lin, h_host, h_ic, h_prt, h_aon, h_err, h_obs, h_rcd]
    | (with_reducible apply only_foldl; intro _ _ _; try dsimp only) | split
theorem State.latchAll_only {ps : List Piece} {s0 : State} (s : State) (x1 : List Nat) (h : s0.only ps s) (h_held : .held ∈ ps := by simp [*]) (h_mem : .mem ∈ ps := by simp [*]) (h_poison : .poison ∈ ps := by simp [*]) (h_veil : .veil ∈ ps := by simp [*]) (h_reqs : .reqs ∈ ps := by simp [*]) (h_orphans : .orphans ∈ ps := by simp [*]) (h_nextId : .nextId ∈ ps := by simp [*]) (h_free : .free ∈ ps := by simp [*]) (h_tileQ : .tileQ ∈ ps := by simp [*]) (h_out : .out ∈ ps := by simp [*]) (h_gal : .gal ∈ ps := by simp [*]) (h_trn : .trn ∈ ps := by simp [*]) (h_flt : .flt ∈ ps := by simp [*]) (h_epo : .epo ∈ ps := by simp [*]) (h_plt : .plt ∈ ps := by simp [*]) (h_cmp : .cmp ∈ ps := by simp [*]) (h_lka : .lka ∈ ps := by simp [*]) (h_seam : .seam ∈ ps := by simp [*]) (h_tal : .tal ∈ ps := by simp [*]) (h_lin : .lin ∈ ps := by simp [*]) (h_host : .host ∈ ps := by simp [*]) (h_ic : .ic ∈ ps := by simp [*]) (h_prt : .prt ∈ ps := by simp [*]) (h_aon : .aon ∈ ps := by simp [*]) (h_err : .err ∈ ps := by simp [*]) (h_obs : .obs ∈ ps := by simp [*]) (h_rcd : .rcd ∈ ps := by simp [*]) :
    s0.only ps (State.latchAll s x1) := by
  unfold State.latchAll
  repeat' first
    | with_reducible assumption | with_reducible apply State.relevel_only | with_reducible apply State.react_only
    | with_reducible apply State.updFerr_only
    | simp only [only_err, h_held, h_mem, h_poison, h_veil, h_reqs, h_orphans, h_nextId, h_free, h_tileQ, h_out, h_gal, h_trn, h_flt, h_epo, h_plt, h_cmp, h_lka, h_seam, h_tal, h_lin, h_host, h_ic, h_prt, h_aon, h_err, h_obs, h_rcd]
    | (with_reducible apply only_foldl; intro _ _ _; try dsimp only)
theorem State.poisonAt_only {ps : List Piece} {s0 : State} (s : State) (x1 : Nat) (h : s0.only ps s) (h_poison : .poison ∈ ps := by simp [*]) :
    s0.only ps (State.poisonAt s x1) := by
  unfold State.poisonAt
  repeat' first | with_reducible assumption | simp only [only_poison, h_poison] | with_reducible apply only_ite
theorem State.resumeCommits_only {ps : List Piece} {s0 : State} (s : State) (h : s0.only ps s) (h_reqs : .reqs ∈ ps := by simp [*]) (h_orphans : .orphans ∈ ps := by simp [*]) (h_gal : .gal ∈ ps := by simp [*]) (h_trn : .trn ∈ ps := by simp [*]) (h_flt : .flt ∈ ps := by simp [*]) (h_lka : .lka ∈ ps := by simp [*]) (h_obs : .obs ∈ ps := by simp [*]) (h_rcd : .rcd ∈ ps := by simp [*]) :
    s0.only ps (State.resumeCommits s) := by
  unfold State.resumeCommits
  repeat' first
    | with_reducible assumption | with_reducible apply State.settleAccepted_only
    | (with_reducible apply only_foldl; intro _ _ _; try dsimp only)
theorem State.applyBars_only {ps : List Piece} {s0 : State} (s : State) (x1 : Nat) (x2 : Nat) (h : s0.only ps s) (h_host : .host ∈ ps := by simp [*]) :
    s0.only ps (State.applyBars s x1 x2) := by
  unfold State.applyBars
  repeat' first
    | with_reducible assumption | with_reducible apply State.setLink_only | simp only [only_host, h_host]
    | (with_reducible apply only_foldl; intro _ _ _; try dsimp only)
theorem State.applyBound_only {ps : List Piece} {s0 : State} (s : State) (x1 : Nat) (x2 : W64) (x3 : W64) (h : s0.only ps s) (h_trn : .trn ∈ ps := by simp [*]) :
    s0.only ps (State.applyBound s x1 x2 x3) := by
  unfold State.applyBound
  repeat' first | with_reducible assumption | simp only [only_trn, h_trn]
theorem State.applyPart_only {ps : List Piece} {s0 : State} (s : State) (x1 : Nat) (x2 : PartCfg) (h : s0.only ps s) (h_trn : .trn ∈ ps := by simp [*]) (h_prt : .prt ∈ ps := by simp [*]) :
    s0.only ps (State.applyPart s x1 x2) := by
  unfold State.applyPart
  repeat' first | with_reducible assumption | simp only [only_trn_prt, h_trn, h_prt]
theorem State.applyRecSet_only {ps : List Piece} {s0 : State} (s : State) (x1 : Nat) (x2 : Bytes) (h : s0.only ps s) (h_rcd : .rcd ∈ ps := by simp [*]) :
    s0.only ps (State.applyRecSet s x1 x2) := by
  unfold State.applyRecSet
  repeat' first | with_reducible assumption | simp only [only_rcd, h_rcd]
theorem State.applyImage_only {ps : List Piece} {s0 : State} (s : State) (x1 : Image) (h : s0.only ps s) (h_out : .out ∈ ps := by simp [*]) (h_trn : .trn ∈ ps := by simp [*]) (h_seam : .seam ∈ ps := by simp [*]) (h_tal : .tal ∈ ps := by simp [*]) (h_lin : .lin ∈ ps := by simp [*]) (h_host : .host ∈ ps := by simp [*]) (h_ic : .ic ∈ ps := by simp [*]) (h_prt : .prt ∈ ps := by simp [*]) (h_aon : .aon ∈ ps := by simp [*]) (h_rcd : .rcd ∈ ps := by simp [*]) :
    s0.only ps (State.applyImage s x1) := by
  unfold State.applyImage
  repeat' first
    | with_reducible assumption | with_reducible apply State.setSram_only | with_reducible apply State.applyBars_only
    | with_reducible apply State.applyPart_only | with_reducible apply State.applyBound_only
    | with_reducible apply State.setSrc_only | with_reducible apply State.setTally_only
    | with_reducible apply State.applyRecSet_only | with_reducible apply State.emit_only
    | simp only [only_seam, only_seam_lin_host_aon_rcd, h_out, h_trn, h_seam, h_tal, h_lin, h_host, h_ic, h_prt, h_aon, h_rcd]
    | with_reducible apply only_ite | (with_reducible apply only_foldl; intro _ _ _; try dsimp only)
theorem State.enterSleep_only {ps : List Piece} {s0 : State} (s : State) (x1 : Nat) (h : s0.only ps s) (h_reqs : .reqs ∈ ps := by simp [*]) (h_orphans : .orphans ∈ ps := by simp [*]) (h_trn : .trn ∈ ps := by simp [*]) (h_lka : .lka ∈ ps := by simp [*]) :
    s0.only ps (State.enterSleep s x1) := by
  unfold State.enterSleep
  repeat' first | with_reducible assumption | with_reducible apply State.discardAll_only | with_reducible apply only_ite
theorem State.leavePool_only {ps : List Piece} {s0 : State} (s : State) (x1 : Nat) (x2 : Nat) (h : s0.only ps s) (h_reqs : .reqs ∈ ps := by simp [*]) (h_orphans : .orphans ∈ ps := by simp [*]) (h_trn : .trn ∈ ps := by simp [*]) (h_plt : .plt ∈ ps := by simp [*]) (h_cmp : .cmp ∈ ps := by simp [*]) (h_lka : .lka ∈ ps := by simp [*]) (h_seam : .seam ∈ ps := by simp [*]) :
    s0.only ps (State.leavePool s x1 x2) := by
  unfold State.leavePool
  repeat' first
    | with_reducible assumption | with_reducible apply State.discardAll_only
    | simp only [only_cmp, only_plt, only_seam, h_reqs, h_orphans, h_trn, h_plt, h_cmp, h_lka, h_seam] | split
theorem State.makeStale_only {ps : List Piece} {s0 : State} (s : State) (x1 : Nat) (x2 : Nat) (h : s0.only ps s) (h_aon : .aon ∈ ps := by simp [*]) :
    s0.only ps (State.makeStale s x1 x2) := by
  unfold State.makeStale
  repeat' first | with_reducible assumption | with_reducible apply State.setUnit_only
theorem State.presentFns_only {ps : List Piece} {s0 : State} (s : State) (h : s0.only ps s) (h_host : .host ∈ ps := by simp [*]) :
    s0.only ps (State.presentFns s) := by
  unfold State.presentFns
  repeat' first
    | with_reducible assumption | with_reducible apply State.setFn_only | with_reducible apply only_ite
    | (with_reducible apply only_foldl; intro _ _ _; try dsimp only)
theorem State.veilAll_only {ps : List Piece} {s0 : State} (s : State) (h : s0.only ps s) (h_veil : .veil ∈ ps := by simp [*]) :
    s0.only ps (State.veilAll s) := by
  unfold State.veilAll
  repeat' first | with_reducible assumption | simp only [only_veil, h_veil]
theorem State.recover_only {ps : List Piece} {s0 : State} (s : State) (x1 : BitVec 5) (h : s0.only ps s) (h_veil : .veil ∈ ps := by simp [*]) (h_aon : .aon ∈ ps := by simp [*]) (h_err : .err ∈ ps := by simp [*]) :
    s0.only ps (State.recover s x1) := by
  unfold State.recover
  repeat' first
    | with_reducible assumption | with_reducible apply State.updFerr_only | with_reducible apply State.veilAll_only
    | simp only [only_aon, h_veil, h_aon, h_err]
theorem State.wakeComp_only {ps : List Piece} {s0 : State} (s : State) (x1 : Nat) (h : s0.only ps s) (h_mem : .mem ∈ ps := by simp [*]) (h_poison : .poison ∈ ps := by simp [*]) (h_veil : .veil ∈ ps := by simp [*]) (h_reqs : .reqs ∈ ps := by simp [*]) (h_orphans : .orphans ∈ ps := by simp [*]) (h_nextId : .nextId ∈ ps := by simp [*]) (h_free : .free ∈ ps := by simp [*]) (h_out : .out ∈ ps := by simp [*]) (h_gal : .gal ∈ ps := by simp [*]) (h_trn : .trn ∈ ps := by simp [*]) (h_flt : .flt ∈ ps := by simp [*]) (h_epo : .epo ∈ ps := by simp [*]) (h_plt : .plt ∈ ps := by simp [*]) (h_cmp : .cmp ∈ ps := by simp [*]) (h_lka : .lka ∈ ps := by simp [*]) (h_ic : .ic ∈ ps := by simp [*]) (h_prt : .prt ∈ ps := by simp [*]) (h_err : .err ∈ ps := by simp [*]) (h_obs : .obs ∈ ps := by simp [*]) (h_rcd : .rcd ∈ ps := by simp [*]) :
    s0.only ps (State.wakeComp s x1) := by
  unfold State.wakeComp
  repeat' first | with_reducible assumption | with_reducible apply State.askRecord_only | with_reducible apply only_ite
theorem State.wipeScratch_only {ps : List Piece} {s0 : State} (s : State) (h : s0.only ps s) (h_mem : .mem ∈ ps := by simp [*]) (h_poison : .poison ∈ ps := by simp [*]) :
    s0.only ps (State.wipeScratch s) := by
  unfold State.wipeScratch
  repeat' first | with_reducible assumption | simp only [only_mem_poison, h_mem, h_poison]
theorem State.wipeWindow_only {ps : List Piece} {s0 : State} (s : State) (h : s0.only ps s) (h_mem : .mem ∈ ps := by simp [*]) (h_poison : .poison ∈ ps := by simp [*]) :
    s0.only ps (State.wipeWindow s) := by
  unfold State.wipeWindow
  repeat' first | with_reducible assumption | simp only [only_mem_poison, h_mem, h_poison]
theorem State.copiedAmendment_only {ps : List Piece} {s0 : State} {s : State} {t : State} (e : (State.copiedAmendment s) = some t) (h : s0.only ps s) (h_reqs : .reqs ∈ ps := by simp [*]) (h_orphans : .orphans ∈ ps := by simp [*]) (h_trn : .trn ∈ ps := by simp [*]) (h_aon : .aon ∈ ps := by simp [*]) :
    s0.only ps t := by
  unfold State.copiedAmendment at e
  try dsimp only at e
  repeat' split at e
  all_goals try cases e; done
  all_goals first | contradiction | (simp only [Option.some.injEq] at e; subst e)
  all_goals
  repeat' first
    | with_reducible assumption | with_reducible apply State.dropReq_only
    | simp only [only_aon, h_reqs, h_orphans, h_trn, h_aon]
theorem State.copyAmendment_only {ps : List Piece} {s0 : State} (s : State) (h : s0.only ps s) (h_reqs : .reqs ∈ ps := by simp [*]) (h_nextId : .nextId ∈ ps := by simp [*]) (h_free : .free ∈ ps := by simp [*]) (h_ic : .ic ∈ ps := by simp [*]) (h_aon : .aon ∈ ps := by simp [*]) (h_err : .err ∈ ps := by simp [*]) :
    s0.only ps (State.copyAmendment s) := by
  unfold State.copyAmendment
  repeat' first
    | with_reducible assumption | with_reducible apply State.isolation_only | with_reducible apply State.useFree_only
    | with_reducible apply State.addPhys_only | simp only [only_aon, h_reqs, h_nextId, h_free, h_ic, h_aon, h_err]
    | with_reducible apply only_ite
theorem State.forget_only {ps : List Piece} {s0 : State} (s : State) (x1 : Nat) (x2 : Nat) (h : s0.only ps s) (h_reqs : .reqs ∈ ps := by simp [*]) (h_orphans : .orphans ∈ ps := by simp [*]) (h_trn : .trn ∈ ps := by simp [*]) (h_lka : .lka ∈ ps := by simp [*]) :
    s0.only ps (State.forget s x1 x2) := by
  unfold State.forget
  repeat' first
    | with_reducible assumption | with_reducible apply State.setTrn_only | with_reducible apply State.discardAll_only
    | split
theorem State.joinPool_only {ps : List Piece} {s0 : State} (s : State) (x1 : Nat) (x2 : Nat) (h : s0.only ps s) (h_plt : .plt ∈ ps := by simp [*]) (h_cmp : .cmp ∈ ps := by simp [*]) (h_seam : .seam ∈ ps := by simp [*]) :
    s0.only ps (State.joinPool s x1 x2) := by
  unfold State.joinPool
  repeat' first
    | with_reducible assumption | with_reducible apply State.modEng_only | with_reducible apply State.modComp_only
    | simp only [only_cmp, only_plt, only_seam, h_plt, h_cmp, h_seam] | split
theorem State.setGaps_only {ps : List Piece} {s0 : State} (s : State) (h : s0.only ps s) (h_obs : .obs ∈ ps := by simp [*]) :
    s0.only ps (State.setGaps s) := by
  unfold State.setGaps
  repeat' first | with_reducible assumption | simp only [only_obs, h_obs]
theorem State.resumeUnit_only {ps : List Piece} {s0 : State} (s : State) (x1 : Nat) (x2 : Nat) (h : s0.only ps s) (h_mem : .mem ∈ ps := by simp [*]) (h_poison : .poison ∈ ps := by simp [*]) (h_veil : .veil ∈ ps := by simp [*]) (h_reqs : .reqs ∈ ps := by simp [*]) (h_orphans : .orphans ∈ ps := by simp [*]) (h_free : .free ∈ ps := by simp [*]) (h_tileQ : .tileQ ∈ ps := by simp [*]) (h_out : .out ∈ ps := by simp [*]) (h_trn : .trn ∈ ps := by simp [*]) (h_lka : .lka ∈ ps := by simp [*]) (h_seam : .seam ∈ ps := by simp [*]) (h_tal : .tal ∈ ps := by simp [*]) (h_lin : .lin ∈ ps := by simp [*]) (h_host : .host ∈ ps := by simp [*]) (h_ic : .ic ∈ ps := by simp [*]) (h_prt : .prt ∈ ps := by simp [*]) (h_aon : .aon ∈ ps := by simp [*]) (h_obs : .obs ∈ ps := by simp [*]) :
    s0.only ps (State.resumeUnit s x1 x2) := by
  unfold State.resumeUnit
  repeat' first
    | with_reducible assumption | with_reducible apply State.moveHostAgent_only
    | with_reducible apply State.deliverAll_only | with_reducible apply State.setGaps_only | split
theorem State.startDrain_only {ps : List Piece} {s0 : State} (s : State) (x1 : Nat) (x2 : Nat) (h : s0.only ps s) (h_reqs : .reqs ∈ ps := by simp [*]) (h_orphans : .orphans ∈ ps := by simp [*]) (h_trn : .trn ∈ ps := by simp [*]) (h_plt : .plt ∈ ps := by simp [*]) (h_cmp : .cmp ∈ ps := by simp [*]) (h_lka : .lka ∈ ps := by simp [*]) (h_seam : .seam ∈ ps := by simp [*]) (h_aon : .aon ∈ ps := by simp [*]) :
    s0.only ps (State.startDrain s x1 x2) := by
  unfold State.startDrain
  repeat' first
    | with_reducible assumption | with_reducible apply State.wake_only | with_reducible apply State.leavePool_only
    | with_reducible apply State.setUnit_only
    | simp only [only_aon, h_reqs, h_orphans, h_trn, h_plt, h_cmp, h_lka, h_seam, h_aon] | with_reducible apply only_ite
theorem State.advanceCursor_only {ps : List Piece} {s0 : State} (s : State) (x1 : Who) (h : s0.only ps s) (h_rcd : .rcd ∈ ps := by simp [*]) :
    s0.only ps (State.advanceCursor s x1) := by
  unfold State.advanceCursor
  repeat' first | with_reducible assumption | simp only [only_rcd, h_rcd]
theorem State.capture_only {ps : List Piece} {s0 : State} (s : State) (x1 : Nat) (h : s0.only ps s) (h_rcd : .rcd ∈ ps := by simp [*]) :
    s0.only ps (State.capture s x1) := by
  unfold State.capture
  repeat' first | with_reducible assumption | simp only [only_rcd, h_rcd]
theorem State.clearHist_only {ps : List Piece} {s0 : State} (s : State) (x1 : Nat) (h : s0.only ps s) (h_rcd : .rcd ∈ ps := by simp [*]) :
    s0.only ps (State.clearHist s x1) := by
  unfold State.clearHist
  repeat' first | with_reducible assumption | with_reducible apply State.setSram_only | simp only [only_rcd, h_rcd]
theorem State.clearTracker_only {ps : List Piece} {s0 : State} (s : State) (x1 : Nat) (h : s0.only ps s) (h_rcd : .rcd ∈ ps := by simp [*]) :
    s0.only ps (State.clearTracker s x1) := by
  unfold State.clearTracker
  repeat' first | with_reducible assumption | with_reducible apply State.setSram_only
theorem State.recClear_only {ps : List Piece} {s0 : State} (s : State) (h : s0.only ps s) (h_rcd : .rcd ∈ ps := by simp [*]) :
    s0.only ps (State.recClear s) := by
  unfold State.recClear
  repeat' first
    | with_reducible assumption | with_reducible apply State.clearHist_only | with_reducible apply State.clearTracker_only
    | with_reducible apply State.setSram_only | simp only [only_rcd, h_rcd]
    | (with_reducible apply only_foldl; intro _ _ _; try dsimp only)
theorem State.setLatch_only {ps : List Piece} {s0 : State} (s : State) (x1 : Who) (x2 : Option W32) (h : s0.only ps s) (h_rcd : .rcd ∈ ps := by simp [*]) :
    s0.only ps (State.setLatch s x1 x2) := by
  unfold State.setLatch
  repeat' first | with_reducible assumption | simp only [only_rcd, h_rcd]
theorem State.recRead_only {ps : List Piece} {s0 : State} (s : State) (x1 : Who) (x2 : Half) (h : s0.only ps s) (h_rcd : .rcd ∈ ps := by simp [*]) :
    s0.only ps (State.recRead s x1 x2).2 := by
  unfold State.recRead
  repeat' first
    | with_reducible assumption | with_reducible apply State.advanceCursor_only | with_reducible apply State.setLatch_only
    | split
theorem State.recRead_eq {ps : List Piece} {s0 : State} {s : State} {x1 : Who} {x2 : Half} {y : Nat} {t : State} (e : (State.recRead s x1 x2) = (y, t)) (h : s0.only ps s) (h_rcd : .rcd ∈ ps := by simp [*]) :
    s0.only ps t := by
  have := State.recRead_only s x1 x2 h (ps := ps) (h_rcd := h_rcd)
  rw [e] at this; exact this
theorem State.sramPut_only {ps : List Piece} {s0 : State} (s : State) (x1 : Nat) (x2 : Bytes) (h : s0.only ps s) (h_rcd : .rcd ∈ ps := by simp [*]) :
    s0.only ps (State.sramPut s x1 x2) := by
  unfold State.sramPut
  repeat' first | with_reducible assumption | with_reducible apply State.clearHist_only | simp only [only_rcd, h_rcd] | split
theorem State.recWrite_only {ps : List Piece} {s0 : State} (s : State) (x1 : Who) (x2 : Half) (x3 : W64) (h : s0.only ps s) (h_rcd : .rcd ∈ ps := by simp [*]) :
    s0.only ps (State.recWrite s x1 x2 x3) := by
  unfold State.recWrite
  repeat' first
    | with_reducible assumption | with_reducible apply State.sramPut_only | with_reducible apply State.advanceCursor_only
    | with_reducible apply only_ite
theorem State.setMode_only {ps : List Piece} {s0 : State} (s : State) (x1 : Bool) (h : s0.only ps s) (h_rcd : .rcd ∈ ps := by simp [*]) :
    s0.only ps (State.setMode s x1) := by
  unfold State.setMode
  repeat' first | with_reducible assumption | with_reducible apply State.setSram_only | simp only [only_rcd, h_rcd]
theorem State.snapAll_only {ps : List Piece} {s0 : State} (s : State) (h : s0.only ps s) (h_rcd : .rcd ∈ ps := by simp [*]) :
    s0.only ps (State.snapAll s) := by
  unfold State.snapAll
  repeat' first
    | with_reducible assumption | with_reducible apply State.capture_only | with_reducible apply only_ite
    | (with_reducible apply only_foldl; intro _ _ _; try dsimp only)
theorem State.writeRecCtl_only {ps : List Piece} {s0 : State} (s : State) (x1 : W32) (h : s0.only ps s) (h_rcd : .rcd ∈ ps := by simp [*]) :
    s0.only ps (State.writeRecCtl s x1) := by
  unfold State.writeRecCtl
  repeat' first
    | with_reducible assumption | with_reducible apply State.setMode_only | with_reducible apply State.recClear_only
    | with_reducible apply State.snapAll_only | simp only [only_rcd, h_rcd] | with_reducible apply only_ite
theorem State.cfgQueue_only {ps : List Piece} {s0 : State} (s : State) (x1 : Who) (x2 : Queue → Queue) (h : s0.only ps s) (h_gal : .gal ∈ ps := by simp [*]) :
    s0.only ps (State.cfgQueue s x1 x2) := by
  unfold State.cfgQueue
  repeat' first | with_reducible assumption | with_reducible apply State.modQueue_only | split
theorem State.clearHalted_only {ps : List Piece} {s0 : State} (s : State) (x1 : Nat) (x2 : Nat) (x3 : Nat) (h : s0.only ps s) (h_gal : .gal ∈ ps := by simp [*]) :
    s0.only ps (State.clearHalted s x1 x2 x3) := by
  unfold State.clearHalted
  repeat' first | with_reducible assumption | simp only [only_gal, h_gal]
theorem State.countForeign_only {ps : List Piece} {s0 : State} (s : State) (x1 : Who) (x2 : Nat) (h : s0.only ps s) (h_ic : .ic ∈ ps := by simp [*]) (h_err : .err ∈ ps := by simp [*]) :
    s0.only ps (State.countForeign s x1 x2) := by
  unfold State.countForeign
  repeat' first | with_reducible assumption | with_reducible apply State.isolation_only | with_reducible apply only_ite
theorem State.dropHigh_only {ps : List Piece} {s0 : State} (s : State) (x1 : Who) (x2 : Nat) (h : s0.only ps s) (h_latch : .latch ∈ ps := by simp [*]) :
    s0.only ps (State.dropHigh s x1 x2) := by
  unfold State.dropHigh
  repeat' first | with_reducible assumption | simp only [only_latch, h_latch]
theorem State.holdHigh_only {ps : List Piece} {s0 : State} (s : State) (x1 : Who) (x2 : Nat) (x3 : W32) (h : s0.only ps s) (h_latch : .latch ∈ ps := by simp [*]) :
    s0.only ps (State.holdHigh s x1 x2 x3) := by
  unfold State.holdHigh
  repeat' first | with_reducible assumption | with_reducible apply State.dropHigh_only | simp only [only_latch, h_latch]
theorem State.rcClear_only {ps : List Piece} {s0 : State} (s : State) (x1 : Who) (x2 : RcReg) (h : s0.only ps s) (h_cmp : .cmp ∈ ps := by simp [*]) (h_lka : .lka ∈ ps := by simp [*]) (h_seam : .seam ∈ ps := by simp [*]) (h_lin : .lin ∈ ps := by simp [*]) (h_host : .host ∈ ps := by simp [*]) (h_err : .err ∈ ps := by simp [*]) (h_obs : .obs ∈ ps := by simp [*]) (h_rcd : .rcd ∈ ps := by simp [*]) :
    s0.only ps (State.rcClear s x1 x2) := by
  unfold State.rcClear
  repeat' first
    | with_reducible assumption | with_reducible apply State.setLin_only | with_reducible apply State.setWin_only
    | with_reducible apply State.setTrp_only
    | simp only [only_cmp, only_err, only_host, only_lka, only_rcd, h_cmp, h_lka, h_seam, h_lin, h_host, h_err, h_obs, h_rcd]
    | split
theorem State.readHalf_only {ps : List Piece} {s0 : State} (s : State) (x1 : Who) (x2 : Nat) (x3 : Half) (h : s0.only ps s) (h_latch : .latch ∈ ps := by simp [*]) (h_cmp : .cmp ∈ ps := by simp [*]) (h_lka : .lka ∈ ps := by simp [*]) (h_seam : .seam ∈ ps := by simp [*]) (h_lin : .lin ∈ ps := by simp [*]) (h_host : .host ∈ ps := by simp [*]) (h_err : .err ∈ ps := by simp [*]) (h_obs : .obs ∈ ps := by simp [*]) (h_rcd : .rcd ∈ ps := by simp [*]) :
    s0.only ps (State.readHalf s x1 x2 x3).2 := by
  unfold State.readHalf
  repeat' first
    | with_reducible assumption | with_reducible apply State.rcClear_only | with_reducible apply State.holdHigh_only
    | with_reducible apply State.dropHigh_only | split
theorem State.readHalf_eq {ps : List Piece} {s0 : State} {s : State} {x1 : Who} {x2 : Nat} {x3 : Half} {y : Nat} {t : State} (e : (State.readHalf s x1 x2 x3) = (y, t)) (h : s0.only ps s) (h_latch : .latch ∈ ps := by simp [*]) (h_cmp : .cmp ∈ ps := by simp [*]) (h_lka : .lka ∈ ps := by simp [*]) (h_seam : .seam ∈ ps := by simp [*]) (h_lin : .lin ∈ ps := by simp [*]) (h_host : .host ∈ ps := by simp [*]) (h_err : .err ∈ ps := by simp [*]) (h_obs : .obs ∈ ps := by simp [*]) (h_rcd : .rcd ∈ ps := by simp [*]) :
    s0.only ps t := by
  have := State.readHalf_only s x1 x2 x3 h (ps := ps) (h_latch := h_latch) (h_cmp := h_cmp) (h_lka := h_lka) (h_seam := h_seam) (h_lin := h_lin) (h_host := h_host) (h_err := h_err) (h_obs := h_obs) (h_rcd := h_rcd)
  rw [e] at this; exact this
theorem State.readReg_only {ps : List Piece} {s0 : State} (s : State) (x1 : Who) (x2 : Nat) (x3 : Half) (h : s0.only ps s) (h_out : .out ∈ ps := by simp [*]) (h_latch : .latch ∈ ps := by simp [*]) (h_cmp : .cmp ∈ ps := by simp [*]) (h_lka : .lka ∈ ps := by simp [*]) (h_seam : .seam ∈ ps := by simp [*]) (h_lin : .lin ∈ ps := by simp [*]) (h_host : .host ∈ ps := by simp [*]) (h_ic : .ic ∈ ps := by simp [*]) (h_err : .err ∈ ps := by simp [*]) (h_obs : .obs ∈ ps := by simp [*]) (h_rcd : .rcd ∈ ps := by simp [*]) :
    s0.only ps (State.readReg s x1 x2 x3).2 := by
  unfold State.readReg
  repeat' first
    | with_reducible assumption | with_reducible apply State.claim_only
    | with_reducible refine State.claim_eq (by assumption) ?_ | with_reducible apply State.skentRead_only
    | with_reducible refine State.skentRead_eq (by assumption) ?_ | with_reducible apply State.readHalf_only
    | with_reducible refine State.readHalf_eq (by assumption) ?_ | with_reducible apply State.recRead_only
    | with_reducible refine State.recRead_eq (by assumption) ?_ | with_reducible apply State.countForeign_only | split
theorem State.readReg_eq {ps : List Piece} {s0 : State} {s : State} {x1 : Who} {x2 : Nat} {x3 : Half} {y : Nat} {t : State} (e : (State.readReg s x1 x2 x3) = (y, t)) (h : s0.only ps s) (h_out : .out ∈ ps := by simp [*]) (h_latch : .latch ∈ ps := by simp [*]) (h_cmp : .cmp ∈ ps := by simp [*]) (h_lka : .lka ∈ ps := by simp [*]) (h_seam : .seam ∈ ps := by simp [*]) (h_lin : .lin ∈ ps := by simp [*]) (h_host : .host ∈ ps := by simp [*]) (h_ic : .ic ∈ ps := by simp [*]) (h_err : .err ∈ ps := by simp [*]) (h_obs : .obs ∈ ps := by simp [*]) (h_rcd : .rcd ∈ ps := by simp [*]) :
    s0.only ps t := by
  have := State.readReg_only s x1 x2 x3 h (ps := ps) (h_out := h_out) (h_latch := h_latch) (h_cmp := h_cmp) (h_lka := h_lka) (h_seam := h_seam) (h_lin := h_lin) (h_host := h_host) (h_ic := h_ic) (h_err := h_err) (h_obs := h_obs) (h_rcd := h_rcd)
  rw [e] at this; exact this
theorem State.readWord_only {ps : List Piece} {s0 s : State} {w : Who} {o : Nat} {x : Nat × State}
    (e : s.readWord w o = some x) (h : s0.only ps s) (h_out : .out ∈ ps := by simp [*]) (h_latch : .latch ∈ ps := by simp [*]) (h_cmp : .cmp ∈ ps := by simp [*]) (h_lka : .lka ∈ ps := by simp [*]) (h_seam : .seam ∈ ps := by simp [*]) (h_lin : .lin ∈ ps := by simp [*]) (h_host : .host ∈ ps := by simp [*]) (h_ic : .ic ∈ ps := by simp [*]) (h_err : .err ∈ ps := by simp [*]) (h_obs : .obs ∈ ps := by simp [*]) (h_rcd : .rcd ∈ ps := by simp [*]) : s0.only ps x.2 := by
  unfold State.readWord at e
  split at e
  · cases e; exact State.readReg_only _ _ _ _ h
  · split at e
    · cases e; exact State.readReg_only _ _ _ _ h
    · cases e
theorem State.readPair_only {ps : List Piece} {s0 : State} (s : State) (x1 : Who) (x2 : Nat) (h : s0.only ps s) (h_out : .out ∈ ps := by simp [*]) (h_latch : .latch ∈ ps := by simp [*]) (h_cmp : .cmp ∈ ps := by simp [*]) (h_lka : .lka ∈ ps := by simp [*]) (h_seam : .seam ∈ ps := by simp [*]) (h_lin : .lin ∈ ps := by simp [*]) (h_host : .host ∈ ps := by simp [*]) (h_ic : .ic ∈ ps := by simp [*]) (h_err : .err ∈ ps := by simp [*]) (h_obs : .obs ∈ ps := by simp [*]) (h_rcd : .rcd ∈ ps := by simp [*]) :
    s0.only ps (State.readPair s x1 x2).2 := by
  unfold State.readPair
  split
  · rename_i x e
    have h1 := State.readWord_only e h
    split
    · rename_i y e2; exact State.readWord_only (x := y) e2 h1
    · exact h1
  · split
    · rename_i y e2; exact State.readWord_only (x := y) e2 h
    · exact State.badAccess_only _ h
theorem State.readPair_eq {ps : List Piece} {s0 : State} {s : State} {x1 : Who} {x2 : Nat} {y : Nat} {t : State} (e : (State.readPair s x1 x2) = (y, t)) (h : s0.only ps s) (h_out : .out ∈ ps := by simp [*]) (h_latch : .latch ∈ ps := by simp [*]) (h_cmp : .cmp ∈ ps := by simp [*]) (h_lka : .lka ∈ ps := by simp [*]) (h_seam : .seam ∈ ps := by simp [*]) (h_lin : .lin ∈ ps := by simp [*]) (h_host : .host ∈ ps := by simp [*]) (h_ic : .ic ∈ ps := by simp [*]) (h_err : .err ∈ ps := by simp [*]) (h_obs : .obs ∈ ps := by simp [*]) (h_rcd : .rcd ∈ ps := by simp [*]) :
    s0.only ps t := by
  have := State.readPair_only s x1 x2 h (ps := ps) (h_out := h_out) (h_latch := h_latch) (h_cmp := h_cmp) (h_lka := h_lka) (h_seam := h_seam) (h_lin := h_lin) (h_host := h_host) (h_ic := h_ic) (h_err := h_err) (h_obs := h_obs) (h_rcd := h_rcd)
  rw [e] at this; exact this
theorem State.readAt_only {ps : List Piece} {s0 : State} (s : State) (x1 : Who) (x2 : Nat) (x3 : Nat) (h : s0.only ps s) (h_out : .out ∈ ps := by simp [*]) (h_latch : .latch ∈ ps := by simp [*]) (h_cmp : .cmp ∈ ps := by simp [*]) (h_lka : .lka ∈ ps := by simp [*]) (h_seam : .seam ∈ ps := by simp [*]) (h_lin : .lin ∈ ps := by simp [*]) (h_host : .host ∈ ps := by simp [*]) (h_ic : .ic ∈ ps := by simp [*]) (h_err : .err ∈ ps := by simp [*]) (h_obs : .obs ∈ ps := by simp [*]) (h_rcd : .rcd ∈ ps := by simp [*]) :
    s0.only ps (State.readAt s x1 x2 x3).2 := by
  unfold State.readAt
  split
  · cases e : s.readWord x1 x2 with
    | none => exact State.badAccess_only _ h
    | some x => exact State.readWord_only e h
  · repeat' first | with_reducible assumption | with_reducible apply State.readReg_only | with_reducible apply State.readPair_only | with_reducible apply State.badAccess_only | split
theorem State.readAt_eq {ps : List Piece} {s0 : State} {s : State} {x1 : Who} {x2 : Nat} {x3 : Nat} {y : Nat} {t : State} (e : (State.readAt s x1 x2 x3) = (y, t)) (h : s0.only ps s) (h_out : .out ∈ ps := by simp [*]) (h_latch : .latch ∈ ps := by simp [*]) (h_cmp : .cmp ∈ ps := by simp [*]) (h_lka : .lka ∈ ps := by simp [*]) (h_seam : .seam ∈ ps := by simp [*]) (h_lin : .lin ∈ ps := by simp [*]) (h_host : .host ∈ ps := by simp [*]) (h_ic : .ic ∈ ps := by simp [*]) (h_err : .err ∈ ps := by simp [*]) (h_obs : .obs ∈ ps := by simp [*]) (h_rcd : .rcd ∈ ps := by simp [*]) :
    s0.only ps t := by
  have := State.readAt_only s x1 x2 x3 h (ps := ps) (h_out := h_out) (h_latch := h_latch) (h_cmp := h_cmp) (h_lka := h_lka) (h_seam := h_seam) (h_lin := h_lin) (h_host := h_host) (h_ic := h_ic) (h_err := h_err) (h_obs := h_obs) (h_rcd := h_rcd)
  rw [e] at this; exact this
theorem State.readView_only {ps : List Piece} {s0 : State} (s : State) (x1 : Who) (x2 : Nat) (x3 : Nat) (h : s0.only ps s) (h_out : .out ∈ ps := by simp [*]) (h_latch : .latch ∈ ps := by simp [*]) (h_cmp : .cmp ∈ ps := by simp [*]) (h_lka : .lka ∈ ps := by simp [*]) (h_seam : .seam ∈ ps := by simp [*]) (h_lin : .lin ∈ ps := by simp [*]) (h_host : .host ∈ ps := by simp [*]) (h_ic : .ic ∈ ps := by simp [*]) (h_err : .err ∈ ps := by simp [*]) (h_obs : .obs ∈ ps := by simp [*]) (h_rcd : .rcd ∈ ps := by simp [*]) :
    s0.only ps (State.readView s x1 x2 x3) := by
  unfold State.readView
  repeat' first
    | with_reducible assumption | with_reducible apply State.fenceRead_only | with_reducible apply State.readAt_only
    | with_reducible refine State.readAt_eq (by assumption) ?_ | with_reducible apply State.badAccess_only
    | with_reducible apply answerRead_only | split
theorem State.stage_only {ps : List Piece} {s0 : State} (s : State) (x1 : Win → Win) (h : s0.only ps s) (h_seam : .seam ∈ ps := by simp [*]) :
    s0.only ps (State.stage s x1) := by
  unfold State.stage
  repeat' first | with_reducible assumption | with_reducible apply State.setWin_only | with_reducible apply only_ite
theorem State.writeErrCfg_only {ps : List Piece} {s0 : State} (s : State) (x1 : Nat) (x2 : Nat) (h : s0.only ps s) (h_ic : .ic ∈ ps := by simp [*]) (h_err : .err ∈ ps := by simp [*]) :
    s0.only ps (State.writeErrCfg s x1 x2) := by
  unfold State.writeErrCfg
  repeat' first
    | with_reducible assumption | with_reducible apply State.updFerr_only | with_reducible apply State.relevel_only
    | simp only [only_err, h_ic, h_err] | with_reducible apply only_ite
theorem State.writeGalSel_only {ps : List Piece} {s0 : State} (s : State) (x1 : Who) (x2 : Nat) (h : s0.only ps s) (h_gal : .gal ∈ ps := by simp [*]) :
    s0.only ps (State.writeGalSel s x1 x2) := by
  unfold State.writeGalSel
  repeat' first | with_reducible assumption | simp only [only_gal, h_gal]
theorem State.writePmode_only {ps : List Piece} {s0 : State} (s : State) (x1 : Nat) (x2 : Nat) (h : s0.only ps s) (h_trn : .trn ∈ ps := by simp [*]) :
    s0.only ps (State.writePmode s x1 x2) := by
  unfold State.writePmode
  repeat' first | with_reducible assumption | with_reducible apply State.setTrn_only | with_reducible apply only_ite
theorem State.writeSkcfg_only {ps : List Piece} {s0 : State} (s : State) (x1 : Who) (x2 : Nat) (x3 : Nat) (h : s0.only ps s) (h_cmp : .cmp ∈ ps := by simp [*]) :
    s0.only ps (State.writeSkcfg s x1 x2 x3) := by
  unfold State.writeSkcfg
  repeat' first | with_reducible assumption | simp only [only_cmp, h_cmp] | with_reducible apply only_ite
theorem State.countBusy_only {ps : List Piece} {s0 : State} (s : State) (h : s0.only ps s) (h_obs : .obs ∈ ps := by simp [*]) :
    s0.only ps (State.countBusy s) := by
  unfold State.countBusy
  repeat' first
    | with_reducible assumption | with_reducible apply State.pcntAdd_only
    | (with_reducible apply only_foldl; intro _ _ _; try dsimp only)
theorem State.countTime_only {ps : List Piece} {s0 : State} (s : State) (h : s0.only ps s) (h_obs : .obs ∈ ps := by simp [*]) :
    s0.only ps (State.countTime s) := by
  unfold State.countTime
  repeat' first | with_reducible assumption | simp only [only_obs, h_obs] | with_reducible apply only_ite
theorem State.rejoinTick_only {ps : List Piece} {s0 : State} (s : State) (h : s0.only ps s) (h_aon : .aon ∈ ps := by simp [*]) :
    s0.only ps (State.rejoinTick s) := by
  unfold State.rejoinTick
  repeat' first | with_reducible assumption | simp only [only_aon, h_aon]
theorem State.sense_only {ps : List Piece} {s0 : State} (s : State) (h : s0.only ps s) (h_free : .free ∈ ps := by simp [*]) (h_obs : .obs ∈ ps := by simp [*]) :
    s0.only ps (State.sense s) := by
  unfold State.sense
  repeat' first | with_reducible assumption | simp only [only_free_obs, h_free, h_obs] | with_reducible apply only_ite
theorem State.tick_only {ps : List Piece} {s0 : State} (s : State) (h : s0.only ps s) (h_free : .free ∈ ps := by simp [*]) (h_aon : .aon ∈ ps := by simp [*]) (h_obs : .obs ∈ ps := by simp [*]) :
    s0.only ps (State.tick s) := by
  unfold State.tick
  repeat' first
    | with_reducible assumption | with_reducible apply State.rejoinTick_only | with_reducible apply State.sense_only
    | with_reducible apply State.countBusy_only | with_reducible apply State.countTime_only
    | simp only [only_obs, h_free, h_aon, h_obs] | with_reducible apply only_ite
theorem State.onEmpty_only {ps : List Piece} {s0 : State} (s : State) (h : s0.only ps s) (h_pending : .pending ∈ ps := by simp [*]) (h_held : .held ∈ ps := by simp [*]) (h_free : .free ∈ ps := by simp [*]) (h_aon : .aon ∈ ps := by simp [*]) (h_obs : .obs ∈ ps := by simp [*]) :
    s0.only ps (State.onEmpty s) := by
  unfold State.onEmpty
  repeat' first
    | with_reducible assumption | with_reducible apply State.requeue_only | with_reducible apply State.tick_only
    | with_reducible apply only_ite

end Sys2Proof.Machine
end

