-- ==== Sys2Proof/Laws/Frames.lean ====
section
/-! SUPPORT. The frame of each meaning: which pieces of State a next state of it can differ in. -/

set_option linter.unusedSimpArgs false
set_option Elab.async false

namespace Sys2Proof.Machine

open Sys2Proof

/-- A next state of `a` differs from `s` in pieces of `ps` only. -/
structure Frame (ps : List Piece) (s : State) (a : Ans) : Prop where
  go : ∀ t, a = .next t → s.only ps t
theorem frame_next {ps : List Piece} {s t : State} (h : s.only ps t) : Frame ps s (.next t) := ⟨fun _ e => by cases e; exact h⟩
theorem frame_ite {ps : List Piece} {s : State} (c : Prop) [Decidable c] {a b : Ans} (ha : Frame ps s a) (hb : Frame ps s b) :
    Frame ps s (if c then a else b) := by split <;> assumption
theorem inUnit_frame {ps : List Piece} {s0 : State} (c i : Nat) (s : State) (k : State → Ans) (h : s0.only ps s) (hk : ∀ s, s0.only ps s → Frame ps s0 (k s)) :
    Frame ps s0 (inUnit c i s k) := by
  exact frame_ite _ (hk _ h) (frame_next h)
theorem inPort_frame {ps : List Piece} {s0 : State} (p : Nat) (s : State) (k : State → Ans) (h : s0.only ps s) (hk : ∀ s, s0.only ps s → Frame ps s0 (k s)) :
    Frame ps s0 (inPort p s k) := by
  exact frame_ite _ (hk _ h) (frame_next h)
theorem delivered_frame {ps : List Piece} {s0 : State} (c : Instr) (s : State) (k : State → Ans) (h : s0.only ps s) (hk : ∀ s, s0.only ps s → Frame ps s0 (k s)) (h_held : .held ∈ ps := by simp [*]) (h_aon : .aon ∈ ps := by simp [*]) :
    Frame ps s0 (delivered c s k) := by
  exact frame_ite _ (hk _ h) (frame_next (State.hold_only _ _ h))
theorem fromCore_frame {ps : List Piece} {s0 : State} (c : Fin 8) (s : State) (k : State → Ans) (h : s0.only ps s) (hk : ∀ s, s0.only ps s → Frame ps s0 (k s)) (h_out : .out ∈ ps := by simp [*]) :
    Frame ps s0 (fromCore c s k) := by
  exact frame_ite _ (frame_next (State.emit_only _ _ h)) (hk _ h)
theorem heard_frame {ps : List Piece} {s0 : State} (w : Who) (s : State) (k : State → Ans) (h : s0.only ps s) (hk : ∀ s, s0.only ps s → Frame ps s0 (k s)) (h_out : .out ∈ ps := by simp [*]) (h_ic : .ic ∈ ps := by simp [*]) (h_err : .err ∈ ps := by simp [*]) :
    Frame ps s0 (heard w s k) := by
  cases w with
  | core c => exact fromCore_frame _ _ _ h hk
  | fn p => exact frame_ite _ (hk _ h) (frame_ite _ (frame_next (State.badAccess_only _ h)) (frame_next h))
theorem heardRead_frame {ps : List Piece} {s0 : State} (w : Who) (s : State) (k : State → Ans) (h : s0.only ps s) (hk : ∀ s, s0.only ps s → Frame ps s0 (k s)) (h_out : .out ∈ ps := by simp [*]) (h_ic : .ic ∈ ps := by simp [*]) (h_err : .err ∈ ps := by simp [*]) :
    Frame ps s0 (heardRead w s k) := by
  cases w with
  | core c => exact fromCore_frame _ _ _ h hk
  | fn p => exact frame_ite _ (hk _ h) (frame_ite _ (frame_next (State.emit_only _ _ (State.badAccess_only _ h))) (frame_ite _ (frame_next (State.emit_only _ _ h)) (frame_next h)))
theorem heardAon_frame {ps : List Piece} {s0 : State} (w : Who) (s : State) (k : State → Ans) (h : s0.only ps s) (hk : ∀ s, s0.only ps s → Frame ps s0 (k s)) (h_out : .out ∈ ps := by simp [*]) :
    Frame ps s0 (heardAon w s k) := by
  cases w with
  | core c => exact fromCore_frame _ _ _ h hk
  | fn p => exact frame_ite _ (hk _ h) (frame_next h)
theorem heardAonRead_frame {ps : List Piece} {s0 : State} (w : Who) (s : State) (k : State → Ans) (h : s0.only ps s) (hk : ∀ s, s0.only ps s → Frame ps s0 (k s)) (h_out : .out ∈ ps := by simp [*]) (h_ic : .ic ∈ ps := by simp [*]) (h_err : .err ∈ ps := by simp [*]) :
    Frame ps s0 (heardAonRead w s k) := by
  cases w with
  | core c => exact fromCore_frame _ _ _ h hk
  | fn p => exact frame_ite _ (hk _ h) (heardRead_frame _ _ _ h hk)
theorem gated_frame {ps : List Piece} {s0 : State} (d : Nat) (s : State) (k : State → Ans) (h : s0.only ps s) (hk : ∀ s, s0.only ps s → Frame ps s0 (k s)) (h_aon : .aon ∈ ps := by simp [*]) :
    Frame ps s0 (gated d s k) := by
  unfold gated; split
  · exact hk _ h
  · exact frame_next h
  · exact frame_next (State.wake_only _ _ h)
theorem galley_frame {ps : List Piece} {s0 : State} (s : State) (k : State → Ans) (h : s0.only ps s) (hk : ∀ s, s0.only ps s → Frame ps s0 (k s)) (h_aon : .aon ∈ ps := by simp [*]) :
    Frame ps s0 (galley s k) := by
  exact inUnit_frame _ _ _ _ h fun s h => gated_frame _ _ _ h hk
theorem atCommit_frame {ps : List Piece} {s0 : State} (q op : Nat) (s : State) (k : State → Bytes → State) (h : s0.only ps s)
    (hk : ∀ s b, s0.only ps s → s0.only ps (k s b)) (h_reqs : .reqs ∈ ps := by simp [*]) (h_orphans : .orphans ∈ ps := by simp [*]) (h_gal : .gal ∈ ps := by simp [*]) (h_trn : .trn ∈ ps := by simp [*]) (h_flt : .flt ∈ ps := by simp [*]) (h_lka : .lka ∈ ps := by simp [*]) (h_aon : .aon ∈ ps := by simp [*]) (h_obs : .obs ∈ ps := by simp [*]) (h_rcd : .rcd ∈ ps := by simp [*]) : Frame ps s0 (atCommit q op s k) := by
  refine galley_frame _ _ h fun s h => ?_
  dsimp only
  split
  · exact frame_next h
  · split
    · exact frame_next (State.makeWait_only _ _ _ h)
    · exact frame_next (only_ite _ (State.commitEnd_only _ _ _ h) (hk _ _ h))
theorem onQueue_frame {ps : List Piece} {s0 : State} (c : Instr) (w : Who) (s : State) (k : State → Nat → State) (h : s0.only ps s)
    (hk : ∀ s q, s0.only ps s → s0.only ps (k s q)) (h_held : .held ∈ ps := by simp [*]) (h_out : .out ∈ ps := by simp [*]) (h_ic : .ic ∈ ps := by simp [*]) (h_aon : .aon ∈ ps := by simp [*]) (h_err : .err ∈ ps := by simp [*]) : Frame ps s0 (onQueue c w s k) := by
  refine delivered_frame _ _ _ h fun s h => heard_frame _ _ _ h fun s h => ?_
  split
  · exact frame_next h
  · exact frame_next (hk _ _ h)
theorem onEng_frame {ps : List Piece} {s0 : State} (c : Instr) (w : Who) (s : State) (k : State → Nat → State) (h : s0.only ps s)
    (hk : ∀ s e, s0.only ps s → s0.only ps (k s e)) (h_held : .held ∈ ps := by simp [*]) (h_out : .out ∈ ps := by simp [*]) (h_ic : .ic ∈ ps := by simp [*]) (h_aon : .aon ∈ ps := by simp [*]) (h_err : .err ∈ ps := by simp [*]) : Frame ps s0 (onEng c w s k) := by
  refine delivered_frame _ _ _ h fun s h => heard_frame _ _ _ h fun s h => ?_
  split
  · exact frame_next h
  · exact frame_ite _ (frame_next (hk _ _ h)) (frame_next h)
theorem execClaim_frame {ps : List Piece} {s0 : State} (x0 : Who) (x1 : BankId) (s : State) (h : s0.only ps s) (h_held : .held ∈ ps := by simp [*]) (h_out : .out ∈ ps := by simp [*]) (h_ic : .ic ∈ ps := by simp [*]) (h_aon : .aon ∈ ps := by simp [*]) (h_err : .err ∈ ps := by simp [*]) (h_rcd : .rcd ∈ ps := by simp [*]) :
    Frame ps s0 (execClaim x0 x1 s) := by
  unfold execClaim
  repeat' first
    | with_reducible assumption | with_reducible refine delivered_frame _ _ _ ?_ (fun _ _ => ?_)
    | with_reducible refine heardRead_frame _ _ _ ?_ (fun _ _ => ?_) | with_reducible apply frame_next
    | with_reducible apply frame_ite | with_reducible apply State.claim_only
    | with_reducible refine State.claim_eq (by assumption) ?_ | with_reducible apply answerRead_only
theorem execCoalesceTime_frame {ps : List Piece} {s0 : State} (x0 : BankId) (s : State) (h : s0.only ps s) (h_out : .out ∈ ps := by simp [*]) (h_host : .host ∈ ps := by simp [*]) (h_ic : .ic ∈ ps := by simp [*]) (h_prt : .prt ∈ ps := by simp [*]) (h_aon : .aon ∈ ps := by simp [*]) (h_obs : .obs ∈ ps := by simp [*]) :
    Frame ps s0 (execCoalesceTime x0 s) := by
  unfold execCoalesceTime
  repeat' first
    | with_reducible assumption | with_reducible apply frame_next | with_reducible apply frame_ite
    | with_reducible apply State.tryDeliver_only | with_reducible apply State.setBank_only
theorem execGctlWrite_frame {ps : List Piece} {s0 : State} (x0 : Who) (x1 : W32) (s : State) (h : s0.only ps s) (h_held : .held ∈ ps := by simp [*]) (h_out : .out ∈ ps := by simp [*]) (h_host : .host ∈ ps := by simp [*]) (h_ic : .ic ∈ ps := by simp [*]) (h_prt : .prt ∈ ps := by simp [*]) (h_aon : .aon ∈ ps := by simp [*]) (h_err : .err ∈ ps := by simp [*]) (h_obs : .obs ∈ ps := by simp [*]) :
    Frame ps s0 (execGctlWrite x0 x1 s) := by
  unfold execGctlWrite
  repeat' first
    | with_reducible assumption | with_reducible refine delivered_frame _ _ _ ?_ (fun _ _ => ?_)
    | with_reducible refine heard_frame _ _ _ ?_ (fun _ _ => ?_) | with_reducible apply frame_next
    | with_reducible apply frame_ite | with_reducible apply State.deliverAll_only
    | simp only [only_ic, h_held, h_out, h_host, h_ic, h_prt, h_aon, h_err, h_obs] | split
theorem execMsixHeldSend_frame {ps : List Piece} {s0 : State} (x0 : Fin 16) (x1 : Fin 128) (s : State) (h : s0.only ps s) (h_out : .out ∈ ps := by simp [*]) (h_host : .host ∈ ps := by simp [*]) (h_prt : .prt ∈ ps := by simp [*]) (h_obs : .obs ∈ ps := by simp [*]) :
    Frame ps s0 (execMsixHeldSend x0 x1 s) := by
  unfold execMsixHeldSend
  repeat' first
    | with_reducible assumption | with_reducible apply frame_next | with_reducible apply frame_ite
    | with_reducible apply State.emitMsix_only | with_reducible apply State.setFn_only
theorem execPendClear_frame {ps : List Piece} {s0 : State} (x0 : Who) (x1 : Fin 64) (x2 : W32) (s : State) (h : s0.only ps s) (h_held : .held ∈ ps := by simp [*]) (h_out : .out ∈ ps := by simp [*]) (h_ic : .ic ∈ ps := by simp [*]) (h_aon : .aon ∈ ps := by simp [*]) (h_err : .err ∈ ps := by simp [*]) :
    Frame ps s0 (execPendClear x0 x1 x2 s) := by
  unfold execPendClear
  repeat' first
    | with_reducible assumption | with_reducible refine delivered_frame _ _ _ ?_ (fun _ _ => ?_)
    | with_reducible refine heard_frame _ _ _ ?_ (fun _ _ => ?_) | with_reducible apply frame_next
    | with_reducible apply frame_ite | with_reducible apply State.withdraw_only
    | (with_reducible apply only_foldl; intro _ _ _; try dsimp only) | split
theorem execSourceComplete_frame {ps : List Piece} {s0 : State} (x0 : Who) (x1 : BankId) (x2 : BitVec 11) (s : State) (h : s0.only ps s) (h_held : .held ∈ ps := by simp [*]) (h_out : .out ∈ ps := by simp [*]) (h_host : .host ∈ ps := by simp [*]) (h_ic : .ic ∈ ps := by simp [*]) (h_prt : .prt ∈ ps := by simp [*]) (h_aon : .aon ∈ ps := by simp [*]) (h_err : .err ∈ ps := by simp [*]) (h_obs : .obs ∈ ps := by simp [*]) :
    Frame ps s0 (execSourceComplete x0 x1 x2 s) := by
  unfold execSourceComplete
  repeat' first
    | with_reducible assumption | with_reducible refine delivered_frame _ _ _ ?_ (fun _ _ => ?_)
    | with_reducible refine heard_frame _ _ _ ?_ (fun _ _ => ?_) | with_reducible apply frame_next
    | with_reducible apply frame_ite | with_reducible apply State.setSrc_only | with_reducible apply State.countEdge_only
    | split
theorem execSourceEdge_frame {ps : List Piece} {s0 : State} (x0 : Fin 2048) (s : State) (h : s0.only ps s) (h_held : .held ∈ ps := by simp [*]) (h_out : .out ∈ ps := by simp [*]) (h_host : .host ∈ ps := by simp [*]) (h_ic : .ic ∈ ps := by simp [*]) (h_prt : .prt ∈ ps := by simp [*]) (h_aon : .aon ∈ ps := by simp [*]) (h_obs : .obs ∈ ps := by simp [*]) :
    Frame ps s0 (execSourceEdge x0 s) := by
  unfold execSourceEdge
  repeat' first
    | with_reducible assumption | with_reducible refine delivered_frame _ _ _ ?_ (fun _ _ => ?_)
    | with_reducible apply frame_next | with_reducible apply frame_ite | with_reducible apply State.latchEdge_only
    | simp only [only_ic, h_held, h_out, h_host, h_ic, h_prt, h_aon, h_obs]
theorem execSourceLineFall_frame {ps : List Piece} {s0 : State} (x0 : Fin 2048) (s : State) (h : s0.only ps s) (h_held : .held ∈ ps := by simp [*]) (h_ic : .ic ∈ ps := by simp [*]) (h_aon : .aon ∈ ps := by simp [*]) :
    Frame ps s0 (execSourceLineFall x0 s) := by
  unfold execSourceLineFall
  repeat' first
    | with_reducible assumption | with_reducible refine delivered_frame _ _ _ ?_ (fun _ _ => ?_)
    | with_reducible apply frame_next | with_reducible apply frame_ite | with_reducible apply State.withdraw_only
theorem execSysevClear_frame {ps : List Piece} {s0 : State} (x0 : Who) (x1 : W32) (s : State) (h : s0.only ps s) (h_held : .held ∈ ps := by simp [*]) (h_out : .out ∈ ps := by simp [*]) (h_ic : .ic ∈ ps := by simp [*]) (h_aon : .aon ∈ ps := by simp [*]) (h_err : .err ∈ ps := by simp [*]) :
    Frame ps s0 (execSysevClear x0 x1 s) := by
  unfold execSysevClear
  repeat' first
    | with_reducible assumption | with_reducible refine delivered_frame _ _ _ ?_ (fun _ _ => ?_)
    | with_reducible refine heard_frame _ _ _ ?_ (fun _ _ => ?_) | with_reducible apply frame_next
    | with_reducible apply frame_ite | simp only [only_ic, h_held, h_out, h_ic, h_aon, h_err]
theorem execTgtWrite_frame {ps : List Piece} {s0 : State} (x0 : Who) (x1 : Fin 2048) (x2 : W32) (s : State) (h : s0.only ps s) (h_held : .held ∈ ps := by simp [*]) (h_out : .out ∈ ps := by simp [*]) (h_host : .host ∈ ps := by simp [*]) (h_ic : .ic ∈ ps := by simp [*]) (h_prt : .prt ∈ ps := by simp [*]) (h_aon : .aon ∈ ps := by simp [*]) (h_err : .err ∈ ps := by simp [*]) (h_obs : .obs ∈ ps := by simp [*]) :
    Frame ps s0 (execTgtWrite x0 x1 x2 s) := by
  unfold execTgtWrite
  repeat' first
    | with_reducible assumption | with_reducible refine delivered_frame _ _ _ ?_ (fun _ _ => ?_)
    | with_reducible refine heard_frame _ _ _ ?_ (fun _ _ => ?_) | with_reducible apply frame_next
    | with_reducible apply frame_ite | with_reducible apply State.isolation_only | with_reducible apply State.setSrc_only
    | with_reducible apply State.countEdge_only
    | simp only [only_ic, h_held, h_out, h_host, h_ic, h_prt, h_aon, h_err, h_obs] | split
theorem execTalCountWrite_frame {ps : List Piece} {s0 : State} (x0 : Who) (x1 : BitVec 16) (x2 : W64) (s : State) (h : s0.only ps s) (h_held : .held ∈ ps := by simp [*]) (h_tileQ : .tileQ ∈ ps := by simp [*]) (h_out : .out ∈ ps := by simp [*]) (h_tal : .tal ∈ ps := by simp [*]) (h_ic : .ic ∈ ps := by simp [*]) (h_aon : .aon ∈ ps := by simp [*]) (h_err : .err ∈ ps := by simp [*]) (h_obs : .obs ∈ ps := by simp [*]) :
    Frame ps s0 (execTalCountWrite x0 x1 x2 s) := by
  unfold execTalCountWrite
  repeat' first
    | with_reducible assumption | with_reducible refine delivered_frame _ _ _ ?_ (fun _ _ => ?_)
    | with_reducible refine heard_frame _ _ _ ?_ (fun _ _ => ?_) | with_reducible apply frame_next
    | with_reducible apply frame_ite | with_reducible apply State.putTally_only | with_reducible apply State.isolation_only
theorem execTalThrWrite_frame {ps : List Piece} {s0 : State} (x0 : Who) (x1 : BitVec 16) (x2 : W64) (s : State) (h : s0.only ps s) (h_held : .held ∈ ps := by simp [*]) (h_tileQ : .tileQ ∈ ps := by simp [*]) (h_out : .out ∈ ps := by simp [*]) (h_tal : .tal ∈ ps := by simp [*]) (h_ic : .ic ∈ ps := by simp [*]) (h_aon : .aon ∈ ps := by simp [*]) (h_err : .err ∈ ps := by simp [*]) (h_obs : .obs ∈ ps := by simp [*]) :
    Frame ps s0 (execTalThrWrite x0 x1 x2 s) := by
  unfold execTalThrWrite
  repeat' first
    | with_reducible assumption | with_reducible refine delivered_frame _ _ _ ?_ (fun _ _ => ?_)
    | with_reducible refine heard_frame _ _ _ ?_ (fun _ _ => ?_) | with_reducible apply frame_next
    | with_reducible apply frame_ite | with_reducible apply State.putTally_only | with_reducible apply State.isolation_only
theorem execTownAssign_frame {ps : List Piece} {s0 : State} (x0 : Who) (x1 : Fin 16) (x2 : BitVec 16) (s : State) (h : s0.only ps s) (h_held : .held ∈ ps := by simp [*]) (h_out : .out ∈ ps := by simp [*]) (h_seam : .seam ∈ ps := by simp [*]) (h_tal : .tal ∈ ps := by simp [*]) (h_ic : .ic ∈ ps := by simp [*]) (h_aon : .aon ∈ ps := by simp [*]) (h_err : .err ∈ ps := by simp [*]) :
    Frame ps s0 (execTownAssign x0 x1 x2 s) := by
  unfold execTownAssign
  repeat' first
    | with_reducible assumption | with_reducible refine delivered_frame _ _ _ ?_ (fun _ _ => ?_)
    | with_reducible refine heard_frame _ _ _ ?_ (fun _ _ => ?_) | with_reducible apply frame_next
    | with_reducible apply frame_ite | with_reducible apply State.townRefuse_only
    | with_reducible apply State.setTally_only
theorem execTownRelease_frame {ps : List Piece} {s0 : State} (x0 : Who) (x1 : BitVec 16) (s : State) (h : s0.only ps s) (h_held : .held ∈ ps := by simp [*]) (h_out : .out ∈ ps := by simp [*]) (h_seam : .seam ∈ ps := by simp [*]) (h_tal : .tal ∈ ps := by simp [*]) (h_ic : .ic ∈ ps := by simp [*]) (h_aon : .aon ∈ ps := by simp [*]) (h_err : .err ∈ ps := by simp [*]) :
    Frame ps s0 (execTownRelease x0 x1 s) := by
  unfold execTownRelease
  repeat' first
    | with_reducible assumption | with_reducible refine delivered_frame _ _ _ ?_ (fun _ _ => ?_)
    | with_reducible refine heard_frame _ _ _ ?_ (fun _ _ => ?_) | with_reducible apply frame_next
    | with_reducible apply frame_ite | with_reducible apply State.townRefuse_only
    | with_reducible apply State.setTally_only
theorem execCommitTakesEffect_frame {ps : List Piece} {s0 : State} (x0 : Fin 1024) (s : State) (h : s0.only ps s) (h_seam : .seam ∈ ps := by simp [*]) :
    Frame ps s0 (execCommitTakesEffect x0 s) := by
  unfold execCommitTakesEffect
  repeat' first
    | with_reducible assumption | with_reducible refine inUnit_frame _ _ _ _ ?_ (fun _ _ => ?_)
    | with_reducible apply frame_next | with_reducible apply frame_ite | with_reducible apply State.takeEffect_only
theorem execHupenPortTrained_frame {ps : List Piece} {s0 : State} (x0 : Fin 12) (s : State) (h : s0.only ps s) (h_seam : .seam ∈ ps := by simp [*]) :
    Frame ps s0 (execHupenPortTrained x0 s) := by
  unfold execHupenPortTrained
  repeat' first
    | with_reducible assumption | with_reducible apply frame_next | with_reducible apply frame_ite
    | simp only [only_seam, h_seam]
theorem execInboundAtm_frame {ps : List Piece} {s0 : State} (x0 : Fin 12) (x1 : PktHead) (x2 : Ask) (x3 : AtomOp) (x4 : W64) (x5 : W64) (s : State) (h : s0.only ps s) (h_held : .held ∈ ps := by simp [*]) (h_mem : .mem ∈ ps := by simp [*]) (h_poison : .poison ∈ ps := by simp [*]) (h_veil : .veil ∈ ps := by simp [*]) (h_reqs : .reqs ∈ ps := by simp [*]) (h_orphans : .orphans ∈ ps := by simp [*]) (h_nextId : .nextId ∈ ps := by simp [*]) (h_tileQ : .tileQ ∈ ps := by simp [*]) (h_out : .out ∈ ps := by simp [*]) (h_trn : .trn ∈ ps := by simp [*]) (h_lka : .lka ∈ ps := by simp [*]) (h_seam : .seam ∈ ps := by simp [*]) (h_tal : .tal ∈ ps := by simp [*]) (h_ic : .ic ∈ ps := by simp [*]) (h_prt : .prt ∈ ps := by simp [*]) (h_aon : .aon ∈ ps := by simp [*]) (h_err : .err ∈ ps := by simp [*]) (h_obs : .obs ∈ ps := by simp [*]) :
    Frame ps s0 (execInboundAtm x0 x1 x2 x3 x4 x5 s) := by
  unfold execInboundAtm
  repeat' first
    | with_reducible assumption | with_reducible refine delivered_frame _ _ _ ?_ (fun _ _ => ?_)
    | with_reducible apply frame_next | with_reducible apply frame_ite | with_reducible apply State.inAtm_only
theorem execInboundCpl_frame {ps : List Piece} {s0 : State} (x0 : Fin 12) (x1 : CplHead) (x2 : Reply) (s : State) (h : s0.only ps s) (h_held : .held ∈ ps := by simp [*]) (h_reqs : .reqs ∈ ps := by simp [*]) (h_orphans : .orphans ∈ ps := by simp [*]) (h_out : .out ∈ ps := by simp [*]) (h_trn : .trn ∈ ps := by simp [*]) (h_ic : .ic ∈ ps := by simp [*]) (h_aon : .aon ∈ ps := by simp [*]) (h_err : .err ∈ ps := by simp [*]) (h_rcd : .rcd ∈ ps := by simp [*]) :
    Frame ps s0 (execInboundCpl x0 x1 x2 s) := by
  unfold execInboundCpl
  repeat' first
    | with_reducible assumption | with_reducible refine delivered_frame _ _ _ ?_ (fun _ _ => ?_)
    | with_reducible apply frame_next | with_reducible apply frame_ite | with_reducible apply State.peerDrop_only
    | with_reducible apply State.metric_only | with_reducible apply State.pieceHere_only
    | with_reducible apply State.lateCpl_only | split
theorem execInboundRd_frame {ps : List Piece} {s0 : State} (x0 : Fin 12) (x1 : PktHead) (x2 : Ask) (x3 : Reply) (s : State) (h : s0.only ps s) (h_held : .held ∈ ps := by simp [*]) (h_mem : .mem ∈ ps := by simp [*]) (h_poison : .poison ∈ ps := by simp [*]) (h_veil : .veil ∈ ps := by simp [*]) (h_reqs : .reqs ∈ ps := by simp [*]) (h_orphans : .orphans ∈ ps := by simp [*]) (h_nextId : .nextId ∈ ps := by simp [*]) (h_tileQ : .tileQ ∈ ps := by simp [*]) (h_out : .out ∈ ps := by simp [*]) (h_trn : .trn ∈ ps := by simp [*]) (h_lka : .lka ∈ ps := by simp [*]) (h_seam : .seam ∈ ps := by simp [*]) (h_tal : .tal ∈ ps := by simp [*]) (h_ic : .ic ∈ ps := by simp [*]) (h_prt : .prt ∈ ps := by simp [*]) (h_aon : .aon ∈ ps := by simp [*]) (h_err : .err ∈ ps := by simp [*]) (h_obs : .obs ∈ ps := by simp [*]) :
    Frame ps s0 (execInboundRd x0 x1 x2 x3 s) := by
  unfold execInboundRd
  repeat' first
    | with_reducible assumption | with_reducible refine delivered_frame _ _ _ ?_ (fun _ _ => ?_)
    | with_reducible apply frame_next | with_reducible apply frame_ite | with_reducible apply State.inRd_only
theorem execInboundTadd_frame {ps : List Piece} {s0 : State} (x0 : Fin 12) (x1 : PktHead) (x2 : BitVec 48) (s : State) (h : s0.only ps s) (h_held : .held ∈ ps := by simp [*]) (h_tileQ : .tileQ ∈ ps := by simp [*]) (h_out : .out ∈ ps := by simp [*]) (h_seam : .seam ∈ ps := by simp [*]) (h_tal : .tal ∈ ps := by simp [*]) (h_ic : .ic ∈ ps := by simp [*]) (h_prt : .prt ∈ ps := by simp [*]) (h_aon : .aon ∈ ps := by simp [*]) (h_err : .err ∈ ps := by simp [*]) (h_obs : .obs ∈ ps := by simp [*]) :
    Frame ps s0 (execInboundTadd x0 x1 x2 s) := by
  unfold execInboundTadd
  repeat' first
    | with_reducible assumption | with_reducible refine delivered_frame _ _ _ ?_ (fun _ _ => ?_)
    | with_reducible apply frame_next | with_reducible apply frame_ite | with_reducible apply State.inTadd_only
theorem execInboundWr_frame {ps : List Piece} {s0 : State} (x0 : Fin 12) (x1 : PktHead) (x2 : Bytes) (x3 : List Bool) (s : State) (h : s0.only ps s) (h_held : .held ∈ ps := by simp [*]) (h_reqs : .reqs ∈ ps := by simp [*]) (h_nextId : .nextId ∈ ps := by simp [*]) (h_seam : .seam ∈ ps := by simp [*]) (h_ic : .ic ∈ ps := by simp [*]) (h_prt : .prt ∈ ps := by simp [*]) (h_aon : .aon ∈ ps := by simp [*]) (h_err : .err ∈ ps := by simp [*]) (h_obs : .obs ∈ ps := by simp [*]) :
    Frame ps s0 (execInboundWr x0 x1 x2 x3 s) := by
  unfold execInboundWr
  repeat' first
    | with_reducible assumption | with_reducible refine delivered_frame _ _ _ ?_ (fun _ _ => ?_)
    | with_reducible apply frame_next | with_reducible apply frame_ite | with_reducible apply State.inWr_only
theorem execPeerCompletionTimeout_frame {ps : List Piece} {s0 : State} (x0 : Nat) (s : State) (h : s0.only ps s) (h_reqs : .reqs ∈ ps := by simp [*]) (h_orphans : .orphans ∈ ps := by simp [*]) (h_out : .out ∈ ps := by simp [*]) (h_trn : .trn ∈ ps := by simp [*]) (h_seam : .seam ∈ ps := by simp [*]) :
    Frame ps s0 (execPeerCompletionTimeout x0 s) := by
  unfold execPeerCompletionTimeout
  repeat' first
    | with_reducible assumption | with_reducible apply frame_next | with_reducible apply frame_ite
    | with_reducible apply State.handOn_only | with_reducible apply State.setReq_only
    | simp only [only_seam, h_reqs, h_orphans, h_out, h_trn, h_seam] | split
theorem execWindowCommit_frame {ps : List Piece} {s0 : State} (x0 : Who) (s : State) (h : s0.only ps s) (h_held : .held ∈ ps := by simp [*]) (h_out : .out ∈ ps := by simp [*]) (h_seam : .seam ∈ ps := by simp [*]) (h_ic : .ic ∈ ps := by simp [*]) (h_aon : .aon ∈ ps := by simp [*]) (h_err : .err ∈ ps := by simp [*]) :
    Frame ps s0 (execWindowCommit x0 s) := by
  unfold execWindowCommit
  repeat' first
    | with_reducible assumption | with_reducible refine delivered_frame _ _ _ ?_ (fun _ _ => ?_)
    | with_reducible refine heard_frame _ _ _ ?_ (fun _ _ => ?_) | with_reducible apply frame_next
    | with_reducible apply frame_ite | with_reducible apply State.takeEffect_only
    | with_reducible apply State.scheduleWin_only | simp only [only_seam, h_held, h_out, h_seam, h_ic, h_aon, h_err]
    | split
theorem execAgctlJoin_frame {ps : List Piece} {s0 : State} (x0 : Who) (x1 : BitVec 7) (s : State) (h : s0.only ps s) (h_held : .held ∈ ps := by simp [*]) (h_out : .out ∈ ps := by simp [*]) (h_lin : .lin ∈ ps := by simp [*]) (h_ic : .ic ∈ ps := by simp [*]) (h_aon : .aon ∈ ps := by simp [*]) (h_err : .err ∈ ps := by simp [*]) :
    Frame ps s0 (execAgctlJoin x0 x1 s) := by
  unfold execAgctlJoin
  repeat' first
    | with_reducible assumption | with_reducible refine delivered_frame _ _ _ ?_ (fun _ _ => ?_)
    | with_reducible refine heard_frame _ _ _ ?_ (fun _ _ => ?_) | with_reducible apply frame_next
    | with_reducible apply frame_ite | with_reducible apply State.linRefuse_only | with_reducible apply State.setLin_only
theorem execAgctlLeave_frame {ps : List Piece} {s0 : State} (x0 : Who) (x1 : BitVec 7) (s : State) (h : s0.only ps s) (h_held : .held ∈ ps := by simp [*]) (h_mem : .mem ∈ ps := by simp [*]) (h_poison : .poison ∈ ps := by simp [*]) (h_veil : .veil ∈ ps := by simp [*]) (h_reqs : .reqs ∈ ps := by simp [*]) (h_orphans : .orphans ∈ ps := by simp [*]) (h_free : .free ∈ ps := by simp [*]) (h_tileQ : .tileQ ∈ ps := by simp [*]) (h_out : .out ∈ ps := by simp [*]) (h_trn : .trn ∈ ps := by simp [*]) (h_lka : .lka ∈ ps := by simp [*]) (h_seam : .seam ∈ ps := by simp [*]) (h_tal : .tal ∈ ps := by simp [*]) (h_lin : .lin ∈ ps := by simp [*]) (h_host : .host ∈ ps := by simp [*]) (h_ic : .ic ∈ ps := by simp [*]) (h_aon : .aon ∈ ps := by simp [*]) (h_err : .err ∈ ps := by simp [*]) (h_obs : .obs ∈ ps := by simp [*]) :
    Frame ps s0 (execAgctlLeave x0 x1 s) := by
  unfold execAgctlLeave
  repeat' first
    | with_reducible assumption | with_reducible refine delivered_frame _ _ _ ?_ (fun _ _ => ?_)
    | with_reducible refine heard_frame _ _ _ ?_ (fun _ _ => ?_) | with_reducible apply frame_next
    | with_reducible apply frame_ite | with_reducible apply State.linRefuse_only
    | with_reducible apply State.sweepLive_only
theorem execAgentSweepEnd_frame {ps : List Piece} {s0 : State} (s : State) (h : s0.only ps s) (h_mem : .mem ∈ ps := by simp [*]) (h_poison : .poison ∈ ps := by simp [*]) (h_veil : .veil ∈ ps := by simp [*]) (h_reqs : .reqs ∈ ps := by simp [*]) (h_orphans : .orphans ∈ ps := by simp [*]) (h_free : .free ∈ ps := by simp [*]) (h_tileQ : .tileQ ∈ ps := by simp [*]) (h_out : .out ∈ ps := by simp [*]) (h_trn : .trn ∈ ps := by simp [*]) (h_lka : .lka ∈ ps := by simp [*]) (h_seam : .seam ∈ ps := by simp [*]) (h_tal : .tal ∈ ps := by simp [*]) (h_lin : .lin ∈ ps := by simp [*]) (h_host : .host ∈ ps := by simp [*]) (h_ic : .ic ∈ ps := by simp [*]) (h_obs : .obs ∈ ps := by simp [*]) :
    Frame ps s0 (execAgentSweepEnd s) := by
  unfold execAgentSweepEnd
  repeat' first
    | with_reducible assumption | with_reducible refine inUnit_frame _ _ _ _ ?_ (fun _ _ => ?_)
    | with_reducible apply frame_next | with_reducible apply frame_ite | with_reducible apply State.sweepNamed_only
    | with_reducible apply State.setLin_only | with_reducible apply State.setSysev_only
    | with_reducible apply State.depart_only | split | dsimp only
theorem execAtm_frame {ps : List Piece} {s0 : State} (x0 : UReq) (s : State) (h : s0.only ps s) (h_mem : .mem ∈ ps := by simp [*]) (h_poison : .poison ∈ ps := by simp [*]) (h_veil : .veil ∈ ps := by simp [*]) (h_reqs : .reqs ∈ ps := by simp [*]) (h_orphans : .orphans ∈ ps := by simp [*]) (h_free : .free ∈ ps := by simp [*]) (h_tileQ : .tileQ ∈ ps := by simp [*]) (h_out : .out ∈ ps := by simp [*]) (h_trn : .trn ∈ ps := by simp [*]) (h_lka : .lka ∈ ps := by simp [*]) (h_seam : .seam ∈ ps := by simp [*]) (h_tal : .tal ∈ ps := by simp [*]) (h_lin : .lin ∈ ps := by simp [*]) (h_host : .host ∈ ps := by simp [*]) (h_ic : .ic ∈ ps := by simp [*]) (h_aon : .aon ∈ ps := by simp [*]) (h_obs : .obs ∈ ps := by simp [*]) :
    Frame ps s0 (execAtm x0 s) := by
  unfold execAtm
  repeat' first
    | with_reducible assumption | with_reducible refine inUnit_frame _ _ _ _ ?_ (fun _ _ => ?_)
    | with_reducible refine gated_frame _ _ _ ?_ (fun _ _ => ?_) | with_reducible apply frame_next
    | with_reducible apply frame_ite | with_reducible apply State.arrive_only | split
theorem execBiconflict_frame {ps : List Piece} {s0 : State} (x0 : Bool) (x1 : Nat) (s : State) (h : s0.only ps s) (h_held : .held ∈ ps := by simp [*]) (h_out : .out ∈ ps := by simp [*]) (h_lin : .lin ∈ ps := by simp [*]) (h_aon : .aon ∈ ps := by simp [*]) :
    Frame ps s0 (execBiconflict x0 x1 s) := by
  unfold execBiconflict
  repeat' first
    | with_reducible assumption | with_reducible refine delivered_frame _ _ _ ?_ (fun _ _ => ?_)
    | with_reducible apply frame_next | with_reducible apply frame_ite | with_reducible apply State.emit_only
    | with_reducible apply State.setLin_only
theorem execCxlMemRequest_frame {ps : List Piece} {s0 : State} (x0 : Bool) (x1 : BitVec 52) (x2 : CxlOp) (s : State) (h : s0.only ps s) (h_held : .held ∈ ps := by simp [*]) (h_mem : .mem ∈ ps := by simp [*]) (h_poison : .poison ∈ ps := by simp [*]) (h_veil : .veil ∈ ps := by simp [*]) (h_reqs : .reqs ∈ ps := by simp [*]) (h_orphans : .orphans ∈ ps := by simp [*]) (h_nextId : .nextId ∈ ps := by simp [*]) (h_free : .free ∈ ps := by simp [*]) (h_tileQ : .tileQ ∈ ps := by simp [*]) (h_out : .out ∈ ps := by simp [*]) (h_trn : .trn ∈ ps := by simp [*]) (h_lka : .lka ∈ ps := by simp [*]) (h_seam : .seam ∈ ps := by simp [*]) (h_tal : .tal ∈ ps := by simp [*]) (h_lin : .lin ∈ ps := by simp [*]) (h_host : .host ∈ ps := by simp [*]) (h_ic : .ic ∈ ps := by simp [*]) (h_aon : .aon ∈ ps := by simp [*]) (h_err : .err ∈ ps := by simp [*]) (h_obs : .obs ∈ ps := by simp [*]) :
    Frame ps s0 (execCxlMemRequest x0 x1 x2 s) := by
  unfold execCxlMemRequest
  repeat' first
    | with_reducible assumption | with_reducible refine delivered_frame _ _ _ ?_ (fun _ _ => ?_)
    | with_reducible apply frame_next | with_reducible apply frame_ite | with_reducible apply State.isolation_only
    | with_reducible apply State.emit_only | with_reducible apply State.cxlPlain_only
    | with_reducible apply State.agentReq_only | with_reducible apply State.cxlReq_only
    | with_reducible apply State.takeWbd_only | split
theorem execEvc_frame {ps : List Piece} {s0 : State} (x0 : Fin 74) (x1 : Nat) (s : State) (h : s0.only ps s) (h_held : .held ∈ ps := by simp [*]) (h_mem : .mem ∈ ps := by simp [*]) (h_poison : .poison ∈ ps := by simp [*]) (h_veil : .veil ∈ ps := by simp [*]) (h_reqs : .reqs ∈ ps := by simp [*]) (h_orphans : .orphans ∈ ps := by simp [*]) (h_free : .free ∈ ps := by simp [*]) (h_tileQ : .tileQ ∈ ps := by simp [*]) (h_out : .out ∈ ps := by simp [*]) (h_trn : .trn ∈ ps := by simp [*]) (h_lka : .lka ∈ ps := by simp [*]) (h_seam : .seam ∈ ps := by simp [*]) (h_tal : .tal ∈ ps := by simp [*]) (h_lin : .lin ∈ ps := by simp [*]) (h_host : .host ∈ ps := by simp [*]) (h_ic : .ic ∈ ps := by simp [*]) (h_aon : .aon ∈ ps := by simp [*]) (h_obs : .obs ∈ ps := by simp [*]) :
    Frame ps s0 (execEvc x0 x1 s) := by
  unfold execEvc
  repeat' first
    | with_reducible assumption | with_reducible refine delivered_frame _ _ _ ?_ (fun _ _ => ?_)
    | with_reducible apply frame_next | with_reducible apply frame_ite | with_reducible apply State.agentReq_only
theorem execFlushSweepEnd_frame {ps : List Piece} {s0 : State} (s : State) (h : s0.only ps s) (h_mem : .mem ∈ ps := by simp [*]) (h_poison : .poison ∈ ps := by simp [*]) (h_veil : .veil ∈ ps := by simp [*]) (h_reqs : .reqs ∈ ps := by simp [*]) (h_orphans : .orphans ∈ ps := by simp [*]) (h_free : .free ∈ ps := by simp [*]) (h_tileQ : .tileQ ∈ ps := by simp [*]) (h_out : .out ∈ ps := by simp [*]) (h_trn : .trn ∈ ps := by simp [*]) (h_lka : .lka ∈ ps := by simp [*]) (h_seam : .seam ∈ ps := by simp [*]) (h_tal : .tal ∈ ps := by simp [*]) (h_lin : .lin ∈ ps := by simp [*]) (h_host : .host ∈ ps := by simp [*]) (h_ic : .ic ∈ ps := by simp [*]) (h_obs : .obs ∈ ps := by simp [*]) :
    Frame ps s0 (execFlushSweepEnd s) := by
  unfold execFlushSweepEnd
  repeat' first
    | with_reducible assumption | with_reducible refine inUnit_frame _ _ _ _ ?_ (fun _ _ => ?_)
    | with_reducible apply frame_next | with_reducible apply frame_ite | with_reducible apply State.setSysev_only
    | with_reducible apply State.setLin_only | with_reducible apply State.flushAll_only
theorem execH2dSnoop_frame {ps : List Piece} {s0 : State} (x0 : Bool) (x1 : BitVec 64) (s : State) (h : s0.only ps s) (h_held : .held ∈ ps := by simp [*]) (h_out : .out ∈ ps := by simp [*]) (h_aon : .aon ∈ ps := by simp [*]) :
    Frame ps s0 (execH2dSnoop x0 x1 s) := by
  unfold execH2dSnoop
  repeat' first
    | with_reducible assumption | with_reducible refine delivered_frame _ _ _ ?_ (fun _ _ => ?_)
    | with_reducible apply frame_next | with_reducible apply frame_ite | with_reducible apply State.emit_only
theorem execHomeReadReturn_frame {ps : List Piece} {s0 : State} (x0 : Nat) (x1 : Reply) (s : State) (h : s0.only ps s) (h_mem : .mem ∈ ps := by simp [*]) (h_poison : .poison ∈ ps := by simp [*]) (h_veil : .veil ∈ ps := by simp [*]) (h_reqs : .reqs ∈ ps := by simp [*]) (h_orphans : .orphans ∈ ps := by simp [*]) (h_free : .free ∈ ps := by simp [*]) (h_tileQ : .tileQ ∈ ps := by simp [*]) (h_out : .out ∈ ps := by simp [*]) (h_trn : .trn ∈ ps := by simp [*]) (h_lka : .lka ∈ ps := by simp [*]) (h_seam : .seam ∈ ps := by simp [*]) (h_tal : .tal ∈ ps := by simp [*]) (h_lin : .lin ∈ ps := by simp [*]) (h_host : .host ∈ ps := by simp [*]) (h_ic : .ic ∈ ps := by simp [*]) (h_obs : .obs ∈ ps := by simp [*]) :
    Frame ps s0 (execHomeReadReturn x0 x1 s) := by
  unfold execHomeReadReturn
  repeat' first
    | with_reducible assumption | with_reducible refine inUnit_frame _ _ _ _ ?_ (fun _ _ => ?_)
    | with_reducible apply frame_next | with_reducible apply frame_ite | with_reducible apply State.advance_only
    | with_reducible apply State.putTxn_only | split
theorem execHomeWriteResponse_frame {ps : List Piece} {s0 : State} (x0 : Nat) (s : State) (h : s0.only ps s) (h_mem : .mem ∈ ps := by simp [*]) (h_poison : .poison ∈ ps := by simp [*]) (h_veil : .veil ∈ ps := by simp [*]) (h_reqs : .reqs ∈ ps := by simp [*]) (h_orphans : .orphans ∈ ps := by simp [*]) (h_free : .free ∈ ps := by simp [*]) (h_tileQ : .tileQ ∈ ps := by simp [*]) (h_out : .out ∈ ps := by simp [*]) (h_trn : .trn ∈ ps := by simp [*]) (h_lka : .lka ∈ ps := by simp [*]) (h_seam : .seam ∈ ps := by simp [*]) (h_tal : .tal ∈ ps := by simp [*]) (h_lin : .lin ∈ ps := by simp [*]) (h_host : .host ∈ ps := by simp [*]) (h_ic : .ic ∈ ps := by simp [*]) (h_obs : .obs ∈ ps := by simp [*]) :
    Frame ps s0 (execHomeWriteResponse x0 s) := by
  unfold execHomeWriteResponse
  repeat' first
    | with_reducible assumption | with_reducible refine inUnit_frame _ _ _ _ ?_ (fun _ _ => ?_)
    | with_reducible apply frame_next | with_reducible apply frame_ite | with_reducible apply State.performWrite_only
    | with_reducible apply State.putVictim_only | with_reducible apply State.homeWrite_only
    | with_reducible refine State.homeWrite_eq (by assumption) ?_ | with_reducible apply State.advance_only
    | with_reducible apply State.putTxn_only | split
theorem execInboundWritePerformed_frame {ps : List Piece} {s0 : State} (x0 : Nat) (s : State) (h : s0.only ps s) (h_mem : .mem ∈ ps := by simp [*]) (h_poison : .poison ∈ ps := by simp [*]) (h_veil : .veil ∈ ps := by simp [*]) (h_reqs : .reqs ∈ ps := by simp [*]) (h_orphans : .orphans ∈ ps := by simp [*]) (h_free : .free ∈ ps := by simp [*]) (h_tileQ : .tileQ ∈ ps := by simp [*]) (h_out : .out ∈ ps := by simp [*]) (h_trn : .trn ∈ ps := by simp [*]) (h_lka : .lka ∈ ps := by simp [*]) (h_seam : .seam ∈ ps := by simp [*]) (h_tal : .tal ∈ ps := by simp [*]) (h_host : .host ∈ ps := by simp [*]) (h_ic : .ic ∈ ps := by simp [*]) (h_obs : .obs ∈ ps := by simp [*]) :
    Frame ps s0 (execInboundWritePerformed x0 s) := by
  unfold execInboundWritePerformed
  repeat' first
    | with_reducible assumption | with_reducible refine inUnit_frame _ _ _ _ ?_ (fun _ _ => ?_)
    | with_reducible apply frame_next | with_reducible apply frame_ite | with_reducible apply State.goOn_only
    | with_reducible apply State.finishFlight_only | with_reducible apply State.dropReqs_only
    | with_reducible apply State.performWrite_only | with_reducible apply State.countFlight_only | split
theorem execLinDisable_frame {ps : List Piece} {s0 : State} (x0 : Who) (s : State) (h : s0.only ps s) (h_held : .held ∈ ps := by simp [*]) (h_mem : .mem ∈ ps := by simp [*]) (h_poison : .poison ∈ ps := by simp [*]) (h_veil : .veil ∈ ps := by simp [*]) (h_reqs : .reqs ∈ ps := by simp [*]) (h_orphans : .orphans ∈ ps := by simp [*]) (h_free : .free ∈ ps := by simp [*]) (h_tileQ : .tileQ ∈ ps := by simp [*]) (h_out : .out ∈ ps := by simp [*]) (h_trn : .trn ∈ ps := by simp [*]) (h_lka : .lka ∈ ps := by simp [*]) (h_seam : .seam ∈ ps := by simp [*]) (h_tal : .tal ∈ ps := by simp [*]) (h_lin : .lin ∈ ps := by simp [*]) (h_host : .host ∈ ps := by simp [*]) (h_ic : .ic ∈ ps := by simp [*]) (h_aon : .aon ∈ ps := by simp [*]) (h_err : .err ∈ ps := by simp [*]) (h_obs : .obs ∈ ps := by simp [*]) :
    Frame ps s0 (execLinDisable x0 s) := by
  unfold execLinDisable
  repeat' first
    | with_reducible assumption | with_reducible refine delivered_frame _ _ _ ?_ (fun _ _ => ?_)
    | with_reducible refine heard_frame _ _ _ ?_ (fun _ _ => ?_) | with_reducible apply frame_next
    | with_reducible apply frame_ite | with_reducible apply State.flushAll_only | with_reducible apply State.setLin_only
theorem execLinEnable_frame {ps : List Piece} {s0 : State} (x0 : Who) (s : State) (h : s0.only ps s) (h_held : .held ∈ ps := by simp [*]) (h_tileQ : .tileQ ∈ ps := by simp [*]) (h_out : .out ∈ ps := by simp [*]) (h_lin : .lin ∈ ps := by simp [*]) (h_ic : .ic ∈ ps := by simp [*]) (h_aon : .aon ∈ ps := by simp [*]) (h_err : .err ∈ ps := by simp [*]) :
    Frame ps s0 (execLinEnable x0 s) := by
  unfold execLinEnable
  repeat' first
    | with_reducible assumption | with_reducible refine delivered_frame _ _ _ ?_ (fun _ _ => ?_)
    | with_reducible refine heard_frame _ _ _ ?_ (fun _ _ => ?_) | with_reducible apply frame_next
    | with_reducible apply frame_ite | with_reducible apply State.setLin_only | with_reducible apply State.toTiles_only
theorem execLinProbe_frame {ps : List Piece} {s0 : State} (x0 : Who) (x1 : W64) (s : State) (h : s0.only ps s) (h_held : .held ∈ ps := by simp [*]) (h_out : .out ∈ ps := by simp [*]) (h_lin : .lin ∈ ps := by simp [*]) (h_ic : .ic ∈ ps := by simp [*]) (h_aon : .aon ∈ ps := by simp [*]) (h_err : .err ∈ ps := by simp [*]) :
    Frame ps s0 (execLinProbe x0 x1 s) := by
  unfold execLinProbe
  repeat' first
    | with_reducible assumption | with_reducible refine delivered_frame _ _ _ ?_ (fun _ _ => ?_)
    | with_reducible refine heard_frame _ _ _ ?_ (fun _ _ => ?_) | with_reducible apply frame_next
    | with_reducible apply frame_ite | with_reducible apply State.setLin_only
theorem execNar_frame {ps : List Piece} {s0 : State} (x0 : UReq) (s : State) (h : s0.only ps s) (h_mem : .mem ∈ ps := by simp [*]) (h_poison : .poison ∈ ps := by simp [*]) (h_veil : .veil ∈ ps := by simp [*]) (h_reqs : .reqs ∈ ps := by simp [*]) (h_orphans : .orphans ∈ ps := by simp [*]) (h_free : .free ∈ ps := by simp [*]) (h_tileQ : .tileQ ∈ ps := by simp [*]) (h_out : .out ∈ ps := by simp [*]) (h_trn : .trn ∈ ps := by simp [*]) (h_lka : .lka ∈ ps := by simp [*]) (h_seam : .seam ∈ ps := by simp [*]) (h_tal : .tal ∈ ps := by simp [*]) (h_lin : .lin ∈ ps := by simp [*]) (h_host : .host ∈ ps := by simp [*]) (h_ic : .ic ∈ ps := by simp [*]) (h_aon : .aon ∈ ps := by simp [*]) (h_obs : .obs ∈ ps := by simp [*]) :
    Frame ps s0 (execNar x0 s) := by
  unfold execNar
  repeat' first
    | with_reducible assumption | with_reducible refine inUnit_frame _ _ _ _ ?_ (fun _ _ => ?_)
    | with_reducible refine gated_frame _ _ _ ?_ (fun _ _ => ?_) | with_reducible apply frame_next
    | with_reducible apply frame_ite | with_reducible apply State.arrive_only | split
theorem execRds_frame {ps : List Piece} {s0 : State} (x0 : Fin 74) (x1 : Nat) (s : State) (h : s0.only ps s) (h_held : .held ∈ ps := by simp [*]) (h_mem : .mem ∈ ps := by simp [*]) (h_poison : .poison ∈ ps := by simp [*]) (h_veil : .veil ∈ ps := by simp [*]) (h_reqs : .reqs ∈ ps := by simp [*]) (h_orphans : .orphans ∈ ps := by simp [*]) (h_free : .free ∈ ps := by simp [*]) (h_tileQ : .tileQ ∈ ps := by simp [*]) (h_out : .out ∈ ps := by simp [*]) (h_trn : .trn ∈ ps := by simp [*]) (h_lka : .lka ∈ ps := by simp [*]) (h_seam : .seam ∈ ps := by simp [*]) (h_tal : .tal ∈ ps := by simp [*]) (h_lin : .lin ∈ ps := by simp [*]) (h_host : .host ∈ ps := by simp [*]) (h_ic : .ic ∈ ps := by simp [*]) (h_aon : .aon ∈ ps := by simp [*]) (h_obs : .obs ∈ ps := by simp [*]) :
    Frame ps s0 (execRds x0 x1 s) := by
  unfold execRds
  repeat' first
    | with_reducible assumption | with_reducible refine delivered_frame _ _ _ ?_ (fun _ _ => ?_)
    | with_reducible apply frame_next | with_reducible apply frame_ite | with_reducible apply State.agentReq_only
theorem execRdx_frame {ps : List Piece} {s0 : State} (x0 : Fin 74) (x1 : Nat) (s : State) (h : s0.only ps s) (h_held : .held ∈ ps := by simp [*]) (h_mem : .mem ∈ ps := by simp [*]) (h_poison : .poison ∈ ps := by simp [*]) (h_veil : .veil ∈ ps := by simp [*]) (h_reqs : .reqs ∈ ps := by simp [*]) (h_orphans : .orphans ∈ ps := by simp [*]) (h_free : .free ∈ ps := by simp [*]) (h_tileQ : .tileQ ∈ ps := by simp [*]) (h_out : .out ∈ ps := by simp [*]) (h_trn : .trn ∈ ps := by simp [*]) (h_lka : .lka ∈ ps := by simp [*]) (h_seam : .seam ∈ ps := by simp [*]) (h_tal : .tal ∈ ps := by simp [*]) (h_lin : .lin ∈ ps := by simp [*]) (h_host : .host ∈ ps := by simp [*]) (h_ic : .ic ∈ ps := by simp [*]) (h_aon : .aon ∈ ps := by simp [*]) (h_obs : .obs ∈ ps := by simp [*]) :
    Frame ps s0 (execRdx x0 x1 s) := by
  unfold execRdx
  repeat' first
    | with_reducible assumption | with_reducible refine delivered_frame _ _ _ ?_ (fun _ _ => ?_)
    | with_reducible apply frame_next | with_reducible apply frame_ite | with_reducible apply State.agentReq_only
theorem execSnoopResponse_frame {ps : List Piece} {s0 : State} (x0 : Fin 74) (x1 : Nat) (x2 : SnpAns) (s : State) (h : s0.only ps s) (h_held : .held ∈ ps := by simp [*]) (h_mem : .mem ∈ ps := by simp [*]) (h_poison : .poison ∈ ps := by simp [*]) (h_veil : .veil ∈ ps := by simp [*]) (h_reqs : .reqs ∈ ps := by simp [*]) (h_orphans : .orphans ∈ ps := by simp [*]) (h_free : .free ∈ ps := by simp [*]) (h_tileQ : .tileQ ∈ ps := by simp [*]) (h_out : .out ∈ ps := by simp [*]) (h_trn : .trn ∈ ps := by simp [*]) (h_lka : .lka ∈ ps := by simp [*]) (h_seam : .seam ∈ ps := by simp [*]) (h_tal : .tal ∈ ps := by simp [*]) (h_lin : .lin ∈ ps := by simp [*]) (h_host : .host ∈ ps := by simp [*]) (h_ic : .ic ∈ ps := by simp [*]) (h_aon : .aon ∈ ps := by simp [*]) (h_obs : .obs ∈ ps := by simp [*]) :
    Frame ps s0 (execSnoopResponse x0 x1 x2 s) := by
  unfold execSnoopResponse
  repeat' first
    | with_reducible assumption | with_reducible refine delivered_frame _ _ _ ?_ (fun _ _ => ?_)
    | with_reducible apply frame_next | with_reducible apply frame_ite | with_reducible apply State.consumeWb_only
    | with_reducible apply State.answered_only | with_reducible apply State.wbDue_only | split
theorem execTransactionAdmit_frame {ps : List Piece} {s0 : State} (x0 : Nat) (s : State) (h : s0.only ps s) (h_mem : .mem ∈ ps := by simp [*]) (h_poison : .poison ∈ ps := by simp [*]) (h_veil : .veil ∈ ps := by simp [*]) (h_reqs : .reqs ∈ ps := by simp [*]) (h_orphans : .orphans ∈ ps := by simp [*]) (h_free : .free ∈ ps := by simp [*]) (h_tileQ : .tileQ ∈ ps := by simp [*]) (h_out : .out ∈ ps := by simp [*]) (h_trn : .trn ∈ ps := by simp [*]) (h_lka : .lka ∈ ps := by simp [*]) (h_seam : .seam ∈ ps := by simp [*]) (h_tal : .tal ∈ ps := by simp [*]) (h_lin : .lin ∈ ps := by simp [*]) (h_host : .host ∈ ps := by simp [*]) (h_ic : .ic ∈ ps := by simp [*]) (h_obs : .obs ∈ ps := by simp [*]) :
    Frame ps s0 (execTransactionAdmit x0 s) := by
  unfold execTransactionAdmit
  repeat' first
    | with_reducible assumption | with_reducible refine inUnit_frame _ _ _ _ ?_ (fun _ _ => ?_)
    | with_reducible apply frame_next | with_reducible apply frame_ite | with_reducible apply State.admitLine_only
theorem execUpg_frame {ps : List Piece} {s0 : State} (x0 : Fin 74) (x1 : Nat) (s : State) (h : s0.only ps s) (h_held : .held ∈ ps := by simp [*]) (h_mem : .mem ∈ ps := by simp [*]) (h_poison : .poison ∈ ps := by simp [*]) (h_veil : .veil ∈ ps := by simp [*]) (h_reqs : .reqs ∈ ps := by simp [*]) (h_orphans : .orphans ∈ ps := by simp [*]) (h_free : .free ∈ ps := by simp [*]) (h_tileQ : .tileQ ∈ ps := by simp [*]) (h_out : .out ∈ ps := by simp [*]) (h_trn : .trn ∈ ps := by simp [*]) (h_lka : .lka ∈ ps := by simp [*]) (h_seam : .seam ∈ ps := by simp [*]) (h_tal : .tal ∈ ps := by simp [*]) (h_lin : .lin ∈ ps := by simp [*]) (h_host : .host ∈ ps := by simp [*]) (h_ic : .ic ∈ ps := by simp [*]) (h_aon : .aon ∈ ps := by simp [*]) (h_obs : .obs ∈ ps := by simp [*]) :
    Frame ps s0 (execUpg x0 x1 s) := by
  unfold execUpg
  repeat' first
    | with_reducible assumption | with_reducible refine delivered_frame _ _ _ ?_ (fun _ _ => ?_)
    | with_reducible apply frame_next | with_reducible apply frame_ite | with_reducible apply State.agentReq_only
theorem execUwr_frame {ps : List Piece} {s0 : State} (x0 : UReq) (x1 : Bool) (s : State) (h : s0.only ps s) (h_mem : .mem ∈ ps := by simp [*]) (h_poison : .poison ∈ ps := by simp [*]) (h_veil : .veil ∈ ps := by simp [*]) (h_reqs : .reqs ∈ ps := by simp [*]) (h_orphans : .orphans ∈ ps := by simp [*]) (h_free : .free ∈ ps := by simp [*]) (h_tileQ : .tileQ ∈ ps := by simp [*]) (h_out : .out ∈ ps := by simp [*]) (h_trn : .trn ∈ ps := by simp [*]) (h_lka : .lka ∈ ps := by simp [*]) (h_seam : .seam ∈ ps := by simp [*]) (h_tal : .tal ∈ ps := by simp [*]) (h_lin : .lin ∈ ps := by simp [*]) (h_host : .host ∈ ps := by simp [*]) (h_ic : .ic ∈ ps := by simp [*]) (h_aon : .aon ∈ ps := by simp [*]) (h_obs : .obs ∈ ps := by simp [*]) :
    Frame ps s0 (execUwr x0 x1 s) := by
  unfold execUwr
  repeat' first
    | with_reducible assumption | with_reducible refine inUnit_frame _ _ _ _ ?_ (fun _ _ => ?_)
    | with_reducible refine gated_frame _ _ _ ?_ (fun _ _ => ?_) | with_reducible apply frame_next
    | with_reducible apply frame_ite | with_reducible apply State.answerUwr_only | with_reducible apply State.arrive_only
    | split
theorem execWbd_frame {ps : List Piece} {s0 : State} (x0 : Fin 74) (x1 : Nat) (x2 : Writeback) (s : State) (h : s0.only ps s) (h_held : .held ∈ ps := by simp [*]) (h_mem : .mem ∈ ps := by simp [*]) (h_poison : .poison ∈ ps := by simp [*]) (h_veil : .veil ∈ ps := by simp [*]) (h_reqs : .reqs ∈ ps := by simp [*]) (h_orphans : .orphans ∈ ps := by simp [*]) (h_free : .free ∈ ps := by simp [*]) (h_tileQ : .tileQ ∈ ps := by simp [*]) (h_out : .out ∈ ps := by simp [*]) (h_trn : .trn ∈ ps := by simp [*]) (h_lka : .lka ∈ ps := by simp [*]) (h_seam : .seam ∈ ps := by simp [*]) (h_tal : .tal ∈ ps := by simp [*]) (h_lin : .lin ∈ ps := by simp [*]) (h_host : .host ∈ ps := by simp [*]) (h_ic : .ic ∈ ps := by simp [*]) (h_aon : .aon ∈ ps := by simp [*]) (h_obs : .obs ∈ ps := by simp [*]) :
    Frame ps s0 (execWbd x0 x1 x2 s) := by
  unfold execWbd
  repeat' first
    | with_reducible assumption | with_reducible refine delivered_frame _ _ _ ?_ (fun _ _ => ?_)
    | with_reducible apply frame_next | with_reducible apply frame_ite | with_reducible apply State.takeWbd_only
theorem execBar2Atomicop_frame {ps : List Piece} {s0 : State} (x0 : Fin 16) (x1 : BitVec 52) (x2 : AtomOp) (x3 : Nat) (x4 : W64) (x5 : W64) (s : State) (h : s0.only ps s) (h_held : .held ∈ ps := by simp [*]) (h_mem : .mem ∈ ps := by simp [*]) (h_poison : .poison ∈ ps := by simp [*]) (h_veil : .veil ∈ ps := by simp [*]) (h_reqs : .reqs ∈ ps := by simp [*]) (h_nextId : .nextId ∈ ps := by simp [*]) (h_out : .out ∈ ps := by simp [*]) (h_lka : .lka ∈ ps := by simp [*]) (h_ic : .ic ∈ ps := by simp [*]) (h_prt : .prt ∈ ps := by simp [*]) (h_aon : .aon ∈ ps := by simp [*]) (h_err : .err ∈ ps := by simp [*]) (h_obs : .obs ∈ ps := by simp [*]) :
    Frame ps s0 (execBar2Atomicop x0 x1 x2 x3 x4 x5 s) := by
  unfold execBar2Atomicop
  repeat' first
    | with_reducible assumption | with_reducible refine delivered_frame _ _ _ ?_ (fun _ _ => ?_)
    | with_reducible apply frame_next | with_reducible apply frame_ite | with_reducible apply State.emit_only
    | with_reducible apply State.bar2Check_only | with_reducible refine State.bar2Check_eq (by assumption) ?_
    | with_reducible apply State.chargeTo_only | with_reducible apply State.addExt_only
    | with_reducible apply State.performAtomic_only | with_reducible refine State.performAtomic_eq (by assumption) ?_
    | split
theorem execBar2Read_frame {ps : List Piece} {s0 : State} (x0 : Fin 16) (x1 : BitVec 52) (x2 : Nat) (x3 : Bool) (s : State) (h : s0.only ps s) (h_held : .held ∈ ps := by simp [*]) (h_mem : .mem ∈ ps := by simp [*]) (h_poison : .poison ∈ ps := by simp [*]) (h_veil : .veil ∈ ps := by simp [*]) (h_reqs : .reqs ∈ ps := by simp [*]) (h_orphans : .orphans ∈ ps := by simp [*]) (h_nextId : .nextId ∈ ps := by simp [*]) (h_free : .free ∈ ps := by simp [*]) (h_tileQ : .tileQ ∈ ps := by simp [*]) (h_out : .out ∈ ps := by simp [*]) (h_trn : .trn ∈ ps := by simp [*]) (h_lka : .lka ∈ ps := by simp [*]) (h_seam : .seam ∈ ps := by simp [*]) (h_tal : .tal ∈ ps := by simp [*]) (h_host : .host ∈ ps := by simp [*]) (h_ic : .ic ∈ ps := by simp [*]) (h_prt : .prt ∈ ps := by simp [*]) (h_aon : .aon ∈ ps := by simp [*]) (h_err : .err ∈ ps := by simp [*]) (h_obs : .obs ∈ ps := by simp [*]) :
    Frame ps s0 (execBar2Read x0 x1 x2 x3 s) := by
  unfold execBar2Read
  repeat' first
    | with_reducible assumption | with_reducible refine delivered_frame _ _ _ ?_ (fun _ _ => ?_)
    | with_reducible apply frame_next | with_reducible apply frame_ite | with_reducible apply State.emit_only
    | with_reducible apply State.finishOne_only | with_reducible apply State.addExt_only
    | with_reducible apply State.bar2Check_only | with_reducible refine State.bar2Check_eq (by assumption) ?_
    | with_reducible apply State.chargeTo_only | split
theorem execBar2Write_frame {ps : List Piece} {s0 : State} (x0 : Fin 16) (x1 : BitVec 52) (x2 : Bytes) (x3 : List Bool) (s : State) (h : s0.only ps s) (h_held : .held ∈ ps := by simp [*]) (h_mem : .mem ∈ ps := by simp [*]) (h_poison : .poison ∈ ps := by simp [*]) (h_veil : .veil ∈ ps := by simp [*]) (h_reqs : .reqs ∈ ps := by simp [*]) (h_nextId : .nextId ∈ ps := by simp [*]) (h_tileQ : .tileQ ∈ ps := by simp [*]) (h_out : .out ∈ ps := by simp [*]) (h_lka : .lka ∈ ps := by simp [*]) (h_seam : .seam ∈ ps := by simp [*]) (h_tal : .tal ∈ ps := by simp [*]) (h_ic : .ic ∈ ps := by simp [*]) (h_prt : .prt ∈ ps := by simp [*]) (h_aon : .aon ∈ ps := by simp [*]) (h_err : .err ∈ ps := by simp [*]) (h_obs : .obs ∈ ps := by simp [*]) :
    Frame ps s0 (execBar2Write x0 x1 x2 x3 s) := by
  unfold execBar2Write
  repeat' first
    | with_reducible assumption | with_reducible refine delivered_frame _ _ _ ?_ (fun _ _ => ?_)
    | with_reducible apply frame_next | with_reducible apply frame_ite | with_reducible apply State.bar2Write_only
theorem execBarSizeWrite_frame {ps : List Piece} {s0 : State} (x0 : Fin 4) (x1 : Bool) (x2 : Fin 64) (s : State) (h : s0.only ps s) (h_held : .held ∈ ps := by simp [*]) (h_out : .out ∈ ps := by simp [*]) (h_host : .host ∈ ps := by simp [*]) (h_aon : .aon ∈ ps := by simp [*]) :
    Frame ps s0 (execBarSizeWrite x0 x1 x2 s) := by
  unfold execBarSizeWrite
  repeat' first
    | with_reducible assumption | with_reducible refine delivered_frame _ _ _ ?_ (fun _ _ => ?_)
    | with_reducible apply frame_next | with_reducible apply frame_ite | with_reducible apply State.emit_only
    | with_reducible apply State.resizeBar_only
theorem execHostFenceRead_frame {ps : List Piece} {s0 : State} (x0 : Who) (s : State) (h : s0.only ps s) (h_held : .held ∈ ps := by simp [*]) (h_out : .out ∈ ps := by simp [*]) (h_host : .host ∈ ps := by simp [*]) (h_ic : .ic ∈ ps := by simp [*]) (h_aon : .aon ∈ ps := by simp [*]) (h_err : .err ∈ ps := by simp [*]) :
    Frame ps s0 (execHostFenceRead x0 s) := by
  unfold execHostFenceRead
  repeat' first
    | with_reducible assumption | with_reducible refine delivered_frame _ _ _ ?_ (fun _ _ => ?_)
    | with_reducible refine heardRead_frame _ _ _ ?_ (fun _ _ => ?_) | with_reducible apply frame_next
    | with_reducible apply frame_ite | with_reducible apply State.fenceRead_only
theorem execPerstDeasserted_frame {ps : List Piece} {s0 : State} (x0 : Bool) (s : State) (h : s0.only ps s) (h_host : .host ∈ ps := by simp [*]) :
    Frame ps s0 (execPerstDeasserted x0 s) := by
  unfold execPerstDeasserted
  repeat' first
    | with_reducible assumption | with_reducible apply frame_next | with_reducible apply frame_ite
    | with_reducible apply State.setLink_only
theorem execTagQuarantineEnd_frame {ps : List Piece} {s0 : State} (x0 : Fin 4) (x1 : Nat) (s : State) (h : s0.only ps s) (h_host : .host ∈ ps := by simp [*]) :
    Frame ps s0 (execTagQuarantineEnd x0 x1 s) := by
  unfold execTagQuarantineEnd
  repeat' first
    | with_reducible assumption | with_reducible apply frame_next | with_reducible apply frame_ite
    | simp only [only_host, h_host]
theorem execVeilRegionWiped_frame {ps : List Piece} {s0 : State} (x0 : Nat) (s : State) (h : s0.only ps s) (h_mem : .mem ∈ ps := by simp [*]) (h_poison : .poison ∈ ps := by simp [*]) (h_veil : .veil ∈ ps := by simp [*]) :
    Frame ps s0 (execVeilRegionWiped x0 s) := by
  unfold execVeilRegionWiped
  repeat' first
    | with_reducible assumption | with_reducible apply frame_next | with_reducible apply frame_ite
    | with_reducible apply State.unveil_only
theorem execHostCompletion_frame {ps : List Piece} {s0 : State} (x0 : Fin 4) (x1 : Nat) (x2 : HostCpl) (s : State) (h : s0.only ps s) (h_mem : .mem ∈ ps := by simp [*]) (h_poison : .poison ∈ ps := by simp [*]) (h_veil : .veil ∈ ps := by simp [*]) (h_reqs : .reqs ∈ ps := by simp [*]) (h_orphans : .orphans ∈ ps := by simp [*]) (h_nextId : .nextId ∈ ps := by simp [*]) (h_out : .out ∈ ps := by simp [*]) (h_gal : .gal ∈ ps := by simp [*]) (h_trn : .trn ∈ ps := by simp [*]) (h_flt : .flt ∈ ps := by simp [*]) (h_epo : .epo ∈ ps := by simp [*]) (h_plt : .plt ∈ ps := by simp [*]) (h_cmp : .cmp ∈ ps := by simp [*]) (h_lka : .lka ∈ ps := by simp [*]) (h_host : .host ∈ ps := by simp [*]) (h_ic : .ic ∈ ps := by simp [*]) (h_prt : .prt ∈ ps := by simp [*]) (h_obs : .obs ∈ ps := by simp [*]) (h_rcd : .rcd ∈ ps := by simp [*]) :
    Frame ps s0 (execHostCompletion x0 x1 x2 s) := by
  unfold execHostCompletion
  repeat' first
    | with_reducible assumption | with_reducible refine inUnit_frame _ _ _ _ ?_ (fun _ _ => ?_)
    | with_reducible apply frame_next | with_reducible apply frame_ite | with_reducible apply State.release_only
    | with_reducible apply State.hostPiece_only | with_reducible apply State.unexpected_only
    | with_reducible apply State.strayCpl_only | split
theorem execPeerPacketSend_frame {ps : List Piece} {s0 : State} (x0 : Nat) (s : State) (h : s0.only ps s) (h_mem : .mem ∈ ps := by simp [*]) (h_poison : .poison ∈ ps := by simp [*]) (h_veil : .veil ∈ ps := by simp [*]) (h_reqs : .reqs ∈ ps := by simp [*]) (h_orphans : .orphans ∈ ps := by simp [*]) (h_nextId : .nextId ∈ ps := by simp [*]) (h_tileQ : .tileQ ∈ ps := by simp [*]) (h_out : .out ∈ ps := by simp [*]) (h_gal : .gal ∈ ps := by simp [*]) (h_trn : .trn ∈ ps := by simp [*]) (h_flt : .flt ∈ ps := by simp [*]) (h_epo : .epo ∈ ps := by simp [*]) (h_plt : .plt ∈ ps := by simp [*]) (h_cmp : .cmp ∈ ps := by simp [*]) (h_lka : .lka ∈ ps := by simp [*]) (h_seam : .seam ∈ ps := by simp [*]) (h_tal : .tal ∈ ps := by simp [*]) (h_ic : .ic ∈ ps := by simp [*]) (h_prt : .prt ∈ ps := by simp [*]) (h_aon : .aon ∈ ps := by simp [*]) (h_err : .err ∈ ps := by simp [*]) (h_obs : .obs ∈ ps := by simp [*]) (h_rcd : .rcd ∈ ps := by simp [*]) :
    Frame ps s0 (execPeerPacketSend x0 s) := by
  unfold execPeerPacketSend
  repeat' first
    | with_reducible assumption | with_reducible refine gated_frame _ _ _ ?_ (fun _ _ => ?_)
    | with_reducible apply frame_next | with_reducible apply frame_ite | with_reducible apply State.posted_only
    | with_reducible apply State.loopPosted_only | with_reducible apply State.loopRead_only
    | with_reducible apply State.setReq_only | with_reducible apply State.bounceAt_only
    | with_reducible apply State.sendPacket_only | (with_reducible apply only_foldl; intro _ _ _; try dsimp only) | split
theorem execAtsInvalidationRequest_frame {ps : List Piece} {s0 : State} (x0 : Fin 16) (x1 : Fin 32) (x2 : BitVec 57) (x3 : BitVec 6) (x4 : Option (BitVec 20)) (x5 : Bool) (s : State) (h : s0.only ps s) (h_held : .held ∈ ps := by simp [*]) (h_trn : .trn ∈ ps := by simp [*]) (h_lka : .lka ∈ ps := by simp [*]) (h_aon : .aon ∈ ps := by simp [*]) :
    Frame ps s0 (execAtsInvalidationRequest x0 x1 x2 x3 x4 x5 s) := by
  unfold execAtsInvalidationRequest
  repeat' first
    | with_reducible assumption | with_reducible refine delivered_frame _ _ _ ?_ (fun _ _ => ?_)
    | with_reducible apply frame_next | with_reducible apply frame_ite | with_reducible apply State.acceptInv_only
theorem execAtsTranslationCompletion_frame {ps : List Piece} {s0 : State} (x0 : Fin 48) (x1 : AtsCpl) (s : State) (h : s0.only ps s) (h_mem : .mem ∈ ps := by simp [*]) (h_poison : .poison ∈ ps := by simp [*]) (h_veil : .veil ∈ ps := by simp [*]) (h_reqs : .reqs ∈ ps := by simp [*]) (h_orphans : .orphans ∈ ps := by simp [*]) (h_nextId : .nextId ∈ ps := by simp [*]) (h_free : .free ∈ ps := by simp [*]) (h_out : .out ∈ ps := by simp [*]) (h_gal : .gal ∈ ps := by simp [*]) (h_trn : .trn ∈ ps := by simp [*]) (h_flt : .flt ∈ ps := by simp [*]) (h_epo : .epo ∈ ps := by simp [*]) (h_plt : .plt ∈ ps := by simp [*]) (h_cmp : .cmp ∈ ps := by simp [*]) (h_lka : .lka ∈ ps := by simp [*]) (h_ic : .ic ∈ ps := by simp [*]) (h_prt : .prt ∈ ps := by simp [*]) (h_err : .err ∈ ps := by simp [*]) (h_obs : .obs ∈ ps := by simp [*]) (h_rcd : .rcd ∈ ps := by simp [*]) :
    Frame ps s0 (execAtsTranslationCompletion x0 x1 s) := by
  unfold execAtsTranslationCompletion
  repeat' first
    | with_reducible assumption | with_reducible refine inUnit_frame _ _ _ _ ?_ (fun _ _ => ?_)
    | with_reducible refine inPort_frame _ _ _ ?_ (fun _ _ => ?_) | with_reducible apply frame_next
    | with_reducible apply frame_ite | with_reducible apply State.atsAnswer_only | split
theorem execBoundModeRequest_frame {ps : List Piece} {s0 : State} (x0 : BReq) (s : State) (h : s0.only ps s) (h_held : .held ∈ ps := by simp [*]) (h_mem : .mem ∈ ps := by simp [*]) (h_poison : .poison ∈ ps := by simp [*]) (h_veil : .veil ∈ ps := by simp [*]) (h_reqs : .reqs ∈ ps := by simp [*]) (h_orphans : .orphans ∈ ps := by simp [*]) (h_nextId : .nextId ∈ ps := by simp [*]) (h_free : .free ∈ ps := by simp [*]) (h_out : .out ∈ ps := by simp [*]) (h_gal : .gal ∈ ps := by simp [*]) (h_trn : .trn ∈ ps := by simp [*]) (h_flt : .flt ∈ ps := by simp [*]) (h_epo : .epo ∈ ps := by simp [*]) (h_plt : .plt ∈ ps := by simp [*]) (h_cmp : .cmp ∈ ps := by simp [*]) (h_lka : .lka ∈ ps := by simp [*]) (h_ic : .ic ∈ ps := by simp [*]) (h_prt : .prt ∈ ps := by simp [*]) (h_aon : .aon ∈ ps := by simp [*]) (h_err : .err ∈ ps := by simp [*]) (h_obs : .obs ∈ ps := by simp [*]) (h_rcd : .rcd ∈ ps := by simp [*]) :
    Frame ps s0 (execBoundModeRequest x0 s) := by
  unfold execBoundModeRequest
  repeat' first
    | with_reducible assumption | with_reducible refine delivered_frame _ _ _ ?_ (fun _ _ => ?_)
    | with_reducible refine inUnit_frame _ _ _ _ ?_ (fun _ _ => ?_)
    | with_reducible refine gated_frame _ _ _ ?_ (fun _ _ => ?_)
    | with_reducible refine fromCore_frame _ _ _ ?_ (fun _ _ => ?_) | with_reducible apply frame_next
    | with_reducible apply frame_ite | with_reducible apply State.translated_only | with_reducible apply State.emit_only
    | with_reducible apply State.tileRequest_only | with_reducible apply State.lookupHeld_only
    | simp only [only_reqs_nextId, h_held, h_mem, h_poison, h_veil, h_reqs, h_orphans, h_nextId, h_free, h_out, h_gal, h_trn, h_flt, h_epo, h_plt, h_cmp, h_lka, h_ic, h_prt, h_aon, h_err, h_obs, h_rcd]
    | split
theorem execContextSlotLoad_frame {ps : List Piece} {s0 : State} (x0 : Fin 1024) (s : State) (h : s0.only ps s) (h_mem : .mem ∈ ps := by simp [*]) (h_poison : .poison ∈ ps := by simp [*]) (h_veil : .veil ∈ ps := by simp [*]) (h_reqs : .reqs ∈ ps := by simp [*]) (h_orphans : .orphans ∈ ps := by simp [*]) (h_nextId : .nextId ∈ ps := by simp [*]) (h_free : .free ∈ ps := by simp [*]) (h_out : .out ∈ ps := by simp [*]) (h_gal : .gal ∈ ps := by simp [*]) (h_trn : .trn ∈ ps := by simp [*]) (h_flt : .flt ∈ ps := by simp [*]) (h_epo : .epo ∈ ps := by simp [*]) (h_plt : .plt ∈ ps := by simp [*]) (h_cmp : .cmp ∈ ps := by simp [*]) (h_lka : .lka ∈ ps := by simp [*]) (h_ic : .ic ∈ ps := by simp [*]) (h_prt : .prt ∈ ps := by simp [*]) (h_err : .err ∈ ps := by simp [*]) (h_obs : .obs ∈ ps := by simp [*]) (h_rcd : .rcd ∈ ps := by simp [*]) :
    Frame ps s0 (execContextSlotLoad x0 s) := by
  unfold execContextSlotLoad
  repeat' first
    | with_reducible assumption | with_reducible refine inUnit_frame _ _ _ _ ?_ (fun _ _ => ?_)
    | with_reducible apply frame_next | with_reducible apply frame_ite | with_reducible apply State.lookup_only
    | with_reducible apply State.loadSlot_only | (with_reducible apply only_foldl; intro _ _ _; try dsimp only) | split
theorem execCtxcfgWrite_frame {ps : List Piece} {s0 : State} (x0 : Who) (x1 : Fin 1024) (x2 : W64) (s : State) (h : s0.only ps s) (h_held : .held ∈ ps := by simp [*]) (h_out : .out ∈ ps := by simp [*]) (h_trn : .trn ∈ ps := by simp [*]) (h_lka : .lka ∈ ps := by simp [*]) (h_ic : .ic ∈ ps := by simp [*]) (h_aon : .aon ∈ ps := by simp [*]) (h_err : .err ∈ ps := by simp [*]) :
    Frame ps s0 (execCtxcfgWrite x0 x1 x2 s) := by
  unfold execCtxcfgWrite
  repeat' first
    | with_reducible assumption | with_reducible refine delivered_frame _ _ _ ?_ (fun _ _ => ?_)
    | with_reducible refine heard_frame _ _ _ ?_ (fun _ _ => ?_) | with_reducible apply frame_next
    | with_reducible apply frame_ite | with_reducible apply State.setTrn_only | with_reducible apply State.acceptInv_only
theorem execInvalidationComplete_frame {ps : List Piece} {s0 : State} (s : State) (h : s0.only ps s) (h_out : .out ∈ ps := by simp [*]) (h_gal : .gal ∈ ps := by simp [*]) (h_trn : .trn ∈ ps := by simp [*]) (h_obs : .obs ∈ ps := by simp [*]) (h_rcd : .rcd ∈ ps := by simp [*]) :
    Frame ps s0 (execInvalidationComplete s) := by
  unfold execInvalidationComplete
  repeat' first
    | with_reducible assumption | with_reducible refine inUnit_frame _ _ _ _ ?_ (fun _ _ => ?_)
    | with_reducible apply frame_next | with_reducible apply frame_ite | with_reducible apply State.invDoneFor_only
    | with_reducible apply State.setTrn_only | split
theorem execInvalidationNumberingRelease_frame {ps : List Piece} {s0 : State} (x0 : Fin 16) (s : State) (h : s0.only ps s) (h_trn : .trn ∈ ps := by simp [*]) (h_lka : .lka ∈ ps := by simp [*]) (h_aon : .aon ∈ ps := by simp [*]) :
    Frame ps s0 (execInvalidationNumberingRelease x0 s) := by
  unfold execInvalidationNumberingRelease
  repeat' first
    | with_reducible assumption | with_reducible refine inUnit_frame _ _ _ _ ?_ (fun _ _ => ?_)
    | with_reducible apply frame_next | with_reducible apply frame_ite | with_reducible apply State.numberInv_only
    | with_reducible apply State.setTrn_only | (with_reducible apply only_foldl; intro _ _ _; try dsimp only)
theorem execInvctlContext_frame {ps : List Piece} {s0 : State} (x0 : Who) (x1 : BitVec 4) (x2 : BitVec 6) (s : State) (h : s0.only ps s) (h_held : .held ∈ ps := by simp [*]) (h_out : .out ∈ ps := by simp [*]) (h_trn : .trn ∈ ps := by simp [*]) (h_lka : .lka ∈ ps := by simp [*]) (h_ic : .ic ∈ ps := by simp [*]) (h_aon : .aon ∈ ps := by simp [*]) (h_err : .err ∈ ps := by simp [*]) :
    Frame ps s0 (execInvctlContext x0 x1 x2 s) := by
  unfold execInvctlContext
  repeat' first
    | with_reducible assumption | with_reducible refine delivered_frame _ _ _ ?_ (fun _ _ => ?_)
    | with_reducible refine heard_frame _ _ _ ?_ (fun _ _ => ?_) | with_reducible apply frame_next
    | with_reducible apply frame_ite | with_reducible apply State.invctl_only
theorem execInvctlPartition_frame {ps : List Piece} {s0 : State} (x0 : Who) (x1 : BitVec 4) (s : State) (h : s0.only ps s) (h_held : .held ∈ ps := by simp [*]) (h_out : .out ∈ ps := by simp [*]) (h_trn : .trn ∈ ps := by simp [*]) (h_lka : .lka ∈ ps := by simp [*]) (h_ic : .ic ∈ ps := by simp [*]) (h_aon : .aon ∈ ps := by simp [*]) (h_err : .err ∈ ps := by simp [*]) :
    Frame ps s0 (execInvctlPartition x0 x1 s) := by
  unfold execInvctlPartition
  repeat' first
    | with_reducible assumption | with_reducible refine delivered_frame _ _ _ ?_ (fun _ _ => ?_)
    | with_reducible refine heard_frame _ _ _ ?_ (fun _ _ => ?_) | with_reducible apply frame_next
    | with_reducible apply frame_ite | with_reducible apply State.invctl_only
theorem execInvctlRange_frame {ps : List Piece} {s0 : State} (x0 : Who) (x1 : BitVec 4) (x2 : BitVec 6) (s : State) (h : s0.only ps s) (h_held : .held ∈ ps := by simp [*]) (h_out : .out ∈ ps := by simp [*]) (h_trn : .trn ∈ ps := by simp [*]) (h_lka : .lka ∈ ps := by simp [*]) (h_ic : .ic ∈ ps := by simp [*]) (h_aon : .aon ∈ ps := by simp [*]) (h_err : .err ∈ ps := by simp [*]) :
    Frame ps s0 (execInvctlRange x0 x1 x2 s) := by
  unfold execInvctlRange
  repeat' first
    | with_reducible assumption | with_reducible refine delivered_frame _ _ _ ?_ (fun _ _ => ?_)
    | with_reducible refine heard_frame _ _ _ ?_ (fun _ _ => ?_) | with_reducible apply frame_next
    | with_reducible apply frame_ite | with_reducible apply State.invctl_only
theorem execTbindWrite_frame {ps : List Piece} {s0 : State} (x0 : Who) (x1 : Fin 64) (x2 : W32) (s : State) (h : s0.only ps s) (h_held : .held ∈ ps := by simp [*]) (h_out : .out ∈ ps := by simp [*]) (h_trn : .trn ∈ ps := by simp [*]) (h_ic : .ic ∈ ps := by simp [*]) (h_aon : .aon ∈ ps := by simp [*]) (h_err : .err ∈ ps := by simp [*]) :
    Frame ps s0 (execTbindWrite x0 x1 x2 s) := by
  unfold execTbindWrite
  repeat' first
    | with_reducible assumption | with_reducible refine delivered_frame _ _ _ ?_ (fun _ _ => ?_)
    | with_reducible refine heard_frame _ _ _ ?_ (fun _ _ => ?_) | with_reducible apply frame_next
    | with_reducible apply frame_ite | with_reducible apply State.setTrn_only
theorem execTranslate_frame {ps : List Piece} {s0 : State} (x0 : XReq) (s : State) (h : s0.only ps s) (h_held : .held ∈ ps := by simp [*]) (h_mem : .mem ∈ ps := by simp [*]) (h_poison : .poison ∈ ps := by simp [*]) (h_veil : .veil ∈ ps := by simp [*]) (h_reqs : .reqs ∈ ps := by simp [*]) (h_orphans : .orphans ∈ ps := by simp [*]) (h_nextId : .nextId ∈ ps := by simp [*]) (h_free : .free ∈ ps := by simp [*]) (h_out : .out ∈ ps := by simp [*]) (h_gal : .gal ∈ ps := by simp [*]) (h_trn : .trn ∈ ps := by simp [*]) (h_flt : .flt ∈ ps := by simp [*]) (h_epo : .epo ∈ ps := by simp [*]) (h_plt : .plt ∈ ps := by simp [*]) (h_cmp : .cmp ∈ ps := by simp [*]) (h_lka : .lka ∈ ps := by simp [*]) (h_ic : .ic ∈ ps := by simp [*]) (h_prt : .prt ∈ ps := by simp [*]) (h_aon : .aon ∈ ps := by simp [*]) (h_err : .err ∈ ps := by simp [*]) (h_obs : .obs ∈ ps := by simp [*]) (h_rcd : .rcd ∈ ps := by simp [*]) :
    Frame ps s0 (execTranslate x0 s) := by
  unfold execTranslate
  repeat' first
    | with_reducible assumption | with_reducible refine delivered_frame _ _ _ ?_ (fun _ _ => ?_)
    | with_reducible refine inUnit_frame _ _ _ _ ?_ (fun _ _ => ?_)
    | with_reducible refine gated_frame _ _ _ ?_ (fun _ _ => ?_) | with_reducible apply frame_next
    | with_reducible apply frame_ite | with_reducible apply State.emit_only | with_reducible apply State.addTileTrace_only
    | with_reducible apply State.tileRequest_only | with_reducible apply State.lookupHeld_only | split
theorem execWalkFill_frame {ps : List Piece} {s0 : State} (x0 : Fin 48) (s : State) (h : s0.only ps s) (h_mem : .mem ∈ ps := by simp [*]) (h_poison : .poison ∈ ps := by simp [*]) (h_veil : .veil ∈ ps := by simp [*]) (h_reqs : .reqs ∈ ps := by simp [*]) (h_orphans : .orphans ∈ ps := by simp [*]) (h_nextId : .nextId ∈ ps := by simp [*]) (h_free : .free ∈ ps := by simp [*]) (h_out : .out ∈ ps := by simp [*]) (h_gal : .gal ∈ ps := by simp [*]) (h_trn : .trn ∈ ps := by simp [*]) (h_flt : .flt ∈ ps := by simp [*]) (h_epo : .epo ∈ ps := by simp [*]) (h_plt : .plt ∈ ps := by simp [*]) (h_cmp : .cmp ∈ ps := by simp [*]) (h_lka : .lka ∈ ps := by simp [*]) (h_ic : .ic ∈ ps := by simp [*]) (h_prt : .prt ∈ ps := by simp [*]) (h_err : .err ∈ ps := by simp [*]) (h_obs : .obs ∈ ps := by simp [*]) (h_rcd : .rcd ∈ ps := by simp [*]) :
    Frame ps s0 (execWalkFill x0 s) := by
  unfold execWalkFill
  repeat' first
    | with_reducible assumption | with_reducible refine inUnit_frame _ _ _ _ ?_ (fun _ _ => ?_)
    | with_reducible apply frame_next | with_reducible apply frame_ite | with_reducible apply State.restartWalk_only
    | with_reducible apply State.keepProof_only | with_reducible apply State.fillWalk_only | split
theorem execWalkStart_frame {ps : List Piece} {s0 : State} (x0 : Fin 48) (s : State) (h : s0.only ps s) (h_mem : .mem ∈ ps := by simp [*]) (h_poison : .poison ∈ ps := by simp [*]) (h_veil : .veil ∈ ps := by simp [*]) (h_reqs : .reqs ∈ ps := by simp [*]) (h_orphans : .orphans ∈ ps := by simp [*]) (h_nextId : .nextId ∈ ps := by simp [*]) (h_free : .free ∈ ps := by simp [*]) (h_out : .out ∈ ps := by simp [*]) (h_gal : .gal ∈ ps := by simp [*]) (h_trn : .trn ∈ ps := by simp [*]) (h_flt : .flt ∈ ps := by simp [*]) (h_epo : .epo ∈ ps := by simp [*]) (h_plt : .plt ∈ ps := by simp [*]) (h_cmp : .cmp ∈ ps := by simp [*]) (h_lka : .lka ∈ ps := by simp [*]) (h_ic : .ic ∈ ps := by simp [*]) (h_prt : .prt ∈ ps := by simp [*]) (h_err : .err ∈ ps := by simp [*]) (h_obs : .obs ∈ ps := by simp [*]) (h_rcd : .rcd ∈ ps := by simp [*]) :
    Frame ps s0 (execWalkStart x0 s) := by
  unfold execWalkStart
  repeat' first
    | with_reducible assumption | with_reducible refine inUnit_frame _ _ _ _ ?_ (fun _ _ => ?_)
    | with_reducible apply frame_next | with_reducible apply frame_ite | with_reducible apply State.dropWalk_only
    | with_reducible apply State.setTrn_only | with_reducible apply State.startWalk_only
    | with_reducible apply State.walkSend_only
    | simp only [only_reqs, h_mem, h_poison, h_veil, h_reqs, h_orphans, h_nextId, h_free, h_out, h_gal, h_trn, h_flt, h_epo, h_plt, h_cmp, h_lka, h_ic, h_prt, h_err, h_obs, h_rcd]
    | split
theorem execWalkTableReadReturn_frame {ps : List Piece} {s0 : State} (x0 : Fin 48) (x1 : TblReply) (s : State) (h : s0.only ps s) (h_mem : .mem ∈ ps := by simp [*]) (h_poison : .poison ∈ ps := by simp [*]) (h_veil : .veil ∈ ps := by simp [*]) (h_reqs : .reqs ∈ ps := by simp [*]) (h_orphans : .orphans ∈ ps := by simp [*]) (h_nextId : .nextId ∈ ps := by simp [*]) (h_free : .free ∈ ps := by simp [*]) (h_out : .out ∈ ps := by simp [*]) (h_gal : .gal ∈ ps := by simp [*]) (h_trn : .trn ∈ ps := by simp [*]) (h_flt : .flt ∈ ps := by simp [*]) (h_epo : .epo ∈ ps := by simp [*]) (h_plt : .plt ∈ ps := by simp [*]) (h_cmp : .cmp ∈ ps := by simp [*]) (h_lka : .lka ∈ ps := by simp [*]) (h_ic : .ic ∈ ps := by simp [*]) (h_prt : .prt ∈ ps := by simp [*]) (h_err : .err ∈ ps := by simp [*]) (h_obs : .obs ∈ ps := by simp [*]) (h_rcd : .rcd ∈ ps := by simp [*]) :
    Frame ps s0 (execWalkTableReadReturn x0 x1 s) := by
  unfold execWalkTableReadReturn
  repeat' first
    | with_reducible assumption | with_reducible refine inUnit_frame _ _ _ _ ?_ (fun _ _ => ?_)
    | with_reducible apply frame_next | with_reducible apply frame_ite | with_reducible apply State.staleRead_only
    | with_reducible apply State.walkRead_only | split
theorem execFaultDeadline_frame {ps : List Piece} {s0 : State} (x0 : Fin 16) (s : State) (h : s0.only ps s) (h_reqs : .reqs ∈ ps := by simp [*]) (h_orphans : .orphans ∈ ps := by simp [*]) (h_nextId : .nextId ∈ ps := by simp [*]) (h_out : .out ∈ ps := by simp [*]) (h_gal : .gal ∈ ps := by simp [*]) (h_trn : .trn ∈ ps := by simp [*]) (h_flt : .flt ∈ ps := by simp [*]) (h_epo : .epo ∈ ps := by simp [*]) (h_plt : .plt ∈ ps := by simp [*]) (h_cmp : .cmp ∈ ps := by simp [*]) (h_lka : .lka ∈ ps := by simp [*]) (h_ic : .ic ∈ ps := by simp [*]) (h_obs : .obs ∈ ps := by simp [*]) (h_rcd : .rcd ∈ ps := by simp [*]) :
    Frame ps s0 (execFaultDeadline x0 s) := by
  unfold execFaultDeadline
  repeat' first
    | with_reducible assumption | with_reducible apply frame_next | with_reducible apply frame_ite
    | with_reducible apply State.endUnserviceable_only | with_reducible apply State.modFltp_only
    | (with_reducible apply only_foldl; intro _ _ _; try dsimp only) | split
theorem execFaultEntryAllocate_frame {ps : List Piece} {s0 : State} (x0 : Fin 16) (s : State) (h : s0.only ps s) (h_reqs : .reqs ∈ ps := by simp [*]) (h_orphans : .orphans ∈ ps := by simp [*]) (h_nextId : .nextId ∈ ps := by simp [*]) (h_out : .out ∈ ps := by simp [*]) (h_gal : .gal ∈ ps := by simp [*]) (h_trn : .trn ∈ ps := by simp [*]) (h_flt : .flt ∈ ps := by simp [*]) (h_epo : .epo ∈ ps := by simp [*]) (h_plt : .plt ∈ ps := by simp [*]) (h_cmp : .cmp ∈ ps := by simp [*]) (h_lka : .lka ∈ ps := by simp [*]) (h_ic : .ic ∈ ps := by simp [*]) (h_obs : .obs ∈ ps := by simp [*]) (h_rcd : .rcd ∈ ps := by simp [*]) :
    Frame ps s0 (execFaultEntryAllocate x0 s) := by
  unfold execFaultEntryAllocate
  repeat' first
    | with_reducible assumption | with_reducible refine inUnit_frame _ _ _ _ ?_ (fun _ _ => ?_)
    | with_reducible apply frame_next | with_reducible apply frame_ite | with_reducible apply State.setReq_only
    | with_reducible apply State.giveUp_only | with_reducible apply State.takeEntry_only | split
theorem execFaultRecordDone_frame {ps : List Piece} {s0 : State} (x0 : Fin 16) (x1 : WReply) (s : State) (h : s0.only ps s) (h_mem : .mem ∈ ps := by simp [*]) (h_poison : .poison ∈ ps := by simp [*]) (h_veil : .veil ∈ ps := by simp [*]) (h_reqs : .reqs ∈ ps := by simp [*]) (h_orphans : .orphans ∈ ps := by simp [*]) (h_nextId : .nextId ∈ ps := by simp [*]) (h_out : .out ∈ ps := by simp [*]) (h_gal : .gal ∈ ps := by simp [*]) (h_trn : .trn ∈ ps := by simp [*]) (h_flt : .flt ∈ ps := by simp [*]) (h_epo : .epo ∈ ps := by simp [*]) (h_plt : .plt ∈ ps := by simp [*]) (h_cmp : .cmp ∈ ps := by simp [*]) (h_lka : .lka ∈ ps := by simp [*]) (h_ic : .ic ∈ ps := by simp [*]) (h_obs : .obs ∈ ps := by simp [*]) (h_rcd : .rcd ∈ ps := by simp [*]) :
    Frame ps s0 (execFaultRecordDone x0 x1 s) := by
  unfold execFaultRecordDone
  repeat' first
    | with_reducible assumption | with_reducible refine inUnit_frame _ _ _ _ ?_ (fun _ _ => ?_)
    | with_reducible apply frame_next | with_reducible apply frame_ite
    | with_reducible refine State.writeBack_only (by assumption) ?_ | with_reducible apply State.recordLogged_only
    | with_reducible apply State.dropReq_only | with_reducible apply State.recordFailed_only
    | with_reducible apply State.raiseFaultSource_only | with_reducible apply State.modFltp_only | split | dsimp only
theorem execFaultRecordIssue_frame {ps : List Piece} {s0 : State} (x0 : Fin 16) (s : State) (h : s0.only ps s) (h_reqs : .reqs ∈ ps := by simp [*]) (h_orphans : .orphans ∈ ps := by simp [*]) (h_nextId : .nextId ∈ ps := by simp [*]) (h_free : .free ∈ ps := by simp [*]) (h_out : .out ∈ ps := by simp [*]) (h_gal : .gal ∈ ps := by simp [*]) (h_trn : .trn ∈ ps := by simp [*]) (h_flt : .flt ∈ ps := by simp [*]) (h_epo : .epo ∈ ps := by simp [*]) (h_plt : .plt ∈ ps := by simp [*]) (h_cmp : .cmp ∈ ps := by simp [*]) (h_lka : .lka ∈ ps := by simp [*]) (h_ic : .ic ∈ ps := by simp [*]) (h_prt : .prt ∈ ps := by simp [*]) (h_err : .err ∈ ps := by simp [*]) (h_obs : .obs ∈ ps := by simp [*]) (h_rcd : .rcd ∈ ps := by simp [*]) :
    Frame ps s0 (execFaultRecordIssue x0 s) := by
  unfold execFaultRecordIssue
  repeat' first
    | with_reducible assumption | with_reducible refine inUnit_frame _ _ _ _ ?_ (fun _ _ => ?_)
    | with_reducible apply frame_next | with_reducible apply frame_ite | with_reducible apply State.routeStale_only
    | with_reducible apply State.sendRecord_only | split
theorem execFltRcfgWrite_frame {ps : List Piece} {s0 : State} (x0 : Who) (x1 : W32) (s : State) (h : s0.only ps s) (h_held : .held ∈ ps := by simp [*]) (h_reqs : .reqs ∈ ps := by simp [*]) (h_orphans : .orphans ∈ ps := by simp [*]) (h_nextId : .nextId ∈ ps := by simp [*]) (h_out : .out ∈ ps := by simp [*]) (h_gal : .gal ∈ ps := by simp [*]) (h_trn : .trn ∈ ps := by simp [*]) (h_flt : .flt ∈ ps := by simp [*]) (h_epo : .epo ∈ ps := by simp [*]) (h_plt : .plt ∈ ps := by simp [*]) (h_cmp : .cmp ∈ ps := by simp [*]) (h_lka : .lka ∈ ps := by simp [*]) (h_ic : .ic ∈ ps := by simp [*]) (h_aon : .aon ∈ ps := by simp [*]) (h_err : .err ∈ ps := by simp [*]) (h_obs : .obs ∈ ps := by simp [*]) (h_rcd : .rcd ∈ ps := by simp [*]) :
    Frame ps s0 (execFltRcfgWrite x0 x1 s) := by
  unfold execFltRcfgWrite
  repeat' first
    | with_reducible assumption | with_reducible refine delivered_frame _ _ _ ?_ (fun _ _ => ?_)
    | with_reducible refine heard_frame _ _ _ ?_ (fun _ _ => ?_) | with_reducible apply frame_next
    | with_reducible apply frame_ite | with_reducible apply State.setFltp_only
    | with_reducible apply State.dropWaiting_only | with_reducible apply State.routeEntry_only
    | (with_reducible apply only_foldl; intro _ _ _; try dsimp only) | split
theorem execFltRespAbort_frame {ps : List Piece} {s0 : State} (x0 : Who) (x1 : BitVec 16) (s : State) (h : s0.only ps s) (h_held : .held ∈ ps := by simp [*]) (h_reqs : .reqs ∈ ps := by simp [*]) (h_orphans : .orphans ∈ ps := by simp [*]) (h_nextId : .nextId ∈ ps := by simp [*]) (h_out : .out ∈ ps := by simp [*]) (h_gal : .gal ∈ ps := by simp [*]) (h_trn : .trn ∈ ps := by simp [*]) (h_flt : .flt ∈ ps := by simp [*]) (h_epo : .epo ∈ ps := by simp [*]) (h_plt : .plt ∈ ps := by simp [*]) (h_cmp : .cmp ∈ ps := by simp [*]) (h_lka : .lka ∈ ps := by simp [*]) (h_ic : .ic ∈ ps := by simp [*]) (h_aon : .aon ∈ ps := by simp [*]) (h_err : .err ∈ ps := by simp [*]) (h_obs : .obs ∈ ps := by simp [*]) (h_rcd : .rcd ∈ ps := by simp [*]) :
    Frame ps s0 (execFltRespAbort x0 x1 s) := by
  unfold execFltRespAbort
  repeat' first
    | with_reducible assumption | with_reducible refine delivered_frame _ _ _ ?_ (fun _ _ => ?_)
    | with_reducible refine heard_frame _ _ _ ?_ (fun _ _ => ?_) | with_reducible apply frame_next
    | with_reducible apply frame_ite | with_reducible refine State.respond_only _ _ _ _ (fun _ _ _ _ => ?_) ?_
    | with_reducible apply State.endUnserviceable_only
theorem execFltRespRetry_frame {ps : List Piece} {s0 : State} (x0 : Who) (x1 : BitVec 16) (s : State) (h : s0.only ps s) (h_held : .held ∈ ps := by simp [*]) (h_out : .out ∈ ps := by simp [*]) (h_flt : .flt ∈ ps := by simp [*]) (h_ic : .ic ∈ ps := by simp [*]) (h_aon : .aon ∈ ps := by simp [*]) (h_err : .err ∈ ps := by simp [*]) :
    Frame ps s0 (execFltRespRetry x0 x1 s) := by
  unfold execFltRespRetry
  repeat' first
    | with_reducible assumption | with_reducible refine delivered_frame _ _ _ ?_ (fun _ _ => ?_)
    | with_reducible refine heard_frame _ _ _ ?_ (fun _ _ => ?_) | with_reducible apply frame_next
    | with_reducible apply frame_ite | with_reducible refine State.respond_only _ _ _ _ (fun _ _ _ _ => ?_) ?_
    | with_reducible apply State.setFent_only
theorem execPageRequestSend_frame {ps : List Piece} {s0 : State} (x0 : Fin 16) (s : State) (h : s0.only ps s) (h_reqs : .reqs ∈ ps := by simp [*]) (h_orphans : .orphans ∈ ps := by simp [*]) (h_nextId : .nextId ∈ ps := by simp [*]) (h_out : .out ∈ ps := by simp [*]) (h_gal : .gal ∈ ps := by simp [*]) (h_trn : .trn ∈ ps := by simp [*]) (h_flt : .flt ∈ ps := by simp [*]) (h_epo : .epo ∈ ps := by simp [*]) (h_plt : .plt ∈ ps := by simp [*]) (h_cmp : .cmp ∈ ps := by simp [*]) (h_lka : .lka ∈ ps := by simp [*]) (h_ic : .ic ∈ ps := by simp [*]) (h_obs : .obs ∈ ps := by simp [*]) (h_rcd : .rcd ∈ ps := by simp [*]) :
    Frame ps s0 (execPageRequestSend x0 s) := by
  unfold execPageRequestSend
  repeat' first
    | with_reducible assumption | with_reducible refine inUnit_frame _ _ _ _ ?_ (fun _ _ => ?_)
    | with_reducible apply frame_next | with_reducible apply frame_ite | with_reducible apply State.routeStale_only
    | with_reducible apply State.emit_only | with_reducible apply State.setFent_only | split | dsimp only
theorem execPrgResponse_frame {ps : List Piece} {s0 : State} (x0 : Fin 16) (x1 : Fin 512) (x2 : PrgCode) (s : State) (h : s0.only ps s) (h_held : .held ∈ ps := by simp [*]) (h_reqs : .reqs ∈ ps := by simp [*]) (h_orphans : .orphans ∈ ps := by simp [*]) (h_nextId : .nextId ∈ ps := by simp [*]) (h_out : .out ∈ ps := by simp [*]) (h_gal : .gal ∈ ps := by simp [*]) (h_trn : .trn ∈ ps := by simp [*]) (h_flt : .flt ∈ ps := by simp [*]) (h_epo : .epo ∈ ps := by simp [*]) (h_plt : .plt ∈ ps := by simp [*]) (h_cmp : .cmp ∈ ps := by simp [*]) (h_lka : .lka ∈ ps := by simp [*]) (h_ic : .ic ∈ ps := by simp [*]) (h_aon : .aon ∈ ps := by simp [*]) (h_obs : .obs ∈ ps := by simp [*]) (h_rcd : .rcd ∈ ps := by simp [*]) :
    Frame ps s0 (execPrgResponse x0 x1 x2 s) := by
  unfold execPrgResponse
  repeat' first
    | with_reducible assumption | with_reducible refine delivered_frame _ _ _ ?_ (fun _ _ => ?_)
    | with_reducible apply frame_next | with_reducible apply frame_ite | with_reducible apply State.setFent_only
    | with_reducible apply State.endUnserviceable_only | with_reducible apply State.modFltp_only
    | with_reducible apply State.routeEntry_only | (with_reducible apply only_foldl; intro _ _ _; try dsimp only) | split
theorem execReplayRemovalDone_frame {ps : List Piece} {s0 : State} (x0 : Fin 16) (x1 : Fin 512) (s : State) (h : s0.only ps s) (h_mem : .mem ∈ ps := by simp [*]) (h_poison : .poison ∈ ps := by simp [*]) (h_veil : .veil ∈ ps := by simp [*]) (h_reqs : .reqs ∈ ps := by simp [*]) (h_orphans : .orphans ∈ ps := by simp [*]) (h_nextId : .nextId ∈ ps := by simp [*]) (h_free : .free ∈ ps := by simp [*]) (h_out : .out ∈ ps := by simp [*]) (h_gal : .gal ∈ ps := by simp [*]) (h_trn : .trn ∈ ps := by simp [*]) (h_flt : .flt ∈ ps := by simp [*]) (h_epo : .epo ∈ ps := by simp [*]) (h_plt : .plt ∈ ps := by simp [*]) (h_cmp : .cmp ∈ ps := by simp [*]) (h_lka : .lka ∈ ps := by simp [*]) (h_ic : .ic ∈ ps := by simp [*]) (h_prt : .prt ∈ ps := by simp [*]) (h_err : .err ∈ ps := by simp [*]) (h_obs : .obs ∈ ps := by simp [*]) (h_rcd : .rcd ∈ ps := by simp [*]) :
    Frame ps s0 (execReplayRemovalDone x0 x1 s) := by
  unfold execReplayRemovalDone
  repeat' first
    | with_reducible assumption | with_reducible refine inUnit_frame _ _ _ _ ?_ (fun _ _ => ?_)
    | with_reducible apply frame_next | with_reducible apply frame_ite | with_reducible apply State.replayEntry_only
    | split
theorem execEpochFlip_frame {ps : List Piece} {s0 : State} (x0 : Fin 4096) (x1 : BitVec 16) (s : State) (h : s0.only ps s) (h_gal : .gal ∈ ps := by simp [*]) (h_epo : .epo ∈ ps := by simp [*]) (h_lka : .lka ∈ ps := by simp [*]) (h_obs : .obs ∈ ps := by simp [*]) (h_rcd : .rcd ∈ ps := by simp [*]) :
    Frame ps s0 (execEpochFlip x0 x1 s) := by
  unfold execEpochFlip
  repeat' first
    | with_reducible assumption | with_reducible refine inUnit_frame _ _ _ _ ?_ (fun _ _ => ?_)
    | with_reducible apply frame_next | with_reducible apply frame_ite | with_reducible apply State.applyFlip_only | split
theorem execPurgeSweepEnd_frame {ps : List Piece} {s0 : State} (s : State) (h : s0.only ps s) (h_gal : .gal ∈ ps := by simp [*]) (h_epo : .epo ∈ ps := by simp [*]) (h_cmp : .cmp ∈ ps := by simp [*]) (h_ic : .ic ∈ ps := by simp [*]) (h_obs : .obs ∈ ps := by simp [*]) (h_rcd : .rcd ∈ ps := by simp [*]) :
    Frame ps s0 (execPurgeSweepEnd s) := by
  unfold execPurgeSweepEnd
  repeat' first
    | with_reducible assumption | with_reducible refine inUnit_frame _ _ _ _ ?_ (fun _ _ => ?_)
    | with_reducible apply frame_next | with_reducible apply frame_ite | with_reducible apply State.dropSwatches_only
    | with_reducible apply State.setTable_only | with_reducible apply State.raise_only
    | with_reducible apply State.slotsFreed_only | simp only [only_epo, h_gal, h_epo, h_cmp, h_ic, h_obs, h_rcd]
    | (with_reducible apply only_foldl; intro _ _ _; try dsimp only) | split
theorem execPurgeSweepStart_frame {ps : List Piece} {s0 : State} (s : State) (h : s0.only ps s) (h_out : .out ∈ ps := by simp [*]) (h_epo : .epo ∈ ps := by simp [*]) :
    Frame ps s0 (execPurgeSweepStart s) := by
  unfold execPurgeSweepStart
  repeat' first
    | with_reducible assumption | with_reducible refine inUnit_frame _ _ _ _ ?_ (fun _ _ => ?_)
    | with_reducible apply frame_next | with_reducible apply frame_ite | with_reducible apply State.emit_only
    | simp only [only_epo, h_out, h_epo]
theorem execSlotPurging_frame {ps : List Piece} {s0 : State} (x0 : Fin 16) (x1 : Fin 512) (x2 : Bool) (s : State) (h : s0.only ps s) (h_epo : .epo ∈ ps := by simp [*]) :
    Frame ps s0 (execSlotPurging x0 x1 x2 s) := by
  unfold execSlotPurging
  repeat' first
    | with_reducible assumption | with_reducible refine inUnit_frame _ _ _ _ ?_ (fun _ _ => ?_)
    | with_reducible apply frame_next | with_reducible apply frame_ite | with_reducible apply State.setTable_only
theorem execTrecWrite_frame {ps : List Piece} {s0 : State} (x0 : Who) (x1 : Fin 512) (x2 : Bool) (x3 : W64) (s : State) (h : s0.only ps s) (h_held : .held ∈ ps := by simp [*]) (h_out : .out ∈ ps := by simp [*]) (h_epo : .epo ∈ ps := by simp [*]) (h_cmp : .cmp ∈ ps := by simp [*]) (h_ic : .ic ∈ ps := by simp [*]) (h_aon : .aon ∈ ps := by simp [*]) (h_err : .err ∈ ps := by simp [*]) :
    Frame ps s0 (execTrecWrite x0 x1 x2 x3 s) := by
  unfold execTrecWrite
  repeat' first
    | with_reducible assumption | with_reducible refine delivered_frame _ _ _ ?_ (fun _ _ => ?_)
    | with_reducible refine heard_frame _ _ _ ?_ (fun _ _ => ?_) | with_reducible apply frame_next
    | with_reducible apply frame_ite | with_reducible apply State.stageSlot_only
theorem execLkaCtlWrite_frame {ps : List Piece} {s0 : State} (x0 : Who) (x1 : W32) (s : State) (h : s0.only ps s) (h_held : .held ∈ ps := by simp [*]) (h_reqs : .reqs ∈ ps := by simp [*]) (h_orphans : .orphans ∈ ps := by simp [*]) (h_out : .out ∈ ps := by simp [*]) (h_trn : .trn ∈ ps := by simp [*]) (h_lka : .lka ∈ ps := by simp [*]) (h_ic : .ic ∈ ps := by simp [*]) (h_aon : .aon ∈ ps := by simp [*]) (h_err : .err ∈ ps := by simp [*]) :
    Frame ps s0 (execLkaCtlWrite x0 x1 s) := by
  unfold execLkaCtlWrite
  repeat' first
    | with_reducible assumption | with_reducible refine delivered_frame _ _ _ ?_ (fun _ _ => ?_)
    | with_reducible refine heard_frame _ _ _ ?_ (fun _ _ => ?_) | with_reducible apply frame_next
    | with_reducible apply frame_ite | with_reducible apply State.stopLookahead_only
    | with_reducible apply State.trimReach_only
    | simp only [only_lka, h_held, h_reqs, h_orphans, h_out, h_trn, h_lka, h_ic, h_aon, h_err] | split
theorem execLkaGctlWrite_frame {ps : List Piece} {s0 : State} (x0 : Who) (x1 : W32) (s : State) (h : s0.only ps s) (h_held : .held ∈ ps := by simp [*]) (h_reqs : .reqs ∈ ps := by simp [*]) (h_orphans : .orphans ∈ ps := by simp [*]) (h_out : .out ∈ ps := by simp [*]) (h_trn : .trn ∈ ps := by simp [*]) (h_lka : .lka ∈ ps := by simp [*]) (h_ic : .ic ∈ ps := by simp [*]) (h_aon : .aon ∈ ps := by simp [*]) (h_err : .err ∈ ps := by simp [*]) :
    Frame ps s0 (execLkaGctlWrite x0 x1 s) := by
  unfold execLkaGctlWrite
  repeat' first
    | with_reducible assumption | with_reducible refine delivered_frame _ _ _ ?_ (fun _ _ => ?_)
    | with_reducible refine heard_frame _ _ _ ?_ (fun _ _ => ?_) | with_reducible apply frame_next
    | with_reducible apply frame_ite | with_reducible apply State.stopLookahead_only
    | simp only [only_lka, h_held, h_reqs, h_orphans, h_out, h_trn, h_lka, h_ic, h_aon, h_err]
    | (with_reducible apply only_foldl; intro _ _ _; try dsimp only) | split
theorem execProofReadIssue_frame {ps : List Piece} {s0 : State} (x0 : Fin 16) (x1 : ProofRead) (s : State) (h : s0.only ps s) (h_nextId : .nextId ∈ ps := by simp [*]) (h_out : .out ∈ ps := by simp [*]) (h_lka : .lka ∈ ps := by simp [*]) (h_prt : .prt ∈ ps := by simp [*]) :
    Frame ps s0 (execProofReadIssue x0 x1 s) := by
  unfold execProofReadIssue
  repeat' first
    | with_reducible assumption | with_reducible apply frame_next | with_reducible apply frame_ite
    | with_reducible apply State.proofIssue_only | split
theorem execProofReadReturn_frame {ps : List Piece} {s0 : State} (x0 : Fin 16) (x1 : Nat) (x2 : Reply) (s : State) (h : s0.only ps s) (h_lka : .lka ∈ ps := by simp [*]) :
    Frame ps s0 (execProofReadReturn x0 x1 x2 s) := by
  unfold execProofReadReturn
  repeat' first
    | with_reducible assumption | with_reducible apply frame_next | with_reducible apply frame_ite
    | with_reducible apply State.setLk_only | with_reducible apply State.loseProof_only
    | with_reducible apply State.keepData_only | split
theorem execProofRingReadReturn_frame {ps : List Piece} {s0 : State} (x0 : Fin 16) (x1 : Reply) (s : State) (h : s0.only ps s) (h_lka : .lka ∈ ps := by simp [*]) :
    Frame ps s0 (execProofRingReadReturn x0 x1 s) := by
  unfold execProofRingReadReturn
  repeat' first
    | with_reducible assumption | with_reducible apply frame_next | with_reducible apply frame_ite
    | with_reducible apply State.dropProofs_only | with_reducible apply State.setLk_only
    | with_reducible apply State.keepData_only | with_reducible apply State.proofSeal_only
    | (with_reducible apply only_foldl; intro _ _ _; try dsimp only) | split
theorem execProofSealRetry_frame {ps : List Piece} {s0 : State} (x0 : Fin 16) (s : State) (h : s0.only ps s) (h_lka : .lka ∈ ps := by simp [*]) :
    Frame ps s0 (execProofSealRetry x0 s) := by
  unfold execProofSealRetry
  repeat' first
    | with_reducible assumption | with_reducible apply frame_next | with_reducible apply frame_ite
    | with_reducible apply State.setLk_only
theorem execProofWalkStart_frame {ps : List Piece} {s0 : State} (x0 : Fin 16) (x1 : Fin 48) (x2 : BitVec 57) (s : State) (h : s0.only ps s) (h_mem : .mem ∈ ps := by simp [*]) (h_poison : .poison ∈ ps := by simp [*]) (h_veil : .veil ∈ ps := by simp [*]) (h_reqs : .reqs ∈ ps := by simp [*]) (h_orphans : .orphans ∈ ps := by simp [*]) (h_nextId : .nextId ∈ ps := by simp [*]) (h_free : .free ∈ ps := by simp [*]) (h_out : .out ∈ ps := by simp [*]) (h_gal : .gal ∈ ps := by simp [*]) (h_trn : .trn ∈ ps := by simp [*]) (h_flt : .flt ∈ ps := by simp [*]) (h_epo : .epo ∈ ps := by simp [*]) (h_plt : .plt ∈ ps := by simp [*]) (h_cmp : .cmp ∈ ps := by simp [*]) (h_lka : .lka ∈ ps := by simp [*]) (h_ic : .ic ∈ ps := by simp [*]) (h_prt : .prt ∈ ps := by simp [*]) (h_err : .err ∈ ps := by simp [*]) (h_obs : .obs ∈ ps := by simp [*]) (h_rcd : .rcd ∈ ps := by simp [*]) :
    Frame ps s0 (execProofWalkStart x0 x1 x2 s) := by
  unfold execProofWalkStart
  repeat' first
    | with_reducible assumption | with_reducible refine inUnit_frame _ _ _ _ ?_ (fun _ _ => ?_)
    | with_reducible apply frame_next | with_reducible apply frame_ite | with_reducible apply State.walkSend_only
    | with_reducible apply State.startWalk_only
    | simp only [only_lka, h_mem, h_poison, h_veil, h_reqs, h_orphans, h_nextId, h_free, h_out, h_gal, h_trn, h_flt, h_epo, h_plt, h_cmp, h_lka, h_ic, h_prt, h_err, h_obs, h_rcd]
    | split
theorem execCheadWrite_frame {ps : List Piece} {s0 : State} (x0 : Who) (x1 : Fin 4096) (x2 : BitVec 16) (s : State) (h : s0.only ps s) (h_held : .held ∈ ps := by simp [*]) (h_out : .out ∈ ps := by simp [*]) (h_gal : .gal ∈ ps := by simp [*]) (h_ic : .ic ∈ ps := by simp [*]) (h_aon : .aon ∈ ps := by simp [*]) (h_err : .err ∈ ps := by simp [*]) :
    Frame ps s0 (execCheadWrite x0 x1 x2 s) := by
  unfold execCheadWrite
  repeat' first
    | with_reducible assumption | with_reducible refine delivered_frame _ _ _ ?_ (fun _ _ => ?_)
    | with_reducible refine heard_frame _ _ _ ?_ (fun _ _ => ?_) | with_reducible apply frame_next
    | with_reducible apply frame_ite | with_reducible apply State.isolation_only | with_reducible apply State.setQueue_only
    | split
theorem execCommandEnd_frame {ps : List Piece} {s0 : State} (x0 : Fin 4096) (x1 : BitVec 16) (s : State) (h : s0.only ps s) (h_reqs : .reqs ∈ ps := by simp [*]) (h_orphans : .orphans ∈ ps := by simp [*]) (h_nextId : .nextId ∈ ps := by simp [*]) (h_tileQ : .tileQ ∈ ps := by simp [*]) (h_out : .out ∈ ps := by simp [*]) (h_gal : .gal ∈ ps := by simp [*]) (h_trn : .trn ∈ ps := by simp [*]) (h_flt : .flt ∈ ps := by simp [*]) (h_lka : .lka ∈ ps := by simp [*]) (h_tal : .tal ∈ ps := by simp [*]) (h_ic : .ic ∈ ps := by simp [*]) (h_prt : .prt ∈ ps := by simp [*]) (h_aon : .aon ∈ ps := by simp [*]) (h_obs : .obs ∈ ps := by simp [*]) (h_rcd : .rcd ∈ ps := by simp [*]) :
    Frame ps s0 (execCommandEnd x0 x1 s) := by
  unfold execCommandEnd
  repeat' first
    | with_reducible assumption | with_reducible refine galley_frame _ _ ?_ (fun _ _ => ?_)
    | with_reducible apply frame_next | with_reducible apply frame_ite | with_reducible apply State.endCmd_only
    | with_reducible apply State.flushStep_only | with_reducible apply State.pumpRecords_only | split | dsimp only
theorem execDoorbellWrite_frame {ps : List Piece} {s0 : State} (x0 : Who) (x1 : Fin 4096) (x2 : Bool) (x3 : BitVec 16) (s : State) (h : s0.only ps s) (h_held : .held ∈ ps := by simp [*]) (h_reqs : .reqs ∈ ps := by simp [*]) (h_orphans : .orphans ∈ ps := by simp [*]) (h_out : .out ∈ ps := by simp [*]) (h_gal : .gal ∈ ps := by simp [*]) (h_trn : .trn ∈ ps := by simp [*]) (h_flt : .flt ∈ ps := by simp [*]) (h_lka : .lka ∈ ps := by simp [*]) (h_ic : .ic ∈ ps := by simp [*]) (h_aon : .aon ∈ ps := by simp [*]) (h_err : .err ∈ ps := by simp [*]) (h_rcd : .rcd ∈ ps := by simp [*]) :
    Frame ps s0 (execDoorbellWrite x0 x1 x2 x3 s) := by
  unfold execDoorbellWrite
  repeat' first
    | with_reducible assumption | with_reducible refine delivered_frame _ _ _ ?_ (fun _ _ => ?_)
    | with_reducible refine heard_frame _ _ _ ?_ (fun _ _ => ?_) | with_reducible apply frame_next
    | with_reducible apply frame_ite | with_reducible apply State.isolation_only
    | with_reducible apply State.haltQueue_only | with_reducible apply State.setQueue_only
    | with_reducible apply State.bellRetry_only | with_reducible apply State.makeReady_only | split
theorem execFlushingReadComplete_frame {ps : List Piece} {s0 : State} (x0 : Fin 4096) (x1 : BitVec 16) (x2 : Bool) (s : State) (h : s0.only ps s) (h_reqs : .reqs ∈ ps := by simp [*]) (h_orphans : .orphans ∈ ps := by simp [*]) (h_nextId : .nextId ∈ ps := by simp [*]) (h_tileQ : .tileQ ∈ ps := by simp [*]) (h_out : .out ∈ ps := by simp [*]) (h_gal : .gal ∈ ps := by simp [*]) (h_trn : .trn ∈ ps := by simp [*]) (h_flt : .flt ∈ ps := by simp [*]) (h_lka : .lka ∈ ps := by simp [*]) (h_tal : .tal ∈ ps := by simp [*]) (h_ic : .ic ∈ ps := by simp [*]) (h_aon : .aon ∈ ps := by simp [*]) (h_obs : .obs ∈ ps := by simp [*]) (h_rcd : .rcd ∈ ps := by simp [*]) :
    Frame ps s0 (execFlushingReadComplete x0 x1 x2 s) := by
  unfold execFlushingReadComplete
  repeat' first
    | with_reducible assumption | with_reducible refine galley_frame _ _ ?_ (fun _ _ => ?_)
    | with_reducible refine inPort_frame _ _ _ ?_ (fun _ _ => ?_) | with_reducible apply frame_next
    | with_reducible apply frame_ite | with_reducible apply State.flushEnds_only | split
theorem execQctlDisable_frame {ps : List Piece} {s0 : State} (x0 : Who) (s : State) (h : s0.only ps s) (h_held : .held ∈ ps := by simp [*]) (h_reqs : .reqs ∈ ps := by simp [*]) (h_orphans : .orphans ∈ ps := by simp [*]) (h_out : .out ∈ ps := by simp [*]) (h_gal : .gal ∈ ps := by simp [*]) (h_trn : .trn ∈ ps := by simp [*]) (h_flt : .flt ∈ ps := by simp [*]) (h_lka : .lka ∈ ps := by simp [*]) (h_ic : .ic ∈ ps := by simp [*]) (h_aon : .aon ∈ ps := by simp [*]) (h_err : .err ∈ ps := by simp [*]) (h_rcd : .rcd ∈ ps := by simp [*]) :
    Frame ps s0 (execQctlDisable x0 s) := by
  unfold execQctlDisable
  repeat' first
    | with_reducible assumption | with_reducible refine onQueue_frame _ _ _ _ ?_ (fun _ _ _ => ?_)
    | with_reducible apply frame_next | with_reducible apply frame_ite | with_reducible apply State.discardQueue_only
    | with_reducible apply State.modQueue_only | with_reducible apply State.dropFetch_only | split | dsimp only
theorem execQctlEnable_frame {ps : List Piece} {s0 : State} (x0 : Who) (s : State) (h : s0.only ps s) (h_held : .held ∈ ps := by simp [*]) (h_out : .out ∈ ps := by simp [*]) (h_gal : .gal ∈ ps := by simp [*]) (h_ic : .ic ∈ ps := by simp [*]) (h_aon : .aon ∈ ps := by simp [*]) (h_err : .err ∈ ps := by simp [*]) :
    Frame ps s0 (execQctlEnable x0 s) := by
  unfold execQctlEnable
  repeat' first
    | with_reducible assumption | with_reducible refine onQueue_frame _ _ _ _ ?_ (fun _ _ _ => ?_)
    | with_reducible apply frame_next | with_reducible apply frame_ite | with_reducible apply State.readyOrIdle_only
    | with_reducible apply State.setQueue_only | split | dsimp only
theorem execQctlReset_frame {ps : List Piece} {s0 : State} (x0 : Who) (s : State) (h : s0.only ps s) (h_held : .held ∈ ps := by simp [*]) (h_reqs : .reqs ∈ ps := by simp [*]) (h_orphans : .orphans ∈ ps := by simp [*]) (h_out : .out ∈ ps := by simp [*]) (h_gal : .gal ∈ ps := by simp [*]) (h_trn : .trn ∈ ps := by simp [*]) (h_flt : .flt ∈ ps := by simp [*]) (h_epo : .epo ∈ ps := by simp [*]) (h_plt : .plt ∈ ps := by simp [*]) (h_cmp : .cmp ∈ ps := by simp [*]) (h_lka : .lka ∈ ps := by simp [*]) (h_ic : .ic ∈ ps := by simp [*]) (h_aon : .aon ∈ ps := by simp [*]) (h_err : .err ∈ ps := by simp [*]) (h_obs : .obs ∈ ps := by simp [*]) (h_rcd : .rcd ∈ ps := by simp [*]) :
    Frame ps s0 (execQctlReset x0 s) := by
  unfold execQctlReset
  repeat' first
    | with_reducible assumption | with_reducible refine onQueue_frame _ _ _ _ ?_ (fun _ _ _ => ?_)
    | with_reducible apply frame_next | with_reducible apply frame_ite | with_reducible apply State.resetQueue_only
theorem execQctlResume_frame {ps : List Piece} {s0 : State} (x0 : Who) (s : State) (h : s0.only ps s) (h_held : .held ∈ ps := by simp [*]) (h_out : .out ∈ ps := by simp [*]) (h_gal : .gal ∈ ps := by simp [*]) (h_ic : .ic ∈ ps := by simp [*]) (h_aon : .aon ∈ ps := by simp [*]) (h_err : .err ∈ ps := by simp [*]) :
    Frame ps s0 (execQctlResume x0 s) := by
  unfold execQctlResume
  repeat' first
    | with_reducible assumption | with_reducible refine onQueue_frame _ _ _ _ ?_ (fun _ _ _ => ?_)
    | with_reducible apply frame_next | with_reducible apply frame_ite | with_reducible apply State.readyOrIdle_only
    | with_reducible apply State.setQueue_only | split | dsimp only
theorem execQueueDrained_frame {ps : List Piece} {s0 : State} (x0 : Fin 4096) (s : State) (h : s0.only ps s) (h_gal : .gal ∈ ps := by simp [*]) (h_aon : .aon ∈ ps := by simp [*]) :
    Frame ps s0 (execQueueDrained x0 s) := by
  unfold execQueueDrained
  repeat' first
    | with_reducible assumption | with_reducible refine galley_frame _ _ ?_ (fun _ _ => ?_)
    | with_reducible apply frame_next | with_reducible apply frame_ite | with_reducible apply State.modQueue_only
theorem execQueueResetDone_frame {ps : List Piece} {s0 : State} (x0 : Fin 4096) (s : State) (h : s0.only ps s) (h_reqs : .reqs ∈ ps := by simp [*]) (h_orphans : .orphans ∈ ps := by simp [*]) (h_gal : .gal ∈ ps := by simp [*]) (h_trn : .trn ∈ ps := by simp [*]) (h_flt : .flt ∈ ps := by simp [*]) (h_epo : .epo ∈ ps := by simp [*]) (h_plt : .plt ∈ ps := by simp [*]) (h_cmp : .cmp ∈ ps := by simp [*]) (h_lka : .lka ∈ ps := by simp [*]) (h_ic : .ic ∈ ps := by simp [*]) (h_aon : .aon ∈ ps := by simp [*]) (h_obs : .obs ∈ ps := by simp [*]) (h_rcd : .rcd ∈ ps := by simp [*]) :
    Frame ps s0 (execQueueResetDone x0 s) := by
  unfold execQueueResetDone
  repeat' first
    | with_reducible assumption | with_reducible refine galley_frame _ _ ?_ (fun _ _ => ?_)
    | with_reducible apply frame_next | with_reducible apply frame_ite | with_reducible apply State.resetQueue_only
    | with_reducible apply State.modQueue_only
theorem execRecordWriteResponse_frame {ps : List Piece} {s0 : State} (x0 : Fin 4096) (x1 : BitVec 16) (x2 : WReply) (s : State) (h : s0.only ps s) (h_mem : .mem ∈ ps := by simp [*]) (h_poison : .poison ∈ ps := by simp [*]) (h_veil : .veil ∈ ps := by simp [*]) (h_reqs : .reqs ∈ ps := by simp [*]) (h_orphans : .orphans ∈ ps := by simp [*]) (h_nextId : .nextId ∈ ps := by simp [*]) (h_tileQ : .tileQ ∈ ps := by simp [*]) (h_out : .out ∈ ps := by simp [*]) (h_gal : .gal ∈ ps := by simp [*]) (h_trn : .trn ∈ ps := by simp [*]) (h_flt : .flt ∈ ps := by simp [*]) (h_lka : .lka ∈ ps := by simp [*]) (h_tal : .tal ∈ ps := by simp [*]) (h_ic : .ic ∈ ps := by simp [*]) (h_aon : .aon ∈ ps := by simp [*]) (h_obs : .obs ∈ ps := by simp [*]) (h_rcd : .rcd ∈ ps := by simp [*]) :
    Frame ps s0 (execRecordWriteResponse x0 x1 x2 s) := by
  unfold execRecordWriteResponse
  repeat' first
    | with_reducible assumption | with_reducible refine galley_frame _ _ ?_ (fun _ _ => ?_)
    | with_reducible apply frame_next | with_reducible apply frame_ite
    | with_reducible refine State.writeBack_only (by assumption) ?_ | with_reducible apply State.dropReq_only
    | with_reducible apply State.dropCmd_only | with_reducible apply State.recordFails_only
    | with_reducible apply State.setQueue_only | with_reducible apply State.finishCmd_only | split
theorem execRereadReturn_frame {ps : List Piece} {s0 : State} (x0 : Fin 4096) (x1 : Fin 65) (x2 : Reply) (s : State) (h : s0.only ps s) (h_reqs : .reqs ∈ ps := by simp [*]) (h_orphans : .orphans ∈ ps := by simp [*]) (h_gal : .gal ∈ ps := by simp [*]) (h_trn : .trn ∈ ps := by simp [*]) (h_flt : .flt ∈ ps := by simp [*]) (h_lka : .lka ∈ ps := by simp [*]) (h_ic : .ic ∈ ps := by simp [*]) (h_aon : .aon ∈ ps := by simp [*]) (h_obs : .obs ∈ ps := by simp [*]) (h_rcd : .rcd ∈ ps := by simp [*]) :
    Frame ps s0 (execRereadReturn x0 x1 x2 s) := by
  unfold execRereadReturn
  repeat' first
    | with_reducible assumption | with_reducible refine galley_frame _ _ ?_ (fun _ _ => ?_)
    | with_reducible apply frame_next | with_reducible apply frame_ite
    | with_reducible refine State.takeReads_only (by assumption) ?_ | with_reducible apply State.haltQueue_only
    | with_reducible apply State.modQueue_only | with_reducible apply State.setQueue_only
    | with_reducible apply State.takeSlug_only | split
theorem execRingReadReturn_frame {ps : List Piece} {s0 : State} (x0 : Fin 4096) (x1 : Reply) (s : State) (h : s0.only ps s) (h_reqs : .reqs ∈ ps := by simp [*]) (h_orphans : .orphans ∈ ps := by simp [*]) (h_gal : .gal ∈ ps := by simp [*]) (h_trn : .trn ∈ ps := by simp [*]) (h_flt : .flt ∈ ps := by simp [*]) (h_lka : .lka ∈ ps := by simp [*]) (h_ic : .ic ∈ ps := by simp [*]) (h_aon : .aon ∈ ps := by simp [*]) (h_obs : .obs ∈ ps := by simp [*]) (h_rcd : .rcd ∈ ps := by simp [*]) :
    Frame ps s0 (execRingReadReturn x0 x1 s) := by
  unfold execRingReadReturn
  repeat' first
    | with_reducible assumption | with_reducible refine galley_frame _ _ ?_ (fun _ _ => ?_)
    | with_reducible apply frame_next | with_reducible apply frame_ite
    | with_reducible refine State.takeReads_only (by assumption) ?_ | with_reducible apply State.haltQueue_only
    | with_reducible apply State.setQueue_only | with_reducible apply State.takeSlug_only | split
theorem execSealReread_frame {ps : List Piece} {s0 : State} (x0 : Fin 4096) (s : State) (h : s0.only ps s) (h_reqs : .reqs ∈ ps := by simp [*]) (h_nextId : .nextId ∈ ps := by simp [*]) (h_gal : .gal ∈ ps := by simp [*]) (h_aon : .aon ∈ ps := by simp [*]) :
    Frame ps s0 (execSealReread x0 s) := by
  unfold execSealReread
  repeat' first
    | with_reducible assumption | with_reducible refine galley_frame _ _ ?_ (fun _ _ => ?_)
    | with_reducible apply frame_next | with_reducible apply frame_ite | with_reducible apply State.ringRead_only
    | with_reducible apply State.setQueue_only
theorem execSliceEnd_frame {ps : List Piece} {s0 : State} (x0 : Fin 4096) (s : State) (h : s0.only ps s) (h_reqs : .reqs ∈ ps := by simp [*]) (h_orphans : .orphans ∈ ps := by simp [*]) (h_gal : .gal ∈ ps := by simp [*]) (h_trn : .trn ∈ ps := by simp [*]) (h_flt : .flt ∈ ps := by simp [*]) (h_aon : .aon ∈ ps := by simp [*]) (h_rcd : .rcd ∈ ps := by simp [*]) :
    Frame ps s0 (execSliceEnd x0 s) := by
  unfold execSliceEnd
  repeat' first
    | with_reducible assumption | with_reducible refine galley_frame _ _ ?_ (fun _ _ => ?_)
    | with_reducible apply frame_next | with_reducible apply frame_ite | with_reducible apply State.readyOrIdle_only
    | with_reducible apply State.dropFetch_only
theorem execSlotGrant_frame {ps : List Piece} {s0 : State} (s : State) (h : s0.only ps s) (h_gal : .gal ∈ ps := by simp [*]) (h_aon : .aon ∈ ps := by simp [*]) (h_rcd : .rcd ∈ ps := by simp [*]) :
    Frame ps s0 (execSlotGrant s) := by
  unfold execSlotGrant
  repeat' first
    | with_reducible assumption | with_reducible refine galley_frame _ _ ?_ (fun _ _ => ?_)
    | with_reducible apply frame_next | with_reducible apply frame_ite | with_reducible apply State.grantSlot_only | split
theorem execSlugFetch_frame {ps : List Piece} {s0 : State} (x0 : Fin 4096) (s : State) (h : s0.only ps s) (h_reqs : .reqs ∈ ps := by simp [*]) (h_nextId : .nextId ∈ ps := by simp [*]) (h_gal : .gal ∈ ps := by simp [*]) (h_aon : .aon ∈ ps := by simp [*]) :
    Frame ps s0 (execSlugFetch x0 s) := by
  unfold execSlugFetch
  repeat' first
    | with_reducible assumption | with_reducible refine galley_frame _ _ ?_ (fun _ _ => ?_)
    | with_reducible apply frame_next | with_reducible apply frame_ite | with_reducible apply State.ringRead_only
    | with_reducible apply State.setQueue_only
theorem execWaitConditionCleared_frame {ps : List Piece} {s0 : State} (x0 : Fin 4096) (s : State) (h : s0.only ps s) (h_gal : .gal ∈ ps := by simp [*]) (h_aon : .aon ∈ ps := by simp [*]) :
    Frame ps s0 (execWaitConditionCleared x0 s) := by
  unfold execWaitConditionCleared
  repeat' first
    | with_reducible assumption | with_reducible refine galley_frame _ _ ?_ (fun _ _ => ?_)
    | with_reducible apply frame_next | with_reducible apply frame_ite | with_reducible apply State.modQueue_only
    | with_reducible apply State.makeReady_only
theorem execGather_frame {ps : List Piece} {s0 : State} (x0 : Fin 4096) (s : State) (h : s0.only ps s) (h_mem : .mem ∈ ps := by simp [*]) (h_poison : .poison ∈ ps := by simp [*]) (h_veil : .veil ∈ ps := by simp [*]) (h_reqs : .reqs ∈ ps := by simp [*]) (h_orphans : .orphans ∈ ps := by simp [*]) (h_nextId : .nextId ∈ ps := by simp [*]) (h_free : .free ∈ ps := by simp [*]) (h_out : .out ∈ ps := by simp [*]) (h_gal : .gal ∈ ps := by simp [*]) (h_trn : .trn ∈ ps := by simp [*]) (h_flt : .flt ∈ ps := by simp [*]) (h_epo : .epo ∈ ps := by simp [*]) (h_plt : .plt ∈ ps := by simp [*]) (h_cmp : .cmp ∈ ps := by simp [*]) (h_lka : .lka ∈ ps := by simp [*]) (h_ic : .ic ∈ ps := by simp [*]) (h_prt : .prt ∈ ps := by simp [*]) (h_aon : .aon ∈ ps := by simp [*]) (h_err : .err ∈ ps := by simp [*]) (h_obs : .obs ∈ ps := by simp [*]) (h_rcd : .rcd ∈ ps := by simp [*]) :
    Frame ps s0 (execGather x0 s) := by
  unfold execGather
  repeat' first
    | with_reducible assumption | with_reducible refine atCommit_frame _ _ _ _ ?_ (fun _ _ _ => ?_)
    | with_reducible apply frame_next | with_reducible apply frame_ite | with_reducible apply State.commitGather_only
theorem execInvalidate_frame {ps : List Piece} {s0 : State} (x0 : Fin 4096) (s : State) (h : s0.only ps s) (h_reqs : .reqs ∈ ps := by simp [*]) (h_orphans : .orphans ∈ ps := by simp [*]) (h_gal : .gal ∈ ps := by simp [*]) (h_trn : .trn ∈ ps := by simp [*]) (h_flt : .flt ∈ ps := by simp [*]) (h_lka : .lka ∈ ps := by simp [*]) (h_aon : .aon ∈ ps := by simp [*]) (h_obs : .obs ∈ ps := by simp [*]) (h_rcd : .rcd ∈ ps := by simp [*]) :
    Frame ps s0 (execInvalidate x0 s) := by
  unfold execInvalidate
  repeat' first
    | with_reducible assumption | with_reducible refine atCommit_frame _ _ _ _ ?_ (fun _ _ _ => ?_)
    | with_reducible apply frame_next | with_reducible apply frame_ite | with_reducible apply State.commitInvalidate_only
theorem execMarker_frame {ps : List Piece} {s0 : State} (x0 : Fin 4096) (s : State) (h : s0.only ps s) (h_reqs : .reqs ∈ ps := by simp [*]) (h_orphans : .orphans ∈ ps := by simp [*]) (h_gal : .gal ∈ ps := by simp [*]) (h_trn : .trn ∈ ps := by simp [*]) (h_flt : .flt ∈ ps := by simp [*]) (h_lka : .lka ∈ ps := by simp [*]) (h_aon : .aon ∈ ps := by simp [*]) (h_obs : .obs ∈ ps := by simp [*]) (h_rcd : .rcd ∈ ps := by simp [*]) :
    Frame ps s0 (execMarker x0 s) := by
  unfold execMarker
  repeat' first
    | with_reducible assumption | with_reducible refine atCommit_frame _ _ _ _ ?_ (fun _ _ _ => ?_)
    | with_reducible apply frame_next | with_reducible apply frame_ite | with_reducible apply State.commitEnd_only
theorem execMove_frame {ps : List Piece} {s0 : State} (x0 : Fin 4096) (s : State) (h : s0.only ps s) (h_reqs : .reqs ∈ ps := by simp [*]) (h_orphans : .orphans ∈ ps := by simp [*]) (h_gal : .gal ∈ ps := by simp [*]) (h_trn : .trn ∈ ps := by simp [*]) (h_flt : .flt ∈ ps := by simp [*]) (h_lka : .lka ∈ ps := by simp [*]) (h_aon : .aon ∈ ps := by simp [*]) (h_obs : .obs ∈ ps := by simp [*]) (h_rcd : .rcd ∈ ps := by simp [*]) :
    Frame ps s0 (execMove x0 s) := by
  unfold execMove
  repeat' first
    | with_reducible assumption | with_reducible refine atCommit_frame _ _ _ _ ?_ (fun _ _ _ => ?_)
    | with_reducible apply frame_next | with_reducible apply frame_ite | with_reducible apply State.commitMove_only
theorem execNop_frame {ps : List Piece} {s0 : State} (x0 : Fin 4096) (s : State) (h : s0.only ps s) (h_reqs : .reqs ∈ ps := by simp [*]) (h_orphans : .orphans ∈ ps := by simp [*]) (h_gal : .gal ∈ ps := by simp [*]) (h_trn : .trn ∈ ps := by simp [*]) (h_flt : .flt ∈ ps := by simp [*]) (h_lka : .lka ∈ ps := by simp [*]) (h_aon : .aon ∈ ps := by simp [*]) (h_obs : .obs ∈ ps := by simp [*]) (h_rcd : .rcd ∈ ps := by simp [*]) :
    Frame ps s0 (execNop x0 s) := by
  unfold execNop
  repeat' first
    | with_reducible assumption | with_reducible refine atCommit_frame _ _ _ _ ?_ (fun _ _ _ => ?_)
    | with_reducible apply frame_next | with_reducible apply frame_ite | with_reducible apply State.commitEnd_only
theorem execPut_frame {ps : List Piece} {s0 : State} (x0 : Fin 4096) (s : State) (h : s0.only ps s) (h_reqs : .reqs ∈ ps := by simp [*]) (h_orphans : .orphans ∈ ps := by simp [*]) (h_gal : .gal ∈ ps := by simp [*]) (h_trn : .trn ∈ ps := by simp [*]) (h_flt : .flt ∈ ps := by simp [*]) (h_lka : .lka ∈ ps := by simp [*]) (h_aon : .aon ∈ ps := by simp [*]) (h_obs : .obs ∈ ps := by simp [*]) (h_rcd : .rcd ∈ ps := by simp [*]) :
    Frame ps s0 (execPut x0 s) := by
  unfold execPut
  repeat' first
    | with_reducible assumption | with_reducible refine atCommit_frame _ _ _ _ ?_ (fun _ _ _ => ?_)
    | with_reducible apply frame_next | with_reducible apply frame_ite | with_reducible apply State.commitMove_only
theorem execRetire_frame {ps : List Piece} {s0 : State} (x0 : Fin 4096) (s : State) (h : s0.only ps s) (h_reqs : .reqs ∈ ps := by simp [*]) (h_orphans : .orphans ∈ ps := by simp [*]) (h_gal : .gal ∈ ps := by simp [*]) (h_trn : .trn ∈ ps := by simp [*]) (h_flt : .flt ∈ ps := by simp [*]) (h_epo : .epo ∈ ps := by simp [*]) (h_lka : .lka ∈ ps := by simp [*]) (h_aon : .aon ∈ ps := by simp [*]) (h_obs : .obs ∈ ps := by simp [*]) (h_rcd : .rcd ∈ ps := by simp [*]) :
    Frame ps s0 (execRetire x0 s) := by
  unfold execRetire
  repeat' first
    | with_reducible assumption | with_reducible refine atCommit_frame _ _ _ _ ?_ (fun _ _ _ => ?_)
    | with_reducible apply frame_next | with_reducible apply frame_ite | with_reducible apply State.commitRetire_only
theorem execScatter_frame {ps : List Piece} {s0 : State} (x0 : Fin 4096) (s : State) (h : s0.only ps s) (h_mem : .mem ∈ ps := by simp [*]) (h_poison : .poison ∈ ps := by simp [*]) (h_veil : .veil ∈ ps := by simp [*]) (h_reqs : .reqs ∈ ps := by simp [*]) (h_orphans : .orphans ∈ ps := by simp [*]) (h_nextId : .nextId ∈ ps := by simp [*]) (h_free : .free ∈ ps := by simp [*]) (h_out : .out ∈ ps := by simp [*]) (h_gal : .gal ∈ ps := by simp [*]) (h_trn : .trn ∈ ps := by simp [*]) (h_flt : .flt ∈ ps := by simp [*]) (h_epo : .epo ∈ ps := by simp [*]) (h_plt : .plt ∈ ps := by simp [*]) (h_cmp : .cmp ∈ ps := by simp [*]) (h_lka : .lka ∈ ps := by simp [*]) (h_ic : .ic ∈ ps := by simp [*]) (h_prt : .prt ∈ ps := by simp [*]) (h_aon : .aon ∈ ps := by simp [*]) (h_err : .err ∈ ps := by simp [*]) (h_obs : .obs ∈ ps := by simp [*]) (h_rcd : .rcd ∈ ps := by simp [*]) :
    Frame ps s0 (execScatter x0 s) := by
  unfold execScatter
  repeat' first
    | with_reducible assumption | with_reducible refine atCommit_frame _ _ _ _ ?_ (fun _ _ _ => ?_)
    | with_reducible apply frame_next | with_reducible apply frame_ite | with_reducible apply State.commitGather_only
theorem execStage_frame {ps : List Piece} {s0 : State} (x0 : Fin 4096) (s : State) (h : s0.only ps s) (h_reqs : .reqs ∈ ps := by simp [*]) (h_orphans : .orphans ∈ ps := by simp [*]) (h_gal : .gal ∈ ps := by simp [*]) (h_trn : .trn ∈ ps := by simp [*]) (h_flt : .flt ∈ ps := by simp [*]) (h_epo : .epo ∈ ps := by simp [*]) (h_cmp : .cmp ∈ ps := by simp [*]) (h_lka : .lka ∈ ps := by simp [*]) (h_aon : .aon ∈ ps := by simp [*]) (h_obs : .obs ∈ ps := by simp [*]) (h_rcd : .rcd ∈ ps := by simp [*]) :
    Frame ps s0 (execStage x0 s) := by
  unfold execStage
  repeat' first
    | with_reducible assumption | with_reducible refine atCommit_frame _ _ _ _ ?_ (fun _ _ _ => ?_)
    | with_reducible apply frame_next | with_reducible apply frame_ite | with_reducible apply State.commitStage_only
theorem execSwap_frame {ps : List Piece} {s0 : State} (x0 : Fin 4096) (s : State) (h : s0.only ps s) (h_reqs : .reqs ∈ ps := by simp [*]) (h_orphans : .orphans ∈ ps := by simp [*]) (h_gal : .gal ∈ ps := by simp [*]) (h_trn : .trn ∈ ps := by simp [*]) (h_flt : .flt ∈ ps := by simp [*]) (h_epo : .epo ∈ ps := by simp [*]) (h_lka : .lka ∈ ps := by simp [*]) (h_aon : .aon ∈ ps := by simp [*]) (h_obs : .obs ∈ ps := by simp [*]) (h_rcd : .rcd ∈ ps := by simp [*]) :
    Frame ps s0 (execSwap x0 s) := by
  unfold execSwap
  repeat' first
    | with_reducible assumption | with_reducible refine atCommit_frame _ _ _ _ ?_ (fun _ _ _ => ?_)
    | with_reducible apply frame_next | with_reducible apply frame_ite | with_reducible apply State.commitSwap_only
theorem execSwatch_frame {ps : List Piece} {s0 : State} (x0 : Fin 4096) (s : State) (h : s0.only ps s) (h_mem : .mem ∈ ps := by simp [*]) (h_poison : .poison ∈ ps := by simp [*]) (h_veil : .veil ∈ ps := by simp [*]) (h_reqs : .reqs ∈ ps := by simp [*]) (h_orphans : .orphans ∈ ps := by simp [*]) (h_nextId : .nextId ∈ ps := by simp [*]) (h_free : .free ∈ ps := by simp [*]) (h_out : .out ∈ ps := by simp [*]) (h_gal : .gal ∈ ps := by simp [*]) (h_trn : .trn ∈ ps := by simp [*]) (h_flt : .flt ∈ ps := by simp [*]) (h_epo : .epo ∈ ps := by simp [*]) (h_plt : .plt ∈ ps := by simp [*]) (h_cmp : .cmp ∈ ps := by simp [*]) (h_lka : .lka ∈ ps := by simp [*]) (h_ic : .ic ∈ ps := by simp [*]) (h_prt : .prt ∈ ps := by simp [*]) (h_aon : .aon ∈ ps := by simp [*]) (h_err : .err ∈ ps := by simp [*]) (h_obs : .obs ∈ ps := by simp [*]) (h_rcd : .rcd ∈ ps := by simp [*]) :
    Frame ps s0 (execSwatch x0 s) := by
  unfold execSwatch
  repeat' first
    | with_reducible assumption | with_reducible refine atCommit_frame _ _ _ _ ?_ (fun _ _ _ => ?_)
    | with_reducible apply frame_next | with_reducible apply frame_ite | with_reducible apply State.commitSwatch_only
theorem execTadd_frame {ps : List Piece} {s0 : State} (x0 : Fin 4096) (s : State) (h : s0.only ps s) (h_reqs : .reqs ∈ ps := by simp [*]) (h_orphans : .orphans ∈ ps := by simp [*]) (h_nextId : .nextId ∈ ps := by simp [*]) (h_gal : .gal ∈ ps := by simp [*]) (h_trn : .trn ∈ ps := by simp [*]) (h_flt : .flt ∈ ps := by simp [*]) (h_lka : .lka ∈ ps := by simp [*]) (h_aon : .aon ∈ ps := by simp [*]) (h_obs : .obs ∈ ps := by simp [*]) (h_rcd : .rcd ∈ ps := by simp [*]) :
    Frame ps s0 (execTadd x0 s) := by
  unfold execTadd
  repeat' first
    | with_reducible assumption | with_reducible refine atCommit_frame _ _ _ _ ?_ (fun _ _ _ => ?_)
    | with_reducible apply frame_next | with_reducible apply frame_ite | with_reducible apply State.commitTadd_only
theorem execTset_frame {ps : List Piece} {s0 : State} (x0 : Fin 4096) (s : State) (h : s0.only ps s) (h_reqs : .reqs ∈ ps := by simp [*]) (h_orphans : .orphans ∈ ps := by simp [*]) (h_tileQ : .tileQ ∈ ps := by simp [*]) (h_out : .out ∈ ps := by simp [*]) (h_gal : .gal ∈ ps := by simp [*]) (h_trn : .trn ∈ ps := by simp [*]) (h_flt : .flt ∈ ps := by simp [*]) (h_lka : .lka ∈ ps := by simp [*]) (h_tal : .tal ∈ ps := by simp [*]) (h_ic : .ic ∈ ps := by simp [*]) (h_aon : .aon ∈ ps := by simp [*]) (h_obs : .obs ∈ ps := by simp [*]) (h_rcd : .rcd ∈ ps := by simp [*]) :
    Frame ps s0 (execTset x0 s) := by
  unfold execTset
  repeat' first
    | with_reducible assumption | with_reducible refine atCommit_frame _ _ _ _ ?_ (fun _ _ _ => ?_)
    | with_reducible apply frame_next | with_reducible apply frame_ite | with_reducible apply State.commitTset_only
theorem execWcommit_frame {ps : List Piece} {s0 : State} (x0 : Fin 4096) (s : State) (h : s0.only ps s) (h_reqs : .reqs ∈ ps := by simp [*]) (h_orphans : .orphans ∈ ps := by simp [*]) (h_gal : .gal ∈ ps := by simp [*]) (h_trn : .trn ∈ ps := by simp [*]) (h_flt : .flt ∈ ps := by simp [*]) (h_lka : .lka ∈ ps := by simp [*]) (h_seam : .seam ∈ ps := by simp [*]) (h_aon : .aon ∈ ps := by simp [*]) (h_obs : .obs ∈ ps := by simp [*]) (h_rcd : .rcd ∈ ps := by simp [*]) :
    Frame ps s0 (execWcommit x0 s) := by
  unfold execWcommit
  repeat' first
    | with_reducible assumption | with_reducible refine atCommit_frame _ _ _ _ ?_ (fun _ _ _ => ?_)
    | with_reducible apply frame_next | with_reducible apply frame_ite | with_reducible apply State.commitWcommit_only
theorem execPleatAssign_frame {ps : List Piece} {s0 : State} (x0 : Fin 4096) (x1 : BitVec 16) (s : State) (h : s0.only ps s) (h_gal : .gal ∈ ps := by simp [*]) (h_plt : .plt ∈ ps := by simp [*]) (h_aon : .aon ∈ ps := by simp [*]) (h_obs : .obs ∈ ps := by simp [*]) :
    Frame ps s0 (execPleatAssign x0 x1 s) := by
  unfold execPleatAssign
  repeat' first
    | with_reducible assumption | with_reducible apply frame_next | with_reducible apply frame_ite
    | with_reducible apply State.setCmd_only | with_reducible apply State.setEng_only
    | with_reducible apply State.wake_only | with_reducible apply State.addTrace_only | split
theorem execPleatBurstBegin_frame {ps : List Piece} {s0 : State} (x0 : Fin 64) (s : State) (h : s0.only ps s) (h_reqs : .reqs ∈ ps := by simp [*]) (h_nextId : .nextId ∈ ps := by simp [*]) (h_gal : .gal ∈ ps := by simp [*]) (h_plt : .plt ∈ ps := by simp [*]) (h_ic : .ic ∈ ps := by simp [*]) (h_aon : .aon ∈ ps := by simp [*]) (h_obs : .obs ∈ ps := by simp [*]) (h_rcd : .rcd ∈ ps := by simp [*]) :
    Frame ps s0 (execPleatBurstBegin x0 s) := by
  unfold execPleatBurstBegin
  repeat' first
    | with_reducible assumption | with_reducible refine gated_frame _ _ _ ?_ (fun _ _ => ?_)
    | with_reducible apply frame_next | with_reducible apply frame_ite | with_reducible apply State.beginBurst_only
theorem execPleatReadReturn_frame {ps : List Piece} {s0 : State} (x0 : Fin 64) (x1 : Nat) (x2 : Reply) (s : State) (h : s0.only ps s) (h_reqs : .reqs ∈ ps := by simp [*]) (h_orphans : .orphans ∈ ps := by simp [*]) (h_nextId : .nextId ∈ ps := by simp [*]) (h_out : .out ∈ ps := by simp [*]) (h_gal : .gal ∈ ps := by simp [*]) (h_trn : .trn ∈ ps := by simp [*]) (h_flt : .flt ∈ ps := by simp [*]) (h_epo : .epo ∈ ps := by simp [*]) (h_plt : .plt ∈ ps := by simp [*]) (h_cmp : .cmp ∈ ps := by simp [*]) (h_lka : .lka ∈ ps := by simp [*]) (h_ic : .ic ∈ ps := by simp [*]) (h_aon : .aon ∈ ps := by simp [*]) (h_obs : .obs ∈ ps := by simp [*]) (h_rcd : .rcd ∈ ps := by simp [*]) :
    Frame ps s0 (execPleatReadReturn x0 x1 x2 s) := by
  unfold execPleatReadReturn
  repeat' first
    | with_reducible assumption | with_reducible refine gated_frame _ _ _ ?_ (fun _ _ => ?_)
    | with_reducible apply frame_next | with_reducible apply frame_ite
    | with_reducible refine State.takeReads_only (by assumption) ?_ | with_reducible apply State.bounceAt_only
    | with_reducible apply State.pleatSettle_only | with_reducible apply State.pleatWrites_only
    | with_reducible apply State.modEng_only | split
theorem execPleatWriteResponse_frame {ps : List Piece} {s0 : State} (x0 : Fin 64) (x1 : Nat) (x2 : WReply) (s : State) (h : s0.only ps s) (h_mem : .mem ∈ ps := by simp [*]) (h_poison : .poison ∈ ps := by simp [*]) (h_veil : .veil ∈ ps := by simp [*]) (h_reqs : .reqs ∈ ps := by simp [*]) (h_orphans : .orphans ∈ ps := by simp [*]) (h_nextId : .nextId ∈ ps := by simp [*]) (h_out : .out ∈ ps := by simp [*]) (h_gal : .gal ∈ ps := by simp [*]) (h_trn : .trn ∈ ps := by simp [*]) (h_flt : .flt ∈ ps := by simp [*]) (h_epo : .epo ∈ ps := by simp [*]) (h_plt : .plt ∈ ps := by simp [*]) (h_cmp : .cmp ∈ ps := by simp [*]) (h_lka : .lka ∈ ps := by simp [*]) (h_ic : .ic ∈ ps := by simp [*]) (h_aon : .aon ∈ ps := by simp [*]) (h_obs : .obs ∈ ps := by simp [*]) (h_rcd : .rcd ∈ ps := by simp [*]) :
    Frame ps s0 (execPleatWriteResponse x0 x1 x2 s) := by
  unfold execPleatWriteResponse
  repeat' first
    | with_reducible assumption | with_reducible refine gated_frame _ _ _ ?_ (fun _ _ => ?_)
    | with_reducible apply frame_next | with_reducible apply frame_ite
    | with_reducible refine State.writeBack_only (by assumption) ?_ | with_reducible apply State.bounceAt_only
    | with_reducible apply State.pleatSettle_only | with_reducible apply State.deliverBytes_only
    | with_reducible apply State.dropReq_only | split
theorem execPltCctlAbort_frame {ps : List Piece} {s0 : State} (x0 : Who) (s : State) (h : s0.only ps s) (h_held : .held ∈ ps := by simp [*]) (h_out : .out ∈ ps := by simp [*]) (h_gal : .gal ∈ ps := by simp [*]) (h_plt : .plt ∈ ps := by simp [*]) (h_ic : .ic ∈ ps := by simp [*]) (h_aon : .aon ∈ ps := by simp [*]) (h_err : .err ∈ ps := by simp [*]) (h_obs : .obs ∈ ps := by simp [*]) (h_rcd : .rcd ∈ ps := by simp [*]) :
    Frame ps s0 (execPltCctlAbort x0 s) := by
  unfold execPltCctlAbort
  repeat' first
    | with_reducible assumption | with_reducible refine onEng_frame _ _ _ _ ?_ (fun _ _ _ => ?_)
    | with_reducible apply frame_next | with_reducible apply frame_ite | with_reducible apply State.pleatSettle_only
    | with_reducible apply State.setEng_only | with_reducible apply State.haltWrite_only | split | dsimp only
theorem execPltCctlDeferred_frame {ps : List Piece} {s0 : State} (x0 : Fin 64) (s : State) (h : s0.only ps s) (h_gal : .gal ∈ ps := by simp [*]) (h_plt : .plt ∈ ps := by simp [*]) (h_obs : .obs ∈ ps := by simp [*]) (h_rcd : .rcd ∈ ps := by simp [*]) :
    Frame ps s0 (execPltCctlDeferred x0 s) := by
  unfold execPltCctlDeferred
  repeat' first
    | with_reducible assumption | with_reducible apply frame_next | with_reducible apply frame_ite
    | with_reducible apply State.pleatLater_only
theorem execPltCctlRelease_frame {ps : List Piece} {s0 : State} (x0 : Who) (s : State) (h : s0.only ps s) (h_held : .held ∈ ps := by simp [*]) (h_out : .out ∈ ps := by simp [*]) (h_gal : .gal ∈ ps := by simp [*]) (h_plt : .plt ∈ ps := by simp [*]) (h_ic : .ic ∈ ps := by simp [*]) (h_aon : .aon ∈ ps := by simp [*]) (h_err : .err ∈ ps := by simp [*]) (h_obs : .obs ∈ ps := by simp [*]) (h_rcd : .rcd ∈ ps := by simp [*]) :
    Frame ps s0 (execPltCctlRelease x0 s) := by
  unfold execPltCctlRelease
  repeat' first
    | with_reducible assumption | with_reducible refine onEng_frame _ _ _ _ ?_ (fun _ _ _ => ?_)
    | with_reducible apply frame_next | with_reducible apply frame_ite | with_reducible apply State.haltWrite_only | split
theorem execPltCctlRetry_frame {ps : List Piece} {s0 : State} (x0 : Who) (s : State) (h : s0.only ps s) (h_held : .held ∈ ps := by simp [*]) (h_out : .out ∈ ps := by simp [*]) (h_gal : .gal ∈ ps := by simp [*]) (h_plt : .plt ∈ ps := by simp [*]) (h_ic : .ic ∈ ps := by simp [*]) (h_aon : .aon ∈ ps := by simp [*]) (h_err : .err ∈ ps := by simp [*]) (h_obs : .obs ∈ ps := by simp [*]) (h_rcd : .rcd ∈ ps := by simp [*]) :
    Frame ps s0 (execPltCctlRetry x0 s) := by
  unfold execPltCctlRetry
  repeat' first
    | with_reducible assumption | with_reducible refine onEng_frame _ _ _ _ ?_ (fun _ _ _ => ?_)
    | with_reducible apply frame_next | with_reducible apply frame_ite | with_reducible apply State.haltWrite_only | split
theorem State.compBack_frame {ps : List Piece} {s0 : State} (s : State) (n : Nat) (o : Owner) (id : Nat) (r : Reply) (k : State → Bytes → State)
    (h : s0.only ps s) (hk : ∀ s b, s0.only ps s → s0.only ps (k s b)) (h_reqs : .reqs ∈ ps := by simp [*]) (h_orphans : .orphans ∈ ps := by simp [*]) (h_nextId : .nextId ∈ ps := by simp [*]) (h_out : .out ∈ ps := by simp [*]) (h_gal : .gal ∈ ps := by simp [*]) (h_trn : .trn ∈ ps := by simp [*]) (h_flt : .flt ∈ ps := by simp [*]) (h_epo : .epo ∈ ps := by simp [*]) (h_plt : .plt ∈ ps := by simp [*]) (h_cmp : .cmp ∈ ps := by simp [*]) (h_lka : .lka ∈ ps := by simp [*]) (h_ic : .ic ∈ ps := by simp [*]) (h_obs : .obs ∈ ps := by simp [*]) (h_rcd : .rcd ∈ ps := by simp [*]) : Frame ps s0 (s.compBack n o id r k) := by
  unfold State.compBack; dsimp only
  split
  · exact frame_next h
  · have h1 : s0.only ps (((s.piecesOf o).foldl State.noteTrip s).dropReqs fun x => ((s.piecesOf o).map (·.id)).contains x.id) :=
      State.dropReqs_only _ _ (only_foldl _ (fun s a hs => State.noteTrip_only s a hs) _ _ h)
    split
    · exact frame_next (State.bounceAt_only _ _ _ _ ((only_reqs _ _ _ _ h_reqs).2 h1))
    · exact frame_next (hk _ _ h1)
theorem execCompositorWriteResponse_frame {ps : List Piece} {s0 : State} (x0 : Fin 16) (x1 : Nat) (x2 : WReply) (s : State) (h : s0.only ps s) (h_mem : .mem ∈ ps := by simp [*]) (h_poison : .poison ∈ ps := by simp [*]) (h_veil : .veil ∈ ps := by simp [*]) (h_reqs : .reqs ∈ ps := by simp [*]) (h_orphans : .orphans ∈ ps := by simp [*]) (h_nextId : .nextId ∈ ps := by simp [*]) (h_tileQ : .tileQ ∈ ps := by simp [*]) (h_out : .out ∈ ps := by simp [*]) (h_gal : .gal ∈ ps := by simp [*]) (h_trn : .trn ∈ ps := by simp [*]) (h_flt : .flt ∈ ps := by simp [*]) (h_epo : .epo ∈ ps := by simp [*]) (h_plt : .plt ∈ ps := by simp [*]) (h_cmp : .cmp ∈ ps := by simp [*]) (h_lka : .lka ∈ ps := by simp [*]) (h_ic : .ic ∈ ps := by simp [*]) (h_aon : .aon ∈ ps := by simp [*]) (h_obs : .obs ∈ ps := by simp [*]) (h_rcd : .rcd ∈ ps := by simp [*]) :
    Frame ps s0 (execCompositorWriteResponse x0 x1 x2 s) := by
  unfold execCompositorWriteResponse
  repeat' first
    | with_reducible assumption | with_reducible refine gated_frame _ _ _ ?_ (fun _ _ => ?_)
    | with_reducible apply frame_next | with_reducible apply frame_ite | with_reducible apply State.resultBack_only
    | with_reducible apply State.updateBack_only | split
theorem execEpochRecordRead_frame {ps : List Piece} {s0 : State} (x0 : Fin 16) (x1 : Reply) (s : State) (h : s0.only ps s) (h_reqs : .reqs ∈ ps := by simp [*]) (h_orphans : .orphans ∈ ps := by simp [*]) (h_nextId : .nextId ∈ ps := by simp [*]) (h_out : .out ∈ ps := by simp [*]) (h_gal : .gal ∈ ps := by simp [*]) (h_trn : .trn ∈ ps := by simp [*]) (h_flt : .flt ∈ ps := by simp [*]) (h_epo : .epo ∈ ps := by simp [*]) (h_plt : .plt ∈ ps := by simp [*]) (h_cmp : .cmp ∈ ps := by simp [*]) (h_lka : .lka ∈ ps := by simp [*]) (h_ic : .ic ∈ ps := by simp [*]) (h_aon : .aon ∈ ps := by simp [*]) (h_obs : .obs ∈ ps := by simp [*]) (h_rcd : .rcd ∈ ps := by simp [*]) :
    Frame ps s0 (execEpochRecordRead x0 x1 s) := by
  unfold execEpochRecordRead
  repeat' first
    | with_reducible assumption | with_reducible refine gated_frame _ _ _ ?_ (fun _ _ => ?_)
    | with_reducible refine State.compBack_frame _ _ _ _ _ _ ?_ (fun _ _ _ => ?_) | with_reducible apply frame_next
    | with_reducible apply frame_ite | with_reducible apply State.compGo_only | with_reducible apply State.discard_only
    | with_reducible apply State.setComp_only | with_reducible apply State.checkOffsets_only | split | dsimp only
theorem execPlacementReadReturn_frame {ps : List Piece} {s0 : State} (x0 : Fin 16) (x1 : Nat) (x2 : Reply) (s : State) (h : s0.only ps s) (h_reqs : .reqs ∈ ps := by simp [*]) (h_orphans : .orphans ∈ ps := by simp [*]) (h_nextId : .nextId ∈ ps := by simp [*]) (h_out : .out ∈ ps := by simp [*]) (h_gal : .gal ∈ ps := by simp [*]) (h_trn : .trn ∈ ps := by simp [*]) (h_flt : .flt ∈ ps := by simp [*]) (h_epo : .epo ∈ ps := by simp [*]) (h_plt : .plt ∈ ps := by simp [*]) (h_cmp : .cmp ∈ ps := by simp [*]) (h_lka : .lka ∈ ps := by simp [*]) (h_ic : .ic ∈ ps := by simp [*]) (h_aon : .aon ∈ ps := by simp [*]) (h_obs : .obs ∈ ps := by simp [*]) (h_rcd : .rcd ∈ ps := by simp [*]) :
    Frame ps s0 (execPlacementReadReturn x0 x1 x2 s) := by
  unfold execPlacementReadReturn
  repeat' first
    | with_reducible assumption | with_reducible refine gated_frame _ _ _ ?_ (fun _ _ => ?_)
    | with_reducible refine State.compBack_frame _ _ _ _ _ _ ?_ (fun _ _ _ => ?_) | with_reducible apply frame_next
    | with_reducible apply frame_ite | with_reducible apply State.compGo_only | with_reducible apply State.setComp_only
    | split
theorem execResultWrite_frame {ps : List Piece} {s0 : State} (x0 : Fin 16) (s : State) (h : s0.only ps s) (h_reqs : .reqs ∈ ps := by simp [*]) (h_nextId : .nextId ∈ ps := by simp [*]) (h_gal : .gal ∈ ps := by simp [*]) (h_epo : .epo ∈ ps := by simp [*]) (h_cmp : .cmp ∈ ps := by simp [*]) (h_lka : .lka ∈ ps := by simp [*]) (h_aon : .aon ∈ ps := by simp [*]) (h_obs : .obs ∈ ps := by simp [*]) (h_rcd : .rcd ∈ ps := by simp [*]) :
    Frame ps s0 (execResultWrite x0 s) := by
  unfold execResultWrite
  repeat' first
    | with_reducible assumption | with_reducible refine gated_frame _ _ _ ?_ (fun _ _ => ?_)
    | with_reducible apply frame_next | with_reducible apply frame_ite | with_reducible apply State.compSettle_only
    | with_reducible apply State.compWrites_only | with_reducible apply State.setComp_only | split | dsimp only
theorem execRowReadReturn_frame {ps : List Piece} {s0 : State} (x0 : Fin 16) (x1 : Nat) (x2 : Reply) (s : State) (h : s0.only ps s) (h_reqs : .reqs ∈ ps := by simp [*]) (h_orphans : .orphans ∈ ps := by simp [*]) (h_nextId : .nextId ∈ ps := by simp [*]) (h_out : .out ∈ ps := by simp [*]) (h_gal : .gal ∈ ps := by simp [*]) (h_trn : .trn ∈ ps := by simp [*]) (h_flt : .flt ∈ ps := by simp [*]) (h_epo : .epo ∈ ps := by simp [*]) (h_plt : .plt ∈ ps := by simp [*]) (h_cmp : .cmp ∈ ps := by simp [*]) (h_lka : .lka ∈ ps := by simp [*]) (h_ic : .ic ∈ ps := by simp [*]) (h_aon : .aon ∈ ps := by simp [*]) (h_obs : .obs ∈ ps := by simp [*]) (h_rcd : .rcd ∈ ps := by simp [*]) :
    Frame ps s0 (execRowReadReturn x0 x1 x2 s) := by
  unfold execRowReadReturn
  repeat' first
    | with_reducible assumption | with_reducible refine gated_frame _ _ _ ?_ (fun _ _ => ?_)
    | with_reducible refine State.compBack_frame _ _ _ _ _ _ ?_ (fun _ _ _ => ?_) | with_reducible apply frame_next
    | with_reducible apply frame_ite | with_reducible apply State.compGo_only | with_reducible apply State.meterFetch_only
    | with_reducible apply State.setComp_only | split | dsimp only
theorem execScatterRowUpdate_frame {ps : List Piece} {s0 : State} (x0 : Fin 16) (s : State) (h : s0.only ps s) (h_mem : .mem ∈ ps := by simp [*]) (h_poison : .poison ∈ ps := by simp [*]) (h_veil : .veil ∈ ps := by simp [*]) (h_reqs : .reqs ∈ ps := by simp [*]) (h_orphans : .orphans ∈ ps := by simp [*]) (h_nextId : .nextId ∈ ps := by simp [*]) (h_out : .out ∈ ps := by simp [*]) (h_gal : .gal ∈ ps := by simp [*]) (h_trn : .trn ∈ ps := by simp [*]) (h_flt : .flt ∈ ps := by simp [*]) (h_epo : .epo ∈ ps := by simp [*]) (h_plt : .plt ∈ ps := by simp [*]) (h_cmp : .cmp ∈ ps := by simp [*]) (h_lka : .lka ∈ ps := by simp [*]) (h_ic : .ic ∈ ps := by simp [*]) (h_prt : .prt ∈ ps := by simp [*]) (h_aon : .aon ∈ ps := by simp [*]) (h_obs : .obs ∈ ps := by simp [*]) (h_rcd : .rcd ∈ ps := by simp [*]) :
    Frame ps s0 (execScatterRowUpdate x0 s) := by
  unfold execScatterRowUpdate
  repeat' first
    | with_reducible assumption | with_reducible refine gated_frame _ _ _ ?_ (fun _ _ => ?_)
    | with_reducible apply frame_next | with_reducible apply frame_ite | with_reducible apply State.updateRow_only | split
    | dsimp only
theorem execSkcfgClr_frame {ps : List Piece} {s0 : State} (x0 : Who) (x1 : Fin 16) (s : State) (h : s0.only ps s) (h_held : .held ∈ ps := by simp [*]) (h_out : .out ∈ ps := by simp [*]) (h_cmp : .cmp ∈ ps := by simp [*]) (h_ic : .ic ∈ ps := by simp [*]) (h_aon : .aon ∈ ps := by simp [*]) (h_err : .err ∈ ps := by simp [*]) :
    Frame ps s0 (execSkcfgClr x0 x1 s) := by
  unfold execSkcfgClr
  repeat' first
    | with_reducible assumption | with_reducible refine delivered_frame _ _ _ ?_ (fun _ _ => ?_)
    | with_reducible refine heard_frame _ _ _ ?_ (fun _ _ => ?_) | with_reducible apply frame_next
    | with_reducible apply frame_ite | simp only [only_cmp, h_held, h_out, h_cmp, h_ic, h_aon, h_err]
theorem execSkentRead_frame {ps : List Piece} {s0 : State} (x0 : Who) (x1 : Fin 16) (s : State) (h : s0.only ps s) (h_held : .held ∈ ps := by simp [*]) (h_out : .out ∈ ps := by simp [*]) (h_cmp : .cmp ∈ ps := by simp [*]) (h_ic : .ic ∈ ps := by simp [*]) (h_aon : .aon ∈ ps := by simp [*]) (h_err : .err ∈ ps := by simp [*]) :
    Frame ps s0 (execSkentRead x0 x1 s) := by
  unfold execSkentRead
  repeat' first
    | with_reducible assumption | with_reducible refine delivered_frame _ _ _ ?_ (fun _ _ => ?_)
    | with_reducible refine heardRead_frame _ _ _ ?_ (fun _ _ => ?_) | with_reducible apply frame_next
    | with_reducible apply frame_ite | with_reducible apply State.skentRead_only
    | with_reducible refine State.skentRead_eq (by assumption) ?_ | with_reducible apply answerRead_only
theorem execStreamReadReturn_frame {ps : List Piece} {s0 : State} (x0 : Fin 16) (x1 : Nat) (x2 : Reply) (s : State) (h : s0.only ps s) (h_reqs : .reqs ∈ ps := by simp [*]) (h_orphans : .orphans ∈ ps := by simp [*]) (h_nextId : .nextId ∈ ps := by simp [*]) (h_out : .out ∈ ps := by simp [*]) (h_gal : .gal ∈ ps := by simp [*]) (h_trn : .trn ∈ ps := by simp [*]) (h_flt : .flt ∈ ps := by simp [*]) (h_epo : .epo ∈ ps := by simp [*]) (h_plt : .plt ∈ ps := by simp [*]) (h_cmp : .cmp ∈ ps := by simp [*]) (h_lka : .lka ∈ ps := by simp [*]) (h_ic : .ic ∈ ps := by simp [*]) (h_aon : .aon ∈ ps := by simp [*]) (h_obs : .obs ∈ ps := by simp [*]) (h_rcd : .rcd ∈ ps := by simp [*]) :
    Frame ps s0 (execStreamReadReturn x0 x1 x2 s) := by
  unfold execStreamReadReturn
  repeat' first
    | with_reducible assumption | with_reducible refine gated_frame _ _ _ ?_ (fun _ _ => ?_)
    | with_reducible refine State.compBack_frame _ _ _ _ _ _ ?_ (fun _ _ _ => ?_) | with_reducible apply frame_next
    | with_reducible apply frame_ite | with_reducible apply State.setComp_only | with_reducible apply State.compGo_only
    | with_reducible apply State.checkOffsets_only | split
theorem execSwatchReadReturn_frame {ps : List Piece} {s0 : State} (x0 : Fin 4096) (x1 : BitVec 16) (x2 : Reply) (s : State) (h : s0.only ps s) (h_reqs : .reqs ∈ ps := by simp [*]) (h_orphans : .orphans ∈ ps := by simp [*]) (h_nextId : .nextId ∈ ps := by simp [*]) (h_gal : .gal ∈ ps := by simp [*]) (h_trn : .trn ∈ ps := by simp [*]) (h_cmp : .cmp ∈ ps := by simp [*]) (h_aon : .aon ∈ ps := by simp [*]) (h_obs : .obs ∈ ps := by simp [*]) (h_rcd : .rcd ∈ ps := by simp [*]) :
    Frame ps s0 (execSwatchReadReturn x0 x1 x2 s) := by
  unfold execSwatchReadReturn
  repeat' first
    | with_reducible assumption | with_reducible refine galley_frame _ _ ?_ (fun _ _ => ?_)
    | with_reducible apply frame_next | with_reducible apply frame_ite
    | with_reducible refine State.takeReads_only (by assumption) ?_ | with_reducible apply State.dropCmd_only
    | with_reducible apply State.endCmd_only | with_reducible apply State.installSwatch_only
    | with_reducible apply State.swatchRecord_only | split
theorem execWindowClose_frame {ps : List Piece} {s0 : State} (x0 : Fin 16) (s : State) (h : s0.only ps s) (h_reqs : .reqs ∈ ps := by simp [*]) (h_nextId : .nextId ∈ ps := by simp [*]) (h_gal : .gal ∈ ps := by simp [*]) (h_epo : .epo ∈ ps := by simp [*]) (h_cmp : .cmp ∈ ps := by simp [*]) (h_lka : .lka ∈ ps := by simp [*]) (h_aon : .aon ∈ ps := by simp [*]) (h_obs : .obs ∈ ps := by simp [*]) (h_rcd : .rcd ∈ ps := by simp [*]) :
    Frame ps s0 (execWindowClose x0 s) := by
  unfold execWindowClose
  repeat' first
    | with_reducible assumption | with_reducible refine gated_frame _ _ _ ?_ (fun _ _ => ?_)
    | with_reducible apply frame_next | with_reducible apply frame_ite | with_reducible apply State.pcntAdd_only
    | with_reducible apply State.trackWindow_only | with_reducible apply State.meterLook_only
    | with_reducible apply State.compGo_only | with_reducible apply State.setComp_only
    | (with_reducible apply only_foldl; intro _ _ _; try dsimp only)
theorem execAccountingPeriod_frame {ps : List Piece} {s0 : State} (s : State) (h : s0.only ps s) (h_mem : .mem ∈ ps := by simp [*]) (h_poison : .poison ∈ ps := by simp [*]) (h_veil : .veil ∈ ps := by simp [*]) (h_reqs : .reqs ∈ ps := by simp [*]) (h_orphans : .orphans ∈ ps := by simp [*]) (h_nextId : .nextId ∈ ps := by simp [*]) (h_out : .out ∈ ps := by simp [*]) (h_gal : .gal ∈ ps := by simp [*]) (h_trn : .trn ∈ ps := by simp [*]) (h_flt : .flt ∈ ps := by simp [*]) (h_epo : .epo ∈ ps := by simp [*]) (h_plt : .plt ∈ ps := by simp [*]) (h_cmp : .cmp ∈ ps := by simp [*]) (h_lka : .lka ∈ ps := by simp [*]) (h_ic : .ic ∈ ps := by simp [*]) (h_prt : .prt ∈ ps := by simp [*]) (h_obs : .obs ∈ ps := by simp [*]) (h_rcd : .rcd ∈ ps := by simp [*]) :
    Frame ps s0 (execAccountingPeriod s) := by
  unfold execAccountingPeriod
  repeat' first
    | with_reducible assumption | with_reducible refine inUnit_frame _ _ _ _ ?_ (fun _ _ => ?_)
    | with_reducible apply frame_next | with_reducible apply frame_ite | with_reducible apply State.release_only
    | with_reducible apply State.endPeriod_only | (with_reducible apply only_foldl; intro _ _ _; try dsimp only)
theorem execQuotaWrite_frame {ps : List Piece} {s0 : State} (x0 : Who) (x1 : Fin 16) (x2 : QuotaReg) (x3 : Half) (x4 : W64) (s : State) (h : s0.only ps s) (h_held : .held ∈ ps := by simp [*]) (h_out : .out ∈ ps := by simp [*]) (h_ic : .ic ∈ ps := by simp [*]) (h_prt : .prt ∈ ps := by simp [*]) (h_aon : .aon ∈ ps := by simp [*]) (h_err : .err ∈ ps := by simp [*]) :
    Frame ps s0 (execQuotaWrite x0 x1 x2 x3 x4 s) := by
  unfold execQuotaWrite
  repeat' first
    | with_reducible assumption | with_reducible refine delivered_frame _ _ _ ?_ (fun _ _ => ?_)
    | with_reducible refine heard_frame _ _ _ ?_ (fun _ _ => ?_) | with_reducible apply frame_next
    | with_reducible apply frame_ite | with_reducible apply State.writeQa_only | with_reducible apply State.writeQb_only
    | with_reducible apply State.writeBw_only | split
theorem execTcactWrite_frame {ps : List Piece} {s0 : State} (x0 : Who) (x1 : Fin 8) (x2 : W32) (s : State) (h : s0.only ps s) (h_held : .held ∈ ps := by simp [*]) (h_out : .out ∈ ps := by simp [*]) (h_ic : .ic ∈ ps := by simp [*]) (h_prt : .prt ∈ ps := by simp [*]) (h_aon : .aon ∈ ps := by simp [*]) (h_err : .err ∈ ps := by simp [*]) :
    Frame ps s0 (execTcactWrite x0 x1 x2 s) := by
  unfold execTcactWrite
  repeat' first
    | with_reducible assumption | with_reducible refine delivered_frame _ _ _ ?_ (fun _ _ => ?_)
    | with_reducible refine heard_frame _ _ _ ?_ (fun _ _ => ?_) | with_reducible apply frame_next
    | with_reducible apply frame_ite | simp only [only_prt, h_held, h_out, h_ic, h_prt, h_aon, h_err]
theorem execTackCapture_frame {ps : List Piece} {s0 : State} (s : State) (h : s0.only ps s) (h_free : .free ∈ ps := by simp [*]) (h_obs : .obs ∈ ps := by simp [*]) :
    Frame ps s0 (execTackCapture s) := by
  unfold execTackCapture
  repeat' first
    | with_reducible assumption | with_reducible refine inUnit_frame _ _ _ _ ?_ (fun _ _ => ?_)
    | with_reducible apply frame_next | with_reducible apply frame_ite | simp only [only_free_obs, h_free, h_obs]
theorem execTackDone_frame {ps : List Piece} {s0 : State} (x0 : Bool) (s : State) (h : s0.only ps s) (h_mem : .mem ∈ ps := by simp [*]) (h_poison : .poison ∈ ps := by simp [*]) (h_veil : .veil ∈ ps := by simp [*]) (h_lka : .lka ∈ ps := by simp [*]) (h_ic : .ic ∈ ps := by simp [*]) (h_err : .err ∈ ps := by simp [*]) (h_obs : .obs ∈ ps := by simp [*]) :
    Frame ps s0 (execTackDone x0 s) := by
  unfold execTackDone
  repeat' first
    | with_reducible assumption | with_reducible refine inUnit_frame _ _ _ _ ?_ (fun _ _ => ?_)
    | with_reducible apply frame_next | with_reducible apply frame_ite | with_reducible apply State.pulses_only
    | with_reducible apply State.tackStore_only | with_reducible apply State.relevel_only
    | simp only [only_obs, h_mem, h_poison, h_veil, h_lka, h_ic, h_err, h_obs] | split
theorem execTackGo_frame {ps : List Piece} {s0 : State} (x0 : Who) (x1 : W32) (s : State) (h : s0.only ps s) (h_held : .held ∈ ps := by simp [*]) (h_out : .out ∈ ps := by simp [*]) (h_ic : .ic ∈ ps := by simp [*]) (h_aon : .aon ∈ ps := by simp [*]) (h_err : .err ∈ ps := by simp [*]) (h_obs : .obs ∈ ps := by simp [*]) :
    Frame ps s0 (execTackGo x0 x1 s) := by
  unfold execTackGo
  repeat' first
    | with_reducible assumption | with_reducible refine delivered_frame _ _ _ ?_ (fun _ _ => ?_)
    | with_reducible refine heard_frame _ _ _ ?_ (fun _ _ => ?_) | with_reducible apply frame_next
    | with_reducible apply frame_ite | with_reducible apply State.startTack_only
    | simp only [only_obs, h_held, h_out, h_ic, h_aon, h_err, h_obs]
theorem execTackWatchdog_frame {ps : List Piece} {s0 : State} (s : State) (h : s0.only ps s) (h_aon : .aon ∈ ps := by simp [*]) (h_obs : .obs ∈ ps := by simp [*]) :
    Frame ps s0 (execTackWatchdog s) := by
  unfold execTackWatchdog
  repeat' first
    | with_reducible assumption | with_reducible refine inUnit_frame _ _ _ _ ?_ (fun _ _ => ?_)
    | with_reducible apply frame_next | with_reducible apply frame_ite | with_reducible apply State.startTack_only
theorem execTempClrpeak_frame {ps : List Piece} {s0 : State} (x0 : Who) (s : State) (h : s0.only ps s) (h_held : .held ∈ ps := by simp [*]) (h_out : .out ∈ ps := by simp [*]) (h_ic : .ic ∈ ps := by simp [*]) (h_aon : .aon ∈ ps := by simp [*]) (h_err : .err ∈ ps := by simp [*]) (h_obs : .obs ∈ ps := by simp [*]) :
    Frame ps s0 (execTempClrpeak x0 s) := by
  unfold execTempClrpeak
  repeat' first
    | with_reducible assumption | with_reducible refine delivered_frame _ _ _ ?_ (fun _ _ => ?_)
    | with_reducible refine heard_frame _ _ _ ?_ (fun _ _ => ?_) | with_reducible apply frame_next
    | with_reducible apply frame_ite | simp only [only_obs, h_held, h_out, h_ic, h_aon, h_err, h_obs]
theorem execTraceDrain_frame {ps : List Piece} {s0 : State} (x0 : Fin 16) (x1 : Fin 65) (s : State) (h : s0.only ps s) (h_mem : .mem ∈ ps := by simp [*]) (h_poison : .poison ∈ ps := by simp [*]) (h_veil : .veil ∈ ps := by simp [*]) (h_reqs : .reqs ∈ ps := by simp [*]) (h_orphans : .orphans ∈ ps := by simp [*]) (h_nextId : .nextId ∈ ps := by simp [*]) (h_free : .free ∈ ps := by simp [*]) (h_out : .out ∈ ps := by simp [*]) (h_gal : .gal ∈ ps := by simp [*]) (h_trn : .trn ∈ ps := by simp [*]) (h_flt : .flt ∈ ps := by simp [*]) (h_epo : .epo ∈ ps := by simp [*]) (h_plt : .plt ∈ ps := by simp [*]) (h_cmp : .cmp ∈ ps := by simp [*]) (h_lka : .lka ∈ ps := by simp [*]) (h_ic : .ic ∈ ps := by simp [*]) (h_prt : .prt ∈ ps := by simp [*]) (h_aon : .aon ∈ ps := by simp [*]) (h_err : .err ∈ ps := by simp [*]) (h_obs : .obs ∈ ps := by simp [*]) (h_rcd : .rcd ∈ ps := by simp [*]) :
    Frame ps s0 (execTraceDrain x0 x1 s) := by
  unfold execTraceDrain
  repeat' first
    | with_reducible assumption | with_reducible refine inUnit_frame _ _ _ _ ?_ (fun _ _ => ?_)
    | with_reducible refine gated_frame _ _ _ ?_ (fun _ _ => ?_) | with_reducible apply frame_next
    | with_reducible apply frame_ite | with_reducible apply State.beginDrain_only
    | with_reducible apply State.tookUnit_only | split | dsimp only
theorem execTraceDrainDone_frame {ps : List Piece} {s0 : State} (x0 : Fin 16) (x1 : Bool) (s : State) (h : s0.only ps s) (h_mem : .mem ∈ ps := by simp [*]) (h_poison : .poison ∈ ps := by simp [*]) (h_veil : .veil ∈ ps := by simp [*]) (h_reqs : .reqs ∈ ps := by simp [*]) (h_orphans : .orphans ∈ ps := by simp [*]) (h_nextId : .nextId ∈ ps := by simp [*]) (h_out : .out ∈ ps := by simp [*]) (h_trn : .trn ∈ ps := by simp [*]) (h_plt : .plt ∈ ps := by simp [*]) (h_lka : .lka ∈ ps := by simp [*]) (h_ic : .ic ∈ ps := by simp [*]) (h_prt : .prt ∈ ps := by simp [*]) (h_obs : .obs ∈ ps := by simp [*]) :
    Frame ps s0 (execTraceDrainDone x0 x1 s) := by
  unfold execTraceDrainDone
  repeat' first
    | with_reducible assumption | with_reducible refine inUnit_frame _ _ _ _ ?_ (fun _ _ => ?_)
    | with_reducible apply frame_next | with_reducible apply frame_ite | with_reducible apply State.endDrain_only
theorem execCompletionTimeout_frame {ps : List Piece} {s0 : State} (x0 : Fin 4) (x1 : Nat) (s : State) (h : s0.only ps s) (h_mem : .mem ∈ ps := by simp [*]) (h_poison : .poison ∈ ps := by simp [*]) (h_veil : .veil ∈ ps := by simp [*]) (h_reqs : .reqs ∈ ps := by simp [*]) (h_orphans : .orphans ∈ ps := by simp [*]) (h_nextId : .nextId ∈ ps := by simp [*]) (h_free : .free ∈ ps := by simp [*]) (h_tileQ : .tileQ ∈ ps := by simp [*]) (h_out : .out ∈ ps := by simp [*]) (h_gal : .gal ∈ ps := by simp [*]) (h_trn : .trn ∈ ps := by simp [*]) (h_flt : .flt ∈ ps := by simp [*]) (h_epo : .epo ∈ ps := by simp [*]) (h_plt : .plt ∈ ps := by simp [*]) (h_cmp : .cmp ∈ ps := by simp [*]) (h_lka : .lka ∈ ps := by simp [*]) (h_tal : .tal ∈ ps := by simp [*]) (h_host : .host ∈ ps := by simp [*]) (h_ic : .ic ∈ ps := by simp [*]) (h_prt : .prt ∈ ps := by simp [*]) (h_err : .err ∈ ps := by simp [*]) (h_obs : .obs ∈ ps := by simp [*]) (h_rcd : .rcd ∈ ps := by simp [*]) :
    Frame ps s0 (execCompletionTimeout x0 x1 s) := by
  unfold execCompletionTimeout
  repeat' first
    | with_reducible assumption | with_reducible apply frame_next | with_reducible apply frame_ite
    | with_reducible apply State.release_only | with_reducible apply State.timeOutTag_only
theorem execConfigurationWrite_frame {ps : List Piece} {s0 : State} (x0 : Fin 16) (x1 : CfgWrite) (s : State) (h : s0.only ps s) (h_held : .held ∈ ps := by simp [*]) (h_mem : .mem ∈ ps := by simp [*]) (h_poison : .poison ∈ ps := by simp [*]) (h_veil : .veil ∈ ps := by simp [*]) (h_reqs : .reqs ∈ ps := by simp [*]) (h_orphans : .orphans ∈ ps := by simp [*]) (h_nextId : .nextId ∈ ps := by simp [*]) (h_free : .free ∈ ps := by simp [*]) (h_tileQ : .tileQ ∈ ps := by simp [*]) (h_out : .out ∈ ps := by simp [*]) (h_gal : .gal ∈ ps := by simp [*]) (h_trn : .trn ∈ ps := by simp [*]) (h_flt : .flt ∈ ps := by simp [*]) (h_epo : .epo ∈ ps := by simp [*]) (h_plt : .plt ∈ ps := by simp [*]) (h_cmp : .cmp ∈ ps := by simp [*]) (h_lka : .lka ∈ ps := by simp [*]) (h_seam : .seam ∈ ps := by simp [*]) (h_tal : .tal ∈ ps := by simp [*]) (h_lin : .lin ∈ ps := by simp [*]) (h_host : .host ∈ ps := by simp [*]) (h_ic : .ic ∈ ps := by simp [*]) (h_prt : .prt ∈ ps := by simp [*]) (h_aon : .aon ∈ ps := by simp [*]) (h_obs : .obs ∈ ps := by simp [*]) (h_rcd : .rcd ∈ ps := by simp [*]) :
    Frame ps s0 (execConfigurationWrite x0 x1 s) := by
  unfold execConfigurationWrite
  repeat' first
    | with_reducible assumption | with_reducible refine delivered_frame _ _ _ ?_ (fun _ _ => ?_)
    | with_reducible apply frame_next | with_reducible apply frame_ite | with_reducible apply State.configure_only
    | with_reducible apply State.emit_only | split
theorem execFlrDrainDone_frame {ps : List Piece} {s0 : State} (x0 : Fin 16) (s : State) (h : s0.only ps s) (h_veil : .veil ∈ ps := by simp [*]) (h_out : .out ∈ ps := by simp [*]) (h_latch : .latch ∈ ps := by simp [*]) (h_gal : .gal ∈ ps := by simp [*]) (h_trn : .trn ∈ ps := by simp [*]) (h_flt : .flt ∈ ps := by simp [*]) (h_epo : .epo ∈ ps := by simp [*]) (h_plt : .plt ∈ ps := by simp [*]) (h_cmp : .cmp ∈ ps := by simp [*]) (h_lka : .lka ∈ ps := by simp [*]) (h_seam : .seam ∈ ps := by simp [*]) (h_tal : .tal ∈ ps := by simp [*]) (h_lin : .lin ∈ ps := by simp [*]) (h_host : .host ∈ ps := by simp [*]) (h_ic : .ic ∈ ps := by simp [*]) (h_prt : .prt ∈ ps := by simp [*]) (h_aon : .aon ∈ ps := by simp [*]) (h_obs : .obs ∈ ps := by simp [*]) (h_rcd : .rcd ∈ ps := by simp [*]) :
    Frame ps s0 (execFlrDrainDone x0 s) := by
  unfold execFlrDrainDone
  repeat' first
    | with_reducible assumption | with_reducible apply frame_next | with_reducible apply frame_ite
    | with_reducible apply State.resetConfig_only | with_reducible apply State.resetRegs_only
    | with_reducible apply State.raiseVeil_only | with_reducible apply State.relevel_only
    | with_reducible apply State.setFn_only
theorem execFlrDrainTimeout_frame {ps : List Piece} {s0 : State} (x0 : Fin 16) (s : State) (h : s0.only ps s) (h_mem : .mem ∈ ps := by simp [*]) (h_poison : .poison ∈ ps := by simp [*]) (h_veil : .veil ∈ ps := by simp [*]) (h_reqs : .reqs ∈ ps := by simp [*]) (h_orphans : .orphans ∈ ps := by simp [*]) (h_nextId : .nextId ∈ ps := by simp [*]) (h_free : .free ∈ ps := by simp [*]) (h_tileQ : .tileQ ∈ ps := by simp [*]) (h_out : .out ∈ ps := by simp [*]) (h_gal : .gal ∈ ps := by simp [*]) (h_trn : .trn ∈ ps := by simp [*]) (h_flt : .flt ∈ ps := by simp [*]) (h_epo : .epo ∈ ps := by simp [*]) (h_plt : .plt ∈ ps := by simp [*]) (h_cmp : .cmp ∈ ps := by simp [*]) (h_lka : .lka ∈ ps := by simp [*]) (h_seam : .seam ∈ ps := by simp [*]) (h_tal : .tal ∈ ps := by simp [*]) (h_host : .host ∈ ps := by simp [*]) (h_ic : .ic ∈ ps := by simp [*]) (h_prt : .prt ∈ ps := by simp [*]) (h_err : .err ∈ ps := by simp [*]) (h_obs : .obs ∈ ps := by simp [*]) (h_rcd : .rcd ∈ ps := by simp [*]) :
    Frame ps s0 (execFlrDrainTimeout x0 s) := by
  unfold execFlrDrainTimeout
  repeat' first
    | with_reducible assumption | with_reducible apply frame_next | with_reducible apply frame_ite
    | with_reducible apply State.discardHeld_only | with_reducible apply State.timeOutPart_only
theorem execFlrReady_frame {ps : List Piece} {s0 : State} (x0 : Fin 16) (s : State) (h : s0.only ps s) (h_host : .host ∈ ps := by simp [*]) :
    Frame ps s0 (execFlrReady x0 s) := by
  unfold execFlrReady
  repeat' first
    | with_reducible assumption | with_reducible apply frame_next | with_reducible apply frame_ite
    | with_reducible apply State.setFn_only
theorem execFundamentalReset_frame {ps : List Piece} {s0 : State} (x0 : Bool) (s : State) (h : s0.only ps s) (h_held : .held ∈ ps := by simp [*]) (h_mem : .mem ∈ ps := by simp [*]) (h_poison : .poison ∈ ps := by simp [*]) (h_veil : .veil ∈ ps := by simp [*]) (h_reqs : .reqs ∈ ps := by simp [*]) (h_orphans : .orphans ∈ ps := by simp [*]) (h_nextId : .nextId ∈ ps := by simp [*]) (h_free : .free ∈ ps := by simp [*]) (h_tileQ : .tileQ ∈ ps := by simp [*]) (h_out : .out ∈ ps := by simp [*]) (h_gal : .gal ∈ ps := by simp [*]) (h_trn : .trn ∈ ps := by simp [*]) (h_flt : .flt ∈ ps := by simp [*]) (h_epo : .epo ∈ ps := by simp [*]) (h_plt : .plt ∈ ps := by simp [*]) (h_cmp : .cmp ∈ ps := by simp [*]) (h_lka : .lka ∈ ps := by simp [*]) (h_seam : .seam ∈ ps := by simp [*]) (h_tal : .tal ∈ ps := by simp [*]) (h_lin : .lin ∈ ps := by simp [*]) (h_host : .host ∈ ps := by simp [*]) (h_ic : .ic ∈ ps := by simp [*]) (h_prt : .prt ∈ ps := by simp [*]) (h_err : .err ∈ ps := by simp [*]) (h_obs : .obs ∈ ps := by simp [*]) (h_rcd : .rcd ∈ ps := by simp [*]) :
    Frame ps s0 (execFundamentalReset x0 s) := by
  unfold execFundamentalReset
  repeat' first
    | with_reducible assumption | with_reducible apply frame_next | with_reducible apply frame_ite
    | with_reducible apply State.resetLink_only | with_reducible apply State.setLink_only
theorem execHotReset_frame {ps : List Piece} {s0 : State} (x0 : Fin 4) (s : State) (h : s0.only ps s) (h_held : .held ∈ ps := by simp [*]) (h_mem : .mem ∈ ps := by simp [*]) (h_poison : .poison ∈ ps := by simp [*]) (h_veil : .veil ∈ ps := by simp [*]) (h_reqs : .reqs ∈ ps := by simp [*]) (h_orphans : .orphans ∈ ps := by simp [*]) (h_nextId : .nextId ∈ ps := by simp [*]) (h_free : .free ∈ ps := by simp [*]) (h_tileQ : .tileQ ∈ ps := by simp [*]) (h_out : .out ∈ ps := by simp [*]) (h_gal : .gal ∈ ps := by simp [*]) (h_trn : .trn ∈ ps := by simp [*]) (h_flt : .flt ∈ ps := by simp [*]) (h_epo : .epo ∈ ps := by simp [*]) (h_plt : .plt ∈ ps := by simp [*]) (h_cmp : .cmp ∈ ps := by simp [*]) (h_lka : .lka ∈ ps := by simp [*]) (h_seam : .seam ∈ ps := by simp [*]) (h_tal : .tal ∈ ps := by simp [*]) (h_lin : .lin ∈ ps := by simp [*]) (h_host : .host ∈ ps := by simp [*]) (h_ic : .ic ∈ ps := by simp [*]) (h_prt : .prt ∈ ps := by simp [*]) (h_err : .err ∈ ps := by simp [*]) (h_obs : .obs ∈ ps := by simp [*]) (h_rcd : .rcd ∈ ps := by simp [*]) :
    Frame ps s0 (execHotReset x0 s) := by
  unfold execHotReset
  repeat' first
    | with_reducible assumption | with_reducible apply frame_next | with_reducible apply frame_ite
    | with_reducible apply State.resetLink_only
theorem execInitiateFlr_frame {ps : List Piece} {s0 : State} (x0 : Fin 16) (s : State) (h : s0.only ps s) (h_held : .held ∈ ps := by simp [*]) (h_reqs : .reqs ∈ ps := by simp [*]) (h_orphans : .orphans ∈ ps := by simp [*]) (h_out : .out ∈ ps := by simp [*]) (h_gal : .gal ∈ ps := by simp [*]) (h_trn : .trn ∈ ps := by simp [*]) (h_flt : .flt ∈ ps := by simp [*]) (h_epo : .epo ∈ ps := by simp [*]) (h_plt : .plt ∈ ps := by simp [*]) (h_cmp : .cmp ∈ ps := by simp [*]) (h_lka : .lka ∈ ps := by simp [*]) (h_seam : .seam ∈ ps := by simp [*]) (h_host : .host ∈ ps := by simp [*]) (h_ic : .ic ∈ ps := by simp [*]) (h_aon : .aon ∈ ps := by simp [*]) (h_obs : .obs ∈ ps := by simp [*]) (h_rcd : .rcd ∈ ps := by simp [*]) :
    Frame ps s0 (execInitiateFlr x0 s) := by
  unfold execInitiateFlr
  repeat' first
    | with_reducible assumption | with_reducible refine delivered_frame _ _ _ ?_ (fun _ _ => ?_)
    | with_reducible apply frame_next | with_reducible apply frame_ite | with_reducible apply State.emit_only
    | with_reducible apply State.flrOf_only
theorem execLinkStateChange_frame {ps : List Piece} {s0 : State} (x0 : Fin 4) (x1 : LinkStat) (s : State) (h : s0.only ps s) (h_held : .held ∈ ps := by simp [*]) (h_mem : .mem ∈ ps := by simp [*]) (h_poison : .poison ∈ ps := by simp [*]) (h_veil : .veil ∈ ps := by simp [*]) (h_reqs : .reqs ∈ ps := by simp [*]) (h_orphans : .orphans ∈ ps := by simp [*]) (h_nextId : .nextId ∈ ps := by simp [*]) (h_free : .free ∈ ps := by simp [*]) (h_tileQ : .tileQ ∈ ps := by simp [*]) (h_out : .out ∈ ps := by simp [*]) (h_gal : .gal ∈ ps := by simp [*]) (h_trn : .trn ∈ ps := by simp [*]) (h_flt : .flt ∈ ps := by simp [*]) (h_epo : .epo ∈ ps := by simp [*]) (h_plt : .plt ∈ ps := by simp [*]) (h_cmp : .cmp ∈ ps := by simp [*]) (h_lka : .lka ∈ ps := by simp [*]) (h_seam : .seam ∈ ps := by simp [*]) (h_tal : .tal ∈ ps := by simp [*]) (h_lin : .lin ∈ ps := by simp [*]) (h_host : .host ∈ ps := by simp [*]) (h_ic : .ic ∈ ps := by simp [*]) (h_prt : .prt ∈ ps := by simp [*]) (h_aon : .aon ∈ ps := by simp [*]) (h_err : .err ∈ ps := by simp [*]) (h_obs : .obs ∈ ps := by simp [*]) (h_rcd : .rcd ∈ ps := by simp [*]) :
    Frame ps s0 (execLinkStateChange x0 x1 s) := by
  unfold execLinkStateChange
  repeat' first
    | with_reducible assumption | with_reducible apply frame_next | with_reducible apply frame_ite
    | with_reducible apply State.setLinkStat_only | with_reducible apply State.resetLink_only
    | with_reducible apply State.wake_only | split
theorem execVfEnable_frame {ps : List Piece} {s0 : State} (x0 : Fin 4) (x1 : Bool) (x2 : Nat) (s : State) (h : s0.only ps s) (h_held : .held ∈ ps := by simp [*]) (h_reqs : .reqs ∈ ps := by simp [*]) (h_orphans : .orphans ∈ ps := by simp [*]) (h_out : .out ∈ ps := by simp [*]) (h_gal : .gal ∈ ps := by simp [*]) (h_trn : .trn ∈ ps := by simp [*]) (h_flt : .flt ∈ ps := by simp [*]) (h_epo : .epo ∈ ps := by simp [*]) (h_plt : .plt ∈ ps := by simp [*]) (h_cmp : .cmp ∈ ps := by simp [*]) (h_lka : .lka ∈ ps := by simp [*]) (h_seam : .seam ∈ ps := by simp [*]) (h_host : .host ∈ ps := by simp [*]) (h_ic : .ic ∈ ps := by simp [*]) (h_aon : .aon ∈ ps := by simp [*]) (h_err : .err ∈ ps := by simp [*]) (h_obs : .obs ∈ ps := by simp [*]) (h_rcd : .rcd ∈ ps := by simp [*]) :
    Frame ps s0 (execVfEnable x0 x1 x2 s) := by
  unfold execVfEnable
  repeat' first
    | with_reducible assumption | with_reducible refine delivered_frame _ _ _ ?_ (fun _ _ => ?_)
    | with_reducible apply frame_next | with_reducible apply frame_ite | with_reducible apply State.emit_only
    | with_reducible apply State.pulse_only | with_reducible apply State.setLink_only
    | with_reducible apply State.setFn_only | with_reducible apply State.startFlr_only
    | (with_reducible apply only_foldl; intro _ _ _; try dsimp only)
theorem execErrStatClear_frame {ps : List Piece} {s0 : State} (x0 : Who) (x1 : Fin 16) (x2 : W32) (s : State) (h : s0.only ps s) (h_held : .held ∈ ps := by simp [*]) (h_out : .out ∈ ps := by simp [*]) (h_aon : .aon ∈ ps := by simp [*]) (h_err : .err ∈ ps := by simp [*]) :
    Frame ps s0 (execErrStatClear x0 x1 x2 s) := by
  unfold execErrStatClear
  repeat' first
    | with_reducible assumption | with_reducible refine delivered_frame _ _ _ ?_ (fun _ _ => ?_)
    | with_reducible refine heardAon_frame _ _ _ ?_ (fun _ _ => ?_) | with_reducible apply frame_next
    | with_reducible apply frame_ite | simp only [only_err, h_held, h_out, h_aon, h_err]
theorem execErrorReport_frame {ps : List Piece} {s0 : State} (x0 : List (Fin 512)) (x1 : Option Nat) (s : State) (h : s0.only ps s) (h_held : .held ∈ ps := by simp [*]) (h_mem : .mem ∈ ps := by simp [*]) (h_poison : .poison ∈ ps := by simp [*]) (h_veil : .veil ∈ ps := by simp [*]) (h_reqs : .reqs ∈ ps := by simp [*]) (h_orphans : .orphans ∈ ps := by simp [*]) (h_nextId : .nextId ∈ ps := by simp [*]) (h_free : .free ∈ ps := by simp [*]) (h_tileQ : .tileQ ∈ ps := by simp [*]) (h_out : .out ∈ ps := by simp [*]) (h_gal : .gal ∈ ps := by simp [*]) (h_trn : .trn ∈ ps := by simp [*]) (h_flt : .flt ∈ ps := by simp [*]) (h_epo : .epo ∈ ps := by simp [*]) (h_plt : .plt ∈ ps := by simp [*]) (h_cmp : .cmp ∈ ps := by simp [*]) (h_lka : .lka ∈ ps := by simp [*]) (h_seam : .seam ∈ ps := by simp [*]) (h_tal : .tal ∈ ps := by simp [*]) (h_lin : .lin ∈ ps := by simp [*]) (h_host : .host ∈ ps := by simp [*]) (h_ic : .ic ∈ ps := by simp [*]) (h_prt : .prt ∈ ps := by simp [*]) (h_aon : .aon ∈ ps := by simp [*]) (h_err : .err ∈ ps := by simp [*]) (h_obs : .obs ∈ ps := by simp [*]) (h_rcd : .rcd ∈ ps := by simp [*]) :
    Frame ps s0 (execErrorReport x0 x1 s) := by
  unfold execErrorReport
  repeat' first
    | with_reducible assumption | with_reducible apply frame_next | with_reducible apply frame_ite
    | with_reducible apply State.countErr_only | with_reducible apply State.dropBadEntry_only
    | with_reducible apply State.poisonAt_only | with_reducible apply State.latchAll_only
    | simp only [only_err, only_seam, h_held, h_mem, h_poison, h_veil, h_reqs, h_orphans, h_nextId, h_free, h_tileQ, h_out, h_gal, h_trn, h_flt, h_epo, h_plt, h_cmp, h_lka, h_seam, h_tal, h_lin, h_host, h_ic, h_prt, h_aon, h_err, h_obs, h_rcd]
    | (with_reducible apply only_foldl; intro _ _ _; try dsimp only) | split
theorem execFerrDeassert_frame {ps : List Piece} {s0 : State} (s : State) (h : s0.only ps s) (h_err : .err ∈ ps := by simp [*]) :
    Frame ps s0 (execFerrDeassert s) := by
  unfold execFerrDeassert
  repeat' first
    | with_reducible assumption | with_reducible apply frame_next | with_reducible apply frame_ite
    | simp only [only_err, h_err]
theorem execHaltClear_frame {ps : List Piece} {s0 : State} (x0 : Who) (s : State) (h : s0.only ps s) (h_held : .held ∈ ps := by simp [*]) (h_reqs : .reqs ∈ ps := by simp [*]) (h_orphans : .orphans ∈ ps := by simp [*]) (h_out : .out ∈ ps := by simp [*]) (h_gal : .gal ∈ ps := by simp [*]) (h_trn : .trn ∈ ps := by simp [*]) (h_flt : .flt ∈ ps := by simp [*]) (h_lka : .lka ∈ ps := by simp [*]) (h_aon : .aon ∈ ps := by simp [*]) (h_err : .err ∈ ps := by simp [*]) (h_obs : .obs ∈ ps := by simp [*]) (h_rcd : .rcd ∈ ps := by simp [*]) :
    Frame ps s0 (execHaltClear x0 s) := by
  unfold execHaltClear
  repeat' first
    | with_reducible assumption | with_reducible refine delivered_frame _ _ _ ?_ (fun _ _ => ?_)
    | with_reducible refine heardAon_frame _ _ _ ?_ (fun _ _ => ?_) | with_reducible apply frame_next
    | with_reducible apply frame_ite | with_reducible apply State.resumeCommits_only
    | simp only [only_err, h_held, h_reqs, h_orphans, h_out, h_gal, h_trn, h_flt, h_lka, h_aon, h_err, h_obs, h_rcd]
theorem execHandlingIntervalEnd_frame {ps : List Piece} {s0 : State} (s : State) (h : s0.only ps s) (h_held : .held ∈ ps := by simp [*]) (h_mem : .mem ∈ ps := by simp [*]) (h_poison : .poison ∈ ps := by simp [*]) (h_veil : .veil ∈ ps := by simp [*]) (h_reqs : .reqs ∈ ps := by simp [*]) (h_orphans : .orphans ∈ ps := by simp [*]) (h_nextId : .nextId ∈ ps := by simp [*]) (h_free : .free ∈ ps := by simp [*]) (h_tileQ : .tileQ ∈ ps := by simp [*]) (h_out : .out ∈ ps := by simp [*]) (h_gal : .gal ∈ ps := by simp [*]) (h_trn : .trn ∈ ps := by simp [*]) (h_flt : .flt ∈ ps := by simp [*]) (h_epo : .epo ∈ ps := by simp [*]) (h_plt : .plt ∈ ps := by simp [*]) (h_cmp : .cmp ∈ ps := by simp [*]) (h_lka : .lka ∈ ps := by simp [*]) (h_seam : .seam ∈ ps := by simp [*]) (h_tal : .tal ∈ ps := by simp [*]) (h_lin : .lin ∈ ps := by simp [*]) (h_host : .host ∈ ps := by simp [*]) (h_ic : .ic ∈ ps := by simp [*]) (h_prt : .prt ∈ ps := by simp [*]) (h_aon : .aon ∈ ps := by simp [*]) (h_err : .err ∈ ps := by simp [*]) (h_obs : .obs ∈ ps := by simp [*]) (h_rcd : .rcd ∈ ps := by simp [*]) :
    Frame ps s0 (execHandlingIntervalEnd s) := by
  unfold execHandlingIntervalEnd
  repeat' first
    | with_reducible assumption | with_reducible apply frame_next | with_reducible apply frame_ite
    | with_reducible apply State.latchAll_only
    | simp only [only_err, h_held, h_mem, h_poison, h_veil, h_reqs, h_orphans, h_nextId, h_free, h_tileQ, h_out, h_gal, h_trn, h_flt, h_epo, h_plt, h_cmp, h_lka, h_seam, h_tal, h_lin, h_host, h_ic, h_prt, h_aon, h_err, h_obs, h_rcd]
theorem execWireFault_frame {ps : List Piece} {s0 : State} (x0 : Fin 512) (s : State) (h : s0.only ps s) (h_held : .held ∈ ps := by simp [*]) (h_mem : .mem ∈ ps := by simp [*]) (h_poison : .poison ∈ ps := by simp [*]) (h_veil : .veil ∈ ps := by simp [*]) (h_reqs : .reqs ∈ ps := by simp [*]) (h_orphans : .orphans ∈ ps := by simp [*]) (h_nextId : .nextId ∈ ps := by simp [*]) (h_free : .free ∈ ps := by simp [*]) (h_tileQ : .tileQ ∈ ps := by simp [*]) (h_out : .out ∈ ps := by simp [*]) (h_gal : .gal ∈ ps := by simp [*]) (h_trn : .trn ∈ ps := by simp [*]) (h_flt : .flt ∈ ps := by simp [*]) (h_epo : .epo ∈ ps := by simp [*]) (h_plt : .plt ∈ ps := by simp [*]) (h_cmp : .cmp ∈ ps := by simp [*]) (h_lka : .lka ∈ ps := by simp [*]) (h_seam : .seam ∈ ps := by simp [*]) (h_tal : .tal ∈ ps := by simp [*]) (h_lin : .lin ∈ ps := by simp [*]) (h_host : .host ∈ ps := by simp [*]) (h_ic : .ic ∈ ps := by simp [*]) (h_prt : .prt ∈ ps := by simp [*]) (h_aon : .aon ∈ ps := by simp [*]) (h_err : .err ∈ ps := by simp [*]) (h_obs : .obs ∈ ps := by simp [*]) (h_rcd : .rcd ∈ ps := by simp [*]) :
    Frame ps s0 (execWireFault x0 s) := by
  unfold execWireFault
  repeat' first
    | with_reducible assumption | with_reducible apply frame_next | with_reducible apply frame_ite
    | with_reducible apply State.latchAll_only
    | simp only [only_err, h_held, h_mem, h_poison, h_veil, h_reqs, h_orphans, h_nextId, h_free, h_tileQ, h_out, h_gal, h_trn, h_flt, h_epo, h_plt, h_cmp, h_lka, h_seam, h_tal, h_lin, h_host, h_ic, h_prt, h_aon, h_err, h_obs, h_rcd]
theorem execWireFaultCleared_frame {ps : List Piece} {s0 : State} (x0 : Fin 512) (x1 : Bool) (s : State) (h : s0.only ps s) (h_err : .err ∈ ps := by simp [*]) :
    Frame ps s0 (execWireFaultCleared x0 x1 s) := by
  unfold execWireFaultCleared
  repeat' first
    | with_reducible assumption | with_reducible apply frame_next | with_reducible apply frame_ite
    | simp only [only_err, h_err]
theorem execDomainEnterDeep_frame {ps : List Piece} {s0 : State} (x0 : Fin 26) (s : State) (h : s0.only ps s) (h_reqs : .reqs ∈ ps := by simp [*]) (h_orphans : .orphans ∈ ps := by simp [*]) (h_trn : .trn ∈ ps := by simp [*]) (h_lka : .lka ∈ ps := by simp [*]) (h_aon : .aon ∈ ps := by simp [*]) :
    Frame ps s0 (execDomainEnterDeep x0 s) := by
  unfold execDomainEnterDeep
  repeat' first
    | with_reducible assumption | with_reducible apply frame_next | with_reducible apply frame_ite
    | with_reducible apply State.enterSleep_only | with_reducible apply State.setDom_only
    | with_reducible apply State.setTrn_only | split
theorem execDomainEnterIdle_frame {ps : List Piece} {s0 : State} (x0 : Fin 26) (s : State) (h : s0.only ps s) (h_reqs : .reqs ∈ ps := by simp [*]) (h_orphans : .orphans ∈ ps := by simp [*]) (h_trn : .trn ∈ ps := by simp [*]) (h_lka : .lka ∈ ps := by simp [*]) (h_aon : .aon ∈ ps := by simp [*]) :
    Frame ps s0 (execDomainEnterIdle x0 s) := by
  unfold execDomainEnterIdle
  repeat' first
    | with_reducible assumption | with_reducible apply frame_next | with_reducible apply frame_ite
    | with_reducible apply State.enterSleep_only | with_reducible apply State.setDom_only
theorem execFunctionsReady_frame {ps : List Piece} {s0 : State} (s : State) (h : s0.only ps s) (h_mem : .mem ∈ ps := by simp [*]) (h_poison : .poison ∈ ps := by simp [*]) (h_host : .host ∈ ps := by simp [*]) (h_ic : .ic ∈ ps := by simp [*]) (h_aon : .aon ∈ ps := by simp [*]) :
    Frame ps s0 (execFunctionsReady s) := by
  unfold execFunctionsReady
  repeat' first
    | with_reducible assumption | with_reducible apply frame_next | with_reducible apply frame_ite
    | with_reducible apply State.setSysev_only | with_reducible apply State.presentFns_only
    | with_reducible apply State.wipeWindow_only | simp only [only_aon, h_mem, h_poison, h_host, h_ic, h_aon]
theorem execImageHeaderRead_frame {ps : List Piece} {s0 : State} (s : State) (h : s0.only ps s) (h_aon : .aon ∈ ps := by simp [*]) :
    Frame ps s0 (execImageHeaderRead s) := by
  unfold execImageHeaderRead
  repeat' first
    | with_reducible assumption | with_reducible apply frame_next | with_reducible apply frame_ite
    | simp only [only_aon, h_aon]
theorem execImageReadDone_frame {ps : List Piece} {s0 : State} (x0 : Image) (s : State) (h : s0.only ps s) (h_veil : .veil ∈ ps := by simp [*]) (h_out : .out ∈ ps := by simp [*]) (h_trn : .trn ∈ ps := by simp [*]) (h_seam : .seam ∈ ps := by simp [*]) (h_tal : .tal ∈ ps := by simp [*]) (h_lin : .lin ∈ ps := by simp [*]) (h_host : .host ∈ ps := by simp [*]) (h_ic : .ic ∈ ps := by simp [*]) (h_prt : .prt ∈ ps := by simp [*]) (h_aon : .aon ∈ ps := by simp [*]) (h_err : .err ∈ ps := by simp [*]) (h_rcd : .rcd ∈ ps := by simp [*]) :
    Frame ps s0 (execImageReadDone x0 s) := by
  unfold execImageReadDone
  repeat' first
    | with_reducible assumption | with_reducible apply frame_next | with_reducible apply frame_ite
    | with_reducible apply State.applyImage_only | with_reducible apply State.veilAll_only
    | with_reducible apply State.recover_only
    | simp only [only_aon, h_veil, h_out, h_trn, h_seam, h_tal, h_lin, h_host, h_ic, h_prt, h_aon, h_err, h_rcd] | split
theorem execOperatingHoursTick_frame {ps : List Piece} {s0 : State} (s : State) (h : s0.only ps s) (h_aon : .aon ∈ ps := by simp [*]) :
    Frame ps s0 (execOperatingHoursTick s) := by
  unfold execOperatingHoursTick
  repeat' first
    | with_reducible assumption | with_reducible apply frame_next | with_reducible apply frame_ite
    | simp only [only_aon, h_aon]
theorem execPllLock_frame {ps : List Piece} {s0 : State} (s : State) (h : s0.only ps s) (h_aon : .aon ∈ ps := by simp [*]) (h_obs : .obs ∈ ps := by simp [*]) :
    Frame ps s0 (execPllLock s) := by
  unfold execPllLock
  repeat' first
    | with_reducible assumption | with_reducible apply frame_next | with_reducible apply frame_ite
    | simp only [only_aon_obs, only_obs, h_aon, h_obs]
theorem execPowerOnReset_frame {ps : List Piece} {s0 : State} (s : State) (h : s0.only ps s) (h_veil : .veil ∈ ps := by simp [*]) (h_aon : .aon ∈ ps := by simp [*]) (h_err : .err ∈ ps := by simp [*]) :
    Frame ps s0 (execPowerOnReset s) := by
  unfold execPowerOnReset
  repeat' first
    | with_reducible assumption | with_reducible apply frame_next | with_reducible apply frame_ite
    | with_reducible apply State.recover_only | simp only [only_aon_err, h_veil, h_aon, h_err] | split
theorem execSramWipeDone_frame {ps : List Piece} {s0 : State} (s : State) (h : s0.only ps s) (h_mem : .mem ∈ ps := by simp [*]) (h_poison : .poison ∈ ps := by simp [*]) (h_aon : .aon ∈ ps := by simp [*]) :
    Frame ps s0 (execSramWipeDone s) := by
  unfold execSramWipeDone
  repeat' first
    | with_reducible assumption | with_reducible apply frame_next | with_reducible apply frame_ite
    | with_reducible apply State.wipeScratch_only | simp only [only_aon, h_mem, h_poison, h_aon]
theorem execTilePoweredAgain_frame {ps : List Piece} {s0 : State} (x0 : TilePower) (s : State) (h : s0.only ps s) (h_mem : .mem ∈ ps := by simp [*]) (h_poison : .poison ∈ ps := by simp [*]) (h_veil : .veil ∈ ps := by simp [*]) (h_reqs : .reqs ∈ ps := by simp [*]) (h_orphans : .orphans ∈ ps := by simp [*]) (h_nextId : .nextId ∈ ps := by simp [*]) (h_free : .free ∈ ps := by simp [*]) (h_tileQ : .tileQ ∈ ps := by simp [*]) (h_out : .out ∈ ps := by simp [*]) (h_gal : .gal ∈ ps := by simp [*]) (h_trn : .trn ∈ ps := by simp [*]) (h_flt : .flt ∈ ps := by simp [*]) (h_epo : .epo ∈ ps := by simp [*]) (h_plt : .plt ∈ ps := by simp [*]) (h_cmp : .cmp ∈ ps := by simp [*]) (h_lka : .lka ∈ ps := by simp [*]) (h_seam : .seam ∈ ps := by simp [*]) (h_tal : .tal ∈ ps := by simp [*]) (h_host : .host ∈ ps := by simp [*]) (h_ic : .ic ∈ ps := by simp [*]) (h_prt : .prt ∈ ps := by simp [*]) (h_aon : .aon ∈ ps := by simp [*]) (h_obs : .obs ∈ ps := by simp [*]) (h_rcd : .rcd ∈ ps := by simp [*]) :
    Frame ps s0 (execTilePoweredAgain x0 s) := by
  unfold execTilePoweredAgain; dsimp only
  have h1 := (only_aon ps s0 s { s.aon with tileOff := setBit s.aon.tileOff x0.tile.val (!x0.on) } h_aon).2 h
  refine frame_ite _ (frame_next h1) (frame_next (State.goOn_only _ (only_foldl _ (fun t r ht => ?_) _ _
    (only_foldl _ (fun t m ht => State.emit_only _ _ ht) _ _ ((only_tileQ _ _ _ _ h_tileQ).2 h1)))))
  repeat' first | with_reducible assumption | with_reducible apply State.issueTo_only | split
theorem execWakeComplete_frame {ps : List Piece} {s0 : State} (x0 : Fin 26) (x1 : Bool) (s : State) (h : s0.only ps s) (h_mem : .mem ∈ ps := by simp [*]) (h_poison : .poison ∈ ps := by simp [*]) (h_veil : .veil ∈ ps := by simp [*]) (h_reqs : .reqs ∈ ps := by simp [*]) (h_orphans : .orphans ∈ ps := by simp [*]) (h_nextId : .nextId ∈ ps := by simp [*]) (h_free : .free ∈ ps := by simp [*]) (h_out : .out ∈ ps := by simp [*]) (h_gal : .gal ∈ ps := by simp [*]) (h_trn : .trn ∈ ps := by simp [*]) (h_flt : .flt ∈ ps := by simp [*]) (h_epo : .epo ∈ ps := by simp [*]) (h_plt : .plt ∈ ps := by simp [*]) (h_cmp : .cmp ∈ ps := by simp [*]) (h_lka : .lka ∈ ps := by simp [*]) (h_seam : .seam ∈ ps := by simp [*]) (h_ic : .ic ∈ ps := by simp [*]) (h_prt : .prt ∈ ps := by simp [*]) (h_aon : .aon ∈ ps := by simp [*]) (h_err : .err ∈ ps := by simp [*]) (h_obs : .obs ∈ ps := by simp [*]) (h_rcd : .rcd ∈ ps := by simp [*]) :
    Frame ps s0 (execWakeComplete x0 x1 s) := by
  unfold execWakeComplete
  repeat' first
    | with_reducible assumption | with_reducible apply frame_next | with_reducible apply frame_ite
    | with_reducible apply State.setDom_only | with_reducible apply State.wakeComp_only
    | with_reducible apply State.leavePool_only | with_reducible apply State.makeStale_only
    | with_reducible apply State.setSysev_only | with_reducible apply State.pulse_only
    | simp only [only_obs, h_mem, h_poison, h_veil, h_reqs, h_orphans, h_nextId, h_free, h_out, h_gal, h_trn, h_flt, h_epo, h_plt, h_cmp, h_lka, h_seam, h_ic, h_prt, h_aon, h_err, h_obs, h_rcd]
    | (with_reducible apply only_foldl; intro _ _ _; try dsimp only) | split
theorem execWakeRequest_frame {ps : List Piece} {s0 : State} (x0 : Fin 26) (s : State) (h : s0.only ps s) (h_aon : .aon ∈ ps := by simp [*]) :
    Frame ps s0 (execWakeRequest x0 s) := by
  unfold execWakeRequest
  repeat' first
    | with_reducible assumption | with_reducible apply frame_next | with_reducible apply frame_ite
    | with_reducible apply State.wake_only
theorem execAmendmentDrainDone_frame {ps : List Piece} {s0 : State} (s : State) (h : s0.only ps s) (h_aon : .aon ∈ ps := by simp [*]) :
    Frame ps s0 (execAmendmentDrainDone s) := by
  unfold execAmendmentDrainDone
  repeat' first
    | with_reducible assumption | with_reducible apply frame_next | with_reducible apply frame_ite
    | with_reducible apply State.setUnit_only | simp only [only_aon, h_aon] | split
theorem execAmendmentDrainTimeout_frame {ps : List Piece} {s0 : State} (s : State) (h : s0.only ps s) (h_reqs : .reqs ∈ ps := by simp [*]) (h_orphans : .orphans ∈ ps := by simp [*]) (h_trn : .trn ∈ ps := by simp [*]) (h_plt : .plt ∈ ps := by simp [*]) (h_cmp : .cmp ∈ ps := by simp [*]) (h_seam : .seam ∈ ps := by simp [*]) (h_ic : .ic ∈ ps := by simp [*]) (h_aon : .aon ∈ ps := by simp [*]) :
    Frame ps s0 (execAmendmentDrainTimeout s) := by
  unfold execAmendmentDrainTimeout
  repeat' first
    | with_reducible assumption | with_reducible apply frame_next | with_reducible apply frame_ite
    | with_reducible apply State.endAmendment_only | with_reducible apply State.joinPool_only
    | with_reducible apply State.setUnit_only | split
theorem execAmendmentGo_frame {ps : List Piece} {s0 : State} (x0 : Who) (x1 : W32) (s : State) (h : s0.only ps s) (h_held : .held ∈ ps := by simp [*]) (h_reqs : .reqs ∈ ps := by simp [*]) (h_nextId : .nextId ∈ ps := by simp [*]) (h_free : .free ∈ ps := by simp [*]) (h_out : .out ∈ ps := by simp [*]) (h_ic : .ic ∈ ps := by simp [*]) (h_aon : .aon ∈ ps := by simp [*]) (h_err : .err ∈ ps := by simp [*]) :
    Frame ps s0 (execAmendmentGo x0 x1 s) := by
  unfold execAmendmentGo
  repeat' first
    | with_reducible assumption | with_reducible refine delivered_frame _ _ _ ?_ (fun _ _ => ?_)
    | with_reducible refine heardAon_frame _ _ _ ?_ (fun _ _ => ?_) | with_reducible apply frame_next
    | with_reducible apply frame_ite | with_reducible apply State.copyAmendment_only
    | simp only [only_aon, h_held, h_reqs, h_nextId, h_free, h_out, h_ic, h_aon, h_err]
theorem execAmendmentReloadDone_frame {ps : List Piece} {s0 : State} (x0 : Bool) (s : State) (h : s0.only ps s) (h_reqs : .reqs ∈ ps := by simp [*]) (h_orphans : .orphans ∈ ps := by simp [*]) (h_trn : .trn ∈ ps := by simp [*]) (h_ic : .ic ∈ ps := by simp [*]) (h_aon : .aon ∈ ps := by simp [*]) :
    Frame ps s0 (execAmendmentReloadDone x0 s) := by
  unfold execAmendmentReloadDone
  repeat' first
    | with_reducible assumption | with_reducible apply frame_next | with_reducible apply frame_ite
    | with_reducible apply State.makeStale_only | with_reducible apply State.setUnit_only
    | with_reducible apply State.endAmendment_only | simp only [only_aon, h_reqs, h_orphans, h_trn, h_ic, h_aon] | split
theorem execAmendmentVerifyDone_frame {ps : List Piece} {s0 : State} (x0 : Bool) (s : State) (h : s0.only ps s) (h_reqs : .reqs ∈ ps := by simp [*]) (h_orphans : .orphans ∈ ps := by simp [*]) (h_trn : .trn ∈ ps := by simp [*]) (h_plt : .plt ∈ ps := by simp [*]) (h_cmp : .cmp ∈ ps := by simp [*]) (h_lka : .lka ∈ ps := by simp [*]) (h_seam : .seam ∈ ps := by simp [*]) (h_ic : .ic ∈ ps := by simp [*]) (h_aon : .aon ∈ ps := by simp [*]) :
    Frame ps s0 (execAmendmentVerifyDone x0 s) := by
  unfold execAmendmentVerifyDone
  repeat' first
    | with_reducible assumption | with_reducible apply frame_next | with_reducible apply frame_ite
    | with_reducible apply State.endAmendment_only | with_reducible refine State.copiedAmendment_only (by assumption) ?_
    | with_reducible apply State.startDrain_only | split
theorem execLifeCycleTransition_frame {ps : List Piece} {s0 : State} (s : State) (h : s0.only ps s) (h_held : .held ∈ ps := by simp [*]) (h_mem : .mem ∈ ps := by simp [*]) (h_poison : .poison ∈ ps := by simp [*]) (h_veil : .veil ∈ ps := by simp [*]) (h_reqs : .reqs ∈ ps := by simp [*]) (h_orphans : .orphans ∈ ps := by simp [*]) (h_nextId : .nextId ∈ ps := by simp [*]) (h_free : .free ∈ ps := by simp [*]) (h_tileQ : .tileQ ∈ ps := by simp [*]) (h_out : .out ∈ ps := by simp [*]) (h_gal : .gal ∈ ps := by simp [*]) (h_trn : .trn ∈ ps := by simp [*]) (h_flt : .flt ∈ ps := by simp [*]) (h_epo : .epo ∈ ps := by simp [*]) (h_plt : .plt ∈ ps := by simp [*]) (h_cmp : .cmp ∈ ps := by simp [*]) (h_lka : .lka ∈ ps := by simp [*]) (h_seam : .seam ∈ ps := by simp [*]) (h_tal : .tal ∈ ps := by simp [*]) (h_lin : .lin ∈ ps := by simp [*]) (h_host : .host ∈ ps := by simp [*]) (h_ic : .ic ∈ ps := by simp [*]) (h_prt : .prt ∈ ps := by simp [*]) (h_aon : .aon ∈ ps := by simp [*]) (h_err : .err ∈ ps := by simp [*]) (h_obs : .obs ∈ ps := by simp [*]) (h_rcd : .rcd ∈ ps := by simp [*]) :
    Frame ps s0 (execLifeCycleTransition s) := by
  unfold execLifeCycleTransition
  repeat' first
    | with_reducible assumption | with_reducible apply frame_next | with_reducible apply frame_ite
    | with_reducible apply State.startFlr_only | with_reducible apply State.resetLink_only
    | simp only [only_held_aon, h_held, h_mem, h_poison, h_veil, h_reqs, h_orphans, h_nextId, h_free, h_tileQ, h_out, h_gal, h_trn, h_flt, h_epo, h_plt, h_cmp, h_lka, h_seam, h_tal, h_lin, h_host, h_ic, h_prt, h_aon, h_err, h_obs, h_rcd]
    | (with_reducible apply only_foldl; intro _ _ _; try dsimp only) | split
theorem execUctlRejoin_frame {ps : List Piece} {s0 : State} (x0 : Who) (s : State) (h : s0.only ps s) (h_held : .held ∈ ps := by simp [*]) (h_out : .out ∈ ps := by simp [*]) (h_aon : .aon ∈ ps := by simp [*]) :
    Frame ps s0 (execUctlRejoin x0 s) := by
  unfold execUctlRejoin
  repeat' first
    | with_reducible assumption | with_reducible refine delivered_frame _ _ _ ?_ (fun _ _ => ?_)
    | with_reducible refine heardAon_frame _ _ _ ?_ (fun _ _ => ?_) | with_reducible apply frame_next
    | with_reducible apply frame_ite | with_reducible apply State.makeStale_only
theorem execUnitRejoin_frame {ps : List Piece} {s0 : State} (x0 : Byte) (x1 : Byte) (s : State) (h : s0.only ps s) (h_mem : .mem ∈ ps := by simp [*]) (h_poison : .poison ∈ ps := by simp [*]) (h_veil : .veil ∈ ps := by simp [*]) (h_reqs : .reqs ∈ ps := by simp [*]) (h_orphans : .orphans ∈ ps := by simp [*]) (h_free : .free ∈ ps := by simp [*]) (h_tileQ : .tileQ ∈ ps := by simp [*]) (h_out : .out ∈ ps := by simp [*]) (h_trn : .trn ∈ ps := by simp [*]) (h_plt : .plt ∈ ps := by simp [*]) (h_cmp : .cmp ∈ ps := by simp [*]) (h_lka : .lka ∈ ps := by simp [*]) (h_seam : .seam ∈ ps := by simp [*]) (h_tal : .tal ∈ ps := by simp [*]) (h_lin : .lin ∈ ps := by simp [*]) (h_host : .host ∈ ps := by simp [*]) (h_ic : .ic ∈ ps := by simp [*]) (h_prt : .prt ∈ ps := by simp [*]) (h_aon : .aon ∈ ps := by simp [*]) (h_obs : .obs ∈ ps := by simp [*]) :
    Frame ps s0 (execUnitRejoin x0 x1 s) := by
  unfold execUnitRejoin
  repeat' first
    | with_reducible assumption | with_reducible apply frame_next | with_reducible apply frame_ite
    | with_reducible apply State.sweepDead_only | with_reducible apply State.joinPool_only
    | with_reducible apply State.forget_only | with_reducible apply State.setUnit_only
    | with_reducible apply State.resumeUnit_only | with_reducible apply State.endAmendment_only | split
theorem execRecClrall_frame {ps : List Piece} {s0 : State} (x0 : Who) (s : State) (h : s0.only ps s) (h_held : .held ∈ ps := by simp [*]) (h_out : .out ∈ ps := by simp [*]) (h_ic : .ic ∈ ps := by simp [*]) (h_aon : .aon ∈ ps := by simp [*]) (h_err : .err ∈ ps := by simp [*]) (h_rcd : .rcd ∈ ps := by simp [*]) :
    Frame ps s0 (execRecClrall x0 s) := by
  unfold execRecClrall
  repeat' first
    | with_reducible assumption | with_reducible refine delivered_frame _ _ _ ?_ (fun _ _ => ?_)
    | with_reducible refine heard_frame _ _ _ ?_ (fun _ _ => ?_) | with_reducible apply frame_next
    | with_reducible apply frame_ite | with_reducible apply State.recClear_only
theorem execRecDataAccess_frame {ps : List Piece} {s0 : State} (x0 : Who) (x1 : RecAccess) (s : State) (h : s0.only ps s) (h_held : .held ∈ ps := by simp [*]) (h_out : .out ∈ ps := by simp [*]) (h_ic : .ic ∈ ps := by simp [*]) (h_aon : .aon ∈ ps := by simp [*]) (h_err : .err ∈ ps := by simp [*]) (h_rcd : .rcd ∈ ps := by simp [*]) :
    Frame ps s0 (execRecDataAccess x0 x1 s) := by
  unfold execRecDataAccess
  repeat' first
    | with_reducible assumption | with_reducible refine delivered_frame _ _ _ ?_ (fun _ _ => ?_)
    | with_reducible refine heardRead_frame _ _ _ ?_ (fun _ _ => ?_)
    | with_reducible refine heard_frame _ _ _ ?_ (fun _ _ => ?_) | with_reducible apply frame_next
    | with_reducible apply frame_ite | with_reducible apply State.recRead_only
    | with_reducible refine State.recRead_eq (by assumption) ?_ | with_reducible apply State.recWrite_only
    | with_reducible apply answerRead_only | split
theorem execRecFreeze_frame {ps : List Piece} {s0 : State} (x0 : Who) (x1 : Bool) (s : State) (h : s0.only ps s) (h_held : .held ∈ ps := by simp [*]) (h_out : .out ∈ ps := by simp [*]) (h_ic : .ic ∈ ps := by simp [*]) (h_aon : .aon ∈ ps := by simp [*]) (h_err : .err ∈ ps := by simp [*]) (h_rcd : .rcd ∈ ps := by simp [*]) :
    Frame ps s0 (execRecFreeze x0 x1 s) := by
  unfold execRecFreeze
  repeat' first
    | with_reducible assumption | with_reducible refine delivered_frame _ _ _ ?_ (fun _ _ => ?_)
    | with_reducible refine heard_frame _ _ _ ?_ (fun _ _ => ?_) | with_reducible apply frame_next
    | with_reducible apply frame_ite | simp only [only_rcd, h_held, h_out, h_ic, h_aon, h_err, h_rcd]
theorem execRecSnap_frame {ps : List Piece} {s0 : State} (x0 : Who) (s : State) (h : s0.only ps s) (h_held : .held ∈ ps := by simp [*]) (h_out : .out ∈ ps := by simp [*]) (h_ic : .ic ∈ ps := by simp [*]) (h_aon : .aon ∈ ps := by simp [*]) (h_err : .err ∈ ps := by simp [*]) (h_rcd : .rcd ∈ ps := by simp [*]) :
    Frame ps s0 (execRecSnap x0 s) := by
  unfold execRecSnap
  repeat' first
    | with_reducible assumption | with_reducible refine delivered_frame _ _ _ ?_ (fun _ _ => ?_)
    | with_reducible refine heard_frame _ _ _ ?_ (fun _ _ => ?_) | with_reducible apply frame_next
    | with_reducible apply frame_ite | with_reducible apply State.snapAll_only
theorem execSnapshotPeriod_frame {ps : List Piece} {s0 : State} (x0 : Fin 16) (s : State) (h : s0.only ps s) (h_rcd : .rcd ∈ ps := by simp [*]) :
    Frame ps s0 (execSnapshotPeriod x0 s) := by
  unfold execSnapshotPeriod
  repeat' first
    | with_reducible assumption | with_reducible refine inUnit_frame _ _ _ _ ?_ (fun _ _ => ?_)
    | with_reducible apply frame_next | with_reducible apply frame_ite | with_reducible apply State.capture_only
theorem storeAon_frame {ps : List Piece} {s0 : State} (w : Who) (s : State) (f : State → State) (h : s0.only ps s)
    (hf : ∀ s, s0.only ps s → s0.only ps (f s)) (h_out : .out ∈ ps := by simp [*]) : Frame ps s0 (storeAon w s f) := heardAon_frame _ _ _ h fun s h => frame_next (only_ite _ (hf _ h) h)
theorem aonWrite_frame {ps : List Piece} {s0 : State} (x0 : Who) (x1 : Nat) (x2 : Half) (x3 : W64) (s : State) (h : s0.only ps s) (h_held : .held ∈ ps := by simp [*]) (h_reqs : .reqs ∈ ps := by simp [*]) (h_nextId : .nextId ∈ ps := by simp [*]) (h_free : .free ∈ ps := by simp [*]) (h_out : .out ∈ ps := by simp [*]) (h_ic : .ic ∈ ps := by simp [*]) (h_aon : .aon ∈ ps := by simp [*]) (h_err : .err ∈ ps := by simp [*]) :
    Frame ps s0 (aonWrite x0 x1 x2 x3 s) := by
  unfold aonWrite
  repeat' first
    | with_reducible assumption | with_reducible refine storeAon_frame _ _ _ ?_ (fun _ _ => ?_)
    | with_reducible refine heardAon_frame _ _ _ ?_ (fun _ _ => ?_) | with_reducible apply frame_next
    | with_reducible apply frame_ite | with_reducible apply execAmendmentGo_frame
    | with_reducible apply execUctlRejoin_frame
    | simp only [only_aon, h_held, h_reqs, h_nextId, h_free, h_out, h_ic, h_aon, h_err]
theorem badWrite_frame {ps : List Piece} {s0 : State} (x0 : Who) (s : State) (h : s0.only ps s) (h_out : .out ∈ ps := by simp [*]) (h_ic : .ic ∈ ps := by simp [*]) (h_err : .err ∈ ps := by simp [*]) :
    Frame ps s0 (badWrite x0 s) := by
  unfold badWrite
  repeat' first
    | with_reducible assumption | with_reducible refine heard_frame _ _ _ ?_ (fun _ _ => ?_)
    | with_reducible apply frame_next | with_reducible apply frame_ite | with_reducible apply State.badAccess_only
theorem storeAny_frame {ps : List Piece} {s0 : State} (w : Who) (s : State) (f : State → State) (h : s0.only ps s)
    (hf : ∀ s, s0.only ps s → s0.only ps (f s)) (h_out : .out ∈ ps := by simp [*]) (h_ic : .ic ∈ ps := by simp [*]) (h_err : .err ∈ ps := by simp [*]) : Frame ps s0 (storeAny w s f) := heard_frame _ _ _ h fun s h => frame_next (hf _ h)
theorem ignored_frame {ps : List Piece} {s0 : State} (x0 : Who) (s : State) (h : s0.only ps s) (h_out : .out ∈ ps := by simp [*]) (h_ic : .ic ∈ ps := by simp [*]) (h_err : .err ∈ ps := by simp [*]) :
    Frame ps s0 (ignored x0 s) := by
  unfold ignored
  repeat' first
    | with_reducible assumption | with_reducible refine heard_frame _ _ _ ?_ (fun _ _ => ?_)
    | with_reducible apply frame_next | with_reducible apply frame_ite
theorem cmpWrite_frame {ps : List Piece} {s0 : State} (x0 : Who) (x1 : Nat) (x2 : W64) (s : State) (h : s0.only ps s) (h_out : .out ∈ ps := by simp [*]) (h_cmp : .cmp ∈ ps := by simp [*]) (h_ic : .ic ∈ ps := by simp [*]) (h_err : .err ∈ ps := by simp [*]) :
    Frame ps s0 (cmpWrite x0 x1 x2 s) := by
  unfold cmpWrite
  repeat' first
    | with_reducible assumption | with_reducible refine storeAny_frame _ _ _ ?_ (fun _ _ => ?_)
    | with_reducible apply frame_next | with_reducible apply frame_ite | with_reducible apply ignored_frame
    | with_reducible apply State.writeSkcfg_only | simp only [only_cmp, h_out, h_cmp, h_ic, h_err] | split
theorem storeErr_frame {ps : List Piece} {s0 : State} (w : Who) (s : State) (f : State → State) (h : s0.only ps s)
    (hf : ∀ s, s0.only ps s → s0.only ps (f s)) (h_out : .out ∈ ps := by simp [*]) : Frame ps s0 (storeErr w s f) := heardAon_frame _ _ _ h fun s h => inUnit_frame _ _ _ _ h fun s h => frame_next (only_ite _ (hf _ h) h)
theorem writeGstat_frame {ps : List Piece} {s0 : State} (x0 : Who) (x1 : Nat) (s : State) (h : s0.only ps s) (h_held : .held ∈ ps := by simp [*]) (h_reqs : .reqs ∈ ps := by simp [*]) (h_orphans : .orphans ∈ ps := by simp [*]) (h_out : .out ∈ ps := by simp [*]) (h_gal : .gal ∈ ps := by simp [*]) (h_trn : .trn ∈ ps := by simp [*]) (h_flt : .flt ∈ ps := by simp [*]) (h_lka : .lka ∈ ps := by simp [*]) (h_aon : .aon ∈ ps := by simp [*]) (h_err : .err ∈ ps := by simp [*]) (h_obs : .obs ∈ ps := by simp [*]) (h_rcd : .rcd ∈ ps := by simp [*]) :
    Frame ps s0 (writeGstat x0 x1 s) := by
  have h1 := storeErr_frame x0 s (fun s => if bit x1 30 then { s with err := { s.err with missed := false } } else s) h
    (by intro s h; dsimp only; split; exact (only_err _ _ _ _ h_err).2 h; exact h)
  unfold writeGstat
  split
  · have h2 := h1.go _ ‹_›
    exact frame_ite _ (execHaltClear_frame _ _ h2) (frame_next h2)
  · exact h1
theorem errWrite_frame {ps : List Piece} {s0 : State} (x0 : Who) (x1 : Nat) (x2 : W64) (s : State) (h : s0.only ps s) (h_held : .held ∈ ps := by simp [*]) (h_reqs : .reqs ∈ ps := by simp [*]) (h_orphans : .orphans ∈ ps := by simp [*]) (h_out : .out ∈ ps := by simp [*]) (h_gal : .gal ∈ ps := by simp [*]) (h_trn : .trn ∈ ps := by simp [*]) (h_flt : .flt ∈ ps := by simp [*]) (h_lka : .lka ∈ ps := by simp [*]) (h_ic : .ic ∈ ps := by simp [*]) (h_aon : .aon ∈ ps := by simp [*]) (h_err : .err ∈ ps := by simp [*]) (h_obs : .obs ∈ ps := by simp [*]) (h_rcd : .rcd ∈ ps := by simp [*]) :
    Frame ps s0 (errWrite x0 x1 x2 s) := by
  unfold errWrite
  repeat' first
    | with_reducible assumption | with_reducible refine storeErr_frame _ _ _ ?_ (fun _ _ => ?_)
    | with_reducible refine heardAon_frame _ _ _ ?_ (fun _ _ => ?_) | with_reducible apply frame_next
    | with_reducible apply frame_ite | with_reducible apply writeGstat_frame | with_reducible apply execErrStatClear_frame
    | with_reducible apply State.updFerr_only | with_reducible apply State.writeErrCfg_only
    | simp only [only_err, h_held, h_reqs, h_orphans, h_out, h_gal, h_trn, h_flt, h_lka, h_ic, h_aon, h_err, h_obs, h_rcd]
    | split
theorem execReadClearCounterRead_frame {ps : List Piece} {s0 : State} (x0 : Who) (x1 : RcReg) (x2 : Half) (s : State) (h : s0.only ps s) (h_held : .held ∈ ps := by simp [*]) (h_out : .out ∈ ps := by simp [*]) (h_latch : .latch ∈ ps := by simp [*]) (h_cmp : .cmp ∈ ps := by simp [*]) (h_lka : .lka ∈ ps := by simp [*]) (h_seam : .seam ∈ ps := by simp [*]) (h_lin : .lin ∈ ps := by simp [*]) (h_host : .host ∈ ps := by simp [*]) (h_ic : .ic ∈ ps := by simp [*]) (h_aon : .aon ∈ ps := by simp [*]) (h_err : .err ∈ ps := by simp [*]) (h_obs : .obs ∈ ps := by simp [*]) (h_rcd : .rcd ∈ ps := by simp [*]) :
    Frame ps s0 (execReadClearCounterRead x0 x1 x2 s) := by
  unfold execReadClearCounterRead
  repeat' first
    | with_reducible assumption | with_reducible refine delivered_frame _ _ _ ?_ (fun _ _ => ?_)
    | with_reducible refine heardAonRead_frame _ _ _ ?_ (fun _ _ => ?_)
    | with_reducible refine heardRead_frame _ _ _ ?_ (fun _ _ => ?_) | with_reducible apply frame_next
    | with_reducible apply frame_ite | with_reducible apply State.readView_only | split
theorem store_frame {ps : List Piece} {s0 : State} (w : Who) (c : Nat) (s : State) (f : State → State) (h : s0.only ps s)
    (hf : ∀ s, s0.only ps s → s0.only ps (f s)) (h_out : .out ∈ ps := by simp [*]) (h_ic : .ic ∈ ps := by simp [*]) (h_err : .err ∈ ps := by simp [*]) : Frame ps s0 (store w c s f) := heard_frame _ _ _ h fun s h => inUnit_frame _ _ _ _ h fun s h => frame_next (hf _ h)
theorem writeQctl_frame {ps : List Piece} {s0 : State} (x0 : Who) (x1 : Nat) (s : State) (h : s0.only ps s) (h_held : .held ∈ ps := by simp [*]) (h_reqs : .reqs ∈ ps := by simp [*]) (h_orphans : .orphans ∈ ps := by simp [*]) (h_out : .out ∈ ps := by simp [*]) (h_gal : .gal ∈ ps := by simp [*]) (h_trn : .trn ∈ ps := by simp [*]) (h_flt : .flt ∈ ps := by simp [*]) (h_epo : .epo ∈ ps := by simp [*]) (h_plt : .plt ∈ ps := by simp [*]) (h_cmp : .cmp ∈ ps := by simp [*]) (h_lka : .lka ∈ ps := by simp [*]) (h_ic : .ic ∈ ps := by simp [*]) (h_aon : .aon ∈ ps := by simp [*]) (h_err : .err ∈ ps := by simp [*]) (h_obs : .obs ∈ ps := by simp [*]) (h_rcd : .rcd ∈ ps := by simp [*]) :
    Frame ps s0 (writeQctl x0 x1 s) := by
  unfold writeQctl
  repeat' first
    | with_reducible assumption | with_reducible apply frame_next | with_reducible apply frame_ite
    | with_reducible apply execQctlEnable_frame | with_reducible apply execQctlDisable_frame
    | with_reducible apply execQctlResume_frame | with_reducible apply execQctlReset_frame
    | with_reducible apply ignored_frame
theorem storeMgr_frame {ps : List Piece} {s0 : State} (w : Who) (c : Nat) (s : State) (f : State → State) (h : s0.only ps s)
    (hf : ∀ s, s0.only ps s → s0.only ps (f s)) (h_out : .out ∈ ps := by simp [*]) (h_ic : .ic ∈ ps := by simp [*]) (h_err : .err ∈ ps := by simp [*]) : Frame ps s0 (storeMgr w c s f) := store_frame _ _ _ _ h fun s h => only_ite _ (hf _ h) h
theorem galWrite_frame {ps : List Piece} {s0 : State} (x0 : Who) (x1 : Nat) (x2 : Half) (x3 : W64) (s : State) (h : s0.only ps s) (h_held : .held ∈ ps := by simp [*]) (h_reqs : .reqs ∈ ps := by simp [*]) (h_orphans : .orphans ∈ ps := by simp [*]) (h_out : .out ∈ ps := by simp [*]) (h_gal : .gal ∈ ps := by simp [*]) (h_trn : .trn ∈ ps := by simp [*]) (h_flt : .flt ∈ ps := by simp [*]) (h_epo : .epo ∈ ps := by simp [*]) (h_plt : .plt ∈ ps := by simp [*]) (h_cmp : .cmp ∈ ps := by simp [*]) (h_lka : .lka ∈ ps := by simp [*]) (h_ic : .ic ∈ ps := by simp [*]) (h_aon : .aon ∈ ps := by simp [*]) (h_err : .err ∈ ps := by simp [*]) (h_obs : .obs ∈ ps := by simp [*]) (h_rcd : .rcd ∈ ps := by simp [*]) :
    Frame ps s0 (galWrite x0 x1 x2 x3 s) := by
  unfold galWrite
  repeat' first
    | with_reducible assumption | with_reducible refine store_frame _ _ _ _ ?_ (fun _ _ => ?_)
    | with_reducible refine storeMgr_frame _ _ _ _ ?_ (fun _ _ => ?_) | with_reducible apply frame_next
    | with_reducible apply frame_ite | with_reducible apply writeQctl_frame | with_reducible apply ignored_frame
    | with_reducible apply State.writeGalSel_only | with_reducible apply State.cfgQueue_only
    | with_reducible apply State.clearHalted_only
    | simp only [only_gal, h_held, h_reqs, h_orphans, h_out, h_gal, h_trn, h_flt, h_epo, h_plt, h_cmp, h_lka, h_ic, h_aon, h_err, h_obs, h_rcd]
    | split
theorem icWrite_frame {ps : List Piece} {s0 : State} (x0 : Who) (x1 : Nat) (x2 : W64) (s : State) (h : s0.only ps s) (h_held : .held ∈ ps := by simp [*]) (h_out : .out ∈ ps := by simp [*]) (h_host : .host ∈ ps := by simp [*]) (h_ic : .ic ∈ ps := by simp [*]) (h_prt : .prt ∈ ps := by simp [*]) (h_aon : .aon ∈ ps := by simp [*]) (h_err : .err ∈ ps := by simp [*]) (h_obs : .obs ∈ ps := by simp [*]) :
    Frame ps s0 (icWrite x0 x1 x2 s) := by
  unfold icWrite
  repeat' first
    | with_reducible assumption | with_reducible refine store_frame _ _ _ _ ?_ (fun _ _ => ?_)
    | with_reducible refine storeMgr_frame _ _ _ _ ?_ (fun _ _ => ?_) | with_reducible apply frame_next
    | with_reducible apply frame_ite | with_reducible apply execGctlWrite_frame | with_reducible apply execSysevClear_frame
    | with_reducible apply execPendClear_frame | with_reducible apply execTgtWrite_frame
    | with_reducible apply execSourceComplete_frame | with_reducible apply ignored_frame
    | with_reducible apply State.writeCoal_only | split
theorem partWrite_frame {ps : List Piece} {s0 : State} (x0 : Who) (x1 : Nat) (x2 : Half) (x3 : W64) (s : State) (h : s0.only ps s) (h_held : .held ∈ ps := by simp [*]) (h_out : .out ∈ ps := by simp [*]) (h_ic : .ic ∈ ps := by simp [*]) (h_prt : .prt ∈ ps := by simp [*]) (h_aon : .aon ∈ ps := by simp [*]) (h_err : .err ∈ ps := by simp [*]) :
    Frame ps s0 (partWrite x0 x1 x2 x3 s) := by
  unfold partWrite
  repeat' first
    | with_reducible assumption | with_reducible refine store_frame _ _ _ _ ?_ (fun _ _ => ?_)
    | with_reducible apply frame_next | with_reducible apply frame_ite | with_reducible apply execTcactWrite_frame
    | with_reducible apply execQuotaWrite_frame | with_reducible apply ignored_frame
    | with_reducible apply State.writeOver_only | split
theorem writeInvctl_frame {ps : List Piece} {s0 : State} (x0 : Who) (x1 : Nat) (s : State) (h : s0.only ps s) (h_held : .held ∈ ps := by simp [*]) (h_out : .out ∈ ps := by simp [*]) (h_trn : .trn ∈ ps := by simp [*]) (h_lka : .lka ∈ ps := by simp [*]) (h_ic : .ic ∈ ps := by simp [*]) (h_aon : .aon ∈ ps := by simp [*]) (h_err : .err ∈ ps := by simp [*]) :
    Frame ps s0 (writeInvctl x0 x1 s) := by
  unfold writeInvctl
  repeat' first
    | with_reducible assumption | with_reducible apply frame_next | with_reducible apply frame_ite
    | with_reducible apply execInvctlPartition_frame | with_reducible apply execInvctlContext_frame
    | with_reducible apply execInvctlRange_frame | with_reducible apply ignored_frame | split
theorem trnTable_frame {ps : List Piece} {s0 : State} (x0 : Who) (x1 : Nat) (x2 : Half) (x3 : W64) (s : State) (h : s0.only ps s) (h_held : .held ∈ ps := by simp [*]) (h_out : .out ∈ ps := by simp [*]) (h_trn : .trn ∈ ps := by simp [*]) (h_lka : .lka ∈ ps := by simp [*]) (h_ic : .ic ∈ ps := by simp [*]) (h_aon : .aon ∈ ps := by simp [*]) (h_err : .err ∈ ps := by simp [*]) :
    Frame ps s0 (trnTable x0 x1 x2 x3 s) := by
  unfold trnTable
  repeat' first
    | with_reducible assumption | with_reducible refine storeMgr_frame _ _ _ _ ?_ (fun _ _ => ?_)
    | with_reducible refine store_frame _ _ _ _ ?_ (fun _ _ => ?_) | with_reducible apply frame_next
    | with_reducible apply frame_ite | with_reducible apply execCtxcfgWrite_frame | with_reducible apply ignored_frame
    | with_reducible apply State.setTrn_only | split
theorem trnWrite_frame {ps : List Piece} {s0 : State} (x0 : Who) (x1 : Nat) (x2 : Half) (x3 : W64) (s : State) (h : s0.only ps s) (h_held : .held ∈ ps := by simp [*]) (h_out : .out ∈ ps := by simp [*]) (h_trn : .trn ∈ ps := by simp [*]) (h_lka : .lka ∈ ps := by simp [*]) (h_ic : .ic ∈ ps := by simp [*]) (h_aon : .aon ∈ ps := by simp [*]) (h_err : .err ∈ ps := by simp [*]) :
    Frame ps s0 (trnWrite x0 x1 x2 x3 s) := by
  unfold trnWrite
  repeat' first
    | with_reducible assumption | with_reducible refine store_frame _ _ _ _ ?_ (fun _ _ => ?_)
    | with_reducible refine storeMgr_frame _ _ _ _ ?_ (fun _ _ => ?_) | with_reducible apply frame_next
    | with_reducible apply frame_ite | with_reducible apply writeInvctl_frame | with_reducible apply execTbindWrite_frame
    | with_reducible apply trnTable_frame | with_reducible apply State.setTrn_only
    | with_reducible apply State.writePmode_only | split
theorem writeResp_frame {ps : List Piece} {s0 : State} (x0 : Who) (x1 : Nat) (s : State) (h : s0.only ps s) (h_held : .held ∈ ps := by simp [*]) (h_reqs : .reqs ∈ ps := by simp [*]) (h_orphans : .orphans ∈ ps := by simp [*]) (h_nextId : .nextId ∈ ps := by simp [*]) (h_out : .out ∈ ps := by simp [*]) (h_gal : .gal ∈ ps := by simp [*]) (h_trn : .trn ∈ ps := by simp [*]) (h_flt : .flt ∈ ps := by simp [*]) (h_epo : .epo ∈ ps := by simp [*]) (h_plt : .plt ∈ ps := by simp [*]) (h_cmp : .cmp ∈ ps := by simp [*]) (h_lka : .lka ∈ ps := by simp [*]) (h_ic : .ic ∈ ps := by simp [*]) (h_aon : .aon ∈ ps := by simp [*]) (h_err : .err ∈ ps := by simp [*]) (h_obs : .obs ∈ ps := by simp [*]) (h_rcd : .rcd ∈ ps := by simp [*]) :
    Frame ps s0 (writeResp x0 x1 s) := by
  unfold writeResp
  repeat' first
    | with_reducible assumption | with_reducible refine store_frame _ _ _ _ ?_ (fun _ _ => ?_)
    | with_reducible apply frame_next | with_reducible apply frame_ite | with_reducible apply execFltRespRetry_frame
    | with_reducible apply execFltRespAbort_frame | with_reducible apply State.modFltp_only | split
theorem fltWrite_frame {ps : List Piece} {s0 : State} (x0 : Who) (x1 : Nat) (x2 : Half) (x3 : W64) (s : State) (h : s0.only ps s) (h_held : .held ∈ ps := by simp [*]) (h_reqs : .reqs ∈ ps := by simp [*]) (h_orphans : .orphans ∈ ps := by simp [*]) (h_nextId : .nextId ∈ ps := by simp [*]) (h_out : .out ∈ ps := by simp [*]) (h_gal : .gal ∈ ps := by simp [*]) (h_trn : .trn ∈ ps := by simp [*]) (h_flt : .flt ∈ ps := by simp [*]) (h_epo : .epo ∈ ps := by simp [*]) (h_plt : .plt ∈ ps := by simp [*]) (h_cmp : .cmp ∈ ps := by simp [*]) (h_lka : .lka ∈ ps := by simp [*]) (h_ic : .ic ∈ ps := by simp [*]) (h_aon : .aon ∈ ps := by simp [*]) (h_err : .err ∈ ps := by simp [*]) (h_obs : .obs ∈ ps := by simp [*]) (h_rcd : .rcd ∈ ps := by simp [*]) :
    Frame ps s0 (fltWrite x0 x1 x2 x3 s) := by
  unfold fltWrite
  repeat' first
    | with_reducible assumption | with_reducible refine store_frame _ _ _ _ ?_ (fun _ _ => ?_)
    | with_reducible apply frame_next | with_reducible apply frame_ite | with_reducible apply execFltRcfgWrite_frame
    | with_reducible apply writeResp_frame | with_reducible apply execTrecWrite_frame | with_reducible apply ignored_frame
    | with_reducible apply State.modFltp_only | split
theorem writeCctl_frame {ps : List Piece} {s0 : State} (x0 : Who) (x1 : Nat) (s : State) (h : s0.only ps s) (h_held : .held ∈ ps := by simp [*]) (h_out : .out ∈ ps := by simp [*]) (h_gal : .gal ∈ ps := by simp [*]) (h_plt : .plt ∈ ps := by simp [*]) (h_ic : .ic ∈ ps := by simp [*]) (h_aon : .aon ∈ ps := by simp [*]) (h_err : .err ∈ ps := by simp [*]) (h_obs : .obs ∈ ps := by simp [*]) (h_rcd : .rcd ∈ ps := by simp [*]) :
    Frame ps s0 (writeCctl x0 x1 s) := by
  unfold writeCctl
  repeat' first
    | with_reducible assumption | with_reducible apply frame_next | with_reducible apply frame_ite
    | with_reducible apply execPltCctlAbort_frame | with_reducible apply execPltCctlRelease_frame
    | with_reducible apply execPltCctlRetry_frame | with_reducible apply ignored_frame | split
theorem pltWrite_frame {ps : List Piece} {s0 : State} (x0 : Who) (x1 : Nat) (x2 : Half) (x3 : W64) (s : State) (h : s0.only ps s) (h_held : .held ∈ ps := by simp [*]) (h_out : .out ∈ ps := by simp [*]) (h_gal : .gal ∈ ps := by simp [*]) (h_plt : .plt ∈ ps := by simp [*]) (h_ic : .ic ∈ ps := by simp [*]) (h_aon : .aon ∈ ps := by simp [*]) (h_err : .err ∈ ps := by simp [*]) (h_obs : .obs ∈ ps := by simp [*]) (h_rcd : .rcd ∈ ps := by simp [*]) :
    Frame ps s0 (pltWrite x0 x1 x2 x3 s) := by
  unfold pltWrite
  repeat' first
    | with_reducible assumption | with_reducible refine storeAny_frame _ _ _ ?_ (fun _ _ => ?_)
    | with_reducible apply frame_next | with_reducible apply frame_ite | with_reducible apply writeCctl_frame
    | with_reducible apply ignored_frame
    | simp only [only_plt, h_held, h_out, h_gal, h_plt, h_ic, h_aon, h_err, h_obs, h_rcd]
theorem lkaWrite_frame {ps : List Piece} {s0 : State} (x0 : Who) (x1 : Nat) (x2 : W64) (s : State) (h : s0.only ps s) (h_held : .held ∈ ps := by simp [*]) (h_reqs : .reqs ∈ ps := by simp [*]) (h_orphans : .orphans ∈ ps := by simp [*]) (h_out : .out ∈ ps := by simp [*]) (h_trn : .trn ∈ ps := by simp [*]) (h_lka : .lka ∈ ps := by simp [*]) (h_ic : .ic ∈ ps := by simp [*]) (h_aon : .aon ∈ ps := by simp [*]) (h_err : .err ∈ ps := by simp [*]) :
    Frame ps s0 (lkaWrite x0 x1 x2 s) := by
  unfold lkaWrite
  repeat' first
    | with_reducible assumption | with_reducible apply frame_next | with_reducible apply frame_ite
    | with_reducible apply execLkaGctlWrite_frame | with_reducible apply execLkaCtlWrite_frame
    | with_reducible apply ignored_frame
theorem writeWctl_frame {ps : List Piece} {s0 : State} (x0 : Who) (x1 : Nat) (s : State) (h : s0.only ps s) (h_held : .held ∈ ps := by simp [*]) (h_out : .out ∈ ps := by simp [*]) (h_seam : .seam ∈ ps := by simp [*]) (h_ic : .ic ∈ ps := by simp [*]) (h_aon : .aon ∈ ps := by simp [*]) (h_err : .err ∈ ps := by simp [*]) :
    Frame ps s0 (writeWctl x0 x1 s) := by
  unfold writeWctl; dsimp only
  have h1 := store_frame x0 6 s (fun s => if bit x1 8 then { s with seam := { s.seam with refused := s.seam.refused.set (whoPart x0) false } } else s) h
    (by intro s h; dsimp only; split; exact (only_seam _ _ _ _ h_seam).2 h; exact h)
  split
  · have h2 := h1.go _ ‹_›
    exact frame_ite _ (execWindowCommit_frame _ _ h2) (frame_next h2)
  · exact h1
theorem writeTown_frame {ps : List Piece} {s0 : State} (x0 : Who) (x1 : Nat) (s : State) (h : s0.only ps s) (h_held : .held ∈ ps := by simp [*]) (h_out : .out ∈ ps := by simp [*]) (h_seam : .seam ∈ ps := by simp [*]) (h_tal : .tal ∈ ps := by simp [*]) (h_ic : .ic ∈ ps := by simp [*]) (h_aon : .aon ∈ ps := by simp [*]) (h_err : .err ∈ ps := by simp [*]) :
    Frame ps s0 (writeTown x0 x1 s) := by
  unfold writeTown; dsimp only
  have h1 := storeMgr_frame x0 6 s (fun s => if bit x1 29 then { s with seam := { s.seam with town := false } } else s) h
    (by intro s h; dsimp only; split; exact (only_seam _ _ _ _ h_seam).2 h; exact h)
  split
  · have h2 := h1.go _ ‹_›
    split
    · exact execTownAssign_frame _ _ _ _ h2
    · exact execTownRelease_frame _ _ _ h2
    · exact frame_next h2
  · exact h1
theorem seamWrite_frame {ps : List Piece} {s0 : State} (x0 : Who) (x1 : Nat) (x2 : Half) (x3 : W64) (s : State) (h : s0.only ps s) (h_held : .held ∈ ps := by simp [*]) (h_out : .out ∈ ps := by simp [*]) (h_seam : .seam ∈ ps := by simp [*]) (h_tal : .tal ∈ ps := by simp [*]) (h_ic : .ic ∈ ps := by simp [*]) (h_aon : .aon ∈ ps := by simp [*]) (h_err : .err ∈ ps := by simp [*]) :
    Frame ps s0 (seamWrite x0 x1 x2 x3 s) := by
  unfold seamWrite
  repeat' first
    | with_reducible assumption | with_reducible refine storeMgr_frame _ _ _ _ ?_ (fun _ _ => ?_)
    | with_reducible refine store_frame _ _ _ _ ?_ (fun _ _ => ?_) | with_reducible apply frame_next
    | with_reducible apply frame_ite | with_reducible apply writeWctl_frame | with_reducible apply writeTown_frame
    | with_reducible apply ignored_frame | with_reducible apply State.stage_only
    | simp only [only_seam, h_held, h_out, h_seam, h_tal, h_ic, h_aon, h_err] | split
theorem writeAgctl_frame {ps : List Piece} {s0 : State} (x0 : Who) (x1 : Nat) (s : State) (h : s0.only ps s) (h_held : .held ∈ ps := by simp [*]) (h_mem : .mem ∈ ps := by simp [*]) (h_poison : .poison ∈ ps := by simp [*]) (h_veil : .veil ∈ ps := by simp [*]) (h_reqs : .reqs ∈ ps := by simp [*]) (h_orphans : .orphans ∈ ps := by simp [*]) (h_free : .free ∈ ps := by simp [*]) (h_tileQ : .tileQ ∈ ps := by simp [*]) (h_out : .out ∈ ps := by simp [*]) (h_trn : .trn ∈ ps := by simp [*]) (h_lka : .lka ∈ ps := by simp [*]) (h_seam : .seam ∈ ps := by simp [*]) (h_tal : .tal ∈ ps := by simp [*]) (h_lin : .lin ∈ ps := by simp [*]) (h_host : .host ∈ ps := by simp [*]) (h_ic : .ic ∈ ps := by simp [*]) (h_aon : .aon ∈ ps := by simp [*]) (h_err : .err ∈ ps := by simp [*]) (h_obs : .obs ∈ ps := by simp [*]) :
    Frame ps s0 (writeAgctl x0 x1 s) := by
  unfold writeAgctl; dsimp only
  have h1 := storeMgr_frame x0 8 s (fun s => if bit x1 29 then s.setLin { s.lin with refused := false } else s) h
    (by intro s h; dsimp only; split; exact State.setLin_only _ _ h; exact h)
  split
  · have h2 := h1.go _ ‹_›
    split
    · exact execAgctlLeave_frame _ _ _ h2
    · exact execAgctlJoin_frame _ _ _ h2
    · exact frame_next h2
  · exact h1
theorem linWrite_frame {ps : List Piece} {s0 : State} (x0 : Who) (x1 : Nat) (x2 : Half) (x3 : W64) (s : State) (h : s0.only ps s) (h_held : .held ∈ ps := by simp [*]) (h_mem : .mem ∈ ps := by simp [*]) (h_poison : .poison ∈ ps := by simp [*]) (h_veil : .veil ∈ ps := by simp [*]) (h_reqs : .reqs ∈ ps := by simp [*]) (h_orphans : .orphans ∈ ps := by simp [*]) (h_free : .free ∈ ps := by simp [*]) (h_tileQ : .tileQ ∈ ps := by simp [*]) (h_out : .out ∈ ps := by simp [*]) (h_trn : .trn ∈ ps := by simp [*]) (h_lka : .lka ∈ ps := by simp [*]) (h_seam : .seam ∈ ps := by simp [*]) (h_tal : .tal ∈ ps := by simp [*]) (h_lin : .lin ∈ ps := by simp [*]) (h_host : .host ∈ ps := by simp [*]) (h_ic : .ic ∈ ps := by simp [*]) (h_aon : .aon ∈ ps := by simp [*]) (h_err : .err ∈ ps := by simp [*]) (h_obs : .obs ∈ ps := by simp [*]) :
    Frame ps s0 (linWrite x0 x1 x2 x3 s) := by
  unfold linWrite
  repeat' first
    | with_reducible assumption | with_reducible refine store_frame _ _ _ _ ?_ (fun _ _ => ?_)
    | with_reducible apply frame_next | with_reducible apply frame_ite | with_reducible apply execLinEnable_frame
    | with_reducible apply execLinDisable_frame | with_reducible apply writeAgctl_frame
    | with_reducible apply execLinProbe_frame | with_reducible apply ignored_frame | with_reducible apply State.setLin_only
    | split
theorem obsWrite_frame {ps : List Piece} {s0 : State} (x0 : Who) (x1 : Nat) (x2 : Half) (x3 : W64) (s : State) (h : s0.only ps s) (h_held : .held ∈ ps := by simp [*]) (h_out : .out ∈ ps := by simp [*]) (h_ic : .ic ∈ ps := by simp [*]) (h_aon : .aon ∈ ps := by simp [*]) (h_err : .err ∈ ps := by simp [*]) (h_obs : .obs ∈ ps := by simp [*]) :
    Frame ps s0 (obsWrite x0 x1 x2 x3 s) := by
  unfold obsWrite
  repeat' first
    | with_reducible assumption | with_reducible refine store_frame _ _ _ _ ?_ (fun _ _ => ?_)
    | with_reducible refine storeMgr_frame _ _ _ _ ?_ (fun _ _ => ?_) | with_reducible apply frame_next
    | with_reducible apply frame_ite | with_reducible apply execTempClrpeak_frame | with_reducible apply ignored_frame
    | with_reducible apply execTackGo_frame | with_reducible apply State.setTrp_only
    | simp only [only_obs, h_held, h_out, h_ic, h_aon, h_err, h_obs] | split
theorem recRegWrite_frame {ps : List Piece} {s0 : State} (x0 : Who) (x1 : Nat) (x2 : Half) (x3 : W64) (s : State) (h : s0.only ps s) (h_out : .out ∈ ps := by simp [*]) (h_ic : .ic ∈ ps := by simp [*]) (h_err : .err ∈ ps := by simp [*]) (h_rcd : .rcd ∈ ps := by simp [*]) :
    Frame ps s0 (recRegWrite x0 x1 x2 x3 s) := by
  unfold recRegWrite
  repeat' first
    | with_reducible assumption | with_reducible refine storeMgr_frame _ _ _ _ ?_ (fun _ _ => ?_)
    | with_reducible refine store_frame _ _ _ _ ?_ (fun _ _ => ?_) | with_reducible apply frame_next
    | with_reducible apply frame_ite | with_reducible apply ignored_frame | with_reducible apply State.writeRecCtl_only
    | with_reducible apply State.recWrite_only | simp only [only_rcd, h_out, h_ic, h_err, h_rcd]
theorem talWrite_frame {ps : List Piece} {s0 : State} (x0 : Who) (x1 : Nat) (x2 : Half) (x3 : W64) (s : State) (h : s0.only ps s) (h_held : .held ∈ ps := by simp [*]) (h_tileQ : .tileQ ∈ ps := by simp [*]) (h_out : .out ∈ ps := by simp [*]) (h_tal : .tal ∈ ps := by simp [*]) (h_ic : .ic ∈ ps := by simp [*]) (h_aon : .aon ∈ ps := by simp [*]) (h_err : .err ∈ ps := by simp [*]) (h_obs : .obs ∈ ps := by simp [*]) :
    Frame ps s0 (talWrite x0 x1 x2 x3 s) := by
  unfold talWrite
  repeat' first
    | with_reducible assumption | with_reducible refine store_frame _ _ _ _ ?_ (fun _ _ => ?_)
    | with_reducible apply frame_next | with_reducible apply frame_ite | with_reducible apply execTalCountWrite_frame
    | with_reducible apply execTalThrWrite_frame | with_reducible apply State.isolation_only | split
theorem pageWrite_frame {ps : List Piece} {s0 : State} (x0 : Who) (x1 : Nat) (x2 : W64) (s : State) (h : s0.only ps s) (h_held : .held ∈ ps := by simp [*]) (h_reqs : .reqs ∈ ps := by simp [*]) (h_orphans : .orphans ∈ ps := by simp [*]) (h_out : .out ∈ ps := by simp [*]) (h_gal : .gal ∈ ps := by simp [*]) (h_trn : .trn ∈ ps := by simp [*]) (h_flt : .flt ∈ ps := by simp [*]) (h_lka : .lka ∈ ps := by simp [*]) (h_ic : .ic ∈ ps := by simp [*]) (h_aon : .aon ∈ ps := by simp [*]) (h_err : .err ∈ ps := by simp [*]) (h_rcd : .rcd ∈ ps := by simp [*]) :
    Frame ps s0 (pageWrite x0 x1 x2 s) := by
  unfold pageWrite
  repeat' first
    | with_reducible assumption | with_reducible apply frame_next | with_reducible apply frame_ite
    | with_reducible apply execDoorbellWrite_frame | with_reducible apply execCheadWrite_frame
    | with_reducible apply ignored_frame | split
theorem writeReg_frame {ps : List Piece} {s0 : State} (x0 : Who) (x1 : Nat) (x2 : Half) (x3 : W64) (s : State) (h : s0.only ps s) (h_held : .held ∈ ps := by simp [*]) (h_mem : .mem ∈ ps := by simp [*]) (h_poison : .poison ∈ ps := by simp [*]) (h_veil : .veil ∈ ps := by simp [*]) (h_reqs : .reqs ∈ ps := by simp [*]) (h_orphans : .orphans ∈ ps := by simp [*]) (h_nextId : .nextId ∈ ps := by simp [*]) (h_free : .free ∈ ps := by simp [*]) (h_tileQ : .tileQ ∈ ps := by simp [*]) (h_out : .out ∈ ps := by simp [*]) (h_gal : .gal ∈ ps := by simp [*]) (h_trn : .trn ∈ ps := by simp [*]) (h_flt : .flt ∈ ps := by simp [*]) (h_epo : .epo ∈ ps := by simp [*]) (h_plt : .plt ∈ ps := by simp [*]) (h_cmp : .cmp ∈ ps := by simp [*]) (h_lka : .lka ∈ ps := by simp [*]) (h_seam : .seam ∈ ps := by simp [*]) (h_tal : .tal ∈ ps := by simp [*]) (h_lin : .lin ∈ ps := by simp [*]) (h_host : .host ∈ ps := by simp [*]) (h_ic : .ic ∈ ps := by simp [*]) (h_prt : .prt ∈ ps := by simp [*]) (h_aon : .aon ∈ ps := by simp [*]) (h_err : .err ∈ ps := by simp [*]) (h_obs : .obs ∈ ps := by simp [*]) (h_rcd : .rcd ∈ ps := by simp [*]) :
    Frame ps s0 (writeReg x0 x1 x2 x3 s) := by
  unfold writeReg
  repeat' first
    | with_reducible assumption | with_reducible apply frame_next | with_reducible apply frame_ite
    | with_reducible apply galWrite_frame | with_reducible apply ignored_frame | with_reducible apply icWrite_frame
    | with_reducible apply partWrite_frame | with_reducible apply trnWrite_frame | with_reducible apply fltWrite_frame
    | with_reducible apply pltWrite_frame | with_reducible apply cmpWrite_frame | with_reducible apply lkaWrite_frame
    | with_reducible apply seamWrite_frame | with_reducible apply linWrite_frame | with_reducible apply errWrite_frame
    | with_reducible apply obsWrite_frame | with_reducible apply recRegWrite_frame | with_reducible apply aonWrite_frame
    | with_reducible apply talWrite_frame | with_reducible apply pageWrite_frame
theorem writeWord_frame {ps : List Piece} {s0 s : State} {w : Who} {o : Nat} {v : W64} {a : Ans} (e : writeWord w o v s = some a)
    (h : s0.only ps s) (h_held : .held ∈ ps := by simp [*]) (h_mem : .mem ∈ ps := by simp [*]) (h_poison : .poison ∈ ps := by simp [*]) (h_veil : .veil ∈ ps := by simp [*]) (h_reqs : .reqs ∈ ps := by simp [*]) (h_orphans : .orphans ∈ ps := by simp [*]) (h_nextId : .nextId ∈ ps := by simp [*]) (h_free : .free ∈ ps := by simp [*]) (h_tileQ : .tileQ ∈ ps := by simp [*]) (h_out : .out ∈ ps := by simp [*]) (h_gal : .gal ∈ ps := by simp [*]) (h_trn : .trn ∈ ps := by simp [*]) (h_flt : .flt ∈ ps := by simp [*]) (h_epo : .epo ∈ ps := by simp [*]) (h_plt : .plt ∈ ps := by simp [*]) (h_cmp : .cmp ∈ ps := by simp [*]) (h_lka : .lka ∈ ps := by simp [*]) (h_seam : .seam ∈ ps := by simp [*]) (h_tal : .tal ∈ ps := by simp [*]) (h_lin : .lin ∈ ps := by simp [*]) (h_host : .host ∈ ps := by simp [*]) (h_ic : .ic ∈ ps := by simp [*]) (h_prt : .prt ∈ ps := by simp [*]) (h_aon : .aon ∈ ps := by simp [*]) (h_err : .err ∈ ps := by simp [*]) (h_obs : .obs ∈ ps := by simp [*]) (h_rcd : .rcd ∈ ps := by simp [*]) : Frame ps s0 a := by
  unfold writeWord at e
  repeat' split at e
  all_goals cases e
  all_goals exact writeReg_frame _ _ _ _ _ h
theorem writePair_frame {ps : List Piece} {s0 : State} (w : Who) (o : Nat) (v : W64) (s : State) (h : s0.only ps s) (h_held : .held ∈ ps := by simp [*]) (h_mem : .mem ∈ ps := by simp [*]) (h_poison : .poison ∈ ps := by simp [*]) (h_veil : .veil ∈ ps := by simp [*]) (h_reqs : .reqs ∈ ps := by simp [*]) (h_orphans : .orphans ∈ ps := by simp [*]) (h_nextId : .nextId ∈ ps := by simp [*]) (h_free : .free ∈ ps := by simp [*]) (h_tileQ : .tileQ ∈ ps := by simp [*]) (h_out : .out ∈ ps := by simp [*]) (h_gal : .gal ∈ ps := by simp [*]) (h_trn : .trn ∈ ps := by simp [*]) (h_flt : .flt ∈ ps := by simp [*]) (h_epo : .epo ∈ ps := by simp [*]) (h_plt : .plt ∈ ps := by simp [*]) (h_cmp : .cmp ∈ ps := by simp [*]) (h_lka : .lka ∈ ps := by simp [*]) (h_seam : .seam ∈ ps := by simp [*]) (h_tal : .tal ∈ ps := by simp [*]) (h_lin : .lin ∈ ps := by simp [*]) (h_host : .host ∈ ps := by simp [*]) (h_ic : .ic ∈ ps := by simp [*]) (h_prt : .prt ∈ ps := by simp [*]) (h_aon : .aon ∈ ps := by simp [*]) (h_err : .err ∈ ps := by simp [*]) (h_obs : .obs ∈ ps := by simp [*]) (h_rcd : .rcd ∈ ps := by simp [*]) :
    Frame ps s0 (writePair w o v s) := by
  have g (o : Nat) (v : W64) (s : State) (h : s0.only ps s) (b : Ans) (hb : Frame ps s0 b) : Frame ps s0 ((writeWord w o v s).getD b) := by
    cases e : writeWord w o v s with
    | none => exact hb
    | some a => exact writeWord_frame e h
  unfold writePair; dsimp only
  split
  · have h2 := (writeWord_frame ‹_› h).go _ rfl
    exact g _ _ _ h2 _ (frame_next h2)
  · exact writeWord_frame ‹_› h
  · exact g _ _ _ h _ (badWrite_frame _ _ h)
theorem writeAt_frame {ps : List Piece} {s0 : State} (x0 : Who) (x1 : Nat) (x2 : Nat) (x3 : W64) (s : State) (h : s0.only ps s) (h_held : .held ∈ ps := by simp [*]) (h_mem : .mem ∈ ps := by simp [*]) (h_poison : .poison ∈ ps := by simp [*]) (h_veil : .veil ∈ ps := by simp [*]) (h_reqs : .reqs ∈ ps := by simp [*]) (h_orphans : .orphans ∈ ps := by simp [*]) (h_nextId : .nextId ∈ ps := by simp [*]) (h_free : .free ∈ ps := by simp [*]) (h_tileQ : .tileQ ∈ ps := by simp [*]) (h_out : .out ∈ ps := by simp [*]) (h_gal : .gal ∈ ps := by simp [*]) (h_trn : .trn ∈ ps := by simp [*]) (h_flt : .flt ∈ ps := by simp [*]) (h_epo : .epo ∈ ps := by simp [*]) (h_plt : .plt ∈ ps := by simp [*]) (h_cmp : .cmp ∈ ps := by simp [*]) (h_lka : .lka ∈ ps := by simp [*]) (h_seam : .seam ∈ ps := by simp [*]) (h_tal : .tal ∈ ps := by simp [*]) (h_lin : .lin ∈ ps := by simp [*]) (h_host : .host ∈ ps := by simp [*]) (h_ic : .ic ∈ ps := by simp [*]) (h_prt : .prt ∈ ps := by simp [*]) (h_aon : .aon ∈ ps := by simp [*]) (h_err : .err ∈ ps := by simp [*]) (h_obs : .obs ∈ ps := by simp [*]) (h_rcd : .rcd ∈ ps := by simp [*]) :
    Frame ps s0 (writeAt x0 x1 x2 x3 s) := by
  unfold writeAt
  apply frame_ite
  · cases e : writeWord x0 x1 (BitVec.ofNat 64 (x3.toNat % 2 ^ 32)) s with
    | none => exact badWrite_frame _ _ h
    | some a => exact writeWord_frame e h
  · exact frame_ite _ (frame_ite _ (writeReg_frame _ _ _ _ _ h) (writePair_frame _ _ _ _ h)) (badWrite_frame _ _ h)
theorem execRegisterWrite_frame {ps : List Piece} {s0 : State} (x0 : Who) (x1 : BitVec 26) (x2 : Nat) (x3 : W64) (s : State) (h : s0.only ps s) (h_held : .held ∈ ps := by simp [*]) (h_mem : .mem ∈ ps := by simp [*]) (h_poison : .poison ∈ ps := by simp [*]) (h_veil : .veil ∈ ps := by simp [*]) (h_reqs : .reqs ∈ ps := by simp [*]) (h_orphans : .orphans ∈ ps := by simp [*]) (h_nextId : .nextId ∈ ps := by simp [*]) (h_free : .free ∈ ps := by simp [*]) (h_tileQ : .tileQ ∈ ps := by simp [*]) (h_out : .out ∈ ps := by simp [*]) (h_gal : .gal ∈ ps := by simp [*]) (h_trn : .trn ∈ ps := by simp [*]) (h_flt : .flt ∈ ps := by simp [*]) (h_epo : .epo ∈ ps := by simp [*]) (h_plt : .plt ∈ ps := by simp [*]) (h_cmp : .cmp ∈ ps := by simp [*]) (h_lka : .lka ∈ ps := by simp [*]) (h_seam : .seam ∈ ps := by simp [*]) (h_tal : .tal ∈ ps := by simp [*]) (h_lin : .lin ∈ ps := by simp [*]) (h_host : .host ∈ ps := by simp [*]) (h_ic : .ic ∈ ps := by simp [*]) (h_prt : .prt ∈ ps := by simp [*]) (h_aon : .aon ∈ ps := by simp [*]) (h_err : .err ∈ ps := by simp [*]) (h_obs : .obs ∈ ps := by simp [*]) (h_rcd : .rcd ∈ ps := by simp [*]) :
    Frame ps s0 (execRegisterWrite x0 x1 x2 x3 s) := by
  unfold execRegisterWrite
  repeat' first
    | with_reducible assumption | with_reducible refine delivered_frame _ _ _ ?_ (fun _ _ => ?_)
    | with_reducible apply frame_next | with_reducible apply frame_ite | with_reducible apply writeAt_frame
    | with_reducible apply badWrite_frame | split

end Sys2Proof.Machine
end

