-- ==== Sys2Proof/Laws/Heard.lean ====
section
/-! SUPPORT. When a command is acted on at once, reaches its unit, and is answered, its meaning runs; and what holding a command does. -/

namespace Sys2Proof.Machine

open Sys2Proof

theorem inUnit_of {c i : Nat} {s : State} {k : State → Ans} (h : s.serving c i = true) : inUnit c i s k = k s := by
  simp [inUnit, h]

theorem inUnit_out {c i : Nat} {s : State} {k : State → Ans} (h : s.serving c i = false) : inUnit c i s k = .next s := by
  simp [inUnit, h]

theorem delivered_of {c : Instr} {s : State} {k : State → Ans} (h : s.admits c = true) : delivered c s k = k s := by
  simp [delivered, h]

theorem delivered_held {c : Instr} {s : State} {k : State → Ans} (h : s.admits c = false) : delivered c s k = .next (s.hold c) := by
  simp [delivered, h]

theorem heard_of {w : Who} {s : State} {k : State → Ans} (h : s.hears w = true) : heard w s k = k s := by
  cases w with
  | core c => simp [State.hears] at h; simp [heard, fromCore, h]
  | fn p => simp [State.hears] at h; simp [heard, h]

theorem heardRead_of {w : Who} {s : State} {k : State → Ans} (h : s.hears w = true) : heardRead w s k = k s := by
  cases w with
  | core c => simp [State.hears] at h; simp [heardRead, fromCore, h]
  | fn p => simp [State.hears] at h; simp [heardRead, h]

theorem heardAon_of {w : Who} {s : State} {k : State → Ans} (h : s.hearsAon w = true) : heardAon w s k = k s := by
  cases w with
  | core c => simp [State.hearsAon] at h; simp [heardAon, fromCore, h]
  | fn p =>
    simp only [State.hearsAon] at h
    simp [heardAon, h]

theorem hearsAon_of_hears {w : Who} {s : State} (h : s.hears w = true) : s.hearsAon w = true := by
  cases w with
  | core c => exact h
  | fn p => simp [State.hears] at h; simp [State.hearsAon, h]

/-- What a write from outside does when it is taken at once: its meaning, with nothing around it. -/
theorem takes_of {w : Who} {c : Instr} {s : State} {k : State → Ans} (h : s.takes w c = true) :
    delivered c s (fun t => heard w t k) = k s := by
  simp only [State.takes, Bool.and_eq_true] at h
  rw [delivered_of h.1, heard_of h.2]

theorem takesRead_of {w : Who} {c : Instr} {s : State} {k : State → Ans} (h : s.takes w c = true) :
    delivered c s (fun t => heardRead w t k) = k s := by
  simp only [State.takes, Bool.and_eq_true] at h
  rw [delivered_of h.1, heardRead_of h.2]

theorem takesAon_of {w : Who} {c : Instr} {s : State} {k : State → Ans} (h : s.takesAon w c = true) :
    delivered c s (fun t => heardAon w t k) = k s := by
  simp only [State.takesAon, Bool.and_eq_true] at h
  rw [delivered_of h.1, heardAon_of h.2]

theorem gated_of {d : Nat} {s : State} {k : State → Ans} (h : s.dom d = .run) : gated d s k = k s := by
  simp [gated, h]

theorem galley_of {s : State} {k : State → Ans} (h : s.galleyRuns = true) : galley s k = k s := by
  simp [State.galleyRuns] at h; simp [galley, inUnit, gated, h]

end Sys2Proof.Machine
end

