-- ==== Sys2Proof/Laws/Memory.lean ====
section
/-! SUPPORT. Memory: the canonical form is kept by every operation, and what reads bring back after writes. -/

namespace Sys2Proof.Machine

open Sys2Proof

/-! ### The canonical form -/

/-- A list in canonical form from `i` on is so from any lower address on. -/
theorem Memory.wfFrom_mono {m : Memory} {i j : Nat} (h : j ≤ i) (hm : Memory.wfFrom i m = true) : Memory.wfFrom j m = true := by
  cases m with
  | nil => rfl
  | cons d t => simp only [Memory.wfFrom, Bool.and_eq_true, decide_eq_true_eq] at hm ⊢; exact ⟨⟨by omega, hm.1.2⟩, hm.2⟩

theorem Memory.wfFrom_write (m : Memory) (n a : Nat) (b : Byte) (hn : n ≤ a) (h : Memory.wfFrom n m = true) :
    Memory.wfFrom n (m.write a b) = true := by
  induction m generalizing n with
  | nil =>
    simp only [Memory.write]; split
    · rfl
    · simp only [Memory.wfFrom, Bool.and_eq_true, decide_eq_true_eq]; exact ⟨⟨hn, ‹_›⟩, trivial⟩
  | cons c r ih =>
    obtain ⟨k, c⟩ := c
    simp only [Memory.wfFrom, Bool.and_eq_true, decide_eq_true_eq] at h
    simp only [Memory.write]
    split
    · split <;> simp only [Memory.wfFrom, Bool.and_eq_true, decide_eq_true_eq]
      · exact h
      · exact ⟨⟨hn, ‹_›⟩, ⟨by omega, h.1.2⟩, h.2⟩
    · split
      · subst k; split
        · exact Memory.wfFrom_mono (by omega) h.2
        · simp only [Memory.wfFrom, Bool.and_eq_true, decide_eq_true_eq]; exact ⟨⟨hn, ‹_›⟩, h.2⟩
      · simp only [Memory.wfFrom, Bool.and_eq_true, decide_eq_true_eq]
        exact ⟨h.1, ih (k + 1) (by omega) h.2⟩

/-- A write of one byte keeps the canonical form. -/
theorem wf_write (m : Memory) (a : Nat) (b : Byte) (h : Memory.wf m = true) : Memory.wf (m.write a b) = true :=
  Memory.wfFrom_write m 0 a b (Nat.zero_le _) h

theorem wf_writeAll (m : Memory) (a : Nat) (l : Bytes) (h : Memory.wf m = true) : Memory.wf (m.writeAll a l) = true := by
  induction l generalizing m a with
  | nil => exact h
  | cons b r ih => exact ih _ _ (wf_write _ _ _ h)

theorem wf_writeEn (m : Memory) (a : Nat) (l : Bytes) (e : List Bool) (h : Memory.wf m = true) :
    Memory.wf (m.writeEn a l e) = true := by
  induction l generalizing m a e with
  | nil => cases e <;> exact h
  | cons b r ih =>
    cases e with
    | nil => exact ih _ _ _ (wf_write _ _ _ h)
    | cons e es =>
      simp only [Memory.writeEn]
      refine ih _ _ _ ?_
      split
      · exact wf_write _ _ _ h
      · exact h

theorem Memory.wfFrom_filter (m : Memory) (p : Host.Cell → Bool) (n : Nat) (h : Memory.wfFrom n m = true) :
    Memory.wfFrom n (m.filter p) = true := by
  induction m generalizing n with
  | nil => rfl
  | cons c r ih =>
    obtain ⟨k, c⟩ := c
    simp only [Memory.wfFrom, Bool.and_eq_true, decide_eq_true_eq] at h
    simp only [List.filter_cons]
    split
    · simp only [Memory.wfFrom, Bool.and_eq_true, decide_eq_true_eq]; exact ⟨h.1, ih _ h.2⟩
    · exact Memory.wfFrom_mono (by omega) (ih _ h.2)

theorem wf_filter (m : Memory) (p : Host.Cell → Bool) (h : Memory.wf m = true) : Memory.wf (m.filter p) = true :=
  Memory.wfFrom_filter m p 0 h

theorem wf_clear (m : Memory) (lo hi : Nat) (h : Memory.wf m = true) : Memory.wf (m.clear lo hi) = true := wf_filter _ _ h

/-! ### Reading what was written -/

theorem Memory.read_below {m : Memory} {n a : Nat} (h : Memory.wfFrom n m = true) (ha : a < n) : m.read a = 0 := by
  induction m generalizing n with
  | nil => rfl
  | cons c r ih =>
    obtain ⟨k, c⟩ := c
    simp only [Memory.wfFrom, Bool.and_eq_true, decide_eq_true_eq] at h
    simp only [Memory.read]
    rw [if_neg (by omega)]
    exact ih h.2 (by omega)

/-- The byte written reads back, and every other address reads as before. -/
theorem Memory.read_write_from {m : Memory} {n a : Nat} (b : Byte) (x : Nat) (h : Memory.wfFrom n m = true) :
    (m.write a b).read x = if x = a then b else m.read x := by
  induction m generalizing n with
  | nil =>
    simp only [Memory.write]
    split
    · next hb => subst hb; simp [Memory.read]
    · simp only [Memory.read, eq_comm]
  | cons c r ih =>
    obtain ⟨k, c⟩ := c
    have h' := h
    simp only [Memory.wfFrom, Bool.and_eq_true, decide_eq_true_eq] at h
    simp only [Memory.write]
    split
    · next hk =>
      have hz : x = a → Memory.read ((k, c) :: r) x = 0 := fun e =>
        Memory.read_below (n := k) (by simp only [Memory.wfFrom, Bool.and_eq_true, decide_eq_true_eq]; exact ⟨⟨Nat.le_refl k, h.1.2⟩, h.2⟩) (by omega)
      split
      · next hb => subst hb; split
                   · next e => exact hz e
                   · rfl
      · simp only [Memory.read, eq_comm]
    · split
      · next hk =>
        subst hk
        have hz : Memory.read r k = 0 := Memory.read_below h.2 (by omega)
        split
        · next hb =>
          subst hb
          by_cases e : x = k
          · subst e; simp [hz]
          · simp [Memory.read, e, Ne.symm e]
        · by_cases e : x = k
          · subst e; simp [Memory.read]
          · simp [Memory.read, e, Ne.symm e]
      · next h1 h2 =>
        simp only [Memory.read]
        by_cases e : k = x
        · subst e; simp [h2]
        · simp only [e, if_false]; exact ih h.2

theorem Memory.read_write {m : Memory} (h : Memory.wf m = true) (a : Nat) (b : Byte) (x : Nat) :
    (m.write a b).read x = if x = a then b else m.read x := Memory.read_write_from b x h

/-- What a write of a byte string leaves at each address. -/
theorem Memory.read_writeEn {m : Memory} (h : Memory.wf m = true) (a : Nat) (l : Bytes) (en : List Bool) (x : Nat) :
    (m.writeEn a l en).read x =
      if a ≤ x ∧ x - a < l.length ∧ enabledAt en (x - a) = true then l.getD (x - a) 0 else m.read x := by
  induction l generalizing m a en with
  | nil => cases en <;> simp [Memory.writeEn]
  | cons b r ih =>
    have step : ∀ (e : Bool) (es : List Bool), (∀ i, enabledAt en (i + 1) = enabledAt es i) → enabledAt en 0 = e →
        ((if e then m.write a b else m).writeEn (a + 1) r es).read x =
          if a ≤ x ∧ x - a < (b :: r).length ∧ enabledAt en (x - a) = true then (b :: r).getD (x - a) 0 else m.read x := by
      intro e es hs h0
      have hw : Memory.wf (if e then m.write a b else m) = true := by split; exact wf_write _ _ _ h; exact h
      rw [ih hw]
      by_cases hx : x = a
      · subst hx
        rw [if_neg (by omega)]
        cases e
        · simp [h0]
        · simp [h0, Memory.read_write h]
      · by_cases ha : a + 1 ≤ x
        · obtain ⟨i, rfl⟩ : ∃ i, x = a + 1 + i := ⟨x - (a + 1), by omega⟩
          have e1 : a + 1 + i - (a + 1) = i := by omega
          have e2 : a + 1 + i - a = i + 1 := by omega
          rw [e1, e2, hs]
          have hr : Memory.read (if e then m.write a b else m) (a + 1 + i) = m.read (a + 1 + i) := by
            split
            · rw [Memory.read_write h, if_neg hx]
            · rfl
          rw [hr]
          simp
          by_cases hi : i < r.length <;> by_cases he : enabledAt es i = true <;> simp [hi, he] <;> omega
        · have hlt : x < a := by omega
          have hr : Memory.read (if e then m.write a b else m) x = m.read x := by
            split
            · rw [Memory.read_write h, if_neg hx]
            · rfl
          rw [hr, if_neg (fun q => absurd q.1 (by omega)), if_neg (fun q => absurd q.1 (by omega))]
    cases en with
    | nil => exact step true [] (fun i => rfl) rfl
    | cons e es => exact step e es (fun i => by simp [enabledAt]) (by simp [enabledAt])

end Sys2Proof.Machine
end

