-- ==== Sys2Proof/Laws/Keeps.lean ====
section
/-! SUPPORT. One lemma for each operation: what it leaves as it is (Keeps). -/

set_option linter.unusedSimpArgs false
set_option Elab.async false

namespace Sys2Proof.Machine

open Sys2Proof

/-- What nearly every operation leaves as it is: the waiting commands, the part, the canonical form of the three memories, the
always-on store (R430, R433), and, where `b` asks for it, every sticky bit that is set and HALT (R452). -/
structure Keeps (b : Bool) (s t : State) : Prop where
  pending : t.pending = s.pending
  part : t.part = s.part
  mem : Memory.wf s.mem = true → Memory.wf t.mem = true
  sram : Memory.wf s.rcd.sram = true → Memory.wf t.rcd.sram = true
  shadow : Memory.wf s.obs.shadow = true → Memory.wf t.obs.shadow = true
  lcs : t.aon.lcs = s.aon.lcs
  svn : t.aon.svnMin = s.aon.svnMin
  key : t.aon.keyHash = s.aon.keyHash
  hours : t.aon.hours = s.aon.hours
  pcycle : t.aon.pcycle = s.aon.pcycle
  sticky : b = true → ∀ n, s.err.sticky.getLsbD n = true → t.err.sticky.getLsbD n = true
  halt : b = true → s.err.halt = true → t.err.halt = true

theorem Keeps.refl (b : Bool) (s : State) : Keeps b s s := ⟨rfl, rfl, id, id, id, rfl, rfl, rfl, rfl, rfl, fun _ _ h => h, fun _ => id⟩
theorem keeps_ite {p : Bool} {s0 a b : State} (c : Prop) [Decidable c] (ha : Keeps p s0 a) (hb : Keeps p s0 b) : Keeps p s0 (if c then a else b) := by
  split <;> assumption
theorem keeps_foldl {α : Type} {b : Bool} {s0 : State} (g : State → α → State) (hg : ∀ s a, Keeps b s0 s → Keeps b s0 (g s a)) (l : List α) (s : State)
    (h : Keeps b s0 s) : Keeps b s0 (l.foldl g s) := by
  induction l generalizing s with
  | nil => exact h
  | cons a r ih => exact ih _ (hg _ _ h)
theorem setBit_true {w : Nat} (x : BitVec w) (i n : Nat) (h : x.getLsbD n = true) : (setBit x i true).getLsbD n = true := by
  simp [setBit, h]
theorem keeps_upd (b : Bool) (s0 s : State) x_held x_poison x_veil x_reqs x_orphans x_nextId x_free x_tileQ x_out x_latch x_gal x_trn x_flt x_epo x_plt x_cmp x_lka x_seam x_tal x_lin x_host x_ic x_prt :
    Keeps b s0 (State.mk s.pending x_held s.part s.mem x_poison x_veil x_reqs x_orphans x_nextId x_free x_tileQ x_out x_latch x_gal x_trn x_flt x_epo x_plt x_cmp x_lka x_seam x_tal x_lin x_host x_ic x_prt s.aon s.err s.obs s.rcd) ↔ Keeps b s0 s :=
  ⟨fun h => ⟨h.1, h.2, h.3, h.4, h.5, h.6, h.7, h.8, h.9, h.10, h.11, h.12⟩, fun h => ⟨h.1, h.2, h.3, h.4, h.5, h.6, h.7, h.8, h.9, h.10, h.11, h.12⟩⟩
theorem keeps_obs (b : Bool) (s0 s : State) x_held x_poison x_veil x_reqs x_orphans x_nextId x_free x_tileQ x_out x_latch x_gal x_trn x_flt x_epo x_plt x_cmp x_lka x_seam x_tal x_lin x_host x_ic x_prt y_on y_since y_time y_energy y_egap y_temp y_peak y_stcfg y_tr y_pcnt y_gap y_tiles y_own y_lossT y_lossP y_drains y_flush y_stamps y_tkbase y_wdog y_tkbusy y_tkdone y_tkref y_tkerr y_tkcause y_captured:
    Keeps b s0 (State.mk s.pending x_held s.part s.mem x_poison x_veil x_reqs x_orphans x_nextId x_free x_tileQ x_out x_latch x_gal x_trn x_flt x_epo x_plt x_cmp x_lka x_seam x_tal x_lin x_host x_ic x_prt s.aon s.err (Obs.mk y_on y_since y_time y_energy y_egap y_temp y_peak y_stcfg y_tr y_pcnt y_gap y_tiles y_own y_lossT y_lossP y_drains y_flush y_stamps y_tkbase y_wdog y_tkbusy y_tkdone y_tkref y_tkerr y_tkcause s.obs.shadow y_captured) s.rcd) ↔ Keeps b s0 s :=
  ⟨fun h => ⟨h.1, h.2, h.3, h.4, h.5, h.6, h.7, h.8, h.9, h.10, h.11, h.12⟩, fun h => ⟨h.1, h.2, h.3, h.4, h.5, h.6, h.7, h.8, h.9, h.10, h.11, h.12⟩⟩
theorem keeps_aon (b : Bool) (s0 s : State) x_held x_poison x_veil x_reqs x_orphans x_nextId x_free x_tileQ x_out x_latch x_gal x_trn x_flt x_epo x_plt x_cmp x_lka x_seam x_tal x_lin x_host x_ic x_prt y_boot y_header y_sram y_ident y_rvendor y_rdevice y_pll y_imgerr y_recov y_imgver y_doms y_slpctl y_deepok y_mbaddr y_mblen y_mbbusy y_mbstep y_mbref y_mbres y_mbseq y_usel y_units y_amend y_target y_tsvn y_tileOff y_wakeN y_flashCs y_flashSck:
    Keeps b s0 (State.mk s.pending x_held s.part s.mem x_poison x_veil x_reqs x_orphans x_nextId x_free x_tileQ x_out x_latch x_gal x_trn x_flt x_epo x_plt x_cmp x_lka x_seam x_tal x_lin x_host x_ic x_prt (Aon.mk y_boot y_header y_sram s.aon.lcs s.aon.svnMin s.aon.keyHash y_ident y_rvendor y_rdevice y_pll s.aon.hours s.aon.pcycle y_imgerr y_recov y_imgver y_doms y_slpctl y_deepok y_mbaddr y_mblen y_mbbusy y_mbstep y_mbref y_mbres y_mbseq y_usel y_units y_amend y_target y_tsvn y_tileOff y_wakeN y_flashCs y_flashSck) s.err s.obs s.rcd) ↔ Keeps b s0 s :=
  ⟨fun h => ⟨h.1, h.2, h.3, h.4, h.5, h.6, h.7, h.8, h.9, h.10, h.11, h.12⟩, fun h => ⟨h.1, h.2, h.3, h.4, h.5, h.6, h.7, h.8, h.9, h.10, h.11, h.12⟩⟩
theorem keeps_err (b : Bool) (s0 s : State) x_held x_poison x_veil x_reqs x_orphans x_nextId x_free x_tileQ x_out x_latch x_gal x_trn x_flt x_epo x_plt x_cmp x_lka x_seam x_tal x_lin x_host x_ic x_prt y_live y_wire y_missed y_handling y_force y_cnt y_irq y_ferrCfg y_ferrP y_ferrN:
    Keeps b s0 (State.mk s.pending x_held s.part s.mem x_poison x_veil x_reqs x_orphans x_nextId x_free x_tileQ x_out x_latch x_gal x_trn x_flt x_epo x_plt x_cmp x_lka x_seam x_tal x_lin x_host x_ic x_prt s.aon (Err.mk s.err.sticky y_live y_wire s.err.halt y_missed y_handling y_force y_cnt y_irq y_ferrCfg y_ferrP y_ferrN) s.obs s.rcd) ↔ Keeps b s0 s :=
  ⟨fun h => ⟨h.1, h.2, h.3, h.4, h.5, h.6, h.7, h.8, h.9, h.10, h.11, h.12⟩, fun h => ⟨h.1, h.2, h.3, h.4, h.5, h.6, h.7, h.8, h.9, h.10, h.11, h.12⟩⟩
theorem keeps_rcd (b : Bool) (s0 s : State) x_held x_poison x_veil x_reqs x_orphans x_nextId x_free x_tileQ x_out x_latch x_gal x_trn x_flt x_epo x_plt x_cmp x_lka x_seam x_tal x_lin x_host x_ic x_prt y_freeze y_mode y_wrap y_next y_lostev y_seq y_cursor y_latch:
    Keeps b s0 (State.mk s.pending x_held s.part s.mem x_poison x_veil x_reqs x_orphans x_nextId x_free x_tileQ x_out x_latch x_gal x_trn x_flt x_epo x_plt x_cmp x_lka x_seam x_tal x_lin x_host x_ic x_prt s.aon s.err s.obs (RecU.mk y_freeze y_mode y_wrap y_next y_lostev y_seq y_cursor y_latch s.rcd.sram)) ↔ Keeps b s0 s :=
  ⟨fun h => ⟨h.1, h.2, h.3, h.4, h.5, h.6, h.7, h.8, h.9, h.10, h.11, h.12⟩, fun h => ⟨h.1, h.2, h.3, h.4, h.5, h.6, h.7, h.8, h.9, h.10, h.11, h.12⟩⟩

theorem keeps_mem {p : Bool} {s0 s t : State} (h : Keeps p s0 s) (c : Memory.wf s.mem = true → Memory.wf t.mem = true) (a : t.pending = s.pending)
    (b : t.part = s.part) (d : t.rcd.sram = s.rcd.sram) (e : t.obs.shadow = s.obs.shadow) (f : t.aon = s.aon) (g : t.err = s.err) : Keeps p s0 t :=
  ⟨a.trans h.1, b.trans h.2, c ∘ h.3, d ▸ h.4, e ▸ h.5, f ▸ h.6, f ▸ h.7, f ▸ h.8, f ▸ h.9, f ▸ h.10, g ▸ h.11, g ▸ h.12⟩
theorem keeps_sram {p : Bool} {s0 s t : State} (h : Keeps p s0 s) (d : Memory.wf s.rcd.sram = true → Memory.wf t.rcd.sram = true) (a : t.pending = s.pending)
    (b : t.part = s.part) (c : t.mem = s.mem) (e : t.obs.shadow = s.obs.shadow) (f : t.aon = s.aon) (g : t.err = s.err) : Keeps p s0 t :=
  ⟨a.trans h.1, b.trans h.2, c ▸ h.3, d ∘ h.4, e ▸ h.5, f ▸ h.6, f ▸ h.7, f ▸ h.8, f ▸ h.9, f ▸ h.10, g ▸ h.11, g ▸ h.12⟩
theorem keeps_errs {p : Bool} {s0 s t : State} (h : Keeps p s0 s) (d : ∀ n, s.err.sticky.getLsbD n = true → t.err.sticky.getLsbD n = true)
    (i : s.err.halt = true → t.err.halt = true) (a : t.pending = s.pending) (b : t.part = s.part) (c : t.mem = s.mem)
    (e : t.obs.shadow = s.obs.shadow) (f : t.aon = s.aon) (g : t.rcd.sram = s.rcd.sram) : Keeps p s0 t :=
  ⟨a.trans h.1, b.trans h.2, c ▸ h.3, g ▸ h.4, e ▸ h.5, f ▸ h.6, f ▸ h.7, f ▸ h.8, f ▸ h.9, f ▸ h.10, fun q n hn => d n (h.11 q n hn), fun q => i ∘ h.12 q⟩
theorem State.addPhys_keeps {b : Bool} {s0 : State} (s : State) (x1 : Owner) (x2 : Nat) (x3 : Nat) (x4 : Nat) (x5 : Nat) (x6 : Acc) (h : Keeps b s0 s) :
    Keeps b s0 (State.addPhys s x1 x2 x3 x4 x5 x6) := by
  unfold State.addPhys
  repeat' first | with_reducible assumption | simp only [keeps_upd, keeps_obs, keeps_aon, keeps_err, keeps_rcd]
theorem State.addPhysWrite_keeps {b : Bool} {s0 : State} (s : State) (x1 : Owner) (x2 : Nat) (x3 : Nat) (x4 : Nat) (x5 : Bytes) (h : Keeps b s0 s) :
    Keeps b s0 (State.addPhysWrite s x1 x2 x3 x4 x5) := by
  unfold State.addPhysWrite
  repeat' first | with_reducible assumption | simp only [keeps_upd, keeps_obs, keeps_aon, keeps_err, keeps_rcd]
theorem State.addReq_keeps {b : Bool} {s0 : State} (s : State) (x1 : Owner) (x2 : Nat) (x3 : Nat) (x4 : Nat) (x5 : Nat) (x6 : Nat) (x7 : Acc) (x8 : Bytes) (x9 : List Bool) (h : Keeps b s0 s) :
    Keeps b s0 (State.addReq s x1 x2 x3 x4 x5 x6 x7 x8 x9) := by
  unfold State.addReq
  repeat' first | with_reducible assumption | simp only [keeps_upd, keeps_obs, keeps_aon, keeps_err, keeps_rcd]
theorem State.pcntAdd_keeps {b : Bool} {s0 : State} (s : State) (x1 : Nat) (x2 : Nat) (x3 : Nat) (h : Keeps b s0 s) :
    Keeps b s0 (State.pcntAdd s x1 x2 x3) := by
  unfold State.pcntAdd
  repeat' first | with_reducible assumption | simp only [keeps_upd, keeps_obs, keeps_aon, keeps_err, keeps_rcd] | with_reducible apply keeps_ite
theorem State.chargeTo_keeps {b : Bool} {s0 : State} (s : State) (x1 : Nat) (x2 : Nat) (h : Keeps b s0 s) :
    Keeps b s0 (State.chargeTo s x1 x2) := by
  unfold State.chargeTo
  repeat' first | with_reducible assumption | with_reducible apply State.pcntAdd_keeps | simp only [keeps_upd, keeps_obs, keeps_aon, keeps_err, keeps_rcd]
theorem State.dropReq_keeps {b : Bool} {s0 : State} (s : State) (x1 : Nat) (h : Keeps b s0 s) :
    Keeps b s0 (State.dropReq s x1) := by
  unfold State.dropReq
  repeat' first | with_reducible assumption | simp only [keeps_upd, keeps_obs, keeps_aon, keeps_err, keeps_rcd]
theorem State.dropReqs_keeps {b : Bool} {s0 : State} (s : State) (x1 : Req → Bool) (h : Keeps b s0 s) :
    Keeps b s0 (State.dropReqs s x1) := by
  unfold State.dropReqs
  repeat' first
    | with_reducible assumption | with_reducible apply State.dropReq_keeps
    | (with_reducible apply keeps_foldl; intro _ _ _; try dsimp only)
theorem State.emit_keeps {b : Bool} {s0 : State} (s : State) (x1 : OutMsg) (h : Keeps b s0 s) :
    Keeps b s0 (State.emit s x1) := by
  unfold State.emit
  repeat' first | with_reducible assumption | simp only [keeps_upd, keeps_obs, keeps_aon, keeps_err, keeps_rcd]
theorem State.setComp_keeps {b : Bool} {s0 : State} (s : State) (x1 : Nat) (x2 : Comp) (h : Keeps b s0 s) :
    Keeps b s0 (State.setComp s x1 x2) := by
  unfold State.setComp
  repeat' first | with_reducible assumption | simp only [keeps_upd, keeps_obs, keeps_aon, keeps_err, keeps_rcd]
theorem State.modComp_keeps {b : Bool} {s0 : State} (s : State) (x1 : Nat) (x2 : Comp → Comp) (h : Keeps b s0 s) :
    Keeps b s0 (State.modComp s x1 x2) := by
  unfold State.modComp
  repeat' first | with_reducible assumption | with_reducible apply State.setComp_keeps
theorem State.setEng_keeps {b : Bool} {s0 : State} (s : State) (x1 : Nat) (x2 : Eng) (h : Keeps b s0 s) :
    Keeps b s0 (State.setEng s x1 x2) := by
  unfold State.setEng
  repeat' first | with_reducible assumption | simp only [keeps_upd, keeps_obs, keeps_aon, keeps_err, keeps_rcd]
theorem State.modEng_keeps {b : Bool} {s0 : State} (s : State) (x1 : Nat) (x2 : Eng → Eng) (h : Keeps b s0 s) :
    Keeps b s0 (State.modEng s x1 x2) := by
  unfold State.modEng
  repeat' first | with_reducible assumption | with_reducible apply State.setEng_keeps
theorem State.setFltp_keeps {b : Bool} {s0 : State} (s : State) (x1 : Nat) (x2 : FltP) (h : Keeps b s0 s) :
    Keeps b s0 (State.setFltp s x1 x2) := by
  unfold State.setFltp
  repeat' first | with_reducible assumption | simp only [keeps_upd, keeps_obs, keeps_aon, keeps_err, keeps_rcd]
theorem State.modFltp_keeps {b : Bool} {s0 : State} (s : State) (x1 : Nat) (x2 : FltP → FltP) (h : Keeps b s0 s) :
    Keeps b s0 (State.modFltp s x1 x2) := by
  unfold State.modFltp
  repeat' first | with_reducible assumption | with_reducible apply State.setFltp_keeps
theorem State.setQueue_keeps {b : Bool} {s0 : State} (s : State) (x1 : Nat) (x2 : Queue) (h : Keeps b s0 s) :
    Keeps b s0 (State.setQueue s x1 x2) := by
  unfold State.setQueue
  repeat' first | with_reducible assumption | simp only [keeps_upd, keeps_obs, keeps_aon, keeps_err, keeps_rcd]
theorem State.modQueue_keeps {b : Bool} {s0 : State} (s : State) (x1 : Nat) (x2 : Queue → Queue) (h : Keeps b s0 s) :
    Keeps b s0 (State.modQueue s x1 x2) := by
  unfold State.modQueue
  repeat' first | with_reducible assumption | with_reducible apply State.setQueue_keeps
theorem State.setDom_keeps {b : Bool} {s0 : State} (s : State) (x1 : Nat) (x2 : Dom) (h : Keeps b s0 s) :
    Keeps b s0 (State.setDom s x1 x2) := by
  unfold State.setDom
  repeat' first | with_reducible assumption | simp only [keeps_upd, keeps_obs, keeps_aon, keeps_err, keeps_rcd]
theorem State.setFn_keeps {b : Bool} {s0 : State} (s : State) (x1 : Nat) (x2 : Fn) (h : Keeps b s0 s) :
    Keeps b s0 (State.setFn s x1 x2) := by
  unfold State.setFn
  repeat' first | with_reducible assumption | simp only [keeps_upd, keeps_obs, keeps_aon, keeps_err, keeps_rcd]
theorem State.setLink_keeps {b : Bool} {s0 : State} (s : State) (x1 : Nat) (x2 : Link) (h : Keeps b s0 s) :
    Keeps b s0 (State.setLink s x1 x2) := by
  unfold State.setLink
  repeat' first | with_reducible assumption | simp only [keeps_upd, keeps_obs, keeps_aon, keeps_err, keeps_rcd]
theorem State.setLk_keeps {b : Bool} {s0 : State} (s : State) (x1 : Nat) (x2 : Lka) (h : Keeps b s0 s) :
    Keeps b s0 (State.setLk s x1 x2) := by
  unfold State.setLk
  repeat' first | with_reducible assumption | simp only [keeps_upd, keeps_obs, keeps_aon, keeps_err, keeps_rcd]
theorem State.setReq_keeps {b : Bool} {s0 : State} (s : State) (x1 : Req) (h : Keeps b s0 s) :
    Keeps b s0 (State.setReq s x1) := by
  unfold State.setReq
  repeat' first | with_reducible assumption | simp only [keeps_upd, keeps_obs, keeps_aon, keeps_err, keeps_rcd]
theorem State.setTable_keeps {b : Bool} {s0 : State} (s : State) (x1 : Nat) (x2 : Table) (h : Keeps b s0 s) :
    Keeps b s0 (State.setTable s x1 x2) := by
  unfold State.setTable
  repeat' first | with_reducible assumption | simp only [keeps_upd, keeps_obs, keeps_aon, keeps_err, keeps_rcd]
theorem State.setTally_keeps {b : Bool} {s0 : State} (s : State) (x1 : Nat) (x2 : Tally) (h : Keeps b s0 s) :
    Keeps b s0 (State.setTally s x1 x2) := by
  unfold State.setTally
  repeat' first | with_reducible assumption | simp only [keeps_upd, keeps_obs, keeps_aon, keeps_err, keeps_rcd]
theorem State.setTrp_keeps {b : Bool} {s0 : State} (s : State) (x1 : Nat) (x2 : TrP) (h : Keeps b s0 s) :
    Keeps b s0 (State.setTrp s x1 x2) := by
  unfold State.setTrp
  repeat' first | with_reducible assumption | simp only [keeps_upd, keeps_obs, keeps_aon, keeps_err, keeps_rcd]
theorem State.setUnit_keeps {b : Bool} {s0 : State} (s : State) (x1 : Nat) (x2 : Nat) (x3 : UnitS) (h : Keeps b s0 s) :
    Keeps b s0 (State.setUnit s x1 x2 x3) := by
  unfold State.setUnit
  repeat' first | with_reducible assumption | simp only [keeps_upd, keeps_obs, keeps_aon, keeps_err, keeps_rcd]
theorem State.setWin_keeps {b : Bool} {s0 : State} (s : State) (x1 : Nat) (x2 : WinU) (h : Keeps b s0 s) :
    Keeps b s0 (State.setWin s x1 x2) := by
  unfold State.setWin
  repeat' first | with_reducible assumption | simp only [keeps_upd, keeps_obs, keeps_aon, keeps_err, keeps_rcd]
theorem State.storeMem_keeps {b : Bool} {s0 : State} (s : State) (x1 : Nat) (x2 : Bytes) (x3 : List Bool) (h : Keeps b s0 s) :
    Keeps b s0 (State.storeMem s x1 x2 x3) := by
  exact keeps_mem h (wf_writeEn _ _ _ _) rfl rfl rfl rfl rfl rfl
theorem State.toTile_keeps {b : Bool} {s0 : State} (s : State) (x1 : Nat) (x2 : OutMsg) (h : Keeps b s0 s) :
    Keeps b s0 (State.toTile s x1 x2) := by
  unfold State.toTile
  repeat' first
    | with_reducible assumption | with_reducible apply State.emit_keeps | simp only [keeps_upd, keeps_obs, keeps_aon, keeps_err, keeps_rcd]
    | with_reducible apply keeps_ite
theorem State.toTiles_keeps {b : Bool} {s0 : State} (s : State) (x1 : OutMsg) (h : Keeps b s0 s) :
    Keeps b s0 (State.toTiles s x1) := by
  unfold State.toTiles
  repeat' first | with_reducible assumption | with_reducible apply State.emit_keeps | simp only [keeps_upd, keeps_obs, keeps_aon, keeps_err, keeps_rcd]
theorem State.useFree_keeps {b : Bool} {s0 : State} (s : State) (x1 : Nat) (h : Keeps b s0 s) :
    Keeps b s0 (State.useFree s x1) := by
  unfold State.useFree
  repeat' first | with_reducible assumption | simp only [keeps_upd, keeps_obs, keeps_aon, keeps_err, keeps_rcd]
theorem State.wakeOne_keeps {b : Bool} {s0 : State} (s : State) (x1 : Nat) (h : Keeps b s0 s) :
    Keeps b s0 (State.wakeOne s x1) := by
  unfold State.wakeOne
  repeat' first | with_reducible assumption | with_reducible apply State.setDom_keeps | split
theorem State.wake_keeps {b : Bool} {s0 : State} (s : State) (x1 : Nat) (h : Keeps b s0 s) :
    Keeps b s0 (State.wake s x1) := by
  unfold State.wake
  repeat' first | with_reducible assumption | with_reducible apply State.wakeOne_keeps | split
theorem State.countErr_keeps {b : Bool} {s0 : State} (s : State) (x1 : Nat) (h : Keeps b s0 s) :
    Keeps b s0 (State.countErr s x1) := by
  unfold State.countErr
  repeat' first | with_reducible assumption | simp only [keeps_upd, keeps_obs, keeps_aon, keeps_err, keeps_rcd] | split
theorem State.updFerr_keeps {b : Bool} {s0 : State} (s : State) (h : Keeps b s0 s) :
    Keeps b s0 (State.updFerr s) := by
  unfold State.updFerr
  repeat' first | with_reducible assumption | simp only [keeps_upd, keeps_obs, keeps_aon, keeps_err, keeps_rcd] | with_reducible apply keeps_ite
theorem State.raise_keeps {b : Bool} {s0 : State} (s : State) (x1 : Nat) (h : Keeps b s0 s) :
    Keeps b s0 (State.raise s x1) := by
  unfold State.raise
  repeat' first | with_reducible assumption | simp only [keeps_upd, keeps_obs, keeps_aon, keeps_err, keeps_rcd] | with_reducible apply keeps_ite
theorem State.relevel_keeps {b : Bool} {s0 : State} (s : State) (x1 : State) (h : Keeps b s0 s) :
    Keeps b s0 (State.relevel s x1) := by
  unfold State.relevel
  repeat' first
    | with_reducible assumption | with_reducible apply State.raise_keeps | with_reducible apply keeps_ite
    | (with_reducible apply keeps_foldl; intro _ _ _; try dsimp only)
theorem State.pulse_keeps {b : Bool} {s0 : State} (s : State) (x1 : Nat) (h : Keeps b s0 s) :
    Keeps b s0 (State.pulse s x1) := by
  unfold State.pulse
  have h1 := State.countErr_keeps s x1 h
  generalize s.countErr x1 = u at h1 ⊢
  dsimp only
  split
  · exact (keeps_err ..).2 h1
  · exact State.updFerr_keeps _ (State.relevel_keeps _ _
      (keeps_errs h1 (fun n hn => setBit_true _ _ _ hn) id rfl rfl rfl rfl rfl rfl))
theorem State.badAccess_keeps {b : Bool} {s0 : State} (s : State) (h : Keeps b s0 s) :
    Keeps b s0 (State.badAccess s) := by
  unfold State.badAccess
  repeat' first | with_reducible assumption | with_reducible apply State.pulse_keeps
theorem State.dropHeld_keeps {b : Bool} {s0 : State} (s : State) (x1 : Nat → Bool) (h : Keeps b s0 s) :
    Keeps b s0 (State.dropHeld s x1) := by
  unfold State.dropHeld
  repeat' first | with_reducible assumption | simp only [keeps_upd, keeps_obs, keeps_aon, keeps_err, keeps_rcd]
theorem State.hold_keeps {b : Bool} {s0 : State} (s : State) (x1 : Instr) (h : Keeps b s0 s) :
    Keeps b s0 (State.hold s x1) := by
  unfold State.hold
  repeat' first
    | with_reducible assumption | with_reducible apply State.wake_keeps | simp only [keeps_upd, keeps_obs, keeps_aon, keeps_err, keeps_rcd]
    | (with_reducible apply keeps_foldl; intro _ _ _; try dsimp only)
theorem State.isolation_keeps {b : Bool} {s0 : State} (s : State) (h : Keeps b s0 s) :
    Keeps b s0 (State.isolation s) := by
  unfold State.isolation
  repeat' first | with_reducible assumption | with_reducible apply State.pulse_keeps
theorem State.peerDrop_keeps {b : Bool} {s0 : State} (s : State) (h : Keeps b s0 s) :
    Keeps b s0 (State.peerDrop s) := by
  unfold State.peerDrop
  repeat' first | with_reducible assumption | with_reducible apply State.pulse_keeps
theorem State.pulses_keeps {b : Bool} {s0 : State} (s : State) (x1 : Nat) (x2 : Nat) (h : Keeps b s0 s) :
    Keeps b s0 (State.pulses s x1 x2) := by
  induction x2 generalizing s with
  | zero => exact h
  | succ k ih => exact ih _ (State.pulse_keeps s x1 h)
theorem State.setSysev_keeps {b : Bool} {s0 : State} (s : State) (x1 : W32) (h : Keeps b s0 s) :
    Keeps b s0 (State.setSysev s x1) := by
  unfold State.setSysev
  repeat' first | with_reducible assumption | with_reducible apply State.relevel_keeps | simp only [keeps_upd, keeps_obs, keeps_aon, keeps_err, keeps_rcd]
theorem State.clearPoison_keeps {b : Bool} {s0 : State} (s : State) (x1 : Nat) (x2 : Nat) (x3 : List Bool) (h : Keeps b s0 s) :
    Keeps b s0 (State.clearPoison s x1 x2 x3) := by
  unfold State.clearPoison
  repeat' first | with_reducible assumption | simp only [keeps_upd, keeps_obs, keeps_aon, keeps_err, keeps_rcd]
theorem State.discard_keeps {b : Bool} {s0 : State} (s : State) (x1 : Nat) (x2 : Proof → Bool) (x3 : Nat × XEntry × W32 → Bool) (x4 : Nat) (h : Keeps b s0 s) :
    Keeps b s0 (State.discard s x1 x2 x3 x4) := by
  unfold State.discard
  repeat' first
    | with_reducible assumption | with_reducible apply State.setLk_keeps | simp only [keeps_upd, keeps_obs, keeps_aon, keeps_err, keeps_rcd]
    | with_reducible apply keeps_ite
theorem State.dropProofWalks_keeps {b : Bool} {s0 : State} (s : State) (x1 : Nat) (h : Keeps b s0 s) :
    Keeps b s0 (State.dropProofWalks s x1) := by
  unfold State.dropProofWalks
  repeat' first
    | with_reducible assumption | with_reducible apply State.dropReqs_keeps | simp only [keeps_upd, keeps_obs, keeps_aon, keeps_err, keeps_rcd]
theorem State.discardAll_keeps {b : Bool} {s0 : State} (s : State) (x1 : Nat) (x2 : Nat) (h : Keeps b s0 s) :
    Keeps b s0 (State.discardAll s x1 x2) := by
  unfold State.discardAll
  repeat' first
    | with_reducible assumption | with_reducible apply State.dropProofWalks_keeps | with_reducible apply State.discard_keeps
    | with_reducible apply State.setLk_keeps
theorem State.discardEach_keeps {b : Bool} {s0 : State} (s : State) (f : State → Nat → State) (hf : ∀ s n, Keeps b s0 s → Keeps b s0 (f s n))
    (h : Keeps b s0 s) : Keeps b s0 (s.discardEach f) := keeps_foldl f hf _ s h
theorem State.discardHits_keeps {b : Bool} {s0 : State} (s : State) (x1 : Nat) (x2 : Proof → Bool) (x3 : Nat × XEntry × W32 → Bool) (x4 : Nat) (h : Keeps b s0 s) :
    Keeps b s0 (State.discardHits s x1 x2 x3 x4) := by
  unfold State.discardHits
  try dsimp only
  repeat' first
    | with_reducible assumption | with_reducible apply State.discard_keeps | with_reducible apply State.setLk_keeps | split
theorem State.handOn_keeps {b : Bool} {s0 : State} (s : State) (x1 : Nat) (h : Keeps b s0 s) :
    Keeps b s0 (State.handOn s x1) := by
  unfold State.handOn
  repeat' first
    | with_reducible assumption | with_reducible apply State.dropReqs_keeps | with_reducible apply State.emit_keeps
    | with_reducible apply State.dropReq_keeps | split
theorem State.loseProof_keeps {b : Bool} {s0 : State} (s : State) (x1 : Nat) (x2 : Nat) (h : Keeps b s0 s) :
    Keeps b s0 (State.loseProof s x1 x2) := by
  unfold State.loseProof
  repeat' first | with_reducible assumption | with_reducible apply State.setLk_keeps | simp only [keeps_upd, keeps_obs, keeps_aon, keeps_err, keeps_rcd]
theorem State.wipeRegion_keeps {b : Bool} {s0 : State} (s : State) (x1 : Nat) (h : Keeps b s0 s) :
    Keeps b s0 (State.wipeRegion s x1) := by
  exact keeps_mem h (wf_clear _ _ _) rfl rfl rfl rfl rfl rfl
theorem State.unveil_keeps {b : Bool} {s0 : State} (s : State) (x1 : Nat) (h : Keeps b s0 s) :
    Keeps b s0 (State.unveil s x1) := by
  unfold State.unveil
  repeat' first
    | with_reducible assumption | with_reducible apply State.wipeRegion_keeps
    | simp only [keeps_upd, keeps_obs, keeps_aon, keeps_err, keeps_rcd] | with_reducible apply keeps_ite
theorem State.unveilRange_keeps {b : Bool} {s0 : State} (s : State) (x1 : Nat) (x2 : Nat) (h : Keeps b s0 s) :
    Keeps b s0 (State.unveilRange s x1 x2) := by
  unfold State.unveilRange
  repeat' first
    | with_reducible assumption | with_reducible apply State.unveil_keeps | with_reducible apply keeps_ite
    | (with_reducible apply keeps_foldl; intro _ _ _; try dsimp only)
theorem State.watchDev_keeps {b : Bool} {s0 : State} (s : State) (x1 : Nat) (x2 : Nat) (h : Keeps b s0 s) :
    Keeps b s0 (State.watchDev s x1 x2) := by
  unfold State.watchDev
  repeat' first
    | with_reducible assumption | with_reducible apply State.discardHits_keeps
    | (with_reducible apply State.discardEach_keeps; intro _ _ _; try dsimp only)
theorem State.performWrite_keeps {b : Bool} {s0 : State} (s : State) (x1 : Nat) (x2 : Bytes) (x3 : List Bool) (h : Keeps b s0 s) :
    Keeps b s0 (State.performWrite s x1 x2 x3) := by
  unfold State.performWrite
  repeat' first
    | with_reducible assumption | with_reducible apply State.watchDev_keeps | with_reducible apply State.clearPoison_keeps
    | with_reducible apply State.storeMem_keeps | with_reducible apply State.unveilRange_keeps
    | with_reducible apply keeps_ite
theorem State.performAtomic_keeps {b : Bool} {s0 : State} (s : State) (x1 : Nat) (x2 : AtomOp) (x3 : Nat) (x4 : W64) (x5 : W64) (h : Keeps b s0 s) :
    Keeps b s0 (State.performAtomic s x1 x2 x3 x4 x5).2 := by
  unfold State.performAtomic
  repeat' first
    | with_reducible assumption | with_reducible apply State.unveilRange_keeps
    | with_reducible apply State.performWrite_keeps | split
theorem State.performAtomic_keepsEq {b : Bool} {s0 : State} {s : State} {x1 : Nat} {x2 : AtomOp} {x3 : Nat} {x4 : W64} {x5 : W64} {y : Option Bytes} {t : State} (e : (State.performAtomic s x1 x2 x3 x4 x5) = (y, t)) (h : Keeps b s0 s) :
    Keeps b s0 t := by
  have := State.performAtomic_keeps s x1 x2 x3 x4 x5 h
  rw [e] at this; exact this
theorem State.watchHost_keeps {b : Bool} {s0 : State} (s : State) (x1 : Nat) (x2 : Nat) (h : Keeps b s0 s) :
    Keeps b s0 (State.watchHost s x1 x2) := by
  unfold State.watchHost
  repeat' first
    | with_reducible assumption | with_reducible apply State.discardHits_keeps
    | (with_reducible apply State.discardEach_keeps; intro _ _ _; try dsimp only)
theorem State.writeBack_keeps {b : Bool} {s0 : State} {s : State} {x1 : Req} {x2 : WReply} {y : WReply} {t : State} (e : (State.writeBack s x1 x2) = some (y, t)) (h : Keeps b s0 s) :
    Keeps b s0 t := by
  unfold State.writeBack at e
  try dsimp only at e
  repeat' split at e
  all_goals try cases e; done
  all_goals first | contradiction | (simp only [Option.some.injEq, Prod.mk.injEq] at e; obtain ⟨rfl, rfl⟩ := e)
  all_goals
  repeat' first | with_reducible assumption | with_reducible apply State.performWrite_keeps
theorem State.traceLost_keeps {b : Bool} {s0 : State} (s : State) (x1 : Nat) (h : Keeps b s0 s) :
    Keeps b s0 (State.traceLost s x1) := by
  unfold State.traceLost
  repeat' first | with_reducible assumption | with_reducible apply State.setTrp_keeps
theorem State.addTileTrace_keeps {b : Bool} {s0 : State} (s : State) (x1 : Nat) (x2 : Bytes) (h : Keeps b s0 s) :
    Keeps b s0 (State.addTileTrace s x1 x2) := by
  unfold State.addTileTrace
  repeat' first | with_reducible assumption | with_reducible apply State.traceLost_keeps | simp only [keeps_upd, keeps_obs, keeps_aon, keeps_err, keeps_rcd] | split
theorem State.addTrace_keeps {b : Bool} {s0 : State} (s : State) (x1 : Nat) (x2 : Bytes) (x3 : Bool) (h : Keeps b s0 s) :
    Keeps b s0 (State.addTrace s x1 x2 x3) := by
  unfold State.addTrace
  repeat' first
    | with_reducible assumption | with_reducible apply State.traceLost_keeps | simp only [keeps_upd, keeps_obs, keeps_aon, keeps_err, keeps_rcd]
    | with_reducible apply keeps_ite
theorem State.setSram_keeps {b : Bool} {s0 : State} (s : State) (x1 : Nat) (x2 : Nat) (x3 : Nat) (h : Keeps b s0 s) :
    Keeps b s0 (State.setSram s x1 x2 x3) := by
  exact keeps_sram h (wf_writeAll _ _ _) rfl rfl rfl rfl rfl rfl
theorem State.histAdd_keeps {b : Bool} {s0 : State} (s : State) (x1 : Nat) (x2 : Nat) (h : Keeps b s0 s) :
    Keeps b s0 (State.histAdd s x1 x2) := by
  unfold State.histAdd
  repeat' first | with_reducible assumption | with_reducible apply State.setSram_keeps
theorem State.trackAdd_keeps {b : Bool} {s0 : State} (s : State) (x1 : Nat) (x2 : Nat) (x3 : Nat) (x4 : Nat) (x5 : Nat) (x6 : Nat) (h : Keeps b s0 s) :
    Keeps b s0 (State.trackAdd s x1 x2 x3 x4 x5 x6) := by
  unfold State.trackAdd
  repeat' first | with_reducible assumption | with_reducible apply State.setSram_keeps | with_reducible apply keeps_ite
theorem State.metric_keeps {b : Bool} {s0 : State} (s : State) (x1 : Nat) (x2 : Nat) (x3 : Nat) (x4 : Nat) (x5 : Nat) (x6 : Nat) (h : Keeps b s0 s) :
    Keeps b s0 (State.metric s x1 x2 x3 x4 x5 x6) := by
  unfold State.metric
  repeat' first
    | with_reducible assumption | with_reducible apply State.trackAdd_keeps | with_reducible apply State.histAdd_keeps
    | simp only [keeps_upd, keeps_obs, keeps_aon, keeps_err, keeps_rcd] | with_reducible apply keeps_ite
    | (with_reducible apply keeps_foldl; intro _ _ _; try dsimp only)
theorem State.noteStamp_keeps {b : Bool} {s0 : State} (s : State) (x1 : Nat) (x2 : PktHead) (h : Keeps b s0 s) :
    Keeps b s0 (State.noteStamp s x1 x2) := by
  unfold State.noteStamp
  repeat' first
    | with_reducible assumption | with_reducible apply State.addTrace_keeps | simp only [keeps_upd, keeps_obs, keeps_aon, keeps_err, keeps_rcd]
    | with_reducible apply keeps_ite
theorem State.bringUp_keeps {b : Bool} {s0 : State} (s : State) (x1 : Nat) (h : Keeps b s0 s) :
    Keeps b s0 (State.bringUp s x1) := by
  unfold State.bringUp
  repeat' first | with_reducible assumption | with_reducible apply State.setLink_keeps | with_reducible apply keeps_ite
theorem State.setBank_keeps {b : Bool} {s0 : State} (s : State) (x1 : Bool) (x2 : Nat) (x3 : Bank) (h : Keeps b s0 s) :
    Keeps b s0 (State.setBank s x1 x2 x3) := by
  unfold State.setBank
  repeat' first | with_reducible assumption | simp only [keeps_upd, keeps_obs, keeps_aon, keeps_err, keeps_rcd] | with_reducible apply keeps_ite
theorem State.setSrc_keeps {b : Bool} {s0 : State} (s : State) (x1 : Nat) (x2 : Src) (h : Keeps b s0 s) :
    Keeps b s0 (State.setSrc s x1 x2) := by
  unfold State.setSrc
  repeat' first | with_reducible assumption | simp only [keeps_upd, keeps_obs, keeps_aon, keeps_err, keeps_rcd]
theorem State.rearm_keeps {b : Bool} {s0 : State} (s : State) (x1 : Bool) (x2 : Nat) (h : Keeps b s0 s) :
    Keeps b s0 (State.rearm s x1 x2) := by
  unfold State.rearm
  repeat' first
    | with_reducible assumption | with_reducible apply State.setBank_keeps | with_reducible apply State.emit_keeps
    | with_reducible apply keeps_ite
theorem State.claim_keeps {b : Bool} {s0 : State} (s : State) (x1 : Who) (x2 : BankId) (h : Keeps b s0 s) :
    Keeps b s0 (State.claim s x1 x2).2 := by
  unfold State.claim
  try dsimp only
  repeat' first
    | with_reducible assumption | with_reducible apply State.metric_keeps | with_reducible apply State.setBank_keeps
    | with_reducible apply State.setSrc_keeps | with_reducible apply State.rearm_keeps | split
theorem State.claim_keepsEq {b : Bool} {s0 : State} {s : State} {x1 : Who} {x2 : BankId} {y : Nat} {t : State} (e : (State.claim s x1 x2) = (y, t)) (h : Keeps b s0 s) :
    Keeps b s0 t := by
  have := State.claim_keeps s x1 x2 h
  rw [e] at this; exact this
theorem State.emitMsix_keeps {b : Bool} {s0 : State} (s : State) (x1 : Nat) (x2 : Nat) (h : Keeps b s0 s) :
    Keeps b s0 (State.emitMsix s x1 x2) := by
  unfold State.emitMsix
  repeat' first
    | with_reducible assumption | with_reducible apply State.emit_keeps | with_reducible apply State.bringUp_keeps
    | with_reducible apply State.chargeTo_keeps
theorem State.sendMsix_keeps {b : Bool} {s0 : State} (s : State) (x1 : Nat) (x2 : Nat) (h : Keeps b s0 s) :
    Keeps b s0 (State.sendMsix s x1 x2) := by
  unfold State.sendMsix
  repeat' first
    | with_reducible assumption | with_reducible apply State.emitMsix_keeps | with_reducible apply State.wake_keeps
    | with_reducible apply State.setFn_keeps | with_reducible apply keeps_ite
theorem State.deliver_keeps {b : Bool} {s0 : State} (s : State) (x1 : Bool) (x2 : Nat) (h : Keeps b s0 s) :
    Keeps b s0 (State.deliver s x1 x2) := by
  unfold State.deliver
  repeat' first
    | with_reducible assumption | with_reducible apply State.emit_keeps | with_reducible apply State.setBank_keeps
    | with_reducible apply State.sendMsix_keeps | with_reducible apply keeps_ite
theorem State.tryDeliver_keeps {b : Bool} {s0 : State} (s : State) (x1 : Bool) (x2 : Nat) (h : Keeps b s0 s) :
    Keeps b s0 (State.tryDeliver s x1 x2) := by
  unfold State.tryDeliver
  repeat' first | with_reducible assumption | with_reducible apply State.deliver_keeps | with_reducible apply keeps_ite
theorem State.countEdge_keeps {b : Bool} {s0 : State} (s : State) (x1 : Nat) (h : Keeps b s0 s) :
    Keeps b s0 (State.countEdge s x1) := by
  unfold State.countEdge
  repeat' first
    | with_reducible assumption | with_reducible apply State.tryDeliver_keeps | with_reducible apply State.setBank_keeps
    | with_reducible apply keeps_ite
theorem State.deliverAll_keeps {b : Bool} {s0 : State} (s : State) (h : Keeps b s0 s) :
    Keeps b s0 (State.deliverAll s) := by
  unfold State.deliverAll
  repeat' first
    | with_reducible assumption | with_reducible apply State.tryDeliver_keeps
    | (with_reducible apply keeps_foldl; intro _ _ _; try dsimp only)
theorem State.latchEdge_keeps {b : Bool} {s0 : State} (s : State) (x1 : Nat) (h : Keeps b s0 s) :
    Keeps b s0 (State.latchEdge s x1) := by
  unfold State.latchEdge
  repeat' first
    | with_reducible assumption | with_reducible apply State.setSrc_keeps | with_reducible apply State.countEdge_keeps
    | with_reducible apply keeps_ite
theorem State.withdraw_keeps {b : Bool} {s0 : State} (s : State) (x1 : Nat) (h : Keeps b s0 s) :
    Keeps b s0 (State.withdraw s x1) := by
  unfold State.withdraw
  repeat' first | with_reducible assumption | with_reducible apply State.setSrc_keeps
theorem State.writeCoal_keeps {b : Bool} {s0 : State} (s : State) (x1 : Bool) (x2 : Nat) (x3 : W32) (h : Keeps b s0 s) :
    Keeps b s0 (State.writeCoal s x1 x2 x3) := by
  unfold State.writeCoal
  repeat' first
    | with_reducible assumption | with_reducible apply State.tryDeliver_keeps | with_reducible apply State.setBank_keeps
    | with_reducible apply keeps_ite
theorem answerRead_keeps {b : Bool} {s0 : State} (w : Who) (x : Nat × State) (h : Keeps b s0 x.2) :
    Keeps b s0 (answerRead w x) := State.emit_keeps _ _ h
theorem State.thresholdEvent_keeps {b : Bool} {s0 : State} (s : State) (x1 : Nat) (h : Keeps b s0 s) :
    Keeps b s0 (State.thresholdEvent s x1) := by
  unfold State.thresholdEvent
  try dsimp only
  repeat' first
    | with_reducible assumption | with_reducible apply State.pcntAdd_keeps | with_reducible apply State.toTile_keeps
    | with_reducible apply State.raise_keeps | split
theorem State.putTally_keeps {b : Bool} {s0 : State} (s : State) (x1 : Nat) (x2 : Tally) (x3 : Bool) (h : Keeps b s0 s) :
    Keeps b s0 (State.putTally s x1 x2 x3) := by
  unfold State.putTally
  repeat' first
    | with_reducible assumption | with_reducible apply State.setTally_keeps | with_reducible apply State.thresholdEvent_keeps
    | with_reducible apply keeps_ite
theorem State.tallyAdd_keeps {b : Bool} {s0 : State} (s : State) (x1 : Nat) (x2 : Nat) (h : Keeps b s0 s) :
    Keeps b s0 (State.tallyAdd s x1 x2) := by
  unfold State.tallyAdd
  repeat' first | with_reducible assumption | with_reducible apply State.putTally_keeps
theorem State.townRefuse_keeps {b : Bool} {s0 : State} (s : State) (h : Keeps b s0 s) :
    Keeps b s0 (State.townRefuse s) := by
  unfold State.townRefuse
  repeat' first | with_reducible assumption | simp only [keeps_upd, keeps_obs, keeps_aon, keeps_err, keeps_rcd]
theorem State.addFlight_keeps {b : Bool} {s0 : State} (s : State) (x1 : Arrival) (x2 : Nat) (x3 : Nat) (x4 : Bytes) (x5 : List Bool) (x6 : AtomOp) (x7 : W64) (x8 : W64) (x9 : Option ECode) (h : Keeps b s0 s) :
    Keeps b s0 (State.addFlight s x1 x2 x3 x4 x5 x6 x7 x8 x9) := by
  unfold State.addFlight
  repeat' first
    | with_reducible assumption | with_reducible apply State.chargeTo_keeps
    | simp only [keeps_upd, keeps_obs, keeps_aon, keeps_err, keeps_rcd]
    | with_reducible apply keeps_ite
theorem State.pieceHere_keeps {b : Bool} {s0 : State} (s : State) (x1 : Req) (x2 : Nat) (x3 : Nat) (x4 : Reply) (h : Keeps b s0 s) :
    Keeps b s0 (State.pieceHere s x1 x2 x3 x4) := by
  unfold State.pieceHere
  repeat' first
    | with_reducible assumption | with_reducible apply State.setReq_keeps | with_reducible apply State.handOn_keeps
    | with_reducible apply keeps_ite
theorem State.takePort_keeps {b : Bool} {s0 : State} {s : State} {x1 : Nat} {y : Nat} {t : State} (e : (State.takePort s x1) = some (y, t)) (h : Keeps b s0 s) :
    Keeps b s0 t := by
  unfold State.takePort at e
  rw [Option.map_eq_some_iff] at e
  obtain ⟨i, _, e⟩ := e
  cases e
  exact (keeps_upd ..).2 h
theorem State.answerPeer_keeps {b : Bool} {s0 : State} (s : State) (x1 : PktHead) (x2 : Nat) (x3 : Option (Nat × Nat)) (x4 : Reply) (h : Keeps b s0 s) :
    Keeps b s0 (State.answerPeer s x1 x2 x3 x4) := by
  unfold State.answerPeer
  repeat' first
    | with_reducible assumption | with_reducible apply State.pieceHere_keeps
    | with_reducible refine State.takePort_keeps (by assumption) ?_ | with_reducible apply State.emit_keeps | split
theorem State.commitWin_keeps {b : Bool} {s0 : State} (s : State) (x1 : Nat) (x2 : Win) (h : Keeps b s0 s) :
    Keeps b s0 (State.commitWin s x1 x2) := by
  unfold State.commitWin
  repeat' first | with_reducible assumption | with_reducible apply State.setWin_keeps | simp only [keeps_upd, keeps_obs, keeps_aon, keeps_err, keeps_rcd]
theorem State.countFlight_keeps {b : Bool} {s0 : State} (s : State) (x1 : Flight) (x2 : Nat) (h : Keeps b s0 s) :
    Keeps b s0 (State.countFlight s x1 x2) := by
  unfold State.countFlight
  repeat' first | with_reducible assumption | with_reducible apply State.tallyAdd_keeps | split
theorem State.dropPacket_keeps {b : Bool} {s0 : State} (s : State) (x1 : Nat) (h : Keeps b s0 s) :
    Keeps b s0 (State.dropPacket s x1) := by
  unfold State.dropPacket
  repeat' first
    | with_reducible assumption | with_reducible apply State.setWin_keeps | with_reducible apply State.peerDrop_keeps
    | with_reducible apply keeps_ite
theorem State.finishFlight_keeps {b : Bool} {s0 : State} (s : State) (x1 : Flight) (h : Keeps b s0 s) :
    Keeps b s0 (State.finishFlight s x1) := by
  unfold State.finishFlight
  repeat' first
    | with_reducible assumption | with_reducible apply State.setWin_keeps | simp only [keeps_upd, keeps_obs, keeps_aon, keeps_err, keeps_rcd]
    | with_reducible apply keeps_ite
theorem State.ingress_keeps {b : Bool} {s0 s : State} {port : Nat} {x : PktHead} {a : Option State} {t : State}
    (e : s.ingress port x = (a, t)) (h : Keeps b s0 s) : Keeps b s0 t := by
  unfold State.ingress at e; dsimp only at e
  have h1 : Keeps b s0 (if port < 12 then s.noteStamp port x else s) := by split; exact State.noteStamp_keeps _ _ _ h; exact h
  generalize (if port < 12 then s.noteStamp port x else s) = u at e h1
  repeat' split at e
  all_goals cases e
  · exact State.peerDrop_keeps _ h
  · exact State.peerDrop_keeps _ h1
  · exact h1
theorem State.ingress_keepsSome {b : Bool} {s0 s : State} {port : Nat} {x : PktHead} {u t : State}
    (e : s.ingress port x = (some u, t)) (h : Keeps b s0 s) : Keeps b s0 u := by
  have h2 := State.ingress_keeps e h
  have : u = t := by
    unfold State.ingress at e; dsimp only at e
    repeat' split at e
    all_goals cases e
    all_goals rfl
  exact this ▸ h2
theorem State.performFlight_keeps {b : Bool} {s0 : State} (s : State) (x1 : Flight) (h : Keeps b s0 s) :
    Keeps b s0 (State.performFlight s x1) := by
  unfold State.performFlight
  repeat' first
    | with_reducible assumption | with_reducible apply State.finishFlight_keeps | with_reducible apply State.answerPeer_keeps
    | with_reducible apply State.performAtomic_keeps | with_reducible refine State.performAtomic_keepsEq (by assumption) ?_
    | with_reducible apply State.countFlight_keeps | split
theorem State.settleFlights_keeps {b : Bool} {s0 : State} (s : State) (h : Keeps b s0 s) :
    Keeps b s0 (State.settleFlights s) := by
  unfold State.settleFlights
  repeat' first
    | with_reducible assumption | with_reducible apply State.performFlight_keeps | with_reducible apply keeps_ite
    | (with_reducible apply keeps_foldl; intro _ _ _; try dsimp only)
theorem State.inAtm_keeps {b : Bool} {s0 : State} (s : State) (x1 : Arrival) (x2 : AtomOp) (x3 : Nat) (x4 : W64) (x5 : W64) (h : Keeps b s0 s) :
    Keeps b s0 (State.inAtm s x1 x2 x3 x4 x5) := by
  unfold State.inAtm
  repeat' first
    | with_reducible assumption | with_reducible apply State.settleFlights_keeps | with_reducible apply State.addFlight_keeps
    | with_reducible apply State.answerPeer_keeps | with_reducible apply State.dropPacket_keeps
    | with_reducible refine State.ingress_keeps (by assumption) ?_
    | with_reducible refine State.ingress_keepsSome (by assumption) ?_ | split
theorem State.inRd_keeps {b : Bool} {s0 : State} (s : State) (x1 : Arrival) (x2 : Nat) (x3 : Option ECode) (h : Keeps b s0 s) :
    Keeps b s0 (State.inRd s x1 x2 x3) := by
  unfold State.inRd
  repeat' first
    | with_reducible assumption | with_reducible apply State.settleFlights_keeps | with_reducible apply State.addFlight_keeps
    | with_reducible apply State.answerPeer_keeps | with_reducible apply State.dropPacket_keeps
    | with_reducible refine State.ingress_keeps (by assumption) ?_
    | with_reducible refine State.ingress_keepsSome (by assumption) ?_ | split
theorem State.inTadd_keeps {b : Bool} {s0 : State} (s : State) (x1 : Arrival) (x2 : BitVec 48) (h : Keeps b s0 s) :
    Keeps b s0 (State.inTadd s x1 x2) := by
  unfold State.inTadd
  repeat' first
    | with_reducible assumption | with_reducible apply State.tallyAdd_keeps | with_reducible apply State.chargeTo_keeps
    | with_reducible apply State.dropPacket_keeps | with_reducible refine State.ingress_keeps (by assumption) ?_
    | with_reducible refine State.ingress_keepsSome (by assumption) ?_ | split
theorem State.inWr_keeps {b : Bool} {s0 : State} (s : State) (x1 : Arrival) (x2 : Bytes) (x3 : List Bool) (h : Keeps b s0 s) :
    Keeps b s0 (State.inWr s x1 x2 x3) := by
  unfold State.inWr
  repeat' first
    | with_reducible assumption | with_reducible apply State.addFlight_keeps | with_reducible apply State.dropPacket_keeps
    | with_reducible refine State.ingress_keeps (by assumption) ?_
    | with_reducible refine State.ingress_keepsSome (by assumption) ?_ | split
theorem State.lateCpl_keeps {b : Bool} {s0 : State} (s : State) (x1 : Nat) (x2 : Nat) (h : Keeps b s0 s) :
    Keeps b s0 (State.lateCpl s x1 x2) := by
  unfold State.lateCpl
  repeat' first
    | with_reducible assumption | with_reducible apply State.metric_keeps | with_reducible apply State.pulse_keeps | split
theorem State.loopPosted_keeps {b : Bool} {s0 : State} (s : State) (x1 : Req) (x2 : Nat) (h : Keeps b s0 s) :
    Keeps b s0 (State.loopPosted s x1 x2) := by
  unfold State.loopPosted
  repeat' first
    | with_reducible assumption | with_reducible apply State.inTadd_keeps | with_reducible apply State.inWr_keeps
    | with_reducible apply keeps_ite | (with_reducible apply keeps_foldl; intro _ _ _; try dsimp only)
theorem State.loopRead_keeps {b : Bool} {s0 : State} (s : State) (x1 : Req) (x2 : Nat) (h : Keeps b s0 s) :
    Keeps b s0 (State.loopRead s x1 x2) := by
  unfold State.loopRead
  repeat' first
    | with_reducible assumption | with_reducible apply State.inAtm_keeps | with_reducible apply State.inRd_keeps
    | with_reducible apply keeps_ite | (with_reducible apply keeps_foldl; intro _ _ _; try dsimp only)
theorem State.scheduleWin_keeps {b : Bool} {s0 : State} (s : State) (x1 : Nat) (h : Keeps b s0 s) :
    Keeps b s0 (State.scheduleWin s x1) := by
  unfold State.scheduleWin
  repeat' first | with_reducible assumption | with_reducible apply State.setWin_keeps
theorem State.sendPacket_keeps {b : Bool} {s0 : State} (s : State) (x1 : Req) (x2 : Nat) (x3 : Nat) (x4 : Nat) (h : Keeps b s0 s) :
    Keeps b s0 (State.sendPacket s x1 x2 x3 x4) := by
  unfold State.sendPacket
  repeat' first
    | with_reducible assumption | with_reducible refine State.takePort_keeps (by assumption) ?_
    | with_reducible apply State.emit_keeps | split
theorem State.takeEffect_keeps {b : Bool} {s0 : State} (s : State) (x1 : Nat) (h : Keeps b s0 s) :
    Keeps b s0 (State.takeEffect s x1) := by
  unfold State.takeEffect
  repeat' first | with_reducible assumption | with_reducible apply State.commitWin_keeps | split
theorem State.setLin_keeps {b : Bool} {s0 : State} (s : State) (x1 : Lin) (h : Keeps b s0 s) :
    Keeps b s0 (State.setLin s x1) := by
  unfold State.setLin
  repeat' first | with_reducible assumption | simp only [keeps_upd, keeps_obs, keeps_aon, keeps_err, keeps_rcd]
theorem State.snoopAll_keeps {b : Bool} {s0 : State} (s : State) (x1 : List (Nat × Nat × Nat)) (h : Keeps b s0 s) :
    Keeps b s0 (State.snoopAll s x1) := by
  unfold State.snoopAll
  repeat' first
    | with_reducible assumption | with_reducible apply State.toTile_keeps
    | (with_reducible apply keeps_foldl; intro _ _ _; try dsimp only)
theorem State.putTxn_keeps {b : Bool} {s0 : State} (s : State) (x1 : Txn) (h : Keeps b s0 s) :
    Keeps b s0 (State.putTxn s x1) := by
  unfold State.putTxn
  repeat' first | with_reducible assumption | with_reducible apply State.setLin_keeps
theorem State.dropEntry_keeps {b : Bool} {s0 : State} (s : State) (x1 : Nat) (h : Keeps b s0 s) :
    Keeps b s0 (State.dropEntry s x1) := by
  unfold State.dropEntry
  repeat' first | with_reducible assumption | with_reducible apply State.setLin_keeps
theorem State.emitAll_keeps {b : Bool} {s0 : State} (s : State) (x1 : List OutMsg) (h : Keeps b s0 s) :
    Keeps b s0 (State.emitAll s x1) := by
  unfold State.emitAll
  repeat' first | with_reducible assumption | simp only [keeps_upd, keeps_obs, keeps_aon, keeps_err, keeps_rcd]
theorem State.hostDone_keeps {b : Bool} {s0 : State} (s : State) (x1 : Bool) (x2 : Nat) (h : Keeps b s0 s) :
    Keeps b s0 (State.hostDone s x1 x2) := by
  unfold State.hostDone
  repeat' first
    | with_reducible assumption | with_reducible apply State.emitAll_keeps | with_reducible apply State.setLin_keeps
theorem State.closeTxn_keeps {b : Bool} {s0 : State} (s : State) (x1 : Txn) (h : Keeps b s0 s) :
    Keeps b s0 (State.closeTxn s x1) := by
  unfold State.closeTxn
  repeat' first
    | with_reducible assumption | with_reducible apply State.setLin_keeps | with_reducible apply State.hostDone_keeps | split
theorem State.putEntry_keeps {b : Bool} {s0 : State} (s : State) (x1 : LEntry) (h : Keeps b s0 s) :
    Keeps b s0 (State.putEntry s x1) := by
  unfold State.putEntry
  repeat' first | with_reducible assumption | with_reducible apply State.setLin_keeps
theorem State.ownerGone_keeps {b : Bool} {s0 : State} (s : State) (x1 : LEntry) (h : Keeps b s0 s) :
    Keeps b s0 (State.ownerGone s x1) := by
  unfold State.ownerGone
  repeat' first
    | with_reducible assumption | with_reducible apply State.dropEntry_keeps | with_reducible apply State.putEntry_keeps
    | split
theorem State.dropPtr_keeps {b : Bool} {s0 : State} (s : State) (x1 : LEntry) (x2 : Nat) (h : Keeps b s0 s) :
    Keeps b s0 (State.dropPtr s x1 x2) := by
  unfold State.dropPtr
  repeat' first
    | with_reducible assumption | with_reducible apply State.ownerGone_keeps | with_reducible apply State.dropEntry_keeps
    | with_reducible apply State.putEntry_keeps | split
theorem State.orphanRds_keeps {b : Bool} {s0 : State} (s : State) (x1 : Txn) (h : Keeps b s0 s) :
    Keeps b s0 (State.orphanRds s x1) := by
  unfold State.orphanRds
  repeat' first
    | with_reducible assumption | with_reducible apply State.ownerGone_keeps | with_reducible apply State.putEntry_keeps
    | split
theorem State.grant_keeps {b : Bool} {s0 : State} (s : State) (x1 : Txn) (x2 : Nat) (x3 : Reply) (h : Keeps b s0 s) :
    Keeps b s0 (State.grant s x1 x2 x3) := by
  unfold State.grant
  repeat' first
    | with_reducible assumption | with_reducible apply State.emit_keeps | with_reducible apply State.watchDev_keeps
    | with_reducible apply keeps_ite
theorem State.closeRds_keeps {b : Bool} {s0 : State} (s : State) (x1 : Txn) (x2 : Reply) (h : Keeps b s0 s) :
    Keeps b s0 (State.closeRds s x1 x2) := by
  unfold State.closeRds
  try dsimp only
  repeat' first
    | with_reducible assumption | with_reducible apply State.grant_keeps | with_reducible apply State.putEntry_keeps
    | with_reducible apply State.setLin_keeps | split
theorem State.toOwner_keeps {b : Bool} {s0 : State} (s : State) (x1 : Txn) (h : Keeps b s0 s) :
    Keeps b s0 (State.toOwner s x1) := by
  unfold State.toOwner
  repeat' first | with_reducible assumption | with_reducible apply State.putEntry_keeps
theorem State.finishOwn_keeps {b : Bool} {s0 : State} (s : State) (x1 : Req) (x2 : Nat) (h : Keeps b s0 s) :
    Keeps b s0 (State.finishOwn s x1 x2) := by
  unfold State.finishOwn
  repeat' first
    | with_reducible assumption | with_reducible refine State.writeBack_keeps (by assumption) ?_
    | with_reducible apply State.handOn_keeps | with_reducible apply State.setReq_keeps | split
theorem State.fenceDone_keeps {b : Bool} {s0 : State} (s : State) (x1 : Nat) (x2 : Who) (h : Keeps b s0 s) :
    Keeps b s0 (State.fenceDone s x1 x2) := by
  unfold State.fenceDone
  repeat' first | with_reducible assumption | with_reducible apply State.emit_keeps | with_reducible apply State.setLink_keeps
theorem State.releaseFences_keeps {b : Bool} {s0 : State} (s : State) (x1 : Nat) (h : Keeps b s0 s) :
    Keeps b s0 (State.releaseFences s x1) := by
  unfold State.releaseFences
  repeat' first
    | with_reducible assumption | with_reducible apply State.fenceDone_keeps | with_reducible apply State.setLink_keeps
    | (with_reducible apply keeps_foldl; intro _ _ _; try dsimp only)
theorem State.endFlight_keeps {b : Bool} {s0 : State} (s : State) (x1 : Flight) (x2 : Nat) (x3 : Reply) (h : Keeps b s0 s) :
    Keeps b s0 (State.endFlight s x1 x2 x3) := by
  unfold State.endFlight
  repeat' first
    | with_reducible assumption | with_reducible apply State.settleFlights_keeps
    | with_reducible apply State.finishFlight_keeps | with_reducible apply State.dropReq_keeps
    | with_reducible apply State.answerPeer_keeps
theorem State.finishOne_keeps {b : Bool} {s0 : State} (s : State) (x1 : Nat) (h : Keeps b s0 s) :
    Keeps b s0 (State.finishOne s x1) := by
  unfold State.finishOne
  try dsimp only
  repeat' first
    | with_reducible assumption | with_reducible apply State.finishOwn_keeps | with_reducible apply State.dropReq_keeps
    | with_reducible apply State.emit_keeps | with_reducible apply State.useFree_keeps
    | with_reducible apply State.performWrite_keeps | with_reducible apply State.releaseFences_keeps
    | with_reducible apply State.tallyAdd_keeps | with_reducible apply State.performAtomic_keeps
    | with_reducible refine State.performAtomic_keepsEq (by assumption) ?_ | with_reducible apply State.endFlight_keeps
    | with_reducible apply State.countFlight_keeps | (with_reducible apply keeps_foldl; intro _ _ _; try dsimp only) | split
theorem State.goOn_keeps {b : Bool} {s0 : State} (s : State) (h : Keeps b s0 s) :
    Keeps b s0 (State.goOn s) := by
  unfold State.goOn
  repeat' first
    | with_reducible assumption | with_reducible apply State.finishOne_keeps | with_reducible apply State.settleFlights_keeps
    | (with_reducible apply keeps_foldl; intro _ _ _; try dsimp only)
theorem State.finishExt_keeps {b : Bool} {s0 : State} (s : State) (x1 : Nat) (h : Keeps b s0 s) :
    Keeps b s0 (State.finishExt s x1) := by
  unfold State.finishExt
  repeat' first
    | with_reducible assumption | with_reducible apply State.goOn_keeps | with_reducible apply State.finishOne_keeps
theorem State.answerNar_keeps {b : Bool} {s0 : State} (s : State) (x1 : Txn) (x2 : Reply) (h : Keeps b s0 s) :
    Keeps b s0 (State.answerNar s x1 x2) := by
  unfold State.answerNar
  repeat' first
    | with_reducible assumption | with_reducible apply State.setReq_keeps | with_reducible apply State.finishExt_keeps
    | with_reducible apply State.setLk_keeps | with_reducible apply State.loseProof_keeps | split
theorem State.fillTarget_keeps {b : Bool} {s0 : State} (s : State) (x1 : Txn) (x2 : Nat) (h : Keeps b s0 s) :
    Keeps b s0 (State.fillTarget s x1 x2) := by
  unfold State.fillTarget
  repeat' first
    | with_reducible assumption | with_reducible apply State.toTile_keeps | with_reducible apply State.putEntry_keeps
theorem State.answerUwr_keeps {b : Bool} {s0 : State} (s : State) (x1 : Txn) (h : Keeps b s0 s) :
    Keeps b s0 (State.answerUwr s x1) := by
  unfold State.answerUwr
  repeat' first
    | with_reducible assumption | with_reducible apply State.finishExt_keeps | with_reducible apply State.setReq_keeps
    | split
theorem State.answerAtm_keeps {b : Bool} {s0 : State} (s : State) (x1 : Txn) (h : Keeps b s0 s) :
    Keeps b s0 (State.answerAtm s x1) := by
  unfold State.answerAtm
  repeat' first
    | with_reducible assumption | with_reducible apply State.setReq_keeps | with_reducible apply State.finishExt_keeps
    | split
theorem State.progress_keeps {b : Bool} {s0 : State} (s : State) (x1 : Txn) (h : Keeps b s0 s) :
    Keeps b s0 (State.progress s x1) := by
  unfold State.progress
  try dsimp only
  repeat' first
    | with_reducible assumption | with_reducible apply State.closeTxn_keeps | with_reducible apply State.dropPtr_keeps
    | with_reducible apply State.putTxn_keeps | with_reducible apply State.orphanRds_keeps
    | with_reducible apply State.closeRds_keeps | with_reducible apply State.dropEntry_keeps
    | with_reducible apply State.grant_keeps | with_reducible apply State.toOwner_keeps
    | with_reducible apply State.watchDev_keeps | with_reducible apply State.emit_keeps
    | with_reducible apply State.ownerGone_keeps | with_reducible apply State.answerNar_keeps
    | with_reducible apply State.fillTarget_keeps | with_reducible apply State.answerUwr_keeps
    | with_reducible apply State.answerAtm_keeps | split
theorem State.advance_keeps {b : Bool} {s0 : State} (s : State) (x1 : Nat) (h : Keeps b s0 s) :
    Keeps b s0 (State.advance s x1) := by
  unfold State.advance
  repeat' first | with_reducible assumption | with_reducible apply State.progress_keeps | split
theorem State.openTxn_keeps {b : Bool} {s0 : State} (s : State) (x1 : Txn) (h : Keeps b s0 s) :
    Keeps b s0 (State.openTxn s x1) := by
  unfold State.openTxn
  try dsimp only
  repeat' first
    | with_reducible assumption | with_reducible apply State.setLin_keeps | with_reducible apply State.snoopAll_keeps
    | with_reducible apply State.putTxn_keeps | with_reducible apply State.dropEntry_keeps
    | with_reducible apply State.advance_keeps | split
theorem State.admitLine_keeps {b : Bool} {s0 : State} (s : State) (x1 : Nat) (h : Keeps b s0 s) :
    Keeps b s0 (State.admitLine s x1) := by
  unfold State.admitLine
  repeat' first
    | with_reducible assumption | with_reducible apply State.openTxn_keeps | with_reducible apply State.setLin_keeps | split
theorem State.arrive_keeps {b : Bool} {s0 : State} (s : State) (x1 : Txn) (h : Keeps b s0 s) :
    Keeps b s0 (State.arrive s x1) := by
  unfold State.arrive
  repeat' first
    | with_reducible assumption | with_reducible apply State.admitLine_keeps | with_reducible apply State.setLin_keeps
theorem State.agentReq_keeps {b : Bool} {s0 : State} (s : State) (x1 : Nat) (x2 : Nat) (x3 : TxKind) (h : Keeps b s0 s) :
    Keeps b s0 (State.agentReq s x1 x2 x3) := by
  unfold State.agentReq
  repeat' first | with_reducible assumption | with_reducible apply State.arrive_keeps | with_reducible apply keeps_ite
theorem State.putVictim_keeps {b : Bool} {s0 : State} (s : State) (x1 : Txn) (x2 : Victim) (h : Keeps b s0 s) :
    Keeps b s0 (State.putVictim s x1 x2) := by
  unfold State.putVictim
  repeat' first
    | with_reducible assumption | with_reducible apply State.advance_keeps | with_reducible apply State.putTxn_keeps
    | with_reducible apply State.dropEntry_keeps | with_reducible apply keeps_ite
theorem State.answered_keeps {b : Bool} {s0 : State} (s : State) (x1 : Nat) (x2 : Nat) (x3 : Option Bytes) (x4 : Bool) (x5 : Bool) (h : Keeps b s0 s) :
    Keeps b s0 (State.answered s x1 x2 x3 x4 x5) := by
  unfold State.answered
  repeat' first
    | with_reducible assumption | with_reducible apply State.advance_keeps | with_reducible apply State.putTxn_keeps
    | with_reducible apply State.putVictim_keeps | split
theorem State.answerFor_keeps {b : Bool} {s0 : State} (s : State) (x1 : Nat) (h : Keeps b s0 s) :
    Keeps b s0 (State.answerFor s x1) := by
  unfold State.answerFor
  repeat' first
    | with_reducible assumption | with_reducible apply State.answered_keeps
    | (with_reducible apply keeps_foldl; intro _ _ _; try dsimp only)
theorem State.consumeWb_keeps {b : Bool} {s0 : State} (s : State) (x1 : Nat) (x2 : Nat) (x3 : Bytes) (h : Keeps b s0 s) :
    Keeps b s0 (State.consumeWb s x1 x2 x3) := by
  unfold State.consumeWb
  repeat' first
    | with_reducible assumption | with_reducible apply State.setLin_keeps | with_reducible apply State.answered_keeps
    | with_reducible apply State.emit_keeps
theorem State.cxlPlain_keeps {b : Bool} {s0 : State} (s : State) (x1 : Bool) (x2 : Nat) (x3 : CxlOp) (h : Keeps b s0 s) :
    Keeps b s0 (State.cxlPlain s x1 x2 x3) := by
  unfold State.cxlPlain
  repeat' first
    | with_reducible assumption | with_reducible apply State.emit_keeps | with_reducible apply State.performWrite_keeps
    | split
theorem State.cxlReq_keeps {b : Bool} {s0 : State} (s : State) (x1 : Bool) (x2 : Nat) (x3 : Bool) (x4 : Bytes) (x5 : List Bool) (x6 : Bool) (h : Keeps b s0 s) :
    Keeps b s0 (State.cxlReq s x1 x2 x3 x4 x5 x6) := by
  unfold State.cxlReq
  repeat' first
    | with_reducible assumption | with_reducible apply State.answerUwr_keeps | with_reducible apply State.arrive_keeps
    | simp only [keeps_upd, keeps_obs, keeps_aon, keeps_err, keeps_rcd]
    | with_reducible apply keeps_ite
theorem State.depart_keeps {b : Bool} {s0 : State} (s : State) (x1 : Nat) (h : Keeps b s0 s) :
    Keeps b s0 (State.depart s x1) := by
  unfold State.depart
  repeat' first
    | with_reducible assumption | with_reducible apply State.answerFor_keeps | with_reducible apply State.setLin_keeps
theorem State.flushAll_keeps {b : Bool} {s0 : State} (s : State) (h : Keeps b s0 s) :
    Keeps b s0 (State.flushAll s) := by
  unfold State.flushAll
  repeat' first
    | with_reducible assumption | with_reducible apply State.arrive_keeps
    | (with_reducible apply keeps_foldl; intro _ _ _; try dsimp only)
theorem State.homeWrite_keeps {b : Bool} {s0 : State} (s : State) (x1 : Txn) (h : Keeps b s0 s) :
    Keeps b s0 (State.homeWrite s x1).1 := by
  unfold State.homeWrite
  repeat' first
    | with_reducible assumption | with_reducible apply State.performWrite_keeps
    | with_reducible apply State.performAtomic_keeps | with_reducible refine State.performAtomic_keepsEq (by assumption) ?_
    | split
theorem State.homeWrite_keepsEq {b : Bool} {s0 : State} {s : State} {x1 : Txn} {y : Option Reply} {t : State} (e : (State.homeWrite s x1) = (t, y)) (h : Keeps b s0 s) :
    Keeps b s0 t := by
  have := State.homeWrite_keeps s x1 h
  rw [e] at this; exact this
theorem State.leave_keeps {b : Bool} {s0 : State} (s : State) (x1 : Nat) (x2 : Bool) (h : Keeps b s0 s) :
    Keeps b s0 (State.leave s x1 x2) := by
  unfold State.leave
  repeat' first | with_reducible assumption | with_reducible apply State.setLin_keeps
theorem State.linRefuse_keeps {b : Bool} {s0 : State} (s : State) (h : Keeps b s0 s) :
    Keeps b s0 (State.linRefuse s) := by
  unfold State.linRefuse
  repeat' first | with_reducible assumption | with_reducible apply State.setLin_keeps
theorem State.loseLines_keeps {b : Bool} {s0 : State} (s : State) (x1 : List Nat) (h : Keeps b s0 s) :
    Keeps b s0 (State.loseLines s x1) := by
  unfold State.loseLines
  repeat' first
    | with_reducible assumption | with_reducible apply State.setLin_keeps | simp only [keeps_upd, keeps_obs, keeps_aon, keeps_err, keeps_rcd]
theorem State.sweepDead_keeps {b : Bool} {s0 : State} (s : State) (x1 : Nat) (h : Keeps b s0 s) :
    Keeps b s0 (State.sweepDead s x1) := by
  unfold State.sweepDead
  repeat' first
    | with_reducible assumption | with_reducible apply State.loseLines_keeps | with_reducible apply State.leave_keeps
    | with_reducible apply State.setLin_keeps | with_reducible apply State.depart_keeps
    | with_reducible apply State.dropPtr_keeps | with_reducible apply keeps_ite
    | (with_reducible apply keeps_foldl; intro _ _ _; try dsimp only)
theorem State.sweepNamed_keeps {b : Bool} {s0 : State} (s : State) (x1 : Nat) (h : Keeps b s0 s) :
    Keeps b s0 (State.sweepNamed s x1) := by
  unfold State.sweepNamed
  repeat' first
    | with_reducible assumption | with_reducible apply State.arrive_keeps
    | (with_reducible apply keeps_foldl; intro _ _ _; try dsimp only)
theorem State.sweepLive_keeps {b : Bool} {s0 : State} (s : State) (x1 : Nat) (h : Keeps b s0 s) :
    Keeps b s0 (State.sweepLive s x1) := by
  unfold State.sweepLive
  repeat' first
    | with_reducible assumption | with_reducible apply State.sweepNamed_keeps | with_reducible apply State.leave_keeps
theorem State.takeWbd_keeps {b : Bool} {s0 : State} (s : State) (x1 : Nat) (x2 : Nat) (x3 : Bytes) (h : Keeps b s0 s) :
    Keeps b s0 (State.takeWbd s x1 x2 x3) := by
  unfold State.takeWbd
  repeat' first
    | with_reducible assumption | with_reducible apply State.consumeWb_keeps | with_reducible apply State.setLin_keeps
    | with_reducible apply State.performWrite_keeps | with_reducible apply State.ownerGone_keeps
    | with_reducible apply State.emit_keeps | split
theorem State.wbDue_keeps {b : Bool} {s0 : State} (s : State) (x1 : Nat) (x2 : Nat) (h : Keeps b s0 s) :
    Keeps b s0 (State.wbDue s x1 x2) := by
  unfold State.wbDue
  repeat' first | with_reducible assumption | with_reducible apply State.putTxn_keeps | split
theorem State.proofCharge_keeps {b : Bool} {s0 : State} (s : State) (x1 : Nat) (h : Keeps b s0 s) :
    Keeps b s0 (State.proofCharge s x1) := by
  unfold State.proofCharge
  repeat' first | with_reducible assumption | simp only [keeps_upd, keeps_obs, keeps_aon, keeps_err, keeps_rcd]
theorem State.aerReport_keeps {b : Bool} {s0 : State} (s : State) (x1 : Nat) (x2 : Nat) (h : Keeps b s0 s) :
    Keeps b s0 (State.aerReport s x1 x2) := by
  unfold State.aerReport
  repeat' first | with_reducible assumption | with_reducible apply State.setFn_keeps
theorem State.resizeBar_keeps {b : Bool} {s0 : State} (s : State) (x1 : Nat) (x2 : Bool) (x3 : Nat) (h : Keeps b s0 s) :
    Keeps b s0 (State.resizeBar s x1 x2 x3) := by
  unfold State.resizeBar
  repeat' first
    | with_reducible assumption | with_reducible apply State.setLink_keeps | with_reducible apply State.setFn_keeps
    | with_reducible apply keeps_ite
theorem State.writeBar_keeps {b : Bool} {s0 : State} (s : State) (x1 : Nat) (x2 : Nat) (x3 : W32) (h : Keeps b s0 s) :
    Keeps b s0 (State.writeBar s x1 x2 x3) := by
  unfold State.writeBar
  repeat' first | with_reducible assumption | with_reducible apply State.setFn_keeps | with_reducible apply keeps_ite
theorem State.writeVfBar_keeps {b : Bool} {s0 : State} (s : State) (x1 : Nat) (x2 : Nat) (x3 : W32) (h : Keeps b s0 s) :
    Keeps b s0 (State.writeVfBar s x1 x2 x3) := by
  unfold State.writeVfBar
  repeat' first | with_reducible assumption | with_reducible apply State.setLink_keeps | with_reducible apply keeps_ite
theorem State.addExt_keeps {b : Bool} {s0 : State} (s : State) (x1 : Owner) (x2 : Nat) (x3 : Nat) (x4 : Nat) (x5 : Acc) (x6 : Bytes) (x7 : List Bool) (x8 : AtomOp) (x9 : W64) (x10 : W64) (h : Keeps b s0 s) :
    Keeps b s0 (State.addExt s x1 x2 x3 x4 x5 x6 x7 x8 x9 x10) := by
  unfold State.addExt
  repeat' first | with_reducible assumption | simp only [keeps_upd, keeps_obs, keeps_aon, keeps_err, keeps_rcd]
theorem State.bar2Check_keeps {b : Bool} {s0 : State} (s : State) (x1 : Nat) (x2 : Nat) (x3 : Nat) (x4 : Acc) (h : Keeps b s0 s) :
    Keeps b s0 (State.bar2Check s x1 x2 x3 x4).2 := by
  unfold State.bar2Check
  try dsimp only
  repeat' first | with_reducible assumption | with_reducible apply State.pulses_keeps | split
theorem State.bar2Check_keepsEq {b : Bool} {s0 : State} {s : State} {x1 : Nat} {x2 : Nat} {x3 : Nat} {x4 : Acc} {y : Option Bool} {t : State} (e : (State.bar2Check s x1 x2 x3 x4) = (y, t)) (h : Keeps b s0 s) :
    Keeps b s0 t := by
  have := State.bar2Check_keeps s x1 x2 x3 x4 h
  rw [e] at this; exact this
theorem State.noteFate_keeps {b : Bool} {s0 : State} (s : State) (x1 : Fate) (h : Keeps b s0 s) :
    Keeps b s0 (State.noteFate s x1) := by
  unfold State.noteFate
  repeat' first
    | with_reducible assumption | with_reducible apply State.badAccess_keeps | with_reducible apply State.dropPacket_keeps
    | with_reducible apply State.isolation_keeps | split
theorem State.bar2Write_keeps {b : Bool} {s0 : State} (s : State) (x1 : Nat) (x2 : Nat) (x3 : Bytes) (x4 : List Bool) (h : Keeps b s0 s) :
    Keeps b s0 (State.bar2Write s x1 x2 x3 x4) := by
  unfold State.bar2Write
  repeat' first
    | with_reducible assumption | with_reducible apply State.chargeTo_keeps | with_reducible apply State.noteFate_keeps
    | with_reducible apply State.performWrite_keeps | with_reducible apply State.addExt_keeps
    | with_reducible apply State.tallyAdd_keeps | with_reducible apply keeps_ite
    | (with_reducible apply keeps_foldl; intro _ _ _; try dsimp only)
theorem State.fenceRead_keeps {b : Bool} {s0 : State} (s : State) (x1 : Who) (h : Keeps b s0 s) :
    Keeps b s0 (State.fenceRead s x1) := by
  unfold State.fenceRead
  repeat' first
    | with_reducible assumption | with_reducible apply State.emit_keeps | with_reducible apply State.releaseFences_keeps
    | with_reducible apply State.setLink_keeps | split
theorem State.flushRead_keeps {b : Bool} {s0 : State} (s : State) (x1 : Nat) (x2 : Nat) (x3 : Nat) (x4 : HostAt) (h : Keeps b s0 s) :
    Keeps b s0 (State.flushRead s x1 x2 x3 x4) := by
  unfold State.flushRead
  repeat' first | with_reducible assumption | with_reducible apply State.emit_keeps
theorem State.hostReads_keeps {b : Bool} {s0 : State} (s : State) (x1 : Nat) (x2 : Nat) (x3 : Nat) (x4 : Nat) (x5 : HostAt) (h : Keeps b s0 s) :
    Keeps b s0 (State.hostReads s x1 x2 x3 x4 x5) := by
  unfold State.hostReads
  repeat' first
    | with_reducible assumption | with_reducible apply State.emit_keeps
    | (with_reducible apply keeps_foldl; intro _ _ _; try dsimp only)
theorem State.hostWrite_keeps {b : Bool} {s0 : State} (s : State) (x1 : Nat) (x2 : Nat) (x3 : Bytes) (x4 : List Bool) (x5 : Bool) (x6 : Option (BitVec 16)) (x7 : HostAt) (h : Keeps b s0 s) :
    Keeps b s0 (State.hostWrite s x1 x2 x3 x4 x5 x6 x7) := by
  unfold State.hostWrite
  repeat' first
    | with_reducible assumption | with_reducible apply State.watchHost_keeps | with_reducible apply State.emit_keeps
    | (with_reducible apply keeps_foldl; intro _ _ _; try dsimp only)
theorem State.moveHostAgent_keeps {b : Bool} {s0 : State} (s : State) (x1 : Nat) (x2 : LinkStat) (h : Keeps b s0 s) :
    Keeps b s0 (State.moveHostAgent s x1 x2) := by
  unfold State.moveHostAgent
  repeat' first
    | with_reducible assumption | with_reducible apply State.setLin_keeps | with_reducible apply State.sweepDead_keeps
    | with_reducible apply keeps_ite
theorem State.setLinkStat_keeps {b : Bool} {s0 : State} (s : State) (x1 : Nat) (x2 : LinkStat) (h : Keeps b s0 s) :
    Keeps b s0 (State.setLinkStat s x1 x2) := by
  unfold State.setLinkStat
  repeat' first
    | with_reducible assumption | with_reducible apply State.moveHostAgent_keeps | with_reducible apply State.setLink_keeps
    | with_reducible apply State.setSysev_keeps | with_reducible apply keeps_ite
theorem State.unexpected_keeps {b : Bool} {s0 : State} (s : State) (x1 : Nat) (x2 : Nat) (h : Keeps b s0 s) :
    Keeps b s0 (State.unexpected s x1 x2) := by
  unfold State.unexpected
  repeat' first
    | with_reducible assumption | with_reducible apply State.emit_keeps | with_reducible apply State.aerReport_keeps
theorem State.discardQueue_keeps {b : Bool} {s0 : State} (s : State) (x1 : Nat) (x2 : Nat) (h : Keeps b s0 s) :
    Keeps b s0 (State.discardQueue s x1 x2) := by
  unfold State.discardQueue
  repeat' first
    | with_reducible assumption | with_reducible apply State.discard_keeps | with_reducible apply State.setLk_keeps
    | (with_reducible apply State.discardEach_keeps; intro _ _ _; try dsimp only) | with_reducible apply keeps_ite
theorem State.dropCmd_keeps {b : Bool} {s0 : State} (s : State) (x1 : Nat) (x2 : BitVec 16) (h : Keeps b s0 s) :
    Keeps b s0 (State.dropCmd s x1 x2) := by
  unfold State.dropCmd
  repeat' first | with_reducible assumption | simp only [keeps_upd, keeps_obs, keeps_aon, keeps_err, keeps_rcd]
theorem State.endEntry_keeps {b : Bool} {s0 : State} (s : State) (x1 : Nat) (x2 : FEntry) (h : Keeps b s0 s) :
    Keeps b s0 (State.endEntry s x1 x2) := by
  unfold State.endEntry
  repeat' first
    | with_reducible assumption | with_reducible apply State.metric_keeps | with_reducible apply State.setFltp_keeps
theorem State.settleEntry_keeps {b : Bool} {s0 : State} (s : State) (x1 : Nat) (x2 : FEntry) (h : Keeps b s0 s) :
    Keeps b s0 (State.settleEntry s x1 x2) := by
  unfold State.settleEntry
  repeat' first
    | with_reducible assumption | with_reducible apply State.endEntry_keeps | with_reducible apply State.setFltp_keeps
    | split
theorem State.settlePart_keeps {b : Bool} {s0 : State} (s : State) (x1 : Nat) (h : Keeps b s0 s) :
    Keeps b s0 (State.settlePart s x1) := by
  unfold State.settlePart
  repeat' first
    | with_reducible assumption | with_reducible apply State.settleEntry_keeps
    | (with_reducible apply keeps_foldl; intro _ _ _; try dsimp only)
theorem State.settle_keeps {b : Bool} {s0 : State} (s : State) (h : Keeps b s0 s) :
    Keeps b s0 (State.settle s) := by
  unfold State.settle
  repeat' first
    | with_reducible assumption | with_reducible apply State.settlePart_keeps
    | (with_reducible apply keeps_foldl; intro _ _ _; try dsimp only)
theorem State.withdrawReqs_keeps {b : Bool} {s0 : State} (s : State) (x1 : Req → Bool) (h : Keeps b s0 s) :
    Keeps b s0 (State.withdrawReqs s x1) := by
  unfold State.withdrawReqs
  repeat' first
    | with_reducible assumption | with_reducible apply State.settle_keeps | with_reducible apply State.dropReqs_keeps
theorem State.dropFetch_keeps {b : Bool} {s0 : State} (s : State) (x1 : Nat) (h : Keeps b s0 s) :
    Keeps b s0 (State.dropFetch s x1) := by
  unfold State.dropFetch
  repeat' first
    | with_reducible assumption | with_reducible apply State.modQueue_keeps | with_reducible apply State.withdrawReqs_keeps
theorem State.setCmd_keeps {b : Bool} {s0 : State} (s : State) (x1 : Cmd) (h : Keeps b s0 s) :
    Keeps b s0 (State.setCmd s x1) := by
  unfold State.setCmd
  repeat' first | with_reducible assumption | simp only [keeps_upd, keeps_obs, keeps_aon, keeps_err, keeps_rcd]
theorem State.endCmd_keeps {b : Bool} {s0 : State} (s : State) (x1 : Nat) (x2 : BitVec 16) (x3 : Nat) (x4 : Nat) (x5 : Nat) (x6 : Bytes) (x7 : Nat) (h : Keeps b s0 s) :
    Keeps b s0 (State.endCmd s x1 x2 x3 x4 x5 x6 x7) := by
  unfold State.endCmd
  repeat' first
    | with_reducible assumption | with_reducible apply State.addTrace_keeps | with_reducible apply State.dropCmd_keeps
    | with_reducible apply State.pcntAdd_keeps | with_reducible apply State.metric_keeps
    | with_reducible apply State.setCmd_keeps | simp only [keeps_upd, keeps_obs, keeps_aon, keeps_err, keeps_rcd] | split
theorem State.haltQueue_keeps {b : Bool} {s0 : State} (s : State) (x1 : Nat) (x2 : Byte) (h : Keeps b s0 s) :
    Keeps b s0 (State.haltQueue s x1 x2) := by
  unfold State.haltQueue
  repeat' first
    | with_reducible assumption | with_reducible apply State.dropFetch_keeps | with_reducible apply State.setQueue_keeps
    | with_reducible apply State.raise_keeps | with_reducible apply State.discardQueue_keeps
    | simp only [keeps_upd, keeps_obs, keeps_aon, keeps_err, keeps_rcd] | with_reducible apply keeps_ite
theorem State.makeReady_keeps {b : Bool} {s0 : State} (s : State) (x1 : Nat) (h : Keeps b s0 s) :
    Keeps b s0 (State.makeReady s x1) := by
  unfold State.makeReady
  repeat' first | with_reducible assumption | with_reducible apply State.modQueue_keeps | simp only [keeps_upd, keeps_obs, keeps_aon, keeps_err, keeps_rcd]
theorem State.makeWait_keeps {b : Bool} {s0 : State} (s : State) (x1 : Nat) (x2 : BitVec 4) (h : Keeps b s0 s) :
    Keeps b s0 (State.makeWait s x1 x2) := by
  unfold State.makeWait
  repeat' first
    | with_reducible assumption | with_reducible apply State.modQueue_keeps | with_reducible apply State.dropFetch_keeps
theorem State.noteTrip_keeps {b : Bool} {s0 : State} (s : State) (x1 : Req) (h : Keeps b s0 s) :
    Keeps b s0 (State.noteTrip s x1) := by
  unfold State.noteTrip
  repeat' first | with_reducible assumption | with_reducible apply State.metric_keeps | split
theorem State.writeRecord_keeps {b : Bool} {s0 : State} (s : State) (x1 : Cmd) (h : Keeps b s0 s) :
    Keeps b s0 (State.writeRecord s x1) := by
  unfold State.writeRecord
  repeat' first | with_reducible assumption | with_reducible apply State.addReq_keeps | with_reducible apply State.setCmd_keeps
theorem State.pumpRecords_keeps {b : Bool} {s0 : State} (s : State) (x1 : Nat) (h : Keeps b s0 s) :
    Keeps b s0 (State.pumpRecords s x1) := by
  unfold State.pumpRecords
  repeat' first | with_reducible assumption | with_reducible apply State.writeRecord_keeps | split
theorem State.readyOrIdle_keeps {b : Bool} {s0 : State} (s : State) (x1 : Nat) (h : Keeps b s0 s) :
    Keeps b s0 (State.readyOrIdle s x1) := by
  unfold State.readyOrIdle
  repeat' first
    | with_reducible assumption | with_reducible apply State.setQueue_keeps | with_reducible apply State.makeReady_keeps
    | with_reducible apply keeps_ite
theorem State.takeReads_keeps {b : Bool} {s0 : State} {s : State} {x1 : List Req} {x2 : Reply} {y : Reply} {t : State} (e : (State.takeReads s x1 x2) = some (y, t)) (h : Keeps b s0 s) :
    Keeps b s0 t := by
  unfold State.takeReads at e
  try dsimp only at e
  repeat' split at e
  all_goals try cases e; done
  all_goals first | contradiction | (simp only [Option.some.injEq, Prod.mk.injEq] at e; obtain ⟨rfl, rfl⟩ := e)
  all_goals
  repeat' first
    | with_reducible assumption | with_reducible apply State.dropReqs_keeps | with_reducible apply State.noteTrip_keeps
    | (with_reducible apply keeps_foldl; intro _ _ _; try dsimp only)
theorem State.cutPleat_keeps {b : Bool} {s0 : State} (s : State) (x1 : Nat) (x2 : Nat) (h : Keeps b s0 s) :
    Keeps b s0 (State.cutPleat s x1 x2) := by
  unfold State.cutPleat
  repeat' first | with_reducible assumption | with_reducible apply State.withdrawReqs_keeps
theorem State.dropBursts_keeps {b : Bool} {s0 : State} (s : State) (x1 : Nat) (h : Keeps b s0 s) :
    Keeps b s0 (State.dropBursts s x1) := by
  unfold State.dropBursts
  repeat' first | with_reducible assumption | with_reducible apply State.modEng_keeps
theorem State.freeEng_keeps {b : Bool} {s0 : State} (s : State) (x1 : Nat) (h : Keeps b s0 s) :
    Keeps b s0 (State.freeEng s x1) := by
  unfold State.freeEng
  repeat' first | with_reducible assumption | with_reducible apply State.modEng_keeps
theorem State.pleatEnd_keeps {b : Bool} {s0 : State} (s : State) (x1 : Nat) (x2 : Nat) (x3 : Nat) (x4 : Bytes) (h : Keeps b s0 s) :
    Keeps b s0 (State.pleatEnd s x1 x2 x3 x4) := by
  unfold State.pleatEnd
  repeat' first
    | with_reducible assumption | with_reducible apply State.setEng_keeps | with_reducible apply State.freeEng_keeps
    | with_reducible apply State.endCmd_keeps
theorem State.pleatSettle_keeps {b : Bool} {s0 : State} (s : State) (x1 : Nat) (h : Keeps b s0 s) :
    Keeps b s0 (State.pleatSettle s x1) := by
  unfold State.pleatSettle
  try dsimp only
  repeat' first
    | with_reducible assumption | with_reducible apply State.dropBursts_keeps | with_reducible apply State.freeEng_keeps
    | with_reducible apply State.endCmd_keeps | with_reducible apply State.pleatEnd_keeps
    | with_reducible apply State.setEng_keeps | with_reducible apply State.raise_keeps | split
theorem State.pleatError_keeps {b : Bool} {s0 : State} (s : State) (x1 : Nat) (x2 : Req) (x3 : Nat) (x4 : Nat) (x5 : Nat) (h : Keeps b s0 s) :
    Keeps b s0 (State.pleatError s x1 x2 x3 x4 x5) := by
  unfold State.pleatError
  repeat' first
    | with_reducible assumption | with_reducible apply State.pleatSettle_keeps | with_reducible apply State.cutPleat_keeps
    | with_reducible apply State.setEng_keeps | with_reducible apply State.raise_keeps
    | simp only [keeps_upd, keeps_obs, keeps_aon, keeps_err, keeps_rcd]
    | with_reducible apply keeps_ite
theorem State.pleatFence_keeps {b : Bool} {s0 : State} (s : State) (x1 : Nat) (h : Keeps b s0 s) :
    Keeps b s0 (State.pleatFence s x1) := by
  unfold State.pleatFence
  repeat' first
    | with_reducible assumption | with_reducible apply State.withdrawReqs_keeps
    | with_reducible apply State.pleatSettle_keeps | with_reducible apply State.modEng_keeps
theorem State.pleatWrites_keeps {b : Bool} {s0 : State} (x0 : Nat) (x1 : Nat) (s : State) (h : Keeps b s0 s) :
    Keeps b s0 (State.pleatWrites x0 x1 s) := by
  induction x1 generalizing s with
  | zero => exact h
  | succ k ih =>
    unfold State.pleatWrites; try dsimp only
    repeat' first | with_reducible assumption | with_reducible apply ih | with_reducible apply State.modEng_keeps | with_reducible apply State.addReq_keeps | with_reducible apply keeps_ite | split
theorem State.pleatUnstall_keeps {b : Bool} {s0 : State} (s : State) (x1 : Nat) (h : Keeps b s0 s) :
    Keeps b s0 (State.pleatUnstall s x1) := by
  unfold State.pleatUnstall
  repeat' first
    | with_reducible assumption | with_reducible apply State.pleatSettle_keeps | with_reducible apply State.pleatWrites_keeps
    | with_reducible apply State.setEng_keeps | with_reducible apply keeps_ite
theorem State.pleatIssued_keeps {b : Bool} {s0 : State} (s : State) (x1 : Nat) (h : Keeps b s0 s) :
    Keeps b s0 (State.pleatIssued s x1) := by
  unfold State.pleatIssued
  repeat' first
    | with_reducible assumption | with_reducible apply State.pleatSettle_keeps
    | with_reducible apply State.pleatUnstall_keeps
theorem State.pleatKill_keeps {b : Bool} {s0 : State} (s : State) (x1 : Nat) (h : Keeps b s0 s) :
    Keeps b s0 (State.pleatKill s x1) := by
  unfold State.pleatKill
  repeat' first
    | with_reducible assumption | with_reducible apply State.withdrawReqs_keeps
    | with_reducible apply State.pleatSettle_keeps | with_reducible apply State.modEng_keeps
theorem State.pleatRetry_keeps {b : Bool} {s0 : State} (s : State) (x1 : Nat) (h : Keeps b s0 s) :
    Keeps b s0 (State.pleatRetry s x1) := by
  unfold State.pleatRetry
  repeat' first | with_reducible assumption | with_reducible apply State.modEng_keeps
theorem State.pleatRelease_keeps {b : Bool} {s0 : State} (s : State) (x1 : Nat) (h : Keeps b s0 s) :
    Keeps b s0 (State.pleatRelease s x1) := by
  unfold State.pleatRelease
  repeat' first | with_reducible assumption | with_reducible apply State.pleatEnd_keeps
theorem State.pleatLater_keeps {b : Bool} {s0 : State} (s : State) (x1 : Nat) (h : Keeps b s0 s) :
    Keeps b s0 (State.pleatLater s x1) := by
  unfold State.pleatLater
  repeat' first
    | with_reducible assumption | with_reducible apply State.pleatRetry_keeps | with_reducible apply State.pleatRelease_keeps
    | split
theorem State.pleatStall_keeps {b : Bool} {s0 : State} (s : State) (x1 : Nat) (x2 : Req) (h : Keeps b s0 s) :
    Keeps b s0 (State.pleatStall s x1 x2) := by
  unfold State.pleatStall
  try dsimp only
  repeat' first | with_reducible assumption | with_reducible apply State.setEng_keeps | split
theorem State.pleatUnserviceable_keeps {b : Bool} {s0 : State} (s : State) (x1 : Nat) (x2 : Req) (x3 : Nat) (x4 : Nat) (x5 : Nat) (h : Keeps b s0 s) :
    Keeps b s0 (State.pleatUnserviceable s x1 x2 x3 x4 x5) := by
  unfold State.pleatUnserviceable
  repeat' first
    | with_reducible assumption | with_reducible apply State.setEng_keeps | with_reducible apply State.pleatSettle_keeps
    | with_reducible apply State.cutPleat_keeps | with_reducible apply keeps_ite
theorem State.addCut_keeps {b : Bool} {s0 : State} (s : State) (x1 : Nat) (x2 : Owner) (x3 : Nat) (x4 : Nat) (x5 : Nat) (x6 : Nat) (x7 : Nat) (x8 : Acc) (h : Keeps b s0 s) :
    Keeps b s0 (State.addCut s x1 x2 x3 x4 x5 x6 x7 x8) := by
  unfold State.addCut
  repeat' first
    | with_reducible assumption | with_reducible apply State.addReq_keeps
    | (with_reducible apply keeps_foldl; intro _ _ _; try dsimp only)
theorem State.addReads_keeps {b : Bool} {s0 : State} (s : State) (x1 : Owner) (x2 : Nat) (x3 : Nat) (x4 : Nat) (x5 : Nat) (x6 : Nat) (x7 : Acc) (h : Keeps b s0 s) :
    Keeps b s0 (State.addReads s x1 x2 x3 x4 x5 x6 x7) := by
  unfold State.addReads
  repeat' first | with_reducible assumption | with_reducible apply State.addCut_keeps
theorem State.admitGo_keeps {b : Bool} {s0 : State} (x0 : Nat) (x1 : Bytes) (x2 : Bytes) (x3 : Nat) (s : State) (h : Keeps b s0 s) :
    Keeps b s0 (State.admitGo x0 x1 x2 x3 s) := by
  induction x3 generalizing s with
  | zero => exact h
  | succ k ih =>
    unfold State.admitGo; try dsimp only
    repeat' first | with_reducible assumption | with_reducible apply ih | with_reducible apply State.setComp_keeps | with_reducible apply keeps_ite | split
theorem State.admitAll_keeps {b : Bool} {s0 : State} (x0 : Nat) (x1 : Bytes) (x2 : Bytes) (x3 : Nat) (s : State) (h : Keeps b s0 s) :
    Keeps b s0 (State.admitAll x0 x1 x2 x3 s) := by
  induction x3 generalizing s with
  | zero => exact h
  | succ k ih =>
    unfold State.admitAll; dsimp only
    have h1 := State.admitGo_keeps x0 x1 x2 (((s.comp x0).nidx) + 1 - ((s.comp x0).adm)) s h
    generalize State.admitGo x0 x1 x2 _ s = t at h1 ⊢
    split
    · exact ih _ (State.setComp_keeps _ _ _ h1)
    · exact h1
theorem State.compRead_keeps {b : Bool} {s0 : State} (s : State) (x1 : Nat) (x2 : Owner) (x3 : Nat) (x4 : Nat) (x5 : Acc) (h : Keeps b s0 s) :
    Keeps b s0 (State.compRead s x1 x2 x3 x4 x5) := by
  unfold State.compRead
  repeat' first | with_reducible assumption | with_reducible apply State.addCut_keeps
theorem State.askRow_keeps {b : Bool} {s0 : State} (s : State) (x1 : Nat) (x2 : Bytes) (x3 : Bytes) (x4 : Dist) (h : Keeps b s0 s) :
    Keeps b s0 (State.askRow s x1 x2 x3 x4) := by
  unfold State.askRow
  repeat' first
    | with_reducible assumption | with_reducible apply State.setComp_keeps | with_reducible apply State.compRead_keeps
    | split
theorem State.askStreams_keeps {b : Bool} {s0 : State} (s : State) (x1 : Nat) (h : Keeps b s0 s) :
    Keeps b s0 (State.askStreams s x1) := by
  unfold State.askStreams
  repeat' first
    | with_reducible assumption | with_reducible apply State.compRead_keeps | with_reducible apply keeps_ite
    | (with_reducible apply keeps_foldl; intro _ _ _; try dsimp only)
theorem State.freeComp_keeps {b : Bool} {s0 : State} (s : State) (x1 : Nat) (h : Keeps b s0 s) :
    Keeps b s0 (State.freeComp s x1) := by
  unfold State.freeComp
  repeat' first | with_reducible assumption | with_reducible apply State.setComp_keeps
theorem State.unpin_keeps {b : Bool} {s0 : State} (s : State) (x1 : Nat) (x2 : Bool) (h : Keeps b s0 s) :
    Keeps b s0 (State.unpin s x1 x2) := by
  unfold State.unpin
  repeat' first | with_reducible assumption | with_reducible apply State.setTable_keeps
theorem State.compEnd_keeps {b : Bool} {s0 : State} (s : State) (x1 : Nat) (h : Keeps b s0 s) :
    Keeps b s0 (State.compEnd s x1) := by
  unfold State.compEnd
  repeat' first
    | with_reducible assumption | with_reducible apply State.discard_keeps | with_reducible apply State.unpin_keeps
    | with_reducible apply State.setComp_keeps | with_reducible apply State.freeComp_keeps
    | with_reducible apply State.endCmd_keeps
theorem State.compSettle_keeps {b : Bool} {s0 : State} (s : State) (x1 : Nat) (h : Keeps b s0 s) :
    Keeps b s0 (State.compSettle s x1) := by
  unfold State.compSettle
  repeat' first
    | with_reducible assumption | with_reducible apply State.freeComp_keeps | with_reducible apply State.endCmd_keeps
    | with_reducible apply State.unpin_keeps | with_reducible apply State.compEnd_keeps
    | with_reducible apply State.setComp_keeps | with_reducible apply keeps_ite
theorem State.nextRow_keeps {b : Bool} {s0 : State} (s : State) (x1 : Nat) (x2 : Bytes) (x3 : Bytes) (h : Keeps b s0 s) :
    Keeps b s0 (State.nextRow s x1 x2 x3) := by
  unfold State.nextRow
  repeat' first | with_reducible assumption | with_reducible apply State.askRow_keeps | split
theorem State.compAdvance_keeps {b : Bool} {s0 : State} (s : State) (x1 : Nat) (h : Keeps b s0 s) :
    Keeps b s0 (State.compAdvance s x1) := by
  unfold State.compAdvance
  try dsimp only
  repeat' first
    | with_reducible assumption | with_reducible apply State.compSettle_keeps | with_reducible apply State.askStreams_keeps
    | with_reducible apply State.admitAll_keeps | with_reducible apply State.setComp_keeps
    | with_reducible apply State.compRead_keeps | with_reducible apply State.nextRow_keeps
    | with_reducible apply State.askRow_keeps | with_reducible apply keeps_ite
    | (with_reducible apply keeps_foldl; intro _ _ _; try dsimp only) | split
theorem State.dropUnissued_keeps {b : Bool} {s0 : State} (s : State) (x1 : Nat) (h : Keeps b s0 s) :
    Keeps b s0 (State.dropUnissued s x1) := by
  unfold State.dropUnissued
  repeat' first | with_reducible assumption | with_reducible apply State.withdrawReqs_keeps
theorem State.compRun_keeps {b : Bool} {s0 : State} (x0 : Nat) (x1 : Nat) (s : State) (h : Keeps b s0 s) :
    Keeps b s0 (State.compRun x0 x1 s) := by
  induction x1 generalizing s with
  | zero => exact h
  | succ k ih =>
    unfold State.compRun; try dsimp only
    repeat' first | with_reducible assumption | with_reducible apply ih | with_reducible apply State.compAdvance_keeps | with_reducible apply keeps_ite | split
theorem State.compGo_keeps {b : Bool} {s0 : State} (s : State) (x1 : Nat) (h : Keeps b s0 s) :
    Keeps b s0 (State.compGo s x1) := by
  unfold State.compGo
  repeat' first | with_reducible assumption | with_reducible apply State.compRun_keeps
theorem State.cutComp_keeps {b : Bool} {s0 : State} (s : State) (x1 : Nat) (h : Keeps b s0 s) :
    Keeps b s0 (State.cutComp s x1) := by
  unfold State.cutComp
  repeat' first | with_reducible assumption | with_reducible apply State.withdrawReqs_keeps
theorem State.compError_keeps {b : Bool} {s0 : State} (s : State) (x1 : Nat) (x2 : Req) (h : Keeps b s0 s) :
    Keeps b s0 (State.compError s x1 x2) := by
  unfold State.compError
  try dsimp only
  repeat' first
    | with_reducible assumption | with_reducible apply State.compSettle_keeps | with_reducible apply State.dropUnissued_keeps
    | with_reducible apply State.setComp_keeps | with_reducible apply State.compGo_keeps
    | with_reducible apply State.cutComp_keeps | split
theorem State.compFence_keeps {b : Bool} {s0 : State} (s : State) (x1 : Nat) (h : Keeps b s0 s) :
    Keeps b s0 (State.compFence s x1) := by
  unfold State.compFence
  repeat' first
    | with_reducible assumption | with_reducible apply State.setComp_keeps | with_reducible apply State.compSettle_keeps
    | with_reducible apply State.dropUnissued_keeps
theorem State.compKill_keeps {b : Bool} {s0 : State} (s : State) (x1 : Nat) (h : Keeps b s0 s) :
    Keeps b s0 (State.compKill s x1) := by
  unfold State.compKill
  repeat' first
    | with_reducible assumption | with_reducible apply State.compSettle_keeps | with_reducible apply State.dropUnissued_keeps
    | with_reducible apply State.setComp_keeps
theorem State.compStall_keeps {b : Bool} {s0 : State} (s : State) (x1 : Nat) (x2 : Req) (h : Keeps b s0 s) :
    Keeps b s0 (State.compStall s x1 x2) := by
  unfold State.compStall
  repeat' first | with_reducible assumption | with_reducible apply State.setComp_keeps | with_reducible apply keeps_ite
theorem State.compUnserviceable_keeps {b : Bool} {s0 : State} (s : State) (x1 : Nat) (x2 : Req) (x3 : Nat) (x4 : Nat) (x5 : Nat) (h : Keeps b s0 s) :
    Keeps b s0 (State.compUnserviceable s x1 x2 x3 x4 x5) := by
  unfold State.compUnserviceable
  repeat' first
    | with_reducible assumption | with_reducible apply State.setComp_keeps | with_reducible apply State.compSettle_keeps
    | with_reducible apply State.dropUnissued_keeps
theorem State.compUnstall_keeps {b : Bool} {s0 : State} (s : State) (x1 : Nat) (h : Keeps b s0 s) :
    Keeps b s0 (State.compUnstall s x1) := by
  unfold State.compUnstall
  repeat' first
    | with_reducible assumption | with_reducible apply State.compGo_keeps | with_reducible apply State.setComp_keeps
    | with_reducible apply keeps_ite
theorem State.uncount_keeps {b : Bool} {s0 : State} (s : State) (x1 : Nat) (x2 : Req) (h : Keeps b s0 s) :
    Keeps b s0 (State.uncount s x1 x2) := by
  unfold State.uncount
  repeat' first | with_reducible assumption | with_reducible apply State.modQueue_keeps | with_reducible apply keeps_ite
theorem State.recordFails_keeps {b : Bool} {s0 : State} (s : State) (x1 : Nat) (x2 : BitVec 16) (h : Keeps b s0 s) :
    Keeps b s0 (State.recordFails s x1 x2) := by
  unfold State.recordFails
  repeat' first
    | with_reducible assumption | with_reducible apply State.pumpRecords_keeps | with_reducible apply State.dropCmd_keeps
    | with_reducible apply State.haltQueue_keeps
theorem State.tileFails_keeps {b : Bool} {s0 : State} (s : State) (x1 : Req) (x2 : Nat) (x3 : Nat) (x4 : ECode) (h : Keeps b s0 s) :
    Keeps b s0 (State.tileFails s x1 x2 x3 x4) := by
  unfold State.tileFails
  repeat' first
    | with_reducible assumption | with_reducible apply State.emit_keeps | with_reducible apply State.withdrawReqs_keeps
    | with_reducible apply keeps_ite
theorem State.bounce_keeps {b : Bool} {s0 : State} (s : State) (x1 : Req) (x2 : Nat) (x3 : Nat) (x4 : ECode) (h : Keeps b s0 s) :
    Keeps b s0 (State.bounce s x1 x2 x3 x4) := by
  unfold State.bounce
  repeat' first
    | with_reducible assumption | with_reducible apply State.withdrawReqs_keeps | with_reducible apply State.haltQueue_keeps
    | with_reducible apply State.uncount_keeps | with_reducible apply State.recordFails_keeps
    | with_reducible apply State.pleatError_keeps | with_reducible apply State.endCmd_keeps
    | with_reducible apply State.tileFails_keeps | with_reducible apply State.emit_keeps
    | with_reducible apply State.compError_keeps | split
theorem State.bounceAt_keeps {b : Bool} {s0 : State} (s : State) (x1 : Req) (x2 : Out) (x3 : ECode) (h : Keeps b s0 s) :
    Keeps b s0 (State.bounceAt s x1 x2 x3) := by
  unfold State.bounceAt
  repeat' first | with_reducible assumption | with_reducible apply State.bounce_keeps
theorem State.unserviceable_keeps {b : Bool} {s0 : State} (s : State) (x1 : Req) (x2 : Nat) (x3 : Nat) (h : Keeps b s0 s) :
    Keeps b s0 (State.unserviceable s x1 x2 x3) := by
  unfold State.unserviceable
  repeat' first
    | with_reducible assumption | with_reducible apply State.endCmd_keeps | with_reducible apply State.haltQueue_keeps
    | with_reducible apply State.recordFails_keeps | with_reducible apply State.pleatUnserviceable_keeps
    | with_reducible apply State.tileFails_keeps | with_reducible apply State.compUnserviceable_keeps | split
theorem State.giveUp_keeps {b : Bool} {s0 : State} (s : State) (x1 : List Req) (x2 : Nat) (x3 : Nat) (h : Keeps b s0 s) :
    Keeps b s0 (State.giveUp s x1 x2 x3) := by
  unfold State.giveUp
  repeat' first
    | with_reducible assumption | with_reducible apply State.unserviceable_keeps | with_reducible apply State.dropReq_keeps
    | (with_reducible apply keeps_foldl; intro _ _ _; try dsimp only)
theorem State.endUnserviceable_keeps {b : Bool} {s0 : State} (s : State) (x1 : Nat) (x2 : FEntry) (x3 : Nat) (h : Keeps b s0 s) :
    Keeps b s0 (State.endUnserviceable s x1 x2 x3) := by
  unfold State.endUnserviceable
  repeat' first
    | with_reducible assumption | with_reducible apply State.giveUp_keeps | with_reducible apply State.endEntry_keeps
theorem State.ringFault_keeps {b : Bool} {s0 : State} (s : State) (x1 : Nat) (x2 : Nat) (h : Keeps b s0 s) :
    Keeps b s0 (State.ringFault s x1 x2) := by
  unfold State.ringFault
  repeat' first
    | with_reducible assumption | with_reducible apply State.modQueue_keeps | with_reducible apply State.withdrawReqs_keeps
theorem State.stallFor_keeps {b : Bool} {s0 : State} (s : State) (x1 : Req) (h : Keeps b s0 s) :
    Keeps b s0 (State.stallFor s x1) := by
  unfold State.stallFor
  repeat' first
    | with_reducible assumption | with_reducible apply State.ringFault_keeps | with_reducible apply State.uncount_keeps
    | with_reducible apply State.pleatStall_keeps | with_reducible apply State.compStall_keeps | split
theorem State.takeEntry_keeps {b : Bool} {s0 : State} (s : State) (x1 : Req) (x2 : Nat) (x3 : Nat) (x4 : Bool) (h : Keeps b s0 s) :
    Keeps b s0 (State.takeEntry s x1 x2 x3 x4) := by
  unfold State.takeEntry
  repeat' first
    | with_reducible assumption | with_reducible apply State.setFltp_keeps | with_reducible apply State.pcntAdd_keeps
    | with_reducible apply State.setReq_keeps
theorem State.raiseFault_keeps {b : Bool} {s0 : State} (s : State) (x1 : Req) (x2 : Nat) (x3 : Nat) (x4 : W64) (h : Keeps b s0 s) :
    Keeps b s0 (State.raiseFault s x1 x2 x3 x4) := by
  unfold State.raiseFault
  try dsimp only
  repeat' first
    | with_reducible assumption | with_reducible apply State.stallFor_keeps | with_reducible apply State.setReq_keeps
    | with_reducible apply State.giveUp_keeps | with_reducible apply State.takeEntry_keeps
    | with_reducible apply State.setFltp_keeps | split
theorem State.routeEntry_keeps {b : Bool} {s0 : State} (s : State) (x1 : Nat) (x2 : FEntry) (h : Keeps b s0 s) :
    Keeps b s0 (State.routeEntry s x1 x2) := by
  unfold State.routeEntry
  repeat' first
    | with_reducible assumption | with_reducible apply State.endUnserviceable_keeps
    | with_reducible apply State.modFltp_keeps | with_reducible apply keeps_ite
theorem State.routeStale_keeps {b : Bool} {s0 : State} (s : State) (x1 : Nat) (h : Keeps b s0 s) :
    Keeps b s0 (State.routeStale s x1) := by
  unfold State.routeStale
  repeat' first
    | with_reducible assumption | with_reducible apply State.routeEntry_keeps
    | (with_reducible apply keeps_foldl; intro _ _ _; try dsimp only) | split
theorem State.settleOne_keeps {b : Bool} {s0 : State} (s : State) (x1 : Nat) (x2 : Nat) (h : Keeps b s0 s) :
    Keeps b s0 (State.settleOne s x1 x2) := by
  unfold State.settleOne
  repeat' first
    | with_reducible assumption | with_reducible apply State.routeStale_keeps | with_reducible apply State.settleEntry_keeps
    | split
theorem State.fault_keeps {b : Bool} {s0 : State} (s : State) (x1 : Req) (x2 : Nat) (x3 : Nat) (x4 : W64) (h : Keeps b s0 s) :
    Keeps b s0 (State.fault s x1 x2 x3 x4) := by
  unfold State.fault
  repeat' first
    | with_reducible assumption | with_reducible apply State.raiseFault_keeps | with_reducible apply State.settleOne_keeps
    | with_reducible apply State.setReq_keeps | split
theorem State.hostPiece_keeps {b : Bool} {s0 : State} (s : State) (x1 : Req) (x2 : Nat) (x3 : Bool) (x4 : Nat) (x5 : Reply) (h : Keeps b s0 s) :
    Keeps b s0 (State.hostPiece s x1 x2 x3 x4 x5) := by
  unfold State.hostPiece
  try dsimp only
  repeat' first
    | with_reducible assumption | with_reducible apply State.setReq_keeps | with_reducible apply State.metric_keeps
    | with_reducible apply State.handOn_keeps | split
theorem State.replayed_keeps {b : Bool} {s0 : State} (s : State) (x1 : Req) (h : Keeps b s0 s) :
    Keeps b s0 (State.replayed s x1) := by
  unfold State.replayed
  repeat' first
    | with_reducible assumption | with_reducible apply State.settleOne_keeps | with_reducible apply State.setReq_keeps
    | split
theorem State.issuedHook_keeps {b : Bool} {s0 : State} (s : State) (x1 : Req) (h : Keeps b s0 s) :
    Keeps b s0 (State.issuedHook s x1) := by
  unfold State.issuedHook
  repeat' first
    | with_reducible assumption | with_reducible apply State.replayed_keeps | with_reducible apply State.pleatIssued_keeps
    | with_reducible apply State.compUnstall_keeps | split
theorem State.noteRow_keeps {b : Bool} {s0 : State} (s : State) (x1 : Req) (x2 : Out) (h : Keeps b s0 s) :
    Keeps b s0 (State.noteRow s x1 x2) := by
  unfold State.noteRow
  repeat' first | with_reducible assumption | with_reducible apply State.modComp_keeps | split
theorem State.regsAccess_keeps {b : Bool} {s0 : State} (s : State) (x1 : Req) (x2 : Out) (h : Keeps b s0 s) :
    Keeps b s0 (State.regsAccess s x1 x2) := by
  unfold State.regsAccess
  repeat' first
    | with_reducible assumption | with_reducible apply State.useFree_keeps | with_reducible apply State.bounceAt_keeps
    | with_reducible apply State.handOn_keeps | with_reducible apply State.issuedHook_keeps
    | with_reducible apply State.noteRow_keeps | with_reducible apply State.setReq_keeps | with_reducible apply keeps_ite
theorem State.noteHost_keeps {b : Bool} {s0 : State} (s : State) (x1 : Req) (x2 : Nat) (x3 : HostAt) (h : Keeps b s0 s) :
    Keeps b s0 (State.noteHost s x1 x2 x3) := by
  unfold State.noteHost
  try dsimp only
  repeat' first | with_reducible assumption | with_reducible apply State.setCmd_keeps | split
theorem State.sendHost_keeps {b : Bool} {s0 : State} (s : State) (x1 : Req) (x2 : Nat) (x3 : Bool) (h : Keeps b s0 s) :
    Keeps b s0 (State.sendHost s x1 x2 x3) := by
  unfold State.sendHost
  repeat' first
    | with_reducible assumption | with_reducible apply State.setReq_keeps | with_reducible apply State.noteHost_keeps
    | with_reducible apply State.hostWrite_keeps | with_reducible apply State.watchHost_keeps
    | with_reducible apply State.emit_keeps | with_reducible apply State.hostReads_keeps | split
theorem State.performNow_keeps {b : Bool} {s0 : State} (s : State) (x1 : Nat) (x2 : Nat) (h : Keeps b s0 s) :
    Keeps b s0 (State.performNow s x1 x2) := by
  unfold State.performNow
  repeat' first
    | with_reducible assumption | with_reducible refine State.writeBack_keeps (by assumption) ?_
    | with_reducible apply State.handOn_keeps | with_reducible apply State.setReq_keeps
    | with_reducible apply State.performAtomic_keeps | with_reducible refine State.performAtomic_keepsEq (by assumption) ?_
    | split
theorem State.issueTo_keeps {b : Bool} {s0 : State} (s : State) (x1 : Req) (x2 : Out) (h : Keeps b s0 s) :
    Keeps b s0 (State.issueTo s x1 x2) := by
  unfold State.issueTo
  try dsimp only
  repeat' first
    | with_reducible assumption | with_reducible apply State.chargeTo_keeps | with_reducible apply State.metric_keeps
    | with_reducible apply State.setQueue_keeps | with_reducible apply State.sendHost_keeps
    | with_reducible apply State.setReq_keeps | with_reducible apply State.issuedHook_keeps
    | with_reducible apply State.performNow_keeps | with_reducible apply State.handOn_keeps | split
theorem State.tryIssue_keeps {b : Bool} {s0 : State} (s : State) (x1 : Req) (x2 : Out) (h : Keeps b s0 s) :
    Keeps b s0 (State.tryIssue s x1 x2) := by
  unfold State.tryIssue
  repeat' first
    | with_reducible assumption | with_reducible apply State.bounceAt_keeps | with_reducible apply State.replayed_keeps
    | with_reducible apply State.setReq_keeps | with_reducible apply State.issuedHook_keeps
    | with_reducible apply State.issueTo_keeps | with_reducible apply keeps_ite
theorem State.release_keeps {b : Bool} {s0 : State} (s : State) (x1 : Req → Bool) (h : Keeps b s0 s) :
    Keeps b s0 (State.release s x1) := by
  unfold State.release
  repeat' first
    | with_reducible assumption | with_reducible apply State.tryIssue_keeps
    | (with_reducible apply keeps_foldl; intro _ _ _; try dsimp only) | split
theorem State.translated_keeps {b : Bool} {s0 : State} (s : State) (x1 : Req) (x2 : Out) (h : Keeps b s0 s) :
    Keeps b s0 (State.translated s x1 x2) := by
  unfold State.translated
  repeat' first
    | with_reducible assumption | with_reducible apply State.makeReady_keeps | with_reducible apply State.withdrawReqs_keeps
    | with_reducible apply State.endCmd_keeps | with_reducible apply State.bounceAt_keeps
    | with_reducible apply State.isolation_keeps | with_reducible apply State.regsAccess_keeps
    | with_reducible apply State.useFree_keeps | with_reducible apply State.release_keeps
    | with_reducible apply State.replayed_keeps | with_reducible apply State.noteRow_keeps
    | with_reducible apply State.setReq_keeps | with_reducible apply State.tryIssue_keeps | split
theorem State.issuePhys_keeps {b : Bool} {s0 : State} (s : State) (x1 : Owner) (x2 : Nat) (x3 : Nat) (x4 : Nat) (x5 : Nat) (x6 : Acc) (h : Keeps b s0 s) :
    Keeps b s0 (State.issuePhys s x1 x2 x3 x4 x5 x6) := by
  unfold State.issuePhys
  try dsimp only
  repeat' first
    | with_reducible assumption | with_reducible apply State.addPhys_keeps | with_reducible apply State.translated_keeps
    | split
theorem State.orphanPiece_keeps {b : Bool} {s0 : State} (s : State) (x1 : Req) (x2 : Nat) (x3 : Reply) (h : Keeps b s0 s) :
    Keeps b s0 (State.orphanPiece s x1 x2 x3) := by
  unfold State.orphanPiece
  repeat' first | with_reducible assumption | simp only [keeps_upd, keeps_obs, keeps_aon, keeps_err, keeps_rcd] | split
theorem State.posted_keeps {b : Bool} {s0 : State} (s : State) (x1 : Req) (x2 : Nat) (h : Keeps b s0 s) :
    Keeps b s0 (State.posted s x1 x2) := by
  unfold State.posted
  repeat' first
    | with_reducible assumption | with_reducible apply State.endCmd_keeps | with_reducible apply State.dropReq_keeps
    | with_reducible apply State.handOn_keeps | with_reducible apply State.setReq_keeps | split
theorem State.strayCpl_keeps {b : Bool} {s0 : State} (s : State) (x1 : Nat) (x2 : Nat) (x3 : Nat) (x4 : Reply) (h : Keeps b s0 s) :
    Keeps b s0 (State.strayCpl s x1 x2 x3 x4) := by
  unfold State.strayCpl
  repeat' first
    | with_reducible assumption | with_reducible apply State.orphanPiece_keeps | with_reducible apply State.metric_keeps
    | with_reducible apply State.unexpected_keeps | with_reducible apply State.setLk_keeps
    | with_reducible apply State.loseProof_keeps | simp only [keeps_upd, keeps_obs, keeps_aon, keeps_err, keeps_rcd] | split
theorem State.useProofs_keeps {b : Bool} {s0 : State} (s : State) (x1 : Nat) (x2 : List Nat) (h : Keeps b s0 s) :
    Keeps b s0 (State.useProofs s x1 x2) := by
  unfold State.useProofs
  repeat' first | with_reducible assumption | with_reducible apply State.setLk_keeps | simp only [keeps_upd, keeps_obs, keeps_aon, keeps_err, keeps_rcd]
theorem State.fromProof_keeps {b : Bool} {s0 : State} {s : State} {x1 : Req} {t : State} (e : (State.fromProof s x1) = some t) (h : Keeps b s0 s) :
    Keeps b s0 t := by
  unfold State.fromProof at e
  try dsimp only at e
  repeat' split at e
  all_goals try cases e; done
  all_goals first | contradiction | (simp only [Option.some.injEq] at e; subst e)
  all_goals
  repeat' first
    | with_reducible assumption | with_reducible apply State.useProofs_keeps | with_reducible apply State.setReq_keeps
theorem State.setTrn_keeps {b : Bool} {s0 : State} (s : State) (x1 : Trn) (h : Keeps b s0 s) :
    Keeps b s0 (State.setTrn s x1) := by
  unfold State.setTrn
  repeat' first | with_reducible assumption | simp only [keeps_upd, keeps_obs, keeps_aon, keeps_err, keeps_rcd]
theorem State.discardPart_keeps {b : Bool} {s0 : State} (s : State) (x1 : Nat) (x2 : Nat) (h : Keeps b s0 s) :
    Keeps b s0 (State.discardPart s x1 x2) := by
  unfold State.discardPart
  repeat' first
    | with_reducible assumption | with_reducible apply State.discardHits_keeps
    | (with_reducible apply State.discardEach_keeps; intro _ _ _; try dsimp only) | with_reducible apply keeps_ite
theorem State.numberInv_keeps {b : Bool} {s0 : State} (s : State) (x1 : Nat) (x2 : InvScope) (x3 : InvFrom) (h : Keeps b s0 s) :
    Keeps b s0 (State.numberInv s x1 x2 x3) := by
  unfold State.numberInv
  repeat' first
    | with_reducible assumption | with_reducible apply State.setTrn_keeps | with_reducible apply State.discardPart_keeps
    | with_reducible apply State.wake_keeps | with_reducible apply keeps_ite
theorem State.acceptInv_keeps {b : Bool} {s0 : State} (s : State) (x1 : Nat) (x2 : InvScope) (x3 : InvFrom) (h : Keeps b s0 s) :
    Keeps b s0 (State.acceptInv s x1 x2 x3) := by
  unfold State.acceptInv
  try dsimp only
  repeat' first
    | with_reducible assumption | with_reducible apply State.setTrn_keeps | with_reducible apply State.numberInv_keeps
    | split
theorem State.addTile_keeps {b : Bool} {s0 : State} (s : State) (x1 : Nat) (x2 : Nat) (x3 : Nat) (x4 : Nat) (x5 : Acc) (x6 : Nat) (x7 : Bytes) (x8 : AtomOp) (x9 : W64) (x10 : W64) (h : Keeps b s0 s) :
    Keeps b s0 (State.addTile s x1 x2 x3 x4 x5 x6 x7 x8 x9 x10) := by
  unfold State.addTile
  repeat' first
    | with_reducible assumption | simp only [keeps_upd, keeps_obs, keeps_aon, keeps_err, keeps_rcd]
    | (with_reducible apply keeps_foldl; intro _ _ _; try dsimp only)
theorem State.walkMetric_keeps {b : Bool} {s0 : State} (s : State) (x1 : Walk) (h : Keeps b s0 s) :
    Keeps b s0 (State.walkMetric s x1) := by
  unfold State.walkMetric
  repeat' first | with_reducible assumption | with_reducible apply State.metric_keeps | with_reducible apply keeps_ite
theorem State.dropWalk_keeps {b : Bool} {s0 : State} (s : State) (x1 : Nat) (h : Keeps b s0 s) :
    Keeps b s0 (State.dropWalk s x1) := by
  unfold State.dropWalk
  repeat' first
    | with_reducible assumption | with_reducible apply State.setTrn_keeps | with_reducible apply State.dropReqs_keeps
theorem State.walkFault_keeps {b : Bool} {s0 : State} (s : State) (x1 : Walk) (x2 : Nat) (x3 : Nat) (x4 : W64) (h : Keeps b s0 s) :
    Keeps b s0 (State.walkFault s x1 x2 x3 x4) := by
  unfold State.walkFault
  repeat' first
    | with_reducible assumption | with_reducible apply State.fault_keeps | with_reducible apply State.walkMetric_keeps
    | with_reducible apply State.dropWalk_keeps | (with_reducible apply keeps_foldl; intro _ _ _; try dsimp only) | split
theorem State.walkGives_keeps {b : Bool} {s0 : State} (s : State) (w : Walk) (k : State → Req → State)
    (hk : ∀ s r, Keeps b s0 s → Keeps b s0 (k s r)) (h : Keeps b s0 s) : Keeps b s0 (s.walkGives w k) := by
  unfold State.walkGives
  refine keeps_foldl _ (fun s r hs => ?_) _ _ (State.dropWalk_keeps _ _ h)
  split
  · exact hk _ _ hs
  · exact hs
theorem State.putWalk_keeps {b : Bool} {s0 : State} (s : State) (x1 : Walk) (h : Keeps b s0 s) :
    Keeps b s0 (State.putWalk s x1) := by
  unfold State.putWalk
  repeat' first | with_reducible assumption | with_reducible apply State.setTrn_keeps
theorem State.walkEnd_keeps {b : Bool} {s0 : State} (s : State) (x1 : Walk) (x2 : ECode) (h : Keeps b s0 s) :
    Keeps b s0 (State.walkEnd s x1 x2) := by
  unfold State.walkEnd
  repeat' first
    | with_reducible assumption | with_reducible apply State.bounce_keeps | with_reducible apply State.isolation_keeps
    | with_reducible apply State.dropWalk_keeps | (with_reducible apply keeps_foldl; intro _ _ _; try dsimp only) | split
theorem State.walkSend_keeps {b : Bool} {s0 : State} (s : State) (x1 : Walk) (h : Keeps b s0 s) :
    Keeps b s0 (State.walkSend s x1) := by
  unfold State.walkSend
  repeat' first
    | with_reducible assumption | with_reducible apply State.walkGives_keeps | with_reducible apply State.translated_keeps
    | with_reducible apply State.walkFault_keeps | with_reducible apply State.setReq_keeps
    | with_reducible apply State.emit_keeps | with_reducible apply State.putWalk_keeps
    | with_reducible apply State.walkEnd_keeps | with_reducible apply State.proofCharge_keeps
    | with_reducible apply State.chargeTo_keeps | with_reducible apply State.addPhys_keeps
    | simp only [keeps_upd, keeps_obs, keeps_aon, keeps_err, keeps_rcd]
    | split | intro _ _ _
theorem State.restartWalk_keeps {b : Bool} {s0 : State} (s : State) (x1 : Walk) (h : Keeps b s0 s) :
    Keeps b s0 (State.restartWalk s x1) := by
  unfold State.restartWalk
  repeat' first
    | with_reducible assumption | with_reducible apply State.walkFault_keeps | with_reducible apply State.dropReqs_keeps
    | with_reducible apply State.walkSend_keeps | with_reducible apply State.putWalk_keeps | with_reducible apply keeps_ite
theorem State.walkLeaf_keeps {b : Bool} {s0 : State} (s : State) (x1 : Walk) (x2 : XEntry) (h : Keeps b s0 s) :
    Keeps b s0 (State.walkLeaf s x1 x2) := by
  unfold State.walkLeaf
  repeat' first
    | with_reducible assumption | with_reducible apply State.putWalk_keeps | with_reducible apply State.fault_keeps
    | with_reducible apply State.walkFault_keeps | (with_reducible apply keeps_foldl; intro _ _ _; try dsimp only) | split
theorem State.fillFolio_keeps {b : Bool} {s0 : State} (s : State) (x1 : XEntry) (h : Keeps b s0 s) :
    Keeps b s0 (State.fillFolio s x1) := by
  unfold State.fillFolio
  repeat' first | with_reducible assumption | with_reducible apply State.setTrn_keeps | with_reducible apply keeps_ite
theorem State.fillAll_keeps {b : Bool} {s0 : State} (s : State) (x1 : List XEntry) (h : Keeps b s0 s) :
    Keeps b s0 (State.fillAll s x1) := by
  unfold State.fillAll
  repeat' first
    | with_reducible assumption | with_reducible apply State.fillFolio_keeps
    | (with_reducible apply keeps_foldl; intro _ _ _; try dsimp only)
theorem State.useLeaf_keeps {b : Bool} {s0 : State} (s : State) (x1 : Req) (x2 : XEntry) (h : Keeps b s0 s) :
    Keeps b s0 (State.useLeaf s x1 x2) := by
  unfold State.useLeaf
  repeat' first
    | with_reducible assumption | with_reducible apply State.translated_keeps | with_reducible apply State.fault_keeps
    | with_reducible apply keeps_ite
theorem State.fillEdge_keeps {b : Bool} {s0 : State} (s : State) (x1 : Nat) (x2 : XEntry) (h : Keeps b s0 s) :
    Keeps b s0 (State.fillEdge s x1 x2) := by
  unfold State.fillEdge
  repeat' first | with_reducible assumption | with_reducible apply State.setTrn_keeps
theorem State.fillWalk_keeps {b : Bool} {s0 : State} (s : State) (x1 : Walk) (x2 : XEntry) (h : Keeps b s0 s) :
    Keeps b s0 (State.fillWalk s x1 x2) := by
  unfold State.fillWalk
  repeat' first
    | with_reducible assumption | with_reducible apply State.walkMetric_keeps | with_reducible apply State.dropWalk_keeps
    | with_reducible apply State.fillAll_keeps | with_reducible apply State.useLeaf_keeps
    | with_reducible apply State.fillEdge_keeps | (with_reducible apply keeps_foldl; intro _ _ _; try dsimp only) | split
theorem State.atsAnswer_keeps {b : Bool} {s0 : State} (s : State) (x1 : Walk) (x2 : AtsCpl) (h : Keeps b s0 s) :
    Keeps b s0 (State.atsAnswer s x1 x2) := by
  unfold State.atsAnswer
  try dsimp only
  repeat' first
    | with_reducible assumption | with_reducible apply State.restartWalk_keeps | with_reducible apply State.walkSend_keeps
    | with_reducible apply State.walkFault_keeps | with_reducible apply State.walkLeaf_keeps
    | with_reducible apply State.fillWalk_keeps | split
theorem State.invDoneFor_keeps {b : Bool} {s0 : State} (s : State) (x1 : Inv) (h : Keeps b s0 s) :
    Keeps b s0 (State.invDoneFor s x1) := by
  unfold State.invDoneFor
  repeat' first
    | with_reducible assumption | with_reducible apply State.setTrn_keeps | with_reducible apply State.endCmd_keeps
    | with_reducible apply State.emit_keeps | split
theorem State.invctl_keeps {b : Bool} {s0 : State} (s : State) (x1 : Who) (x2 : BitVec 4) (x3 : Nat → InvScope) (h : Keeps b s0 s) :
    Keeps b s0 (State.invctl s x1 x2 x3) := by
  unfold State.invctl
  repeat' first
    | with_reducible assumption | with_reducible apply State.setTrn_keeps | with_reducible apply State.acceptInv_keeps
    | with_reducible apply keeps_ite
theorem State.keepProof_keeps {b : Bool} {s0 : State} (s : State) (x1 : Nat) (x2 : Walk) (x3 : XEntry) (h : Keeps b s0 s) :
    Keeps b s0 (State.keepProof s x1 x2 x3) := by
  unfold State.keepProof
  repeat' first
    | with_reducible assumption | with_reducible apply State.dropWalk_keeps | with_reducible apply State.setLk_keeps
    | with_reducible apply keeps_ite
theorem State.loadSlot_keeps {b : Bool} {s0 : State} (s : State) (x1 : Nat) (x2 : Nat) (h : Keeps b s0 s) :
    Keeps b s0 (State.loadSlot s x1 x2) := by
  unfold State.loadSlot
  repeat' first | with_reducible assumption | with_reducible apply State.setTrn_keeps
theorem State.touchSlot_keeps {b : Bool} {s0 : State} (s : State) (x1 : Nat) (h : Keeps b s0 s) :
    Keeps b s0 (State.touchSlot s x1) := by
  unfold State.touchSlot
  repeat' first | with_reducible assumption | with_reducible apply State.setTrn_keeps
theorem State.takeXlt_keeps {b : Bool} {s0 : State} (s : State) (x1 : Req) (x2 : Nat) (x3 : XEntry) (h : Keeps b s0 s) :
    Keeps b s0 (State.takeXlt s x1 x2 x3) := by
  unfold State.takeXlt
  repeat' first
    | with_reducible assumption | with_reducible apply State.setLk_keeps | with_reducible apply State.useLeaf_keeps
    | with_reducible apply State.fillEdge_keeps | with_reducible apply State.fillFolio_keeps | with_reducible apply keeps_ite
theorem State.miss_keeps {b : Bool} {s0 : State} (s : State) (x1 : Req) (h : Keeps b s0 s) :
    Keeps b s0 (State.miss s x1) := by
  unfold State.miss
  repeat' first
    | with_reducible assumption | with_reducible apply State.setReq_keeps | with_reducible apply State.setTrn_keeps | split
theorem State.lookup_keeps {b : Bool} {s0 : State} (s : State) (x1 : Req) (h : Keeps b s0 s) :
    Keeps b s0 (State.lookup s x1) := by
  unfold State.lookup
  try dsimp only
  repeat' first
    | with_reducible assumption | with_reducible apply State.translated_keeps | with_reducible apply State.fault_keeps
    | with_reducible apply State.setReq_keeps | with_reducible apply State.touchSlot_keeps
    | with_reducible apply State.useLeaf_keeps | with_reducible apply State.setTrn_keeps
    | with_reducible apply State.fillEdge_keeps | with_reducible apply State.takeXlt_keeps
    | with_reducible apply State.miss_keeps | split
theorem State.lookupHeld_keeps {b : Bool} {s0 : State} (s : State) (x1 : Req) (h : Keeps b s0 s) :
    Keeps b s0 (State.lookupHeld s x1) := by
  unfold State.lookupHeld
  repeat' first
    | with_reducible assumption | with_reducible refine State.fromProof_keeps (by assumption) ?_
    | with_reducible apply State.translated_keeps | with_reducible apply State.lookup_keeps | split
theorem State.presentFrom_keeps {b : Bool} {s0 : State} (s : State) (x1 : Nat) (h : Keeps b s0 s) :
    Keeps b s0 (State.presentFrom s x1) := by
  unfold State.presentFrom
  repeat' first
    | with_reducible assumption | with_reducible apply State.lookup_keeps
    | (with_reducible apply keeps_foldl; intro _ _ _; try dsimp only) | split
theorem State.staleRead_keeps {b : Bool} {s0 : State} (s : State) (x1 : Nat) (h : Keeps b s0 s) :
    Keeps b s0 (State.staleRead s x1) := by
  unfold State.staleRead
  try dsimp only
  repeat' first
    | with_reducible assumption | with_reducible apply State.setTrn_keeps | with_reducible apply State.pulse_keeps
    | with_reducible apply keeps_ite | (with_reducible apply keeps_foldl; intro _ _ _; try dsimp only) | split | intro _ _ _
theorem State.startWalk_keeps {b : Bool} {s0 : State} (s : State) (x1 : Walk) (h : Keeps b s0 s) :
    Keeps b s0 (State.startWalk s x1) := by
  unfold State.startWalk
  repeat' first | with_reducible assumption | with_reducible apply State.setTrn_keeps
theorem State.tileRequest_keeps {b : Bool} {s0 : State} (s : State) (x1 : Nat) (x2 : Nat) (x3 : Nat) (x4 : Acc) (x5 : Nat) (x6 : Bytes) (x7 : AtomOp) (x8 : W64) (x9 : W64) (h : Keeps b s0 s) :
    Keeps b s0 (State.tileRequest s x1 x2 x3 x4 x5 x6 x7 x8 x9) := by
  unfold State.tileRequest
  repeat' first
    | with_reducible assumption | with_reducible apply State.emit_keeps | with_reducible apply State.isolation_keeps
    | with_reducible apply State.presentFrom_keeps | with_reducible apply State.addTile_keeps | with_reducible apply keeps_ite
theorem State.walkAsk_keeps {b : Bool} {s0 : State} (s : State) (x1 : Walk) (h : Keeps b s0 s) :
    Keeps b s0 (State.walkAsk s x1) := by
  unfold State.walkAsk
  repeat' first
    | with_reducible assumption | with_reducible apply State.restartWalk_keeps | with_reducible apply State.walkSend_keeps
    | with_reducible apply keeps_ite
theorem State.walkEntry_keeps {b : Bool} {s0 : State} (s : State) (x1 : Walk) (x2 : Nat) (h : Keeps b s0 s) :
    Keeps b s0 (State.walkEntry s x1 x2) := by
  unfold State.walkEntry
  repeat' first
    | with_reducible assumption | with_reducible apply State.restartWalk_keeps | with_reducible apply State.walkFault_keeps
    | with_reducible apply State.walkLeaf_keeps | with_reducible apply State.walkAsk_keeps
    | with_reducible apply State.putWalk_keeps | with_reducible apply State.dropReqs_keeps | with_reducible apply keeps_ite
theorem State.walkError_keeps {b : Bool} {s0 : State} (s : State) (x1 : Walk) (x2 : ECode) (h : Keeps b s0 s) :
    Keeps b s0 (State.walkError s x1 x2) := by
  unfold State.walkError
  repeat' first
    | with_reducible assumption | with_reducible apply State.restartWalk_keeps | with_reducible apply State.walkEnd_keeps
    | with_reducible apply keeps_ite
theorem State.walkRead_keeps {b : Bool} {s0 : State} (s : State) (x1 : Walk) (x2 : TblReply) (h : Keeps b s0 s) :
    Keeps b s0 (State.walkRead s x1 x2) := by
  unfold State.walkRead
  repeat' first
    | with_reducible assumption | with_reducible apply State.useFree_keeps | with_reducible apply State.walkError_keeps
    | with_reducible apply State.walkEntry_keeps | split
theorem State.dropWaiting_keeps {b : Bool} {s0 : State} (s : State) (x1 : Nat) (h : Keeps b s0 s) :
    Keeps b s0 (State.dropWaiting s x1) := by
  unfold State.dropWaiting
  repeat' first
    | with_reducible assumption | with_reducible apply State.giveUp_keeps
    | (with_reducible apply keeps_foldl; intro _ _ _; try dsimp only) | split
theorem State.raiseFaultSource_keeps {b : Bool} {s0 : State} (s : State) (x1 : Nat) (h : Keeps b s0 s) :
    Keeps b s0 (State.raiseFaultSource s x1) := by
  unfold State.raiseFaultSource
  repeat' first | with_reducible assumption | with_reducible apply State.raise_keeps
theorem State.recordFailed_keeps {b : Bool} {s0 : State} (s : State) (x1 : Nat) (x2 : FEntry) (h : Keeps b s0 s) :
    Keeps b s0 (State.recordFailed s x1 x2) := by
  unfold State.recordFailed
  repeat' first
    | with_reducible assumption | with_reducible apply State.raiseFaultSource_keeps
    | with_reducible apply State.endUnserviceable_keeps | with_reducible apply State.modFltp_keeps
theorem State.recordInRegs_keeps {b : Bool} {s0 : State} (s : State) (x1 : Nat) (x2 : FEntry) (x3 : Nat) (x4 : Bytes) (h : Keeps b s0 s) :
    Keeps b s0 (State.recordInRegs s x1 x2 x3 x4) := by
  unfold State.recordInRegs
  repeat' first
    | with_reducible assumption | with_reducible apply State.useFree_keeps | with_reducible apply State.recordFailed_keeps
    | simp only [keeps_upd, keeps_obs, keeps_aon, keeps_err, keeps_rcd]
    | with_reducible apply keeps_ite
theorem State.setFent_keeps {b : Bool} {s0 : State} (s : State) (x1 : Nat) (x2 : FEntry) (h : Keeps b s0 s) :
    Keeps b s0 (State.setFent s x1 x2) := by
  unfold State.setFent
  repeat' first | with_reducible assumption | with_reducible apply State.modFltp_keeps
theorem State.recordLogged_keeps {b : Bool} {s0 : State} (s : State) (x1 : Nat) (h : Keeps b s0 s) :
    Keeps b s0 (State.recordLogged s x1) := by
  unfold State.recordLogged
  try dsimp only
  repeat' first
    | with_reducible assumption | with_reducible apply State.setFltp_keeps
    | with_reducible apply State.raiseFaultSource_keeps | with_reducible apply State.setFent_keeps | split
theorem State.removeLeaves_keeps {b : Bool} {s0 : State} (s : State) (x1 : Nat) (x2 : Nat) (h : Keeps b s0 s) :
    Keeps b s0 (State.removeLeaves s x1 x2) := by
  unfold State.removeLeaves
  repeat' first
    | with_reducible assumption | with_reducible apply State.setTrn_keeps | with_reducible apply State.setLk_keeps
    | (with_reducible apply State.discardEach_keeps; intro _ _ _; try dsimp only)
theorem State.replayEntry_keeps {b : Bool} {s0 : State} (s : State) (x1 : Nat) (x2 : FEntry) (h : Keeps b s0 s) :
    Keeps b s0 (State.replayEntry s x1 x2) := by
  unfold State.replayEntry
  repeat' first
    | with_reducible assumption | with_reducible apply State.setFent_keeps | with_reducible apply State.removeLeaves_keeps
    | with_reducible apply State.lookup_keeps
    | simp only [keeps_upd, keeps_obs, keeps_aon, keeps_err, keeps_rcd]
    | (with_reducible apply keeps_foldl; intro _ _ _; try dsimp only) | split
theorem State.respond_keeps {b : Bool} {s0 : State} (s : State) (w : Who) (fid : BitVec 16) (k : Nat → FEntry → State → State)
    (hk : ∀ p e s, Keeps b s0 s → Keeps b s0 (k p e s)) (h : Keeps b s0 s) : Keeps b s0 (s.respond w fid k) := by
  unfold State.respond; dsimp only; split
  · exact hk _ _ _ h
  · exact State.modFltp_keeps _ _ _ h
theorem State.sendRecord_keeps {b : Bool} {s0 : State} (s : State) (x1 : Nat) (x2 : FEntry) (h : Keeps b s0 s) :
    Keeps b s0 (State.sendRecord s x1 x2) := by
  unfold State.sendRecord
  repeat' first
    | with_reducible assumption | with_reducible apply State.chargeTo_keeps | with_reducible apply State.setFltp_keeps
    | with_reducible apply State.recordFailed_keeps | with_reducible apply State.hostWrite_keeps
    | with_reducible apply State.isolation_keeps | with_reducible apply State.recordInRegs_keeps
    | with_reducible apply State.addPhysWrite_keeps
    | simp only [keeps_upd, keeps_obs, keeps_aon, keeps_err, keeps_rcd]
    | with_reducible apply keeps_ite
theorem State.discardTables_keeps {b : Bool} {s0 : State} (s : State) (x1 : List Nat) (h : Keeps b s0 s) :
    Keeps b s0 (State.discardTables s x1) := by
  unfold State.discardTables
  repeat' first
    | with_reducible assumption | with_reducible apply State.discard_keeps
    | (with_reducible apply State.discardEach_keeps; intro _ _ _; try dsimp only)
theorem State.applyFlip_keeps {b : Bool} {s0 : State} (s : State) (x1 : Flip) (h : Keeps b s0 s) :
    Keeps b s0 (State.applyFlip s x1) := by
  unfold State.applyFlip
  repeat' first
    | with_reducible assumption | with_reducible apply State.setTable_keeps | with_reducible apply State.discardTables_keeps
    | with_reducible apply State.setCmd_keeps | with_reducible apply State.endCmd_keeps
    | simp only [keeps_upd, keeps_obs, keeps_aon, keeps_err, keeps_rcd]
    | (with_reducible apply keeps_foldl; intro _ _ _; try dsimp only) | split
theorem State.dropSwatches_keeps {b : Bool} {s0 : State} (s : State) (x1 : Nat) (x2 : Bool) (h : Keeps b s0 s) :
    Keeps b s0 (State.dropSwatches s x1 x2) := by
  unfold State.dropSwatches
  repeat' first | with_reducible assumption | simp only [keeps_upd, keeps_obs, keeps_aon, keeps_err, keeps_rcd]
theorem State.slotsFreed_keeps {b : Bool} {s0 : State} (s : State) (x1 : List (Nat × Bool)) (h : Keeps b s0 s) :
    Keeps b s0 (State.slotsFreed s x1) := by
  unfold State.slotsFreed
  repeat' first
    | with_reducible assumption | with_reducible apply State.setCmd_keeps | with_reducible apply State.endCmd_keeps
    | with_reducible apply keeps_ite | (with_reducible apply keeps_foldl; intro _ _ _; try dsimp only)
theorem State.stageSlot_keeps {b : Bool} {s0 : State} (s : State) (x1 : Nat) (x2 : Bool) (x3 : Bool) (x4 : Nat) (h : Keeps b s0 s) :
    Keeps b s0 (State.stageSlot s x1 x2 x3 x4) := by
  unfold State.stageSlot
  repeat' first
    | with_reducible assumption | with_reducible apply State.dropSwatches_keeps | with_reducible apply State.setTable_keeps
    | with_reducible apply keeps_ite
theorem State.bellRetry_keeps {b : Bool} {s0 : State} (s : State) (x1 : Nat) (h : Keeps b s0 s) :
    Keeps b s0 (State.bellRetry s x1) := by
  unfold State.bellRetry
  repeat' first
    | with_reducible assumption | with_reducible apply State.setLk_keeps
    | (with_reducible apply State.discardEach_keeps; intro _ _ _; try dsimp only) | with_reducible apply keeps_ite
theorem State.discardTarget_keeps {b : Bool} {s0 : State} (s : State) (x1 : Nat) (x2 : Nat) (x3 : Nat) (h : Keeps b s0 s) :
    Keeps b s0 (State.discardTarget s x1 x2 x3) := by
  unfold State.discardTarget
  repeat' first | with_reducible assumption | with_reducible apply State.discard_keeps
theorem State.dropProofs_keeps {b : Bool} {s0 : State} (s : State) (x1 : Nat) (x2 : Proof → Bool) (h : Keeps b s0 s) :
    Keeps b s0 (State.dropProofs s x1 x2) := by
  unfold State.dropProofs
  repeat' first | with_reducible assumption | with_reducible apply State.setLk_keeps | simp only [keeps_upd, keeps_obs, keeps_aon, keeps_err, keeps_rcd]
theorem State.keepData_keeps {b : Bool} {s0 : State} (s : State) (x1 : Nat) (x2 : Nat) (x3 : Bytes) (h : Keeps b s0 s) :
    Keeps b s0 (State.keepData s x1 x2 x3) := by
  unfold State.keepData
  repeat' first | with_reducible assumption | with_reducible apply State.setLk_keeps
theorem State.lkaCommitted_keeps {b : Bool} {s0 : State} (s : State) (x1 : Nat) (x2 : Nat) (x3 : BitVec 16) (x4 : Bytes) (x5 : BitVec 16) (h : Keeps b s0 s) :
    Keeps b s0 (State.lkaCommitted s x1 x2 x3 x4 x5) := by
  unfold State.lkaCommitted
  try dsimp only
  repeat' first
    | with_reducible assumption | with_reducible apply State.discardAll_keeps | with_reducible apply State.setLk_keeps
    | with_reducible apply State.discardTarget_keeps | with_reducible apply State.discard_keeps
    | with_reducible apply State.dropProofs_keeps | with_reducible apply State.useProofs_keeps
    | (with_reducible apply State.discardEach_keeps; intro _ _ _; try dsimp only)
    | (with_reducible apply keeps_foldl; intro _ _ _; try dsimp only) | split
theorem State.lkaPassed_keeps {b : Bool} {s0 : State} (s : State) (x1 : Nat) (x2 : BitVec 16) (x3 : BitVec 16) (x4 : Nat) (h : Keeps b s0 s) :
    Keeps b s0 (State.lkaPassed s x1 x2 x3 x4) := by
  unfold State.lkaPassed
  repeat' first
    | with_reducible assumption | with_reducible apply State.discardTarget_keeps | with_reducible apply State.setLk_keeps
    | with_reducible apply State.dropProofs_keeps
    | (with_reducible apply State.discardEach_keeps; intro _ _ _; try dsimp only)
    | (with_reducible apply keeps_foldl; intro _ _ _; try dsimp only) | split
theorem State.proofIssue_keeps {b : Bool} {s0 : State} (s : State) (x1 : Nat) (x2 : Nat) (x3 : ProofRead) (x4 : Out) (x5 : Nat) (h : Keeps b s0 s) :
    Keeps b s0 (State.proofIssue s x1 x2 x3 x4 x5) := by
  unfold State.proofIssue
  repeat' first
    | with_reducible assumption | with_reducible apply State.proofCharge_keeps | with_reducible apply State.setLk_keeps
    | with_reducible apply State.hostReads_keeps | simp only [keeps_upd, keeps_obs, keeps_aon, keeps_err, keeps_rcd] | split
theorem State.proofSeal_keeps {b : Bool} {s0 : State} (s : State) (x1 : Nat) (x2 : Nat) (h : Keeps b s0 s) :
    Keeps b s0 (State.proofSeal s x1 x2) := by
  unfold State.proofSeal
  repeat' first
    | with_reducible assumption | with_reducible apply State.dropProofs_keeps | with_reducible apply State.setLk_keeps
    | with_reducible apply keeps_ite
theorem State.stopLookahead_keeps {b : Bool} {s0 : State} (s : State) (x1 : Nat) (h : Keeps b s0 s) :
    Keeps b s0 (State.stopLookahead s x1) := by
  unfold State.stopLookahead
  repeat' first
    | with_reducible assumption | with_reducible apply State.discardAll_keeps
    | (with_reducible apply State.discardEach_keeps; intro _ _ _; try dsimp only) | with_reducible apply keeps_ite
theorem State.trimReach_keeps {b : Bool} {s0 : State} (s : State) (x1 : State) (x2 : Nat) (h : Keeps b s0 s) :
    Keeps b s0 (State.trimReach s x1 x2) := by
  unfold State.trimReach
  repeat' first
    | with_reducible assumption | with_reducible apply State.discard_keeps | with_reducible apply State.setLk_keeps
    | (with_reducible apply State.discardEach_keeps; intro _ _ _; try dsimp only) | split
theorem State.abortCmd_keeps {b : Bool} {s0 : State} (s : State) (x1 : Cmd) (h : Keeps b s0 s) :
    Keeps b s0 (State.abortCmd s x1) := by
  unfold State.abortCmd
  try dsimp only
  repeat' first
    | with_reducible assumption | with_reducible apply State.dropCmd_keeps | with_reducible apply State.setCmd_keeps
    | with_reducible apply State.pleatKill_keeps | with_reducible apply State.compKill_keeps
    | with_reducible apply State.withdrawReqs_keeps | split
theorem State.commitSlug_keeps {b : Bool} {s0 : State} (s : State) (x1 : Nat) (x2 : CmdSt) (x3 : Nat) (x4 : Bool) (h : Keeps b s0 s) :
    Keeps b s0 (State.commitSlug s x1 x2 x3 x4) := by
  unfold State.commitSlug
  repeat' first | with_reducible assumption | with_reducible apply State.setQueue_keeps | simp only [keeps_upd, keeps_obs, keeps_aon, keeps_err, keeps_rcd]
theorem State.commitAlone_keeps {b : Bool} {s0 : State} (s : State) (x1 : Nat) (x2 : CmdSt) (x3 : Nat) (x4 : Nat) (h : Keeps b s0 s) :
    Keeps b s0 (State.commitAlone s x1 x2 x3 x4) := by
  unfold State.commitAlone
  repeat' first
    | with_reducible assumption | with_reducible apply State.commitSlug_keeps | with_reducible apply State.lkaPassed_keeps
theorem State.commitEnd_keeps {b : Bool} {s0 : State} (s : State) (x1 : Nat) (x2 : Nat) (h : Keeps b s0 s) :
    Keeps b s0 (State.commitEnd s x1 x2) := by
  unfold State.commitEnd
  repeat' first
    | with_reducible assumption | with_reducible apply State.commitSlug_keeps | with_reducible apply State.endCmd_keeps
    | with_reducible apply State.lkaPassed_keeps
theorem State.finishCmd_keeps {b : Bool} {s0 : State} (s : State) (x1 : Cmd) (h : Keeps b s0 s) :
    Keeps b s0 (State.finishCmd s x1) := by
  unfold State.finishCmd
  repeat' first
    | with_reducible assumption | with_reducible apply State.dropCmd_keeps | with_reducible apply State.tallyAdd_keeps
    | with_reducible apply State.raise_keeps | with_reducible apply State.pumpRecords_keeps | with_reducible apply keeps_ite
theorem State.recordStep_keeps {b : Bool} {s0 : State} (s : State) (x1 : Cmd) (h : Keeps b s0 s) :
    Keeps b s0 (State.recordStep s x1) := by
  unfold State.recordStep
  repeat' first
    | with_reducible assumption | with_reducible apply State.pumpRecords_keeps | with_reducible apply State.setCmd_keeps
    | with_reducible apply State.finishCmd_keeps | with_reducible apply keeps_ite
theorem State.flushEnds_keeps {b : Bool} {s0 : State} (s : State) (x1 : Cmd) (x2 : Bool) (h : Keeps b s0 s) :
    Keeps b s0 (State.flushEnds s x1 x2) := by
  unfold State.flushEnds
  repeat' first
    | with_reducible assumption | with_reducible apply State.pumpRecords_keeps | with_reducible apply State.dropCmd_keeps
    | with_reducible apply State.recordStep_keeps | with_reducible apply State.haltQueue_keeps
    | with_reducible apply keeps_ite
theorem State.flushStep_keeps {b : Bool} {s0 : State} (s : State) (x1 : Cmd) (h : Keeps b s0 s) :
    Keeps b s0 (State.flushStep s x1) := by
  unfold State.flushStep
  repeat' first
    | with_reducible assumption | with_reducible apply State.recordStep_keeps | with_reducible apply State.flushRead_keeps
    | with_reducible apply State.chargeTo_keeps | with_reducible apply State.setCmd_keeps
    | with_reducible apply State.pumpRecords_keeps | with_reducible apply State.dropCmd_keeps
    | with_reducible apply State.haltQueue_keeps
    | simp only [keeps_upd, keeps_obs, keeps_aon, keeps_err, keeps_rcd]
    | split
theorem State.grantSlot_keeps {b : Bool} {s0 : State} (s : State) (x1 : Nat) (h : Keeps b s0 s) :
    Keeps b s0 (State.grantSlot s x1) := by
  unfold State.grantSlot
  repeat' first
    | with_reducible assumption | with_reducible apply State.metric_keeps | with_reducible apply State.modQueue_keeps
    | simp only [keeps_upd, keeps_obs, keeps_aon, keeps_err, keeps_rcd]
theorem State.resetQueue_keeps {b : Bool} {s0 : State} (s : State) (x1 : Nat) (h : Keeps b s0 s) :
    Keeps b s0 (State.resetQueue s x1) := by
  unfold State.resetQueue
  try dsimp only
  repeat' first
    | with_reducible assumption | with_reducible apply State.setQueue_keeps | with_reducible apply State.discardQueue_keeps
    | with_reducible apply State.modQueue_keeps | with_reducible apply State.dropFetch_keeps
    | with_reducible apply State.abortCmd_keeps | (with_reducible apply keeps_foldl; intro _ _ _; try dsimp only) | split
theorem State.ringRead_keeps {b : Bool} {s0 : State} (s : State) (x1 : Nat) (x2 : Nat) (x3 : Owner) (h : Keeps b s0 s) :
    Keeps b s0 (State.ringRead s x1 x2 x3) := by
  unfold State.ringRead
  repeat' first | with_reducible assumption | with_reducible apply State.addReads_keeps
theorem State.settleAccepted_keeps {b : Bool} {s0 : State} (s : State) (x1 : Nat) (h : Keeps b s0 s) :
    Keeps b s0 (State.settleAccepted s x1) := by
  unfold State.settleAccepted
  try dsimp only
  repeat' first
    | with_reducible assumption | with_reducible apply State.makeWait_keeps | with_reducible apply State.commitEnd_keeps
    | split
theorem State.takeSlug_keeps {b : Bool} {s0 : State} (s : State) (x1 : Nat) (x2 : Bytes) (x3 : Seal) (h : Keeps b s0 s) :
    Keeps b s0 (State.takeSlug s x1 x2 x3) := by
  unfold State.takeSlug
  repeat' first
    | with_reducible assumption | with_reducible apply State.dropFetch_keeps
    | with_reducible apply State.settleAccepted_keeps | with_reducible apply State.modQueue_keeps
    | with_reducible apply State.haltQueue_keeps | split
theorem State.tookUnit_keeps {b : Bool} {s0 : State} (s : State) (x1 : Bool) (x2 : Nat) (h : Keeps b s0 s) :
    Keeps b s0 (State.tookUnit s x1 x2) := by
  unfold State.tookUnit
  repeat' first | with_reducible assumption | simp only [keeps_upd, keeps_obs, keeps_aon, keeps_err, keeps_rcd]
theorem State.addFlip_keeps {b : Bool} {s0 : State} (s : State) (x1 : Nat) (x2 : List Nat) (x3 : Bool) (x4 : Bool) (h : Keeps b s0 s) :
    Keeps b s0 (State.addFlip s x1 x2 x3 x4) := by
  unfold State.addFlip
  repeat' first
    | with_reducible assumption | with_reducible apply State.commitAlone_keeps | simp only [keeps_upd, keeps_obs, keeps_aon, keeps_err, keeps_rcd]
theorem State.askRecord_keeps {b : Bool} {s0 : State} (s : State) (x1 : Nat) (h : Keeps b s0 s) :
    Keeps b s0 (State.askRecord s x1) := by
  unfold State.askRecord
  repeat' first
    | with_reducible assumption | with_reducible apply State.lookupHeld_keeps
    | simp only [keeps_upd, keeps_obs, keeps_aon, keeps_err, keeps_rcd]
theorem State.startComp_keeps {b : Bool} {s0 : State} (s : State) (x1 : Nat) (x2 : Nat) (x3 : Bytes) (h : Keeps b s0 s) :
    Keeps b s0 (State.startComp s x1 x2 x3) := by
  unfold State.startComp
  repeat' first
    | with_reducible assumption | with_reducible apply State.setComp_keeps | with_reducible apply State.setTable_keeps
    | with_reducible apply State.commitSlug_keeps | with_reducible apply State.tookUnit_keeps
    | with_reducible apply State.lkaCommitted_keeps | with_reducible apply State.addTrace_keeps
    | with_reducible apply State.askRecord_keeps | with_reducible apply State.wake_keeps | with_reducible apply keeps_ite
theorem State.commitGather_keeps {b : Bool} {s0 : State} (s : State) (x1 : Nat) (x2 : Bytes) (h : Keeps b s0 s) :
    Keeps b s0 (State.commitGather s x1 x2) := by
  unfold State.commitGather
  try dsimp only
  repeat' first
    | with_reducible assumption | with_reducible apply State.commitEnd_keeps | with_reducible apply State.startComp_keeps
    | with_reducible apply State.makeWait_keeps | split
theorem State.commitInvalidate_keeps {b : Bool} {s0 : State} (s : State) (x1 : Nat) (x2 : Bytes) (h : Keeps b s0 s) :
    Keeps b s0 (State.commitInvalidate s x1 x2) := by
  unfold State.commitInvalidate
  repeat' first
    | with_reducible assumption | with_reducible apply State.commitEnd_keeps | with_reducible apply State.acceptInv_keeps
    | with_reducible apply State.commitAlone_keeps | with_reducible apply keeps_ite
theorem State.commitMove_keeps {b : Bool} {s0 : State} (s : State) (x1 : Nat) (x2 : Bytes) (h : Keeps b s0 s) :
    Keeps b s0 (State.commitMove s x1 x2) := by
  unfold State.commitMove
  repeat' first
    | with_reducible assumption | with_reducible apply State.commitEnd_keeps | with_reducible apply State.tookUnit_keeps
    | with_reducible apply State.commitAlone_keeps | split
theorem State.commitRetire_keeps {b : Bool} {s0 : State} (s : State) (x1 : Nat) (x2 : Bytes) (h : Keeps b s0 s) :
    Keeps b s0 (State.commitRetire s x1 x2) := by
  unfold State.commitRetire
  repeat' first
    | with_reducible assumption | with_reducible apply State.commitEnd_keeps | with_reducible apply State.addFlip_keeps
    | with_reducible apply keeps_ite
theorem State.commitStage_keeps {b : Bool} {s0 : State} (s : State) (x1 : Nat) (x2 : Bytes) (h : Keeps b s0 s) :
    Keeps b s0 (State.commitStage s x1 x2) := by
  unfold State.commitStage
  repeat' first
    | with_reducible assumption | with_reducible apply State.commitEnd_keeps | with_reducible apply State.stageSlot_keeps
    | with_reducible apply keeps_ite
theorem State.commitSwap_keeps {b : Bool} {s0 : State} (s : State) (x1 : Nat) (x2 : Bytes) (h : Keeps b s0 s) :
    Keeps b s0 (State.commitSwap s x1 x2) := by
  unfold State.commitSwap
  try dsimp only
  repeat' first
    | with_reducible assumption | with_reducible apply State.commitEnd_keeps | with_reducible apply State.addFlip_keeps
    | split
theorem State.commitSwatch_keeps {b : Bool} {s0 : State} (s : State) (x1 : Nat) (x2 : Bytes) (h : Keeps b s0 s) :
    Keeps b s0 (State.commitSwatch s x1 x2) := by
  unfold State.commitSwatch
  repeat' first
    | with_reducible assumption | with_reducible apply State.commitEnd_keeps | with_reducible apply State.issuePhys_keeps
    | with_reducible apply State.commitAlone_keeps | with_reducible apply keeps_ite
theorem State.commitTadd_keeps {b : Bool} {s0 : State} (s : State) (x1 : Nat) (x2 : Bytes) (h : Keeps b s0 s) :
    Keeps b s0 (State.commitTadd s x1 x2) := by
  unfold State.commitTadd
  repeat' first
    | with_reducible assumption | with_reducible apply State.addReq_keeps | with_reducible apply State.commitAlone_keeps
theorem State.commitTset_keeps {b : Bool} {s0 : State} (s : State) (x1 : Nat) (x2 : Bytes) (h : Keeps b s0 s) :
    Keeps b s0 (State.commitTset s x1 x2) := by
  unfold State.commitTset
  repeat' first
    | with_reducible assumption | with_reducible apply State.commitEnd_keeps | with_reducible apply State.putTally_keeps
    | with_reducible apply keeps_ite
theorem State.commitWcommit_keeps {b : Bool} {s0 : State} (s : State) (x1 : Nat) (x2 : Bytes) (h : Keeps b s0 s) :
    Keeps b s0 (State.commitWcommit s x1 x2) := by
  unfold State.commitWcommit
  try dsimp only
  repeat' first
    | with_reducible assumption | with_reducible apply State.commitEnd_keeps | with_reducible apply State.takeEffect_keeps
    | with_reducible apply State.commitAlone_keeps | with_reducible apply State.setCmd_keeps
    | with_reducible apply State.scheduleWin_keeps | split
theorem State.beginBurst_keeps {b : Bool} {s0 : State} (s : State) (x1 : Nat) (h : Keeps b s0 s) :
    Keeps b s0 (State.beginBurst s x1) := by
  unfold State.beginBurst
  repeat' first
    | with_reducible assumption | with_reducible apply State.pleatSettle_keeps | with_reducible apply State.pleatWrites_keeps
    | with_reducible apply State.setEng_keeps | with_reducible apply State.addReq_keeps | with_reducible apply keeps_ite
    | (with_reducible apply keeps_foldl; intro _ _ _; try dsimp only)
theorem State.deliverBytes_keeps {b : Bool} {s0 : State} (s : State) (x1 : Nat) (x2 : Nat) (h : Keeps b s0 s) :
    Keeps b s0 (State.deliverBytes s x1 x2) := by
  unfold State.deliverBytes
  repeat' first | with_reducible assumption | with_reducible apply State.setEng_keeps
theorem State.haltWrite_keeps {b : Bool} {s0 : State} (s : State) (x1 : Nat) (x2 : BitVec 3) (h : Keeps b s0 s) :
    Keeps b s0 (State.haltWrite s x1 x2) := by
  unfold State.haltWrite
  repeat' first
    | with_reducible assumption | with_reducible apply State.modEng_keeps | with_reducible apply State.pleatLater_keeps
    | with_reducible apply keeps_ite
theorem State.checkOffsets_keeps {b : Bool} {s0 : State} (s : State) (x1 : Nat) (h : Keeps b s0 s) :
    Keeps b s0 (State.checkOffsets s x1) := by
  unfold State.checkOffsets
  try dsimp only
  repeat' first
    | with_reducible assumption | with_reducible apply State.cutComp_keeps | with_reducible apply State.setComp_keeps | split
theorem State.compWrites_keeps {b : Bool} {s0 : State} (s : State) (x1 : Nat) (x2 : Owner) (x3 : Nat) (x4 : Bytes) (h : Keeps b s0 s) :
    Keeps b s0 (State.compWrites s x1 x2 x3 x4) := by
  unfold State.compWrites
  repeat' first
    | with_reducible assumption | with_reducible apply State.addReq_keeps
    | (with_reducible apply keeps_foldl; intro _ _ _; try dsimp only)
theorem State.installSwatch_keeps {b : Bool} {s0 : State} (s : State) (x1 : Cmd) (x2 : Bytes) (h : Keeps b s0 s) :
    Keeps b s0 (State.installSwatch s x1 x2) := by
  unfold State.installSwatch
  repeat' first
    | with_reducible assumption | with_reducible apply State.endCmd_keeps | simp only [keeps_upd, keeps_obs, keeps_aon, keeps_err, keeps_rcd]
    | with_reducible apply keeps_ite
theorem State.meterFetch_keeps {b : Bool} {s0 : State} (s : State) (x1 : Nat) (x2 : Option Nat) (h : Keeps b s0 s) :
    Keeps b s0 (State.meterFetch s x1 x2) := by
  unfold State.meterFetch
  repeat' first | with_reducible assumption | simp only [keeps_upd, keeps_obs, keeps_aon, keeps_err, keeps_rcd] | split
theorem State.meterLook_keeps {b : Bool} {s0 : State} (s : State) (x1 : Nat) (x2 : Option Nat) (x3 : Nat) (h : Keeps b s0 s) :
    Keeps b s0 (State.meterLook s x1 x2 x3) := by
  unfold State.meterLook
  repeat' first | with_reducible assumption | simp only [keeps_upd, keeps_obs, keeps_aon, keeps_err, keeps_rcd] | split
theorem State.resultBack_keeps {b : Bool} {s0 : State} (s : State) (x1 : Nat) (x2 : Req) (x3 : WReply) (h : Keeps b s0 s) :
    Keeps b s0 (State.resultBack s x1 x2 x3) := by
  unfold State.resultBack
  repeat' first
    | with_reducible assumption | with_reducible refine State.writeBack_keeps (by assumption) ?_
    | with_reducible apply State.bounceAt_keeps | with_reducible apply State.compSettle_keeps
    | with_reducible apply State.dropReq_keeps | split
theorem State.tellRow_keeps {b : Bool} {s0 : State} (s : State) (x1 : Nat) (x2 : Nat) (h : Keeps b s0 s) :
    Keeps b s0 (State.tellRow s x1 x2) := by
  unfold State.tellRow
  repeat' first | with_reducible assumption | with_reducible apply State.toTiles_keeps
theorem State.rowBad_keeps {b : Bool} {s0 : State} (s : State) (x1 : Nat) (x2 : Nat) (h : Keeps b s0 s) :
    Keeps b s0 (State.rowBad s x1 x2) := by
  unfold State.rowBad
  repeat' first
    | with_reducible assumption | with_reducible apply State.setComp_keeps | with_reducible apply State.tellRow_keeps
    | with_reducible apply keeps_ite
theorem State.rowDone_keeps {b : Bool} {s0 : State} (s : State) (x1 : Nat) (x2 : Nat) (h : Keeps b s0 s) :
    Keeps b s0 (State.rowDone s x1 x2) := by
  unfold State.rowDone
  repeat' first
    | with_reducible assumption | with_reducible apply State.compGo_keeps | with_reducible apply State.setComp_keeps
    | with_reducible apply keeps_ite
theorem State.rowWrites_keeps {b : Bool} {s0 : State} (s : State) (x1 : Nat) (x2 : Dist) (x3 : Nat) (x4 : Bytes) (x5 : Nat → Bool) (h : Keeps b s0 s) :
    Keeps b s0 (State.rowWrites s x1 x2 x3 x4 x5) := by
  unfold State.rowWrites
  repeat' first
    | with_reducible assumption | with_reducible apply State.tryIssue_keeps
    | simp only [keeps_upd, keeps_obs, keeps_aon, keeps_err, keeps_rcd]
    | with_reducible apply keeps_ite | (with_reducible apply keeps_foldl; intro _ _ _; try dsimp only)
theorem State.rowWritten_keeps {b : Bool} {s0 : State} (s : State) (x1 : Nat) (x2 : Nat) (x3 : Req) (h : Keeps b s0 s) :
    Keeps b s0 (State.rowWritten s x1 x2 x3) := by
  unfold State.rowWritten
  repeat' first
    | with_reducible assumption | with_reducible apply State.dropReq_keeps | with_reducible apply State.tellRow_keeps
    | with_reducible apply State.setComp_keeps | with_reducible apply State.setReq_keeps | with_reducible apply keeps_ite
theorem State.skentRead_keeps {b : Bool} {s0 : State} (s : State) (x1 : Who) (x2 : Nat) (h : Keeps b s0 s) :
    Keeps b s0 (State.skentRead s x1 x2).2 := by
  unfold State.skentRead
  repeat' first | with_reducible assumption | simp only [keeps_upd, keeps_obs, keeps_aon, keeps_err, keeps_rcd] | split
theorem State.skentRead_keepsEq {b : Bool} {s0 : State} {s : State} {x1 : Who} {x2 : Nat} {y : Nat} {t : State} (e : (State.skentRead s x1 x2) = (y, t)) (h : Keeps b s0 s) :
    Keeps b s0 t := by
  have := State.skentRead_keeps s x1 x2 h
  rw [e] at this; exact this
theorem State.swatchRecord_keeps {b : Bool} {s0 : State} (s : State) (x1 : Cmd) (x2 : Bytes) (h : Keeps b s0 s) :
    Keeps b s0 (State.swatchRecord s x1 x2) := by
  unfold State.swatchRecord
  repeat' first
    | with_reducible assumption | with_reducible apply State.endCmd_keeps | with_reducible apply State.setCmd_keeps
    | with_reducible apply State.installSwatch_keeps | with_reducible apply State.addReads_keeps
    | with_reducible apply keeps_ite
theorem State.trackWindow_keeps {b : Bool} {s0 : State} (s : State) (x1 : Comp) (h : Keeps b s0 s) :
    Keeps b s0 (State.trackWindow s x1) := by
  unfold State.trackWindow
  repeat' first
    | with_reducible assumption | simp only [keeps_upd, keeps_obs, keeps_aon, keeps_err, keeps_rcd] | with_reducible apply keeps_ite
    | (with_reducible apply keeps_foldl; intro _ _ _; try dsimp only)
theorem State.updateBack_keeps {b : Bool} {s0 : State} (s : State) (x1 : Nat) (x2 : Nat) (x3 : Req) (x4 : WReply) (h : Keeps b s0 s) :
    Keeps b s0 (State.updateBack s x1 x2 x3 x4) := by
  unfold State.updateBack
  repeat' first
    | with_reducible assumption | with_reducible apply State.compSettle_keeps | with_reducible apply State.rowDone_keeps
    | with_reducible apply State.dropReq_keeps | with_reducible refine State.writeBack_keeps (by assumption) ?_
    | with_reducible apply State.bounceAt_keeps | with_reducible apply State.rowBad_keeps
    | with_reducible apply State.rowWritten_keeps | split
theorem State.updateRow_keeps {b : Bool} {s0 : State} (s : State) (x1 : Nat) (x2 : Bytes) (x3 : Bytes) (x4 : Dist) (h : Keeps b s0 s) :
    Keeps b s0 (State.updateRow s x1 x2 x3 x4) := by
  unfold State.updateRow
  try dsimp only
  repeat' first
    | with_reducible assumption | with_reducible apply State.compGo_keeps | with_reducible apply State.setComp_keeps
    | with_reducible apply State.rowWrites_keeps | split
theorem State.endPeriod_keeps {b : Bool} {s0 : State} (s : State) (x1 : Nat) (h : Keeps b s0 s) :
    Keeps b s0 (State.endPeriod s x1) := by
  unfold State.endPeriod
  repeat' first | with_reducible assumption | simp only [keeps_upd, keeps_obs, keeps_aon, keeps_err, keeps_rcd]
theorem State.setOver_keeps {b : Bool} {s0 : State} (s : State) (x1 : Nat) (x2 : Nat) (h : Keeps b s0 s) :
    Keeps b s0 (State.setOver s x1 x2) := by
  unfold State.setOver
  repeat' first
    | with_reducible assumption | with_reducible apply State.raise_keeps | simp only [keeps_upd, keeps_obs, keeps_aon, keeps_err, keeps_rcd]
    | with_reducible apply keeps_ite
theorem State.writeBw_keeps {b : Bool} {s0 : State} (s : State) (x1 : Nat) (x2 : Nat) (h : Keeps b s0 s) :
    Keeps b s0 (State.writeBw s x1 x2) := by
  unfold State.writeBw
  repeat' first
    | with_reducible assumption | with_reducible apply State.setOver_keeps | simp only [keeps_upd, keeps_obs, keeps_aon, keeps_err, keeps_rcd]
    | with_reducible apply keeps_ite
theorem State.writeOver_keeps {b : Bool} {s0 : State} (s : State) (x1 : Nat) (x2 : W32) (h : Keeps b s0 s) :
    Keeps b s0 (State.writeOver s x1 x2) := by
  unfold State.writeOver
  repeat' first | with_reducible assumption | simp only [keeps_upd, keeps_obs, keeps_aon, keeps_err, keeps_rcd]
theorem State.writeQa_keeps {b : Bool} {s0 : State} (s : State) (x1 : Nat) (x2 : Half) (x3 : W64) (h : Keeps b s0 s) :
    Keeps b s0 (State.writeQa s x1 x2 x3) := by
  unfold State.writeQa
  repeat' first | with_reducible assumption | with_reducible apply State.setOver_keeps | simp only [keeps_upd, keeps_obs, keeps_aon, keeps_err, keeps_rcd]
theorem State.writeQb_keeps {b : Bool} {s0 : State} (s : State) (x1 : Nat) (x2 : Half) (x3 : W64) (h : Keeps b s0 s) :
    Keeps b s0 (State.writeQb s x1 x2 x3) := by
  unfold State.writeQb
  repeat' first | with_reducible assumption | with_reducible apply State.setOver_keeps | simp only [keeps_upd, keeps_obs, keeps_aon, keeps_err, keeps_rcd]
theorem State.setDerr_keeps {b : Bool} {s0 : State} (s : State) (x1 : Nat) (h : Keeps b s0 s) :
    Keeps b s0 (State.setDerr s x1) := by
  unfold State.setDerr
  repeat' first
    | with_reducible assumption | with_reducible apply State.relevel_keeps | with_reducible apply State.setTrp_keeps
theorem State.leaveDrain_keeps {b : Bool} {s0 : State} (s : State) (x1 : Nat) (x2 : Nat) (h : Keeps b s0 s) :
    Keeps b s0 (State.leaveDrain s x1 x2) := by
  unfold State.leaveDrain
  repeat' first
    | with_reducible assumption | with_reducible apply State.dropReqs_keeps | with_reducible apply State.freeEng_keeps
    | simp only [keeps_upd, keeps_obs, keeps_aon, keeps_err, keeps_rcd]
theorem State.failDrain_keeps {b : Bool} {s0 : State} (s : State) (x1 : Nat) (x2 : Nat) (h : Keeps b s0 s) :
    Keeps b s0 (State.failDrain s x1 x2) := by
  unfold State.failDrain
  repeat' first
    | with_reducible assumption | with_reducible apply State.setDerr_keeps | with_reducible apply State.leaveDrain_keeps
theorem State.drainFlush_keeps {b : Bool} {s0 : State} (s : State) (x1 : Nat) (x2 : Nat) (h : Keeps b s0 s) :
    Keeps b s0 (State.drainFlush s x1 x2) := by
  unfold State.drainFlush
  repeat' first
    | with_reducible assumption | with_reducible apply State.failDrain_keeps | with_reducible apply State.flushRead_keeps
    | with_reducible apply State.chargeTo_keeps | with_reducible apply State.dropReqs_keeps
    | simp only [keeps_upd, keeps_obs, keeps_aon, keeps_err, keeps_rcd] | split
theorem State.drainWrite_keeps {b : Bool} {s0 : State} (s : State) (x1 : Nat) (x2 : Nat) (x3 : Nat) (x4 : Bytes) (x5 : Bool) (h : Keeps b s0 s) :
    Keeps b s0 (State.drainWrite s x1 x2 x3 x4 x5).2 := by
  unfold State.drainWrite
  repeat' first
    | with_reducible assumption | with_reducible apply State.useFree_keeps | with_reducible apply State.setReq_keeps
    | with_reducible apply State.isolation_keeps | with_reducible apply State.tryIssue_keeps
    | simp only [keeps_upd, keeps_obs, keeps_aon, keeps_err, keeps_rcd]
    | split
theorem State.drainWrite_keepsEq {b : Bool} {s0 : State} {s : State} {x1 : Nat} {x2 : Nat} {x3 : Nat} {x4 : Bytes} {x5 : Bool} {y : Bool} {t : State} (e : (State.drainWrite s x1 x2 x3 x4 x5) = (y, t)) (h : Keeps b s0 s) :
    Keeps b s0 t := by
  have := State.drainWrite_keeps s x1 x2 x3 x4 x5 h
  rw [e] at this; exact this
theorem State.drainWrites_keeps {b : Bool} {s0 : State} (x0 : Nat) (x1 : Nat) (x2 : Bool) (x3 : List (Nat × Bytes)) (s : State) (h : Keeps b s0 s) :
    Keeps b s0 (State.drainWrites x0 x1 x2 x3 s) := by
  induction x3 generalizing s with
  | nil => exact h
  | cons a r ih =>
    obtain ⟨a, d⟩ := a
    unfold State.drainWrites; try dsimp only
    split
    · exact ih _ (State.drainWrite_keepsEq ‹_› h)
    · exact State.failDrain_keeps _ _ _ (State.drainWrite_keepsEq ‹_› h)
theorem State.beginDrain_keeps {b : Bool} {s0 : State} (s : State) (x1 : Nat) (x2 : Nat) (x3 : Nat) (x4 : List TraceR) (h : Keeps b s0 s) :
    Keeps b s0 (State.beginDrain s x1 x2 x3 x4) := by
  unfold State.beginDrain
  repeat' first
    | with_reducible assumption | with_reducible apply State.modEng_keeps | with_reducible apply State.drainFlush_keeps
    | with_reducible apply State.drainWrites_keeps
    | simp only [keeps_upd, keeps_obs, keeps_aon, keeps_err, keeps_rcd]
theorem State.drainResponses_keeps {b : Bool} {s0 : State} {s : State} {x1 : List Req} {y : Bool} {t : State} (e : (State.drainResponses s x1) = some (y, t)) (h : Keeps b s0 s) :
    Keeps b s0 t := by
  induction x1 generalizing s with
  | nil => cases e; exact h
  | cons a r ih =>
    unfold State.drainResponses at e
    split at e
    · cases e
    · cases e; exact h
    · exact ih e (State.writeBack_keeps ‹_› h)
theorem State.setTraceBuf_keeps {b : Bool} {s0 : State} (s : State) (x1 : Nat) (x2 : List TraceR) (h : Keeps b s0 s) :
    Keeps b s0 (State.setTraceBuf s x1 x2) := by
  unfold State.setTraceBuf
  repeat' first | with_reducible assumption | simp only [keeps_upd, keeps_obs, keeps_aon, keeps_err, keeps_rcd] | with_reducible apply keeps_ite
theorem State.publishDrain_keeps {b : Bool} {s0 : State} (s : State) (x1 : Nat) (x2 : Nat) (x3 : Nat) (x4 : List TraceR) (h : Keeps b s0 s) :
    Keeps b s0 (State.publishDrain s x1 x2 x3 x4) := by
  unfold State.publishDrain
  repeat' first
    | with_reducible assumption | with_reducible apply State.setTraceBuf_keeps | with_reducible apply State.leaveDrain_keeps
    | with_reducible apply State.setTrp_keeps
theorem State.endDrain_keeps {b : Bool} {s0 : State} (s : State) (x1 : Nat) (x2 : Bool) (h : Keeps b s0 s) :
    Keeps b s0 (State.endDrain s x1 x2) := by
  unfold State.endDrain
  try dsimp only
  repeat' first
    | with_reducible assumption | with_reducible apply State.publishDrain_keeps | with_reducible apply State.failDrain_keeps
    | with_reducible apply State.drainFlush_keeps | with_reducible refine State.drainResponses_keeps (by assumption) ?_
    | split
theorem State.wakeAll_keeps {b : Bool} {s0 : State} (s : State) (h : Keeps b s0 s) :
    Keeps b s0 (State.wakeAll s) := by
  unfold State.wakeAll
  repeat' first
    | with_reducible assumption | with_reducible apply State.wake_keeps
    | (with_reducible apply keeps_foldl; intro _ _ _; try dsimp only)
theorem State.startTack_keeps {b : Bool} {s0 : State} (s : State) (x1 : BitVec 4) (h : Keeps b s0 s) :
    Keeps b s0 (State.startTack s x1) := by
  unfold State.startTack
  repeat' first | with_reducible assumption | with_reducible apply State.wakeAll_keeps | simp only [keeps_upd, keeps_obs, keeps_aon, keeps_err, keeps_rcd]
theorem State.tackStore_keeps {b : Bool} {s0 : State} (s : State) (x1 : List Nat) (h : Keeps b s0 s) :
    Keeps b s0 (State.tackStore s x1) := by
  unfold State.tackStore
  dsimp only
  apply State.watchDev_keeps
  have h1 := State.unveilRange_keeps s (bits s.obs.tkbase.toNat 51 12 * 4096) tackLen h
  generalize s.unveilRange (bits s.obs.tkbase.toNat 51 12 * 4096) tackLen = u at h1 ⊢
  refine keeps_mem h1 (fun w => ?_) rfl rfl rfl rfl rfl rfl
  have hf : ∀ (l : List Host.Cell) (m : Memory), Memory.wf m = true →
      Memory.wf (l.foldl (fun m c => Memory.write m (bits s.obs.tkbase.toNat 51 12 * 4096 + c.1) c.2) m) = true := by
    intro l; induction l with
    | nil => exact fun _ h => h
    | cons a r ih => exact fun m hm => ih _ (wf_write _ _ _ hm)
  exact hf _ _ (wf_filter _ _ w)
theorem State.afterDiscard_keeps {b : Bool} {s0 : State} (s : State) (x1 : Req) (h : Keeps b s0 s) :
    Keeps b s0 (State.afterDiscard s x1) := by
  unfold State.afterDiscard
  try dsimp only
  repeat' first
    | with_reducible assumption | with_reducible apply State.dropCmd_keeps | with_reducible apply State.releaseFences_keeps
    | with_reducible apply State.leaveDrain_keeps | with_reducible apply State.pleatSettle_keeps
    | with_reducible apply State.compSettle_keeps | with_reducible apply keeps_ite
    | (with_reducible apply keeps_foldl; intro _ _ _; try dsimp only) | split | intro _ _ _
theorem State.clearContexts_keeps {b : Bool} {s0 : State} (s : State) (x1 : Nat) (h : Keeps b s0 s) :
    Keeps b s0 (State.clearContexts s x1) := by
  unfold State.clearContexts
  repeat' first
    | with_reducible assumption | with_reducible apply State.setTrn_keeps | with_reducible apply State.acceptInv_keeps
    | (with_reducible apply keeps_foldl; intro _ _ _; try dsimp only)
theorem State.closeWindows_keeps {b : Bool} {s0 : State} (s : State) (x1 : Nat) (h : Keeps b s0 s) :
    Keeps b s0 (State.closeWindows s x1) := by
  unfold State.closeWindows
  repeat' first
    | with_reducible assumption | with_reducible apply State.commitWin_keeps
    | (with_reducible apply keeps_foldl; intro _ _ _; try dsimp only)
theorem State.dropAts_keeps {b : Bool} {s0 : State} (s : State) (x1 : Nat) (h : Keeps b s0 s) :
    Keeps b s0 (State.dropAts s x1) := by
  unfold State.dropAts
  repeat' first | with_reducible assumption | with_reducible apply State.setTrn_keeps
theorem State.configure_keeps {b : Bool} {s0 : State} (s : State) (x1 : Nat) (x2 : CfgWrite) (h : Keeps b s0 s) :
    Keeps b s0 (State.configure s x1 x2) := by
  unfold State.configure
  try dsimp only
  repeat' first
    | with_reducible assumption | with_reducible apply State.setFn_keeps | with_reducible apply State.setLink_keeps
    | with_reducible apply State.dropAts_keeps | with_reducible apply State.release_keeps
    | with_reducible apply State.writeBar_keeps | with_reducible apply State.writeVfBar_keeps
    | with_reducible apply State.modFltp_keeps | with_reducible apply State.routeEntry_keeps
    | with_reducible apply State.setLinkStat_keeps | (with_reducible apply keeps_foldl; intro _ _ _; try dsimp only) | split
theorem State.discardHeld_keeps {b : Bool} {s0 : State} (s : State) (x1 : Nat) (h : Keeps b s0 s) :
    Keeps b s0 (State.discardHeld s x1) := by
  unfold State.discardHeld
  repeat' first
    | with_reducible assumption | with_reducible apply State.dropWalk_keeps | with_reducible apply State.dropReqs_keeps
    | with_reducible apply State.settleFlights_keeps | with_reducible apply State.finishFlight_keeps
    | with_reducible apply State.afterDiscard_keeps | (with_reducible apply keeps_foldl; intro _ _ _; try dsimp only) | split
theorem State.dropLookaheads_keeps {b : Bool} {s0 : State} (s : State) (x1 : Nat) (h : Keeps b s0 s) :
    Keeps b s0 (State.dropLookaheads s x1) := by
  unfold State.dropLookaheads
  repeat' first
    | with_reducible assumption | with_reducible apply State.discardAll_keeps
    | (with_reducible apply keeps_foldl; intro _ _ _; try dsimp only)
theorem State.endFaults_keeps {b : Bool} {s0 : State} (s : State) (x1 : Nat) (h : Keeps b s0 s) :
    Keeps b s0 (State.endFaults s x1) := by
  unfold State.endFaults
  repeat' first
    | with_reducible assumption | with_reducible apply State.withdrawReqs_keeps | with_reducible apply State.tileFails_keeps
    | with_reducible apply State.emit_keeps | (with_reducible apply keeps_foldl; intro _ _ _; try dsimp only) | split
theorem State.unbindTiles_keeps {b : Bool} {s0 : State} (s : State) (x1 : Nat) (h : Keeps b s0 s) :
    Keeps b s0 (State.unbindTiles s x1) := by
  unfold State.unbindTiles
  repeat' first | with_reducible assumption | with_reducible apply State.setTrn_keeps
theorem State.resetQueues_keeps {b : Bool} {s0 : State} (s : State) (x1 : Nat) (h : Keeps b s0 s) :
    Keeps b s0 (State.resetQueues s x1) := by
  unfold State.resetQueues
  repeat' first
    | with_reducible assumption | with_reducible apply State.resetQueue_keeps
    | (with_reducible apply keeps_foldl; intro _ _ _; try dsimp only)
theorem State.startFlr_keeps {b : Bool} {s0 : State} (s : State) (x1 : Nat) (h : Keeps b s0 s) :
    Keeps b s0 (State.startFlr s x1) := by
  unfold State.startFlr
  repeat' first
    | with_reducible assumption | with_reducible apply State.setFn_keeps | with_reducible apply State.unbindTiles_keeps
    | with_reducible apply State.closeWindows_keeps | with_reducible apply State.dropLookaheads_keeps
    | with_reducible apply State.endFaults_keeps | with_reducible apply State.resetQueues_keeps
    | with_reducible apply keeps_ite
theorem State.flrOf_keeps {b : Bool} {s0 : State} (s : State) (x1 : Nat) (h : Keeps b s0 s) :
    Keeps b s0 (State.flrOf s x1) := by
  unfold State.flrOf
  repeat' first
    | with_reducible assumption | with_reducible apply State.startFlr_keeps | with_reducible apply keeps_ite
    | (with_reducible apply keeps_foldl; intro _ _ _; try dsimp only)
theorem State.freeSlots_keeps {b : Bool} {s0 : State} (s : State) (x1 : Nat) (h : Keeps b s0 s) :
    Keeps b s0 (State.freeSlots s x1) := by
  unfold State.freeSlots
  repeat' first
    | with_reducible assumption | with_reducible apply State.emit_keeps | simp only [keeps_upd, keeps_obs, keeps_aon, keeps_err, keeps_rcd]
    | with_reducible apply keeps_ite
theorem State.quarantine_keeps {b : Bool} {s0 : State} (s : State) (x1 : Nat) (x2 : Nat) (x3 : Nat) (x4 : BitVec 9) (x5 : Bool) (h : Keeps b s0 s) :
    Keeps b s0 (State.quarantine s x1 x2 x3 x4 x5) := by
  unfold State.quarantine
  repeat' first | with_reducible assumption | simp only [keeps_upd, keeps_obs, keeps_aon, keeps_err, keeps_rcd]
theorem State.raiseVeil_keeps {b : Bool} {s0 : State} (s : State) (x1 : Nat) (h : Keeps b s0 s) :
    Keeps b s0 (State.raiseVeil s x1) := by
  unfold State.raiseVeil
  repeat' first | with_reducible assumption | simp only [keeps_upd, keeps_obs, keeps_aon, keeps_err, keeps_rcd]
theorem State.reportTimeout_keeps {b : Bool} {s0 : State} (s : State) (x1 : Nat) (x2 : Nat) (x3 : BitVec 9) (h : Keeps b s0 s) :
    Keeps b s0 (State.reportTimeout s x1 x2 x3) := by
  unfold State.reportTimeout
  repeat' first
    | with_reducible assumption | with_reducible apply State.emit_keeps | with_reducible apply State.aerReport_keeps
    | with_reducible apply State.quarantine_keeps
theorem State.resetConfig_keeps {b : Bool} {s0 : State} (s : State) (x1 : Nat) (h : Keeps b s0 s) :
    Keeps b s0 (State.resetConfig s x1) := by
  unfold State.resetConfig
  repeat' first
    | with_reducible assumption | with_reducible apply State.setFn_keeps | with_reducible apply State.setLink_keeps
    | with_reducible apply keeps_ite | (with_reducible apply keeps_foldl; intro _ _ _; try dsimp only)
theorem State.timeOutReq_keeps {b : Bool} {s0 : State} (s : State) (x1 : Req) (h : Keeps b s0 s) :
    Keeps b s0 (State.timeOutReq s x1) := by
  unfold State.timeOutReq
  repeat' first
    | with_reducible assumption | with_reducible apply State.handOn_keeps | with_reducible apply State.setReq_keeps
    | with_reducible apply State.reportTimeout_keeps | split
theorem State.timeOutOrphan_keeps {b : Bool} {s0 : State} (s : State) (x1 : Req) (h : Keeps b s0 s) :
    Keeps b s0 (State.timeOutOrphan s x1) := by
  unfold State.timeOutOrphan
  repeat' first
    | with_reducible assumption | with_reducible apply State.reportTimeout_keeps
    | simp only [keeps_upd, keeps_obs, keeps_aon, keeps_err, keeps_rcd]
theorem State.timeOutFlush_keeps {b : Bool} {s0 : State} (s : State) (x1 : Cmd) (h : Keeps b s0 s) :
    Keeps b s0 (State.timeOutFlush s x1) := by
  unfold State.timeOutFlush
  repeat' first
    | with_reducible assumption | with_reducible apply State.flushEnds_keeps | with_reducible apply State.reportTimeout_keeps
    | split
theorem State.timeOutDrain_keeps {b : Bool} {s0 : State} (s : State) (x1 : Nat) (x2 : Nat) (x3 : Nat) (h : Keeps b s0 s) :
    Keeps b s0 (State.timeOutDrain s x1 x2 x3) := by
  unfold State.timeOutDrain
  repeat' first
    | with_reducible assumption | with_reducible apply State.endDrain_keeps | with_reducible apply State.reportTimeout_keeps
theorem State.timeOutAts_keeps {b : Bool} {s0 : State} (s : State) (x1 : Walk) (h : Keeps b s0 s) :
    Keeps b s0 (State.timeOutAts s x1) := by
  unfold State.timeOutAts
  repeat' first
    | with_reducible assumption | with_reducible apply State.atsAnswer_keeps | with_reducible apply State.quarantine_keeps
    | with_reducible apply State.reportTimeout_keeps | with_reducible apply keeps_ite
theorem State.timeOutProof_keeps {b : Bool} {s0 : State} (s : State) (x1 : Nat) (x2 : Proof) (h : Keeps b s0 s) :
    Keeps b s0 (State.timeOutProof s x1 x2) := by
  unfold State.timeOutProof
  repeat' first
    | with_reducible assumption | with_reducible apply State.loseProof_keeps | with_reducible apply State.quarantine_keeps
theorem State.timeOutTag_keeps {b : Bool} {s0 : State} (s : State) (x1 : Nat → Bool) (x2 : Nat) (h : Keeps b s0 s) :
    Keeps b s0 (State.timeOutTag s x1 x2) := by
  unfold State.timeOutTag
  repeat' first
    | with_reducible assumption | with_reducible apply State.timeOutReq_keeps
    | with_reducible apply State.timeOutOrphan_keeps | with_reducible apply State.timeOutFlush_keeps
    | with_reducible apply State.timeOutDrain_keeps | with_reducible apply State.timeOutAts_keeps
    | with_reducible apply State.timeOutProof_keeps | split
theorem State.timeOutPart_keeps {b : Bool} {s0 : State} (s : State) (x1 : Nat) (h : Keeps b s0 s) :
    Keeps b s0 (State.timeOutPart s x1) := by
  unfold State.timeOutPart
  repeat' first
    | with_reducible assumption | with_reducible apply State.timeOutTag_keeps
    | (with_reducible apply keeps_foldl; intro _ _ _; try dsimp only)
theorem State.resetLink_keeps {b : Bool} {s0 : State} (s : State) (x1 : Nat) (h : Keeps b s0 s) :
    Keeps b s0 (State.resetLink s x1) := by
  unfold State.resetLink
  repeat' first
    | with_reducible assumption | with_reducible apply State.dropHeld_keeps | with_reducible apply State.startFlr_keeps
    | with_reducible apply State.timeOutPart_keeps | with_reducible apply State.setFn_keeps
    | with_reducible apply State.setLinkStat_keeps | with_reducible apply State.setLink_keeps
    | (with_reducible apply keeps_foldl; intro _ _ _; try dsimp only)
theorem State.resetSources_keeps {b : Bool} {s0 : State} (s : State) (x1 : Nat) (h : Keeps b s0 s) :
    Keeps b s0 (State.resetSources s x1) := by
  unfold State.resetSources
  repeat' first | with_reducible assumption | simp only [keeps_upd, keeps_obs, keeps_aon, keeps_err, keeps_rcd]
theorem State.resetRegs_keeps {b : Bool} {s0 : State} (s : State) (x1 : Nat) (h : Keeps b s0 s) :
    Keeps b s0 (State.resetRegs s x1) := by
  have h2 : Keeps b s0 (State.resetSources (State.setFltp (State.freeSlots (s.clearContexts x1) x1) x1
      { gens := (s.fltp x1).gens, order := (s.fltp x1).order }) x1) :=
    State.resetSources_keeps _ _ (State.setFltp_keeps _ _ _ (State.freeSlots_keeps _ _ (State.clearContexts_keeps _ _ h)))
  unfold State.resetRegs
  dsimp only
  generalize State.resetSources _ _ = u at h2 ⊢
  exact ⟨h2.1, h2.2, h2.3, h2.4, h2.5, h2.6, h2.7, h2.8, h2.9, h2.10, h2.11, h2.12⟩
theorem State.portBounce_keeps {b : Bool} {s0 : State} (s : State) (x1 : Req) (h : Keeps b s0 s) :
    Keeps b s0 (State.portBounce s x1) := by
  unfold State.portBounce
  try dsimp only
  repeat' first
    | with_reducible assumption | with_reducible apply State.dropReq_keeps | with_reducible apply State.recordFailed_keeps
    | with_reducible apply State.raiseFaultSource_keeps | with_reducible apply State.modFltp_keeps
    | with_reducible apply State.failDrain_keeps | with_reducible apply State.bounceAt_keeps
    | with_reducible apply State.useFree_keeps | split
theorem State.closePort_keeps {b : Bool} {s0 : State} (s : State) (x1 : Nat) (x2 : Req → Bool) (h : Keeps b s0 s) :
    Keeps b s0 (State.closePort s x1 x2) := by
  unfold State.closePort
  repeat' first
    | with_reducible assumption | with_reducible apply State.portBounce_keeps | with_reducible apply State.sweepDead_keeps
    | (with_reducible apply keeps_foldl; intro _ _ _; try dsimp only) | split
theorem State.fenceWalker_keeps {b : Bool} {s0 : State} (s : State) (x1 : Nat) (h : Keeps b s0 s) :
    Keeps b s0 (State.fenceWalker s x1) := by
  unfold State.fenceWalker
  repeat' first
    | with_reducible assumption | with_reducible apply State.dropWalk_keeps | with_reducible apply State.setTrn_keeps
    | simp only [keeps_upd, keeps_obs, keeps_aon, keeps_err, keeps_rcd] | split
theorem State.fenceLayer_keeps {b : Bool} {s0 : State} (s : State) (x1 : Nat) (h : Keeps b s0 s) :
    Keeps b s0 (State.fenceLayer s x1) := by
  unfold State.fenceLayer
  repeat' first
    | with_reducible assumption | with_reducible apply State.pulses_keeps | with_reducible apply State.dropHeld_keeps
    | simp only [keeps_upd, keeps_obs, keeps_aon, keeps_err, keeps_rcd]
theorem State.fencePort_keeps {b : Bool} {s0 : State} (s : State) (x1 : Nat) (h : Keeps b s0 s) :
    Keeps b s0 (State.fencePort s x1) := by
  unfold State.fencePort
  repeat' first
    | with_reducible assumption | with_reducible apply State.timeOutPart_keeps | with_reducible apply State.setLinkStat_keeps
    | with_reducible apply State.setLink_keeps | with_reducible apply State.dropHeld_keeps | with_reducible apply keeps_ite
    | (with_reducible apply keeps_foldl; intro _ _ _; try dsimp only)
theorem State.degrade_keeps {b : Bool} {s0 : State} (s : State) (x1 : Nat) (x2 : Nat) (h : Keeps b s0 s) :
    Keeps b s0 (State.degrade s x1 x2) := by
  unfold State.degrade
  repeat' first
    | with_reducible assumption | with_reducible apply State.fenceWalker_keeps | with_reducible apply State.pleatFence_keeps
    | with_reducible apply State.compFence_keeps | with_reducible apply State.discardAll_keeps
    | with_reducible apply State.fenceLayer_keeps | with_reducible apply State.fencePort_keeps
    | simp only [keeps_upd, keeps_obs, keeps_aon, keeps_err, keeps_rcd]
    | split
theorem State.dropBadEntry_keeps {b : Bool} {s0 : State} (s : State) (h : Keeps b s0 s) :
    Keeps b s0 (State.dropBadEntry s) := by
  unfold State.dropBadEntry
  try dsimp only
  repeat' first
    | with_reducible assumption | with_reducible apply State.useFree_keeps | with_reducible apply State.setTrn_keeps | split
theorem State.endAmendment_keeps {b : Bool} {s0 : State} (s : State) (x1 : Byte) (h : Keeps b s0 s) :
    Keeps b s0 (State.endAmendment s x1) := by
  unfold State.endAmendment
  repeat' first
    | with_reducible assumption | with_reducible apply State.dropReqs_keeps | with_reducible apply State.setSysev_keeps
    | simp only [keeps_upd, keeps_obs, keeps_aon, keeps_err, keeps_rcd]
theorem State.fenceUnit_keeps {b : Bool} {s0 : State} (s : State) (x1 : Nat) (x2 : Nat) (h : Keeps b s0 s) :
    Keeps b s0 (State.fenceUnit s x1 x2) := by
  unfold State.fenceUnit
  repeat' first
    | with_reducible assumption | with_reducible apply State.setUnit_keeps | with_reducible apply State.degrade_keeps
    | with_reducible apply State.endAmendment_keeps | with_reducible apply keeps_ite
theorem State.react_keeps {b : Bool} {s0 : State} (s : State) (x1 : Nat) (h : Keeps b s0 s) :
    Keeps b s0 (State.react s x1) := by
  unfold State.react
  dsimp only
  split
  · split
    · exact State.closePort_keeps _ _ _ h
    · split
      · exact State.closePort_keeps _ _ _ h
      · exact State.fenceUnit_keeps _ _ _ h
  · have h1 : Keeps b s0 (if (errUnit x1).1 = 0 then s else s.fenceUnit (errUnit x1).1 (errUnit x1).2) :=
      keeps_ite _ h (State.fenceUnit_keeps _ _ _ h)
    generalize (if (errUnit x1).1 = 0 then s else s.fenceUnit (errUnit x1).1 (errUnit x1).2) = u at h1 ⊢
    have h2 : Keeps b s0 { u with err := { u.err with halt := true } } :=
      keeps_errs h1 (fun _ h => h) (fun _ => rfl) rfl rfl rfl rfl rfl rfl
    split
    · exact h2
    · exact State.emit_keeps _ _ (keeps_foldl _ (fun s a hs => State.aerReport_keeps s _ _ hs) _ _ h2)
  · exact h
theorem State.latchAll_keeps {b : Bool} {s0 : State} (s : State) (x1 : List Nat) (h : Keeps b s0 s) :
    Keeps b s0 (State.latchAll s x1) := by
  have hb : ∀ (l : List Nat) (b : BitVec 512) (n : Nat), b.getLsbD n = true → (l.foldl (fun b n => setBit b n true) b).getLsbD n = true := by
    intro l; induction l with
    | nil => exact fun _ _ h => h
    | cons a r ih => exact fun b n hn => ih _ _ (setBit_true _ _ _ hn)
  have h1 : Keeps b s0 { s with err := { s.err with sticky := x1.foldl (fun b n => setBit b n true) s.err.sticky, handling := s.err.handling || x1.any isLevel } } :=
    keeps_errs h (fun n hn => hb _ _ _ hn) id rfl rfl rfl rfl rfl rfl
  have h2 := keeps_foldl State.react (fun s a hs => State.react_keeps s a hs) x1 _ (State.relevel_keeps _ s h1)
  unfold State.latchAll
  dsimp only
  apply State.updFerr_keeps
  exact (keeps_err ..).2 h2
theorem State.poisonAt_keeps {b : Bool} {s0 : State} (s : State) (x1 : Nat) (h : Keeps b s0 s) :
    Keeps b s0 (State.poisonAt s x1) := by
  unfold State.poisonAt
  repeat' first | with_reducible assumption | simp only [keeps_upd, keeps_obs, keeps_aon, keeps_err, keeps_rcd] | with_reducible apply keeps_ite
theorem State.resumeCommits_keeps {b : Bool} {s0 : State} (s : State) (h : Keeps b s0 s) :
    Keeps b s0 (State.resumeCommits s) := by
  unfold State.resumeCommits
  repeat' first
    | with_reducible assumption | with_reducible apply State.settleAccepted_keeps
    | (with_reducible apply keeps_foldl; intro _ _ _; try dsimp only)
theorem State.applyBars_keeps {b : Bool} {s0 : State} (s : State) (x1 : Nat) (x2 : Nat) (h : Keeps b s0 s) :
    Keeps b s0 (State.applyBars s x1 x2) := by
  unfold State.applyBars
  repeat' first
    | with_reducible assumption | with_reducible apply State.setLink_keeps | simp only [keeps_upd, keeps_obs, keeps_aon, keeps_err, keeps_rcd]
    | (with_reducible apply keeps_foldl; intro _ _ _; try dsimp only)
theorem State.applyBound_keeps {b : Bool} {s0 : State} (s : State) (x1 : Nat) (x2 : W64) (x3 : W64) (h : Keeps b s0 s) :
    Keeps b s0 (State.applyBound s x1 x2 x3) := by
  unfold State.applyBound
  repeat' first | with_reducible assumption | simp only [keeps_upd, keeps_obs, keeps_aon, keeps_err, keeps_rcd]
theorem State.applyPart_keeps {b : Bool} {s0 : State} (s : State) (x1 : Nat) (x2 : PartCfg) (h : Keeps b s0 s) :
    Keeps b s0 (State.applyPart s x1 x2) := by
  unfold State.applyPart
  repeat' first | with_reducible assumption | simp only [keeps_upd, keeps_obs, keeps_aon, keeps_err, keeps_rcd]
theorem State.applyRecSet_keeps {b : Bool} {s0 : State} (s : State) (x1 : Nat) (x2 : Bytes) (h : Keeps b s0 s) :
    Keeps b s0 (State.applyRecSet s x1 x2) := by
  have hm : Memory.wf s.rcd.sram = true → Memory.wf (Memory.writeAll s.rcd.sram (0x4840 + 256 * x1) (x2.take 256)) = true := wf_writeAll _ _ _
  unfold State.applyRecSet
  generalize Memory.writeAll _ _ _ = m at hm ⊢
  exact keeps_sram h hm rfl rfl rfl rfl rfl rfl
theorem State.applyImage_keeps {b : Bool} {s0 : State} (s : State) (x1 : Image) (h : Keeps b s0 s) :
    Keeps b s0 (State.applyImage s x1) := by
  have h1 : Keeps b s0 { s with
      aon := { s.aon with ident := x1.ident, pll := x1.pll, imgver := x1.imgver, slpctl := x1.slpctl &&& maskSlpctl,
                          deepok := x1.deepok &&& s.maskDeepok }
      host := { s.host with bifA := x1.bifA, bifB := x1.bifB, portB := x1.portB, cxlA := x1.cxlA, cxlB := x1.cxlB }
      seam := { s.seam with peer := x1.peer }
      lin := { s.lin with base := x1.winBase, size := x1.winSize, en := x1.winSize != 0 }
      rcd := { s.rcd with mode := x1.recMode } } :=
    ⟨h.1, h.2, h.3, h.4, h.5, h.6, h.7, h.8, h.9, h.10, h.11, h.12⟩
  have h8 := keeps_foldl (fun (s : State) x => s.applyRecSet x.1 x.2) (fun s a hs => State.applyRecSet_keeps s _ _ hs) x1.recSets _
    (keeps_foldl (fun (s : State) x => s.setTally x.1 { s.tally x.1 with owner := some x.2 }) (fun s a hs => State.setTally_keeps s _ _ hs) x1.talOwners _
    (keeps_foldl (fun (s : State) x => s.setSrc x.1 { s.src x.1 with owner := some x.2 }) (fun s a hs => State.setSrc_keeps s _ _ hs) x1.srcOwners _
    (keeps_foldl (fun (s : State) x => { s with seam := { s.seam with route := s.seam.route.set x.1 x.2 } }) (fun s a hs => (keeps_upd ..).2 hs) x1.routes _
    (keeps_foldl (fun (s : State) x => s.applyBound x.1 x.2.1 x.2.2) (fun s a hs => State.applyBound_keeps s _ _ _ hs) x1.bound _
    (keeps_foldl (fun (s : State) x => s.applyPart x.1 x.2) (fun s a hs => State.applyPart_keeps s _ _ hs) x1.parts _
    (State.setSram_keeps _ 8 1 (b2n x1.recMode) (State.applyBars_keeps _ x1.pfBar x1.vfBar h1)))))))
  unfold State.applyImage
  dsimp only
  split
  · exact h8
  · exact State.emit_keeps _ _ h8
theorem State.enterSleep_keeps {b : Bool} {s0 : State} (s : State) (x1 : Nat) (h : Keeps b s0 s) :
    Keeps b s0 (State.enterSleep s x1) := by
  unfold State.enterSleep
  repeat' first | with_reducible assumption | with_reducible apply State.discardAll_keeps | with_reducible apply keeps_ite
theorem State.leavePool_keeps {b : Bool} {s0 : State} (s : State) (x1 : Nat) (x2 : Nat) (h : Keeps b s0 s) :
    Keeps b s0 (State.leavePool s x1 x2) := by
  unfold State.leavePool
  repeat' first
    | with_reducible assumption | with_reducible apply State.discardAll_keeps
    | simp only [keeps_upd, keeps_obs, keeps_aon, keeps_err, keeps_rcd] | split
theorem State.makeStale_keeps {b : Bool} {s0 : State} (s : State) (x1 : Nat) (x2 : Nat) (h : Keeps b s0 s) :
    Keeps b s0 (State.makeStale s x1 x2) := by
  unfold State.makeStale
  repeat' first | with_reducible assumption | with_reducible apply State.setUnit_keeps
theorem State.presentFns_keeps {b : Bool} {s0 : State} (s : State) (h : Keeps b s0 s) :
    Keeps b s0 (State.presentFns s) := by
  unfold State.presentFns
  repeat' first
    | with_reducible assumption | with_reducible apply State.setFn_keeps | with_reducible apply keeps_ite
    | (with_reducible apply keeps_foldl; intro _ _ _; try dsimp only)
theorem State.veilAll_keeps {b : Bool} {s0 : State} (s : State) (h : Keeps b s0 s) :
    Keeps b s0 (State.veilAll s) := by
  unfold State.veilAll
  repeat' first | with_reducible assumption | simp only [keeps_upd, keeps_obs, keeps_aon, keeps_err, keeps_rcd]
theorem State.recover_keeps {b : Bool} {s0 : State} (s : State) (x1 : BitVec 5) (h : Keeps b s0 s) :
    Keeps b s0 (State.recover s x1) := by
  unfold State.recover
  repeat' first
    | with_reducible assumption | with_reducible apply State.updFerr_keeps | with_reducible apply State.veilAll_keeps
    | simp only [keeps_upd, keeps_obs, keeps_aon, keeps_err, keeps_rcd]
theorem State.wakeComp_keeps {b : Bool} {s0 : State} (s : State) (x1 : Nat) (h : Keeps b s0 s) :
    Keeps b s0 (State.wakeComp s x1) := by
  unfold State.wakeComp
  repeat' first | with_reducible assumption | with_reducible apply State.askRecord_keeps | with_reducible apply keeps_ite
theorem State.wipeScratch_keeps {b : Bool} {s0 : State} (s : State) (h : Keeps b s0 s) :
    Keeps b s0 (State.wipeScratch s) := by
  exact keeps_mem h (wf_clear _ _ _) rfl rfl rfl rfl rfl rfl
theorem State.wipeWindow_keeps {b : Bool} {s0 : State} (s : State) (h : Keeps b s0 s) :
    Keeps b s0 (State.wipeWindow s) := by
  exact keeps_mem h (wf_clear _ _ _) rfl rfl rfl rfl rfl rfl
theorem State.copiedAmendment_keeps {b : Bool} {s0 : State} {s : State} {t : State} (e : (State.copiedAmendment s) = some t) (h : Keeps b s0 s) :
    Keeps b s0 t := by
  unfold State.copiedAmendment at e
  try dsimp only at e
  repeat' split at e
  all_goals try cases e; done
  all_goals first | contradiction | (simp only [Option.some.injEq] at e; subst e)
  all_goals
  repeat' first
    | with_reducible assumption | with_reducible apply State.dropReq_keeps
    | simp only [keeps_upd, keeps_obs, keeps_aon, keeps_err, keeps_rcd]
theorem State.copyAmendment_keeps {b : Bool} {s0 : State} (s : State) (h : Keeps b s0 s) :
    Keeps b s0 (State.copyAmendment s) := by
  unfold State.copyAmendment
  repeat' first
    | with_reducible assumption | with_reducible apply State.isolation_keeps | with_reducible apply State.useFree_keeps
    | with_reducible apply State.addPhys_keeps | simp only [keeps_upd, keeps_obs, keeps_aon, keeps_err, keeps_rcd]
    | with_reducible apply keeps_ite
theorem State.forget_keeps {b : Bool} {s0 : State} (s : State) (x1 : Nat) (x2 : Nat) (h : Keeps b s0 s) :
    Keeps b s0 (State.forget s x1 x2) := by
  unfold State.forget
  repeat' first
    | with_reducible assumption | with_reducible apply State.setTrn_keeps | with_reducible apply State.discardAll_keeps
    | split
theorem State.joinPool_keeps {b : Bool} {s0 : State} (s : State) (x1 : Nat) (x2 : Nat) (h : Keeps b s0 s) :
    Keeps b s0 (State.joinPool s x1 x2) := by
  unfold State.joinPool
  repeat' first
    | with_reducible assumption | with_reducible apply State.modEng_keeps | with_reducible apply State.modComp_keeps
    | simp only [keeps_upd, keeps_obs, keeps_aon, keeps_err, keeps_rcd] | split
theorem State.setGaps_keeps {b : Bool} {s0 : State} (s : State) (h : Keeps b s0 s) :
    Keeps b s0 (State.setGaps s) := by
  unfold State.setGaps
  repeat' first | with_reducible assumption | simp only [keeps_upd, keeps_obs, keeps_aon, keeps_err, keeps_rcd]
theorem State.resumeUnit_keeps {b : Bool} {s0 : State} (s : State) (x1 : Nat) (x2 : Nat) (h : Keeps b s0 s) :
    Keeps b s0 (State.resumeUnit s x1 x2) := by
  unfold State.resumeUnit
  repeat' first
    | with_reducible assumption | with_reducible apply State.moveHostAgent_keeps
    | with_reducible apply State.deliverAll_keeps | with_reducible apply State.setGaps_keeps | split
theorem State.startDrain_keeps {b : Bool} {s0 : State} (s : State) (x1 : Nat) (x2 : Nat) (h : Keeps b s0 s) :
    Keeps b s0 (State.startDrain s x1 x2) := by
  unfold State.startDrain
  repeat' first
    | with_reducible assumption | with_reducible apply State.wake_keeps | with_reducible apply State.leavePool_keeps
    | with_reducible apply State.setUnit_keeps
    | simp only [keeps_upd, keeps_obs, keeps_aon, keeps_err, keeps_rcd] | with_reducible apply keeps_ite
theorem State.advanceCursor_keeps {b : Bool} {s0 : State} (s : State) (x1 : Who) (h : Keeps b s0 s) :
    Keeps b s0 (State.advanceCursor s x1) := by
  unfold State.advanceCursor
  repeat' first | with_reducible assumption | simp only [keeps_upd, keeps_obs, keeps_aon, keeps_err, keeps_rcd]
theorem State.capture_keeps {b : Bool} {s0 : State} (s : State) (x1 : Nat) (h : Keeps b s0 s) :
    Keeps b s0 (State.capture s x1) := by
  have hm : Memory.wf s.rcd.sram = true → Memory.wf (Memory.writeAll (Memory.clear s.rcd.sram (ringBase + 512 * s.rcd.next.toNat)
      (ringBase + 512 * s.rcd.next.toNat + 512)) (ringBase + 512 * s.rcd.next.toNat) (s.slotBytes x1)) = true :=
    fun w => wf_writeAll _ _ _ (wf_clear _ _ _ w)
  unfold State.capture
  dsimp only
  generalize Memory.writeAll _ _ _ = m at hm ⊢
  exact ⟨h.1, h.2, h.3, fun w => hm (h.4 w), h.5, h.6, h.7, h.8, h.9, h.10, h.11, h.12⟩
theorem State.clearHist_keeps {b : Bool} {s0 : State} (s : State) (x1 : Nat) (h : Keeps b s0 s) :
    Keeps b s0 (State.clearHist s x1) := by
  have hm : Memory.wf s.rcd.sram = true → Memory.wf (Memory.clear (Memory.clear s.rcd.sram (x1 + 24) (x1 + 32)) (x1 + 32) (x1 + 160)) = true :=
    fun w => wf_clear _ _ _ (wf_clear _ _ _ w)
  unfold State.clearHist
  dsimp only
  generalize Memory.clear _ _ _ = m at hm ⊢
  exact State.setSram_keeps _ _ _ _ (keeps_sram h hm rfl rfl rfl rfl rfl rfl)
theorem State.clearTracker_keeps {b : Bool} {s0 : State} (s : State) (x1 : Nat) (h : Keeps b s0 s) :
    Keeps b s0 (State.clearTracker s x1) := by
  unfold State.clearTracker
  repeat' first | with_reducible assumption | with_reducible apply State.setSram_keeps
theorem State.recClear_keeps {b : Bool} {s0 : State} (s : State) (h : Keeps b s0 s) :
    Keeps b s0 (State.recClear s) := by
  have h1 := keeps_foldl (fun (s : State) k => s.clearHist (histBase + 160 * k)) (fun s a hs => State.clearHist_keeps s _ hs) (List.range 64) s h
  have h2 := keeps_foldl (fun (s : State) k => s.clearTracker (k + 2)) (fun s a hs => State.clearTracker_keeps s _ hs) (List.range 254) _ h1
  unfold State.recClear
  dsimp only
  apply State.setSram_keeps
  generalize List.foldl (fun (s : State) k => s.clearTracker (k + 2)) _ _ = u at h2 ⊢
  exact keeps_sram h2 (wf_clear _ _ _) rfl rfl rfl rfl rfl rfl
theorem State.setLatch_keeps {b : Bool} {s0 : State} (s : State) (x1 : Who) (x2 : Option W32) (h : Keeps b s0 s) :
    Keeps b s0 (State.setLatch s x1 x2) := by
  unfold State.setLatch
  repeat' first | with_reducible assumption | simp only [keeps_upd, keeps_obs, keeps_aon, keeps_err, keeps_rcd]
theorem State.recRead_keeps {b : Bool} {s0 : State} (s : State) (x1 : Who) (x2 : Half) (h : Keeps b s0 s) :
    Keeps b s0 (State.recRead s x1 x2).2 := by
  unfold State.recRead
  repeat' first
    | with_reducible assumption | with_reducible apply State.advanceCursor_keeps | with_reducible apply State.setLatch_keeps
    | split
theorem State.recRead_keepsEq {b : Bool} {s0 : State} {s : State} {x1 : Who} {x2 : Half} {y : Nat} {t : State} (e : (State.recRead s x1 x2) = (y, t)) (h : Keeps b s0 s) :
    Keeps b s0 t := by
  have := State.recRead_keeps s x1 x2 h
  rw [e] at this; exact this
theorem State.sramPut_keeps {b : Bool} {s0 : State} (s : State) (x1 : Nat) (x2 : Bytes) (h : Keeps b s0 s) :
    Keeps b s0 (State.sramPut s x1 x2) := by
  have hm : Memory.wf s.rcd.sram = true → Memory.wf (Memory.writeEn s.rcd.sram x1 x2 ((List.range x2.length).map fun i => sramWritable (x1 + i))) = true :=
    wf_writeEn _ _ _ _
  unfold State.sramPut
  dsimp only
  generalize Memory.writeEn _ _ _ _ = m at hm ⊢
  have h1 : Keeps b s0 { s with rcd := { s.rcd with sram := m } } := keeps_sram h hm rfl rfl rfl rfl rfl rfl
  repeat' first | exact h1 | apply State.clearHist_keeps | split
theorem State.recWrite_keeps {b : Bool} {s0 : State} (s : State) (x1 : Who) (x2 : Half) (x3 : W64) (h : Keeps b s0 s) :
    Keeps b s0 (State.recWrite s x1 x2 x3) := by
  unfold State.recWrite
  repeat' first
    | with_reducible assumption | with_reducible apply State.sramPut_keeps | with_reducible apply State.advanceCursor_keeps
    | with_reducible apply keeps_ite
theorem State.setMode_keeps {b : Bool} {s0 : State} (s : State) (x1 : Bool) (h : Keeps b s0 s) :
    Keeps b s0 (State.setMode s x1) := by
  unfold State.setMode
  repeat' first | with_reducible assumption | with_reducible apply State.setSram_keeps | simp only [keeps_upd, keeps_obs, keeps_aon, keeps_err, keeps_rcd]
theorem State.snapAll_keeps {b : Bool} {s0 : State} (s : State) (h : Keeps b s0 s) :
    Keeps b s0 (State.snapAll s) := by
  unfold State.snapAll
  repeat' first
    | with_reducible assumption | with_reducible apply State.capture_keeps | with_reducible apply keeps_ite
    | (with_reducible apply keeps_foldl; intro _ _ _; try dsimp only)
theorem State.writeRecCtl_keeps {b : Bool} {s0 : State} (s : State) (x1 : W32) (h : Keeps b s0 s) :
    Keeps b s0 (State.writeRecCtl s x1) := by
  unfold State.writeRecCtl
  repeat' first
    | with_reducible assumption | with_reducible apply State.setMode_keeps | with_reducible apply State.recClear_keeps
    | with_reducible apply State.snapAll_keeps | simp only [keeps_upd, keeps_obs, keeps_aon, keeps_err, keeps_rcd] | with_reducible apply keeps_ite
theorem State.cfgQueue_keeps {b : Bool} {s0 : State} (s : State) (x1 : Who) (x2 : Queue → Queue) (h : Keeps b s0 s) :
    Keeps b s0 (State.cfgQueue s x1 x2) := by
  unfold State.cfgQueue
  repeat' first | with_reducible assumption | with_reducible apply State.modQueue_keeps | split
theorem State.clearHalted_keeps {b : Bool} {s0 : State} (s : State) (x1 : Nat) (x2 : Nat) (x3 : Nat) (h : Keeps b s0 s) :
    Keeps b s0 (State.clearHalted s x1 x2 x3) := by
  unfold State.clearHalted
  repeat' first | with_reducible assumption | simp only [keeps_upd, keeps_obs, keeps_aon, keeps_err, keeps_rcd]
theorem State.countForeign_keeps {b : Bool} {s0 : State} (s : State) (x1 : Who) (x2 : Nat) (h : Keeps b s0 s) :
    Keeps b s0 (State.countForeign s x1 x2) := by
  unfold State.countForeign
  repeat' first | with_reducible assumption | with_reducible apply State.isolation_keeps | with_reducible apply keeps_ite
theorem State.dropHigh_keeps {b : Bool} {s0 : State} (s : State) (x1 : Who) (x2 : Nat) (h : Keeps b s0 s) :
    Keeps b s0 (State.dropHigh s x1 x2) := by
  unfold State.dropHigh
  repeat' first | with_reducible assumption | simp only [keeps_upd, keeps_obs, keeps_aon, keeps_err, keeps_rcd]
theorem State.holdHigh_keeps {b : Bool} {s0 : State} (s : State) (x1 : Who) (x2 : Nat) (x3 : W32) (h : Keeps b s0 s) :
    Keeps b s0 (State.holdHigh s x1 x2 x3) := by
  unfold State.holdHigh
  repeat' first | with_reducible assumption | with_reducible apply State.dropHigh_keeps | simp only [keeps_upd, keeps_obs, keeps_aon, keeps_err, keeps_rcd]
theorem State.rcClear_keeps {b : Bool} {s0 : State} (s : State) (x1 : Who) (x2 : RcReg) (h : Keeps b s0 s) :
    Keeps b s0 (State.rcClear s x1 x2) := by
  unfold State.rcClear
  repeat' first
    | with_reducible assumption | with_reducible apply State.setLin_keeps | with_reducible apply State.setWin_keeps
    | with_reducible apply State.setTrp_keeps
    | simp only [keeps_upd, keeps_obs, keeps_aon, keeps_err, keeps_rcd]
    | split
theorem State.readHalf_keeps {b : Bool} {s0 : State} (s : State) (x1 : Who) (x2 : Nat) (x3 : Half) (h : Keeps b s0 s) :
    Keeps b s0 (State.readHalf s x1 x2 x3).2 := by
  unfold State.readHalf
  repeat' first
    | with_reducible assumption | with_reducible apply State.rcClear_keeps | with_reducible apply State.holdHigh_keeps
    | with_reducible apply State.dropHigh_keeps | split
theorem State.readHalf_keepsEq {b : Bool} {s0 : State} {s : State} {x1 : Who} {x2 : Nat} {x3 : Half} {y : Nat} {t : State} (e : (State.readHalf s x1 x2 x3) = (y, t)) (h : Keeps b s0 s) :
    Keeps b s0 t := by
  have := State.readHalf_keeps s x1 x2 x3 h
  rw [e] at this; exact this
theorem State.readReg_keeps {b : Bool} {s0 : State} (s : State) (x1 : Who) (x2 : Nat) (x3 : Half) (h : Keeps b s0 s) :
    Keeps b s0 (State.readReg s x1 x2 x3).2 := by
  unfold State.readReg
  repeat' first
    | with_reducible assumption | with_reducible apply State.claim_keeps
    | with_reducible refine State.claim_keepsEq (by assumption) ?_ | with_reducible apply State.skentRead_keeps
    | with_reducible refine State.skentRead_keepsEq (by assumption) ?_ | with_reducible apply State.readHalf_keeps
    | with_reducible refine State.readHalf_keepsEq (by assumption) ?_ | with_reducible apply State.recRead_keeps
    | with_reducible refine State.recRead_keepsEq (by assumption) ?_ | with_reducible apply State.countForeign_keeps | split
theorem State.readReg_keepsEq {b : Bool} {s0 : State} {s : State} {x1 : Who} {x2 : Nat} {x3 : Half} {y : Nat} {t : State} (e : (State.readReg s x1 x2 x3) = (y, t)) (h : Keeps b s0 s) :
    Keeps b s0 t := by
  have := State.readReg_keeps s x1 x2 x3 h
  rw [e] at this; exact this
theorem State.readWord_keeps {b : Bool} {s0 s : State} {w : Who} {o : Nat} {x : Nat × State}
    (e : s.readWord w o = some x) (h : Keeps b s0 s) : Keeps b s0 x.2 := by
  unfold State.readWord at e
  split at e
  · cases e; exact State.readReg_keeps _ _ _ _ h
  · split at e
    · cases e; exact State.readReg_keeps _ _ _ _ h
    · cases e
theorem State.readPair_keeps {b : Bool} {s0 : State} (s : State) (x1 : Who) (x2 : Nat) (h : Keeps b s0 s) :
    Keeps b s0 (State.readPair s x1 x2).2 := by
  unfold State.readPair
  split
  · rename_i x e
    have h1 := State.readWord_keeps e h
    split
    · rename_i y e2; exact State.readWord_keeps (x := y) e2 h1
    · exact h1
  · split
    · rename_i y e2; exact State.readWord_keeps (x := y) e2 h
    · exact State.badAccess_keeps _ h
theorem State.readPair_keepsEq {b : Bool} {s0 : State} {s : State} {x1 : Who} {x2 : Nat} {y : Nat} {t : State} (e : (State.readPair s x1 x2) = (y, t)) (h : Keeps b s0 s) :
    Keeps b s0 t := by
  have := State.readPair_keeps s x1 x2 h
  rw [e] at this; exact this
theorem State.readAt_keeps {b : Bool} {s0 : State} (s : State) (x1 : Who) (x2 : Nat) (x3 : Nat) (h : Keeps b s0 s) :
    Keeps b s0 (State.readAt s x1 x2 x3).2 := by
  unfold State.readAt
  split
  · cases e : s.readWord x1 x2 with
    | none => exact State.badAccess_keeps _ h
    | some x => exact State.readWord_keeps e h
  · repeat' first | with_reducible assumption | with_reducible apply State.readReg_keeps | with_reducible apply State.readPair_keeps | with_reducible apply State.badAccess_keeps | split
theorem State.readAt_keepsEq {b : Bool} {s0 : State} {s : State} {x1 : Who} {x2 : Nat} {x3 : Nat} {y : Nat} {t : State} (e : (State.readAt s x1 x2 x3) = (y, t)) (h : Keeps b s0 s) :
    Keeps b s0 t := by
  have := State.readAt_keeps s x1 x2 x3 h
  rw [e] at this; exact this
theorem State.readView_keeps {b : Bool} {s0 : State} (s : State) (x1 : Who) (x2 : Nat) (x3 : Nat) (h : Keeps b s0 s) :
    Keeps b s0 (State.readView s x1 x2 x3) := by
  unfold State.readView
  repeat' first
    | with_reducible assumption | with_reducible apply State.fenceRead_keeps | with_reducible apply State.readAt_keeps
    | with_reducible refine State.readAt_keepsEq (by assumption) ?_ | with_reducible apply State.badAccess_keeps
    | with_reducible apply answerRead_keeps | split
theorem State.stage_keeps {b : Bool} {s0 : State} (s : State) (x1 : Win → Win) (h : Keeps b s0 s) :
    Keeps b s0 (State.stage s x1) := by
  unfold State.stage
  repeat' first | with_reducible assumption | with_reducible apply State.setWin_keeps | with_reducible apply keeps_ite
theorem State.writeErrCfg_keeps {b : Bool} {s0 : State} (s : State) (x1 : Nat) (x2 : Nat) (h : Keeps b s0 s) :
    Keeps b s0 (State.writeErrCfg s x1 x2) := by
  unfold State.writeErrCfg
  repeat' first
    | with_reducible assumption | with_reducible apply State.updFerr_keeps | with_reducible apply State.relevel_keeps
    | simp only [keeps_upd, keeps_obs, keeps_aon, keeps_err, keeps_rcd] | with_reducible apply keeps_ite
theorem State.writeGalSel_keeps {b : Bool} {s0 : State} (s : State) (x1 : Who) (x2 : Nat) (h : Keeps b s0 s) :
    Keeps b s0 (State.writeGalSel s x1 x2) := by
  unfold State.writeGalSel
  repeat' first | with_reducible assumption | simp only [keeps_upd, keeps_obs, keeps_aon, keeps_err, keeps_rcd]
theorem State.writePmode_keeps {b : Bool} {s0 : State} (s : State) (x1 : Nat) (x2 : Nat) (h : Keeps b s0 s) :
    Keeps b s0 (State.writePmode s x1 x2) := by
  unfold State.writePmode
  repeat' first | with_reducible assumption | with_reducible apply State.setTrn_keeps | with_reducible apply keeps_ite
theorem State.writeSkcfg_keeps {b : Bool} {s0 : State} (s : State) (x1 : Who) (x2 : Nat) (x3 : Nat) (h : Keeps b s0 s) :
    Keeps b s0 (State.writeSkcfg s x1 x2 x3) := by
  unfold State.writeSkcfg
  repeat' first | with_reducible assumption | simp only [keeps_upd, keeps_obs, keeps_aon, keeps_err, keeps_rcd] | with_reducible apply keeps_ite
theorem State.countBusy_keeps {b : Bool} {s0 : State} (s : State) (h : Keeps b s0 s) :
    Keeps b s0 (State.countBusy s) := by
  unfold State.countBusy
  repeat' first
    | with_reducible assumption | with_reducible apply State.pcntAdd_keeps
    | (with_reducible apply keeps_foldl; intro _ _ _; try dsimp only)
theorem State.countTime_keeps {b : Bool} {s0 : State} (s : State) (h : Keeps b s0 s) :
    Keeps b s0 (State.countTime s) := by
  unfold State.countTime
  repeat' first | with_reducible assumption | simp only [keeps_upd, keeps_obs, keeps_aon, keeps_err, keeps_rcd] | with_reducible apply keeps_ite
theorem State.rejoinTick_keeps {b : Bool} {s0 : State} (s : State) (h : Keeps b s0 s) :
    Keeps b s0 (State.rejoinTick s) := by
  unfold State.rejoinTick
  repeat' first | with_reducible assumption | simp only [keeps_upd, keeps_obs, keeps_aon, keeps_err, keeps_rcd]
theorem State.sense_keeps {b : Bool} {s0 : State} (s : State) (h : Keeps b s0 s) :
    Keeps b s0 (State.sense s) := by
  unfold State.sense
  repeat' first | with_reducible assumption | simp only [keeps_upd, keeps_obs, keeps_aon, keeps_err, keeps_rcd] | with_reducible apply keeps_ite
theorem State.tick_keeps {b : Bool} {s0 : State} (s : State) (h : Keeps b s0 s) :
    Keeps b s0 (State.tick s) := by
  unfold State.tick
  repeat' first
    | with_reducible assumption | with_reducible apply State.rejoinTick_keeps | with_reducible apply State.sense_keeps
    | with_reducible apply State.countBusy_keeps | with_reducible apply State.countTime_keeps
    | simp only [keeps_upd, keeps_obs, keeps_aon, keeps_err, keeps_rcd] | with_reducible apply keeps_ite

end Sys2Proof.Machine
end

