-- ==== Sys2Proof/Laws/Meanings.lean ====
section
/-! SUPPORT. What the meanings leave as it is, one lemma for each. -/

set_option linter.unusedSimpArgs false
set_option Elab.async false

namespace Sys2Proof.Machine

open Sys2Proof

/-- If the answer is a next state, it keeps what `Keeps` names. -/
structure AnsKeeps (b : Bool) (s : State) (a : Ans) : Prop where
  go : ∀ t, a = .next t → Keeps b s t
theorem ans_next_keeps {b : Bool} {s t : State} (h : Keeps b s t) : AnsKeeps b s (.next t) := ⟨fun _ e => by cases e; exact h⟩
theorem ans_ite_keeps {p : Bool} {s : State} (c : Prop) [Decidable c] {a b : Ans} (ha : AnsKeeps p s a) (hb : AnsKeeps p s b) : AnsKeeps p s (if c then a else b) := by
  split <;> assumption
theorem inUnit_keeps {u : Bool} {s0 : State} (c i : Nat) (s : State) (k : State → Ans) (h : Keeps u s0 s) (hk : ∀ s, Keeps u s0 s → AnsKeeps u s0 (k s)) :
    AnsKeeps u s0 (inUnit c i s k) := by
  exact ans_ite_keeps _ (hk _ h) (ans_next_keeps h)
theorem inPort_keeps {u : Bool} {s0 : State} (p : Nat) (s : State) (k : State → Ans) (h : Keeps u s0 s) (hk : ∀ s, Keeps u s0 s → AnsKeeps u s0 (k s)) :
    AnsKeeps u s0 (inPort p s k) := by
  exact ans_ite_keeps _ (hk _ h) (ans_next_keeps h)
theorem delivered_keeps {u : Bool} {s0 : State} (c : Instr) (s : State) (k : State → Ans) (h : Keeps u s0 s) (hk : ∀ s, Keeps u s0 s → AnsKeeps u s0 (k s)) :
    AnsKeeps u s0 (delivered c s k) := by
  exact ans_ite_keeps _ (hk _ h) (ans_next_keeps (State.hold_keeps _ _ h))
theorem fromCore_keeps {u : Bool} {s0 : State} (c : Fin 8) (s : State) (k : State → Ans) (h : Keeps u s0 s) (hk : ∀ s, Keeps u s0 s → AnsKeeps u s0 (k s)) :
    AnsKeeps u s0 (fromCore c s k) := by
  exact ans_ite_keeps _ (ans_next_keeps (State.emit_keeps _ _ h)) (hk _ h)
theorem heard_keeps {u : Bool} {s0 : State} (w : Who) (s : State) (k : State → Ans) (h : Keeps u s0 s) (hk : ∀ s, Keeps u s0 s → AnsKeeps u s0 (k s)) :
    AnsKeeps u s0 (heard w s k) := by
  cases w with
  | core c => exact fromCore_keeps _ _ _ h hk
  | fn p => exact ans_ite_keeps _ (hk _ h) (ans_ite_keeps _ (ans_next_keeps (State.badAccess_keeps _ h)) (ans_next_keeps h))
theorem heardRead_keeps {u : Bool} {s0 : State} (w : Who) (s : State) (k : State → Ans) (h : Keeps u s0 s) (hk : ∀ s, Keeps u s0 s → AnsKeeps u s0 (k s)) :
    AnsKeeps u s0 (heardRead w s k) := by
  cases w with
  | core c => exact fromCore_keeps _ _ _ h hk
  | fn p => exact ans_ite_keeps _ (hk _ h) (ans_ite_keeps _ (ans_next_keeps (State.emit_keeps _ _ (State.badAccess_keeps _ h))) (ans_ite_keeps _ (ans_next_keeps (State.emit_keeps _ _ h)) (ans_next_keeps h)))
theorem heardAon_keeps {u : Bool} {s0 : State} (w : Who) (s : State) (k : State → Ans) (h : Keeps u s0 s) (hk : ∀ s, Keeps u s0 s → AnsKeeps u s0 (k s)) :
    AnsKeeps u s0 (heardAon w s k) := by
  cases w with
  | core c => exact fromCore_keeps _ _ _ h hk
  | fn p => exact ans_ite_keeps _ (hk _ h) (ans_next_keeps h)
theorem heardAonRead_keeps {u : Bool} {s0 : State} (w : Who) (s : State) (k : State → Ans) (h : Keeps u s0 s) (hk : ∀ s, Keeps u s0 s → AnsKeeps u s0 (k s)) :
    AnsKeeps u s0 (heardAonRead w s k) := by
  cases w with
  | core c => exact fromCore_keeps _ _ _ h hk
  | fn p => exact ans_ite_keeps _ (hk _ h) (heardRead_keeps _ _ _ h hk)
theorem gated_keeps {u : Bool} {s0 : State} (d : Nat) (s : State) (k : State → Ans) (h : Keeps u s0 s) (hk : ∀ s, Keeps u s0 s → AnsKeeps u s0 (k s)) :
    AnsKeeps u s0 (gated d s k) := by
  unfold gated; split
  · exact hk _ h
  · exact ans_next_keeps h
  · exact ans_next_keeps (State.wake_keeps _ _ h)
theorem galley_keeps {u : Bool} {s0 : State} (s : State) (k : State → Ans) (h : Keeps u s0 s) (hk : ∀ s, Keeps u s0 s → AnsKeeps u s0 (k s)) :
    AnsKeeps u s0 (galley s k) := by
  exact inUnit_keeps _ _ _ _ h fun s h => gated_keeps _ _ _ h hk
theorem atCommit_keeps {u : Bool} {s0 : State} (q op : Nat) (s : State) (k : State → Bytes → State) (h : Keeps u s0 s)
    (hk : ∀ s b, Keeps u s0 s → Keeps u s0 (k s b)) : AnsKeeps u s0 (atCommit q op s k) := by
  refine galley_keeps _ _ h fun s h => ?_
  dsimp only
  split
  · exact ans_next_keeps h
  · split
    · exact ans_next_keeps (State.makeWait_keeps _ _ _ h)
    · exact ans_next_keeps (keeps_ite _ (State.commitEnd_keeps _ _ _ h) (hk _ _ h))
theorem onQueue_keeps {u : Bool} {s0 : State} (c : Instr) (w : Who) (s : State) (k : State → Nat → State) (h : Keeps u s0 s)
    (hk : ∀ s q, Keeps u s0 s → Keeps u s0 (k s q)) : AnsKeeps u s0 (onQueue c w s k) := by
  refine delivered_keeps _ _ _ h fun s h => heard_keeps _ _ _ h fun s h => ?_
  split
  · exact ans_next_keeps h
  · exact ans_next_keeps (hk _ _ h)
theorem onEng_keeps {u : Bool} {s0 : State} (c : Instr) (w : Who) (s : State) (k : State → Nat → State) (h : Keeps u s0 s)
    (hk : ∀ s e, Keeps u s0 s → Keeps u s0 (k s e)) : AnsKeeps u s0 (onEng c w s k) := by
  refine delivered_keeps _ _ _ h fun s h => heard_keeps _ _ _ h fun s h => ?_
  split
  · exact ans_next_keeps h
  · exact ans_ite_keeps _ (ans_next_keeps (hk _ _ h)) (ans_next_keeps h)
theorem execClaim_keeps {b : Bool} {s0 : State} (x0 : Who) (x1 : BankId) (s : State) (h : Keeps b s0 s) :
    AnsKeeps b s0 (execClaim x0 x1 s) := by
  unfold execClaim
  repeat' first
    | with_reducible assumption | with_reducible refine delivered_keeps _ _ _ ?_ (fun _ _ => ?_)
    | with_reducible refine heardRead_keeps _ _ _ ?_ (fun _ _ => ?_) | with_reducible apply ans_next_keeps
    | with_reducible apply ans_ite_keeps | with_reducible apply State.claim_keeps
    | with_reducible refine State.claim_keepsEq (by assumption) ?_ | with_reducible apply answerRead_keeps
theorem execCoalesceTime_keeps {b : Bool} {s0 : State} (x0 : BankId) (s : State) (h : Keeps b s0 s) :
    AnsKeeps b s0 (execCoalesceTime x0 s) := by
  unfold execCoalesceTime
  repeat' first
    | with_reducible assumption | with_reducible apply ans_next_keeps | with_reducible apply ans_ite_keeps
    | with_reducible apply State.tryDeliver_keeps | with_reducible apply State.setBank_keeps
theorem execGctlWrite_keeps {b : Bool} {s0 : State} (x0 : Who) (x1 : W32) (s : State) (h : Keeps b s0 s) :
    AnsKeeps b s0 (execGctlWrite x0 x1 s) := by
  unfold execGctlWrite
  repeat' first
    | with_reducible assumption | with_reducible refine delivered_keeps _ _ _ ?_ (fun _ _ => ?_)
    | with_reducible refine heard_keeps _ _ _ ?_ (fun _ _ => ?_) | with_reducible apply ans_next_keeps
    | with_reducible apply ans_ite_keeps | with_reducible apply State.deliverAll_keeps
    | simp only [keeps_upd, keeps_obs, keeps_aon, keeps_err, keeps_rcd] | split
theorem execMsixHeldSend_keeps {b : Bool} {s0 : State} (x0 : Fin 16) (x1 : Fin 128) (s : State) (h : Keeps b s0 s) :
    AnsKeeps b s0 (execMsixHeldSend x0 x1 s) := by
  unfold execMsixHeldSend
  repeat' first
    | with_reducible assumption | with_reducible apply ans_next_keeps | with_reducible apply ans_ite_keeps
    | with_reducible apply State.emitMsix_keeps | with_reducible apply State.setFn_keeps
theorem execPendClear_keeps {b : Bool} {s0 : State} (x0 : Who) (x1 : Fin 64) (x2 : W32) (s : State) (h : Keeps b s0 s) :
    AnsKeeps b s0 (execPendClear x0 x1 x2 s) := by
  unfold execPendClear
  repeat' first
    | with_reducible assumption | with_reducible refine delivered_keeps _ _ _ ?_ (fun _ _ => ?_)
    | with_reducible refine heard_keeps _ _ _ ?_ (fun _ _ => ?_) | with_reducible apply ans_next_keeps
    | with_reducible apply ans_ite_keeps | with_reducible apply State.withdraw_keeps
    | (with_reducible apply keeps_foldl; intro _ _ _; try dsimp only) | split
theorem execSourceComplete_keeps {b : Bool} {s0 : State} (x0 : Who) (x1 : BankId) (x2 : BitVec 11) (s : State) (h : Keeps b s0 s) :
    AnsKeeps b s0 (execSourceComplete x0 x1 x2 s) := by
  unfold execSourceComplete
  repeat' first
    | with_reducible assumption | with_reducible refine delivered_keeps _ _ _ ?_ (fun _ _ => ?_)
    | with_reducible refine heard_keeps _ _ _ ?_ (fun _ _ => ?_) | with_reducible apply ans_next_keeps
    | with_reducible apply ans_ite_keeps | with_reducible apply State.setSrc_keeps | with_reducible apply State.countEdge_keeps
    | split
theorem execSourceEdge_keeps {b : Bool} {s0 : State} (x0 : Fin 2048) (s : State) (h : Keeps b s0 s) :
    AnsKeeps b s0 (execSourceEdge x0 s) := by
  unfold execSourceEdge
  repeat' first
    | with_reducible assumption | with_reducible refine delivered_keeps _ _ _ ?_ (fun _ _ => ?_)
    | with_reducible apply ans_next_keeps | with_reducible apply ans_ite_keeps | with_reducible apply State.latchEdge_keeps
    | simp only [keeps_upd, keeps_obs, keeps_aon, keeps_err, keeps_rcd]
theorem execSourceLineFall_keeps {b : Bool} {s0 : State} (x0 : Fin 2048) (s : State) (h : Keeps b s0 s) :
    AnsKeeps b s0 (execSourceLineFall x0 s) := by
  unfold execSourceLineFall
  repeat' first
    | with_reducible assumption | with_reducible refine delivered_keeps _ _ _ ?_ (fun _ _ => ?_)
    | with_reducible apply ans_next_keeps | with_reducible apply ans_ite_keeps | with_reducible apply State.withdraw_keeps
theorem execSysevClear_keeps {b : Bool} {s0 : State} (x0 : Who) (x1 : W32) (s : State) (h : Keeps b s0 s) :
    AnsKeeps b s0 (execSysevClear x0 x1 s) := by
  unfold execSysevClear
  repeat' first
    | with_reducible assumption | with_reducible refine delivered_keeps _ _ _ ?_ (fun _ _ => ?_)
    | with_reducible refine heard_keeps _ _ _ ?_ (fun _ _ => ?_) | with_reducible apply ans_next_keeps
    | with_reducible apply ans_ite_keeps | simp only [keeps_upd, keeps_obs, keeps_aon, keeps_err, keeps_rcd]
theorem execTgtWrite_keeps {b : Bool} {s0 : State} (x0 : Who) (x1 : Fin 2048) (x2 : W32) (s : State) (h : Keeps b s0 s) :
    AnsKeeps b s0 (execTgtWrite x0 x1 x2 s) := by
  unfold execTgtWrite
  repeat' first
    | with_reducible assumption | with_reducible refine delivered_keeps _ _ _ ?_ (fun _ _ => ?_)
    | with_reducible refine heard_keeps _ _ _ ?_ (fun _ _ => ?_) | with_reducible apply ans_next_keeps
    | with_reducible apply ans_ite_keeps | with_reducible apply State.isolation_keeps | with_reducible apply State.setSrc_keeps
    | with_reducible apply State.countEdge_keeps
    | simp only [keeps_upd, keeps_obs, keeps_aon, keeps_err, keeps_rcd] | split
theorem execTalCountWrite_keeps {b : Bool} {s0 : State} (x0 : Who) (x1 : BitVec 16) (x2 : W64) (s : State) (h : Keeps b s0 s) :
    AnsKeeps b s0 (execTalCountWrite x0 x1 x2 s) := by
  unfold execTalCountWrite
  repeat' first
    | with_reducible assumption | with_reducible refine delivered_keeps _ _ _ ?_ (fun _ _ => ?_)
    | with_reducible refine heard_keeps _ _ _ ?_ (fun _ _ => ?_) | with_reducible apply ans_next_keeps
    | with_reducible apply ans_ite_keeps | with_reducible apply State.putTally_keeps | with_reducible apply State.isolation_keeps
theorem execTalThrWrite_keeps {b : Bool} {s0 : State} (x0 : Who) (x1 : BitVec 16) (x2 : W64) (s : State) (h : Keeps b s0 s) :
    AnsKeeps b s0 (execTalThrWrite x0 x1 x2 s) := by
  unfold execTalThrWrite
  repeat' first
    | with_reducible assumption | with_reducible refine delivered_keeps _ _ _ ?_ (fun _ _ => ?_)
    | with_reducible refine heard_keeps _ _ _ ?_ (fun _ _ => ?_) | with_reducible apply ans_next_keeps
    | with_reducible apply ans_ite_keeps | with_reducible apply State.putTally_keeps | with_reducible apply State.isolation_keeps
theorem execTownAssign_keeps {b : Bool} {s0 : State} (x0 : Who) (x1 : Fin 16) (x2 : BitVec 16) (s : State) (h : Keeps b s0 s) :
    AnsKeeps b s0 (execTownAssign x0 x1 x2 s) := by
  unfold execTownAssign
  repeat' first
    | with_reducible assumption | with_reducible refine delivered_keeps _ _ _ ?_ (fun _ _ => ?_)
    | with_reducible refine heard_keeps _ _ _ ?_ (fun _ _ => ?_) | with_reducible apply ans_next_keeps
    | with_reducible apply ans_ite_keeps | with_reducible apply State.townRefuse_keeps
    | with_reducible apply State.setTally_keeps
theorem execTownRelease_keeps {b : Bool} {s0 : State} (x0 : Who) (x1 : BitVec 16) (s : State) (h : Keeps b s0 s) :
    AnsKeeps b s0 (execTownRelease x0 x1 s) := by
  unfold execTownRelease
  repeat' first
    | with_reducible assumption | with_reducible refine delivered_keeps _ _ _ ?_ (fun _ _ => ?_)
    | with_reducible refine heard_keeps _ _ _ ?_ (fun _ _ => ?_) | with_reducible apply ans_next_keeps
    | with_reducible apply ans_ite_keeps | with_reducible apply State.townRefuse_keeps
    | with_reducible apply State.setTally_keeps
theorem execCommitTakesEffect_keeps {b : Bool} {s0 : State} (x0 : Fin 1024) (s : State) (h : Keeps b s0 s) :
    AnsKeeps b s0 (execCommitTakesEffect x0 s) := by
  unfold execCommitTakesEffect
  repeat' first
    | with_reducible assumption | with_reducible refine inUnit_keeps _ _ _ _ ?_ (fun _ _ => ?_)
    | with_reducible apply ans_next_keeps | with_reducible apply ans_ite_keeps | with_reducible apply State.takeEffect_keeps
theorem execHupenPortTrained_keeps {b : Bool} {s0 : State} (x0 : Fin 12) (s : State) (h : Keeps b s0 s) :
    AnsKeeps b s0 (execHupenPortTrained x0 s) := by
  unfold execHupenPortTrained
  repeat' first
    | with_reducible assumption | with_reducible apply ans_next_keeps | with_reducible apply ans_ite_keeps
    | simp only [keeps_upd, keeps_obs, keeps_aon, keeps_err, keeps_rcd]
theorem execInboundAtm_keeps {b : Bool} {s0 : State} (x0 : Fin 12) (x1 : PktHead) (x2 : Ask) (x3 : AtomOp) (x4 : W64) (x5 : W64) (s : State) (h : Keeps b s0 s) :
    AnsKeeps b s0 (execInboundAtm x0 x1 x2 x3 x4 x5 s) := by
  unfold execInboundAtm
  repeat' first
    | with_reducible assumption | with_reducible refine delivered_keeps _ _ _ ?_ (fun _ _ => ?_)
    | with_reducible apply ans_next_keeps | with_reducible apply ans_ite_keeps | with_reducible apply State.inAtm_keeps
theorem execInboundCpl_keeps {b : Bool} {s0 : State} (x0 : Fin 12) (x1 : CplHead) (x2 : Reply) (s : State) (h : Keeps b s0 s) :
    AnsKeeps b s0 (execInboundCpl x0 x1 x2 s) := by
  unfold execInboundCpl
  repeat' first
    | with_reducible assumption | with_reducible refine delivered_keeps _ _ _ ?_ (fun _ _ => ?_)
    | with_reducible apply ans_next_keeps | with_reducible apply ans_ite_keeps | with_reducible apply State.peerDrop_keeps
    | with_reducible apply State.metric_keeps | with_reducible apply State.pieceHere_keeps
    | with_reducible apply State.lateCpl_keeps | split
theorem execInboundRd_keeps {b : Bool} {s0 : State} (x0 : Fin 12) (x1 : PktHead) (x2 : Ask) (x3 : Reply) (s : State) (h : Keeps b s0 s) :
    AnsKeeps b s0 (execInboundRd x0 x1 x2 x3 s) := by
  unfold execInboundRd
  repeat' first
    | with_reducible assumption | with_reducible refine delivered_keeps _ _ _ ?_ (fun _ _ => ?_)
    | with_reducible apply ans_next_keeps | with_reducible apply ans_ite_keeps | with_reducible apply State.inRd_keeps
theorem execInboundTadd_keeps {b : Bool} {s0 : State} (x0 : Fin 12) (x1 : PktHead) (x2 : BitVec 48) (s : State) (h : Keeps b s0 s) :
    AnsKeeps b s0 (execInboundTadd x0 x1 x2 s) := by
  unfold execInboundTadd
  repeat' first
    | with_reducible assumption | with_reducible refine delivered_keeps _ _ _ ?_ (fun _ _ => ?_)
    | with_reducible apply ans_next_keeps | with_reducible apply ans_ite_keeps | with_reducible apply State.inTadd_keeps
theorem execInboundWr_keeps {b : Bool} {s0 : State} (x0 : Fin 12) (x1 : PktHead) (x2 : Bytes) (x3 : List Bool) (s : State) (h : Keeps b s0 s) :
    AnsKeeps b s0 (execInboundWr x0 x1 x2 x3 s) := by
  unfold execInboundWr
  repeat' first
    | with_reducible assumption | with_reducible refine delivered_keeps _ _ _ ?_ (fun _ _ => ?_)
    | with_reducible apply ans_next_keeps | with_reducible apply ans_ite_keeps | with_reducible apply State.inWr_keeps
theorem execPeerCompletionTimeout_keeps {b : Bool} {s0 : State} (x0 : Nat) (s : State) (h : Keeps b s0 s) :
    AnsKeeps b s0 (execPeerCompletionTimeout x0 s) := by
  unfold execPeerCompletionTimeout
  repeat' first
    | with_reducible assumption | with_reducible apply ans_next_keeps | with_reducible apply ans_ite_keeps
    | with_reducible apply State.handOn_keeps | with_reducible apply State.setReq_keeps
    | simp only [keeps_upd, keeps_obs, keeps_aon, keeps_err, keeps_rcd] | split
theorem execWindowCommit_keeps {b : Bool} {s0 : State} (x0 : Who) (s : State) (h : Keeps b s0 s) :
    AnsKeeps b s0 (execWindowCommit x0 s) := by
  unfold execWindowCommit
  repeat' first
    | with_reducible assumption | with_reducible refine delivered_keeps _ _ _ ?_ (fun _ _ => ?_)
    | with_reducible refine heard_keeps _ _ _ ?_ (fun _ _ => ?_) | with_reducible apply ans_next_keeps
    | with_reducible apply ans_ite_keeps | with_reducible apply State.takeEffect_keeps
    | with_reducible apply State.scheduleWin_keeps | simp only [keeps_upd, keeps_obs, keeps_aon, keeps_err, keeps_rcd]
    | split
theorem execAgctlJoin_keeps {b : Bool} {s0 : State} (x0 : Who) (x1 : BitVec 7) (s : State) (h : Keeps b s0 s) :
    AnsKeeps b s0 (execAgctlJoin x0 x1 s) := by
  unfold execAgctlJoin
  repeat' first
    | with_reducible assumption | with_reducible refine delivered_keeps _ _ _ ?_ (fun _ _ => ?_)
    | with_reducible refine heard_keeps _ _ _ ?_ (fun _ _ => ?_) | with_reducible apply ans_next_keeps
    | with_reducible apply ans_ite_keeps | with_reducible apply State.linRefuse_keeps | with_reducible apply State.setLin_keeps
theorem execAgctlLeave_keeps {b : Bool} {s0 : State} (x0 : Who) (x1 : BitVec 7) (s : State) (h : Keeps b s0 s) :
    AnsKeeps b s0 (execAgctlLeave x0 x1 s) := by
  unfold execAgctlLeave
  repeat' first
    | with_reducible assumption | with_reducible refine delivered_keeps _ _ _ ?_ (fun _ _ => ?_)
    | with_reducible refine heard_keeps _ _ _ ?_ (fun _ _ => ?_) | with_reducible apply ans_next_keeps
    | with_reducible apply ans_ite_keeps | with_reducible apply State.linRefuse_keeps
    | with_reducible apply State.sweepLive_keeps
theorem execAgentSweepEnd_keeps {b : Bool} {s0 : State} (s : State) (h : Keeps b s0 s) :
    AnsKeeps b s0 (execAgentSweepEnd s) := by
  unfold execAgentSweepEnd
  repeat' first
    | with_reducible assumption | with_reducible refine inUnit_keeps _ _ _ _ ?_ (fun _ _ => ?_)
    | with_reducible apply ans_next_keeps | with_reducible apply ans_ite_keeps | with_reducible apply State.sweepNamed_keeps
    | with_reducible apply State.setLin_keeps | with_reducible apply State.setSysev_keeps
    | with_reducible apply State.depart_keeps | split | dsimp only
theorem execAtm_keeps {b : Bool} {s0 : State} (x0 : UReq) (s : State) (h : Keeps b s0 s) :
    AnsKeeps b s0 (execAtm x0 s) := by
  unfold execAtm
  repeat' first
    | with_reducible assumption | with_reducible refine inUnit_keeps _ _ _ _ ?_ (fun _ _ => ?_)
    | with_reducible refine gated_keeps _ _ _ ?_ (fun _ _ => ?_) | with_reducible apply ans_next_keeps
    | with_reducible apply ans_ite_keeps | with_reducible apply State.arrive_keeps | split
theorem execBiconflict_keeps {b : Bool} {s0 : State} (x0 : Bool) (x1 : Nat) (s : State) (h : Keeps b s0 s) :
    AnsKeeps b s0 (execBiconflict x0 x1 s) := by
  unfold execBiconflict
  repeat' first
    | with_reducible assumption | with_reducible refine delivered_keeps _ _ _ ?_ (fun _ _ => ?_)
    | with_reducible apply ans_next_keeps | with_reducible apply ans_ite_keeps | with_reducible apply State.emit_keeps
    | with_reducible apply State.setLin_keeps
theorem execCxlMemRequest_keeps {b : Bool} {s0 : State} (x0 : Bool) (x1 : BitVec 52) (x2 : CxlOp) (s : State) (h : Keeps b s0 s) :
    AnsKeeps b s0 (execCxlMemRequest x0 x1 x2 s) := by
  unfold execCxlMemRequest
  repeat' first
    | with_reducible assumption | with_reducible refine delivered_keeps _ _ _ ?_ (fun _ _ => ?_)
    | with_reducible apply ans_next_keeps | with_reducible apply ans_ite_keeps | with_reducible apply State.isolation_keeps
    | with_reducible apply State.emit_keeps | with_reducible apply State.cxlPlain_keeps
    | with_reducible apply State.agentReq_keeps | with_reducible apply State.cxlReq_keeps
    | with_reducible apply State.takeWbd_keeps | split
theorem execEvc_keeps {b : Bool} {s0 : State} (x0 : Fin 74) (x1 : Nat) (s : State) (h : Keeps b s0 s) :
    AnsKeeps b s0 (execEvc x0 x1 s) := by
  unfold execEvc
  repeat' first
    | with_reducible assumption | with_reducible refine delivered_keeps _ _ _ ?_ (fun _ _ => ?_)
    | with_reducible apply ans_next_keeps | with_reducible apply ans_ite_keeps | with_reducible apply State.agentReq_keeps
theorem execFlushSweepEnd_keeps {b : Bool} {s0 : State} (s : State) (h : Keeps b s0 s) :
    AnsKeeps b s0 (execFlushSweepEnd s) := by
  unfold execFlushSweepEnd
  repeat' first
    | with_reducible assumption | with_reducible refine inUnit_keeps _ _ _ _ ?_ (fun _ _ => ?_)
    | with_reducible apply ans_next_keeps | with_reducible apply ans_ite_keeps | with_reducible apply State.setSysev_keeps
    | with_reducible apply State.setLin_keeps | with_reducible apply State.flushAll_keeps
theorem execH2dSnoop_keeps {b : Bool} {s0 : State} (x0 : Bool) (x1 : BitVec 64) (s : State) (h : Keeps b s0 s) :
    AnsKeeps b s0 (execH2dSnoop x0 x1 s) := by
  unfold execH2dSnoop
  repeat' first
    | with_reducible assumption | with_reducible refine delivered_keeps _ _ _ ?_ (fun _ _ => ?_)
    | with_reducible apply ans_next_keeps | with_reducible apply ans_ite_keeps | with_reducible apply State.emit_keeps
theorem execHomeReadReturn_keeps {b : Bool} {s0 : State} (x0 : Nat) (x1 : Reply) (s : State) (h : Keeps b s0 s) :
    AnsKeeps b s0 (execHomeReadReturn x0 x1 s) := by
  unfold execHomeReadReturn
  repeat' first
    | with_reducible assumption | with_reducible refine inUnit_keeps _ _ _ _ ?_ (fun _ _ => ?_)
    | with_reducible apply ans_next_keeps | with_reducible apply ans_ite_keeps | with_reducible apply State.advance_keeps
    | with_reducible apply State.putTxn_keeps | split
theorem execHomeWriteResponse_keeps {b : Bool} {s0 : State} (x0 : Nat) (s : State) (h : Keeps b s0 s) :
    AnsKeeps b s0 (execHomeWriteResponse x0 s) := by
  unfold execHomeWriteResponse
  repeat' first
    | with_reducible assumption | with_reducible refine inUnit_keeps _ _ _ _ ?_ (fun _ _ => ?_)
    | with_reducible apply ans_next_keeps | with_reducible apply ans_ite_keeps | with_reducible apply State.performWrite_keeps
    | with_reducible apply State.putVictim_keeps | with_reducible apply State.homeWrite_keeps
    | with_reducible refine State.homeWrite_keepsEq (by assumption) ?_ | with_reducible apply State.advance_keeps
    | with_reducible apply State.putTxn_keeps | split
theorem execInboundWritePerformed_keeps {b : Bool} {s0 : State} (x0 : Nat) (s : State) (h : Keeps b s0 s) :
    AnsKeeps b s0 (execInboundWritePerformed x0 s) := by
  unfold execInboundWritePerformed
  repeat' first
    | with_reducible assumption | with_reducible refine inUnit_keeps _ _ _ _ ?_ (fun _ _ => ?_)
    | with_reducible apply ans_next_keeps | with_reducible apply ans_ite_keeps | with_reducible apply State.goOn_keeps
    | with_reducible apply State.finishFlight_keeps | with_reducible apply State.dropReqs_keeps
    | with_reducible apply State.performWrite_keeps | with_reducible apply State.countFlight_keeps | split
theorem execLinDisable_keeps {b : Bool} {s0 : State} (x0 : Who) (s : State) (h : Keeps b s0 s) :
    AnsKeeps b s0 (execLinDisable x0 s) := by
  unfold execLinDisable
  repeat' first
    | with_reducible assumption | with_reducible refine delivered_keeps _ _ _ ?_ (fun _ _ => ?_)
    | with_reducible refine heard_keeps _ _ _ ?_ (fun _ _ => ?_) | with_reducible apply ans_next_keeps
    | with_reducible apply ans_ite_keeps | with_reducible apply State.flushAll_keeps | with_reducible apply State.setLin_keeps
theorem execLinEnable_keeps {b : Bool} {s0 : State} (x0 : Who) (s : State) (h : Keeps b s0 s) :
    AnsKeeps b s0 (execLinEnable x0 s) := by
  unfold execLinEnable
  repeat' first
    | with_reducible assumption | with_reducible refine delivered_keeps _ _ _ ?_ (fun _ _ => ?_)
    | with_reducible refine heard_keeps _ _ _ ?_ (fun _ _ => ?_) | with_reducible apply ans_next_keeps
    | with_reducible apply ans_ite_keeps | with_reducible apply State.setLin_keeps | with_reducible apply State.toTiles_keeps
theorem execLinProbe_keeps {b : Bool} {s0 : State} (x0 : Who) (x1 : W64) (s : State) (h : Keeps b s0 s) :
    AnsKeeps b s0 (execLinProbe x0 x1 s) := by
  unfold execLinProbe
  repeat' first
    | with_reducible assumption | with_reducible refine delivered_keeps _ _ _ ?_ (fun _ _ => ?_)
    | with_reducible refine heard_keeps _ _ _ ?_ (fun _ _ => ?_) | with_reducible apply ans_next_keeps
    | with_reducible apply ans_ite_keeps | with_reducible apply State.setLin_keeps
theorem execNar_keeps {b : Bool} {s0 : State} (x0 : UReq) (s : State) (h : Keeps b s0 s) :
    AnsKeeps b s0 (execNar x0 s) := by
  unfold execNar
  repeat' first
    | with_reducible assumption | with_reducible refine inUnit_keeps _ _ _ _ ?_ (fun _ _ => ?_)
    | with_reducible refine gated_keeps _ _ _ ?_ (fun _ _ => ?_) | with_reducible apply ans_next_keeps
    | with_reducible apply ans_ite_keeps | with_reducible apply State.arrive_keeps | split
theorem execRds_keeps {b : Bool} {s0 : State} (x0 : Fin 74) (x1 : Nat) (s : State) (h : Keeps b s0 s) :
    AnsKeeps b s0 (execRds x0 x1 s) := by
  unfold execRds
  repeat' first
    | with_reducible assumption | with_reducible refine delivered_keeps _ _ _ ?_ (fun _ _ => ?_)
    | with_reducible apply ans_next_keeps | with_reducible apply ans_ite_keeps | with_reducible apply State.agentReq_keeps
theorem execRdx_keeps {b : Bool} {s0 : State} (x0 : Fin 74) (x1 : Nat) (s : State) (h : Keeps b s0 s) :
    AnsKeeps b s0 (execRdx x0 x1 s) := by
  unfold execRdx
  repeat' first
    | with_reducible assumption | with_reducible refine delivered_keeps _ _ _ ?_ (fun _ _ => ?_)
    | with_reducible apply ans_next_keeps | with_reducible apply ans_ite_keeps | with_reducible apply State.agentReq_keeps
theorem execSnoopResponse_keeps {b : Bool} {s0 : State} (x0 : Fin 74) (x1 : Nat) (x2 : SnpAns) (s : State) (h : Keeps b s0 s) :
    AnsKeeps b s0 (execSnoopResponse x0 x1 x2 s) := by
  unfold execSnoopResponse
  repeat' first
    | with_reducible assumption | with_reducible refine delivered_keeps _ _ _ ?_ (fun _ _ => ?_)
    | with_reducible apply ans_next_keeps | with_reducible apply ans_ite_keeps | with_reducible apply State.consumeWb_keeps
    | with_reducible apply State.answered_keeps | with_reducible apply State.wbDue_keeps | split
theorem execTransactionAdmit_keeps {b : Bool} {s0 : State} (x0 : Nat) (s : State) (h : Keeps b s0 s) :
    AnsKeeps b s0 (execTransactionAdmit x0 s) := by
  unfold execTransactionAdmit
  repeat' first
    | with_reducible assumption | with_reducible refine inUnit_keeps _ _ _ _ ?_ (fun _ _ => ?_)
    | with_reducible apply ans_next_keeps | with_reducible apply ans_ite_keeps | with_reducible apply State.admitLine_keeps
theorem execUpg_keeps {b : Bool} {s0 : State} (x0 : Fin 74) (x1 : Nat) (s : State) (h : Keeps b s0 s) :
    AnsKeeps b s0 (execUpg x0 x1 s) := by
  unfold execUpg
  repeat' first
    | with_reducible assumption | with_reducible refine delivered_keeps _ _ _ ?_ (fun _ _ => ?_)
    | with_reducible apply ans_next_keeps | with_reducible apply ans_ite_keeps | with_reducible apply State.agentReq_keeps
theorem execUwr_keeps {b : Bool} {s0 : State} (x0 : UReq) (x1 : Bool) (s : State) (h : Keeps b s0 s) :
    AnsKeeps b s0 (execUwr x0 x1 s) := by
  unfold execUwr
  repeat' first
    | with_reducible assumption | with_reducible refine inUnit_keeps _ _ _ _ ?_ (fun _ _ => ?_)
    | with_reducible refine gated_keeps _ _ _ ?_ (fun _ _ => ?_) | with_reducible apply ans_next_keeps
    | with_reducible apply ans_ite_keeps | with_reducible apply State.answerUwr_keeps | with_reducible apply State.arrive_keeps
    | split
theorem execWbd_keeps {b : Bool} {s0 : State} (x0 : Fin 74) (x1 : Nat) (x2 : Writeback) (s : State) (h : Keeps b s0 s) :
    AnsKeeps b s0 (execWbd x0 x1 x2 s) := by
  unfold execWbd
  repeat' first
    | with_reducible assumption | with_reducible refine delivered_keeps _ _ _ ?_ (fun _ _ => ?_)
    | with_reducible apply ans_next_keeps | with_reducible apply ans_ite_keeps | with_reducible apply State.takeWbd_keeps
theorem execBar2Atomicop_keeps {b : Bool} {s0 : State} (x0 : Fin 16) (x1 : BitVec 52) (x2 : AtomOp) (x3 : Nat) (x4 : W64) (x5 : W64) (s : State) (h : Keeps b s0 s) :
    AnsKeeps b s0 (execBar2Atomicop x0 x1 x2 x3 x4 x5 s) := by
  unfold execBar2Atomicop
  repeat' first
    | with_reducible assumption | with_reducible refine delivered_keeps _ _ _ ?_ (fun _ _ => ?_)
    | with_reducible apply ans_next_keeps | with_reducible apply ans_ite_keeps | with_reducible apply State.emit_keeps
    | with_reducible apply State.bar2Check_keeps | with_reducible refine State.bar2Check_keepsEq (by assumption) ?_
    | with_reducible apply State.chargeTo_keeps | with_reducible apply State.addExt_keeps
    | with_reducible apply State.performAtomic_keeps | with_reducible refine State.performAtomic_keepsEq (by assumption) ?_
    | split
theorem execBar2Read_keeps {b : Bool} {s0 : State} (x0 : Fin 16) (x1 : BitVec 52) (x2 : Nat) (x3 : Bool) (s : State) (h : Keeps b s0 s) :
    AnsKeeps b s0 (execBar2Read x0 x1 x2 x3 s) := by
  unfold execBar2Read
  repeat' first
    | with_reducible assumption | with_reducible refine delivered_keeps _ _ _ ?_ (fun _ _ => ?_)
    | with_reducible apply ans_next_keeps | with_reducible apply ans_ite_keeps | with_reducible apply State.emit_keeps
    | with_reducible apply State.finishOne_keeps | with_reducible apply State.addExt_keeps
    | with_reducible apply State.bar2Check_keeps | with_reducible refine State.bar2Check_keepsEq (by assumption) ?_
    | with_reducible apply State.chargeTo_keeps | split
theorem execBar2Write_keeps {b : Bool} {s0 : State} (x0 : Fin 16) (x1 : BitVec 52) (x2 : Bytes) (x3 : List Bool) (s : State) (h : Keeps b s0 s) :
    AnsKeeps b s0 (execBar2Write x0 x1 x2 x3 s) := by
  unfold execBar2Write
  repeat' first
    | with_reducible assumption | with_reducible refine delivered_keeps _ _ _ ?_ (fun _ _ => ?_)
    | with_reducible apply ans_next_keeps | with_reducible apply ans_ite_keeps | with_reducible apply State.bar2Write_keeps
theorem execBarSizeWrite_keeps {b : Bool} {s0 : State} (x0 : Fin 4) (x1 : Bool) (x2 : Fin 64) (s : State) (h : Keeps b s0 s) :
    AnsKeeps b s0 (execBarSizeWrite x0 x1 x2 s) := by
  unfold execBarSizeWrite
  repeat' first
    | with_reducible assumption | with_reducible refine delivered_keeps _ _ _ ?_ (fun _ _ => ?_)
    | with_reducible apply ans_next_keeps | with_reducible apply ans_ite_keeps | with_reducible apply State.emit_keeps
    | with_reducible apply State.resizeBar_keeps
theorem execHostFenceRead_keeps {b : Bool} {s0 : State} (x0 : Who) (s : State) (h : Keeps b s0 s) :
    AnsKeeps b s0 (execHostFenceRead x0 s) := by
  unfold execHostFenceRead
  repeat' first
    | with_reducible assumption | with_reducible refine delivered_keeps _ _ _ ?_ (fun _ _ => ?_)
    | with_reducible refine heardRead_keeps _ _ _ ?_ (fun _ _ => ?_) | with_reducible apply ans_next_keeps
    | with_reducible apply ans_ite_keeps | with_reducible apply State.fenceRead_keeps
theorem execPerstDeasserted_keeps {b : Bool} {s0 : State} (x0 : Bool) (s : State) (h : Keeps b s0 s) :
    AnsKeeps b s0 (execPerstDeasserted x0 s) := by
  unfold execPerstDeasserted
  repeat' first
    | with_reducible assumption | with_reducible apply ans_next_keeps | with_reducible apply ans_ite_keeps
    | with_reducible apply State.setLink_keeps
theorem execTagQuarantineEnd_keeps {b : Bool} {s0 : State} (x0 : Fin 4) (x1 : Nat) (s : State) (h : Keeps b s0 s) :
    AnsKeeps b s0 (execTagQuarantineEnd x0 x1 s) := by
  unfold execTagQuarantineEnd
  repeat' first
    | with_reducible assumption | with_reducible apply ans_next_keeps | with_reducible apply ans_ite_keeps
    | simp only [keeps_upd, keeps_obs, keeps_aon, keeps_err, keeps_rcd]
theorem execVeilRegionWiped_keeps {b : Bool} {s0 : State} (x0 : Nat) (s : State) (h : Keeps b s0 s) :
    AnsKeeps b s0 (execVeilRegionWiped x0 s) := by
  unfold execVeilRegionWiped
  repeat' first
    | with_reducible assumption | with_reducible apply ans_next_keeps | with_reducible apply ans_ite_keeps
    | with_reducible apply State.unveil_keeps
theorem execHostCompletion_keeps {b : Bool} {s0 : State} (x0 : Fin 4) (x1 : Nat) (x2 : HostCpl) (s : State) (h : Keeps b s0 s) :
    AnsKeeps b s0 (execHostCompletion x0 x1 x2 s) := by
  unfold execHostCompletion
  repeat' first
    | with_reducible assumption | with_reducible refine inUnit_keeps _ _ _ _ ?_ (fun _ _ => ?_)
    | with_reducible apply ans_next_keeps | with_reducible apply ans_ite_keeps | with_reducible apply State.release_keeps
    | with_reducible apply State.hostPiece_keeps | with_reducible apply State.unexpected_keeps
    | with_reducible apply State.strayCpl_keeps | split
theorem execPeerPacketSend_keeps {b : Bool} {s0 : State} (x0 : Nat) (s : State) (h : Keeps b s0 s) :
    AnsKeeps b s0 (execPeerPacketSend x0 s) := by
  unfold execPeerPacketSend
  repeat' first
    | with_reducible assumption | with_reducible refine gated_keeps _ _ _ ?_ (fun _ _ => ?_)
    | with_reducible apply ans_next_keeps | with_reducible apply ans_ite_keeps | with_reducible apply State.posted_keeps
    | with_reducible apply State.loopPosted_keeps | with_reducible apply State.loopRead_keeps
    | with_reducible apply State.setReq_keeps | with_reducible apply State.bounceAt_keeps
    | with_reducible apply State.sendPacket_keeps | (with_reducible apply keeps_foldl; intro _ _ _; try dsimp only) | split
theorem execAtsInvalidationRequest_keeps {b : Bool} {s0 : State} (x0 : Fin 16) (x1 : Fin 32) (x2 : BitVec 57) (x3 : BitVec 6) (x4 : Option (BitVec 20)) (x5 : Bool) (s : State) (h : Keeps b s0 s) :
    AnsKeeps b s0 (execAtsInvalidationRequest x0 x1 x2 x3 x4 x5 s) := by
  unfold execAtsInvalidationRequest
  repeat' first
    | with_reducible assumption | with_reducible refine delivered_keeps _ _ _ ?_ (fun _ _ => ?_)
    | with_reducible apply ans_next_keeps | with_reducible apply ans_ite_keeps | with_reducible apply State.acceptInv_keeps
theorem execAtsTranslationCompletion_keeps {b : Bool} {s0 : State} (x0 : Fin 48) (x1 : AtsCpl) (s : State) (h : Keeps b s0 s) :
    AnsKeeps b s0 (execAtsTranslationCompletion x0 x1 s) := by
  unfold execAtsTranslationCompletion
  repeat' first
    | with_reducible assumption | with_reducible refine inUnit_keeps _ _ _ _ ?_ (fun _ _ => ?_)
    | with_reducible refine inPort_keeps _ _ _ ?_ (fun _ _ => ?_) | with_reducible apply ans_next_keeps
    | with_reducible apply ans_ite_keeps | with_reducible apply State.atsAnswer_keeps | split
theorem execBoundModeRequest_keeps {b : Bool} {s0 : State} (x0 : BReq) (s : State) (h : Keeps b s0 s) :
    AnsKeeps b s0 (execBoundModeRequest x0 s) := by
  unfold execBoundModeRequest
  repeat' first
    | with_reducible assumption | with_reducible refine delivered_keeps _ _ _ ?_ (fun _ _ => ?_)
    | with_reducible refine inUnit_keeps _ _ _ _ ?_ (fun _ _ => ?_)
    | with_reducible refine gated_keeps _ _ _ ?_ (fun _ _ => ?_)
    | with_reducible refine fromCore_keeps _ _ _ ?_ (fun _ _ => ?_) | with_reducible apply ans_next_keeps
    | with_reducible apply ans_ite_keeps | with_reducible apply State.translated_keeps | with_reducible apply State.emit_keeps
    | with_reducible apply State.tileRequest_keeps | with_reducible apply State.lookupHeld_keeps
    | simp only [keeps_upd, keeps_obs, keeps_aon, keeps_err, keeps_rcd]
    | split
theorem execContextSlotLoad_keeps {b : Bool} {s0 : State} (x0 : Fin 1024) (s : State) (h : Keeps b s0 s) :
    AnsKeeps b s0 (execContextSlotLoad x0 s) := by
  unfold execContextSlotLoad
  repeat' first
    | with_reducible assumption | with_reducible refine inUnit_keeps _ _ _ _ ?_ (fun _ _ => ?_)
    | with_reducible apply ans_next_keeps | with_reducible apply ans_ite_keeps | with_reducible apply State.lookup_keeps
    | with_reducible apply State.loadSlot_keeps | (with_reducible apply keeps_foldl; intro _ _ _; try dsimp only) | split
theorem execCtxcfgWrite_keeps {b : Bool} {s0 : State} (x0 : Who) (x1 : Fin 1024) (x2 : W64) (s : State) (h : Keeps b s0 s) :
    AnsKeeps b s0 (execCtxcfgWrite x0 x1 x2 s) := by
  unfold execCtxcfgWrite
  repeat' first
    | with_reducible assumption | with_reducible refine delivered_keeps _ _ _ ?_ (fun _ _ => ?_)
    | with_reducible refine heard_keeps _ _ _ ?_ (fun _ _ => ?_) | with_reducible apply ans_next_keeps
    | with_reducible apply ans_ite_keeps | with_reducible apply State.setTrn_keeps | with_reducible apply State.acceptInv_keeps
theorem execInvalidationComplete_keeps {b : Bool} {s0 : State} (s : State) (h : Keeps b s0 s) :
    AnsKeeps b s0 (execInvalidationComplete s) := by
  unfold execInvalidationComplete
  repeat' first
    | with_reducible assumption | with_reducible refine inUnit_keeps _ _ _ _ ?_ (fun _ _ => ?_)
    | with_reducible apply ans_next_keeps | with_reducible apply ans_ite_keeps | with_reducible apply State.invDoneFor_keeps
    | with_reducible apply State.setTrn_keeps | split
theorem execInvalidationNumberingRelease_keeps {b : Bool} {s0 : State} (x0 : Fin 16) (s : State) (h : Keeps b s0 s) :
    AnsKeeps b s0 (execInvalidationNumberingRelease x0 s) := by
  unfold execInvalidationNumberingRelease
  repeat' first
    | with_reducible assumption | with_reducible refine inUnit_keeps _ _ _ _ ?_ (fun _ _ => ?_)
    | with_reducible apply ans_next_keeps | with_reducible apply ans_ite_keeps | with_reducible apply State.numberInv_keeps
    | with_reducible apply State.setTrn_keeps | (with_reducible apply keeps_foldl; intro _ _ _; try dsimp only)
theorem execInvctlContext_keeps {b : Bool} {s0 : State} (x0 : Who) (x1 : BitVec 4) (x2 : BitVec 6) (s : State) (h : Keeps b s0 s) :
    AnsKeeps b s0 (execInvctlContext x0 x1 x2 s) := by
  unfold execInvctlContext
  repeat' first
    | with_reducible assumption | with_reducible refine delivered_keeps _ _ _ ?_ (fun _ _ => ?_)
    | with_reducible refine heard_keeps _ _ _ ?_ (fun _ _ => ?_) | with_reducible apply ans_next_keeps
    | with_reducible apply ans_ite_keeps | with_reducible apply State.invctl_keeps
theorem execInvctlPartition_keeps {b : Bool} {s0 : State} (x0 : Who) (x1 : BitVec 4) (s : State) (h : Keeps b s0 s) :
    AnsKeeps b s0 (execInvctlPartition x0 x1 s) := by
  unfold execInvctlPartition
  repeat' first
    | with_reducible assumption | with_reducible refine delivered_keeps _ _ _ ?_ (fun _ _ => ?_)
    | with_reducible refine heard_keeps _ _ _ ?_ (fun _ _ => ?_) | with_reducible apply ans_next_keeps
    | with_reducible apply ans_ite_keeps | with_reducible apply State.invctl_keeps
theorem execInvctlRange_keeps {b : Bool} {s0 : State} (x0 : Who) (x1 : BitVec 4) (x2 : BitVec 6) (s : State) (h : Keeps b s0 s) :
    AnsKeeps b s0 (execInvctlRange x0 x1 x2 s) := by
  unfold execInvctlRange
  repeat' first
    | with_reducible assumption | with_reducible refine delivered_keeps _ _ _ ?_ (fun _ _ => ?_)
    | with_reducible refine heard_keeps _ _ _ ?_ (fun _ _ => ?_) | with_reducible apply ans_next_keeps
    | with_reducible apply ans_ite_keeps | with_reducible apply State.invctl_keeps
theorem execTbindWrite_keeps {b : Bool} {s0 : State} (x0 : Who) (x1 : Fin 64) (x2 : W32) (s : State) (h : Keeps b s0 s) :
    AnsKeeps b s0 (execTbindWrite x0 x1 x2 s) := by
  unfold execTbindWrite
  repeat' first
    | with_reducible assumption | with_reducible refine delivered_keeps _ _ _ ?_ (fun _ _ => ?_)
    | with_reducible refine heard_keeps _ _ _ ?_ (fun _ _ => ?_) | with_reducible apply ans_next_keeps
    | with_reducible apply ans_ite_keeps | with_reducible apply State.setTrn_keeps
theorem execTranslate_keeps {b : Bool} {s0 : State} (x0 : XReq) (s : State) (h : Keeps b s0 s) :
    AnsKeeps b s0 (execTranslate x0 s) := by
  unfold execTranslate
  repeat' first
    | with_reducible assumption | with_reducible refine delivered_keeps _ _ _ ?_ (fun _ _ => ?_)
    | with_reducible refine inUnit_keeps _ _ _ _ ?_ (fun _ _ => ?_)
    | with_reducible refine gated_keeps _ _ _ ?_ (fun _ _ => ?_) | with_reducible apply ans_next_keeps
    | with_reducible apply ans_ite_keeps | with_reducible apply State.emit_keeps | with_reducible apply State.addTileTrace_keeps
    | with_reducible apply State.tileRequest_keeps | with_reducible apply State.lookupHeld_keeps | split
theorem execWalkFill_keeps {b : Bool} {s0 : State} (x0 : Fin 48) (s : State) (h : Keeps b s0 s) :
    AnsKeeps b s0 (execWalkFill x0 s) := by
  unfold execWalkFill
  repeat' first
    | with_reducible assumption | with_reducible refine inUnit_keeps _ _ _ _ ?_ (fun _ _ => ?_)
    | with_reducible apply ans_next_keeps | with_reducible apply ans_ite_keeps | with_reducible apply State.restartWalk_keeps
    | with_reducible apply State.keepProof_keeps | with_reducible apply State.fillWalk_keeps | split
theorem execWalkStart_keeps {b : Bool} {s0 : State} (x0 : Fin 48) (s : State) (h : Keeps b s0 s) :
    AnsKeeps b s0 (execWalkStart x0 s) := by
  unfold execWalkStart
  repeat' first
    | with_reducible assumption | with_reducible refine inUnit_keeps _ _ _ _ ?_ (fun _ _ => ?_)
    | with_reducible apply ans_next_keeps | with_reducible apply ans_ite_keeps | with_reducible apply State.dropWalk_keeps
    | with_reducible apply State.setTrn_keeps | with_reducible apply State.startWalk_keeps
    | with_reducible apply State.walkSend_keeps
    | simp only [keeps_upd, keeps_obs, keeps_aon, keeps_err, keeps_rcd]
    | split
theorem execWalkTableReadReturn_keeps {b : Bool} {s0 : State} (x0 : Fin 48) (x1 : TblReply) (s : State) (h : Keeps b s0 s) :
    AnsKeeps b s0 (execWalkTableReadReturn x0 x1 s) := by
  unfold execWalkTableReadReturn
  repeat' first
    | with_reducible assumption | with_reducible refine inUnit_keeps _ _ _ _ ?_ (fun _ _ => ?_)
    | with_reducible apply ans_next_keeps | with_reducible apply ans_ite_keeps | with_reducible apply State.staleRead_keeps
    | with_reducible apply State.walkRead_keeps | split
theorem execFaultDeadline_keeps {b : Bool} {s0 : State} (x0 : Fin 16) (s : State) (h : Keeps b s0 s) :
    AnsKeeps b s0 (execFaultDeadline x0 s) := by
  unfold execFaultDeadline
  repeat' first
    | with_reducible assumption | with_reducible apply ans_next_keeps | with_reducible apply ans_ite_keeps
    | with_reducible apply State.endUnserviceable_keeps | with_reducible apply State.modFltp_keeps
    | (with_reducible apply keeps_foldl; intro _ _ _; try dsimp only) | split
theorem execFaultEntryAllocate_keeps {b : Bool} {s0 : State} (x0 : Fin 16) (s : State) (h : Keeps b s0 s) :
    AnsKeeps b s0 (execFaultEntryAllocate x0 s) := by
  unfold execFaultEntryAllocate
  repeat' first
    | with_reducible assumption | with_reducible refine inUnit_keeps _ _ _ _ ?_ (fun _ _ => ?_)
    | with_reducible apply ans_next_keeps | with_reducible apply ans_ite_keeps | with_reducible apply State.setReq_keeps
    | with_reducible apply State.giveUp_keeps | with_reducible apply State.takeEntry_keeps | split
theorem execFaultRecordDone_keeps {b : Bool} {s0 : State} (x0 : Fin 16) (x1 : WReply) (s : State) (h : Keeps b s0 s) :
    AnsKeeps b s0 (execFaultRecordDone x0 x1 s) := by
  unfold execFaultRecordDone
  repeat' first
    | with_reducible assumption | with_reducible refine inUnit_keeps _ _ _ _ ?_ (fun _ _ => ?_)
    | with_reducible apply ans_next_keeps | with_reducible apply ans_ite_keeps
    | with_reducible refine State.writeBack_keeps (by assumption) ?_ | with_reducible apply State.recordLogged_keeps
    | with_reducible apply State.dropReq_keeps | with_reducible apply State.recordFailed_keeps
    | with_reducible apply State.raiseFaultSource_keeps | with_reducible apply State.modFltp_keeps | split | dsimp only
theorem execFaultRecordIssue_keeps {b : Bool} {s0 : State} (x0 : Fin 16) (s : State) (h : Keeps b s0 s) :
    AnsKeeps b s0 (execFaultRecordIssue x0 s) := by
  unfold execFaultRecordIssue
  repeat' first
    | with_reducible assumption | with_reducible refine inUnit_keeps _ _ _ _ ?_ (fun _ _ => ?_)
    | with_reducible apply ans_next_keeps | with_reducible apply ans_ite_keeps | with_reducible apply State.routeStale_keeps
    | with_reducible apply State.sendRecord_keeps | split
theorem execFltRcfgWrite_keeps {b : Bool} {s0 : State} (x0 : Who) (x1 : W32) (s : State) (h : Keeps b s0 s) :
    AnsKeeps b s0 (execFltRcfgWrite x0 x1 s) := by
  unfold execFltRcfgWrite
  repeat' first
    | with_reducible assumption | with_reducible refine delivered_keeps _ _ _ ?_ (fun _ _ => ?_)
    | with_reducible refine heard_keeps _ _ _ ?_ (fun _ _ => ?_) | with_reducible apply ans_next_keeps
    | with_reducible apply ans_ite_keeps | with_reducible apply State.setFltp_keeps
    | with_reducible apply State.dropWaiting_keeps | with_reducible apply State.routeEntry_keeps
    | (with_reducible apply keeps_foldl; intro _ _ _; try dsimp only) | split
theorem execFltRespAbort_keeps {b : Bool} {s0 : State} (x0 : Who) (x1 : BitVec 16) (s : State) (h : Keeps b s0 s) :
    AnsKeeps b s0 (execFltRespAbort x0 x1 s) := by
  unfold execFltRespAbort
  repeat' first
    | with_reducible assumption | with_reducible refine delivered_keeps _ _ _ ?_ (fun _ _ => ?_)
    | with_reducible refine heard_keeps _ _ _ ?_ (fun _ _ => ?_) | with_reducible apply ans_next_keeps
    | with_reducible apply ans_ite_keeps | with_reducible refine State.respond_keeps _ _ _ _ (fun _ _ _ _ => ?_) ?_
    | with_reducible apply State.endUnserviceable_keeps
theorem execFltRespRetry_keeps {b : Bool} {s0 : State} (x0 : Who) (x1 : BitVec 16) (s : State) (h : Keeps b s0 s) :
    AnsKeeps b s0 (execFltRespRetry x0 x1 s) := by
  unfold execFltRespRetry
  repeat' first
    | with_reducible assumption | with_reducible refine delivered_keeps _ _ _ ?_ (fun _ _ => ?_)
    | with_reducible refine heard_keeps _ _ _ ?_ (fun _ _ => ?_) | with_reducible apply ans_next_keeps
    | with_reducible apply ans_ite_keeps | with_reducible refine State.respond_keeps _ _ _ _ (fun _ _ _ _ => ?_) ?_
    | with_reducible apply State.setFent_keeps
theorem execPageRequestSend_keeps {b : Bool} {s0 : State} (x0 : Fin 16) (s : State) (h : Keeps b s0 s) :
    AnsKeeps b s0 (execPageRequestSend x0 s) := by
  unfold execPageRequestSend
  repeat' first
    | with_reducible assumption | with_reducible refine inUnit_keeps _ _ _ _ ?_ (fun _ _ => ?_)
    | with_reducible apply ans_next_keeps | with_reducible apply ans_ite_keeps | with_reducible apply State.routeStale_keeps
    | with_reducible apply State.emit_keeps | with_reducible apply State.setFent_keeps | split | dsimp only
theorem execPrgResponse_keeps {b : Bool} {s0 : State} (x0 : Fin 16) (x1 : Fin 512) (x2 : PrgCode) (s : State) (h : Keeps b s0 s) :
    AnsKeeps b s0 (execPrgResponse x0 x1 x2 s) := by
  unfold execPrgResponse
  repeat' first
    | with_reducible assumption | with_reducible refine delivered_keeps _ _ _ ?_ (fun _ _ => ?_)
    | with_reducible apply ans_next_keeps | with_reducible apply ans_ite_keeps | with_reducible apply State.setFent_keeps
    | with_reducible apply State.endUnserviceable_keeps | with_reducible apply State.modFltp_keeps
    | with_reducible apply State.routeEntry_keeps | (with_reducible apply keeps_foldl; intro _ _ _; try dsimp only) | split
theorem execReplayRemovalDone_keeps {b : Bool} {s0 : State} (x0 : Fin 16) (x1 : Fin 512) (s : State) (h : Keeps b s0 s) :
    AnsKeeps b s0 (execReplayRemovalDone x0 x1 s) := by
  unfold execReplayRemovalDone
  repeat' first
    | with_reducible assumption | with_reducible refine inUnit_keeps _ _ _ _ ?_ (fun _ _ => ?_)
    | with_reducible apply ans_next_keeps | with_reducible apply ans_ite_keeps | with_reducible apply State.replayEntry_keeps
    | split
theorem execEpochFlip_keeps {b : Bool} {s0 : State} (x0 : Fin 4096) (x1 : BitVec 16) (s : State) (h : Keeps b s0 s) :
    AnsKeeps b s0 (execEpochFlip x0 x1 s) := by
  unfold execEpochFlip
  repeat' first
    | with_reducible assumption | with_reducible refine inUnit_keeps _ _ _ _ ?_ (fun _ _ => ?_)
    | with_reducible apply ans_next_keeps | with_reducible apply ans_ite_keeps | with_reducible apply State.applyFlip_keeps | split
theorem execPurgeSweepEnd_keeps {b : Bool} {s0 : State} (s : State) (h : Keeps b s0 s) :
    AnsKeeps b s0 (execPurgeSweepEnd s) := by
  unfold execPurgeSweepEnd
  repeat' first
    | with_reducible assumption | with_reducible refine inUnit_keeps _ _ _ _ ?_ (fun _ _ => ?_)
    | with_reducible apply ans_next_keeps | with_reducible apply ans_ite_keeps | with_reducible apply State.dropSwatches_keeps
    | with_reducible apply State.setTable_keeps | with_reducible apply State.raise_keeps
    | with_reducible apply State.slotsFreed_keeps | simp only [keeps_upd, keeps_obs, keeps_aon, keeps_err, keeps_rcd]
    | (with_reducible apply keeps_foldl; intro _ _ _; try dsimp only) | split
theorem execPurgeSweepStart_keeps {b : Bool} {s0 : State} (s : State) (h : Keeps b s0 s) :
    AnsKeeps b s0 (execPurgeSweepStart s) := by
  unfold execPurgeSweepStart
  repeat' first
    | with_reducible assumption | with_reducible refine inUnit_keeps _ _ _ _ ?_ (fun _ _ => ?_)
    | with_reducible apply ans_next_keeps | with_reducible apply ans_ite_keeps | with_reducible apply State.emit_keeps
    | simp only [keeps_upd, keeps_obs, keeps_aon, keeps_err, keeps_rcd]
theorem execSlotPurging_keeps {b : Bool} {s0 : State} (x0 : Fin 16) (x1 : Fin 512) (x2 : Bool) (s : State) (h : Keeps b s0 s) :
    AnsKeeps b s0 (execSlotPurging x0 x1 x2 s) := by
  unfold execSlotPurging
  repeat' first
    | with_reducible assumption | with_reducible refine inUnit_keeps _ _ _ _ ?_ (fun _ _ => ?_)
    | with_reducible apply ans_next_keeps | with_reducible apply ans_ite_keeps | with_reducible apply State.setTable_keeps
theorem execTrecWrite_keeps {b : Bool} {s0 : State} (x0 : Who) (x1 : Fin 512) (x2 : Bool) (x3 : W64) (s : State) (h : Keeps b s0 s) :
    AnsKeeps b s0 (execTrecWrite x0 x1 x2 x3 s) := by
  unfold execTrecWrite
  repeat' first
    | with_reducible assumption | with_reducible refine delivered_keeps _ _ _ ?_ (fun _ _ => ?_)
    | with_reducible refine heard_keeps _ _ _ ?_ (fun _ _ => ?_) | with_reducible apply ans_next_keeps
    | with_reducible apply ans_ite_keeps | with_reducible apply State.stageSlot_keeps
theorem execLkaCtlWrite_keeps {b : Bool} {s0 : State} (x0 : Who) (x1 : W32) (s : State) (h : Keeps b s0 s) :
    AnsKeeps b s0 (execLkaCtlWrite x0 x1 s) := by
  unfold execLkaCtlWrite
  repeat' first
    | with_reducible assumption | with_reducible refine delivered_keeps _ _ _ ?_ (fun _ _ => ?_)
    | with_reducible refine heard_keeps _ _ _ ?_ (fun _ _ => ?_) | with_reducible apply ans_next_keeps
    | with_reducible apply ans_ite_keeps | with_reducible apply State.stopLookahead_keeps
    | with_reducible apply State.trimReach_keeps
    | simp only [keeps_upd, keeps_obs, keeps_aon, keeps_err, keeps_rcd] | split
theorem execLkaGctlWrite_keeps {b : Bool} {s0 : State} (x0 : Who) (x1 : W32) (s : State) (h : Keeps b s0 s) :
    AnsKeeps b s0 (execLkaGctlWrite x0 x1 s) := by
  unfold execLkaGctlWrite
  repeat' first
    | with_reducible assumption | with_reducible refine delivered_keeps _ _ _ ?_ (fun _ _ => ?_)
    | with_reducible refine heard_keeps _ _ _ ?_ (fun _ _ => ?_) | with_reducible apply ans_next_keeps
    | with_reducible apply ans_ite_keeps | with_reducible apply State.stopLookahead_keeps
    | simp only [keeps_upd, keeps_obs, keeps_aon, keeps_err, keeps_rcd]
    | (with_reducible apply keeps_foldl; intro _ _ _; try dsimp only) | split
theorem execProofReadIssue_keeps {b : Bool} {s0 : State} (x0 : Fin 16) (x1 : ProofRead) (s : State) (h : Keeps b s0 s) :
    AnsKeeps b s0 (execProofReadIssue x0 x1 s) := by
  unfold execProofReadIssue
  repeat' first
    | with_reducible assumption | with_reducible apply ans_next_keeps | with_reducible apply ans_ite_keeps
    | with_reducible apply State.proofIssue_keeps | split
theorem execProofReadReturn_keeps {b : Bool} {s0 : State} (x0 : Fin 16) (x1 : Nat) (x2 : Reply) (s : State) (h : Keeps b s0 s) :
    AnsKeeps b s0 (execProofReadReturn x0 x1 x2 s) := by
  unfold execProofReadReturn
  repeat' first
    | with_reducible assumption | with_reducible apply ans_next_keeps | with_reducible apply ans_ite_keeps
    | with_reducible apply State.setLk_keeps | with_reducible apply State.loseProof_keeps
    | with_reducible apply State.keepData_keeps | split
theorem execProofRingReadReturn_keeps {b : Bool} {s0 : State} (x0 : Fin 16) (x1 : Reply) (s : State) (h : Keeps b s0 s) :
    AnsKeeps b s0 (execProofRingReadReturn x0 x1 s) := by
  unfold execProofRingReadReturn
  repeat' first
    | with_reducible assumption | with_reducible apply ans_next_keeps | with_reducible apply ans_ite_keeps
    | with_reducible apply State.dropProofs_keeps | with_reducible apply State.setLk_keeps
    | with_reducible apply State.keepData_keeps | with_reducible apply State.proofSeal_keeps
    | (with_reducible apply keeps_foldl; intro _ _ _; try dsimp only) | split
theorem execProofSealRetry_keeps {b : Bool} {s0 : State} (x0 : Fin 16) (s : State) (h : Keeps b s0 s) :
    AnsKeeps b s0 (execProofSealRetry x0 s) := by
  unfold execProofSealRetry
  repeat' first
    | with_reducible assumption | with_reducible apply ans_next_keeps | with_reducible apply ans_ite_keeps
    | with_reducible apply State.setLk_keeps
theorem execProofWalkStart_keeps {b : Bool} {s0 : State} (x0 : Fin 16) (x1 : Fin 48) (x2 : BitVec 57) (s : State) (h : Keeps b s0 s) :
    AnsKeeps b s0 (execProofWalkStart x0 x1 x2 s) := by
  unfold execProofWalkStart
  repeat' first
    | with_reducible assumption | with_reducible refine inUnit_keeps _ _ _ _ ?_ (fun _ _ => ?_)
    | with_reducible apply ans_next_keeps | with_reducible apply ans_ite_keeps | with_reducible apply State.walkSend_keeps
    | with_reducible apply State.startWalk_keeps
    | simp only [keeps_upd, keeps_obs, keeps_aon, keeps_err, keeps_rcd]
    | split
theorem execCheadWrite_keeps {b : Bool} {s0 : State} (x0 : Who) (x1 : Fin 4096) (x2 : BitVec 16) (s : State) (h : Keeps b s0 s) :
    AnsKeeps b s0 (execCheadWrite x0 x1 x2 s) := by
  unfold execCheadWrite
  repeat' first
    | with_reducible assumption | with_reducible refine delivered_keeps _ _ _ ?_ (fun _ _ => ?_)
    | with_reducible refine heard_keeps _ _ _ ?_ (fun _ _ => ?_) | with_reducible apply ans_next_keeps
    | with_reducible apply ans_ite_keeps | with_reducible apply State.isolation_keeps | with_reducible apply State.setQueue_keeps
    | split
theorem execCommandEnd_keeps {b : Bool} {s0 : State} (x0 : Fin 4096) (x1 : BitVec 16) (s : State) (h : Keeps b s0 s) :
    AnsKeeps b s0 (execCommandEnd x0 x1 s) := by
  unfold execCommandEnd
  repeat' first
    | with_reducible assumption | with_reducible refine galley_keeps _ _ ?_ (fun _ _ => ?_)
    | with_reducible apply ans_next_keeps | with_reducible apply ans_ite_keeps | with_reducible apply State.endCmd_keeps
    | with_reducible apply State.flushStep_keeps | with_reducible apply State.pumpRecords_keeps | split | dsimp only
theorem execDoorbellWrite_keeps {b : Bool} {s0 : State} (x0 : Who) (x1 : Fin 4096) (x2 : Bool) (x3 : BitVec 16) (s : State) (h : Keeps b s0 s) :
    AnsKeeps b s0 (execDoorbellWrite x0 x1 x2 x3 s) := by
  unfold execDoorbellWrite
  repeat' first
    | with_reducible assumption | with_reducible refine delivered_keeps _ _ _ ?_ (fun _ _ => ?_)
    | with_reducible refine heard_keeps _ _ _ ?_ (fun _ _ => ?_) | with_reducible apply ans_next_keeps
    | with_reducible apply ans_ite_keeps | with_reducible apply State.isolation_keeps
    | with_reducible apply State.haltQueue_keeps | with_reducible apply State.setQueue_keeps
    | with_reducible apply State.bellRetry_keeps | with_reducible apply State.makeReady_keeps | split
theorem execFlushingReadComplete_keeps {b : Bool} {s0 : State} (x0 : Fin 4096) (x1 : BitVec 16) (x2 : Bool) (s : State) (h : Keeps b s0 s) :
    AnsKeeps b s0 (execFlushingReadComplete x0 x1 x2 s) := by
  unfold execFlushingReadComplete
  repeat' first
    | with_reducible assumption | with_reducible refine galley_keeps _ _ ?_ (fun _ _ => ?_)
    | with_reducible refine inPort_keeps _ _ _ ?_ (fun _ _ => ?_) | with_reducible apply ans_next_keeps
    | with_reducible apply ans_ite_keeps | with_reducible apply State.flushEnds_keeps | split
theorem execQctlDisable_keeps {b : Bool} {s0 : State} (x0 : Who) (s : State) (h : Keeps b s0 s) :
    AnsKeeps b s0 (execQctlDisable x0 s) := by
  unfold execQctlDisable
  repeat' first
    | with_reducible assumption | with_reducible refine onQueue_keeps _ _ _ _ ?_ (fun _ _ _ => ?_)
    | with_reducible apply ans_next_keeps | with_reducible apply ans_ite_keeps | with_reducible apply State.discardQueue_keeps
    | with_reducible apply State.modQueue_keeps | with_reducible apply State.dropFetch_keeps | split | dsimp only
theorem execQctlEnable_keeps {b : Bool} {s0 : State} (x0 : Who) (s : State) (h : Keeps b s0 s) :
    AnsKeeps b s0 (execQctlEnable x0 s) := by
  unfold execQctlEnable
  repeat' first
    | with_reducible assumption | with_reducible refine onQueue_keeps _ _ _ _ ?_ (fun _ _ _ => ?_)
    | with_reducible apply ans_next_keeps | with_reducible apply ans_ite_keeps | with_reducible apply State.readyOrIdle_keeps
    | with_reducible apply State.setQueue_keeps | split | dsimp only
theorem execQctlReset_keeps {b : Bool} {s0 : State} (x0 : Who) (s : State) (h : Keeps b s0 s) :
    AnsKeeps b s0 (execQctlReset x0 s) := by
  unfold execQctlReset
  repeat' first
    | with_reducible assumption | with_reducible refine onQueue_keeps _ _ _ _ ?_ (fun _ _ _ => ?_)
    | with_reducible apply ans_next_keeps | with_reducible apply ans_ite_keeps | with_reducible apply State.resetQueue_keeps
theorem execQctlResume_keeps {b : Bool} {s0 : State} (x0 : Who) (s : State) (h : Keeps b s0 s) :
    AnsKeeps b s0 (execQctlResume x0 s) := by
  unfold execQctlResume
  repeat' first
    | with_reducible assumption | with_reducible refine onQueue_keeps _ _ _ _ ?_ (fun _ _ _ => ?_)
    | with_reducible apply ans_next_keeps | with_reducible apply ans_ite_keeps | with_reducible apply State.readyOrIdle_keeps
    | with_reducible apply State.setQueue_keeps | split | dsimp only
theorem execQueueDrained_keeps {b : Bool} {s0 : State} (x0 : Fin 4096) (s : State) (h : Keeps b s0 s) :
    AnsKeeps b s0 (execQueueDrained x0 s) := by
  unfold execQueueDrained
  repeat' first
    | with_reducible assumption | with_reducible refine galley_keeps _ _ ?_ (fun _ _ => ?_)
    | with_reducible apply ans_next_keeps | with_reducible apply ans_ite_keeps | with_reducible apply State.modQueue_keeps
theorem execQueueResetDone_keeps {b : Bool} {s0 : State} (x0 : Fin 4096) (s : State) (h : Keeps b s0 s) :
    AnsKeeps b s0 (execQueueResetDone x0 s) := by
  unfold execQueueResetDone
  repeat' first
    | with_reducible assumption | with_reducible refine galley_keeps _ _ ?_ (fun _ _ => ?_)
    | with_reducible apply ans_next_keeps | with_reducible apply ans_ite_keeps | with_reducible apply State.resetQueue_keeps
    | with_reducible apply State.modQueue_keeps
theorem execRecordWriteResponse_keeps {b : Bool} {s0 : State} (x0 : Fin 4096) (x1 : BitVec 16) (x2 : WReply) (s : State) (h : Keeps b s0 s) :
    AnsKeeps b s0 (execRecordWriteResponse x0 x1 x2 s) := by
  unfold execRecordWriteResponse
  repeat' first
    | with_reducible assumption | with_reducible refine galley_keeps _ _ ?_ (fun _ _ => ?_)
    | with_reducible apply ans_next_keeps | with_reducible apply ans_ite_keeps
    | with_reducible refine State.writeBack_keeps (by assumption) ?_ | with_reducible apply State.dropReq_keeps
    | with_reducible apply State.dropCmd_keeps | with_reducible apply State.recordFails_keeps
    | with_reducible apply State.setQueue_keeps | with_reducible apply State.finishCmd_keeps | split
theorem execRereadReturn_keeps {b : Bool} {s0 : State} (x0 : Fin 4096) (x1 : Fin 65) (x2 : Reply) (s : State) (h : Keeps b s0 s) :
    AnsKeeps b s0 (execRereadReturn x0 x1 x2 s) := by
  unfold execRereadReturn
  repeat' first
    | with_reducible assumption | with_reducible refine galley_keeps _ _ ?_ (fun _ _ => ?_)
    | with_reducible apply ans_next_keeps | with_reducible apply ans_ite_keeps
    | with_reducible refine State.takeReads_keeps (by assumption) ?_ | with_reducible apply State.haltQueue_keeps
    | with_reducible apply State.modQueue_keeps | with_reducible apply State.setQueue_keeps
    | with_reducible apply State.takeSlug_keeps | split
theorem execRingReadReturn_keeps {b : Bool} {s0 : State} (x0 : Fin 4096) (x1 : Reply) (s : State) (h : Keeps b s0 s) :
    AnsKeeps b s0 (execRingReadReturn x0 x1 s) := by
  unfold execRingReadReturn
  repeat' first
    | with_reducible assumption | with_reducible refine galley_keeps _ _ ?_ (fun _ _ => ?_)
    | with_reducible apply ans_next_keeps | with_reducible apply ans_ite_keeps
    | with_reducible refine State.takeReads_keeps (by assumption) ?_ | with_reducible apply State.haltQueue_keeps
    | with_reducible apply State.setQueue_keeps | with_reducible apply State.takeSlug_keeps | split
theorem execSealReread_keeps {b : Bool} {s0 : State} (x0 : Fin 4096) (s : State) (h : Keeps b s0 s) :
    AnsKeeps b s0 (execSealReread x0 s) := by
  unfold execSealReread
  repeat' first
    | with_reducible assumption | with_reducible refine galley_keeps _ _ ?_ (fun _ _ => ?_)
    | with_reducible apply ans_next_keeps | with_reducible apply ans_ite_keeps | with_reducible apply State.ringRead_keeps
    | with_reducible apply State.setQueue_keeps
theorem execSliceEnd_keeps {b : Bool} {s0 : State} (x0 : Fin 4096) (s : State) (h : Keeps b s0 s) :
    AnsKeeps b s0 (execSliceEnd x0 s) := by
  unfold execSliceEnd
  repeat' first
    | with_reducible assumption | with_reducible refine galley_keeps _ _ ?_ (fun _ _ => ?_)
    | with_reducible apply ans_next_keeps | with_reducible apply ans_ite_keeps | with_reducible apply State.readyOrIdle_keeps
    | with_reducible apply State.dropFetch_keeps
theorem execSlotGrant_keeps {b : Bool} {s0 : State} (s : State) (h : Keeps b s0 s) :
    AnsKeeps b s0 (execSlotGrant s) := by
  unfold execSlotGrant
  repeat' first
    | with_reducible assumption | with_reducible refine galley_keeps _ _ ?_ (fun _ _ => ?_)
    | with_reducible apply ans_next_keeps | with_reducible apply ans_ite_keeps | with_reducible apply State.grantSlot_keeps | split
theorem execSlugFetch_keeps {b : Bool} {s0 : State} (x0 : Fin 4096) (s : State) (h : Keeps b s0 s) :
    AnsKeeps b s0 (execSlugFetch x0 s) := by
  unfold execSlugFetch
  repeat' first
    | with_reducible assumption | with_reducible refine galley_keeps _ _ ?_ (fun _ _ => ?_)
    | with_reducible apply ans_next_keeps | with_reducible apply ans_ite_keeps | with_reducible apply State.ringRead_keeps
    | with_reducible apply State.setQueue_keeps
theorem execWaitConditionCleared_keeps {b : Bool} {s0 : State} (x0 : Fin 4096) (s : State) (h : Keeps b s0 s) :
    AnsKeeps b s0 (execWaitConditionCleared x0 s) := by
  unfold execWaitConditionCleared
  repeat' first
    | with_reducible assumption | with_reducible refine galley_keeps _ _ ?_ (fun _ _ => ?_)
    | with_reducible apply ans_next_keeps | with_reducible apply ans_ite_keeps | with_reducible apply State.modQueue_keeps
    | with_reducible apply State.makeReady_keeps
theorem execGather_keeps {b : Bool} {s0 : State} (x0 : Fin 4096) (s : State) (h : Keeps b s0 s) :
    AnsKeeps b s0 (execGather x0 s) := by
  unfold execGather
  repeat' first
    | with_reducible assumption | with_reducible refine atCommit_keeps _ _ _ _ ?_ (fun _ _ _ => ?_)
    | with_reducible apply ans_next_keeps | with_reducible apply ans_ite_keeps | with_reducible apply State.commitGather_keeps
theorem execInvalidate_keeps {b : Bool} {s0 : State} (x0 : Fin 4096) (s : State) (h : Keeps b s0 s) :
    AnsKeeps b s0 (execInvalidate x0 s) := by
  unfold execInvalidate
  repeat' first
    | with_reducible assumption | with_reducible refine atCommit_keeps _ _ _ _ ?_ (fun _ _ _ => ?_)
    | with_reducible apply ans_next_keeps | with_reducible apply ans_ite_keeps | with_reducible apply State.commitInvalidate_keeps
theorem execMarker_keeps {b : Bool} {s0 : State} (x0 : Fin 4096) (s : State) (h : Keeps b s0 s) :
    AnsKeeps b s0 (execMarker x0 s) := by
  unfold execMarker
  repeat' first
    | with_reducible assumption | with_reducible refine atCommit_keeps _ _ _ _ ?_ (fun _ _ _ => ?_)
    | with_reducible apply ans_next_keeps | with_reducible apply ans_ite_keeps | with_reducible apply State.commitEnd_keeps
theorem execMove_keeps {b : Bool} {s0 : State} (x0 : Fin 4096) (s : State) (h : Keeps b s0 s) :
    AnsKeeps b s0 (execMove x0 s) := by
  unfold execMove
  repeat' first
    | with_reducible assumption | with_reducible refine atCommit_keeps _ _ _ _ ?_ (fun _ _ _ => ?_)
    | with_reducible apply ans_next_keeps | with_reducible apply ans_ite_keeps | with_reducible apply State.commitMove_keeps
theorem execNop_keeps {b : Bool} {s0 : State} (x0 : Fin 4096) (s : State) (h : Keeps b s0 s) :
    AnsKeeps b s0 (execNop x0 s) := by
  unfold execNop
  repeat' first
    | with_reducible assumption | with_reducible refine atCommit_keeps _ _ _ _ ?_ (fun _ _ _ => ?_)
    | with_reducible apply ans_next_keeps | with_reducible apply ans_ite_keeps | with_reducible apply State.commitEnd_keeps
theorem execPut_keeps {b : Bool} {s0 : State} (x0 : Fin 4096) (s : State) (h : Keeps b s0 s) :
    AnsKeeps b s0 (execPut x0 s) := by
  unfold execPut
  repeat' first
    | with_reducible assumption | with_reducible refine atCommit_keeps _ _ _ _ ?_ (fun _ _ _ => ?_)
    | with_reducible apply ans_next_keeps | with_reducible apply ans_ite_keeps | with_reducible apply State.commitMove_keeps
theorem execRetire_keeps {b : Bool} {s0 : State} (x0 : Fin 4096) (s : State) (h : Keeps b s0 s) :
    AnsKeeps b s0 (execRetire x0 s) := by
  unfold execRetire
  repeat' first
    | with_reducible assumption | with_reducible refine atCommit_keeps _ _ _ _ ?_ (fun _ _ _ => ?_)
    | with_reducible apply ans_next_keeps | with_reducible apply ans_ite_keeps | with_reducible apply State.commitRetire_keeps
theorem execScatter_keeps {b : Bool} {s0 : State} (x0 : Fin 4096) (s : State) (h : Keeps b s0 s) :
    AnsKeeps b s0 (execScatter x0 s) := by
  unfold execScatter
  repeat' first
    | with_reducible assumption | with_reducible refine atCommit_keeps _ _ _ _ ?_ (fun _ _ _ => ?_)
    | with_reducible apply ans_next_keeps | with_reducible apply ans_ite_keeps | with_reducible apply State.commitGather_keeps
theorem execStage_keeps {b : Bool} {s0 : State} (x0 : Fin 4096) (s : State) (h : Keeps b s0 s) :
    AnsKeeps b s0 (execStage x0 s) := by
  unfold execStage
  repeat' first
    | with_reducible assumption | with_reducible refine atCommit_keeps _ _ _ _ ?_ (fun _ _ _ => ?_)
    | with_reducible apply ans_next_keeps | with_reducible apply ans_ite_keeps | with_reducible apply State.commitStage_keeps
theorem execSwap_keeps {b : Bool} {s0 : State} (x0 : Fin 4096) (s : State) (h : Keeps b s0 s) :
    AnsKeeps b s0 (execSwap x0 s) := by
  unfold execSwap
  repeat' first
    | with_reducible assumption | with_reducible refine atCommit_keeps _ _ _ _ ?_ (fun _ _ _ => ?_)
    | with_reducible apply ans_next_keeps | with_reducible apply ans_ite_keeps | with_reducible apply State.commitSwap_keeps
theorem execSwatch_keeps {b : Bool} {s0 : State} (x0 : Fin 4096) (s : State) (h : Keeps b s0 s) :
    AnsKeeps b s0 (execSwatch x0 s) := by
  unfold execSwatch
  repeat' first
    | with_reducible assumption | with_reducible refine atCommit_keeps _ _ _ _ ?_ (fun _ _ _ => ?_)
    | with_reducible apply ans_next_keeps | with_reducible apply ans_ite_keeps | with_reducible apply State.commitSwatch_keeps
theorem execTadd_keeps {b : Bool} {s0 : State} (x0 : Fin 4096) (s : State) (h : Keeps b s0 s) :
    AnsKeeps b s0 (execTadd x0 s) := by
  unfold execTadd
  repeat' first
    | with_reducible assumption | with_reducible refine atCommit_keeps _ _ _ _ ?_ (fun _ _ _ => ?_)
    | with_reducible apply ans_next_keeps | with_reducible apply ans_ite_keeps | with_reducible apply State.commitTadd_keeps
theorem execTset_keeps {b : Bool} {s0 : State} (x0 : Fin 4096) (s : State) (h : Keeps b s0 s) :
    AnsKeeps b s0 (execTset x0 s) := by
  unfold execTset
  repeat' first
    | with_reducible assumption | with_reducible refine atCommit_keeps _ _ _ _ ?_ (fun _ _ _ => ?_)
    | with_reducible apply ans_next_keeps | with_reducible apply ans_ite_keeps | with_reducible apply State.commitTset_keeps
theorem execWcommit_keeps {b : Bool} {s0 : State} (x0 : Fin 4096) (s : State) (h : Keeps b s0 s) :
    AnsKeeps b s0 (execWcommit x0 s) := by
  unfold execWcommit
  repeat' first
    | with_reducible assumption | with_reducible refine atCommit_keeps _ _ _ _ ?_ (fun _ _ _ => ?_)
    | with_reducible apply ans_next_keeps | with_reducible apply ans_ite_keeps | with_reducible apply State.commitWcommit_keeps
theorem execPleatAssign_keeps {b : Bool} {s0 : State} (x0 : Fin 4096) (x1 : BitVec 16) (s : State) (h : Keeps b s0 s) :
    AnsKeeps b s0 (execPleatAssign x0 x1 s) := by
  unfold execPleatAssign
  repeat' first
    | with_reducible assumption | with_reducible apply ans_next_keeps | with_reducible apply ans_ite_keeps
    | with_reducible apply State.setCmd_keeps | with_reducible apply State.setEng_keeps
    | with_reducible apply State.wake_keeps | with_reducible apply State.addTrace_keeps | split
theorem execPleatBurstBegin_keeps {b : Bool} {s0 : State} (x0 : Fin 64) (s : State) (h : Keeps b s0 s) :
    AnsKeeps b s0 (execPleatBurstBegin x0 s) := by
  unfold execPleatBurstBegin
  repeat' first
    | with_reducible assumption | with_reducible refine gated_keeps _ _ _ ?_ (fun _ _ => ?_)
    | with_reducible apply ans_next_keeps | with_reducible apply ans_ite_keeps | with_reducible apply State.beginBurst_keeps
theorem execPleatReadReturn_keeps {b : Bool} {s0 : State} (x0 : Fin 64) (x1 : Nat) (x2 : Reply) (s : State) (h : Keeps b s0 s) :
    AnsKeeps b s0 (execPleatReadReturn x0 x1 x2 s) := by
  unfold execPleatReadReturn
  repeat' first
    | with_reducible assumption | with_reducible refine gated_keeps _ _ _ ?_ (fun _ _ => ?_)
    | with_reducible apply ans_next_keeps | with_reducible apply ans_ite_keeps
    | with_reducible refine State.takeReads_keeps (by assumption) ?_ | with_reducible apply State.bounceAt_keeps
    | with_reducible apply State.pleatSettle_keeps | with_reducible apply State.pleatWrites_keeps
    | with_reducible apply State.modEng_keeps | split
theorem execPleatWriteResponse_keeps {b : Bool} {s0 : State} (x0 : Fin 64) (x1 : Nat) (x2 : WReply) (s : State) (h : Keeps b s0 s) :
    AnsKeeps b s0 (execPleatWriteResponse x0 x1 x2 s) := by
  unfold execPleatWriteResponse
  repeat' first
    | with_reducible assumption | with_reducible refine gated_keeps _ _ _ ?_ (fun _ _ => ?_)
    | with_reducible apply ans_next_keeps | with_reducible apply ans_ite_keeps
    | with_reducible refine State.writeBack_keeps (by assumption) ?_ | with_reducible apply State.bounceAt_keeps
    | with_reducible apply State.pleatSettle_keeps | with_reducible apply State.deliverBytes_keeps
    | with_reducible apply State.dropReq_keeps | split
theorem execPltCctlAbort_keeps {b : Bool} {s0 : State} (x0 : Who) (s : State) (h : Keeps b s0 s) :
    AnsKeeps b s0 (execPltCctlAbort x0 s) := by
  unfold execPltCctlAbort
  repeat' first
    | with_reducible assumption | with_reducible refine onEng_keeps _ _ _ _ ?_ (fun _ _ _ => ?_)
    | with_reducible apply ans_next_keeps | with_reducible apply ans_ite_keeps | with_reducible apply State.pleatSettle_keeps
    | with_reducible apply State.setEng_keeps | with_reducible apply State.haltWrite_keeps | split | dsimp only
theorem execPltCctlDeferred_keeps {b : Bool} {s0 : State} (x0 : Fin 64) (s : State) (h : Keeps b s0 s) :
    AnsKeeps b s0 (execPltCctlDeferred x0 s) := by
  unfold execPltCctlDeferred
  repeat' first
    | with_reducible assumption | with_reducible apply ans_next_keeps | with_reducible apply ans_ite_keeps
    | with_reducible apply State.pleatLater_keeps
theorem execPltCctlRelease_keeps {b : Bool} {s0 : State} (x0 : Who) (s : State) (h : Keeps b s0 s) :
    AnsKeeps b s0 (execPltCctlRelease x0 s) := by
  unfold execPltCctlRelease
  repeat' first
    | with_reducible assumption | with_reducible refine onEng_keeps _ _ _ _ ?_ (fun _ _ _ => ?_)
    | with_reducible apply ans_next_keeps | with_reducible apply ans_ite_keeps | with_reducible apply State.haltWrite_keeps | split
theorem execPltCctlRetry_keeps {b : Bool} {s0 : State} (x0 : Who) (s : State) (h : Keeps b s0 s) :
    AnsKeeps b s0 (execPltCctlRetry x0 s) := by
  unfold execPltCctlRetry
  repeat' first
    | with_reducible assumption | with_reducible refine onEng_keeps _ _ _ _ ?_ (fun _ _ _ => ?_)
    | with_reducible apply ans_next_keeps | with_reducible apply ans_ite_keeps | with_reducible apply State.haltWrite_keeps | split
theorem State.compBack_keeps {u : Bool} {s0 : State} (s : State) (n : Nat) (o : Owner) (id : Nat) (r : Reply) (k : State → Bytes → State)
    (h : Keeps u s0 s) (hk : ∀ s b, Keeps u s0 s → Keeps u s0 (k s b)) : AnsKeeps u s0 (s.compBack n o id r k) := by
  unfold State.compBack; dsimp only
  split
  · exact ans_next_keeps h
  · have h1 : Keeps u s0 (((s.piecesOf o).foldl State.noteTrip s).dropReqs fun x => ((s.piecesOf o).map (·.id)).contains x.id) :=
      State.dropReqs_keeps _ _ (keeps_foldl _ (fun s a hs => State.noteTrip_keeps s a hs) _ _ h)
    split
    · exact ans_next_keeps (State.bounceAt_keeps _ _ _ _ ((keeps_upd ..).2 h1))
    · exact ans_next_keeps (hk _ _ h1)
theorem execCompositorWriteResponse_keeps {b : Bool} {s0 : State} (x0 : Fin 16) (x1 : Nat) (x2 : WReply) (s : State) (h : Keeps b s0 s) :
    AnsKeeps b s0 (execCompositorWriteResponse x0 x1 x2 s) := by
  unfold execCompositorWriteResponse
  repeat' first
    | with_reducible assumption | with_reducible refine gated_keeps _ _ _ ?_ (fun _ _ => ?_)
    | with_reducible apply ans_next_keeps | with_reducible apply ans_ite_keeps | with_reducible apply State.resultBack_keeps
    | with_reducible apply State.updateBack_keeps | split
theorem execEpochRecordRead_keeps {b : Bool} {s0 : State} (x0 : Fin 16) (x1 : Reply) (s : State) (h : Keeps b s0 s) :
    AnsKeeps b s0 (execEpochRecordRead x0 x1 s) := by
  unfold execEpochRecordRead
  repeat' first
    | with_reducible assumption | with_reducible refine gated_keeps _ _ _ ?_ (fun _ _ => ?_)
    | with_reducible refine State.compBack_keeps _ _ _ _ _ _ ?_ (fun _ _ _ => ?_) | with_reducible apply ans_next_keeps
    | with_reducible apply ans_ite_keeps | with_reducible apply State.compGo_keeps | with_reducible apply State.discard_keeps
    | with_reducible apply State.setComp_keeps | with_reducible apply State.checkOffsets_keeps | split | dsimp only
theorem execPlacementReadReturn_keeps {b : Bool} {s0 : State} (x0 : Fin 16) (x1 : Nat) (x2 : Reply) (s : State) (h : Keeps b s0 s) :
    AnsKeeps b s0 (execPlacementReadReturn x0 x1 x2 s) := by
  unfold execPlacementReadReturn
  repeat' first
    | with_reducible assumption | with_reducible refine gated_keeps _ _ _ ?_ (fun _ _ => ?_)
    | with_reducible refine State.compBack_keeps _ _ _ _ _ _ ?_ (fun _ _ _ => ?_) | with_reducible apply ans_next_keeps
    | with_reducible apply ans_ite_keeps | with_reducible apply State.compGo_keeps | with_reducible apply State.setComp_keeps
    | split
theorem execResultWrite_keeps {b : Bool} {s0 : State} (x0 : Fin 16) (s : State) (h : Keeps b s0 s) :
    AnsKeeps b s0 (execResultWrite x0 s) := by
  unfold execResultWrite
  repeat' first
    | with_reducible assumption | with_reducible refine gated_keeps _ _ _ ?_ (fun _ _ => ?_)
    | with_reducible apply ans_next_keeps | with_reducible apply ans_ite_keeps | with_reducible apply State.compSettle_keeps
    | with_reducible apply State.compWrites_keeps | with_reducible apply State.setComp_keeps | split | dsimp only
theorem execRowReadReturn_keeps {b : Bool} {s0 : State} (x0 : Fin 16) (x1 : Nat) (x2 : Reply) (s : State) (h : Keeps b s0 s) :
    AnsKeeps b s0 (execRowReadReturn x0 x1 x2 s) := by
  unfold execRowReadReturn
  repeat' first
    | with_reducible assumption | with_reducible refine gated_keeps _ _ _ ?_ (fun _ _ => ?_)
    | with_reducible refine State.compBack_keeps _ _ _ _ _ _ ?_ (fun _ _ _ => ?_) | with_reducible apply ans_next_keeps
    | with_reducible apply ans_ite_keeps | with_reducible apply State.compGo_keeps | with_reducible apply State.meterFetch_keeps
    | with_reducible apply State.setComp_keeps | split | dsimp only
theorem execScatterRowUpdate_keeps {b : Bool} {s0 : State} (x0 : Fin 16) (s : State) (h : Keeps b s0 s) :
    AnsKeeps b s0 (execScatterRowUpdate x0 s) := by
  unfold execScatterRowUpdate
  repeat' first
    | with_reducible assumption | with_reducible refine gated_keeps _ _ _ ?_ (fun _ _ => ?_)
    | with_reducible apply ans_next_keeps | with_reducible apply ans_ite_keeps | with_reducible apply State.updateRow_keeps | split
    | dsimp only
theorem execSkcfgClr_keeps {b : Bool} {s0 : State} (x0 : Who) (x1 : Fin 16) (s : State) (h : Keeps b s0 s) :
    AnsKeeps b s0 (execSkcfgClr x0 x1 s) := by
  unfold execSkcfgClr
  repeat' first
    | with_reducible assumption | with_reducible refine delivered_keeps _ _ _ ?_ (fun _ _ => ?_)
    | with_reducible refine heard_keeps _ _ _ ?_ (fun _ _ => ?_) | with_reducible apply ans_next_keeps
    | with_reducible apply ans_ite_keeps | simp only [keeps_upd, keeps_obs, keeps_aon, keeps_err, keeps_rcd]
theorem execSkentRead_keeps {b : Bool} {s0 : State} (x0 : Who) (x1 : Fin 16) (s : State) (h : Keeps b s0 s) :
    AnsKeeps b s0 (execSkentRead x0 x1 s) := by
  unfold execSkentRead
  repeat' first
    | with_reducible assumption | with_reducible refine delivered_keeps _ _ _ ?_ (fun _ _ => ?_)
    | with_reducible refine heardRead_keeps _ _ _ ?_ (fun _ _ => ?_) | with_reducible apply ans_next_keeps
    | with_reducible apply ans_ite_keeps | with_reducible apply State.skentRead_keeps
    | with_reducible refine State.skentRead_keepsEq (by assumption) ?_ | with_reducible apply answerRead_keeps
theorem execStreamReadReturn_keeps {b : Bool} {s0 : State} (x0 : Fin 16) (x1 : Nat) (x2 : Reply) (s : State) (h : Keeps b s0 s) :
    AnsKeeps b s0 (execStreamReadReturn x0 x1 x2 s) := by
  unfold execStreamReadReturn
  repeat' first
    | with_reducible assumption | with_reducible refine gated_keeps _ _ _ ?_ (fun _ _ => ?_)
    | with_reducible refine State.compBack_keeps _ _ _ _ _ _ ?_ (fun _ _ _ => ?_) | with_reducible apply ans_next_keeps
    | with_reducible apply ans_ite_keeps | with_reducible apply State.setComp_keeps | with_reducible apply State.compGo_keeps
    | with_reducible apply State.checkOffsets_keeps | split
theorem execSwatchReadReturn_keeps {b : Bool} {s0 : State} (x0 : Fin 4096) (x1 : BitVec 16) (x2 : Reply) (s : State) (h : Keeps b s0 s) :
    AnsKeeps b s0 (execSwatchReadReturn x0 x1 x2 s) := by
  unfold execSwatchReadReturn
  repeat' first
    | with_reducible assumption | with_reducible refine galley_keeps _ _ ?_ (fun _ _ => ?_)
    | with_reducible apply ans_next_keeps | with_reducible apply ans_ite_keeps
    | with_reducible refine State.takeReads_keeps (by assumption) ?_ | with_reducible apply State.dropCmd_keeps
    | with_reducible apply State.endCmd_keeps | with_reducible apply State.installSwatch_keeps
    | with_reducible apply State.swatchRecord_keeps | split
theorem execWindowClose_keeps {b : Bool} {s0 : State} (x0 : Fin 16) (s : State) (h : Keeps b s0 s) :
    AnsKeeps b s0 (execWindowClose x0 s) := by
  unfold execWindowClose
  repeat' first
    | with_reducible assumption | with_reducible refine gated_keeps _ _ _ ?_ (fun _ _ => ?_)
    | with_reducible apply ans_next_keeps | with_reducible apply ans_ite_keeps | with_reducible apply State.pcntAdd_keeps
    | with_reducible apply State.trackWindow_keeps | with_reducible apply State.meterLook_keeps
    | with_reducible apply State.compGo_keeps | with_reducible apply State.setComp_keeps
    | (with_reducible apply keeps_foldl; intro _ _ _; try dsimp only)
theorem execAccountingPeriod_keeps {b : Bool} {s0 : State} (s : State) (h : Keeps b s0 s) :
    AnsKeeps b s0 (execAccountingPeriod s) := by
  unfold execAccountingPeriod
  repeat' first
    | with_reducible assumption | with_reducible refine inUnit_keeps _ _ _ _ ?_ (fun _ _ => ?_)
    | with_reducible apply ans_next_keeps | with_reducible apply ans_ite_keeps | with_reducible apply State.release_keeps
    | with_reducible apply State.endPeriod_keeps | (with_reducible apply keeps_foldl; intro _ _ _; try dsimp only)
theorem execQuotaWrite_keeps {b : Bool} {s0 : State} (x0 : Who) (x1 : Fin 16) (x2 : QuotaReg) (x3 : Half) (x4 : W64) (s : State) (h : Keeps b s0 s) :
    AnsKeeps b s0 (execQuotaWrite x0 x1 x2 x3 x4 s) := by
  unfold execQuotaWrite
  repeat' first
    | with_reducible assumption | with_reducible refine delivered_keeps _ _ _ ?_ (fun _ _ => ?_)
    | with_reducible refine heard_keeps _ _ _ ?_ (fun _ _ => ?_) | with_reducible apply ans_next_keeps
    | with_reducible apply ans_ite_keeps | with_reducible apply State.writeQa_keeps | with_reducible apply State.writeQb_keeps
    | with_reducible apply State.writeBw_keeps | split
theorem execTcactWrite_keeps {b : Bool} {s0 : State} (x0 : Who) (x1 : Fin 8) (x2 : W32) (s : State) (h : Keeps b s0 s) :
    AnsKeeps b s0 (execTcactWrite x0 x1 x2 s) := by
  unfold execTcactWrite
  repeat' first
    | with_reducible assumption | with_reducible refine delivered_keeps _ _ _ ?_ (fun _ _ => ?_)
    | with_reducible refine heard_keeps _ _ _ ?_ (fun _ _ => ?_) | with_reducible apply ans_next_keeps
    | with_reducible apply ans_ite_keeps | simp only [keeps_upd, keeps_obs, keeps_aon, keeps_err, keeps_rcd]
theorem execTackCapture_keeps {b : Bool} {s0 : State} (s : State) (h : Keeps b s0 s) :
    AnsKeeps b s0 (execTackCapture s) := by
  unfold execTackCapture
  refine inUnit_keeps _ _ _ _ h fun s h => ?_
  have hf : ∀ (l : List (Nat × Bytes)) (m : Memory), Memory.wf m = true → Memory.wf (l.foldl (fun m x => Memory.writeAll m x.1 x.2) m) = true := by
    intro l; induction l with
    | nil => exact fun _ h => h
    | cons a r ih => exact fun m hm => ih _ (wf_writeAll _ _ _ hm)
  have hs := hf s.tackParts [] rfl
  generalize List.foldl (fun (m : Memory) (x : Nat × Bytes) => Memory.writeAll m x.1 x.2) _ _ = m at hs ⊢
  exact ans_ite_keeps _ (ans_next_keeps ⟨h.1, h.2, h.3, h.4, fun _ => hs, h.6, h.7, h.8, h.9, h.10, h.11, h.12⟩) (ans_next_keeps h)
theorem execTackDone_keeps {b : Bool} {s0 : State} (x0 : Bool) (s : State) (h : Keeps b s0 s) :
    AnsKeeps b s0 (execTackDone x0 s) := by
  unfold execTackDone
  refine inUnit_keeps _ _ _ _ h fun s h => ?_
  refine ans_ite_keeps _ (ans_next_keeps (State.relevel_keeps _ _ ?_)) (ans_next_keeps h)
  have h1 : Keeps b s0 ((if (x0 && decide (bits s.obs.tkbase.toNat 51 12 * 4096 + tackLen ≤ tier0End)) = true then s.tackStore s.tackBad else s).pulses 1 s.tackBad.length) :=
    State.pulses_keeps _ _ _ (keeps_ite _ (State.tackStore_keeps _ _ h) h)
  dsimp only
  generalize State.pulses _ 1 s.tackBad.length = u at h1 ⊢
  exact ⟨h1.1, h1.2, h1.3, h1.4, fun _ => rfl, h1.6, h1.7, h1.8, h1.9, h1.10, h1.11, h1.12⟩
theorem execTackGo_keeps {b : Bool} {s0 : State} (x0 : Who) (x1 : W32) (s : State) (h : Keeps b s0 s) :
    AnsKeeps b s0 (execTackGo x0 x1 s) := by
  unfold execTackGo
  repeat' first
    | with_reducible assumption | with_reducible refine delivered_keeps _ _ _ ?_ (fun _ _ => ?_)
    | with_reducible refine heard_keeps _ _ _ ?_ (fun _ _ => ?_) | with_reducible apply ans_next_keeps
    | with_reducible apply ans_ite_keeps | with_reducible apply State.startTack_keeps
    | simp only [keeps_upd, keeps_obs, keeps_aon, keeps_err, keeps_rcd]
theorem execTackWatchdog_keeps {b : Bool} {s0 : State} (s : State) (h : Keeps b s0 s) :
    AnsKeeps b s0 (execTackWatchdog s) := by
  unfold execTackWatchdog
  repeat' first
    | with_reducible assumption | with_reducible refine inUnit_keeps _ _ _ _ ?_ (fun _ _ => ?_)
    | with_reducible apply ans_next_keeps | with_reducible apply ans_ite_keeps | with_reducible apply State.startTack_keeps
theorem execTempClrpeak_keeps {b : Bool} {s0 : State} (x0 : Who) (s : State) (h : Keeps b s0 s) :
    AnsKeeps b s0 (execTempClrpeak x0 s) := by
  unfold execTempClrpeak
  repeat' first
    | with_reducible assumption | with_reducible refine delivered_keeps _ _ _ ?_ (fun _ _ => ?_)
    | with_reducible refine heard_keeps _ _ _ ?_ (fun _ _ => ?_) | with_reducible apply ans_next_keeps
    | with_reducible apply ans_ite_keeps | simp only [keeps_upd, keeps_obs, keeps_aon, keeps_err, keeps_rcd]
theorem execTraceDrain_keeps {b : Bool} {s0 : State} (x0 : Fin 16) (x1 : Fin 65) (s : State) (h : Keeps b s0 s) :
    AnsKeeps b s0 (execTraceDrain x0 x1 s) := by
  unfold execTraceDrain
  repeat' first
    | with_reducible assumption | with_reducible refine inUnit_keeps _ _ _ _ ?_ (fun _ _ => ?_)
    | with_reducible refine gated_keeps _ _ _ ?_ (fun _ _ => ?_) | with_reducible apply ans_next_keeps
    | with_reducible apply ans_ite_keeps | with_reducible apply State.beginDrain_keeps
    | with_reducible apply State.tookUnit_keeps | split | dsimp only
theorem execTraceDrainDone_keeps {b : Bool} {s0 : State} (x0 : Fin 16) (x1 : Bool) (s : State) (h : Keeps b s0 s) :
    AnsKeeps b s0 (execTraceDrainDone x0 x1 s) := by
  unfold execTraceDrainDone
  repeat' first
    | with_reducible assumption | with_reducible refine inUnit_keeps _ _ _ _ ?_ (fun _ _ => ?_)
    | with_reducible apply ans_next_keeps | with_reducible apply ans_ite_keeps | with_reducible apply State.endDrain_keeps
theorem execCompletionTimeout_keeps {b : Bool} {s0 : State} (x0 : Fin 4) (x1 : Nat) (s : State) (h : Keeps b s0 s) :
    AnsKeeps b s0 (execCompletionTimeout x0 x1 s) := by
  unfold execCompletionTimeout
  repeat' first
    | with_reducible assumption | with_reducible apply ans_next_keeps | with_reducible apply ans_ite_keeps
    | with_reducible apply State.release_keeps | with_reducible apply State.timeOutTag_keeps
theorem execConfigurationWrite_keeps {b : Bool} {s0 : State} (x0 : Fin 16) (x1 : CfgWrite) (s : State) (h : Keeps b s0 s) :
    AnsKeeps b s0 (execConfigurationWrite x0 x1 s) := by
  unfold execConfigurationWrite
  repeat' first
    | with_reducible assumption | with_reducible refine delivered_keeps _ _ _ ?_ (fun _ _ => ?_)
    | with_reducible apply ans_next_keeps | with_reducible apply ans_ite_keeps | with_reducible apply State.configure_keeps
    | with_reducible apply State.emit_keeps | split
theorem execFlrDrainDone_keeps {b : Bool} {s0 : State} (x0 : Fin 16) (s : State) (h : Keeps b s0 s) :
    AnsKeeps b s0 (execFlrDrainDone x0 s) := by
  unfold execFlrDrainDone
  repeat' first
    | with_reducible assumption | with_reducible apply ans_next_keeps | with_reducible apply ans_ite_keeps
    | with_reducible apply State.resetConfig_keeps | with_reducible apply State.resetRegs_keeps
    | with_reducible apply State.raiseVeil_keeps | with_reducible apply State.relevel_keeps
    | with_reducible apply State.setFn_keeps
theorem execFlrDrainTimeout_keeps {b : Bool} {s0 : State} (x0 : Fin 16) (s : State) (h : Keeps b s0 s) :
    AnsKeeps b s0 (execFlrDrainTimeout x0 s) := by
  unfold execFlrDrainTimeout
  repeat' first
    | with_reducible assumption | with_reducible apply ans_next_keeps | with_reducible apply ans_ite_keeps
    | with_reducible apply State.discardHeld_keeps | with_reducible apply State.timeOutPart_keeps
theorem execFlrReady_keeps {b : Bool} {s0 : State} (x0 : Fin 16) (s : State) (h : Keeps b s0 s) :
    AnsKeeps b s0 (execFlrReady x0 s) := by
  unfold execFlrReady
  repeat' first
    | with_reducible assumption | with_reducible apply ans_next_keeps | with_reducible apply ans_ite_keeps
    | with_reducible apply State.setFn_keeps
theorem execFundamentalReset_keeps {b : Bool} {s0 : State} (x0 : Bool) (s : State) (h : Keeps b s0 s) :
    AnsKeeps b s0 (execFundamentalReset x0 s) := by
  unfold execFundamentalReset
  repeat' first
    | with_reducible assumption | with_reducible apply ans_next_keeps | with_reducible apply ans_ite_keeps
    | with_reducible apply State.resetLink_keeps | with_reducible apply State.setLink_keeps
theorem execHotReset_keeps {b : Bool} {s0 : State} (x0 : Fin 4) (s : State) (h : Keeps b s0 s) :
    AnsKeeps b s0 (execHotReset x0 s) := by
  unfold execHotReset
  repeat' first
    | with_reducible assumption | with_reducible apply ans_next_keeps | with_reducible apply ans_ite_keeps
    | with_reducible apply State.resetLink_keeps
theorem execInitiateFlr_keeps {b : Bool} {s0 : State} (x0 : Fin 16) (s : State) (h : Keeps b s0 s) :
    AnsKeeps b s0 (execInitiateFlr x0 s) := by
  unfold execInitiateFlr
  repeat' first
    | with_reducible assumption | with_reducible refine delivered_keeps _ _ _ ?_ (fun _ _ => ?_)
    | with_reducible apply ans_next_keeps | with_reducible apply ans_ite_keeps | with_reducible apply State.emit_keeps
    | with_reducible apply State.flrOf_keeps
theorem execLinkStateChange_keeps {b : Bool} {s0 : State} (x0 : Fin 4) (x1 : LinkStat) (s : State) (h : Keeps b s0 s) :
    AnsKeeps b s0 (execLinkStateChange x0 x1 s) := by
  unfold execLinkStateChange
  repeat' first
    | with_reducible assumption | with_reducible apply ans_next_keeps | with_reducible apply ans_ite_keeps
    | with_reducible apply State.setLinkStat_keeps | with_reducible apply State.resetLink_keeps
    | with_reducible apply State.wake_keeps | split
theorem execVfEnable_keeps {b : Bool} {s0 : State} (x0 : Fin 4) (x1 : Bool) (x2 : Nat) (s : State) (h : Keeps b s0 s) :
    AnsKeeps b s0 (execVfEnable x0 x1 x2 s) := by
  unfold execVfEnable
  repeat' first
    | with_reducible assumption | with_reducible refine delivered_keeps _ _ _ ?_ (fun _ _ => ?_)
    | with_reducible apply ans_next_keeps | with_reducible apply ans_ite_keeps | with_reducible apply State.emit_keeps
    | with_reducible apply State.pulse_keeps | with_reducible apply State.setLink_keeps
    | with_reducible apply State.setFn_keeps | with_reducible apply State.startFlr_keeps
    | (with_reducible apply keeps_foldl; intro _ _ _; try dsimp only)
theorem execErrStatClear_keeps {s0 : State} (x0 : Who) (x1 : Fin 16) (x2 : W32) (s : State) (h : Keeps false s0 s) :
    AnsKeeps false s0 (execErrStatClear x0 x1 x2 s) := by
  unfold execErrStatClear
  refine delivered_keeps _ _ _ h fun s h => heardAon_keeps _ _ _ h fun s h => ?_
  exact ans_ite_keeps _ (ans_next_keeps ⟨h.1, h.2, h.3, h.4, h.5, h.6, h.7, h.8, h.9, h.10, (nomatch ·), (nomatch ·)⟩) (ans_next_keeps h)
theorem execErrorReport_keeps {b : Bool} {s0 : State} (x0 : List (Fin 512)) (x1 : Option Nat) (s : State) (h : Keeps b s0 s) :
    AnsKeeps b s0 (execErrorReport x0 x1 s) := by
  unfold execErrorReport
  repeat' first
    | with_reducible assumption | with_reducible apply ans_next_keeps | with_reducible apply ans_ite_keeps
    | with_reducible apply State.countErr_keeps | with_reducible apply State.dropBadEntry_keeps
    | with_reducible apply State.poisonAt_keeps | with_reducible apply State.latchAll_keeps
    | simp only [keeps_upd, keeps_obs, keeps_aon, keeps_err, keeps_rcd]
    | (with_reducible apply keeps_foldl; intro _ _ _; try dsimp only) | split
theorem execFerrDeassert_keeps {b : Bool} {s0 : State} (s : State) (h : Keeps b s0 s) :
    AnsKeeps b s0 (execFerrDeassert s) := by
  unfold execFerrDeassert
  repeat' first
    | with_reducible assumption | with_reducible apply ans_next_keeps | with_reducible apply ans_ite_keeps
    | simp only [keeps_upd, keeps_obs, keeps_aon, keeps_err, keeps_rcd]
theorem execHaltClear_keeps {s0 : State} (x0 : Who) (s : State) (h : Keeps false s0 s) :
    AnsKeeps false s0 (execHaltClear x0 s) := by
  unfold execHaltClear
  refine delivered_keeps _ _ _ h fun s h => heardAon_keeps _ _ _ h fun s h => ?_
  exact ans_ite_keeps _ (ans_next_keeps (State.resumeCommits_keeps _ ⟨h.1, h.2, h.3, h.4, h.5, h.6, h.7, h.8, h.9, h.10, (nomatch ·), (nomatch ·)⟩)) (ans_next_keeps h)
theorem execHandlingIntervalEnd_keeps {b : Bool} {s0 : State} (s : State) (h : Keeps b s0 s) :
    AnsKeeps b s0 (execHandlingIntervalEnd s) := by
  unfold execHandlingIntervalEnd
  repeat' first
    | with_reducible assumption | with_reducible apply ans_next_keeps | with_reducible apply ans_ite_keeps
    | with_reducible apply State.latchAll_keeps
    | simp only [keeps_upd, keeps_obs, keeps_aon, keeps_err, keeps_rcd]
theorem execWireFault_keeps {b : Bool} {s0 : State} (x0 : Fin 512) (s : State) (h : Keeps b s0 s) :
    AnsKeeps b s0 (execWireFault x0 s) := by
  unfold execWireFault
  repeat' first
    | with_reducible assumption | with_reducible apply ans_next_keeps | with_reducible apply ans_ite_keeps
    | with_reducible apply State.latchAll_keeps
    | simp only [keeps_upd, keeps_obs, keeps_aon, keeps_err, keeps_rcd]
theorem execWireFaultCleared_keeps {b : Bool} {s0 : State} (x0 : Fin 512) (x1 : Bool) (s : State) (h : Keeps b s0 s) :
    AnsKeeps b s0 (execWireFaultCleared x0 x1 s) := by
  unfold execWireFaultCleared
  repeat' first
    | with_reducible assumption | with_reducible apply ans_next_keeps | with_reducible apply ans_ite_keeps
    | simp only [keeps_upd, keeps_obs, keeps_aon, keeps_err, keeps_rcd]
theorem execDomainEnterDeep_keeps {b : Bool} {s0 : State} (x0 : Fin 26) (s : State) (h : Keeps b s0 s) :
    AnsKeeps b s0 (execDomainEnterDeep x0 s) := by
  unfold execDomainEnterDeep
  repeat' first
    | with_reducible assumption | with_reducible apply ans_next_keeps | with_reducible apply ans_ite_keeps
    | with_reducible apply State.enterSleep_keeps | with_reducible apply State.setDom_keeps
    | with_reducible apply State.setTrn_keeps | split
theorem execDomainEnterIdle_keeps {b : Bool} {s0 : State} (x0 : Fin 26) (s : State) (h : Keeps b s0 s) :
    AnsKeeps b s0 (execDomainEnterIdle x0 s) := by
  unfold execDomainEnterIdle
  repeat' first
    | with_reducible assumption | with_reducible apply ans_next_keeps | with_reducible apply ans_ite_keeps
    | with_reducible apply State.enterSleep_keeps | with_reducible apply State.setDom_keeps
theorem execFunctionsReady_keeps {b : Bool} {s0 : State} (s : State) (h : Keeps b s0 s) :
    AnsKeeps b s0 (execFunctionsReady s) := by
  unfold execFunctionsReady
  repeat' first
    | with_reducible assumption | with_reducible apply ans_next_keeps | with_reducible apply ans_ite_keeps
    | with_reducible apply State.setSysev_keeps | with_reducible apply State.presentFns_keeps
    | with_reducible apply State.wipeWindow_keeps | simp only [keeps_upd, keeps_obs, keeps_aon, keeps_err, keeps_rcd]
theorem execImageHeaderRead_keeps {b : Bool} {s0 : State} (s : State) (h : Keeps b s0 s) :
    AnsKeeps b s0 (execImageHeaderRead s) := by
  unfold execImageHeaderRead
  repeat' first
    | with_reducible assumption | with_reducible apply ans_next_keeps | with_reducible apply ans_ite_keeps
    | simp only [keeps_upd, keeps_obs, keeps_aon, keeps_err, keeps_rcd]
theorem execImageReadDone_keeps {b : Bool} {s0 : State} (x0 : Image) (s : State) (h : Keeps b s0 s) :
    AnsKeeps b s0 (execImageReadDone x0 s) := by
  unfold execImageReadDone
  repeat' first
    | with_reducible assumption | with_reducible apply ans_next_keeps | with_reducible apply ans_ite_keeps
    | with_reducible apply State.applyImage_keeps | with_reducible apply State.veilAll_keeps
    | with_reducible apply State.recover_keeps
    | simp only [keeps_upd, keeps_obs, keeps_aon, keeps_err, keeps_rcd] | split
theorem execPllLock_keeps {b : Bool} {s0 : State} (s : State) (h : Keeps b s0 s) :
    AnsKeeps b s0 (execPllLock s) := by
  unfold execPllLock
  exact ans_ite_keeps _ (ans_next_keeps ((keeps_aon (s := { s with obs := { s.obs with on := true, time := 0, since := 0 } }) ..).2 ((keeps_obs ..).2 h)))
    (ans_ite_keeps _ (ans_next_keeps ((keeps_obs ..).2 h)) (ans_next_keeps h))
theorem execSramWipeDone_keeps {b : Bool} {s0 : State} (s : State) (h : Keeps b s0 s) :
    AnsKeeps b s0 (execSramWipeDone s) := by
  unfold execSramWipeDone
  repeat' first
    | with_reducible assumption | with_reducible apply ans_next_keeps | with_reducible apply ans_ite_keeps
    | with_reducible apply State.wipeScratch_keeps | simp only [keeps_upd, keeps_obs, keeps_aon, keeps_err, keeps_rcd]
theorem execTilePoweredAgain_keeps {b : Bool} {s0 : State} (x0 : TilePower) (s : State) (h : Keeps b s0 s) :
    AnsKeeps b s0 (execTilePoweredAgain x0 s) := by
  unfold execTilePoweredAgain; dsimp only
  have h1 : Keeps b s0 { s with aon := { s.aon with tileOff := setBit s.aon.tileOff x0.tile.val (!x0.on) } } := (keeps_aon ..).2 h
  refine ans_ite_keeps _ (ans_next_keeps h1) (ans_next_keeps (State.goOn_keeps _ (keeps_foldl _ (fun t r ht => ?_) _ _
    (keeps_foldl _ (fun t m ht => State.emit_keeps _ _ ht) _ _ ((keeps_upd ..).2 h1)))))
  repeat' first | with_reducible assumption | with_reducible apply State.issueTo_keeps | split
theorem execWakeComplete_keeps {b : Bool} {s0 : State} (x0 : Fin 26) (x1 : Bool) (s : State) (h : Keeps b s0 s) :
    AnsKeeps b s0 (execWakeComplete x0 x1 s) := by
  unfold execWakeComplete
  repeat' first
    | with_reducible assumption | with_reducible apply ans_next_keeps | with_reducible apply ans_ite_keeps
    | with_reducible apply State.setDom_keeps | with_reducible apply State.wakeComp_keeps
    | with_reducible apply State.leavePool_keeps | with_reducible apply State.makeStale_keeps
    | with_reducible apply State.setSysev_keeps | with_reducible apply State.pulse_keeps
    | simp only [keeps_upd, keeps_obs, keeps_aon, keeps_err, keeps_rcd]
    | (with_reducible apply keeps_foldl; intro _ _ _; try dsimp only) | split
theorem execWakeRequest_keeps {b : Bool} {s0 : State} (x0 : Fin 26) (s : State) (h : Keeps b s0 s) :
    AnsKeeps b s0 (execWakeRequest x0 s) := by
  unfold execWakeRequest
  repeat' first
    | with_reducible assumption | with_reducible apply ans_next_keeps | with_reducible apply ans_ite_keeps
    | with_reducible apply State.wake_keeps
theorem execAmendmentDrainDone_keeps {b : Bool} {s0 : State} (s : State) (h : Keeps b s0 s) :
    AnsKeeps b s0 (execAmendmentDrainDone s) := by
  unfold execAmendmentDrainDone
  repeat' first
    | with_reducible assumption | with_reducible apply ans_next_keeps | with_reducible apply ans_ite_keeps
    | with_reducible apply State.setUnit_keeps | simp only [keeps_upd, keeps_obs, keeps_aon, keeps_err, keeps_rcd] | split
theorem execAmendmentDrainTimeout_keeps {b : Bool} {s0 : State} (s : State) (h : Keeps b s0 s) :
    AnsKeeps b s0 (execAmendmentDrainTimeout s) := by
  unfold execAmendmentDrainTimeout
  repeat' first
    | with_reducible assumption | with_reducible apply ans_next_keeps | with_reducible apply ans_ite_keeps
    | with_reducible apply State.endAmendment_keeps | with_reducible apply State.joinPool_keeps
    | with_reducible apply State.setUnit_keeps | split
theorem execAmendmentGo_keeps {b : Bool} {s0 : State} (x0 : Who) (x1 : W32) (s : State) (h : Keeps b s0 s) :
    AnsKeeps b s0 (execAmendmentGo x0 x1 s) := by
  unfold execAmendmentGo
  repeat' first
    | with_reducible assumption | with_reducible refine delivered_keeps _ _ _ ?_ (fun _ _ => ?_)
    | with_reducible refine heardAon_keeps _ _ _ ?_ (fun _ _ => ?_) | with_reducible apply ans_next_keeps
    | with_reducible apply ans_ite_keeps | with_reducible apply State.copyAmendment_keeps
    | simp only [keeps_upd, keeps_obs, keeps_aon, keeps_err, keeps_rcd]
theorem execAmendmentReloadDone_keeps {b : Bool} {s0 : State} (x0 : Bool) (s : State) (h : Keeps b s0 s) :
    AnsKeeps b s0 (execAmendmentReloadDone x0 s) := by
  unfold execAmendmentReloadDone
  repeat' first
    | with_reducible assumption | with_reducible apply ans_next_keeps | with_reducible apply ans_ite_keeps
    | with_reducible apply State.makeStale_keeps | with_reducible apply State.setUnit_keeps
    | with_reducible apply State.endAmendment_keeps | simp only [keeps_upd, keeps_obs, keeps_aon, keeps_err, keeps_rcd] | split
theorem execAmendmentVerifyDone_keeps {b : Bool} {s0 : State} (x0 : Bool) (s : State) (h : Keeps b s0 s) :
    AnsKeeps b s0 (execAmendmentVerifyDone x0 s) := by
  unfold execAmendmentVerifyDone
  repeat' first
    | with_reducible assumption | with_reducible apply ans_next_keeps | with_reducible apply ans_ite_keeps
    | with_reducible apply State.endAmendment_keeps | with_reducible refine State.copiedAmendment_keeps (by assumption) ?_
    | with_reducible apply State.startDrain_keeps | split
theorem execLifeCycleTransition_keeps {b : Bool} {s0 : State} (s : State) (h : Keeps b s0 s) :
    AnsKeeps b s0 (execLifeCycleTransition s) := by
  unfold execLifeCycleTransition
  repeat' first
    | with_reducible assumption | with_reducible apply ans_next_keeps | with_reducible apply ans_ite_keeps
    | with_reducible apply State.startFlr_keeps | with_reducible apply State.resetLink_keeps
    | simp only [keeps_upd, keeps_obs, keeps_aon, keeps_err, keeps_rcd]
    | (with_reducible apply keeps_foldl; intro _ _ _; try dsimp only) | split
theorem execUctlRejoin_keeps {b : Bool} {s0 : State} (x0 : Who) (s : State) (h : Keeps b s0 s) :
    AnsKeeps b s0 (execUctlRejoin x0 s) := by
  unfold execUctlRejoin
  repeat' first
    | with_reducible assumption | with_reducible refine delivered_keeps _ _ _ ?_ (fun _ _ => ?_)
    | with_reducible refine heardAon_keeps _ _ _ ?_ (fun _ _ => ?_) | with_reducible apply ans_next_keeps
    | with_reducible apply ans_ite_keeps | with_reducible apply State.makeStale_keeps
theorem execUnitRejoin_keeps {b : Bool} {s0 : State} (x0 : Byte) (x1 : Byte) (s : State) (h : Keeps b s0 s) :
    AnsKeeps b s0 (execUnitRejoin x0 x1 s) := by
  unfold execUnitRejoin
  repeat' first
    | with_reducible assumption | with_reducible apply ans_next_keeps | with_reducible apply ans_ite_keeps
    | with_reducible apply State.sweepDead_keeps | with_reducible apply State.joinPool_keeps
    | with_reducible apply State.forget_keeps | with_reducible apply State.setUnit_keeps
    | with_reducible apply State.resumeUnit_keeps | with_reducible apply State.endAmendment_keeps | split
theorem execRecClrall_keeps {b : Bool} {s0 : State} (x0 : Who) (s : State) (h : Keeps b s0 s) :
    AnsKeeps b s0 (execRecClrall x0 s) := by
  unfold execRecClrall
  repeat' first
    | with_reducible assumption | with_reducible refine delivered_keeps _ _ _ ?_ (fun _ _ => ?_)
    | with_reducible refine heard_keeps _ _ _ ?_ (fun _ _ => ?_) | with_reducible apply ans_next_keeps
    | with_reducible apply ans_ite_keeps | with_reducible apply State.recClear_keeps
theorem execRecDataAccess_keeps {b : Bool} {s0 : State} (x0 : Who) (x1 : RecAccess) (s : State) (h : Keeps b s0 s) :
    AnsKeeps b s0 (execRecDataAccess x0 x1 s) := by
  unfold execRecDataAccess
  repeat' first
    | with_reducible assumption | with_reducible refine delivered_keeps _ _ _ ?_ (fun _ _ => ?_)
    | with_reducible refine heardRead_keeps _ _ _ ?_ (fun _ _ => ?_)
    | with_reducible refine heard_keeps _ _ _ ?_ (fun _ _ => ?_) | with_reducible apply ans_next_keeps
    | with_reducible apply ans_ite_keeps | with_reducible apply State.recRead_keeps
    | with_reducible refine State.recRead_keepsEq (by assumption) ?_ | with_reducible apply State.recWrite_keeps
    | with_reducible apply answerRead_keeps | split
theorem execRecFreeze_keeps {b : Bool} {s0 : State} (x0 : Who) (x1 : Bool) (s : State) (h : Keeps b s0 s) :
    AnsKeeps b s0 (execRecFreeze x0 x1 s) := by
  unfold execRecFreeze
  repeat' first
    | with_reducible assumption | with_reducible refine delivered_keeps _ _ _ ?_ (fun _ _ => ?_)
    | with_reducible refine heard_keeps _ _ _ ?_ (fun _ _ => ?_) | with_reducible apply ans_next_keeps
    | with_reducible apply ans_ite_keeps | simp only [keeps_upd, keeps_obs, keeps_aon, keeps_err, keeps_rcd]
theorem execRecSnap_keeps {b : Bool} {s0 : State} (x0 : Who) (s : State) (h : Keeps b s0 s) :
    AnsKeeps b s0 (execRecSnap x0 s) := by
  unfold execRecSnap
  repeat' first
    | with_reducible assumption | with_reducible refine delivered_keeps _ _ _ ?_ (fun _ _ => ?_)
    | with_reducible refine heard_keeps _ _ _ ?_ (fun _ _ => ?_) | with_reducible apply ans_next_keeps
    | with_reducible apply ans_ite_keeps | with_reducible apply State.snapAll_keeps
theorem execSnapshotPeriod_keeps {b : Bool} {s0 : State} (x0 : Fin 16) (s : State) (h : Keeps b s0 s) :
    AnsKeeps b s0 (execSnapshotPeriod x0 s) := by
  unfold execSnapshotPeriod
  repeat' first
    | with_reducible assumption | with_reducible refine inUnit_keeps _ _ _ _ ?_ (fun _ _ => ?_)
    | with_reducible apply ans_next_keeps | with_reducible apply ans_ite_keeps | with_reducible apply State.capture_keeps
theorem storeAon_keeps {u : Bool} {s0 : State} (w : Who) (s : State) (f : State → State) (h : Keeps u s0 s)
    (hf : ∀ s, Keeps u s0 s → Keeps u s0 (f s)) : AnsKeeps u s0 (storeAon w s f) := heardAon_keeps _ _ _ h fun s h => ans_next_keeps (keeps_ite _ (hf _ h) h)
theorem aonWrite_keeps {b : Bool} {s0 : State} (x0 : Who) (x1 : Nat) (x2 : Half) (x3 : W64) (s : State) (h : Keeps b s0 s) :
    AnsKeeps b s0 (aonWrite x0 x1 x2 x3 s) := by
  unfold aonWrite
  repeat' first
    | with_reducible assumption | with_reducible refine storeAon_keeps _ _ _ ?_ (fun _ _ => ?_)
    | with_reducible refine heardAon_keeps _ _ _ ?_ (fun _ _ => ?_) | with_reducible apply ans_next_keeps
    | with_reducible apply ans_ite_keeps | with_reducible apply execAmendmentGo_keeps
    | with_reducible apply execUctlRejoin_keeps
    | simp only [keeps_upd, keeps_obs, keeps_aon, keeps_err, keeps_rcd]
theorem badWrite_keeps {b : Bool} {s0 : State} (x0 : Who) (s : State) (h : Keeps b s0 s) :
    AnsKeeps b s0 (badWrite x0 s) := by
  unfold badWrite
  repeat' first
    | with_reducible assumption | with_reducible refine heard_keeps _ _ _ ?_ (fun _ _ => ?_)
    | with_reducible apply ans_next_keeps | with_reducible apply ans_ite_keeps | with_reducible apply State.badAccess_keeps
theorem storeAny_keeps {u : Bool} {s0 : State} (w : Who) (s : State) (f : State → State) (h : Keeps u s0 s)
    (hf : ∀ s, Keeps u s0 s → Keeps u s0 (f s)) : AnsKeeps u s0 (storeAny w s f) := heard_keeps _ _ _ h fun s h => ans_next_keeps (hf _ h)
theorem ignored_keeps {b : Bool} {s0 : State} (x0 : Who) (s : State) (h : Keeps b s0 s) :
    AnsKeeps b s0 (ignored x0 s) := by
  unfold ignored
  repeat' first
    | with_reducible assumption | with_reducible refine heard_keeps _ _ _ ?_ (fun _ _ => ?_)
    | with_reducible apply ans_next_keeps | with_reducible apply ans_ite_keeps
theorem cmpWrite_keeps {b : Bool} {s0 : State} (x0 : Who) (x1 : Nat) (x2 : W64) (s : State) (h : Keeps b s0 s) :
    AnsKeeps b s0 (cmpWrite x0 x1 x2 s) := by
  unfold cmpWrite
  repeat' first
    | with_reducible assumption | with_reducible refine storeAny_keeps _ _ _ ?_ (fun _ _ => ?_)
    | with_reducible apply ans_next_keeps | with_reducible apply ans_ite_keeps | with_reducible apply ignored_keeps
    | with_reducible apply State.writeSkcfg_keeps | simp only [keeps_upd, keeps_obs, keeps_aon, keeps_err, keeps_rcd] | split
theorem storeErr_keeps {u : Bool} {s0 : State} (w : Who) (s : State) (f : State → State) (h : Keeps u s0 s)
    (hf : ∀ s, Keeps u s0 s → Keeps u s0 (f s)) : AnsKeeps u s0 (storeErr w s f) := heardAon_keeps _ _ _ h fun s h => inUnit_keeps _ _ _ _ h fun s h => ans_next_keeps (keeps_ite _ (hf _ h) h)
theorem writeGstat_keeps {s0 : State} (x0 : Who) (x1 : Nat) (s : State) (h : Keeps false s0 s) :
    AnsKeeps false s0 (writeGstat x0 x1 s) := by
  have h1 := storeErr_keeps x0 s (fun s => if bit x1 30 then { s with err := { s.err with missed := false } } else s) h
    (by intro s h; dsimp only; split; exact (keeps_err ..).2 h; exact h)
  unfold writeGstat
  split
  · have h2 := h1.go _ ‹_›
    exact ans_ite_keeps _ (execHaltClear_keeps _ _ h2) (ans_next_keeps h2)
  · exact h1
theorem errWrite_keeps {s0 : State} (x0 : Who) (x1 : Nat) (x2 : W64) (s : State) (h : Keeps false s0 s) :
    AnsKeeps false s0 (errWrite x0 x1 x2 s) := by
  unfold errWrite
  repeat' first
    | with_reducible assumption | with_reducible refine storeErr_keeps _ _ _ ?_ (fun _ _ => ?_)
    | with_reducible refine heardAon_keeps _ _ _ ?_ (fun _ _ => ?_) | with_reducible apply ans_next_keeps
    | with_reducible apply ans_ite_keeps | with_reducible apply writeGstat_keeps | with_reducible apply execErrStatClear_keeps
    | with_reducible apply State.updFerr_keeps | with_reducible apply State.writeErrCfg_keeps
    | simp only [keeps_upd, keeps_obs, keeps_aon, keeps_err, keeps_rcd]
    | split
theorem execReadClearCounterRead_keeps {b : Bool} {s0 : State} (x0 : Who) (x1 : RcReg) (x2 : Half) (s : State) (h : Keeps b s0 s) :
    AnsKeeps b s0 (execReadClearCounterRead x0 x1 x2 s) := by
  unfold execReadClearCounterRead
  repeat' first
    | with_reducible assumption | with_reducible refine delivered_keeps _ _ _ ?_ (fun _ _ => ?_)
    | with_reducible refine heardAonRead_keeps _ _ _ ?_ (fun _ _ => ?_)
    | with_reducible refine heardRead_keeps _ _ _ ?_ (fun _ _ => ?_) | with_reducible apply ans_next_keeps
    | with_reducible apply ans_ite_keeps | with_reducible apply State.readView_keeps | split
theorem store_keeps {u : Bool} {s0 : State} (w : Who) (c : Nat) (s : State) (f : State → State) (h : Keeps u s0 s)
    (hf : ∀ s, Keeps u s0 s → Keeps u s0 (f s)) : AnsKeeps u s0 (store w c s f) := heard_keeps _ _ _ h fun s h => inUnit_keeps _ _ _ _ h fun s h => ans_next_keeps (hf _ h)
theorem writeQctl_keeps {b : Bool} {s0 : State} (x0 : Who) (x1 : Nat) (s : State) (h : Keeps b s0 s) :
    AnsKeeps b s0 (writeQctl x0 x1 s) := by
  unfold writeQctl
  repeat' first
    | with_reducible assumption | with_reducible apply ans_next_keeps | with_reducible apply ans_ite_keeps
    | with_reducible apply execQctlEnable_keeps | with_reducible apply execQctlDisable_keeps
    | with_reducible apply execQctlResume_keeps | with_reducible apply execQctlReset_keeps
    | with_reducible apply ignored_keeps
theorem storeMgr_keeps {u : Bool} {s0 : State} (w : Who) (c : Nat) (s : State) (f : State → State) (h : Keeps u s0 s)
    (hf : ∀ s, Keeps u s0 s → Keeps u s0 (f s)) : AnsKeeps u s0 (storeMgr w c s f) := store_keeps _ _ _ _ h fun s h => keeps_ite _ (hf _ h) h
theorem galWrite_keeps {b : Bool} {s0 : State} (x0 : Who) (x1 : Nat) (x2 : Half) (x3 : W64) (s : State) (h : Keeps b s0 s) :
    AnsKeeps b s0 (galWrite x0 x1 x2 x3 s) := by
  unfold galWrite
  repeat' first
    | with_reducible assumption | with_reducible refine store_keeps _ _ _ _ ?_ (fun _ _ => ?_)
    | with_reducible refine storeMgr_keeps _ _ _ _ ?_ (fun _ _ => ?_) | with_reducible apply ans_next_keeps
    | with_reducible apply ans_ite_keeps | with_reducible apply writeQctl_keeps | with_reducible apply ignored_keeps
    | with_reducible apply State.writeGalSel_keeps | with_reducible apply State.cfgQueue_keeps
    | with_reducible apply State.clearHalted_keeps
    | simp only [keeps_upd, keeps_obs, keeps_aon, keeps_err, keeps_rcd]
    | split
theorem icWrite_keeps {b : Bool} {s0 : State} (x0 : Who) (x1 : Nat) (x2 : W64) (s : State) (h : Keeps b s0 s) :
    AnsKeeps b s0 (icWrite x0 x1 x2 s) := by
  unfold icWrite
  repeat' first
    | with_reducible assumption | with_reducible refine store_keeps _ _ _ _ ?_ (fun _ _ => ?_)
    | with_reducible refine storeMgr_keeps _ _ _ _ ?_ (fun _ _ => ?_) | with_reducible apply ans_next_keeps
    | with_reducible apply ans_ite_keeps | with_reducible apply execGctlWrite_keeps | with_reducible apply execSysevClear_keeps
    | with_reducible apply execPendClear_keeps | with_reducible apply execTgtWrite_keeps
    | with_reducible apply execSourceComplete_keeps | with_reducible apply ignored_keeps
    | with_reducible apply State.writeCoal_keeps | split
theorem partWrite_keeps {b : Bool} {s0 : State} (x0 : Who) (x1 : Nat) (x2 : Half) (x3 : W64) (s : State) (h : Keeps b s0 s) :
    AnsKeeps b s0 (partWrite x0 x1 x2 x3 s) := by
  unfold partWrite
  repeat' first
    | with_reducible assumption | with_reducible refine store_keeps _ _ _ _ ?_ (fun _ _ => ?_)
    | with_reducible apply ans_next_keeps | with_reducible apply ans_ite_keeps | with_reducible apply execTcactWrite_keeps
    | with_reducible apply execQuotaWrite_keeps | with_reducible apply ignored_keeps
    | with_reducible apply State.writeOver_keeps | split
theorem writeInvctl_keeps {b : Bool} {s0 : State} (x0 : Who) (x1 : Nat) (s : State) (h : Keeps b s0 s) :
    AnsKeeps b s0 (writeInvctl x0 x1 s) := by
  unfold writeInvctl
  repeat' first
    | with_reducible assumption | with_reducible apply ans_next_keeps | with_reducible apply ans_ite_keeps
    | with_reducible apply execInvctlPartition_keeps | with_reducible apply execInvctlContext_keeps
    | with_reducible apply execInvctlRange_keeps | with_reducible apply ignored_keeps | split
theorem trnTable_keeps {b : Bool} {s0 : State} (x0 : Who) (x1 : Nat) (x2 : Half) (x3 : W64) (s : State) (h : Keeps b s0 s) :
    AnsKeeps b s0 (trnTable x0 x1 x2 x3 s) := by
  unfold trnTable
  repeat' first
    | with_reducible assumption | with_reducible refine storeMgr_keeps _ _ _ _ ?_ (fun _ _ => ?_)
    | with_reducible refine store_keeps _ _ _ _ ?_ (fun _ _ => ?_) | with_reducible apply ans_next_keeps
    | with_reducible apply ans_ite_keeps | with_reducible apply execCtxcfgWrite_keeps | with_reducible apply ignored_keeps
    | with_reducible apply State.setTrn_keeps | split
theorem trnWrite_keeps {b : Bool} {s0 : State} (x0 : Who) (x1 : Nat) (x2 : Half) (x3 : W64) (s : State) (h : Keeps b s0 s) :
    AnsKeeps b s0 (trnWrite x0 x1 x2 x3 s) := by
  unfold trnWrite
  repeat' first
    | with_reducible assumption | with_reducible refine store_keeps _ _ _ _ ?_ (fun _ _ => ?_)
    | with_reducible refine storeMgr_keeps _ _ _ _ ?_ (fun _ _ => ?_) | with_reducible apply ans_next_keeps
    | with_reducible apply ans_ite_keeps | with_reducible apply writeInvctl_keeps | with_reducible apply execTbindWrite_keeps
    | with_reducible apply trnTable_keeps | with_reducible apply State.setTrn_keeps
    | with_reducible apply State.writePmode_keeps | split
theorem writeResp_keeps {b : Bool} {s0 : State} (x0 : Who) (x1 : Nat) (s : State) (h : Keeps b s0 s) :
    AnsKeeps b s0 (writeResp x0 x1 s) := by
  unfold writeResp
  repeat' first
    | with_reducible assumption | with_reducible refine store_keeps _ _ _ _ ?_ (fun _ _ => ?_)
    | with_reducible apply ans_next_keeps | with_reducible apply ans_ite_keeps | with_reducible apply execFltRespRetry_keeps
    | with_reducible apply execFltRespAbort_keeps | with_reducible apply State.modFltp_keeps | split
theorem fltWrite_keeps {b : Bool} {s0 : State} (x0 : Who) (x1 : Nat) (x2 : Half) (x3 : W64) (s : State) (h : Keeps b s0 s) :
    AnsKeeps b s0 (fltWrite x0 x1 x2 x3 s) := by
  unfold fltWrite
  repeat' first
    | with_reducible assumption | with_reducible refine store_keeps _ _ _ _ ?_ (fun _ _ => ?_)
    | with_reducible apply ans_next_keeps | with_reducible apply ans_ite_keeps | with_reducible apply execFltRcfgWrite_keeps
    | with_reducible apply writeResp_keeps | with_reducible apply execTrecWrite_keeps | with_reducible apply ignored_keeps
    | with_reducible apply State.modFltp_keeps | split
theorem writeCctl_keeps {b : Bool} {s0 : State} (x0 : Who) (x1 : Nat) (s : State) (h : Keeps b s0 s) :
    AnsKeeps b s0 (writeCctl x0 x1 s) := by
  unfold writeCctl
  repeat' first
    | with_reducible assumption | with_reducible apply ans_next_keeps | with_reducible apply ans_ite_keeps
    | with_reducible apply execPltCctlAbort_keeps | with_reducible apply execPltCctlRelease_keeps
    | with_reducible apply execPltCctlRetry_keeps | with_reducible apply ignored_keeps | split
theorem pltWrite_keeps {b : Bool} {s0 : State} (x0 : Who) (x1 : Nat) (x2 : Half) (x3 : W64) (s : State) (h : Keeps b s0 s) :
    AnsKeeps b s0 (pltWrite x0 x1 x2 x3 s) := by
  unfold pltWrite
  repeat' first
    | with_reducible assumption | with_reducible refine storeAny_keeps _ _ _ ?_ (fun _ _ => ?_)
    | with_reducible apply ans_next_keeps | with_reducible apply ans_ite_keeps | with_reducible apply writeCctl_keeps
    | with_reducible apply ignored_keeps
    | simp only [keeps_upd, keeps_obs, keeps_aon, keeps_err, keeps_rcd]
theorem lkaWrite_keeps {b : Bool} {s0 : State} (x0 : Who) (x1 : Nat) (x2 : W64) (s : State) (h : Keeps b s0 s) :
    AnsKeeps b s0 (lkaWrite x0 x1 x2 s) := by
  unfold lkaWrite
  repeat' first
    | with_reducible assumption | with_reducible apply ans_next_keeps | with_reducible apply ans_ite_keeps
    | with_reducible apply execLkaGctlWrite_keeps | with_reducible apply execLkaCtlWrite_keeps
    | with_reducible apply ignored_keeps
theorem writeWctl_keeps {b : Bool} {s0 : State} (x0 : Who) (x1 : Nat) (s : State) (h : Keeps b s0 s) :
    AnsKeeps b s0 (writeWctl x0 x1 s) := by
  unfold writeWctl; dsimp only
  have h1 := store_keeps x0 6 s (fun s => if bit x1 8 then { s with seam := { s.seam with refused := s.seam.refused.set (whoPart x0) false } } else s) h
    (by intro s h; dsimp only; split; exact (keeps_upd ..).2 h; exact h)
  split
  · have h2 := h1.go _ ‹_›
    exact ans_ite_keeps _ (execWindowCommit_keeps _ _ h2) (ans_next_keeps h2)
  · exact h1
theorem writeTown_keeps {b : Bool} {s0 : State} (x0 : Who) (x1 : Nat) (s : State) (h : Keeps b s0 s) :
    AnsKeeps b s0 (writeTown x0 x1 s) := by
  unfold writeTown; dsimp only
  have h1 := storeMgr_keeps x0 6 s (fun s => if bit x1 29 then { s with seam := { s.seam with town := false } } else s) h
    (by intro s h; dsimp only; split; exact (keeps_upd ..).2 h; exact h)
  split
  · have h2 := h1.go _ ‹_›
    split
    · exact execTownAssign_keeps _ _ _ _ h2
    · exact execTownRelease_keeps _ _ _ h2
    · exact ans_next_keeps h2
  · exact h1
theorem seamWrite_keeps {b : Bool} {s0 : State} (x0 : Who) (x1 : Nat) (x2 : Half) (x3 : W64) (s : State) (h : Keeps b s0 s) :
    AnsKeeps b s0 (seamWrite x0 x1 x2 x3 s) := by
  unfold seamWrite
  repeat' first
    | with_reducible assumption | with_reducible refine storeMgr_keeps _ _ _ _ ?_ (fun _ _ => ?_)
    | with_reducible refine store_keeps _ _ _ _ ?_ (fun _ _ => ?_) | with_reducible apply ans_next_keeps
    | with_reducible apply ans_ite_keeps | with_reducible apply writeWctl_keeps | with_reducible apply writeTown_keeps
    | with_reducible apply ignored_keeps | with_reducible apply State.stage_keeps
    | simp only [keeps_upd, keeps_obs, keeps_aon, keeps_err, keeps_rcd] | split
theorem writeAgctl_keeps {b : Bool} {s0 : State} (x0 : Who) (x1 : Nat) (s : State) (h : Keeps b s0 s) :
    AnsKeeps b s0 (writeAgctl x0 x1 s) := by
  unfold writeAgctl; dsimp only
  have h1 := storeMgr_keeps x0 8 s (fun s => if bit x1 29 then s.setLin { s.lin with refused := false } else s) h
    (by intro s h; dsimp only; split; exact State.setLin_keeps _ _ h; exact h)
  split
  · have h2 := h1.go _ ‹_›
    split
    · exact execAgctlLeave_keeps _ _ _ h2
    · exact execAgctlJoin_keeps _ _ _ h2
    · exact ans_next_keeps h2
  · exact h1
theorem linWrite_keeps {b : Bool} {s0 : State} (x0 : Who) (x1 : Nat) (x2 : Half) (x3 : W64) (s : State) (h : Keeps b s0 s) :
    AnsKeeps b s0 (linWrite x0 x1 x2 x3 s) := by
  unfold linWrite
  repeat' first
    | with_reducible assumption | with_reducible refine store_keeps _ _ _ _ ?_ (fun _ _ => ?_)
    | with_reducible apply ans_next_keeps | with_reducible apply ans_ite_keeps | with_reducible apply execLinEnable_keeps
    | with_reducible apply execLinDisable_keeps | with_reducible apply writeAgctl_keeps
    | with_reducible apply execLinProbe_keeps | with_reducible apply ignored_keeps | with_reducible apply State.setLin_keeps
    | split
theorem obsWrite_keeps {b : Bool} {s0 : State} (x0 : Who) (x1 : Nat) (x2 : Half) (x3 : W64) (s : State) (h : Keeps b s0 s) :
    AnsKeeps b s0 (obsWrite x0 x1 x2 x3 s) := by
  unfold obsWrite
  repeat' first
    | with_reducible assumption | with_reducible refine store_keeps _ _ _ _ ?_ (fun _ _ => ?_)
    | with_reducible refine storeMgr_keeps _ _ _ _ ?_ (fun _ _ => ?_) | with_reducible apply ans_next_keeps
    | with_reducible apply ans_ite_keeps | with_reducible apply execTempClrpeak_keeps | with_reducible apply ignored_keeps
    | with_reducible apply execTackGo_keeps | with_reducible apply State.setTrp_keeps
    | simp only [keeps_upd, keeps_obs, keeps_aon, keeps_err, keeps_rcd] | split
theorem recRegWrite_keeps {b : Bool} {s0 : State} (x0 : Who) (x1 : Nat) (x2 : Half) (x3 : W64) (s : State) (h : Keeps b s0 s) :
    AnsKeeps b s0 (recRegWrite x0 x1 x2 x3 s) := by
  unfold recRegWrite
  repeat' first
    | with_reducible assumption | with_reducible refine storeMgr_keeps _ _ _ _ ?_ (fun _ _ => ?_)
    | with_reducible refine store_keeps _ _ _ _ ?_ (fun _ _ => ?_) | with_reducible apply ans_next_keeps
    | with_reducible apply ans_ite_keeps | with_reducible apply ignored_keeps | with_reducible apply State.writeRecCtl_keeps
    | with_reducible apply State.recWrite_keeps | simp only [keeps_upd, keeps_obs, keeps_aon, keeps_err, keeps_rcd]
theorem talWrite_keeps {b : Bool} {s0 : State} (x0 : Who) (x1 : Nat) (x2 : Half) (x3 : W64) (s : State) (h : Keeps b s0 s) :
    AnsKeeps b s0 (talWrite x0 x1 x2 x3 s) := by
  unfold talWrite
  repeat' first
    | with_reducible assumption | with_reducible refine store_keeps _ _ _ _ ?_ (fun _ _ => ?_)
    | with_reducible apply ans_next_keeps | with_reducible apply ans_ite_keeps | with_reducible apply execTalCountWrite_keeps
    | with_reducible apply execTalThrWrite_keeps | with_reducible apply State.isolation_keeps | split
theorem pageWrite_keeps {b : Bool} {s0 : State} (x0 : Who) (x1 : Nat) (x2 : W64) (s : State) (h : Keeps b s0 s) :
    AnsKeeps b s0 (pageWrite x0 x1 x2 s) := by
  unfold pageWrite
  repeat' first
    | with_reducible assumption | with_reducible apply ans_next_keeps | with_reducible apply ans_ite_keeps
    | with_reducible apply execDoorbellWrite_keeps | with_reducible apply execCheadWrite_keeps
    | with_reducible apply ignored_keeps | split
theorem writeReg_keeps {s0 : State} (x0 : Who) (x1 : Nat) (x2 : Half) (x3 : W64) (s : State) (h : Keeps false s0 s) :
    AnsKeeps false s0 (writeReg x0 x1 x2 x3 s) := by
  unfold writeReg
  repeat' first
    | with_reducible assumption | with_reducible apply ans_next_keeps | with_reducible apply ans_ite_keeps
    | with_reducible apply galWrite_keeps | with_reducible apply ignored_keeps | with_reducible apply icWrite_keeps
    | with_reducible apply partWrite_keeps | with_reducible apply trnWrite_keeps | with_reducible apply fltWrite_keeps
    | with_reducible apply pltWrite_keeps | with_reducible apply cmpWrite_keeps | with_reducible apply lkaWrite_keeps
    | with_reducible apply seamWrite_keeps | with_reducible apply linWrite_keeps | with_reducible apply errWrite_keeps
    | with_reducible apply obsWrite_keeps | with_reducible apply recRegWrite_keeps | with_reducible apply aonWrite_keeps
    | with_reducible apply talWrite_keeps | with_reducible apply pageWrite_keeps
theorem writeWord_keeps {s0 s : State} {w : Who} {o : Nat} {v : W64} {a : Ans} (e : writeWord w o v s = some a)
    (h : Keeps false s0 s) : AnsKeeps false s0 a := by
  unfold writeWord at e
  repeat' split at e
  all_goals cases e
  all_goals exact writeReg_keeps _ _ _ _ _ h
theorem writePair_keeps {s0 : State} (w : Who) (o : Nat) (v : W64) (s : State) (h : Keeps false s0 s) :
    AnsKeeps false s0 (writePair w o v s) := by
  have g (o : Nat) (v : W64) (s : State) (h : Keeps false s0 s) (b : Ans) (hb : AnsKeeps false s0 b) : AnsKeeps false s0 ((writeWord w o v s).getD b) := by
    cases e : writeWord w o v s with
    | none => exact hb
    | some a => exact writeWord_keeps e h
  unfold writePair; dsimp only
  split
  · have h2 := (writeWord_keeps ‹_› h).go _ rfl
    exact g _ _ _ h2 _ (ans_next_keeps h2)
  · exact writeWord_keeps ‹_› h
  · exact g _ _ _ h _ (badWrite_keeps _ _ h)
theorem writeAt_keeps {s0 : State} (x0 : Who) (x1 : Nat) (x2 : Nat) (x3 : W64) (s : State) (h : Keeps false s0 s) :
    AnsKeeps false s0 (writeAt x0 x1 x2 x3 s) := by
  unfold writeAt
  apply ans_ite_keeps
  · cases e : writeWord x0 x1 (BitVec.ofNat 64 (x3.toNat % 2 ^ 32)) s with
    | none => exact badWrite_keeps _ _ h
    | some a => exact writeWord_keeps e h
  · exact ans_ite_keeps _ (ans_ite_keeps _ (writeReg_keeps _ _ _ _ _ h) (writePair_keeps _ _ _ _ h)) (badWrite_keeps _ _ h)
theorem execRegisterWrite_keeps {s0 : State} (x0 : Who) (x1 : BitVec 26) (x2 : Nat) (x3 : W64) (s : State) (h : Keeps false s0 s) :
    AnsKeeps false s0 (execRegisterWrite x0 x1 x2 x3 s) := by
  unfold execRegisterWrite
  repeat' first
    | with_reducible assumption | with_reducible refine delivered_keeps _ _ _ ?_ (fun _ _ => ?_)
    | with_reducible apply ans_next_keeps | with_reducible apply ans_ite_keeps | with_reducible apply writeAt_keeps
    | with_reducible apply badWrite_keeps | split

end Sys2Proof.Machine
end

