-- ==== Sys2Proof/Laws/State.lean ====
section
/-! SUPPORT. What each update of State leaves and sets, field by field, and reading a numbered part after it is set. -/

namespace Sys2Proof.Machine

open Sys2Proof

/-- An instance reads as what was set last. -/
theorem Tbl.get_set {α : Type} (t : Tbl α) (d v : α) (k j : Nat) : (t.set k v).get d j = if j = k then v else t.get d j := by
  induction t with
  | nil => simp only [Tbl.set, Tbl.get, eq_comm]
  | cons x r ih =>
    obtain ⟨i, u⟩ := x
    simp only [Tbl.set]
    split
    · subst i; simp only [Tbl.get]; by_cases h : j = k
      · simp [h]
      · simp [h, Ne.symm h]
    · split
      · simp only [Tbl.get, eq_comm]
      · simp only [Tbl.get, ih]
        by_cases h : i = j
        · subst j; simp [*]
        · simp [h]

@[simp] theorem State.setQueue_pending (s : State) (q : Nat) (v : Queue) : (s.setQueue q v).pending = s.pending := rfl
@[simp] theorem State.setQueue_held (s : State) (q : Nat) (v : Queue) : (s.setQueue q v).held = s.held := rfl
@[simp] theorem State.setQueue_part (s : State) (q : Nat) (v : Queue) : (s.setQueue q v).part = s.part := rfl
@[simp] theorem State.setQueue_mem (s : State) (q : Nat) (v : Queue) : (s.setQueue q v).mem = s.mem := rfl
@[simp] theorem State.setQueue_poison (s : State) (q : Nat) (v : Queue) : (s.setQueue q v).poison = s.poison := rfl
@[simp] theorem State.setQueue_veil (s : State) (q : Nat) (v : Queue) : (s.setQueue q v).veil = s.veil := rfl
@[simp] theorem State.setQueue_reqs (s : State) (q : Nat) (v : Queue) : (s.setQueue q v).reqs = s.reqs := rfl
@[simp] theorem State.setQueue_orphans (s : State) (q : Nat) (v : Queue) : (s.setQueue q v).orphans = s.orphans := rfl
@[simp] theorem State.setQueue_nextId (s : State) (q : Nat) (v : Queue) : (s.setQueue q v).nextId = s.nextId := rfl
@[simp] theorem State.setQueue_free (s : State) (q : Nat) (v : Queue) : (s.setQueue q v).free = s.free := rfl
@[simp] theorem State.setQueue_tileQ (s : State) (q : Nat) (v : Queue) : (s.setQueue q v).tileQ = s.tileQ := rfl
@[simp] theorem State.setQueue_out (s : State) (q : Nat) (v : Queue) : (s.setQueue q v).out = s.out := rfl
@[simp] theorem State.setQueue_latch (s : State) (q : Nat) (v : Queue) : (s.setQueue q v).latch = s.latch := rfl
@[simp] theorem State.setQueue_gal (s : State) (q : Nat) (v : Queue) : (s.setQueue q v).gal = { s.gal with queues := s.gal.queues.set q v } := rfl
@[simp] theorem State.setQueue_trn (s : State) (q : Nat) (v : Queue) : (s.setQueue q v).trn = s.trn := rfl
@[simp] theorem State.setQueue_flt (s : State) (q : Nat) (v : Queue) : (s.setQueue q v).flt = s.flt := rfl
@[simp] theorem State.setQueue_epo (s : State) (q : Nat) (v : Queue) : (s.setQueue q v).epo = s.epo := rfl
@[simp] theorem State.setQueue_plt (s : State) (q : Nat) (v : Queue) : (s.setQueue q v).plt = s.plt := rfl
@[simp] theorem State.setQueue_cmp (s : State) (q : Nat) (v : Queue) : (s.setQueue q v).cmp = s.cmp := rfl
@[simp] theorem State.setQueue_lka (s : State) (q : Nat) (v : Queue) : (s.setQueue q v).lka = s.lka := rfl
@[simp] theorem State.setQueue_seam (s : State) (q : Nat) (v : Queue) : (s.setQueue q v).seam = s.seam := rfl
@[simp] theorem State.setQueue_tal (s : State) (q : Nat) (v : Queue) : (s.setQueue q v).tal = s.tal := rfl
@[simp] theorem State.setQueue_lin (s : State) (q : Nat) (v : Queue) : (s.setQueue q v).lin = s.lin := rfl
@[simp] theorem State.setQueue_host (s : State) (q : Nat) (v : Queue) : (s.setQueue q v).host = s.host := rfl
@[simp] theorem State.setQueue_ic (s : State) (q : Nat) (v : Queue) : (s.setQueue q v).ic = s.ic := rfl
@[simp] theorem State.setQueue_prt (s : State) (q : Nat) (v : Queue) : (s.setQueue q v).prt = s.prt := rfl
@[simp] theorem State.setQueue_aon (s : State) (q : Nat) (v : Queue) : (s.setQueue q v).aon = s.aon := rfl
@[simp] theorem State.setQueue_err (s : State) (q : Nat) (v : Queue) : (s.setQueue q v).err = s.err := rfl
@[simp] theorem State.setQueue_obs (s : State) (q : Nat) (v : Queue) : (s.setQueue q v).obs = s.obs := rfl
@[simp] theorem State.setQueue_rcd (s : State) (q : Nat) (v : Queue) : (s.setQueue q v).rcd = s.rcd := rfl

@[simp] theorem State.setEng_pending (s : State) (e : Nat) (v : Eng) : (s.setEng e v).pending = s.pending := rfl
@[simp] theorem State.setEng_held (s : State) (e : Nat) (v : Eng) : (s.setEng e v).held = s.held := rfl
@[simp] theorem State.setEng_part (s : State) (e : Nat) (v : Eng) : (s.setEng e v).part = s.part := rfl
@[simp] theorem State.setEng_mem (s : State) (e : Nat) (v : Eng) : (s.setEng e v).mem = s.mem := rfl
@[simp] theorem State.setEng_poison (s : State) (e : Nat) (v : Eng) : (s.setEng e v).poison = s.poison := rfl
@[simp] theorem State.setEng_veil (s : State) (e : Nat) (v : Eng) : (s.setEng e v).veil = s.veil := rfl
@[simp] theorem State.setEng_reqs (s : State) (e : Nat) (v : Eng) : (s.setEng e v).reqs = s.reqs := rfl
@[simp] theorem State.setEng_orphans (s : State) (e : Nat) (v : Eng) : (s.setEng e v).orphans = s.orphans := rfl
@[simp] theorem State.setEng_nextId (s : State) (e : Nat) (v : Eng) : (s.setEng e v).nextId = s.nextId := rfl
@[simp] theorem State.setEng_free (s : State) (e : Nat) (v : Eng) : (s.setEng e v).free = s.free := rfl
@[simp] theorem State.setEng_tileQ (s : State) (e : Nat) (v : Eng) : (s.setEng e v).tileQ = s.tileQ := rfl
@[simp] theorem State.setEng_out (s : State) (e : Nat) (v : Eng) : (s.setEng e v).out = s.out := rfl
@[simp] theorem State.setEng_latch (s : State) (e : Nat) (v : Eng) : (s.setEng e v).latch = s.latch := rfl
@[simp] theorem State.setEng_gal (s : State) (e : Nat) (v : Eng) : (s.setEng e v).gal = s.gal := rfl
@[simp] theorem State.setEng_trn (s : State) (e : Nat) (v : Eng) : (s.setEng e v).trn = s.trn := rfl
@[simp] theorem State.setEng_flt (s : State) (e : Nat) (v : Eng) : (s.setEng e v).flt = s.flt := rfl
@[simp] theorem State.setEng_epo (s : State) (e : Nat) (v : Eng) : (s.setEng e v).epo = s.epo := rfl
@[simp] theorem State.setEng_plt (s : State) (e : Nat) (v : Eng) : (s.setEng e v).plt = { s.plt with eng := s.plt.eng.set e v } := rfl
@[simp] theorem State.setEng_cmp (s : State) (e : Nat) (v : Eng) : (s.setEng e v).cmp = s.cmp := rfl
@[simp] theorem State.setEng_lka (s : State) (e : Nat) (v : Eng) : (s.setEng e v).lka = s.lka := rfl
@[simp] theorem State.setEng_seam (s : State) (e : Nat) (v : Eng) : (s.setEng e v).seam = s.seam := rfl
@[simp] theorem State.setEng_tal (s : State) (e : Nat) (v : Eng) : (s.setEng e v).tal = s.tal := rfl
@[simp] theorem State.setEng_lin (s : State) (e : Nat) (v : Eng) : (s.setEng e v).lin = s.lin := rfl
@[simp] theorem State.setEng_host (s : State) (e : Nat) (v : Eng) : (s.setEng e v).host = s.host := rfl
@[simp] theorem State.setEng_ic (s : State) (e : Nat) (v : Eng) : (s.setEng e v).ic = s.ic := rfl
@[simp] theorem State.setEng_prt (s : State) (e : Nat) (v : Eng) : (s.setEng e v).prt = s.prt := rfl
@[simp] theorem State.setEng_aon (s : State) (e : Nat) (v : Eng) : (s.setEng e v).aon = s.aon := rfl
@[simp] theorem State.setEng_err (s : State) (e : Nat) (v : Eng) : (s.setEng e v).err = s.err := rfl
@[simp] theorem State.setEng_obs (s : State) (e : Nat) (v : Eng) : (s.setEng e v).obs = s.obs := rfl
@[simp] theorem State.setEng_rcd (s : State) (e : Nat) (v : Eng) : (s.setEng e v).rcd = s.rcd := rfl

@[simp] theorem State.setComp_pending (s : State) (n : Nat) (v : Comp) : (s.setComp n v).pending = s.pending := rfl
@[simp] theorem State.setComp_held (s : State) (n : Nat) (v : Comp) : (s.setComp n v).held = s.held := rfl
@[simp] theorem State.setComp_part (s : State) (n : Nat) (v : Comp) : (s.setComp n v).part = s.part := rfl
@[simp] theorem State.setComp_mem (s : State) (n : Nat) (v : Comp) : (s.setComp n v).mem = s.mem := rfl
@[simp] theorem State.setComp_poison (s : State) (n : Nat) (v : Comp) : (s.setComp n v).poison = s.poison := rfl
@[simp] theorem State.setComp_veil (s : State) (n : Nat) (v : Comp) : (s.setComp n v).veil = s.veil := rfl
@[simp] theorem State.setComp_reqs (s : State) (n : Nat) (v : Comp) : (s.setComp n v).reqs = s.reqs := rfl
@[simp] theorem State.setComp_orphans (s : State) (n : Nat) (v : Comp) : (s.setComp n v).orphans = s.orphans := rfl
@[simp] theorem State.setComp_nextId (s : State) (n : Nat) (v : Comp) : (s.setComp n v).nextId = s.nextId := rfl
@[simp] theorem State.setComp_free (s : State) (n : Nat) (v : Comp) : (s.setComp n v).free = s.free := rfl
@[simp] theorem State.setComp_tileQ (s : State) (n : Nat) (v : Comp) : (s.setComp n v).tileQ = s.tileQ := rfl
@[simp] theorem State.setComp_out (s : State) (n : Nat) (v : Comp) : (s.setComp n v).out = s.out := rfl
@[simp] theorem State.setComp_latch (s : State) (n : Nat) (v : Comp) : (s.setComp n v).latch = s.latch := rfl
@[simp] theorem State.setComp_gal (s : State) (n : Nat) (v : Comp) : (s.setComp n v).gal = s.gal := rfl
@[simp] theorem State.setComp_trn (s : State) (n : Nat) (v : Comp) : (s.setComp n v).trn = s.trn := rfl
@[simp] theorem State.setComp_flt (s : State) (n : Nat) (v : Comp) : (s.setComp n v).flt = s.flt := rfl
@[simp] theorem State.setComp_epo (s : State) (n : Nat) (v : Comp) : (s.setComp n v).epo = s.epo := rfl
@[simp] theorem State.setComp_plt (s : State) (n : Nat) (v : Comp) : (s.setComp n v).plt = s.plt := rfl
@[simp] theorem State.setComp_cmp (s : State) (n : Nat) (v : Comp) : (s.setComp n v).cmp = { s.cmp with comp := s.cmp.comp.set n v } := rfl
@[simp] theorem State.setComp_lka (s : State) (n : Nat) (v : Comp) : (s.setComp n v).lka = s.lka := rfl
@[simp] theorem State.setComp_seam (s : State) (n : Nat) (v : Comp) : (s.setComp n v).seam = s.seam := rfl
@[simp] theorem State.setComp_tal (s : State) (n : Nat) (v : Comp) : (s.setComp n v).tal = s.tal := rfl
@[simp] theorem State.setComp_lin (s : State) (n : Nat) (v : Comp) : (s.setComp n v).lin = s.lin := rfl
@[simp] theorem State.setComp_host (s : State) (n : Nat) (v : Comp) : (s.setComp n v).host = s.host := rfl
@[simp] theorem State.setComp_ic (s : State) (n : Nat) (v : Comp) : (s.setComp n v).ic = s.ic := rfl
@[simp] theorem State.setComp_prt (s : State) (n : Nat) (v : Comp) : (s.setComp n v).prt = s.prt := rfl
@[simp] theorem State.setComp_aon (s : State) (n : Nat) (v : Comp) : (s.setComp n v).aon = s.aon := rfl
@[simp] theorem State.setComp_err (s : State) (n : Nat) (v : Comp) : (s.setComp n v).err = s.err := rfl
@[simp] theorem State.setComp_obs (s : State) (n : Nat) (v : Comp) : (s.setComp n v).obs = s.obs := rfl
@[simp] theorem State.setComp_rcd (s : State) (n : Nat) (v : Comp) : (s.setComp n v).rcd = s.rcd := rfl

@[simp] theorem State.setFltp_pending (s : State) (p : Nat) (v : FltP) : (s.setFltp p v).pending = s.pending := rfl
@[simp] theorem State.setFltp_held (s : State) (p : Nat) (v : FltP) : (s.setFltp p v).held = s.held := rfl
@[simp] theorem State.setFltp_part (s : State) (p : Nat) (v : FltP) : (s.setFltp p v).part = s.part := rfl
@[simp] theorem State.setFltp_mem (s : State) (p : Nat) (v : FltP) : (s.setFltp p v).mem = s.mem := rfl
@[simp] theorem State.setFltp_poison (s : State) (p : Nat) (v : FltP) : (s.setFltp p v).poison = s.poison := rfl
@[simp] theorem State.setFltp_veil (s : State) (p : Nat) (v : FltP) : (s.setFltp p v).veil = s.veil := rfl
@[simp] theorem State.setFltp_reqs (s : State) (p : Nat) (v : FltP) : (s.setFltp p v).reqs = s.reqs := rfl
@[simp] theorem State.setFltp_orphans (s : State) (p : Nat) (v : FltP) : (s.setFltp p v).orphans = s.orphans := rfl
@[simp] theorem State.setFltp_nextId (s : State) (p : Nat) (v : FltP) : (s.setFltp p v).nextId = s.nextId := rfl
@[simp] theorem State.setFltp_free (s : State) (p : Nat) (v : FltP) : (s.setFltp p v).free = s.free := rfl
@[simp] theorem State.setFltp_tileQ (s : State) (p : Nat) (v : FltP) : (s.setFltp p v).tileQ = s.tileQ := rfl
@[simp] theorem State.setFltp_out (s : State) (p : Nat) (v : FltP) : (s.setFltp p v).out = s.out := rfl
@[simp] theorem State.setFltp_latch (s : State) (p : Nat) (v : FltP) : (s.setFltp p v).latch = s.latch := rfl
@[simp] theorem State.setFltp_gal (s : State) (p : Nat) (v : FltP) : (s.setFltp p v).gal = s.gal := rfl
@[simp] theorem State.setFltp_trn (s : State) (p : Nat) (v : FltP) : (s.setFltp p v).trn = s.trn := rfl
@[simp] theorem State.setFltp_flt (s : State) (p : Nat) (v : FltP) : (s.setFltp p v).flt = s.flt.set p v := rfl
@[simp] theorem State.setFltp_epo (s : State) (p : Nat) (v : FltP) : (s.setFltp p v).epo = s.epo := rfl
@[simp] theorem State.setFltp_plt (s : State) (p : Nat) (v : FltP) : (s.setFltp p v).plt = s.plt := rfl
@[simp] theorem State.setFltp_cmp (s : State) (p : Nat) (v : FltP) : (s.setFltp p v).cmp = s.cmp := rfl
@[simp] theorem State.setFltp_lka (s : State) (p : Nat) (v : FltP) : (s.setFltp p v).lka = s.lka := rfl
@[simp] theorem State.setFltp_seam (s : State) (p : Nat) (v : FltP) : (s.setFltp p v).seam = s.seam := rfl
@[simp] theorem State.setFltp_tal (s : State) (p : Nat) (v : FltP) : (s.setFltp p v).tal = s.tal := rfl
@[simp] theorem State.setFltp_lin (s : State) (p : Nat) (v : FltP) : (s.setFltp p v).lin = s.lin := rfl
@[simp] theorem State.setFltp_host (s : State) (p : Nat) (v : FltP) : (s.setFltp p v).host = s.host := rfl
@[simp] theorem State.setFltp_ic (s : State) (p : Nat) (v : FltP) : (s.setFltp p v).ic = s.ic := rfl
@[simp] theorem State.setFltp_prt (s : State) (p : Nat) (v : FltP) : (s.setFltp p v).prt = s.prt := rfl
@[simp] theorem State.setFltp_aon (s : State) (p : Nat) (v : FltP) : (s.setFltp p v).aon = s.aon := rfl
@[simp] theorem State.setFltp_err (s : State) (p : Nat) (v : FltP) : (s.setFltp p v).err = s.err := rfl
@[simp] theorem State.setFltp_obs (s : State) (p : Nat) (v : FltP) : (s.setFltp p v).obs = s.obs := rfl
@[simp] theorem State.setFltp_rcd (s : State) (p : Nat) (v : FltP) : (s.setFltp p v).rcd = s.rcd := rfl

@[simp] theorem State.setTable_pending (s : State) (t : Nat) (v : Table) : (s.setTable t v).pending = s.pending := rfl
@[simp] theorem State.setTable_held (s : State) (t : Nat) (v : Table) : (s.setTable t v).held = s.held := rfl
@[simp] theorem State.setTable_part (s : State) (t : Nat) (v : Table) : (s.setTable t v).part = s.part := rfl
@[simp] theorem State.setTable_mem (s : State) (t : Nat) (v : Table) : (s.setTable t v).mem = s.mem := rfl
@[simp] theorem State.setTable_poison (s : State) (t : Nat) (v : Table) : (s.setTable t v).poison = s.poison := rfl
@[simp] theorem State.setTable_veil (s : State) (t : Nat) (v : Table) : (s.setTable t v).veil = s.veil := rfl
@[simp] theorem State.setTable_reqs (s : State) (t : Nat) (v : Table) : (s.setTable t v).reqs = s.reqs := rfl
@[simp] theorem State.setTable_orphans (s : State) (t : Nat) (v : Table) : (s.setTable t v).orphans = s.orphans := rfl
@[simp] theorem State.setTable_nextId (s : State) (t : Nat) (v : Table) : (s.setTable t v).nextId = s.nextId := rfl
@[simp] theorem State.setTable_free (s : State) (t : Nat) (v : Table) : (s.setTable t v).free = s.free := rfl
@[simp] theorem State.setTable_tileQ (s : State) (t : Nat) (v : Table) : (s.setTable t v).tileQ = s.tileQ := rfl
@[simp] theorem State.setTable_out (s : State) (t : Nat) (v : Table) : (s.setTable t v).out = s.out := rfl
@[simp] theorem State.setTable_latch (s : State) (t : Nat) (v : Table) : (s.setTable t v).latch = s.latch := rfl
@[simp] theorem State.setTable_gal (s : State) (t : Nat) (v : Table) : (s.setTable t v).gal = s.gal := rfl
@[simp] theorem State.setTable_trn (s : State) (t : Nat) (v : Table) : (s.setTable t v).trn = s.trn := rfl
@[simp] theorem State.setTable_flt (s : State) (t : Nat) (v : Table) : (s.setTable t v).flt = s.flt := rfl
@[simp] theorem State.setTable_epo (s : State) (t : Nat) (v : Table) : (s.setTable t v).epo = { s.epo with tables := s.epo.tables.set t v } := rfl
@[simp] theorem State.setTable_plt (s : State) (t : Nat) (v : Table) : (s.setTable t v).plt = s.plt := rfl
@[simp] theorem State.setTable_cmp (s : State) (t : Nat) (v : Table) : (s.setTable t v).cmp = s.cmp := rfl
@[simp] theorem State.setTable_lka (s : State) (t : Nat) (v : Table) : (s.setTable t v).lka = s.lka := rfl
@[simp] theorem State.setTable_seam (s : State) (t : Nat) (v : Table) : (s.setTable t v).seam = s.seam := rfl
@[simp] theorem State.setTable_tal (s : State) (t : Nat) (v : Table) : (s.setTable t v).tal = s.tal := rfl
@[simp] theorem State.setTable_lin (s : State) (t : Nat) (v : Table) : (s.setTable t v).lin = s.lin := rfl
@[simp] theorem State.setTable_host (s : State) (t : Nat) (v : Table) : (s.setTable t v).host = s.host := rfl
@[simp] theorem State.setTable_ic (s : State) (t : Nat) (v : Table) : (s.setTable t v).ic = s.ic := rfl
@[simp] theorem State.setTable_prt (s : State) (t : Nat) (v : Table) : (s.setTable t v).prt = s.prt := rfl
@[simp] theorem State.setTable_aon (s : State) (t : Nat) (v : Table) : (s.setTable t v).aon = s.aon := rfl
@[simp] theorem State.setTable_err (s : State) (t : Nat) (v : Table) : (s.setTable t v).err = s.err := rfl
@[simp] theorem State.setTable_obs (s : State) (t : Nat) (v : Table) : (s.setTable t v).obs = s.obs := rfl
@[simp] theorem State.setTable_rcd (s : State) (t : Nat) (v : Table) : (s.setTable t v).rcd = s.rcd := rfl

@[simp] theorem State.setTally_pending (s : State) (t : Nat) (v : Tally) : (s.setTally t v).pending = s.pending := rfl
@[simp] theorem State.setTally_held (s : State) (t : Nat) (v : Tally) : (s.setTally t v).held = s.held := rfl
@[simp] theorem State.setTally_part (s : State) (t : Nat) (v : Tally) : (s.setTally t v).part = s.part := rfl
@[simp] theorem State.setTally_mem (s : State) (t : Nat) (v : Tally) : (s.setTally t v).mem = s.mem := rfl
@[simp] theorem State.setTally_poison (s : State) (t : Nat) (v : Tally) : (s.setTally t v).poison = s.poison := rfl
@[simp] theorem State.setTally_veil (s : State) (t : Nat) (v : Tally) : (s.setTally t v).veil = s.veil := rfl
@[simp] theorem State.setTally_reqs (s : State) (t : Nat) (v : Tally) : (s.setTally t v).reqs = s.reqs := rfl
@[simp] theorem State.setTally_orphans (s : State) (t : Nat) (v : Tally) : (s.setTally t v).orphans = s.orphans := rfl
@[simp] theorem State.setTally_nextId (s : State) (t : Nat) (v : Tally) : (s.setTally t v).nextId = s.nextId := rfl
@[simp] theorem State.setTally_free (s : State) (t : Nat) (v : Tally) : (s.setTally t v).free = s.free := rfl
@[simp] theorem State.setTally_tileQ (s : State) (t : Nat) (v : Tally) : (s.setTally t v).tileQ = s.tileQ := rfl
@[simp] theorem State.setTally_out (s : State) (t : Nat) (v : Tally) : (s.setTally t v).out = s.out := rfl
@[simp] theorem State.setTally_latch (s : State) (t : Nat) (v : Tally) : (s.setTally t v).latch = s.latch := rfl
@[simp] theorem State.setTally_gal (s : State) (t : Nat) (v : Tally) : (s.setTally t v).gal = s.gal := rfl
@[simp] theorem State.setTally_trn (s : State) (t : Nat) (v : Tally) : (s.setTally t v).trn = s.trn := rfl
@[simp] theorem State.setTally_flt (s : State) (t : Nat) (v : Tally) : (s.setTally t v).flt = s.flt := rfl
@[simp] theorem State.setTally_epo (s : State) (t : Nat) (v : Tally) : (s.setTally t v).epo = s.epo := rfl
@[simp] theorem State.setTally_plt (s : State) (t : Nat) (v : Tally) : (s.setTally t v).plt = s.plt := rfl
@[simp] theorem State.setTally_cmp (s : State) (t : Nat) (v : Tally) : (s.setTally t v).cmp = s.cmp := rfl
@[simp] theorem State.setTally_lka (s : State) (t : Nat) (v : Tally) : (s.setTally t v).lka = s.lka := rfl
@[simp] theorem State.setTally_seam (s : State) (t : Nat) (v : Tally) : (s.setTally t v).seam = s.seam := rfl
@[simp] theorem State.setTally_tal (s : State) (t : Nat) (v : Tally) : (s.setTally t v).tal = s.tal.set t v := rfl
@[simp] theorem State.setTally_lin (s : State) (t : Nat) (v : Tally) : (s.setTally t v).lin = s.lin := rfl
@[simp] theorem State.setTally_host (s : State) (t : Nat) (v : Tally) : (s.setTally t v).host = s.host := rfl
@[simp] theorem State.setTally_ic (s : State) (t : Nat) (v : Tally) : (s.setTally t v).ic = s.ic := rfl
@[simp] theorem State.setTally_prt (s : State) (t : Nat) (v : Tally) : (s.setTally t v).prt = s.prt := rfl
@[simp] theorem State.setTally_aon (s : State) (t : Nat) (v : Tally) : (s.setTally t v).aon = s.aon := rfl
@[simp] theorem State.setTally_err (s : State) (t : Nat) (v : Tally) : (s.setTally t v).err = s.err := rfl
@[simp] theorem State.setTally_obs (s : State) (t : Nat) (v : Tally) : (s.setTally t v).obs = s.obs := rfl
@[simp] theorem State.setTally_rcd (s : State) (t : Nat) (v : Tally) : (s.setTally t v).rcd = s.rcd := rfl

@[simp] theorem State.setWin_pending (s : State) (n : Nat) (v : WinU) : (s.setWin n v).pending = s.pending := rfl
@[simp] theorem State.setWin_held (s : State) (n : Nat) (v : WinU) : (s.setWin n v).held = s.held := rfl
@[simp] theorem State.setWin_part (s : State) (n : Nat) (v : WinU) : (s.setWin n v).part = s.part := rfl
@[simp] theorem State.setWin_mem (s : State) (n : Nat) (v : WinU) : (s.setWin n v).mem = s.mem := rfl
@[simp] theorem State.setWin_poison (s : State) (n : Nat) (v : WinU) : (s.setWin n v).poison = s.poison := rfl
@[simp] theorem State.setWin_veil (s : State) (n : Nat) (v : WinU) : (s.setWin n v).veil = s.veil := rfl
@[simp] theorem State.setWin_reqs (s : State) (n : Nat) (v : WinU) : (s.setWin n v).reqs = s.reqs := rfl
@[simp] theorem State.setWin_orphans (s : State) (n : Nat) (v : WinU) : (s.setWin n v).orphans = s.orphans := rfl
@[simp] theorem State.setWin_nextId (s : State) (n : Nat) (v : WinU) : (s.setWin n v).nextId = s.nextId := rfl
@[simp] theorem State.setWin_free (s : State) (n : Nat) (v : WinU) : (s.setWin n v).free = s.free := rfl
@[simp] theorem State.setWin_tileQ (s : State) (n : Nat) (v : WinU) : (s.setWin n v).tileQ = s.tileQ := rfl
@[simp] theorem State.setWin_out (s : State) (n : Nat) (v : WinU) : (s.setWin n v).out = s.out := rfl
@[simp] theorem State.setWin_latch (s : State) (n : Nat) (v : WinU) : (s.setWin n v).latch = s.latch := rfl
@[simp] theorem State.setWin_gal (s : State) (n : Nat) (v : WinU) : (s.setWin n v).gal = s.gal := rfl
@[simp] theorem State.setWin_trn (s : State) (n : Nat) (v : WinU) : (s.setWin n v).trn = s.trn := rfl
@[simp] theorem State.setWin_flt (s : State) (n : Nat) (v : WinU) : (s.setWin n v).flt = s.flt := rfl
@[simp] theorem State.setWin_epo (s : State) (n : Nat) (v : WinU) : (s.setWin n v).epo = s.epo := rfl
@[simp] theorem State.setWin_plt (s : State) (n : Nat) (v : WinU) : (s.setWin n v).plt = s.plt := rfl
@[simp] theorem State.setWin_cmp (s : State) (n : Nat) (v : WinU) : (s.setWin n v).cmp = s.cmp := rfl
@[simp] theorem State.setWin_lka (s : State) (n : Nat) (v : WinU) : (s.setWin n v).lka = s.lka := rfl
@[simp] theorem State.setWin_seam (s : State) (n : Nat) (v : WinU) : (s.setWin n v).seam = { s.seam with wins := s.seam.wins.set n v } := rfl
@[simp] theorem State.setWin_tal (s : State) (n : Nat) (v : WinU) : (s.setWin n v).tal = s.tal := rfl
@[simp] theorem State.setWin_lin (s : State) (n : Nat) (v : WinU) : (s.setWin n v).lin = s.lin := rfl
@[simp] theorem State.setWin_host (s : State) (n : Nat) (v : WinU) : (s.setWin n v).host = s.host := rfl
@[simp] theorem State.setWin_ic (s : State) (n : Nat) (v : WinU) : (s.setWin n v).ic = s.ic := rfl
@[simp] theorem State.setWin_prt (s : State) (n : Nat) (v : WinU) : (s.setWin n v).prt = s.prt := rfl
@[simp] theorem State.setWin_aon (s : State) (n : Nat) (v : WinU) : (s.setWin n v).aon = s.aon := rfl
@[simp] theorem State.setWin_err (s : State) (n : Nat) (v : WinU) : (s.setWin n v).err = s.err := rfl
@[simp] theorem State.setWin_obs (s : State) (n : Nat) (v : WinU) : (s.setWin n v).obs = s.obs := rfl
@[simp] theorem State.setWin_rcd (s : State) (n : Nat) (v : WinU) : (s.setWin n v).rcd = s.rcd := rfl

@[simp] theorem State.setLink_pending (s : State) (l : Nat) (v : Link) : (s.setLink l v).pending = s.pending := rfl
@[simp] theorem State.setLink_held (s : State) (l : Nat) (v : Link) : (s.setLink l v).held = s.held := rfl
@[simp] theorem State.setLink_part (s : State) (l : Nat) (v : Link) : (s.setLink l v).part = s.part := rfl
@[simp] theorem State.setLink_mem (s : State) (l : Nat) (v : Link) : (s.setLink l v).mem = s.mem := rfl
@[simp] theorem State.setLink_poison (s : State) (l : Nat) (v : Link) : (s.setLink l v).poison = s.poison := rfl
@[simp] theorem State.setLink_veil (s : State) (l : Nat) (v : Link) : (s.setLink l v).veil = s.veil := rfl
@[simp] theorem State.setLink_reqs (s : State) (l : Nat) (v : Link) : (s.setLink l v).reqs = s.reqs := rfl
@[simp] theorem State.setLink_orphans (s : State) (l : Nat) (v : Link) : (s.setLink l v).orphans = s.orphans := rfl
@[simp] theorem State.setLink_nextId (s : State) (l : Nat) (v : Link) : (s.setLink l v).nextId = s.nextId := rfl
@[simp] theorem State.setLink_free (s : State) (l : Nat) (v : Link) : (s.setLink l v).free = s.free := rfl
@[simp] theorem State.setLink_tileQ (s : State) (l : Nat) (v : Link) : (s.setLink l v).tileQ = s.tileQ := rfl
@[simp] theorem State.setLink_out (s : State) (l : Nat) (v : Link) : (s.setLink l v).out = s.out := rfl
@[simp] theorem State.setLink_latch (s : State) (l : Nat) (v : Link) : (s.setLink l v).latch = s.latch := rfl
@[simp] theorem State.setLink_gal (s : State) (l : Nat) (v : Link) : (s.setLink l v).gal = s.gal := rfl
@[simp] theorem State.setLink_trn (s : State) (l : Nat) (v : Link) : (s.setLink l v).trn = s.trn := rfl
@[simp] theorem State.setLink_flt (s : State) (l : Nat) (v : Link) : (s.setLink l v).flt = s.flt := rfl
@[simp] theorem State.setLink_epo (s : State) (l : Nat) (v : Link) : (s.setLink l v).epo = s.epo := rfl
@[simp] theorem State.setLink_plt (s : State) (l : Nat) (v : Link) : (s.setLink l v).plt = s.plt := rfl
@[simp] theorem State.setLink_cmp (s : State) (l : Nat) (v : Link) : (s.setLink l v).cmp = s.cmp := rfl
@[simp] theorem State.setLink_lka (s : State) (l : Nat) (v : Link) : (s.setLink l v).lka = s.lka := rfl
@[simp] theorem State.setLink_seam (s : State) (l : Nat) (v : Link) : (s.setLink l v).seam = s.seam := rfl
@[simp] theorem State.setLink_tal (s : State) (l : Nat) (v : Link) : (s.setLink l v).tal = s.tal := rfl
@[simp] theorem State.setLink_lin (s : State) (l : Nat) (v : Link) : (s.setLink l v).lin = s.lin := rfl
@[simp] theorem State.setLink_host (s : State) (l : Nat) (v : Link) : (s.setLink l v).host = { s.host with links := s.host.links.set l v } := rfl
@[simp] theorem State.setLink_ic (s : State) (l : Nat) (v : Link) : (s.setLink l v).ic = s.ic := rfl
@[simp] theorem State.setLink_prt (s : State) (l : Nat) (v : Link) : (s.setLink l v).prt = s.prt := rfl
@[simp] theorem State.setLink_aon (s : State) (l : Nat) (v : Link) : (s.setLink l v).aon = s.aon := rfl
@[simp] theorem State.setLink_err (s : State) (l : Nat) (v : Link) : (s.setLink l v).err = s.err := rfl
@[simp] theorem State.setLink_obs (s : State) (l : Nat) (v : Link) : (s.setLink l v).obs = s.obs := rfl
@[simp] theorem State.setLink_rcd (s : State) (l : Nat) (v : Link) : (s.setLink l v).rcd = s.rcd := rfl

@[simp] theorem State.setFn_pending (s : State) (p : Nat) (v : Fn) : (s.setFn p v).pending = s.pending := rfl
@[simp] theorem State.setFn_held (s : State) (p : Nat) (v : Fn) : (s.setFn p v).held = s.held := rfl
@[simp] theorem State.setFn_part (s : State) (p : Nat) (v : Fn) : (s.setFn p v).part = s.part := rfl
@[simp] theorem State.setFn_mem (s : State) (p : Nat) (v : Fn) : (s.setFn p v).mem = s.mem := rfl
@[simp] theorem State.setFn_poison (s : State) (p : Nat) (v : Fn) : (s.setFn p v).poison = s.poison := rfl
@[simp] theorem State.setFn_veil (s : State) (p : Nat) (v : Fn) : (s.setFn p v).veil = s.veil := rfl
@[simp] theorem State.setFn_reqs (s : State) (p : Nat) (v : Fn) : (s.setFn p v).reqs = s.reqs := rfl
@[simp] theorem State.setFn_orphans (s : State) (p : Nat) (v : Fn) : (s.setFn p v).orphans = s.orphans := rfl
@[simp] theorem State.setFn_nextId (s : State) (p : Nat) (v : Fn) : (s.setFn p v).nextId = s.nextId := rfl
@[simp] theorem State.setFn_free (s : State) (p : Nat) (v : Fn) : (s.setFn p v).free = s.free := rfl
@[simp] theorem State.setFn_tileQ (s : State) (p : Nat) (v : Fn) : (s.setFn p v).tileQ = s.tileQ := rfl
@[simp] theorem State.setFn_out (s : State) (p : Nat) (v : Fn) : (s.setFn p v).out = s.out := rfl
@[simp] theorem State.setFn_latch (s : State) (p : Nat) (v : Fn) : (s.setFn p v).latch = s.latch := rfl
@[simp] theorem State.setFn_gal (s : State) (p : Nat) (v : Fn) : (s.setFn p v).gal = s.gal := rfl
@[simp] theorem State.setFn_trn (s : State) (p : Nat) (v : Fn) : (s.setFn p v).trn = s.trn := rfl
@[simp] theorem State.setFn_flt (s : State) (p : Nat) (v : Fn) : (s.setFn p v).flt = s.flt := rfl
@[simp] theorem State.setFn_epo (s : State) (p : Nat) (v : Fn) : (s.setFn p v).epo = s.epo := rfl
@[simp] theorem State.setFn_plt (s : State) (p : Nat) (v : Fn) : (s.setFn p v).plt = s.plt := rfl
@[simp] theorem State.setFn_cmp (s : State) (p : Nat) (v : Fn) : (s.setFn p v).cmp = s.cmp := rfl
@[simp] theorem State.setFn_lka (s : State) (p : Nat) (v : Fn) : (s.setFn p v).lka = s.lka := rfl
@[simp] theorem State.setFn_seam (s : State) (p : Nat) (v : Fn) : (s.setFn p v).seam = s.seam := rfl
@[simp] theorem State.setFn_tal (s : State) (p : Nat) (v : Fn) : (s.setFn p v).tal = s.tal := rfl
@[simp] theorem State.setFn_lin (s : State) (p : Nat) (v : Fn) : (s.setFn p v).lin = s.lin := rfl
@[simp] theorem State.setFn_host (s : State) (p : Nat) (v : Fn) : (s.setFn p v).host = { s.host with fns := s.host.fns.set p v } := rfl
@[simp] theorem State.setFn_ic (s : State) (p : Nat) (v : Fn) : (s.setFn p v).ic = s.ic := rfl
@[simp] theorem State.setFn_prt (s : State) (p : Nat) (v : Fn) : (s.setFn p v).prt = s.prt := rfl
@[simp] theorem State.setFn_aon (s : State) (p : Nat) (v : Fn) : (s.setFn p v).aon = s.aon := rfl
@[simp] theorem State.setFn_err (s : State) (p : Nat) (v : Fn) : (s.setFn p v).err = s.err := rfl
@[simp] theorem State.setFn_obs (s : State) (p : Nat) (v : Fn) : (s.setFn p v).obs = s.obs := rfl
@[simp] theorem State.setFn_rcd (s : State) (p : Nat) (v : Fn) : (s.setFn p v).rcd = s.rcd := rfl

@[simp] theorem State.setLk_pending (s : State) (n : Nat) (v : Lka) : (s.setLk n v).pending = s.pending := rfl
@[simp] theorem State.setLk_held (s : State) (n : Nat) (v : Lka) : (s.setLk n v).held = s.held := rfl
@[simp] theorem State.setLk_part (s : State) (n : Nat) (v : Lka) : (s.setLk n v).part = s.part := rfl
@[simp] theorem State.setLk_mem (s : State) (n : Nat) (v : Lka) : (s.setLk n v).mem = s.mem := rfl
@[simp] theorem State.setLk_poison (s : State) (n : Nat) (v : Lka) : (s.setLk n v).poison = s.poison := rfl
@[simp] theorem State.setLk_veil (s : State) (n : Nat) (v : Lka) : (s.setLk n v).veil = s.veil := rfl
@[simp] theorem State.setLk_reqs (s : State) (n : Nat) (v : Lka) : (s.setLk n v).reqs = s.reqs := rfl
@[simp] theorem State.setLk_orphans (s : State) (n : Nat) (v : Lka) : (s.setLk n v).orphans = s.orphans := rfl
@[simp] theorem State.setLk_nextId (s : State) (n : Nat) (v : Lka) : (s.setLk n v).nextId = s.nextId := rfl
@[simp] theorem State.setLk_free (s : State) (n : Nat) (v : Lka) : (s.setLk n v).free = s.free := rfl
@[simp] theorem State.setLk_tileQ (s : State) (n : Nat) (v : Lka) : (s.setLk n v).tileQ = s.tileQ := rfl
@[simp] theorem State.setLk_out (s : State) (n : Nat) (v : Lka) : (s.setLk n v).out = s.out := rfl
@[simp] theorem State.setLk_latch (s : State) (n : Nat) (v : Lka) : (s.setLk n v).latch = s.latch := rfl
@[simp] theorem State.setLk_gal (s : State) (n : Nat) (v : Lka) : (s.setLk n v).gal = s.gal := rfl
@[simp] theorem State.setLk_trn (s : State) (n : Nat) (v : Lka) : (s.setLk n v).trn = s.trn := rfl
@[simp] theorem State.setLk_flt (s : State) (n : Nat) (v : Lka) : (s.setLk n v).flt = s.flt := rfl
@[simp] theorem State.setLk_epo (s : State) (n : Nat) (v : Lka) : (s.setLk n v).epo = s.epo := rfl
@[simp] theorem State.setLk_plt (s : State) (n : Nat) (v : Lka) : (s.setLk n v).plt = s.plt := rfl
@[simp] theorem State.setLk_cmp (s : State) (n : Nat) (v : Lka) : (s.setLk n v).cmp = s.cmp := rfl
@[simp] theorem State.setLk_lka (s : State) (n : Nat) (v : Lka) : (s.setLk n v).lka = { s.lka with lk := s.lka.lk.set n v } := rfl
@[simp] theorem State.setLk_seam (s : State) (n : Nat) (v : Lka) : (s.setLk n v).seam = s.seam := rfl
@[simp] theorem State.setLk_tal (s : State) (n : Nat) (v : Lka) : (s.setLk n v).tal = s.tal := rfl
@[simp] theorem State.setLk_lin (s : State) (n : Nat) (v : Lka) : (s.setLk n v).lin = s.lin := rfl
@[simp] theorem State.setLk_host (s : State) (n : Nat) (v : Lka) : (s.setLk n v).host = s.host := rfl
@[simp] theorem State.setLk_ic (s : State) (n : Nat) (v : Lka) : (s.setLk n v).ic = s.ic := rfl
@[simp] theorem State.setLk_prt (s : State) (n : Nat) (v : Lka) : (s.setLk n v).prt = s.prt := rfl
@[simp] theorem State.setLk_aon (s : State) (n : Nat) (v : Lka) : (s.setLk n v).aon = s.aon := rfl
@[simp] theorem State.setLk_err (s : State) (n : Nat) (v : Lka) : (s.setLk n v).err = s.err := rfl
@[simp] theorem State.setLk_obs (s : State) (n : Nat) (v : Lka) : (s.setLk n v).obs = s.obs := rfl
@[simp] theorem State.setLk_rcd (s : State) (n : Nat) (v : Lka) : (s.setLk n v).rcd = s.rcd := rfl

@[simp] theorem State.setDom_pending (s : State) (d : Nat) (v : Dom) : (s.setDom d v).pending = s.pending := rfl
@[simp] theorem State.setDom_held (s : State) (d : Nat) (v : Dom) : (s.setDom d v).held = s.held := rfl
@[simp] theorem State.setDom_part (s : State) (d : Nat) (v : Dom) : (s.setDom d v).part = s.part := rfl
@[simp] theorem State.setDom_mem (s : State) (d : Nat) (v : Dom) : (s.setDom d v).mem = s.mem := rfl
@[simp] theorem State.setDom_poison (s : State) (d : Nat) (v : Dom) : (s.setDom d v).poison = s.poison := rfl
@[simp] theorem State.setDom_veil (s : State) (d : Nat) (v : Dom) : (s.setDom d v).veil = s.veil := rfl
@[simp] theorem State.setDom_reqs (s : State) (d : Nat) (v : Dom) : (s.setDom d v).reqs = s.reqs := rfl
@[simp] theorem State.setDom_orphans (s : State) (d : Nat) (v : Dom) : (s.setDom d v).orphans = s.orphans := rfl
@[simp] theorem State.setDom_nextId (s : State) (d : Nat) (v : Dom) : (s.setDom d v).nextId = s.nextId := rfl
@[simp] theorem State.setDom_free (s : State) (d : Nat) (v : Dom) : (s.setDom d v).free = s.free := rfl
@[simp] theorem State.setDom_tileQ (s : State) (d : Nat) (v : Dom) : (s.setDom d v).tileQ = s.tileQ := rfl
@[simp] theorem State.setDom_out (s : State) (d : Nat) (v : Dom) : (s.setDom d v).out = s.out := rfl
@[simp] theorem State.setDom_latch (s : State) (d : Nat) (v : Dom) : (s.setDom d v).latch = s.latch := rfl
@[simp] theorem State.setDom_gal (s : State) (d : Nat) (v : Dom) : (s.setDom d v).gal = s.gal := rfl
@[simp] theorem State.setDom_trn (s : State) (d : Nat) (v : Dom) : (s.setDom d v).trn = s.trn := rfl
@[simp] theorem State.setDom_flt (s : State) (d : Nat) (v : Dom) : (s.setDom d v).flt = s.flt := rfl
@[simp] theorem State.setDom_epo (s : State) (d : Nat) (v : Dom) : (s.setDom d v).epo = s.epo := rfl
@[simp] theorem State.setDom_plt (s : State) (d : Nat) (v : Dom) : (s.setDom d v).plt = s.plt := rfl
@[simp] theorem State.setDom_cmp (s : State) (d : Nat) (v : Dom) : (s.setDom d v).cmp = s.cmp := rfl
@[simp] theorem State.setDom_lka (s : State) (d : Nat) (v : Dom) : (s.setDom d v).lka = s.lka := rfl
@[simp] theorem State.setDom_seam (s : State) (d : Nat) (v : Dom) : (s.setDom d v).seam = s.seam := rfl
@[simp] theorem State.setDom_tal (s : State) (d : Nat) (v : Dom) : (s.setDom d v).tal = s.tal := rfl
@[simp] theorem State.setDom_lin (s : State) (d : Nat) (v : Dom) : (s.setDom d v).lin = s.lin := rfl
@[simp] theorem State.setDom_host (s : State) (d : Nat) (v : Dom) : (s.setDom d v).host = s.host := rfl
@[simp] theorem State.setDom_ic (s : State) (d : Nat) (v : Dom) : (s.setDom d v).ic = s.ic := rfl
@[simp] theorem State.setDom_prt (s : State) (d : Nat) (v : Dom) : (s.setDom d v).prt = s.prt := rfl
@[simp] theorem State.setDom_aon (s : State) (d : Nat) (v : Dom) : (s.setDom d v).aon = { s.aon with doms := s.aon.doms.set d v } := rfl
@[simp] theorem State.setDom_err (s : State) (d : Nat) (v : Dom) : (s.setDom d v).err = s.err := rfl
@[simp] theorem State.setDom_obs (s : State) (d : Nat) (v : Dom) : (s.setDom d v).obs = s.obs := rfl
@[simp] theorem State.setDom_rcd (s : State) (d : Nat) (v : Dom) : (s.setDom d v).rcd = s.rcd := rfl

@[simp] theorem State.setUnit_pending (s : State) (c i : Nat) (v : UnitS) : (s.setUnit c i v).pending = s.pending := rfl
@[simp] theorem State.setUnit_held (s : State) (c i : Nat) (v : UnitS) : (s.setUnit c i v).held = s.held := rfl
@[simp] theorem State.setUnit_part (s : State) (c i : Nat) (v : UnitS) : (s.setUnit c i v).part = s.part := rfl
@[simp] theorem State.setUnit_mem (s : State) (c i : Nat) (v : UnitS) : (s.setUnit c i v).mem = s.mem := rfl
@[simp] theorem State.setUnit_poison (s : State) (c i : Nat) (v : UnitS) : (s.setUnit c i v).poison = s.poison := rfl
@[simp] theorem State.setUnit_veil (s : State) (c i : Nat) (v : UnitS) : (s.setUnit c i v).veil = s.veil := rfl
@[simp] theorem State.setUnit_reqs (s : State) (c i : Nat) (v : UnitS) : (s.setUnit c i v).reqs = s.reqs := rfl
@[simp] theorem State.setUnit_orphans (s : State) (c i : Nat) (v : UnitS) : (s.setUnit c i v).orphans = s.orphans := rfl
@[simp] theorem State.setUnit_nextId (s : State) (c i : Nat) (v : UnitS) : (s.setUnit c i v).nextId = s.nextId := rfl
@[simp] theorem State.setUnit_free (s : State) (c i : Nat) (v : UnitS) : (s.setUnit c i v).free = s.free := rfl
@[simp] theorem State.setUnit_tileQ (s : State) (c i : Nat) (v : UnitS) : (s.setUnit c i v).tileQ = s.tileQ := rfl
@[simp] theorem State.setUnit_out (s : State) (c i : Nat) (v : UnitS) : (s.setUnit c i v).out = s.out := rfl
@[simp] theorem State.setUnit_latch (s : State) (c i : Nat) (v : UnitS) : (s.setUnit c i v).latch = s.latch := rfl
@[simp] theorem State.setUnit_gal (s : State) (c i : Nat) (v : UnitS) : (s.setUnit c i v).gal = s.gal := rfl
@[simp] theorem State.setUnit_trn (s : State) (c i : Nat) (v : UnitS) : (s.setUnit c i v).trn = s.trn := rfl
@[simp] theorem State.setUnit_flt (s : State) (c i : Nat) (v : UnitS) : (s.setUnit c i v).flt = s.flt := rfl
@[simp] theorem State.setUnit_epo (s : State) (c i : Nat) (v : UnitS) : (s.setUnit c i v).epo = s.epo := rfl
@[simp] theorem State.setUnit_plt (s : State) (c i : Nat) (v : UnitS) : (s.setUnit c i v).plt = s.plt := rfl
@[simp] theorem State.setUnit_cmp (s : State) (c i : Nat) (v : UnitS) : (s.setUnit c i v).cmp = s.cmp := rfl
@[simp] theorem State.setUnit_lka (s : State) (c i : Nat) (v : UnitS) : (s.setUnit c i v).lka = s.lka := rfl
@[simp] theorem State.setUnit_seam (s : State) (c i : Nat) (v : UnitS) : (s.setUnit c i v).seam = s.seam := rfl
@[simp] theorem State.setUnit_tal (s : State) (c i : Nat) (v : UnitS) : (s.setUnit c i v).tal = s.tal := rfl
@[simp] theorem State.setUnit_lin (s : State) (c i : Nat) (v : UnitS) : (s.setUnit c i v).lin = s.lin := rfl
@[simp] theorem State.setUnit_host (s : State) (c i : Nat) (v : UnitS) : (s.setUnit c i v).host = s.host := rfl
@[simp] theorem State.setUnit_ic (s : State) (c i : Nat) (v : UnitS) : (s.setUnit c i v).ic = s.ic := rfl
@[simp] theorem State.setUnit_prt (s : State) (c i : Nat) (v : UnitS) : (s.setUnit c i v).prt = s.prt := rfl
@[simp] theorem State.setUnit_aon (s : State) (c i : Nat) (v : UnitS) : (s.setUnit c i v).aon = { s.aon with units := s.aon.units.set (256 * c + i) v } := rfl
@[simp] theorem State.setUnit_err (s : State) (c i : Nat) (v : UnitS) : (s.setUnit c i v).err = s.err := rfl
@[simp] theorem State.setUnit_obs (s : State) (c i : Nat) (v : UnitS) : (s.setUnit c i v).obs = s.obs := rfl
@[simp] theorem State.setUnit_rcd (s : State) (c i : Nat) (v : UnitS) : (s.setUnit c i v).rcd = s.rcd := rfl

@[simp] theorem State.setTrp_pending (s : State) (p : Nat) (v : TrP) : (s.setTrp p v).pending = s.pending := rfl
@[simp] theorem State.setTrp_held (s : State) (p : Nat) (v : TrP) : (s.setTrp p v).held = s.held := rfl
@[simp] theorem State.setTrp_part (s : State) (p : Nat) (v : TrP) : (s.setTrp p v).part = s.part := rfl
@[simp] theorem State.setTrp_mem (s : State) (p : Nat) (v : TrP) : (s.setTrp p v).mem = s.mem := rfl
@[simp] theorem State.setTrp_poison (s : State) (p : Nat) (v : TrP) : (s.setTrp p v).poison = s.poison := rfl
@[simp] theorem State.setTrp_veil (s : State) (p : Nat) (v : TrP) : (s.setTrp p v).veil = s.veil := rfl
@[simp] theorem State.setTrp_reqs (s : State) (p : Nat) (v : TrP) : (s.setTrp p v).reqs = s.reqs := rfl
@[simp] theorem State.setTrp_orphans (s : State) (p : Nat) (v : TrP) : (s.setTrp p v).orphans = s.orphans := rfl
@[simp] theorem State.setTrp_nextId (s : State) (p : Nat) (v : TrP) : (s.setTrp p v).nextId = s.nextId := rfl
@[simp] theorem State.setTrp_free (s : State) (p : Nat) (v : TrP) : (s.setTrp p v).free = s.free := rfl
@[simp] theorem State.setTrp_tileQ (s : State) (p : Nat) (v : TrP) : (s.setTrp p v).tileQ = s.tileQ := rfl
@[simp] theorem State.setTrp_out (s : State) (p : Nat) (v : TrP) : (s.setTrp p v).out = s.out := rfl
@[simp] theorem State.setTrp_latch (s : State) (p : Nat) (v : TrP) : (s.setTrp p v).latch = s.latch := rfl
@[simp] theorem State.setTrp_gal (s : State) (p : Nat) (v : TrP) : (s.setTrp p v).gal = s.gal := rfl
@[simp] theorem State.setTrp_trn (s : State) (p : Nat) (v : TrP) : (s.setTrp p v).trn = s.trn := rfl
@[simp] theorem State.setTrp_flt (s : State) (p : Nat) (v : TrP) : (s.setTrp p v).flt = s.flt := rfl
@[simp] theorem State.setTrp_epo (s : State) (p : Nat) (v : TrP) : (s.setTrp p v).epo = s.epo := rfl
@[simp] theorem State.setTrp_plt (s : State) (p : Nat) (v : TrP) : (s.setTrp p v).plt = s.plt := rfl
@[simp] theorem State.setTrp_cmp (s : State) (p : Nat) (v : TrP) : (s.setTrp p v).cmp = s.cmp := rfl
@[simp] theorem State.setTrp_lka (s : State) (p : Nat) (v : TrP) : (s.setTrp p v).lka = s.lka := rfl
@[simp] theorem State.setTrp_seam (s : State) (p : Nat) (v : TrP) : (s.setTrp p v).seam = s.seam := rfl
@[simp] theorem State.setTrp_tal (s : State) (p : Nat) (v : TrP) : (s.setTrp p v).tal = s.tal := rfl
@[simp] theorem State.setTrp_lin (s : State) (p : Nat) (v : TrP) : (s.setTrp p v).lin = s.lin := rfl
@[simp] theorem State.setTrp_host (s : State) (p : Nat) (v : TrP) : (s.setTrp p v).host = s.host := rfl
@[simp] theorem State.setTrp_ic (s : State) (p : Nat) (v : TrP) : (s.setTrp p v).ic = s.ic := rfl
@[simp] theorem State.setTrp_prt (s : State) (p : Nat) (v : TrP) : (s.setTrp p v).prt = s.prt := rfl
@[simp] theorem State.setTrp_aon (s : State) (p : Nat) (v : TrP) : (s.setTrp p v).aon = s.aon := rfl
@[simp] theorem State.setTrp_err (s : State) (p : Nat) (v : TrP) : (s.setTrp p v).err = s.err := rfl
@[simp] theorem State.setTrp_obs (s : State) (p : Nat) (v : TrP) : (s.setTrp p v).obs = { s.obs with tr := s.obs.tr.set p v } := rfl
@[simp] theorem State.setTrp_rcd (s : State) (p : Nat) (v : TrP) : (s.setTrp p v).rcd = s.rcd := rfl

@[simp] theorem State.emit_pending (s : State) (m : OutMsg) : (s.emit m).pending = s.pending := rfl
@[simp] theorem State.emit_held (s : State) (m : OutMsg) : (s.emit m).held = s.held := rfl
@[simp] theorem State.emit_part (s : State) (m : OutMsg) : (s.emit m).part = s.part := rfl
@[simp] theorem State.emit_mem (s : State) (m : OutMsg) : (s.emit m).mem = s.mem := rfl
@[simp] theorem State.emit_poison (s : State) (m : OutMsg) : (s.emit m).poison = s.poison := rfl
@[simp] theorem State.emit_veil (s : State) (m : OutMsg) : (s.emit m).veil = s.veil := rfl
@[simp] theorem State.emit_reqs (s : State) (m : OutMsg) : (s.emit m).reqs = s.reqs := rfl
@[simp] theorem State.emit_orphans (s : State) (m : OutMsg) : (s.emit m).orphans = s.orphans := rfl
@[simp] theorem State.emit_nextId (s : State) (m : OutMsg) : (s.emit m).nextId = s.nextId := rfl
@[simp] theorem State.emit_free (s : State) (m : OutMsg) : (s.emit m).free = s.free := rfl
@[simp] theorem State.emit_tileQ (s : State) (m : OutMsg) : (s.emit m).tileQ = s.tileQ := rfl
@[simp] theorem State.emit_out (s : State) (m : OutMsg) : (s.emit m).out = s.out ++ [m] := rfl
@[simp] theorem State.emit_latch (s : State) (m : OutMsg) : (s.emit m).latch = s.latch := rfl
@[simp] theorem State.emit_gal (s : State) (m : OutMsg) : (s.emit m).gal = s.gal := rfl
@[simp] theorem State.emit_trn (s : State) (m : OutMsg) : (s.emit m).trn = s.trn := rfl
@[simp] theorem State.emit_flt (s : State) (m : OutMsg) : (s.emit m).flt = s.flt := rfl
@[simp] theorem State.emit_epo (s : State) (m : OutMsg) : (s.emit m).epo = s.epo := rfl
@[simp] theorem State.emit_plt (s : State) (m : OutMsg) : (s.emit m).plt = s.plt := rfl
@[simp] theorem State.emit_cmp (s : State) (m : OutMsg) : (s.emit m).cmp = s.cmp := rfl
@[simp] theorem State.emit_lka (s : State) (m : OutMsg) : (s.emit m).lka = s.lka := rfl
@[simp] theorem State.emit_seam (s : State) (m : OutMsg) : (s.emit m).seam = s.seam := rfl
@[simp] theorem State.emit_tal (s : State) (m : OutMsg) : (s.emit m).tal = s.tal := rfl
@[simp] theorem State.emit_lin (s : State) (m : OutMsg) : (s.emit m).lin = s.lin := rfl
@[simp] theorem State.emit_host (s : State) (m : OutMsg) : (s.emit m).host = s.host := rfl
@[simp] theorem State.emit_ic (s : State) (m : OutMsg) : (s.emit m).ic = s.ic := rfl
@[simp] theorem State.emit_prt (s : State) (m : OutMsg) : (s.emit m).prt = s.prt := rfl
@[simp] theorem State.emit_aon (s : State) (m : OutMsg) : (s.emit m).aon = s.aon := rfl
@[simp] theorem State.emit_err (s : State) (m : OutMsg) : (s.emit m).err = s.err := rfl
@[simp] theorem State.emit_obs (s : State) (m : OutMsg) : (s.emit m).obs = s.obs := rfl
@[simp] theorem State.emit_rcd (s : State) (m : OutMsg) : (s.emit m).rcd = s.rcd := rfl

@[simp] theorem State.useFree_pending (s : State) (n : Nat) : (s.useFree n).pending = s.pending := rfl
@[simp] theorem State.useFree_held (s : State) (n : Nat) : (s.useFree n).held = s.held := rfl
@[simp] theorem State.useFree_part (s : State) (n : Nat) : (s.useFree n).part = s.part := rfl
@[simp] theorem State.useFree_mem (s : State) (n : Nat) : (s.useFree n).mem = s.mem := rfl
@[simp] theorem State.useFree_poison (s : State) (n : Nat) : (s.useFree n).poison = s.poison := rfl
@[simp] theorem State.useFree_veil (s : State) (n : Nat) : (s.useFree n).veil = s.veil := rfl
@[simp] theorem State.useFree_reqs (s : State) (n : Nat) : (s.useFree n).reqs = s.reqs := rfl
@[simp] theorem State.useFree_orphans (s : State) (n : Nat) : (s.useFree n).orphans = s.orphans := rfl
@[simp] theorem State.useFree_nextId (s : State) (n : Nat) : (s.useFree n).nextId = s.nextId := rfl
@[simp] theorem State.useFree_free (s : State) (n : Nat) : (s.useFree n).free = s.free + n := rfl
@[simp] theorem State.useFree_tileQ (s : State) (n : Nat) : (s.useFree n).tileQ = s.tileQ := rfl
@[simp] theorem State.useFree_out (s : State) (n : Nat) : (s.useFree n).out = s.out := rfl
@[simp] theorem State.useFree_latch (s : State) (n : Nat) : (s.useFree n).latch = s.latch := rfl
@[simp] theorem State.useFree_gal (s : State) (n : Nat) : (s.useFree n).gal = s.gal := rfl
@[simp] theorem State.useFree_trn (s : State) (n : Nat) : (s.useFree n).trn = s.trn := rfl
@[simp] theorem State.useFree_flt (s : State) (n : Nat) : (s.useFree n).flt = s.flt := rfl
@[simp] theorem State.useFree_epo (s : State) (n : Nat) : (s.useFree n).epo = s.epo := rfl
@[simp] theorem State.useFree_plt (s : State) (n : Nat) : (s.useFree n).plt = s.plt := rfl
@[simp] theorem State.useFree_cmp (s : State) (n : Nat) : (s.useFree n).cmp = s.cmp := rfl
@[simp] theorem State.useFree_lka (s : State) (n : Nat) : (s.useFree n).lka = s.lka := rfl
@[simp] theorem State.useFree_seam (s : State) (n : Nat) : (s.useFree n).seam = s.seam := rfl
@[simp] theorem State.useFree_tal (s : State) (n : Nat) : (s.useFree n).tal = s.tal := rfl
@[simp] theorem State.useFree_lin (s : State) (n : Nat) : (s.useFree n).lin = s.lin := rfl
@[simp] theorem State.useFree_host (s : State) (n : Nat) : (s.useFree n).host = s.host := rfl
@[simp] theorem State.useFree_ic (s : State) (n : Nat) : (s.useFree n).ic = s.ic := rfl
@[simp] theorem State.useFree_prt (s : State) (n : Nat) : (s.useFree n).prt = s.prt := rfl
@[simp] theorem State.useFree_aon (s : State) (n : Nat) : (s.useFree n).aon = s.aon := rfl
@[simp] theorem State.useFree_err (s : State) (n : Nat) : (s.useFree n).err = s.err := rfl
@[simp] theorem State.useFree_obs (s : State) (n : Nat) : (s.useFree n).obs = s.obs := rfl
@[simp] theorem State.useFree_rcd (s : State) (n : Nat) : (s.useFree n).rcd = s.rcd := rfl

@[simp] theorem State.setReq_pending (s : State) (r : Req) : (s.setReq r).pending = s.pending := rfl
@[simp] theorem State.setReq_held (s : State) (r : Req) : (s.setReq r).held = s.held := rfl
@[simp] theorem State.setReq_part (s : State) (r : Req) : (s.setReq r).part = s.part := rfl
@[simp] theorem State.setReq_mem (s : State) (r : Req) : (s.setReq r).mem = s.mem := rfl
@[simp] theorem State.setReq_poison (s : State) (r : Req) : (s.setReq r).poison = s.poison := rfl
@[simp] theorem State.setReq_veil (s : State) (r : Req) : (s.setReq r).veil = s.veil := rfl
@[simp] theorem State.setReq_reqs (s : State) (r : Req) : (s.setReq r).reqs = s.reqs.map fun x => if x.id == r.id then r else x := rfl
@[simp] theorem State.setReq_nextId (s : State) (r : Req) : (s.setReq r).nextId = s.nextId := rfl
@[simp] theorem State.setReq_free (s : State) (r : Req) : (s.setReq r).free = s.free := rfl
@[simp] theorem State.setReq_tileQ (s : State) (r : Req) : (s.setReq r).tileQ = s.tileQ := rfl
@[simp] theorem State.setReq_out (s : State) (r : Req) : (s.setReq r).out = s.out := rfl
@[simp] theorem State.setReq_latch (s : State) (r : Req) : (s.setReq r).latch = s.latch := rfl
@[simp] theorem State.setReq_gal (s : State) (r : Req) : (s.setReq r).gal = s.gal := rfl
@[simp] theorem State.setReq_trn (s : State) (r : Req) : (s.setReq r).trn = s.trn := rfl
@[simp] theorem State.setReq_flt (s : State) (r : Req) : (s.setReq r).flt = s.flt := rfl
@[simp] theorem State.setReq_epo (s : State) (r : Req) : (s.setReq r).epo = s.epo := rfl
@[simp] theorem State.setReq_plt (s : State) (r : Req) : (s.setReq r).plt = s.plt := rfl
@[simp] theorem State.setReq_cmp (s : State) (r : Req) : (s.setReq r).cmp = s.cmp := rfl
@[simp] theorem State.setReq_lka (s : State) (r : Req) : (s.setReq r).lka = s.lka := rfl
@[simp] theorem State.setReq_seam (s : State) (r : Req) : (s.setReq r).seam = s.seam := rfl
@[simp] theorem State.setReq_tal (s : State) (r : Req) : (s.setReq r).tal = s.tal := rfl
@[simp] theorem State.setReq_lin (s : State) (r : Req) : (s.setReq r).lin = s.lin := rfl
@[simp] theorem State.setReq_host (s : State) (r : Req) : (s.setReq r).host = s.host := rfl
@[simp] theorem State.setReq_ic (s : State) (r : Req) : (s.setReq r).ic = s.ic := rfl
@[simp] theorem State.setReq_prt (s : State) (r : Req) : (s.setReq r).prt = s.prt := rfl
@[simp] theorem State.setReq_aon (s : State) (r : Req) : (s.setReq r).aon = s.aon := rfl
@[simp] theorem State.setReq_err (s : State) (r : Req) : (s.setReq r).err = s.err := rfl
@[simp] theorem State.setReq_obs (s : State) (r : Req) : (s.setReq r).obs = s.obs := rfl
@[simp] theorem State.setReq_rcd (s : State) (r : Req) : (s.setReq r).rcd = s.rcd := rfl

@[simp] theorem State.storeMem_pending (s : State) (a : Nat) (d : Bytes) (en : List Bool) : (s.storeMem a d en).pending = s.pending := rfl
@[simp] theorem State.storeMem_held (s : State) (a : Nat) (d : Bytes) (en : List Bool) : (s.storeMem a d en).held = s.held := rfl
@[simp] theorem State.storeMem_part (s : State) (a : Nat) (d : Bytes) (en : List Bool) : (s.storeMem a d en).part = s.part := rfl
@[simp] theorem State.storeMem_mem (s : State) (a : Nat) (d : Bytes) (en : List Bool) : (s.storeMem a d en).mem = Memory.writeEn s.mem a d en := rfl
@[simp] theorem State.storeMem_poison (s : State) (a : Nat) (d : Bytes) (en : List Bool) : (s.storeMem a d en).poison = s.poison := rfl
@[simp] theorem State.storeMem_veil (s : State) (a : Nat) (d : Bytes) (en : List Bool) : (s.storeMem a d en).veil = s.veil := rfl
@[simp] theorem State.storeMem_reqs (s : State) (a : Nat) (d : Bytes) (en : List Bool) : (s.storeMem a d en).reqs = s.reqs := rfl
@[simp] theorem State.storeMem_orphans (s : State) (a : Nat) (d : Bytes) (en : List Bool) : (s.storeMem a d en).orphans = s.orphans := rfl
@[simp] theorem State.storeMem_nextId (s : State) (a : Nat) (d : Bytes) (en : List Bool) : (s.storeMem a d en).nextId = s.nextId := rfl
@[simp] theorem State.storeMem_free (s : State) (a : Nat) (d : Bytes) (en : List Bool) : (s.storeMem a d en).free = s.free := rfl
@[simp] theorem State.storeMem_tileQ (s : State) (a : Nat) (d : Bytes) (en : List Bool) : (s.storeMem a d en).tileQ = s.tileQ := rfl
@[simp] theorem State.storeMem_out (s : State) (a : Nat) (d : Bytes) (en : List Bool) : (s.storeMem a d en).out = s.out := rfl
@[simp] theorem State.storeMem_latch (s : State) (a : Nat) (d : Bytes) (en : List Bool) : (s.storeMem a d en).latch = s.latch := rfl
@[simp] theorem State.storeMem_gal (s : State) (a : Nat) (d : Bytes) (en : List Bool) : (s.storeMem a d en).gal = s.gal := rfl
@[simp] theorem State.storeMem_trn (s : State) (a : Nat) (d : Bytes) (en : List Bool) : (s.storeMem a d en).trn = s.trn := rfl
@[simp] theorem State.storeMem_flt (s : State) (a : Nat) (d : Bytes) (en : List Bool) : (s.storeMem a d en).flt = s.flt := rfl
@[simp] theorem State.storeMem_epo (s : State) (a : Nat) (d : Bytes) (en : List Bool) : (s.storeMem a d en).epo = s.epo := rfl
@[simp] theorem State.storeMem_plt (s : State) (a : Nat) (d : Bytes) (en : List Bool) : (s.storeMem a d en).plt = s.plt := rfl
@[simp] theorem State.storeMem_cmp (s : State) (a : Nat) (d : Bytes) (en : List Bool) : (s.storeMem a d en).cmp = s.cmp := rfl
@[simp] theorem State.storeMem_lka (s : State) (a : Nat) (d : Bytes) (en : List Bool) : (s.storeMem a d en).lka = s.lka := rfl
@[simp] theorem State.storeMem_seam (s : State) (a : Nat) (d : Bytes) (en : List Bool) : (s.storeMem a d en).seam = s.seam := rfl
@[simp] theorem State.storeMem_tal (s : State) (a : Nat) (d : Bytes) (en : List Bool) : (s.storeMem a d en).tal = s.tal := rfl
@[simp] theorem State.storeMem_lin (s : State) (a : Nat) (d : Bytes) (en : List Bool) : (s.storeMem a d en).lin = s.lin := rfl
@[simp] theorem State.storeMem_host (s : State) (a : Nat) (d : Bytes) (en : List Bool) : (s.storeMem a d en).host = s.host := rfl
@[simp] theorem State.storeMem_ic (s : State) (a : Nat) (d : Bytes) (en : List Bool) : (s.storeMem a d en).ic = s.ic := rfl
@[simp] theorem State.storeMem_prt (s : State) (a : Nat) (d : Bytes) (en : List Bool) : (s.storeMem a d en).prt = s.prt := rfl
@[simp] theorem State.storeMem_aon (s : State) (a : Nat) (d : Bytes) (en : List Bool) : (s.storeMem a d en).aon = s.aon := rfl
@[simp] theorem State.storeMem_err (s : State) (a : Nat) (d : Bytes) (en : List Bool) : (s.storeMem a d en).err = s.err := rfl
@[simp] theorem State.storeMem_obs (s : State) (a : Nat) (d : Bytes) (en : List Bool) : (s.storeMem a d en).obs = s.obs := rfl
@[simp] theorem State.storeMem_rcd (s : State) (a : Nat) (d : Bytes) (en : List Bool) : (s.storeMem a d en).rcd = s.rcd := rfl

@[simp] theorem State.queue_setQueue (s : State) (q j : Nat) (v : Queue) : (s.setQueue q v).queue j = if j = q then v else s.queue j := Tbl.get_set _ _ _ _ _
@[simp] theorem State.eng_setEng (s : State) (e j : Nat) (v : Eng) : (s.setEng e v).eng j = if j = e then v else s.eng j := Tbl.get_set _ _ _ _ _
@[simp] theorem State.comp_setComp (s : State) (n j : Nat) (v : Comp) : (s.setComp n v).comp j = if j = n then v else s.comp j := Tbl.get_set _ _ _ _ _
@[simp] theorem State.fltp_setFltp (s : State) (p j : Nat) (v : FltP) : (s.setFltp p v).fltp j = if j = p then v else s.fltp j := Tbl.get_set _ _ _ _ _
@[simp] theorem State.table_setTable (s : State) (t j : Nat) (v : Table) : (s.setTable t v).table j = if j = t then v else s.table j := Tbl.get_set _ _ _ _ _
@[simp] theorem State.tally_setTally (s : State) (t j : Nat) (v : Tally) : (s.setTally t v).tally j = if j = t then v else s.tally j := Tbl.get_set _ _ _ _ _
@[simp] theorem State.win_setWin (s : State) (n j : Nat) (v : WinU) : (s.setWin n v).win j = if j = n then v else s.win j := Tbl.get_set _ _ _ _ _
@[simp] theorem State.link_setLink (s : State) (l j : Nat) (v : Link) : (s.setLink l v).link j = if j = l then v else s.link j := Tbl.get_set _ _ _ _ _
@[simp] theorem State.fn_setFn (s : State) (p j : Nat) (v : Fn) : (s.setFn p v).fn j = if j = p then v else s.fn j := Tbl.get_set _ _ _ _ _
@[simp] theorem State.lk_setLk (s : State) (n j : Nat) (v : Lka) : (s.setLk n v).lk j = if j = n then v else s.lk j := Tbl.get_set _ _ _ _ _
@[simp] theorem State.dom_setDom (s : State) (d j : Nat) (v : Dom) : (s.setDom d v).dom j = if j = d then v else s.dom j := Tbl.get_set _ _ _ _ _
@[simp] theorem State.trp_setTrp (s : State) (p j : Nat) (v : TrP) : (s.setTrp p v).trp j = if j = p then v else s.trp j := Tbl.get_set _ _ _ _ _
@[simp] theorem State.queue_setEng (s : State) (e : Nat) (v : Eng) (j : Nat) : (s.setEng e v).queue j = s.queue j := rfl
@[simp] theorem State.queue_setComp (s : State) (n : Nat) (v : Comp) (j : Nat) : (s.setComp n v).queue j = s.queue j := rfl
@[simp] theorem State.queue_setFltp (s : State) (p : Nat) (v : FltP) (j : Nat) : (s.setFltp p v).queue j = s.queue j := rfl
@[simp] theorem State.queue_setTable (s : State) (t : Nat) (v : Table) (j : Nat) : (s.setTable t v).queue j = s.queue j := rfl
@[simp] theorem State.queue_setTally (s : State) (t : Nat) (v : Tally) (j : Nat) : (s.setTally t v).queue j = s.queue j := rfl
@[simp] theorem State.queue_setWin (s : State) (n : Nat) (v : WinU) (j : Nat) : (s.setWin n v).queue j = s.queue j := rfl
@[simp] theorem State.queue_setLink (s : State) (l : Nat) (v : Link) (j : Nat) : (s.setLink l v).queue j = s.queue j := rfl
@[simp] theorem State.queue_setFn (s : State) (p : Nat) (v : Fn) (j : Nat) : (s.setFn p v).queue j = s.queue j := rfl
@[simp] theorem State.queue_setLk (s : State) (n : Nat) (v : Lka) (j : Nat) : (s.setLk n v).queue j = s.queue j := rfl
@[simp] theorem State.queue_setDom (s : State) (d : Nat) (v : Dom) (j : Nat) : (s.setDom d v).queue j = s.queue j := rfl
@[simp] theorem State.queue_setUnit (s : State) (c i : Nat) (v : UnitS) (j : Nat) : (s.setUnit c i v).queue j = s.queue j := rfl
@[simp] theorem State.queue_setTrp (s : State) (p : Nat) (v : TrP) (j : Nat) : (s.setTrp p v).queue j = s.queue j := rfl
@[simp] theorem State.queue_emit (s : State) (m : OutMsg) (j : Nat) : (s.emit m).queue j = s.queue j := rfl
@[simp] theorem State.queue_useFree (s : State) (n : Nat) (j : Nat) : (s.useFree n).queue j = s.queue j := rfl
@[simp] theorem State.queue_setReq (s : State) (r : Req) (j : Nat) : (s.setReq r).queue j = s.queue j := rfl
@[simp] theorem State.queue_storeMem (s : State) (a : Nat) (d : Bytes) (en : List Bool) (j : Nat) : (s.storeMem a d en).queue j = s.queue j := rfl
@[simp] theorem State.eng_setQueue (s : State) (q : Nat) (v : Queue) (j : Nat) : (s.setQueue q v).eng j = s.eng j := rfl
@[simp] theorem State.eng_setComp (s : State) (n : Nat) (v : Comp) (j : Nat) : (s.setComp n v).eng j = s.eng j := rfl
@[simp] theorem State.eng_setFltp (s : State) (p : Nat) (v : FltP) (j : Nat) : (s.setFltp p v).eng j = s.eng j := rfl
@[simp] theorem State.eng_setTable (s : State) (t : Nat) (v : Table) (j : Nat) : (s.setTable t v).eng j = s.eng j := rfl
@[simp] theorem State.eng_setTally (s : State) (t : Nat) (v : Tally) (j : Nat) : (s.setTally t v).eng j = s.eng j := rfl
@[simp] theorem State.eng_setWin (s : State) (n : Nat) (v : WinU) (j : Nat) : (s.setWin n v).eng j = s.eng j := rfl
@[simp] theorem State.eng_setLink (s : State) (l : Nat) (v : Link) (j : Nat) : (s.setLink l v).eng j = s.eng j := rfl
@[simp] theorem State.eng_setFn (s : State) (p : Nat) (v : Fn) (j : Nat) : (s.setFn p v).eng j = s.eng j := rfl
@[simp] theorem State.eng_setLk (s : State) (n : Nat) (v : Lka) (j : Nat) : (s.setLk n v).eng j = s.eng j := rfl
@[simp] theorem State.eng_setDom (s : State) (d : Nat) (v : Dom) (j : Nat) : (s.setDom d v).eng j = s.eng j := rfl
@[simp] theorem State.eng_setUnit (s : State) (c i : Nat) (v : UnitS) (j : Nat) : (s.setUnit c i v).eng j = s.eng j := rfl
@[simp] theorem State.eng_setTrp (s : State) (p : Nat) (v : TrP) (j : Nat) : (s.setTrp p v).eng j = s.eng j := rfl
@[simp] theorem State.eng_emit (s : State) (m : OutMsg) (j : Nat) : (s.emit m).eng j = s.eng j := rfl
@[simp] theorem State.eng_useFree (s : State) (n : Nat) (j : Nat) : (s.useFree n).eng j = s.eng j := rfl
@[simp] theorem State.eng_setReq (s : State) (r : Req) (j : Nat) : (s.setReq r).eng j = s.eng j := rfl
@[simp] theorem State.eng_storeMem (s : State) (a : Nat) (d : Bytes) (en : List Bool) (j : Nat) : (s.storeMem a d en).eng j = s.eng j := rfl
@[simp] theorem State.comp_setQueue (s : State) (q : Nat) (v : Queue) (j : Nat) : (s.setQueue q v).comp j = s.comp j := rfl
@[simp] theorem State.comp_setEng (s : State) (e : Nat) (v : Eng) (j : Nat) : (s.setEng e v).comp j = s.comp j := rfl
@[simp] theorem State.comp_setFltp (s : State) (p : Nat) (v : FltP) (j : Nat) : (s.setFltp p v).comp j = s.comp j := rfl
@[simp] theorem State.comp_setTable (s : State) (t : Nat) (v : Table) (j : Nat) : (s.setTable t v).comp j = s.comp j := rfl
@[simp] theorem State.comp_setTally (s : State) (t : Nat) (v : Tally) (j : Nat) : (s.setTally t v).comp j = s.comp j := rfl
@[simp] theorem State.comp_setWin (s : State) (n : Nat) (v : WinU) (j : Nat) : (s.setWin n v).comp j = s.comp j := rfl
@[simp] theorem State.comp_setLink (s : State) (l : Nat) (v : Link) (j : Nat) : (s.setLink l v).comp j = s.comp j := rfl
@[simp] theorem State.comp_setFn (s : State) (p : Nat) (v : Fn) (j : Nat) : (s.setFn p v).comp j = s.comp j := rfl
@[simp] theorem State.comp_setLk (s : State) (n : Nat) (v : Lka) (j : Nat) : (s.setLk n v).comp j = s.comp j := rfl
@[simp] theorem State.comp_setDom (s : State) (d : Nat) (v : Dom) (j : Nat) : (s.setDom d v).comp j = s.comp j := rfl
@[simp] theorem State.comp_setUnit (s : State) (c i : Nat) (v : UnitS) (j : Nat) : (s.setUnit c i v).comp j = s.comp j := rfl
@[simp] theorem State.comp_setTrp (s : State) (p : Nat) (v : TrP) (j : Nat) : (s.setTrp p v).comp j = s.comp j := rfl
@[simp] theorem State.comp_emit (s : State) (m : OutMsg) (j : Nat) : (s.emit m).comp j = s.comp j := rfl
@[simp] theorem State.comp_useFree (s : State) (n : Nat) (j : Nat) : (s.useFree n).comp j = s.comp j := rfl
@[simp] theorem State.comp_setReq (s : State) (r : Req) (j : Nat) : (s.setReq r).comp j = s.comp j := rfl
@[simp] theorem State.comp_storeMem (s : State) (a : Nat) (d : Bytes) (en : List Bool) (j : Nat) : (s.storeMem a d en).comp j = s.comp j := rfl
@[simp] theorem State.fltp_setQueue (s : State) (q : Nat) (v : Queue) (j : Nat) : (s.setQueue q v).fltp j = s.fltp j := rfl
@[simp] theorem State.fltp_setEng (s : State) (e : Nat) (v : Eng) (j : Nat) : (s.setEng e v).fltp j = s.fltp j := rfl
@[simp] theorem State.fltp_setComp (s : State) (n : Nat) (v : Comp) (j : Nat) : (s.setComp n v).fltp j = s.fltp j := rfl
@[simp] theorem State.fltp_setTable (s : State) (t : Nat) (v : Table) (j : Nat) : (s.setTable t v).fltp j = s.fltp j := rfl
@[simp] theorem State.fltp_setTally (s : State) (t : Nat) (v : Tally) (j : Nat) : (s.setTally t v).fltp j = s.fltp j := rfl
@[simp] theorem State.fltp_setWin (s : State) (n : Nat) (v : WinU) (j : Nat) : (s.setWin n v).fltp j = s.fltp j := rfl
@[simp] theorem State.fltp_setLink (s : State) (l : Nat) (v : Link) (j : Nat) : (s.setLink l v).fltp j = s.fltp j := rfl
@[simp] theorem State.fltp_setFn (s : State) (p : Nat) (v : Fn) (j : Nat) : (s.setFn p v).fltp j = s.fltp j := rfl
@[simp] theorem State.fltp_setLk (s : State) (n : Nat) (v : Lka) (j : Nat) : (s.setLk n v).fltp j = s.fltp j := rfl
@[simp] theorem State.fltp_setDom (s : State) (d : Nat) (v : Dom) (j : Nat) : (s.setDom d v).fltp j = s.fltp j := rfl
@[simp] theorem State.fltp_setUnit (s : State) (c i : Nat) (v : UnitS) (j : Nat) : (s.setUnit c i v).fltp j = s.fltp j := rfl
@[simp] theorem State.fltp_setTrp (s : State) (p : Nat) (v : TrP) (j : Nat) : (s.setTrp p v).fltp j = s.fltp j := rfl
@[simp] theorem State.fltp_emit (s : State) (m : OutMsg) (j : Nat) : (s.emit m).fltp j = s.fltp j := rfl
@[simp] theorem State.fltp_useFree (s : State) (n : Nat) (j : Nat) : (s.useFree n).fltp j = s.fltp j := rfl
@[simp] theorem State.fltp_setReq (s : State) (r : Req) (j : Nat) : (s.setReq r).fltp j = s.fltp j := rfl
@[simp] theorem State.fltp_storeMem (s : State) (a : Nat) (d : Bytes) (en : List Bool) (j : Nat) : (s.storeMem a d en).fltp j = s.fltp j := rfl
@[simp] theorem State.table_setQueue (s : State) (q : Nat) (v : Queue) (j : Nat) : (s.setQueue q v).table j = s.table j := rfl
@[simp] theorem State.table_setEng (s : State) (e : Nat) (v : Eng) (j : Nat) : (s.setEng e v).table j = s.table j := rfl
@[simp] theorem State.table_setComp (s : State) (n : Nat) (v : Comp) (j : Nat) : (s.setComp n v).table j = s.table j := rfl
@[simp] theorem State.table_setFltp (s : State) (p : Nat) (v : FltP) (j : Nat) : (s.setFltp p v).table j = s.table j := rfl
@[simp] theorem State.table_setTally (s : State) (t : Nat) (v : Tally) (j : Nat) : (s.setTally t v).table j = s.table j := rfl
@[simp] theorem State.table_setWin (s : State) (n : Nat) (v : WinU) (j : Nat) : (s.setWin n v).table j = s.table j := rfl
@[simp] theorem State.table_setLink (s : State) (l : Nat) (v : Link) (j : Nat) : (s.setLink l v).table j = s.table j := rfl
@[simp] theorem State.table_setFn (s : State) (p : Nat) (v : Fn) (j : Nat) : (s.setFn p v).table j = s.table j := rfl
@[simp] theorem State.table_setLk (s : State) (n : Nat) (v : Lka) (j : Nat) : (s.setLk n v).table j = s.table j := rfl
@[simp] theorem State.table_setDom (s : State) (d : Nat) (v : Dom) (j : Nat) : (s.setDom d v).table j = s.table j := rfl
@[simp] theorem State.table_setUnit (s : State) (c i : Nat) (v : UnitS) (j : Nat) : (s.setUnit c i v).table j = s.table j := rfl
@[simp] theorem State.table_setTrp (s : State) (p : Nat) (v : TrP) (j : Nat) : (s.setTrp p v).table j = s.table j := rfl
@[simp] theorem State.table_emit (s : State) (m : OutMsg) (j : Nat) : (s.emit m).table j = s.table j := rfl
@[simp] theorem State.table_useFree (s : State) (n : Nat) (j : Nat) : (s.useFree n).table j = s.table j := rfl
@[simp] theorem State.table_setReq (s : State) (r : Req) (j : Nat) : (s.setReq r).table j = s.table j := rfl
@[simp] theorem State.table_storeMem (s : State) (a : Nat) (d : Bytes) (en : List Bool) (j : Nat) : (s.storeMem a d en).table j = s.table j := rfl
@[simp] theorem State.tally_setQueue (s : State) (q : Nat) (v : Queue) (j : Nat) : (s.setQueue q v).tally j = s.tally j := rfl
@[simp] theorem State.tally_setEng (s : State) (e : Nat) (v : Eng) (j : Nat) : (s.setEng e v).tally j = s.tally j := rfl
@[simp] theorem State.tally_setComp (s : State) (n : Nat) (v : Comp) (j : Nat) : (s.setComp n v).tally j = s.tally j := rfl
@[simp] theorem State.tally_setFltp (s : State) (p : Nat) (v : FltP) (j : Nat) : (s.setFltp p v).tally j = s.tally j := rfl
@[simp] theorem State.tally_setTable (s : State) (t : Nat) (v : Table) (j : Nat) : (s.setTable t v).tally j = s.tally j := rfl
@[simp] theorem State.tally_setWin (s : State) (n : Nat) (v : WinU) (j : Nat) : (s.setWin n v).tally j = s.tally j := rfl
@[simp] theorem State.tally_setLink (s : State) (l : Nat) (v : Link) (j : Nat) : (s.setLink l v).tally j = s.tally j := rfl
@[simp] theorem State.tally_setFn (s : State) (p : Nat) (v : Fn) (j : Nat) : (s.setFn p v).tally j = s.tally j := rfl
@[simp] theorem State.tally_setLk (s : State) (n : Nat) (v : Lka) (j : Nat) : (s.setLk n v).tally j = s.tally j := rfl
@[simp] theorem State.tally_setDom (s : State) (d : Nat) (v : Dom) (j : Nat) : (s.setDom d v).tally j = s.tally j := rfl
@[simp] theorem State.tally_setUnit (s : State) (c i : Nat) (v : UnitS) (j : Nat) : (s.setUnit c i v).tally j = s.tally j := rfl
@[simp] theorem State.tally_setTrp (s : State) (p : Nat) (v : TrP) (j : Nat) : (s.setTrp p v).tally j = s.tally j := rfl
@[simp] theorem State.tally_emit (s : State) (m : OutMsg) (j : Nat) : (s.emit m).tally j = s.tally j := rfl
@[simp] theorem State.tally_useFree (s : State) (n : Nat) (j : Nat) : (s.useFree n).tally j = s.tally j := rfl
@[simp] theorem State.tally_setReq (s : State) (r : Req) (j : Nat) : (s.setReq r).tally j = s.tally j := rfl
@[simp] theorem State.tally_storeMem (s : State) (a : Nat) (d : Bytes) (en : List Bool) (j : Nat) : (s.storeMem a d en).tally j = s.tally j := rfl
@[simp] theorem State.win_setQueue (s : State) (q : Nat) (v : Queue) (j : Nat) : (s.setQueue q v).win j = s.win j := rfl
@[simp] theorem State.win_setEng (s : State) (e : Nat) (v : Eng) (j : Nat) : (s.setEng e v).win j = s.win j := rfl
@[simp] theorem State.win_setComp (s : State) (n : Nat) (v : Comp) (j : Nat) : (s.setComp n v).win j = s.win j := rfl
@[simp] theorem State.win_setFltp (s : State) (p : Nat) (v : FltP) (j : Nat) : (s.setFltp p v).win j = s.win j := rfl
@[simp] theorem State.win_setTable (s : State) (t : Nat) (v : Table) (j : Nat) : (s.setTable t v).win j = s.win j := rfl
@[simp] theorem State.win_setTally (s : State) (t : Nat) (v : Tally) (j : Nat) : (s.setTally t v).win j = s.win j := rfl
@[simp] theorem State.win_setLink (s : State) (l : Nat) (v : Link) (j : Nat) : (s.setLink l v).win j = s.win j := rfl
@[simp] theorem State.win_setFn (s : State) (p : Nat) (v : Fn) (j : Nat) : (s.setFn p v).win j = s.win j := rfl
@[simp] theorem State.win_setLk (s : State) (n : Nat) (v : Lka) (j : Nat) : (s.setLk n v).win j = s.win j := rfl
@[simp] theorem State.win_setDom (s : State) (d : Nat) (v : Dom) (j : Nat) : (s.setDom d v).win j = s.win j := rfl
@[simp] theorem State.win_setUnit (s : State) (c i : Nat) (v : UnitS) (j : Nat) : (s.setUnit c i v).win j = s.win j := rfl
@[simp] theorem State.win_setTrp (s : State) (p : Nat) (v : TrP) (j : Nat) : (s.setTrp p v).win j = s.win j := rfl
@[simp] theorem State.win_emit (s : State) (m : OutMsg) (j : Nat) : (s.emit m).win j = s.win j := rfl
@[simp] theorem State.win_useFree (s : State) (n : Nat) (j : Nat) : (s.useFree n).win j = s.win j := rfl
@[simp] theorem State.win_setReq (s : State) (r : Req) (j : Nat) : (s.setReq r).win j = s.win j := rfl
@[simp] theorem State.win_storeMem (s : State) (a : Nat) (d : Bytes) (en : List Bool) (j : Nat) : (s.storeMem a d en).win j = s.win j := rfl
@[simp] theorem State.link_setQueue (s : State) (q : Nat) (v : Queue) (j : Nat) : (s.setQueue q v).link j = s.link j := rfl
@[simp] theorem State.link_setEng (s : State) (e : Nat) (v : Eng) (j : Nat) : (s.setEng e v).link j = s.link j := rfl
@[simp] theorem State.link_setComp (s : State) (n : Nat) (v : Comp) (j : Nat) : (s.setComp n v).link j = s.link j := rfl
@[simp] theorem State.link_setFltp (s : State) (p : Nat) (v : FltP) (j : Nat) : (s.setFltp p v).link j = s.link j := rfl
@[simp] theorem State.link_setTable (s : State) (t : Nat) (v : Table) (j : Nat) : (s.setTable t v).link j = s.link j := rfl
@[simp] theorem State.link_setTally (s : State) (t : Nat) (v : Tally) (j : Nat) : (s.setTally t v).link j = s.link j := rfl
@[simp] theorem State.link_setWin (s : State) (n : Nat) (v : WinU) (j : Nat) : (s.setWin n v).link j = s.link j := rfl
@[simp] theorem State.link_setFn (s : State) (p : Nat) (v : Fn) (j : Nat) : (s.setFn p v).link j = s.link j := rfl
@[simp] theorem State.link_setLk (s : State) (n : Nat) (v : Lka) (j : Nat) : (s.setLk n v).link j = s.link j := rfl
@[simp] theorem State.link_setDom (s : State) (d : Nat) (v : Dom) (j : Nat) : (s.setDom d v).link j = s.link j := rfl
@[simp] theorem State.link_setUnit (s : State) (c i : Nat) (v : UnitS) (j : Nat) : (s.setUnit c i v).link j = s.link j := rfl
@[simp] theorem State.link_setTrp (s : State) (p : Nat) (v : TrP) (j : Nat) : (s.setTrp p v).link j = s.link j := rfl
@[simp] theorem State.link_emit (s : State) (m : OutMsg) (j : Nat) : (s.emit m).link j = s.link j := rfl
@[simp] theorem State.link_useFree (s : State) (n : Nat) (j : Nat) : (s.useFree n).link j = s.link j := rfl
@[simp] theorem State.link_setReq (s : State) (r : Req) (j : Nat) : (s.setReq r).link j = s.link j := rfl
@[simp] theorem State.link_storeMem (s : State) (a : Nat) (d : Bytes) (en : List Bool) (j : Nat) : (s.storeMem a d en).link j = s.link j := rfl
@[simp] theorem State.fn_setQueue (s : State) (q : Nat) (v : Queue) (j : Nat) : (s.setQueue q v).fn j = s.fn j := rfl
@[simp] theorem State.fn_setEng (s : State) (e : Nat) (v : Eng) (j : Nat) : (s.setEng e v).fn j = s.fn j := rfl
@[simp] theorem State.fn_setComp (s : State) (n : Nat) (v : Comp) (j : Nat) : (s.setComp n v).fn j = s.fn j := rfl
@[simp] theorem State.fn_setFltp (s : State) (p : Nat) (v : FltP) (j : Nat) : (s.setFltp p v).fn j = s.fn j := rfl
@[simp] theorem State.fn_setTable (s : State) (t : Nat) (v : Table) (j : Nat) : (s.setTable t v).fn j = s.fn j := rfl
@[simp] theorem State.fn_setTally (s : State) (t : Nat) (v : Tally) (j : Nat) : (s.setTally t v).fn j = s.fn j := rfl
@[simp] theorem State.fn_setWin (s : State) (n : Nat) (v : WinU) (j : Nat) : (s.setWin n v).fn j = s.fn j := rfl
@[simp] theorem State.fn_setLink (s : State) (l : Nat) (v : Link) (j : Nat) : (s.setLink l v).fn j = s.fn j := rfl
@[simp] theorem State.fn_setLk (s : State) (n : Nat) (v : Lka) (j : Nat) : (s.setLk n v).fn j = s.fn j := rfl
@[simp] theorem State.fn_setDom (s : State) (d : Nat) (v : Dom) (j : Nat) : (s.setDom d v).fn j = s.fn j := rfl
@[simp] theorem State.fn_setUnit (s : State) (c i : Nat) (v : UnitS) (j : Nat) : (s.setUnit c i v).fn j = s.fn j := rfl
@[simp] theorem State.fn_setTrp (s : State) (p : Nat) (v : TrP) (j : Nat) : (s.setTrp p v).fn j = s.fn j := rfl
@[simp] theorem State.fn_emit (s : State) (m : OutMsg) (j : Nat) : (s.emit m).fn j = s.fn j := rfl
@[simp] theorem State.fn_useFree (s : State) (n : Nat) (j : Nat) : (s.useFree n).fn j = s.fn j := rfl
@[simp] theorem State.fn_setReq (s : State) (r : Req) (j : Nat) : (s.setReq r).fn j = s.fn j := rfl
@[simp] theorem State.fn_storeMem (s : State) (a : Nat) (d : Bytes) (en : List Bool) (j : Nat) : (s.storeMem a d en).fn j = s.fn j := rfl
@[simp] theorem State.lk_setQueue (s : State) (q : Nat) (v : Queue) (j : Nat) : (s.setQueue q v).lk j = s.lk j := rfl
@[simp] theorem State.lk_setEng (s : State) (e : Nat) (v : Eng) (j : Nat) : (s.setEng e v).lk j = s.lk j := rfl
@[simp] theorem State.lk_setComp (s : State) (n : Nat) (v : Comp) (j : Nat) : (s.setComp n v).lk j = s.lk j := rfl
@[simp] theorem State.lk_setFltp (s : State) (p : Nat) (v : FltP) (j : Nat) : (s.setFltp p v).lk j = s.lk j := rfl
@[simp] theorem State.lk_setTable (s : State) (t : Nat) (v : Table) (j : Nat) : (s.setTable t v).lk j = s.lk j := rfl
@[simp] theorem State.lk_setTally (s : State) (t : Nat) (v : Tally) (j : Nat) : (s.setTally t v).lk j = s.lk j := rfl
@[simp] theorem State.lk_setWin (s : State) (n : Nat) (v : WinU) (j : Nat) : (s.setWin n v).lk j = s.lk j := rfl
@[simp] theorem State.lk_setLink (s : State) (l : Nat) (v : Link) (j : Nat) : (s.setLink l v).lk j = s.lk j := rfl
@[simp] theorem State.lk_setFn (s : State) (p : Nat) (v : Fn) (j : Nat) : (s.setFn p v).lk j = s.lk j := rfl
@[simp] theorem State.lk_setDom (s : State) (d : Nat) (v : Dom) (j : Nat) : (s.setDom d v).lk j = s.lk j := rfl
@[simp] theorem State.lk_setUnit (s : State) (c i : Nat) (v : UnitS) (j : Nat) : (s.setUnit c i v).lk j = s.lk j := rfl
@[simp] theorem State.lk_setTrp (s : State) (p : Nat) (v : TrP) (j : Nat) : (s.setTrp p v).lk j = s.lk j := rfl
@[simp] theorem State.lk_emit (s : State) (m : OutMsg) (j : Nat) : (s.emit m).lk j = s.lk j := rfl
@[simp] theorem State.lk_useFree (s : State) (n : Nat) (j : Nat) : (s.useFree n).lk j = s.lk j := rfl
@[simp] theorem State.lk_setReq (s : State) (r : Req) (j : Nat) : (s.setReq r).lk j = s.lk j := rfl
@[simp] theorem State.lk_storeMem (s : State) (a : Nat) (d : Bytes) (en : List Bool) (j : Nat) : (s.storeMem a d en).lk j = s.lk j := rfl
@[simp] theorem State.dom_setQueue (s : State) (q : Nat) (v : Queue) (j : Nat) : (s.setQueue q v).dom j = s.dom j := rfl
@[simp] theorem State.dom_setEng (s : State) (e : Nat) (v : Eng) (j : Nat) : (s.setEng e v).dom j = s.dom j := rfl
@[simp] theorem State.dom_setComp (s : State) (n : Nat) (v : Comp) (j : Nat) : (s.setComp n v).dom j = s.dom j := rfl
@[simp] theorem State.dom_setFltp (s : State) (p : Nat) (v : FltP) (j : Nat) : (s.setFltp p v).dom j = s.dom j := rfl
@[simp] theorem State.dom_setTable (s : State) (t : Nat) (v : Table) (j : Nat) : (s.setTable t v).dom j = s.dom j := rfl
@[simp] theorem State.dom_setTally (s : State) (t : Nat) (v : Tally) (j : Nat) : (s.setTally t v).dom j = s.dom j := rfl
@[simp] theorem State.dom_setWin (s : State) (n : Nat) (v : WinU) (j : Nat) : (s.setWin n v).dom j = s.dom j := rfl
@[simp] theorem State.dom_setLink (s : State) (l : Nat) (v : Link) (j : Nat) : (s.setLink l v).dom j = s.dom j := rfl
@[simp] theorem State.dom_setFn (s : State) (p : Nat) (v : Fn) (j : Nat) : (s.setFn p v).dom j = s.dom j := rfl
@[simp] theorem State.dom_setLk (s : State) (n : Nat) (v : Lka) (j : Nat) : (s.setLk n v).dom j = s.dom j := rfl
@[simp] theorem State.dom_setUnit (s : State) (c i : Nat) (v : UnitS) (j : Nat) : (s.setUnit c i v).dom j = s.dom j := rfl
@[simp] theorem State.dom_setTrp (s : State) (p : Nat) (v : TrP) (j : Nat) : (s.setTrp p v).dom j = s.dom j := rfl
@[simp] theorem State.dom_emit (s : State) (m : OutMsg) (j : Nat) : (s.emit m).dom j = s.dom j := rfl
@[simp] theorem State.dom_useFree (s : State) (n : Nat) (j : Nat) : (s.useFree n).dom j = s.dom j := rfl
@[simp] theorem State.dom_setReq (s : State) (r : Req) (j : Nat) : (s.setReq r).dom j = s.dom j := rfl
@[simp] theorem State.dom_storeMem (s : State) (a : Nat) (d : Bytes) (en : List Bool) (j : Nat) : (s.storeMem a d en).dom j = s.dom j := rfl
@[simp] theorem State.trp_setQueue (s : State) (q : Nat) (v : Queue) (j : Nat) : (s.setQueue q v).trp j = s.trp j := rfl
@[simp] theorem State.trp_setEng (s : State) (e : Nat) (v : Eng) (j : Nat) : (s.setEng e v).trp j = s.trp j := rfl
@[simp] theorem State.trp_setComp (s : State) (n : Nat) (v : Comp) (j : Nat) : (s.setComp n v).trp j = s.trp j := rfl
@[simp] theorem State.trp_setFltp (s : State) (p : Nat) (v : FltP) (j : Nat) : (s.setFltp p v).trp j = s.trp j := rfl
@[simp] theorem State.trp_setTable (s : State) (t : Nat) (v : Table) (j : Nat) : (s.setTable t v).trp j = s.trp j := rfl
@[simp] theorem State.trp_setTally (s : State) (t : Nat) (v : Tally) (j : Nat) : (s.setTally t v).trp j = s.trp j := rfl
@[simp] theorem State.trp_setWin (s : State) (n : Nat) (v : WinU) (j : Nat) : (s.setWin n v).trp j = s.trp j := rfl
@[simp] theorem State.trp_setLink (s : State) (l : Nat) (v : Link) (j : Nat) : (s.setLink l v).trp j = s.trp j := rfl
@[simp] theorem State.trp_setFn (s : State) (p : Nat) (v : Fn) (j : Nat) : (s.setFn p v).trp j = s.trp j := rfl
@[simp] theorem State.trp_setLk (s : State) (n : Nat) (v : Lka) (j : Nat) : (s.setLk n v).trp j = s.trp j := rfl
@[simp] theorem State.trp_setDom (s : State) (d : Nat) (v : Dom) (j : Nat) : (s.setDom d v).trp j = s.trp j := rfl
@[simp] theorem State.trp_setUnit (s : State) (c i : Nat) (v : UnitS) (j : Nat) : (s.setUnit c i v).trp j = s.trp j := rfl
@[simp] theorem State.trp_emit (s : State) (m : OutMsg) (j : Nat) : (s.emit m).trp j = s.trp j := rfl
@[simp] theorem State.trp_useFree (s : State) (n : Nat) (j : Nat) : (s.useFree n).trp j = s.trp j := rfl
@[simp] theorem State.trp_setReq (s : State) (r : Req) (j : Nat) : (s.setReq r).trp j = s.trp j := rfl
@[simp] theorem State.trp_storeMem (s : State) (a : Nat) (d : Bytes) (en : List Bool) (j : Nat) : (s.storeMem a d en).trp j = s.trp j := rfl

@[simp] theorem State.setLin_pending (s : State) (l : Lin) : (s.setLin l).pending = s.pending := rfl
@[simp] theorem State.setLin_held (s : State) (l : Lin) : (s.setLin l).held = s.held := rfl
@[simp] theorem State.setLin_part (s : State) (l : Lin) : (s.setLin l).part = s.part := rfl
@[simp] theorem State.setLin_mem (s : State) (l : Lin) : (s.setLin l).mem = s.mem := rfl
@[simp] theorem State.setLin_poison (s : State) (l : Lin) : (s.setLin l).poison = s.poison := rfl
@[simp] theorem State.setLin_veil (s : State) (l : Lin) : (s.setLin l).veil = s.veil := rfl
@[simp] theorem State.setLin_reqs (s : State) (l : Lin) : (s.setLin l).reqs = s.reqs := rfl
@[simp] theorem State.setLin_orphans (s : State) (l : Lin) : (s.setLin l).orphans = s.orphans := rfl
@[simp] theorem State.setLin_nextId (s : State) (l : Lin) : (s.setLin l).nextId = s.nextId := rfl
@[simp] theorem State.setLin_free (s : State) (l : Lin) : (s.setLin l).free = s.free := rfl
@[simp] theorem State.setLin_tileQ (s : State) (l : Lin) : (s.setLin l).tileQ = s.tileQ := rfl
@[simp] theorem State.setLin_out (s : State) (l : Lin) : (s.setLin l).out = s.out := rfl
@[simp] theorem State.setLin_latch (s : State) (l : Lin) : (s.setLin l).latch = s.latch := rfl
@[simp] theorem State.setLin_gal (s : State) (l : Lin) : (s.setLin l).gal = s.gal := rfl
@[simp] theorem State.setLin_trn (s : State) (l : Lin) : (s.setLin l).trn = s.trn := rfl
@[simp] theorem State.setLin_flt (s : State) (l : Lin) : (s.setLin l).flt = s.flt := rfl
@[simp] theorem State.setLin_epo (s : State) (l : Lin) : (s.setLin l).epo = s.epo := rfl
@[simp] theorem State.setLin_plt (s : State) (l : Lin) : (s.setLin l).plt = s.plt := rfl
@[simp] theorem State.setLin_cmp (s : State) (l : Lin) : (s.setLin l).cmp = s.cmp := rfl
@[simp] theorem State.setLin_lka (s : State) (l : Lin) : (s.setLin l).lka = s.lka := rfl
@[simp] theorem State.setLin_seam (s : State) (l : Lin) : (s.setLin l).seam = s.seam := rfl
@[simp] theorem State.setLin_tal (s : State) (l : Lin) : (s.setLin l).tal = s.tal := rfl
@[simp] theorem State.setLin_lin (s : State) (l : Lin) : (s.setLin l).lin = l := rfl
@[simp] theorem State.setLin_host (s : State) (l : Lin) : (s.setLin l).host = s.host := rfl
@[simp] theorem State.setLin_ic (s : State) (l : Lin) : (s.setLin l).ic = s.ic := rfl
@[simp] theorem State.setLin_prt (s : State) (l : Lin) : (s.setLin l).prt = s.prt := rfl
@[simp] theorem State.setLin_aon (s : State) (l : Lin) : (s.setLin l).aon = s.aon := rfl
@[simp] theorem State.setLin_err (s : State) (l : Lin) : (s.setLin l).err = s.err := rfl
@[simp] theorem State.setLin_obs (s : State) (l : Lin) : (s.setLin l).obs = s.obs := rfl
@[simp] theorem State.setLin_rcd (s : State) (l : Lin) : (s.setLin l).rcd = s.rcd := rfl

@[simp] theorem State.setTrn_pending (s : State) (t : Trn) : (s.setTrn t).pending = s.pending := rfl
@[simp] theorem State.setTrn_held (s : State) (t : Trn) : (s.setTrn t).held = s.held := rfl
@[simp] theorem State.setTrn_part (s : State) (t : Trn) : (s.setTrn t).part = s.part := rfl
@[simp] theorem State.setTrn_mem (s : State) (t : Trn) : (s.setTrn t).mem = s.mem := rfl
@[simp] theorem State.setTrn_poison (s : State) (t : Trn) : (s.setTrn t).poison = s.poison := rfl
@[simp] theorem State.setTrn_veil (s : State) (t : Trn) : (s.setTrn t).veil = s.veil := rfl
@[simp] theorem State.setTrn_reqs (s : State) (t : Trn) : (s.setTrn t).reqs = s.reqs := rfl
@[simp] theorem State.setTrn_orphans (s : State) (t : Trn) : (s.setTrn t).orphans = s.orphans := rfl
@[simp] theorem State.setTrn_nextId (s : State) (t : Trn) : (s.setTrn t).nextId = s.nextId := rfl
@[simp] theorem State.setTrn_free (s : State) (t : Trn) : (s.setTrn t).free = s.free := rfl
@[simp] theorem State.setTrn_tileQ (s : State) (t : Trn) : (s.setTrn t).tileQ = s.tileQ := rfl
@[simp] theorem State.setTrn_out (s : State) (t : Trn) : (s.setTrn t).out = s.out := rfl
@[simp] theorem State.setTrn_latch (s : State) (t : Trn) : (s.setTrn t).latch = s.latch := rfl
@[simp] theorem State.setTrn_gal (s : State) (t : Trn) : (s.setTrn t).gal = s.gal := rfl
@[simp] theorem State.setTrn_trn (s : State) (t : Trn) : (s.setTrn t).trn = t := rfl
@[simp] theorem State.setTrn_flt (s : State) (t : Trn) : (s.setTrn t).flt = s.flt := rfl
@[simp] theorem State.setTrn_epo (s : State) (t : Trn) : (s.setTrn t).epo = s.epo := rfl
@[simp] theorem State.setTrn_plt (s : State) (t : Trn) : (s.setTrn t).plt = s.plt := rfl
@[simp] theorem State.setTrn_cmp (s : State) (t : Trn) : (s.setTrn t).cmp = s.cmp := rfl
@[simp] theorem State.setTrn_lka (s : State) (t : Trn) : (s.setTrn t).lka = s.lka := rfl
@[simp] theorem State.setTrn_seam (s : State) (t : Trn) : (s.setTrn t).seam = s.seam := rfl
@[simp] theorem State.setTrn_tal (s : State) (t : Trn) : (s.setTrn t).tal = s.tal := rfl
@[simp] theorem State.setTrn_lin (s : State) (t : Trn) : (s.setTrn t).lin = s.lin := rfl
@[simp] theorem State.setTrn_host (s : State) (t : Trn) : (s.setTrn t).host = s.host := rfl
@[simp] theorem State.setTrn_ic (s : State) (t : Trn) : (s.setTrn t).ic = s.ic := rfl
@[simp] theorem State.setTrn_prt (s : State) (t : Trn) : (s.setTrn t).prt = s.prt := rfl
@[simp] theorem State.setTrn_aon (s : State) (t : Trn) : (s.setTrn t).aon = s.aon := rfl
@[simp] theorem State.setTrn_err (s : State) (t : Trn) : (s.setTrn t).err = s.err := rfl
@[simp] theorem State.setTrn_obs (s : State) (t : Trn) : (s.setTrn t).obs = s.obs := rfl
@[simp] theorem State.setTrn_rcd (s : State) (t : Trn) : (s.setTrn t).rcd = s.rcd := rfl

@[simp] theorem State.setSrc_pending (s : State) (n : Nat) (v : Src) : (s.setSrc n v).pending = s.pending := rfl
@[simp] theorem State.setSrc_held (s : State) (n : Nat) (v : Src) : (s.setSrc n v).held = s.held := rfl
@[simp] theorem State.setSrc_part (s : State) (n : Nat) (v : Src) : (s.setSrc n v).part = s.part := rfl
@[simp] theorem State.setSrc_mem (s : State) (n : Nat) (v : Src) : (s.setSrc n v).mem = s.mem := rfl
@[simp] theorem State.setSrc_poison (s : State) (n : Nat) (v : Src) : (s.setSrc n v).poison = s.poison := rfl
@[simp] theorem State.setSrc_veil (s : State) (n : Nat) (v : Src) : (s.setSrc n v).veil = s.veil := rfl
@[simp] theorem State.setSrc_reqs (s : State) (n : Nat) (v : Src) : (s.setSrc n v).reqs = s.reqs := rfl
@[simp] theorem State.setSrc_orphans (s : State) (n : Nat) (v : Src) : (s.setSrc n v).orphans = s.orphans := rfl
@[simp] theorem State.setSrc_nextId (s : State) (n : Nat) (v : Src) : (s.setSrc n v).nextId = s.nextId := rfl
@[simp] theorem State.setSrc_free (s : State) (n : Nat) (v : Src) : (s.setSrc n v).free = s.free := rfl
@[simp] theorem State.setSrc_tileQ (s : State) (n : Nat) (v : Src) : (s.setSrc n v).tileQ = s.tileQ := rfl
@[simp] theorem State.setSrc_out (s : State) (n : Nat) (v : Src) : (s.setSrc n v).out = s.out := rfl
@[simp] theorem State.setSrc_latch (s : State) (n : Nat) (v : Src) : (s.setSrc n v).latch = s.latch := rfl
@[simp] theorem State.setSrc_gal (s : State) (n : Nat) (v : Src) : (s.setSrc n v).gal = s.gal := rfl
@[simp] theorem State.setSrc_trn (s : State) (n : Nat) (v : Src) : (s.setSrc n v).trn = s.trn := rfl
@[simp] theorem State.setSrc_flt (s : State) (n : Nat) (v : Src) : (s.setSrc n v).flt = s.flt := rfl
@[simp] theorem State.setSrc_epo (s : State) (n : Nat) (v : Src) : (s.setSrc n v).epo = s.epo := rfl
@[simp] theorem State.setSrc_plt (s : State) (n : Nat) (v : Src) : (s.setSrc n v).plt = s.plt := rfl
@[simp] theorem State.setSrc_cmp (s : State) (n : Nat) (v : Src) : (s.setSrc n v).cmp = s.cmp := rfl
@[simp] theorem State.setSrc_lka (s : State) (n : Nat) (v : Src) : (s.setSrc n v).lka = s.lka := rfl
@[simp] theorem State.setSrc_seam (s : State) (n : Nat) (v : Src) : (s.setSrc n v).seam = s.seam := rfl
@[simp] theorem State.setSrc_tal (s : State) (n : Nat) (v : Src) : (s.setSrc n v).tal = s.tal := rfl
@[simp] theorem State.setSrc_lin (s : State) (n : Nat) (v : Src) : (s.setSrc n v).lin = s.lin := rfl
@[simp] theorem State.setSrc_host (s : State) (n : Nat) (v : Src) : (s.setSrc n v).host = s.host := rfl
@[simp] theorem State.setSrc_ic (s : State) (n : Nat) (v : Src) : (s.setSrc n v).ic = { s.ic with srcs := s.ic.srcs.set n v } := rfl
@[simp] theorem State.setSrc_prt (s : State) (n : Nat) (v : Src) : (s.setSrc n v).prt = s.prt := rfl
@[simp] theorem State.setSrc_aon (s : State) (n : Nat) (v : Src) : (s.setSrc n v).aon = s.aon := rfl
@[simp] theorem State.setSrc_err (s : State) (n : Nat) (v : Src) : (s.setSrc n v).err = s.err := rfl
@[simp] theorem State.setSrc_obs (s : State) (n : Nat) (v : Src) : (s.setSrc n v).obs = s.obs := rfl
@[simp] theorem State.setSrc_rcd (s : State) (n : Nat) (v : Src) : (s.setSrc n v).rcd = s.rcd := rfl

/-- A source reads as what was set last. -/
theorem State.src_setSrc (s : State) (n j : Nat) (v : Src) : (s.setSrc n v).src j = if j = n then v else s.src j := by
  simp [State.src, Tbl.get_set]

end Sys2Proof.Machine
end

