-- ==== Sys2Proof/WellFormed.lean ====
section
/-! DEFINITION. The commands that the interfaces of Fraiz can carry: payload sizes, aligned atomics, byte enables, packet bounds
(R20, R34, R277, R348). The meanings do not lean on these checks. -/

namespace Sys2Proof

/-- An atomic of 4 or 8 bytes, naturally aligned (R34). -/
def atomicWf (a len : Nat) : Bool := (len == 4 || len == 8) && a % len == 0

/-- A request's bytes, or its length alone for a read. -/
def accessWf (a : Nat) (acc : Acc) (len : Nat) (data : Bytes) : Bool :=
  match acc with
  | .read => decide (1 ≤ len) && data.isEmpty
  | .write => decide (1 ≤ len) && data.length == len
  | .rmw => false
  | .ringRead => false
  | .atomic => atomicWf a len && data.isEmpty

/-- Byte enables, one for each byte, or none for all enabled. -/
def enablesWf (data : Bytes) (en : List Bool) : Bool := en.isEmpty || en.length == data.length

/-- A packet's payload: 1 to 256 bytes that cross no 256-byte boundary of the window's offsets (R277). -/
def packetWf (h : PktHead) (len : Nat) : Bool :=
  decide (1 ≤ len) && decide (h.offset.toNat % 256 + len ≤ 256)

def XReq.wf : XReq → Bool
  | .tile _ _ va acc len data _ _ _ => accessWf va.toNat acc len data
  | .held _ => true

def BReq.wf : BReq → Bool
  | .core _ a acc len data _ _ _ => accessWf a.toNat acc len data
  | .tile _ _ a acc len data _ _ _ => accessWf a.toNat acc len data
  | .held _ => true

/-- A line's 64 bytes where a response brings data. -/
def SnpResp.wf : SnpResp → Bool
  | .data d => d.length == 64
  | _ => true

def CxlOp.wf : CxlOp → Bool
  | .memWr d en _ => d.length == 64 && enablesWf d en
  | _ => true

/-- A command that can arrive. Most have operands of fixed ranges and are well formed always. -/
def Instr.wf : Instr → Bool
  | .translate x => x.wf
  | .boundModeRequest x => x.wf
  | .inboundWr _ h d en => packetWf h d.length && enablesWf d en
  | .inboundRd _ h q _ => packetWf h q.len
  | .inboundAtm _ h q _ _ _ => atomicWf h.offset.toNat q.len
  | .wbd _ _ w => w.data.length == 64
  | .snoopResponse _ _ r => r.resp.wf
  | .cxlMemRequest _ a op => a.toNat % 64 == 0 && op.wf
  | .bar2Write _ _ d en => decide (1 ≤ d.length) && decide (d.length ≤ 512) && enablesWf d en
  | .bar2Read _ _ len _ => decide (1 ≤ len) && decide (len ≤ 4096)
  | .bar2Atomicop _ a _ len _ _ => atomicWf a.toNat len
  | .registerWrite _ _ width _ => width == 32 || width == 64
  | .errorReport srcs _ => !srcs.isEmpty
  | _ => true

end Sys2Proof
end

