-- ==== Sys2Proof/Tests/Slice0.lean ====
section
/-! SUPPORT. Tests: a well-formed and an ill-formed term for each check of `Instr.wf`, and for every obligation with hypotheses one
theorem that shows, clause by clause, states and operands that meet all of them together. The states are built on `State.reset`. -/
namespace Sys2Proof.Tests
open Sys2Proof Sys2Proof.Machine

set_option maxRecDepth 100000
set_option Elab.async false
set_option synthInstance.maxSize 2048
set_option synthInstance.maxHeartbeats 200000

/-! ### Commands that can arrive, and commands that cannot (R20, R34, R277, R348) -/

def pkt (o : BitVec 37) : PktHead := { dst := 0, src := 9, srcPart := 3, window := 7, offset := o, stamp := 0 }
theorem test_wf_translate : (Instr.translate (.tile 63 3 0x1004 .atomic 4 [] .add 1 0)).wf = true ∧
    (Instr.translate (.tile 63 3 0x1004 .atomic 8 [] .add 1 0)).wf = false ∧
    (Instr.translate (.tile 63 3 0x1004 .rmw 8 [] .add 1 0)).wf = false ∧ (Instr.translate (.tile 63 3 0x1004 .ringRead 8 [] .add 1 0)).wf = false ∧
    (Instr.translate (.tile 63 3 0x1004 .write 2 [1] .add 1 0)).wf = false ∧ (Instr.translate (.tile 63 3 0x1004 .read 2 [1] .add 1 0)).wf = false ∧
    (Instr.translate (.tile 63 3 0x1004 .read 0 [] .add 1 0)).wf = false := by decide +kernel
theorem test_wf_boundModeRequest : (Instr.boundModeRequest (.core 7 0x1001 .write 2 [1, 2] .add 0 0)).wf = true ∧
    (Instr.boundModeRequest (.core 7 0x1001 .write 0 [] .add 0 0)).wf = false ∧
    (Instr.boundModeRequest (.tile 63 3 0x1002 .atomic 4 [] .cas 0 0)).wf = false := by decide +kernel
theorem test_wf_inbound : (Instr.inboundWr 11 (pkt 0xFE) [1, 2] [true, false]).wf = true ∧ (Instr.inboundWr 11 (pkt 0xFE) [1, 2, 3] []).wf = false ∧
    (Instr.inboundWr 11 (pkt 0xFE) [1, 2] [true]).wf = false ∧ (Instr.inboundWr 11 (pkt 0xFE) [] []).wf = false ∧
    (Instr.inboundRd 11 (pkt 0x100) ⟨4, 256⟩ (.data [])).wf = true ∧ (Instr.inboundRd 11 (pkt 0x101) ⟨4, 256⟩ (.data [])).wf = false ∧
    (Instr.inboundAtm 11 (pkt 0x108) ⟨4, 8⟩ .cas 0 0).wf = true ∧ (Instr.inboundAtm 11 (pkt 0x104) ⟨4, 8⟩ .cas 0 0).wf = false ∧
    (Instr.inboundAtm 11 (pkt 0x104) ⟨4, 2⟩ .cas 0 0).wf = false := by decide +kernel
theorem test_wf_lines : (Instr.wbd 9 5 ⟨1, (zeros 64)⟩).wf = true ∧ (Instr.wbd 9 5 ⟨1, (zeros 63)⟩).wf = false ∧
    (Instr.snoopResponse 9 5 ⟨1, (.data (zeros 64))⟩).wf = true ∧ (Instr.snoopResponse 9 5 ⟨1, (.data [])⟩).wf = false ∧
    (Instr.cxlMemRequest true 0x40 (.memWr (zeros 64) [] true)).wf = true ∧ (Instr.cxlMemRequest true 0x41 (.memWr (zeros 64) [] true)).wf = false ∧
    (Instr.cxlMemRequest true 0x40 (.memWr (zeros 65) [] true)).wf = false ∧ (Instr.cxlMemRequest true 0x40 (.memWr (zeros 64) [true] true)).wf = false := by decide +kernel
theorem test_wf_bar2 : (Instr.bar2Write 15 3 (zeros 512) []).wf = true ∧ (Instr.bar2Write 15 3 (zeros 513) []).wf = false ∧
    (Instr.bar2Write 15 3 [] []).wf = false ∧ (Instr.bar2Write 15 3 [1] [true, true]).wf = false ∧
    (Instr.bar2Read 15 3 4096 false).wf = true ∧ (Instr.bar2Read 15 3 4097 false).wf = false ∧ (Instr.bar2Read 15 3 0 true).wf = false ∧
    (Instr.bar2Atomicop 15 8 .swap 8 0 0).wf = true ∧ (Instr.bar2Atomicop 15 4 .swap 8 0 0).wf = false := by decide +kernel
theorem test_wf_registers : (Instr.registerWrite (.core 7) 0 32 0).wf = true ∧ (Instr.registerWrite (.core 7) 0 64 0).wf = true ∧
    (Instr.registerWrite (.core 7) 0 16 0).wf = false ∧ (Instr.errorReport [511] none).wf = true ∧ (Instr.errorReport [] none).wf = false := by decide +kernel

/-! ### States and operands for the statements -/


/-- The state a command leaves. -/
def nextOf : Host.Outcome State Fault Refusal → State
  | .next t => t
  | _ => State.reset
/-- The request last put into the pool. -/
def lastReq (s : State) : Req := (s.reqs.reverse)[0]?.getD
  { id := 0, owner := .ring 0, src := 0, part := 0, ctx := 0, va := 0, len := 0, acc := .read, data := [], en := [], st := .held, replay := none, phys := false }

/-- A state with one queue. -/
def qs (q : Nat) (v : Queue) : State := State.reset.setQueue q v
/-- Bytes given by position, the others 0. -/
def bytesAt (n : Nat) (l : List (Nat × Byte)) : Bytes := (List.range n).map fun i => Tbl.get l 0 i
/-- A state in which queue `q` holds the accepted slug `b`. -/
def acc (q : Nat) (b : Bytes) : State :=
  qs q { st := .resident, head := 7, tail := 15, qsize := 9, csize := 9, fetch := { st := .accepted, slug := b } }
/-- A sealed slug of 64 bytes without extensions, for phase 1. -/
def sealed (l : List (Nat × Byte)) : Bytes :=
  let b := bytesAt 62 l
  b ++ [BitVec.ofNat 8 (checkCode b 1), 1]
/-- A command in flight. -/
def cmdIn (q : Nat) (b : Bytes) (st : CmdSt) : Cmd := { queue := q, pos := 6, part := q / 256, slug := b, st := st }
def withCmds (s : State) (l : List Cmd) : State := { s with gal := { s.gal with cmds := l } }
def withReqs (s : State) (l : List Req) : State := { s with reqs := l, nextId := 100 }
/-- A request. -/
def rq (id : Nat) (o : Owner) (a : Acc) (len : Nat) (st : ReqSt) : Req :=
  { id := id, owner := o, src := 0x108, part := 0, ctx := 0, va := 0x1000, len := len, acc := a, data := zeros len, en := [], st := st, replay := none, phys := false }

def qIdle : State := qs 5 { st := .idle, qsize := 4, tail := 3, head := 1, csize := 0, ctail := 2, chead := 2 }
/-- Every quota of partition 0 at its greatest. -/
def quota (s : State) : State := { s with prt := { s.prt with qa := [(0, 0xFFFFFFFFFFFFFFFF)], qb := [(0, 0xFFFFFFFFFFFFFFFF)] } }
def qReady2 : State := quota <| (qs 5 { st := .ready, prio := 2, since := 4 }).setQueue 7 { st := .ready, prio := 2, since := 3, age := 15 }
def qSlice : State := qReady2.setQueue 9 { st := .resident, head := 3, tail := 4, fetch := { st := .reading, n := 1 } }
def qWait : State := qs 5 { st := .waiting, wait := 2, head := 1, tail := 2, fetch := { slug := zeros 64 } }
def qQuiet : State := qs 5 { st := .resident, head := 0xFFFF, tail := 3, qsize := 1 }
def qAgain (k : BitVec 7) : State := qs 5 { st := .resident, head := 1, tail := 3, qsize := 1, rereads := k, fetch := { st := .rereading, n := 2, out := [1] } }
def qRead (b : Bytes) (k : BitVec 7) : State :=
  withReqs (qs 5 { st := .resident, head := 1, tail := 3, qsize := 1, csize := 1, rereads := k, fetch := { st := .reading, n := 1 } })
    [rq 3 (.ring 5) .ringRead 64 (.have (.dev 0x1000) b)]
def qReread (b : Bytes) (k : Nat) : State :=
  withReqs (qs 5 { st := .resident, head := 1, tail := 3, qsize := 1, csize := 1, rereads := BitVec.ofNat 7 k, fetch := { st := .rereading, n := 1, out := [k] } })
    [rq 3 (.reread 5 k) .ringRead 64 (.have (.dev 0x1000) b)]
def qFail (o : Owner) (st : FetchSt) : State :=
  withReqs (qs 5 { st := .resident, head := 1, tail := 3, qsize := 1, rereads := 4, fetch := { st := st, n := 1 } })
    [rq 3 o .ringRead 64 (.failed (.dev 0x1000) .poison)]
def qOf (st : QSt) : State := qs 0 { st := st, head := 1, tail := 3, rereads := 7, err := 1 }
def dHost : Cmd := { cmdIn 5 (zeros 64) .ended with hostLast := some (0x80000, {}) }
def endHost : State := (withCmds (qs 5 { st := .idle }) [dHost]).setFn 0 { enabled := true, bme := true }
def dRec : Cmd := cmdIn 5 (bytesAt 64 [(1, 0x10)]) .ended
def endRec : State := { withCmds (qs 5 { st := .idle }) [dRec] with gal.ends := [(5, 6)] }
def dTal : Cmd := cmdIn 5 (bytesAt 64 [(1, 0x80), (2, 9), (10, 4)]) .ended
def endTal : State := (withCmds (qs 5 { st := .idle }) [dTal]).setTally 4 { owner := some 0, count := 0xFFFFFFFFFFFF }
def dFl : Cmd := { cmdIn 5 (zeros 64) .flushing with hostLast := some (0x80000, {}), ftag := some 9 }
def flush5 : State := withCmds (qs 5 { st := .idle }) [dFl]
def dRo : Cmd := cmdIn 5 (bytesAt 64 [(1, 0x10)]) .recordOut
def rRo : Req := rq 3 (.record 5 6) .write 64 (.issued (.dev 0x1000))
def recOut : State := withReqs (withCmds (qs 5 { st := .idle, ctail := 0xFFFF, csize := 0 }) [dRo]) [rRo]
def dLay : Cmd :=
  { cmdIn 4095 (bytesAt 64 [(0, 0x22), (4, 1), (7, 0xFF)]) .recordDue with pos := 0xFFFF, status := 0x2C, flags := 0x8001, residue := 0xFFFFFFFFFFFFFFFF, tstamp := 5, detail := List.replicate 30 7 }
def eLay : FEntry :=
  { n := 511, gen := 1, st := .raised, pri := false, ctx := 1023, va := 2 ^ 57 - 1, cause := 15, acc := .atomic, src := 0x1FF, level := 5, raw := 3, queue := some 4095 }
def eTile : FEntry := { eLay with queue := none, n := 0, va := 0, acc := .read }
def cHalt : State := let s := acc 5 (bytesAt 64 [(0, 0x10)]); { s with err := { s.err with halt := true } }
def cFence : State := withCmds (acc 5 (bytesAt 64 [(0, 1)])) [cmdIn 5 (zeros 64) .running]
/-- CT is 1, and tally 4 is nobody's. -/
def cForeign : State := acc 5 (bytesAt 64 [(0, 0x50), (1, 0x80), (10, 4)])
def cTset : State := (acc 5 (bytesAt 64 [(0, 0x40), (12, 4), (14, 3), (16, 1), (24, 2)])).setTally 4 { owner := some 0, count := 9, sat := true }
def cTsetNo : State := (acc 5 (bytesAt 64 [(0, 0x40), (12, 4), (14, 3), (16, 1), (24, 2)])).setTally 4 { owner := some 1, count := 9 }
def cInv : State := acc 5 (bytesAt 64 [(0, 0x50), (12, 2), (13, 1), (17, 0x10), (16, 12)])
/-- The staged store of window 7 has EN set for an absent partition, and no length. -/
def cWbad : State := (acc 5 (bytesAt 64 [(0, 0x42), (12, 7)])).setWin 7 { staged := { base := 0x10, lim := 0, cfg := 0x8000000000000000 } }

def qOkOff : State := { qs 0 { head := 1, tail := 3, qsize := 9, csize := 9 } with trn := { State.reset.trn with ctxcfg := [(0, 0x8000000000000000)] } }
def dFr : Cmd := { cmdIn 5 (bytesAt 64 [(1, 0x10)]) .flushing with hostLast := some (0x80000, {}), ftag := some 9 }
def flushRec : State := withCmds (qs 5 { st := .idle }) [dFr]
/-- Bytes written from an address on. -/
def putMem (s : State) (a : Nat) (b : Bytes) : State :=
  { s with mem := (List.range b.length).foldl (fun m i => Memory.write m (a + i) (b.getD i 0)) s.mem }
/-- Bound range 0 of partition 0 covers the first 16 MiB with every right. -/
def ranged (s : State) : State := { s with trn := { s.trn with bbase := [(0, 0x1F)], blim := [(0, 0xFFF000)] } }
def tab (n : Nat) (v : Table) (s : State) : State := s.setTable n v
def stageOk : State := acc 5 (bytesAt 64 [(0, 0x30), (12, 0xFF), (13, 1), (23, 0x80), (17, 0x10)])
def stageHeld : State := { stageOk with epo.flips := [{ queue := 9, pos := 1, part := 0, tables := [511], retire := false, waitrel := false }] }
def stageDrain : State := tab 511 { valid := true, a := { st := .draining, pins := 1 } } stageOk
def swap2 : Bytes := bytesAt 128 [(0, 0x31), (1, 1), (12, 2), (64, 3), (66, 4)]
def staged (s : State) : State := tab 3 { a := { st := .staged, addr := 64 } } (tab 4 { a := { st := .staged } } s)
def swapHeld : State := { acc 5 swap2 with epo.flips := [{ queue := 9, pos := 1, part := 0, tables := [4], retire := true, waitrel := false }] }
def retire3 (k : Byte) : Bytes := bytesAt 64 [(0, 0x32), (12, 3), (13, k), (14, 1)]
def retHeld : State := { acc 5 (retire3 0) with epo.flips := [{ queue := 9, pos := 1, part := 0, tables := [3], retire := true, waitrel := false }] }
/-- A MOVE of 64 bytes. -/
def move64 : Bytes := bytesAt 192 [(0, 0x10), (1, 2), (65, 0x10), (72, 64), (76, 1), (80, 1), (84, 1), (129, 0x20), (136, 64), (140, 1), (144, 1), (148, 1)]
def moveNone : Bytes := bytesAt 192 [(0, 0x10), (1, 2)]
def put8 : Bytes := bytesAt 128 [(0, 0x11), (1, 1), (20, 8)]
/-- A GATHER of 2 bags of 1 lookup. -/
def gath (scatter : Bool) : Bytes :=
  bytesAt 128 [(0, if scatter then 0x21 else 0x20), (1, 1), (12, 3), (15, if scatter then 1 else 5), (18, 1), (20, 2), (24, 2)]
def gTab (s : State) : State := tab 3 { valid := true, curB := false, gen := 9, a := { st := .current, addr := 0x4000, pins := 2 } } (quota s)
def gathHeld : State := { gTab (acc 5 (gath false)) with epo.flips := [{ queue := 9, pos := 1, part := 0, tables := [3], retire := true, waitrel := false }] }
def gathNone : Bytes := bytesAt 128 [(0, 0x20), (1, 1), (12, 3), (15, 1), (18, 1)]
def swatchOf (k : Byte) : Bytes := bytesAt 64 [(0, 0x22), (12, 3), (13, k)]
def swatchHeld : State := { acc 5 (swatchOf 0) with epo.flips := [{ queue := 9, pos := 1, part := 0, tables := [3], retire := true, waitrel := false }] }
/-- Context 0 is valid; `slot`: it is resident. -/
def ctxOn (s : State) (slot : Bool) : State :=
  { s with trn := { s.trn with ctxcfg := [(0, 0x8000000000000000)], slots := if slot then [(0, 0, 0)] else [] } }
def tileReq : Req := { rq 3 (.tile 63 2) .read 64 .held with src := 0x0F2 }
def tHeld (slot : Bool) : State := withReqs (ctxOn State.reset slot) [tileReq]
def walk0 : Walk := { w := 47, part := 0, ctx := 0, va := 0x1FC0, level := 5, table := 0x8000, num := 0 }
def tJoin : State := { tHeld true with trn.walks := [walk0] }
def peerLeaf : XEntry := { buf := 63, slot := 0, ctx := 0, level := 0, size := 12, va := 0x1000, out := 0x70000, typ := 2, rd := true }
def tPeer : State := { tHeld true with trn.edge := [peerLeaf] }
def coreOk : State := ranged (putMem State.reset 0x1000 [1, 2, 3, 4, 5, 6, 7, 8])
def ctxWaits : State := withReqs (ctxOn State.reset false) [{ tileReq with st := .ctxWait }]
def missing : State := quota (withReqs (ctxOn State.reset true) [{ tileReq with st := .missWait }])
def missAts : State :=
  ({ missing with trn := { missing.trn with ctxcfg := [(0, 0x9000000000000000)] } } : State).setFn 0 { enabled := true, bme := true }
def onWalk (r : Req) : Req := { r with st := .walking 47 }
def unlim (s : State) : State := { s with prt := { s.prt with bwNow := [(0, 0xFFFFF)] } }
def fillLeaf : XEntry := { peerLeaf with buf := 0 }
def filling : State := unlim (quota { withReqs (ctxOn State.reset true) [onWalk tileReq] with trn.walks := [{ walk0 with st := .filling fillLeaf }] })
def stale (s : State) : State :=
  { s with trn := { s.trn with lastInv := [(0, 1)], anyInv := [(0, true)], invLast := 1 } }
def atsWalk : Walk := { walk0 with st := .ats }
def atsOut : State :=
  (unlim (quota { withReqs (ctxOn State.reset true) [onWalk tileReq] with trn.walks := [atsWalk], trn.ctxcfg := [(0, 0x9000000000000000)] })).setFn 0 { enabled := true, bme := true, ats := true }
/-- A walk whose table entry is `e`. -/
def reading (e : Nat) : State :=
  unlim (ranged (quota (putMem { withReqs (ctxOn State.reset true) [onWalk tileReq] with trn.walks := [walk0] } 0x8000 (toLE 8 e))))
def walk1 : Walk := { walk0 with level := 1, va := 0x1FC0, table := 0x8000 }
def reading1 (e : Nat) : State :=
  unlim (ranged (quota (putMem { withReqs (ctxOn State.reset true) [onWalk tileReq] with trn.walks := [walk1] } 0x8008 (toLE 8 e))))
def flt0 (s : State) (f : FltP) : State := s.setFltp 0 f
def wHeld : State := { quota (ctxOn State.reset true) with trn.walks := [{ walk0 with fails := 3 }] }
def fnUp : State := ({ State.reset with aon := { State.reset.aon with boot := .ready } } : State).setFn 15 { enabled := true, bme := true }
def invOne : Inv := { num := 0xFFFFFFFF, part := 0, scope := .part, by_ := .reg 0 (.core 0), users := [] }
def invDone (b : InvFrom) : State :=
  { withCmds (qs 5 {}) [cmdIn 5 (zeros 64) .running] with trn := { State.reset.trn with invs := [{ invOne with by_ := b }], busy := [(0, true)] } }
def heldTwo : State := { State.reset with trn := { State.reset.trn with invHeld := [(0, .part, .reg 0 (.core 0)), (15, .ctx 960, .cfg), (0, .ctx 1, .reg 0 (.core 1))] } }

def stageOff : State := tab 511 { valid := true, a := { st := .current }, b := { st := .staged, addr := 64 }, curB := false } (acc 5 (bytesAt 64 [(0, 0x30), (12, 0xFF), (13, 1), (17, 0x10)]))
def swap0 : Bytes := bytesAt 64 [(0, 0x31)]
/-- A committed GATHER or SCATTER before its epoch record is asked for. -/
def took (s : State) (q n : Nat) (b : Bytes) : State :=
  let p := q / 256
  let pos := (s.queue q).head
  let t := 512 * p + gTable b
  let tb := s.table t
  let k := tb.slot tb.curB
  let s1 := ((s.commitSlug q .running (0x150 + n) false).setTable t (tb.setSlot tb.curB { k with pins := k.pins + 1 })).setComp n
    { s.newComp q b with pos := pos }
  let s2 := (s1.lkaCommitted q n pos b (s1.queue q).head).tookUnit true p
  s2.addTrace p (traceBytes s.now 1 (slugOpcode b) 0 p (0x150 + n) q (slugTag b) 0) false
def gathRun (scatter : Bool) : State := gTab (acc 5 (gath scatter))
def gathSleeps : State := { gathRun false with aon := { (gathRun false).aon with doms := [(8, .waking false)] } }
def swStaged : State := staged (acc 5 (swatchOf 0))
def missRanged : State := ranged missing
def missAtsOn : State := ({ missing with trn := { missing.trn with ctxcfg := [(0, 0x9000000000000000)] } } : State).setFn 0 { enabled := true, bme := true, ats := true }
def staleRanged : State := ranged (stale filling)
def fnUpHeld : State := { fnUp with trn := { fnUp.trn with walks := [{ walk0 with part := 15, fails := 3 }] } }
/-- The state that a command leads to. -/
def after (i : Instr) (s : State) : State :=
  match exec i s with
  | .next t => t
  | _ => s
/-- Request `id` stands as `st`. -/
def stands (id : Nat) (st : ReqSt) (s : State) : State := { s with reqs := s.reqs.map fun r => if r.id = id then { r with st := st } else r }
def the (id : Nat) (s : State) : Req := (s.req? id).getD (rq 0 (.phys 0) .read 0 .held)
def theCmd (q : Nat) (pos : BitVec 16) (s : State) : Cmd := (s.cmd? q pos).getD (cmdIn 0 [] .ended)
def ctxBad : State := { ctxOn State.reset true with trn := { (ctxOn State.reset true).trn with edge := [peerLeaf] } }
def rWait : Req := { tileReq with st := .entryWait 3 1, note := { level := 5, raw := 7 } }
def eLog : FEntry := { n := 0, gen := 1, st := .logged, pri := false, ctx := 0, va := 0x1000, cause := 1, acc := .read, src := 0x0F2, level := 5, raw := 0, queue := none }
def eRaised : FEntry := { eLog with st := .raised }
def waitFlt (f : FltP) : State := flt0 (withReqs State.reset [rWait]) f
def fullFlt : FltP := { en := true, entries := (List.range 512).map fun n => { eLog with n := n, cause := 2 } }
def onEntry (e : FEntry) : State := flt0 (withReqs (ctxOn State.reset true) [{ tileReq with st := .faulted 0 0 }]) { en := true, deadline := 5, entries := [e] }
def recRdy : State := ranged (flt0 State.reset { en := true, entries := [eRaised], tail := 0x1FF })
def recHost (on : Bool) : State :=
  (flt0 State.reset { en := true, rbase := 0x8000000000008000, entries := [eRaised] }).setFn 0 { enabled := true, bme := on }
def rFlt : Req := { rq 3 (.fltRec 0) .write 64 (.issued (.dev 0x7FC0)) with src := 0x109 }
def recGone : State := flt0 (withReqs State.reset [rFlt]) { en := true, entries := [eRaised], tail := 0x1FF, writing := some 0 }
def priUp (e : FEntry) : State := (flt0 State.reset { entries := [e] }).setFn 0 { enabled := true, bme := true, pri := true, prAlloc := 1 }
def ePri : FEntry := { eRaised with pri := true }
def eReq : FEntry := { eLog with st := .requested, pri := true }
def eRep : FEntry := { eLog with st := .replaying }
def recordSlot : State := tab 511 { a := { st := .staged, addr := 64 } } State.reset
def flipIt (retire waitrel : Bool) : Flip := { queue := 5, pos := 6, part := 0, tables := [3], retire := retire, waitrel := waitrel }
def flipping (retire waitrel : Bool) : State :=
  let s := tab 3 { valid := true, curB := true, gen := 0xFFFF, a := { st := .staged, addr := 64 }, b := { st := .current, pins := 2 } } (withCmds (qs 5 {}) [cmdIn 5 (zeros 64) .running])
  { s with epo := { s.epo with flips := [flipIt retire waitrel] } }
def drained (k : Nat) (st : SlotSt) : State := tab 8191 { valid := true, b := { st := st, pins := k } } State.reset
def sweeping : State :=
  let s := drained 0 .purging
  { s with epo := { s.epo with sweep := some [(8191, true)] }, cmp := { s.cmp with swatch := [⟨8191, true, 1, 0, 0⟩, ⟨8191, false, 1, 0, 0⟩] } }
def mv0 : State := after (.move 5) (quota (acc 5 move64))
def mv1 : State := after (.pleatAssign 5 7) mv0
def mv2 : State := after (.pleatBurstBegin 0) mv1
/-- The first source read of the engine has its data, or has failed. -/
def mvBack : State := stands 1 (.have (.dev 0x1000) (zeros 64)) mv2
def mvPart : State := stands 1 (.have (.dev 0x1000) (zeros 32)) mv2
def mvFail : State := stands 1 (.failed (.dev 0x1000) .poison) mv2
def mv3 : State := stands 2 (.issued (.dev 0x2000)) (after (.pleatReadReturn 0 1 (.data [])) mvBack)
def mvHalt : State := after (.pleatReadReturn 0 1 (.data [])) mvFail
def mvStall : State := let v := mv1.eng 0; mv1.setEng 0 { v with st := .stalled }
def mvLate (k : BitVec 3) : State := let v := mvHalt.eng 0; mvHalt.setEng 0 { v with later := some k }
def mvBusy : State := { mvHalt with reqs := [rq 1 (.pltRead 0 0) .read 64 .held] }
/-- A record: 4 rows of 4 elements of format 2 in one segment, with placement entries from 0x6000; `direct`: without. -/
def recB (direct : Bool) (st : Byte) : Bytes :=
  bytesAt 128 [(1, 0x60), (8, 4), (12, (if direct then 2 else 0) + 4 * st), (13, 1), (14, 4), (65, 0x50), (72, 2), (74, 32), (76, 4)]
/-- A GATHER or SCATTER at commitment, with its record in memory, a sum of 2 bags of 1 lookup. -/
def cm (scatter direct : Bool) (st : Byte) : State := unlim (ranged (putMem (gTab (acc 5 (gath scatter))) 0x4000 (recB direct st)))
def cmCmd (scatter : Bool) : Instr := if scatter then .scatter 5 else .gather 5
def cm1 (scatter direct : Bool) (st : Byte) : State := after (cmCmd scatter) (cm scatter direct st)
def cm2 (scatter direct : Bool) (st : Byte) : State := after (.epochRecordRead 0 (.data [])) (cm1 scatter direct st)
/-- The index stream is here: indices 1 and 2. -/
def ixB : Bytes := [1, 0, 0, 0, 2, 0, 0, 0]
def cm2s (scatter direct : Bool) : State := stands 2 (.have (.dev 0) ixB) (cm2 scatter direct 0)
def cm3 (scatter direct : Bool) : State := after (.streamReadReturn 0 2 (.data [])) (cm2s scatter direct)
def g3p : State := stands 3 (.have (.dev 0) [1, 0, 0, 0, 0, 0, 0, 0x20]) (cm3 false false)
def g3n : State := stands 3 (.have (.dev 0) (zeros 8)) (cm3 false false)
def g3r : State := stands 3 (.have (.dev 0) (zeros 8)) (cm3 false true)
def g4r : State := stands 4 (.have (.dev 0) (zeros 8)) (after (.rowReadReturn 0 3 (.data [])) g3r)
def g5 : State := after (.rowReadReturn 0 4 (.data [])) g4r
def g6 : State := after (.windowClose 0) g5
def g7 : State := stands 5 (.issued (.dev 0x7000)) (after (.resultWrite 0) g6)
def g8 : State :=
  let s := after (.resultWrite 0) (after (.compositorWriteResponse 0 5 .done) g7)
  stands 6 (.issued (.dev 0x7000)) s
def s3g (b : Byte) : State := stands 3 (.have (.dev 0) (List.replicate 16 b)) (cm3 true true)
def s4g (b : Byte) : State := stands 4 (.have (.dev 0) (List.replicate 16 b)) (after (.streamReadReturn 0 3 (.data [])) (s3g b))
def s5r (b : Byte) : State := stands 5 (.have (.dev 0) (zeros 8)) (after (.streamReadReturn 0 4 (.data [])) (s4g b))
/-- The row of index 1 is here, as read at 0x5020. -/
def s6 (b : Byte) : State :=
  let s := after (.rowReadReturn 0 5 (.data [])) (s5r b)
  let v := s.comp 0
  s.setComp 0 { v with dists := v.dists.map fun d => if d.idx = 1 then { d with outs := [(0, 8, .dev 0x5020)] } else d }
def s7 : State := after (.scatterRowUpdate 0) (s6 0)
def dueOf (s : State) : Dist := ((s.comp 0).rowDue).getD { idx := 0, first := 0 }
def distOf (s : State) (i : Nat) : Dist := ((s.comp 0).dists.find? fun z => z.idx == i).getD { idx := 0, first := 0 }
/-- The row's write is performed; its row invalidation is sent. -/
def s8 : State := after (.compositorWriteResponse 0 6 .done) s7
/-- Lookups are left behind the window. -/
def g5m : State := g5.setComp 0 { g5.comp 0 with nidx := 5 }
def trk (p : BitVec 4) : State := { fnUp with cmp := { State.reset.cmp with trk := [(15, { part := p, ptr := 255, ents := [(255, (7, 9))] })] } }
def swB : Bytes := bytesAt 64 [(0, 0x22), (12, 3), (16, 1)]
def dSw : Cmd := { cmdIn 5 swB .running with list := recB true 0 }
/-- A SWATCH whose reads stand as `l`. -/
def swIn (l : List Req) : State := staged (withReqs (withCmds (qs 5 {}) [dSw]) l)
def swRec (b : Bytes) : State := swIn [rq 1 (.swRecord 5 6) .read 128 (.have (.dev 0x4000) b)]
/-- One list entry: index, segment. -/
def swEnt (i g : Byte) : Bytes := bytesAt 16 [(0, i), (4, g)]
def swLst (b : Bytes) : State := swIn [rq 1 (.swList 5 6) .read 16 (.have (.dev 0x4000) b)]
def swErr : State := swIn [rq 1 (.swList 5 6) .read 16 (.failed (.dev 0x4000) .poison)]
def ringProof (b : Bytes) : Proof := { id := 1, part := 0, kind := .ring, target := 3, addr := 0x5000, len := 64, out := .peer 0, num := 0, slotB := false, gen := 0, nar := some b }
/-- Lookahead 15 follows queue 5 and has asked for its next slug. -/
def following (b : Bytes) : State := (qs 5 { st := .resident, head := 1, tail := 3, qsize := 1, ctx := 0 }).setLk 15 { queue := some 5, next := 1, asked := true, held := [ringProof b] }
def gathSealed : Bytes := sealed [(0, 0x20), (12, 3)]
def aheadOf : State := (unlim (ranged (gTab (qs 5 { st := .resident })))).setLk 15 { queue := some 5, targets := [{ pos := 1, slug := gathSealed }] }
def readOne (d : Bool) : Proof := { id := 1, part := 0, kind := .record, target := 1, addr := 0x4000, len := 64, out := .dev 0x4000, num := 0, slotB := false, gen := 9, dead := d }
def reads1 (d : Bool) : State := let s := aheadOf; s.setLk 15 { s.lk 15 with held := [readOne d] }
def walksIn : State := { ctxOn aheadOf true with lka := { aheadOf.lka with ctl := [(0, 0x80003210)] } }
def recOn : State := { State.reset with rcd := { State.reset.rcd with mode := true, next := 4031, sram := [(0x2840, 0x10), (0x2841, 0x80), (0x2842, 2), (0x2860, 0x11), (0x2861, 0x80), (0x2862, 2), (0x4840, 1), (0x4843, 1)] } }
def unitAs (code inst : Nat) (st : USt) (s : State) : State := s.setUnit code inst { st := st }
def rPeer (acc : Acc) (o : Owner) (len : Nat) (st : ReqSt) : Req := { rq 3 o acc len st with src := 0x0F2 }
/-- Peer 1, window 7, offset 0xF0. -/
def apA : Nat := 1 * 2 ^ 47 + 7 * 2 ^ 37 + 0xF0
def routed (s : State) : State := { s with seam := { s.seam with live := 0x800, route := [(1, 0xFFF)] } }
def pSend (acc : Acc) : State := withReqs State.reset [rPeer acc (.tile 63 2) 32 (.issued (.peer apA))]
def pTadd : State := routed (withCmds (withReqs State.reset [rPeer .write (.tadd 5 6) 6 (.issued (.peer apA))]) [cmdIn 5 (zeros 64) .running])
def pSent (o : Owner) : State := withReqs State.reset [rPeer .read o 32 (.sent (.peer apA))]
/-- Window 7 admits every kind from anyone: 4 KiB at 0x10000, counted at tally 4. -/
def winAll : Win := { base := 0x10000, lim := 0xFC0, cfg := 0xBE00000000000004 }
def winUp (s : State) : State := (s.setWin 7 { live := winAll }).setTally 4 { owner := some 0, count := 5 }
def hd (w : BitVec 10) (o : BitVec 37) : PktHead := { dst := 0, src := 9, srcPart := 3, window := w, offset := o, stamp := 0 }
def flt1 (old : Bool) : Flight :=
  { id := 1, port := 3, src := 0x1A3, kind := 0, head := hd 7 0xFFF, tag := 0, back := none, window := 7, ver := 0, old := old, addr := 0x10FFF, len := 3, data := [1, 2, 3], en := [true, false, true], op := .add, x := 0, y := 0, err := none, tally := some 4, part := 0 }
def flying (old : Bool) : State :=
  let s := winUp State.reset
  let t := { s with seam := { s.seam with flight := [flt1 old] } }
  t.setWin 7 { live := winAll, drain := 1 }
def winPend : State := { flying false with seam := { (flying false).seam with wins := [(7, { live := winAll, ver := 255, pend := some {} })] } }
def winStage (w : Win) : State :=
  let s := (quota State.reset).setWin 7 { staged := w }
  { s with seam := { s.seam with sel := [(0, 7)] } }
def talOf (s : State) : State := s.setTally 0xFFFF { owner := some 0, tevt := true, tile := 63, thresh := 3, count := 9 }
def talTile : State := { (talOf State.reset).setTally 0xFFFF { owner := some 0, tevt := true, tile := 63, thresh := 3 } with trn := { State.reset.trn with tbind := [(63, 0x80000000)] } }
def named (s : State) : State := s.setWin 7 { live := { winAll with cfg := 0xBE0000000000FFFF } }

/-- Every RC field has a value. -/
def rcUp : State :=
  let s := flying false
  { s with host.late := 0xFFFFFFFFFFFF, lin.nbcast := 5, lin.nrecall := 6, lin.ncross := 7, rcd.lostev := 9,
           lka.issue := [(0, 1)], lka.used := [(0, 2)], lka.disc := [(0, 3)], lka.walks := [(0, 4)], cmp.look := [(255, 5)], cmp.fetch := [(255, 6)],
           err.cnt := [(15, 9)], obs.tr := [(0, { lost := 77 })], seam.wins := [(7, { live := winAll, drops := 0x1234 })] }
def rcVal (r : RcReg) : Nat := ((rcUp.regAt (.core 0) (rcOffset r)).getD (true, 0)).2
def pTimed : State := { State.reset with seam := { State.reset.seam with timedOut := [{ tag := 3, time := 0, part := 0, src := 0x0F2 }] } }
/-- A read that leaves in two packets. -/
def pCut : State := withReqs State.reset [rPeer .read (.tile 63 2) 4096 (.sent (.peer apA))]
def recCur : State := { recOn with rcd.cursor := [(0, 0x720)] }
def recRun : State := { recOn with rcd.mode := false }
def pNoTmo : State := { pSent (.tile 63 2) with seam := { State.reset.seam with tmo := 0 } }
/-- Lookahead 15's next read of the ring of queue 5 waits for a translation. -/
def walksRing : State :=
  let s := walksIn.setQueue 5 { st := .resident, head := 1, tail := 3, qsize := 1, qbase := 0x1000 }
  s.setLk 15 { queue := some 5, next := 1 }
def errHandling : State := { State.reset with err := { State.reset.err with handling := true } }
/-- Peer 1, window 7, offset 0x100, of which 32 bytes are one packet. -/
def apB : Nat := 1 * 2 ^ 47 + 7 * 2 ^ 37 + 0x100
def pOne (o : Owner) : State := withReqs State.reset [rPeer .read o 32 (.sent (.peer apB))]
/-- Port 11 leads toward peer 9. -/
def winRt : State := let s := winUp State.reset; { s with seam := { s.seam with live := 0x800, route := [(9, 0xFFF)] } }
/-- The window is 1 GiB at 1 GiB, enabled. -/
def linUp : State := { State.reset with lin := { State.reset.lin with base := 0x40000000, size := 1, en := true } }
def le (line way : Nat) (st : LSt) (ptrs : List Nat) : LEntry := { line := line, way := way, st := st, ptrs := ptrs }
def ents (l : List LEntry) (s : State) : State := { s with lin := { s.lin with ents := l } }
def opens (l : List Txn) (s : State) : State := { s with lin := { s.lin with opens := l } }
def tx (line : Nat) (k : TxKind) (a : Nat) : Txn := { line := line, kind := k, agent := a }
/-- The last line of the window. -/
def lastL : Nat := 0xFFFFFF
def busyLine : State := opens [tx lastL .rds 3] linUp
/-- Every way of line 5's set is taken, by lines of the same set. -/
def fullSet : State := ents ((List.range 16).map fun i => { le (5 + 0x40000000 * (i + 1)) i .ex [i] with stamp := 16 - i }) linUp
def heldBy (st : LSt) (ptrs : List Nat) : State := ents [le lastL 15 st ptrs] linUp
def waitsFor : State := { linUp with lin := { linUp.lin with waits := [tx 4 .rds 9, tx lastL .rds 3] } }
def uReq (acc : Acc) (o : Owner) : Req := { rq 3 o acc (if acc = .atomic then 8 else 64) (.issued (.dev 0x7FFFFFC0)) with en := [] }
def uIn (acc : Acc) (o : Owner) (s : State) : State := withReqs s [uReq acc o]
def noBytes : Req := { uReq .write (.cxlWr true) with en := List.replicate 64 false }
def hinted : State := { linUp with lin := { linUp.lin with hintb := [(3, 0xC000000040000000)], hintl := [(3, 0xFFFFFFFFFFFFF)] } }
def twoSnoops : Txn := { tx lastL .rdx 3 with snoops := [9, 73], way := some 15 }
def oneSnoop : Txn := { tx lastL .rdx 3 with snoops := [73], way := some 15 }
def wbTxn : Txn := { tx lastL .rdx 3 with wbWait := [73], way := some 15 }
def d64 : Bytes := List.replicate 64 7
def rdHome : Txn := { tx lastL .rds 3 with homeR := true, way := some 15 }
def uwrHome : Txn := { tx lastL .uwr 0 with ureq := some (.held 3 lastL), homeW := true }
def atmHome : Txn := { tx lastL .atm 0 with ureq := some (.held 3 lastL), homeW := true }
def recallT : Txn := { tx 5 .rdx 3 with snoops := [9], way := some 2, victim := some { line := lastL, due := [], dirty := some d64 } }
def rUpd : Req := { uReq .write (.cmpUpdate 15 1) with data := List.replicate 64 1, en := [] }
def hostAt : BitVec 52 := 0x7FFFFFC0
def hostTxn : State := opens [tx lastL .rds 73] linUp
def barS (p : Nat) (s : State) : State :=
  let t := (ranged s).setFn p { enabled := true, bme := true }
  { t with aon := { t.aon with boot := .ready } }
def barOk : State := barS 0 (unlim linUp)
def barWin : State := (winUp (barS 0 State.reset)).setWin 7 { live := { winAll with cfg := 0xFE00000000000004 } }
def barNo : State := { barS 0 State.reset with trn := State.reset.trn }
def barDown : State := let s := barS 0 State.reset; s.setFn 0 { enabled := true, flr := .drain }
def posted : State := withReqs fnUp [{ rq 3 (.bar2Wr 2 15 []) .write 8 (.issued (.dev 0x1000)) with part := 15 }]
def toHost (o : Owner) : State := withReqs State.reset [rPeer .read o 32 (.sent (.host 0x5000 false))]
def quarS : State := { State.reset with host := { State.reset.host with quar := [{ link := 3, tag := 7, time := 0, part := 15, src := 0 }, { link := 2, tag := 7, time := 0, part := 8, src := 0 }] } }
def noTmo (s : State) : State := s.setLink 0 { ctoDis := true }
/-- The physical function of link 2 is presented. -/
def pf8 (v : Link) : State :=
  let s := ({ State.reset with aon := { State.reset.aon with boot := .ready }, host := { State.reset.host with portB := true } } : State).setFn 8 { enabled := true }
  s.setLink 2 v

/-- Agent 73's response is due to a recall of the last line. -/
def recallS (l : List Nat) : Txn := { tx 5 .rdx 3 with snoops := l, way := some 2, victim := some { line := lastL, due := [73] } }
def recalling (l : List Nat) : State := opens [recallS l] (heldBy .ex [73])
def rdHomeS : Txn := { rdHome with snoops := [9] }
def linLeft : State := { linUp with lin := { linUp.lin with active := 0 } }
def linSwept (dead : Bool) : State := { linUp with lin := { linUp.lin with sweeps := [(71, dead)] } }
def linSweeps : State := { heldBy .ex [71] with lin := { (heldBy .ex [71]).lin with sweeps := [(71, false)] } }
def linOff : State := { linUp with lin := { linUp.lin with en := false } }
def linFlush : State := { linUp with lin := { linUp.lin with en := false, flushing := true } }
def linFlushing : State := { heldBy .ex [71] with lin := { (heldBy .ex [71]).lin with en := false, flushing := true, opens := [{ line := lastL, kind := .flush, snoops := [71], way := some 15 }] } }
def hostReq : Txn := { tx lastL .rds 73 with host := some true }
def hostOpen : State := opens [hostReq] linUp
def hostM : State := heldBy .ex [73]
def hostSnooped : State := opens [{ tx lastL .rdx 3 with snoops := [73], way := some 15 }] hostM
def hugeMiss : LEntry := { le (5 + 0x40000000 * 16) 15 .ex [15] with stamp := 1 }

def barLin : State := barS 0 linUp
def barHole : State := let s := barS 0 State.reset; s.setLink 0 { (s.link 0) with pfBar := 41 }
def q15 : Late := { link := 3, tag := 7, time := 0, part := 15, src := 0 }
def q15p : Late := { q15 with proof := true }
def quarP : State := { State.reset with host := { State.reset.host with quar := [q15p] } }
def vfOn : State := (pf8 { vfEn := true, numVfs := 7 }).setFn 15 { enabled := true }
def pfFlr : State := (pf8 {}).setFn 8 { enabled := true, flr := .drain }

/-- An earlier write of the same host to the line is not performed. -/
def busyOrd : State := withReqs busyLine [{ uReq .write (.cxlWr true) with src := 0x191 }]
def fnS (p : Nat) (f : Fn) : State := ({ State.reset with aon := { State.reset.aon with boot := .ready } } : State).setFn p f
def rTile (p : Nat) : Req := { rq 3 (.tile 63 2) .read 64 (.sent (.host 0x5000 false)) with part := p }
/-- Partition 8 is in use: a queue, a window, a valid context, a tally, a bound tile. -/
def inUse8 (f : Flr) : State :=
  let s := fnS 8 { enabled := true, bme := true, flr := f }
  let t := (((s.setQueue 2048 { st := .idle }).setWin 512 { live := winAll }).setTally 5 { owner := some 8, count := 9 }).setQueue 3 { st := .idle }
  { t with trn := { t.trn with ctxcfg := [(512, 0x8000000000000000)], tbind := [(63, 0x80000200)], bbase := [(64, 0x1F)], blim := [(64, 0xFFF000)] } }
def flrBusy : State := let s := inUse8 .drain; { s with reqs := [rTile 8] }
def flrOut : State := { fnS 8 { enabled := true, flr := .drain } with reqs := [rTile 8, { rTile 3 with id := 4 }] }
def veiledS : State := { State.reset with veil := [(8, 0, 3)], mem := [(0x200001, 7), (0x600000, 9)] }
def linksUp : State := let s := pf8 { stat := ⟨true, false, true, true, false, 5, 16⟩, perst := false, vfEn := true, numVfs := 2 }; (s.setFn 9 { enabled := true }).setFn 0 { enabled := true }
def amd : Amendment := { magic := 0x444D4146, code := 5, inst := 15, drainT := 1, seq := 9, len := 64, svn := 0, lcs := 0, zeroOk := true, hash := [] }
def lifeA : Amendment := { amd with code := 0x7F, inst := 0, lcs := 1, hash := List.replicate 48 7 }
def amS (a : Option Amendment) (k : BitVec 3) (l : BitVec 15) : State :=
  { State.reset with aon := { State.reset.aon with boot := .ready, mbbusy := true, mbstep := k, mblen := l, amend := a } }
def lcWipe (b : BitVec 3) : State := { State.reset with mem := [(1, 2)], aon := { State.reset.aon with boot := .transition, target := b, tsvn := 5, hours := 4, keyHash := [3], amend := some lifeA } }
def srcS (n : Nat) (v : Src) (core : Bool) (i : Nat) (b : Bank) : State :=
  let s := ((State.reset.setSrc n v).setBank core i b).setFn 15 { enabled := true, bme := true, msixEn := true, table := [(127, { mask := false })] }
  { s with ic := { s.ic with risen := [n] }, aon := { s.aon with boot := .ready } }
/-- Source 2047 of partition 15, to its host bank 255, or to core bank 15. -/
def sv : Src := { en := true, cls := true, owner := some 15, prio := 9, target := 127 }
def svc : Src := { sv with kind := true, target := 7 }
def srcHost : State := srcS 2047 sv false 4095 {}
def srcHold : State := srcHost.setFn 15 { enabled := true }
def srcCore : State := srcS 2047 svc true 15 {}
def slow : State := srcS 2047 { sv with cls := false } false 4094 { count := 3, n := 1, timer := true, time := 7 }
def pendC : State := (srcS 2047 { svc with pend := true } true 15 { line := true, armed := false }).setSrc 5 { svc with owner := none, pend := true, prio := 4 }
def actC (p : Bool) : State := let s := srcS 2047 { svc with act := true, pend := p } true 15 {}; { s with ic := { s.ic with dis := true } }
def pbaS : State := srcHost.setFn 15 { (srcHost.fn 15) with pba := setBit 0 127 true }
def tgtS (v : Src) : State := quota (State.reset.setSrc 2047 v)
def disS : State := let s := (srcS 2047 sv true 15 { n := 1 }).setBank false 4095 { n := 1 }; { s with ic := { s.ic with dis := true } }
def chg : State := { State.reset with prt := { State.reset.prt with bw := [(15, 0xFFFFF), (3, 7)], bwNow := [(3, 100)], charge := [(3, 350), (2, 9)] } }
def bwHeld : State := { chg with reqs := [{ rq 3 (.cmpStream 15 0) .read 64 (.bwWait (.dev 0x1000)) with part := 15 }] }
def slp (d : Nat) (x : Dom) : State := { State.reset with aon := { State.reset.aon with slpctl := 0x80000000, deepok := 0x3FFFFFF, doms := [(d, x)] } }
def allIdle : State := { slp 0 .idle with aon := { (slp 0 .idle).aon with doms := (List.range 26).map fun d => (d, if d = 0 then .idle else .deep) } }
def tileOffS : State := { State.reset with aon := { State.reset.aon with tileOff := setBit 0 63 true }, reqs := [rq 3 (.cmpStream 15 0) .read 64 (.tileOff (.dev (scratchBase + 0x3F000000)))] }
def bootS (b : Boot) (l : BitVec 3) : State := { State.reset with mem := [(scratchBase + 5, 1)], aon := { State.reset.aon with boot := b, lcs := l, pcycle := 3, hours := 0xFFFFFFFF } }
def pcfg : PartCfg := ⟨0, true, 16, 4, 1, 2, 1, 10, 4, 100, 4, 1000⟩
def img : Image :=
  { answers := true, magic := 0x495A5246, format := 1, imgver := 7, len := 1000, recEnd := 600, sigOk := true, svn := 0, partByte := 1, zeroOk := true,
    records := [(1, 16, true), (2, 16, true), (3, 16, true), (4, 16, true), (5, 16, true), (6, 16, true), (7, 16, true), (8, 16, true), (9, 16, true), (10, 16, true), (0xFFFF, 0, true)],
    ident := { vendor := 1, vfDevice := 2 }, pll := [2], cal := [3], portB := true, bifA := false, bifB := false, cxlA := false, cxlB := false, pfBar := 30, vfBar := 29, slpctl := 0, deepok := 0,
    parts := (List.range 16).map fun p => (p, pcfg), partsFull := true, bound := [], peer := 9, routes := [(3, 1)], winBase := 0x40000000, winSize := 1, srcOwners := [(144, 3)], talOwners := [(5, 2)], recMode := true, recSets := [] }
def errS : State := { State.reset with err := { State.reset.err with cnt := [(0, 5)] } }
def hndS : State := { State.reset with err := { State.reset.err with handling := true } }
def wireS (n : Nat) (h : Bool) : State := { State.reset with err := { State.reset.err with wire := setBit 0 n true, handling := h } }
def wireL : State := { wireS 200 true with err := { (wireS 200 true).err with sticky := setBit 0 200 true } }
def mgrE : State := { errS with err := { errS.err with sticky := setBit 0 200 true, halt := true } }
def mgrH : State := { errS with err := { errS.err with sticky := setBit 0 20 true, halt := true, ferrP := true } }
def goS (l : Nat) : State := let s := unlim (ranged State.reset); { s with aon := { s.aon with mbaddr := BitVec.ofNat 64 (l), boot := .ready }, trn := { s.trn with bbase := [(0, 0x1F)], blim := [(0, 0xFFFFFFFFFF000)] } }
def unitS (c i : Nat) (st : USt) (s : State) : State := s.setUnit c i { st := st }
def recT (p : Nat) (k : Nat) : TraceR := { part := p, bytes := toLE 8 k ++ zeros 24, tile := false, stamp := false }
def trS : State := unlim (quota (ranged { State.reset with obs := { State.reset.obs with tr := [(0, { base := 0x8000000000001000 &&& 0x7FFFFFFFFFFFFFFF, en := true, size := 3, kinds := 7, tail := 5 })], own := (List.range 64).map fun k => recT 0 k } }))
def rDr (st : ReqSt) : Req := { rq 3 (.phys 1) .write 64 st with data := zeros 63 ++ [9] }
def drS (st : ReqSt) : State := { (trS.setEng 63 { st := .running, drain := some 64 }) with reqs := [rDr st], obs := { trS.obs with drains := [(0, 63, [recT 0 0, recT 0 1])] } }
def tkS (b c : Bool) : State := { State.reset with obs := { State.reset.obs with tkbusy := b, captured := c, wdog := 5 } }
def tkW : State := { unlim (ranged (tkS true true)) with obs := { (tkS true true).obs with tkbase := 0x2000, shadow := [(0, 0x54), (151615, 7)] }, mem := [(0x1FFF, 1), (0x2001, 3)] }
def wdS : State := withCmds (tkS false false) [cmdIn 5 (zeros 64) .running]
def Sys2Proof.Machine.State.noRise (s : State) : State := { s with ic := { s.ic with risen := [] } }
def tgtM : State := tgtS { sv with mode := true, pend := true }
def tgtP : State := tgtS { sv with pend := true }
/-- Partition 0's range covers every device address. -/
def wide (s : State) : State := { s with trn := { s.trn with bbase := [(0, 0x1F)], blim := [(0, 0xFFFFFFFFFF000)] } }
def goLin : State := let s := wide (unlim linUp); { s with aon := { s.aon with mbaddr := BitVec.ofNat 64 (0x40000000 + lastL * 64 - 64), boot := .ready } }
def rCopy : Req := { rq 3 (.phys 0) .read 192 (.issued (.dev (0x40000000 + lastL * 64 - 64))) with va := 0x40000000 + lastL * 64 - 64 }
def amCopy : State := { goLin with reqs := [rCopy], aon := { goLin.aon with mbbusy := true, mbstep := 1, mblen := 3 } }
def pfUp : State := pf8 { stat := ⟨true, false, true, true, false, 5, 16⟩ }
def pf0Up : State :=
  let s := (pfUp.setFn 0 { enabled := true }).setLink 0 { stat := ⟨true, true, true, true, false, 5, 16⟩ }
  { s with lin := { s.lin with base := 0x40000000, size := 1, en := true } }
def rTileH (p k : Nat) : Req := { rTile p with id := k, st := .sent (.host 0x5000 false) }
def flrOut8 : State := { fnS 8 { enabled := true, flr := .drain } with reqs := [rTileH 8 3, rTileH 3 4], nextId := 100 }
def linksOn : State := { linksUp with obs := { linksUp.obs with on := true } }
def srcPba : State := srcHost.setFn 15 { srcHost.fn 15 with pba := setBit 0 127 true }
def tkIdle : State := { allIdle with aon := { allIdle.aon with boot := .ready, doms := (List.range 26).map fun d => (d, if d = 0 ∨ d = 4 then .run else .deep) } }
def stepOf (s : State) : State := match step s with | .next t => t | _ => s
def withQ (c : Instr) (s : State) : State := { s with pending := [c] }
def poisS : State := { State.reset with poison := [0x40], mem := [(0x1001, 9)] }
def readyS : State := { State.reset with aon := { State.reset.aon with boot := .ready }, seam := { State.reset.seam with peer := 9 } }
def pkt5 : PktHead := { dst := 5, src := 9, srcPart := 3, window := 2, offset := 0, stamp := 0 }
def stick (n : Nat) : State := { State.reset with err := { State.reset.err with sticky := setBit 0 n true, irq := setBit 0 n true, halt := true } }
def tallyS : State := State.reset.setTally 5 { owner := some 0, count := 9, sat := true }
def deep0 : State := slp 0 .deep
def afterTick : State := nextOf (exec .operatingHoursTick State.reset)
def exWalksStartAndFill1 := { tileReq with st := .missWait }
def exWalksStartAndFill2 := { walk0 with st := .filling fillLeaf }
def exInvalidationsAreOrdered1 := { State.reset with part := .v3s }
def exInvalidationsAreOrdered2 := { invOne with by_ := .ats 3 31 }
def exInvalidationsAreOrdered3 := { invOne with by_ := .cmd 5 6 }
def exFaultEntriesLiveAndEnd1 := onEntry { eRaised with age := 5 }
def exFaultEntriesLiveAndEnd2 := onEntry { eRaised with age := 4 }
def exWindowsAndTallies1 := winStage { winAll with cfg := 0xBA00000000000004 }
def exLinksAndLifeCycleReset1 := { State.reset with part := .v3s }
def exSourcesAreCountedAndDelivered1 := { slow with ic := { slow.ic with dis := true } }
def exClaimsTargetsAndDisable1 := let s := fnS 15 { enabled := true }; (s.setSrc 2047 { sv with pend := true }).setSrc 2046 { sv with owner := some 3, pend := true }
def exClaimsTargetsAndDisable2 := { State.reset with ic := { State.reset.ic with sysev := 3 } }
def exClaimsTargetsAndDisable3 := (fnS 15 { enabled := true }).setSrc 2047 { sv with owner := some 3 }
def exClaimsTargetsAndDisable4 := tgtS { sv with owner := some 0 }
def exClaimsTargetsAndDisable5 := let s := fnS 15 { enabled := true }; s.setSrc 2047 { sv with en := false }
def exClaimsTargetsAndDisable6 := let s := tgtS { sv with en := false, pend := true, owner := some 0 }; { s with ic := { s.ic with dis := true } }
def exPartitionsAreCharged1 := { rq 3 (.cmpStream 15 0) .read 64 (.bwWait (.dev 0x1000)) with part := 15 }
def exStartUpGoesInOrder1 := { img with answers := false }
def exStartUpGoesInOrder2 := { bootS .applied 0 with lin := linUp.lin, mem := [(0x40000001, 1)] }
def exAmendmentsReplaceUnits1 := amS (some { amd with code := 7, inst := 11 }) 1 4
def exAmendmentsReplaceUnits2 := { amd with code := 7, inst := 11 }
def exAmendmentsReplaceUnits3 := amS (some { lifeA with len := 64 }) 1 4
def exAmendmentsReplaceUnits4 := unitS 1 0 .draining (withCmds (amS (some { amd with code := 1, inst := 0 }) 2 4) [cmdIn 5 (zeros 64) .running])
def exAmendmentsReplaceUnits5 := { amd with code := 1, inst := 0 }
def exAmendmentsReplaceUnits6 := unitS 5 15 .out { State.reset with aon := { State.reset.aon with usel := 0x50F } }
def lateS : State := { State.reset with trn := { State.reset.trn with late := [47] } }
def portS : State := unitS 9 1 .stale { linUp with lin := { linUp.lin with active := setBit 0 73 true } }
def portLeft : State := { portS with lin := { portS.lin with active := 0, sweeps := [(73, true)] } }


theorem flrOk : ∀ r ∈ flrOut8.reqs, r.part = 8 → ∃ k n a ats, r.owner = Owner.tile k n ∧ r.grp = 0 ∧ r.st = ReqSt.sent (Out.host a ats) := by
  intro r hr
  have h : r = rTileH 8 3 ∨ r = rTileH 3 4 := by simpa [flrOut8, fnS] using hr
  rcases h with rfl | rfl
  · intro _; exact ⟨63, 2, 0x5000, false, rfl, rfl, rfl⟩
  · intro h; exact absurd h (by decide)
theorem fullFlt_free : (waitFlt fullFlt).freeEntry 0 = none := by
  have h : (waitFlt fullFlt).fltp 0 = fullFlt := rfl
  rw [State.freeEntry, h, List.find?_eq_none]
  intro n hn
  have : fullFlt.entries.any (fun e => e.n == n) = true :=
    List.any_eq_true.2 ⟨{ eLog with n := n, cause := 2 }, List.mem_map.2 ⟨n, hn, rfl⟩, by simp⟩
  simp [this]
theorem waitOk (f : FltP) : ∀ x ∈ (waitFlt f).reqs, ∀ o' c, x.part = 0 → x.st = .entryWait o' c → x = rWait ∨ 3 < o' := by
  intro x hx o' c _ _
  exact .inl (List.mem_singleton.mp hx)
theorem fillOk : ∀ r ∈ filling.waiters 47, fillLeaf.grants r.acc = true ∧ (∃ m k, r.owner = .tile m k) ∧ r.replay = none ∧ r.grp = 0 ∧
    filling.unlimited r.part = true := by
  intro r hr
  have h : filling.waiters 47 = [onWalk tileReq] := by decide +kernel
  rw [h] at hr
  cases List.mem_singleton.mp hr
  exact ⟨by decide +kernel, ⟨63, 2, rfl⟩, rfl, rfl, by decide +kernel⟩
/-- Of two waiting transactions only the second is of the line, and it waits behind nothing of its set but cannot be admitted. -/
theorem waitsForOk : ∀ (pre : List Txn) (w : Txn) (post : List Txn), waitsFor.lin.waits = pre ++ w :: post → w.line = 5 →
    waitsFor.admissible w pre = false := by
  intro pre w post h hw
  have hm : w ∈ waitsFor.lin.waits := h ▸ List.mem_append_right pre (List.mem_cons_self ..)
  have : w = tx 4 .rds 9 ∨ w = tx lastL .rds 3 := by simpa [waitsFor] using hm
  rcases this with rfl | rfl
  · exact absurd hw (by decide +kernel)
  · exact absurd hw (by decide +kernel)

theorem test_doorbellFollowsTheTable_met :
    (qIdle.takes (Who.core 0) (Instr.doorbellWrite (Who.core 0) 5 true (1 : BitVec 16)) = true ∧ whoPart (Who.core 0) = 5 / 256 ∧
      (¬((qIdle.queue 5).st = QSt.disabled ∨ (qIdle.queue 5).st = QSt.draining ∨ (qIdle.queue 5).st = QSt.resetting ∨ (if true = true then (qIdle.queue 5).tail + (1 : BitVec 16) else (1 : BitVec 16)) = (qIdle.queue 5).tail)) ∧
      ¬ringSize (qIdle.queue 5).qsize < ((if true = true then (qIdle.queue 5).tail + (1 : BitVec 16) else (1 : BitVec 16)) - (qIdle.queue 5).head).toNat ∧
      ¬((if true = true then (qIdle.queue 5).tail + (1 : BitVec 16) else (1 : BitVec 16)) - (qIdle.queue 5).head).toNat < ((qIdle.queue 5).tail - (qIdle.queue 5).head).toNat) ∧
    (qIdle.takes (Who.core 7) (Instr.doorbellWrite (Who.core 7) 5 false (1 : BitVec 16)) = true ∧ whoPart (Who.core 7) = 5 / 256 ∧
      (¬((qIdle.queue 5).st = QSt.disabled ∨ (qIdle.queue 5).st = QSt.draining ∨ (qIdle.queue 5).st = QSt.resetting ∨ (if false = true then (qIdle.queue 5).tail + (1 : BitVec 16) else (1 : BitVec 16)) = (qIdle.queue 5).tail)) ∧
      (ringSize (qIdle.queue 5).qsize < ((if false = true then (qIdle.queue 5).tail + (1 : BitVec 16) else (1 : BitVec 16)) - (qIdle.queue 5).head).toNat ∨ ((if false = true then (qIdle.queue 5).tail + (1 : BitVec 16) else (1 : BitVec 16)) - (qIdle.queue 5).head).toNat < ((qIdle.queue 5).tail - (qIdle.queue 5).head).toNat)) ∧
    ((qOf QSt.draining).takes (Who.core 0) (Instr.doorbellWrite (Who.core 0) 0 true (1 : BitVec 16)) = true ∧
      whoPart (Who.core 0) = 0 / 256 ∧
      (((qOf QSt.draining).queue 0).st = QSt.disabled ∨ ((qOf QSt.draining).queue 0).st = QSt.draining ∨ ((qOf QSt.draining).queue 0).st = QSt.resetting ∨ (if true = true then ((qOf QSt.draining).queue 0).tail + (1 : BitVec 16) else (1 : BitVec 16)) = ((qOf QSt.draining).queue 0).tail)) :=
  ⟨by decide +kernel,
   by decide +kernel,
   by decide +kernel⟩

theorem test_slotsRecordsAndWaiting_met :
    (qWait.galleyRuns = true ∧ (qWait.queue 5).st = QSt.waiting ∧ (qWait.queue 5).wait ≠ (5 : BitVec 4) ∧
      qWait.condUnmet (5) (qWait.queue 5).fetch.slug (qWait.queue 5).wait.toNat = false) ∧
    (qSlice.galleyRuns = true ∧ (qSlice.queue 9).st = QSt.resident ∧ qSlice.readyOf (9 / 256) ≠ []) ∧
    (qReady2.galleyRuns = true ∧ qReady2.slotsUsed < 256 ∧ roundRobin 16 qReady2.gal.rr qReady2.slotDue = some 0 ∧
      qReady2.grantChoice 0 = some 7) ∧
    (qIdle.takes (Who.core 0) (Instr.cheadWrite (Who.core 0) 5 (1 : BitVec 16)) = true ∧ whoPart (Who.core 0) = 5 / 256) :=
  ⟨by decide +kernel,
   by decide +kernel,
   by decide +kernel,
   by decide +kernel⟩

theorem test_sealFetchMachine_met :
    ((qRead (sealed []) (9 : BitVec 7)).galleyRuns = true ∧ ((qRead (sealed []) (9 : BitVec 7)).queue 5).st = QSt.resident ∧
      ((qRead (sealed []) (9 : BitVec 7)).queue 5).fetch.st = FetchSt.reading ∧
      ((qRead (sealed []) (9 : BitVec 7)).reqsOf fun x => x == Owner.ring 5) ≠ [] ∧
      (qRead (sealed []) (9 : BitVec 7)).answers (Reply.data []) ((qRead (sealed []) (9 : BitVec 7)).reqsOf fun x => x == Owner.ring 5) = some (Reply.data (sealed []))) ∧
    ((qAgain (63 : BitVec 7)).galleyRuns = true ∧ ((qAgain (63 : BitVec 7)).queue 5).st = QSt.resident ∧
      ((qAgain (63 : BitVec 7)).queue 5).fetch.st = FetchSt.rereading ∧ ((qAgain (63 : BitVec 7)).queue 5).rereads.toNat < 64) ∧
    ((qReread (sealed []) 64).galleyRuns = true ∧ ((qReread (sealed []) 64).queue 5).st = QSt.resident ∧
      ((qReread (sealed []) 64).queue 5).fetch.st = FetchSt.rereading ∧
      ((qReread (sealed []) 64).reqsOf fun x => x == Owner.reread 5 64) ≠ [] ∧
      (qReread (sealed []) 64).answers (Reply.data []) ((qReread (sealed []) 64).reqsOf fun x => x == Owner.reread 5 64) = some (Reply.data (sealed []))) ∧
    (qQuiet.galleyRuns = true ∧ (qQuiet.queue 5).st = QSt.resident ∧ (qQuiet.queue 5).fetch.st = FetchSt.quiet ∧
      (qQuiet.queue 5).head ≠ (qQuiet.queue 5).tail) :=
  ⟨by decide +kernel,
   by decide +kernel,
   by decide +kernel,
   by decide +kernel⟩

theorem test_queueControlsAndTheirEnd_met :
    ((qOf QSt.halted).takes (Who.core 0) (Instr.qctlEnable (Who.core 0)) = true ∧ (qOf QSt.halted).selQueue (Who.core 0) = some 0 ∧
      ((qOf QSt.halted).queue 0).st ≠ QSt.disabled ∧ (qOf QSt.halted).takes (Who.core 0) (Instr.qctlDisable (Who.core 0)) = true ∧
      (¬(((qOf QSt.halted).queue 0).st = QSt.disabled ∨ ((qOf QSt.halted).queue 0).st = QSt.resetting ∨ ((qOf QSt.halted).queue 0).st = QSt.draining)) ∧
      (qOf QSt.halted).takes (Who.core 0) (Instr.qctlResume (Who.core 0)) = true ∧ ((qOf QSt.halted).queue 0).st = QSt.halted ∧
      (qOf QSt.halted).takes (Who.core 0) (Instr.qctlReset (Who.core 0)) = true ∧ ((qOf QSt.halted).queue 0).st ≠ QSt.resetting) ∧
    (qOkOff.takes (Who.core 0) (Instr.qctlEnable (Who.core 0)) = true ∧ qOkOff.selQueue (Who.core 0) = some 0 ∧
      (qOkOff.queue 0).st = QSt.disabled ∧ qOkOff.configOk 0 = true ∧ qOkOff.takes (Who.core 0) (Instr.qctlDisable (Who.core 0)) = true ∧
      ((qOkOff.queue 0).st = QSt.disabled ∨ (qOkOff.queue 0).st = QSt.resetting ∨ (qOkOff.queue 0).st = QSt.draining) ∧
      qOkOff.takes (Who.core 0) (Instr.qctlResume (Who.core 0)) = true ∧ (qOkOff.queue 0).st ≠ QSt.halted ∧
      qOkOff.takes (Who.core 0) (Instr.qctlReset (Who.core 0)) = true) ∧
    ((qOf QSt.resetting).galleyRuns = true ∧ ((qOf QSt.resetting).queue 0).st = QSt.resetting ∧ (qOf QSt.resetting).inFlight 0 = []) ∧
    ((qOf QSt.draining).galleyRuns = true ∧ ((qOf QSt.draining).queue 0).st = QSt.draining ∧ (qOf QSt.draining).inFlight 0 = []) ∧
    (State.reset.takes (Who.core 0) (Instr.qctlEnable (Who.core 0)) = true ∧ State.reset.selQueue (Who.core 0) = some 0 ∧
      (State.reset.queue 0).st = QSt.disabled ∧ State.reset.configOk 0 = false) ∧
    ((qOf QSt.resetting).takes (Who.core 0) (Instr.qctlReset (Who.core 0)) = true ∧ (qOf QSt.resetting).selQueue (Who.core 0) = some 0 ∧
      ((qOf QSt.resetting).queue 0).st = QSt.resetting) :=
  ⟨by decide +kernel,
   by decide +kernel,
   by decide +kernel,
   by decide +kernel,
   by decide +kernel,
   by decide +kernel⟩

theorem test_commandsEndInOrder_met :
    (recOut.galleyRuns = true ∧ recOut.cmd? 5 (6 : BitVec 16) = some dRo ∧
      List.find? (fun x => x.owner == Owner.record 5 (6 : BitVec 16)) recOut.reqs = some rRo ∧ dRo.aborted = false ∧
      recOut.writeBack rRo WReply.done = some (WReply.done, recOut.performWrite 4096 (zeros 64) (List.replicate 64 true))) ∧
    (endRec.galleyRuns = true ∧ endRec.cmd? 5 (6 : BitVec 16) = some dRec ∧ dRec.st = CmdSt.ended ∧ dRec.hostLast = none ∧
      dRec.needsRecord = true) ∧
    (flush5.galleyRuns = true ∧ flush5.cmd? 5 (6 : BitVec 16) = some dFl ∧ dFl.st = CmdSt.flushing ∧ dFl.aborted = false ∧
      flush5.serving 9 (flush5.linkOf dFl.part / 2) = true ∧ (flush5.queue 5).st.canHalt = true) ∧
    (endTal.galleyRuns = true ∧ endTal.cmd? 5 (6 : BitVec 16) = some dTal ∧ dTal.st = CmdSt.ended ∧ dTal.hostLast = none ∧
      dTal.needsRecord = false ∧ slugCt dTal.slug = true ∧ dTal.noTally = false) ∧
    (flushRec.galleyRuns = true ∧ flushRec.cmd? 5 (6 : BitVec 16) = some dFr ∧ dFr.st = CmdSt.flushing ∧ dFr.aborted = false ∧
      flushRec.serving 9 (flushRec.linkOf dFr.part / 2) = true ∧ dFr.needsRecord = true) ∧
    (flush5.galleyRuns = true ∧ flush5.cmd? 5 (6 : BitVec 16) = some dFl ∧ dFl.st = CmdSt.flushing ∧ dFl.aborted = false ∧
      flush5.serving 9 (flush5.linkOf dFl.part / 2) = true ∧ dFl.needsRecord = false) :=
  ⟨by decide +kernel,
   by decide +kernel,
   by decide +kernel,
   by decide +kernel,
   by decide +kernel,
   by decide +kernel⟩

theorem test_recordLayouts_met :
    (0 < 16 ∧ eTile.va < 2 ^ 57 ∧ eTile.fid < 2 ^ 16 ∧ eTile.cause < 16 ∧ eTile.level < 16 ∧ 0 < 4 ∧
      (∀ (q : Nat), eTile.queue = some q → q < 4096) ∧ eTile.queue = none) ∧
    (dLay.queue < 4096 ∧ List.length dLay.detail ≤ 30 ∧ 3 < 4) :=
  ⟨by decide +kernel,
   by decide +kernel⟩

theorem test_commandsCommit_met :
    (cTset.commits 5 64 = true ∧ (cTset.tally (numAt (cTset.queue 5).fetch.slug 12 2)).owner = some (5 / 256)) ∧
    ((80, Instr.invalidate 5) ∈ [(0, Instr.nop 5), (1, Instr.marker 5), (16, Instr.move 5), (17, Instr.put 5), (32, Instr.gather 5), (33, Instr.scatter 5), (34, Instr.swatch 5), (48, Instr.stage 5), (49, Instr.swap 5), (50, Instr.retire 5), (64, Instr.tset 5), (65, Instr.tadd 5), (66, Instr.wcommit 5), (80, Instr.invalidate 5)] ∧
      cForeign.galleyRuns = true ∧ (cForeign.queue 5).st = QSt.resident ∧ (cForeign.queue 5).fetch.st = FetchSt.accepted ∧
      slugOpcode (cForeign.queue 5).fetch.slug = 80 ∧ cForeign.err.halt = false ∧ cForeign.unmet (5) (cForeign.queue 5).fetch.slug = none ∧
      cForeign.foreignTally (5) (cForeign.queue 5).fetch.slug = true ∧ cForeign.cmd? (5) (cForeign.queue 5).head = none) ∧
    ((1, Instr.marker 5) ∈ [(0, Instr.nop 5), (1, Instr.marker 5), (16, Instr.move 5), (17, Instr.put 5), (32, Instr.gather 5), (33, Instr.scatter 5), (34, Instr.swatch 5), (48, Instr.stage 5), (49, Instr.swap 5), (50, Instr.retire 5), (64, Instr.tset 5), (65, Instr.tadd 5), (66, Instr.wcommit 5), (80, Instr.invalidate 5)] ∧
      cFence.galleyRuns = true ∧ (cFence.queue 5).st = QSt.resident ∧ (cFence.queue 5).fetch.st = FetchSt.accepted ∧
      slugOpcode (cFence.queue 5).fetch.slug = 1 ∧ cFence.err.halt = false ∧ cFence.unmet (5) (cFence.queue 5).fetch.slug = some 2) ∧
    (acc 5 (bytesAt 64 [])).commits 5 0 = true ∧
    (acc 5 (bytesAt 64 [(0, (1 : Byte))])).commits 5 1 = true ∧
    (cTsetNo.commits 5 64 = true ∧ (cTsetNo.tally (numAt (cTsetNo.queue 5).fetch.slug 12 2)).owner ≠ some (5 / 256)) ∧
    ((16, Instr.move 5) ∈ [(0, Instr.nop 5), (1, Instr.marker 5), (16, Instr.move 5), (17, Instr.put 5), (32, Instr.gather 5), (33, Instr.scatter 5), (34, Instr.swatch 5), (48, Instr.stage 5), (49, Instr.swap 5), (50, Instr.retire 5), (64, Instr.tset 5), (65, Instr.tadd 5), (66, Instr.wcommit 5), (80, Instr.invalidate 5)] ∧
      cHalt.galleyRuns = true ∧ (cHalt.queue 5).st = QSt.resident ∧ (cHalt.queue 5).fetch.st = FetchSt.accepted ∧
      slugOpcode (cHalt.queue 5).fetch.slug = 16 ∧ cHalt.err.halt = true) :=
  ⟨by decide +kernel,
   by decide +kernel,
   by decide +kernel,
   by decide +kernel,
   by decide +kernel,
   by decide +kernel,
   by decide +kernel⟩

theorem test_invalidateTaddAndWcommit_met :
    (acc 5 (bytesAt 64 [(0, (65 : Byte)), (16, (8 : Byte)), (24, (5 : Byte))])).commits 5 65 = true ∧
    ((acc 5 (bytesAt 64 [(0, (66 : Byte)), (12, (7 : Byte))])).commits 5 66 = true ∧ 5 / 256 = 0 ∧
      ((acc 5 (bytesAt 64 [(0, (66 : Byte)), (12, (7 : Byte))])).takeEffect (numAt ((acc 5 (bytesAt 64 [(0, (66 : Byte)), (12, (7 : Byte))])).queue 5).fetch.slug 12 2 % 1024)).commitRsn (numAt ((acc 5 (bytesAt 64 [(0, (66 : Byte)), (12, (7 : Byte))])).queue 5).fetch.slug 12 2 % 1024) = 0) ∧
    (cInv.commits 5 80 = true ∧ bits (numAt (cInv.queue 5).fetch.slug 12 1) 1 0 ≠ 3 ∧
      cInv.present (if 5 / 256 = 0 then bits (numAt (cInv.queue 5).fetch.slug 14 1) 3 0 else 5 / 256) = true) ∧
    ((acc 5 (bytesAt 64 [(0, (80 : Byte)), (12, (3 : Byte))])).commits 5 80 = true ∧
      (bits (numAt ((acc 5 (bytesAt 64 [(0, (80 : Byte)), (12, (3 : Byte))])).queue 5).fetch.slug 12 1) 1 0 = 3 ∨ (acc 5 (bytesAt 64 [(0, (80 : Byte)), (12, (3 : Byte))])).present (if 5 / 256 = 0 then bits (numAt ((acc 5 (bytesAt 64 [(0, (80 : Byte)), (12, (3 : Byte))])).queue 5).fetch.slug 14 1) 3 0 else 5 / 256) = false)) ∧
    ((acc 261 (bytesAt 64 [(0, (66 : Byte)), (12, (7 : Byte))])).commits 261 66 = true ∧ 261 / 256 ≠ 0) ∧
    (cWbad.commits 5 66 = true ∧ 5 / 256 = 0 ∧
      (cWbad.takeEffect (numAt (cWbad.queue 5).fetch.slug 12 2 % 1024)).commitRsn (numAt (cWbad.queue 5).fetch.slug 12 2 % 1024) ≠ 0) :=
  ⟨by decide +kernel,
   by decide +kernel,
   by decide +kernel,
   by decide +kernel,
   by decide +kernel,
   by decide +kernel⟩

theorem test_epochCommands_met :
    ((staged (acc 5 swap2)).commits 5 49 = true ∧
      ((swapTables ((staged (acc 5 swap2)).queue 5).fetch.slug).all fun t => !(staged (acc 5 swap2)).flipPending (512 * (5 / 256) + t)) = true ∧
      (staged (acc 5 swap2)).swapCheck (5 / 256) ((staged (acc 5 swap2)).queue 5).fetch.slug = none ∧
      swapTables ((staged (acc 5 swap2)).queue 5).fetch.slug ≠ [] ∧
      ((swapTables ((staged (acc 5 swap2)).queue 5).fetch.slug).any fun t => decide (t ≤ 511) && (staged (acc 5 swap2)).flipPending (512 * (5 / 256) + t)) = false) ∧
    (stageOk.commits 5 48 = true ∧ numAt (stageOk.queue 5).fetch.slug 12 2 ≤ 511 ∧
      stageOk.flipPending (512 * (5 / 256) + numAt (stageOk.queue 5).fetch.slug 12 2) = false ∧
      (((stageOk.table (512 * (5 / 256) + numAt (stageOk.queue 5).fetch.slug 12 2)).slot (stageOk.table (512 * (5 / 256) + numAt (stageOk.queue 5).fetch.slug 12 2)).idleB).st = SlotSt.free ∨ ((stageOk.table (512 * (5 / 256) + numAt (stageOk.queue 5).fetch.slug 12 2)).slot (stageOk.table (512 * (5 / 256) + numAt (stageOk.queue 5).fetch.slug 12 2)).idleB).st = SlotSt.staged)) ∧
    ((gTab (acc 5 (retire3 (0 : Byte)))).commits 5 50 = true ∧ numAt ((gTab (acc 5 (retire3 (0 : Byte)))).queue 5).fetch.slug 12 2 ≤ 511 ∧
      (gTab (acc 5 (retire3 (0 : Byte)))).flipPending (512 * (5 / 256) + numAt ((gTab (acc 5 (retire3 (0 : Byte)))).queue 5).fetch.slug 12 2) = false ∧
      ((gTab (acc 5 (retire3 (0 : Byte)))).table (512 * (5 / 256) + numAt ((gTab (acc 5 (retire3 (0 : Byte)))).queue 5).fetch.slug 12 2)).valid = true) ∧
    (stageDrain.commits 5 48 = true ∧ numAt (stageDrain.queue 5).fetch.slug 12 2 ≤ 511 ∧
      stageDrain.flipPending (512 * (5 / 256) + numAt (stageDrain.queue 5).fetch.slug 12 2) = false ∧
      (((stageDrain.table (512 * (5 / 256) + numAt (stageDrain.queue 5).fetch.slug 12 2)).slot (stageDrain.table (512 * (5 / 256) + numAt (stageDrain.queue 5).fetch.slug 12 2)).idleB).st = SlotSt.draining ∨ ((stageDrain.table (512 * (5 / 256) + numAt (stageDrain.queue 5).fetch.slug 12 2)).slot (stageDrain.table (512 * (5 / 256) + numAt (stageDrain.queue 5).fetch.slug 12 2)).idleB).st = SlotSt.purging)) ∧
    ((acc 5 (bytesAt 64 [(0, (48 : Byte)), (13, (2 : Byte))])).commits 5 48 = true ∧
      511 < numAt ((acc 5 (bytesAt 64 [(0, (48 : Byte)), (13, (2 : Byte))])).queue 5).fetch.slug 12 2) ∧
    ((acc 5 swap2).commits 5 49 = true ∧
      ((swapTables ((acc 5 swap2).queue 5).fetch.slug).any fun t => decide (t ≤ 511) && (acc 5 swap2).flipPending (512 * (5 / 256) + t)) = false ∧
      (acc 5 swap2).swapCheck (5 / 256) ((acc 5 swap2).queue 5).fetch.slug = some 16) ∧
    ((acc 5 swap0).commits 5 49 = true ∧ swapTables ((acc 5 swap0).queue 5).fetch.slug = [] ∧
      (acc 5 swap0).swapCheck (5 / 256) ((acc 5 swap0).queue 5).fetch.slug = none) ∧
    ((acc 5 (retire3 (2 : Byte))).commits 5 50 = true ∧ 511 < numAt ((acc 5 (retire3 (2 : Byte))).queue 5).fetch.slug 12 2) ∧
    ((acc 5 (retire3 (1 : Byte))).commits 5 50 = true ∧ numAt ((acc 5 (retire3 (1 : Byte))).queue 5).fetch.slug 12 2 ≤ 511 ∧
      (acc 5 (retire3 (1 : Byte))).flipPending (512 * (5 / 256) + numAt ((acc 5 (retire3 (1 : Byte))).queue 5).fetch.slug 12 2) = false ∧
      ((acc 5 (retire3 (1 : Byte))).table (512 * (5 / 256) + numAt ((acc 5 (retire3 (1 : Byte))).queue 5).fetch.slug 12 2)).valid = false) ∧
    (stageHeld.commits 5 48 = true ∧ numAt (stageHeld.queue 5).fetch.slug 12 2 ≤ 511 ∧
      stageHeld.flipPending (512 * (5 / 256) + numAt (stageHeld.queue 5).fetch.slug 12 2) = true) ∧
    (swapHeld.commits 5 49 = true ∧
      ((swapTables (swapHeld.queue 5).fetch.slug).any fun t => decide (t ≤ 511) && swapHeld.flipPending (512 * (5 / 256) + t)) = true) ∧
    (retHeld.commits 5 50 = true ∧ numAt (retHeld.queue 5).fetch.slug 12 2 ≤ 511 ∧
      retHeld.flipPending (512 * (5 / 256) + numAt (retHeld.queue 5).fetch.slug 12 2) = true) :=
  ⟨by decide +kernel,
   by decide +kernel,
   by decide +kernel,
   by decide +kernel,
   by decide +kernel,
   by decide +kernel,
   by decide +kernel,
   by decide +kernel,
   by decide +kernel,
   by decide +kernel,
   by decide +kernel,
   by decide +kernel⟩

theorem test_engineCommandsCommit_met :
    ((32, Instr.gather 5) ∈ [(32, Instr.gather 5), (33, Instr.scatter 5)] ∧ (gathRun false).commits 5 32 = true ∧
      (¬(gTable ((gathRun false).queue 5).fetch.slug ≤ 511 ∧
      (gathRun false).flipPending (512 * (5 / 256) + gTable ((gathRun false).queue 5).fetch.slug) = true)) ∧
      gatherCheck ((gathRun false).queue 5).fetch.slug ((gathRun false).table (512 * (5 / 256) + gTable ((gathRun false).queue 5).fetch.slug)).valid = none ∧
      gNbag ((gathRun false).queue 5).fetch.slug ≠ 0 ∧ (gathRun false).chooseComp 5 = some 0) ∧
    ((16, Instr.move 5) ∈ [(16, Instr.move 5), (17, Instr.put 5)] ∧ (quota (acc 5 move64)).commits 5 16 = true ∧
      engineCheck ((quota (acc 5 move64)).queue 5).fetch.slug = none ∧ (dstShape ((quota (acc 5 move64)).queue 5).fetch.slug).bytes ≠ 0) ∧
    (swStaged.commits 5 34 = true ∧ numAt (swStaged.queue 5).fetch.slug 12 2 ≤ 511 ∧
      swStaged.flipPending (512 * (5 / 256) + numAt (swStaged.queue 5).fetch.slug 12 2) = false ∧
      ((swStaged.table (512 * (5 / 256) + numAt (swStaged.queue 5).fetch.slug 12 2)).slot (swSlotB (swStaged.queue 5).fetch.slug)).st = SlotSt.staged) ∧
    ((33, Instr.scatter 5) ∈ [(32, Instr.gather 5), (33, Instr.scatter 5)] ∧ (acc 5 (gath true)).commits 5 33 = true ∧
      (¬(gTable ((acc 5 (gath true)).queue 5).fetch.slug ≤ 511 ∧
      (acc 5 (gath true)).flipPending (512 * (5 / 256) + gTable ((acc 5 (gath true)).queue 5).fetch.slug) = true)) ∧
      gatherCheck ((acc 5 (gath true)).queue 5).fetch.slug ((acc 5 (gath true)).table (512 * (5 / 256) + gTable ((acc 5 (gath true)).queue 5).fetch.slug)).valid = some 3) ∧
    ((32, Instr.gather 5) ∈ [(32, Instr.gather 5), (33, Instr.scatter 5)] ∧ (gTab (acc 5 gathNone)).commits 5 32 = true ∧
      (¬(gTable ((gTab (acc 5 gathNone)).queue 5).fetch.slug ≤ 511 ∧
      (gTab (acc 5 gathNone)).flipPending (512 * (5 / 256) + gTable ((gTab (acc 5 gathNone)).queue 5).fetch.slug) = true)) ∧
      gatherCheck ((gTab (acc 5 gathNone)).queue 5).fetch.slug ((gTab (acc 5 gathNone)).table (512 * (5 / 256) + gTable ((gTab (acc 5 gathNone)).queue 5).fetch.slug)).valid = none ∧
      gNbag ((gTab (acc 5 gathNone)).queue 5).fetch.slug = 0) ∧
    ((acc 5 (swatchOf (2 : Byte))).commits 5 34 = true ∧ 511 < numAt ((acc 5 (swatchOf (2 : Byte))).queue 5).fetch.slug 12 2) ∧
    ((acc 5 (swatchOf (1 : Byte))).commits 5 34 = true ∧ numAt ((acc 5 (swatchOf (1 : Byte))).queue 5).fetch.slug 12 2 ≤ 511 ∧
      (acc 5 (swatchOf (1 : Byte))).flipPending (512 * (5 / 256) + numAt ((acc 5 (swatchOf (1 : Byte))).queue 5).fetch.slug 12 2) = false ∧
      (((acc 5 (swatchOf (1 : Byte))).table (512 * (5 / 256) + numAt ((acc 5 (swatchOf (1 : Byte))).queue 5).fetch.slug 12 2)).slot (swSlotB ((acc 5 (swatchOf (1 : Byte))).queue 5).fetch.slug)).st ≠ SlotSt.staged) ∧
    ((16, Instr.move 5) ∈ [(16, Instr.move 5), (17, Instr.put 5)] ∧ (quota (acc 5 moveNone)).commits 5 16 = true ∧
      engineCheck ((quota (acc 5 moveNone)).queue 5).fetch.slug = none ∧ (dstShape ((quota (acc 5 moveNone)).queue 5).fetch.slug).bytes = 0) ∧
    ((32, Instr.gather 5) ∈ [(32, Instr.gather 5), (33, Instr.scatter 5)] ∧ gathHeld.commits 5 32 = true ∧
      (gTable (gathHeld.queue 5).fetch.slug ≤ 511 ∧ gathHeld.flipPending (512 * (5 / 256) + gTable (gathHeld.queue 5).fetch.slug) = true)) ∧
    (swatchHeld.commits 5 34 = true ∧ numAt (swatchHeld.queue 5).fetch.slug 12 2 ≤ 511 ∧
      swatchHeld.flipPending (512 * (5 / 256) + numAt (swatchHeld.queue 5).fetch.slug 12 2) = true) :=
  ⟨by decide +kernel,
   by decide +kernel,
   by decide +kernel,
   by decide +kernel,
   by decide +kernel,
   by decide +kernel,
   by decide +kernel,
   by decide +kernel,
   by decide +kernel,
   by decide +kernel⟩

theorem test_translationAndItsEnds_met :
    ((tHeld true).serving 2 0 = true ∧ (tHeld true).dom 3 = Dom.run ∧ tileReq.phys = false ∧ (tHeld true).req? 3 = some tileReq ∧
      (tHeld true).canPresent tileReq = true ∧ (tHeld true).bound tileReq.part = false ∧ (tHeld true).fromProof tileReq = none ∧
      (tHeld true).ctxValid tileReq.ctx = true ∧
      ((tHeld true).atsHalf tileReq.ctx tileReq.va = true → ((tHeld true).fn tileReq.part).ats = true) ∧
      (tHeld true).slotOf tileReq.ctx ≠ none ∧ (tHeld true).edgeHit tileReq.owner.edge tileReq.ctx tileReq.va = none ∧
      (tHeld true).folioHit tileReq.ctx tileReq.va = none ∧ (tHeld true).heldXlt tileReq.owner tileReq.ctx tileReq.va = none ∧
      (∀ (w : Walk), w ∈ (tHeld true).trn.walks → w.ctx = tileReq.ctx → w.va / 4096 ≠ tileReq.va / 4096)) ∧
    ((unlim tPeer).serving 2 0 = true ∧ (unlim tPeer).dom 3 = Dom.run ∧ tileReq.phys = false ∧ (unlim tPeer).req? 3 = some tileReq ∧
      (unlim tPeer).canPresent tileReq = true ∧ (unlim tPeer).bound tileReq.part = false ∧ (unlim tPeer).fromProof tileReq = none ∧
      (unlim tPeer).ctxValid tileReq.ctx = true ∧
      ((unlim tPeer).atsHalf tileReq.ctx tileReq.va = true → ((unlim tPeer).fn tileReq.part).ats = true) ∧
      (unlim tPeer).slotOf tileReq.ctx ≠ none ∧ (unlim tPeer).edgeHit tileReq.owner.edge tileReq.ctx tileReq.va = some peerLeaf ∧
      peerLeaf.grants tileReq.acc = true ∧ tileReq.owner = Owner.tile 63 2 ∧ tileReq.replay = none ∧ tileReq.grp = 0 ∧
      peerLeaf.output tileReq.va = Out.peer 458752 ∧ (unlim tPeer).spent tileReq.part = false) ∧
    ((coreOk.admits (Instr.boundModeRequest (BReq.core 7 (4096 : BitVec 57) Acc.read 8 [] AtomOp.add (0 : W64) (0 : W64))) = true ∧
      coreOk.coreClosed 7 = false ∧ (∀ (r : Req), r ∈ coreOk.reqs → r.src ≠ BitVec.ofNat 9 (256 + 7)) ∧
      coreOk.grantedAll (coreOk.prt.tcact.get (0 : BitVec 4) 7).toNat (BitVec.toNat (4096 : BitVec 57)) 8 Acc.read false = true ∧
      anyRegs (BitVec.toNat (4096 : BitVec 57)) 8 = false ∧ anyUnassigned (BitVec.toNat (4096 : BitVec 57)) 8 = false ∧
      coreOk.anyClosed (BitVec.toNat (4096 : BitVec 57)) 8 = false ∧ coreOk.anyOff (BitVec.toNat (4096 : BitVec 57)) 8 = false ∧
      coreOk.veil = [] ∧ Memory.wf coreOk.mem = true ∧ coreOk.poisoned (BitVec.toNat (4096 : BitVec 57)) 8 = false) ∧ coreOk.fresh ∧
      (∀ (b : Nat), BitVec.toNat (4096 : BitVec 57) / 64 * 64 ≤ b → b < BitVec.toNat (4096 : BitVec 57) + 8 + 64 → coreOk.inWindow b = false)) ∧
    ((coreOk.admits (Instr.boundModeRequest (BReq.core 7 (16777208 : BitVec 57) Acc.write 8 [(1 : Byte), (2 : Byte), (3 : Byte), (4 : Byte), (5 : Byte), (6 : Byte), (7 : Byte), (8 : Byte)] AtomOp.add (0 : W64) (0 : W64))) = true ∧
      coreOk.coreClosed 7 = false ∧ (∀ (r : Req), r ∈ coreOk.reqs → r.src ≠ BitVec.ofNat 9 (256 + 7)) ∧
      coreOk.grantedAll (coreOk.prt.tcact.get (0 : BitVec 4) 7).toNat (BitVec.toNat (16777208 : BitVec 57)) 8 Acc.write false = true ∧
      anyRegs (BitVec.toNat (16777208 : BitVec 57)) 8 = false ∧ anyUnassigned (BitVec.toNat (16777208 : BitVec 57)) 8 = false ∧
      coreOk.anyClosed (BitVec.toNat (16777208 : BitVec 57)) 8 = false ∧ coreOk.anyOff (BitVec.toNat (16777208 : BitVec 57)) 8 = false ∧
      coreOk.veil = [] ∧ Memory.wf coreOk.mem = true ∧
      8 ≤ [(1 : Byte), (2 : Byte), (3 : Byte), (4 : Byte), (5 : Byte), (6 : Byte), (7 : Byte), (8 : Byte)].length) ∧ coreOk.fresh ∧
      (∀ (b : Nat), BitVec.toNat (16777208 : BitVec 57) / 64 * 64 ≤ b → b < BitVec.toNat (16777208 : BitVec 57) + 8 + 64 → coreOk.inWindow b = false)) ∧
    ((coreOk.admits (Instr.boundModeRequest (BReq.core 7 (4096 : BitVec 57) Acc.atomic 8 [] AtomOp.add (1 : W64) (0 : W64))) = true ∧
      coreOk.coreClosed 7 = false ∧ (∀ (r : Req), r ∈ coreOk.reqs → r.src ≠ BitVec.ofNat 9 (256 + 7)) ∧
      coreOk.grantedAll (coreOk.prt.tcact.get (0 : BitVec 4) 7).toNat (BitVec.toNat (4096 : BitVec 57)) 8 Acc.atomic false = true ∧
      anyRegs (BitVec.toNat (4096 : BitVec 57)) 8 = false ∧ anyUnassigned (BitVec.toNat (4096 : BitVec 57)) 8 = false ∧
      coreOk.anyClosed (BitVec.toNat (4096 : BitVec 57)) 8 = false ∧ coreOk.anyOff (BitVec.toNat (4096 : BitVec 57)) 8 = false ∧
      coreOk.veil = [] ∧ Memory.wf coreOk.mem = true ∧ coreOk.poisoned (BitVec.toNat (4096 : BitVec 57)) 8 = false) ∧ coreOk.fresh ∧
      (∀ (b : Nat), BitVec.toNat (4096 : BitVec 57) / 64 * 64 ≤ b → b < BitVec.toNat (4096 : BitVec 57) + 8 + 64 → coreOk.inWindow b = false)) ∧
    ((tHeld false).serving 2 0 = true ∧ (tHeld false).dom 3 = Dom.run ∧ tileReq.phys = false ∧ (tHeld false).req? 3 = some tileReq ∧
      (tHeld false).canPresent tileReq = true ∧ (tHeld false).bound tileReq.part = false ∧ (tHeld false).fromProof tileReq = none ∧
      (tHeld false).ctxValid tileReq.ctx = true ∧
      ((tHeld false).atsHalf tileReq.ctx tileReq.va = true → ((tHeld false).fn tileReq.part).ats = true) ∧
      (tHeld false).slotOf tileReq.ctx = none) ∧
    (State.reset.admits (Instr.translate (XReq.tile 63 3 (0 : BitVec 57) Acc.write 32 (zeros 32) AtomOp.add (0 : W64) (0 : W64))) = true ∧
      State.reset.tileClosed 63 = false) :=
  ⟨by decide +kernel,
   by decide +kernel,
   ⟨by decide +kernel, by unfold State.fresh; decide +kernel, by intro b _ _; rfl⟩,
   ⟨by decide +kernel, by unfold State.fresh; decide +kernel, by intro b _ _; rfl⟩,
   ⟨by decide +kernel, by unfold State.fresh; decide +kernel, by intro b _ _; rfl⟩,
   by decide +kernel,
   by decide +kernel⟩

theorem test_walksStartAndFill_met :
    (missRanged.serving 2 0 = true ∧ missRanged.walkerFor = some (0, false) ∧ missRanged.nextMiss 0 = some exWalksStartAndFill1 ∧
      missRanged.walkerOpen 47 = true ∧ missRanged.unitIn 3 47 = true ∧
      missRanged.atsHalf exWalksStartAndFill1.ctx exWalksStartAndFill1.va = false ∧
      missRanged.walkBar (missRanged.missWalk 47 0 exWalksStartAndFill1) = none) ∧
    ((staleRanged.serving 2 0 = true ∧ staleRanged.walk? 47 = some exWalksStartAndFill2 ∧
      exWalksStartAndFill2.st = WalkSt.filling fillLeaf ∧ staleRanged.walkStale exWalksStartAndFill2 = true ∧
      staleRanged.ctxValid exWalksStartAndFill2.ctx = true ∧ staleRanged.atsHalf exWalksStartAndFill2.ctx exWalksStartAndFill2.va = false ∧
      staleRanged.walkBar { (staleRanged.rootWalk exWalksStartAndFill2) with fails := exWalksStartAndFill2.fails + 1 } = none) ∧
      staleRanged.distinct) ∧
    ((ctxWaits.serving 2 0 = true ∧ (∃ r, r ∈ ctxWaits.reqs ∧ r.st = ReqSt.ctxWait ∧ r.ctx = 0) ∧ ctxWaits.slotOf 0 = none ∧
      ctxWaits.slotFor 0 = some 0 ∧ ctxWaits.ctxValid 0 = true ∧ ctxWaits.ctxAts 0 = false ∧
      (∀ (r : Req), r ∈ ctxWaits.reqs → r.ctx = 0 → ctxWaits.bound r.part = false) ∧
      (∀ (e : XEntry), e ∈ ctxWaits.trn.edge ++ ctxWaits.trn.folio → e.ctx ≠ 0) ∧ (∀ (w : Walk), w ∈ ctxWaits.trn.walks → w.ctx ≠ 0) ∧
      (∀ (r : Req), r ∈ ctxWaits.reqs → ctxWaits.heldXlt r.owner (0) r.va = none)) ∧ ctxWaits.distinct) ∧
    (missAtsOn.serving 2 0 = true ∧ missAtsOn.walkerFor = some (0, false) ∧ missAtsOn.nextMiss 0 = some exWalksStartAndFill1 ∧
      missAtsOn.walkerOpen 47 = true ∧ missAtsOn.unitIn 3 47 = true ∧
      missAtsOn.atsHalf exWalksStartAndFill1.ctx exWalksStartAndFill1.va = true ∧ (missAtsOn.fn 0).ats = true ∧ missAtsOn.canSend 0 = true ∧
      missAtsOn.tagRoom 0 1 = true) ∧
    ((filling.serving 2 0 = true ∧ filling.walk? 47 = some exWalksStartAndFill2 ∧ exWalksStartAndFill2.st = WalkSt.filling fillLeaf ∧
      filling.walkStale exWalksStartAndFill2 = false ∧ exWalksStartAndFill2.proof = none ∧ fillLeaf.typ = (2 : BitVec 2) ∧
      fillLeaf.unt = false ∧ filling.quotaFolio (fillLeaf.ctx / 64) ≠ 0) ∧ filling.distinct ∧
      (∀ (r : Req), r ∈ filling.waiters 47 → fillLeaf.grants r.acc = true ∧ (∃ m k, r.owner = Owner.tile m k) ∧ r.replay = none ∧ r.grp = 0 ∧
      filling.unlimited r.part = true)) ∧
    ((atsOut.serving 2 0 = true ∧ atsOut.walk? 47 = some atsWalk ∧ atsWalk.st = WalkSt.ats ∧
      atsOut.serving 9 (atsOut.linkOf atsWalk.part / 2) = true ∧ atsOut.walkStale atsWalk = false ∧ (atsOut.fn atsWalk.part).ats = true ∧
      BitVec.toNat (262144 : BitVec 64) < 2 ^ 57 ∧ atsOut.waiters 47 = [onWalk tileReq] ∧ (onWalk tileReq).acc = Acc.read ∧
      (onWalk tileReq).owner = Owner.tile 63 2 ∧ (onWalk tileReq).replay = none ∧ (onWalk tileReq).grp = 0 ∧
      atsOut.unlimited (onWalk tileReq).part = true ∧ atsOut.canSend (onWalk tileReq).part = true ∧
      atsOut.tagRoom (onWalk tileReq).part (atsOut.tagNeed (onWalk tileReq) (((atsLeaf atsOut atsWalk (BitVec.toNat (262144 : BitVec 64)) (12) true true false).out + ((onWalk tileReq).va - (atsLeaf atsOut atsWalk (BitVec.toNat (262144 : BitVec 64)) (12) true true false).va)) % 2 ^ 57)) = true) ∧
      atsOut.distinct) :=
  ⟨by decide +kernel,
   ⟨by decide +kernel, by unfold State.distinct; decide +kernel⟩,
   ⟨by decide +kernel, by unfold State.distinct; decide +kernel⟩,
   by decide +kernel,
   ⟨by decide +kernel, by unfold State.distinct; decide +kernel, fillOk⟩,
   ⟨by decide +kernel, by unfold State.distinct; decide +kernel⟩⟩

theorem test_walksReadTheirTables_met :
    (((flt0 (reading 0) { en := true }).serving 2 0 = true ∧ (flt0 (reading 0) { en := true }).walk? 47 = some walk0 ∧
      walk0.st = WalkSt.reading ∧ (∀ (r : Req), r ∈ (flt0 (reading 0) { en := true }).reqs → r.owner ≠ Owner.walk 47) ∧ (flt0 (reading 0) { en := true }).trn.late.contains 47 = false ∧
      anyRegs walk0.entryAt 8 = false ∧ (flt0 (reading 0) { en := true }).anyOff walk0.entryAt 8 = false ∧
      (flt0 (reading 0) { en := true }).poisoned walk0.entryAt 8 = false ∧
      bit (leNat ((flt0 (reading 0) { en := true }).readMem walk0.entryAt 8)) 0 = false ∧
      (flt0 (reading 0) { en := true }).walkStale walk0 = false ∧ (flt0 (reading 0) { en := true }).waiters 47 = [onWalk tileReq] ∧
      (onWalk tileReq).owner = Owner.tile 63 2 ∧ (onWalk tileReq).replay = none ∧
      (flt0 (reading 0) { en := true }).joinable (onWalk tileReq).part (onWalk tileReq).ctx (onWalk tileReq).va 1 = none ∧
      ((flt0 (reading 0) { en := true }).fltp (onWalk tileReq).part).en = true ∧
      (flt0 (reading 0) { en := true }).entryQueue (onWalk tileReq).part = false ∧
      (flt0 (reading 0) { en := true }).freeEntry (onWalk tileReq).part = some 0) ∧ (flt0 (reading 0) { en := true }).distinct) ∧
    (((stale (reading1 36879)).serving 2 0 = true ∧ (stale (reading1 36879)).walk? 47 = some walk1 ∧ walk1.st = WalkSt.reading ∧
      (∀ (r : Req), r ∈ (stale (reading1 36879)).reqs → r.owner ≠ Owner.walk 47) ∧ (stale (reading1 36879)).trn.late.contains 47 = false ∧ anyRegs walk1.entryAt 8 = false ∧
      (stale (reading1 36879)).anyOff walk1.entryAt 8 = false ∧ (stale (reading1 36879)).poisoned walk1.entryAt 8 = false ∧
      bit (leNat ((stale (reading1 36879)).readMem walk1.entryAt 8)) 0 = true ∧
      pteBad (leNat ((stale (reading1 36879)).readMem walk1.entryAt 8)) walk1.level walk1.va = false ∧
      bit (leNat ((stale (reading1 36879)).readMem walk1.entryAt 8)) 1 = true ∧ (stale (reading1 36879)).walkStale walk1 = true ∧
      (stale (reading1 36879)).ctxValid walk1.ctx = true ∧ (stale (reading1 36879)).atsHalf walk1.ctx walk1.va = false ∧
      (stale (reading1 36879)).walkBar { ((stale (reading1 36879)).rootWalk walk1) with fails := walk1.fails + 1 } = none) ∧
      (stale (reading1 36879)).distinct) ∧
    (((reading 0).serving 2 0 = true ∧ (reading 0).walk? 47 = some walk0 ∧ walk0.st = WalkSt.reading ∧
      (∀ (r : Req), r ∈ (reading 0).reqs → r.owner ≠ Owner.walk 47) ∧ (reading 0).trn.late.contains 47 = false ∧ anyRegs walk0.entryAt 8 = false ∧ ECode.poison ≠ ECode.grant ∧
      (reading 0).walkStale walk0 = false ∧ (reading 0).waiters 47 = [onWalk tileReq] ∧ (onWalk tileReq).owner = Owner.tile 63 2 ∧
      (onWalk tileReq).replay = none ∧ (onWalk tileReq).grp = 0) ∧ (reading 0).distinct) ∧
    (((reading 36865).serving 2 0 = true ∧ (reading 36865).walk? 47 = some walk0 ∧ walk0.st = WalkSt.reading ∧
      (∀ (r : Req), r ∈ (reading 36865).reqs → r.owner ≠ Owner.walk 47) ∧ (reading 36865).trn.late.contains 47 = false ∧ anyRegs walk0.entryAt 8 = false ∧
      (reading 36865).anyOff walk0.entryAt 8 = false ∧ (reading 36865).poisoned walk0.entryAt 8 = false ∧
      bit (leNat ((reading 36865).readMem walk0.entryAt 8)) 0 = true ∧
      pteBad (leNat ((reading 36865).readMem walk0.entryAt 8)) walk0.level walk0.va = false ∧
      bit (leNat ((reading 36865).readMem walk0.entryAt 8)) 1 = false ∧
      (reading 36865).walkBar { walk0 with level := walk0.level - 1, table := bits (leNat ((reading 36865).readMem walk0.entryAt 8)) 51 12 * 4096, ptrs := walk0.ptrs ++ [pteNext (leNat ((reading 36865).readMem walk0.entryAt 8)) walk0.level (((reading 36865).slotOf walk0.ctx).getD 0) walk0.ctx walk0.va] } = none) ∧
      (reading 36865).distinct) ∧
    (((reading1 36879).serving 2 0 = true ∧ (reading1 36879).walk? 47 = some walk1 ∧ walk1.st = WalkSt.reading ∧
      (∀ (r : Req), r ∈ (reading1 36879).reqs → r.owner ≠ Owner.walk 47) ∧ (reading1 36879).trn.late.contains 47 = false ∧ anyRegs walk1.entryAt 8 = false ∧
      (reading1 36879).anyOff walk1.entryAt 8 = false ∧ (reading1 36879).poisoned walk1.entryAt 8 = false ∧
      bit (leNat ((reading1 36879).readMem walk1.entryAt 8)) 0 = true ∧
      pteBad (leNat ((reading1 36879).readMem walk1.entryAt 8)) walk1.level walk1.va = false ∧
      bit (leNat ((reading1 36879).readMem walk1.entryAt 8)) 1 = true ∧ (reading1 36879).walkStale walk1 = false ∧
      (∀ (r : Req), r ∈ (reading1 36879).waiters 47 → (pteLeaf (leNat ((reading1 36879).readMem walk1.entryAt 8)) walk1.level (((reading1 36879).slotOf walk1.ctx).getD 0) walk1.ctx walk1.va).grants r.acc = true)) ∧
      (reading1 36879).distinct) ∧
    ((unitS 3 47 USt.out lateS).serving 2 0 = true ∧ (unitS 3 47 USt.out lateS).trn.late.contains (47 : Fin 48).val = true ∧
      ((unitS 3 47 USt.out lateS).unit 3 (47 : Fin 48).val).st = USt.out) ∧
    ((unitS 3 47 USt.reloading lateS).serving 2 0 = true ∧ (unitS 3 47 USt.reloading lateS).trn.late.contains (47 : Fin 48).val = true ∧
      ((unitS 3 47 USt.reloading lateS).unit 3 (47 : Fin 48).val).st = USt.reloading) ∧
    (lateS.serving 2 0 = true ∧ lateS.trn.late.contains (47 : Fin 48).val = true ∧ (lateS.unit 3 (47 : Fin 48).val).st ≠ USt.out ∧
      (lateS.unit 3 (47 : Fin 48).val).st ≠ USt.reloading) :=
  ⟨⟨by decide +kernel, by unfold State.distinct; decide +kernel⟩,
   ⟨by decide +kernel, by unfold State.distinct; decide +kernel⟩,
   ⟨by decide +kernel, by unfold State.distinct; decide +kernel⟩,
   ⟨by decide +kernel, by unfold State.distinct; decide +kernel⟩,
   ⟨by decide +kernel, by unfold State.distinct; decide +kernel⟩,
   by decide +kernel,
   by decide +kernel,
   by decide +kernel⟩

theorem test_invalidationsAreOrdered_met :
    ((invDone (InvFrom.reg 0 (Who.core 0))).serving 2 0 = true ∧ (invDone (InvFrom.reg 0 (Who.core 0))).trn.invs = [invOne] ∧
      ((invDone (InvFrom.reg 0 (Who.core 0))).dom 3 = Dom.run ∨ (invDone (InvFrom.reg 0 (Who.core 0))).dom 3 = Dom.deep) ∧
      (invDone (InvFrom.reg 0 (Who.core 0))).invReady invOne = true ∧ invOne.by_ = InvFrom.reg 0 (Who.core 0)) ∧
    (wHeld.takes (Who.core 0) (Instr.invctlRange (Who.core 0) (0 : BitVec 4) (0 : BitVec 6)) = true ∧
      (Instr.invctlRange (Who.core 0) (0 : BitVec 4) (0 : BitVec 6), InvScope.range 0 0 0) ∈ [(Instr.invctlPartition (Who.core 0) (0 : BitVec 4), InvScope.part), (Instr.invctlContext (Who.core 0) (0 : BitVec 4) (0 : BitVec 6), InvScope.ctx ((64 * if isMgr (Who.core 0) = true then BitVec.toNat (0 : BitVec 4) else whoPart (Who.core 0)) + BitVec.toNat (0 : BitVec 6))), (Instr.invctlRange (Who.core 0) (0 : BitVec 4) (0 : BitVec 6), InvScope.range ((64 * if isMgr (Who.core 0) = true then BitVec.toNat (0 : BitVec 4) else whoPart (Who.core 0)) + BitVec.toNat (0 : BitVec 6)) (bits (BitVec.toNat (wHeld.trn.invaddr.get (0 : W64) (whoPart (Who.core 0)))) 56 12 * 4096) (bits (BitVec.toNat (wHeld.trn.invaddr.get (0 : W64) (whoPart (Who.core 0)))) 5 0))] ∧
      wHeld.present (if isMgr (Who.core 0) = true then BitVec.toNat (0 : BitVec 4) else whoPart (Who.core 0)) = true ∧
      wHeld.trn.busy.get false (whoPart (Who.core 0)) = false ∧
      wHeld.numberingHeld (if isMgr (Who.core 0) = true then BitVec.toNat (0 : BitVec 4) else whoPart (Who.core 0)) = true) ∧
    (heldTwo.serving 2 0 = true ∧ heldTwo.numberingHeld 0 = false) ∧
    (fnUp.admits (Instr.atsInvalidationRequest 15 31 (4096 : BitVec 57) (12 : BitVec 6) none true) = true ∧ fnUp.part = Part.v3x ∧
      fnUp.fnServes 15 = true ∧ fnUp.numberingHeld 15 = false) ∧
    ((stale filling).takes (Who.core 0) (Instr.invctlContext (Who.core 0) (0 : BitVec 4) (0 : BitVec 6)) = true ∧
      (Instr.invctlContext (Who.core 0) (0 : BitVec 4) (0 : BitVec 6), InvScope.ctx 0) ∈ [(Instr.invctlPartition (Who.core 0) (0 : BitVec 4), InvScope.part), (Instr.invctlContext (Who.core 0) (0 : BitVec 4) (0 : BitVec 6), InvScope.ctx ((64 * if isMgr (Who.core 0) = true then BitVec.toNat (0 : BitVec 4) else whoPart (Who.core 0)) + BitVec.toNat (0 : BitVec 6))), (Instr.invctlRange (Who.core 0) (0 : BitVec 4) (0 : BitVec 6), InvScope.range ((64 * if isMgr (Who.core 0) = true then BitVec.toNat (0 : BitVec 4) else whoPart (Who.core 0)) + BitVec.toNat (0 : BitVec 6)) (bits (BitVec.toNat ((stale filling).trn.invaddr.get (0 : W64) (whoPart (Who.core 0)))) 56 12 * 4096) (bits (BitVec.toNat ((stale filling).trn.invaddr.get (0 : W64) (whoPart (Who.core 0)))) 5 0))] ∧
      (stale filling).present (if isMgr (Who.core 0) = true then BitVec.toNat (0 : BitVec 4) else whoPart (Who.core 0)) = true ∧
      (stale filling).trn.busy.get false (whoPart (Who.core 0)) = false ∧
      (stale filling).numberingHeld (if isMgr (Who.core 0) = true then BitVec.toNat (0 : BitVec 4) else whoPart (Who.core 0)) = false) ∧
    (exInvalidationsAreOrdered1.takes (Who.core 0) (Instr.invctlPartition (Who.core 0) (4 : BitVec 4)) = true ∧
      (Instr.invctlPartition (Who.core 0) (4 : BitVec 4), InvScope.part) ∈ [(Instr.invctlPartition (Who.core 0) (4 : BitVec 4), InvScope.part), (Instr.invctlContext (Who.core 0) (4 : BitVec 4) (0 : BitVec 6), InvScope.ctx ((64 * if isMgr (Who.core 0) = true then BitVec.toNat (4 : BitVec 4) else whoPart (Who.core 0)) + BitVec.toNat (0 : BitVec 6))), (Instr.invctlRange (Who.core 0) (4 : BitVec 4) (0 : BitVec 6), InvScope.range ((64 * if isMgr (Who.core 0) = true then BitVec.toNat (4 : BitVec 4) else whoPart (Who.core 0)) + BitVec.toNat (0 : BitVec 6)) (bits (BitVec.toNat (exInvalidationsAreOrdered1.trn.invaddr.get (0 : W64) (whoPart (Who.core 0)))) 56 12 * 4096) (bits (BitVec.toNat (exInvalidationsAreOrdered1.trn.invaddr.get (0 : W64) (whoPart (Who.core 0)))) 5 0))] ∧
      exInvalidationsAreOrdered1.present (if isMgr (Who.core 0) = true then BitVec.toNat (4 : BitVec 4) else whoPart (Who.core 0)) = false) ∧
    ((invDone InvFrom.cfg).takes (Who.core 0) (Instr.invctlContext (Who.core 0) (15 : BitVec 4) (63 : BitVec 6)) = true ∧
      (Instr.invctlContext (Who.core 0) (15 : BitVec 4) (63 : BitVec 6), InvScope.ctx 1023) ∈ [(Instr.invctlPartition (Who.core 0) (15 : BitVec 4), InvScope.part), (Instr.invctlContext (Who.core 0) (15 : BitVec 4) (63 : BitVec 6), InvScope.ctx ((64 * if isMgr (Who.core 0) = true then BitVec.toNat (15 : BitVec 4) else whoPart (Who.core 0)) + BitVec.toNat (63 : BitVec 6))), (Instr.invctlRange (Who.core 0) (15 : BitVec 4) (63 : BitVec 6), InvScope.range ((64 * if isMgr (Who.core 0) = true then BitVec.toNat (15 : BitVec 4) else whoPart (Who.core 0)) + BitVec.toNat (63 : BitVec 6)) (bits (BitVec.toNat ((invDone InvFrom.cfg).trn.invaddr.get (0 : W64) (whoPart (Who.core 0)))) 56 12 * 4096) (bits (BitVec.toNat ((invDone InvFrom.cfg).trn.invaddr.get (0 : W64) (whoPart (Who.core 0)))) 5 0))] ∧
      (invDone InvFrom.cfg).present (if isMgr (Who.core 0) = true then BitVec.toNat (15 : BitVec 4) else whoPart (Who.core 0)) = true ∧
      (invDone InvFrom.cfg).trn.busy.get false (whoPart (Who.core 0)) = true) ∧
    (fnUpHeld.admits (Instr.atsInvalidationRequest 15 31 (4096 : BitVec 57) (12 : BitVec 6) none true) = true ∧ fnUpHeld.part = Part.v3x ∧
      fnUpHeld.fnServes 15 = true ∧ fnUpHeld.numberingHeld 15 = true) :=
  ⟨by decide +kernel,
   by decide +kernel,
   by decide +kernel,
   by decide +kernel,
   by decide +kernel,
   by decide +kernel,
   by decide +kernel,
   by decide +kernel⟩

theorem test_contextsAndBindings_met :
    (ctxBad.takes (Who.core 0) (Instr.ctxcfgWrite (Who.core 0) 0 (2097151 : W64)) = true ∧ ctxBad.mayIndex (Who.core 0) (0 / 64) = true ∧
      ctxBad.ctxValid 0 = true ∧ bit (BitVec.toNat (2097151 : W64)) 63 = false ∧ ctxBad.numberingHeld (0 / 64) = false) ∧
    (ctxBad.takes (Who.core 0) (Instr.ctxcfgWrite (Who.core 0) 0 (9223372036854775808 : W64)) = true ∧
      ctxBad.mayIndex (Who.core 0) (0 / 64) = true ∧ ctxBad.ctxValid 0 = true ∧ bit (BitVec.toNat (9223372036854775808 : W64)) 63 = true) ∧
    (State.reset.takes (Who.core 0) (Instr.ctxcfgWrite (Who.core 0) 1023 (10376293541461622784 : W64)) = true ∧
      State.reset.mayIndex (Who.core 0) (1023 / 64) = true ∧ State.reset.ctxValid 1023 = false ∧
      (bit (BitVec.toNat (10376293541461622784 : W64)) 63 = true ∧
      (2 ≤ bits (BitVec.toNat (10376293541461622784 : W64)) 61 60 ∨ bits (BitVec.toNat (10376293541461622784 : W64)) 61 60 = 1 ∧
      bit (BitVec.toNat (State.reset.trn.pmode.get (0 : W32) (1023 / 64))) 2 = false))) ∧
    (State.reset.takes (Who.core 0) (Instr.ctxcfgWrite (Who.core 0) 1023 (9223372036854775808 : W64)) = true ∧
      State.reset.mayIndex (Who.core 0) (1023 / 64) = true ∧ State.reset.ctxValid 1023 = false ∧
      (¬(bit (BitVec.toNat (9223372036854775808 : W64)) 63 = true ∧
      (2 ≤ bits (BitVec.toNat (9223372036854775808 : W64)) 61 60 ∨ bits (BitVec.toNat (9223372036854775808 : W64)) 61 60 = 1 ∧
      bit (BitVec.toNat (State.reset.trn.pmode.get (0 : W32) (1023 / 64))) 2 = false)))) ∧
    (fnUp.takes (Who.fn 15) (Instr.tbindWrite (Who.fn 15) 63 (0 : W32)) = true ∧ isMgr (Who.fn 15) = false) ∧
    (ctxBad.takes (Who.core 0) (Instr.tbindWrite (Who.core 0) 63 (4294967295 : W32)) = true ∧ isMgr (Who.core 0) = true) :=
  ⟨by decide +kernel,
   by decide +kernel,
   by decide +kernel,
   by decide +kernel,
   by decide +kernel,
   by decide +kernel⟩

theorem test_faultEntriesLiveAndEnd_met :
    (((waitFlt { en := true }).serving 2 0 = true ∧ rWait ∈ (waitFlt { en := true }).reqs ∧ rWait.part = 0 ∧
      rWait.st = ReqSt.entryWait 3 1 ∧ (waitFlt { en := true }).joinable (0) rWait.ctx rWait.va 1 = none ∧
      (waitFlt { en := true }).freeEntry 0 = some 0 ∧
      (((waitFlt { en := true }).fltp 0).en = true ∨ (waitFlt { en := true }).priRoute (0) rWait.ctx rWait.va 1 = true)) ∧
      (waitFlt { en := true }).distinct ∧
      (∀ (x : Req), x ∈ (waitFlt { en := true }).reqs → ∀ (o' c : Nat), x.part = 0 → x.st = ReqSt.entryWait o' c → x = rWait ∨ 3 < o')) ∧
    ((onEntry eRaised).takes (Who.core 0) (Instr.fltRcfgWrite (Who.core 0) (0 : W32)) = true ∧ bit (BitVec.toNat (0 : W32)) 31 = false ∧
      ((onEntry eRaised).fltp ((onEntry eRaised).actPart (Who.core 0))).en = true) ∧
    (((waitFlt fullFlt).serving 2 0 = true ∧ rWait ∈ (waitFlt fullFlt).reqs ∧ rWait.part = 0 ∧ rWait.st = ReqSt.entryWait 3 1 ∧
      (waitFlt fullFlt).joinable (0) rWait.ctx rWait.va 1 = none ∧ ((waitFlt fullFlt).fltp 0).en = true) ∧ (waitFlt fullFlt).distinct ∧
      (∀ (x : Req), x ∈ (waitFlt fullFlt).reqs → ∀ (o' c : Nat), x.part = 0 → x.st = ReqSt.entryWait o' c → x = rWait ∨ 3 < o') ∧
      (waitFlt fullFlt).freeEntry 0 = none) ∧
    ((List.map (fun x => x.n) (exFaultEntriesLiveAndEnd2.fltp 0).entries).Nodup ∧
      (∀ (e : FEntry), e ∈ (exFaultEntriesLiveAndEnd2.fltp 0).entries → e.st = FSt.replaying ∨ e.age < (exFaultEntriesLiveAndEnd2.fltp 0).deadline.toNat)) ∧
    (State.reset.takes (Who.core 0) (Instr.fltRcfgWrite (Who.core 0) (2147483698 : W32)) = true ∧
      bit (BitVec.toNat (2147483698 : W32)) 31 = true ∧ (State.reset.fltp (State.reset.actPart (Who.core 0))).en = false ∧
      (State.reset.fltp (State.reset.actPart (Who.core 0))).entries = []) ∧
    ((flt0 State.reset { entries := [eLog] }).takes (Who.core 0) (Instr.fltRcfgWrite (Who.core 0) (2147483698 : W32)) = true ∧
      bit (BitVec.toNat (2147483698 : W32)) 31 = true ∧
      ((flt0 State.reset { entries := [eLog] }).fltp ((flt0 State.reset { entries := [eLog] }).actPart (Who.core 0))).en = false ∧
      ((flt0 State.reset { entries := [eLog] }).fltp ((flt0 State.reset { entries := [eLog] }).actPart (Who.core 0))).entries ≠ []) ∧
    ((flt0 State.reset { entries := [eLog] }).takes (Who.core 0) (Instr.fltRcfgWrite (Who.core 0) (65535 : W32)) = true ∧
      bit (BitVec.toNat (65535 : W32)) 31 = ((flt0 State.reset { entries := [eLog] }).fltp ((flt0 State.reset { entries := [eLog] }).actPart (Who.core 0))).en) :=
  ⟨⟨by decide +kernel, by unfold State.distinct; decide +kernel, waitOk _⟩,
   by decide +kernel,
   ⟨by decide +kernel, by unfold State.distinct; decide +kernel, waitOk _, fullFlt_free⟩,
   by decide +kernel,
   by decide +kernel,
   by decide +kernel,
   by decide +kernel⟩

theorem test_faultRecordsGoOut_met :
    (recRdy.serving 2 0 = true ∧ (recRdy.fltp 0).en = true ∧ (∀ (x : FEntry), x ∈ (recRdy.fltp 0).entries → x.stale = false) ∧
      (recRdy.fltp 0).writing = none ∧ (∀ (r : Req), r ∈ recRdy.reqs → r.owner ≠ Owner.fltRec 0) ∧ (recRdy.fltp 0).used < 512 ∧
      recRdy.nextRecord 0 = some eRaised ∧ (recRdy.fltp 0).place.fst = false ∧
      recRdy.grantedAll (0) (recRdy.fltp 0).place.snd 64 Acc.write false = true ∧ anyRegs (recRdy.fltp 0).place.snd 64 = false ∧
      anyUnassigned (recRdy.fltp 0).place.snd 64 = false ∧ recRdy.anyClosed (recRdy.fltp 0).place.snd 64 = false) ∧
    (recGone.serving 2 0 = true ∧ List.find? (fun r => r.owner == Owner.fltRec 0) recGone.reqs = some rFlt ∧
      recGone.writeBack rFlt WReply.done = some (WReply.done, recGone.performWrite 32704 (zeros 64) (List.replicate 64 true)) ∧
      (recGone.fltp 0).writing = some 0 ∧ recGone.fent? 0 0 = some eRaised ∧ recGone.canRise (16 + 8 * 0 + 1) = true) ∧
    ((recHost true).serving 2 0 = true ∧ ((recHost true).fltp 0).en = true ∧
      (∀ (x : FEntry), x ∈ ((recHost true).fltp 0).entries → x.stale = false) ∧ ((recHost true).fltp 0).writing = none ∧
      (∀ (r : Req), r ∈ (recHost true).reqs → r.owner ≠ Owner.fltRec 0) ∧ ((recHost true).fltp 0).used < 512 ∧
      (recHost true).nextRecord 0 = some eRaised ∧ ((recHost true).fltp 0).place.fst = true ∧ (recHost true).canSend 0 = true) ∧
    (recGone.serving 2 0 = true ∧ List.find? (fun r => r.owner == Owner.fltRec 0) recGone.reqs = some rFlt ∧
      recGone.writeBack rFlt (WReply.error ECode.poison) = some (WReply.error ECode.poison, recGone) ∧ (recGone.fltp 0).writing = some 0 ∧
      recGone.fent? 0 0 = some eRaised) ∧
    ((recHost false).serving 2 0 = true ∧ ((recHost false).fltp 0).en = true ∧
      (∀ (x : FEntry), x ∈ ((recHost false).fltp 0).entries → x.stale = false) ∧ ((recHost false).fltp 0).writing = none ∧
      (∀ (r : Req), r ∈ (recHost false).reqs → r.owner ≠ Owner.fltRec 0) ∧ ((recHost false).fltp 0).used < 512 ∧
      (recHost false).nextRecord 0 = some eRaised ∧ ((recHost false).fltp 0).place.fst = true ∧ (recHost false).canSend 0 = false) :=
  ⟨by decide +kernel,
   by decide +kernel,
   by decide +kernel,
   by decide +kernel,
   by decide +kernel⟩

theorem test_faultsAreAnswered_met :
    (((onEntry eReq).fent? 0 0 = some eReq ∧ eReq.st = FSt.requested) ∧
      (∀ (c : PrgCode), (onEntry eReq).admits (Instr.prgResponse 0 0 c) = true)) ∧
    ((onEntry eLog).takes (Who.core 0) (Instr.fltRespRetry (Who.core 0) (512 : BitVec 16)) = true ∧
      (onEntry eLog).takes (Who.core 0) (Instr.fltRespAbort (Who.core 0) (512 : BitVec 16)) = true ∧
      List.find? (fun e => e.st == FSt.logged && e.fid == BitVec.toNat (512 : BitVec 16)) ((onEntry eLog).fltp ((onEntry eLog).actPart (Who.core 0))).entries = some eLog) ∧
    (((onEntry eRep).serving 2 0 = true ∧ (onEntry eRep).fent? 0 0 = some eRep ∧ eRep.st = FSt.replaying ∧ eRep.removed = false ∧
      (onEntry eRep).ctxValid eRep.ctx = true ∧ (onEntry eRep).ctxAts eRep.ctx = false ∧ (onEntry eRep).slotOf eRep.ctx ≠ none ∧
      (∀ (r : Req), r ∈ (onEntry eRep).reqs → r.st = ReqSt.faulted 0 0 → r.ctx = eRep.ctx ∧ (onEntry eRep).bound r.part = false ∧
      (onEntry eRep).heldXlt r.owner r.ctx r.va = none) ∧ (∀ (x : XEntry), x ∈ (onEntry eRep).trn.edge → x.ctx = eRep.ctx → x.level = 0) ∧
      (∀ (x : XEntry), x ∈ (onEntry eRep).trn.edge ++ (onEntry eRep).trn.folio → x.ctx = eRep.ctx → x.level = 0 → x.covers eRep.ctx eRep.va = true)) ∧
      (onEntry eRep).distinct) ∧
    ((priUp ePri).serving 2 0 = true ∧ (priUp ePri).canSend 0 = true ∧
      (∀ (x : FEntry), x ∈ ((priUp ePri).fltp 0).entries → x.stale = false) ∧
      minBy (fun x => x.order) (List.filter (fun e => e.st == FSt.raised && e.pri) ((priUp ePri).fltp 0).entries) = some ePri ∧
      (List.filter (fun e => e.st == FSt.requested) ((priUp ePri).fltp 0).entries).length < ((priUp ePri).fn 0).prAlloc) ∧
    ((onEntry eLog).takes (Who.core 0) (Instr.fltRespRetry (Who.core 0) (1 : BitVec 16)) = true ∧
      (onEntry eLog).takes (Who.core 0) (Instr.fltRespAbort (Who.core 0) (1 : BitVec 16)) = true ∧
      List.find? (fun e => e.st == FSt.logged && e.fid == BitVec.toNat (1 : BitVec 16)) ((onEntry eLog).fltp ((onEntry eLog).actPart (Who.core 0))).entries = none) :=
  ⟨⟨by decide +kernel, fun x => by cases x <;> decide +kernel⟩,
   by decide +kernel,
   ⟨by decide +kernel, by unfold State.distinct; decide +kernel⟩,
   by decide +kernel,
   by decide +kernel⟩

theorem test_epochTablesChange_met :
    ((flipping true false).serving 2 0 = true ∧
      List.find? (fun f => f.queue == 5 && f.pos == (6 : BitVec 16)) (flipping true false).epo.flips = some (flipIt true false) ∧
      (flipIt true false).tables.Nodup ∧ (flipping true false).cmd? 5 (6 : BitVec 16) = some (cmdIn 5 (zeros 64) CmdSt.running) ∧
      (cmdIn 5 (zeros 64) CmdSt.running).aborted = false ∧ (¬((flipIt true false).waitrel = true ∧
      (flipping true false).drains (flipIt true false) ≠ []))) ∧
    (sweeping.serving 2 0 = true ∧ sweeping.epo.sweep = some [(8191, true)]) ∧
    (recordSlot.takes (Who.core 0) (Instr.trecWrite (Who.core 0) 511 false (9223372036854783999 : W64)) = true ∧
      recordSlot.flipPending (512 * whoPart (Who.core 0) + 511) = false ∧ (recordSlot.table (512 * whoPart (Who.core 0) + 511)).curB ≠ false ∧
      (((recordSlot.table (512 * whoPart (Who.core 0) + 511)).slot false).st = SlotSt.free ∨ ((recordSlot.table (512 * whoPart (Who.core 0) + 511)).slot false).st = SlotSt.staged)) ∧
    (State.reset.takes (Who.core 0) (Instr.trecWrite (Who.core 0) 511 true (0 : W64)) = true ∧
      (State.reset.flipPending (512 * whoPart (Who.core 0) + 511) = true ∨ (State.reset.table (512 * whoPart (Who.core 0) + 511)).curB = true ∨ ((State.reset.table (512 * whoPart (Who.core 0) + 511)).slot true).st ≠ SlotSt.free ∧
      ((State.reset.table (512 * whoPart (Who.core 0) + 511)).slot true).st ≠ SlotSt.staged)) ∧
    ((flipping false true).serving 2 0 = true ∧
      List.find? (fun f => f.queue == 5 && f.pos == (6 : BitVec 16)) (flipping false true).epo.flips = some (flipIt false true) ∧
      (flipIt false true).tables.Nodup ∧ (flipping false true).cmd? 5 (6 : BitVec 16) = some (cmdIn 5 (zeros 64) CmdSt.running) ∧
      (cmdIn 5 (zeros 64) CmdSt.running).aborted = false ∧ ((flipIt false true).waitrel = true ∧
      (flipping false true).drains (flipIt false true) ≠ [])) ∧
    ((drained 0 SlotSt.draining).serving 2 0 = true ∧
      (((drained 0 SlotSt.draining).table (512 * 15 + 511)).slot true).st = SlotSt.draining ∧
      (((drained 0 SlotSt.draining).table (512 * 15 + 511)).slot true).pins = 0) ∧
    ((drained 1 SlotSt.draining).serving 2 0 = true ∧
      ((((drained 1 SlotSt.draining).table (512 * 15 + 511)).slot true).st ≠ SlotSt.draining ∨ (((drained 1 SlotSt.draining).table (512 * 15 + 511)).slot true).pins ≠ 0)) ∧
    ((drained 0 SlotSt.purging).serving 2 0 = true ∧ (drained 0 SlotSt.purging).epo.sweep = none ∧ (drained 0 SlotSt.purging).purging ≠ []) :=
  ⟨by decide +kernel,
   by decide +kernel,
   by decide +kernel,
   by decide +kernel,
   by decide +kernel,
   by decide +kernel,
   by decide +kernel,
   by decide +kernel⟩

theorem test_pleatEnginesTakeWork_met :
    (mv0.cmd? 5 (7 : BitVec 16) = some (theCmd 5 (7 : BitVec 16) mv0) ∧ (theCmd 5 (7 : BitVec 16) mv0).st = CmdSt.needEngine ∧
      mv0.chooseEng = some 0) ∧
    ((∀ (i : Instr), i ∈ [Instr.pltCctlAbort (Who.core 0), Instr.pltCctlRelease (Who.core 0), Instr.pltCctlRetry (Who.core 0)] → mvHalt.takes (Who.core 0) i = true) ∧
      mvHalt.selEng (Who.core 0) = some 0 ∧ mvHalt.engCmd 0 = some (theCmd 5 (7 : BitVec 16) mvHalt) ∧
      (theCmd 5 (7 : BitVec 16) mvHalt).aborted = false ∧ (mvHalt.eng 0).st = PSt.halted ∧ mvHalt.pleatQuiet 0 = true ∧
      (mvHalt.eng 0).later = none) ∧
    (mv1.dom (4 + 0 / 16) = Dom.run ∧ (mv1.engCmd 0).isSome = true ∧ (mv1.eng 0).st = PSt.running ∧ (mv1.eng 0).bursts.length < 4 ∧
      (mv1.eng 0).next < (mv1.eng 0).total ∧ (mv1.eng 0).wnext ≤ (mv1.eng 0).next ∧ (mv1.eng 0).kill = false) ∧
    ((mvLate (1 : BitVec 3)).engCmd 0 = some (theCmd 5 (7 : BitVec 16) mvHalt) ∧ (theCmd 5 (7 : BitVec 16) mvHalt).aborted = false ∧
      ((mvLate (1 : BitVec 3)).eng 0).st = PSt.halted ∧ (mvLate (1 : BitVec 3)).pleatQuiet 0 = true ∧
      ((mvLate (1 : BitVec 3)).eng 0).later = some (1 : BitVec 3) ∧ (1 : BitVec 3) ≠ (4 : BitVec 3)) ∧
    ((∀ (i : Instr), i ∈ [Instr.pltCctlAbort (Who.core 0), Instr.pltCctlRelease (Who.core 0), Instr.pltCctlRetry (Who.core 0)] → mv2.takes (Who.core 0) i = true) ∧
      mv2.selEng (Who.core 0) = some 0 ∧ mv2.engCmd 0 = some (theCmd 5 (7 : BitVec 16) mv2) ∧ (theCmd 5 (7 : BitVec 16) mv2).aborted = false ∧
      (mv2.eng 0).st = PSt.running ∧ (mv2.eng 0).kill = false ∧ (mv2.eng 0).wnext < (mv2.eng 0).next ∧ (mv2.eng 0).st ≠ PSt.halted) ∧
    ((mvLate (4 : BitVec 3)).engCmd 0 = some (theCmd 5 (7 : BitVec 16) mvHalt) ∧ (theCmd 5 (7 : BitVec 16) mvHalt).aborted = false ∧
      ((mvLate (4 : BitVec 3)).eng 0).st = PSt.halted ∧ (mvLate (4 : BitVec 3)).pleatQuiet 0 = true ∧
      ((mvLate (4 : BitVec 3)).eng 0).later = some (4 : BitVec 3) ∧ (4 : BitVec 3) = (4 : BitVec 3)) ∧
    ((∀ (i : Instr), i ∈ [Instr.pltCctlAbort (Who.core 0), Instr.pltCctlRelease (Who.core 0), Instr.pltCctlRetry (Who.core 0)] → mvBusy.takes (Who.core 0) i = true) ∧
      mvBusy.selEng (Who.core 0) = some 0 ∧ mvBusy.engCmd 0 = some (theCmd 5 (7 : BitVec 16) mvBusy) ∧
      (theCmd 5 (7 : BitVec 16) mvBusy).aborted = false ∧ (mvBusy.eng 0).st = PSt.halted ∧ mvBusy.pleatQuiet 0 = false) ∧
    ((∀ (i : Instr), i ∈ [Instr.pltCctlAbort (Who.core 0), Instr.pltCctlRelease (Who.core 0), Instr.pltCctlRetry (Who.core 0)] → mvStall.takes (Who.core 0) i = true) ∧
      mvStall.selEng (Who.core 0) = some 0 ∧ mvStall.engCmd 0 = some (theCmd 5 (7 : BitVec 16) mvStall) ∧
      (theCmd 5 (7 : BitVec 16) mvStall).aborted = false ∧ (mvStall.eng 0).st = PSt.stalled) :=
  ⟨by decide +kernel,
   by decide +kernel,
   by decide +kernel,
   by decide +kernel,
   by decide +kernel,
   by decide +kernel,
   by decide +kernel,
   by decide +kernel⟩

theorem test_pleatReadsAndWrites_met :
    ((mvFail.dom (4 + 0 / 16) = Dom.run ∧ mvFail.req? 1 = some (the 1 mvFail) ∧ (the 1 mvFail).owner = Owner.pltRead 0 0 ∧
      mvFail.readBack (the 1 mvFail) (Reply.data []) = some (Reply.error ECode.poison) ∧ (mvFail.eng 0).kill = false ∧
      (mvFail.eng 0).fence = false ∧ (mvFail.eng 0).err = none ∧ (mvFail.eng 0).st ≠ PSt.halted) ∧ mvFail.fresh ∧ mvFail.distinct) ∧
    ((mvPart.dom (4 + 0 / 16) = Dom.run ∧ mvPart.req? 1 = some (the 1 mvPart) ∧ (the 1 mvPart).owner = Owner.pltRead 0 0 ∧
      mvPart.readBack (the 1 mvPart) (Reply.data []) = some (Reply.data (zeros 32)) ∧ (mvPart.eng 0).kill = false ∧
      Reply.data (zeros 32) = Reply.data (zeros 32) ∧ (mvPart.eng 0).st = PSt.running ∧ (mvPart.eng 0).wnext < (mvPart.eng 0).total ∧
      (mvPart.setEng 0 { (mvPart.eng 0) with buf := (mvPart.eng 0).buf ++ List.map (fun i => (0 + i, List.getD (zeros 32) i (0 : Byte))) (List.range (List.length (zeros 32))) }).granuleData (0) (mvPart.eng 0).wnext (min (mvPart.eng 0).total ((mvPart.eng 0).dst.pieceEnd (mvPart.eng 0).wnext)) = none) ∧
      mvPart.fresh ∧ mvPart.distinct) ∧
    ((mv3.dom (4 + 0 / 16) = Dom.run ∧ mv3.req? 2 = some (the 2 mv3) ∧ (the 2 mv3).owner = Owner.pltWrite 0 0 ∧
      mv3.writeBack (the 2 mv3) WReply.done = some (WReply.done, mv3.performWrite 8192 (zeros 64) (List.replicate 64 true)) ∧
      (mv3.eng 0).kill = false) ∧ mv3.distinct) ∧
    ((mv3.dom (4 + 0 / 16) = Dom.run ∧ mv3.req? 2 = some (the 2 mv3) ∧ (the 2 mv3).owner = Owner.pltWrite 0 0 ∧
      mv3.writeBack (the 2 mv3) (WReply.error ECode.poison) = some (WReply.error ECode.poison, mv3) ∧ (mv3.eng 0).kill = false ∧
      (mv3.eng 0).fence = false ∧ (mv3.eng 0).err = none ∧ (mv3.eng 0).st ≠ PSt.halted) ∧ mv3.distinct) :=
  ⟨⟨by decide +kernel, by unfold State.fresh; decide +kernel, by unfold State.distinct; decide +kernel⟩,
   ⟨by decide +kernel, by unfold State.fresh; decide +kernel, by unfold State.distinct; decide +kernel⟩,
   ⟨by decide +kernel, by unfold State.distinct; decide +kernel⟩,
   ⟨by decide +kernel, by unfold State.distinct; decide +kernel⟩⟩

theorem test_compositorReads_met :
    (((cm1 false true (0 : Byte)).dom (8 + 0) = Dom.run ∧
      (cm1 false true (0 : Byte)).compCmd 0 = some (theCmd 5 (7 : BitVec 16) (cm1 false true (0 : Byte))) ∧
      (theCmd 5 (7 : BitVec 16) (cm1 false true (0 : Byte))).aborted = false ∧ ((cm1 false true (0 : Byte)).comp 0).st = CSt.running ∧
      ((cm1 false true (0 : Byte)).comp 0).kill = false ∧ ((cm1 false true (0 : Byte)).comp 0).fence = false ∧
      ((cm1 false true (0 : Byte)).comp 0).fail = none ∧ ((cm1 false true (0 : Byte)).comp 0).record = none ∧
      (cm1 false true (0 : Byte)).piecesOf (Owner.cmpRecord 0) ≠ [] ∧
      (cm1 false true (0 : Byte)).compReqs 0 = (cm1 false true (0 : Byte)).piecesOf (Owner.cmpRecord 0) ∧
      (cm1 false true (0 : Byte)).answers (Reply.data []) ((cm1 false true (0 : Byte)).piecesOf (Owner.cmpRecord 0)) = some (Reply.data (recB true (0 : Byte))) ∧
      (cm1 false true (0 : Byte)).recordFail ((cm1 false true (0 : Byte)).comp 0) (theCmd 5 (7 : BitVec 16) (cm1 false true (0 : Byte))).slug (recB true (0 : Byte)) = none ∧
      gInl (theCmd 5 (7 : BitVec 16) (cm1 false true (0 : Byte))).slug = false ∧
      gBags (theCmd 5 (7 : BitVec 16) (cm1 false true (0 : Byte))).slug = false ∧ ((cm1 false true (0 : Byte)).comp 0).pre = false ∧
      ((cm1 false true (0 : Byte)).comp 0).idx = [] ∧ ((cm1 false true (0 : Byte)).comp 0).full = false ∧
      ((cm1 false true (0 : Byte)).comp 0).adm < ((cm1 false true (0 : Byte)).comp 0).nidx ∧
      ((cm1 false true (0 : Byte)).comp 0).wstart < ((cm1 false true (0 : Byte)).comp 0).nidx ∧
      ((cm1 false true (0 : Byte)).comp 0).nidx = gNidx (theCmd 5 (7 : BitVec 16) (cm1 false true (0 : Byte))).slug) ∧
      (cm1 false true (0 : Byte)).distinct) ∧
    ((g3r.req? 3 = some (the 3 g3r) ∧ g3r.answers (Reply.data []) (g3r.piecesOf (the 3 g3r).owner) = some (Reply.data (zeros 8)) ∧
      (the 3 g3r).owner = Owner.cmpRow 0 1 ∧ List.find? (fun z => z.idx == 1) (g3r.comp 0).dists = some (distOf g3r 1) ∧
      gScatter (theCmd 5 (7 : BitVec 16) g3r).slug = false) ∧ g3r.composing (0) (theCmd 5 (7 : BitVec 16) g3r) (recB true (0 : Byte)) ∧
      g3r.fresh ∧ g3r.distinct) ∧
    (((cm2s false true).req? 2 = some (the 2 (cm2s false true)) ∧
      (cm2s false true).answers (Reply.data []) ((cm2s false true).piecesOf (the 2 (cm2s false true)).owner) = some (Reply.data ixB) ∧
      (the 2 (cm2s false true)).owner = Owner.cmpStream 0 0 ∧ 0 < 4 ∧ 0 ≠ 2) ∧
      (cm2s false true).composing (0) (theCmd 5 (7 : BitVec 16) (cm2s false true)) (recB true (0 : Byte)) ∧ (cm2s false true).fresh ∧
      (cm2s false true).distinct) ∧
    ((g3n.req? 3 = some (the 3 g3n) ∧ g3n.answers (Reply.data []) (g3n.piecesOf (the 3 g3n).owner) = some (Reply.data (zeros 8)) ∧
      (the 3 g3n).owner = Owner.cmpPlace 0 1 ∧ placeOf (recB false (0 : Byte)) (leNat (zeros 8)) = Place.absent) ∧
      g3n.composing (0) (theCmd 5 (7 : BitVec 16) g3n) (recB false (0 : Byte)) ∧ g3n.fresh ∧ g3n.distinct) ∧
    (((stands 1 (ReqSt.failed (Out.dev 16384) ECode.poison) (cm1 false true (0 : Byte))).dom (8 + 0) = Dom.run ∧
      (stands 1 (ReqSt.failed (Out.dev 16384) ECode.poison) (cm1 false true (0 : Byte))).compCmd 0 = some (theCmd 5 (7 : BitVec 16) (cm1 false true (0 : Byte))) ∧
      (theCmd 5 (7 : BitVec 16) (cm1 false true (0 : Byte))).aborted = false ∧
      ((stands 1 (ReqSt.failed (Out.dev 16384) ECode.poison) (cm1 false true (0 : Byte))).comp 0).st = CSt.running ∧
      ((stands 1 (ReqSt.failed (Out.dev 16384) ECode.poison) (cm1 false true (0 : Byte))).comp 0).kill = false ∧
      ((stands 1 (ReqSt.failed (Out.dev 16384) ECode.poison) (cm1 false true (0 : Byte))).comp 0).fence = false ∧
      ((stands 1 (ReqSt.failed (Out.dev 16384) ECode.poison) (cm1 false true (0 : Byte))).comp 0).fail = none ∧
      ((stands 1 (ReqSt.failed (Out.dev 16384) ECode.poison) (cm1 false true (0 : Byte))).comp 0).record = none ∧
      (stands 1 (ReqSt.failed (Out.dev 16384) ECode.poison) (cm1 false true (0 : Byte))).piecesOf (Owner.cmpRecord 0) ≠ [] ∧
      (stands 1 (ReqSt.failed (Out.dev 16384) ECode.poison) (cm1 false true (0 : Byte))).compReqs 0 = (stands 1 (ReqSt.failed (Out.dev 16384) ECode.poison) (cm1 false true (0 : Byte))).piecesOf (Owner.cmpRecord 0) ∧
      (stands 1 (ReqSt.failed (Out.dev 16384) ECode.poison) (cm1 false true (0 : Byte))).piecesOf (Owner.cmpRecord 0) = [the 1 (stands 1 (ReqSt.failed (Out.dev 16384) ECode.poison) (cm1 false true (0 : Byte)))] ∧
      (stands 1 (ReqSt.failed (Out.dev 16384) ECode.poison) (cm1 false true (0 : Byte))).readBack (the 1 (stands 1 (ReqSt.failed (Out.dev 16384) ECode.poison) (cm1 false true (0 : Byte)))) (Reply.data []) = some (Reply.error ECode.poison)) ∧
      (stands 1 (ReqSt.failed (Out.dev 16384) ECode.poison) (cm1 false true (0 : Byte))).distinct) ∧
    (((s3g (0 : Byte)).req? 3 = some (the 3 (s3g (0 : Byte))) ∧
      (s3g (0 : Byte)).answers (Reply.data []) ((s3g (0 : Byte)).piecesOf (the 3 (s3g (0 : Byte))).owner) = some (Reply.data (zeros 16)) ∧
      (the 3 (s3g (0 : Byte))).owner = Owner.cmpGrad 0 0) ∧
      (s3g (0 : Byte)).composing (0) (theCmd 5 (7 : BitVec 16) (s3g (0 : Byte))) (recB true (0 : Byte)) ∧ (s3g (0 : Byte)).fresh ∧
      (s3g (0 : Byte)).distinct) ∧
    (((stands 1 (ReqSt.have (Out.dev 16384) (zeros 128)) (cm1 false true (0 : Byte))).dom (8 + 0) = Dom.run ∧
      (stands 1 (ReqSt.have (Out.dev 16384) (zeros 128)) (cm1 false true (0 : Byte))).compCmd 0 = some (theCmd 5 (7 : BitVec 16) (cm1 false true (0 : Byte))) ∧
      (theCmd 5 (7 : BitVec 16) (cm1 false true (0 : Byte))).aborted = false ∧
      ((stands 1 (ReqSt.have (Out.dev 16384) (zeros 128)) (cm1 false true (0 : Byte))).comp 0).st = CSt.running ∧
      ((stands 1 (ReqSt.have (Out.dev 16384) (zeros 128)) (cm1 false true (0 : Byte))).comp 0).kill = false ∧
      ((stands 1 (ReqSt.have (Out.dev 16384) (zeros 128)) (cm1 false true (0 : Byte))).comp 0).fence = false ∧
      ((stands 1 (ReqSt.have (Out.dev 16384) (zeros 128)) (cm1 false true (0 : Byte))).comp 0).fail = none ∧
      ((stands 1 (ReqSt.have (Out.dev 16384) (zeros 128)) (cm1 false true (0 : Byte))).comp 0).record = none ∧
      (stands 1 (ReqSt.have (Out.dev 16384) (zeros 128)) (cm1 false true (0 : Byte))).piecesOf (Owner.cmpRecord 0) ≠ [] ∧
      (stands 1 (ReqSt.have (Out.dev 16384) (zeros 128)) (cm1 false true (0 : Byte))).compReqs 0 = (stands 1 (ReqSt.have (Out.dev 16384) (zeros 128)) (cm1 false true (0 : Byte))).piecesOf (Owner.cmpRecord 0) ∧
      (stands 1 (ReqSt.have (Out.dev 16384) (zeros 128)) (cm1 false true (0 : Byte))).answers (Reply.data []) ((stands 1 (ReqSt.have (Out.dev 16384) (zeros 128)) (cm1 false true (0 : Byte))).piecesOf (Owner.cmpRecord 0)) = some (Reply.data (zeros 128)) ∧
      (stands 1 (ReqSt.have (Out.dev 16384) (zeros 128)) (cm1 false true (0 : Byte))).recordFail ((stands 1 (ReqSt.have (Out.dev 16384) (zeros 128)) (cm1 false true (0 : Byte))).comp 0) (theCmd 5 (7 : BitVec 16) (cm1 false true (0 : Byte))).slug (zeros 128) = some 40) ∧
      (stands 1 (ReqSt.have (Out.dev 16384) (zeros 128)) (cm1 false true (0 : Byte))).distinct) ∧
    (((s5r (0 : Byte)).req? 5 = some (the 5 (s5r (0 : Byte))) ∧
      (s5r (0 : Byte)).answers (Reply.data []) ((s5r (0 : Byte)).piecesOf (the 5 (s5r (0 : Byte))).owner) = some (Reply.data (zeros 8)) ∧
      (the 5 (s5r (0 : Byte))).owner = Owner.cmpRow 0 1 ∧
      List.find? (fun z => z.idx == 1) ((s5r (0 : Byte)).comp 0).dists = some (distOf (s5r (0 : Byte)) 1) ∧
      gScatter (theCmd 5 (7 : BitVec 16) (s5r (0 : Byte))).slug = true) ∧
      (s5r (0 : Byte)).composing (0) (theCmd 5 (7 : BitVec 16) (s5r (0 : Byte))) (recB true (0 : Byte)) ∧ (s5r (0 : Byte)).fresh ∧
      (s5r (0 : Byte)).distinct) :=
  ⟨⟨by decide +kernel, by unfold State.distinct; decide +kernel⟩,
   ⟨by decide +kernel, by unfold State.composing; decide +kernel, by unfold State.fresh; decide +kernel, by unfold State.distinct; decide +kernel⟩,
   ⟨by decide +kernel, by unfold State.composing; decide +kernel, by unfold State.fresh; decide +kernel, by unfold State.distinct; decide +kernel⟩,
   ⟨by decide +kernel, by unfold State.composing; decide +kernel, by unfold State.fresh; decide +kernel, by unfold State.distinct; decide +kernel⟩,
   ⟨by decide +kernel, by unfold State.distinct; decide +kernel⟩,
   ⟨by decide +kernel, by unfold State.composing; decide +kernel, by unfold State.fresh; decide +kernel, by unfold State.distinct; decide +kernel⟩,
   ⟨by decide +kernel, by unfold State.distinct; decide +kernel⟩,
   ⟨by decide +kernel, by unfold State.composing; decide +kernel, by unfold State.fresh; decide +kernel, by unfold State.distinct; decide +kernel⟩⟩

theorem test_windowsCloseAndRowsAreUpdated_met :
    ((gScatter (theCmd 5 (7 : BitVec 16) (s6 (0 : Byte))).slug = true ∧ ((s6 (0 : Byte)).comp 0).rowDue = some (dueOf (s6 (0 : Byte))) ∧
      (dueOf (s6 (0 : Byte))).home (recB true (0 : Byte)) = some (0, 20512) ∧
      optStep (gOpt (theCmd 5 (7 : BitVec 16) (s6 (0 : Byte))).slug) (segFmt (recB true (0 : Byte)) 0) (recElem (recB true (0 : Byte))) (fp32.value (numAt (slugExtn (theCmd 5 (7 : BitVec 16) (s6 (0 : Byte))).slug 1) 44 4)) (fp32.value (numAt (slugExtn (theCmd 5 (7 : BitVec 16) (s6 (0 : Byte))).slug 1) 48 4)) (fp32.value (numAt (slugExtn (theCmd 5 (7 : BitVec 16) (s6 (0 : Byte))).slug 1) 52 4)) (gradOf (((s6 (0 : Byte)).comp 0).poolGrads (theCmd 5 (7 : BitVec 16) (s6 (0 : Byte))).slug (recB true (0 : Byte))) (theCmd 5 (7 : BitVec 16) (s6 (0 : Byte))).slug (recB true (0 : Byte)) (dueOf (s6 (0 : Byte))).idx) (dueOf (s6 (0 : Byte))).row = some (zeros 8) ∧
      (dueOf (s6 (0 : Byte))).outs = [(0, 8, Out.dev 20512)] ∧
      (List.range 8).any (optWrites (gOpt (theCmd 5 (7 : BitVec 16) (s6 (0 : Byte))).slug) (segFmt (recB true (0 : Byte)) 0) (recElem (recB true (0 : Byte)))) = true ∧
      (s6 (0 : Byte)).unlimited ((s6 (0 : Byte)).comp 0).part = true ∧ (s6 (0 : Byte)).anyOff 20512 8 = false) ∧
      (s6 (0 : Byte)).composing (0) (theCmd 5 (7 : BitVec 16) (s6 (0 : Byte))) (recB true (0 : Byte)) ∧ (s6 (0 : Byte)).fresh) ∧
    (((g5m.comp 0).winDone = true ∧ (g5m.comp 0).wstart < (g5m.comp 0).adm ∧ g5m.serving 12 0 = true ∧
      (g5m.comp 0).adm < (g5m.comp 0).nidx) ∧ g5m.composing (0) (theCmd 5 (7 : BitVec 16) g5m) (recB true (0 : Byte))) ∧
    ((gScatter (theCmd 5 (7 : BitVec 16) (s6 (255 : Byte))).slug = true ∧
      ((s6 (255 : Byte)).comp 0).rowDue = some (dueOf (s6 (255 : Byte))) ∧
      (dueOf (s6 (255 : Byte))).home (recB true (0 : Byte)) = some (0, 20512) ∧
      optStep (gOpt (theCmd 5 (7 : BitVec 16) (s6 (255 : Byte))).slug) (segFmt (recB true (0 : Byte)) 0) (recElem (recB true (0 : Byte))) (fp32.value (numAt (slugExtn (theCmd 5 (7 : BitVec 16) (s6 (255 : Byte))).slug 1) 44 4)) (fp32.value (numAt (slugExtn (theCmd 5 (7 : BitVec 16) (s6 (255 : Byte))).slug 1) 48 4)) (fp32.value (numAt (slugExtn (theCmd 5 (7 : BitVec 16) (s6 (255 : Byte))).slug 1) 52 4)) (gradOf (((s6 (255 : Byte)).comp 0).poolGrads (theCmd 5 (7 : BitVec 16) (s6 (255 : Byte))).slug (recB true (0 : Byte))) (theCmd 5 (7 : BitVec 16) (s6 (255 : Byte))).slug (recB true (0 : Byte)) (dueOf (s6 (255 : Byte))).idx) (dueOf (s6 (255 : Byte))).row = none) ∧
      (s6 (255 : Byte)).composing (0) (theCmd 5 (7 : BitVec 16) (s6 (255 : Byte))) (recB true (0 : Byte))) :=
  ⟨⟨by decide +kernel, by unfold State.composing; decide +kernel, by unfold State.fresh; decide +kernel⟩,
   ⟨by decide +kernel, by unfold State.composing; decide +kernel⟩,
   ⟨by decide +kernel, by unfold State.composing; decide +kernel⟩⟩

theorem test_compositorWrites_met :
    (g6.dom (8 + 0) = Dom.run ∧ g6.compCmd 0 = some (theCmd 5 (7 : BitVec 16) g6) ∧ gScatter (theCmd 5 (7 : BitVec 16) g6).slug = false ∧
      (g6.comp 0).st = CSt.running ∧ (g6.comp 0).record = some (recB true (0 : Byte)) ∧ (g6.comp 0).kill = false ∧ (g6.comp 0).fence = false ∧
      (g6.comp 0).resultReady (theCmd 5 (7 : BitVec 16) g6).slug = true ∧
      0 < List.length (packElems (gOfmt (theCmd 5 (7 : BitVec 16) g6).slug) (List.map (roundElem (gOfmt (theCmd 5 (7 : BitVec 16) g6).slug)) ((g6.comp 0).resultVals (theCmd 5 (7 : BitVec 16) g6).slug (recB true (0 : Byte)) (g6.comp 0).done)))) ∧
    ((g8.dom (8 + 0) = Dom.run ∧ g8.compCmd 0 = some (theCmd 5 (7 : BitVec 16) g8) ∧ (theCmd 5 (7 : BitVec 16) g8).aborted = false ∧
      g8.req? 6 = some (the 6 g8) ∧ (the 6 g8).owner = Owner.cmpResult 0 1 ∧
      g8.writeBack (the 6 g8) WReply.done = some (WReply.done, g8.performWrite 28672 (zeros 4) [true, true, true, true]) ∧
      gScatter (theCmd 5 (7 : BitVec 16) g8).slug = false ∧ ((g8.comp 0).st = CSt.running ∨ (g8.comp 0).st = CSt.draining) ∧
      (g8.comp 0).record = some (recB true (0 : Byte)) ∧ (g8.comp 0).kill = false ∧ (g8.comp 0).fence = false ∧ (g8.comp 0).fail = none ∧
      (g8.comp 0).rfail = none ∧ (g8.comp 0).nidx ≤ (g8.comp 0).wstart ∧ (g8.comp 0).nbag ≤ (g8.comp 0).done ∧ g8.compReqs 0 = [the 6 g8]) ∧
      g8.distinct) ∧
    ((s7.dom (8 + 0) = Dom.run ∧ s7.req? 6 = some (the 6 s7) ∧ (the 6 s7).owner = Owner.cmpUpdate 0 1 ∧
      s7.writeBack (the 6 s7) WReply.done = some (WReply.done, s7.performWrite 20512 (zeros 8) (List.replicate 8 true)) ∧
      s7.piecesOf (Owner.cmpUpdate 0 1) = [the 6 s7] ∧ (∀ (z : Dist), z ∈ (s7.comp 0).dists → z.idx = 1 → z.told = false)) ∧ s7.distinct) ∧
    ((s8.req? 6 = some (the 6 s8) ∧ (the 6 s8).owner = Owner.cmpUpdate 0 1 ∧ (∃ z, z ∈ (s8.comp 0).dists ∧ z.idx = 1 ∧ z.told = true) ∧
      (∀ (z : Dist), z ∈ (s8.comp 0).dists → z.idx = 1 → z.bad = false)) ∧
      s8.composing (0) (theCmd 5 (7 : BitVec 16) s8) (recB true (0 : Byte)) ∧ s8.fresh ∧ s8.distinct) :=
  ⟨by decide +kernel,
   ⟨by decide +kernel, by unfold State.distinct; decide +kernel⟩,
   ⟨by decide +kernel, by unfold State.distinct; decide +kernel⟩,
   ⟨by decide +kernel, by unfold State.composing; decide +kernel, by unfold State.fresh; decide +kernel, by unfold State.distinct; decide +kernel⟩⟩

theorem test_trackersAndSwatches_met :
    (((swRec (recB true (0 : Byte))).galleyRuns = true ∧ (swRec (recB true (0 : Byte))).cmd? 5 (6 : BitVec 16) = some dSw ∧
      dSw.aborted = false ∧ (swRec (recB true (0 : Byte))).piecesOf (Owner.swRecord 5 (6 : BitVec 16)) ≠ [] ∧
      (swRec (recB true (0 : Byte))).answers (Reply.data []) ((swRec (recB true (0 : Byte))).piecesOf (Owner.swRecord 5 (6 : BitVec 16))) = some (Reply.data (recB true (0 : Byte))) ∧
      recordOk (recB true (0 : Byte)) = true ∧ numAt dSw.slug 16 4 ≠ 0) ∧ (swRec (recB true (0 : Byte))).distinct) ∧
    (((swLst (swEnt (3 : Byte) (0 : Byte))).galleyRuns = true ∧ (swLst (swEnt (3 : Byte) (0 : Byte))).cmd? 5 (6 : BitVec 16) = some dSw ∧
      dSw.aborted = false ∧ (swLst (swEnt (3 : Byte) (0 : Byte))).piecesOf (Owner.swRecord 5 (6 : BitVec 16)) = [] ∧
      (swLst (swEnt (3 : Byte) (0 : Byte))).piecesOf (Owner.swList 5 (6 : BitVec 16)) ≠ [] ∧
      (swLst (swEnt (3 : Byte) (0 : Byte))).answers (Reply.data []) ((swLst (swEnt (3 : Byte) (0 : Byte))).piecesOf (Owner.swList 5 (6 : BitVec 16))) = some (Reply.data (swEnt (3 : Byte) (0 : Byte)))) ∧
      (swLst (swEnt (3 : Byte) (0 : Byte))).distinct) ∧
    (((swRec (zeros 128)).galleyRuns = true ∧ (swRec (zeros 128)).cmd? 5 (6 : BitVec 16) = some dSw ∧ dSw.aborted = false ∧
      (swRec (zeros 128)).piecesOf (Owner.swRecord 5 (6 : BitVec 16)) ≠ [] ∧
      (swRec (zeros 128)).answers (Reply.data []) ((swRec (zeros 128)).piecesOf (Owner.swRecord 5 (6 : BitVec 16))) = some (Reply.data (zeros 128)) ∧
      recordOk (zeros 128) = false) ∧ (swRec (zeros 128)).distinct) ∧
    ((swErr.galleyRuns = true ∧ swErr.cmd? 5 (6 : BitVec 16) = some dSw ∧ dSw.aborted = false ∧
      (swErr.piecesOf (Owner.swRecord 5 (6 : BitVec 16)) ≠ [] → swErr.answers (Reply.data []) (swErr.piecesOf (Owner.swRecord 5 (6 : BitVec 16))) = some (Reply.error ECode.poison)) ∧
      (swErr.piecesOf (Owner.swRecord 5 (6 : BitVec 16)) = [] → swErr.piecesOf (Owner.swList 5 (6 : BitVec 16)) ≠ [] ∧
      swErr.answers (Reply.data []) (swErr.piecesOf (Owner.swList 5 (6 : BitVec 16))) = some (Reply.error ECode.poison))) ∧ swErr.distinct) ∧
    ((trk (15 : BitVec 4)).takes (Who.fn 15) (Instr.skcfgClr (Who.fn 15) 15) = true ∧
      (trk (15 : BitVec 4)).takes (Who.fn 15) (Instr.skentRead (Who.fn 15) 15) = true ∧ (trk (15 : BitVec 4)).mayTrack (Who.fn 15) 15 = true) ∧
    ((trk (0 : BitVec 4)).takes (Who.fn 15) (Instr.skcfgClr (Who.fn 15) 15) = true ∧
      (trk (0 : BitVec 4)).takes (Who.fn 15) (Instr.skentRead (Who.fn 15) 15) = true ∧ (trk (0 : BitVec 4)).mayTrack (Who.fn 15) 15 = false) :=
  ⟨⟨by decide +kernel, by unfold State.distinct; decide +kernel⟩,
   ⟨by decide +kernel, by unfold State.distinct; decide +kernel⟩,
   ⟨by decide +kernel, by unfold State.distinct; decide +kernel⟩,
   ⟨by decide +kernel, by unfold State.distinct; decide +kernel⟩,
   by decide +kernel,
   by decide +kernel⟩

theorem test_lookaheadsReadInProof_met :
    (((following gathSealed).lk 15).queue = some 5 ∧ ((following gathSealed).lk 15).ringHeld = [ringProof gathSealed] ∧
      (ringProof gathSealed).data = none ∧
      (∀ (z : Proof), z ∈ ((following gathSealed).lk 15).held → z.id = (ringProof gathSealed).id → z = ringProof gathSealed) ∧
      (following gathSealed).proofData (ringProof gathSealed) (Reply.data []) = some (Reply.data gathSealed)) ∧
    ((reads1 false).takes (Who.core 0) (Instr.lkaCtlWrite (Who.core 0) (0 : W32)) = true ∧ bit (BitVec.toNat (0 : W32)) 31 = false) ∧
    ((reads1 false).takes (Who.core 0) (Instr.lkaGctlWrite (Who.core 0) (0 : W32)) = true ∧ isMgr (Who.core 0) = true ∧
      bit (BitVec.toNat (0 : W32)) 31 = false) ∧
    (fnUp.takes (Who.fn 15) (Instr.lkaGctlWrite (Who.fn 15) (0 : W32)) = true ∧ isMgr (Who.fn 15) = false) ∧
    ((reads1 false).takes (Who.core 0) (Instr.lkaGctlWrite (Who.core 0) (4294967295 : W32)) = true ∧ isMgr (Who.core 0) = true ∧
      bit (BitVec.toNat (4294967295 : W32)) 31 = true) ∧
    ((reads1 false).takes (Who.core 0) (Instr.lkaCtlWrite (Who.core 0) (2147483648 : W32)) = true ∧
      bit (BitVec.toNat (2147483648 : W32)) 31 = true) :=
  ⟨by decide +kernel,
   by decide +kernel,
   by decide +kernel,
   by decide +kernel,
   by decide +kernel,
   by decide +kernel⟩

theorem test_proofReadsAndWalks_met :
    (walksRing.serving 2 0 = true ∧ (walksRing.lk 15).queue = some 5 ∧ walksRing.lkaOn (5 / 256 : Nat) = true ∧
      bit (walksRing.lkaCtl (5 / 256 : Nat)) 12 = true ∧ walksRing.bound (5 / 256 : Nat) = false ∧
      walksRing.ctxValid (walksRing.cmdCtx 5) = true ∧ walksRing.atsHalf (walksRing.cmdCtx 5) (BitVec.toNat (4096 : BitVec 57)) = false ∧
      walksRing.slotOf (walksRing.cmdCtx 5) ≠ none ∧ walksRing.walk? 47 = none ∧ (∀ (r : Req), r ∈ walksRing.reqs → r.st ≠ ReqSt.missWait) ∧
      walksRing.allWalksOf (5 / 256 : Nat) < walksRing.quotaWalk (5 / 256 : Nat) ∧
      (List.filter (fun x => x.proof.isSome) walksRing.trn.walks).length < walksRing.lkaPwmax ∧
      (List.filter (fun x => x.proof == some 15) walksRing.trn.walks).length < 8 ∧
      (∀ (x : Walk), x ∈ walksRing.trn.walks → x.ctx = walksRing.cmdCtx 5 → x.va / 4096 ≠ BitVec.toNat (4096 : BitVec 57) / 4096) ∧
      walksRing.dom 3 = Dom.run ∧ walksRing.unitIn 3 47 = true ∧ walksRing.proofNeeds 15 5 (BitVec.toNat (4096 : BitVec 57)) = true ∧
      walksRing.walkBar (walksRing.newWalk 47 (5 / 256 : Nat) (walksRing.cmdCtx 5) (BitVec.toNat (4096 : BitVec 57)) (some 15)) = none) ∧
    (List.find? (fun h => h.id == 1 && h.data.isNone && h.kind != ProofKind.ring) ((reads1 false).lk 15).held = some (readOne false) ∧
      (readOne false).dead = false ∧ (reads1 false).proofData (readOne false) (Reply.data []) = some (Reply.data (zeros 64))) ∧
    (List.find? (fun h => h.id == 1 && h.data.isNone && h.kind != ProofKind.ring) ((reads1 true).lk 15).held = some (readOne true) ∧
      (readOne true).dead = true) ∧
    ((aheadOf.lk 15).queue = some 5 ∧
      aheadOf.proofCheck 15 5 { kind := ProofKind.record, target := 1, addr := (16449 : BitVec 57), len := 64 } = none) :=
  ⟨by decide +kernel,
   by decide +kernel,
   by decide +kernel,
   by decide +kernel⟩

theorem test_recorderCommandsAndData_met :
    (recOn.takes (Who.core 0) (Instr.recSnap (Who.core 0)) = true ∧ recOn.takes (Who.core 0) (Instr.recClrall (Who.core 0)) = true ∧
      isMgr (Who.core 0) = true ∧ recOn.rcd.freeze = false ∧ recOn.rcd.mode = true) ∧
    (fnUp.serving 13 0 = true ∧ (∀ (h : Half), fnUp.takes (Who.fn 15) (Instr.recDataAccess (Who.fn 15) (RecAccess.read h)) = true)) ∧
    (recOn.serving 13 0 = true ∧ recOn.rcd.mode = true ∧ recOn.rcd.freeze = false ∧ recOn.setOn 0 = true ∧ recOn.setPeriod 0 ≠ 0 ∧
      Memory.wf recOn.rcd.sram = true) ∧
    (recCur.takes (Who.core 0) (Instr.recDataAccess (Who.core 0) (RecAccess.write (578437695752307201 : W64))) = true ∧
      Memory.wf recCur.rcd.sram = true ∧ isMgr (Who.core 0) = true ∧ histHeader (recCur.cursorAt (Who.core 0)) 8 = none) ∧
    (fnUp.takes (Who.fn 15) (Instr.recSnap (Who.fn 15)) = true ∧ fnUp.takes (Who.fn 15) (Instr.recClrall (Who.fn 15)) = true ∧
      (isMgr (Who.fn 15) = false ∨ fnUp.rcd.freeze = true)) ∧
    recOn.takes (Who.core 0) (Instr.recFreeze (Who.core 0) true) = true ∧
    (recRun.takes (Who.core 0) (Instr.recSnap (Who.core 0)) = true ∧ recRun.takes (Who.core 0) (Instr.recClrall (Who.core 0)) = true ∧
      isMgr (Who.core 0) = true ∧ recRun.rcd.freeze = false ∧ recRun.rcd.mode = false) ∧
    (State.reset.serving 13 0 = true ∧ (State.reset.rcd.freeze = true ∨ State.reset.rcd.mode = false)) ∧
    ((unitAs 13 0 USt.out State.reset).serving 13 0 = false ∧
      (∀ (h : Half), (unitAs 13 0 USt.out State.reset).takes (Who.core 0) (Instr.recDataAccess (Who.core 0) (RecAccess.read h)) = true)) ∧
    (fnUp.takes (Who.fn 15) (Instr.recDataAccess (Who.fn 15) (RecAccess.write (5 : W64))) = true ∧ Memory.wf fnUp.rcd.sram = true ∧
      isMgr (Who.fn 15) = false) :=
  ⟨by decide +kernel,
   ⟨by decide +kernel, fun x => by cases x <;> decide +kernel⟩,
   by decide +kernel,
   by decide +kernel,
   by decide +kernel,
   by decide +kernel,
   by decide +kernel,
   by decide +kernel,
   ⟨by decide +kernel, fun x => by cases x <;> decide +kernel⟩,
   by decide +kernel⟩

theorem test_registersStore_met :
    (isMgr (Who.core 0) = true ∧
      State.reset.takes (Who.core 0) (Instr.registerWrite (Who.core 0) (BitVec.ofNat 26 32896) 32 (18446744073709551615 : W64)) = true ∧
      State.reset.takes (Who.core 0) (Instr.registerWrite (Who.core 0) (BitVec.ofNat 26 458756) 32 (18446744073709551615 : W64)) = true ∧
      State.reset.takes (Who.core 0) (Instr.registerWrite (Who.core 0) (BitVec.ofNat 26 458768) 32 (18446744073709551615 : W64)) = true ∧
      State.reset.takes (Who.core 0) (Instr.registerWrite (Who.core 0) (BitVec.ofNat 26 196608) 64 (18446744073709551615 : W64)) = true ∧
      State.reset.takes (Who.core 0) (Instr.registerWrite (Who.core 0) (BitVec.ofNat 26 262144) 32 (18446744073709551615 : W64)) = true ∧
      State.reset.takes (Who.core 0) (Instr.registerWrite (Who.core 0) (BitVec.ofNat 26 327680) 32 (18446744073709551615 : W64)) = true ∧
      State.reset.takes (Who.core 0) (Instr.registerWrite (Who.core 0) (BitVec.ofNat 26 655380) 32 (18446744073709551615 : W64)) = true ∧
      State.reset.takes (Who.core 0) (Instr.registerWrite (Who.core 0) (BitVec.ofNat 26 786480) 32 (18446744073709551615 : W64)) = true ∧
      State.reset.err.handling = false) ∧
    ((rcUp.takes (Who.core 0) (Instr.readClearCounterRead (Who.core 0) RcReg.lkaIssue Half.whole) = true ∧
      rcUp.regAt (Who.core 0) (rcOffset RcReg.lkaIssue) = some (!rcNarrow RcReg.lkaIssue, rcVal RcReg.lkaIssue)) ∧
      (∀ (o : BitVec 26) (k : Nat), RcReg.lkaIssue ≠ RcReg.reg o k)) ∧
    ((rcUp.takes (Who.core 0) (Instr.readClearCounterRead (Who.core 0) (RcReg.wstat 7) Half.low) = true ∧
      rcUp.takes (Who.core 0) (Instr.readClearCounterRead (Who.core 0) (RcReg.wstat 7) Half.high) = true ∧
      rcUp.regAt (Who.core 0) (rcOffset (RcReg.wstat 7)) = some (true, rcVal (RcReg.wstat 7)) ∧
      rcUp.heldHigh (Who.core 0) (rcOffset (RcReg.wstat 7)) = none) ∧ (∀ (o : BitVec 26) (k : Nat), RcReg.wstat 7 ≠ RcReg.reg o k)) ∧
    (isMgr (Who.core 0) = true ∧ errHandling.err.handling = true) ∧
    ((rcUp.takes (Who.core 0) (Instr.readClearCounterRead (Who.core 0) RcReg.lkaUsed Half.whole) = true ∧
      rcUp.regAt (Who.core 0) (rcOffset RcReg.lkaUsed) = some (!rcNarrow RcReg.lkaUsed, rcVal RcReg.lkaUsed)) ∧
      (∀ (o : BitVec 26) (k : Nat), RcReg.lkaUsed ≠ RcReg.reg o k)) ∧
    ((rcUp.takes (Who.core 0) (Instr.readClearCounterRead (Who.core 0) RcReg.lkaDisc Half.whole) = true ∧
      rcUp.regAt (Who.core 0) (rcOffset RcReg.lkaDisc) = some (!rcNarrow RcReg.lkaDisc, rcVal RcReg.lkaDisc)) ∧
      (∀ (o : BitVec 26) (k : Nat), RcReg.lkaDisc ≠ RcReg.reg o k)) ∧
    ((rcUp.takes (Who.core 0) (Instr.readClearCounterRead (Who.core 0) RcReg.lkaWalks Half.whole) = true ∧
      rcUp.regAt (Who.core 0) (rcOffset RcReg.lkaWalks) = some (!rcNarrow RcReg.lkaWalks, rcVal RcReg.lkaWalks)) ∧
      (∀ (o : BitVec 26) (k : Nat), RcReg.lkaWalks ≠ RcReg.reg o k)) ∧
    ((rcUp.takes (Who.core 0) (Instr.readClearCounterRead (Who.core 0) RcReg.linNbcast Half.whole) = true ∧
      rcUp.regAt (Who.core 0) (rcOffset RcReg.linNbcast) = some (!rcNarrow RcReg.linNbcast, rcVal RcReg.linNbcast) ∧
      isMgr (Who.core 0) = true) ∧ (∀ (o : BitVec 26) (k : Nat), RcReg.linNbcast ≠ RcReg.reg o k)) ∧
    ((rcUp.takes (Who.core 0) (Instr.readClearCounterRead (Who.core 0) RcReg.linNrecall Half.whole) = true ∧
      rcUp.regAt (Who.core 0) (rcOffset RcReg.linNrecall) = some (!rcNarrow RcReg.linNrecall, rcVal RcReg.linNrecall) ∧
      isMgr (Who.core 0) = true) ∧ (∀ (o : BitVec 26) (k : Nat), RcReg.linNrecall ≠ RcReg.reg o k)) ∧
    ((rcUp.takes (Who.core 0) (Instr.readClearCounterRead (Who.core 0) RcReg.linNcross Half.whole) = true ∧
      rcUp.regAt (Who.core 0) (rcOffset RcReg.linNcross) = some (!rcNarrow RcReg.linNcross, rcVal RcReg.linNcross) ∧
      isMgr (Who.core 0) = true) ∧ (∀ (o : BitVec 26) (k : Nat), RcReg.linNcross ≠ RcReg.reg o k)) ∧
    ((rcUp.takes (Who.core 0) (Instr.readClearCounterRead (Who.core 0) RcReg.hostLate Half.whole) = true ∧
      rcUp.regAt (Who.core 0) (rcOffset RcReg.hostLate) = some (!rcNarrow RcReg.hostLate, rcVal RcReg.hostLate) ∧ isMgr (Who.core 0) = true) ∧
      (∀ (o : BitVec 26) (k : Nat), RcReg.hostLate ≠ RcReg.reg o k)) ∧
    ((rcUp.takes (Who.core 0) (Instr.readClearCounterRead (Who.core 0) RcReg.trstat Half.whole) = true ∧
      rcUp.regAt (Who.core 0) (rcOffset RcReg.trstat) = some (!rcNarrow RcReg.trstat, rcVal RcReg.trstat) ∧ rcUp.serving 12 0 = true) ∧
      (∀ (o : BitVec 26) (k : Nat), RcReg.trstat ≠ RcReg.reg o k)) ∧
    ((rcUp.takes (Who.core 0) (Instr.readClearCounterRead (Who.core 0) RcReg.recStat Half.whole) = true ∧
      rcUp.regAt (Who.core 0) (rcOffset RcReg.recStat) = some (!rcNarrow RcReg.recStat, rcVal RcReg.recStat) ∧ rcUp.serving 13 0 = true) ∧
      (∀ (o : BitVec 26) (k : Nat), RcReg.recStat ≠ RcReg.reg o k)) :=
  ⟨by decide +kernel,
   ⟨by decide +kernel, nofun⟩,
   ⟨by decide +kernel, nofun⟩,
   by decide +kernel,
   ⟨by decide +kernel, nofun⟩,
   ⟨by decide +kernel, nofun⟩,
   ⟨by decide +kernel, nofun⟩,
   ⟨by decide +kernel, nofun⟩,
   ⟨by decide +kernel, nofun⟩,
   ⟨by decide +kernel, nofun⟩,
   ⟨by decide +kernel, nofun⟩,
   ⟨by decide +kernel, nofun⟩,
   ⟨by decide +kernel, nofun⟩⟩

theorem test_commandRegistersCommand_met :
    (isMgr (Who.core 0) = true ∧ bits (BitVec.toNat (1073741825 : W64)) 3 0 = 1 ∧
      State.reset.admits (Instr.registerWrite (Who.core 0) (BitVec.ofNat 26 32804) 32 (1073741825 : W64)) = true ∧
      bits (BitVec.toNat (1073741825 : W64)) 31 30 = 1 ∧
      State.reset.admits (Instr.registerWrite (Who.core 0) (BitVec.ofNat 26 196616) 32 (1073741825 : W64)) = true ∧
      State.reset.admits (Instr.registerWrite (Who.core 0) (BitVec.ofNat 26 229384) 32 (1073741825 : W64)) = true ∧
      State.reset.admits (Instr.registerWrite (Who.core 0) (BitVec.ofNat 26 229396) 32 (1073741825 : W64)) = true ∧
      bits (BitVec.toNat (1073741825 : W64)) 2 0 = 1 ∧
      State.reset.admits (Instr.registerWrite (Who.core 0) (BitVec.ofNat 26 262152) 32 (1073741825 : W64)) = true ∧
      State.reset.admits (Instr.registerWrite (Who.core 0) (BitVec.ofNat 26 393216) 32 (1073741825 : W64)) = true ∧
      State.reset.admits (Instr.registerWrite (Who.core 0) (BitVec.ofNat 26 393220) 32 (1073741825 : W64)) = true ∧
      State.reset.admits (Instr.registerWrite (Who.core 0) (BitVec.ofNat 26 65536) 32 (1073741825 : W64)) = true ∧
      State.reset.admits (Instr.registerWrite (Who.core 0) (BitVec.ofNat 26 65552) 32 (1073741825 : W64)) = true ∧
      State.reset.admits (Instr.registerWrite (Who.core 0) (BitVec.ofNat 26 655432) 32 (1073741825 : W64)) = true ∧
      State.reset.admits (Instr.registerWrite (Who.core 0) (BitVec.ofNat 26 786472) 32 (1073741825 : W64)) = true ∧
      bit (BitVec.toNat (1073741825 : W64)) 31 = false ∧
      State.reset.admits (Instr.registerWrite (Who.core 0) (BitVec.ofNat 26 524296) 32 (1073741825 : W64)) = true) ∧
    (isMgr (Who.core 0) = true ∧ bits (BitVec.toNat (2147483652 : W64)) 3 0 = 4 ∧
      State.reset.admits (Instr.registerWrite (Who.core 0) (BitVec.ofNat 26 32804) 32 (2147483652 : W64)) = true ∧
      bits (BitVec.toNat (2147483652 : W64)) 31 30 = 2 ∧
      State.reset.admits (Instr.registerWrite (Who.core 0) (BitVec.ofNat 26 196616) 32 (2147483652 : W64)) = true ∧
      State.reset.admits (Instr.registerWrite (Who.core 0) (BitVec.ofNat 26 229396) 32 (2147483652 : W64)) = true ∧
      bits (BitVec.toNat (2147483652 : W64)) 2 0 = 4 ∧
      State.reset.admits (Instr.registerWrite (Who.core 0) (BitVec.ofNat 26 262152) 32 (2147483652 : W64)) = true ∧
      bit (BitVec.toNat (2147483652 : W64)) 31 = true ∧
      State.reset.admits (Instr.registerWrite (Who.core 0) (BitVec.ofNat 26 524296) 32 (2147483652 : W64)) = true) ∧
    (isMgr (Who.core 0) = true ∧ bits (BitVec.toNat (2 : W64)) 3 0 = 2 ∧
      State.reset.admits (Instr.registerWrite (Who.core 0) (BitVec.ofNat 26 32804) 32 (2 : W64)) = true ∧
      bits (BitVec.toNat (2 : W64)) 31 30 = 0 ∧
      State.reset.admits (Instr.registerWrite (Who.core 0) (BitVec.ofNat 26 196616) 32 (2 : W64)) = true ∧
      bits (BitVec.toNat (2 : W64)) 2 0 = 2 ∧
      State.reset.admits (Instr.registerWrite (Who.core 0) (BitVec.ofNat 26 262152) 32 (2 : W64)) = true) ∧
    (isMgr (Who.core 0) = true ∧ bits (BitVec.toNat (2147483656 : W64)) 3 0 = 8 ∧
      State.reset.admits (Instr.registerWrite (Who.core 0) (BitVec.ofNat 26 32804) 32 (2147483656 : W64)) = true) :=
  ⟨by decide +kernel,
   by decide +kernel,
   by decide +kernel,
   by decide +kernel⟩

theorem test_peerRequestsAreSentAndAnswered_met :
    ((routed (pSend Acc.read)).req? 3 = some (rPeer Acc.read (Owner.tile 63 2) 32 (ReqSt.issued (Out.peer apA))) ∧
      (rPeer Acc.read (Owner.tile 63 2) 32 (ReqSt.issued (Out.peer apA))).st = ReqSt.issued (Out.peer apA) ∧
      (routed (pSend Acc.read)).dom 24 = Dom.run ∧
      (routed (pSend Acc.read)).peerBefore (rPeer Acc.read (Owner.tile 63 2) 32 (ReqSt.issued (Out.peer apA))) = false ∧
      bits apA 56 47 ≠ (routed (pSend Acc.read)).seam.peer.toNat ∧ (routed (pSend Acc.read)).routePorts (bits apA 56 47) ≠ (0 : BitVec 12) ∧
      (rPeer Acc.read (Owner.tile 63 2) 32 (ReqSt.issued (Out.peer apA))).owner = Owner.tile 63 2 ∧
      (rPeer Acc.read (Owner.tile 63 2) 32 (ReqSt.issued (Out.peer apA))).grp = 0 ∧
      (rPeer Acc.read (Owner.tile 63 2) 32 (ReqSt.issued (Out.peer apA))).acc ≠ Acc.write) ∧
    ((pSent (Owner.tile 63 2)).req? 3 = some (rPeer Acc.read (Owner.tile 63 2) 32 (ReqSt.sent (Out.peer apA))) ∧
      (rPeer Acc.read (Owner.tile 63 2) 32 (ReqSt.sent (Out.peer apA))).st = ReqSt.sent (Out.peer apA) ∧
      (pSent (Owner.tile 63 2)).seam.tmo ≠ (0 : BitVec 16)) ∧
    ((pOne (Owner.tile 63 2)).admits (Instr.inboundCpl 11 ⟨(0 : BitVec 10), 3, 0⟩ (Reply.data [(1 : Byte)])) = true ∧
      (0 : BitVec 10) = (pOne (Owner.tile 63 2)).seam.peer ∧ (pOne (Owner.tile 63 2)).serving 7 11 = true ∧
      (pOne (Owner.tile 63 2)).req? 3 = some (rPeer Acc.read (Owner.tile 63 2) 32 (ReqSt.sent (Out.peer apB))) ∧
      (rPeer Acc.read (Owner.tile 63 2) 32 (ReqSt.sent (Out.peer apB))).st = ReqSt.sent (Out.peer apB) ∧
      (rPeer Acc.read (Owner.tile 63 2) 32 (ReqSt.sent (Out.peer apB))).lacks apB 0 = true ∧
      ((rPeer Acc.read (Owner.tile 63 2) 32 (ReqSt.sent (Out.peer apB))).pieces ++ [(0, Reply.data [(1 : Byte)])]).length = ((rPeer Acc.read (Owner.tile 63 2) 32 (ReqSt.sent (Out.peer apB))).cuts apB).length ∧
      (rPeer Acc.read (Owner.tile 63 2) 32 (ReqSt.sent (Out.peer apB))).owner = Owner.tile 63 2 ∧
      (rPeer Acc.read (Owner.tile 63 2) 32 (ReqSt.sent (Out.peer apB))).grp = 0) ∧
    ((pSend Acc.read).req? 3 = some (rPeer Acc.read (Owner.tile 63 2) 32 (ReqSt.issued (Out.peer apA))) ∧
      (rPeer Acc.read (Owner.tile 63 2) 32 (ReqSt.issued (Out.peer apA))).st = ReqSt.issued (Out.peer apA) ∧
      (pSend Acc.read).dom 24 = Dom.run ∧
      (pSend Acc.read).peerBefore (rPeer Acc.read (Owner.tile 63 2) 32 (ReqSt.issued (Out.peer apA))) = false ∧
      bits apA 56 47 ≠ (pSend Acc.read).seam.peer.toNat ∧ (pSend Acc.read).routePorts (bits apA 56 47) = (0 : BitVec 12) ∧
      (rPeer Acc.read (Owner.tile 63 2) 32 (ReqSt.issued (Out.peer apA))).owner = Owner.tile 63 2 ∧
      (rPeer Acc.read (Owner.tile 63 2) 32 (ReqSt.issued (Out.peer apA))).grp = 0) ∧
    ((routed (pSend Acc.write)).req? 3 = some (rPeer Acc.write (Owner.tile 63 2) 32 (ReqSt.issued (Out.peer apA))) ∧
      (rPeer Acc.write (Owner.tile 63 2) 32 (ReqSt.issued (Out.peer apA))).st = ReqSt.issued (Out.peer apA) ∧
      (routed (pSend Acc.write)).dom 24 = Dom.run ∧
      (routed (pSend Acc.write)).peerBefore (rPeer Acc.write (Owner.tile 63 2) 32 (ReqSt.issued (Out.peer apA))) = false ∧
      bits apA 56 47 ≠ (routed (pSend Acc.write)).seam.peer.toNat ∧ (routed (pSend Acc.write)).routePorts (bits apA 56 47) ≠ (0 : BitVec 12) ∧
      (rPeer Acc.write (Owner.tile 63 2) 32 (ReqSt.issued (Out.peer apA))).owner = Owner.tile 63 2 ∧
      (rPeer Acc.write (Owner.tile 63 2) 32 (ReqSt.issued (Out.peer apA))).grp = 0 ∧
      (rPeer Acc.write (Owner.tile 63 2) 32 (ReqSt.issued (Out.peer apA))).acc = Acc.write) ∧
    (pTimed.admits (Instr.inboundCpl 11 ⟨(0 : BitVec 10), 3, 0⟩ (Reply.data [])) = true ∧ (0 : BitVec 10) = pTimed.seam.peer ∧
      pTimed.serving 7 11 = true ∧ pTimed.req? 3 = none ∧ (pTimed.seam.timedOut.any fun x => x.tag == 3) = true ∧
      BitVec.toNat (pTimed.err.cnt.get (0 : W32) 3) < 4294967295) ∧
    ((pOne (Owner.cmpStream 15 0)).admits (Instr.inboundCpl 11 ⟨(0 : BitVec 10), 3, 0⟩ (Reply.error ECode.peer)) = true ∧
      (0 : BitVec 10) = (pOne (Owner.cmpStream 15 0)).seam.peer ∧ (pOne (Owner.cmpStream 15 0)).serving 7 11 = true ∧
      (pOne (Owner.cmpStream 15 0)).req? 3 = some (rPeer Acc.read (Owner.cmpStream 15 0) 32 (ReqSt.sent (Out.peer apB))) ∧
      (rPeer Acc.read (Owner.cmpStream 15 0) 32 (ReqSt.sent (Out.peer apB))).st = ReqSt.sent (Out.peer apB) ∧
      (rPeer Acc.read (Owner.cmpStream 15 0) 32 (ReqSt.sent (Out.peer apB))).lacks apB 0 = true ∧
      ((rPeer Acc.read (Owner.cmpStream 15 0) 32 (ReqSt.sent (Out.peer apB))).pieces ++ [(0, Reply.error ECode.peer)]).length = ((rPeer Acc.read (Owner.cmpStream 15 0) 32 (ReqSt.sent (Out.peer apB))).cuts apB).length ∧
      (rPeer Acc.read (Owner.cmpStream 15 0) 32 (ReqSt.sent (Out.peer apB))).owner = Owner.cmpStream 15 0) ∧
    (State.reset.admits (Instr.inboundCpl 11 ⟨(5 : BitVec 10), 3, 0⟩ (Reply.data [])) = true ∧ (5 : BitVec 10) ≠ State.reset.seam.peer) ∧
    (State.reset.admits (Instr.inboundCpl 11 ⟨(0 : BitVec 10), 3, 0⟩ (Reply.data [])) = true ∧ (0 : BitVec 10) = State.reset.seam.peer ∧
      State.reset.serving 7 11 = true ∧ State.reset.req? 3 = none ∧ (State.reset.seam.timedOut.any fun x => x.tag == 3) = false) ∧
    ((pSent (Owner.tile 63 2)).admits (Instr.inboundCpl 11 ⟨(0 : BitVec 10), 3, 7⟩ (Reply.data [(1 : Byte)])) = true ∧
      (0 : BitVec 10) = (pSent (Owner.tile 63 2)).seam.peer ∧ (pSent (Owner.tile 63 2)).serving 7 11 = true ∧
      (pSent (Owner.tile 63 2)).req? 3 = some (rPeer Acc.read (Owner.tile 63 2) 32 (ReqSt.sent (Out.peer apA))) ∧
      (rPeer Acc.read (Owner.tile 63 2) 32 (ReqSt.sent (Out.peer apA))).st = ReqSt.sent (Out.peer apA) ∧
      (rPeer Acc.read (Owner.tile 63 2) 32 (ReqSt.sent (Out.peer apA))).lacks apA 7 = false) ∧
    (pCut.admits (Instr.inboundCpl 11 ⟨(0 : BitVec 10), 3, 0⟩ (Reply.data [(1 : Byte)])) = true ∧ (0 : BitVec 10) = pCut.seam.peer ∧
      pCut.serving 7 11 = true ∧ pCut.req? 3 = some (the 3 pCut) ∧ (the 3 pCut).st = ReqSt.sent (Out.peer apA) ∧
      (the 3 pCut).lacks apA 0 = true ∧ ((the 3 pCut).pieces ++ [(0, Reply.data [(1 : Byte)])]).length < ((the 3 pCut).cuts apA).length) ∧
    (pNoTmo.req? 3 = some (rPeer Acc.read (Owner.tile 63 2) 32 (ReqSt.sent (Out.peer apA))) ∧
      (rPeer Acc.read (Owner.tile 63 2) 32 (ReqSt.sent (Out.peer apA))).st = ReqSt.sent (Out.peer apA) ∧ pNoTmo.seam.tmo = (0 : BitVec 16)) :=
  ⟨by decide +kernel,
   by decide +kernel,
   by decide +kernel,
   by decide +kernel,
   by decide +kernel,
   by decide +kernel,
   by decide +kernel,
   by decide +kernel,
   by decide +kernel,
   by decide +kernel,
   by decide +kernel,
   by decide +kernel⟩

theorem test_inboundPacketsAreChecked_met :
    (winRt.serving 7 11 = true ∧ (hd (7 : BitVec 10) (4088 : BitVec 37)).dst = winRt.seam.peer ∧
      winRt.admits (Instr.inboundAtm 11 (hd (7 : BitVec 10) (4088 : BitVec 37)) ⟨9, 8⟩ AtomOp.add (1 : W64) (0 : W64)) = true ∧
      winRt.windowTakes (hd (7 : BitVec 10) (4088 : BitVec 37)) 2 8 = true ∧
      winRt.linesOf ((winRt.win (hd (7 : BitVec 10) (4088 : BitVec 37)).window.toNat).live.baseAddr + (hd (7 : BitVec 10) (4088 : BitVec 37)).offset.toNat) 8 = [] ∧
      winRt.anyClosed ((winRt.win (hd (7 : BitVec 10) (4088 : BitVec 37)).window.toNat).live.baseAddr + (hd (7 : BitVec 10) (4088 : BitVec 37)).offset.toNat) 8 = false ∧
      winRt.anyOff ((winRt.win (hd (7 : BitVec 10) (4088 : BitVec 37)).window.toNat).live.baseAddr + (hd (7 : BitVec 10) (4088 : BitVec 37)).offset.toNat) 8 = false ∧
      winRt.poisoned ((winRt.win (hd (7 : BitVec 10) (4088 : BitVec 37)).window.toNat).live.baseAddr + (hd (7 : BitVec 10) (4088 : BitVec 37)).offset.toNat) 8 = false ∧
      winRt.veil = [] ∧ Memory.wf winRt.mem = true ∧ 0 < 8 ∧ (∀ (f : Flight), f ∈ winRt.seam.flight → f.kind = 0 ∧ f.id < winRt.nextId ∧
      f.src ≠ BitVec.ofNat 9 (416 + 11)) ∧
      (roundRobin 12 (winRt.seam.rr.get 0 (hd (7 : BitVec 10) (4088 : BitVec 37)).src.toNat) fun i => (winRt.routePorts (hd (7 : BitVec 10) (4088 : BitVec 37)).src.toNat).getLsbD i) = some 11 ∧
      winRt.admits (Instr.inboundTadd 11 (hd (7 : BitVec 10) (4088 : BitVec 37)) (9 : BitVec 48)) = true ∧
      winRt.windowTakes (hd (7 : BitVec 10) (4088 : BitVec 37)) 3 1 = true) ∧
    ((winUp State.reset).serving 7 11 = true ∧ (hd (7 : BitVec 10) (4095 : BitVec 37)).dst = (winUp State.reset).seam.peer ∧
      (winUp State.reset).admits (Instr.inboundWr 11 (hd (7 : BitVec 10) (4095 : BitVec 37)) [(1 : Byte), (2 : Byte)] []) = true ∧
      (winUp State.reset).windowTakes (hd (7 : BitVec 10) (4095 : BitVec 37)) 0 [(1 : Byte), (2 : Byte)].length = false ∧
      (winUp State.reset).winPresent (hd (7 : BitVec 10) (4095 : BitVec 37)).window.toNat = true) ∧
    ((flying false).serving 6 0 = true ∧ List.find? (fun g => g.id == 1) (flying false).seam.flight = some (flt1 false) ∧
      (flt1 false).kind = 0 ∧ (flying false).flightHeld (flt1 false) = false ∧ (∀ (g : Flight), g ∈ (flying false).seam.flight → g.kind = 0) ∧
      (∀ (r : Req), r ∈ (flying false).reqs → r.owner.isExt = false) ∧ (flying false).anyClosed (flt1 false).addr (flt1 false).len = false ∧
      (flying false).veil = [] ∧ Memory.wf (flying false).mem = true ∧
      (∀ (i : Nat), i < List.length (flt1 false).data → (flying false).inWindow ((flt1 false).addr + i) = false)) ∧
    (winRt.serving 7 11 = true ∧ (hd (7 : BitVec 10) (4095 : BitVec 37)).dst = winRt.seam.peer ∧
      winRt.admits (Instr.inboundRd 11 (hd (7 : BitVec 10) (4095 : BitVec 37)) ⟨9, 1⟩ (Reply.data [])) = true ∧
      winRt.windowTakes (hd (7 : BitVec 10) (4095 : BitVec 37)) 1 1 = true ∧
      winRt.linesOf ((winRt.win (hd (7 : BitVec 10) (4095 : BitVec 37)).window.toNat).live.baseAddr + (hd (7 : BitVec 10) (4095 : BitVec 37)).offset.toNat) 1 = [] ∧
      winRt.anyClosed ((winRt.win (hd (7 : BitVec 10) (4095 : BitVec 37)).window.toNat).live.baseAddr + (hd (7 : BitVec 10) (4095 : BitVec 37)).offset.toNat) 1 = false ∧
      winRt.anyOff ((winRt.win (hd (7 : BitVec 10) (4095 : BitVec 37)).window.toNat).live.baseAddr + (hd (7 : BitVec 10) (4095 : BitVec 37)).offset.toNat) 1 = false ∧
      (∀ (f : Flight), f ∈ winRt.seam.flight → f.kind = 0 ∧ f.id < winRt.nextId ∧ f.src ≠ BitVec.ofNat 9 (416 + 11)) ∧
      (roundRobin 12 (winRt.seam.rr.get 0 (hd (7 : BitVec 10) (4095 : BitVec 37)).src.toNat) fun i => (winRt.routePorts (hd (7 : BitVec 10) (4095 : BitVec 37)).src.toNat).getLsbD i) = some 11) ∧
    ((winUp State.reset).serving 7 11 = true ∧ (hd (7 : BitVec 10) (4095 : BitVec 37)).dst = (winUp State.reset).seam.peer ∧
      (winUp State.reset).admits (Instr.inboundWr 11 (hd (7 : BitVec 10) (4095 : BitVec 37)) [(1 : Byte)] [true]) = true ∧
      (winUp State.reset).windowTakes (hd (7 : BitVec 10) (4095 : BitVec 37)) 0 [(1 : Byte)].length = true) ∧
    (winRt.serving 7 11 = true ∧ (hd (7 : BitVec 10) (4096 : BitVec 37)).dst = winRt.seam.peer ∧
      winRt.admits (Instr.inboundRd 11 (hd (7 : BitVec 10) (4096 : BitVec 37)) ⟨9, 1⟩ (Reply.data [])) = true ∧
      winRt.windowTakes (hd (7 : BitVec 10) (4096 : BitVec 37)) 1 1 = false ∧
      (roundRobin 12 (winRt.seam.rr.get 0 (hd (7 : BitVec 10) (4096 : BitVec 37)).src.toNat) fun i => (winRt.routePorts (hd (7 : BitVec 10) (4096 : BitVec 37)).src.toNat).getLsbD i) = some 11) :=
  ⟨by decide +kernel,
   by decide +kernel,
   by decide +kernel,
   by decide +kernel,
   by decide +kernel,
   by decide +kernel⟩

theorem test_windowsAndTallies_met :
    ((talOf State.reset).takes (Who.core 0) (Instr.talCountWrite (Who.core 0) (65535 : BitVec 16) (2 : W64)) = true ∧
      (talOf State.reset).takes (Who.core 0) (Instr.talThrWrite (Who.core 0) (65535 : BitVec 16) (2 : W64)) = true ∧
      (talOf State.reset).mayTouchTally (Who.core 0) (BitVec.toNat (65535 : BitVec 16)) = true ∧
      (((talOf State.reset).tally (BitVec.toNat (65535 : BitVec 16))).reached = true ∨ BitVec.toNat (2 : W64) % 2 ^ 48 < ((talOf State.reset).tally (BitVec.toNat (65535 : BitVec 16))).thresh.toNat)) ∧
    ((winStage winAll).takes (Who.core 0) (Instr.windowCommit (Who.core 0)) = true ∧ isMgr (Who.core 0) = true ∧
      ((winStage winAll).takeEffect ((winStage winAll).seam.sel.get (0 : BitVec 10) 0).toNat).commitRsn ((winStage winAll).seam.sel.get (0 : BitVec 10) 0).toNat ≠ 0) ∧
    (winPend.serving 6 0 = true ∧ (winPend.win 7).pend = some { }) ∧
    (exWindowsAndTallies1.takes (Who.core 0) (Instr.windowCommit (Who.core 0)) = true ∧ isMgr (Who.core 0) = true ∧
      (exWindowsAndTallies1.takeEffect (exWindowsAndTallies1.seam.sel.get (0 : BitVec 10) 0).toNat).commitRsn (exWindowsAndTallies1.seam.sel.get (0 : BitVec 10) 0).toNat = 0) ∧
    (fnUp.takes (Who.fn 15) (Instr.talCountWrite (Who.fn 15) (65535 : BitVec 16) (5 : W64)) = true ∧
      fnUp.takes (Who.fn 15) (Instr.talThrWrite (Who.fn 15) (65535 : BitVec 16) (5 : W64)) = true ∧
      fnUp.mayTouchTally (Who.fn 15) (BitVec.toNat (65535 : BitVec 16)) = false) ∧
    (fnUp.takes (Who.fn 15) (Instr.townAssign (Who.fn 15) 0 (65535 : BitVec 16)) = true ∧
      fnUp.takes (Who.fn 15) (Instr.townRelease (Who.fn 15) (65535 : BitVec 16)) = true ∧ isMgr (Who.fn 15) = false) ∧
    ((quota State.reset).takes (Who.core 0) (Instr.townAssign (Who.core 0) 0 (65535 : BitVec 16)) = true ∧
      (quota State.reset).takes (Who.core 0) (Instr.townRelease (Who.core 0) (65535 : BitVec 16)) = true ∧ isMgr (Who.core 0) = true ∧
      ((quota State.reset).tally (BitVec.toNat (65535 : BitVec 16))).owner = none ∧ (quota State.reset).present 0 = true ∧
      (quota State.reset).tallyUse 0 < (quota State.reset).quotaTally 0 ∧
      (((quota State.reset).tally (BitVec.toNat (65535 : BitVec 16))).owner = none ∨ (quota State.reset).tallyNamed (BitVec.toNat (65535 : BitVec 16)) = true)) ∧
    ((talOf State.reset).takes (Who.core 0) (Instr.townAssign (Who.core 0) 15 (65535 : BitVec 16)) = true ∧
      (talOf State.reset).takes (Who.core 0) (Instr.townRelease (Who.core 0) (65535 : BitVec 16)) = true ∧ isMgr (Who.core 0) = true ∧
      (((talOf State.reset).tally (BitVec.toNat (65535 : BitVec 16))).owner ≠ none ∨ (talOf State.reset).present 15 = false ∨ (talOf State.reset).quotaTally 15 ≤ (talOf State.reset).tallyUse 15) ∧
      ((talOf State.reset).tally (BitVec.toNat (65535 : BitVec 16))).owner ≠ none ∧
      (talOf State.reset).tallyNamed (BitVec.toNat (65535 : BitVec 16)) = false) ∧
    (fnUp.takes (Who.fn 15) (Instr.windowCommit (Who.fn 15)) = true ∧ isMgr (Who.fn 15) = false) :=
  ⟨by decide +kernel,
   by decide +kernel,
   by decide +kernel,
   by decide +kernel,
   by decide +kernel,
   by decide +kernel,
   by decide +kernel,
   by decide +kernel,
   by decide +kernel⟩

theorem test_agentsAskForLines_met :
    ((∀ (c : Instr), c ∈ [Instr.rds 71 lastL, Instr.rdx 71 lastL, Instr.upg 71 lastL, Instr.evc 71 lastL] → (heldBy LSt.sh [9, 71]).admits c = true) ∧
      (heldBy LSt.sh [9, 71]).linServes = true ∧ (heldBy LSt.sh [9, 71]).isLine lastL = true ∧
      (heldBy LSt.sh [9, 71]).lin.active.getLsbD 71 = true ∧ (heldBy LSt.sh [9, 71]).lentry? lastL = some (le lastL 15 LSt.sh [9, 71]) ∧
      (heldBy LSt.sh [9, 71]).admissible { line := lastL, kind := TxKind.rds, agent := 71, host := if 71 < 72 then none else some (71 == 73) } (heldBy LSt.sh [9, 71]).lin.waits = true ∧
      (le lastL 15 LSt.sh [9, 71]).owner? = none ∧
      List.filter (fun x => x != 71) ((heldBy LSt.sh [9, 71]).holders (le lastL 15 LSt.sh [9, 71])) ≠ [] ∧
      (le lastL 15 LSt.sh [9, 71]).names 71 = true ∧
      (heldBy LSt.sh [9, 71]).admissible { line := lastL, kind := TxKind.evc, agent := 71, host := if 71 < 72 then none else some (71 == 73) } (heldBy LSt.sh [9, 71]).lin.waits = true ∧
      (heldBy LSt.sh [9, 71]).lin.conflicts = [] ∧ (le lastL 15 LSt.sh [9, 71]).st = LSt.sh ∧ 71 ∈ (le lastL 15 LSt.sh [9, 71]).ptrs ∧
      (le lastL 15 LSt.sh [9, 71]).ptrs.erase 71 ≠ []) ∧
    ((∀ (c : Instr), c ∈ [Instr.rds 71 5, Instr.rdx 71 5, Instr.upg 71 5, Instr.evc 71 5] → fullSet.admits c = true) ∧
      fullSet.linServes = true ∧ fullSet.isLine 5 = true ∧ fullSet.lin.active.getLsbD 71 = true ∧ fullSet.lentry? 5 = none ∧
      (TxKind.rdx, Instr.rdx 71 5) ∈ [(TxKind.rds, Instr.rds 71 5), (TxKind.rdx, Instr.rdx 71 5), (TxKind.rdx, Instr.upg 71 5)] ∧
      fullSet.admissible { line := 5, kind := TxKind.rdx, agent := 71, host := if 71 < 72 then none else some (71 == 73) } fullSet.lin.waits = true ∧
      fullSet.freeWay (lineSet 5) = none ∧ fullSet.victimOf (lineSet 5) = some hugeMiss ∧ fullSet.holders hugeMiss ≠ [] ∧
      fullSet.admissible { line := 5, kind := TxKind.evc, agent := 71, host := if 71 < 72 then none else some (71 == 73) } fullSet.lin.waits = true ∧
      fullSet.lin.conflicts = []) ∧
    ((∀ (c : Instr), c ∈ [Instr.rds 71 lastL, Instr.rdx 71 lastL, Instr.upg 71 lastL, Instr.evc 71 lastL] → (heldBy LSt.sh [71]).admits c = true) ∧
      (heldBy LSt.sh [71]).linServes = true ∧ (heldBy LSt.sh [71]).isLine lastL = true ∧ (heldBy LSt.sh [71]).lin.active.getLsbD 71 = true ∧
      (heldBy LSt.sh [71]).lentry? lastL = some (le lastL 15 LSt.sh [71]) ∧
      (heldBy LSt.sh [71]).admissible { line := lastL, kind := TxKind.rds, agent := 71, host := if 71 < 72 then none else some (71 == 73) } (heldBy LSt.sh [71]).lin.waits = true ∧
      (le lastL 15 LSt.sh [71]).names 71 = true ∧
      List.filter (fun x => x != 71) ((heldBy LSt.sh [71]).holders (le lastL 15 LSt.sh [71])) = [] ∧ (heldBy LSt.sh [71]).lin.conflicts = [] ∧
      (heldBy LSt.sh [71]).admissible { line := lastL, kind := TxKind.evc, agent := 71, host := if 71 < 72 then none else some (71 == 73) } (heldBy LSt.sh [71]).lin.waits = true ∧
      (le lastL 15 LSt.sh [71]).st = LSt.sh ∧ (le lastL 15 LSt.sh [71]).ptrs = [71]) ∧
    ((∀ (c : Instr), c ∈ [Instr.rds 71 lastL, Instr.rdx 71 lastL, Instr.upg 71 lastL, Instr.evc 71 lastL] → (heldBy LSt.ex [9]).admits c = true) ∧
      (heldBy LSt.ex [9]).linServes = true ∧ (heldBy LSt.ex [9]).isLine lastL = true ∧ (heldBy LSt.ex [9]).lin.active.getLsbD 71 = true ∧
      (heldBy LSt.ex [9]).lentry? lastL = some (le lastL 15 LSt.ex [9]) ∧
      (heldBy LSt.ex [9]).admissible { line := lastL, kind := TxKind.rds, agent := 71, host := if 71 < 72 then none else some (71 == 73) } (heldBy LSt.ex [9]).lin.waits = true ∧
      (le lastL 15 LSt.ex [9]).owner? = some 9 ∧ 9 ≠ 71 ∧
      List.filter (fun x => x != 71) ((heldBy LSt.ex [9]).holders (le lastL 15 LSt.ex [9])) ≠ [] ∧ (le lastL 15 LSt.ex [9]).names 71 = false) ∧
    ((∀ (c : Instr), c ∈ [Instr.rds 71 lastL, Instr.rdx 71 lastL, Instr.upg 71 lastL, Instr.evc 71 lastL] → linUp.admits c = true) ∧
      linUp.linServes = true ∧ linUp.isLine lastL = true ∧ linUp.lin.active.getLsbD 71 = true ∧ linUp.lentry? lastL = none ∧
      (TxKind.rds, Instr.rds 71 lastL) ∈ [(TxKind.rds, Instr.rds 71 lastL), (TxKind.rdx, Instr.rdx 71 lastL), (TxKind.rdx, Instr.upg 71 lastL)] ∧
      linUp.admissible { line := lastL, kind := TxKind.rdx, agent := 71, host := if 71 < 72 then none else some (71 == 73) } linUp.lin.waits = true ∧
      linUp.freeWay (lineSet lastL) = some 0) ∧
    (waitsFor.serving 8 0 = true ∧ waitsFor.lin.waits = [tx 4 TxKind.rds 9] ++ [tx lastL TxKind.rds 3] ∧
      (∀ (w : Txn), w ∈ [tx 4 TxKind.rds 9] → w.line ≠ lastL) ∧ waitsFor.admissible (tx lastL TxKind.rds 3) [tx 4 TxKind.rds 9] = true ∧
      tx lastL TxKind.rds 3 = { (tx lastL TxKind.rds 3) with line := lastL, kind := TxKind.rds } ∧ waitsFor.lentry? lastL = none ∧
      waitsFor.freeWay (lineSet lastL) = some 0) ∧
    ((∀ (c : Instr), c ∈ [Instr.rds 71 lastL, Instr.rdx 71 lastL, Instr.upg 71 lastL, Instr.evc 71 lastL] → (heldBy LSt.shb []).admits c = true) ∧
      (heldBy LSt.shb []).linServes = true ∧ (heldBy LSt.shb []).isLine lastL = true ∧ (heldBy LSt.shb []).lin.active.getLsbD 71 = true ∧
      (heldBy LSt.shb []).admissible { line := lastL, kind := TxKind.evc, agent := 71, host := if 71 < 72 then none else some (71 == 73) } (heldBy LSt.shb []).lin.waits = true ∧
      (heldBy LSt.shb []).lin.conflicts = [] ∧ (heldBy LSt.shb []).lentry? lastL = some (le lastL 15 LSt.shb []) ∧
      (le lastL 15 LSt.shb []).st.broadcast = true) ∧
    ((∀ (c : Instr), c ∈ [Instr.rds 71 lastL, Instr.rdx 71 lastL, Instr.upg 71 lastL, Instr.evc 71 lastL] → busyLine.admits c = true) ∧
      busyLine.linServes = true ∧ busyLine.isLine lastL = true ∧ busyLine.lin.active.getLsbD 71 = true ∧ busyLine.lineBusy lastL = true ∧
      busyLine.lentry? lastL = none) ∧
    State.reset.aon.tileOff = (0 : BitVec 64) ∧
    ((∀ (c : Instr), c ∈ [Instr.rds 71 lastL, Instr.rdx 71 lastL, Instr.upg 71 lastL, Instr.evc 71 lastL] → (heldBy LSt.ex [71]).admits c = true) ∧
      (heldBy LSt.ex [71]).linServes = true ∧ (heldBy LSt.ex [71]).isLine lastL = true ∧ (heldBy LSt.ex [71]).lin.active.getLsbD 71 = true ∧
      (heldBy LSt.ex [71]).admissible { line := lastL, kind := TxKind.evc, agent := 71, host := if 71 < 72 then none else some (71 == 73) } (heldBy LSt.ex [71]).lin.waits = true ∧
      (heldBy LSt.ex [71]).lin.conflicts = [] ∧ (heldBy LSt.ex [71]).lentry? lastL = some (le lastL 15 LSt.ex [71]) ∧
      (le lastL 15 LSt.ex [71]).st = LSt.ex ∧ (le lastL 15 LSt.ex [71]).ptrs = [71]) ∧
    (waitsFor.serving 8 0 = true ∧
      (∀ (pre : List Txn) (w : Txn) (post : List Txn), waitsFor.lin.waits = pre ++ w :: post → w.line = 5 → waitsFor.admissible w pre = false)) :=
  ⟨by decide +kernel,
   by decide +kernel,
   by decide +kernel,
   by decide +kernel,
   by decide +kernel,
   by decide +kernel,
   by decide +kernel,
   by decide +kernel,
   by decide +kernel,
   by decide +kernel,
   ⟨by decide +kernel, waitsForOk⟩⟩

theorem test_uncachedAccessesAskForLines_met :
    ((uIn Acc.write (Owner.cxlWr true) hinted).serving 8 0 = true ∧ (uIn Acc.write (Owner.cxlWr true) hinted).dom 25 = Dom.run ∧
      (uIn Acc.write (Owner.cxlWr true) hinted).req? 3 = some (uReq Acc.write (Owner.cxlWr true)) ∧
      (uIn Acc.write (Owner.cxlWr true) hinted).mayAsk (uReq Acc.write (Owner.cxlWr true)) lastL = true ∧
      (uReq Acc.write (Owner.cxlWr true)).acc = Acc.write ∧
      (((uIn Acc.write (Owner.cxlWr true) hinted).lineBytes (uReq Acc.write (Owner.cxlWr true)) lastL).all fun x => x.isNone) = false ∧
      (uIn Acc.write (Owner.cxlWr true) hinted).admissible { line := lastL, kind := TxKind.uwr, ureq := some (UReq.held 3 lastL) } (uIn Acc.write (Owner.cxlWr true) hinted).lin.waits = true ∧
      (uIn Acc.write (Owner.cxlWr true) hinted).lentry? lastL = none ∧
      (uIn Acc.write (Owner.cxlWr true) hinted).hintFor (uReq Acc.write (Owner.cxlWr true)) lastL = some 64 ∧
      (uIn Acc.write (Owner.cxlWr true) hinted).hintTarget (uReq Acc.write (Owner.cxlWr true)) 64 = true ∧
      (uIn Acc.write (Owner.cxlWr true) hinted).admissible { ({ line := lastL, kind := TxKind.uwr, ureq := some (UReq.held 3 lastL) } : Txn) with hint := some 64 } (uIn Acc.write (Owner.cxlWr true) hinted).lin.waits = true ∧
      (uIn Acc.write (Owner.cxlWr true) hinted).freeWay (lineSet lastL) = some 0) ∧
    ((uIn Acc.read (Owner.cxlRd true) linUp).serving 8 0 = true ∧ (uIn Acc.read (Owner.cxlRd true) linUp).dom 25 = Dom.run ∧
      (uIn Acc.read (Owner.cxlRd true) linUp).req? 3 = some (uReq Acc.read (Owner.cxlRd true)) ∧
      (uIn Acc.read (Owner.cxlRd true) linUp).mayAsk (uReq Acc.read (Owner.cxlRd true)) lastL = true ∧
      (uReq Acc.read (Owner.cxlRd true)).acc ≠ Acc.write ∧ (uReq Acc.read (Owner.cxlRd true)).acc ≠ Acc.atomic ∧
      (uIn Acc.read (Owner.cxlRd true) linUp).admissible { line := lastL, kind := TxKind.nar, ureq := some (UReq.held 3 lastL) } (uIn Acc.read (Owner.cxlRd true) linUp).lin.waits = true ∧
      (uIn Acc.read (Owner.cxlRd true) linUp).lentry? lastL = none) ∧
    ((uIn Acc.atomic (Owner.tile 63 2) (heldBy LSt.ow [9, 3])).serving 8 0 = true ∧
      (uIn Acc.atomic (Owner.tile 63 2) (heldBy LSt.ow [9, 3])).dom 25 = Dom.run ∧
      (uIn Acc.atomic (Owner.tile 63 2) (heldBy LSt.ow [9, 3])).req? 3 = some (uReq Acc.atomic (Owner.tile 63 2)) ∧
      (uIn Acc.atomic (Owner.tile 63 2) (heldBy LSt.ow [9, 3])).mayAsk (uReq Acc.atomic (Owner.tile 63 2)) lastL = true ∧
      (uReq Acc.atomic (Owner.tile 63 2)).acc = Acc.atomic ∧
      (uIn Acc.atomic (Owner.tile 63 2) (heldBy LSt.ow [9, 3])).admissible { line := lastL, kind := TxKind.atm, ureq := some (UReq.held 3 lastL) } (uIn Acc.atomic (Owner.tile 63 2) (heldBy LSt.ow [9, 3])).lin.waits = true ∧
      (uIn Acc.atomic (Owner.tile 63 2) (heldBy LSt.ow [9, 3])).lentry? lastL = some (le lastL 15 LSt.ow [9, 3]) ∧
      (uIn Acc.atomic (Owner.tile 63 2) (heldBy LSt.ow [9, 3])).holders (le lastL 15 LSt.ow [9, 3]) ≠ []) ∧
    ((uIn Acc.write (Owner.cxlWr true) (heldBy LSt.shb [])).serving 8 0 = true ∧
      (uIn Acc.write (Owner.cxlWr true) (heldBy LSt.shb [])).dom 25 = Dom.run ∧
      (uIn Acc.write (Owner.cxlWr true) (heldBy LSt.shb [])).req? 3 = some (uReq Acc.write (Owner.cxlWr true)) ∧
      (uIn Acc.write (Owner.cxlWr true) (heldBy LSt.shb [])).mayAsk (uReq Acc.write (Owner.cxlWr true)) lastL = true ∧
      (uReq Acc.write (Owner.cxlWr true)).acc = Acc.write ∧
      (((uIn Acc.write (Owner.cxlWr true) (heldBy LSt.shb [])).lineBytes (uReq Acc.write (Owner.cxlWr true)) lastL).all fun x => x.isNone) = false ∧
      (uIn Acc.write (Owner.cxlWr true) (heldBy LSt.shb [])).admissible { line := lastL, kind := TxKind.uwr, ureq := some (UReq.held 3 lastL) } (uIn Acc.write (Owner.cxlWr true) (heldBy LSt.shb [])).lin.waits = true ∧
      (uIn Acc.write (Owner.cxlWr true) (heldBy LSt.shb [])).lentry? lastL = some (le lastL 15 LSt.shb [])) ∧
    ((uIn Acc.atomic (Owner.tile 63 2) linUp).serving 8 0 = true ∧ (uIn Acc.atomic (Owner.tile 63 2) linUp).dom 25 = Dom.run ∧
      (uIn Acc.atomic (Owner.tile 63 2) linUp).req? 3 = some (uReq Acc.atomic (Owner.tile 63 2)) ∧
      (uIn Acc.atomic (Owner.tile 63 2) linUp).mayAsk (uReq Acc.atomic (Owner.tile 63 2)) lastL = true ∧
      (uReq Acc.atomic (Owner.tile 63 2)).acc = Acc.atomic ∧
      (uIn Acc.atomic (Owner.tile 63 2) linUp).admissible { line := lastL, kind := TxKind.atm, ureq := some (UReq.held 3 lastL) } (uIn Acc.atomic (Owner.tile 63 2) linUp).lin.waits = true ∧
      (uIn Acc.atomic (Owner.tile 63 2) linUp).lentry? lastL = none) ∧
    ((withReqs linUp [noBytes]).serving 8 0 = true ∧ (withReqs linUp [noBytes]).dom 25 = Dom.run ∧
      (withReqs linUp [noBytes]).req? 3 = some noBytes ∧ (withReqs linUp [noBytes]).mayAsk noBytes lastL = true ∧ noBytes.acc = Acc.write ∧
      (((withReqs linUp [noBytes]).lineBytes noBytes lastL).all fun x => x.isNone) = true ∧ noBytes.owner = Owner.cxlWr true ∧
      noBytes.st = ReqSt.issued (Out.dev ((withReqs linUp [noBytes]).lineAddr lastL)) ∧
      (withReqs linUp [noBytes]).linesOf ((withReqs linUp [noBytes]).lineAddr lastL) noBytes.len = [lastL] ∧
      (withReqs linUp [noBytes]).waitsOff noBytes ((withReqs linUp [noBytes]).lineAddr lastL) = false) :=
  ⟨by decide +kernel,
   by decide +kernel,
   by decide +kernel,
   by decide +kernel,
   by decide +kernel,
   by decide +kernel⟩

theorem test_directoryAnswersAreTaken_met :
    (((0 : Byte) = (opens [oneSnoop] hostM).agentEpoch 73 ∧ (opens [oneSnoop] hostM).txn? lastL = some oneSnoop ∧ 73 ∈ oneSnoop.snoops ∧
      (∀ (w : Nat × Nat × Bytes), w ∈ (opens [oneSnoop] hostM).lin.wbs → w.fst = 73 → w.snd.fst ≠ lastL) ∧
      (opens [oneSnoop] hostM).admits (Instr.wbd 73 lastL ⟨(0 : Byte), d64⟩) = true ∧ (opens [oneSnoop] hostM).wbWaited (73) lastL = false ∧
      (opens [oneSnoop] hostM).isLine lastL = true ∧ (opens [oneSnoop] hostM).linServes = true ∧
      { oneSnoop with snoops := oneSnoop.snoops.erase 73 }.snoops = [] ∧ oneSnoop.wbWait = [] ∧ oneSnoop.victim = none ∧
      oneSnoop.kind = TxKind.rdx ∧ oneSnoop.homeW = false ∧ oneSnoop.orphan = false ∧ (opens [oneSnoop] hostM).lin.conflicts = []) ∧
      (∀ (r : SnpResp), (opens [oneSnoop] hostM).admits (Instr.snoopResponse 73 lastL ⟨(0 : Byte), r⟩) = true)) ∧
    ((opens [rdHome] linUp).serving 8 0 = true ∧ (opens [rdHome] linUp).txn? lastL = some rdHome ∧ rdHome.homeR = true ∧
      rdHome.homeD = none ∧ rdHome.kind = TxKind.rds ∧ rdHome.snoops = [] ∧ rdHome.wbWait = [] ∧ rdHome.victim = none ∧ rdHome.homeW = false ∧
      rdHome.dirty = none ∧ rdHome.crossed = false ∧ rdHome.orphan = false ∧ (opens [rdHome] linUp).lin.conflicts = [] ∧
      (opens [rdHome] linUp).lentry? lastL = none) ∧
    ((0 : Byte) = hostM.agentEpoch 73 ∧ hostM.admits (Instr.wbd 73 lastL ⟨(0 : Byte), d64⟩) = true ∧ hostM.isLine lastL = true ∧
      hostM.linServes = true ∧ hostM.snoopDue (73) lastL = false ∧ List.length d64 = 64 ∧ hostM.veil = [] ∧ Memory.wf hostM.mem = true) ∧
    ((withReqs (opens [uwrHome] linUp) [rUpd]).serving 8 0 = true ∧ (withReqs (opens [uwrHome] linUp) [rUpd]).txn? lastL = some uwrHome ∧
      uwrHome.homeW = true ∧ uwrHome.snoops = [] ∧ uwrHome.wbWait = [] ∧ uwrHome.victim = none ∧
      (withReqs (opens [uwrHome] linUp) [rUpd]).veil = [] ∧ Memory.wf (withReqs (opens [uwrHome] linUp) [rUpd]).mem = true ∧
      (withReqs (opens [uwrHome] linUp) [rUpd]).seam.flight = [] ∧
      (∀ (q : Req), q ∈ (withReqs (opens [uwrHome] linUp) [rUpd]).reqs → q.owner.isExt = false) ∧
      (∀ (t : Txn), t ∈ (withReqs (opens [uwrHome] linUp) [rUpd]).lin.opens → Option.any (fun v => v.line == lastL && v.due.isEmpty && v.wbWait.isEmpty && v.dirty.isSome) t.victim = false) ∧
      (withReqs (opens [uwrHome] linUp) [rUpd]).req? 3 = some rUpd ∧ rUpd.st = ReqSt.issued (Out.dev 2147483584) ∧
      uwrHome.ureq = some (UReq.held 3 lastL) ∧ uwrHome.kind = TxKind.uwr ∧ uwrHome.dirty = none ∧ uwrHome.hint = none ∧
      rUpd.owner = Owner.cmpUpdate 15 1) ∧
    ((withReqs (opens [atmHome] linUp) [uReq Acc.atomic (Owner.tile 63 2)]).serving 8 0 = true ∧
      (withReqs (opens [atmHome] linUp) [uReq Acc.atomic (Owner.tile 63 2)]).txn? lastL = some atmHome ∧ atmHome.homeW = true ∧
      atmHome.snoops = [] ∧ atmHome.wbWait = [] ∧ atmHome.victim = none ∧
      (withReqs (opens [atmHome] linUp) [uReq Acc.atomic (Owner.tile 63 2)]).veil = [] ∧
      Memory.wf (withReqs (opens [atmHome] linUp) [uReq Acc.atomic (Owner.tile 63 2)]).mem = true ∧
      (withReqs (opens [atmHome] linUp) [uReq Acc.atomic (Owner.tile 63 2)]).seam.flight = [] ∧
      (∀ (q : Req), q ∈ (withReqs (opens [atmHome] linUp) [uReq Acc.atomic (Owner.tile 63 2)]).reqs → q.owner.isExt = false) ∧
      (∀ (t : Txn), t ∈ (withReqs (opens [atmHome] linUp) [uReq Acc.atomic (Owner.tile 63 2)]).lin.opens → Option.any (fun v => v.line == lastL && v.due.isEmpty && v.wbWait.isEmpty && v.dirty.isSome) t.victim = false) ∧
      (withReqs (opens [atmHome] linUp) [uReq Acc.atomic (Owner.tile 63 2)]).req? 3 = some (uReq Acc.atomic (Owner.tile 63 2)) ∧
      (uReq Acc.atomic (Owner.tile 63 2)).st = ReqSt.issued (Out.dev 2147483584) ∧ atmHome.ureq = some (UReq.held 3 lastL) ∧
      atmHome.kind = TxKind.atm ∧ atmHome.dirty = none ∧ (uReq Acc.atomic (Owner.tile 63 2)).owner = Owner.tile 63 2 ∧
      (uReq Acc.atomic (Owner.tile 63 2)).grp = 0 ∧
      (withReqs (opens [atmHome] linUp) [uReq Acc.atomic (Owner.tile 63 2)]).poisoned 2147483584 (uReq Acc.atomic (Owner.tile 63 2)).len = false ∧
      0 < (uReq Acc.atomic (Owner.tile 63 2)).len ∧ (withReqs (opens [atmHome] linUp) [uReq Acc.atomic (Owner.tile 63 2)]).lin.conflicts = []) ∧
    ((0 : Byte) = (opens [wbTxn] hostM).agentEpoch 73 ∧ (opens [wbTxn] hostM).admits (Instr.wbd 73 lastL ⟨(0 : Byte), d64⟩) = true ∧
      (opens [wbTxn] hostM).isLine lastL = true ∧ (opens [wbTxn] hostM).linServes = true ∧ (opens [wbTxn] hostM).txn? lastL = some wbTxn ∧
      wbTxn.wbWait = [73] ∧ wbTxn.snoops = [] ∧ wbTxn.victim = none ∧ wbTxn.kind = TxKind.rdx ∧ wbTxn.homeW = false ∧ wbTxn.orphan = false ∧
      (opens [wbTxn] hostM).proofSnoop (73) lastL = false ∧ (opens [wbTxn] hostM).lin.conflicts = []) ∧
    ((opens [rdHome] (heldBy LSt.sh [9, 10, 11, 12])).serving 8 0 = true ∧
      (opens [rdHome] (heldBy LSt.sh [9, 10, 11, 12])).txn? lastL = some rdHome ∧ rdHome.homeR = true ∧ rdHome.homeD = none ∧
      rdHome.kind = TxKind.rds ∧ rdHome.snoops = [] ∧ rdHome.wbWait = [] ∧ rdHome.victim = none ∧ rdHome.homeW = false ∧ rdHome.dirty = none ∧
      rdHome.crossed = false ∧ rdHome.orphan = false ∧ (opens [rdHome] (heldBy LSt.sh [9, 10, 11, 12])).lin.conflicts = [] ∧
      (opens [rdHome] (heldBy LSt.sh [9, 10, 11, 12])).lentry? lastL = some (le lastL 15 LSt.sh [9, 10, 11, 12]) ∧
      (le lastL 15 LSt.sh [9, 10, 11, 12]).st = LSt.sh ∧ ¬rdHome.agent ∈ (le lastL 15 LSt.sh [9, 10, 11, 12]).ptrs ∧
      4 ≤ (le lastL 15 LSt.sh [9, 10, 11, 12]).ptrs.length) ∧
    ((opens [recallT] (heldBy LSt.ex [9])).serving 8 0 = true ∧
      List.find? (fun t => Option.any (fun v' => v'.line == lastL && v'.due.isEmpty && v'.wbWait.isEmpty && v'.dirty.isSome) t.victim) (opens [recallT] (heldBy LSt.ex [9])).lin.opens = some recallT ∧
      recallT.victim = some { line := lastL, due := [], dirty := some d64 } ∧ recallT.snoops ≠ [] ∧ List.length d64 = 64 ∧
      (opens [recallT] (heldBy LSt.ex [9])).veil = [] ∧ Memory.wf (opens [recallT] (heldBy LSt.ex [9])).mem = true) ∧
    (((0 : Byte) = (opens [twoSnoops] linUp).agentEpoch 73 ∧ (opens [twoSnoops] linUp).txn? lastL = some twoSnoops ∧ 73 ∈ twoSnoops.snoops ∧
      (∀ (w : Nat × Nat × Bytes), w ∈ (opens [twoSnoops] linUp).lin.wbs → w.fst = 73 → w.snd.fst ≠ lastL) ∧
      { twoSnoops with snoops := twoSnoops.snoops.erase 73 }.snoops ≠ [] ∧ twoSnoops.wbWait = []) ∧
      (∀ (r : SnpResp), (opens [twoSnoops] linUp).admits (Instr.snoopResponse 73 lastL ⟨(0 : Byte), r⟩) = true)) ∧
    (((0 : Byte) = (recalling [9]).agentEpoch 73 ∧ (recalling [9]).lin.opens = [recallS [9]] ∧ (recallS [9]).line ≠ lastL ∧
      (recallS [9]).victim = some { line := lastL, due := [73] } ∧
      (∀ (w : Nat × Nat × Bytes), w ∈ (recalling [9]).lin.wbs → w.fst = 73 → w.snd.fst ≠ lastL) ∧ (recallS [9]).snoops ≠ []) ∧
      (∀ (r : SnpResp), (recalling [9]).admits (Instr.snoopResponse 73 lastL ⟨(0 : Byte), r⟩) = true)) ∧
    (1 : Byte) ≠ (opens [twoSnoops] linUp).agentEpoch 73 ∧
    ((opens [rdHome] (heldBy LSt.sh [9, 10, 11])).serving 8 0 = true ∧
      (opens [rdHome] (heldBy LSt.sh [9, 10, 11])).txn? lastL = some rdHome ∧ rdHome.homeR = true ∧ rdHome.homeD = none ∧
      rdHome.kind = TxKind.rds ∧ rdHome.snoops = [] ∧ rdHome.wbWait = [] ∧ rdHome.victim = none ∧ rdHome.homeW = false ∧ rdHome.dirty = none ∧
      rdHome.crossed = false ∧ rdHome.orphan = false ∧ (opens [rdHome] (heldBy LSt.sh [9, 10, 11])).lin.conflicts = [] ∧
      (opens [rdHome] (heldBy LSt.sh [9, 10, 11])).lentry? lastL = some (le lastL 15 LSt.sh [9, 10, 11]) ∧
      (le lastL 15 LSt.sh [9, 10, 11]).st = LSt.sh ∧ ¬rdHome.agent ∈ (le lastL 15 LSt.sh [9, 10, 11]).ptrs ∧
      (le lastL 15 LSt.sh [9, 10, 11]).ptrs.length < 4) ∧
    ((opens [rdHomeS] linUp).serving 8 0 = true ∧ (opens [rdHomeS] linUp).txn? lastL = some rdHomeS ∧ rdHomeS.homeR = true ∧
      rdHomeS.homeD = none ∧ rdHomeS.snoops ≠ []) :=
  ⟨⟨by decide +kernel, fun _ => rfl⟩,
   by decide +kernel,
   by decide +kernel,
   by decide +kernel,
   by decide +kernel,
   by decide +kernel,
   by decide +kernel,
   by decide +kernel,
   ⟨by decide +kernel, fun _ => rfl⟩,
   ⟨by decide +kernel, fun _ => rfl⟩,
   by decide +kernel,
   by decide +kernel,
   by decide +kernel⟩

theorem test_hostAgentRequests_met :
    ((73 = 72 + b2n true ∧ busyLine.inBounds hostAt.toNat = true ∧ busyLine.linServes = true ∧
      busyLine.lineBusy (busyLine.lineOf hostAt.toNat) = true ∧
      (nextOf (exec (Instr.cxlMemRequest true hostAt CxlOp.memRdI) busyLine)).orderHeld (lastReq (nextOf (exec (Instr.cxlMemRequest true hostAt CxlOp.memRdI) busyLine))) = false ∧
      busyLine.snoopDue (73) (busyLine.lineOf hostAt.toNat) = false ∧ busyLine.hostOwns (73) (busyLine.lineOf hostAt.toNat) = false ∧
      (∃ i, i < 64 ∧ i < List.length d64 ∧ enabledAt [] i = true) ∧
      (nextOf (exec (Instr.cxlMemRequest true hostAt (CxlOp.memWr d64 [] true)) busyLine)).orderHeld (lastReq (nextOf (exec (Instr.cxlMemRequest true hostAt (CxlOp.memWr d64 [] true)) busyLine))) = false) ∧
      (∀ (op : CxlOp), busyLine.admits (Instr.cxlMemRequest true hostAt op) = true)) ∧
    ((linOff.inBounds hostAt.toNat = true ∧ linOff.linServes = false ∧ List.length d64 = 64 ∧ linOff.veil = [] ∧
      Memory.wf linOff.mem = true) ∧ (∀ (op : CxlOp), linOff.admits (Instr.cxlMemRequest true hostAt op) = true)) ∧
    ((73 = 72 + b2n true ∧ busyOrd.inBounds hostAt.toNat = true ∧ busyOrd.linServes = true ∧
      busyOrd.lineBusy (busyOrd.lineOf hostAt.toNat) = true ∧
      (nextOf (exec (Instr.cxlMemRequest true hostAt CxlOp.memRdI) busyOrd)).orderHeld (lastReq (nextOf (exec (Instr.cxlMemRequest true hostAt CxlOp.memRdI) busyOrd))) = true) ∧
      (∀ (op : CxlOp), busyOrd.admits (Instr.cxlMemRequest true hostAt op) = true)) ∧
    (State.reset.inBounds hostAt.toNat = false ∧ (∀ (op : CxlOp), State.reset.admits (Instr.cxlMemRequest true hostAt op) = true)) ∧
    (linUp.admits (Instr.biconflict true lastL) = true ∧ linUp.hostReqs true lastL = 0) ∧
    ((linOff.inBounds hostAt.toNat = true ∧ linOff.linServes = false) ∧
      (∀ (op : CxlOp), linOff.admits (Instr.cxlMemRequest true hostAt op) = true)) ∧
    ((73 = 72 + b2n true ∧ busyOrd.inBounds hostAt.toNat = true ∧ busyOrd.linServes = true ∧
      busyOrd.snoopDue (73) (busyOrd.lineOf hostAt.toNat) = false ∧ busyOrd.hostOwns (73) (busyOrd.lineOf hostAt.toNat) = false ∧
      busyOrd.lineBusy (busyOrd.lineOf hostAt.toNat) = true ∧ (∃ i, i < 64 ∧ i < List.length d64 ∧ enabledAt [] i = true) ∧
      (nextOf (exec (Instr.cxlMemRequest true hostAt (CxlOp.memWr d64 [] true)) busyOrd)).orderHeld (lastReq (nextOf (exec (Instr.cxlMemRequest true hostAt (CxlOp.memWr d64 [] true)) busyOrd))) = true) ∧
      (∀ (op : CxlOp), busyOrd.admits (Instr.cxlMemRequest true hostAt op) = true)) ∧
    State.reset.admits (Instr.h2dSnoop true (18446744073709551615 : BitVec 64)) = true ∧
    ((73 = 72 + b2n true ∧ linUp.inBounds hostAt.toNat = true ∧ linUp.linServes = true ∧ (TxKind.evc = TxKind.rds ∧
      Instr.evc 73 lastL = Instr.rds 73 (linUp.lineOf hostAt.toNat) ∨ TxKind.evc = TxKind.rdx ∧
      Instr.evc 73 lastL = Instr.rdx 73 (linUp.lineOf hostAt.toNat) ∨ TxKind.evc = TxKind.upg ∧
      Instr.evc 73 lastL = Instr.upg 73 (linUp.lineOf hostAt.toNat) ∨ TxKind.evc = TxKind.evc ∧
      Instr.evc 73 lastL = Instr.evc 73 (linUp.lineOf hostAt.toNat)) ∧ linUp.admits (Instr.evc 73 lastL) = true) ∧
      (∀ (op : CxlOp), linUp.admits (Instr.cxlMemRequest true hostAt op) = true)) :=
  ⟨⟨by decide +kernel, fun _ => rfl⟩,
   ⟨by decide +kernel, fun _ => rfl⟩,
   ⟨by decide +kernel, fun _ => rfl⟩,
   ⟨by decide +kernel, fun _ => rfl⟩,
   by decide +kernel,
   ⟨by decide +kernel, fun _ => rfl⟩,
   ⟨by decide +kernel, fun _ => rfl⟩,
   by decide +kernel,
   ⟨by decide +kernel, fun _ => rfl⟩⟩

theorem test_agentsAndWindowChange_met :
    ((heldBy LSt.sh [71, 9, 8, 7]).takes (Who.core 0) (Instr.linProbe (Who.core 0) (2147483584 : W64)) = true ∧ isMgr (Who.core 0) = true ∧
      (heldBy LSt.sh [71, 9, 8, 7]).lin.size ≠ 0 ∧
      (heldBy LSt.sh [71, 9, 8, 7]).lin.base ≤ BitVec.toNat (nextOf (exec (Instr.linProbe (Who.core 0) (2147483584 : W64)) (heldBy LSt.sh [71, 9, 8, 7]))).lin.prba ∧
      (heldBy LSt.sh [71, 9, 8, 7]).isLine ((heldBy LSt.sh [71, 9, 8, 7]).lineOf (BitVec.toNat (nextOf (exec (Instr.linProbe (Who.core 0) (2147483584 : W64)) (heldBy LSt.sh [71, 9, 8, 7]))).lin.prba)) = true ∧
      (heldBy LSt.sh [71, 9, 8, 7]).lentry? ((heldBy LSt.sh [71, 9, 8, 7]).lineOf (BitVec.toNat (nextOf (exec (Instr.linProbe (Who.core 0) (2147483584 : W64)) (heldBy LSt.sh [71, 9, 8, 7]))).lin.prba)) = some (le lastL 15 LSt.sh [71, 9, 8, 7]) ∧
      (∀ (p : Nat), p ∈ (le lastL 15 LSt.sh [71, 9, 8, 7]).ptrs → p < 128) ∧ (le lastL 15 LSt.sh [71, 9, 8, 7]).way < 16 ∧
      (le lastL 15 LSt.sh [71, 9, 8, 7]).ptrs.length ≤ 4) ∧
    ((heldBy LSt.sh [71, 9]).takes (Who.core 0) (Instr.agctlLeave (Who.core 0) (71 : BitVec 7)) = true ∧
      (heldBy LSt.sh [71, 9]).takes (Who.core 0) (Instr.agctlJoin (Who.core 0) (71 : BitVec 7)) = true ∧ isMgr (Who.core 0) = true ∧
      ((heldBy LSt.sh [71, 9]).linBusy = true ∨ 71 < BitVec.toNat (71 : BitVec 7) ∨ (heldBy LSt.sh [71, 9]).lin.active.getLsbD (BitVec.toNat (71 : BitVec 7)) = true) ∧
      (heldBy LSt.sh [71, 9]).linBusy = false ∧ BitVec.toNat (71 : BitVec 7) ≤ 71 ∧
      (heldBy LSt.sh [71, 9]).lin.active.getLsbD (BitVec.toNat (71 : BitVec 7)) = true ∧
      (heldBy LSt.sh [71, 9]).lin.ents = [le lastL 15 LSt.sh [71, 9]] ∧ BitVec.toNat (71 : BitVec 7) ∈ (le lastL 15 LSt.sh [71, 9]).ptrs ∧
      (heldBy LSt.sh [71, 9]).lin.opens = [] ∧ (heldBy LSt.sh [71, 9]).lin.waits = []) ∧
    ((heldBy LSt.sh [71, 9]).takes (Who.core 0) (Instr.linDisable (Who.core 0)) = true ∧
      (heldBy LSt.sh [71, 9]).takes (Who.core 0) (Instr.linEnable (Who.core 0)) = true ∧ isMgr (Who.core 0) = true ∧
      (heldBy LSt.sh [71, 9]).lin.en = true ∧ (heldBy LSt.sh [71, 9]).lin.ents = [le lastL 15 LSt.sh [71, 9]] ∧
      (heldBy LSt.sh [71, 9]).lin.opens = [] ∧ (heldBy LSt.sh [71, 9]).lin.waits = [] ∧
      (heldBy LSt.sh [71, 9]).holders (le lastL 15 LSt.sh [71, 9]) ≠ [] ∧
      ((heldBy LSt.sh [71, 9]).lin.en = true ∨ (heldBy LSt.sh [71, 9]).lin.flushing = true ∨ (heldBy LSt.sh [71, 9]).lin.size = 0)) ∧
    ((linSwept false).serving 8 0 = true ∧ (linSwept false).lin.sweeps = [(71, false)] ∧ 71 < 74 ∧
      (∀ (x : Txn), x ∈ (linSwept false).lin.opens ++ (linSwept false).lin.waits → x.agent = 71 → x.kind ≠ TxKind.sweep ∧
      x.ofAgent 71 = false) ∧ (∀ (e : LEntry), e ∈ (linSwept false).lin.ents → ¬71 ∈ e.ptrs) ∧
      (∀ (x : Txn), x ∈ (linSwept false).lin.opens → ¬71 ∈ x.snoops ∧ ¬71 ∈ x.wbWait ∧ x.victim = none)) ∧
    (linLeft.takes (Who.core 0) (Instr.agctlLeave (Who.core 0) (71 : BitVec 7)) = true ∧
      linLeft.takes (Who.core 0) (Instr.agctlJoin (Who.core 0) (71 : BitVec 7)) = true ∧ isMgr (Who.core 0) = true ∧
      (linLeft.linBusy = true ∨ 71 < BitVec.toNat (71 : BitVec 7) ∨ linLeft.lin.active.getLsbD (BitVec.toNat (71 : BitVec 7)) = false) ∧
      linLeft.linBusy = false ∧ BitVec.toNat (71 : BitVec 7) ≤ 71 ∧ linLeft.lin.active.getLsbD (BitVec.toNat (71 : BitVec 7)) = false) ∧
    ((linSwept true).serving 8 0 = true ∧ (linSwept true).lin.sweeps = [(71, true)] ∧ 71 < 74 ∧
      (∀ (x : Txn), x ∈ (linSwept true).lin.opens ++ (linSwept true).lin.waits → x.agent = 71 → x.kind ≠ TxKind.sweep ∧ x.ofAgent 71 = false)) ∧
    (linSweeps.serving 8 0 = true ∧ linSweeps.lin.sweeps = [(71, false)] ∧ 71 < 74 ∧
      (∀ (x : Txn), x ∈ linSweeps.lin.opens ++ linSweeps.lin.waits → x.agent = 71 → x.kind ≠ TxKind.sweep ∧ x.ofAgent 71 = false) ∧
      linSweeps.lin.ents = [le lastL 15 LSt.ex [71]] ∧ 71 ∈ (le lastL 15 LSt.ex [71]).ptrs ∧ linSweeps.lin.opens = [] ∧
      linSweeps.lin.waits = []) ∧
    (linFlush.serving 8 0 = true ∧ linFlush.lin.flushing = true ∧ linFlush.lin.ents = [] ∧ linFlush.lin.opens = [] ∧
      linFlush.lin.waits = []) ∧
    (linUp.takes (Who.core 0) (Instr.agctlLeave (Who.core 0) (71 : BitVec 7)) = true ∧
      linUp.takes (Who.core 0) (Instr.agctlJoin (Who.core 0) (71 : BitVec 7)) = true ∧ isMgr (Who.core 0) = true ∧ linUp.linBusy = false ∧
      BitVec.toNat (71 : BitVec 7) ≤ 71 ∧ linUp.lin.active.getLsbD (BitVec.toNat (71 : BitVec 7)) = true ∧
      (∀ (e : LEntry), e ∈ linUp.lin.ents → ¬BitVec.toNat (71 : BitVec 7) ∈ e.ptrs) ∧
      (∀ (x : Txn), x ∈ linUp.lin.opens → x.ofAgent (BitVec.toNat (71 : BitVec 7)) = false)) ∧
    (linUp.takes (Who.core 0) (Instr.linProbe (Who.core 0) (2147483584 : W64)) = true ∧ isMgr (Who.core 0) = true ∧ linUp.lin.size ≠ 0 ∧
      linUp.lin.base ≤ BitVec.toNat (nextOf (exec (Instr.linProbe (Who.core 0) (2147483584 : W64)) linUp)).lin.prba ∧
      linUp.isLine (linUp.lineOf (BitVec.toNat (nextOf (exec (Instr.linProbe (Who.core 0) (2147483584 : W64)) linUp)).lin.prba)) = true ∧
      linUp.lentry? (linUp.lineOf (BitVec.toNat (nextOf (exec (Instr.linProbe (Who.core 0) (2147483584 : W64)) linUp)).lin.prba)) = none) ∧
    (fnUp.takes (Who.fn 15) (Instr.agctlLeave (Who.fn 15) (71 : BitVec 7)) = true ∧
      fnUp.takes (Who.fn 15) (Instr.agctlJoin (Who.fn 15) (71 : BitVec 7)) = true ∧ isMgr (Who.fn 15) = false) ∧
    (fnUp.takes (Who.fn 15) (Instr.linDisable (Who.fn 15)) = true ∧ fnUp.takes (Who.fn 15) (Instr.linEnable (Who.fn 15)) = true ∧
      isMgr (Who.fn 15) = false) ∧
    (linUp.takes (Who.core 0) (Instr.linDisable (Who.core 0)) = true ∧ linUp.takes (Who.core 0) (Instr.linEnable (Who.core 0)) = true ∧
      isMgr (Who.core 0) = true ∧ linUp.lin.en = true ∧ linUp.lin.ents = []) ∧
    (linOff.takes (Who.core 0) (Instr.linDisable (Who.core 0)) = true ∧ linOff.takes (Who.core 0) (Instr.linEnable (Who.core 0)) = true ∧
      isMgr (Who.core 0) = true ∧ linOff.lin.en = false ∧ linOff.lin.flushing = false ∧ linOff.lin.size ≠ 0) ∧
    (linFlushing.serving 8 0 = true ∧ linFlushing.lin.flushing = true ∧ linFlushing.lin.ents ≠ [] ∧
      (∀ (e : LEntry), e ∈ linFlushing.lin.ents → ∃ x, x ∈ linFlushing.lin.opens ++ linFlushing.lin.waits ∧ x.line = e.line ∧
      x.kind = TxKind.flush)) ∧
    (State.reset.serving 8 0 = true ∧ State.reset.lin.flushing = false) ∧
    (fnUp.takes (Who.fn 15) (Instr.linProbe (Who.fn 15) (0 : W64)) = true ∧ isMgr (Who.fn 15) = false) :=
  ⟨by decide +kernel,
   by decide +kernel,
   by decide +kernel,
   by decide +kernel,
   by decide +kernel,
   by decide +kernel,
   by decide +kernel,
   by decide +kernel,
   by decide +kernel,
   by decide +kernel,
   by decide +kernel,
   by decide +kernel,
   by decide +kernel,
   by decide +kernel,
   by decide +kernel,
   by decide +kernel,
   by decide +kernel⟩

theorem test_bar2AccessesAreChecked_met :
    ((barOk.fnServes 0 = true ∧ barOk.inBar (0) (BitVec.toNat (16777212 : BitVec 52)) 4 = true ∧
      barOk.ideBar2 (0) (BitVec.toNat (16777212 : BitVec 52)) 4 = false ∧
      barOk.admits (Instr.bar2Read 0 (16777212 : BitVec 52) 4 false) = true ∧
      (∀ (x : Req), x ∈ barOk.reqs → x.src.toNat = barOk.portSrc 0 → ∀ (g : Nat), g ∈ x.devGranules → ¬g ∈ granules (BitVec.toNat (16777212 : BitVec 52)) 4) ∧
      barOk.admits (Instr.bar2Read 0 (16777212 : BitVec 52) 4 true) = true ∧
      ((granules (BitVec.toNat (16777212 : BitVec 52)) 4).any fun g => region (64 * g) == Region.unassigned) = false ∧
      ((granules (BitVec.toNat (16777212 : BitVec 52)) 4).all fun g => barOk.grantedAt (0) (64 * g) Acc.read false) = true ∧
      barOk.anyClosed (BitVec.toNat (16777212 : BitVec 52)) 4 = false ∧ barOk.pools (0) (BitVec.toNat (16777212 : BitVec 52)) 4 = false ∧
      barOk.admits (Instr.bar2Atomicop 0 (16777212 : BitVec 52) AtomOp.add 4 (1 : W64) (0 : W64)) = true ∧ (4 = 4 ∨ 4 = 8) ∧
      ((granules (BitVec.toNat (16777212 : BitVec 52)) 4).all fun g => barOk.grantedAt (0) (64 * g) Acc.atomic false) = true ∧
      barOk.poisoned (BitVec.toNat (16777212 : BitVec 52)) 4 = false ∧ barOk.veil = [] ∧ Memory.wf barOk.mem = true) ∧ barOk.fresh) ∧
    (barOk.admits (Instr.bar2Write 0 (60 : BitVec 52) (zeros 8) [true, false, true]) = true ∧ barOk.fnServes 0 = true ∧
      barOk.inBar (0) (BitVec.toNat (60 : BitVec 52)) (List.length (zeros 8)) = true ∧
      barOk.ideBar2 (0) (BitVec.toNat (60 : BitVec 52)) (List.length (zeros 8)) = false ∧ barOk.veil = [] ∧ Memory.wf barOk.mem = true ∧
      (∀ (g : Nat), g ∈ granules (BitVec.toNat (60 : BitVec 52)) (List.length (zeros 8)) → 0 < enabledIn (BitVec.toNat (60 : BitVec 52)) (List.length (zeros 8)) [true, false, true] g → (barOk.fateOf (0) g).ok = true)) ∧
    (barNo.fnServes 0 = true ∧ barNo.inBar (0) (BitVec.toNat (16777212 : BitVec 52)) 4 = true ∧
      barNo.ideBar2 (0) (BitVec.toNat (16777212 : BitVec 52)) 4 = false ∧
      barNo.admits (Instr.bar2Read 0 (16777212 : BitVec 52) 4 true) = true ∧
      ((granules (BitVec.toNat (16777212 : BitVec 52)) 4).any fun g => region (64 * g) == Region.unassigned) = false ∧
      (((granules (BitVec.toNat (16777212 : BitVec 52)) 4).all fun g => barNo.grantedAt (0) (64 * g) Acc.read false) = false ∨ barNo.anyClosed (BitVec.toNat (16777212 : BitVec 52)) 4 = true)) ∧
    (barNo.admits (Instr.bar2Write 0 (69628 : BitVec 52) [(1 : Byte), (2 : Byte), (3 : Byte), (4 : Byte)] []) = true ∧
      barNo.fnServes 0 = true ∧
      barNo.inBar (0) (BitVec.toNat (69628 : BitVec 52)) [(1 : Byte), (2 : Byte), (3 : Byte), (4 : Byte)].length = true ∧
      barNo.ideBar2 (0) (BitVec.toNat (69628 : BitVec 52)) [(1 : Byte), (2 : Byte), (3 : Byte), (4 : Byte)].length = false ∧ barNo.veil = [] ∧
      Memory.wf barNo.mem = true ∧
      granules (BitVec.toNat (69628 : BitVec 52)) [(1 : Byte), (2 : Byte), (3 : Byte), (4 : Byte)].length = [1087] ∧
      0 < enabledIn (BitVec.toNat (69628 : BitVec 52)) [(1 : Byte), (2 : Byte), (3 : Byte), (4 : Byte)].length [] 1087 ∧
      barNo.fateOf 0 1087 = Fate.refused ∧ BitVec.toNat (barNo.err.cnt.get (0 : W32) 1) < 4294967295) ∧
    (barDown.admits (Instr.bar2Write 0 (0 : BitVec 52) (zeros 8) []) = true ∧
      (barDown.fnServes 0 = false ∨ barDown.inBar (0) (BitVec.toNat (0 : BitVec 52)) (List.length (zeros 8)) = false ∨ barDown.ideBar2 (0) (BitVec.toNat (0 : BitVec 52)) (List.length (zeros 8)) = true)) ∧
    (barDown.admits (Instr.bar2Read 0 (0 : BitVec 52) 8 true) = true ∧ barDown.aon.boot = Boot.ready ∧
      barDown.inBar (0) (BitVec.toNat (0 : BitVec 52)) 8 = true ∧
      (barDown.fnServes 0 = false ∨ barDown.ideBar2 (0) (BitVec.toNat (0 : BitVec 52)) 8 = true)) ∧
    (barDown.admits (Instr.bar2Atomicop 0 (0 : BitVec 52) AtomOp.add 8 (0 : W64) (0 : W64)) = true ∧ barDown.aon.boot = Boot.ready ∧
      barDown.inBar (0) (BitVec.toNat (0 : BitVec 52)) 8 = true ∧
      (barDown.fnServes 0 = false ∨ barDown.ideBar2 (0) (BitVec.toNat (0 : BitVec 52)) 8 = true ∨ 8 ≠ 4 ∧ 8 ≠ 8)) ∧
    (barOk.admits (Instr.bar2Atomicop 0 (4503599627370495 : BitVec 52) AtomOp.add 8 (0 : W64) (0 : W64)) = true ∧
      (barOk.aon.boot ≠ Boot.ready ∨ barOk.inBar (0) (BitVec.toNat (4503599627370495 : BitVec 52)) 8 = false)) :=
  ⟨⟨by decide +kernel, by unfold State.fresh; decide +kernel⟩,
   by decide +kernel,
   by decide +kernel,
   by decide +kernel,
   by decide +kernel,
   by decide +kernel,
   by decide +kernel,
   by decide +kernel⟩

theorem test_fencesAndHostCompletions_met :
    (quarS.serving 9 (3 / 2) = true ∧ (∀ (c : Cmd), c ∈ quarS.gal.cmds → c.ftag ≠ some 8) ∧
      (∀ (f : Nat × Nat), f ∈ quarS.obs.flush → f.snd ≠ 8) ∧ quarS.req? 8 = none ∧ (∀ (r : Req), r ∈ quarS.orphans → r.id ≠ 8) ∧
      (∀ (l : Late), l ∈ quarS.host.quar → l.tag ≠ 8) ∧ (∀ (n : Nat), n < 16 → ∀ (h : Proof), h ∈ (quarS.lk n).held → h.id ≠ 8)) ∧
    (((toHost (Owner.tile 63 2)).link 0).ctoDis = false ∧
      (toHost (Owner.tile 63 2)).req? 3 = some (rPeer Acc.read (Owner.tile 63 2) 32 (ReqSt.sent (Out.host 20480 false))) ∧
      (rPeer Acc.read (Owner.tile 63 2) 32 (ReqSt.sent (Out.host 20480 false))).st = ReqSt.sent (Out.host 20480 false) ∧
      (toHost (Owner.tile 63 2)).linkOf (rPeer Acc.read (Owner.tile 63 2) 32 (ReqSt.sent (Out.host 20480 false))).part = 0) ∧
    (fnUp.takes (Who.fn 15) (Instr.hostFenceRead (Who.fn 15)) = true ∧ (fnUp.link (fnUp.linkOf 15)).fences = [] ∧
      fnUp.postedBefore (fnUp.linkOf 15) fnUp.nextId = false) ∧
    ((toHost (Owner.tile 63 2)).serving 9 (0 / 2) = true ∧ (∀ (c : Cmd), c ∈ (toHost (Owner.tile 63 2)).gal.cmds → c.ftag ≠ some 3) ∧
      (∀ (f : Nat × Nat), f ∈ (toHost (Owner.tile 63 2)).obs.flush → f.snd ≠ 3) ∧
      (toHost (Owner.tile 63 2)).req? 3 = some (rPeer Acc.read (Owner.tile 63 2) 32 (ReqSt.sent (Out.host 20480 false))) ∧
      (rPeer Acc.read (Owner.tile 63 2) 32 (ReqSt.sent (Out.host 20480 false))).st = ReqSt.sent (Out.host 20480 false) ∧
      (toHost (Owner.tile 63 2)).linkOf (rPeer Acc.read (Owner.tile 63 2) 32 (ReqSt.sent (Out.host 20480 false))).part = 0 ∧
      0 < (rPeer Acc.read (Owner.tile 63 2) 32 (ReqSt.sent (Out.host 20480 false))).len ∧
      (rPeer Acc.read (Owner.tile 63 2) 32 (ReqSt.sent (Out.host 20480 false))).covers 20480 0 = false ∧
      { (rPeer Acc.read (Owner.tile 63 2) 32 (ReqSt.sent (Out.host 20480 false))) with pieces := (rPeer Acc.read (Owner.tile 63 2) 32 (ReqSt.sent (Out.host 20480 false))).pieces ++ [(0, Reply.data (zeros 32))] }.whole 20480 = true) ∧
    (((toHost (Owner.tile 63 2)).serving 9 (0 / 2) = true ∧ (∀ (c : Cmd), c ∈ (toHost (Owner.tile 63 2)).gal.cmds → c.ftag ≠ some 3) ∧
      (∀ (f : Nat × Nat), f ∈ (toHost (Owner.tile 63 2)).obs.flush → f.snd ≠ 3) ∧
      (toHost (Owner.tile 63 2)).req? 3 = some (rPeer Acc.read (Owner.tile 63 2) 32 (ReqSt.sent (Out.host 20480 false)))) ∧
      ((∀ (a : Nat) (ats : Bool), (rPeer Acc.read (Owner.tile 63 2) 32 (ReqSt.sent (Out.host 20480 false))).st ≠ ReqSt.sent (Out.host a ats)) ∨ (toHost (Owner.tile 63 2)).linkOf (rPeer Acc.read (Owner.tile 63 2) 32 (ReqSt.sent (Out.host 20480 false))).part ≠ 0 ∨ (rPeer Acc.read (Owner.tile 63 2) 32 (ReqSt.sent (Out.host 20480 false))).len ≤ 32)) ∧
    (posted.takes (Who.fn 15) (Instr.hostFenceRead (Who.fn 15)) = true ∧ (posted.link (posted.linkOf 15)).fences = [] ∧
      posted.postedBefore (posted.linkOf 15) posted.nextId = true) ∧
    (quarS.serving 9 (3 / 2) = true ∧ (∀ (c : Cmd), c ∈ quarS.gal.cmds → c.ftag ≠ some 7) ∧
      (∀ (f : Nat × Nat), f ∈ quarS.obs.flush → f.snd ≠ 7) ∧ quarS.req? 7 = none ∧ (∀ (r : Req), r ∈ quarS.orphans → r.id ≠ 7) ∧
      List.find? (fun l => l.link == 3 && l.tag == 7) quarS.host.quar = some q15 ∧ q15.proof = false) ∧
    State.reset.takes (Who.core 7) (Instr.hostFenceRead (Who.core 7)) = true ∧
    ((toHost (Owner.tile 63 2)).serving 9 (0 / 2) = true ∧ (∀ (c : Cmd), c ∈ (toHost (Owner.tile 63 2)).gal.cmds → c.ftag ≠ some 3) ∧
      (∀ (f : Nat × Nat), f ∈ (toHost (Owner.tile 63 2)).obs.flush → f.snd ≠ 3) ∧
      (toHost (Owner.tile 63 2)).req? 3 = some (rPeer Acc.read (Owner.tile 63 2) 32 (ReqSt.sent (Out.host 20480 false))) ∧
      (rPeer Acc.read (Owner.tile 63 2) 32 (ReqSt.sent (Out.host 20480 false))).st = ReqSt.sent (Out.host 20480 false) ∧
      (toHost (Owner.tile 63 2)).linkOf (rPeer Acc.read (Owner.tile 63 2) 32 (ReqSt.sent (Out.host 20480 false))).part = 0 ∧
      0 < (rPeer Acc.read (Owner.tile 63 2) 32 (ReqSt.sent (Out.host 20480 false))).len ∧
      (rPeer Acc.read (Owner.tile 63 2) 32 (ReqSt.sent (Out.host 20480 false))).covers 20480 0 = false ∧
      { (rPeer Acc.read (Owner.tile 63 2) 32 (ReqSt.sent (Out.host 20480 false))) with pieces := (rPeer Acc.read (Owner.tile 63 2) 32 (ReqSt.sent (Out.host 20480 false))).pieces ++ [(0, Reply.data [(1 : Byte)])] }.whole 20480 = false) ∧
    ((noTmo (toHost (Owner.tile 63 2))).link 0).ctoDis = true :=
  ⟨by decide +kernel,
   by decide +kernel,
   by decide +kernel,
   by decide +kernel,
   ⟨by decide +kernel, .inr (by decide +kernel)⟩,
   by decide +kernel,
   by decide +kernel,
   by decide +kernel,
   by decide +kernel,
   by decide +kernel⟩

theorem test_functionsAreConfigured_met :
    ((pfUp.aon.boot = Boot.ready ∧ (pfUp.fn 8).enabled = true ∧ (pfUp.fn 8).flr = Flr.none) ∧
      (∀ (c : CfgWrite), pfUp.admits (Instr.configurationWrite 8 c) = true)) ∧
    ((pf0Up.aon.boot = Boot.ready ∧ (pf0Up.fn 0).enabled = true ∧ (pf0Up.fn 0).flr = Flr.none ∧ pf0Up.part = Part.v3x ∧
      pf0Up.isPf 0 = true ∧ (pf0Up.linkOf 0 = 0 ∨ pf0Up.linkOf 0 = 2) ∧ (pf0Up.link (pf0Up.linkOf 0)).stat.cxl = true ∧
      (true = false ∨ pf0Up.lin.size ≠ 0)) ∧ (∀ (c : CfgWrite), pf0Up.admits (Instr.configurationWrite 0 c) = true)) ∧
    ((pf8 { }).admits (Instr.vfEnable 2 true 7) = true ∧ (pf8 { }).aon.boot = Boot.ready ∧ (pf8 { }).linkThere 2 = true ∧
      0 < (pf8 { }).totalVfs 2 ∧ ((pf8 { }).fn ((pf8 { }).pfOf 2)).enabled = true ∧ ((pf8 { }).fn ((pf8 { }).pfOf 2)).flr = Flr.none ∧
      ((pf8 { }).link 2).vfEn = false ∧ 7 ≤ (pf8 { }).totalVfs 2) ∧
    ((pf8 { }).admits (Instr.barSizeWrite 2 false 41) = true ∧ (pf8 { }).aon.boot = Boot.ready ∧
      ((pf8 { }).fn ((pf8 { }).pfOf 2)).enabled = true ∧ ((pf8 { }).fn ((pf8 { }).pfOf 2)).flr = Flr.none ∧ 28 ≤ 41 ∧ 41 ≤ 41 ∧
      (false = true → hasSriov 2 = true)) ∧
    ((pfUp.aon.boot = Boot.ready ∧ (pfUp.fn 8).enabled = true ∧ (pfUp.fn 8).flr = Flr.none ∧ pfUp.isPf 8 = true ∧
      4 ≤ (pfUp.link (pfUp.linkOf 8)).pfBar) ∧ (∀ (c : CfgWrite), pfUp.admits (Instr.configurationWrite 8 c) = true)) ∧
    ((pf8 { }).admits (Instr.vfEnable 2 true 8) = true ∧ (pf8 { }).aon.boot = Boot.ready ∧ (pf8 { }).linkThere 2 = true ∧
      0 < (pf8 { }).totalVfs 2 ∧ ((pf8 { }).fn ((pf8 { }).pfOf 2)).enabled = true ∧ ((pf8 { }).fn ((pf8 { }).pfOf 2)).flr = Flr.none ∧
      ((pf8 { }).link 2).vfEn = false ∧ (pf8 { }).totalVfs 2 < 8 ∧ BitVec.toNat ((pf8 { }).err.cnt.get (0 : W32) 4) < 4294967295) ∧
    (vfOn.admits (Instr.vfEnable 2 false 0) = true ∧ vfOn.aon.boot = Boot.ready ∧ vfOn.linkThere 2 = true ∧ 0 < vfOn.totalVfs 2 ∧
      (vfOn.fn (vfOn.pfOf 2)).enabled = true ∧ (vfOn.fn (vfOn.pfOf 2)).flr = Flr.none) ∧
    (vfOn.admits (Instr.vfEnable 2 true 1) = true ∧ vfOn.aon.boot = Boot.ready ∧ vfOn.linkThere 2 = true ∧ 0 < vfOn.totalVfs 2 ∧
      (vfOn.fn (vfOn.pfOf 2)).enabled = true ∧ (vfOn.fn (vfOn.pfOf 2)).flr = Flr.none ∧ (vfOn.link 2).vfEn = true) ∧
    (pfFlr.admits (Instr.vfEnable 2 true 3) = true ∧ pfFlr.aon.boot = Boot.ready ∧ pfFlr.linkThere 2 = true ∧ 0 < pfFlr.totalVfs 2 ∧
      (pfFlr.fn (pfFlr.pfOf 2)).enabled = true ∧ (pfFlr.fn (pfFlr.pfOf 2)).flr ≠ Flr.none) ∧
    ((pf8 { }).admits (Instr.barSizeWrite 2 false 42) = true ∧ (pf8 { }).aon.boot = Boot.ready ∧
      ((pf8 { }).fn ((pf8 { }).pfOf 2)).enabled = true ∧ ((pf8 { }).fn ((pf8 { }).pfOf 2)).flr = Flr.none ∧
      (42 < 28 ∨ 41 < 42 ∨ false = true ∧ hasSriov 2 = false)) ∧
    (pfFlr.admits (Instr.barSizeWrite 2 false 41) = true ∧ pfFlr.aon.boot = Boot.ready ∧ (pfFlr.fn (pfFlr.pfOf 2)).enabled = true ∧
      (pfFlr.fn (pfFlr.pfOf 2)).flr ≠ Flr.none) ∧
    (((inUse8 Flr.drain).aon.boot = Boot.ready ∧ ((inUse8 Flr.drain).fn 8).enabled = true ∧ ((inUse8 Flr.drain).fn 8).flr ≠ Flr.none) ∧
      (∀ (c : CfgWrite), (inUse8 Flr.drain).admits (Instr.configurationWrite 8 c) = true)) :=
  ⟨⟨by decide +kernel, fun _ => rfl⟩,
   ⟨by decide +kernel, fun _ => rfl⟩,
   by decide +kernel,
   by decide +kernel,
   ⟨by decide +kernel, fun _ => rfl⟩,
   by decide +kernel,
   by decide +kernel,
   by decide +kernel,
   by decide +kernel,
   by decide +kernel,
   by decide +kernel,
   ⟨by decide +kernel, fun _ => rfl⟩⟩

theorem test_functionLevelReset_met :
    (((inUse8 Flr.drain).fn 8).flr = Flr.drain ∧ (inUse8 Flr.drain).flrQuiet 8 = true ∧ (inUse8 Flr.drain).isPf 8 = true) ∧
    (((inUse8 Flr.none).setFn 9 { enabled := true }).admits (Instr.initiateFlr 8) = true ∧
      ((inUse8 Flr.none).setFn 9 { enabled := true }).aon.boot = Boot.ready ∧
      (((inUse8 Flr.none).setFn 9 { enabled := true }).fn 8).enabled = true ∧
      (((inUse8 Flr.none).setFn 9 { enabled := true }).fn 8).flr = Flr.none ∧ ((inUse8 Flr.none).setFn 9 { enabled := true }).isPf 8 = true) ∧
    (((flrOut8.fn 8).flr = Flr.drain ∧ (∀ (r : Req), r ∈ flrOut8.orphans → r.part ≠ 8) ∧ (∀ (c : Cmd), c ∈ flrOut8.gal.cmds → c.part ≠ 8) ∧
      (∀ (d : Nat × Nat × List TraceR), d ∈ flrOut8.obs.drains → d.fst ≠ 8) ∧
      (∀ (w : Walk), w ∈ flrOut8.trn.walks → w.part = 8 → w.st ≠ WalkSt.ats ∧ (w.st = WalkSt.reading → flrOut8.anyOff w.entryAt 8 = false)) ∧
      (∀ (f : Flight), f ∈ flrOut8.seam.flight → f.part = 8 → flrOut8.anyOff f.addr f.len = false) ∧
      (∀ (n : Nat), n < 16 → ∀ (h : Proof), h ∈ (flrOut8.lk n).held → h.part ≠ 8)) ∧ flrOut8.distinct ∧
      (∀ (r : Req), r ∈ flrOut8.reqs → r.part = 8 → ∃ k n a ats, r.owner = Owner.tile k n ∧ r.grp = 0 ∧ r.st = ReqSt.sent (Out.host a ats))) ∧
    (Memory.wf veiledS.mem = true ∧ veiledS.veiled (1 * 2 ^ 21) = true) ∧
    (((inUse8 Flr.reset).fn 8).flr = Flr.reset ∧ ((inUse8 Flr.reset).fn 8).flr ≠ Flr.drain) ∧
    ((inUse8 Flr.drain).admits (Instr.initiateFlr 8) = true ∧ (inUse8 Flr.drain).aon.boot = Boot.ready ∧
      ((inUse8 Flr.drain).fn 8).enabled = true ∧ ((inUse8 Flr.drain).fn 8).flr ≠ Flr.none) ∧
    ((flrBusy.fn 8).flr = Flr.drain ∧ flrBusy.flrQuiet 8 = false) ∧
    ((inUse8 Flr.drain).fn 8).flr ≠ Flr.reset ∧
    (Memory.wf veiledS.mem = true ∧ veiledS.veiled (5 * 2 ^ 21) = false) :=
  ⟨by decide +kernel,
   by decide +kernel,
   ⟨by decide +kernel, by unfold State.distinct; decide +kernel, flrOk⟩,
   by decide +kernel,
   by decide +kernel,
   by decide +kernel,
   by decide +kernel,
   by decide +kernel,
   by decide +kernel⟩

theorem test_linksAndLifeCycleReset_met :
    (linksUp.linkThere 2 = true ∧ (linksUp.link 2).perst = false ∧ (linksUp.link 2).stat.up = true ∧ downStat.up = false) ∧
    ((lcWipe (4 : BitVec 3)).aon.boot = Boot.transition ∧ (lcWipe (4 : BitVec 3)).allQuiet = true ∧
      (¬((lcWipe (4 : BitVec 3)).aon.lcs = (0 : BitVec 3) ∧ (lcWipe (4 : BitVec 3)).aon.target = (1 : BitVec 3)))) ∧
    ((amS (some lifeA) (2 : BitVec 3) (3 : BitVec 15)).aon.amend = some lifeA ∧
      (amS (some lifeA) (2 : BitVec 3) (3 : BitVec 15)).aon.mbbusy = true ∧
      (amS (some lifeA) (2 : BitVec 3) (3 : BitVec 15)).aon.mbstep = (2 : BitVec 3) ∧ lifeA.code = (127 : Byte) ∧
      (amS (some lifeA) (2 : BitVec 3) (3 : BitVec 15)).aon.boot = Boot.ready) ∧
    (true = false ∨ linksUp.part = Part.v3x) ∧
    (linksOn.linkThere 2 = true ∧ (linksOn.link 2).perst = false ∧
      ({ up := true, l1 := true, cxl := true, flit := true, bi := true, speed := (5 : BitVec 3), width := (8 : BitVec 5) } : LinkStat).up = true ∧
      linksOn.serving 9 (2 / 2) = true ∧ linksOn.dom (if 2 < 2 then 1 else 2) = Dom.run ∧ linksOn.lin.opens = [] ∧ linksOn.obs.on = true) ∧
    exLinksAndLifeCycleReset1.part = Part.v3s ∧
    State.reset.linkThere 3 = false ∧
    (linksUp.linkThere 2 = true ∧ (linksUp.link 2).perst = false ∧
      ({ up := true, l1 := true, cxl := true, flit := true, bi := true, speed := (5 : BitVec 3), width := (8 : BitVec 5) } : LinkStat).up = true ∧
      linksUp.serving 9 (2 / 2) = true ∧ linksUp.dom (if 2 < 2 then 1 else 2) = Dom.run ∧ linksUp.lin.opens = [] ∧ linksUp.obs.on = false) ∧
    State.reset.aon.boot ≠ Boot.ready ∧
    (State.reset.aon.boot ≠ Boot.transition ∨ State.reset.allQuiet = false) :=
  ⟨by decide +kernel,
   by decide +kernel,
   by decide +kernel,
   by decide +kernel,
   by decide +kernel,
   by decide +kernel,
   by decide +kernel,
   by decide +kernel,
   by decide +kernel,
   by decide +kernel⟩

theorem test_sourcesAreCountedAndDelivered_met :
    (srcHold.admits (Instr.sourceEdge 2047) = true ∧ srcHold.canRise 2047 = true ∧ 2047 ∈ srcHold.ic.risen ∧ (srcHold.src 2047).en = true ∧
      (srcHold.src 2047).act = false ∧ (srcHold.bank (srcHold.bankOf 2047).fst (srcHold.bankOf 2047).snd).armed = true ∧
      (srcHold.serving 10 0 && !srcHold.ic.dis && bankReady { (srcHold.bank (srcHold.bankOf 2047).fst (srcHold.bankOf 2047).snd) with n := min 255 ((srcHold.bank (srcHold.bankOf 2047).fst (srcHold.bankOf 2047).snd).n + 1), timer := true } ((srcHold.bankOf 2047).snd % 2 == 1)) = true ∧
      (srcHold.bankOf 2047).fst = false ∧
      (srcHold.fn ((srcHold.bankOf 2047).snd / 256)).pba.getLsbD ((srcHold.bankOf 2047).snd % 256 / 2) = false ∧
      srcHold.canMsix ((srcHold.bankOf 2047).snd / 256) ((srcHold.bankOf 2047).snd % 256 / 2) = false) ∧
    ((slow.bank false (256 * 15 + 254)).timer = true ∧ (slow.bank false (256 * 15 + 254)).armed = true ∧
      (slow.bank false (256 * 15 + 254)).time ≠ (0 : BitVec 16) ∧ 254 % 2 = 0 ∧ slow.serving 10 0 = true ∧ slow.ic.dis = false ∧
      slow.canMsix (15) (254 / 2) = true ∧ (slow.fn 15).pba.getLsbD (254 / 2) = false) ∧
    ((pbaS.fn 15).pba.getLsbD 127 = true ∧ pbaS.canMsix 15 127 = true) ∧
    (slow.admits (Instr.sourceEdge 2047) = true ∧ slow.canRise 2047 = true ∧ 2047 ∈ slow.ic.risen ∧ (slow.src 2047).en = true ∧
      (slow.src 2047).act = false ∧ (slow.bank (slow.bankOf 2047).fst (slow.bankOf 2047).snd).armed = true ∧
      (slow.serving 10 0 && !slow.ic.dis && bankReady { (slow.bank (slow.bankOf 2047).fst (slow.bankOf 2047).snd) with n := min 255 ((slow.bank (slow.bankOf 2047).fst (slow.bankOf 2047).snd).n + 1), timer := true } ((slow.bankOf 2047).snd % 2 == 1)) = false) ∧
    ((actC false).admits (Instr.sourceEdge 2047) = true ∧ (actC false).canRise 2047 = true ∧ 2047 ∈ (actC false).ic.risen ∧
      (((actC false).src 2047).en = false ∨ ((actC false).src 2047).act = true ∨ ((actC false).bank ((actC false).bankOf 2047).fst ((actC false).bankOf 2047).snd).armed = false)) ∧
    (srcPba.admits (Instr.sourceEdge 2047) = true ∧ srcPba.canRise 2047 = true ∧ 2047 ∈ srcPba.ic.risen ∧ (srcPba.src 2047).en = true ∧
      (srcPba.src 2047).act = false ∧ (srcPba.bank (srcPba.bankOf 2047).fst (srcPba.bankOf 2047).snd).armed = true ∧
      (srcPba.serving 10 0 && !srcPba.ic.dis && bankReady { (srcPba.bank (srcPba.bankOf 2047).fst (srcPba.bankOf 2047).snd) with n := min 255 ((srcPba.bank (srcPba.bankOf 2047).fst (srcPba.bankOf 2047).snd).n + 1), timer := true } ((srcPba.bankOf 2047).snd % 2 == 1)) = true ∧
      (srcPba.bankOf 2047).fst = false ∧ (srcPba.fn ((srcPba.bankOf 2047).snd / 256)).pba.getLsbD ((srcPba.bankOf 2047).snd % 256 / 2) = true) ∧
    (srcCore.admits (Instr.sourceEdge 2047) = true ∧ srcCore.canRise 2047 = true ∧ 2047 ∈ srcCore.ic.risen ∧ (srcCore.src 2047).en = true ∧
      (srcCore.src 2047).act = false ∧ (srcCore.bank (srcCore.bankOf 2047).fst (srcCore.bankOf 2047).snd).armed = true ∧
      (srcCore.serving 10 0 && !srcCore.ic.dis && bankReady { (srcCore.bank (srcCore.bankOf 2047).fst (srcCore.bankOf 2047).snd) with n := min 255 ((srcCore.bank (srcCore.bankOf 2047).fst (srcCore.bankOf 2047).snd).n + 1), timer := true } ((srcCore.bankOf 2047).snd % 2 == 1)) = true ∧
      (srcCore.bankOf 2047).fst = true) ∧
    (State.reset.admits (Instr.sourceEdge 0) = true ∧ (State.reset.canRise 0 = false ∨ ¬0 ∈ State.reset.ic.risen)) ∧
    (srcHost.admits (Instr.sourceEdge 2047) = true ∧ srcHost.canRise 2047 = true ∧ 2047 ∈ srcHost.ic.risen ∧ (srcHost.src 2047).en = true ∧
      (srcHost.src 2047).act = false ∧ (srcHost.bank (srcHost.bankOf 2047).fst (srcHost.bankOf 2047).snd).armed = true ∧
      (srcHost.serving 10 0 && !srcHost.ic.dis && bankReady { (srcHost.bank (srcHost.bankOf 2047).fst (srcHost.bankOf 2047).snd) with n := min 255 ((srcHost.bank (srcHost.bankOf 2047).fst (srcHost.bankOf 2047).snd).n + 1), timer := true } ((srcHost.bankOf 2047).snd % 2 == 1)) = true ∧
      (srcHost.bankOf 2047).fst = false ∧
      (srcHost.fn ((srcHost.bankOf 2047).snd / 256)).pba.getLsbD ((srcHost.bankOf 2047).snd % 256 / 2) = false ∧
      srcHost.canMsix ((srcHost.bankOf 2047).snd / 256) ((srcHost.bankOf 2047).snd % 256 / 2) = true) ∧
    (tgtM.admits (Instr.sourceLineFall 2047) = true ∧ (tgtM.src 2047).mode = true ∧ tgtM.lineHigh 2047 = false ∧ ¬2047 ∈ tgtM.ic.risen) ∧
    (tgtP.admits (Instr.sourceLineFall 2047) = true ∧ ((tgtP.src 2047).mode = false ∨ tgtP.lineHigh 2047 = true ∨ 2047 ∈ tgtP.ic.risen)) ∧
    ((exSourcesAreCountedAndDelivered1.bank false (256 * 15 + 254)).timer = true ∧
      (exSourcesAreCountedAndDelivered1.bank false (256 * 15 + 254)).armed = true ∧
      (exSourcesAreCountedAndDelivered1.bank false (256 * 15 + 254)).time ≠ (0 : BitVec 16) ∧ 254 % 2 = 0 ∧
      exSourcesAreCountedAndDelivered1.serving 10 0 = true ∧ exSourcesAreCountedAndDelivered1.ic.dis = true) ∧
    ((srcHost.fn 15).pba.getLsbD 127 = false ∨ srcHost.canMsix 15 127 = false) :=
  ⟨by decide +kernel,
   by decide +kernel,
   by decide +kernel,
   by decide +kernel,
   by decide +kernel,
   by decide +kernel,
   by decide +kernel,
   by decide +kernel,
   by decide +kernel,
   by decide +kernel,
   by decide +kernel,
   by decide +kernel,
   by decide +kernel⟩

theorem test_claimsTargetsAndDisable_met :
    ((srcS 2047 sv true 15 { armed := false, n := 4, line := true }).takes (Who.core 7) (Instr.claim (Who.core 7) (BankId.core 15)) = true ∧
      bankFor (Who.core 7) (BankId.core 15) = some (true, 15) ∧
      (srcS 2047 sv true 15 { armed := false, n := 4, line := true }).claimable true 15 = none) ∧
    (disS.takes (Who.core 0) (Instr.gctlWrite (Who.core 0) (0 : W32)) = true ∧ isMgr (Who.core 0) = true ∧ disS.ic.dis = true ∧
      bit (BitVec.toNat (0 : W32)) 31 = false) ∧
    ((actC true).takes (Who.core 0) (Instr.sourceComplete (Who.core 0) (BankId.core 15) (2047 : BitVec 11)) = true ∧
      bankFor (Who.core 0) (BankId.core 15) = some (true, 15) ∧
      ((actC true).servedBy true 15 (BitVec.toNat (2047 : BitVec 11)) && ((actC true).src (BitVec.toNat (2047 : BitVec 11))).act) = true ∧
      ((actC true).src (BitVec.toNat (2047 : BitVec 11))).pend = true ∧ ((actC true).src (BitVec.toNat (2047 : BitVec 11))).en = true ∧
      ((actC true).bank true 15).armed = true ∧ (actC true).ic.dis = true) ∧
    pendC.takes (Who.core 0) (Instr.pendClear (Who.core 0) 63 (4294967295 : W32)) = true ∧
    (exClaimsTargetsAndDisable3.takes (Who.fn 15) (Instr.tgtWrite (Who.fn 15) 2047 (2147483648 : W32)) = true ∧
      (144 ≤ 2047 ∨ exClaimsTargetsAndDisable3.canRise 2047 = true) ∧ exClaimsTargetsAndDisable3.mayTouchSrc (Who.fn 15) 2047 = false) ∧
    (exClaimsTargetsAndDisable6.takes (Who.core 0) (Instr.tgtWrite (Who.core 0) 2047 (2156920959 : W32)) = true ∧
      (144 ≤ 2047 ∨ exClaimsTargetsAndDisable6.canRise 2047 = true) ∧ exClaimsTargetsAndDisable6.mayTouchSrc (Who.core 0) 2047 = true ∧
      (exClaimsTargetsAndDisable6.src 2047).en = false ∧
      (bit (BitVec.toNat (2156920959 : W32)) 28 = false ∨ ((exClaimsTargetsAndDisable6.src 2047).kind = true ∨ isMgr (Who.core 0) = true) ∧
      (bit (BitVec.toNat (2156920959 : W32)) 31 = false ∨ bits (BitVec.toNat (2156920959 : W32)) 6 0 ≤ 7)) ∧ ((if isMgr (Who.core 0) = true ∧
      144 ≤ 2047 then some (bits (BitVec.toNat (2156920959 : W32)) 27 24) else (exClaimsTargetsAndDisable6.src 2047).owner) = (exClaimsTargetsAndDisable6.src 2047).owner ∨ exClaimsTargetsAndDisable6.present (bits (BitVec.toNat (2156920959 : W32)) 27 24) = true ∧
      exClaimsTargetsAndDisable6.vecUse (bits (BitVec.toNat (2156920959 : W32)) 27 24) < exClaimsTargetsAndDisable6.quotaVec (bits (BitVec.toNat (2156920959 : W32)) 27 24)) ∧
      bit (BitVec.toNat (2156920959 : W32)) 31 = true ∧ (exClaimsTargetsAndDisable6.src 2047).pend = true ∧
      (exClaimsTargetsAndDisable6.src 2047).act = false ∧ exClaimsTargetsAndDisable6.ic.dis = true) ∧
    ((fnS 15 { enabled := true }).takes (Who.fn 15) (Instr.claim (Who.fn 15) (BankId.core 0)) = true ∧
      bankFor (Who.fn 15) (BankId.core 0) = none) ∧
    ((fnS 15 { enabled := true }).takes (Who.fn 15) (Instr.sourceComplete (Who.fn 15) (BankId.core 0) (5 : BitVec 11)) = true ∧
      bankFor (Who.fn 15) (BankId.core 0) = none) ∧
    (State.reset.takes (Who.core 0) (Instr.sourceComplete (Who.core 0) (BankId.core 15) (2047 : BitVec 11)) = true ∧
      bankFor (Who.core 0) (BankId.core 15) = some (true, 15) ∧
      (State.reset.servedBy true 15 (BitVec.toNat (2047 : BitVec 11)) && (State.reset.src (BitVec.toNat (2047 : BitVec 11))).act) = false) ∧
    ((actC false).takes (Who.core 0) (Instr.sourceComplete (Who.core 0) (BankId.core 15) (2047 : BitVec 11)) = true ∧
      bankFor (Who.core 0) (BankId.core 15) = some (true, 15) ∧
      ((actC false).servedBy true 15 (BitVec.toNat (2047 : BitVec 11)) && ((actC false).src (BitVec.toNat (2047 : BitVec 11))).act) = true ∧
      (((actC false).src (BitVec.toNat (2047 : BitVec 11))).pend = false ∨ ((actC false).src (BitVec.toNat (2047 : BitVec 11))).en = false)) ∧
    exClaimsTargetsAndDisable2.takes (Who.core 0) (Instr.sysevClear (Who.core 0) (2 : W32)) = true ∧
    (exClaimsTargetsAndDisable4.takes (Who.core 0) (Instr.tgtWrite (Who.core 0) 2047 (0 : W32)) = true ∧
      (144 ≤ 2047 ∨ exClaimsTargetsAndDisable4.canRise 2047 = true) ∧ exClaimsTargetsAndDisable4.mayTouchSrc (Who.core 0) 2047 = true ∧
      (exClaimsTargetsAndDisable4.src 2047).en = true ∧
      ({ (exClaimsTargetsAndDisable4.src 2047) with en := bit (BitVec.toNat (0 : W32)) 31, mode := bit (BitVec.toNat (0 : W32)) 30, cls := bit (BitVec.toNat (0 : W32)) 29, kind := bit (BitVec.toNat (0 : W32)) 28, owner := if isMgr (Who.core 0) = true ∧ 144 ≤ 2047 then some (bits (BitVec.toNat (0 : W32)) 27 24) else (exClaimsTargetsAndDisable4.src 2047).owner, prio := BitVec.ofNat 4 (bits (BitVec.toNat (0 : W32)) 23 20), target := BitVec.ofNat 7 (bits (BitVec.toNat (0 : W32)) 6 0) } ≠ { (exClaimsTargetsAndDisable4.src 2047) with en := { (exClaimsTargetsAndDisable4.src 2047) with en := bit (BitVec.toNat (0 : W32)) 31, mode := bit (BitVec.toNat (0 : W32)) 30, cls := bit (BitVec.toNat (0 : W32)) 29, kind := bit (BitVec.toNat (0 : W32)) 28, owner := if isMgr (Who.core 0) = true ∧ 144 ≤ 2047 then some (bits (BitVec.toNat (0 : W32)) 27 24) else (exClaimsTargetsAndDisable4.src 2047).owner, prio := BitVec.ofNat 4 (bits (BitVec.toNat (0 : W32)) 23 20), target := BitVec.ofNat 7 (bits (BitVec.toNat (0 : W32)) 6 0) }.en })) ∧
    (exClaimsTargetsAndDisable4.takes (Who.core 0) (Instr.tgtWrite (Who.core 0) 2047 (2693791871 : W32)) = true ∧
      (144 ≤ 2047 ∨ exClaimsTargetsAndDisable4.canRise 2047 = true) ∧ exClaimsTargetsAndDisable4.mayTouchSrc (Who.core 0) 2047 = true ∧
      (exClaimsTargetsAndDisable4.src 2047).en = true ∧
      ({ (exClaimsTargetsAndDisable4.src 2047) with en := bit (BitVec.toNat (2693791871 : W32)) 31, mode := bit (BitVec.toNat (2693791871 : W32)) 30, cls := bit (BitVec.toNat (2693791871 : W32)) 29, kind := bit (BitVec.toNat (2693791871 : W32)) 28, owner := if isMgr (Who.core 0) = true ∧ 144 ≤ 2047 then some (bits (BitVec.toNat (2693791871 : W32)) 27 24) else (exClaimsTargetsAndDisable4.src 2047).owner, prio := BitVec.ofNat 4 (bits (BitVec.toNat (2693791871 : W32)) 23 20), target := BitVec.ofNat 7 (bits (BitVec.toNat (2693791871 : W32)) 6 0) } = { (exClaimsTargetsAndDisable4.src 2047) with en := { (exClaimsTargetsAndDisable4.src 2047) with en := bit (BitVec.toNat (2693791871 : W32)) 31, mode := bit (BitVec.toNat (2693791871 : W32)) 30, cls := bit (BitVec.toNat (2693791871 : W32)) 29, kind := bit (BitVec.toNat (2693791871 : W32)) 28, owner := if isMgr (Who.core 0) = true ∧ 144 ≤ 2047 then some (bits (BitVec.toNat (2693791871 : W32)) 27 24) else (exClaimsTargetsAndDisable4.src 2047).owner, prio := BitVec.ofNat 4 (bits (BitVec.toNat (2693791871 : W32)) 23 20), target := BitVec.ofNat 7 (bits (BitVec.toNat (2693791871 : W32)) 6 0) }.en }) ∧
      ({ (exClaimsTargetsAndDisable4.src 2047) with en := bit (BitVec.toNat (2693791871 : W32)) 31, mode := bit (BitVec.toNat (2693791871 : W32)) 30, cls := bit (BitVec.toNat (2693791871 : W32)) 29, kind := bit (BitVec.toNat (2693791871 : W32)) 28, owner := if isMgr (Who.core 0) = true ∧ 144 ≤ 2047 then some (bits (BitVec.toNat (2693791871 : W32)) 27 24) else (exClaimsTargetsAndDisable4.src 2047).owner, prio := BitVec.ofNat 4 (bits (BitVec.toNat (2693791871 : W32)) 23 20), target := BitVec.ofNat 7 (bits (BitVec.toNat (2693791871 : W32)) 6 0) }.kind = false ∨ { (exClaimsTargetsAndDisable4.src 2047) with en := bit (BitVec.toNat (2693791871 : W32)) 31, mode := bit (BitVec.toNat (2693791871 : W32)) 30, cls := bit (BitVec.toNat (2693791871 : W32)) 29, kind := bit (BitVec.toNat (2693791871 : W32)) 28, owner := if isMgr (Who.core 0) = true ∧ 144 ≤ 2047 then some (bits (BitVec.toNat (2693791871 : W32)) 27 24) else (exClaimsTargetsAndDisable4.src 2047).owner, prio := BitVec.ofNat 4 (bits (BitVec.toNat (2693791871 : W32)) 23 20), target := BitVec.ofNat 7 (bits (BitVec.toNat (2693791871 : W32)) 6 0) }.target.toNat ≤ 7)) ∧
    (exClaimsTargetsAndDisable5.takes (Who.fn 15) (Instr.tgtWrite (Who.fn 15) 2047 (268435456 : W32)) = true ∧
      (144 ≤ 2047 ∨ exClaimsTargetsAndDisable5.canRise 2047 = true) ∧ exClaimsTargetsAndDisable5.mayTouchSrc (Who.fn 15) 2047 = true ∧
      (exClaimsTargetsAndDisable5.src 2047).en = false ∧ (exClaimsTargetsAndDisable5.src 2047).kind = false ∧
      bit (BitVec.toNat (268435456 : W32)) 28 = true ∧ isMgr (Who.fn 15) = false) ∧
    ((tgtS { }).takes (Who.core 0) (Instr.tgtWrite (Who.core 0) 2047 (814743559 : W32)) = true ∧
      (144 ≤ 2047 ∨ (tgtS { }).canRise 2047 = true) ∧ (tgtS { }).mayTouchSrc (Who.core 0) 2047 = true ∧ ((tgtS { }).src 2047).en = false ∧
      (bit (BitVec.toNat (814743559 : W32)) 28 = false ∨ (((tgtS { }).src 2047).kind = true ∨ isMgr (Who.core 0) = true) ∧
      (bit (BitVec.toNat (814743559 : W32)) 31 = false ∨ bits (BitVec.toNat (814743559 : W32)) 6 0 ≤ 7)) ∧ ((if isMgr (Who.core 0) = true ∧
      144 ≤ 2047 then some (bits (BitVec.toNat (814743559 : W32)) 27 24) else ((tgtS { }).src 2047).owner) = ((tgtS { }).src 2047).owner ∨ (tgtS { }).present (bits (BitVec.toNat (814743559 : W32)) 27 24) = true ∧
      (tgtS { }).vecUse (bits (BitVec.toNat (814743559 : W32)) 27 24) < (tgtS { }).quotaVec (bits (BitVec.toNat (814743559 : W32)) 27 24)) ∧
      (bit (BitVec.toNat (814743559 : W32)) 31 = false ∨ ((tgtS { }).src 2047).pend = false ∨ ((tgtS { }).src 2047).act = true)) ∧
    (State.reset.takes (Who.core 0) (Instr.tgtWrite (Who.core 0) 2047 (251658240 : W32)) = true ∧
      (144 ≤ 2047 ∨ State.reset.canRise 2047 = true) ∧ State.reset.mayTouchSrc (Who.core 0) 2047 = true ∧ (State.reset.src 2047).en = false ∧
      bit (BitVec.toNat (251658240 : W32)) 28 = false ∧ ((if isMgr (Who.core 0) = true ∧
      144 ≤ 2047 then some (bits (BitVec.toNat (251658240 : W32)) 27 24) else (State.reset.src 2047).owner) ≠ (State.reset.src 2047).owner) ∧
      (State.reset.present (bits (BitVec.toNat (251658240 : W32)) 27 24) = false ∨ State.reset.quotaVec (bits (BitVec.toNat (251658240 : W32)) 27 24) ≤ State.reset.vecUse (bits (BitVec.toNat (251658240 : W32)) 27 24))) ∧
    ((fnS 15 { enabled := true }).takes (Who.fn 15) (Instr.gctlWrite (Who.fn 15) (0 : W32)) = true ∧ isMgr (Who.fn 15) = false) ∧
    (disS.takes (Who.core 0) (Instr.gctlWrite (Who.core 0) (3221225472 : W32)) = true ∧ isMgr (Who.core 0) = true ∧
      (disS.ic.dis = false ∨ bit (BitVec.toNat (3221225472 : W32)) 31 = true)) :=
  ⟨by decide +kernel,
   by decide +kernel,
   by decide +kernel,
   by decide +kernel,
   by decide +kernel,
   by decide +kernel,
   by decide +kernel,
   by decide +kernel,
   by decide +kernel,
   by decide +kernel,
   by decide +kernel,
   by decide +kernel,
   by decide +kernel,
   by decide +kernel,
   by decide +kernel,
   by decide +kernel,
   by decide +kernel,
   by decide +kernel⟩

theorem test_partitionsAreCharged_met :
    ((isMgr (Who.core 0) = true ∧ ((quota State.reset).setTally 5 { owner := some 0 }).present 0 = true) ∧
      (∀ (r : QuotaReg) (h : Half), ((quota State.reset).setTally 5 { owner := some 0 }).takes (Who.core 0) (Instr.quotaWrite (Who.core 0) 0 r h (0 : W64)) = true)) ∧
    (chg.serving 14 0 = true ∧ (∀ (r : Req), r ∈ chg.reqs → ∀ (o : Out), r.st ≠ ReqSt.bwWait o)) ∧
    (bwHeld.serving 14 0 = true ∧ bwHeld.reqs = [exPartitionsAreCharged1] ∧ exPartitionsAreCharged1.st = ReqSt.bwWait (Out.dev 4096) ∧
      exPartitionsAreCharged1.owner = Owner.cmpStream 15 0 ∧ exPartitionsAreCharged1.replay = none ∧ exPartitionsAreCharged1.part < 16 ∧
      bwHeld.tileIsOff exPartitionsAreCharged1 (Out.dev 4096) = false ∧
      bits (BitVec.toNat (bwHeld.prt.bw.get (0 : W32) exPartitionsAreCharged1.part)) 19 0 = 1048575) ∧
    State.reset.takes (Who.core 0) (Instr.tcactWrite (Who.core 0) 7 (15 : W32)) = true ∧
    ((isMgr (Who.fn 15) = false ∨ (fnS 15 { enabled := true }).present 15 = false) ∧
      (∀ (r : QuotaReg) (h : Half), (fnS 15 { enabled := true }).takes (Who.fn 15) (Instr.quotaWrite (Who.fn 15) 15 r h (0 : W64)) = true)) :=
  ⟨⟨by decide +kernel, by intro r h; cases r <;> cases h <;> decide +kernel⟩,
   ⟨by decide +kernel, fun r hr => nomatch (show r ∈ ([] : List Req) from hr)⟩,
   by decide +kernel,
   by decide +kernel,
   ⟨by decide +kernel, by intro r h; cases r <;> cases h <;> decide +kernel⟩⟩

theorem test_domainsSleepAndWake_met :
    (((slp 3 Dom.idle).domThere 3 && bit (BitVec.toNat (slp 3 Dom.idle).aon.slpctl) 31 && (slp 3 Dom.idle).dom 3 == Dom.run && !(slp 3 Dom.idle).domBusy 3) = false ∧
      (slp 3 Dom.idle).domThere 3 = true ∧ bit (BitVec.toNat (slp 3 Dom.idle).aon.slpctl) 31 = true ∧ (slp 3 Dom.idle).dom 3 = Dom.idle ∧
      3 < 24 ∧ (slp 3 Dom.idle).aon.deepok.getLsbD 3 = true ∧ (3 = 0 → (slp 3 Dom.idle).domBusy 0 = false) ∧
      ((slp 3 Dom.idle).dom 3 = Dom.idle ∨ (slp 3 Dom.idle).dom 3 = Dom.deep)) ∧
    ((slp 0 (Dom.waking true)).dom 0 = Dom.waking true ∧ (8 ≤ 0 → 0 < 24 → (slp 0 (Dom.waking true)).compCmd (0 - 8) = none) ∧
      (slp 0 (Dom.waking true)).obs.since / 1000 * 1000 < 2 ^ 64) ∧
    ((slp 0 Dom.run).domThere 24 = true ∧ bit (BitVec.toNat (slp 0 Dom.run).aon.slpctl) 31 = true ∧ (slp 0 Dom.run).dom 24 = Dom.run ∧
      (slp 0 Dom.run).domBusy 24 = false ∧ (24 < 8 ∨ 24 ≤ 24) ∧
      ((slp 0 Dom.run).dom 24 ≠ Dom.idle ∨ 24 ≤ 24 ∨ (slp 0 Dom.run).aon.deepok.getLsbD 24 = false)) ∧
    (tileOffS.reqs = [rq 3 (Owner.cmpStream 15 0) Acc.read 64 (ReqSt.tileOff (Out.dev (scratchBase + 1056964608)))] ∧
      (rq 3 (Owner.cmpStream 15 0) Acc.read 64 (ReqSt.tileOff (Out.dev (scratchBase + 1056964608)))).st = ReqSt.tileOff (Out.dev (scratchBase + 1056964608)) ∧
      (rq 3 (Owner.cmpStream 15 0) Acc.read 64 (ReqSt.tileOff (Out.dev (scratchBase + 1056964608)))).toScratch 63 = true ∧
      (rq 3 (Owner.cmpStream 15 0) Acc.read 64 (ReqSt.tileOff (Out.dev (scratchBase + 1056964608)))).owner = Owner.cmpStream 15 0 ∧
      (rq 3 (Owner.cmpStream 15 0) Acc.read 64 (ReqSt.tileOff (Out.dev (scratchBase + 1056964608)))).replay = none ∧
      setBit tileOffS.aon.tileOff (63) false = (0 : BitVec 64) ∧ tileOffS.seam.flight = []) ∧
    (allIdle.domThere 0 = true ∧ bit (BitVec.toNat allIdle.aon.slpctl) 31 = true ∧ allIdle.dom 0 = Dom.idle ∧ 0 < 24 ∧
      allIdle.aon.deepok.getLsbD 0 = true ∧ (0 = 0 → allIdle.domBusy 0 = false) ∧ (0 < 3 ∨ 3 < 0 ∧ 0 < 8)) ∧
    (∀ (deep : Bool), State.reset.dom 8 ≠ Dom.waking deep) ∧
    (∀ (r : Req), r ∈ State.reset.reqs → r.toScratch 63 = false) :=
  ⟨by decide +kernel,
   by decide +kernel,
   by decide +kernel,
   by decide +kernel,
   by decide +kernel,
   by decide +kernel,
   by decide +kernel⟩

theorem test_startUpGoesInOrder_met :
    ((bootS Boot.wiped (0 : BitVec 3)).aon.boot = Boot.wiped ∧ (bootS Boot.wiped (0 : BitVec 3)).imageError img = (0 : BitVec 5) ∧
      (List.map (fun x => x.fst) img.parts).Nodup ∧ (List.map (fun x => x.fst) img.talOwners).Nodup) ∧
    ((bootS Boot.off (4 : BitVec 3)).aon.boot = Boot.off ∧ (bootS Boot.off (4 : BitVec 3)).aon.lcs = (4 : BitVec 3)) ∧
    ((bootS Boot.wiped (0 : BitVec 3)).aon.boot = Boot.wiped ∧
      (bootS Boot.wiped (0 : BitVec 3)).imageError exStartUpGoesInOrder1 ≠ (0 : BitVec 5)) ∧
    (exStartUpGoesInOrder2.aon.boot = Boot.applied ∧ Memory.wf exStartUpGoesInOrder2.mem = true) ∧
    (Memory.wf (bootS Boot.locked (0 : BitVec 3)).mem = true ∧
      ((bootS Boot.locked (0 : BitVec 3)).aon.boot = Boot.locked ∨ (bootS Boot.locked (0 : BitVec 3)).aon.boot = Boot.recovery ∧
      (bootS Boot.locked (0 : BitVec 3)).aon.sram = false) ∧ (bootS Boot.locked (0 : BitVec 3)).aon.boot = Boot.locked) ∧
    (State.reset.aon.boot = Boot.off ∧ State.reset.aon.lcs ≠ (4 : BitVec 3)) ∧
    ((bootS Boot.reading (0 : BitVec 3)).aon.boot = Boot.reading ∧ (bootS Boot.reading (0 : BitVec 3)).aon.boot ≠ Boot.header ∧
      (bootS Boot.reading (0 : BitVec 3)).aon.boot ≠ Boot.recovery) ∧
    ((bootS Boot.header (0 : BitVec 3)).aon.boot ≠ Boot.reading ∧ (bootS Boot.header (0 : BitVec 3)).aon.boot = Boot.header) ∧
    (bootS Boot.ready (4 : BitVec 3)).aon.boot ≠ Boot.off ∧
    ((bootS Boot.recovery (0 : BitVec 3)).aon.boot = Boot.recovery ∧ (bootS Boot.recovery (0 : BitVec 3)).obs.on = false) :=
  ⟨by decide +kernel,
   by decide +kernel,
   by decide +kernel,
   by decide +kernel,
   by decide +kernel,
   by decide +kernel,
   by decide +kernel,
   by decide +kernel,
   by decide +kernel,
   by decide +kernel⟩

theorem test_errorsAreLatchedAndReactedTo_met :
    (errReserved 170 = false ∧ (isLevel 170 && errS.silent 170) = false ∧ errS.err.handling = false ∧ reactOf 170 = React.device ∧
      (reactOf 170 = React.fence ∨ reactOf 170 = React.device) ∧ (errUnit 170).fst ≠ 0 ∧ errS.err.ferrCfg.getLsbD 170 = true) ∧
    (mgrE.takesAon (Who.core 0) (Instr.errStatClear (Who.core 0) 6 (4294967295 : W32)) = true ∧
      mgrE.takesAon (Who.core 0) (Instr.haltClear (Who.core 0)) = true ∧ isMgr (Who.core 0) = true ∧ mgrE.err.halt = true ∧
      mgrE.devicesIn = true ∧ (∀ (x : Nat × Queue), x ∈ mgrE.gal.queues → x.snd.fetch.st ≠ FetchSt.accepted)) ∧
    (errReserved 0 = false ∧ (isLevel 0 && hndS.silent 0) = false ∧ hndS.err.handling = true ∧ 0 ≠ 171) ∧
    (errReserved 20 = false ∧ hndS.err.wire.getLsbD 20 = false ∧ (hndS.showing 20 = true ∨ hndS.err.handling = true)) ∧
    (wireL.err.handling = true ∧ (∀ (n : Nat), n < 512 → wireL.showing n = true → wireL.err.sticky.getLsbD n = true)) ∧
    (errS.err.handling = false ∧ 253 ≤ 288 ∧ 288 < 289 ∧ region (64 * 256) = Region.tier0) ∧
    ((errReserved 20 = true ∨ (wireS 20 true).err.wire.getLsbD 20 = true) ∧ (wireS 20 true).err.wire.getLsbD 20 = true) ∧
    ((fnS 15 { enabled := true }).takesAon (Who.fn 15) (Instr.errStatClear (Who.fn 15) 15 (0 : W32)) = true ∧
      (fnS 15 { enabled := true }).takesAon (Who.fn 15) (Instr.haltClear (Who.fn 15)) = true ∧ isMgr (Who.fn 15) = false) ∧
    (errReserved 296 = false ∧ (isLevel 296 && errS.silent 296) = false ∧ errS.err.handling = false ∧
      (reactOf 296 = React.none ∨ reactOf 296 = React.poison)) ∧
    (errReserved 20 = false ∧ errS.err.wire.getLsbD 20 = false ∧ errS.showing 20 = false ∧ errS.err.handling = false) ∧
    errS.err.handling = false ∧
    (errS.takesAon (Who.core 0) (Instr.errStatClear (Who.core 0) 6 (0 : W32)) = true ∧
      errS.takesAon (Who.core 0) (Instr.haltClear (Who.core 0)) = true ∧ isMgr (Who.core 0) = true ∧
      (errS.err.halt && errS.devicesIn) = false) :=
  ⟨by decide +kernel,
   by decide +kernel,
   by decide +kernel,
   by decide +kernel,
   by decide +kernel,
   by decide +kernel,
   by decide +kernel,
   by decide +kernel,
   by decide +kernel,
   by decide +kernel,
   by decide +kernel,
   by decide +kernel⟩

theorem test_amendmentsReplaceUnits_met :
    ((amS (some amd) (1 : BitVec 3) (5 : BitVec 15)).aon.mbbusy = true ∧
      (amS (some amd) (1 : BitVec 3) (5 : BitVec 15)).aon.mbstep = (1 : BitVec 3) ∧
      (amS (some amd) (1 : BitVec 3) (5 : BitVec 15)).aon.mblen ≠ (0 : BitVec 15) ∧
      (∀ (r : Req), r ∈ (amS (some amd) (1 : BitVec 3) (5 : BitVec 15)).reqs → r.owner ≠ Owner.phys 0) ∧
      (amS (some amd) (1 : BitVec 3) (5 : BitVec 15)).aon.amend = some amd ∧
      (amS (some amd) (1 : BitVec 3) (5 : BitVec 15)).amendCheck amd ≠ (0 : Byte)) ∧
    ((unitS 5 15 USt.draining (amS (some amd) (2 : BitVec 3) (4 : BitVec 15))).aon.amend = some amd ∧ amd.code ≠ (127 : Byte) ∧
      (unitS 5 15 USt.draining (amS (some amd) (2 : BitVec 3) (4 : BitVec 15))).aon.mbbusy = true ∧
      (∀ (r : Req), r ∈ (unitS 5 15 USt.draining (amS (some amd) (2 : BitVec 3) (4 : BitVec 15))).reqs → r.owner ≠ Owner.phys 0) ∧
      (unitS 5 15 USt.draining (amS (some amd) (2 : BitVec 3) (4 : BitVec 15))).aon.mbstep = (2 : BitVec 3) ∧
      (((unitS 5 15 USt.draining (amS (some amd) (2 : BitVec 3) (4 : BitVec 15))).unit (BitVec.toNat amd.code) (BitVec.toNat amd.inst)).st = USt.draining ∧
      (unitS 5 15 USt.draining (amS (some amd) (2 : BitVec 3) (4 : BitVec 15))).drained (BitVec.toNat amd.code) (BitVec.toNat amd.inst) = true ∨ ((unitS 5 15 USt.draining (amS (some amd) (2 : BitVec 3) (4 : BitVec 15))).unit (BitVec.toNat amd.code) (BitVec.toNat amd.inst)).st = USt.out) ∧
      ((unitS 5 15 USt.draining (amS (some amd) (2 : BitVec 3) (4 : BitVec 15))).unit (BitVec.toNat amd.code) (BitVec.toNat amd.inst)).st = USt.draining) ∧
    ((unitS 5 15 USt.reloading (amS (some amd) (4 : BitVec 3) (4 : BitVec 15))).aon.amend = some amd ∧ amd.code ≠ (127 : Byte) ∧
      (unitS 5 15 USt.reloading (amS (some amd) (4 : BitVec 3) (4 : BitVec 15))).aon.mbbusy = true ∧
      (∀ (r : Req), r ∈ (unitS 5 15 USt.reloading (amS (some amd) (4 : BitVec 3) (4 : BitVec 15))).reqs → r.owner ≠ Owner.phys 0) ∧
      (unitS 5 15 USt.reloading (amS (some amd) (4 : BitVec 3) (4 : BitVec 15))).aon.mbstep = (4 : BitVec 3) ∧
      ((unitS 5 15 USt.reloading (amS (some amd) (4 : BitVec 3) (4 : BitVec 15))).unit (BitVec.toNat amd.code) (BitVec.toNat amd.inst)).st = USt.reloading) ∧
    (goLin.takesAon (Who.core 0) (Instr.amendmentGo (Who.core 0) (2147483651 : W32)) = true ∧ isMgr (Who.core 0) = true ∧
      bit (BitVec.toNat (2147483651 : W32)) 31 = true ∧ goLin.aon.mbbusy = false ∧ 64 * (BitVec.toNat (2147483651 : W32) % 2 ^ 15) ≠ 0 ∧
      goLin.grantedAll 0 (bits (BitVec.toNat goLin.aon.mbaddr) 51 6 * 64) (64 * (BitVec.toNat (2147483651 : W32) % 2 ^ 15)) Acc.read false = true ∧
      anyUnassigned (bits (BitVec.toNat goLin.aon.mbaddr) 51 6 * 64) (64 * (BitVec.toNat (2147483651 : W32) % 2 ^ 15)) = false ∧
      goLin.anyClosed (bits (BitVec.toNat goLin.aon.mbaddr) 51 6 * 64) (64 * (BitVec.toNat (2147483651 : W32) % 2 ^ 15)) = false ∧
      goLin.poisoned (bits (BitVec.toNat goLin.aon.mbaddr) 51 6 * 64) (64 * (BitVec.toNat (2147483651 : W32) % 2 ^ 15)) = false ∧
      anyRegs (bits (BitVec.toNat goLin.aon.mbaddr) 51 6 * 64) (64 * (BitVec.toNat (2147483651 : W32) % 2 ^ 15)) = false ∧
      goLin.linesOf (bits (BitVec.toNat goLin.aon.mbaddr) 51 6 * 64) (64 * (BitVec.toNat (2147483651 : W32) % 2 ^ 15)) ≠ []) ∧
    ((goS 4503599627370432).takesAon (Who.core 0) (Instr.amendmentGo (Who.core 0) (2147483651 : W32)) = true ∧ isMgr (Who.core 0) = true ∧
      bit (BitVec.toNat (2147483651 : W32)) 31 = true ∧ (goS 4503599627370432).aon.mbbusy = false ∧
      64 * (BitVec.toNat (2147483651 : W32) % 2 ^ 15) ≠ 0 ∧
      (goS 4503599627370432).grantedAll 0 (bits (BitVec.toNat (goS 4503599627370432).aon.mbaddr) 51 6 * 64) (64 * (BitVec.toNat (2147483651 : W32) % 2 ^ 15)) Acc.read false = false ∧
      BitVec.toNat ((goS 4503599627370432).err.cnt.get (0 : W32) 1) < 4294967295) ∧
    ((amS none (1 : BitVec 3) (4 : BitVec 15)).aon.mbbusy = true ∧ (amS none (1 : BitVec 3) (4 : BitVec 15)).aon.mbstep = (1 : BitVec 3) ∧
      (amS none (1 : BitVec 3) (4 : BitVec 15)).aon.mblen ≠ (0 : BitVec 15) ∧
      (∀ (r : Req), r ∈ (amS none (1 : BitVec 3) (4 : BitVec 15)).reqs → r.owner ≠ Owner.phys 0) ∧
      (amS none (1 : BitVec 3) (4 : BitVec 15)).aon.amend = none) ∧
    (exAmendmentsReplaceUnits1.aon.mbbusy = true ∧ exAmendmentsReplaceUnits1.aon.mbstep = (1 : BitVec 3) ∧
      exAmendmentsReplaceUnits1.aon.mblen ≠ (0 : BitVec 15) ∧ (∀ (r : Req), r ∈ exAmendmentsReplaceUnits1.reqs → r.owner ≠ Owner.phys 0) ∧
      exAmendmentsReplaceUnits1.aon.amend = some exAmendmentsReplaceUnits2 ∧
      exAmendmentsReplaceUnits1.amendCheck exAmendmentsReplaceUnits2 = (0 : Byte) ∧ exAmendmentsReplaceUnits2.code ≠ (127 : Byte) ∧
      (exAmendmentsReplaceUnits1.unit (BitVec.toNat exAmendmentsReplaceUnits2.code) (BitVec.toNat exAmendmentsReplaceUnits2.inst)).st = USt.in_ ∧
      exAmendmentsReplaceUnits1.dom (unitDom (BitVec.toNat exAmendmentsReplaceUnits2.code) (BitVec.toNat exAmendmentsReplaceUnits2.inst)) = Dom.run ∧
      BitVec.toNat exAmendmentsReplaceUnits2.code = 7 ∧ BitVec.toNat exAmendmentsReplaceUnits2.code ≠ 5) ∧
    ((((unitS 5 15 USt.stale (amS (some amd) (5 : BitVec 3) (4 : BitVec 15))).unit (BitVec.toNat (5 : Byte)) (BitVec.toNat (15 : Byte))).st = USt.stale ∨ ((unitS 5 15 USt.stale (amS (some amd) (5 : BitVec 3) (4 : BitVec 15))).unit (BitVec.toNat (5 : Byte)) (BitVec.toNat (15 : Byte))).st = USt.rejoining) ∧
      (BitVec.toNat (5 : Byte) = 4 → (unitS 5 15 USt.stale (amS (some amd) (5 : BitVec 3) (4 : BitVec 15))).drained 4 (BitVec.toNat (15 : Byte)) = true) ∧
      (BitVec.toNat (5 : Byte) = 5 → (unitS 5 15 USt.stale (amS (some amd) (5 : BitVec 3) (4 : BitVec 15))).drained 5 (BitVec.toNat (15 : Byte)) = true) ∧
      ((5 : Byte) = 9 → (∀ x ∈ (unitS 5 15 USt.stale (amS (some amd) (5 : BitVec 3) (4 : BitVec 15))).lin.sweeps, x.1 ≠ 72 + BitVec.toNat (15 : Byte)) ∧
        (unitS 5 15 USt.stale (amS (some amd) (5 : BitVec 3) (4 : BitVec 15))).lin.active.getLsbD (72 + BitVec.toNat (15 : Byte)) = false) ∧
      (unitS 5 15 USt.stale (amS (some amd) (5 : BitVec 3) (4 : BitVec 15))).amending (BitVec.toNat (5 : Byte)) (BitVec.toNat (15 : Byte)) = true ∧
      (unitS 5 15 USt.stale (amS (some amd) (5 : BitVec 3) (4 : BitVec 15))).aon.mbstep = (5 : BitVec 3)) ∧
    ((goS regBase).takesAon (Who.core 0) (Instr.amendmentGo (Who.core 0) (2147483651 : W32)) = true ∧ isMgr (Who.core 0) = true ∧
      bit (BitVec.toNat (2147483651 : W32)) 31 = true ∧ (goS regBase).aon.mbbusy = false ∧
      64 * (BitVec.toNat (2147483651 : W32) % 2 ^ 15) ≠ 0 ∧
      (goS regBase).grantedAll 0 (bits (BitVec.toNat (goS regBase).aon.mbaddr) 51 6 * 64) (64 * (BitVec.toNat (2147483651 : W32) % 2 ^ 15)) Acc.read false = true ∧
      anyUnassigned (bits (BitVec.toNat (goS regBase).aon.mbaddr) 51 6 * 64) (64 * (BitVec.toNat (2147483651 : W32) % 2 ^ 15)) = false ∧
      (goS regBase).anyClosed (bits (BitVec.toNat (goS regBase).aon.mbaddr) 51 6 * 64) (64 * (BitVec.toNat (2147483651 : W32) % 2 ^ 15)) = false ∧
      (goS regBase).poisoned (bits (BitVec.toNat (goS regBase).aon.mbaddr) 51 6 * 64) (64 * (BitVec.toNat (2147483651 : W32) % 2 ^ 15)) = false ∧
      anyRegs (bits (BitVec.toNat (goS regBase).aon.mbaddr) 51 6 * 64) (64 * (BitVec.toNat (2147483651 : W32) % 2 ^ 15)) = true) ∧
    ((fnS 15 { enabled := true }).takesAon (Who.fn 15) (Instr.amendmentGo (Who.fn 15) (2147483651 : W32)) = true ∧
      isMgr (Who.fn 15) = false) ∧
    (State.reset.takesAon (Who.core 0) (Instr.amendmentGo (Who.core 0) (3 : W32)) = true ∧ isMgr (Who.core 0) = true ∧
      bit (BitVec.toNat (3 : W32)) 31 = false) ∧
    ((amS none (1 : BitVec 3) (3 : BitVec 15)).takesAon (Who.core 0) (Instr.amendmentGo (Who.core 0) (2147483651 : W32)) = true ∧
      isMgr (Who.core 0) = true ∧ bit (BitVec.toNat (2147483651 : W32)) 31 = true ∧
      (amS none (1 : BitVec 3) (3 : BitVec 15)).aon.mbbusy = true) ∧
    ((goS 4096).takesAon (Who.core 0) (Instr.amendmentGo (Who.core 0) (2147483651 : W32)) = true ∧ isMgr (Who.core 0) = true ∧
      bit (BitVec.toNat (2147483651 : W32)) 31 = true ∧ (goS 4096).aon.mbbusy = false ∧ 64 * (BitVec.toNat (2147483651 : W32) % 2 ^ 15) ≠ 0 ∧
      (goS 4096).grantedAll 0 (bits (BitVec.toNat (goS 4096).aon.mbaddr) 51 6 * 64) (64 * (BitVec.toNat (2147483651 : W32) % 2 ^ 15)) Acc.read false = true ∧
      anyUnassigned (bits (BitVec.toNat (goS 4096).aon.mbaddr) 51 6 * 64) (64 * (BitVec.toNat (2147483651 : W32) % 2 ^ 15)) = false ∧
      (goS 4096).anyClosed (bits (BitVec.toNat (goS 4096).aon.mbaddr) 51 6 * 64) (64 * (BitVec.toNat (2147483651 : W32) % 2 ^ 15)) = false ∧
      (goS 4096).poisoned (bits (BitVec.toNat (goS 4096).aon.mbaddr) 51 6 * 64) (64 * (BitVec.toNat (2147483651 : W32) % 2 ^ 15)) = false ∧
      anyRegs (bits (BitVec.toNat (goS 4096).aon.mbaddr) 51 6 * 64) (64 * (BitVec.toNat (2147483651 : W32) % 2 ^ 15)) = false ∧
      (goS 4096).linesOf (bits (BitVec.toNat (goS 4096).aon.mbaddr) 51 6 * 64) (64 * (BitVec.toNat (2147483651 : W32) % 2 ^ 15)) = []) ∧
    ((goS 4096).takesAon (Who.core 0) (Instr.amendmentGo (Who.core 0) (2147483648 : W32)) = true ∧ isMgr (Who.core 0) = true ∧
      bit (BitVec.toNat (2147483648 : W32)) 31 = true ∧ (goS 4096).aon.mbbusy = false ∧ 64 * (BitVec.toNat (2147483648 : W32) % 2 ^ 15) = 0) ∧
    ((goS 281474708275200).takesAon (Who.core 0) (Instr.amendmentGo (Who.core 0) (2147483651 : W32)) = true ∧ isMgr (Who.core 0) = true ∧
      bit (BitVec.toNat (2147483651 : W32)) 31 = true ∧ (goS 281474708275200).aon.mbbusy = false ∧
      64 * (BitVec.toNat (2147483651 : W32) % 2 ^ 15) ≠ 0 ∧
      (goS 281474708275200).grantedAll 0 (bits (BitVec.toNat (goS 281474708275200).aon.mbaddr) 51 6 * 64) (64 * (BitVec.toNat (2147483651 : W32) % 2 ^ 15)) Acc.read false = true ∧
      (anyUnassigned (bits (BitVec.toNat (goS 281474708275200).aon.mbaddr) 51 6 * 64) (64 * (BitVec.toNat (2147483651 : W32) % 2 ^ 15)) = true ∨ (goS 281474708275200).anyClosed (bits (BitVec.toNat (goS 281474708275200).aon.mbaddr) 51 6 * 64) (64 * (BitVec.toNat (2147483651 : W32) % 2 ^ 15)) = true ∨ (goS 281474708275200).poisoned (bits (BitVec.toNat (goS 281474708275200).aon.mbaddr) 51 6 * 64) (64 * (BitVec.toNat (2147483651 : W32) % 2 ^ 15)) = true)) ∧
    ((amCopy.aon.mbbusy = true ∧ amCopy.aon.mbstep = (1 : BitVec 3) ∧ amCopy.aon.mblen ≠ (0 : BitVec 15) ∧
      List.find? (fun x => x.owner == Owner.phys 0) amCopy.reqs = some rCopy ∧
      rCopy.linesDone (amCopy.linesOf (bits (BitVec.toNat amCopy.aon.mbaddr) 51 6 * 64) rCopy.len) = false) ∧
      (∀ (o : Out) (e : ECode), rCopy.st ≠ ReqSt.failed o e)) ∧
    (exAmendmentsReplaceUnits3.aon.mbbusy = true ∧ exAmendmentsReplaceUnits3.aon.mbstep = (1 : BitVec 3) ∧
      exAmendmentsReplaceUnits3.aon.mblen ≠ (0 : BitVec 15) ∧ (∀ (r : Req), r ∈ exAmendmentsReplaceUnits3.reqs → r.owner ≠ Owner.phys 0) ∧
      exAmendmentsReplaceUnits3.aon.amend = some lifeA ∧ exAmendmentsReplaceUnits3.amendCheck lifeA = (0 : Byte) ∧ lifeA.code = (127 : Byte) ∧
      (exAmendmentsReplaceUnits3.unit (BitVec.toNat lifeA.code) (BitVec.toNat lifeA.inst)).st = USt.in_) ∧
    (exAmendmentsReplaceUnits4.aon.amend = some exAmendmentsReplaceUnits5 ∧ exAmendmentsReplaceUnits5.code ≠ (127 : Byte) ∧
      exAmendmentsReplaceUnits4.aon.mbbusy = true ∧ (∀ (r : Req), r ∈ exAmendmentsReplaceUnits4.reqs → r.owner ≠ Owner.phys 0) ∧
      exAmendmentsReplaceUnits4.aon.mbstep = (2 : BitVec 3) ∧
      (exAmendmentsReplaceUnits4.unit (BitVec.toNat exAmendmentsReplaceUnits5.code) (BitVec.toNat exAmendmentsReplaceUnits5.inst)).st = USt.draining ∧
      exAmendmentsReplaceUnits4.drained (BitVec.toNat exAmendmentsReplaceUnits5.code) (BitVec.toNat exAmendmentsReplaceUnits5.inst) = false) ∧
    exAmendmentsReplaceUnits6.takesAon (Who.core 0) (Instr.uctlRejoin (Who.core 0)) = true ∧
    ((State.reset.unit (BitVec.toNat (5 : Byte)) (BitVec.toNat (15 : Byte))).st ≠ USt.stale ∧
      (State.reset.unit (BitVec.toNat (5 : Byte)) (BitVec.toNat (15 : Byte))).st ≠ USt.rejoining) ∧
    ((((unitS 7 11 USt.stale State.reset).unit (BitVec.toNat (7 : Byte)) (BitVec.toNat (11 : Byte))).st = USt.stale ∨ ((unitS 7 11 USt.stale State.reset).unit (BitVec.toNat (7 : Byte)) (BitVec.toNat (11 : Byte))).st = USt.rejoining) ∧
      (BitVec.toNat (7 : Byte) = 4 → (unitS 7 11 USt.stale State.reset).drained 4 (BitVec.toNat (11 : Byte)) = true) ∧
      (BitVec.toNat (7 : Byte) = 5 → (unitS 7 11 USt.stale State.reset).drained 5 (BitVec.toNat (11 : Byte)) = true) ∧
      ((7 : Byte) = 9 → (∀ x ∈ (unitS 7 11 USt.stale State.reset).lin.sweeps, x.1 ≠ 72 + BitVec.toNat (11 : Byte)) ∧
        (unitS 7 11 USt.stale State.reset).lin.active.getLsbD (72 + BitVec.toNat (11 : Byte)) = false) ∧
      (7 : Byte) = (7 : Byte)) ∧
    ((((unitS 2 0 USt.stale State.reset).unit (BitVec.toNat (2 : Byte)) (BitVec.toNat (0 : Byte))).st = USt.stale ∨ ((unitS 2 0 USt.stale State.reset).unit (BitVec.toNat (2 : Byte)) (BitVec.toNat (0 : Byte))).st = USt.rejoining) ∧
      (BitVec.toNat (2 : Byte) = 4 → (unitS 2 0 USt.stale State.reset).drained 4 (BitVec.toNat (0 : Byte)) = true) ∧
      (BitVec.toNat (2 : Byte) = 5 → (unitS 2 0 USt.stale State.reset).drained 5 (BitVec.toNat (0 : Byte)) = true) ∧
      ((2 : Byte) = 9 → (∀ x ∈ (unitS 2 0 USt.stale State.reset).lin.sweeps, x.1 ≠ 72 + BitVec.toNat (0 : Byte)) ∧
        (unitS 2 0 USt.stale State.reset).lin.active.getLsbD (72 + BitVec.toNat (0 : Byte)) = false) ∧ (2 : Byte) = (2 : Byte)) ∧
    ((((unitS 12 0 USt.stale State.reset).unit (BitVec.toNat (12 : Byte)) (BitVec.toNat (0 : Byte))).st = USt.stale ∨ ((unitS 12 0 USt.stale State.reset).unit (BitVec.toNat (12 : Byte)) (BitVec.toNat (0 : Byte))).st = USt.rejoining) ∧
      (BitVec.toNat (12 : Byte) = 4 → (unitS 12 0 USt.stale State.reset).drained 4 (BitVec.toNat (0 : Byte)) = true) ∧
      (BitVec.toNat (12 : Byte) = 5 → (unitS 12 0 USt.stale State.reset).drained 5 (BitVec.toNat (0 : Byte)) = true) ∧
      ((12 : Byte) = 9 → (∀ x ∈ (unitS 12 0 USt.stale State.reset).lin.sweeps, x.1 ≠ 72 + BitVec.toNat (0 : Byte)) ∧
        (unitS 12 0 USt.stale State.reset).lin.active.getLsbD (72 + BitVec.toNat (0 : Byte)) = false) ∧
      (12 : Byte) = (12 : Byte)) ∧
    (((unitS 9 1 USt.stale linLeft).unit 9 1).st = USt.stale ∧ (∀ x ∈ (unitS 9 1 USt.stale linLeft).lin.sweeps, x.1 ≠ 72 + 1) ∧
      (unitS 9 1 USt.stale linLeft).lin.active.getLsbD (72 + 1) = false) ∧
    ((portS.unit (BitVec.toNat (9 : Byte)) (BitVec.toNat (1 : Byte))).st = USt.stale ∧
      portS.lin.active.getLsbD (72 + BitVec.toNat (1 : Byte)) = true) ∧
    ((portLeft.unit (BitVec.toNat (9 : Byte)) (BitVec.toNat (1 : Byte))).st = USt.stale ∧
      portLeft.lin.active.getLsbD (72 + BitVec.toNat (1 : Byte)) = false ∧ (∃ x ∈ portLeft.lin.sweeps, x.1 = 72 + BitVec.toNat (1 : Byte))) :=
  ⟨by decide +kernel,
   by decide +kernel,
   by decide +kernel,
   by decide +kernel,
   by decide +kernel,
   by decide +kernel,
   by decide +kernel,
   by decide +kernel,
   by decide +kernel,
   by decide +kernel,
   by decide +kernel,
   by decide +kernel,
   by decide +kernel,
   by decide +kernel,
   by decide +kernel,
   ⟨by decide +kernel, nofun⟩,
   by decide +kernel,
   by decide +kernel,
   by decide +kernel,
   by decide +kernel,
   by decide +kernel,
   by decide +kernel,
   by decide +kernel,
   by decide +kernel,
   by decide +kernel,
   by decide +kernel⟩

theorem test_tracesAndSnapshots_met :
    ((drS (ReqSt.issued (Out.dev 4096))).serving 12 0 = true ∧
      List.find? (fun d => d.fst == 0) (drS (ReqSt.issued (Out.dev 4096))).obs.drains = some (0, 63, [recT 0 0, recT 0 1]) ∧
      ((drS (ReqSt.issued (Out.dev 4096))).eng 63).drain = some 64 ∧
      (∀ (f : Nat × Nat), f ∈ (drS (ReqSt.issued (Out.dev 4096))).obs.flush → f.fst ≠ 63) ∧
      (∀ (r : Req), (r ∈ (drS (ReqSt.issued (Out.dev 4096))).reqsOf fun x => x == Owner.phys (1 + 0)) → r.st.unissued = false) ∧
      ((drS (ReqSt.issued (Out.dev 4096))).reqsOf fun x => x == Owner.phys (1 + 0)) = [rDr (ReqSt.issued (Out.dev 4096))] ∧
      (rDr (ReqSt.issued (Out.dev 4096))).st = ReqSt.issued (Out.dev 4096) ∧ (rDr (ReqSt.issued (Out.dev 4096))).en = [] ∧
      (drS (ReqSt.issued (Out.dev 4096))).orderHeld (rDr (ReqSt.issued (Out.dev 4096))) = false ∧
      (drS (ReqSt.issued (Out.dev 4096))).linesOf 4096 (rDr (ReqSt.issued (Out.dev 4096))).len = [] ∧
      ((drS (ReqSt.issued (Out.dev 4096))).eng 63).st = PSt.running ∧
      bit (BitVec.toNat ((drS (ReqSt.issued (Out.dev 4096))).trp 0).base) 63 = false ∧ (drS (ReqSt.issued (Out.dev 4096))).veil = [] ∧
      Memory.wf (drS (ReqSt.issued (Out.dev 4096))).mem = true ∧
      (∀ (k : Nat), k < List.length (rDr (ReqSt.issued (Out.dev 4096))).data → (drS (ReqSt.issued (Out.dev 4096))).inWindow (4096 + k) = false)) ∧
    (tkW.serving 12 0 = true ∧ tkW.obs.tkbusy = true ∧ tkW.obs.captured = true ∧ tkW.tackBad = [] ∧
      bits (BitVec.toNat tkW.obs.tkbase) 51 12 * 4096 + 151616 ≤ tier0End ∧ tkW.veil = [] ∧ Memory.wf tkW.mem = true ∧
      Memory.wf tkW.obs.shadow = true) ∧
    ((trS.serving 12 0 = true ∧ trS.drainDue 0 64 ≠ [] ∧ trS.unitFree false 0 = true ∧ trS.chooseEng = some 0 ∧
      trS.dom (4 + (0 / 16 : Nat)) = Dom.run ∧ bit (BitVec.toNat (trS.trp 0).base) 63 = false ∧
      BitVec.toNat (trS.trp 0).tail % (trS.trp 0).size2 + (trS.drainDue 0 64).length ≤ (trS.trp 0).size2 ∧
      trS.grantedAll (0) (bits (BitVec.toNat (trS.trp 0).base) 56 12 * 4096 + 32 * (BitVec.toNat (trS.trp 0).tail % (trS.trp 0).size2)) (List.flatMap (fun x => x.bytes) (trS.drainDue 0 64)).length Acc.write false = true ∧
      anyRegs (bits (BitVec.toNat (trS.trp 0).base) 56 12 * 4096 + 32 * (BitVec.toNat (trS.trp 0).tail % (trS.trp 0).size2)) (List.flatMap (fun x => x.bytes) (trS.drainDue 0 64)).length = false ∧
      anyUnassigned (bits (BitVec.toNat (trS.trp 0).base) 56 12 * 4096 + 32 * (BitVec.toNat (trS.trp 0).tail % (trS.trp 0).size2)) (List.flatMap (fun x => x.bytes) (trS.drainDue 0 64)).length = false ∧
      trS.anyClosed (bits (BitVec.toNat (trS.trp 0).base) 56 12 * 4096 + 32 * (BitVec.toNat (trS.trp 0).tail % (trS.trp 0).size2)) (List.flatMap (fun x => x.bytes) (trS.drainDue 0 64)).length = false ∧
      trS.anyOff (bits (BitVec.toNat (trS.trp 0).base) 56 12 * 4096 + 32 * (BitVec.toNat (trS.trp 0).tail % (trS.trp 0).size2)) (List.flatMap (fun x => x.bytes) (trS.drainDue 0 64)).length = false ∧
      trS.spent 0 = false) ∧ trS.fresh) ∧
    ((tkS false true).takes (Who.core 0) (Instr.tackGo (Who.core 0) (2147483655 : W32)) = true ∧
      (tkS false true).takes (Who.core 0) (Instr.tempClrpeak (Who.core 0)) = true ∧ isMgr (Who.core 0) = true ∧
      bit (BitVec.toNat (2147483655 : W32)) 31 = true ∧ (tkS false true).obs.tkbusy = false) ∧
    ((tkS true false).serving 12 0 = true ∧ (tkS true false).obs.tkbusy = true ∧ (tkS true false).obs.captured = false ∧
      (∀ (d : Nat), d < 26 → (tkS true false).dom d = Dom.run)) ∧
    (wdS.serving 12 0 = true ∧
      ((wdS.obs.wdog != (0 : BitVec 16) && wdS.gal.cmds.any fun c => c.st == CmdSt.needEngine || c.st == CmdSt.running) && !wdS.obs.tkbusy && !wdS.obs.tkdone) = true) ∧
    (State.reset.serving 12 0 = true ∧ (State.reset.drainDue 15 64 = [] ∨ State.reset.unitFree false 15 = false)) ∧
    ((fnS 15 { enabled := true }).takes (Who.fn 15) (Instr.tackGo (Who.fn 15) (0 : W32)) = true ∧
      (fnS 15 { enabled := true }).takes (Who.fn 15) (Instr.tempClrpeak (Who.fn 15)) = true ∧ isMgr (Who.fn 15) = false) ∧
    (State.reset.takes (Who.core 0) (Instr.tackGo (Who.core 0) (7 : W32)) = true ∧
      State.reset.takes (Who.core 0) (Instr.tempClrpeak (Who.core 0)) = true ∧ isMgr (Who.core 0) = true ∧
      bit (BitVec.toNat (7 : W32)) 31 = false) ∧
    ((tkS true false).takes (Who.core 0) (Instr.tackGo (Who.core 0) (2147483655 : W32)) = true ∧
      (tkS true false).takes (Who.core 0) (Instr.tempClrpeak (Who.core 0)) = true ∧ isMgr (Who.core 0) = true ∧
      bit (BitVec.toNat (2147483655 : W32)) 31 = true ∧ (tkS true false).obs.tkbusy = true) ∧
    (State.reset.serving 12 0 = true ∧
      ((State.reset.obs.wdog != (0 : BitVec 16) && State.reset.gal.cmds.any fun c => c.st == CmdSt.needEngine || c.st == CmdSt.running) && !State.reset.obs.tkbusy && !State.reset.obs.tkdone) = false) ∧
    (State.reset.serving 12 0 = true ∧ (State.reset.obs.tkbusy = false ∨ State.reset.obs.captured = true)) :=
  ⟨by decide +kernel,
   by decide +kernel,
   ⟨by decide +kernel, by unfold State.fresh; decide +kernel⟩,
   by decide +kernel,
   by decide +kernel,
   by decide +kernel,
   by decide +kernel,
   by decide +kernel,
   by decide +kernel,
   by decide +kernel,
   by decide +kernel,
   by decide +kernel⟩

theorem test_stepRunsTheFrontCommand_met :
    State.reset.pending = [] :=
  by decide +kernel

theorem test_memoriesStayCanonical_met :
    ((withQ Instr.sramWipeDone (bootS Boot.locked (0 : BitVec 3))).memOk ∧
      step (withQ Instr.sramWipeDone (bootS Boot.locked (0 : BitVec 3))) = Host.Outcome.next (stepOf (withQ Instr.sramWipeDone (bootS Boot.locked (0 : BitVec 3))))) :=
  ⟨by unfold State.memOk; decide +kernel, rfl⟩

theorem test_requestsStayNumbered_met :
    ((withQ (Instr.flrDrainTimeout 8) flrOut8).fresh ∧ (withQ (Instr.flrDrainTimeout 8) flrOut8).distinct ∧
      step (withQ (Instr.flrDrainTimeout 8) flrOut8) = Host.Outcome.next (stepOf (withQ (Instr.flrDrainTimeout 8) flrOut8))) :=
  ⟨by unfold State.fresh; decide +kernel, by unfold State.distinct; decide +kernel, rfl⟩

theorem test_onlyTheirCommandsChangeThem_met :
    ((Instr.porbNAsserted ≠ Instr.powerOnReset ∧ Instr.porbNAsserted ≠ Instr.operatingHoursTick ∧
      Instr.porbNAsserted ≠ Instr.lifeCycleWipeDone) ∧
      exec Instr.porbNAsserted (bootS Boot.ready (3 : BitVec 3)) = Host.Outcome.next (nextOf (exec Instr.porbNAsserted (bootS Boot.ready (3 : BitVec 3))))) ∧
    exec Instr.operatingHoursTick State.reset = Host.Outcome.next afterTick ∧
    ((mayClearErrors Instr.tackWatchdog = false ∧ (stick 7).err.halt = true) ∧
      exec Instr.tackWatchdog (stick 7) = Host.Outcome.next (nextOf (exec Instr.tackWatchdog (stick 7)))) :=
  ⟨⟨by decide +kernel, rfl⟩,
   rfl,
   ⟨by decide +kernel, rfl⟩⟩

theorem test_everyCommandHasItsEffect_met :
    deep0.admits (Instr.gctlWrite (Who.core 0) (5 : W32)) = false :=
  by decide +kernel

theorem test_writesAreReadBack_met :
    (Memory.wf poisS.mem = true ∧ 0 < 8 ∧ poisS.poisoned 8192 8 = false) ∧
    Memory.wf poisS.mem = true ∧
    (Memory.wf poisS.mem = true ∧ 0 < 4 ∧ poisS.poisoned 4096 4 = true) :=
  ⟨by decide +kernel,
   by decide +kernel,
   by decide +kernel⟩

theorem test_foreignPacketsAreDropped_met :
    ((readyS.admits (Instr.inboundTadd 3 pkt5 (7 : BitVec 48)) = true ∧ pkt5.dst ≠ readyS.seam.peer ∧ readyS.err.handling = false) ∧
      ((∃ data en, Instr.inboundTadd 3 pkt5 (7 : BitVec 48) = Instr.inboundWr 3 pkt5 data en) ∨ (∃ id len x, Instr.inboundTadd 3 pkt5 (7 : BitVec 48) = Instr.inboundRd 3 pkt5 ⟨id, len⟩ x) ∨ (∃ id op len x y, Instr.inboundTadd 3 pkt5 (7 : BitVec 48) = Instr.inboundAtm 3 pkt5 ⟨id, len⟩ op x y) ∨ (∃ v, Instr.inboundTadd 3 pkt5 (7 : BitVec 48) = Instr.inboundTadd 3 pkt5 v) ∨ ∃ id off x, Instr.inboundTadd 3 pkt5 (7 : BitVec 48) = Instr.inboundCpl 3 ⟨pkt5.dst, id, off⟩ x)) :=
  ⟨by decide +kernel, .inr (.inr (.inr (.inl ⟨7, rfl⟩)))⟩

theorem test_countsSaturateAndLinesFollow_met :
    (tallyS.takes (Who.core 0) (Instr.talCountWrite (Who.core 0) (5 : BitVec 16) (77 : W64)) = true ∧
      tallyS.mayTouchTally (Who.core 0) (BitVec.toNat (5 : BitVec 16)) = true) :=
  by decide +kernel

/-! ### The worked examples of chapter 8, and the seal (R64) -/

/-- What a sum of bf16 elements, each with its multiplicity, rounds to in bf16 on the grid 2^g. -/
def pooled (g : Int) (l : List (Nat × Nat)) : Nat :=
  roundElem 2 ((l.foldl (fun a x => a.addVal (elemValue 2 x.1) x.2 g) ({} : Pica)).result 0 g 1)
/-- Cancellation: RANGE 25 puts the grid at 2^-134, and the order of arrival does not matter. -/
theorem test_pooling_cancels : pooled (-134) [(0x4B80, 1), (0x3F80, 1), (0xCB80, 1), (0x3F80, 1)] = 0x4000 ∧
    pooled (-134) [(0x3F80, 1), (0x3F80, 1), (0x4B80, 1), (0xCB80, 1)] = 0x4000 := by decide +kernel
/-- A coarse grid of 0.25: ties to even, and one group of three is three single additions. -/
theorem test_pooling_coarse_grid : pooled (-2) [(0x3FB0, 3), (0x3F90, 1)] = 0x40B0 ∧
    pooled (-2) [(0x3FB0, 1), (0x3F90, 1), (0x3FB0, 1), (0x3FB0, 1)] = 0x40B0 := by decide +kernel
/-- An int8 row with a scale, a bias and an fp32 weight, on the grids 2^-20 and 2^-155. -/
theorem test_pooling_int8_weight :
    let row : Bytes := zeros 5 ++ [0xDB, 0, 0, 0x66, 0x2E, 0x00, 0x34]
    let c := (dequant 6 true row 8 5).mul (elemValue 1 0x3E99999A)
    (({} : Pica).addVal c 3 (-20)).sum = -3254976 ∧
      roundElem 2 ((({} : Pica).addVal c 3 (-20)).result 1 (-20) 3) = 0xC047 ∧
      roundElem 2 ((({} : Pica).addVal c 3 (-155)).result 1 (-155) 3) = 0xC047 := by decide +kernel
/-- CRC-8 by hand: from 0xFF, a byte of 0xFF leaves 0, and then the phase byte 1 gives 7; zeros under zeros stay 0. -/
theorem test_seal : checkCode [0xFF] 1 = 7 ∧ checkCode [0xFF, 0] 2 = 0x0E := by decide +kernel

end Sys2Proof.Tests
end

section
/-! SUPPORT. Memory and tables: what a write and a clear leave at each address, and that what was set last is found. -/

namespace Sys2Proof.Machine

open Sys2Proof

/-- At another address a write changes nothing, whatever form the memory has. -/
theorem Memory.read_write_ne (m : Memory) {a x : Nat} (b : Byte) (h : x ≠ a) : (m.write a b).read x = m.read x := by
  induction m with
  | nil =>
    simp only [Memory.write]
    split
    · rfl
    · simp [Memory.read, h.symm]
  | cons c r ih =>
    obtain ⟨k, c⟩ := c
    simp only [Memory.write]
    split
    · split
      · rfl
      · simp [Memory.read, h.symm]
    · split
      · next hk => subst hk; split <;> simp [Memory.read, h.symm]
      · simp only [Memory.read, ih]

/-- A write of a byte string changes nothing outside its range. -/
theorem Memory.read_writeAll_outside (m : Memory) (a : Nat) (l : Bytes) {x : Nat} (h : x < a ∨ a + l.length ≤ x) :
    (m.writeAll a l).read x = m.read x := by
  induction l generalizing m a with
  | nil => rfl
  | cons b r ih =>
    simp only [List.length_cons] at h
    rw [Memory.writeAll, ih _ _ (by omega), Memory.read_write_ne _ _ (by omega)]

theorem Memory.writeAll_eq_writeEn (m : Memory) (a : Nat) (l : Bytes) : m.writeAll a l = m.writeEn a l [] := by
  induction l generalizing m a with
  | nil => rfl
  | cons b r ih => exact ih _ _

/-- What a write of a byte string leaves at each address. -/
theorem Memory.read_writeAll {m : Memory} (h : Memory.wf m = true) (a : Nat) (l : Bytes) (x : Nat) :
    (m.writeAll a l).read x = if a ≤ x ∧ x - a < l.length then l.getD (x - a) 0 else m.read x := by
  rw [Memory.writeAll_eq_writeEn, Memory.read_writeEn h]
  simp [enabledAt]

/-- The bytes of a cleared range read 0, and every other address reads as before. -/
theorem Memory.read_clear (m : Memory) (lo hi x : Nat) :
    (m.clear lo hi).read x = if lo ≤ x ∧ x < hi then 0 else m.read x := by
  induction m with
  | nil => simp [Memory.clear, Memory.read]
  | cons c r ih =>
    obtain ⟨k, c⟩ := c
    simp only [Memory.clear, List.filter_cons] at ih ⊢
    by_cases hk : k = x
    · subst hk
      by_cases hr : lo ≤ k ∧ k < hi
      · rw [if_neg (by simp; omega), ih]; simp [hr]
      · rw [if_pos (by simp; omega), if_neg hr]; simp [Memory.read]
    · have hread : Memory.read ((k, c) :: r) x = Memory.read r x := by simp [Memory.read, hk]
      rw [hread, ← ih]
      split
      · simp [Memory.read, hk]
      · rfl

theorem Memory.readAll_eq_map (m : Memory) (a n : Nat) : m.readAll a n = (List.range n).map fun i => m.read (a + i) := by
  induction n generalizing a with
  | zero => rfl
  | succ n ih =>
    rw [Memory.readAll, ih, List.range_succ_eq_map]
    simp [Function.comp_def, Nat.add_assoc, Nat.add_comm 1]

/-- A byte string that was written reads back. -/
theorem Memory.readAll_writeAll {m : Memory} (h : Memory.wf m = true) (a : Nat) (l : Bytes) :
    (m.writeAll a l).readAll a l.length = l := by
  rw [Memory.readAll_eq_map]
  refine List.ext_getElem (by simp) fun i hi hl => ?_
  simp [Memory.read_writeAll h, hl]

@[simp] theorem toLE_length (n v : Nat) : (toLE n v).length = n := by
  induction n generalizing v with
  | zero => rfl
  | succ n ih => simp [toLE, ih]

/-- A search by number finds what was set last. -/
theorem Tbl.find?_set_self {α : Type} (t : Tbl α) (k : Nat) (v : α) :
    (t.set k v).find? (fun x => x.1 == k) = some (k, v) := by
  induction t with
  | nil => simp [Tbl.set]
  | cons x r ih =>
    obtain ⟨j, u⟩ := x
    simp only [Tbl.set]
    split
    · simp
    · split
      · simp
      · simp [*]

end Sys2Proof.Machine
end

section
/-! SUPPORT. Register accesses: the units they reach serve when they are taken, and what decides whether they are. -/

namespace Sys2Proof.Machine

open Sys2Proof

/-! ### The units of an access that is taken serve (R25, R425) -/

theorem serving_of_admits {s : State} {c : Instr} {u : Nat × Nat} (h : s.admits c = true) (hu : u ∈ (s.needs c).units) :
    s.serving u.1 u.2 = true := by
  simp only [State.admits, State.ready, Bool.and_eq_true, List.all_eq_true] at h
  exact h.1.1.2 u hu

theorem mem_units_regAccessAt {s : State} {c : Instr} {w : Who} {o : Nat} {u : Nat × Nat} (hu : u ∈ regUnits o) :
    u ∈ (s.regAccessAt c w o).units := by
  cases w <;> simp [State.regAccessAt, State.regAccess, State.onLink, hu]

theorem admits_of_takes {s : State} {w : Who} {c : Instr} (h : s.takes w c = true) : s.admits c = true := by
  simp only [State.takes, Bool.and_eq_true] at h
  exact h.1

theorem hears_of_takes {s : State} {w : Who} {c : Instr} (h : s.takes w c = true) : s.hears w = true := by
  simp only [State.takes, Bool.and_eq_true] at h
  exact h.2

theorem heardAonRead_of {w : Who} {s : State} {k : State → Ans} (h : s.hears w = true) : heardAonRead w s k = k s := by
  cases w with
  | core c => exact heardRead_of (w := .core c) h
  | fn p =>
    simp only [heardAonRead]
    split
    · rfl
    · exact heardRead_of h

/-- The shared forms of a store, where the access is heard and its unit serves. -/
theorem store_of {w : Who} {code : Nat} {s : State} {f : State → State} (hw : s.hears w = true) (hu : s.serving code 0 = true) :
    store w code s f = .next (f s) := by
  rw [store, heard_of hw, inUnit_of hu]

theorem storeMgr_of {w : Who} {code : Nat} {s : State} {f : State → State} (hm : isMgr w = true) (hw : s.hears w = true)
    (hu : s.serving code 0 = true) : storeMgr w code s f = .next (f s) := by
  rw [storeMgr, store_of hw hu, if_pos hm]

theorem storeAny_of {w : Who} {s : State} {f : State → State} (hw : s.hears w = true) : storeAny w s f = .next (f s) :=
  heard_of hw

theorem storeAon_of {w : Who} {s : State} {f : State → State} (hm : isMgr w = true) (hw : s.hears w = true) :
    storeAon w s f = .next (f s) := by
  rw [storeAon, heardAon_of (hearsAon_of_hears hw), if_pos hm]

/-! ### What decides whether an access is taken -/

/-- What decides whether a register access is acted on at once, and whether its party is heard, is in `t` what it is in `s`. -/
structure State.SameFront (s t : State) : Prop where
  part : t.part = s.part
  held : t.held = s.held
  aon : t.aon = s.aon
  trn : t.trn = s.trn
  sticky : t.err.sticky = s.err.sticky
  bifA : t.host.bifA = s.host.bifA
  bifB : t.host.bifB = s.host.bifB
  links : t.host.links = s.host.links
  fns : t.host.fns = s.host.fns

namespace State.SameFront

variable {s t u : State}

theorem trans (h : s.SameFront t) (k : t.SameFront u) : s.SameFront u :=
  ⟨k.part.trans h.part, k.held.trans h.held, k.aon.trans h.aon, k.trn.trans h.trn, k.sticky.trans h.sticky, k.bifA.trans h.bifA,
    k.bifB.trans h.bifB, k.links.trans h.links, k.fns.trans h.fns⟩

theorem serving (h : s.SameFront t) (c i : Nat) : t.serving c i = s.serving c i := by
  simp only [State.serving, State.unit, h.aon]

theorem linkOf (h : s.SameFront t) (p : Nat) : t.linkOf p = s.linkOf p := by
  simp only [State.linkOf, h.part, h.bifA, h.bifB]

theorem ready (h : s.SameFront t) (x : Held) : t.ready x = s.ready x := by
  have hreader : t.sameReader = s.sameReader := by
    funext a b
    cases a <;> cases b <;> simp only [State.sameReader, h.linkOf]
  simp only [State.ready, State.numbering, State.dom, h.serving, h.aon, h.trn, hreader]

theorem regAccessAt (h : s.SameFront t) (c : Instr) (w : Who) (o : Nat) : t.regAccessAt c w o = s.regAccessAt c w o := by
  cases w <;> simp only [State.regAccessAt, State.regAccess, State.onLink, State.portDom, h.linkOf]

theorem regReadAt (h : s.SameFront t) (c : Instr) (w : Who) (o : Nat) : t.regReadAt c w o = s.regReadAt c w o := by
  simp only [State.regReadAt, h.regAccessAt]

theorem isPf (h : s.SameFront t) (p : Nat) : t.isPf p = s.isPf p := by
  simp only [State.isPf, h.part, h.bifA, h.bifB]

theorem link (h : s.SameFront t) (l : Nat) : t.link l = s.link l := by
  simp only [State.link, h.links]

theorem fn (h : s.SameFront t) (p : Nat) : t.fn p = s.fn p := by
  simp only [State.fn, h.fns]

theorem vfNum (h : s.SameFront t) (p : Nat) : t.vfNum p = s.vfNum p := by
  simp only [State.vfNum, State.pfOf, h.linkOf, h.part]

theorem barBase (h : s.SameFront t) (p k : Nat) : t.barBase p k = s.barBase p k := by
  simp only [State.barBase, h.isPf, h.link, h.fn, h.linkOf, h.vfNum]

theorem ideBar0 (h : s.SameFront t) (p : Nat) : t.ideBar0 p = s.ideBar0 p := by
  simp only [State.ideBar0, State.ideInsecure, h.barBase, h.isPf, h.link, h.linkOf]

theorem hears (h : s.SameFront t) (w : Who) : t.hears w = s.hears w := by
  cases w with
  | core k => simp only [State.hears, State.coreClosed, h.sticky]
  | fn p => simp only [State.hears, State.fnServes, h.ideBar0, h.fn, h.aon]

/-- An access whose needs are the same is taken in both states or in neither. -/
theorem takes (h : s.SameFront t) {c : Instr} (w : Who) (hc : t.needs c = s.needs c) : t.takes w c = s.takes w c := by
  simp only [State.takes, State.admits, hc, h.ready, h.held, h.hears]

theorem rcNeeds (h : s.SameFront t) (c : Instr) (w : Who) (r : RcReg) : t.rcNeeds c w r = s.rcNeeds c w r := by
  unfold State.rcNeeds
  rw [funext (h.regReadAt c w)]

theorem needs_readClearCounterRead (h : s.SameFront t) (w : Who) (r : RcReg) (x : Half) :
    t.needs (.readClearCounterRead w r x) = s.needs (.readClearCounterRead w r x) :=
  h.rcNeeds _ w r

theorem needs_recDataAccess_read (h : s.SameFront t) (w : Who) (x : Half) :
    t.needs (.recDataAccess w (.read x)) = s.needs (.recDataAccess w (.read x)) :=
  h.regReadAt _ w 0xC0000

end State.SameFront

end Sys2Proof.Machine
end

section
/-! SUPPORT. Where registers lie (R489), and a naturally aligned write of a register that begins at its offset (R10). -/

namespace Sys2Proof.Machine

open Sys2Proof

/-! ### The numbered registers of a kind -/

theorem nth_mul {b st n k : Nat} (hst : 0 < st) (hk : k < n) : nth (b + st * k) b st n = some k := by
  have : st * k < st * n := Nat.mul_lt_mul_of_pos_left hk hst
  simp [nth, this, hst]

theorem nth_eq_none {o b st n : Nat} (h : o < b ∨ b + st * n ≤ o ∨ (o - b) % st ≠ 0) : nth o b st n = none := by
  rw [nth, if_neg]
  omega

/-! ### Partition 0 writes a register at its own offset -/

theorem whoPart_of_isMgr {w : Who} (h : isMgr w = true) : whoPart w = 0 := by
  simpa [isMgr] using h

/-- Partition 0's function is a physical function on either part, and a tailor core has the PF view (R350, R490). -/
theorem pfOffset_of_isMgr {s : State} {w : Who} {o : Nat} (hm : isMgr w = true) (ho : o < 0x2000000) : s.pfOffset w o = some o := by
  have hview : s.vfView w = false := by
    cases w with
    | core k => rfl
    | fn p =>
      have hp : p.val = 0 := whoPart_of_isMgr hm
      simp only [State.vfView, State.isPf, hp]
      cases s.part <;> rfl
  simp [State.pfOffset, hview, ho]

theorem exec_registerWrite {s : State} {w : Who} {o width : Nat} {v : W64} (hm : isMgr w = true) (ho : o < 0x2000000)
    (ha : s.admits (.registerWrite w (BitVec.ofNat 26 o) width v) = true) :
    exec (.registerWrite w (BitVec.ofNat 26 o) width v) s = writeAt w o width v s := by
  have hoff : (BitVec.ofNat 26 o).toNat = o := by simp; omega
  have h : execRegisterWrite w (BitVec.ofNat 26 o) width v s = writeAt w o width v s := by
    rw [execRegisterWrite, delivered_of ha, hoff, pfOffset_of_isMgr hm ho]
  exact h

/-- The value of a 32-bit write. -/
def low32 (v : W64) : W64 := BitVec.ofNat 64 (v.toNat % 2 ^ 32)

theorem low32_toNat (v : W64) : (low32 v).toNat = v.toNat % 2 ^ 32 := by
  simp only [low32, BitVec.toNat_ofNat]
  omega

theorem low32_toNat_mod (v : W64) : (low32 v).toNat % 2 ^ 32 = v.toNat % 2 ^ 32 := by
  rw [low32_toNat, Nat.mod_mod]

theorem bits_mod (n : Nat) {hi lo : Nat} (hh : hi < 32) (hl : lo ≤ hi) : bits (n % 2 ^ 32) hi lo = bits n hi lo := by
  have h32 : 2 ^ 32 = 2 ^ lo * 2 ^ (32 - lo) := by rw [← Nat.pow_add]; congr 1; omega
  rw [bits, bits, h32, Nat.mod_mul_right_div_self, Nat.mod_mod_of_dvd _ (Nat.pow_dvd_pow 2 (by omega))]

theorem bit_mod (n : Nat) {i : Nat} (h : i < 32) : bit (n % 2 ^ 32) i = bit n i := by
  rw [bit, bit, bits_mod n h (Nat.le_refl i)]

theorem ofNat_mod (n : Nat) {k : Nat} (h : k ≤ 32) : BitVec.ofNat k (n % 2 ^ 32) = BitVec.ofNat k n :=
  BitVec.eq_of_toNat_eq (by simpa using Nat.mod_mod_of_dvd n (Nat.pow_dvd_pow 2 h))

theorem writeAt_32 {s : State} {w : Who} {o : Nat} {v : W64} (h4 : o % 4 = 0) (hr : (s.regAt w o).isSome = true) :
    writeAt w o 32 v s = writeReg w o .low (low32 v) s := by
  obtain ⟨x, hx⟩ := Option.isSome_iff_exists.mp hr
  simp [writeAt, h4, writeWord, State.regWide, hx, low32]

theorem writeAt_64 {s : State} {w : Who} {o : Nat} {v : W64} (h8 : o % 8 = 0) (hr : s.regWide w o = some true) :
    writeAt w o 64 v s = writeReg w o .whole v s := by
  simp [writeAt, h8, hr]

theorem writeAt_32_misaligned {s : State} {w : Who} {o : Nat} {v : W64} (h4 : o % 4 ≠ 0) : writeAt w o 32 v s = badWrite w s := by
  simp [writeAt, h4]

theorem writeAt_64_misaligned {s : State} {w : Who} {o : Nat} {v : W64} (h8 : o % 8 ≠ 0) : writeAt w o 64 v s = badWrite w s := by
  simp [writeAt, h8]

/-- A 32-bit write of partition 0 is what the write of the register that begins there is. -/
theorem exec_registerWrite_32 {s : State} {w : Who} {o : Nat} {v : W64} {a : Ans} (hm : isMgr w = true)
    (ha : s.admits (.registerWrite w (BitVec.ofNat 26 o) 32 v) = true) (ho : o < 0x2000000) (h4 : o % 4 = 0)
    (hr : (s.regAt w o).isSome = true) (hc : writeReg w o .low (low32 v) s = a) :
    exec (.registerWrite w (BitVec.ofNat 26 o) 32 v) s = a := by
  rw [exec_registerWrite hm ho ha, writeAt_32 h4 hr, hc]

theorem exec_registerWrite_64 {s : State} {w : Who} {o : Nat} {v : W64} {a : Ans} (hm : isMgr w = true)
    (ha : s.admits (.registerWrite w (BitVec.ofNat 26 o) 64 v) = true) (ho : o < 0x2000000) (h8 : o % 8 = 0)
    (hr : s.regWide w o = some true) (hc : writeReg w o .whole v s = a) :
    exec (.registerWrite w (BitVec.ofNat 26 o) 64 v) s = a := by
  rw [exec_registerWrite hm ho ha, writeAt_64 h8 hr, hc]

end Sys2Proof.Machine
end

section
/-! SUPPORT. The command that a write of each command register is (R6, R60, R62, R91, R137, R172, R199). -/

namespace Sys2Proof.Machine

open Sys2Proof

variable {s : State} {w : Who} {v : W64}

theorem ofNat_low32 {k : Nat} (h : k ≤ 32) : BitVec.ofNat k (low32 v).toNat = BitVec.ofNat k v.toNat := by
  rw [low32_toNat, ofNat_mod _ h]

theorem bit_low32 {i : Nat} (h : i < 32) : bit (low32 v).toNat i = bit v.toNat i := by
  rw [low32_toNat, bit_mod _ h]

/-! ### Registers that choose a command by a field -/

theorem writeReg_qctl :
    (bits v.toNat 3 0 = 1 → writeReg w 0x8024 .low (low32 v) s = exec (.qctlEnable w) s) ∧
      (bits v.toNat 3 0 = 2 → writeReg w 0x8024 .low (low32 v) s = exec (.qctlDisable w) s) ∧
      (bits v.toNat 3 0 = 4 → writeReg w 0x8024 .low (low32 v) s = exec (.qctlResume w) s) ∧
      (bits v.toNat 3 0 = 8 → writeReg w 0x8024 .low (low32 v) s = exec (.qctlReset w) s) := by
  have hreg : writeReg w 0x8024 .low (low32 v) s = writeQctl w ((low32 v).toNat % 2 ^ 32) s := rfl
  have hfield := bits_mod v.toNat (show 3 < 32 by omega) (show 0 ≤ 3 by omega)
  rw [hreg, low32_toNat_mod]
  refine ⟨?_, ?_, ?_, ?_⟩ <;> intro h <;> rw [writeQctl, hfield, h] <;> rfl

theorem writeReg_invctl :
    let p : BitVec 4 := BitVec.ofNat 4 (bits v.toNat 13 10)
    let c : BitVec 6 := BitVec.ofNat 6 (bits v.toNat 5 0)
    (bits v.toNat 31 30 = 0 → writeReg w 0x30008 .low (low32 v) s = exec (.invctlPartition w p) s) ∧
      (bits v.toNat 31 30 = 1 → writeReg w 0x30008 .low (low32 v) s = exec (.invctlContext w p c) s) ∧
      (bits v.toNat 31 30 = 2 → writeReg w 0x30008 .low (low32 v) s = exec (.invctlRange w p c) s) := by
  have hreg : writeReg w 0x30008 .low (low32 v) s = writeInvctl w ((low32 v).toNat % 2 ^ 32) s := rfl
  have hscope := bits_mod v.toNat (show 31 < 32 by omega) (show 30 ≤ 31 by omega)
  have hpart := bits_mod v.toNat (show 13 < 32 by omega) (show 10 ≤ 13 by omega)
  have hctx := bits_mod v.toNat (show 5 < 32 by omega) (show 0 ≤ 5 by omega)
  rw [hreg, low32_toNat_mod]
  refine ⟨?_, ?_, ?_⟩ <;> intro h <;> rw [writeInvctl, hscope, hpart, hctx, h] <;> rfl

theorem writeReg_resp :
    (bits v.toNat 31 30 = 1 → writeReg w 0x38014 .low (low32 v) s = exec (.fltRespRetry w (BitVec.ofNat 16 v.toNat)) s) ∧
      (bits v.toNat 31 30 = 2 → writeReg w 0x38014 .low (low32 v) s = exec (.fltRespAbort w (BitVec.ofNat 16 v.toNat)) s) := by
  have hreg : writeReg w 0x38014 .low (low32 v) s = writeResp w ((low32 v).toNat % 2 ^ 32) s := rfl
  have haction := bits_mod v.toNat (show 31 < 32 by omega) (show 30 ≤ 31 by omega)
  rw [hreg, low32_toNat_mod]
  refine ⟨?_, ?_⟩ <;> intro h <;> rw [writeResp, haction, h, ofNat_mod _ (by omega)] <;> rfl

theorem writeReg_cctl :
    (bits v.toNat 2 0 = 1 → writeReg w 0x40008 .low (low32 v) s = exec (.pltCctlAbort w) s) ∧
      (bits v.toNat 2 0 = 2 → writeReg w 0x40008 .low (low32 v) s = exec (.pltCctlRelease w) s) ∧
      (bits v.toNat 2 0 = 4 → writeReg w 0x40008 .low (low32 v) s = exec (.pltCctlRetry w) s) := by
  have hreg : writeReg w 0x40008 .low (low32 v) s = writeCctl w ((low32 v).toNat % 2 ^ 32) s := rfl
  have hfield := bits_mod v.toNat (show 2 < 32 by omega) (show 0 ≤ 2 by omega)
  rw [hreg, low32_toNat_mod]
  refine ⟨?_, ?_, ?_⟩ <;> intro h <;> rw [writeCctl, hfield, h] <;> rfl

theorem writeReg_linCtl :
    (bit v.toNat 31 = true → writeReg w 0x80008 .low (low32 v) s = exec (.linEnable w) s) ∧
      (bit v.toNat 31 = false → writeReg w 0x80008 .low (low32 v) s = exec (.linDisable w) s) := by
  have hreg : writeReg w 0x80008 .low (low32 v) s =
      if bit ((low32 v).toNat % 2 ^ 32) 31 then exec (.linEnable w) s else exec (.linDisable w) s := rfl
  rw [hreg, low32_toNat_mod, bit_mod _ (by omega)]
  exact ⟨fun h => if_pos h, fun h => if_neg (by simp [h])⟩

/-! ### Registers that pass the value written to one command -/

theorem writeReg_rcfg : writeReg w 0x38008 .low (low32 v) s = exec (.fltRcfgWrite w (BitVec.ofNat 32 v.toNat)) s := by
  rw [← ofNat_low32 (Nat.le_refl 32), ← ofNat_mod _ (Nat.le_refl 32)]; rfl

theorem writeReg_tackGo : writeReg w 0xA0048 .low (low32 v) s = exec (.tackGo w (BitVec.ofNat 32 v.toNat)) s := by
  rw [← ofNat_low32 (Nat.le_refl 32), ← ofNat_mod _ (Nat.le_refl 32)]; rfl

theorem writeReg_amendmentGo : writeReg w 0xC0028 .low (low32 v) s = exec (.amendmentGo w (BitVec.ofNat 32 v.toNat)) s := by
  rw [← ofNat_low32 (Nat.le_refl 32), ← ofNat_mod _ (Nat.le_refl 32)]; rfl

theorem writeReg_lkaGctl : writeReg w 0x60000 .low (low32 v) s = exec (.lkaGctlWrite w (BitVec.ofNat 32 v.toNat)) s := by
  rw [← ofNat_low32 (Nat.le_refl 32)]; rfl

theorem writeReg_lkaCtl : writeReg w 0x60004 .low (low32 v) s = exec (.lkaCtlWrite w (BitVec.ofNat 32 v.toNat)) s := by
  rw [← ofNat_low32 (Nat.le_refl 32)]; rfl

theorem writeReg_gctl : writeReg w 0x10000 .low (low32 v) s = exec (.gctlWrite w (BitVec.ofNat 32 v.toNat)) s := by
  rw [← ofNat_low32 (Nat.le_refl 32)]; rfl

theorem writeReg_sysev : writeReg w 0x10010 .low (low32 v) s = exec (.sysevClear w (BitVec.ofNat 32 v.toNat)) s := by
  rw [← ofNat_low32 (Nat.le_refl 32)]; rfl

/-! ### Registers numbered within their kind -/

theorem writeReg_icWrite {o : Nat} {h : Half} {x : W64} (hl : 0x10000 ≤ o) (hh : o < 0x20000) :
    writeReg w o h x s = icWrite w o x s := by
  rw [writeReg, if_neg (by omega), if_neg (by omega), if_pos (by omega)]

theorem regAt_icRead {o : Nat} (hl : 0x10000 ≤ o) (hh : o < 0x20000) : s.regAt w o = s.icRead w o := by
  rw [State.regAt, if_neg (by omega), if_neg (by omega), if_pos (by omega)]

theorem writeReg_trnWrite {o : Nat} {h : Half} {x : W64} (hl : 0x30000 ≤ o) (hh : o < 0x38000) :
    writeReg w o h x s = trnWrite w o h x s := by
  rw [writeReg, if_neg (by omega), if_neg (by omega), if_neg (by omega), if_neg (by omega), if_pos (by omega)]

theorem regAt_trnRead {o : Nat} (hl : 0x30000 ≤ o) (hh : o < 0x38000) : s.regAt w o = s.trnRead w o := by
  rw [State.regAt, if_neg (by omega), if_neg (by omega), if_neg (by omega), if_neg (by omega), if_pos (by omega)]

theorem writeReg_pageWrite {o : Nat} {h : Half} {x : W64} (hl : 0x1000000 ≤ o) : writeReg w o h x s = pageWrite w o x s := by
  unfold writeReg
  repeat rw [if_neg (by omega)]

theorem regAt_pageRead {o : Nat} (hl : 0x1000000 ≤ o) : s.regAt w o = s.pageRead w o := by
  unfold State.regAt
  repeat rw [if_neg (by omega)]

theorem writeReg_doorbell (q : Fin 4096) : writeReg w (0x1000000 + 0x1000 * q.val) .low (low32 v) s =
    exec (.doorbellWrite w q (bit v.toNat 31) (BitVec.ofNat 16 v.toNat)) s := by
  rw [writeReg_pageWrite (by omega), ← ofNat_low32 (by omega), ← bit_low32 (by omega)]
  simp [pageWrite, nth_mul, exec]

theorem writeReg_chead (q : Fin 4096) : writeReg w (0x1000008 + 0x1000 * q.val) .low (low32 v) s =
    exec (.cheadWrite w q (BitVec.ofNat 16 v.toNat)) s := by
  have hn : nth (0x1000008 + 0x1000 * q.val) 0x1000000 0x1000 4096 = none := nth_eq_none (by omega)
  rw [writeReg_pageWrite (by omega), ← ofNat_low32 (by omega)]
  simp [pageWrite, hn, nth_mul, exec]

theorem writeReg_tbind (t : Fin 64) : writeReg w (0x30100 + 4 * t.val) .low (low32 v) s =
    exec (.tbindWrite w t (BitVec.ofNat 32 v.toNat)) s := by
  have hn : nth (0x30100 + 4 * t.val) 0x30040 4 16 = none := nth_eq_none (by omega)
  rw [writeReg_trnWrite (by omega) (by omega), ← ofNat_low32 (Nat.le_refl 32), ← ofNat_mod _ (Nat.le_refl 32), trnWrite,
    if_neg (by omega), if_neg (by omega), if_neg (by omega)]
  simp only [hn, nth_mul (show 0 < 4 by omega) t.isLt, Fin.ofNat_val_eq_self, exec]

theorem writeReg_pend (k : Fin 64) : writeReg w (0x10100 + 4 * k.val) .low (low32 v) s =
    exec (.pendClear w k (BitVec.ofNat 32 v.toNat)) s := by
  rw [writeReg_icWrite (by omega) (by omega), ← ofNat_low32 (Nat.le_refl 32), icWrite, if_neg (by omega), if_neg (by omega)]
  simp only [nth_mul (show 0 < 4 by omega) k.isLt, Fin.ofNat_val_eq_self, exec]

theorem writeReg_tgt (n : Fin 2048) : writeReg w (0x12000 + 4 * n.val) .low (low32 v) s =
    exec (.tgtWrite w n (BitVec.ofNat 32 v.toNat)) s := by
  have hn : nth (0x12000 + 4 * n.val) 0x10100 4 64 = none := nth_eq_none (by omega)
  rw [writeReg_icWrite (by omega) (by omega), ← ofNat_low32 (Nat.le_refl 32), icWrite, if_neg (by omega), if_neg (by omega)]
  simp only [hn, nth_mul (show 0 < 4 by omega) n.isLt, Fin.ofNat_val_eq_self, exec]

/-! ### A register begins at each of those offsets -/

theorem regAt_doorbell (q : Fin 4096) : (s.regAt w (0x1000000 + 0x1000 * q.val)).isSome = true := by
  rw [regAt_pageRead (by omega), State.pageRead, nth_mul (by omega) q.isLt]
  rfl

theorem regAt_chead (q : Fin 4096) : (s.regAt w (0x1000008 + 0x1000 * q.val)).isSome = true := by
  have hn : nth (0x1000008 + 0x1000 * q.val) 0x1000000 0x1000 4096 = none := nth_eq_none (by omega)
  rw [regAt_pageRead (by omega), State.pageRead, nth_mul (by omega) q.isLt, hn]
  rfl

theorem regAt_tbind (t : Fin 64) : (s.regAt w (0x30100 + 4 * t.val)).isSome = true := by
  have hn : nth (0x30100 + 4 * t.val) 0x30040 4 16 = none := nth_eq_none (by omega)
  rw [regAt_trnRead (by omega) (by omega), State.trnRead, if_neg (by omega), if_neg (by omega), if_neg (by omega), if_neg (by omega),
    if_neg (by omega), hn, nth_mul (by omega) t.isLt]
  rfl

theorem regAt_pend (k : Fin 64) : (s.regAt w (0x10100 + 4 * k.val)).isSome = true := by
  rw [regAt_icRead (by omega) (by omega), State.icRead, if_neg (by omega), if_neg (by omega), nth_mul (by omega) k.isLt]
  rfl

/-- Source 0 has no register (R375, R391). -/
theorem regAt_tgt (n : Fin 2048) (h : n.val ≠ 0) : (s.regAt w (0x12000 + 4 * n.val)).isSome = true := by
  have h1 : nth (0x12000 + 4 * n.val) 0x10100 4 64 = none := nth_eq_none (by omega)
  have h2 : nth (0x12000 + 4 * n.val) 0x10200 4 64 = none := nth_eq_none (by omega)
  have h3 : nth (0x12000 + 4 * n.val) 0x12004 4 2047 = some (n.val - 1) := by
    rw [show 0x12000 + 4 * n.val = 0x12004 + 4 * (n.val - 1) by omega]
    exact nth_mul (by omega) (by omega)
  rw [regAt_icRead (by omega) (by omega), State.icRead, if_neg (by omega), if_neg (by omega), h1, h2, h3]
  rfl

end Sys2Proof.Machine
end

section
/-! PROOF. A write of a command register is its command (O39). -/

namespace Sys2Proof.Machine

open Sys2Proof

/-- Settles O39: a register begins at each offset, and the write of it reaches `exec` of its command. -/
theorem commandRegistersCommand : Obligations.CommandRegistersCommand := by
  unfold Obligations.CommandRegistersCommand
  intro s w v hm x is
  have reaches {o : Nat} {c : Instr} (hr : (s.regAt w o).isSome = true) (hc : writeReg w o .low (low32 v) s = exec c s)
      (ho : o < 0x2000000 := by omega) (h4 : o % 4 = 0 := by omega) : is o c :=
    fun ha => exec_registerWrite_32 hm ha ho h4 hr hc
  obtain ⟨hEnable, hDisable, hResume, hReset⟩ := writeReg_qctl (s := s) (w := w) (v := v)
  obtain ⟨hPartition, hContext, hRange⟩ := writeReg_invctl (s := s) (w := w) (v := v)
  obtain ⟨hFaultRetry, hFaultAbort⟩ := writeReg_resp (s := s) (w := w) (v := v)
  obtain ⟨hAbort, hRelease, hRetry⟩ := writeReg_cctl (s := s) (w := w) (v := v)
  obtain ⟨hOn, hOff⟩ := writeReg_linCtl (s := s) (w := w) (v := v)
  exact ⟨fun q => ⟨reaches (regAt_doorbell q) (writeReg_doorbell q), reaches (regAt_chead q) (writeReg_chead q)⟩,
    fun h => reaches rfl (hEnable h), fun h => reaches rfl (hDisable h), fun h => reaches rfl (hResume h),
    fun h => reaches rfl (hReset h),
    fun h => reaches rfl (hPartition h), fun h => reaches rfl (hContext h), fun h => reaches rfl (hRange h),
    reaches rfl writeReg_rcfg, fun h => reaches rfl (hFaultRetry h), fun h => reaches rfl (hFaultAbort h),
    fun h => reaches rfl (hAbort h), fun h => reaches rfl (hRelease h), fun h => reaches rfl (hRetry h),
    reaches rfl writeReg_lkaGctl, reaches rfl writeReg_lkaCtl, reaches rfl writeReg_gctl, reaches rfl writeReg_sysev,
    reaches rfl writeReg_tackGo, reaches rfl writeReg_amendmentGo,
    fun t => reaches (regAt_tbind t) (writeReg_tbind t), fun k => reaches (regAt_pend k) (writeReg_pend k),
    fun n hn => reaches (regAt_tgt n hn) (writeReg_tgt n),
    fun h => reaches rfl (hOn h), fun h => reaches rfl (hOff h)⟩

end Sys2Proof.Machine
end

section
/-! SUPPORT. Registers that store what is written, and accesses that no register takes (R6, R10). -/

namespace Sys2Proof.Machine

open Sys2Proof

variable {s : State} {w : Who} {v : W64}

theorem serving_of_write {o width : Nat} {u : Nat × Nat} (ho : o < 0x2000000)
    (ht : s.takes w (.registerWrite w (BitVec.ofNat 26 o) width v) = true) (hu : u ∈ regUnits o) : s.serving u.1 u.2 = true := by
  have hoff : (BitVec.ofNat 26 o).toNat = o := by simp; omega
  refine serving_of_admits (admits_of_takes ht) ?_
  change u ∈ (s.regAccessAt _ w (BitVec.ofNat 26 o).toNat).units
  rw [hoff]
  exact mem_units_regAccessAt hu

/-- A 32-bit write of partition 0 that is taken stores what the write of the register does, as its unit serves. -/
theorem exec_registerWrite_32_taken {o : Nat} {t : State} (hm : isMgr w = true)
    (ht : s.takes w (.registerWrite w (BitVec.ofNat 26 o) 32 v) = true) (hr : (s.regAt w o).isSome = true)
    (hc : s.hears w = true → (∀ u ∈ regUnits o, s.serving u.1 u.2 = true) → writeReg w o .low (low32 v) s = .next t)
    (ho : o < 0x2000000 := by omega) (h4 : o % 4 = 0 := by omega) :
    exec (.registerWrite w (BitVec.ofNat 26 o) 32 v) s = .next t :=
  exec_registerWrite_32 hm (admits_of_takes ht) ho h4 hr (hc (hears_of_takes ht) fun _ hu => serving_of_write ho ht hu)

/-- A misaligned access is an error of source 0 (R10). -/
theorem badWrite_of (hw : s.hears w = true) : badWrite w s = .next s.badAccess := heard_of hw

theorem putHalf_whole (old v : W64) (mask : Nat) : putHalf old .whole v mask = v &&& BitVec.ofNat 64 mask := by
  simp [putHalf]

theorem bits_low16 (n : Nat) : bits n 15 0 = n % 2 ^ 16 := by
  simp [bits]

theorem writeReg_slice (hm : isMgr w = true) (hw : s.hears w = true) (hu : s.serving 1 0 = true) :
    writeReg w 0x8080 .low (low32 v) s = .next { s with gal := { s.gal with
      slice := if v.toNat % 2 ^ 32 % 2 ^ 16 = 0 then 1 else BitVec.ofNat 16 (v.toNat % 2 ^ 32) } } := by
  rw [← low32_toNat_mod, ← bits_low16]
  exact storeMgr_of hm hw hu

theorem writeReg_tmo (hm : isMgr w = true) (hw : s.hears w = true) (hu : s.serving 6 0 = true) :
    writeReg w 0x70004 .low (low32 v) s = .next { s with seam := { s.seam with tmo := BitVec.ofNat 16 (v.toNat % 2 ^ 32) } } := by
  rw [← low32_toNat_mod]
  exact storeMgr_of hm hw hu

theorem writeReg_seamSel (hw : s.hears w = true) (hu : s.serving 6 0 = true) :
    writeReg w 0x70010 .low (low32 v) s =
      .next { s with seam := { s.seam with sel := s.seam.sel.set (whoPart w) (BitVec.ofNat 10 (v.toNat % 2 ^ 32)) } } := by
  rw [← low32_toNat_mod]
  exact store_of hw hu

theorem writeReg_route {d : Nat} (hd : d < 1024) (hm : isMgr w = true) (hw : s.hears w = true) (hu : s.serving 6 0 = true) :
    writeReg w (0x71000 + 4 * d) .low (low32 v) s =
      .next { s with seam := { s.seam with route := s.seam.route.set d (BitVec.ofNat 12 (v.toNat % 2 ^ 32)) } } := by
  rw [← low32_toNat_mod]
  unfold writeReg
  repeat rw [if_neg (by omega)]
  rw [if_pos (by omega)]
  unfold seamWrite
  repeat rw [if_neg (by omega)]
  rw [nth_mul (by omega) hd]
  exact storeMgr_of hm hw hu

theorem regUnits_route {d : Nat} (hd : d < 1024) : regUnits (0x71000 + 4 * d) = [(6, 0)] := by
  unfold regUnits
  repeat rw [if_neg (by omega)]
  rw [if_pos (by omega)]

theorem regAt_route {d : Nat} (hd : d < 1024) : (s.regAt w (0x71000 + 4 * d)).isSome = true := by
  unfold State.regAt
  repeat rw [if_neg (by omega)]
  rw [if_pos (by omega)]
  unfold State.seamRead
  repeat rw [if_neg (by omega)]
  rw [nth_mul (by omega) hd]
  rfl

theorem writeReg_invaddr (hw : s.hears w = true) (hu : s.serving 2 0 = true) :
    writeReg w 0x30000 .whole v s =
      .next { s with trn := { s.trn with invaddr := s.trn.invaddr.set (whoPart w) (v &&& 0x01FFFFFFFFFFF03F) } } := by
  have hput : putHalf (s.trn.invaddr.get 0 (whoPart w)) .whole v (maskOf 56 12 + maskOf 5 0) = v &&& 0x01FFFFFFFFFFF03F :=
    putHalf_whole _ _ _
  rw [← hput]
  exact store_of hw hu

theorem writeReg_pltSel (hw : s.hears w = true) :
    writeReg w 0x40000 .low (low32 v) s =
      .next { s with plt := { s.plt with sel := s.plt.sel.set (whoPart w) (BitVec.ofNat 6 (v.toNat % 2 ^ 32)) } } := by
  rw [← low32_toNat_mod]
  exact storeAny_of hw

theorem writeReg_cmpSel (hw : s.hears w = true) :
    writeReg w 0x50000 .low (low32 v) s =
      .next { s with cmp := { s.cmp with sel := s.cmp.sel.set (whoPart w) (BitVec.ofNat 4 (v.toNat % 2 ^ 32)) } } := by
  rw [← low32_toNat_mod]
  exact storeAny_of hw

theorem writeReg_stcfg (hm : isMgr w = true) (hw : s.hears w = true) (hu : s.serving 0xC 0 = true) :
    writeReg w 0xA0014 .low (low32 v) s = .next { s with obs := { s.obs with stcfg := bit (v.toNat % 2 ^ 32) 31 } } := by
  rw [← low32_toNat_mod]
  exact storeMgr_of hm hw hu

theorem writeReg_usel (hm : isMgr w = true) (hw : s.hears w = true) :
    writeReg w 0xC0030 .low (low32 v) s = .next { s with aon := { s.aon with usel := BitVec.ofNat 16 (v.toNat % 2 ^ 32) } } := by
  rw [← low32_toNat_mod]
  exact storeAon_of hm hw

/-! ### A pulse of source 0 (R446, R447) -/

theorem raise_err (t : State) (n : Nat) : (t.raise n).err = t.err := by
  unfold State.raise; split <;> rfl

theorem relevel_err (t old : State) : (t.relevel old).err = t.err := by
  have step : ∀ (l : List Nat) (u : State),
      (l.foldl (fun s n => if s.lineHigh n && !old.lineHigh n then s.raise n else s) u).err = u.err := by
    intro l
    induction l with
    | nil => exact fun u => rfl
    | cons n r ih =>
      intro u
      rw [List.foldl_cons, ih]
      split
      · exact raise_err u n
      · rfl
  exact step _ t

theorem updFerr_sticky (t : State) : t.updFerr.err.sticky = t.err.sticky := by
  unfold State.updFerr; split <;> rfl

theorem countErr_handling (t : State) (n : Nat) : (t.countErr n).err.handling = t.err.handling := by
  unfold State.countErr; split <;> rfl

theorem setBit_self {n k : Nat} (x : BitVec k) (h : n < k) : (setBit x n true).getLsbD n = true := by
  simp only [setBit, if_true, BitVec.getLsbD_or, BitVec.getLsbD_ofNat, h, decide_true, Nat.testBit_two_pow_self, Bool.and_self,
    Bool.or_true]

/-- Outside a handling interval a pulse latches its source. -/
theorem pulse_sticky {n : Nat} (hn : n < 512) (h : s.err.handling = false) : (s.pulse n).err.sticky.getLsbD n = true := by
  have hc : (s.countErr n).err.handling = false := by rw [countErr_handling, h]
  simp only [State.pulse, hc, updFerr_sticky, relevel_err, setBit_self _ hn, Bool.false_eq_true, if_false]

/-- During one it is lost, and MISSED is set. -/
theorem pulse_missed {n : Nat} (h : s.err.handling = true) : (s.pulse n).err.missed = true := by
  have hc : (s.countErr n).err.handling = true := by rw [countErr_handling, h]
  simp [State.pulse, hc]

end Sys2Proof.Machine
end

section
/-! SUPPORT. Reads of the registers that hold an RC field (R8, R11): where they lie, what a read answers and clears. -/

namespace Sys2Proof.Machine

open Sys2Proof

variable {s : State} {w : Who} {r : RcReg}

/-- The register holds an RC field: it is named, not given by an offset. -/
def HoldsRc (r : RcReg) : Prop := ∀ o k, r ≠ .reg o k

/-! ### Where they lie -/

/-- Every one of them lies outside the claim, SKENT, recorder data, tally and doorbell registers, whose reads act otherwise. -/
theorem rcOffset_range (h : HoldsRc r) :
    (rcOffset r = 0x9020 ∨ 0x54000 ≤ rcOffset r) ∧ rcOffset r + 4 ≤ 0xB0008 ∧ rcOffset r % 4 = 0 ∧
      (rcNarrow r = false → rcOffset r % 8 = 0) := by
  cases r with
  | reg o k => exact absurd rfl (h o k)
  | _ => simp [rcOffset, rcNarrow] <;> omega

theorem regAt_cmpRead {o : Nat} (hl : 0x50000 ≤ o) (hh : o < 0x60000) : s.regAt w o = s.cmpRead w o := by
  unfold State.regAt
  repeat rw [if_neg (by omega)]
  rw [if_pos (by omega)]

theorem regAt_seamRead {o : Nat} (hl : 0x70000 ≤ o) (hh : o < 0x80000) : s.regAt w o = s.seamRead w o := by
  unfold State.regAt
  repeat rw [if_neg (by omega)]
  rw [if_pos (by omega)]

theorem regAt_errRead {o : Nat} (hl : 0x90000 ≤ o) (hh : o < 0xA0000) : s.regAt w o = s.errRead w o := by
  unfold State.regAt
  repeat rw [if_neg (by omega)]
  rw [if_pos (by omega)]

/-- At an offset that is none of the ten single registers', the RC field is that of the numbered register there. -/
theorem rcAt_numbered {o : Nat}
    (h : o ∉ [0x60010, 0x60018, 0x60020, 0x60028, 0x80040, 0x80048, 0x80050, 0x9020, 0xA002C, 0xB0004]) :
    rcAt o = (((nth o 0x90200 4 16).map fun j => RcReg.errCnt (Fin.ofNat 16 j)) <|>
      ((nth o 0x78018 32 1024).map fun n => RcReg.wstat (Fin.ofNat 1024 n)) <|>
      ((nth o 0x54000 16 1024).map fun m => RcReg.mlook (Fin.ofNat 1024 m)) <|>
      ((nth o 0x54008 16 1024).map fun m => RcReg.mfetch (Fin.ofNat 1024 m))) := by
  have hfind : ([.lkaIssue, .lkaUsed, .lkaDisc, .lkaWalks, .linNbcast, .linNrecall, .linNcross, .hostLate, .trstat, .recStat].find?
      fun r => rcOffset r == o) = none := by
    simpa [rcOffset, eq_comm (b := o)] using h
  unfold rcAt
  rw [hfind]
  cases nth o 0x90200 4 16 <;> cases nth o 0x78018 32 1024 <;> cases nth o 0x54000 16 1024 <;> rfl

theorem rcAt_rcOffset (h : HoldsRc r) : rcAt (rcOffset r) = some r := by
  cases r with
  | reg o k => exact absurd rfl (h o k)
  | errCnt j =>
    rw [rcOffset, rcAt_numbered, nth_mul (by omega) j.isLt]
    · simp
    · simp; omega
  | wstat n =>
    rw [rcOffset, rcAt_numbered, nth_mul (by omega) n.isLt, nth_eq_none (b := 0x90200) (by omega)]
    · simp
    · simp; omega
  | mlook m =>
    rw [rcOffset, rcAt_numbered, nth_mul (by omega) m.isLt, nth_eq_none (b := 0x90200) (by omega),
      nth_eq_none (b := 0x78018) (by omega)]
    · simp
    · simp; omega
  | mfetch m =>
    rw [rcOffset, rcAt_numbered, nth_mul (by omega) m.isLt, nth_eq_none (b := 0x90200) (by omega),
      nth_eq_none (b := 0x78018) (by omega), nth_eq_none (b := 0x54000) (by omega)]
    · simp
    · simp; omega
  | _ => rfl

/-- The window status registers' region holds 64-bit registers alone, at the offsets of four kinds. -/
theorem regWide_windows {o : Nat} (hl : 0x78000 ≤ o) (hh : o < 0x80000) : s.regWide w o =
    if (nth o 0x78000 32 1024).isSome || (nth o 0x78008 32 1024).isSome || (nth o 0x78010 32 1024).isSome ||
      (nth o 0x78018 32 1024).isSome then some true else none := by
  rw [State.regWide, regAt_seamRead (by omega) (by omega)]
  unfold State.seamRead
  repeat rw [if_neg (by omega)]
  rw [nth_eq_none (b := 0x71000) (by omega)]
  cases nth o 0x78000 32 1024 <;> cases nth o 0x78008 32 1024 <;> cases nth o 0x78010 32 1024 <;> cases nth o 0x78018 32 1024 <;> rfl

/-- So does that of the meters. -/
theorem regWide_meters {o : Nat} (hl : 0x54000 ≤ o) (hh : o < 0x60000) : s.regWide w o =
    if (nth o 0x54000 16 1024).isSome || (nth o 0x54008 16 1024).isSome then some true else none := by
  rw [State.regWide, regAt_cmpRead (by omega) (by omega)]
  unfold State.cmpRead
  repeat rw [if_neg (by omega)]
  rw [nth_eq_none (b := 0x50200) (by omega), nth_eq_none (b := 0x50204) (by omega), nth_eq_none (b := 0x50208) (by omega)]
  cases nth o 0x54000 16 1024 <;> cases nth o 0x54008 16 1024 <;> rfl

/-- A register begins at each of them, of 32 or of 64 bits. -/
theorem regWide_rcOffset (h : HoldsRc r) : s.regWide w (rcOffset r) = some (!rcNarrow r) := by
  cases r with
  | reg o k => exact absurd rfl (h o k)
  | errCnt j =>
    rw [State.regWide, rcOffset, regAt_errRead (by omega) (by omega), State.errRead, if_neg (by omega), if_neg (by omega),
      nth_eq_none (b := 0x90000) (by omega), nth_eq_none (b := 0x90040) (by omega), nth_eq_none (b := 0x90080) (by omega),
      nth_mul (by omega) j.isLt]
    rfl
  | wstat n => rw [rcOffset, regWide_windows (by omega) (by omega), nth_mul (b := 0x78018) (by omega) n.isLt]; simp [rcNarrow]
  | mlook m => rw [rcOffset, regWide_meters (by omega) (by omega), nth_mul (b := 0x54000) (by omega) m.isLt]; simp [rcNarrow]
  | mfetch m => rw [rcOffset, regWide_meters (by omega) (by omega), nth_mul (b := 0x54008) (by omega) m.isLt]; simp [rcNarrow]
  | _ => rfl

/-- No register begins at the high half of a 64-bit one. -/
theorem regWide_high (h : HoldsRc r) (hwide : rcNarrow r = false) : s.regWide w (rcOffset r + 4) = none := by
  cases r with
  | reg o k => exact absurd rfl (h o k)
  | errCnt j => cases hwide
  | trstat => cases hwide
  | recStat => cases hwide
  | wstat n =>
    rw [rcOffset, regWide_windows (by omega) (by omega), nth_eq_none (b := 0x78000) (by omega), nth_eq_none (b := 0x78008) (by omega),
      nth_eq_none (b := 0x78010) (by omega), nth_eq_none (b := 0x78018) (by omega)]
    rfl
  | mlook m =>
    rw [rcOffset, regWide_meters (by omega) (by omega), nth_eq_none (b := 0x54000) (by omega), nth_eq_none (b := 0x54008) (by omega)]
    rfl
  | mfetch m =>
    rw [rcOffset, regWide_meters (by omega) (by omega), nth_eq_none (b := 0x54000) (by omega), nth_eq_none (b := 0x54008) (by omega)]
    rfl
  | _ => rfl

/-! ### A read of one of them (R8, R11) -/

theorem readReg_rcOffset (h : HoldsRc r) (x : Half) : s.readReg w (rcOffset r) x = s.readHalf w (rcOffset r) x := by
  obtain ⟨hlo, hhi, -, -⟩ := rcOffset_range h
  have hforeign : s.countForeign w (rcOffset r) = s := by
    rw [State.countForeign, nth_eq_none (b := 0x800000) (by omega), nth_eq_none (b := 0x1000008) (by omega)]
    rfl
  unfold State.readReg
  rw [nth_eq_none (b := 0x18000) (by omega), nth_eq_none (b := 0x1C000) (by omega), nth_eq_none (b := 0x50208) (by omega)]
  simp only [hforeign, show rcOffset r ≠ 0xB0010 by omega, if_false]

/-- The offset and the width of the access that reads a part of the register; one of 32 bits is read whole. -/
def rcAccess (r : RcReg) (x : Half) : Nat × Nat :=
  if rcNarrow r then (rcOffset r, 32)
  else match x with
    | .whole => (rcOffset r, 64)
    | .low => (rcOffset r, 32)
    | .high => (rcOffset r + 4, 32)

theorem rcAccess_range (h : HoldsRc r) (x : Half) : (rcAccess r x).1 < 0xC00000 ∧ (rcAccess r x).1 ≠ 0x9000 := by
  obtain ⟨hlo, hhi, -, -⟩ := rcOffset_range h
  unfold rcAccess
  split
  · exact ⟨by dsimp only; omega, by dsimp only; omega⟩
  · cases x <;> exact ⟨by dsimp only; omega, by dsimp only; omega⟩

theorem readAt_rcAccess (h : HoldsRc r) {x : Half} (hx : rcNarrow r = true → x = .whole) :
    s.readAt w (rcAccess r x).1 (rcAccess r x).2 = s.readHalf w (rcOffset r) x := by
  obtain ⟨-, -, h4, h8⟩ := rcOffset_range h
  cases hn : rcNarrow r with
  | true => simp [hx hn, rcAccess, hn, State.readAt, h4, State.readWord, regWide_rcOffset h, readReg_rcOffset h]
  | false =>
    have hhigh : (rcOffset r + 4) % 8 = 4 := by have := h8 hn; omega
    cases x with
    | whole => simp [rcAccess, hn, State.readAt, h8 hn, regWide_rcOffset h, readReg_rcOffset h]
    | low => simp [rcAccess, hn, State.readAt, h4, State.readWord, regWide_rcOffset h, readReg_rcOffset h]
    | high =>
      simp [rcAccess, hn, State.readAt, h4, hhigh, State.readWord, regWide_high h hn, regWide_rcOffset h, readReg_rcOffset h]

/-- Below the doorbell pages every view has its registers at the offsets of the PF view, and the fence register answers apart. -/
theorem readView_of {o width : Nat} (ho : o < 0xC00000) (hf : o ≠ 0x9000) :
    s.readView w o width = answerRead w (s.readAt w o width) := by
  have hoff : s.pfOffset w o = some o := by
    simp [State.pfOffset, ho, show o < 0x2000000 by omega]
  simp [State.readView, hoff, hf]

/-- A read that is taken is answered with the part of the register it names. -/
theorem exec_readClearCounterRead {x : Half} (h : HoldsRc r) (ht : s.takes w (.readClearCounterRead w r x) = true)
    (hx : rcNarrow r = true → x = .whole) :
    exec (.readClearCounterRead w r x) s = .next (answerRead w (s.readHalf w (rcOffset r) x)) := by
  have hgo : ∀ (c : Prop) [Decidable c] (g : State → Ans), (if c then heardAonRead w s g else heardRead w s g) = g s := by
    intro c _ g
    split
    · exact heardAonRead_of (hears_of_takes ht)
    · exact heardRead_of (hears_of_takes ht)
  have hview : execReadClearCounterRead w r x s = .next (s.readView w (rcAccess r x).1 (rcAccess r x).2) := by
    unfold execReadClearCounterRead
    rw [delivered_of (admits_of_takes ht)]
    dsimp only
    rw [hgo]
    cases r with
    | reg o k => exact absurd rfl (h o k)
    | _ => cases x <;> rfl
  obtain ⟨ho, hf⟩ := rcAccess_range h x
  rw [exec, hview, readView_of ho hf, readAt_rcAccess h hx]

/-! ### The halves held for a party -/

theorem heldHigh_dropHigh (o : Nat) : (s.dropHigh w o).heldHigh w o = none := by
  rw [State.heldHigh, Option.map_eq_none_iff, List.find?_eq_none]
  intro x hx hsame
  have hkept := (List.mem_filter.mp hx).2
  simp [hsame] at hkept

theorem heldHigh_holdHigh (o : Nat) (y : W32) : (s.holdHigh w o y).heldHigh w o = some y := by
  have h := heldHigh_dropHigh (s := s) (w := w) o
  simp only [State.heldHigh, Option.map_eq_none_iff] at h
  simp [State.heldHigh, State.holdHigh, List.find?_append, h]

theorem readHalf_whole (h : HoldsRc r) {wide : Bool} {x : Nat} (hr : s.regAt w (rcOffset r) = some (wide, x)) :
    s.readHalf w (rcOffset r) .whole = (x, s.rcClear w r) := by
  simp [State.readHalf, hr, rcAt_rcOffset h]

theorem readHalf_low (h : HoldsRc r) {wide : Bool} {x : Nat} (hr : s.regAt w (rcOffset r) = some (wide, x))
    (hheld : s.heldHigh w (rcOffset r) = none) :
    s.readHalf w (rcOffset r) .low = (x % 2 ^ 32, (s.rcClear w r).holdHigh w (rcOffset r) (BitVec.ofNat 32 (x / 2 ^ 32))) := by
  simp [State.readHalf, hr, rcAt_rcOffset h, hheld]

theorem readHalf_high {o : Nat} {y : W32} (hheld : s.heldHigh w o = some y) : s.readHalf w o .high = (y.toNat, s.dropHigh w o) := by
  simp [State.readHalf, hheld]

/-! ### Clearing a field, holding a half and answering leave who is heard as it is -/

theorem rcClear_front : s.SameFront (s.rcClear w r) := by
  unfold State.rcClear
  dsimp only
  repeat' split
  all_goals exact ⟨rfl, rfl, rfl, rfl, rfl, rfl, rfl, rfl, rfl⟩

theorem holdHigh_front (o : Nat) (y : W32) : s.SameFront (s.holdHigh w o y) := ⟨rfl, rfl, rfl, rfl, rfl, rfl, rfl, rfl, rfl⟩

theorem emit_front (m : OutMsg) : s.SameFront (s.emit m) := ⟨rfl, rfl, rfl, rfl, rfl, rfl, rfl, rfl, rfl⟩

end Sys2Proof.Machine
end

section
/-! PROOF. Registers store what is written; reads of RC fields bring and clear (O38). -/

namespace Sys2Proof.Machine

open Sys2Proof

/-- A read of a whole register brings its value and clears its field, where the party reaches it. -/
theorem rcRead_whole {s : State} {w : Who} {r : RcReg} {x : Nat} (ht : s.takes w (.readClearCounterRead w r .whole) = true)
    (h : HoldsRc r) (hr : s.regAt w (rcOffset r) = some (!rcNarrow r, x)) :
    exec (.readClearCounterRead w r .whole) s = .next ((s.rcClear w r).emit (.regRead w (BitVec.ofNat 64 x))) := by
  rw [exec_readClearCounterRead h ht fun _ => rfl, readHalf_whole h hr]
  rfl

theorem rcClear_out (s : State) (w : Who) (r : RcReg) : (s.rcClear w r).out = s.out := by
  have h : s.only [.err, .seam, .cmp, .lka, .lin, .host, .obs, .rcd] (s.rcClear w r) := State.rcClear_only _ _ _ (only_refl _ s)
  exact h .out (by decide)

/-- The drop count of a window that the party reaches clears. -/
theorem rcClear_wstat {s : State} {w : Who} {n : Fin 1024} (h : isMgr w = true ∨ n.val / 64 = whoPart w) :
    (s.rcClear w (.wstat n)).win n.val = { s.win n.val with drops := 0 } := by
  have hreach : (isMgr w || n.val / 64 == whoPart w) = true := by simpa using h
  simp [State.rcClear, hreach]

@[simp] theorem win_dropHigh (s : State) (w : Who) (o n : Nat) : (s.dropHigh w o).win n = s.win n := rfl
@[simp] theorem win_holdHigh (s : State) (w : Who) (o n : Nat) (y : W32) : (s.holdHigh w o y).win n = s.win n := rfl

/-- What the read of the low half of a 64-bit counter leaves: its field cleared, and its high half held for the party (R11). -/
def State.lowRead (s : State) (w : Who) (r : RcReg) (x : Nat) : State :=
  ((s.rcClear w r).holdHigh w (rcOffset r) (BitVec.ofNat 32 (x / 2 ^ 32))).emit (.regRead w (BitVec.ofNat 64 (x % 2 ^ 32)))

section Halves

variable {s : State} {w : Who} {r : RcReg} {x : Nat}

theorem rcNarrow_of_wide (h : HoldsRc r) (hr : s.regAt w (rcOffset r) = some (true, x)) : rcNarrow r = false := by
  have hwide := regWide_rcOffset (s := s) (w := w) h
  simpa [State.regWide, hr] using hwide

theorem rcRead_low (ht : s.takes w (.readClearCounterRead w r .low) = true) (h : HoldsRc r)
    (hr : s.regAt w (rcOffset r) = some (true, x)) (hheld : s.heldHigh w (rcOffset r) = none) :
    exec (.readClearCounterRead w r .low) s = .next (s.lowRead w r x) := by
  rw [exec_readClearCounterRead h ht (by simp [rcNarrow_of_wide h hr]), readHalf_low h hr hheld]
  rfl

theorem lowRead_front : s.SameFront (s.lowRead w r x) := rcClear_front.trans ((holdHigh_front _ _).trans (emit_front _))

/-- The high half's read brings the half held, and leaves none. -/
theorem rcRead_high (ht : s.takes w (.readClearCounterRead w r .high) = true) (h : HoldsRc r)
    (hr : s.regAt w (rcOffset r) = some (true, x)) :
    exec (.readClearCounterRead w r .high) (s.lowRead w r x) =
      .next (((s.lowRead w r x).dropHigh w (rcOffset r)).emit (.regRead w (BitVec.ofNat 64 (x / 2 ^ 32 % 2 ^ 32)))) := by
  have ht' : (s.lowRead w r x).takes w (.readClearCounterRead w r .high) = true := by
    rw [lowRead_front.takes w (lowRead_front.needs_readClearCounterRead w r .high), ht]
  have hheld : (s.lowRead w r x).heldHigh w (rcOffset r) = some (BitVec.ofNat 32 (x / 2 ^ 32)) := heldHigh_holdHigh _ _
  rw [exec_readClearCounterRead h ht' (by simp [rcNarrow_of_wide h hr]), readHalf_high hheld, BitVec.toNat_ofNat]
  rfl

end Halves

/-- Settles O38: each stored register by its own rule, a read of a whole counter by `rcRead_whole`, and the halves of one by
`rcRead_low` and `rcRead_high`. -/
theorem registersStore : Obligations.RegistersStore := by
  unfold Obligations.RegistersStore
  refine ⟨?_, ?_, ?_⟩
  · intro s w v hm x gives
    refine ⟨fun ht => ?_, fun ht => ?_, fun d hd ht => ?_, fun ht => ?_, fun ht => ?_, fun ht => ?_, fun ht => ?_, fun ht => ?_,
      fun ht => ?_, fun o ho h4 ht => ?_, fun o ho h8 ht => ?_, pulse_sticky (by omega), pulse_missed⟩
    · exact exec_registerWrite_32_taken hm ht rfl fun hw hu => writeReg_slice hm hw (hu (1, 0) (by decide))
    · exact exec_registerWrite_32_taken hm ht rfl fun hw hu => writeReg_tmo hm hw (hu (6, 0) (by decide))
    · exact exec_registerWrite_32_taken hm ht (regAt_route hd) fun hw hu =>
        writeReg_route hd hm hw (hu (6, 0) (by simp [regUnits_route hd]))
    · exact exec_registerWrite_32_taken hm ht rfl fun hw hu => writeReg_seamSel hw (hu (6, 0) (by decide))
    · exact exec_registerWrite_64 hm (admits_of_takes ht) (by omega) (by omega) rfl
        (writeReg_invaddr (hears_of_takes ht) (serving_of_write (by omega) ht (u := (2, 0)) (by decide)))
    · exact exec_registerWrite_32_taken hm ht rfl fun hw _ => writeReg_pltSel hw
    · exact exec_registerWrite_32_taken hm ht rfl fun hw _ => writeReg_cmpSel hw
    · exact exec_registerWrite_32_taken hm ht rfl fun hw hu => writeReg_stcfg hm hw (hu (0xC, 0) (by decide))
    · exact exec_registerWrite_32_taken hm ht rfl fun hw _ => writeReg_usel hm hw
    · rw [exec_registerWrite hm ho (admits_of_takes ht), writeAt_32_misaligned h4, badWrite_of (hears_of_takes ht)]
    · rw [exec_registerWrite hm ho (admits_of_takes ht), writeAt_64_misaligned h8, badWrite_of (hears_of_takes ht)]
  · intro s w r x ht h hr
    refine ⟨_, rcRead_whole ht h hr, by simp [rcClear_out], ?_, ?_, ?_, ?_, ?_, ?_, ?_, ?_, ?_, ?_, ?_, ?_, ?_, ?_, ?_⟩
    · rintro j rfl hm; simp [State.rcClear, hm, Tbl.get_set]
    · rintro n rfl hreach; simp [rcClear_wstat hreach]
    · rintro m rfl hm; simp [State.rcClear, hm, Tbl.get_set]
    · rintro m rfl hm; simp [State.rcClear, hm, Tbl.get_set]
    · rintro rfl; simp [State.rcClear, Tbl.get_set]
    · rintro rfl; simp [State.rcClear, Tbl.get_set]
    · rintro rfl; simp [State.rcClear, Tbl.get_set]
    · rintro rfl; simp [State.rcClear, Tbl.get_set]
    · rintro rfl hm; simp [State.rcClear, hm]
    · rintro rfl hm; simp [State.rcClear, hm]
    · rintro rfl hm; simp [State.rcClear, hm]
    · rintro rfl hm; simp [State.rcClear, hm]
    · rintro rfl hu; simp [State.rcClear, hu]
    · rintro rfl hu; simp [State.rcClear, hu]
    · exact State.emit_only _ _ (State.rcClear_only _ _ _ (only_refl _ s))
  · intro s w r x htl hth h hr hheld
    refine ⟨_, _, rcRead_low htl h hr hheld, ?_, rcRead_high hth h hr, rfl, ?_, heldHigh_dropHigh _⟩
    · simp [State.lowRead, State.holdHigh, State.dropHigh, rcClear_out]
    · rintro n rfl hreach
      simp [State.lowRead, rcClear_wstat hreach]

end Sys2Proof.Machine
end

section
/-! SUPPORT. The recorder: clearing, captures, and its data register (R475 to R482, R488). -/

namespace Sys2Proof.Machine

open Sys2Proof

variable {s : State} {w : Who}

/-- What every step of a fold leaves, the fold leaves. -/
theorem foldl_leaves {α β : Type} (f : State → β) {g : State → α → State} {l : List α} (hg : ∀ s, ∀ a ∈ l, f (g s a) = f s)
    (s : State) : f (l.foldl g s) = f s := by
  induction l generalizing s with
  | nil => rfl
  | cons a r ih =>
    rw [List.foldl_cons, ih (fun s b hb => hg s b (List.mem_cons_of_mem a hb)), hg s a List.mem_cons_self]

/-! ### Clearing (R477, R479, R488) -/

theorem read_setSram_outside {a n v x : Nat} (h : x < a ∨ a + n ≤ x) :
    Memory.read (s.setSram a n v).rcd.sram x = Memory.read s.rcd.sram x :=
  Memory.read_writeAll_outside _ _ _ (by rwa [toLE_length])

/-- The bins and TOTAL of a cleared histogram set read 0. -/
theorem read_clearHist_bins {b x : Nat} (hl : b + 24 ≤ x) (hh : x < b + 160) : Memory.read (s.clearHist b).rcd.sram x = 0 := by
  rw [State.clearHist, read_setSram_outside (by omega), Memory.read_clear, Memory.read_clear]
  split
  · rfl
  · rw [if_pos (by omega)]

theorem read_clearHist_outside {b x : Nat} (h : x < b + 8 ∨ b + 160 ≤ x) :
    Memory.read (s.clearHist b).rcd.sram x = Memory.read s.rcd.sram x := by
  rw [State.clearHist, read_setSram_outside (by omega), Memory.read_clear, if_neg (by omega), Memory.read_clear, if_neg (by omega)]

theorem read_clearTracker_outside {k x : Nat} (h : x < trackBase + 32 * k ∨ trackBase + 32 * (k + 1) ≤ x) :
    Memory.read (s.clearTracker k).rcd.sram x = Memory.read s.rcd.sram x := by
  rw [State.clearTracker, read_setSram_outside (by omega)]

/-- The first `n` histogram sets cleared. -/
def State.clearHists (s : State) (n : Nat) : State := (List.range n).foldl (fun s h => s.clearHist (histBase + 160 * h)) s

/-- Trackers 2 to 255 cleared. -/
def State.clearTrackers (s : State) : State := (List.range 254).foldl (fun s k => s.clearTracker (k + 2)) s

theorem clearHists_succ (n : Nat) : s.clearHists (n + 1) = (s.clearHists n).clearHist (histBase + 160 * n) := by
  simp [State.clearHists, List.range_succ]

theorem read_clearHists_bins {n h i : Nat} (hh : h < n) (hl : 24 ≤ i) (hi : i < 160) :
    Memory.read (s.clearHists n).rcd.sram (histBase + 160 * h + i) = 0 := by
  induction n with
  | zero => omega
  | succ n ih =>
    rw [clearHists_succ]
    by_cases hn : h = n
    · subst hn
      exact read_clearHist_bins (by omega) (by omega)
    · rw [read_clearHist_outside (by omega), ih (by omega)]

theorem read_clearHists_outside {x : Nat} (h : trackBase ≤ x) :
    Memory.read (s.clearHists 64).rcd.sram x = Memory.read s.rcd.sram x := by
  refine foldl_leaves (fun s => Memory.read s.rcd.sram x) (fun s k hk => read_clearHist_outside (.inr ?_)) s
  have hk : k < 64 := List.mem_range.mp hk
  simp only [trackBase, histBase] at h ⊢
  omega

theorem read_clearTrackers_outside {x : Nat} (h : x < trackBase ∨ setBase ≤ x) :
    Memory.read s.clearTrackers.rcd.sram x = Memory.read s.rcd.sram x := by
  refine foldl_leaves (fun s => Memory.read s.rcd.sram x) (fun s k hk => read_clearTracker_outside ?_) s
  have hk : k < 254 := List.mem_range.mp hk
  simp only [trackBase, setBase] at h ⊢
  omega

/-- The ring cleared and its numbers started again, with the header stamped. -/
def State.clearRing (s : State) (stamp : Nat) : State :=
  let r := { s.rcd with sram := Memory.clear s.rcd.sram ringBase sramEnd, wrap := false, next := 0, seq := 0 }
  ({ s with rcd := r } : State).setSram 0 8 stamp

theorem recClear_eq : s.recClear = (s.clearHists 64).clearTrackers.clearRing s.stampNum := by
  unfold State.recClear State.clearRing State.clearTrackers State.clearHists
  rfl

theorem read_clearRing {stamp x : Nat} (h : 8 ≤ x) : Memory.read (s.clearRing stamp).rcd.sram x =
    if ringBase ≤ x ∧ x < sramEnd then 0 else Memory.read s.rcd.sram x := by
  rw [State.clearRing, read_setSram_outside (by omega), Memory.read_clear]

theorem clearRing_regs (stamp : Nat) : (s.clearRing stamp).rcd.next = 0 ∧ (s.clearRing stamp).rcd.seq = 0 ∧
    (s.clearRing stamp).rcd.wrap = false ∧ (s.clearRing stamp).rcd.freeze = s.rcd.freeze :=
  ⟨rfl, rfl, rfl, rfl⟩

theorem clearHists_freeze (n : Nat) : (s.clearHists n).rcd.freeze = s.rcd.freeze :=
  foldl_leaves (fun s => s.rcd.freeze) (fun s h _ => by simp only [State.clearHist, State.setSram]) s

theorem clearTrackers_freeze : s.clearTrackers.rcd.freeze = s.rcd.freeze := by
  refine foldl_leaves (fun s => s.rcd.freeze) (fun s k _ => ?_) s
  simp only [State.clearTracker, State.setSram]

/-- CLRALL starts the ring's numbers again, and leaves FREEZE (R481). -/
theorem recClear_regs : s.recClear.rcd.next = 0 ∧ s.recClear.rcd.seq = 0 ∧ s.recClear.rcd.wrap = false ∧
    s.recClear.rcd.freeze = s.rcd.freeze := by
  obtain ⟨hnext, hseq, hwrap, hfreeze⟩ := clearRing_regs (s := (s.clearHists 64).clearTrackers) s.stampNum
  rw [clearTrackers_freeze, clearHists_freeze] at hfreeze
  rw [recClear_eq]
  exact ⟨hnext, hseq, hwrap, hfreeze⟩

/-- After CLRALL the ring reads 0. -/
theorem read_recClear_ring {x : Nat} (hl : ringBase ≤ x) (hh : x < sramEnd) : Memory.read s.recClear.rcd.sram x = 0 := by
  rw [recClear_eq, read_clearRing (by simp only [ringBase] at hl; omega), if_pos ⟨hl, hh⟩]

/-- So do the bins and TOTAL of every histogram set. -/
theorem read_recClear_bins {h i : Nat} (hh : h < 64) (hl : 24 ≤ i) (hi : i < 160) :
    Memory.read s.recClear.rcd.sram (histBase + 160 * h + i) = 0 := by
  have hbelow : histBase + 160 * h + i < trackBase := by simp only [histBase, trackBase]; omega
  rw [recClear_eq, read_clearRing (by omega), if_neg (by simp only [ringBase, trackBase] at *; omega),
    read_clearTrackers_outside (.inl hbelow), read_clearHists_bins hh hl hi]

/-- The snapshot set configurations stay. -/
theorem read_recClear_sets {x : Nat} (hl : setBase ≤ x) (hh : x < ringBase) :
    Memory.read s.recClear.rcd.sram x = Memory.read s.rcd.sram x := by
  have habove : trackBase ≤ x ∧ 8 ≤ x := by simp only [trackBase, setBase] at *; omega
  rw [recClear_eq, read_clearRing habove.2, if_neg (by omega), read_clearTrackers_outside (.inr hl),
    read_clearHists_outside habove.1]

/-! ### Captures (R480) -/

theorem flatMap_toLE_length (n : Nat) (f : Nat → Nat) : ((List.range n).flatMap fun i => toLE 8 (f i)).length = 8 * n := by
  induction n with
  | zero => rfl
  | succ n ih =>
    simp only [List.range_succ, List.flatMap_append, List.length_append, ih, List.flatMap_cons, List.flatMap_nil, List.append_nil,
      toLE_length]
    omega

/-- A set's header and its at most 32 values fit the slot. -/
theorem slotBytes_length_le (k : Nat) : (s.slotBytes k).length ≤ 512 := by
  have hn : s.setN k ≤ 32 := Nat.min_le_left _ _
  simp only [State.slotBytes, zeros, List.length_append, List.length_replicate, toLE_length, flatMap_toLE_length]
  omega

theorem capture_regs (k : Nat) : (s.capture k).rcd.seq = s.rcd.seq + 1 ∧
    (s.capture k).rcd.next = (if s.rcd.next.toNat + 1 = 4032 then 0 else s.rcd.next + 1) ∧
    (s.capture k).rcd.wrap = (s.rcd.wrap || s.rcd.next.toNat + 1 == 4032) := by
  simp [State.capture, ringSlots]

theorem capture_slot (k : Nat) (h : Memory.wf s.rcd.sram = true) :
    Memory.readAll (s.capture k).rcd.sram (ringBase + 512 * s.rcd.next.toNat) (s.slotBytes k).length = s.slotBytes k := by
  simp only [State.capture]
  exact Memory.readAll_writeAll (wf_clear _ _ _ h) _ _

theorem read_capture_outside {k x : Nat}
    (h : x < ringBase + 512 * s.rcd.next.toNat ∨ ringBase + 512 * s.rcd.next.toNat + 512 ≤ x) :
    Memory.read (s.capture k).rcd.sram x = Memory.read s.rcd.sram x := by
  have hlen := slotBytes_length_le (s := s) k
  simp only [State.capture]
  rw [Memory.read_writeAll_outside _ _ _ (by omega), Memory.read_clear, if_neg (by omega)]

/-! ### The data register (R11, R482) -/

theorem recRead_front (x : Half) : s.SameFront (s.recRead w x).2 := by
  unfold State.recRead
  dsimp only
  split
  · exact ⟨rfl, rfl, rfl, rfl, rfl, rfl, rfl, rfl, rfl⟩
  · cases x <;> exact ⟨rfl, rfl, rfl, rfl, rfl, rfl, rfl, rfl, rfl⟩

theorem exec_recDataAccess_read {x : Half} (h : s.takes w (.recDataAccess w (.read x)) = true) :
    exec (.recDataAccess w (.read x)) s = .next (answerRead w (s.recRead w x)) := takesRead_of h

theorem exec_recDataAccess_write {v : W64} (h : s.takes w (.recDataAccess w (.write v)) = true) :
    exec (.recDataAccess w (.write v)) s = .next (s.recWrite w .whole v) := takes_of h

/-- While the recorder is out a read brings 0 (R449). -/
theorem recRead_out (hu : s.serving 0xD 0 = false) (x : Half) : s.recRead w x = (0, s) := by
  simp [State.recRead, hu]

theorem recRead_whole (hu : s.serving 0xD 0 = true) :
    s.recRead w .whole = (s.sramView (whoPart w) (s.cursorAt w), (s.setLatch w none).advanceCursor w) := by
  simp [State.recRead, hu]

theorem recRead_low (hu : s.serving 0xD 0 = true) : s.recRead w .low =
    (s.sramView (whoPart w) (s.cursorAt w) % 2 ^ 32,
      s.setLatch w (some (BitVec.ofNat 32 (s.sramView (whoPart w) (s.cursorAt w) / 2 ^ 32)))) := by
  simp [State.recRead, hu]

/-- The high half's read brings the half held. -/
theorem recRead_high {y : W32} (hu : s.serving 0xD 0 = true) (hy : s.cursorLatch w = some y) :
    s.recRead w .high = (y.toNat, (s.setLatch w none).advanceCursor w) := by
  simp [State.recRead, hu, hy]

theorem cursorLatch_setLatch (y : W32) : (s.setLatch w (some y)).cursorLatch w = some y := by
  have hp : (s.setLatch w (some y)).actPart w = s.actPart w := rfl
  rw [State.cursorLatch, hp]
  simp [State.setLatch, Tbl.find?_set_self]

theorem advanceCursor_cursor : (s.advanceCursor w).rcd.cursor.get 0 (s.actPart w) = s.rcd.cursor.get 0 (s.actPart w) + 1 := by
  simp [State.advanceCursor, Tbl.get_set]

/-- A whole write: the bytes that partition 0 puts, and the cursor moved on. -/
theorem recWrite_whole (v : W64) : s.recWrite w .whole v =
    (if isMgr w then s.sramPut (s.cursorAt w) (toLE 8 v.toNat) else s).advanceCursor w := by
  simp [State.recWrite]

theorem clearHist_cursor (b : Nat) : (s.clearHist b).rcd.cursor = s.rcd.cursor := rfl

theorem sramPut_cursor (a : Nat) (d : Bytes) : (s.sramPut a d).rcd.cursor = s.rcd.cursor := by
  unfold State.sramPut
  dsimp only
  split
  · split
    · rfl
    · exact clearHist_cursor _
  · rfl

/-- Where no histogram header is met, the bytes that may be written are stored, and no other byte changes. -/
theorem read_sramPut {a b : Nat} {d : Bytes} (hd : histHeader a d.length = none) (h : Memory.wf s.rcd.sram = true) :
    Memory.read (s.sramPut a d).rcd.sram b =
      if a ≤ b ∧ b < a + d.length ∧ sramWritable b = true then d.getD (b - a) 0 else Memory.read s.rcd.sram b := by
  simp only [State.sramPut, hd]
  rw [Memory.read_writeEn h]
  by_cases hin : a ≤ b ∧ b - a < d.length
  · have hen : enabledAt ((List.range d.length).map fun i => sramWritable (a + i)) (b - a) = sramWritable b := by
      simp [enabledAt, List.getD_eq_getElem?_getD, hin.2, Nat.add_sub_cancel' hin.1]
    rw [hen]
    simp only [hin, true_and, show b < a + d.length by omega]
  · rw [if_neg (fun h => hin ⟨h.1, h.2.1⟩), if_neg (fun h => hin ⟨h.1, by omega⟩)]

end Sys2Proof.Machine
end

section
/-! PROOF. The recorder's controls and its data window (O37). -/

namespace Sys2Proof.Machine

open Sys2Proof

/-- The recorder's controls, where they are taken. -/
theorem exec_recFreeze {s : State} {w : Who} {on : Bool} (h : s.takes w (.recFreeze w on) = true) :
    exec (.recFreeze w on) s = .next (if isMgr w then { s with rcd := { s.rcd with freeze := on } } else s) := by
  refine (takes_of h : execRecFreeze w on s = _).trans ?_
  split <;> rfl

theorem exec_recSnap {s : State} {w : Who} (h : s.takes w (.recSnap w) = true) :
    exec (.recSnap w) s = .next (if isMgr w && !s.rcd.freeze then s.snapAll else s) := by
  refine (takes_of h : execRecSnap w s = _).trans ?_
  split <;> rfl

theorem exec_recClrall {s : State} {w : Who} (h : s.takes w (.recClrall w) = true) :
    exec (.recClrall w) s = .next (if isMgr w && !s.rcd.freeze then s.recClear else s) := by
  refine (takes_of h : execRecClrall w s = _).trans ?_
  split <;> rfl

theorem exec_snapshotPeriod {s : State} {k : Fin 16} (h : s.serving 0xD 0 = true) :
    exec (.snapshotPeriod k) s =
      .next (if s.rcd.mode && !s.rcd.freeze && s.setOn k.val && s.setPeriod k.val != 0 then s.capture k.val else s) := by
  refine (inUnit_of h : execSnapshotPeriod k s = _).trans ?_
  split <;> rfl

/-- SNAP with one set enabled is its capture. -/
theorem snapAll_single {s : State} {k : Nat} (hm : s.rcd.mode = true) (hk : (List.range 16).filter s.setOn = [k]) :
    s.snapAll = s.capture k := by
  simp [State.snapAll, hm, hk]

/-- What the read of the low half of the data register leaves: the high half held for the party's next read of it. -/
def State.recLowRead (s : State) (w : Who) : State :=
  let x := s.sramView (whoPart w) (s.cursorAt w)
  (s.setLatch w (some (BitVec.ofNat 32 (x / 2 ^ 32)))).emit (.regRead w (BitVec.ofNat 64 (x % 2 ^ 32)))

theorem exec_recDataAccess_low {s : State} {w : Who} (hu : s.serving 0xD 0 = true)
    (h : s.takes w (.recDataAccess w (.read .low)) = true) :
    exec (.recDataAccess w (.read .low)) s = .next (s.recLowRead w) := by
  rw [exec_recDataAccess_read h, recRead_low hu]
  rfl

theorem recLowRead_front (s : State) (w : Who) : s.SameFront (s.recLowRead w) := ⟨rfl, rfl, rfl, rfl, rfl, rfl, rfl, rfl, rfl⟩

/-- The read of the high half then brings the half held, and moves the cursor on. -/
theorem exec_recDataAccess_high {s : State} {w : Who} (hu : s.serving 0xD 0 = true)
    (h : s.takes w (.recDataAccess w (.read .high)) = true) :
    exec (.recDataAccess w (.read .high)) (s.recLowRead w) =
      .next ((((s.recLowRead w).setLatch w none).advanceCursor w).emit
        (.regRead w (BitVec.ofNat 64 (s.sramView (whoPart w) (s.cursorAt w) / 2 ^ 32 % 2 ^ 32)))) := by
  have hf := recLowRead_front s w
  have ht : (s.recLowRead w).takes w (.recDataAccess w (.read .high)) = true := by
    rw [hf.takes w (hf.needs_recDataAccess_read w .high), h]
  have hu' : (s.recLowRead w).serving 0xD 0 = true := by rw [hf.serving, hu]
  have hlatch : (s.recLowRead w).cursorLatch w = some (BitVec.ofNat 32 (s.sramView (whoPart w) (s.cursorAt w) / 2 ^ 32)) :=
    cursorLatch_setLatch (s := s) (w := w) _
  rw [exec_recDataAccess_read ht, recRead_high hu' hlatch, BitVec.toNat_ofNat]
  rfl

theorem recWrite_cursor {s : State} {w : Who} (v : W64) :
    (s.recWrite w .whole v).rcd.cursor.get 0 (s.actPart w) = s.rcd.cursor.get 0 (s.actPart w) + 1 := by
  have hmoved : ∀ u : State, u.rcd.cursor = s.rcd.cursor → u.prt = s.prt →
      (u.advanceCursor w).rcd.cursor.get 0 (s.actPart w) = s.rcd.cursor.get 0 (s.actPart w) + 1 := by
    intro u hc hp
    have hpart : u.actPart w = s.actPart w := by cases w <;> simp only [State.actPart, hp]
    rw [← hpart, advanceCursor_cursor, hc]
  have hput : s.only [.rcd] (s.sramPut (s.cursorAt w) (toLE 8 v.toNat)) := State.sramPut_only _ _ _ (only_refl _ s)
  rw [recWrite_whole]
  split
  · exact hmoved _ (sramPut_cursor _ _) (hput .prt (by decide))
  · exact hmoved s rfl rfl

/-- Settles O37: each command by its rule, CLRALL by what the three clearings leave at each address, a capture by what was written
reading back, and the halves of the data register by `exec_recDataAccess_low` and `exec_recDataAccess_high`. -/
theorem recorderCommandsAndData : Obligations.RecorderCommandsAndData := by
  unfold Obligations.RecorderCommandsAndData
  refine ⟨⟨?_, ?_, ?_⟩, ?_, ?_⟩
  · exact fun s w on h => exec_recFreeze h
  · intro s w hs hc
    rw [exec_recSnap hs, exec_recClrall hc]
    refine ⟨fun h => ?_, fun hm hf => ⟨fun hmode => ?_, ⟨s.snapAll, ?_, ?_, fun hmode k hk => ?_⟩, ⟨s.recClear, ?_⟩⟩⟩
    · have hoff : (isMgr w && !s.rcd.freeze) = false := by rcases h with h | h <;> simp [h]
      simp [hoff]
    · simp [State.snapAll, hmode]
    · simp [hm, hf]
    · exact State.snapAll_only _ (only_refl _ s)
    · obtain ⟨hseq, hnext, -⟩ := capture_regs (s := s) k
      rw [snapAll_single hmode hk]
      exact ⟨hseq, hnext⟩
    · obtain ⟨hnext, hseq, hwrap, hfreeze⟩ := recClear_regs (s := s)
      exact ⟨by simp [hm, hf], hnext, hseq, hwrap, hfreeze, fun a => read_recClear_ring, fun h i => read_recClear_bins,
        fun a => read_recClear_sets, State.recClear_only _ (only_refl _ s)⟩
  · intro s k hu
    rw [exec_snapshotPeriod hu]
    refine ⟨fun h => ?_, fun hm hf hon hp hwf => ⟨s.capture k.val, ?_, capture_slot k.val hwf, fun b => read_capture_outside, ?_⟩⟩
    · have hoff : (s.rcd.mode && !s.rcd.freeze) = false := by rcases h with h | h <;> simp [h]
      simp [hoff]
    · simp [hm, hf, hon, hp]
    · obtain ⟨hseq, hnext, hwrap⟩ := capture_regs (s := s) k.val
      exact ⟨hseq, hnext, hwrap, State.capture_only _ _ (only_refl _ s)⟩
  · intro s w ht p x
    refine ⟨fun hu h => ?_, fun hu => ⟨⟨_, exec_recDataAccess_read (ht .whole), ?_⟩,
      ⟨_, _, exec_recDataAccess_low hu (ht .low), rfl, rfl, exec_recDataAccess_high hu (ht .high), rfl, advanceCursor_cursor, ?_⟩⟩⟩
    · rw [exec_recDataAccess_read (ht h), recRead_out hu]
      rfl
    · rw [recRead_whole hu]
      exact ⟨rfl, advanceCursor_cursor, rfl,
        State.emit_only _ _ (State.advanceCursor_only _ _ (State.setLatch_only _ _ _ (only_refl _ s)))⟩
    · exact State.emit_only _ _ (State.advanceCursor_only _ _ (State.setLatch_only _ _ _
        (State.emit_only _ _ (State.setLatch_only _ _ _ (only_refl _ s)))))
  · intro s w v ht hwf p a
    refine ⟨_, exec_recDataAccess_write ht, recWrite_cursor v, fun hm => ?_, fun hm hd b => ?_,
      State.recWrite_only _ _ _ _ (only_refl _ s)⟩
    · simp [recWrite_whole, hm, State.advanceCursor]
    · rw [← toLE_length 8 v.toNat] at hd
      simpa [recWrite_whole, hm, State.advanceCursor] using read_sramPut hd hwf

end Sys2Proof.Machine
end

section
/-! SUPPORT. The commitment of an accepted slug: when it runs, what it leaves of the queues, and its command, in flight or ended (R57, R71 to
R73, R81, R85). -/

namespace Sys2Proof.Machine

open Sys2Proof

set_option Elab.async false

variable {s t u : State} {q : Nat}

/-! ### When a slug commits -/

/-- No earlier command stands at the position of a slug that commits. -/
theorem cmd?_of_commits {op : Nat} (h : s.commits q op = true) : s.cmd? q (s.queue q).head = none := by
  simp only [State.commits, Bool.and_eq_true, beq_iff_eq] at h
  exact h.2

/-- A slug that commits is acted on by its opcode's own meaning. -/
theorem atCommit_of {op : Nat} {k : State → Bytes → State} (h : s.commits q op = true) :
    atCommit q op s k = .next (k s (s.queue q).fetch.slug) := by
  simp only [State.commits, Bool.and_eq_true, Bool.not_eq_true', beq_iff_eq] at h
  obtain ⟨⟨⟨⟨⟨⟨⟨hrun, hres⟩, hacc⟩, hop⟩, hhalt⟩, hmet⟩, hown⟩, -⟩ := h
  rw [atCommit, galley_of hrun]
  simp [hres, hacc, hop, hhalt, hmet, hown]

theorem exec_stage {q : Fin 4096} (h : s.commits q.val 0x30 = true) :
    exec (.stage q) s = .next (s.commitStage q.val (s.queue q.val).fetch.slug) := atCommit_of h

theorem exec_swap {q : Fin 4096} (h : s.commits q.val 0x31 = true) :
    exec (.swap q) s = .next (s.commitSwap q.val (s.queue q.val).fetch.slug) := atCommit_of h

theorem exec_retire {q : Fin 4096} (h : s.commits q.val 0x32 = true) :
    exec (.retire q) s = .next (s.commitRetire q.val (s.queue q.val).fetch.slug) := atCommit_of h

theorem exec_swatch {q : Fin 4096} (h : s.commits q.val 0x22 = true) :
    exec (.swatch q) s = .next (s.commitSwatch q.val (s.queue q.val).fetch.slug) := atCommit_of h

/-- MOVE and PUT, GATHER and SCATTER commit alike. -/
theorem exec_move {q : Fin 4096} {op : Nat} {i : Instr} (hi : (op, i) ∈ [(0x10, Instr.move q), (0x11, Instr.put q)])
    (h : s.commits q.val op = true) : exec i s = .next (s.commitMove q.val (s.queue q.val).fetch.slug) := by
  simp only [List.mem_cons, Prod.mk.injEq, List.not_mem_nil, or_false] at hi
  obtain ⟨rfl, rfl⟩ | ⟨rfl, rfl⟩ := hi <;> exact atCommit_of h

theorem exec_gather {q : Fin 4096} {op : Nat} {i : Instr} (hi : (op, i) ∈ [(0x20, Instr.gather q), (0x21, Instr.scatter q)])
    (h : s.commits q.val op = true) : exec i s = .next (s.commitGather q.val (s.queue q.val).fetch.slug) := by
  simp only [List.mem_cons, Prod.mk.injEq, List.not_mem_nil, or_false] at hi
  obtain ⟨rfl, rfl⟩ | ⟨rfl, rfl⟩ := hi <;> exact atCommit_of h

/-! ### What depends on one piece of the state -/

theorem State.only.of_mem {ps : List Piece} (h : s.only ps t) {qs : List Piece} (hsub : ∀ k ∈ ps, k ∈ qs) : s.only qs t :=
  fun k hk => h k fun hm => hk (hsub k hm)

theorem State.only.trans {ps : List Piece} (h : s.only ps t) (k : t.only ps u) : s.only ps u := fun x hx => by
  have hst := h x hx
  have htu := k x hx
  cases x <;> exact Eq.trans htu hst

theorem passed_of_queues (h : s.passed t q) (hq : u.gal.queues = t.gal.queues) : s.passed u q := by
  simpa only [State.passed, State.queue, hq] using h

theorem cmd?_of_cmds (h : u.gal.cmds = t.gal.cmds) (k : Nat) (pos : BitVec 16) : u.cmd? k pos = t.cmd? k pos := by
  simp only [State.cmd?, h]

theorem inState_of_cmds {st : CmdSt} (h : s.inState t q st) (hc : u.gal.cmds = t.gal.cmds) : s.inState u q st := by
  simpa only [State.inState, State.cmd?, hc] using h

theorem endedAs_of_cmds {st : Nat} (h : s.endedAs t q st) (hc : u.gal.cmds = t.gal.cmds) : s.endedAs u q st := by
  simpa only [State.endedAs, State.cmd?, hc] using h

theorem table_of_epo (h : t.epo = s.epo) (n : Nat) : t.table n = s.table n := by
  simp only [State.table, h]

theorem comp_of_cmp (h : t.cmp = s.cmp) (n : Nat) : t.comp n = s.comp n := by
  simp only [State.comp, h]

/-! ### HEAD passes the slug, and its command is in flight -/

/-- The command of the slug that commits. -/
def State.newCmd (s : State) (q : Nat) (st : CmdSt) (src : Nat) (noTally : Bool) : Cmd :=
  { queue := q, pos := (s.queue q).head, part := q / 256, slug := (s.queue q).fetch.slug, st := st, began := s.obs.time, src := src,
    noTally := noTally }

theorem commitSlug_cmds (st : CmdSt) (src : Nat) (b : Bool) :
    (s.commitSlug q st src b).gal.cmds = s.gal.cmds ++ [s.newCmd q st src b] := rfl

theorem commitSlug_passed (st : CmdSt) (src : Nat) (b : Bool) : s.passed (s.commitSlug q st src b) q := by
  refine ⟨?_, fun k hk => ?_⟩ <;> simp [State.commitSlug, State.queue, Tbl.get_set, *]

theorem commitSlug_cmd? (h : s.cmd? q (s.queue q).head = none) (st : CmdSt) (src : Nat) (b : Bool) :
    (s.commitSlug q st src b).cmd? q (s.queue q).head = some (s.newCmd q st src b) := by
  rw [State.cmd?] at h ⊢
  rw [commitSlug_cmds, List.find?_append, h]
  simp [State.newCmd]

theorem commitSlug_inState (h : s.cmd? q (s.queue q).head = none) (st : CmdSt) (src : Nat) (b : Bool) :
    s.inState (s.commitSlug q st src b) q st :=
  ⟨_, commitSlug_cmd? h st src b, rfl, rfl, rfl⟩

theorem commitAlone_gal (st : CmdSt) (src code : Nat) : (s.commitAlone q st src code).gal = (s.commitSlug q st src false).gal :=
  (State.lkaPassed_only (ps := [.lka]) _ _ _ _ _ (only_refl _ _)) Piece.gal (by decide)

theorem commitAlone_passed (st : CmdSt) (src code : Nat) : s.passed (s.commitAlone q st src code) q :=
  passed_of_queues (commitSlug_passed st src false) (by rw [commitAlone_gal])

theorem commitAlone_inState (h : s.cmd? q (s.queue q).head = none) (st : CmdSt) (src code : Nat) :
    s.inState (s.commitAlone q st src code) q st :=
  inState_of_cmds (commitSlug_inState h st src false) (by rw [commitAlone_gal])

/-! ### A command that ends -/

/-- What is rewritten in its place is found there. -/
theorem find?_replaced {α : Type} {k : α → Bool} {a x : α} {l : List α} (ha : k a = true) (hx : x ∈ l) (hk : k x = true) :
    (l.map fun y => if k y = true then a else y).find? k = some a := by
  induction l with
  | nil => simp at hx
  | cons y r ih =>
    cases hy : k y with
    | true => simp [hy, ha]
    | false =>
      have hne : x ≠ y := fun h => by simp [h, hy] at hk
      simp [hy, ih (by simpa [hne] using hx)]

theorem setReq_req? {r x : Req} (h : x ∈ s.reqs) (hid : x.id = r.id) : (s.setReq r).req? r.id = some r :=
  find?_replaced (k := fun y : Req => y.id == r.id) (by simp) h (by simpa using hid)

theorem setCmd_cmd? {c d : Cmd} (h : s.cmd? c.queue c.pos = some d) : (s.setCmd c).cmd? c.queue c.pos = some c := by
  obtain ⟨hmem, hkey⟩ := And.intro (List.mem_of_find?_eq_some h) (List.find?_some h)
  exact find?_replaced (k := fun x : Cmd => x.queue == c.queue && x.pos == c.pos) (by simp) hmem hkey

theorem cmd?_key {pos : BitVec 16} {c : Cmd} (h : s.cmd? q pos = some c) : c.queue = q ∧ c.pos = pos := by
  simpa using List.find?_some h

/-- The command as it stands once it has ended. -/
def Cmd.endedWith (c : Cmd) (status flags residue : Nat) (detail : Bytes) (time : BitVec 64) : Cmd :=
  { c with st := .ended, status := BitVec.ofNat 8 status, flags := BitVec.ofNat 16 flags, residue := BitVec.ofNat 64 residue,
           detail := detail, tstamp := time }

/-- The trace record, the counts and the event of a command's end (R460, R465, R478). -/
def State.noteEnd (s : State) (c : Cmd) (q st count : Nat) : State :=
  let s1 := s.addTrace c.part (traceBytes s.now 2 (slugOpcode c.slug) st c.part c.src q (slugTag c.slug) count) false
  let s2 := s1.pcntAdd c.part 0 1
  (if st = 0 then s2 else s2.pcntAdd c.part 1 1).metric 1 (s.now - c.began.toNat) c.part c.src q (slugTag c.slug)

theorem noteEnd_gal (c : Cmd) (st count : Nat) : (s.noteEnd c q st count).gal = s.gal := by
  have hcount : s.only [.obs] ((s.addTrace c.part (traceBytes s.now 2 (slugOpcode c.slug) st c.part c.src q (slugTag c.slug) count)
      false).pcntAdd c.part 0 1) := State.pcntAdd_only _ _ _ _ (State.addTrace_only _ _ _ _ (only_refl _ s))
  have hmetric : s.only [.obs, .rcd] (s.noteEnd c q st count) :=
    State.metric_only _ _ _ _ _ _ _ (only_ite _ (hcount.of_mem (by decide)) (State.pcntAdd_only _ _ _ _ (hcount.of_mem (by decide))))
  exact hmetric .gal (by decide)

/-- What the end of a command that no abort meets leaves of Galley: the command rewritten, and its place in the order of ends. -/
theorem endCmd_gal {pos : BitVec 16} {c : Cmd} (h : s.cmd? q pos = some c) (ha : c.aborted = false) (st fl res : Nat) (d : Bytes) (n : Nat) :
    (s.endCmd q pos st fl res d n).gal =
      { (s.setCmd (c.endedWith st fl res d s.obs.time)).gal with ends := s.gal.ends ++ [(q, pos)] } := by
  have heq : (s.endCmd q pos st fl res d n).gal =
      { ((s.noteEnd c q st n).setCmd (c.endedWith st fl res d s.obs.time)).gal with
        ends := (s.noteEnd c q st n).gal.ends ++ [(q, pos)] } := by
    simp only [State.endCmd, h, ha, Bool.false_eq_true, if_false, Cmd.endedWith]
    rfl
  rw [heq]
  simp only [State.setCmd, noteEnd_gal]

theorem endCmd_queues {pos : BitVec 16} {c : Cmd} (h : s.cmd? q pos = some c) (ha : c.aborted = false) (st fl res : Nat) (d : Bytes)
    (n : Nat) : (s.endCmd q pos st fl res d n).gal.queues = s.gal.queues := by
  rw [endCmd_gal h ha]
  rfl

theorem endCmd_cmd? {pos : BitVec 16} {c : Cmd} (h : s.cmd? q pos = some c) (ha : c.aborted = false) (st fl res : Nat) (d : Bytes)
    (n : Nat) : (s.endCmd q pos st fl res d n).cmd? q pos = some (c.endedWith st fl res d s.obs.time) := by
  obtain ⟨rfl, rfl⟩ := cmd?_key h
  have hset : (s.setCmd (c.endedWith st fl res d s.obs.time)).cmd? c.queue c.pos = some (c.endedWith st fl res d s.obs.time) :=
    setCmd_cmd? (c := c.endedWith st fl res d s.obs.time) h
  rw [← hset]
  exact cmd?_of_cmds (by rw [endCmd_gal h ha]) _ _

/-! ### Commitment that ends the command at once -/

/-- The slug that has committed, and the lookahead that follows, before the command ends. -/
def State.beforeEnd (s : State) (q : Nat) : State :=
  let v := s.queue q
  let s1 := s.commitSlug q .running 0x1FF (s.foreignTally q v.fetch.slug)
  s1.lkaPassed q v.head (s1.queue q).head (if slugOpcode v.fetch.slug = 0x20 ∨ slugOpcode v.fetch.slug = 0x21 then 7 else 5)

theorem commitEnd_eq (st : Nat) : s.commitEnd q st = (s.beforeEnd q).endCmd q (s.queue q).head st 0 0 [] 0 := rfl

theorem beforeEnd_gal : (s.beforeEnd q).gal = (s.commitSlug q .running 0x1FF (s.foreignTally q (s.queue q).fetch.slug)).gal :=
  (State.lkaPassed_only (ps := [.lka]) _ _ _ _ _ (only_refl _ _)) .gal (by decide)

section
variable (h : s.cmd? q (s.queue q).head = none)
include h

theorem beforeEnd_cmd? : (s.beforeEnd q).cmd? q (s.queue q).head =
    some (s.newCmd q .running 0x1FF (s.foreignTally q (s.queue q).fetch.slug)) := by
  rw [← commitSlug_cmd? h .running 0x1FF (s.foreignTally q (s.queue q).fetch.slug)]
  exact cmd?_of_cmds (by rw [beforeEnd_gal]) _ _

theorem commitEnd_passed (st : Nat) : s.passed (s.commitEnd q st) q :=
  passed_of_queues (commitSlug_passed .running 0x1FF (s.foreignTally q (s.queue q).fetch.slug))
    (by rw [commitEnd_eq, endCmd_queues (beforeEnd_cmd? h) rfl, beforeEnd_gal])

theorem commitEnd_endedAs (st : Nat) : s.endedAs (s.commitEnd q st) q st :=
  ⟨_, endCmd_cmd? (beforeEnd_cmd? h) rfl st 0 0 [] 0, rfl, rfl, rfl, rfl⟩

/-- A slug whose commitment ends its command: HEAD has passed it, it has ended with the status, and only Galley, the lookahead and what
observes them changed. -/
theorem commitEnd_spec (st : Nat) :
    s.passed (s.commitEnd q st) q ∧ s.endedAs (s.commitEnd q st) q st ∧ s.only [.gal, .lka, .obs, .rcd] (s.commitEnd q st) :=
  ⟨commitEnd_passed h st, commitEnd_endedAs h st, State.commitEnd_only _ _ _ (only_refl _ s)⟩

end

end Sys2Proof.Machine
end

section
/-! PROOF. STAGE, SWAP and RETIRE at their commitment (O18). -/

namespace Sys2Proof.Machine

open Sys2Proof

set_option Elab.async false

variable {s : State} {q : Nat}

/-- What a STAGE makes of the slot `y`: staged with the address, or free. -/
def Slot.staged (y : Slot) (valid : Bool) (addr : Nat) : Slot :=
  if valid then { y with st := .staged, addr := addr } else { y with st := .free, addr := 0 }

/-- The idle slot, free or staged, is staged or emptied, and no other table changes. -/
theorem stageSlot_idle {n : Nat} {v : Bool} {a : Nat}
    (h : ((s.table n).slot (s.table n).idleB).st = .free ∨ ((s.table n).slot (s.table n).idleB).st = .staged) :
    (s.stageSlot n (s.table n).idleB v a).table n =
        (s.table n).setSlot (s.table n).idleB (((s.table n).slot (s.table n).idleB).staged v a) ∧
      ∀ j, j ≠ n → (s.stageSlot n (s.table n).idleB v a).table j = s.table j := by
  have hcur : ((s.table n).curB == (s.table n).idleB) = false := by cases hc : (s.table n).curB <;> simp [Table.idleB, hc]
  have hgo : ((s.table n).curB == (s.table n).idleB ||
      !(((s.table n).slot (s.table n).idleB).st == .free || ((s.table n).slot (s.table n).idleB).st == .staged)) = false := by
    rw [hcur]; rcases h with h | h <;> simp [h]
  have hdrop : (if ((s.table n).slot (s.table n).idleB).st = .staged then s.dropSwatches n (s.table n).idleB else s).epo = s.epo :=
    (only_ite (ps := [.cmp]) _ (State.dropSwatches_only _ _ _ (only_refl _ s)) (only_refl _ s)) .epo (by decide)
  simp only [State.stageSlot, hgo, Bool.false_eq_true, if_false]
  generalize (if ((s.table n).slot (s.table n).idleB).st = .staged then s.dropSwatches n (s.table n).idleB else s) = u at hdrop ⊢
  cases v <;> simp +contextual [State.table, State.setTable, Slot.staged, Tbl.get_set, hdrop]

/-- The command of a committed SWAP or RETIRE runs, and its flip stands last among those pending. -/
theorem addFlip_spec (h : s.cmd? q (s.queue q).head = none) (ts : List Nat) (r w : Bool) :
    s.passed (s.addFlip q ts r w) q ∧ s.inState (s.addFlip q ts r w) q .running ∧ (s.addFlip q ts r w).epo.tables = s.epo.tables ∧
      (s.addFlip q ts r w).epo.flips =
        s.epo.flips ++ [{ queue := q, pos := (s.queue q).head, part := q / 256, tables := ts, retire := r, waitrel := w }] ∧
      s.only [.gal, .lka, .epo] (s.addFlip q ts r w) := by
  have hepo : (s.commitAlone q .running 0x1FF 5).epo = s.epo :=
    (State.commitAlone_only (ps := [.gal, .lka]) _ _ _ _ _ (only_refl _ s)) .epo (by decide)
  have hgal : (s.addFlip q ts r w).gal = (s.commitAlone q .running 0x1FF 5).gal := by rw [State.addFlip]
  refine ⟨passed_of_queues (commitAlone_passed .running 0x1FF 5) (by rw [hgal]),
    inState_of_cmds (commitAlone_inState h .running 0x1FF 5) (by rw [hgal]), ?_, ?_, State.addFlip_only _ _ _ _ _ (only_refl _ s)⟩
  · rw [← hepo, State.addFlip]
  · rw [State.addFlip, hepo]

/-! ### Which branch a commitment takes -/

section
variable {b : Bytes}

theorem commitStage_far (h : 511 < numAt b 12 2) : s.commitStage q b = s.commitEnd q 3 := by
  simp [State.commitStage, h]

section
variable (hk : numAt b 12 2 ≤ 511)
include hk

theorem commitStage_pending (h : s.flipPending (512 * (q / 256) + numAt b 12 2) = true) : s.commitStage q b = s := by
  simp [State.commitStage, Nat.not_lt.mpr hk, h]

theorem commitStage_busy (hf : s.flipPending (512 * (q / 256) + numAt b 12 2) = false)
    (h : ((s.table (512 * (q / 256) + numAt b 12 2)).slot (s.table (512 * (q / 256) + numAt b 12 2)).idleB).st = .draining ∨
      ((s.table (512 * (q / 256) + numAt b 12 2)).slot (s.table (512 * (q / 256) + numAt b 12 2)).idleB).st = .purging) :
    s.commitStage q b = s.commitEnd q 0x13 := by
  simp [State.commitStage, Nat.not_lt.mpr hk, hf, h]

theorem commitStage_idle (hf : s.flipPending (512 * (q / 256) + numAt b 12 2) = false)
    (h : ((s.table (512 * (q / 256) + numAt b 12 2)).slot (s.table (512 * (q / 256) + numAt b 12 2)).idleB).st = .free ∨
      ((s.table (512 * (q / 256) + numAt b 12 2)).slot (s.table (512 * (q / 256) + numAt b 12 2)).idleB).st = .staged) :
    s.commitStage q b = (s.commitEnd q 0).stageSlot (512 * (q / 256) + numAt b 12 2)
      (s.table (512 * (q / 256) + numAt b 12 2)).idleB (bit (numAt b 16 8) 63) (bits (numAt b 16 8) 51 6 * 64) := by
  rcases h with h | h <;> simp [State.commitStage, Nat.not_lt.mpr hk, hf, h]

theorem commitRetire_pending (h : s.flipPending (512 * (q / 256) + numAt b 12 2) = true) : s.commitRetire q b = s := by
  simp [State.commitRetire, Nat.not_lt.mpr hk, h]

theorem commitRetire_invalid (hf : s.flipPending (512 * (q / 256) + numAt b 12 2) = false)
    (h : (s.table (512 * (q / 256) + numAt b 12 2)).valid = false) : s.commitRetire q b = s.commitEnd q 0x12 := by
  simp [State.commitRetire, Nat.not_lt.mpr hk, hf, h]

theorem commitRetire_valid (hf : s.flipPending (512 * (q / 256) + numAt b 12 2) = false)
    (h : (s.table (512 * (q / 256) + numAt b 12 2)).valid = true) :
    s.commitRetire q b = s.addFlip q [512 * (q / 256) + numAt b 12 2] true (bit (numAt b 14 1) 0) := by
  simp [State.commitRetire, Nat.not_lt.mpr hk, hf, h]

end

theorem commitRetire_far (h : 511 < numAt b 12 2) : s.commitRetire q b = s.commitEnd q 3 := by
  simp [State.commitRetire, h]

theorem commitSwap_held (h : ((swapTables b).any fun t => decide (t ≤ 511) && s.flipPending (512 * (q / 256) + t)) = true) :
    s.commitSwap q b = s := if_pos h

section
variable (hheld : ((swapTables b).any fun t => decide (t ≤ 511) && s.flipPending (512 * (q / 256) + t)) = false)
include hheld

theorem commitSwap_fails {e : Nat} (h : s.swapCheck (q / 256) b = some e) : s.commitSwap q b = s.commitEnd q e := by
  simp only [State.commitSwap, hheld, h, Bool.false_eq_true, if_false]

theorem commitSwap_none (h : s.swapCheck (q / 256) b = none) (he : swapTables b = []) : s.commitSwap q b = s.commitEnd q 0 := by
  rw [State.commitSwap, if_neg (by simp [hheld]), h]
  simp [he]

theorem commitSwap_some (h : s.swapCheck (q / 256) b = none) (he : swapTables b ≠ []) :
    s.commitSwap q b = s.addFlip q ((swapTables b).map (512 * (q / 256) + ·)) false (bit (numAt b 14 1) 0) := by
  rw [State.commitSwap, if_neg (by simp [hheld]), h]
  simp [he]

end

end

/-- Settles O18: each commitment by the equation of its branch; what ends at once by `commitEnd_spec`, what leaves a flip pending by
`addFlip_spec`, and a STAGE of an idle slot by `stageSlot_idle` after the command's end. -/
theorem epochCommands : Obligations.EpochCommands := by
  unfold Obligations.EpochCommands
  refine ⟨?_, ?_, ?_, ?_, ?_, ?_⟩
  · intro s q hc b k n x y hk hf hy
    obtain ⟨hpassed, hended, honly⟩ := commitEnd_spec (cmd?_of_commits hc) 0
    have htable : ∀ j, (s.commitEnd q.val 0).table j = s.table j := table_of_epo (honly .epo (by decide))
    have hgal : ((s.commitEnd q.val 0).stageSlot n x.idleB (bit (numAt b 16 8) 63) (bits (numAt b 16 8) 51 6 * 64)).gal =
        (s.commitEnd q.val 0).gal := (State.stageSlot_only (ps := [.epo, .cmp]) _ _ _ _ _ (only_refl _ _)) .gal (by decide)
    obtain ⟨hset, hother⟩ := stageSlot_idle (s := s.commitEnd q.val 0) (n := n) (v := bit (numAt b 16 8) 63)
      (a := bits (numAt b 16 8) 51 6 * 64) (by rwa [htable])
    rw [htable] at hset hother
    exact ⟨_, (exec_stage hc).trans (congrArg _ (commitStage_idle hk hf hy)), passed_of_queues hpassed (by rw [hgal]),
      endedAs_of_cmds hended (by rw [hgal]), hset, fun j hj => (hother j hj).trans (htable j),
      State.stageSlot_only _ _ _ _ _ (honly.of_mem (by decide))⟩
  · intro s q hc k n y
    have hend := commitEnd_spec (cmd?_of_commits hc)
    rw [exec_stage hc]
    exact ⟨fun hk hf => congrArg _ (commitStage_pending hk hf), fun hk hf hy => ⟨_, congrArg _ (commitStage_busy hk hf hy), hend 0x13⟩,
      fun hk => ⟨_, congrArg _ (commitStage_far hk), hend 3⟩⟩
  · intro s q hc b p hf hcheck hne
    have hheld : ((swapTables b).any fun t => decide (t ≤ 511) && s.flipPending (512 * p + t)) = false := by
      simp only [List.all_eq_true, Bool.not_eq_true'] at hf
      simp only [List.any_eq_false, Bool.and_eq_true, not_and, Bool.not_eq_true]
      exact fun t ht _ => hf t ht
    exact ⟨_, (exec_swap hc).trans (congrArg _ (commitSwap_some hheld hcheck hne)), addFlip_spec (cmd?_of_commits hc) _ _ _⟩
  · intro s q hc b p held
    have hend := commitEnd_spec (cmd?_of_commits hc)
    rw [exec_swap hc]
    exact ⟨fun h => congrArg _ (commitSwap_held h), fun h e he => ⟨_, congrArg _ (commitSwap_fails h he), hend e⟩,
      fun he hcheck => ⟨_, congrArg _ (commitSwap_none (by rw [he]; rfl) hcheck he), hend 0⟩⟩
  · intro s q hc b p n hk hf hv
    exact ⟨_, (exec_retire hc).trans (congrArg _ (commitRetire_valid hk hf hv)), addFlip_spec (cmd?_of_commits hc) _ _ _⟩
  · intro s q hc k n
    have hend := commitEnd_spec (cmd?_of_commits hc)
    rw [exec_retire hc]
    exact ⟨fun hk hf => congrArg _ (commitRetire_pending hk hf), fun hk => ⟨_, congrArg _ (commitRetire_far hk), hend 3⟩,
      fun hk hf hv => ⟨_, congrArg _ (commitRetire_invalid hk hf hv), hend 0x12⟩⟩

end Sys2Proof.Machine
end

section
/-! PROOF. MOVE, PUT, GATHER, SCATTER and SWATCH at their commitment (O19). -/

namespace Sys2Proof.Machine

open Sys2Proof

set_option Elab.async false

variable {s : State} {q : Nat} {b : Bytes}

/-! ### A compositor is taken (R160, R229) -/

/-- A compositor's command in flight, with the compositor given to it and the slot pinned; the lookahead has not followed yet. -/
def State.compGiven (s : State) (q n : Nat) (b : Bytes) : State :=
  let t := 512 * (q / 256) + gTable b
  let x := s.table t
  ((s.commitSlug q .running (0x150 + n) false).setTable t
    (x.setSlot x.curB { x.slot x.curB with pins := (x.slot x.curB).pins + 1 })).setComp n { s.newComp q b with pos := (s.queue q).head }

/-- The same when the lookahead has followed (R256, R265, R266). -/
def State.compFollowed (s : State) (q n : Nat) (b : Bytes) : State :=
  (s.compGiven q n b).lkaCommitted q n (s.queue q).head b ((s.compGiven q n b).queue q).head

/-- The compositor that a command has taken, before its epoch record is asked for. -/
def State.compTaken (s : State) (q n : Nat) (b : Bytes) : State :=
  ((s.compFollowed q n b).tookUnit true (q / 256)).addTrace (q / 256)
    (traceBytes s.now 1 (slugOpcode b) 0 (q / 256) (0x150 + n) q (slugTag b) 0) false

theorem startComp_eq (n : Nat) : s.startComp q n b =
    if (s.compTaken q n b).dom (8 + n) = .run then (s.compTaken q n b).askRecord n else (s.compTaken q n b).wake (8 + n) := rfl

theorem compTaken_only (n : Nat) : s.only [.gal, .epo, .cmp, .lka, .obs, .reqs, .orphans, .trn] (s.compTaken q n b) :=
  State.addTrace_only _ _ _ _ (State.tookUnit_only _ _ _ (State.lkaCommitted_only _ _ _ _ _ _ (State.setComp_only _ _ _
    (State.setTable_only _ _ _ (State.commitSlug_only _ _ _ _ _ (only_refl _ s))))))

/-- The lookahead and the trace change neither queue, command, table nor compositor. -/
theorem compTaken_keeps (n : Nat) :
    (s.compTaken q n b).gal.queues = (s.commitSlug q .running (0x150 + n) false).gal.queues ∧
      (s.compTaken q n b).gal.cmds = (s.commitSlug q .running (0x150 + n) false).gal.cmds ∧
      (s.compTaken q n b).epo = (s.compGiven q n b).epo ∧ (s.compTaken q n b).cmp = (s.compGiven q n b).cmp := by
  have hlook : (s.compGiven q n b).only [.lka, .reqs, .orphans, .trn] (s.compFollowed q n b) :=
    State.lkaCommitted_only _ _ _ _ _ _ (only_refl _ _)
  have htrace : ((s.compFollowed q n b).tookUnit true (q / 256)).only [.obs] (s.compTaken q n b) :=
    State.addTrace_only _ _ _ _ (only_refl _ _)
  have hgal : (s.compFollowed q n b).gal = (s.commitSlug q .running (0x150 + n) false).gal := hlook .gal (by decide)
  have htook : (s.compTaken q n b).gal = ((s.compFollowed q n b).tookUnit true (q / 256)).gal := htrace .gal (by decide)
  refine ⟨?_, ?_, (htrace .epo (by decide)).trans (hlook .epo (by decide)), (htrace .cmp (by decide)).trans (hlook .cmp (by decide))⟩
  · rw [htook, ← hgal]; rfl
  · rw [htook, ← hgal]; rfl

theorem compTaken_comp (n j : Nat) : (s.compTaken q n b).comp j =
    if j = n then { s.newComp q b with pos := (s.queue q).head } else s.comp j := by
  rw [comp_of_cmp (compTaken_keeps n).2.2.2]
  exact Tbl.get_set _ _ _ _ _

theorem compTaken_table (n j : Nat) : (s.compTaken q n b).table j =
    if j = 512 * (q / 256) + gTable b then
      let x := s.table (512 * (q / 256) + gTable b)
      x.setSlot x.curB { x.slot x.curB with pins := (x.slot x.curB).pins + 1 }
    else s.table j := by
  rw [table_of_epo (compTaken_keeps n).2.2.1]
  exact Tbl.get_set _ _ _ _ _

/-! ### Which branch a commitment takes -/

theorem commitGather_held (h : gTable b ≤ 511 ∧ s.flipPending (512 * (q / 256) + gTable b) = true) : s.commitGather q b = s := if_pos h

section
variable (hheld : ¬(gTable b ≤ 511 ∧ s.flipPending (512 * (q / 256) + gTable b) = true))
include hheld

theorem commitGather_fails {e : Nat} (h : gatherCheck b (s.table (512 * (q / 256) + gTable b)).valid = some e) :
    s.commitGather q b = s.commitEnd q e := by
  rw [State.commitGather, if_neg hheld, h]

theorem commitGather_empty (h : gatherCheck b (s.table (512 * (q / 256) + gTable b)).valid = none) (hn : gNbag b = 0) :
    s.commitGather q b = s.commitEnd q 0 := by
  rw [State.commitGather, if_neg hheld, h]
  exact if_pos hn

theorem commitGather_takes {n : Nat} (h : gatherCheck b (s.table (512 * (q / 256) + gTable b)).valid = none) (hn : gNbag b ≠ 0)
    (hc : s.chooseComp q = some n) : s.commitGather q b = s.startComp q n b := by
  rw [State.commitGather, if_neg hheld, h]
  simp [hn, hc]

end

theorem commitMove_fails {e : Nat} (h : engineCheck b = some e) : s.commitMove q b = s.commitEnd q e := by
  rw [State.commitMove, h]

theorem commitMove_empty (h : engineCheck b = none) (hd : (dstShape b).bytes = 0) : s.commitMove q b = s.commitEnd q 0 := by
  rw [State.commitMove, h]
  exact if_pos hd

theorem commitMove_waits (h : engineCheck b = none) (hd : (dstShape b).bytes ≠ 0) :
    s.commitMove q b = (s.commitAlone q .needEngine 0x1FF 5).tookUnit false (q / 256) := by
  rw [State.commitMove, h]
  exact if_neg hd

/-- The engine that a MOVE or PUT waits for: the command is in flight, and the round robin has moved on. -/
theorem needEngine_spec (h : s.cmd? q (s.queue q).head = none) :
    s.passed ((s.commitAlone q .needEngine 0x1FF 5).tookUnit false (q / 256)) q ∧
      s.inState ((s.commitAlone q .needEngine 0x1FF 5).tookUnit false (q / 256)) q .needEngine ∧
      s.only [.gal, .lka, .obs, .rcd] ((s.commitAlone q .needEngine 0x1FF 5).tookUnit false (q / 256)) :=
  ⟨passed_of_queues (commitAlone_passed .needEngine 0x1FF 5) (by simp [State.tookUnit]),
    inState_of_cmds (commitAlone_inState h .needEngine 0x1FF 5) (by simp [State.tookUnit]),
    State.tookUnit_only _ _ _ (State.commitAlone_only _ _ _ _ _ (only_refl _ s))⟩

theorem commitSwatch_far (h : 511 < numAt b 12 2) : s.commitSwatch q b = s.commitEnd q 3 := if_pos h

section
variable (hk : numAt b 12 2 ≤ 511)
include hk

theorem commitSwatch_pending (h : s.flipPending (512 * (q / 256) + numAt b 12 2) = true) : s.commitSwatch q b = s := by
  simp [State.commitSwatch, Nat.not_lt.mpr hk, h]

variable (hf : s.flipPending (512 * (q / 256) + numAt b 12 2) = false)
include hf

theorem commitSwatch_unstaged (h : ((s.table (512 * (q / 256) + numAt b 12 2)).slot (swSlotB b)).st ≠ .staged) :
    s.commitSwatch q b = s.commitEnd q 0x2C := by
  simp [State.commitSwatch, Nat.not_lt.mpr hk, hf, h]

theorem commitSwatch_staged (h : ((s.table (512 * (q / 256) + numAt b 12 2)).slot (swSlotB b)).st = .staged) :
    s.commitSwatch q b = (s.commitAlone q .running 0x1FF 5).issuePhys (.swRecord q (s.queue q).head) 0x108 (q / 256)
      ((s.table (512 * (q / 256) + numAt b 12 2)).slot (swSlotB b)).addr 128 .read := by
  simp [State.commitSwatch, Nat.not_lt.mpr hk, hf, h]

end

/-- Settles O19: each commitment by the equation of its branch; what ends at once by `commitEnd_spec`, the wait for an engine by
`needEngine_spec`, and the compositor that a GATHER or SCATTER takes by `compTaken_comp` and `compTaken_table`. -/
theorem engineCommandsCommit : Obligations.EngineCommandsCommit := by
  unfold Obligations.EngineCommandsCommit
  refine ⟨?_, ⟨?_, ?_⟩, ?_, ?_⟩
  · intro s q op i hi hc b
    have hfree := cmd?_of_commits hc
    rw [exec_move hi hc]
    cases hcheck : engineCheck b with
    | some e =>
      obtain ⟨hpassed, hended, honly⟩ := commitEnd_spec hfree e
      exact ⟨_, congrArg _ (commitMove_fails hcheck), hpassed, fun e' he => by cases he; exact hended, nofun, nofun, honly⟩
    | none =>
      by_cases hd : (dstShape b).bytes = 0
      · obtain ⟨hpassed, hended, honly⟩ := commitEnd_spec hfree 0
        exact ⟨_, congrArg _ (commitMove_empty hcheck hd), hpassed, nofun, fun _ _ => hended, fun _ h => absurd hd h, honly⟩
      · obtain ⟨hpassed, hstate, honly⟩ := needEngine_spec hfree
        exact ⟨_, congrArg _ (commitMove_waits hcheck hd), hpassed, nofun, fun _ h => absurd h hd, fun _ _ => hstate, honly⟩
  · intro s q op i k hi hc b n x hheld hcheck hn hk
    obtain ⟨hqueues, hcmds, -, -⟩ := compTaken_keeps (s := s) (q := q.val) (b := b) k
    have hcomp : (s.compTaken q.val k b).comp k = _ := (compTaken_comp k k).trans (if_pos rfl)
    refine ⟨_, s.compTaken q.val k b, passed_of_queues (commitSlug_passed .running (0x150 + k) false) hqueues,
      inState_of_cmds (commitSlug_inState (cmd?_of_commits hc) .running (0x150 + k) false) hcmds,
      congrArg Comp.st hcomp, congrArg Comp.queue hcomp, congrArg Comp.pos hcomp, congrArg Comp.table hcomp, congrArg Comp.slotB hcomp,
      congrArg Comp.gen hcomp, congrArg Comp.nidx hcomp, congrArg Comp.nbag hcomp, fun j hj => (compTaken_comp k j).trans (if_neg hj),
      (compTaken_table k n).trans (if_pos rfl),
      fun j hj => (compTaken_table k j).trans (if_neg hj), compTaken_only k, rfl, ?_⟩
    rw [exec_gather hi hc, ← startComp_eq]
    exact congrArg _ (commitGather_takes hheld hcheck hn hk)
  · intro s q op i hi hc b n x held
    have hend := commitEnd_spec (cmd?_of_commits hc)
    rw [exec_gather hi hc]
    exact ⟨fun h => congrArg _ (commitGather_held h), fun h e he => ⟨_, congrArg _ (commitGather_fails h he), hend e⟩,
      fun h hcheck hn => ⟨_, congrArg _ (commitGather_empty h hcheck hn), hend 0⟩⟩
  · intro s q hc b n y hk hf hy
    exact ⟨_, s.commitAlone q.val .running 0x1FF 5, commitAlone_passed _ _ _, commitAlone_inState (cmd?_of_commits hc) _ _ _,
      State.commitAlone_only _ _ _ _ _ (only_refl _ s), rfl, (exec_swatch hc).trans (congrArg _ (commitSwatch_staged hk hf hy))⟩
  · intro s q hc b k n y
    have hend := commitEnd_spec (cmd?_of_commits hc)
    rw [exec_swatch hc]
    exact ⟨fun hk hf => congrArg _ (commitSwatch_pending hk hf), fun hk => ⟨_, congrArg _ (commitSwatch_far hk), hend 3⟩,
      fun hk hf hy => ⟨_, congrArg _ (commitSwatch_unstaged hk hf hy), hend 0x2C⟩⟩

end Sys2Proof.Machine
end

section
/-! SUPPORT. What the end of faults and of requests leaves of the fault entries: none is added, the rings' configuration stays, and so does
what decides the route of a fault (R146, R147). -/

namespace Sys2Proof.Machine

open Sys2Proof

set_option Elab.async false

variable {s t u : State} {p n : Nat}

/-! ### Fault entries by their number -/

theorem fltp_setFltp (v : FltP) (k : Nat) : (s.setFltp p v).fltp k = if k = p then v else s.fltp k := Tbl.get_set _ _ _ _ _

@[simp] theorem fltp_setFltp_same (v : FltP) : (s.setFltp p v).fltp p = v := by rw [fltp_setFltp, if_pos rfl]

/-- A map that keeps each entry's number maps what is found. -/
theorem find?_map_entries {g : FEntry → FEntry} (hg : ∀ x, (g x).n = x.n) (l : List FEntry) :
    (l.map g).find? (fun x => x.n == n) = (l.find? fun x => x.n == n).map g := by
  induction l with
  | nil => rfl
  | cons x r ih =>
    rw [List.map_cons, List.find?_cons, List.find?_cons, hg, ih]
    cases hx : x.n == n <;> rfl

theorem fent?_n {e : FEntry} (h : s.fent? p n = some e) : e.n = n := by simpa using List.find?_some h

/-- What the entries are after each has been rewritten in its place. -/
theorem fent?_mapEntries {g : FEntry → FEntry} (hg : ∀ x, (g x).n = x.n) {f : FltP} (hf : f.entries = (s.fltp p).entries.map g) (k m : Nat) :
    (s.setFltp p f).fent? k m = if k = p then (s.fent? p m).map g else s.fent? k m := by
  rw [State.fent?, fltp_setFltp]
  split
  · rw [hf, find?_map_entries hg]; rfl
  · rfl

theorem setFent_fent? (e : FEntry) (k m : Nat) :
    (s.setFent p e).fent? k m = if k = p ∧ m = e.n then (s.fent? p m).map fun _ => e else s.fent? k m := by
  have hn : ∀ x : FEntry, (if x.n == e.n then e else x).n = x.n := fun x => by
    split
    · next h => exact (beq_iff_eq.mp h).symm
    · rfl
  rw [State.setFent, State.modFltp, fent?_mapEntries hn rfl]
  by_cases hk : k = p
  · subst hk
    cases hm : s.fent? k m with
    | none => simp
    | some x => by_cases h : m = e.n <;> simp [fent?_n hm, h]
  · simp [hk]

/-- The entry that stands at a number is rewritten, and no other. -/
theorem setFent_same {e x : FEntry} (h : s.fent? p n = some x) (he : e.n = n) : (s.setFent p e).fent? p n = some e := by
  rw [setFent_fent?, if_pos ⟨rfl, he.symm⟩, h]
  rfl

theorem setFent_other {e : FEntry} {m : Nat} (h : m ≠ e.n) : (s.setFent p e).fent? p m = s.fent? p m := by
  rw [setFent_fent?, if_neg (fun hm => h hm.2)]

/-! ### What stays -/

/-- From `s` to `t` fault entries may have ended or changed in their place and none was added, while the rings' configuration, the contexts
and the functions are what they were. -/
structure State.Fewer (s t : State) : Prop where
  ctxcfg : t.trn.ctxcfg = s.trn.ctxcfg
  host : t.host = s.host
  en : ∀ p, (t.fltp p).en = (s.fltp p).en
  deadline : ∀ p, (t.fltp p).deadline = (s.fltp p).deadline
  prioff : ∀ p, (t.fltp p).prioff = (s.fltp p).prioff
  gone : ∀ p n, s.fent? p n = none → t.fent? p n = none

namespace State.Fewer

theorem refl (s : State) : s.Fewer s := ⟨rfl, rfl, fun _ => rfl, fun _ => rfl, fun _ => rfl, fun _ _ h => h⟩

theorem trans (h : s.Fewer t) (k : t.Fewer u) : s.Fewer u :=
  ⟨k.ctxcfg.trans h.ctxcfg, k.host.trans h.host, fun p => (k.en p).trans (h.en p), fun p => (k.deadline p).trans (h.deadline p),
    fun p => (k.prioff p).trans (h.prioff p), fun p n hn => k.gone p n (h.gone p n hn)⟩

theorem of_eq (hc : t.trn.ctxcfg = s.trn.ctxcfg) (hh : t.host = s.host) (hf : t.flt = s.flt) : s.Fewer t := by
  have hp : ∀ p, t.fltp p = s.fltp p := fun p => by simp only [State.fltp, hf]
  refine ⟨hc, hh, fun p => ?_, fun p => ?_, fun p => ?_, fun p n h => ?_⟩
  · rw [hp]
  · rw [hp]
  · rw [hp]
  · rwa [State.fent?, hp]

/-- An operation that touches neither fault entries, translation nor the host interface. -/
theorem of_only {ps : List Piece} {s t : State} (h : s.only ps t)
    (hps : Piece.trn ∉ ps ∧ Piece.host ∉ ps ∧ Piece.flt ∉ ps := by decide) : s.Fewer t :=
  of_eq (congrArg _ (h .trn hps.1)) (h .host hps.2.1) (h .flt hps.2.2)

theorem foldl {α : Type} {g : State → α → State} (hg : ∀ (s : State) a, s.Fewer (g s a)) (l : List α) (s : State) : s.Fewer (l.foldl g s) := by
  induction l generalizing s with
  | nil => exact refl s
  | cons a r ih => exact (hg s a).trans (ih _)

theorem ite {c : Prop} [Decidable c] (ht : s.Fewer t) (hu : s.Fewer u) : s.Fewer (if c then t else u) := by split <;> assumption

/-- Entries of one partition rewritten in their place. -/
theorem mapEntries {g : FEntry → FEntry} (hg : ∀ x, (g x).n = x.n) {f : FltP} (hf : f.entries = (s.fltp p).entries.map g)
    (he : f.en = (s.fltp p).en) (hd : f.deadline = (s.fltp p).deadline) (ho : f.prioff = (s.fltp p).prioff) : s.Fewer (s.setFltp p f) := by
  refine ⟨rfl, rfl, fun k => ?_, fun k => ?_, fun k => ?_, fun k m h => ?_⟩
  · rw [fltp_setFltp]; split <;> simp [*]
  · rw [fltp_setFltp]; split <;> simp [*]
  · rw [fltp_setFltp]; split <;> simp [*]
  · rw [fent?_mapEntries hg hf]
    split
    · next hk => rw [← hk, h]; rfl
    · exact h

/-- What decides a fault's route stays (R146). -/
theorem priRoute (h : s.Fewer t) (p c va cause : Nat) : t.priRoute p c va cause = s.priRoute p c va cause := by
  simp only [State.priRoute, State.atsHalf, State.ctxAts, State.fn, h.ctxcfg, h.host, h.prioff]

end State.Fewer

/-! ### Entries that end -/

/-- The entry numbered `n` is free, and no record of it is being written. -/
def FltP.without (f : FltP) (n : Nat) : FltP :=
  { f with entries := f.entries.filter fun x => x.n != n, writing := if f.writing = some n then none else f.writing }

theorem endEntry_fltp (e : FEntry) (k : Nat) : (s.endEntry p e).fltp k = if k = p then (s.fltp p).without e.n else s.fltp k := by
  rw [← fltp_setFltp]
  exact congrArg (Tbl.get · {} k) ((State.metric_only (ps := [.rcd]) _ _ _ _ _ _ _ (only_refl _ _)) Piece.flt (by decide))

theorem find?_without (f : FltP) (m : Nat) :
    (f.without n).entries.find? (fun x => x.n == m) = if m = n then none else f.entries.find? fun x => x.n == m := by
  rw [FltP.without, List.find?_filter]
  split
  · next h => simp [h]
  · next h =>
    congr 1
    funext x
    by_cases hx : x.n = m <;> simp [hx, h]

theorem endEntry_fent? (e : FEntry) (k m : Nat) :
    (s.endEntry p e).fent? k m = if k = p ∧ m = e.n then none else s.fent? k m := by
  rw [State.fent?, endEntry_fltp]
  by_cases hk : k = p
  · subst hk
    simp [find?_without, State.fent?]
  · simp [hk, State.fent?]

theorem endEntry_fewer (e : FEntry) : s.Fewer (s.endEntry p e) := by
  have honly : s.only [.flt, .rcd] (s.endEntry p e) := State.endEntry_only _ _ _ (only_refl _ s)
  refine ⟨congrArg _ (honly .trn (by decide)), honly .host (by decide), fun k => ?_, fun k => ?_, fun k => ?_, fun k m h => ?_⟩
  · rw [endEntry_fltp]; split <;> simp [*, FltP.without]
  · rw [endEntry_fltp]; split <;> simp [*, FltP.without]
  · rw [endEntry_fltp]; split <;> simp [*, FltP.without]
  · rw [endEntry_fent?, h, ite_self]

theorem settleEntry_fewer (e : FEntry) : s.Fewer (s.settleEntry p e) := by
  unfold State.settleEntry
  split
  · exact endEntry_fewer e
  · refine State.Fewer.ite (State.Fewer.mapEntries (fun x => ?_) rfl rfl rfl rfl) (State.Fewer.refl s)
    split <;> rfl

theorem settle_fewer : s.Fewer s.settle :=
  State.Fewer.foldl (fun _ _ => State.Fewer.foldl (fun _ e => settleEntry_fewer e) _ _) _ _

/-! ### Requests that leave -/

theorem dropReq_fewer (id : Nat) : s.Fewer (s.dropReq id) := State.Fewer.of_eq rfl rfl rfl

theorem dropReqs_fewer (f : Req → Bool) : s.Fewer (s.dropReqs f) := State.Fewer.foldl (fun _ (r : Req) => dropReq_fewer r.id) _ _

theorem withdrawReqs_fewer (f : Req → Bool) : s.Fewer (s.withdrawReqs f) := by
  rw [State.withdrawReqs]
  exact (dropReqs_fewer f).trans settle_fewer

theorem dropFetch_fewer (q : Nat) : s.Fewer (s.dropFetch q) := by
  rw [State.dropFetch]
  exact (withdrawReqs_fewer _).trans (State.Fewer.of_only (ps := [.gal]) (State.modQueue_only _ _ _ (only_refl _ _)))

theorem haltQueue_fewer (q : Nat) (c : Byte) : s.Fewer (s.haltQueue q c) := by
  refine (dropFetch_fewer q).trans ?_
  rw [State.haltQueue]
  generalize s.dropFetch q = t
  refine State.Fewer.ite ?_ (State.Fewer.refl t)
  refine State.Fewer.of_only (ps := [.gal, .lka, .ic]) (State.raise_only _ _ (State.discardQueue_only _ _ _ ?_))
  exact (only_gal _ _ (t.setQueue q _) _ (by decide)).mpr (State.setQueue_only _ _ _ (only_refl _ t))

theorem endCmd_fewer (q : Nat) (pos : BitVec 16) (st fl res : Nat) (d : Bytes) (c : Nat) : s.Fewer (s.endCmd q pos st fl res d c) :=
  State.Fewer.of_only (ps := [.gal, .obs, .rcd]) (State.endCmd_only _ _ _ _ _ _ _ _ (only_refl _ s))

theorem recordFails_fewer (q : Nat) (pos : BitVec 16) : s.Fewer (s.recordFails q pos) := by
  rw [State.recordFails]
  exact (haltQueue_fewer q 7).trans (State.Fewer.of_only (ps := [.gal, .reqs, .nextId])
    (State.pumpRecords_only _ _ (State.dropCmd_only _ _ _ (only_refl _ _))))

theorem pleatSettle_fewer (e : Nat) : s.Fewer (s.pleatSettle e) :=
  State.Fewer.of_only (ps := [.gal, .plt, .ic, .obs, .rcd]) (State.pleatSettle_only _ _ (only_refl _ s))

theorem pleatUnserviceable_fewer (e : Nat) (r : Req) (c a w : Nat) : s.Fewer (s.pleatUnserviceable e r c a w) := by
  rw [State.pleatUnserviceable]
  exact State.Fewer.ite ((State.Fewer.of_only (ps := [.plt]) (State.setEng_only _ _ _ (only_refl _ s))).trans
    ((withdrawReqs_fewer _).trans (pleatSettle_fewer e))) (pleatSettle_fewer e)

theorem setComp_fewer (k : Nat) (v : Comp) : s.Fewer (s.setComp k v) :=
  State.Fewer.of_only (ps := [.cmp]) (State.setComp_only _ _ _ (only_refl _ s))

theorem compSettle_fewer (k : Nat) : s.Fewer (s.compSettle k) :=
  State.Fewer.of_only (ps := [.gal, .epo, .cmp, .lka, .obs, .rcd]) (State.compSettle_only _ _ (only_refl _ s))

theorem compUnserviceable_fewer (k : Nat) (r : Req) (c a w : Nat) : s.Fewer (s.compUnserviceable k r c a w) := by
  rw [State.compUnserviceable]
  exact (setComp_fewer k _).trans ((withdrawReqs_fewer _).trans ((setComp_fewer k _).trans (compSettle_fewer k)))

theorem tileFails_fewer (r : Req) (k i : Nat) (e : ECode) : s.Fewer (s.tileFails r k i e) := by
  rw [State.tileFails]
  exact (State.Fewer.ite (State.Fewer.refl s) (withdrawReqs_fewer _)).trans
    (State.Fewer.of_only (ps := [.out]) (State.emit_only _ _ (only_refl _ _)))

theorem unserviceable_fewer (r : Req) (c w : Nat) : s.Fewer (s.unserviceable r c w) := by
  unfold State.unserviceable
  dsimp only
  split
  · exact haltQueue_fewer _ _
  · exact haltQueue_fewer _ _
  · exact recordFails_fewer _ _
  · exact pleatUnserviceable_fewer _ _ _ _ _
  · exact pleatUnserviceable_fewer _ _ _ _ _
  · exact endCmd_fewer _ _ _ _ _ _ _
  · exact endCmd_fewer _ _ _ _ _ _ _
  · exact endCmd_fewer _ _ _ _ _ _ _
  · exact tileFails_fewer _ _ _ _
  · split
    · exact compUnserviceable_fewer _ _ _ _ _
    · exact State.Fewer.refl s

theorem giveUp_fewer (rs : List Req) (c w : Nat) : s.Fewer (s.giveUp rs c w) :=
  (State.Fewer.foldl (fun _ (r : Req) => dropReq_fewer r.id) rs s).trans (State.Fewer.foldl (fun _ r => unserviceable_fewer r c w) _ _)

theorem endUnserviceable_fewer (e : FEntry) (w : Nat) : s.Fewer (s.endUnserviceable p e w) :=
  (endEntry_fewer e).trans (giveUp_fewer _ _ _)

/-- The entry that ends unserviceable is gone. -/
theorem endUnserviceable_gone (e : FEntry) (w : Nat) : (s.endUnserviceable p e w).fent? p e.n = none :=
  (giveUp_fewer _ _ _).gone p e.n (by rw [endEntry_fent?, if_pos ⟨rfl, rfl⟩])

theorem routeEntry_fewer (e : FEntry) : s.Fewer (s.routeEntry p e) := by
  rw [State.routeEntry]
  refine State.Fewer.ite (endUnserviceable_fewer e 5) (State.Fewer.mapEntries (fun x => ?_) rfl rfl rfl rfl)
  split <;> rfl

/-- An entry without a route ends (R146, R147). -/
theorem routeEntry_gone {e : FEntry} (hp : s.priRoute p e.ctx e.va e.cause = false) (hen : (s.fltp p).en = false) :
    (s.routeEntry p e).fent? p e.n = none := by
  rw [State.routeEntry, if_pos (by simp [hp, hen])]
  exact endUnserviceable_gone e 5

/-- What one step of a run over entries ends is still gone at its end. -/
theorem foldl_gone {g : State → FEntry → State} (hg : ∀ (s : State) e, s.Fewer (g s e)) {l : List FEntry} {e : FEntry} (he : e ∈ l)
    (hgone : ∀ t, s.Fewer t → (g t e).fent? p e.n = none) : (l.foldl g s).fent? p e.n = none := by
  induction l generalizing s with
  | nil => simp at he
  | cons x r ih =>
    rw [List.foldl_cons]
    rcases List.mem_cons.mp he with rfl | he
    · exact (State.Fewer.foldl hg r _).gone p e.n (hgone s (State.Fewer.refl s))
    · exact ih he fun t ht => hgone t ((hg s x).trans ht)

end Sys2Proof.Machine
end

section
/-! PROOF. Fault entries, their deadlines and the ring's configuration (O25). -/

namespace Sys2Proof.Machine

open Sys2Proof

set_option Elab.async false

variable {s t : State} {p : Nat}

/-! ### The smallest key -/

theorem minBy_isSome {α : Type} {key : α → Nat} {l : List α} {a : α} (h : a ∈ l) : ∃ b, minBy key l = some b := by
  cases l with
  | nil => simp at h
  | cons x r =>
    rw [minBy]
    cases minBy key r with
    | none => exact ⟨_, rfl⟩
    | some b => by_cases hk : key x ≤ key b <;> simp [hk]

/-- What is found is of the list, and none has a smaller key. -/
theorem minBy_spec {α : Type} {key : α → Nat} {l : List α} {b : α} (h : minBy key l = some b) : b ∈ l ∧ ∀ a ∈ l, key b ≤ key a := by
  induction l generalizing b with
  | nil => simp [minBy] at h
  | cons x r ih =>
    rw [minBy] at h
    cases hr : minBy key r with
    | none =>
      have hnil : r = [] := by
        rcases r with _ | ⟨y, r⟩
        · rfl
        · obtain ⟨c, hc⟩ := minBy_isSome (key := key) (List.mem_cons_self (a := y) (l := r))
          rw [hc] at hr; cases hr
      rw [hr] at h
      cases h
      simp [hnil]
    | some c =>
      rw [hr] at h
      obtain ⟨hmem, hle⟩ := ih hr
      by_cases hk : key x ≤ key c
      · simp only [hk, if_true] at h
        cases h
        exact ⟨by simp, List.forall_mem_cons.mpr ⟨Nat.le_refl _, fun a ha => Nat.le_trans hk (hle a ha)⟩⟩
      · simp only [hk, if_false] at h
        cases h
        exact ⟨by simp [hmem], List.forall_mem_cons.mpr ⟨by omega, hle⟩⟩

/-! ### A fault that waits for an entry (R141, R142) -/

/-- The fault that is first in the order of raising. -/
theorem nextWaiting_first {r : Req} {o cause : Nat} (hr : r ∈ s.reqs) (hp : r.part = p) (hst : r.st = .entryWait o cause)
    (hfirst : ∀ x ∈ s.reqs, ∀ o' c, x.part = p → x.st = .entryWait o' c → x = r ∨ o < o') : s.nextWaiting p = some r := by
  have hmem : r ∈ s.reqs.filter fun r => r.part == p && r.st.waitOrder?.isSome := by simp [hr, hp, hst, ReqSt.waitOrder?]
  obtain ⟨x, hx⟩ := minBy_isSome (key := fun r : Req => r.st.waitOrder?.getD 0) hmem
  obtain ⟨hxm, hle⟩ := minBy_spec hx
  have hxr := hle r hmem
  simp only [List.mem_filter, Bool.and_eq_true, beq_iff_eq] at hxm
  obtain ⟨hxs, hxp, hw⟩ := hxm
  cases hxst : x.st with
  | entryWait o' c =>
    rcases hfirst x hxs o' c hxp hxst with heq | hlt
    · rw [State.nextWaiting, hx, heq]
    · simp only [hxst, hst, ReqSt.waitOrder?, Option.getD_some] at hxr
      omega
  | _ => simp [hxst, ReqSt.waitOrder?] at hw

section
variable {p : Fin 16} {r : Req} {o cause : Nat} (hu : s.serving 2 0 = true) (hn : s.nextWaiting p.val = some r)
  (hst : r.st = .entryWait o cause)
include hu hn hst

theorem exec_faultEntryAllocate_joins {e : FEntry} (hj : s.joinable p.val r.ctx r.va cause = some e) :
    exec (.faultEntryAllocate p) s = .next (s.setReq { r with st := .faulted p.val e.n }) := by
  refine (inUnit_of hu : execFaultEntryAllocate p s = _).trans ?_
  simp only [hn, hst, hj]

variable (hj : s.joinable p.val r.ctx r.va cause = none)
  (hroute : (s.fltp p.val).en = true ∨ s.priRoute p.val r.ctx r.va cause = true)
include hj hroute

theorem exec_faultEntryAllocate_waits (hf : s.freeEntry p.val = none) : exec (.faultEntryAllocate p) s = .next s := by
  refine (inUnit_of hu : execFaultEntryAllocate p s = _).trans ?_
  rcases hroute with h | h <;> simp [hn, hst, hj, hf, h]

theorem exec_faultEntryAllocate_takes {n : Nat} (hf : s.freeEntry p.val = some n) :
    exec (.faultEntryAllocate p) s = .next (s.takeEntry r n cause (s.priRoute p.val r.ctx r.va cause)) := by
  refine (inUnit_of hu : execFaultEntryAllocate p s = _).trans ?_
  rcases hroute with h | h <;> simp [hn, hst, hj, hf, h]

end

/-- The entry that a fault takes. -/
def State.newEntry (s : State) (r : Req) (n cause : Nat) (pri : Bool) : FEntry :=
  { n := n, gen := nextGen ((s.fltp r.part).gens.get 0 n), st := .raised, pri := pri, ctx := r.ctx, va := r.va, cause := cause, acc := r.acc,
    src := r.src, level := r.note.level, raw := r.note.raw, queue := r.note.queue, tstamp := r.note.time, born := s.obs.time,
    order := (s.fltp r.part).order }

theorem takeEntry_fltp (r : Req) (n cause : Nat) (pri : Bool) : (s.takeEntry r n cause pri).fltp r.part = { s.fltp r.part with
    entries := (s.fltp r.part).entries ++ [s.newEntry r n cause pri]
    gens := (s.fltp r.part).gens.set n (nextGen ((s.fltp r.part).gens.get 0 n))
    order := (s.fltp r.part).order + 1 } := by
  refine (congrArg (Tbl.get · {} r.part) ((State.pcntAdd_only (ps := [.obs]) _ _ _ _ (only_refl _ _)) Piece.flt (by decide))).trans ?_
  exact fltp_setFltp_same (s := s) _

theorem takeEntry_req? {r : Req} (h : r ∈ s.reqs) (n cause : Nat) (pri : Bool) :
    (s.takeEntry r n cause pri).req? r.id = some { r with st := .faulted r.part n, replay := none } := by
  have hreqs : (s.takeEntry r n cause pri).reqs = (s.setReq { r with st := .faulted r.part n, replay := none }).reqs :=
    (State.pcntAdd_only (ps := [.obs]) _ _ _ _ (only_refl _ _)) Piece.reqs (by decide)
  rw [State.req?, hreqs]
  exact setReq_req? (r := { r with st := .faulted r.part n, replay := none }) h rfl

/-! ### Deadlines (R152) -/

/-- What one tick makes of an entry. -/
def State.tickEntry (s : State) (p d : Nat) (e : FEntry) : State :=
  if e.st ≠ .replaying ∧ d ≤ e.age then s.endUnserviceable p e 2
  else s.modFltp p fun f => { f with entries := f.entries.map fun x => if x.n == e.n then { x with age := x.age + 1 } else x }

theorem exec_faultDeadline (p : Fin 16) : exec (.faultDeadline p) s =
    .next ((s.fltp p.val).entries.foldl (fun u e => u.tickEntry p.val (s.fltp p.val).deadline.toNat e) s) := rfl

theorem tickEntry_fewer (d : Nat) (e : FEntry) : s.Fewer (s.tickEntry p d e) := by
  refine State.Fewer.ite (endUnserviceable_fewer e 2) (State.Fewer.mapEntries (fun x => ?_) rfl rfl rfl rfl)
  split <;> rfl

/-- An entry that has stood its deadline ends. -/
theorem tickEntry_gone {d : Nat} {e : FEntry} (hst : e.st ≠ .replaying) (hd : d ≤ e.age) : (s.tickEntry p d e).fent? p e.n = none := by
  rw [State.tickEntry, if_pos ⟨hst, hd⟩]
  exact endUnserviceable_gone e 2

/-- The entries of `l` have grown a tick older. -/
def FltP.older (f : FltP) (l : List FEntry) : List FEntry :=
  f.entries.map fun x => if x.n ∈ l.map (·.n) then { x with age := x.age + 1 } else x

/-- While none has stood its deadline, every entry met grows older, and nothing else changes. -/
theorem foldl_tickEntry {d : Nat} {l : List FEntry} (hnd : (l.map (·.n)).Nodup) (hd : ∀ e ∈ l, e.st = .replaying ∨ e.age < d) :
    ((l.foldl (fun u e => u.tickEntry p d e) s).fltp p).entries = (s.fltp p).older l ∧
      s.only [.flt] (l.foldl (fun u e => u.tickEntry p d e) s) := by
  induction l generalizing s with
  | nil => exact ⟨by simp [FltP.older], only_refl _ s⟩
  | cons e r ih =>
    obtain ⟨he, hnd⟩ := List.nodup_cons.mp hnd
    obtain ⟨hde, hd⟩ := List.forall_mem_cons.mp hd
    have hstep : s.tickEntry p d e = s.setFltp p { s.fltp p with
        entries := (s.fltp p).entries.map fun x => if x.n == e.n then { x with age := x.age + 1 } else x } := by
      rw [State.tickEntry, if_neg]
      · rfl
      · rcases hde with h | h
        · simp [h]
        · exact fun hk => by omega
    obtain ⟨hentries, honly⟩ := ih (s := s.tickEntry p d e) hnd hd
    refine ⟨?_, State.only.trans (by rw [hstep]; exact State.setFltp_only _ _ _ (only_refl _ s)) honly⟩
    · rw [List.foldl_cons, hentries, hstep, FltP.older, fltp_setFltp_same, List.map_map, FltP.older]
      refine List.map_congr_left fun x _ => ?_
      by_cases hx : x.n = e.n
      · have hlater : ∀ y ∈ r, ¬y.n = e.n := fun y hy hn => he (List.mem_map.mpr ⟨y, hy, hn⟩)
        simpa [hx] using hlater
      · simp [hx]

theorem older_self {f : FltP} : f.older f.entries = f.entries.map fun e => { e with age := e.age + 1 } :=
  List.map_congr_left fun x hx => by rw [if_pos (List.mem_map_of_mem hx)]

/-! ### The ring's configuration (R143, R169) -/

section
variable {w : Who} {v : W32} (h : s.takes w (.fltRcfgWrite w v) = true)
include h

theorem exec_fltRcfgWrite_on (hv : bit v.toNat 31 = true) (hen : (s.fltp (s.actPart w)).en = false) :
    exec (.fltRcfgWrite w v) s = .next (if (s.fltp (s.actPart w)).entries = [] then s.setFltp (s.actPart w) { s.fltp (s.actPart w) with
      en := true, deadline := BitVec.ofNat 16 v.toNat, tail := 0, head := 0, phase := 1 } else s) := by
  refine (takes_of h : execFltRcfgWrite w v s = _).trans ?_
  cases hl : (s.fltp (s.actPart w)).entries <;> simp [hv, hen, hl]

theorem exec_fltRcfgWrite_same (hv : bit v.toNat 31 = (s.fltp (s.actPart w)).en) :
    exec (.fltRcfgWrite w v) s = .next (s.setFltp (s.actPart w) { s.fltp (s.actPart w) with
      en := (s.fltp (s.actPart w)).en, deadline := BitVec.ofNat 16 v.toNat }) := by
  refine (takes_of h : execFltRcfgWrite w v s = _).trans ?_
  cases hen : (s.fltp (s.actPart w)).en <;> simp [hv, hen]

/-- The ring is off, with the deadline written; its RAISED entries have not been routed anew yet. -/
def State.ringOff (s : State) (p : Nat) (d : BitVec 16) : State := s.setFltp p { s.fltp p with en := false, deadline := d }

theorem exec_fltRcfgWrite_off (hv : bit v.toNat 31 = false) (hen : (s.fltp (s.actPart w)).en = true) :
    exec (.fltRcfgWrite w v) s = .next ((((s.fltp (s.actPart w)).entries.filter fun e => e.st == .raised).foldl
      (fun u e => u.routeEntry (s.actPart w) e) (s.ringOff (s.actPart w) (BitVec.ofNat 16 v.toNat))).dropWaiting (s.actPart w)) := by
  refine (takes_of h : execFltRcfgWrite w v s = _).trans ?_
  simp [hv, hen, State.ringOff]

end

theorem ringOff_fltp (d : BitVec 16) : (s.ringOff p d).fltp p = { s.fltp p with en := false, deadline := d } := fltp_setFltp_same _

theorem ringOff_priRoute (d : BitVec 16) (c va cause : Nat) : (s.ringOff p d).priRoute p c va cause = s.priRoute p c va cause := by
  simp only [State.priRoute, ringOff_fltp]
  rfl

theorem dropWaiting_fewer : s.Fewer (s.dropWaiting p) := by
  refine State.Fewer.foldl (fun u r => ?_) _ s
  split
  · split
    · exact State.Fewer.ite (State.Fewer.refl u) (giveUp_fewer _ _ _)
    · exact State.Fewer.refl u
  · exact State.Fewer.refl u

/-- Settles O25: the allocation by the first in the order of raising and the equation of its branch; the tick and the ring's switching off
by `foldl_gone`, as each step of the run over the entries ends its own and brings none back. -/
theorem faultEntriesLiveAndEnd : Obligations.FaultEntriesLiveAndEnd := by
  unfold Obligations.FaultEntriesLiveAndEnd
  refine ⟨?_, ?_, ?_⟩
  · intro s p r o cause hu hd hr hp hst hfirst
    have hn := nextWaiting_first hr hp hst hfirst
    refine ⟨fun e hj => exec_faultEntryAllocate_joins hu hn hst hj,
      fun hj hf hen => exec_faultEntryAllocate_waits hu hn hst hj (.inl hen) hf, fun n hj hf hroute => ?_⟩
    refine ⟨_, s.newEntry r n cause (s.priRoute p.val r.ctx r.va cause), exec_faultEntryAllocate_takes hu hn hst hj hroute hf, ?_⟩
    rw [← hp]
    exact ⟨congrArg FltP.entries (takeEntry_fltp _ _ _ _), rfl, rfl, rfl, rfl, rfl, rfl, rfl, rfl, rfl, rfl, rfl, rfl, rfl,
      takeEntry_req? hr _ _ _, State.takeEntry_only _ _ _ _ _ (only_refl _ s)⟩
  · intro s p f
    refine ⟨_, exec_faultDeadline p, fun e he hst hd => ?_, fun hnd hage => ?_, ?_⟩
    · exact foldl_gone (fun _ _ => tickEntry_fewer _ _) he fun t _ => tickEntry_gone hst hd
    · obtain ⟨hentries, honly⟩ := foldl_tickEntry (p := p.val) hnd hage
      exact ⟨hentries.trans older_self, honly⟩
    · exact (execFaultDeadline_frame p s (only_refl _ s)).go _ rfl
  · intro s w v h p f d
    refine ⟨fun hv hen he => ?_, fun hv hen he => ?_, fun hv => exec_fltRcfgWrite_same h hv, fun hv hen => ?_⟩
    · rw [exec_fltRcfgWrite_on h hv hen, if_pos he]
    · rw [exec_fltRcfgWrite_on h hv hen, if_neg he]
    · have hrouted : (s.ringOff p d).Fewer _ := State.Fewer.foldl (fun u e => routeEntry_fewer (s := u) (p := p) e)
        (f.entries.filter fun e => e.st == .raised) _
      have hend := hrouted.trans (dropWaiting_fewer (p := p))
      refine ⟨_, exec_fltRcfgWrite_off h hv hen, ?_, ?_, fun e he hst hroute => ?_, ?_⟩
      · rw [hend.en, ringOff_fltp]
      · rw [hend.deadline, ringOff_fltp]
      · refine dropWaiting_fewer.gone p e.n (foldl_gone (fun _ _ => routeEntry_fewer _) (List.mem_filter.mpr ⟨he, by simp [hst]⟩) fun t ht => ?_)
        exact routeEntry_gone (by rw [ht.priRoute, ringOff_priRoute, hroute]) (by rw [ht.en, ringOff_fltp])
      · exact State.dropWaiting_only _ _ (only_foldl _ (fun u e hu => State.routeEntry_only _ _ _ hu) _ _
          (State.setFltp_only _ _ _ (only_refl _ s)))

end Sys2Proof.Machine
end

section
/-! SUPPORT. A request that translates again where nothing of its context is cached: it misses, and the caches stay (R112, R126, R149). -/

namespace Sys2Proof.Machine

open Sys2Proof

set_option Elab.async false

variable {s t u v : State}

/-! ### Requests by their number -/

theorem req?_of_mem {r : Req} (hd : s.distinct) (hr : r ∈ s.reqs) : s.req? r.id = some r := by
  rw [State.distinct, List.map_append] at hd
  have hnd := (List.nodup_append.mp hd).1
  rw [State.req?]
  generalize s.reqs = l at hr hnd
  induction l with
  | nil => simp at hr
  | cons x l ih =>
    obtain ⟨hx, hnd⟩ := List.nodup_cons.mp hnd
    rcases List.mem_cons.mp hr with rfl | hr
    · simp
    · have hne : x.id ≠ r.id := fun h => hx (List.mem_map.mpr ⟨r, hr, h.symm⟩)
      simpa [hne] using ih hr hnd

/-- A map that keeps each request's number maps what is found. -/
theorem find?_map_reqs {g : Req → Req} (hg : ∀ x, (g x).id = x.id) (l : List Req) (k : Nat) :
    (l.map g).find? (fun x => x.id == k) = (l.find? fun x => x.id == k).map g := by
  induction l with
  | nil => rfl
  | cons x r ih =>
    rw [List.map_cons, List.find?_cons, List.find?_cons, hg, ih]
    cases hx : x.id == k <;> rfl

theorem setReq_req?_ne {r : Req} {k : Nat} (h : k ≠ r.id) : (s.setReq r).req? k = s.req? k := by
  rw [State.req?, State.setReq_reqs, State.req?, find?_map_reqs]
  · cases hx : s.reqs.find? fun x => x.id == k with
    | none => rfl
    | some x =>
      have hid : x.id = k := by simpa using List.find?_some hx
      simp [hid, h]
  · intro x
    split
    · next hx => exact (beq_iff_eq.mp hx).symm
    · rfl

theorem req?_of_reqs (h : t.reqs = s.reqs) (k : Nat) : t.req? k = s.req? k := by simp only [State.req?, h]

/-! ### States that translate alike -/

/-- Translation finds in `v` what it finds in `u`: only the requests, and what walks and recency say, may differ. -/
structure State.LooksAs (u v : State) : Prop where
  only : u.only [.reqs, .trn] v
  edge : v.trn.edge = u.trn.edge
  folio : v.trn.folio = u.trn.folio
  ctxcfg : v.trn.ctxcfg = u.trn.ctxcfg
  pmode : v.trn.pmode = u.trn.pmode
  slot : ∀ c, v.slotOf c = u.slotOf c

theorem State.LooksAs.refl (u : State) : u.LooksAs u := ⟨only_refl _ u, rfl, rfl, rfl, rfl, fun _ => rfl⟩

theorem State.LooksAs.trans (h : s.LooksAs t) (k : t.LooksAs u) : s.LooksAs u :=
  ⟨h.only.trans k.only, k.edge.trans h.edge, k.folio.trans h.folio, k.ctxcfg.trans h.ctxcfg, k.pmode.trans h.pmode,
    fun c => (k.slot c).trans (h.slot c)⟩

theorem touchSlot_looksAs (c : Nat) : s.LooksAs (s.touchSlot c) := by
  refine ⟨State.touchSlot_only _ _ (only_refl _ s), rfl, rfl, rfl, rfl, fun d => ?_⟩
  rw [State.slotOf, State.slotOf]
  have hpart : (s.touchSlot c).part = s.part := rfl
  rw [hpart]
  cases s.part with
  | v3s => rfl
  | v3x =>
    simp only [State.touchSlot, State.setTrn]
    induction s.trn.slots with
    | nil => rfl
    | cons x l ih => by_cases hc : x.2.1 = c <;> by_cases hd : x.2.1 = d <;> simp_all

/-- The request in a state, with the stamp of its turn. -/
def Req.standing (r : Req) (st : ReqSt) (a : Nat) : Req := { r with st := st, at_ := a }

/-- A miss gives the request its wait for a walker, or the walk it joins, and nothing else of translation. -/
theorem miss_looksAs (r : Req) : s.LooksAs (s.miss r) ∧
    ∃ st a, (s.miss r).reqs = (s.setReq (r.standing st a)).reqs ∧ (st = .missWait ∨ ∃ k, st = .walking k) := by
  unfold State.miss
  split
  · exact ⟨⟨State.setReq_only _ _ (State.setTrn_only _ _ (only_refl _ s)), rfl, rfl, rfl, rfl, fun _ => rfl⟩, _, _, rfl, .inr ⟨_, rfl⟩⟩
  · exact ⟨⟨State.setReq_only _ _ (State.setTrn_only _ _ (only_refl _ s)), rfl, rfl, rfl, rfl, fun _ => rfl⟩, _, _, rfl, .inl rfl⟩

/-- Nothing that translation finds for the request is there: its context is valid, resident and of no host-visible half, and neither a
cache nor a lookahead holds a leaf for it. -/
structure State.Misses (s : State) (r : Req) : Prop where
  bound : s.bound r.part = false
  valid : s.ctxValid r.ctx = true
  ats : s.ctxAts r.ctx = false
  slot : s.slotOf r.ctx ≠ none
  edge : ∀ x ∈ s.trn.edge, x.ctx ≠ r.ctx
  folio : ∀ x ∈ s.trn.folio, x.ctx = r.ctx → x.level ≠ 0
  held : s.heldXlt r.owner r.ctx r.va = none

theorem State.LooksAs.misses {r : Req} (h : s.LooksAs t) (m : s.Misses r) : t.Misses r := by
  have hlka : t.lka = s.lka := h.only .lka (by decide)
  have hheld : t.heldXlt r.owner r.ctx r.va = s.heldXlt r.owner r.ctx r.va := by simp only [State.heldXlt, State.lk, hlka]
  exact ⟨by simpa only [State.bound, h.pmode] using m.bound, by simpa only [State.ctxValid, h.ctxcfg] using m.valid,
    by simpa only [State.ctxAts, h.ctxcfg] using m.ats, by rw [h.slot]; exact m.slot, by rw [h.edge]; exact m.edge,
    by rw [h.folio]; exact m.folio, hheld.trans m.held⟩

theorem lookup_of_misses {r : Req} (m : s.Misses r) : s.lookup r = (s.touchSlot r.ctx).miss r := by
  have mt := (touchSlot_looksAs (s := s) r.ctx).misses m
  obtain ⟨k, hslot⟩ := Option.ne_none_iff_exists'.mp m.slot
  have hedge : (s.touchSlot r.ctx).edgeHit (Owner.edge r.owner) r.ctx r.va = none := by
    simp only [State.edgeHit, List.find?_eq_none, XEntry.covers, Bool.and_eq_true, beq_iff_eq]
    exact fun x hx h => mt.edge x hx h.2.1
  have hfolio : (s.touchSlot r.ctx).folioHit r.ctx r.va = none := by
    simp only [State.folioHit, List.find?_eq_none, XEntry.covers, Bool.and_eq_true, beq_iff_eq]
    exact fun x hx h => mt.folio x hx h.2.1 h.1
  simp only [State.lookup, m.bound, m.valid, State.atsHalf, m.ats, hslot, hedge, hfolio, mt.held, Bool.false_and, Bool.not_true,
    Bool.false_eq_true, if_false]

end Sys2Proof.Machine
end

section
/-! SUPPORT. The replay of a fault entry: the leaves of its page are removed, and every request of it translates again (R147, R149). -/

namespace Sys2Proof.Machine

open Sys2Proof

set_option Elab.async false

variable {s t u v : State} {p n : Nat}

/-! ### The leaves that are removed (R55, R149) -/

/-- An entry that the removal of the page of `va` leaves. -/
def keptBy (c va : Nat) (x : XEntry) : Bool := !(x.level == 0 && x.covers c va)

/-- The step of the removal on one lookahead. -/
def State.removeHeld (s : State) (c va n : Nat) : State :=
  s.setLk n { s.lk n with xlt := (s.lk n).xlt.filter fun x => keptBy c va x.2.1 }

theorem removeLeaves_eq (c va : Nat) : s.removeLeaves c va = (s.discardEach fun u n => u.removeHeld c va n).setTrn
    { s.trn with edge := s.trn.edge.filter (keptBy c va), folio := s.trn.folio.filter (keptBy c va) } := rfl

theorem removeHeld_heldXlt {o : Owner} {d a : Nat} (h : s.heldXlt o d a = none) (c va k : Nat) : (s.removeHeld c va k).heldXlt o d a = none := by
  unfold State.heldXlt at h ⊢
  split
  · next m hm =>
    simp only [hm, Option.map_eq_none_iff, List.find?_eq_none] at h ⊢
    intro x hx
    refine h x ?_
    have hlk : (s.removeHeld c va k).lk m = if m = k then { s.lk k with xlt := (s.lk k).xlt.filter fun x => keptBy c va x.2.1 } else s.lk m :=
      Tbl.get_set _ _ _ _ _
    rw [hlk] at hx
    split at hx
    · next hk => rw [hk]; exact (List.mem_filter.mp hx).1
    · exact hx
  · rfl

theorem removeLeaves_heldXlt {o : Owner} {d a : Nat} (h : s.heldXlt o d a = none) (c va : Nat) : (s.removeLeaves c va).heldXlt o d a = none := by
  have hrun : ∀ (l : List Nat) (s : State), s.heldXlt o d a = none → (l.foldl (fun u n => u.removeHeld c va n) s).heldXlt o d a = none := by
    intro l
    induction l with
    | nil => exact fun _ h => h
    | cons k r ih => exact fun s h => ih _ (removeHeld_heldXlt h c va k)
  have hlka : (s.removeLeaves c va).lka = (s.discardEach fun u n => u.removeHeld c va n).lka := by rw [removeLeaves_eq, State.setTrn]
  rw [← hrun (List.range 16) s h]
  simp only [State.heldXlt, State.lk, hlka, State.discardEach]

/-! ### The requests that translate again -/

/-- The requests that stand on entry `n`. -/
def State.faultedOn (s : State) (p n : Nat) : List Req := s.reqs.filter fun r => r.st == .faulted p n

/-- The leaves are removed and the entry's requests are presented again; none has been looked up yet. -/
def State.replayStart (s : State) (p : Nat) (e : FEntry) : State :=
  let s1 := (s.removeLeaves e.ctx e.va).setFent p { e with removed := true }
  { s1 with reqs := s1.reqs.map fun r => if r.st == .faulted p e.n then { r with st := .held, replay := some (p, e.n) } else r }

/-- One request's turn. -/
def State.replayOne (u : State) (p n i : Nat) : State :=
  match u.req? i with
  | some r => if r.replay = some (p, n) ∧ r.st = .held then u.lookup r else u
  | none => u

theorem replayEntry_eq (e : FEntry) :
    s.replayEntry p e = ((s.faultedOn p e.n).map (·.id)).foldl (fun u i => u.replayOne p e.n i) (s.replayStart p e) := rfl

/-- A request of entry `n` that has been presented again. -/
def Req.presented (r : Req) (p n : Nat) (st : ReqSt) (a : Nat) : Req := { r with st := st, at_ := a, replay := some (p, n) }

/-- In `u` the request `r` of entry `n` has been presented again; where `b` is false it has been looked up and has missed. -/
def State.Again (u : State) (p n : Nat) (b : Bool) (r : Req) : Prop :=
  ∃ st a, u.req? r.id = some (r.presented p n st a) ∧
    (st = .missWait ∨ (∃ k, st = .walking k) ∨ b = true ∧ st = .held)

theorem State.Again.weaken {b : Bool} {r : Req} (h : u.Again p n b r) : u.Again p n true r := by
  obtain ⟨st, a, hreq, hst⟩ := h
  exact ⟨st, a, hreq, hst.imp id (Or.imp id fun h => ⟨rfl, h.2⟩)⟩

/-- A turn: the request misses, and every other stands as it stood. -/
theorem replayOne_spec {r : Req} (ha : u.Again p n true r) (m : u.Misses r) :
    u.LooksAs (u.replayOne p n r.id) ∧ (u.replayOne p n r.id).Again p n false r ∧
      ∀ x b, x.id ≠ r.id → u.Again p n b x → (u.replayOne p n r.id).Again p n b x := by
  obtain ⟨st, a, hreq, hst⟩ := ha
  rw [State.replayOne, hreq]
  by_cases hheld : st = .held
  · subst hheld
    have mr : u.Misses (r.presented p n .held a) := ⟨m.1, m.2, m.3, m.4, m.5, m.6, m.7⟩
    obtain ⟨hlooks, st', a', hreqs, hst'⟩ := miss_looksAs (s := u.touchSlot r.ctx) (r.presented p n .held a)
    have hlook : u.lookup (r.presented p n .held a) = (u.touchSlot r.ctx).miss (r.presented p n .held a) := lookup_of_misses mr
    have htook : (u.touchSlot r.ctx).reqs = u.reqs := rfl
    have hfound := setReq_req? (s := u.touchSlot r.ctx) (r := (r.presented p n .held a).standing st' a')
      (List.mem_of_find?_eq_some hreq) rfl
    simp only [show (r.presented p n .held a).replay = some (p, n) ∧ (r.presented p n .held a).st = .held from ⟨rfl, rfl⟩, and_self, if_true]
    rw [hlook]
    refine ⟨(touchSlot_looksAs r.ctx).trans hlooks, ⟨st', a', (req?_of_reqs hreqs _).trans hfound, hst'.imp id .inl⟩, fun x b hx h => ?_⟩
    obtain ⟨st, a, hx', hst⟩ := h
    have hne := setReq_req?_ne (s := u.touchSlot r.ctx) (r := (r.presented p n .held a).standing st' a') hx
    exact ⟨st, a, (req?_of_reqs hreqs _).trans (hne.trans hx'), hst⟩
  · simp only [show ¬(r.presented p n st a).st = .held from hheld, and_false, if_false]
    exact ⟨.refl u, ⟨st, a, hreq, hst.imp id fun h => .inl (h.resolve_right fun h => hheld h.2)⟩, fun _ _ _ h => h⟩

/-- Every request of `l` has its turn: each misses. -/
theorem foldl_replayOne {g l : List Req} (hg : ∀ r ∈ g, ∀ x ∈ g, r.id = x.id → r = x) (hl : ∀ r ∈ l, r ∈ g)
    (ha : ∀ r ∈ g, u.Again p n true r) (m : ∀ r ∈ g, u.Misses r) :
    u.LooksAs ((l.map (·.id)).foldl (fun u i => u.replayOne p n i) u) ∧
      (∀ r ∈ g, ∀ b, u.Again p n b r → ((l.map (·.id)).foldl (fun u i => u.replayOne p n i) u).Again p n b r) ∧
      ∀ r ∈ l, ((l.map (·.id)).foldl (fun u i => u.replayOne p n i) u).Again p n false r := by
  induction l generalizing u with
  | nil =>
    rw [List.map_nil, List.foldl_nil]
    exact ⟨.refl u, fun _ _ _ h => h, by simp⟩
  | cons r l ih =>
    obtain ⟨hr, hl⟩ := List.forall_mem_cons.mp hl
    obtain ⟨hlooks, hdone, hother⟩ := replayOne_spec (ha r hr) (m r hr)
    have hkeep : ∀ x ∈ g, ∀ b, u.Again p n b x → (u.replayOne p n r.id).Again p n b x := by
      intro x hx b h
      by_cases hid : x.id = r.id
      · rw [hg x hx r hr hid]
        cases b with
        | false => exact hdone
        | true => exact hdone.weaken
      · exact hother x b hid h
    obtain ⟨hlooks', hkeep', hdone'⟩ := ih (u := u.replayOne p n r.id) hl (fun x hx => hkeep x hx true (ha x hx))
      (fun x hx => hlooks.misses (m x hx))
    exact ⟨hlooks.trans hlooks', fun x hx b h => hkeep' x hx b (hkeep x hx b h),
      List.forall_mem_cons.mpr ⟨hkeep' r hr false hdone, hdone'⟩⟩

/-! ### The start of the replay -/

theorem replayStart_only (e : FEntry) : s.only [.reqs, .trn, .flt, .lka] (s.replayStart p e) := by
  rw [State.replayStart]
  exact (only_reqs _ _ ((s.removeLeaves e.ctx e.va).setFent p { e with removed := true }) _ (by decide)).mpr
    (State.setFent_only _ _ _ (State.removeLeaves_only _ _ _ (only_refl _ s)))

theorem replayStart_trn (e : FEntry) : (s.replayStart p e).trn =
    { s.trn with edge := s.trn.edge.filter (keptBy e.ctx e.va), folio := s.trn.folio.filter (keptBy e.ctx e.va) } := rfl

theorem replayStart_fent? {e : FEntry} (h : s.fent? p n = some e) : (s.replayStart p e).fent? p n = some { e with removed := true } := by
  have hflt : (s.removeLeaves e.ctx e.va).flt = s.flt :=
    (State.removeLeaves_only (ps := [.trn, .lka]) _ _ _ (only_refl _ s)) Piece.flt (by decide)
  have hent : (s.removeLeaves e.ctx e.va).fent? p n = some e := by
    simp only [State.fent?, State.fltp, hflt] at h ⊢
    exact h
  rw [← setFent_same (e := { e with removed := true }) hent (fent?_n (e := e) h), State.replayStart]
  rfl

theorem replayStart_reqs (e : FEntry) : (s.replayStart p e).reqs =
    s.reqs.map fun r => if r.st == .faulted p e.n then { r with st := .held, replay := some (p, e.n) } else r := by
  have hreqs : ((s.removeLeaves e.ctx e.va).setFent p { e with removed := true }).reqs = s.reqs :=
    (State.setFent_only (ps := [.trn, .flt, .lka]) _ _ _ (State.removeLeaves_only _ _ _ (only_refl _ s))) Piece.reqs (by decide)
  rw [State.replayStart, hreqs]

theorem replayStart_again {e : FEntry} (hd : s.distinct) {r : Req} (hr : r ∈ s.faultedOn p e.n) :
    (s.replayStart p e).Again p e.n true r := by
  obtain ⟨hmem, hst⟩ := List.mem_filter.mp hr
  refine ⟨.held, r.at_, ?_, .inr (.inr ⟨rfl, rfl⟩)⟩
  rw [State.req?, replayStart_reqs, find?_map_reqs]
  · rw [← State.req?, req?_of_mem hd hmem, Option.map_some, if_pos hst]
    rfl
  · intro x
    split <;> rfl

theorem replayStart_slotOf (e : FEntry) (c : Nat) : (s.replayStart p e).slotOf c = s.slotOf c := by
  have hpart : (s.replayStart p e).part = s.part := replayStart_only e .part (by decide)
  simp only [State.slotOf, replayStart_trn, hpart]

theorem replayStart_heldXlt {o : Owner} {c va : Nat} (e : FEntry) (h : s.heldXlt o c va = none) :
    (s.replayStart p e).heldXlt o c va = none := by
  have hlka : (s.replayStart p e).lka = (s.removeLeaves e.ctx e.va).lka := by
    rw [State.replayStart]
    exact (State.setFent_only (ps := [.flt]) _ p { e with removed := true } (only_refl _ _)) Piece.lka (by decide)
  rw [← removeLeaves_heldXlt h e.ctx e.va]
  simp only [State.heldXlt, State.lk, hlka]

end Sys2Proof.Machine
end

section
/-! PROOF. Fault responses, replay and page requests (O27). -/

namespace Sys2Proof.Machine

open Sys2Proof

set_option Elab.async false

variable {s t u : State} {p : Nat}

theorem fent?_of_mem {e : FEntry} (he : e ∈ (s.fltp p).entries) : ∃ x, s.fent? p e.n = some x := by
  rw [← Option.ne_none_iff_exists']
  intro h
  simpa using List.find?_eq_none.mp h e he

/-- An entry of the list is rewritten, whatever stands first at its number. -/
theorem setFent_of_mem {e f : FEntry} (he : e ∈ (s.fltp p).entries) (hn : f.n = e.n) : (s.setFent p f).fent? p e.n = some f := by
  obtain ⟨x, hx⟩ := fent?_of_mem he
  exact setFent_same hx hn

/-! ### The servicer's responses (R147, R148) -/

section
variable {w : Who} {fid : BitVec 16}

/-- The entry that a response names. -/
def State.answered? (s : State) (p : Nat) (fid : BitVec 16) : Option FEntry :=
  (s.fltp p).entries.find? fun e => e.st == .logged && e.fid == fid.toNat

theorem respond_none {k : Nat → FEntry → State → State} (h : s.answered? (s.actPart w) fid = none) :
    s.respond w fid k = s.setFltp (s.actPart w) { s.fltp (s.actPart w) with refused := true } := by
  rw [State.answered?] at h
  simp only [State.respond, h]
  rfl

theorem respond_some {k : Nat → FEntry → State → State} {e : FEntry} (h : s.answered? (s.actPart w) fid = some e) :
    s.respond w fid k = k (s.actPart w) e s := by
  rw [State.answered?] at h
  simp only [State.respond, h]

theorem exec_fltRespRetry (h : s.takes w (.fltRespRetry w fid) = true) : exec (.fltRespRetry w fid) s =
    .next (s.respond w fid fun p e s => s.setFent p { e with st := .replaying, removed := false }) := takes_of h

theorem exec_fltRespAbort (h : s.takes w (.fltRespAbort w fid) = true) : exec (.fltRespAbort w fid) s =
    .next (s.respond w fid fun p e s => s.endUnserviceable p e 1) := takes_of h

end

/-- A lone request of a tile engine, with no other piece, leaves and is answered with an error. -/
theorem endUnserviceable_tile {e : FEntry} {r : Req} {m k : Nat} (why : Nat) (hr : s.reqs.filter (fun r => r.joined p e.n) = [r])
    (ho : r.owner = .tile m k) (hg : r.grp = 0) : (s.endUnserviceable p e why).out = s.out ++ [.tileRsp m k (.error .none)] ∧
      (s.endUnserviceable p e why).reqs = s.reqs.filter fun x => x.id != r.id := by
  have hend : s.only [.flt, .rcd] (s.endEntry p e) := State.endEntry_only _ _ _ (only_refl _ s)
  have hout : (s.endEntry p e).out = s.out := hend .out (by decide)
  have hreqs : (s.endEntry p e).reqs = s.reqs := hend .reqs (by decide)
  rw [State.endUnserviceable, hr, State.giveUp]
  generalize s.endEntry p e = t at hout hreqs
  simp [oneEach, State.unserviceable, ho, State.tileFails, hg, State.emit, State.dropReq, hout, hreqs]

/-! ### Replay (R149) -/

theorem exec_replayRemovalDone {p : Fin 16} {n : Fin 512} {e : FEntry} (hu : s.serving 2 0 = true) (h : s.fent? p.val n.val = some e)
    (hst : e.st = .replaying) (hrem : e.removed = false) : exec (.replayRemovalDone p n) s = .next (s.replayEntry p.val e) := by
  refine (inUnit_of hu : execReplayRemovalDone p n s = _).trans ?_
  simp only [h, hst, hrem, and_self, if_true]

/-- When the replay starts, a request of the entry misses where no other leaf of its context is cached. -/
theorem replayStart_misses {e : FEntry} {r : Req} (hv : s.ctxValid e.ctx = true) (ha : s.ctxAts e.ctx = false)
    (hslot : s.slotOf e.ctx ≠ none) (hr : r.ctx = e.ctx ∧ s.bound r.part = false ∧ s.heldXlt r.owner r.ctx r.va = none)
    (hedge : ∀ x ∈ s.trn.edge, x.ctx = e.ctx → x.level = 0)
    (hleaf : ∀ x ∈ s.trn.edge ++ s.trn.folio, x.ctx = e.ctx → x.level = 0 → x.covers e.ctx e.va = true) :
    (s.replayStart p e).Misses r := by
  obtain ⟨hctx, hbound, hheld⟩ := hr
  have hgone : ∀ x ∈ s.trn.edge ++ s.trn.folio, keptBy e.ctx e.va x = true → x.ctx = e.ctx → x.level ≠ 0 := by
    intro x hx hkept hc hl
    simp [keptBy, hl, hleaf x hx hc hl] at hkept
  refine ⟨?_, ?_, ?_, ?_, fun x hx hc => ?_, fun x hx hc => ?_, replayStart_heldXlt e hheld⟩
  · simpa only [State.bound, replayStart_trn] using hbound
  · simpa only [hctx, State.ctxValid, replayStart_trn] using hv
  · simpa only [hctx, State.ctxAts, replayStart_trn] using ha
  · rwa [hctx, replayStart_slotOf]
  · rw [replayStart_trn] at hx
    obtain ⟨hx, hkept⟩ := List.mem_filter.mp hx
    rw [hctx] at hc
    exact hgone x (List.mem_append_left _ hx) hkept hc (hedge x hx hc)
  · rw [replayStart_trn] at hx
    obtain ⟨hx, hkept⟩ := List.mem_filter.mp hx
    rw [hctx] at hc
    exact hgone x (List.mem_append_right _ hx) hkept hc

/-- The replay of an entry of which nothing else is cached: every request of it misses. -/
theorem replayEntry_spec {e : FEntry} {n : Nat} (hd : s.distinct) (he : s.fent? p n = some e)
    (m : ∀ r ∈ s.faultedOn p n, (s.replayStart p e).Misses r) :
    (s.replayStart p e).LooksAs (s.replayEntry p e) ∧ ∀ r ∈ s.faultedOn p n, (s.replayEntry p e).Again p n false r := by
  have hn : e.n = n := fent?_n he
  subst hn
  have hinj : ∀ r ∈ s.faultedOn p e.n, ∀ x ∈ s.faultedOn p e.n, r.id = x.id → r = x := by
    intro r hr x hx hid
    have hr' := req?_of_mem hd (List.mem_filter.mp hr).1
    rw [hid, req?_of_mem hd (List.mem_filter.mp hx).1] at hr'
    exact (Option.some.inj hr').symm
  obtain ⟨hlooks, -, hdone⟩ := foldl_replayOne hinj (fun _ h => h) (fun r hr => replayStart_again hd hr) m
  rw [replayEntry_eq]
  exact ⟨hlooks, hdone⟩

/-! ### The host's way (R146, R151) -/

theorem routeStale_of (h : ∀ x ∈ (s.fltp p).entries, x.stale = false) : s.routeStale p = s := by
  have hnone : (s.fltp p).entries.filter (·.stale) = [] := List.filter_eq_nil_iff.mpr fun x hx => by simp [h x hx]
  rw [State.routeStale, hnone, List.foldl_nil]

theorem exec_pageRequestSend {p : Fin 16} {e : FEntry} (hu : s.serving 2 0 = true) (hs : s.canSend p.val = true)
    (hstale : ∀ x ∈ (s.fltp p.val).entries, x.stale = false)
    (he : minBy (·.order) ((s.fltp p.val).entries.filter fun e => e.st == .raised && e.pri) = some e)
    (hn : ((s.fltp p.val).entries.filter fun e => e.st == .requested).length < (s.fn p.val).prAlloc) :
    exec (.pageRequestSend p) s = .next ((s.setFent p.val { e with st := .requested }).emit
      (.pageRequest p.val (e.va / 4096 * 4096) e.n (e.acc == .read || e.acc == .rmw || e.acc == .ringRead)
        (e.acc == .write || e.acc == .atomic || e.acc == .rmw) (s.ctxPasid e.ctx))) := by
  refine (inUnit_of hu : execPageRequestSend p s = _).trans ?_
  simp only [routeStale_of hstale, he, hs, Nat.not_le.mpr hn, Bool.true_eq_false, or_self, if_false]

section
variable {p : Fin 16} {n : Fin 512} {e : FEntry} (ha : ∀ c, s.admits (.prgResponse p n c) = true) (he : s.fent? p.val n.val = some e)
  (hst : e.st = .requested)
include ha he hst

theorem exec_prgResponse_success : exec (.prgResponse p n .success) s =
    .next (s.setFent p.val { e with st := .replaying, removed := false }) := by
  refine (delivered_of (ha _) : execPrgResponse p n .success s = _).trans ?_
  simp [he, hst]

theorem exec_prgResponse_invalid : exec (.prgResponse p n .invalid) s = .next (s.endUnserviceable p.val e 3) := by
  refine (delivered_of (ha _) : execPrgResponse p n .invalid s = _).trans ?_
  simp [he, hst]

/-- The page requests of a partition are off, and every REQUESTED entry has ended. -/
def State.priFails (s : State) (p : Nat) : State :=
  let s1 := s.modFltp p fun f => { f with prioff := true }
  ((s1.fltp p).entries.filter fun x => x.st == .requested).foldl (fun u x => u.endUnserviceable p x 4) s1

theorem exec_prgResponse_failure : exec (.prgResponse p n .failure) s =
    .next ((((s.priFails p.val).fltp p.val).entries.filter fun x => x.st == .raised).foldl (fun u x => u.routeEntry p.val x)
      (s.priFails p.val)) := by
  refine (delivered_of (ha _) : execPrgResponse p n .failure s = _).trans ?_
  simp only [he, hst, ne_eq, not_true_eq_false, if_false]
  rfl

end

/-- After a failure the page requests are off, and an entry that was REQUESTED is gone (R151). -/
theorem priFails_spec : ((s.priFails p).fltp p).prioff = true ∧
    ∀ x ∈ (s.fltp p).entries, x.st = .requested → (s.priFails p).fent? p x.n = none := by
  have hoff : (s.modFltp p fun f => { f with prioff := true }).fltp p = { s.fltp p with prioff := true } := fltp_setFltp_same _
  refine ⟨?_, fun x hx hst => ?_⟩
  · rw [State.priFails, (State.Fewer.foldl (fun u x => endUnserviceable_fewer (s := u) x 4) _ _).prioff, hoff]
  · refine foldl_gone (fun u x => endUnserviceable_fewer x 4) (List.mem_filter.mpr ⟨?_, by simp [hst]⟩) fun t _ => endUnserviceable_gone x 4
    rw [hoff]
    exact hx

/-- What the end of faults may change. -/
theorem priFails_only : s.only [.reqs, .orphans, .nextId, .out, .gal, .trn, .flt, .epo, .plt, .cmp, .lka, .ic, .obs, .rcd] (s.priFails p) :=
  only_foldl _ (fun _ _ hu => State.endUnserviceable_only _ _ _ _ hu) _ _ (State.modFltp_only _ _ _ (only_refl _ s))

/-- Settles O27: the responses by `setFent_of_mem` and `endUnserviceable_gone`, the replay by `replayEntry_spec`, whose run over the entry's
requests keeps that each still misses, and the host's failure by `priFails_spec`. -/
theorem faultsAreAnswered : Obligations.FaultsAreAnswered := by
  unfold Obligations.FaultsAreAnswered
  refine ⟨⟨?_, ?_⟩, ?_, ?_⟩
  · intro s w fid hretry habort p hit
    rw [exec_fltRespRetry hretry, exec_fltRespAbort habort]
    refine ⟨fun h => ⟨congrArg _ (respond_none h), congrArg _ (respond_none h)⟩, fun e h => ⟨⟨_, congrArg _ (respond_some h), ?_, ?_, ?_⟩,
      ⟨_, congrArg _ (respond_some h), endUnserviceable_gone e 1, fun r m k hr ho hg => endUnserviceable_tile 1 hr ho hg,
        State.endUnserviceable_only _ _ _ _ (only_refl _ s)⟩⟩⟩
    · exact setFent_of_mem (List.mem_of_find?_eq_some h) rfl
    · exact fun n hn => setFent_other hn
    · exact State.setFent_only _ _ _ (only_refl _ s)
  · intro s p n e hu hd he hst hrem hv ha hslot hreqs hedge hleaf
    have m : ∀ r ∈ s.faultedOn p.val n.val, (s.replayStart p.val e).Misses r := fun r hr => by
      obtain ⟨hmem, hon⟩ := List.mem_filter.mp hr
      exact replayStart_misses hv ha hslot (hreqs r hmem (beq_iff_eq.mp hon)) hedge hleaf
    obtain ⟨hlooks, hagain⟩ := replayEntry_spec hd he m
    refine ⟨_, exec_replayRemovalDone hu he hst hrem, ?_, hlooks.edge, hlooks.folio, fun r hr hon => ?_,
      (replayStart_only e).trans (hlooks.only.of_mem (by decide))⟩
    · have hflt : (s.replayEntry p.val e).flt = (s.replayStart p.val e).flt := hlooks.only .flt (by decide)
      rw [← replayStart_fent? he]
      simp only [State.fent?, State.fltp, hflt]
    · obtain ⟨st, a, hreq, hst⟩ := hagain r (List.mem_filter.mpr ⟨hr, beq_iff_eq.mpr hon⟩)
      exact ⟨_, hreq, rfl, hst.imp id fun h => h.resolve_right (by simp)⟩
  · intro s p e hu hs hstale he hn
    refine ⟨_, exec_pageRequestSend hu hs hstale he hn, ?_, rfl, State.emit_only _ _ (State.setFent_only _ _ _ (only_refl _ s))⟩
    exact setFent_of_mem (List.mem_filter.mp (minBy_spec he).1).1 rfl
  · intro s p n e ha he hst
    obtain ⟨hoff, hgone⟩ := priFails_spec (s := s) (p := p.val)
    have hrouted := State.Fewer.foldl (fun u x => routeEntry_fewer (s := u) (p := p.val) x)
      (((s.priFails p.val).fltp p.val).entries.filter fun x => x.st == .raised) (s.priFails p.val)
    refine ⟨⟨_, exec_prgResponse_success ha he hst, setFent_same he (fent?_n (e := e) he), fun k hk => setFent_other ?_,
        State.setFent_only _ _ _ (only_refl _ s)⟩,
      ⟨_, exec_prgResponse_invalid ha he hst, ?_, State.endUnserviceable_only _ _ _ _ (only_refl _ s)⟩,
      ⟨_, exec_prgResponse_failure ha he hst, ?_, fun x hx hst => hrouted.gone _ _ (hgone x hx hst), ?_⟩⟩
    · exact (fent?_n he).symm ▸ hk
    · have h := endUnserviceable_gone (s := s) (p := p.val) e 3
      rwa [fent?_n he] at h
    · rw [hrouted.prioff, hoff]
    · exact only_foldl _ (fun _ _ hu => State.routeEntry_only _ _ _ hu) _ _ priFails_only

end Sys2Proof.Machine
end

section
/-! SUPPORT. What a compositor does without waiting keeps its command's course: streams, admission, placement and row reads (R214 to R219). -/

namespace Sys2Proof.Machine

open Sys2Proof

set_option Elab.async false

variable {s t u : State} {n : Nat}

/-! ### The course of a command -/

/-- What admission and reads leave of a compositor: all but the open window, what is counted of it, and the flags. -/
def Comp.course (v : Comp) : Comp :=
  { v with adm := 0, full := false, short := false, peek := none, groups := [], dists := [], lens := [], flags := 0, swhit := 0, count := 0 }

/-- From `v` to `w` the command keeps its course; flags are set and rows enter the window, none is cleared or leaves it. -/
structure Comp.Grows (v w : Comp) : Prop where
  course : w.course = v.course
  flags : ∀ i, v.flags.getLsbD i = true → w.flags.getLsbD i = true
  dists : ∀ d ∈ v.dists, ∃ e ∈ w.dists, e.idx = d.idx ∧ e.got = d.got

theorem Comp.Grows.refl (v : Comp) : v.Grows v := ⟨rfl, fun _ h => h, fun d h => ⟨d, h, rfl, rfl⟩⟩

theorem Comp.Grows.trans {v w x : Comp} (h : v.Grows w) (k : w.Grows x) : v.Grows x :=
  ⟨k.course.trans h.course, fun i hi => k.flags i (h.flags i hi), fun d hd => by
    obtain ⟨e, he, hidx, hgot⟩ := h.dists d hd
    obtain ⟨f, hf, hidx', hgot'⟩ := k.dists e he
    exact ⟨f, hf, hidx'.trans hidx, hgot'.trans hgot⟩⟩

/-- Where neither flags nor rows are touched. -/
theorem Comp.Grows.of_eq {v w : Comp} (hc : w.course = v.course) (hf : w.flags = v.flags) (hd : w.dists = v.dists) : v.Grows w :=
  ⟨hc, fun i h => by rw [hf]; exact h, fun d h => ⟨d, by rw [hd]; exact h, rfl, rfl⟩⟩

/-- Rows rewritten in their place, with index and mark kept. -/
theorem Comp.Grows.of_map {v w : Comp} {g : Dist → Dist} (hc : w.course = v.course) (hf : w.flags = v.flags) (hd : w.dists = v.dists.map g)
    (hg : ∀ d, (g d).idx = d.idx ∧ (g d).got = d.got) : v.Grows w :=
  ⟨hc, fun i h => by rw [hf]; exact h, fun d h => ⟨g d, by rw [hd]; exact List.mem_map_of_mem h, hg d⟩⟩

/-- Compositor `n` goes on from `s` to `t`: its command keeps its course, and neither Galley, the counters nor another compositor changes. -/
structure State.GoesOn (n : Nat) (s t : State) : Prop where
  grows : (s.comp n).Grows (t.comp n)
  gal : t.gal = s.gal
  obs : t.obs = s.obs
  others : ∀ k, k ≠ n → t.comp k = s.comp k

namespace State.GoesOn

theorem refl (n : Nat) (s : State) : s.GoesOn n s := ⟨.refl _, rfl, rfl, fun _ _ => rfl⟩

theorem trans (h : State.GoesOn n s t) (k : State.GoesOn n t u) : State.GoesOn n s u :=
  ⟨h.grows.trans k.grows, k.gal.trans h.gal, k.obs.trans h.obs, fun j hj => (k.others j hj).trans (h.others j hj)⟩

theorem of_only {ps : List Piece} {s t : State} (h : s.only ps t) (hps : Piece.cmp ∉ ps ∧ Piece.gal ∉ ps ∧ Piece.obs ∉ ps := by decide) :
    State.GoesOn n s t := by
  have hcomp := comp_of_cmp (h .cmp hps.1)
  exact ⟨by rw [hcomp]; exact .refl _, h .gal hps.2.1, h .obs hps.2.2, fun k _ => hcomp k⟩

theorem setComp {w : Comp} (h : (s.comp n).Grows w) : State.GoesOn n s (s.setComp n w) := by
  refine ⟨?_, rfl, rfl, fun k hk => ?_⟩
  · rw [show (s.setComp n w).comp n = w from (Tbl.get_set _ _ _ _ _).trans (if_pos rfl)]
    exact h
  · exact (Tbl.get_set _ _ _ _ _).trans (if_neg hk)

/-- From the rewritten compositor on. -/
theorem after {f : State → State} (hf : ∀ s, State.GoesOn n s (f s)) {w : Comp} (h : (s.comp n).Grows w) : State.GoesOn n s (f (s.setComp n w)) :=
  (setComp h).trans (hf (s.setComp n w))

theorem foldl {α : Type} {g : State → α → State} (hg : ∀ (s : State) a, State.GoesOn n s (g s a)) (l : List α) (s : State) :
    State.GoesOn n s (l.foldl g s) := by
  induction l generalizing s with
  | nil => exact refl n s
  | cons a r ih => exact (hg s a).trans (ih _)

theorem ite {c : Prop} [Decidable c] (ht : State.GoesOn n s t) (hu : State.GoesOn n s u) : State.GoesOn n s (if c then t else u) := by
  split <;> assumption

end State.GoesOn

theorem comp_setComp_same (w : Comp) : (s.setComp n w).comp n = w := (Tbl.get_set _ _ _ _ _).trans (if_pos rfl)

theorem comp_setComp_ne (w : Comp) {k : Nat} (h : k ≠ n) : (s.setComp n w).comp k = s.comp k := (Tbl.get_set _ _ _ _ _).trans (if_neg h)

/-- The command of a compositor is found by its queue and position. -/
theorem compCmd_of (hg : t.gal = s.gal) (hq : (t.comp n).queue = (s.comp n).queue) (hp : (t.comp n).pos = (s.comp n).pos) :
    t.compCmd n = s.compCmd n := by
  simp only [State.compCmd, State.cmd?, hg, hq, hp]

/-! ### Its steps -/

theorem compRead_goesOn (o : Owner) (va len : Nat) (a : Acc) : State.GoesOn n s (s.compRead n o va len a) :=
  .of_only (ps := [.reqs, .nextId]) (State.compRead_only _ _ _ _ _ _ (only_refl _ s))

theorem askStreams_goesOn : State.GoesOn n s (s.askStreams n) :=
  .of_only (ps := [.reqs, .nextId]) (State.askStreams_only _ _ (only_refl _ s))

theorem cutHere_grows (v : Comp) (i : Nat) (p : Place) : v.Grows (v.cutHere i p) := by
  unfold Comp.cutHere
  split
  · exact .of_eq rfl rfl rfl
  · split <;> exact .of_eq rfl rfl rfl

theorem orFlags_getLsbD {x y : BitVec 16} {i : Nat} (h : x.getLsbD i = true) : (x ||| y).getLsbD i = true := by simp [h]

/-- Admission takes one occurrence more. -/
theorem admitGo_step {k : Nat} {b rcd : Bytes} {fuel : Nat} (ih : ∀ s : State, State.GoesOn n s (State.admitGo n b rcd fuel s)) {w : Comp}
    (h : (s.comp n).Grows w) :
    State.GoesOn n s (State.admitGo n b rcd fuel (s.setComp n { w with adm := k + 1, count := if w.pre then w.count else BitVec.ofNat 48 (k + 1) })) :=
  State.GoesOn.after ih (h.trans (.of_eq rfl rfl rfl))

theorem admitGo_goesOn (b rcd : Bytes) (fuel : Nat) (s : State) : State.GoesOn n s (State.admitGo n b rcd fuel s) := by
  induction fuel generalizing s with
  | zero => exact .refl n s
  | succ fuel ih =>
    rw [State.admitGo]
    refine .ite (.refl n s) (.ite (.setComp (.of_eq rfl rfl rfl)) (.ite (.refl n s) (.ite (admitGo_step ih (.refl _)) (.ite
      (admitGo_step ih (.refl _)) (.ite (admitGo_step ih ⟨rfl, fun _ h => orFlags_getLsbD h, fun d h => ⟨d, h, rfl, rfl⟩⟩)
      (.ite (admitGo_step ih (.refl _)) (.ite (.setComp (cutHere_grows _ _ _)) (admitGo_step ih ⟨rfl, fun _ h => h, fun d h => ⟨d, ?_, rfl, rfl⟩⟩))))))))
    dsimp only
    split
    · exact List.mem_append_left _ h
    · exact h

theorem admitAll_goesOn (b rcd : Bytes) (fuel : Nat) (s : State) : State.GoesOn n s (State.admitAll n b rcd fuel s) := by
  induction fuel generalizing s with
  | zero => exact .refl n s
  | succ fuel ih =>
    rw [State.admitAll]
    have h := admitGo_goesOn (n := n) b rcd ((s.comp n).nidx + 1 - (s.comp n).adm) s
    exact .ite (h.trans (.after ih (.of_eq rfl rfl rfl))) h

theorem setDist_grows (v : Comp) (i : Nat) {g : Dist → Dist} (hg : ∀ d, (g d).idx = d.idx ∧ (g d).got = d.got) : v.Grows (v.setDist i g) := by
  refine .of_map (g := fun d => if d.idx == i then g d else d) rfl rfl rfl fun d => ?_
  split
  · exact hg d
  · exact ⟨rfl, rfl⟩

theorem askRow_goesOn (b rcd : Bytes) (d : Dist) : State.GoesOn n s (s.askRow n b rcd d) := by
  unfold State.askRow
  split
  · exact .refl n s
  · exact .after (fun _ => compRead_goesOn _ _ _ _) (setDist_grows _ _ fun _ => ⟨rfl, rfl⟩)

theorem nextRow_goesOn (b rcd : Bytes) : State.GoesOn n s (s.nextRow n b rcd) := by
  unfold State.nextRow
  split
  · exact .refl n s
  · exact .ite (.refl n s) (askRow_goesOn b rcd _)

/-- Nothing ends the command: its record is here, its windows are open to it, and it meets no failure. -/
structure Comp.Live (v : Comp) : Prop where
  record : ∃ rcd, v.record = some rcd
  kill : v.kill = false
  fence : v.fence = false
  fail : v.fail = none
  broken : v.broken = false
  pre : v.pre = false

theorem Comp.Grows.live {v w : Comp} (h : v.Grows w) (hv : v.Live) : w.Live := by
  obtain ⟨⟨rcd, hrec⟩, hkill, hfence, hfail, hbroken, hpre⟩ := hv
  exact ⟨⟨rcd, (congrArg Comp.record h.course :).trans hrec⟩, (congrArg Comp.kill h.course :).trans hkill,
    (congrArg Comp.fence h.course :).trans hfence, (congrArg Comp.fail h.course :).trans hfail,
    (congrArg Comp.broken h.course :).trans hbroken, (congrArg Comp.pre h.course :).trans hpre⟩

/-- A live command goes on to `t`, or to a state whose settling is `t`. -/
def State.Advances (n : Nat) (s t : State) : Prop := ∃ u, State.GoesOn n s u ∧ (t = u ∨ t = u.compSettle n)

theorem State.GoesOn.advances (h : State.GoesOn n s t) : State.Advances n s t := ⟨t, h, .inl rfl⟩

theorem State.GoesOn.settled (h : State.GoesOn n s t) : State.Advances n s (t.compSettle n) := ⟨t, h, .inr rfl⟩

theorem State.Advances.ite {c : Prop} [Decidable c] (ht : State.Advances n s t) (hu : State.Advances n s u) :
    State.Advances n s (if c then t else u) := by
  split <;> assumption

theorem compAdvance_of_live (h : (s.comp n).Live) : State.Advances n s (s.compAdvance n) := by
  obtain ⟨⟨rcd, hrec⟩, hkill, hfence, hfail, hbroken, hpre⟩ := h
  rw [State.compAdvance]
  dsimp only
  rw [hrec]
  dsimp only
  rw [hkill, hfence, hfail]
  simp only [Bool.or_self, Bool.false_eq_true, if_false]
  generalize hx : (if (s.comp n).nidx ≤ (s.comp n).wstart then s.askStreams n else
    State.admitAll n (s.compSlug n) rcd ((s.comp n).nidx + 2) (s.askStreams n)) = x
  have hsx : State.GoesOn n s x := hx ▸ .ite askStreams_goesOn (askStreams_goesOn.trans (admitAll_goesOn _ _ _ _))
  have hxpre : (x.comp n).pre = false := (congrArg Comp.pre hsx.grows.course :).trans hpre
  simp only [if_neg (show ¬ (x.comp n).pre = true from by simp [hxpre])]
  have hrows : State.GoesOn n s (((x.comp n).dists.filter fun d => d.place != .absent && !d.read).foldl
      (fun u d => u.askRow n (s.compSlug n) rcd d) x) := hsx.trans (.foldl (fun _ _ => askRow_goesOn _ _ _) _ _)
  refine .ite hsx.settled (.ite ?_ (.ite (.ite ?_ (.ite ?_ ?_)) ?_))
  · refine (State.GoesOn.trans ?_ (.foldl (fun _ _ => compRead_goesOn _ _ _ _) _ _)).advances
    refine hsx.trans (.setComp (.of_map (g := fun d => if d.place == .wait then { d with asked := true } else d) rfl rfl rfl fun d => ?_))
    split <;> exact ⟨rfl, rfl⟩
  · exact (hsx.trans (.ite (.refl n x) (nextRow_goesOn _ _))).settled
  · exact hsx.advances
  · exact (hsx.trans (.foldl (fun _ _ => compRead_goesOn _ _ _ _) _ _)).advances
  · have hnot := (congrArg Comp.broken hrows.grows.course).trans hbroken
    simp only [Comp.course] at hnot
    rw [hnot, Bool.false_and, if_neg Bool.false_ne_true]
    exact hrows.settled

/-- Outside the count of R226 a command's run is one advance. -/
theorem compGo_of_not_pre (h : (s.comp n).pre = false) : s.compGo n = s.compAdvance n := by
  rw [State.compGo, State.compRun]
  simp only [h, Bool.false_and, Bool.false_eq_true, if_false]

theorem compGo_of_live (h : (s.comp n).Live) : State.Advances n s (s.compGo n) := compGo_of_not_pre h.pre ▸ compAdvance_of_live h

end Sys2Proof.Machine
end

section
/-! SUPPORT. A command that settles keeps what its compositor has counted and placed, and the lookups of every partition (R218, R460). -/

namespace Sys2Proof.Machine

open Sys2Proof

set_option Elab.async false

variable {s t u : State} {n : Nat}

/-- Settling from `s` to `t`: windows counted and rows held by compositor `n` stay, and so do the other compositors and the LOOKUPS counters. -/
structure State.Settles (n : Nat) (s t : State) : Prop where
  wins : (t.comp n).wins = (s.comp n).wins
  dists : (t.comp n).dists = (s.comp n).dists
  others : ∀ k, k ≠ n → t.comp k = s.comp k
  lookups : ∀ p, t.obs.pcnt.get 0 (8 * p + 3) = s.obs.pcnt.get 0 (8 * p + 3)

namespace State.Settles

theorem refl (n : Nat) (s : State) : State.Settles n s s := ⟨rfl, rfl, fun _ _ => rfl, fun _ => rfl⟩

theorem trans (h : State.Settles n s t) (k : State.Settles n t u) : State.Settles n s u :=
  ⟨k.wins.trans h.wins, k.dists.trans h.dists, fun j hj => (k.others j hj).trans (h.others j hj), fun p => (k.lookups p).trans (h.lookups p)⟩

theorem of_eq (hc : t.cmp = s.cmp) (hl : ∀ p, t.obs.pcnt.get 0 (8 * p + 3) = s.obs.pcnt.get 0 (8 * p + 3)) : State.Settles n s t :=
  ⟨by rw [comp_of_cmp hc], by rw [comp_of_cmp hc], fun k _ => comp_of_cmp hc k, hl⟩

theorem of_only {ps : List Piece} (h : s.only ps t) (hps : Piece.cmp ∉ ps ∧ Piece.obs ∉ ps := by decide) : State.Settles n s t :=
  of_eq (h .cmp hps.1) fun _ => by rw [show t.obs = s.obs from h .obs hps.2]

theorem setComp {w : Comp} (hw : w.wins = (s.comp n).wins) (hd : w.dists = (s.comp n).dists) : State.Settles n s (s.setComp n w) :=
  ⟨by rw [comp_setComp_same, hw], by rw [comp_setComp_same, hd], fun _ hk => comp_setComp_ne w hk, fun _ => rfl⟩

theorem ite {c : Prop} [Decidable c] (ht : State.Settles n s t) (hu : State.Settles n s u) : State.Settles n s (if c then t else u) := by
  split <;> assumption

end State.Settles

theorem addTrace_settles (p : Nat) (b : Bytes) (stamp : Bool) : State.Settles n s (s.addTrace p b stamp) := by
  refine .of_eq ((State.addTrace_only (ps := [.obs]) _ _ _ _ (only_refl _ s)) Piece.cmp (by decide)) fun _ => ?_
  unfold State.addTrace
  split
  · rfl
  · dsimp only
    split <;> rfl

theorem pcntAdd_settles (p k : Nat) {i : Nat} (hi : i < 3) : State.Settles n s (s.pcntAdd p i k) := by
  refine .of_eq ((State.pcntAdd_only (ps := [.obs]) _ _ _ _ (only_refl _ s)) Piece.cmp (by decide)) fun q => ?_
  rw [State.pcntAdd]
  split
  · exact (Tbl.get_set _ _ _ _ _).trans (if_neg (by omega))
  · rfl

theorem noteEnd_settles (c : Cmd) (q st k : Nat) : State.Settles n s (s.noteEnd c q st k) := by
  unfold State.noteEnd
  extract_lets s1 s2
  have h2 : State.Settles n s s2 := (addTrace_settles _ _ _).trans (pcntAdd_settles _ _ (i := 0) (by decide))
  exact (State.Settles.ite h2 (h2.trans (pcntAdd_settles _ _ (i := 1) (by decide)))).trans
    (.of_only (ps := [.rcd]) (State.metric_only _ _ _ _ _ _ _ (only_refl _ _)))

theorem endCmd_settles (q : Nat) (pos : BitVec 16) (st fl res : Nat) (d : Bytes) (k : Nat) :
    State.Settles n s (s.endCmd q pos st fl res d k) := by
  cases h : s.cmd? q pos with
  | none => simpa only [State.endCmd, h] using State.Settles.refl n s
  | some c =>
    cases ha : c.aborted with
    | true =>
      simp only [State.endCmd, h, ha, if_true]
      exact (addTrace_settles _ _ _).trans (.of_eq rfl fun _ => rfl)
    | false =>
      simp only [State.endCmd, h, ha, Bool.false_eq_true, if_false]
      exact (noteEnd_settles c q st k).trans (.of_eq rfl fun _ => rfl)

theorem freeComp_settles : State.Settles n s (s.freeComp n) := .setComp rfl rfl

theorem compEnd_settles : State.Settles n s (s.compEnd n) := by
  unfold State.compEnd
  extract_lets v b done status f detail residue s1 flags
  have hset : State.Settles n s (s.setComp n { v with done := done }) := .setComp rfl rfl
  have h1 : State.Settles n s s1 := (hset.trans (.of_only (ps := [.epo]) (State.unpin_only _ _ _ (only_refl _ _)))).trans
    (.of_only (ps := [.lka]) (State.discard_only _ _ _ _ _ (only_refl _ _)))
  exact (h1.trans (endCmd_settles _ _ _ _ _ _ _)).trans freeComp_settles

theorem compSettle_settles : State.Settles n s (s.compSettle n) := by
  rw [State.compSettle]
  refine .ite (.refl n s) (.ite (.ite ?_ (.refl n s)) (.ite (.ite compEnd_settles (.refl n s)) (.ite compEnd_settles (.ite (.setComp rfl rfl) (.refl n s)))))
  have hpin : State.Settles n s (s.unpin (s.comp n).table (s.comp n).slotB) := .of_only (ps := [.epo]) (State.unpin_only _ _ _ (only_refl _ s))
  exact (hpin.trans (endCmd_settles _ _ _ _ _ _ _)).trans freeComp_settles

/-- With occurrences left to admit nothing settles. -/
theorem compSettle_of_open (h : (s.comp n).Live) (hopen : (s.comp n).wstart < (s.comp n).nidx) : s.compSettle n = s := by
  obtain ⟨⟨rcd, hr⟩, hkill, hfence, hfail, -, -⟩ := h
  have hnot : decide ((s.comp n).nidx ≤ (s.comp n).wstart) = false := decide_eq_false (Nat.not_le.mpr hopen)
  rw [State.compSettle]
  simp only [hr, hkill, hfence, hfail, hnot, Bool.and_false, Bool.false_and, Bool.false_eq_true, if_false, ite_self]

/-- A live command that advances keeps its windows and the counters; with occurrences left, its course too. -/
theorem State.Advances.spec (h : State.Advances n s t) (hlive : (s.comp n).Live) :
    (t.comp n).wins = (s.comp n).wins ∧ (∀ k, k ≠ n → t.comp k = s.comp k) ∧
      (∀ p, t.obs.pcnt.get 0 (8 * p + 3) = s.obs.pcnt.get 0 (8 * p + 3)) ∧
      ((s.comp n).wstart < (s.comp n).nidx → State.GoesOn n s t) := by
  obtain ⟨u, hu, rfl | rfl⟩ := h
  · exact ⟨(congrArg Comp.wins hu.grows.course :), hu.others, fun _ => by rw [hu.obs], fun _ => hu⟩
  · have hset : State.Settles n u (u.compSettle n) := compSettle_settles
    refine ⟨hset.wins.trans (congrArg Comp.wins hu.grows.course :), fun k hk => (hset.others k hk).trans (hu.others k hk),
      fun p => (hset.lookups p).trans (by rw [hu.obs]), fun hopen => ?_⟩
    have hstart : (u.comp n).wstart = (s.comp n).wstart := (congrArg Comp.wstart hu.grows.course :)
    have hnidx : (u.comp n).nidx = (s.comp n).nidx := (congrArg Comp.nidx hu.grows.course :)
    rw [compSettle_of_open (hu.grows.live hlive) (by rw [hstart, hnidx]; exact hopen)]
    exact hu

end Sys2Proof.Machine
end

section
/-! SUPPORT. A window closes (R218): it is noted, and its command goes on. -/

namespace Sys2Proof.Machine

open Sys2Proof

set_option Elab.async false

variable {s t u : State} {n : Nat}

theorem composing_live {c : Cmd} {rcd : Bytes} (h : s.composing n c rcd) : (s.comp n).Live ∧ (s.comp n).wstart < (s.comp n).nidx := by
  obtain ⟨-, -, -, -, hrec, hkill, hfence, hfail, hbroken, hpre, hopen⟩ := h
  exact ⟨⟨⟨rcd, hrec⟩, hkill, hfence, hfail, hbroken, hpre⟩, hopen⟩

theorem composing_running {c : Cmd} {rcd : Bytes} (h : s.composing n c rcd) : (s.comp n).st = .running := by
  obtain ⟨-, -, -, hst, -⟩ := h
  exact hst

theorem composing_slug {c : Cmd} {rcd : Bytes} (h : s.composing n c rcd) : s.compSlug n = c.slug := by
  obtain ⟨-, hcmd, -⟩ := h
  rw [State.compSlug, hcmd]
  rfl

/-- What watches a window sees it close: the trackers, the partition's LOOKUPS counter and the bandwidth meters. -/
def State.noteWindow (s : State) (v : Comp) : State :=
  (v.dists.filter fun d => d.place != .absent).foldl (fun s d => s.meterLook v.part d.place.meter (v.multiplicity d.idx))
    ((s.trackWindow v).pcntAdd v.part 3 v.winLooks)

/-- The compositor once its window has closed. -/
def Comp.closed (v : Comp) (b : Bytes) : Comp :=
  let hits := v.dists.filter fun d => d.place != .absent
  let multi := gScatter b && hits.any fun d => v.seen.contains d.idx
  { v.leaveWindow with
    wins := v.wins + 1, look := v.look + v.winLooks, ngrp := v.ngrp + v.winGroups,
    seen := if gScatter b then (v.seen ++ hits.map (·.idx)).eraseDups else v.seen,
    flags := v.flags ||| (if multi then 0x40 else 0) }

theorem execWindowClose_of {c : Cmd} {rcd : Bytes} {n : Fin 16} (h : s.composing n.val c rcd) (hdone : (s.comp n.val).winDone = true)
    (hadm : (s.comp n.val).wstart < (s.comp n.val).adm) :
    exec (.windowClose n) s =
      .next (((s.noteWindow (s.comp n.val)).setComp n.val ((s.comp n.val).closed (s.compSlug n.val))).compGo n.val) := by
  obtain ⟨hrun, hcmd, -, -, hrec, hkill, hfence, hfail, -, hpre, -⟩ := h
  show execWindowClose n s = _
  rw [execWindowClose, gated_of hrun]
  dsimp only
  rw [if_pos (by simp only [hcmd, hrec, hkill, hfence, hfail, hpre, hdone, hadm, Option.isSome_some, Bool.not_false, decide_true, Bool.and_self])]
  rfl

/-! ### What is noted touches no compositor -/

theorem foldl_comp {α : Type} {g : State → α → State} (hg : ∀ (s : State) a, (g s a).cmp.comp = s.cmp.comp) (l : List α) (s : State) :
    (l.foldl g s).cmp.comp = s.cmp.comp := by
  induction l generalizing s with
  | nil => rfl
  | cons a r ih => exact (ih _).trans (hg s a)

theorem trackWindow_comp (v : Comp) : (s.trackWindow v).cmp.comp = s.cmp.comp := by
  rw [State.trackWindow]
  refine foldl_comp (fun s k => ?_) _ _
  dsimp only
  split <;> rfl

theorem meterLook_comp (p : Nat) (m : Option Nat) (k : Nat) : (s.meterLook p m k).cmp.comp = s.cmp.comp := by
  unfold State.meterLook
  split
  · split <;> rfl
  · rfl

theorem pcntAdd_comp (p i k : Nat) : (s.pcntAdd p i k).cmp = s.cmp :=
  (State.pcntAdd_only (ps := [.obs]) _ _ _ _ (only_refl _ s)) Piece.cmp (by decide)

theorem noteWindow_comp (v : Comp) (k : Nat) : (s.noteWindow v).comp k = s.comp k := by
  have h : (s.noteWindow v).cmp.comp = s.cmp.comp := by
    rw [State.noteWindow, foldl_comp (fun _ _ => meterLook_comp _ _ _), pcntAdd_comp, trackWindow_comp]
  simp only [State.comp, h]

theorem noteWindow_only (v : Comp) : s.only [.cmp, .obs] (s.noteWindow v) :=
  only_foldl _ (fun _ _ h => State.meterLook_only _ _ _ _ h) _ _
    (State.pcntAdd_only _ _ _ _ (State.trackWindow_only _ _ (only_refl _ s)))

/-- R460: the LOOKUPS counter rises by the lookups of the window. -/
theorem noteWindow_lookups (v : Comp) (h : s.serving 0xC 0 = true) :
    (s.noteWindow v).obs.pcnt.get 0 (8 * v.part + 3) = s.obs.pcnt.get 0 (8 * v.part + 3) + BitVec.ofNat 48 v.winLooks := by
  have htrack : s.only [.cmp] (s.trackWindow v) := State.trackWindow_only _ _ (only_refl _ s)
  have hmeter : ((s.trackWindow v).pcntAdd v.part 3 v.winLooks).only [.cmp] (s.noteWindow v) :=
    only_foldl _ (fun _ _ h => State.meterLook_only _ _ _ _ h) _ _ (only_refl _ _)
  have hserve : (s.trackWindow v).serving 0xC 0 = true := by
    rw [← h]
    simp only [State.serving, State.unit, show (s.trackWindow v).aon = s.aon from htrack .aon (by decide)]
  rw [show (s.noteWindow v).obs = _ from hmeter .obs (by decide), State.pcntAdd, if_pos hserve,
    show (s.trackWindow v).obs = s.obs from htrack .obs (by decide)]
  exact (Tbl.get_set _ _ _ _ _).trans (if_pos rfl)

/-! ### And the command goes on -/

theorem Comp.Live.closed {v : Comp} (h : v.Live) (b : Bytes) : (v.closed b).Live :=
  ⟨h.record, h.kill, h.fence, h.fail, rfl, h.pre⟩

theorem windowClose_spec {c : Cmd} {rcd : Bytes} {n : Fin 16} (h : s.composing n.val c rcd) (hdone : (s.comp n.val).winDone = true)
    (hadm : (s.comp n.val).wstart < (s.comp n.val).adm) (hserve : s.serving 0xC 0 = true) :
    ∃ t, exec (.windowClose n) s = .next t ∧ (t.comp n.val).wins = (s.comp n.val).wins + 1 ∧
      t.obs.pcnt.get 0 (8 * (s.comp n.val).part + 3) = s.obs.pcnt.get 0 (8 * (s.comp n.val).part + 3) + BitVec.ofNat 48 (s.comp n.val).winLooks ∧
      ((s.comp n.val).adm < (s.comp n.val).nidx → (t.comp n.val).wstart = (s.comp n.val).adm ∧
        (t.comp n.val).look = (s.comp n.val).look + (s.comp n.val).winLooks ∧
        (t.comp n.val).ngrp = (s.comp n.val).ngrp + (s.comp n.val).winGroups ∧ (t.comp n.val).st = .running) ∧
      (∀ k, k ≠ n.val → t.comp k = s.comp k) ∧ s.only [.reqs, .nextId, .gal, .epo, .cmp, .lka, .obs, .rcd] t := by
  have hst := composing_running h
  have hlive := (composing_live h).1.closed (s.compSlug n.val)
  refine ⟨_, execWindowClose_of h hdone hadm, ?_⟩
  generalize hw : (s.comp n.val).closed (s.compSlug n.val) = w at hlive ⊢
  generalize hu : (s.noteWindow (s.comp n.val)).setComp n.val w = u
  have hcomp : u.comp n.val = w := by rw [← hu, comp_setComp_same]
  have hothers : ∀ k, k ≠ n.val → u.comp k = s.comp k := fun k hk => by rw [← hu, comp_setComp_ne w hk, noteWindow_comp]
  have hobs : u.obs = (s.noteWindow (s.comp n.val)).obs := by rw [← hu]; rfl
  have hframe : s.only [.cmp, .obs] u := hu ▸ State.setComp_only _ _ _ (noteWindow_only _)
  rw [← hcomp] at hlive
  obtain ⟨hwins, hoth, hlook, hgo⟩ := (compGo_of_live hlive).spec hlive
  refine ⟨by rw [hwins, hcomp, ← hw]; rfl, by rw [hlook, hobs, noteWindow_lookups _ hserve], fun hmore => ?_,
    fun k hk => (hoth k hk).trans (hothers k hk), State.compGo_only _ _ (hframe.of_mem (by decide))⟩
  rw [hcomp, ← hw] at hgo
  have hcourse := (hgo hmore).grows.course
  rw [hcomp, ← hw] at hcourse
  exact ⟨(congrArg Comp.wstart hcourse :), (congrArg Comp.look hcourse :), (congrArg Comp.ngrp hcourse :), (congrArg Comp.st hcourse :).trans hst⟩

end Sys2Proof.Machine
end

section
/-! SUPPORT. The row of a SCATTER whose turn it is (R226 to R228): skipped, or written where it was read (R154). -/

namespace Sys2Proof.Machine

open Sys2Proof

set_option Elab.async false

variable {s t u : State} {n : Nat}

/-- The step of a row: its new bytes, or none where a value is not finite (R227). -/
def Comp.rowStep (v : Comp) (b rcd : Bytes) (d : Dist) (seg : Nat) : Option Bytes :=
  let x := slugExtn b 1
  let f := fun off => fp32.value (numAt x off 4)
  optStep (gOpt b) (segFmt rcd seg) (recElem rcd) (f 44) (f 48) (f 52) (gradOf (v.poolGrads b rcd) b rcd d.idx) d.row

/-- The compositor with the row's sums looked at: one that left the range sets its flag. -/
def Comp.summed (v : Comp) (b rcd : Bytes) (d : Dist) : Comp :=
  let ovr := ((v.poolGrads b rcd).accs d.idx (recElem rcd)).any (·.overflow)
  { v with flags := v.flags ||| (if ovr then 2 else 0) }

/-- And with the row skipped: NANSKIP, and the row's progress mark. -/
def Comp.skipped (v : Comp) (b rcd : Bytes) (d : Dist) : Comp :=
  { v.summed b rcd d with flags := (v.summed b rcd d).flags ||| 0x20 }.mark d.idx

/-- Or with its write out. -/
def Comp.updating (v : Comp) (b rcd : Bytes) (d : Dist) : Comp :=
  (v.summed b rcd d).setDist d.idx fun d => { d with upd := true }

section
variable {b rcd : Bytes} {d : Dist} {seg va : Nat}

theorem updateRow_skip (hd : d.home rcd = some (seg, va)) (h : (s.comp n).rowStep b rcd d seg = none) :
    s.updateRow n b rcd d = (s.setComp n ((s.comp n).skipped b rcd d)).compGo n := by
  rw [Comp.rowStep] at h
  simp only [State.updateRow, hd, h]
  rfl

theorem updateRow_write (hd : d.home rcd = some (seg, va)) {new : Bytes} (h : (s.comp n).rowStep b rcd d seg = some new) :
    s.updateRow n b rcd d = (s.setComp n ((s.comp n).updating b rcd d)).rowWrites n d va new
      (optWrites (gOpt b) (segFmt rcd seg) (recElem rcd)) := by
  rw [Comp.rowStep] at h
  simp only [State.updateRow, hd, h]
  rfl

end

theorem execScatterRowUpdate_of {c : Cmd} {rcd : Bytes} {n : Fin 16} {d : Dist} (h : s.composing n.val c rcd) (hsc : gScatter c.slug = true)
    (hd : (s.comp n.val).rowDue = some d) : exec (.scatterRowUpdate n) s = .next (s.updateRow n.val c.slug rcd d) := by
  have hslug := composing_slug h
  obtain ⟨hrun, hcmd, -, -, hrec, hkill, hfence, hfail, -, -, -⟩ := h
  show execScatterRowUpdate n s = _
  rw [execScatterRowUpdate, gated_of hrun]
  simp only [hslug, hcmd, hsc, hrec, hkill, hfence, hfail, hd, Option.isSome_some, Option.isNone_none, Bool.not_false, Bool.and_self]

theorem rowDue_mem {v : Comp} {d : Dist} (h : v.rowDue = some d) : d ∈ v.dists := by
  rw [Comp.rowDue, Option.filter_eq_some_iff] at h
  exact List.mem_of_find?_eq_some h.1

theorem mem_setDist {v : Comp} {d : Dist} (h : d ∈ v.dists) (f : Dist → Dist) : f d ∈ (v.setDist d.idx f).dists := by
  refine List.mem_map.mpr ⟨d, h, ?_⟩
  rw [if_pos (beq_self_eq_true _)]

/-! ### A row that is skipped -/

theorem Comp.Live.skipped {v : Comp} (h : v.Live) (b rcd : Bytes) (d : Dist) : (v.skipped b rcd d).Live :=
  ⟨h.record, h.kill, h.fence, h.fail, h.broken, h.pre⟩

/-- R227: the row is skipped, NANSKIP is set, and the row has its progress mark. -/
theorem scatterRowUpdate_skip {c : Cmd} {rcd : Bytes} {n : Fin 16} {d : Dist} {seg va : Nat} (h : s.composing n.val c rcd)
    (hsc : gScatter c.slug = true) (hdue : (s.comp n.val).rowDue = some d) (hd : d.home rcd = some (seg, va))
    (hstep : (s.comp n.val).rowStep c.slug rcd d seg = none) :
    ∃ t, exec (.scatterRowUpdate n) s = .next t ∧ (t.comp n.val).flags.getLsbD 5 = true ∧
      (∃ w ∈ (t.comp n.val).dists, w.idx = d.idx ∧ w.got = true) ∧ t.mem = s.mem ∧ (∀ k, k ≠ n.val → t.comp k = s.comp k) := by
  refine ⟨_, execScatterRowUpdate_of h hsc hdue, ?_⟩
  rw [updateRow_skip hd hstep]
  obtain ⟨hlive, hopen⟩ := composing_live h
  have hmark : { d with got := true, upd := false, told := false } ∈ ((s.comp n.val).skipped c.slug rcd d).dists :=
    mem_setDist (rowDue_mem hdue) fun d => { d with got := true, upd := false, told := false }
  have hflag : ((s.comp n.val).skipped c.slug rcd d).flags.getLsbD 5 = true := by
    simp [Comp.skipped, Comp.mark, Comp.setDist]
  have hmem := fun u : State => (State.compGo_only (ps := [.reqs, .nextId, .gal, .epo, .cmp, .lka, .obs, .rcd]) u n.val (only_refl _ u)) Piece.mem
    (by decide)
  generalize hu : s.setComp n.val ((s.comp n.val).skipped c.slug rcd d) = u
  have hcomp : u.comp n.val = (s.comp n.val).skipped c.slug rcd d := by rw [← hu, comp_setComp_same]
  have hulive : (u.comp n.val).Live := hcomp ▸ hlive.skipped c.slug rcd d
  obtain ⟨-, hoth, -, hgo⟩ := (compGo_of_live hulive).spec hulive
  have hgo := hgo (by rw [hcomp]; exact hopen)
  obtain ⟨e, he, hidx, hgot⟩ := hgo.grows.dists _ (hcomp ▸ hmark)
  exact ⟨hgo.grows.flags 5 (hcomp ▸ hflag), ⟨e, he, hidx, hgot⟩, (hmem u).trans (by rw [← hu]; rfl),
    fun k hk => (hoth k hk).trans (by rw [← hu, comp_setComp_ne _ hk])⟩

end Sys2Proof.Machine
end

section
/-! SUPPORT. The writes of an updated row as they are issued (R154, R228). -/

namespace Sys2Proof.Machine

open Sys2Proof

set_option Elab.async false

variable {s t u : State} {n : Nat}

/-! ### One device write -/

/-- The write of part `x` of row `d`, as it is made. -/
def State.rowWrite (s : State) (n : Nat) (d : Dist) (va : Nat) (new : Bytes) (en : Nat → Bool) (x : Nat × Nat × Out) : Req :=
  { id := s.nextId, owner := .cmpUpdate n d.idx, src := BitVec.ofNat 9 (0x150 + n), part := (s.comp n).part,
    ctx := 64 * (s.comp n).part + (s.queue (s.comp n).queue).ctx.toNat, va := (va + x.1) % 2 ^ 57, len := x.2.1, acc := .write,
    data := slice new x.1 x.2.1, en := (List.range x.2.1).map fun i => en (x.1 + i), st := .held, replay := none, phys := false }

/-- A request made, with the number that is next. -/
def State.making (s : State) (r : Req) : State := { s with nextId := s.nextId + 1, reqs := s.reqs ++ [r] }

theorem making_only (r : Req) : s.only [.reqs, .nextId] (s.making r) :=
  (only_reqs_nextId _ _ _ _ _ (by decide) (by decide)).mpr (only_refl _ s)

theorem rowWrites_single {d : Dist} {va : Nat} {new : Bytes} {en : Nat → Bool} {x : Nat × Nat × Out} (hd : d.outs = [x])
    (hen : ((List.range x.2.1).map fun i => en (x.1 + i)).any id = true) :
    s.rowWrites n d va new en =
      (s.making (s.rowWrite n d va new en x)).tryIssue (s.rowWrite n d va new en x) x.2.2 := by
  rw [State.rowWrites, hd]
  simp only [List.foldl_cons, List.foldl_nil, hen, Bool.not_true, Bool.false_eq_true, if_false]
  rfl

theorem spent_of_unlimited {p : Nat} (h : s.unlimited p = true) : s.spent p = false := by
  simp only [State.unlimited] at h
  simp only [State.spent, bne, h, Bool.not_true, Bool.false_and]

theorem compUnstall_of_not_stalled (h : (s.comp n).st ≠ .stalled) : s.compUnstall n = s := by
  simp only [State.compUnstall, h, false_and, if_false]

section
variable {r : Req} {i a : Nat} (ho : r.owner = .cmpUpdate n i)
include ho

theorem issuedHook_of_update (hr : r.replay = none) : s.issuedHook r = s.compUnstall n := by
  simp only [State.issuedHook, State.replayed, hr, ho, Owner.comp?]

/-- The request as it stands once it is sent to the host, or issued elsewhere. -/
def State.handOut (s : State) (r : Req) (o : Out) (at_ : Nat) : State :=
  match o with
  | .host h tr => s.sendHost { r with at_ := at_ } h tr
  | _ => s.setReq { r with st := .issued o, at_ := at_ }

theorem issueTo_of_update (o : Out) :
    s.issueTo r o = ((s.chargeTo r.part (granules (outKind o).2 r.len).length).handOut r o s.now).issuedHook r := by
  unfold State.issueTo State.handOut
  dsimp only
  generalize s.chargeTo r.part (granules (outKind o).2 r.len).length = c
  rw [ho] <;> cases o <;> rfl

/-- A write to device memory that nothing holds back is issued. -/
theorem tryIssue_dev (hr : r.replay = none) (hu : s.unlimited r.part = true) (hoff : s.anyOff a r.len = false) (hst : (s.comp n).st ≠ .stalled) :
    s.tryIssue r (.dev a) = (s.chargeTo r.part (granules a r.len).length).setReq { r with st := .issued (.dev a), at_ := s.now } := by
  have hready : s.groupReady r = true := by simp only [State.groupReady, Req.grouped, ho, Bool.not_false, Bool.true_or]
  rw [State.tryIssue]
  simp only [State.hostBarred, State.tagHeld, State.tileIsOff, hready, spent_of_unlimited hu, hoff, Bool.and_false, Bool.or_self, Bool.not_true,
    Bool.false_eq_true, if_false]
  have hcharge : s.only [.prt, .obs] (s.chargeTo r.part (granules a r.len).length) := State.chargeTo_only _ _ _ (only_refl _ s)
  rw [issueTo_of_update ho, issuedHook_of_update ho hr]
  refine compUnstall_of_not_stalled ?_
  show (State.comp (s.chargeTo r.part (granules a r.len).length) n).st ≠ .stalled
  rw [comp_of_cmp (hcharge .cmp (by decide)) n]
  exact hst

end

/-- The request made last is the one that is rewritten. -/
theorem map_setReq_appended {l : List Req} {r w : Req} (hf : ∀ x ∈ l, x.id ≠ r.id) (hw : w.id = r.id) :
    (l ++ [r]).map (fun x => if x.id == w.id then w else x) = l ++ [w] := by
  have hsame : ∀ x ∈ l, (if x.id == w.id then w else x) = x := fun x hx => if_neg (by rw [hw]; simpa using hf x hx)
  rw [List.map_append, List.map_congr_left hsame]
  simp [hw]

theorem mem_updating {v : Comp} {d : Dist} (h : v.rowDue = some d) (b rcd : Bytes) :
    { d with upd := true } ∈ (v.updating b rcd d).dists :=
  mem_setDist (v := v.summed b rcd d) (rowDue_mem h) fun d => { d with upd := true }

/-- The write of the one part of a row, once it is issued. -/
def State.rowIssued (s : State) (n : Nat) (d : Dist) (va : Nat) (new : Bytes) (en : Nat → Bool) (len a : Nat) : Req :=
  { s.rowWrite n d va new en (0, len, .dev a) with st := .issued (.dev a), at_ := s.now }

/-- R154: a row read by one device request is written by one, where it was read. -/
theorem rowWrites_dev {d : Dist} {va : Nat} {new : Bytes} {en : Nat → Bool} {len a : Nat} (hd : d.outs = [(0, len, .dev a)])
    (hen : (List.range len).any en = true) (hu : s.unlimited (s.comp n).part = true) (hoff : s.anyOff a len = false)
    (hst : (s.comp n).st ≠ .stalled) (hf : s.fresh) :
    (s.rowWrites n d va new en).reqs = s.reqs ++ [s.rowIssued n d va new en len a] ∧
      (s.rowWrites n d va new en).cmp = s.cmp ∧ s.only [.reqs, .nextId, .prt, .obs] (s.rowWrites n d va new en) := by
  have hbits : ((List.range len).map fun i => en (0 + i)).any id = true := by
    rw [List.any_map]
    simpa only [Nat.zero_add, Function.comp_def, id] using hen
  rw [rowWrites_single hd hbits, State.rowIssued]
  generalize hr : s.rowWrite n d va new en (0, len, .dev a) = r
  have hid : r.id = s.nextId := hr ▸ rfl
  have hlen : r.len = len := hr ▸ rfl
  have hpart : r.part = (s.comp n).part := hr ▸ rfl
  have hfresh : ∀ x ∈ s.reqs, x.id ≠ r.id := fun x hx => hid ▸ Nat.ne_of_lt (hf x (List.mem_append_left _ hx))
  rw [tryIssue_dev (s := s.making r) (n := n) (i := d.idx) (hr ▸ rfl) (hr ▸ rfl) (hpart ▸ hu) (hlen ▸ hoff) hst]
  have hcharge : (s.making r).only [.prt, .obs] ((s.making r).chargeTo r.part (granules a r.len).length) :=
    State.chargeTo_only _ _ _ (only_refl _ _)
  generalize (s.making r).chargeTo r.part (granules a r.len).length = c at hcharge
  refine ⟨?_, hcharge .cmp (by decide), State.setReq_only _ _ (((making_only r).of_mem (by decide)).trans (hcharge.of_mem (by decide)))⟩
  rw [State.setReq, show c.reqs = s.reqs ++ [r] from hcharge .reqs (by decide)]
  exact map_setReq_appended hfresh rfl

theorem scatterRowUpdate_dev {c : Cmd} {rcd : Bytes} {n : Fin 16} {d : Dist} {seg va : Nat} (h : s.composing n.val c rcd)
    (hsc : gScatter c.slug = true) (hdue : (s.comp n.val).rowDue = some d) (hd : d.home rcd = some (seg, va)) {new : Bytes} {a len : Nat}
    (hstep : (s.comp n.val).rowStep c.slug rcd d seg = some new) (houts : d.outs = [(0, len, .dev a)])
    (hen : (List.range len).any (optWrites (gOpt c.slug) (segFmt rcd seg) (recElem rcd)) = true)
    (hu : s.unlimited (s.comp n.val).part = true) (hoff : s.anyOff a len = false) (hf : s.fresh) :
    ∃ t r, exec (.scatterRowUpdate n) s = .next t ∧ t.reqs = s.reqs ++ [r] ∧ r.owner = .cmpUpdate n.val d.idx ∧ r.acc = .write ∧
      r.st = .issued (.dev a) ∧ r.va = va % 2 ^ 57 ∧ r.len = len ∧ r.data = slice new 0 len ∧
      r.en = (List.range len).map (fun i => optWrites (gOpt c.slug) (segFmt rcd seg) (recElem rcd) (0 + i)) ∧
      (∃ w ∈ (t.comp n.val).dists, w.idx = d.idx ∧ w.upd = true ∧ w.got = d.got) ∧
      (∀ k, k ≠ n.val → t.comp k = s.comp k) ∧ s.only [.reqs, .nextId, .cmp, .prt, .obs] t := by
  have hst : (s.comp n.val).st ≠ .stalled := by
    rw [composing_running h]
    exact nofun
  generalize hv : (s.comp n.val).updating c.slug rcd d = v
  have hmem : { d with upd := true } ∈ v.dists := hv ▸ mem_updating hdue c.slug rcd
  have hcomp : (s.setComp n.val v).comp n.val = v := comp_setComp_same v
  have hset : s.only [.cmp] (s.setComp n.val v) := State.setComp_only _ _ _ (only_refl _ s)
  obtain ⟨hreqs, hcmp, honly⟩ := rowWrites_dev (s := s.setComp n.val v) (n := n.val) (va := va) (new := new) houts hen
    (by rw [hcomp, ← hv]; exact hu) hoff (by rw [hcomp, ← hv]; exact hst) hf
  refine ⟨_, _, (execScatterRowUpdate_of h hsc hdue).trans (by rw [updateRow_write hd hstep, hv]), hreqs, rfl, rfl, rfl, rfl, rfl, rfl, rfl,
    ⟨{ d with upd := true }, ?_, rfl, rfl, rfl⟩, fun k hk => ?_, (hset.of_mem (by decide)).trans (honly.of_mem (by decide))⟩
  · rw [comp_of_cmp hcmp, hcomp]
    exact hmem
  · rw [comp_of_cmp hcmp, comp_setComp_ne v hk]

end Sys2Proof.Machine
end

section
/-! SUPPORT. Whatever comes of a row's writes as they are issued, the row stays noted as written (R154, R227). -/

namespace Sys2Proof.Machine

open Sys2Proof

set_option Elab.async false

variable {s t u : State} {n : Nat} {d : Dist}

/-- Row `d` of compositor `n` is noted as written; the compositor waits for no fault, and its command, while it has one, is a SCATTER. -/
structure State.Updating (n : Nat) (d : Dist) (s : State) : Prop where
  row : ∃ w ∈ (s.comp n).dists, w.idx = d.idx ∧ w.upd = true ∧ w.got = d.got
  st : (s.comp n).st ≠ .stalled
  scatter : (s.comp n).record = none ∨ gScatter (s.compSlug n) = true

/-- The slug of a compositor's command is found by its queue and position. -/
theorem compSlug_of (hg : t.gal = s.gal) (hq : (t.comp n).queue = (s.comp n).queue) (hp : (t.comp n).pos = (s.comp n).pos) :
    t.compSlug n = s.compSlug n := by
  have hcmd := compCmd_of hg hq hp
  rw [State.compSlug, hcmd, ← State.compSlug]

/-- A command rewritten in its place is still the compositor's. -/
theorem compSlug_setCmd {c : Cmd} (hc : s.cmd? (s.comp n).queue (s.comp n).pos = some c) (last : Option (Nat × HostAt)) :
    (s.setCmd { c with hostLast := last }).compSlug n = s.compSlug n := by
  obtain ⟨hq, hp⟩ := cmd?_key hc
  have hset : (s.setCmd { c with hostLast := last }).cmd? (s.comp n).queue (s.comp n).pos = some { c with hostLast := last } := by
    rw [← hq, ← hp] at hc ⊢
    exact setCmd_cmd? (c := { c with hostLast := last }) hc
  have hcomp : (s.setCmd { c with hostLast := last }).comp n = s.comp n := rfl
  simp only [State.compSlug, State.compCmd, hcomp, hset, hc, Option.filter]
  split <;> rfl

/-- The last thing a command's end does is to free its compositor. -/
theorem compEnd_freed (s : State) (n : Nat) : ∃ x : State, s.compEnd n = x.freeComp n := ⟨_, rfl⟩

theorem noteFail_eq (v : Comp) (f : CFail) : ∃ g, v.noteFail f = { v with fail := g } := by
  unfold Comp.noteFail
  split
  · exact ⟨_, rfl⟩
  · split
    · exact ⟨_, rfl⟩
    · exact ⟨v.fail, rfl⟩

namespace State.Updating

theorem of_eq (h : s.Updating n d) (hc : t.cmp = s.cmp) (hs : t.compSlug n = s.compSlug n) : t.Updating n d := by
  obtain ⟨hrow, hst, hsc⟩ := h
  rw [← comp_of_cmp hc] at hrow hst hsc
  exact ⟨hrow, hst, hs ▸ hsc⟩

theorem of_only {ps : List Piece} (h : s.Updating n d) (ho : s.only ps t) (hps : Piece.cmp ∉ ps ∧ Piece.gal ∉ ps := by decide) : t.Updating n d := by
  have hcmp : t.cmp = s.cmp := ho .cmp hps.1
  refine h.of_eq hcmp ?_
  exact compSlug_of (ho .gal hps.2) (by rw [comp_of_cmp hcmp]) (by rw [comp_of_cmp hcmp])

/-- A compositor rewritten with its rows, its record and its command's place kept. -/
theorem setComp (h : s.Updating n d) {w : Comp} (hd : w.dists = (s.comp n).dists) (hst : w.st ≠ .stalled) (hr : w.record = (s.comp n).record)
    (hq : w.queue = (s.comp n).queue) (hp : w.pos = (s.comp n).pos) : (s.setComp n w).Updating n d := by
  have hslug : (s.setComp n w).compSlug n = s.compSlug n :=
    compSlug_of rfl (by rw [comp_setComp_same, hq]) (by rw [comp_setComp_same, hp])
  refine ⟨?_, ?_, ?_⟩
  · rw [comp_setComp_same, hd]
    exact h.row
  · rwa [comp_setComp_same]
  · rw [comp_setComp_same, hr, hslug]
    exact h.scatter

/-- A compositor that is freed keeps its rows, and has no record. -/
theorem freeComp (h : ∃ w ∈ (s.comp n).dists, w.idx = d.idx ∧ w.upd = true ∧ w.got = d.got) : (s.freeComp n).Updating n d := by
  unfold State.freeComp
  refine ⟨?_, ?_, ?_⟩
  · rw [comp_setComp_same]
    exact h
  · rw [comp_setComp_same]
    dsimp only
    split <;> exact nofun
  · rw [comp_setComp_same]
    exact .inl rfl

theorem compEnd (h : s.Updating n d) : (s.compEnd n).Updating n d := by
  have hrow := h.row
  obtain ⟨x, hx⟩ := compEnd_freed s n
  rw [← (compEnd_settles (s := s) (n := n)).dists, hx, (freeComp_settles (s := x)).dists] at hrow
  exact hx ▸ .freeComp hrow

theorem ite {c : Prop} [Decidable c] (ht : t.Updating n d) (hu : u.Updating n d) : (if c then t else u).Updating n d := by
  split <;> assumption

theorem compSettle (h : s.Updating n d) : (s.compSettle n).Updating n d := by
  rw [State.compSettle]
  refine .ite h (.ite (.ite (.freeComp ?_) h) (.ite (.ite h.compEnd h) (.ite h.compEnd (.ite (h.setComp rfl nofun rfl rfl rfl) h))))
  have hpin : State.Settles n s (s.unpin (s.comp n).table (s.comp n).slotB) := .of_only (ps := [.epo]) (State.unpin_only _ _ _ (only_refl _ s))
  rw [(hpin.trans (endCmd_settles _ _ _ _ _ _ _)).dists]
  exact h.row

/-- A bus error at one of the row's writes (R222): the command fails, and the row stays. -/
theorem compError (h : s.Updating n d) {r : Req} {i : Nat} (ho : r.owner = .cmpUpdate n i) : (s.compError n r).Updating n d := by
  unfold State.compError
  dsimp only
  refine .ite h.compSettle ?_
  rw [ho]
  dsimp only
  have hsc : (gScatter (s.compSlug n) || (s.comp n).record.isNone) = true := by
    rcases h.scatter with hnone | hsc
    · simp [hnone]
    · simp [hsc]
  rw [if_pos hsc]
  obtain ⟨g, hg⟩ := noteFail_eq (s.comp n)
    { status := 5, va := if r.phys then 0 else r.va % 2 ^ 57, acc := Acc.code r.acc, pos := s.compPos n r }
  have hset : (s.setComp n { (s.comp n) with fail := g, st := if (s.comp n).st = .stalled then .running else (s.comp n).st }).Updating n d :=
    h.setComp rfl (by dsimp only; rw [if_neg h.st]; exact h.st) rfl rfl rfl
  rw [hg]
  exact (hset.of_only (ps := [.reqs, .orphans, .trn, .flt, .rcd]) (State.dropUnissued_only _ _ (only_refl _ _))).compSettle

theorem bounceAt (h : s.Updating n d) {r : Req} {i : Nat} (ho : r.owner = .cmpUpdate n i) (o : Out) (e : ECode) :
    (s.bounceAt r o e).Updating n d := by
  rw [State.bounceAt]
  unfold State.bounce
  rw [ho]
  exact compError (h.of_only (ps := [.reqs, .orphans, .trn, .flt, .rcd]) (State.withdrawReqs_only _ _ (only_refl _ s))) ho

theorem issuedHook (h : s.Updating n d) {r : Req} {i : Nat} (ho : r.owner = .cmpUpdate n i) (hr : r.replay = none) :
    (s.issuedHook r).Updating n d := by
  rw [issuedHook_of_update ho hr, compUnstall_of_not_stalled h.st]
  exact h

theorem setReq (h : s.Updating n d) (r : Req) : (s.setReq r).Updating n d :=
  h.of_only (ps := [.reqs]) (State.setReq_only _ _ (only_refl _ s))

/-- A command that notes its last host write (R52) is the same command. -/
theorem noteHost (h : s.Updating n d) {r : Req} {i : Nat} (ho : r.owner = .cmpUpdate n i) (a : Nat) (at_ : HostAt) :
    (s.noteHost r a at_).Updating n d := by
  have hslug : (s.noteHost r a at_).compSlug n = s.compSlug n := by
    rw [State.noteHost]
    simp only [ho]
    cases hc : s.cmd? (s.comp n).queue (s.comp n).pos with
    | none => rfl
    | some c => exact compSlug_setCmd hc _
  exact h.of_eq ((State.noteHost_only (ps := [.gal]) _ _ _ _ (only_refl _ s)) Piece.cmp (by decide)) hslug

theorem handOut (h : s.Updating n d) {r : Req} {i : Nat} (ho : r.owner = .cmpUpdate n i) (hw : r.acc = .write) (o : Out) (at_ : Nat) :
    (s.handOut r o at_).Updating n d := by
  unfold State.handOut
  split
  · unfold State.sendHost
    dsimp only
    rw [hw, ho]
    dsimp only
    refine (noteHost ?_ rfl _ _).setReq _
    exact h.of_only (ps := [.out, .lka]) (State.hostWrite_only _ _ _ _ _ _ _ _ (only_refl _ s))
  · exact h.setReq _

theorem tryIssue (h : s.Updating n d) {r : Req} {i : Nat} (ho : r.owner = .cmpUpdate n i) (hw : r.acc = .write) (hr : r.replay = none) (o : Out) :
    (s.tryIssue r o).Updating n d := by
  rw [State.tryIssue]
  refine .ite (h.bounceAt ho _ _) (.ite ?_ (.ite ((h.setReq _).issuedHook ho hr) ?_))
  · simp only [State.replayed, hr]
    exact h.setReq _
  · rw [issueTo_of_update ho]
    refine State.Updating.issuedHook (handOut ?_ ho hw _ _) ho hr
    exact h.of_only (ps := [.prt, .obs]) (State.chargeTo_only _ _ _ (only_refl _ s))

end State.Updating

/-! ### What the writes of a row leave alone -/

/-- The pieces of state that the writes of a row may touch. -/
def rowPieces : List Piece :=
  [.reqs, .orphans, .nextId, .out, .gal, .trn, .flt, .epo, .plt, .cmp, .lka, .ic, .prt, .obs, .rcd]

theorem compUnstall_rowPieces : s.only rowPieces (s.compUnstall n) :=
  (State.compUnstall_only (ps := [.reqs, .nextId, .gal, .epo, .cmp, .lka, .obs, .rcd]) _ _ (only_refl _ s)).of_mem (by decide)

theorem setReq_rowPieces (r : Req) : s.only rowPieces (s.setReq r) :=
  (State.setReq_only (ps := [.reqs]) _ _ (only_refl _ s)).of_mem (by decide)

theorem handOut_rowPieces (r : Req) (o : Out) (at_ : Nat) : s.only rowPieces (s.handOut r o at_) := by
  unfold State.handOut
  split
  · exact (State.sendHost_only (ps := [.reqs, .out, .gal, .lka]) _ _ _ _ (only_refl _ _)).of_mem (by decide)
  · exact setReq_rowPieces _

theorem tryIssue_rowPieces {r : Req} {i : Nat} (ho : r.owner = .cmpUpdate n i) (hr : r.replay = none) (o : Out) :
    s.only rowPieces (s.tryIssue r o) := by
  have hhook : ∀ u : State, u.only rowPieces (u.issuedHook r) := fun u => issuedHook_of_update ho hr ▸ compUnstall_rowPieces
  have hcharge : s.only rowPieces (s.chargeTo r.part (granules (outKind o).2 r.len).length) :=
    (State.chargeTo_only (ps := [.prt, .obs]) _ _ _ (only_refl _ s)).of_mem (by decide)
  rw [State.tryIssue]
  refine only_ite _ ?_ (only_ite _ ?_ (only_ite _ ((setReq_rowPieces _).trans (hhook _)) ?_))
  · exact (State.bounceAt_only (ps := [.reqs, .orphans, .nextId, .out, .gal, .trn, .flt, .epo, .plt, .cmp, .lka, .ic, .obs, .rcd]) _ _ _ _
      (only_refl _ s)).of_mem (by decide)
  · simp only [State.replayed, hr]
    exact setReq_rowPieces _
  · rw [issueTo_of_update ho]
    exact (hcharge.trans (handOut_rowPieces _ _ _)).trans (hhook _)

/-! ### The row is written -/

theorem making_tryIssue {r : Req} {i : Nat} (h : t.Updating n d) (honly : s.only rowPieces t) (ho : r.owner = .cmpUpdate n i) (hw : r.acc = .write)
    (hr : r.replay = none) (o : Out) : ((t.making r).tryIssue r o).Updating n d ∧ s.only rowPieces ((t.making r).tryIssue r o) :=
  ⟨(h.of_only (making_only r)).tryIssue ho hw hr o, (honly.trans ((making_only r).of_mem (by decide))).trans (tryIssue_rowPieces ho hr o)⟩

theorem rowWrites_updating {e : Dist} (h : s.Updating n d) (va : Nat) (new : Bytes) (en : Nat → Bool) :
    (s.rowWrites n e va new en).Updating n d ∧ s.only rowPieces (s.rowWrites n e va new en) := by
  rw [State.rowWrites]
  refine List.foldlRecOn (motive := fun t : State => t.Updating n d ∧ s.only rowPieces t) _ _ ⟨h, only_refl _ s⟩ fun t ht x _ => ?_
  obtain ⟨hup, honly⟩ := ht
  dsimp only
  split
  · exact ⟨hup, honly⟩
  · exact making_tryIssue hup honly rfl rfl rfl _

theorem updating_updating {c : Cmd} {rcd : Bytes} (h : s.composing n c rcd) (hsc : gScatter c.slug = true) (hdue : (s.comp n).rowDue = some d) :
    (s.setComp n ((s.comp n).updating c.slug rcd d)).Updating n d := by
  have hslug : (s.setComp n ((s.comp n).updating c.slug rcd d)).compSlug n = s.compSlug n :=
    compSlug_of rfl (by rw [comp_setComp_same]; rfl) (by rw [comp_setComp_same]; rfl)
  refine ⟨⟨{ d with upd := true }, ?_, rfl, rfl, rfl⟩, ?_, .inr ?_⟩
  · rw [comp_setComp_same]
    exact mem_updating hdue c.slug rcd
  · rw [comp_setComp_same, show ((s.comp n).updating c.slug rcd d).st = .running from composing_running h]
    exact nofun
  · rw [hslug, composing_slug h, hsc]

theorem scatterRowUpdate_write {c : Cmd} {rcd : Bytes} {n : Fin 16} {seg va : Nat} (h : s.composing n.val c rcd)
    (hsc : gScatter c.slug = true) (hdue : (s.comp n.val).rowDue = some d) (hd : d.home rcd = some (seg, va)) {new : Bytes}
    (hstep : (s.comp n.val).rowStep c.slug rcd d seg = some new) :
    ∃ t, exec (.scatterRowUpdate n) s = .next t ∧ (∃ w ∈ (t.comp n.val).dists, w.idx = d.idx ∧ w.upd = true ∧ w.got = d.got) ∧
      s.only rowPieces t := by
  obtain ⟨hup, honly⟩ := rowWrites_updating (e := d) (updating_updating h hsc hdue) va new
    (optWrites (gOpt c.slug) (segFmt rcd seg) (recElem rcd))
  have hset : s.only rowPieces (s.setComp n.val ((s.comp n.val).updating c.slug rcd d)) :=
    (State.setComp_only (ps := [.cmp]) _ _ _ (only_refl _ s)).of_mem (by decide)
  exact ⟨_, (execScatterRowUpdate_of h hsc hdue).trans (by rw [updateRow_write hd hstep]), hup.row, hset.trans honly⟩

end Sys2Proof.Machine
end

section
/-! PROOF. O32, Windows close, and SCATTER rows are updated. -/

namespace Sys2Proof.Machine

open Sys2Proof

set_option Elab.async false

/-- Settles O32: a window that closes is noted and its command goes on (`windowClose_spec`); the row whose turn it is is skipped
(`scatterRowUpdate_skip`) or written (`scatterRowUpdate_dev`, and `scatterRowUpdate_write` whatever comes of the writes). -/
theorem windowsCloseAndRowsAreUpdated : Obligations.WindowsCloseAndRowsAreUpdated :=
  ⟨fun _ _ _ _ h hdone hadm hserve => windowClose_spec h hdone hadm hserve,
    fun _ _ _ _ _ _ _ h hsc hdue hd =>
      ⟨fun hstep => scatterRowUpdate_skip h hsc hdue hd hstep,
        fun _ _ _ hstep houts hen hu hoff hf => scatterRowUpdate_dev h hsc hdue hd hstep houts hen hu hoff hf,
        fun _ hstep => scatterRowUpdate_write h hsc hdue hd hstep⟩⟩

end Sys2Proof.Machine
end
